-- ==== Sys2Proof/Word.lean ====
section
/-! DEFINITION. The word types of the module's registers, descriptors, samples and accumulators. -/

namespace Sys2Proof

/-- One octet. -/
abbrev Byte := BitVec 8
/-- A register, a sample word or a parameter value (R7, R232, R10). -/
abbrev Word := BitVec 32
/-- A tick counter, an address field or a system time value (R12, R10, R107). -/
abbrev DWord := BitVec 64
/-- One accumulator lane (R321). -/
abbrev Acc := BitVec 80
/-- A 64-byte descriptor as one little-endian number: byte i is bits [8i+7:8i] (R86, R107). -/
abbrev Desc := BitVec 512
/-- An X register of a signal core: eight lanes (R292). -/
abbrev Lanes := Vector Word 8
/-- An accumulator register of a signal core: eight lanes (R292). -/
abbrev AccLanes := Vector Acc 8

end Sys2Proof
end

