-- ==== Sys2Proof/Syntax.lean ====
section
/-! DEFINITION. The commands of the block, one constructor of `Instr` for each row of spec/opcode_table.json, and
the data they carry. The table gives its rows no bits; a command that serves a descriptor carries the 64 bytes
of R107, an operation of a signal core carries its slot's bits (R322, R327, R332), an event of the outside world
carries what was measured or received. -/

namespace Sys2Proof

/-- Port A or port B; also path A or path B (00, Terms). -/
inductive Port where
  | a | b
  deriving DecidableEq, Repr

/-- The functions and their IDs (R75, R73, R416, R459). -/
inductive Func where
  | pathA | pathB | streamRx | streamTx | timekeeper | lovage | capture | decim | pdm | tdm0 | tdm1 | service | memctl
  | sc (n : Fin 16)
  | pch (c : Fin 4)
  | sage
  deriving DecidableEq, Repr

/-- The islands that receive tick tokens (the table above R15). -/
inductive Island where
  | lovage
  | sc (n : Fin 16)
  | path (p : Port)
  | mac (p : Port)
  | fwd | timing | memctl | xbar | decim | service | isolink
  deriving DecidableEq, Repr

/-- The producers of vectors (R22). `path` is the assembler of the active path. -/
inductive Producer where
  | path
  | sc (n : Fin 16)
  | dec (c : Fin 40)
  | tdm (x : Fin 2)
  | lovage
  deriving DecidableEq, Repr

/-- The consumers of vectors (R22). -/
inductive Consumer where
  | lovage
  | sc (n : Fin 16)
  | pch (c : Fin 4)
  | tdm (x : Fin 2)
  | capture
  | streamTx
  deriving DecidableEq, Repr

/-- The two page sets of R97. -/
inductive PageSet where
  | host | tarragon
  deriving DecidableEq, Repr

/-- The result of the module's read of host memory: the bytes, or a failure (R106). -/
inductive HostRead where
  | data (bytes : List Byte)
  | failed
  deriving DecidableEq, Repr

/-- How far the core rail falls: stages 2, 3 and 4 of R24. -/
inductive SagDepth where
  | cores | paths | stopped
  deriving DecidableEq, Repr

/-- The move slots: MV1 reaches DX, MV2 reaches DY (R318, R333). -/
inductive MvSlot where
  | mv1 | mv2
  deriving DecidableEq, Repr

/-- The frame check sequence of a received frame: correct, the exact inverse of the correct one (R173), or wrong. -/
inductive Fcs where
  | good | inverted | wrong
  deriving DecidableEq, Repr

/-- The six octets after the source address when a frame carries a ring tag (R175), in network order. -/
structure RingTag where
  tpid : BitVec 16
  origin : BitVec 16
  seq : BitVec 16
  deriving DecidableEq, Repr

/-- One VLAN tag. -/
structure Vlan where
  pcp : BitVec 3
  vid : BitVec 12
  deriving DecidableEq, Repr

/-- The IP layer of a frame as R152 and R127 look at it; an IPv4 address stands in the low 32 bits. -/
structure IpInfo where
  v6 : Bool
  src : BitVec 128
  dst : BitVec 128
  proto : Byte
  fragment : Bool
  udpSrc : BitVec 16
  udpDst : BitVec 16
  dscp : BitVec 6 := 0
  /-- The checksum field of the UDP header (R206, R244). -/
  udpSum : BitVec 16 := 0
  deriving DecidableEq, Repr

/-- The kinds of PTP message a frame of the timing engine carries (R203, R206). -/
inductive PtpKind where
  | none | sync | followUp | delayReq | delayResp | pdelayReq | pdelayResp | pdelayRespFollowUp | announce | other
  deriving DecidableEq, Repr

/-- A frame as a port sees it. `len` counts from the destination address to the FCS (R149). -/
structure Frame where
  dst : BitVec 48
  src : BitVec 48
  len : Nat
  symErr : Bool := false
  /-- Octets received before the symbol error (R172). -/
  errAt : Nat := 0
  fcs : Fcs := .good
  ring : Option RingTag := Option.none
  vlans : List Vlan := []
  etype : BitVec 16
  /-- The opcode field of a MAC control frame. -/
  macOpcode : BitVec 16 := 0
  ip : Option IpInfo := Option.none
  /-- The stream ID of a frame with EtherType 0x22F0. -/
  streamId : DWord := 0
  ptp : PtpKind := .none
  /-- UDP over IPv6: the UDP length exceeds messageLength by at least 2 (R206). -/
  udpTail : Bool := true
  /-- The two octets behind the PTP message that make the UDP checksum correct over IPv6 (R206). -/
  tail : BitVec 16 := 0
  /-- The correctionField of a PTP message, units of 2^-16 ns. -/
  correction : Int := 0
  /-- The receive time-stamp of the request that a Pdelay_Resp answers, quarter nanoseconds (R206). -/
  asked : Int := 0
  /-- What follows the EtherType, the IP header, or of UDP its header. -/
  payload : List Byte := []
  deriving DecidableEq, Repr

/-- A received stream packet (R230, R233, R238). `payload` holds its sample octets as they came, tick by tick, channel by
channel. A header field of another format's packet is not looked at. -/
structure StreamPacket where
  seq : BitVec 16
  /-- AES67: the IP source; an IPv4 address in the low 32 bits. -/
  src : BitVec 128
  /-- RTP timestamp or avtp_timestamp. -/
  stamp : Word
  tv : Bool
  /-- The version field of RTP. -/
  rtpVersion : BitVec 2 := 2
  /-- AAF: the format code, and sparse time-stamp mode. -/
  aafCode : Byte := 2
  sparse : Bool := false
  /-- AM824: FMT of the CIP header. -/
  cipFmt : BitVec 6 := 0x10
  /-- nsr of AAF, SFC of AM824. -/
  rate : BitVec 4
  payload : List Byte
  /-- System time at the arrival of the last octet, ns since the PTP epoch. -/
  arrival : Nat
  deriving DecidableEq, Repr

/-- A Sync as received: times in quarter nanoseconds since the PTP epoch, the correction in the same unit. `t2` is the stamp
inside the PHY, before the constants of R204. -/
structure PtpSync where
  seq : BitVec 16
  domain : Byte
  twoStep : Bool
  t1 : Int
  t2 : Int
  corr : Int
  deriving DecidableEq, Repr

/-- A Pdelay_Resp or its follow-up: the responder's turnaround and the receive stamp t4 inside the
PHY, quarter nanoseconds. -/
structure PtpPdelayResp where
  seq : BitVec 16
  followUp : Bool
  twoStep : Bool
  turnaround : Int
  t4 : Int
  deriving DecidableEq, Repr

/-- An Announce as received (R201). -/
structure PtpAnnounce where
  domain : Byte
  gm : DWord
  priority1 : Byte
  clockClass : Byte
  accuracy : Byte
  variance : BitVec 16
  priority2 : Byte
  steps : BitVec 16
  deriving DecidableEq, Repr

/-- The pattern of switch currents before a short's turn-off (R392). -/
inductive ShortPattern where
  | outToOut | aHighOnly | bHighOnly | aLowOnly | bLowOnly | other
  deriving DecidableEq, Repr

/-- The temperature sensors of R397. -/
inductive TempSource where
  | die (c : Fin 4)
  | baseplate
  | logic
  deriving DecidableEq, Repr

/-- The service classes of R419. -/
inductive SvcClass where
  | rt0 | rt1 | bulk | bg
  deriving DecidableEq, Repr

/-- What the DRAM code finds in a word (R421, R431). -/
inductive DramError where
  | none | correctable | uncorrectable
  deriving DecidableEq, Repr

/-- A crossbar request (R416-R418): a read of `len` bytes or a write of bytes at a 40-bit module address. -/
structure XbarReq where
  id : BitVec 6
  cls : SvcClass
  addr : BitVec 40
  len : Nat
  write : Option (List Byte)
  /-- What the DRAM code finds in the data read. -/
  err : DramError := .none
  /-- Issued by the module's own firmware (R437). -/
  firmware : Bool := false
  /-- M0 to M3: the core of the group whose request it is (R288, R420). -/
  unit : Fin 4 := 0
  deriving DecidableEq, Repr

/-- The operands of an atomic operation (R435): 4 or 8 bytes at an address. For CAS, `operand` is the compare value. -/
structure AtomicArg where
  addr : BitVec 40
  wide : Bool
  operand : DWord
  deriving DecidableEq, Repr


/-- The commands of the block: one constructor for each row of the table, in the table's order. -/
inductive Instr where
  /-- LINE_POWER_UP (R62). The PD interface of either port reaches the turn-on voltage and the logic side starts its power-up sequence. -/
  | linePowerUp (port : Port) (strap : BitVec 2)
  /-- DRAM_TRAINED (R62). DRAM training completes, MEMCTL enters RUNNING and STAGE becomes 0x4. -/
  | dramTrained
  /-- BOOT_COMPLETE (R62). Autostart ends, or there is none, and STAGE becomes 0x6. -/
  | bootComplete
  /-- CORE_RAIL_SAG (R23). The supply no longer covers the draw, so the core rail falls and the ring-oscillator islands slow. -/
  | coreRailSag (depth : SagDepth)
  /-- CLOCKED_RAIL_FALL (R458). The clocked rail falls below what the PHYs, forwarding and isolation link need (stage 5). -/
  | clockedRailFall
  /-- CLOCKED_RAIL_RETURN (R458). Power returns after stage 5 without reaching stage 6, and ports, forwarding and the link resume. -/
  | clockedRailReturn
  /-- PD_TURN_OFF (R24). The PD input falls below the turn-off voltage, the PD disconnects and all logic rails collapse. -/
  | pdTurnOff
  /-- PORT_POWER_LOSS (R43). The port carrying the load loses power and the other port takes the load within 2 µs. -/
  | portPowerLoss (port : Port)
  /-- PD_CLASSIFICATION (R146). The class events seen at power-on of a port are counted and the granted class is reported. -/
  | pdClassification (port : Port) (events : BitVec 3) (pairsets : BitVec 2)
  /-- PD_VIN_UPDATE (R147). NETx_PD.VIN is updated every 10 ms. -/
  | pdVinUpdate (port : Port) (vin : BitVec 12)
  /-- VAUX_SHORT (R45). A short on VAUX is limited without affecting any other rail. -/
  | vauxShort (shorted : Bool)
  /-- VBUS_CONNECT (R46). VBUS is connected and the inlet charges the internal capacitance at limited current, after which the side sleeps. -/
  | vbusConnect (v : BitVec 16)
  /-- VBUS_LOSS (R85). VBUS is lost and the high-voltage side stops sending tokens. -/
  | vbusLoss
  /-- VBUS_REVERSED (R47). A reversed VBUS is blocked by the inlet stage. -/
  | vbusReversed (v : BitVec 16)
  /-- VBUS_OVERVOLTAGE (R48). VBUS crosses 190 V and every switching channel shorts its load with the low-side switches. -/
  | vbusOvervoltage (v : BitVec 16)
  /-- OV_SHORT_RELEASE (R48). Output current falls below 1 A or 200 µs pass, all switches open and the channel enters FAULTED. -/
  | ovShortRelease (c : Fin 4)
  /-- HV_TOKEN_TIMEOUT (R25). The high-voltage side receives no token for 2 µs and every running channel performs the link-loss stop. -/
  | hvTokenTimeout
  /-- HV_LOST (R85). The logic side receives no token from the high-voltage side for 2 µs and PCH0–PCH3 and SAGE enter FAULTED. -/
  | hvLost
  /-- HV_AWAKE (R65). The high-voltage side is up and the isolation link carries tokens both ways. -/
  | hvAwake
  /-- HV_WAKE_TIMEOUT (R66). The high-voltage side is not awake 20 ms after a wake request and the descriptor completes with TIMEOUT. -/
  | hvWakeTimeout
  /-- HV_SLEEP (R67). The high-voltage side returns to sleep 100 ms after the last of PCH0–PCH3 and SAGE entered OFF. -/
  | hvSleep
  /-- PERST_N_ASSERT (R82). PERST_N resets the PCIe endpoint and the host ring state only. -/
  | perstNAssert
  /-- PERST_N_RELEASE (R62). PERST_N rises and PCIe link training begins. -/
  | perstNRelease
  /-- PCIE_LINK_TRAINED (R124). The PCIe link trains and PCIE_STATUS follows the link from then on. -/
  | pcieLinkTrained (speed : BitVec 3) (width : BitVec 4)
  /-- BME_CHANGE (R123). The host changes bus master enable and the module stops or resumes issuing requests to the host. -/
  | bmeChange (on : Bool)
  /-- SOFT_RESET (R83). A write of 0xD041 to GLOBAL_SOFT_RESET requests a module reset. -/
  | softReset (v : Word)
  /-- JTAG_RESET (R83). A reset through the test access port requests a module reset. -/
  | jtagReset
  /-- NOARD_RESET_ACCEPT (R83). A RESET_REQ write is accepted as a module reset once its completion record, and any Noard reply, has left. -/
  | noardResetAccept
  /-- RESET_STOP_TIMEOUT (R83). At 200 ms of a module reset, still-ramping channels take the fast stop and other stopping functions are ended. -/
  | resetStopTimeout
  /-- RESET_ISLANDS (R83). Once all functions are stopped, DRAM enters self-refresh, processing islands are reset and boot reruns from t = 35 ms. -/
  | resetIslands (strap : BitVec 2)
  /-- RESET_CAUSE_CLEAR (R73). A W1C write clears bits of GLOBAL_RESET_CAUSE. -/
  | resetCauseClear (v : Word)
  /-- SVC_WATCHDOG_RESTART (R81). The service-island watchdog expires and restarts the service island, aborting taken descriptors. -/
  | svcWatchdogRestart
  /-- TICK_BOUNDARY (R11). The timing island reaches a tick boundary, advances the tick counter and sends the tick token to every island. -/
  | tickBoundary
  /-- TICK_TOKEN (R12). An island receives a tick token, increments its counter copy and compares it with the token. -/
  | tickToken (isl : Island) (idx : BitVec 16) (parityOk : Bool) (streams : List (List Bool))
  /-- PARAM_WRITE_EFFECT (R14). A parameter write takes effect at the first boundary whose token reaches the island after the write. -/
  | paramWriteEffect (f : Func)
  /-- VECTOR_HANDOFF (R15). A producer places a vector in its consumer's FIFO, pausing while the FIFO is full. -/
  | vectorHandoff (p : Producer) (k : Consumer)
  /-- VECTOR_MISSED (R17). A vector is not in the consumer's FIFO when its deadline token arrives, and the miss is counted. -/
  | vectorMissed (p : Producer) (k : Consumer)
  /-- FADE_COMPLETE (R18). A fade or ramp of R18 or R19 reaches the end of its fade time. -/
  | fadeComplete (p : Producer) (k : Consumer)
  /-- FUNC_CONFIG (R78). Descriptor that reads, validates and applies a configuration block, powering the function from OFF first. -/
  | funcConfig (q : Fin 32) (d : Desc) (h : HostRead)
  /-- FUNC_START (R75). Descriptor that starts a function from STOPPED or FAULTED. -/
  | funcStart (q : Fin 32) (d : Desc)
  /-- FUNC_STOP (R75). Descriptor that stops a function, or with OFF moves it to OFF. -/
  | funcStop (q : Fin 32) (d : Desc)
  /-- FUNC_QUERY (R118). Descriptor that writes the life-cycle record of a function. -/
  | funcQuery (q : Fin 32) (d : Desc)
  /-- START_EFFECT (R76). A FUNC_START takes effect at a tick boundary and the function's start sequence begins. -/
  | startEffect (f : Func)
  /-- STOP_EFFECT (R76). A FUNC_STOP takes effect at a tick boundary and the function's outputs fade. -/
  | stopEffect (f : Func)
  /-- START_SEQUENCE_COMPLETE (R77). The function delivers its first on-time vector and enters RUNNING. -/
  | startSequenceComplete (f : Func)
  /-- STOP_FADE_COMPLETE (R75). The outputs of a stopping function are silent and it enters STOPPED or OFF. -/
  | stopFadeComplete (f : Func)
  /-- START_TIMEOUT (R77). STARTING has not ended within 1 s plus warm-up and ramp, and the function enters FAULTED with cause 0x08. -/
  | startTimeout (f : Func)
  /-- FUNCTION_FAULT (R80). A fault moves its function to FAULTED; its island stops and the fault is logged. -/
  | functionFault (f : Func) (cause : Byte)
  /-- LOG_DROP_REPORT (R451). After an excess of entries, a code 0x0D entry records the number dropped. -/
  | logDropReport
  /-- REGISTER_WRITE (R8). A write to a register field with no behaviour of its own. -/
  | registerWrite (off : BitVec 20) (v : Word)
  /-- BAR0_BAD_ACCESS (R121). A BAR0 access of the wrong size or alignment completes with unsupported request. -/
  | bar0BadAccess (off : BitVec 20) (size : Nat) (write : Bool)
  /-- COUNTER_LO_READ (R162). A read of a counter LO register returns and clears the 48-bit counter and holds its upper bits in HI. -/
  | counterLoRead (off : BitVec 20)
  /-- RING_FETCH_SKIP_READ (R87). A read of RING_FETCH_SKIP returns and clears the skipped-fetch count. -/
  | ringFetchSkipRead
  /-- PCIE_HOSTERR_COUNT_READ (R124). A read of PCIE_HOSTERR_COUNT returns and clears it. -/
  | pcieHosterrCountRead
  /-- SVC_NOARD_COUNT_READ (R139). A read of an SVC_NOARD counter returns and clears it. -/
  | svcNoardCountRead (i : Fin 5)
  /-- TIME_TICK_LO_READ (R229). A read of TIME_TICK_LO captures all 64 bits of the tick counter. -/
  | timeTickLoRead
  /-- STRM_RX_MARGIN_READ (R255). A read of STRM_RX_MARGIN returns both margins and resets them to 0x7FFF. -/
  | strmRxMarginRead (path : Port) (k : Fin 128)
  /-- LOV_PEAK_READ (R287). A read of LOV_PEAK returns it and clears it to the present LOV_ACTIVE. -/
  | lovPeakRead
  /-- LOV_CLIPPED_CLEAR (R287). A W1C write clears saturated-sink bits in LOV_CLIPPED. -/
  | lovClippedClear (w : Fin 64) (v : Word)
  /-- SC_TASK_MAX_READ (R317). A read of SCn_TASK_MAX returns the longest task time and clears it. -/
  | scTaskMaxRead (n : Fin 16)
  /-- MEMC_WORST_RT0_READ (R441). A read of MEMC_WORST_RT0 returns and clears the longest RT0 latency. -/
  | memcWorstRt0Read
  /-- XBAR_PEAK_READ (R442). A read of XBAR_PEAK returns it and clears it to the present outstanding count. -/
  | xbarPeakRead (m : Fin 13)
  /-- XBAR_ERR_COUNT_READ (R442). A read of XBAR_ERR_COUNT returns and clears it. -/
  | xbarErrCountRead
  /-- RING_ENABLE (R89). ENABLE of a ring rises: the counts are zeroed, or the ring enters error on a bad size or page address. -/
  | ringEnable (q : Fin 32) (v : Word)
  /-- RING_DISABLE (R90). ENABLE of a ring falls and the ring drains its taken descriptors. -/
  | ringDisable (q : Fin 32) (v : Word)
  /-- RING_DRAIN_COMPLETE (R90). The last record of a draining ring is written and DRAINING reads 0. -/
  | ringDrainComplete (q : Fin 32)
  /-- DOORBELL_FETCH (R93). At a boundary that is a multiple of the fetch period, the module issues a doorbell read or counts a skip. -/
  | doorbellFetch
  /-- TARRAGON_DOORBELL_FETCH (R97). The Tarragon page set is fetched at every tick boundary. -/
  | tarragonDoorbellFetch
  /-- DOORBELL_READ_COMPLETE (R95). A doorbell read completes and pending counts are computed, putting a ring in error on a bad index. -/
  | doorbellReadComplete (set : PageSet) (h : HostRead)
  /-- DESCRIPTOR_READ_COMPLETE (R95). A descriptor read completes; a failed read puts the ring in error with ERR 0x2. -/
  | descriptorReadComplete (q : Fin 32) (d : Option Desc)
  /-- COMPLETION_RECORD_WRITE (R102). A completion record is written once the completion ring has room. -/
  | completionRecordWrite (q : Fin 32)
  /-- STATUS_PAGE_WRITE (R96). The status page is written once per fetch period after the last record, if a field other than TICK changed. -/
  | statusPageWrite (set : PageSet)
  /-- HOST_READ_FAIL (R106). A read of host memory fails and the address and count are recorded. -/
  | hostReadFail (addr : DWord)
  /-- NOP (R118). Descriptor with no payload that completes with OK. -/
  | nop (q : Fin 32) (d : Desc)
  /-- FENCE (R108). Descriptor that waits for every earlier descriptor of the rings in RING_MASK. -/
  | fence (q : Fin 32) (d : Desc)
  /-- FENCE_COMPLETE (R108). The last descriptor a FENCE waits for completes and the FENCE completes. -/
  | fenceComplete (q : Fin 32)
  /-- PARAM_WRITE (R109). Descriptor that validates up to six parameter writes and applies them all by R14. -/
  | paramWrite (q : Fin 32) (d : Desc)
  /-- PARAM_READ (R109). Descriptor that returns up to six parameter values in force at one boundary. -/
  | paramRead (q : Fin 32) (d : Desc)
  /-- SCHED (R110). Descriptor that checks a scheduled action and holds it in the function's action table. -/
  | sched (q : Fin 32) (d : Desc)
  /-- SCHED_CANCEL (R111). Descriptor that removes a pending action from an action table. -/
  | schedCancel (q : Fin 32) (d : Desc)
  /-- SCHED_ACTION_APPLY (R248). A waiting action falls due at its boundary n_T and is applied before the immediate writes. -/
  | schedActionApply (f : Func) (id : Word)
  /-- LATE_ACTION_APPLY (R249). A late action with APPLY_LATE is applied as an immediate write at a + 1 or a + 2. -/
  | lateActionApply (f : Func) (id : Word)
  /-- COPY (R113). Descriptor that moves data between host and module or within the module. -/
  | copy (q : Fin 32) (d : Desc)
  /-- COPY_COMPLETE (R118). The last byte of a COPY is written and it completes. -/
  | copyComplete (q : Fin 32) (h : HostRead)
  /-- CAPTURE (R112). Descriptor that captures capture taps into a buffer frame by frame. -/
  | capture (q : Fin 32) (d : Desc)
  /-- PLAYBACK (R112). Descriptor that plays frames from a buffer into generators in playback mode. -/
  | playback (q : Fin 32) (d : Desc)
  /-- LOAD_IMAGE (R114). Descriptor that stages, checks and places a signed image. -/
  | loadImage (q : Fin 32) (d : Desc) (h : HostRead)
  /-- IMAGE_PLACED (R311). Placement of an image ends and IMAGE_OK or the inactive copy is updated. -/
  | imagePlaced (q : Fin 32)
  /-- STATS_READ (R115). Descriptor that snapshots, and with CLEAR clears, the counters of a function. -/
  | statsRead (q : Fin 32) (d : Desc)
  /-- LOG_READ (R452). Descriptor that copies fault-log entries from FIRST_SEQ onward. -/
  | logRead (q : Fin 32) (d : Desc)
  /-- TIME_QUERY (R118). Descriptor that writes the tick, system time, lock and pending step of one boundary. -/
  | timeQuery (q : Fin 32) (d : Desc)
  /-- TIME_STEP_ACCEPT (R215). Descriptor that accepts the pending step, applied by slew or by counter load. -/
  | timeStepAccept (q : Fin 32) (d : Desc)
  /-- PATH_SWITCH (R193). Descriptor that asks ILK to make a named path active. -/
  | pathSwitch (q : Fin 32) (d : Desc)
  /-- ROUTE_SET (R116). Descriptor that checks crosspoint entries and applies them all at one boundary. -/
  | routeSet (q : Fin 32) (d : Desc) (h : HostRead)
  /-- ROUTE_READ (R265). Descriptor that returns crosspoint records from one boundary. -/
  | routeRead (q : Fin 32) (d : Desc)
  /-- MEM_RETIRE (R433). Descriptor that retires a physical DRAM rank by migration to the spare. -/
  | memRetire (q : Fin 32) (d : Desc)
  /-- POLARITY_TEST (R408). Descriptor that plays impulses into a channel and judges the sensor response polarity. -/
  | polarityTest (q : Fin 32) (d : Desc)
  /-- LOAD_TEST (R410). Descriptor that measures the DC resistance or impedance sweep of a channel's load. -/
  | loadTest (q : Fin 32) (d : Desc)
  /-- NOARD_REQUEST (R130). A Noard request frame arrives and is checked, accepted and its descriptors placed. -/
  | noardRequest (port : Port) (src : BitVec 48) (vlan : Option Vlan) (pdu : List Byte)
  /-- NOARD_REPLY (R133). All descriptors of a request complete and the final reply is sent. -/
  | noardReply (slot : Fin 4) (counter : DWord)
  /-- REPLY_WAIT_EXPIRY (R133). REPLY_WAIT expires with records outstanding and a partial reply is sent. -/
  | replyWaitExpiry (slot : Fin 4) (counter : DWord)
  /-- NOARD_EVENT_NOTICE (R135). An event notice is sent to the last controller, at most once per 10 ms. -/
  | noardEventNotice
  /-- ARP_REQUEST (R127). Tarragon answers an ARP request for IPV4_ADDR. -/
  | arpRequest (port : Port) (target : Word) (asker : Word) (mac : BitVec 48)
  /-- ICMP_ECHO (R127). Tarragon answers an ICMP echo request within its rate limit. -/
  | icmpEcho (port : Port) (dst : Word) (asker : Word) (mac : BitVec 48) (ident : Word) (payload : List Byte)
  /-- ICMPV6_ECHO (R127). Tarragon answers an ICMPv6 echo request. -/
  | icmpv6Echo (port : Port) (dst : BitVec 128) (asker : BitVec 128) (mac : BitVec 48) (ident : Word) (payload : List Byte)
  /-- NEIGHBOUR_SOLICITATION (R127). Tarragon answers a neighbour solicitation for IPV6_ADDR or its link-local address. -/
  | neighbourSolicitation (port : Port) (target : BitVec 128) (asker : BitVec 128) (mac : BitVec 48)
  /-- IGMP_QUERY (R127). Tarragon answers an IGMPv3 general or group query. -/
  | igmpQuery (port : Port) (group : Word)
  /-- MLD_QUERY (R127). Tarragon answers an MLDv2 query. -/
  | mldQuery (port : Port) (group : BitVec 128)
  /-- IDENTIFY_EXPIRY (R165). The IDENTIFY time runs out and the LEDs return to NETx_LED. -/
  | identifyExpiry
  /-- SVC_KEY_WRITE (R137). SVC_KEY_CMD OP 0x1 writes the selected key from SVC_KEY_DATA while not provisioned. -/
  | svcKeyWrite (v : Word)
  /-- SVC_KEY_REVOKE (R137). SVC_KEY_CMD OP 0x2 permanently revokes the selected key. -/
  | svcKeyRevoke (v : Word)
  /-- SVC_LOCK (R137). Writing 0xD041_0001 to SVC_LOCK sets PROVISIONED forever. -/
  | svcLock (v : Word)
  /-- JTAG_NONCE_READ (R138). The debugger reads a fresh 16-byte challenge nonce. -/
  | jtagNonceRead
  /-- JTAG_CHALLENGE_ANSWER (R138). An answer to the challenge sets JTAG_OPEN, or after three wrong answers starts a 10 s refusal. -/
  | jtagChallengeAnswer (ans : BitVec 128)
  /-- JTAG_LOCKOUT_END (R138). The 10 s challenge refusal ends. -/
  | jtagLockoutEnd
  /-- ANEG_COMPLETE (R141). Auto-negotiation resolves the highest common mode and master or slave. -/
  | anegComplete (port : Port) (partner : BitVec 3) (lpPause : Bool) (partnerMulti : Bool) (seedWins : Bool)
  /-- LINK_UP (R141). A port gains link and raises event bit 7. -/
  | linkUp (port : Port) (mdix swap01 swap23 : Bool) (pol : BitVec 4)
  /-- LINK_DOWN (R145). A port loses link, discards its queued frames and counts LINK_DOWN. -/
  | linkDown (port : Port)
  /-- LINK_ATTEMPT_FAIL (R143). An attempt reaches no link within 3 s of resolution. -/
  | linkAttemptFail (port : Port)
  /-- ANEG_WRITE (R142). A write to NETx_ANEG that changes an advertisement or MS_PREF drops the link and renegotiates. -/
  | anegWrite (port : Port) (v : Word)
  /-- ANEG_RESTART (R142). Writing RESTART drops the link and restarts negotiation. -/
  | anegRestart (port : Port) (v : Word)
  /-- FRAME_RECEIVE (R150). A frame is received and counted in one reception counter. -/
  | frameReceive (port : Port) (f : Frame)
  /-- PAUSE_FRAME (R158). A good pause frame loads, reloads or ends the pause timer when PAUSE_RX_EN is 1. -/
  | pauseFrame (port : Port) (toModule : Bool) (time : BitVec 16)
  /-- PAUSE_EXPIRY (R158). The pause timer expires and transmission resumes. -/
  | pauseExpiry (port : Port)
  /-- FRAME_TRANSMIT (R155). At a frame boundary the port starts the head frame of the highest non-empty queue. -/
  | frameTransmit (port : Port)
  /-- FORWARD_COMMIT (R170). The forwarding engine commits a frame when its EtherType has been received. -/
  | forwardCommit (ingress : Port) (f : Frame)
  /-- FORWARD_EGRESS_START (R171). A committed frame starts on the egress port after octet 64 at its queue rank. -/
  | forwardEgressStart (egress : Port) (residence : Nat)
  /-- RING_CLOSED_TIMEOUT (R178). No own group frame returns on a port for 10 ms and RING_CLOSED clears. -/
  | ringClosedTimeout (port : Port)
  /-- NODE_ID_GRACE_END (R177). One second after NODE_ID changes, frames of the previous ID are no longer stripped. -/
  | nodeIdGraceEnd
  /-- PATH_TOPO_WRITE (R168). A write to PATH_TOPO or PATH_RING applies only while both paths are OFF or STOPPED. -/
  | pathTopoWrite (ringReg : Bool) (v : Word)
  /-- UNSYNC_ILK_CHANGE (R189). At n + F ILK changes and the network sources ramp in. -/
  | unsyncIlkChange
  /-- UNSYNC_END (R189). At n + 2F the unsynchronised switch ends and UNSYNC clears. -/
  | unsyncEnd
  /-- ILK_N_CHANGE (R185). The ILK_N land changes level and passes the deglitch filter. -/
  | ilkNChange (high : Bool)
  /-- ILK_SAMPLE (R185). In external mode ILK_N is sampled 1 µs before each boundary. -/
  | ilkSample
  /-- PTP_SYNC (R201). A Sync message is received and used for an offset measurement. -/
  | ptpSync (port : Port) (m : PtpSync)
  /-- PTP_FOLLOW_UP (R201). A Follow_Up message completes a two-step Sync measurement. -/
  | ptpFollowUp (port : Port) (seq : BitVec 16) (t1 : Int) (corr : Int)
  /-- PTP_DELAY_REQ (R201). A Delay_Req is received by a master port and answered. -/
  | ptpDelayReq (port : Port) (seq : BitVec 16) (requester : BitVec 80) (t4 : Int)
  /-- PTP_DELAY_RESP (R201). A Delay_Resp completes a path-delay measurement. -/
  | ptpDelayResp (port : Port) (seq : BitVec 16) (t4 : Int) (corr : Int)
  /-- PTP_PDELAY_REQ (R201). A Pdelay_Req is received and answered with Pdelay_Resp. -/
  | ptpPdelayReq (port : Port) (seq : BitVec 16) (requester : BitVec 80) (t2 : Int)
  /-- PTP_PDELAY_RESP (R201). A Pdelay_Resp or its Follow_Up completes a link-delay measurement. -/
  | ptpPdelayResp (port : Port) (m : PtpPdelayResp)
  /-- PTP_ANNOUNCE (R201). An Announce is received and the best master clock algorithm runs. -/
  | ptpAnnounce (port : Port) (m : PtpAnnounce)
  /-- SERVO_UPDATE (R207). The servo updates on a measurement of an external reference every 8th tick. -/
  | servoUpdate (meas : Int)
  /-- ANNOUNCE_TIMEOUT (R216). The announce receipt timeout expires on a port. -/
  | announceTimeout (port : Port)
  /-- PTP_SYNC_SEND (R201). A master port sends Sync at its interval. -/
  | ptpSyncSend (port : Port)
  /-- PTP_ANNOUNCE_SEND (R201). A master port sends Announce at its interval. -/
  | ptpAnnounceSend (port : Port)
  /-- PTP_DELAY_REQ_SEND (R201). A port sends Delay_Req or Pdelay_Req at its interval. -/
  | ptpDelayReqSend (port : Port) (t3 : Int)
  /-- LOCK_TIMER (R208). The offset has stayed within or outside its bound for 1 s and LOCK changes. -/
  | lockTimer
  /-- REF_QUAL_UPDATE (R216). Every 100 ms each reference's frequency is updated and its qualification and drift judged. -/
  | refQualUpdate (freqs : List Int) (phases : List Int)
  /-- SLEW_COMPLETE (R218). The slew remainder reaches 0 and the servo enters ACQUIRE. -/
  | slewComplete
  /-- OSC_MODEL_SAVE (R221). The learned oscillator model is written to the parameter store hourly. -/
  | oscModelSave
  /-- WCIN_EDGE (R225). A rising edge on WCIN is accepted and its phase measured, or disregarded as a glitch. -/
  | wcinEdge (sinceLast : Nat) (high : Nat) (phase : Int)
  /-- WCIN_LOSS (R225). No rising edge for 4/Fs makes WCIN not present. -/
  | wcinLoss
  /-- TIME_CTRL_WRITE (R198). A write to TIME_CTRL applies FS and HOLDOVER only while TIMEKEEPER is OFF or STOPPED. -/
  | timeCtrlWrite (v : Word)
  /-- STREAM_PACKET_RECEIVE (R238). A stream packet is stamped, judged by margin and stored by tick index. -/
  | streamPacketReceive (path : Port) (k : Fin 128) (pkt : StreamPacket)
  /-- STREAM_PACKET_LAUNCH (R246). A transmit packet enters its port queues at its launch time. -/
  | streamPacketLaunch (k : Fin 64)
  /-- CROSSPOINT_RAMP_END (R267). A crosspoint ramp reaches its target and a crosspoint at 0 becomes inactive. -/
  | crosspointRampEnd (src snk : BitVec 11)
  /-- GENERATOR_SETTING_APPLY (R278). 64 ticks after the latest write the new settings take effect and the output rises. -/
  | generatorSettingApply (g : Fin 16)
  /-- PLAYBACK_FRAME_READ (R112). A playback frame read from its buffer completes ahead of its tick. -/
  | playbackFrameRead (q : Fin 32) (tag : BitVec 16) (h : HostRead)
  /-- TASK_RELEASE (R302). A core's task is released at the block boundary with parameters delivered. -/
  | taskRelease (n : Fin 16)
  /-- TASK_DEADLINE_MISS (R306). A task has not executed END at its deadline and OVERRUN is counted. -/
  | taskDeadlineMiss (n : Fin 16)
  /-- TASK_TIMEOUT (R306). A task still running at (b + 4)B traps with cause TIMEOUT. -/
  | taskTimeout (n : Fin 16)
  /-- INTERRUPT_TAKEN (R307). An enabled pending interrupt is taken at a bundle boundary in the shadow bank. -/
  | interruptTaken (n : Fin 16)
  /-- TRAP_TAKEN (R308). A trap is taken by TRAP_ENTRY or moves the core to FAULTED. -/
  | trapTaken (n : Fin 16) (cause : BitVec 4)
  /-- RESULT_LAND (R297). An issued operation's result lands in its register after its latency. -/
  | resultLand (n : Fin 16)
  /-- XF_DONE (R309). A transfer completes, sets DONE or ERR and may trap or interrupt. -/
  | xfDone (n : Fin 16) (c : Fin 4) (status : BitVec 4)
  /-- WAITXF_RESUME (R336). Every selected transfer shows DONE and a paused WAITXF resumes. -/
  | waitxfResume (n : Fin 16)
  /-- LOOP_EXIT (R337). A loop completes its N + S − 1 passes and continues after END. -/
  | loopExit (n : Fin 16)
  /-- SC_DOORBELL (R317). A write to SCn_DOORBELL sets DBELL and the DOORBELL pending bit. -/
  | scDoorbell (n : Fin 16) (v : Word)
  /-- LOAD_PORT_ACCESS (R291). A master accesses a core's local memories through T9. -/
  | loadPortAccess (master : Fin 13) (n : Fin 16) (addr : BitVec 20) (write : Option (List Byte)) (len : Nat)
  /-- MNOP (R323). MAC-slot no-operation. -/
  | mnop (n : Fin 16) (w : BitVec 40)
  /-- MPY (R323). AD receives XA × XB'. -/
  | mpy (n : Fin 16) (w : BitVec 40)
  /-- MAC (R323). AD receives AD + XA × XB'. -/
  | macOp (n : Fin 16) (w : BitVec 40)
  /-- MSU (R323). AD receives AD − XA × XB'. -/
  | msu (n : Fin 16) (w : BitVec 40)
  /-- MPYA (R323). AD receives AS + XA × XB'. -/
  | mpya (n : Fin 16) (w : BitVec 40)
  /-- AADD (R323). AD receives AD + AS. -/
  | aadd (n : Fin 16) (w : BitVec 40)
  /-- ASUB (R323). AD receives AD − AS. -/
  | asub (n : Fin 16) (w : BitVec 40)
  /-- AMOV (R323). AD receives AS. -/
  | amov (n : Fin 16) (w : BitVec 40)
  /-- ACLR (R323). AD receives 0. -/
  | aclr (n : Fin 16) (w : BitVec 40)
  /-- ALD (R323). AD receives XA × 2^31. -/
  | ald (n : Fin 16) (w : BitVec 40)
  /-- ALU_NOP (R328). ALU-slot no-operation. -/
  | aluNop (n : Fin 16) (w : BitVec 32)
  /-- ADD (R328). Wrapping lane-wise addition. -/
  | addOp (n : Fin 16) (w : BitVec 32)
  /-- ADDS (R328). Saturating lane-wise addition. -/
  | adds (n : Fin 16) (w : BitVec 32)
  /-- SUB (R328). Wrapping lane-wise subtraction. -/
  | subOp (n : Fin 16) (w : BitVec 32)
  /-- SUBS (R328). Saturating lane-wise subtraction. -/
  | subs (n : Fin 16) (w : BitVec 32)
  /-- AND (R328). Bitwise AND. -/
  | andOp (n : Fin 16) (w : BitVec 32)
  /-- OR (R328). Bitwise OR. -/
  | orOp (n : Fin 16) (w : BitVec 32)
  /-- XOR (R328). Bitwise exclusive-or. -/
  | xorOp (n : Fin 16) (w : BitVec 32)
  /-- SHL (R328). Shift left with zero fill, wrapping. -/
  | shl (n : Fin 16) (w : BitVec 32)
  /-- SHRA (R328). Arithmetic shift right. -/
  | shra (n : Fin 16) (w : BitVec 32)
  /-- SHRL (R328). Logical shift right. -/
  | shrl (n : Fin 16) (w : BitVec 32)
  /-- SHLS (R328). Saturating shift left. -/
  | shls (n : Fin 16) (w : BitVec 32)
  /-- MIN (R328). Signed lane-wise minimum. -/
  | minOp (n : Fin 16) (w : BitVec 32)
  /-- MAX (R328). Signed lane-wise maximum. -/
  | maxOp (n : Fin 16) (w : BitVec 32)
  /-- ABS (R328). Saturating absolute value. -/
  | absOp (n : Fin 16) (w : BitVec 32)
  /-- NEG (R328). Saturating negation. -/
  | negOp (n : Fin 16) (w : BitVec 32)
  /-- MOV (R328). Copy of XS1. -/
  | movOp (n : Fin 16) (w : BitVec 32)
  /-- BCAST (R328). One lane of XS1 copied to every lane. -/
  | bcast (n : Fin 16) (w : BitVec 32)
  /-- LDIL (R328). Sign-extended 18-bit immediate in every lane. -/
  | ldil (n : Fin 16) (w : BitVec 32)
  /-- LDIH (R328). Bits [31:18] of every lane replaced by a 14-bit immediate. -/
  | ldih (n : Fin 16) (w : BitVec 32)
  /-- CMPLT (R328). Signed less-than compare giving −1 or 0. -/
  | cmplt (n : Fin 16) (w : BitVec 32)
  /-- CMPEQ (R328). Equality compare giving −1 or 0. -/
  | cmpeq (n : Fin 16) (w : BitVec 32)
  /-- EXT (R329). Extracts an accumulator to samples with shift SH, rounding and saturation. -/
  | ext (n : Fin 16) (w : BitVec 32)
  /-- EXTE (R329). Extracts an accumulator with the block exponent E. -/
  | exte (n : Fin 16) (w : BitVec 32)
  /-- EXPA (R330). Writes the largest non-saturating shift of each accumulator lane. -/
  | expa (n : Fin 16) (w : BitVec 32)
  /-- SETE (R328). Sets E from lane 0, clamped. -/
  | sete (n : Fin 16) (w : BitVec 32)
  /-- MINE (R328). Folds the lanes into E by minimum. -/
  | mine (n : Fin 16) (w : BitVec 32)
  /-- GETE (R328). Reads E into every lane. -/
  | gete (n : Fin 16) (w : BitVec 32)
  /-- SINIT (R331). Initialises the search best value and index. -/
  | sinit (n : Fin 16) (w : BitVec 32)
  /-- SMAX (R331). Search for the maximum with index. -/
  | smax (n : Fin 16) (w : BitVec 32)
  /-- SMIN (R331). Search for the minimum with index. -/
  | smin (n : Fin 16) (w : BitVec 32)
  /-- SMAXA (R331). Search for the maximum magnitude with index. -/
  | smaxa (n : Fin 16) (w : BitVec 32)
  /-- GETBV (R331). Reads BV into every lane. -/
  | getbv (n : Fin 16) (w : BitVec 32)
  /-- GETBI (R331). Reads BI into every lane. -/
  | getbi (n : Fin 16) (w : BitVec 32)
  /-- GETAOV (R328). Reads AOV into lane 0. -/
  | getaov (n : Fin 16) (w : BitVec 32)
  /-- CLRAOV (R325). Clears the sticky AOV flags. -/
  | clraov (n : Fin 16) (w : BitVec 32)
  /-- BR (R335). Unconditional branch. -/
  | br (n : Fin 16) (w : BitVec 32)
  /-- BZ (R335). Branch when lane 0 is zero. -/
  | bz (n : Fin 16) (w : BitVec 32)
  /-- BNZ (R335). Branch when lane 0 is not zero. -/
  | bnz (n : Fin 16) (w : BitVec 32)
  /-- BNEG (R335). Branch when lane 0 is negative. -/
  | bneg (n : Fin 16) (w : BitVec 32)
  /-- LOOPI (R337). Starts a loop with an immediate count. -/
  | loopi (n : Fin 16) (w : BitVec 32)
  /-- LOOPR (R337). Starts a loop with a count from a register. -/
  | loopr (n : Fin 16) (w : BitVec 32)
  /-- WAITXF (R336). Pauses the core until the selected transfers are done. -/
  | waitxf (n : Fin 16) (w : BitVec 32)
  /-- END (R336). Ends INIT, the task or a handler and hands over the output block. -/
  | endTask (n : Fin 16) (w : BitVec 32)
  /-- RTI (R336). Leaves a handler and resumes at the interrupted bundle. -/
  | rti (n : Fin 16) (w : BitVec 32)
  /-- RTIJ (R336). Leaves a handler and resumes in the main bank at TARGET. -/
  | rtij (n : Fin 16) (w : BitVec 32)
  /-- TRAP (R336). Software trap with cause 0x7. -/
  | trapOp (n : Fin 16) (w : BitVec 32)
  /-- MVNOP (R333). Move-slot no-operation. -/
  | mvnop (n : Fin 16) (slot : MvSlot) (w : BitVec 28)
  /-- LDV (R333). Loads eight words into a register. -/
  | ldv (n : Fin 16) (slot : MvSlot) (w : BitVec 28)
  /-- LDB (R333). Loads one word into every lane. -/
  | ldb (n : Fin 16) (slot : MvSlot) (w : BitVec 28)
  /-- STV (R333). Stores eight lanes to memory. -/
  | stv (n : Fin 16) (slot : MvSlot) (w : BitVec 28)
  /-- STS (R333). Stores lane 0 to memory. -/
  | sts (n : Fin 16) (slot : MvSlot) (w : BitVec 28)
  /-- LDAL (R333). Loads accumulator bits [31:0]. -/
  | ldal (n : Fin 16) (slot : MvSlot) (w : BitVec 28)
  /-- LDAM (R333). Loads accumulator bits [63:32]. -/
  | ldam (n : Fin 16) (slot : MvSlot) (w : BitVec 28)
  /-- LDAH (R333). Loads accumulator bits [79:64]. -/
  | ldah (n : Fin 16) (slot : MvSlot) (w : BitVec 28)
  /-- STAL (R333). Stores accumulator bits [31:0]. -/
  | stal (n : Fin 16) (slot : MvSlot) (w : BitVec 28)
  /-- STAM (R333). Stores accumulator bits [63:32]. -/
  | stam (n : Fin 16) (slot : MvSlot) (w : BitVec 28)
  /-- STAH (R333). Stores accumulator bits [79:64] sign-extended. -/
  | stah (n : Fin 16) (slot : MvSlot) (w : BitVec 28)
  /-- MODP (R333). Post-modifies a pointer without access. -/
  | modp (n : Fin 16) (slot : MvSlot) (w : BitVec 28)
  /-- MVAR (R333). Writes an ASEL register from lane 0. -/
  | mvar (n : Fin 16) (slot : MvSlot) (w : BitVec 28)
  /-- MVRA (R333). Reads an ASEL register into lane 0. -/
  | mvra (n : Fin 16) (slot : MvSlot) (w : BitVec 28)
  /-- LIA (R333). Loads an immediate into an ASEL register. -/
  | lia (n : Fin 16) (slot : MvSlot) (w : BitVec 28)
  /-- PDM_WARMUP_END (R342). The PDM warm-up ends, PDM enters RUNNING and its channels are reset. -/
  | pdmWarmupEnd
  /-- PDM_CLOCK_STOP (R343). After the stop fade, each clock completes its period and stops low. -/
  | pdmClockStop
  /-- DEC_STUCK (R344). A bit stream holds one level for 4096 bits and the channel fades. -/
  | decStuck (c : Fin 40)
  /-- DEC_STUCK_RECOVER (R344). A bit of the other level arrives and the channel alone is reset. -/
  | decStuckRecover (c : Fin 40)
  /-- DSYNC_EDGE (R351). A rising edge on DSYNC is accepted or ignored. -/
  | dsyncEdge (lowNs highNs : Nat)
  /-- DSYNC_RESET (R351). At the first boundary 2 µs after an accepted edge all decimator channels reset. -/
  | dsyncReset
  /-- DEC_SETTLE_END (R350). A channel has delivered its S settling zeros and rises or goes live. -/
  | decSettleEnd (c : Fin 40)
  /-- TDM_FRAME (R354). A TDM frame is sent and received for its tick. -/
  | tdmFrame (x : Fin 2) (bck : Nat) (edges : Nat) (ratePpm : Int) (slots : List Word)
  /-- TDM_LOSS (R357). No frame-start edge for 2/Fs puts a slave port in loss. -/
  | tdmLoss (x : Fin 2)
  /-- PCH_FSW_CTRL_WRITE (R374). A write to PCH_FSW_CTRL or PCH_BAND is ignored while any channel switches. -/
  | pchFswCtrlWrite (off : BitVec 5) (v : Word)
  /-- PCH_SWITCHING_BEGIN (R377). 1 ms after the low sides close, switching begins with the common-mode ramp. -/
  | pchSwitchingBegin (c : Fin 4)
  /-- PCH_ENTER_RUNNING (R377). At the first boundary after the ramp the modulator takes vectors and the channel runs. -/
  | pchEnterRunning (c : Fin 4)
  /-- PCH_CM_RAMP_DOWN (R378). After the stop fade the duties fall by the common-mode law. -/
  | pchCmRampDown (c : Fin 4)
  /-- PCH_LOW_SIDE_CLOSED (R378). The duties reach 0 and the low-side switches close. -/
  | pchLowSideClosed (c : Fin 4)
  /-- PCH_SWITCHES_OPEN (R378). 100 µs later all switches open and the stop completes. -/
  | pchSwitchesOpen (c : Fin 4)
  /-- FAST_STOP_END (R379). The fast stop opens all switches and the channel reports FAULTED with cause 0x04. -/
  | fastStopEnd (c : Fin 4)
  /-- CHIVE_SETTING_APPLY (R384). 64 ticks later the new Chive setting takes effect and r rises. -/
  | chiveSettingApply (c : Fin 4)
  /-- CHIVE_CUT (R384). 128 equal bits or no edge for 1 µs cut r to 0 at once. -/
  | chiveCut (c : Fin 4)
  /-- CHIVE_RESTORE (R384). A bit of the other level arrives and r rises over 64 ticks. -/
  | chiveRestore (c : Fin 4)
  /-- CURRENT_LIMIT (R391). A switch current reaches 60 A and the switch opens for the rest of the half-period. -/
  | currentLimit (c : Fin 4)
  /-- SHORT_DETECT (R392). A switch current reaches 85 A or desaturates and all four switches open. -/
  | shortDetect (c : Fin 4) (pattern : ShortPattern)
  /-- OVERLOAD (R391). Current limit in 64 consecutive periods is handled as a short. -/
  | overload (c : Fin 4)
  /-- DC_FAULT (R391). DC at the output for 200 ms stops the channel into FAULTED. -/
  | dcFault (c : Fin 4)
  /-- OPEN_LOAD (R391). An open load persisting 500 ms is flagged and acted on by IMP_ACTION. -/
  | openLoad (c : Fin 4)
  /-- IMPEDANCE_WINDOW (R391). The impedance lies outside its window in 4 consecutive windows. -/
  | impedanceWindow (c : Fin 4) (z : Word)
  /-- DIE_TEMP_EVENT (R397). A stage die reaches 140 °C (warning) or 150 °C (stop). -/
  | dieTempEvent (c : Fin 4) (temp : Int)
  /-- BASEPLATE_TEMP_EVENT (R397). The baseplate reaches 90 °C (warning) or 102 °C (stop of every channel). -/
  | baseplateTempEvent (temp : Int)
  /-- LOGIC_DIE_TEMP_WARNING (R397). The logic die reaches 105 °C and raises event bit 13. -/
  | logicDieTempWarning
  /-- TEMP_WARNING_CLEAR (R397). A temperature warning clears after 10 s below its clearing level. -/
  | tempWarningClear (src : TempSource)
  /-- RETRY_WAIT_EXPIRY (R393). RETRY_TIME after a short the low-side switches close for 100 µs. -/
  | retryWaitExpiry (c : Fin 4)
  /-- PROBE (R393). The probe pulses run and pass into a restart or fail into another retry wait. -/
  | probe (c : Fin 4) (passed : Bool)
  /-- RETRY_CLEAR (R394). RETRY returns to 0 after RETRY_CLEAR of clean running. -/
  | retryClear (c : Fin 4)
  /-- SAGE_UPDATE (R404). Every 16 ticks Sage advances the coil model and updates G_sage. -/
  | sageUpdate (c : Fin 4) (i2 p : Nat)
  /-- SAGE_WINDOW (R402). A resistance estimate window ends and a valid one fuses T_meas into T_c. -/
  | sageWindow (c : Fin 4) (r : Nat) (valid : Bool)
  /-- SAGE_STATE_SAVE (R407). Sage writes T_c and T_m to the parameter store every 10 s and at stops. -/
  | sageStateSave
  /-- POLARITY_IMPULSE (R408). An impulse is played and its 20 ms response window judged. -/
  | polarityImpulse (c : Fin 4) (sign : BitVec 8) (delay : BitVec 24)
  /-- POLARITY_RESULT (R409). The polarity result record is written and the programme rises. -/
  | polarityResult (c : Fin 4)
  /-- LOAD_TEST_RESULT (R410). The load measurement ends, the record is written and the programme ramps in. -/
  | loadTestResult (c : Fin 4) (rec : List Byte)
  /-- XBAR_REQUEST (R416). A master issues a request to the crossbar, refused at once if unreachable. -/
  | xbarRequest (m : Fin 13) (r : XbarReq)
  /-- BURST_GRANT (R418). A target port ending a burst grants the highest-priority waiting master. -/
  | burstGrant (t : Fin 10)
  /-- MASTER_RESET_DRAIN (R420). A resetting master's outstanding transactions reach 0 and DRAINING clears. -/
  | masterResetDrain (m : Fin 13)
  /-- SWAP (R435). Atomic swap on a shared-SRAM word. -/
  | swap (m : Fin 13) (a : AtomicArg)
  /-- FETCH_ADD (R435). Atomic fetch-and-add on a shared-SRAM word. -/
  | fetchAdd (m : Fin 13) (a : AtomicArg)
  /-- FETCH_AND (R435). Atomic fetch-and-AND on a shared-SRAM word. -/
  | fetchAnd (m : Fin 13) (a : AtomicArg)
  /-- FETCH_OR (R435). Atomic fetch-and-OR on a shared-SRAM word. -/
  | fetchOr (m : Fin 13) (a : AtomicArg)
  /-- CAS (R435). Atomic compare-and-swap on a shared-SRAM word. -/
  | cas (m : Fin 13) (a : AtomicArg) (new : DWord)
  /-- DRAM_REFRESH (R427). A rank's refresh falls due and is issued, postponed or forced. -/
  | dramRefresh (rank : Fin 4) (burst waiting : Bool)
  /-- SELF_REFRESH_ENTRY (R428). A rank idle for SR_IDLE enters self-refresh. -/
  | selfRefreshEntry (rank : Fin 4)
  /-- PATROL_SCRUB (R421). The patrol scrub reads and corrects DRAM words in class BG. -/
  | patrolScrub (rank : Fin 4) (addr : BitVec 31) (err : DramError) (last : Bool)
  /-- PARITY_ALERT (R431). A command/address parity alert retires its rank at once. -/
  | parityAlert (rank : Fin 4) (addr : BitVec 40) (m : Fin 13)
  /-- MIGRATION_MIB_COPY (R432). One MiB is copied from the failing rank to the spare. -/
  | migrationMibCopy (uncorrectable : List (BitVec 20)) (spareFails : Bool)
  /-- RANK_MAP_SWITCH (R432). After 2048 MiB the rank map points to the spare and is persisted. -/
  | rankMapSwitch
  /-- PS_WORD_WRITE (R436). A parameter-store word is written, verified and retried up to 3 times. -/
  | psWordWrite (addr : BitVec 22) (data : DWord) (failures : Nat) (corrected : Bool)
  /-- ELAPSED_SECOND (R453). Each second the live elapsed-time fields are counted. -/
  | elapsedSecond (temp : BitVec 16)
  /-- ELAPSED_RECORD_SAVE (R453). The live elapsed-time copy is written to the record every 10 s and at module reset. -/
  | elapsedRecordSave
  /-- CORE_RAIL_RECOVERY (R24). The supply rises again before stage 5, the core rail returns toward regulation, the islands speed up, stopped processing and service islands resume and misses end. -/
  | coreRailRecovery
  /-- VBUS_OV_CLEAR (R73). VBUS falls back below 190 V and GLOBAL_HV_STATUS.VBUS_OV clears. -/
  | vbusOvClear (v : BitVec 16)
  /-- SYNC_RECEIPT_TIMEOUT (R216). No Sync arrives on a SLAVE port for 3 Sync intervals, so its PTP reference stops being present and is disqualified at once. -/
  | syncReceiptTimeout (port : Port)
  /-- PCIE_LINK_DOWN (R124). The PCIe link leaves L0 and L1 and PCIE_STATUS.LINK_UP, SPEED and WIDTH follow it. -/
  | pcieLinkDown
  /-- D3HOT_TRANSITION (R121). The host moves the endpoint between D0 and D3hot, which stops or resumes fetching while audio functions continue. -/
  | d3hotTransition (d3 : Bool)
  /-- MSIX_MASK_CHANGE (R119). The host writes the MSI-X table or its mask, and unmasking a vector whose pending bit is set sends its message. -/
  | msixMaskChange (masks : Word) (enable : Bool)
  /-- TRANSACTION_RESPONSE (R417). A crossbar response (read data or write acknowledgement) returns to its source, freeing an outstanding slot and letting the waiting operation go on or complete. -/
  | transactionResponse (m : Fin 13) (id : BitVec 6)
  /-- TEMP_STOP_RECOVERY (R397). A stage die falls below 130 °C or the baseplate below 95 °C after a stop, which clears BASE_STOP and lets FUNC_START pass again. -/
  | tempStopRecovery (src : TempSource) (temp : Int)
  /-- OPEN_LOAD_CLEAR (R391). The open-load condition has been absent for 500 ms and the OPEN flag clears. -/
  | openLoadClear (c : Fin 4)
  /-- DRAM_HOT_CHANGE (R427). The DRAM die crosses 85 °C, which sets or clears MEMC_STATUS.HOT and changes tREFI and the row-hammer window. -/
  | dramHotChange (hot : Bool)
  /-- ROW_HAMMER_WINDOW_END (R430). The 64 ms or 32 ms refresh window ends, the activation counts restart and any throttling of a master lifts. -/
  | rowHammerWindowEnd
  /-- PCH_VBUS_UPDATE (R389). Every 1 ms the measured VBUS is written to PCH_VBUS. -/
  | pchVbusUpdate (v : BitVec 16)
  /-- LED_DARK_PERIOD_END (R164). The 30 ms dark period after a frame ends and a jack LED in link-and-activity mode is lit again. -/
  | ledDarkPeriodEnd (port : Port)
  /-- LED_BLINK_TOGGLE (R164). A blinking jack LED (speed blink at 1 Hz or IDENTIFY at 4 Hz) changes between lit and dark. -/
  | ledBlinkToggle (port : Port)
  deriving DecidableEq, Repr

end Sys2Proof
end

