-- ==== Sys2Proof/Config.lean ====
section
/-! DEFINITION. The values the spec leaves open. Each is an opaque constant without a body, so nothing can be
proved of its value: a statement that holds, holds whatever it is. -/

namespace Sys2Proof.Config

/-- A value the spec does not fix, `w` bits wide; the number is the state's `free` counter. DESIGN CHOICE (log 11). -/
opaque freeBits (w : Nat) (n : Nat) : BitVec w

/-- Which neighbour of `num / den` a result takes whose rounding the spec does not fix (true: the upper one). It is a
function of the operands, since R13 lets a vector depend on nothing else. DESIGN CHOICE (log 9). -/
opaque openRound (num : Int) (den : Nat) : Bool

/-- The servo's output frequency (0.001 ppm), and the offset it predicts for the next measurement, after it has taken an
offset: a second-order loop of closed-loop bandwidth `bw` (0.01 Hz) and damping 1, whose discrete law R207 leaves open.
DESIGN CHOICE (log 11). -/
opaque servoFreq (bw : Nat) (offset freq : Int) : Int
opaque servoPredict (bw : Nat) (offset freq : Int) : Int

/-- Octets that a port's receive buffer for its path, or for the timing engine, holds; R154 gives no size. DESIGN CHOICE
(log 11). -/
opaque pathBuffer : Nat
opaque timingBuffer : Nat

/-- Coefficient `i` of FIR stage `stage` of a decimator preset, units of 2^-31: R346 states the filters' responses
and delays, not their coefficients. DESIGN CHOICE (log 11). -/
opaque firCoeff (preset stage i : Nat) : BitVec 32

end Sys2Proof.Config
end

