-- ==== Sys2Proof/Machine/Num.lean ====
section
/-! DEFINITION. Bytes, narrowing, and the fixed-point functions the laws of the spec use.
PRECISION: cosine, powers and roots are evaluated with 96 fractional bits and exact results where the true result is
rational (log 10). Where a rule gives no rounding, the lower or upper neighbour is a free value (log 9). -/

namespace Sys2Proof.Machine

open Sys2Proof

/-- `n` bytes of a number, least significant first (R86). -/
def leBytes : Nat → Nat → List Byte
  | 0, _ => []
  | n + 1, v => BitVec.ofNat 8 v :: leBytes n (v / 256)

/-- The number a little-endian byte string spells (R86). -/
def ofLe : List Byte → Nat
  | [] => 0
  | b :: bs => b.toNat + 256 * ofLe bs

/-- `n` bytes of a number, most significant first. -/
def beBytes (n v : Nat) : List Byte := (leBytes n v).reverse

/-- The number a big-endian byte string spells. -/
def ofBe (l : List Byte) : Nat := ofLe l.reverse

/-- `len` bytes of `l` from offset `off`, as a little-endian number; bytes past the end count as zero. -/
def leAt (l : List Byte) (off len : Nat) : Nat := ofLe ((l.drop off).take len)

/-- The nearest value of a signed `w`-bit word. -/
def satInt (w : Nat) (x : Int) : Int :=
  if x < -(2 ^ (w - 1) : Int) then -(2 ^ (w - 1) : Int)
  else if x > (2 ^ (w - 1) : Int) - 1 then (2 ^ (w - 1) : Int) - 1 else x

/-- Whether an integer does not fit a signed `w`-bit word. -/
def overflows (w : Nat) (x : Int) : Bool := satInt w x != x

/-- A signed integer saturated into a sample word. -/
def satWord (x : Int) : Word := BitVec.ofInt 32 (satInt 32 x)

/-- The low bits of an integer as a word. -/
def wrapWord (x : Int) : Word := BitVec.ofInt 32 x

/-- Rounding to nearest, ties to even, of `x / 2^n`. -/
def roundEven (x : Int) (n : Nat) : Int :=
  let q := x / (2 ^ n : Int)
  let r := x - q * (2 ^ n : Int)
  if 2 * r > (2 ^ n : Int) ∨ (2 * r = (2 ^ n : Int) ∧ q % 2 = 1) then q + 1 else q

/-- Rounding to nearest, ties upward, of `x / 2^n`. -/
def roundHalfUp (x : Int) (n : Nat) : Int :=
  if n = 0 then x else (x + (2 ^ (n - 1) : Int)) / (2 ^ n : Int)

/-- Rounding to nearest, ties to even, of `x / d`, `d` positive. -/
def divEven (x : Int) (d : Nat) : Int :=
  let q := x / (d : Int)
  let r := x - q * (d : Int)
  if 2 * r > (d : Int) ∨ (2 * r = (d : Int) ∧ q % 2 = 1) then q + 1 else q

/-- Division whose rounding the spec leaves open: exact, or one of the two neighbours (log 9). -/
def divOpen (x : Int) (d : Nat) : Int :=
  let q := x / (d : Int)
  if x - q * (d : Int) = 0 then q else if Config.openRound x d then q + 1 else q

/-- Rounding to nearest of `x / d`; a tie, which no rule settles, takes either neighbour (log 9). -/
def nearest (x : Int) (d : Nat) : Int :=
  let q := x / (d : Int)
  let r := x - q * (d : Int)
  if 2 * r < (d : Int) then q else if 2 * r > (d : Int) then q + 1 else if Config.openRound x d then q + 1 else q

/-- Binary digits of the integer square root, from the top one down. -/
def isqrtGo : Nat → Nat → Nat → Nat
  | 0, r, n => if (r + 1) * (r + 1) ≤ n then r + 1 else r
  | k + 1, r, n =>
    let c := r + 2 ^ (k + 1)
    if c * c ≤ n then isqrtGo k c n else isqrtGo k r n

/-- The largest number whose square is at most `n`. -/
def isqrt (n : Nat) : Nat := isqrtGo (Nat.log2 n / 2 + 1) 0 n

/-- pi, ln 2, log2 10 and log2 e with 128 fractional bits. -/
def pi128 : Nat := 1069028584064966747859680373161870783300
def ln2_128 : Nat := 235865763225513294137944142764154484399
def log2ten128 : Nat := 1130393554869435518674010122299176348979
def log2e128 : Nat := 490923683258796565746369346286093237521

/-- Terms of the cosine series from term `m`, for an angle whose square is `sq` (96 fractional bits). -/
def cosTerms (sq : Nat) : Nat → Nat → Int → Int
  | 0, _, _ => 0
  | k + 1, m, t => t + cosTerms sq k (m + 1) (-(t * (sq : Int) / (2 ^ 96 : Int)) / (((2 * m + 1) * (2 * m + 2) : Nat) : Int))

/-- cos(pi k / n) for k at most n/2, 96 fractional bits. -/
def cosLow (k n : Nat) : Int :=
  let th := pi128 * k / n / 2 ^ 32
  cosTerms (th * th / 2 ^ 96) 24 0 (2 ^ 96 : Int)

/-- cos(pi k / n) for k at most n, 96 fractional bits. -/
def cosPi (k n : Nat) : Int := if 2 * k ≤ n then cosLow k n else -(cosLow (n - k) n)

/-- The raised-cosine gain of R18 and R19 at a position, as a fraction of 2^96; exact where it is rational. -/
def raised (pos full : Nat) : Nat :=
  if pos = 0 then 0
  else if full ≤ pos then 2 ^ 96
  else if 2 * pos = full then 2 ^ 95
  else if 3 * pos = full then 2 ^ 94
  else if 3 * pos = 2 * full then 3 * 2 ^ 94
  else ((2 ^ 96 : Int) - cosPi pos full).toNat / 2

/-- Terms of the exponential series (96 fractional bits). -/
def expTerms (x : Nat) : Nat → Nat → Nat → Nat
  | 0, _, _ => 0
  | k + 1, m, t => t + expTerms x k (m + 1) (t * x / 2 ^ 96 / (m + 1))

/-- 2^x with 64 fractional bits, for x with 64 fractional bits; exact at integers. -/
def pow2Fix (x : Int) : Nat :=
  let i := x / (2 ^ 64 : Int)
  let fr := (x - i * (2 ^ 64 : Int)).toNat
  let m := expTerms (fr * ln2_128 / 2 ^ 96) 34 0 (2 ^ 96)
  if 0 ≤ i then m * 2 ^ i.toNat / 2 ^ 32 else m / 2 ^ (32 + (-i).toNat)

/-- 10^(d/20) with 64 fractional bits, for a level of `num / den` decibels; exact at multiples of 20 dB that are 0. -/
def dbToLin (num : Int) (den : Nat) : Nat :=
  if num = 0 then 2 ^ 64
  else pow2Fix (num * (log2ten128 : Int) / ((20 * den : Nat) : Int) / (2 ^ 64 : Int))

/-- Binary digits of the logarithm to base 2 of a number from 1 to 2, with 64 fractional bits, from the first one down. -/
def log2Frac : Nat → Nat → Nat
  | 0, _ => 0
  | k + 1, x => if 2 ^ 129 ≤ x * x then 2 ^ k + log2Frac k (x * x / 2 ^ 65) else log2Frac k (x * x / 2 ^ 64)
/-- The natural logarithm of `num / den`, at least 1, with 64 fractional bits. -/
def lnFix (num den : Nat) : Nat :=
  let x := num * 2 ^ 64 / den
  let e := Nat.log2 x - 64
  (e * 2 ^ 64 + log2Frac 64 (x / 2 ^ e)) * ln2_128 / 2 ^ 128

/-- e^(-num/den) with 64 fractional bits, for a non-negative exponent. -/
def expNeg (num den : Nat) : Nat :=
  pow2Fix (-((num * log2e128 / den / 2 ^ 64 : Nat) : Int))

end Sys2Proof.Machine
end

