-- ==== Sys2Proof/Machine/State.lean ====
section
/-! DEFINITION. Everything the spec gives the module, as plain data, and the state right after reset.
Each field's docstring names its rule, its width and what it holds; its default is its reset value.
"log n" names the entry of notes/assumptions that declares a value the spec does not give. -/

namespace Sys2Proof.Machine

open Sys2Proof

/-- Why the machine stops with a fault. The spec names no condition that stops the module: faults of functions,
traps of cores, status codes and unsupported requests are all states it goes on from. No command raises one. -/
inductive Fault where
  deriving DecidableEq, Repr

/-- Why a command is refused. -/
inductive Refusal where
  /-- Raised by an arm of `exec` whose command has no meaning yet; safe. -/
  | notModelled (mnemonic : String)
  deriving DecidableEq, Repr

/-- Sparse data by key: strictly rising keys (see `Store.put` in Ops). -/
abbrev Store (α : Type) := List (Nat × α)

/-- The two variants (R2, R4). -/
inductive Variant where
  | p | l
  deriving DecidableEq, Repr

/-- The supply's stages of R24; `off` is stage 6 and the state before line power. -/
inductive Supply where
  | off | full | cores | paths | stopped | clocked
  deriving DecidableEq, Repr

/-- The life-cycle states of R74. -/
inductive Life where
  | off | stopped | starting | running | stopping | faulted
  deriving DecidableEq, Repr

/-- A fade or ramp of R18 and R19 as a position on the raised-cosine law: gain = (1 - cos(pi pos / full)) / 2.
A falling fade lowers `pos` by `step` each tick and a rising one raises it, so a change of direction keeps the gain. -/
structure Fade where
  pos : Nat := 1
  full : Nat := 1
  step : Nat := 1
  up : Bool := true
  deriving DecidableEq, Repr

/-- A ramp of R267: from `src` to `dst`, tick `k` of `len`. -/
structure Ramp where
  src : Int
  dst : Int
  k : Nat := 0
  len : Nat
  deriving DecidableEq, Repr

/-- A vector between units, named by its tick (R17). -/
structure Vec where
  tick : DWord
  data : List Word
  deriving DecidableEq, Repr

/-- The consumer's end of one edge (R15-R19): a FIFO of one vector, the vector a paused producer holds, the vector
in use, the last delivered samples, the fade, the run of on-time vectors, and the miss run. -/
structure Edge where
  fifo : Option Vec := none
  paused : Option Vec := none
  cur : Option Vec := none
  last : List Word := []
  out : List Word := []
  fade : Fade := {}
  /-- Consecutive on-time vectors, up to 2. -/
  onTime : Nat := 2
  /-- Substituting, or waiting for the second on-time vector (R19). -/
  inMiss : Bool := false
  /-- Vectors missed in this run (R448). -/
  missed : Nat := 0
  /-- Vectors discarded as late (R18). -/
  late : Nat := 0
  /-- The last tick the consumer has dealt with. -/
  seen : Option DWord := none
  /-- The tick of the vector handed over last (R15). -/
  sent : Option DWord := none
  deriving DecidableEq, Repr

/-- A completion record waiting to be written (R101). -/
structure Rec where
  tag : BitVec 16
  status : Byte
  uncertain : Bool
  cause : BitVec 4
  done : Word
  tick : DWord
  irq : Bool
  /-- Position of its descriptor in the ring (the count at which it was taken). -/
  idx : Word
  deriving DecidableEq, Repr

/-- A descriptor in progress (R99, R118). `silent`: PERST_N took its ring, no record follows (R123). -/
structure Job where
  uid : Nat
  ring : Fin 32
  idx : Word := 0
  silent : Bool := false
  desc : Desc
  op : Byte
  done : Nat := 0
  /-- What the opcode still needs, in the words of its own meaning. -/
  phase : Nat := 0
  /-- CAPTURE, PLAYBACK: the first tick, once known. FENCE: unused. -/
  start : Option DWord := none
  /-- FENCE: the jobs it waits for (R108). -/
  waits : List Nat := []
  /-- PLAYBACK: frames read ahead, by frame number. -/
  frames : List (Nat × List Word) := []
  /-- LOAD_IMAGE: the staged container. -/
  data : List Byte := []
  /-- CAPTURE: frames whose writes are pending (R282). -/
  backlog : Nat := 0
  /-- PLAYBACK: substitution state of its frames (R281). -/
  fade : Fade := {}
  lastFrame : List Word := []
  onTime : Nat := 2
  deriving DecidableEq, Repr

/-- A SCHED held in an action table, or applied and still in progress (R110, R248). -/
structure Action where
  func : Func
  id : Word
  time : DWord
  nT : DWord
  op : Byte
  pid : Word
  value : Word
  capTag : BitVec 16
  ring : Fin 32
  idx : Word := 0
  silent : Bool := false
  tag : BitVec 16
  irq : Bool
  /-- Holds one unit of the crosspoint budget (R264). -/
  reserved : Bool := false
  /-- A late action with APPLY_LATE (R249); it takes no table entry. -/
  late : Bool := false
  /-- Applied; waits for its FUNC_START or FUNC_STOP to end (R110). -/
  applied : Bool := false
  deriving DecidableEq, Repr

/-- One checked write that waits for its effect boundary (R14). ROUTE_SET entries wait as crosspoint writes (R260). -/
structure PWrite where
  job : Nat
  pid : Word
  value : Word
  /-- Units of crosspoint budget it holds until its boundary (R264). -/
  units : Nat := 0
  /-- R14; the boundary whose token the island had when the write reached it: a later one is its effect's. -/
  after : DWord := 0
  deriving DecidableEq, Repr

/-- One function's life-cycle record (R73, R74, R118). -/
structure FuncRec where
  /-- R74; 3 bits. Life-cycle state (GLOBAL_FSTATE_id.STATE). -/
  state : Life := .off
  /-- R73; 8 bits. Cause of the last FAULTED entry. -/
  cause : Byte := 0
  /-- R73; 16 bits. FAULTED entries since module reset, saturating. -/
  faultCount : BitVec 16 := 0
  /-- R118; 32 bits. FUNC_CONFIG descriptors accepted since module reset. -/
  configGen : Word := 0
  /-- R118; 64 bits. Tick of the last state change. -/
  lastChange : DWord := 0
  /-- R78, R457. The accepted configuration block; none: the default is in force. -/
  config : Option (List Byte) := none
  /-- R75, R76. A start accepted and not yet in effect. -/
  startReq : Bool := false
  /-- R75, R76. A stop accepted and not yet in effect. -/
  stopReq : Bool := false
  /-- R14, R76. The boundaries whose tokens the island had when the start and the stop reached it. -/
  startAfter : DWord := 0
  stopAfter : DWord := 0
  /-- R75. The stop ends in OFF. -/
  offReq : Bool := false
  /-- R76, R19. Gain of the function's outputs. -/
  fade : Fade := { pos := 0, up := false }
  /-- R76. Boundary of the last start or stop effect. -/
  effect : DWord := 0
  deriving DecidableEq, Repr

/-- The module as a whole: supplies, GLOBAL block, module reset, high-voltage side, register bus. -/
structure Chip where
  /-- 00 "Variants"; which of the two variants this module is; no command changes it. log 7 -/
  variant : Variant := .p
  /-- R24; stage of the supply. Reset: no line power yet. -/
  supply : Supply := .off
  /-- R45; a short on VAUX, limited. -/
  vauxShort : Bool := false
  /-- R73; 2 bits. GLOBAL_BOOT.STRAP. -/
  strap : BitVec 2 := 0
  /-- R73; 4 bits. GLOBAL_BOOT.STAGE. -/
  stage : BitVec 4 := 0
  /-- R73; 4 bits. GLOBAL_BOOT.RESULT. -/
  result : BitVec 4 := 0
  /-- R73; 16 bits. GLOBAL_BOOT.PATCH_VERSION. -/
  patchVersion : BitVec 16 := 0
  /-- R73; 32 bits, W1C. GLOBAL_RESET_CAUSE; POR at power-up. -/
  resetCause : Word := 1
  /-- R73; 32 bits. GLOBAL_SCRATCH. -/
  scratch : Word := 0
  /-- R83; a module reset in progress. -/
  resetting : Bool := false
  /-- R83; cause bits of the reset in progress. -/
  resetBits : Word := 0
  /-- R83; the boundary before the request was accepted. -/
  resetAt : DWord := 0
  /-- R83, R128; a RESET_REQ in effect waits for its record: the ring and the position of its descriptor. -/
  noardReset : Option (Fin 32 × Word) := none
  /-- R46, R370; 16 bits signed, 0.1 V. VBUS at the inlet. Reset: none connected. -/
  vbus : BitVec 16 := 0
  /-- R389; 16 bits signed. PCH_VBUS. -/
  pchVbus : BitVec 16 := 0
  /-- R65, R73. GLOBAL_HV_STATUS.AWAKE. -/
  awake : Bool := false
  /-- R65, R73. GLOBAL_HV_STATUS.LINK_UP. -/
  linkUp : Bool := false
  /-- R46, R65, R67, R85; the high-voltage side itself is awake, whether or not the isolation link carries its tokens. -/
  hvUp : Bool := false
  /-- R66, R73. GLOBAL_HV_STATUS.VBUS_REVERSED. -/
  vbusReversed : Bool := false
  /-- R48, R73. GLOBAL_HV_STATUS.VBUS_OV. -/
  vbusOv : Bool := false
  /-- R65; a wake request is under way. -/
  waking : Bool := false
  /-- R50, R67; ticks since the last of PCH0-PCH3 and SAGE entered OFF, with nothing waiting to take one out of it. -/
  hvIdle : Nat := 0
  /-- R121; data of the last register read; none after an unsupported request. -/
  bus : Option Word := none
  /-- R121; the last BAR0 access was an unsupported request. -/
  unsupported : Bool := false
  deriving DecidableEq, Repr

/-- Functions, parameters, descriptors in progress and action tables. -/
structure LifeSt where
  /-- R74; 34 functions. Life-cycle records, indexed by `Func.idx`. -/
  funcs : Vector FuncRec 34 := Vector.replicate 34 {}
  /-- R10, R14; 32 bits each. Parameter values last put into force, by parameter ID; others have their defaults. -/
  params : Store Word := []
  /-- R128, R437; 32 bits each. Live settings: persisted SERVICE parameters by index. -/
  live : Store Word := []
  /-- R14; writes checked and waiting for their boundary. -/
  writes : List PWrite := []
  /-- R99; descriptors in progress, oldest first. -/
  jobs : List Job := []
  /-- R110, R251; the action tables, in the order of acceptance. -/
  acts : List Action := []
  /-- The model's own numbering of descriptors in progress. DESIGN CHOICE 0 (log 3) -/
  nextUid : Nat := 0
  deriving DecidableEq, Repr

/-- One descriptor ring (R87). -/
structure Ring where
  /-- R87; 64 bits. Submission ring base. -/
  sqBase : DWord := 0
  /-- R87; 64 bits. Completion ring base. -/
  cqBase : DWord := 0
  /-- R87; RING_CTRL_q.ENABLE. -/
  enable : Bool := false
  /-- R87; RING_CTRL_q.IRQ_ALL. -/
  irqAll : Bool := false
  /-- R87; 5 bits. SQ_LOG2. -/
  sqLog : BitVec 5 := 4
  /-- R87; 5 bits. CQ_LOG2. -/
  cqLog : BitVec 5 := 4
  /-- R87; 3 bits. PRIO. -/
  prio : BitVec 3 := 0
  /-- R87; 5 bits. VEC; reset value q (see `State.reset`). -/
  vec : BitVec 5 := 0
  /-- R87; 8 bits. BUDGET. -/
  budget : Byte := 8
  /-- R88; the budget of this tick. -/
  budgetNow : Byte := 8
  /-- R87; STATE 0x3 and its ERR; 0: no error. -/
  err : BitVec 4 := 0
  /-- R90; DRAINING. -/
  draining : Bool := false
  /-- R87; 32 bits. RING_SQ_CI_q. -/
  sqCi : Word := 0
  /-- R87; 32 bits. RING_CQ_PI_q. -/
  cqPi : Word := 0
  /-- R91; 32 bits. SQ_PI_q as last read. -/
  sqPi : Word := 0
  /-- R91; 32 bits. CQ_CI_q as last read. -/
  cqCi : Word := 0
  /-- R89; a doorbell read issued after the enable has completed. -/
  seen : Bool := false
  /-- R94; descriptors read and not yet taken, oldest first. -/
  fetched : List Desc := []
  /-- R102; records in completion order, not yet written. -/
  waiting : List Rec := []
  /-- R98; descriptors taken in this tick. -/
  taken : Nat := 0
  /-- R108; the rings' counts of descriptors taken as the ring's last FENCE was taken. -/
  fenceAt : List Word := []
  deriving DecidableEq, Repr

/-- One page set (R97). -/
structure PageSt where
  /-- R120; 64 bits. EVENT word. -/
  event : DWord := 0
  /-- R92; 32 bits. EVENT_SEQ. -/
  seq : Word := 0
  /-- R120; the EVENT_ACK_SEQ last seen; none before the first read. -/
  ackSeq : Option Word := none
  /-- R93; a doorbell read is outstanding. -/
  outstanding : Bool := false
  /-- R89; the outstanding read was issued after ring q's enable: bit q. -/
  fresh : Word := 0
  /-- R96; a field of the status page other than TICK has changed since it was written. -/
  dirty : Bool := false
  /-- R92; 64 bits. Tick of the fetch that precedes the next write. -/
  tick : DWord := 0
  /-- R119; EVENT rose since the last status page write. -/
  rose : Bool := false
  /-- R93, R97; this boundary's fetch has been issued or skipped. -/
  asked : Bool := false
  /-- R96; a fetch period has begun, and the page has not been written in it. -/
  due : Bool := false
  deriving DecidableEq, Repr

/-- Rings, page sets, MSI-X, the PCIe endpoint. -/
structure HostSt where
  /-- R87; the 32 rings. -/
  rings : Vector Ring 32 := Vector.replicate 32 {}
  /-- R97; the host page set. -/
  hostPage : PageSt := {}
  /-- R97; the Tarragon page set. -/
  tarrPage : PageSt := {}
  /-- R87; 64 bits. RING_DB. -/
  dbAddr : DWord := 0
  /-- R87; 64 bits. RING_ST. -/
  stAddr : DWord := 0
  /-- R87; RING_FETCH.ENABLE. -/
  fetch : Bool := false
  /-- R87; 6 bits. RING_FETCH.PERIOD. -/
  period : BitVec 6 := 0
  /-- R87; 5 bits. RING_FETCH.EVENT_VEC. -/
  eventVec : BitVec 5 := 0
  /-- R87, R447; 32 bits, RC. RING_FETCH_SKIP, saturating. -/
  fetchSkip : Word := 0
  /-- R98; ring last served at each level. DESIGN CHOICE 31, so that ring 0 comes first (log 17) -/
  lastServed : Vector (Fin 32) 8 := Vector.replicate 8 31
  /-- R98; descriptors taken and not yet served, in the order of taking. -/
  taken : List (Fin 32 × Word × Desc) := []
  /-- R119; 32 bits. MSI-X vector mask. PRESUMED all masked (log 18, PCIe) -/
  msixMask : Word := 0xFFFFFFFF
  /-- R119; MSI-X enable. PRESUMED 0 (log 18, PCIe) -/
  msixEnable : Bool := false
  /-- R119; 32 bits. Pending-bit array. PRESUMED 0 (log 18, PCIe) -/
  msixPend : Word := 0
  /-- R119; 32 bits. Vectors to signal after the next status page write. -/
  toSignal : Word := 0
  /-- R119; 32 bits. Vectors of the messages sent last. -/
  msixSent : Word := 0
  /-- R121; 32 x (64 + 32) bits. Address and data of the MSI-X table in BAR2, which no command writes. PRESUMED 0 (log 18,
  PCIe) -/
  msixTable : Vector (DWord × Word) 32 := Vector.replicate 32 (0, 0)
  /-- R119, R121; the messages sent last, as the table has them. -/
  msixMsgs : List (DWord × Word) := []
  /-- R112; progress words of runs that have ended, not yet written: ring, address, count. -/
  progress : List (Fin 32 × DWord × Nat) := []
  /-- R32, R57; level of PERST_N; an open land reads 1. -/
  perst : Bool := true
  /-- R124; PCIE_STATUS.LINK_UP. -/
  linkUp : Bool := false
  /-- R124; 3 bits. PCIE_STATUS.SPEED. -/
  speed : BitVec 3 := 0
  /-- R124; 4 bits. PCIE_STATUS.WIDTH. -/
  width : BitVec 4 := 0
  /-- R123; bus master enable. -/
  bme : Bool := false
  /-- R121; D3hot. PRESUMED D0 (log 18, PCIe) -/
  d3 : Bool := false
  /-- R124; PCIE_CTRL.RELAXED. -/
  relaxed : Bool := true
  /-- R124; 64 bits. PCIE_HOSTERR. -/
  hostErr : DWord := 0
  /-- R124; 32 bits, RC. PCIE_HOSTERR_COUNT. -/
  hostErrCount : Word := 0
  /-- R103; bytes the module has written to host memory. -/
  hostMem : List Host.Cell := []
  deriving DecidableEq, Repr

/-- A Noard request accepted and not finally answered (R133). -/
structure NoardReq where
  slot : Fin 4
  counter : DWord
  reqId : BitVec 16
  ring : Fin 32
  port : Port
  src : BitVec 48
  vlan : Option Vlan
  replyLen : Nat
  /-- Ring positions of its placed descriptors (the count of the first one, how many). -/
  first : Word
  count : Nat
  /-- Placed descriptors not yet completed. -/
  left : Nat
  /-- Records completed and not yet sent: the number of its placed descriptor, or none for one never placed. -/
  recs : List (Option Nat × List Byte) := []
  /-- Reply data of each placed descriptor: offsets and lengths (R132). -/
  outs : List (List (Nat × Nat)) := []
  /-- REPLY_WAIT has expired (R133). -/
  waited : Bool := false
  /-- Module address of the request's reply data area (R132). -/
  replyAt : Nat := 0
  deriving DecidableEq, Repr

/-- One entry of persisted settings: kind, function, data (R438). -/
structure SetEntry where
  kind : Nat
  func : Byte
  data : List Byte
  deriving DecidableEq, Repr

/-- The service island: Tarragon, Noard, keys, debug lock (05), stored images and security state (03, 16). -/
structure SvcSt where
  /-- R125; hostless control is on. -/
  hostless : Bool := false
  /-- R139; 48 bits. Module MAC address, from the identity area. DESIGN CHOICE 0 (log 6) -/
  mac : BitVec 48 := 0
  /-- R138; 64 bits. Serial number, from the identity area. DESIGN CHOICE 0 (log 6) -/
  serial : DWord := 0
  /-- R137; PROVISIONED, from the parameter store. DESIGN CHOICE 0 (log 6) -/
  provisioned : Bool := false
  /-- R138; JTAG_OPEN. -/
  jtagOpen : Bool := false
  /-- R138; 128 bits. The nonce last read; none before. -/
  nonce : Option (BitVec 128) := none
  /-- R138; wrong answers in a row. -/
  wrong : Nat := 0
  /-- R138; challenges refused for 10 s. -/
  jtagLocked : Bool := false
  /-- R139; 32 bits. SVC_KEY_SEL. -/
  keySel : Word := 0
  /-- R137; 16 x 32 bits. SVC_KEY_DATA. DESIGN CHOICE 0 (log 6) -/
  keyData : Vector Word 16 := Vector.replicate 16 0
  /-- R137; 4 x 32 bytes. Noard keys, none: not provisioned. From the parameter store. DESIGN CHOICE none (log 6) -/
  noardKeys : Vector (Option (List Byte)) 4 := Vector.replicate 4 none
  /-- R137; 4 bits. Noard slots revoked. DESIGN CHOICE 0 (log 6) -/
  noardRevoked : BitVec 4 := 0
  /-- R137; 4 x 64 bytes. Image public keys. DESIGN CHOICE none (log 6) -/
  imageKeys : Vector (Option (List Byte)) 4 := Vector.replicate 4 none
  /-- R137; 4 bits. Image slots revoked. DESIGN CHOICE 0 (log 6) -/
  imageRevoked : BitVec 4 := 0
  /-- R137; 32 bytes. Debug key. DESIGN CHOICE none (log 6) -/
  debugKey : Option (List Byte) := none
  /-- R130; 4 x 64 bits. Last accepted counters. DESIGN CHOICE 0 (log 6) -/
  lastCounter : Vector DWord 4 := Vector.replicate 4 0
  /-- R131; the last accepted PDU of each slot. -/
  lastPdu : Vector (List Byte) 4 := Vector.replicate 4 []
  /-- R131; the stored replies of each slot. -/
  stored : Vector (List (List Byte)) 4 := Vector.replicate 4 []
  /-- R133; 4 x 64 bits. Reply counters. DESIGN CHOICE 0 (log 6) -/
  replyCounter : Vector DWord 4 := Vector.replicate 4 0
  /-- R139; 5 x 32 bits, RC. SVC_NOARD_OK, _TAGFAIL, _REPLAY, _MALFORMED, _BUSY. -/
  noardCnt : Vector Word 5 := Vector.replicate 5 0
  /-- R133; requests being executed, oldest first. -/
  reqs : List NoardReq := []
  /-- R135; source, port, key slot and VLAN tag of the last accepted request since module reset. -/
  lastCtl : Option (BitVec 48 × Port × Fin 4 × Option Vlan) := none
  /-- R135; the tick of the last event notice. -/
  noticeAt : Option DWord := none
  /-- R127; the ARP cache, newest first, at most 64 entries. -/
  arp : List (Word × BitVec 48) := []
  /-- R127; echo replies sent on port A and port B in this second. -/
  echoA : Nat := 0
  echoB : Nat := 0
  /-- R127; ICMPv6 echo replies in this second. -/
  echo6A : Nat := 0
  echo6B : Nat := 0
  /-- R165; time left of IDENTIFY, units of 1 / 28,224,000 s, in which a tick is whole at every Fs. -/
  identify : Nat := 0
  /-- R71, R72; 4 x 32 bits. SEC_VERSION minima by TYPE. DESIGN CHOICE 0 (log 6) -/
  secMin : Vector Word 4 := Vector.replicate 4 0
  /-- R114, R443; active persisted settings copy (false: A). DESIGN CHOICE A (log 6) -/
  settingsCopy : Bool := false
  /-- R114, R443; active patch copy. DESIGN CHOICE A (log 6) -/
  patchCopy : Bool := false
  /-- R443; a persisted-settings record is stored. DESIGN CHOICE none (log 6) -/
  settingsValid : Bool := false
  /-- R443; a patch is stored. DESIGN CHOICE none (log 6) -/
  patchValid : Bool := false
  /-- R72; SEC_VERSION of the patch and of the settings record in force in this boot. -/
  bootPatchSec : Option Word := none
  bootSettingsSec : Option Word := none
  /-- R69; entries that autostart has not dealt with yet, in the order it takes them. -/
  autostart : List SetEntry := []
  /-- R69; the first of them waits: for the high-voltage side, or for its FUNC_START to complete. -/
  autoBusy : Bool := false
  /-- R443; NVS_STATUS.WRITE_FAIL. -/
  writeFail : Bool := false
  deriving DecidableEq, Repr

/-- The line modes (R140). -/
inductive LineMode where
  | none | m100 | m1000 | m2500
  deriving DecidableEq, Repr

/-- A frame committed by the forwarding engine, waiting at its egress (R171). `badAt`: its copy ends early (R172). -/
structure FwdFrame where
  frame : Frame
  ingress : Port
  /-- The ingress MAXLEN at its start of frame (R151, R172). -/
  inMax : Nat
  /-- The egress MAXLEN at its start of frame (R151, R172). -/
  outMax : Nat
  /-- Its order in R150 at the ingress, before any tag. -/
  order : Nat
  /-- Classified for the timing engine (R169 order 3, R203). -/
  timing : Bool
  deriving DecidableEq, Repr

/-- What a port sent last (R155, R171): a local frame of a queue, or a forwarded copy with its octets and FCS. -/
structure SentFrame where
  frame : Frame
  forwarded : Bool
  octets : Nat
  inverted : Bool
  deriving DecidableEq, Repr

/-- The consumers of received frames (R152). -/
inductive RxConsumer where
  | none | mac | timing | service | path
  deriving DecidableEq, Repr

/-- The settings a frame meets at its start (R151, R166, R168): they judge it to its end. -/
structure RxHold where
  frame : Frame
  macCtrl : Word
  vlan : Word
  rxPcp : Word
  topo : Word
  ring : Word
  deriving DecidableEq, Repr

/-- One port (06). -/
structure PortSt where
  /-- R147; NETx_PD.POWERED. -/
  powered : Bool := false
  /-- R166; 2 bits. NETx_PD.PAIRSETS. -/
  pairsets : BitVec 2 := 0
  /-- R146; 3 bits. NETx_PD.EVENTS. -/
  events : BitVec 3 := 0
  /-- R147; NETx_PD.CARRYING. -/
  carrying : Bool := false
  /-- R147; 12 bits, 0.1 V. NETx_PD.VIN. -/
  vin : BitVec 12 := 0
  /-- R141; NETx_LINK.LINK. -/
  link : Bool := false
  /-- R141; NETx_LINK.MODE. -/
  mode : LineMode := .none
  /-- R141; the mode negotiation has resolved, before the link comes up. -/
  resolved : LineMode := .none
  /-- R145; NETx_LINK.MDIX. -/
  mdix : Bool := false
  /-- R145; NETx_LINK.SWAP01. -/
  swap01 : Bool := false
  /-- R145; NETx_LINK.SWAP23. -/
  swap23 : Bool := false
  /-- R145; 4 bits. NETx_LINK.POL. -/
  pol : BitVec 4 := 0
  /-- R141; what the port advertised in the negotiation last resolved: the modes, PAUSE and ASM_DIR. -/
  advertised : BitVec 5 := 0
  /-- R141; NETx_LINK.MASTER. -/
  master : Bool := false
  /-- R141; NETx_LINK.LP_PAUSE. -/
  lpPause : Bool := false
  /-- R143; 3 bits. Modes withheld by downshift. -/
  withheld : BitVec 3 := 0
  /-- R143; consecutive failed attempts. -/
  attempts : Nat := 0
  /-- R166; 32 bits. NETx_ANEG. -/
  aneg : Word := 0x17
  /-- R166; 32 bits. NETx_MAC_CTRL. -/
  macCtrl : Word := 0
  /-- R166; 32 bits. NETx_VLAN. -/
  vlan : Word := 0
  /-- R166; 32 bits. NETx_LED. -/
  led : Word := 0x506
  /-- R166; 32 bits. NETx_TXQ_MAP. -/
  txqMap : Word := 0x257
  /-- R166; 32 bits. NETx_RX_PCP. -/
  rxPcp : Word := 0x1E0
  /-- R158; picoseconds left on the pause timer. -/
  pause : Nat := 0
  /-- R158; the timer was loaded within the present tick. -/
  pauseFresh : Bool := false
  /-- R151, R168; the settings that the frame in reception met at its start. -/
  hold : Option RxHold := none
  /-- R155; eight transmit queues Q0-Q7. -/
  queues : Vector (List Frame) 8 := Vector.replicate 8 []
  /-- R171; the forward queue, 32 KiB. -/
  fwd : List FwdFrame := []
  /-- R155; the frame started last. -/
  lastTx : Option SentFrame := none
  /-- R152; consumer of the last good frame. -/
  lastRx : RxConsumer := .none
  /-- R153; the group table, at most 128 entries. -/
  groups : List (BitVec 128) := []
  /-- R235; the sources to which a group is restricted: group and source. A group without one is joined from any source. -/
  sources : List (BitVec 128 × BitVec 128) := []
  /-- R154; octets in the service receive buffer of 64 KiB. -/
  svcBuf : Nat := 0
  /-- R154; octets in the receive buffers of the path and of the timing engine. -/
  pathBuf : Nat := 0
  timeBuf : Nat := 0
  /-- R164; the jack LED is in its 30 ms dark period. -/
  ledDark : Bool := false
  /-- R164; end of the last dark period: the LED stays lit for 30 ms from it. -/
  darkEnd : Option DWord := none
  /-- R164, R165; the speed blink, or the IDENTIFY blink, is in its lit half. -/
  ledLit : Bool := true
  /-- R178; RING_CLOSED_x. -/
  ringClosed : Bool := false
  /-- R178; SEQs of own group frames sent on the other port and expected here, oldest first. -/
  ringExp : List (BitVec 16) := []
  deriving DecidableEq, Repr

/-- Both ports. -/
structure NetSt where
  /-- 06; port A. -/
  a : PortSt := {}
  /-- 06; port B. -/
  b : PortSt := {}
  deriving DecidableEq, Repr

/-- The roles of a path (R182). -/
inductive Role where
  | idle | active | resync | inStep
  deriving DecidableEq, Repr

/-- The switchover triggers in the order of R191, with their codes (R195). -/
inductive Trigger where
  | link | notRunning | stream | errors | external | command
  deriving DecidableEq, Repr

/-- An unsynchronised switch in progress (R189). -/
structure Unsync where
  start : DWord
  f : Nat
  target : Port
  cause : Trigger
  changed : Bool := false
  deriving DecidableEq, Repr

/-- The PATH block, ILK and the arbiter (07). -/
structure PathSt where
  /-- R195; 32 bits. PATH_TOPO. -/
  topo : Word := 0
  /-- R195; 32 bits. PATH_FWD. -/
  fwd : Word := 6
  /-- R195; 32 bits. PATH_RING. -/
  ring : Word := 0x88B6
  /-- R195; 32 bits. PATH_ILK. -/
  ilk : Word := 0
  /-- R183; the arbiter has dealt with this tick. -/
  arb : Bool := true
  /-- R183; 1 bit. ILK: the active path. -/
  active : Port := .a
  /-- R182; ROLE_A. -/
  roleA : Role := .idle
  /-- R182; ROLE_B. -/
  roleB : Role := .idle
  /-- R181; 16 bits. MATCH_RUN. -/
  matchRun : BitVec 16 := 0
  /-- R181; mismatches with no equal digests between them. -/
  mismatches : Nat := 0
  /-- R181; DIGEST_FLAG. -/
  digestFlag : Bool := false
  /-- R189; the unsynchronised switch in progress. -/
  unsync : Option Unsync := none
  /-- R195; 32 bits. PATH_LAST_SWITCH. -/
  lastSwitch : Word := 0
  /-- R195; 64 bits. PATH_LAST_TICK. -/
  lastTick : DWord := 0
  /-- R195; 32 bits. PATH_DIGEST_A. -/
  digestA : Word := 0
  /-- R195; 32 bits. PATH_DIGEST_B. -/
  digestB : Word := 0
  /-- R195; 32 bits. PATH_DIGEST_TICK. -/
  digestTick : Word := 0
  /-- R195; ILK_LAND after the deglitch filter. An open land reads high (R185). -/
  ilkLand : Bool := true
  /-- R185; the samples of ILK_N, newest first, at most two. -/
  ilkHist : List Bool := []
  /-- R185; EXT in force since the last boundary. -/
  ext : Bool := false
  /-- R186; the port of path A or B reported loss of link since the last boundary. -/
  lostA : Bool := false
  lostB : Bool := false
  /-- R186; ticks of the error events of each path, newest first. -/
  errsA : List DWord := []
  errsB : List DWord := []
  /-- R193; the PATH_SWITCHes in progress, oldest first: job, target, FORCE. -/
  request : List (Nat × Port × Bool) := []
  /-- R176; 16 bits. The node's SEQ counter; runs 0x0001 to 0xFFFF. DESIGN CHOICE 1 (log 6) -/
  seq : BitVec 16 := 1
  /-- R177; the previous NODE_ID, within 1 s after a change. -/
  prevNode : Option (BitVec 16) := none
  deriving DecidableEq, Repr

/-- The role of a PTP port (R201). -/
inductive PtpRole where
  | listening | slave | master | passive
  deriving DecidableEq, Repr

/-- The PTP engine of one port (R201); times in quarter nanoseconds. -/
structure PtpPort where
  role : PtpRole := .listening
  /-- R201; the best master heard. -/
  best : Option PtpAnnounce := none
  /-- R229; 64 bits. TIME_GM_x. -/
  gm : DWord := 0
  /-- R216; announce receipt timeout not expired. -/
  announced : Bool := false
  /-- R216; a Sync within the last 3 Sync intervals. -/
  synced : Bool := false
  /-- R201; a two-step Sync that waits for its Follow_Up: sequence, t2, correction. -/
  pending : Option (BitVec 16 × Int × Int) := none
  /-- R201; the last Delay_Req or Pdelay_Req sent: sequence, t3 (or t1). -/
  reqSent : Option (BitVec 16 × Int) := none
  /-- R201; t1 and t2 of the last Sync used, for the path delay. -/
  lastT1 : Int := 0
  lastT2 : Int := 0
  /-- R203; the mean path or link delay last measured. -/
  meanDelay : Int := 0
  /-- R201; a two-step Pdelay_Resp that waits for its follow-up: t4, turnaround. -/
  pdPending : Option (BitVec 16 × Int) := none
  /-- R447; 16 bits. sequenceIds of Sync, Announce and Delay_Req sent. DESIGN CHOICE 0 (log 6) -/
  seqSync : BitVec 16 := 0
  seqAnn : BitVec 16 := 0
  seqReq : BitVec 16 := 0
  deriving DecidableEq, Repr

/-- One reference of R216. -/
structure RefRec where
  present : Bool := false
  qualified : Bool := false
  drift : Bool := false
  /-- Fractional frequency, units of 0.001 ppm. -/
  freq : Int := 0
  /-- R218; output phase minus the reference's phase as last measured, quarter nanoseconds. -/
  phase : Int := 0
  /-- Milliseconds present and in tolerance without interruption. -/
  goodMs : Nat := 0
  /-- Milliseconds out of tolerance without interruption. -/
  badMs : Nat := 0
  /-- Milliseconds below the drift level without interruption. -/
  calmMs : Nat := 0
  deriving DecidableEq, Repr

/-- The nominal constants of R205, TX_DLY and RX_DLY in units of 0.25 ns: 2.5GBASE-T as master and as slave, 1000BASE-T as
master and as slave, 100BASE-TX. -/
def nominalCal : Vector Word 5 :=
  #v[1248 + 1945 * 65536, 1248 + 1994 * 65536, 784 + 1363 * 65536, 784 + 1393 * 65536, 1616 + 2640 * 65536]

/-- The timing island, TIMEKEEPER and the TIME block (08). Offsets and phases in quarter nanoseconds. -/
structure TimeSt where
  /-- R229; 32 bits. TIME_CTRL. -/
  ctrl : Word := 1
  /-- R229; 32 bits. TIME_BOARD. -/
  board : Word := 0
  /-- R198; 2 bits. The rate in force. -/
  fs : BitVec 2 := 1
  /-- R12; 64 bits. The tick counter. -/
  tick : DWord := 0
  /-- R229; 32 bits. TIME_TICK_HI as captured. -/
  tickHi : Word := 0
  /-- R208; 3 bits. LOCK. -/
  lock : BitVec 3 := 0
  /-- R216; 3 bits. REF. -/
  ref : BitVec 3 := 0
  /-- R216; the references, by code; free run is always present and qualified (R229). -/
  refs : Vector RefRec 6 := Vector.replicate 6 {}
  /-- R229; TIME_OFS. -/
  ofs : Int := 0
  /-- R229; TIME_FREQ. -/
  freq : Int := 0
  /-- R210; the offset the servo predicts for the next measurement. -/
  pred : Int := 0
  /-- R213; 32 bits. The pending STEP_ID; 0: none. -/
  stepId : Word := 0
  /-- R213; 32 bits. The STEP_ID assigned last. -/
  stepCount : Word := 0
  /-- R213; STEP. -/
  step : Int := 0
  /-- R213; outliers in a row and their sign. -/
  outliers : Nat := 0
  outSign : Bool := false
  /-- R214; measurements in a row within STEP_THRESH. -/
  within : Nat := 0
  /-- R218; the slew left. -/
  slew : Int := 0
  /-- R220; TIME_PHASE_OFS, before saturation. -/
  phaseOfs : Int := 0
  /-- R229; 16 bits. TIME_LOADS. -/
  loads : BitVec 16 := 0
  /-- R201; the port engines. -/
  ptpA : PtpPort := {}
  ptpB : PtpPort := {}
  /-- R221; 14 bins. The learned model, units of 0.001 ppm. DESIGN CHOICE 0 (log 6) -/
  model : Vector Int 14 := Vector.replicate 14 0
  /-- R221; the learned model as stored. DESIGN CHOICE 0 (log 6) -/
  modelSaved : Vector Int 14 := Vector.replicate 14 0
  /-- R229; 16 bits. TIME_TEMP, 1/16 degC. DESIGN CHOICE 0 (log 6) -/
  temp : BitVec 16 := 0
  /-- R205; 2 x 5 x 32 bits. Calibration constants of port A and port B, from the parameter store, in the order of the table
  of R205: TX_DLY in the low half, RX_DLY in the high one. DESIGN CHOICE the nominal values (log 6) -/
  calA : Vector Word 5 := nominalCal
  calB : Vector Word 5 := nominalCal
  /-- R221; A of the ageing model, units of 0.001 ppm, and tau in seconds. DESIGN CHOICE 0 and 1 (log 6) -/
  ageA : Int := 0
  ageTau : Nat := 1
  /-- R213, R222; the frequency held, less what the temperature model and the ageing model gave when it was taken. -/
  heldBase : Int := 0
  /-- R215; the TIME_STEP_ACCEPT in progress: job. -/
  accept : Option Nat := none
  /-- R225; ticks of the glitches of WCIN within the last second. -/
  glitches : List DWord := []
  /-- R223; where in this tick WCOUT rises, quarter nanoseconds behind the boundary; none: it does not. -/
  wcout : Option Nat := none
  /-- R222; TIMEKEEPER has been started with LOCK not FREE and has selected no reference yet. -/
  restarted : Bool := false
  /-- R201; the reference left for holdover, for clockClass: 3, 4, 5 or 0. -/
  heldRef : BitVec 3 := 0
  /-- R218; fraction of a quarter nanosecond slewed, units of 1 / Fs. -/
  slewAcc : Nat := 0
  /-- R221; seconds in LOCKED. -/
  lockedS : Nat := 0
  /-- R199; the boundary of the last counter load, whose tokens carry the whole index. -/
  loadAt : Option DWord := none
  /-- R12; the islands' copies of the tick counter, by `islandIdx`; an unlisted copy is 0. -/
  copies : Store DWord := []
  /-- R11, R14; islands that have begun to take the token of their next tick, by `islandIdx`. -/
  begun : Word := 0
  /-- R12; islands stopped by a token mismatch until a function start, by `islandIdx`. -/
  halted : Word := 0
  deriving DecidableEq, Repr

/-- What a channel of an AM824 stream has shown (R242): the frame of the channel-status block in hand, none before its first
start; that block's non-audio bit; complete blocks in a row with the bit clear; the last word was Pa. -/
structure ChanAudio where
  frame : Option Nat := none
  bit : Bool := false
  clear : Nat := 0
  sawPa : Bool := false
  deriving DecidableEq, Repr

/-- One receive stream on one path (R238-R242). -/
structure RxRec where
  /-- R238; samples held, by tick index. -/
  held : List (DWord × List Word) := []
  /-- R233; stamp and tick count of the previous accepted packet. -/
  prev : Option (DWord × Nat) := none
  /-- R238; the sequence number expected. -/
  expect : Option (BitVec 16) := none
  /-- R240, R241; gain of the channels. -/
  fade : Fade := { pos := 0, up := false }
  /-- R240; the last presented samples. -/
  last : List Word := []
  /-- R239; what the stream presents on this tick. -/
  out : List Word := []
  /-- R240; in underrun. -/
  under : Bool := false
  /-- R240; has delivered since STREAM_RX started. -/
  delivered : Bool := false
  /-- R255; STRM_RX_LIVE bit. -/
  live : Bool := false
  /-- R242; non-audio. -/
  nonAudio : Bool := false
  /-- R242; what the channels' labels, channel status and words have shown, and frames in a row without a preamble. -/
  chans : List ChanAudio := []
  quiet : Nat := 0
  /-- R255; 16 bits. MIN margin. -/
  marginMin : BitVec 16 := 0x7FFF
  /-- R255; 16 bits. LAST margin. -/
  marginLast : BitVec 16 := 0x7FFF
  deriving DecidableEq, Repr

/-- One transmit stream (R246, R247). -/
structure TxRec where
  /-- R234; 16 bits. Sequence number; random start (log 11). -/
  seq : BitVec 16 := 0
  /-- R255; STRM_TX_LIVE bit. -/
  live : Bool := false
  /-- R247; stamp of the next block. -/
  next : Option DWord := none
  /-- R243; TX_EN at the start of that block. -/
  en : Bool := true
  deriving DecidableEq, Repr

/-- The vector of a path for one tick (R180, R181). -/
structure PathVec where
  tick : DWord := 0
  data : Store Word := []
  present : Bool := false
  complete : Bool := false
  /-- A channel is an underrun substitute (R186). -/
  under : Bool := false
  deriving DecidableEq, Repr

/-- Streams (09). -/
structure StrmSt where
  /-- R238; receive streams, by 128 * path + k. -/
  rx : Store RxRec := []
  /-- R246; transmit streams, by k. -/
  tx : Store TxRec := []
  /-- R239; the vector of path A and of path B. -/
  vecA : PathVec := {}
  vecB : PathVec := {}
  /-- R234; mr, toggled at each counter load. DESIGN CHOICE 0 (log 6) -/
  mr : Bool := false
  /-- R246; sink samples kept for the blocks being formed: tick and sinks, newest first. -/
  history : List (DWord × Store Word) := []
  deriving DecidableEq, Repr

/-- One crosspoint (R259, R267). -/
structure Xp where
  gain : BitVec 24 := 0
  target : BitVec 24 := 0
  rampIdx : BitVec 3 := 0
  ramp : Option Ramp := none
  deriving DecidableEq, Repr

/-- The scale of one sink, 23 fraction bits (R273, R274). -/
structure Scale where
  s : Nat := 8388608
  ramp : Option Ramp := none
  /-- s before this boundary's writes, and the largest K among them (R274). -/
  base : Nat := 8388608
  kMax : Nat := 0
  /-- n and the ramp before this boundary's writes, once one has changed n (R274). -/
  mark : Option (Nat × Option Ramp) := none
  deriving DecidableEq, Repr

/-- One generator (R276-R278). Settings in force; the values written are parameters. -/
structure Gen where
  mode : BitVec 3 := 0
  freq : Word := 100000
  period : Word := 48000
  seed : Word := 1
  /-- Ticks until the settings written take effect, plus 1 (R278); 0: none waiting. -/
  wait : Nat := 0
  /-- A MODE 0x2 or a SEED has been written and is not in force yet (R277). -/
  rst : Bool := false
  fade : Fade := {}
  /-- LEVEL in force as a ramp of linear level, units of 2^-31 (R278). -/
  level : Option Ramp := none
  /-- R277; pink-noise state, rows, white register and ticks since the reset boundary. -/
  s : Word := 0
  rows : Vector Word 16 := Vector.replicate 16 0
  white : Word := 0
  m : Nat := 0
  deriving DecidableEq, Repr

/-- Lovage and the generators (10). -/
structure LovSt where
  /-- R260, R261; crosspoints with a gain, a ramp or a ramp index, by src * 2048 + snk. -/
  xp : Store Xp := []
  /-- R273; scales of the sinks that differ from 1 or are ramping. -/
  scales : Store Scale := []
  /-- R287; 64 x 32 bits, W1C. LOV_CLIPPED. -/
  clipped : Vector Word 64 := Vector.replicate 64 0
  /-- R287; LOV_ACTIVE, A at the last boundary. -/
  active : Nat := 0
  /-- R287; LOV_PEAK. -/
  peak : Nat := 0
  /-- R256; source samples of this tick; unlisted sources carry 0. -/
  src : Store Word := []
  /-- R272; sink samples formed last. -/
  snk : Store Word := []
  /-- R17; the tick of `snk`; none while LOVAGE forms none. -/
  snkTick : Option DWord := none
  /-- R189; gain of the network sources in an unsynchronised switch. -/
  netFade : Fade := {}
  /-- R276; the generators. -/
  gens : Vector Gen 16 := Vector.replicate 16 {}
  deriving DecidableEq, Repr

/-- The banked registers of a core (R292). -/
structure Bank where
  /-- R292; X0-X31, 8 x 32 bits. DESIGN CHOICE 0 (log 6) -/
  x : Vector Lanes 32 := Vector.replicate 32 (Vector.replicate 8 0)
  /-- R292; A0-A7, 8 x 80 bits. DESIGN CHOICE 0 (log 6) -/
  a : Vector AccLanes 8 := Vector.replicate 8 (Vector.replicate 8 0)
  /-- R292; P0-P15, 32 bits. DESIGN CHOICE 0 (log 6) -/
  p : Vector Word 16 := Vector.replicate 16 0
  /-- R292; M0-M7, 32 bits signed. DESIGN CHOICE 0 (log 6) -/
  m : Vector Word 8 := Vector.replicate 8 0
  /-- R292; B0-B7, 32 bits. DESIGN CHOICE 0 (log 6) -/
  b : Vector Word 8 := Vector.replicate 8 0
  /-- R292; L0-L7, 18 bits. DESIGN CHOICE 0 (log 6) -/
  l : Vector (BitVec 18) 8 := Vector.replicate 8 0
  deriving DecidableEq, Repr

/-- One active loop (R337). -/
structure Loop where
  first : BitVec 12
  last : BitVec 12
  count : Nat
  stages : Nat
  rot : Bool
  pass : Nat := 0
  deriving DecidableEq, Repr

/-- Where a result lands (R295, R297, R323, R328, R333). X destinations are physical registers (R338). -/
inductive Dest where
  | xLow (r : Fin 32) (shadow : Bool)
  | xHigh (r : Fin 32)
  | acc (r : Fin 16) (shadow : Bool)
  | asel (i : BitVec 6) (shadow : Bool)
  | mem (dy : Bool) (a : BitVec 17)
  | aov
  deriving DecidableEq, Repr

/-- What lands (R323, R324, R333). Accumulator inputs AD are read when the result lands. -/
inductive Landing where
  | lanes (v : Lanes)
  | accSet (v : AccLanes)
  | accAdd (v : AccLanes)
  | accSub (v : AccLanes)
  /-- AS + product, checked for overflow at landing (R325). -/
  | accSum (a v : AccLanes)
  | accPart (part : Fin 3) (v : Lanes)
  | reg (v : Word)
  deriving DecidableEq, Repr

/-- A result in flight: due when the core's bundle count reaches `due`; `order` is its slot's rank in R297. -/
structure Flight where
  due : Nat
  issued : Nat
  order : Nat
  pc : BitVec 12
  dest : Dest
  val : Landing
  /-- Issued by a handler (R308, R326). -/
  handler : Bool
  deriving DecidableEq, Repr

/-- A transfer channel (R309, R334). -/
structure Xf where
  src : Word := 0
  dst : Word := 0
  len : Word := 0
  irq : Bool := false
  dir : Bool := false
  done : Bool := false
  err : BitVec 4 := 0
  mhi : Byte := 0
  busy : Bool := false
  deriving DecidableEq, Repr

/-- SCn_STATUS.EXEC (R317). -/
inductive Exec where
  | waiting | task | init | handler | halted
  deriving DecidableEq, Repr

/-- The header of the placed image (R310). -/
structure Image where
  taskEntry : BitVec 16 := 0
  initEntry : BitVec 16 := 0xFFFF
  trapEntry : BitVec 16 := 0xFFFF
  irqEntry : BitVec 16 := 0xFFFF
  paramBase : Word := 0
  paramCount : Nat := 0
  wcetBase : Nat := 0
  wcetPerTick : Nat := 0
  minLog : Nat := 0
  maxLog : Nat := 0
  version : Word := 0
  secVersion : Word := 0
  deriving DecidableEq, Repr

/-- One signal core (11, 12). -/
structure Core where
  /-- R292; the main bank. -/
  main : Bank := {}
  /-- R307; the shadow bank. -/
  shadow : Bank := {}
  /-- R292; X32-X63, physical. DESIGN CHOICE 0 (log 6) -/
  xu : Vector Lanes 32 := Vector.replicate 32 (Vector.replicate 8 0)
  /-- R292; A8-A15. DESIGN CHOICE 0 (log 6) -/
  au : Vector AccLanes 8 := Vector.replicate 8 (Vector.replicate 8 0)
  /-- R292; 8 bits signed. E. DESIGN CHOICE 0 (log 6) -/
  e : BitVec 8 := 0
  /-- R331; 32 bits. BV. DESIGN CHOICE 0 (log 6) -/
  bv : Word := 0
  /-- R331; 32 bits. BI. DESIGN CHOICE 0 (log 6) -/
  bi : Word := 0
  /-- R325; 8 bits. AOV. DESIGN CHOICE 0 (log 6) -/
  aov : Byte := 0
  /-- R293; 5 bits. RB. DESIGN CHOICE 0 (log 6) -/
  rb : BitVec 5 := 0
  /-- R337; the active loops, innermost first. -/
  loops : List Loop := []
  /-- R317; 12 bits. Program counter. -/
  pc : BitVec 12 := 0
  /-- R317; EXEC. -/
  exec : Exec := .waiting
  /-- R307; bundle and state to resume after the handler. -/
  retPc : BitVec 12 := 0
  retExec : Exec := .waiting
  /-- R308; the handler is a trap handler. -/
  trapHandler : Bool := false
  /-- R295; bundles issued (the model's own count). DESIGN CHOICE 0 (log 14) -/
  cycle : Nat := 0
  /-- R295; results in flight. -/
  flight : List Flight := []
  /-- R336; WAITXF pauses the core until these channels show DONE. -/
  waitXf : Option (BitVec 4) := none
  /-- R326; an AOV trap is pending: the bundle that issued the operation, and whether a handler issued it. -/
  aovTrap : Option (BitVec 12 × Bool) := none
  /-- R309; a transfer has ended with MEM_ERROR and its trap is pending. -/
  xfTrap : Bool := false
  /-- R294; 17 bits. IBASE. DESIGN CHOICE 0 (log 6) -/
  ibase : BitVec 17 := 0
  /-- R294; 17 bits. OBASE. DESIGN CHOICE 0 (log 6) -/
  obase : BitVec 17 := 0
  /-- R294; 64 bits. TASKN. DESIGN CHOICE 0 (log 6) -/
  taskn : DWord := 0
  /-- R294; 7 bits. BLEN. DESIGN CHOICE 0 (log 6) -/
  blen : BitVec 7 := 0
  /-- R303; 32 bits. PSEQ. DESIGN CHOICE 0 (log 6) -/
  pseq : Word := 0
  /-- R294; 16 bits. DBELL. DESIGN CHOICE 0 (log 6) -/
  dbell : BitVec 16 := 0
  /-- R309; the transfer channels. DESIGN CHOICE 0 (log 6) -/
  xf : Vector Xf 4 := Vector.replicate 4 {}
  /-- R307; 8 bits. IRQ_EN. DESIGN CHOICE 0 (log 6) -/
  irqEn : Byte := 0
  /-- R307; 8 bits. IRQ_PEND. DESIGN CHOICE 0 (log 6) -/
  irqPend : Byte := 0
  /-- R305; the first block whose task may be released since the start. -/
  firstBlock : DWord := 0
  /-- R306; the task in hand missed its deadline. -/
  late : Bool := false
  /-- R302; the task's output was handed over: block and samples (R302, R305). -/
  outBlock : Option DWord := none
  /-- R199; the task in hand began before a counter load: its block has no place in the new count. -/
  orphan : Bool := false
  /-- R304; 64 bits. The tick of the last release, and how far into it, units of 1/1.2 GHz. -/
  released : DWord := 0
  relOff : Nat := 0
  /-- R305; a stop has reached STOPPED: no further release. -/
  stopping : Bool := false
  /-- R303; parameter words written and not yet copied. -/
  dirty : List (Nat × Word) := []
  /-- R312; the placed image's header. -/
  image : Image := {}
  /-- R312; IMAGE_OK. -/
  imageOk : Bool := false
  /-- R312; IMAGE_UNCERTAIN. -/
  imageUncertain : Bool := false
  /-- R314; WCET_FAIL. -/
  wcetFail : Bool := false
  /-- R317; 24 bits. TASK_LAST. -/
  taskLast : Word := 0
  /-- R317; 24 bits, RC. TASK_MAX. -/
  taskMax : Word := 0
  /-- R317; 32 bits. SCn_TRAP. -/
  trap : Word := 0
  /-- R317; 64 bits. SCn_TRAP_TICK. -/
  trapTick : DWord := 0
  /-- R317; 8 bits. AOV as at the last END. -/
  aovEnd : Byte := 0
  deriving DecidableEq, Repr

/-- One decimator channel (R344-R352). -/
structure Dec where
  /-- R345; the bits before the boundary, newest first. -/
  bits : List Bool := []
  /-- R350; samples of settling left, plus 1; 0: not settling. -/
  settle : Nat := 0
  /-- R344, R350; gain of the channel. -/
  fade : Fade := { pos := 0, up := false }
  /-- R344; the level of the newest bit, and how many bits in a row have had it. -/
  level : Bool := false
  run : Nat := 0
  /-- R344; stuck. -/
  stuck : Bool := false
  /-- R349; the boundary of a reset that the channel's next token carries out. -/
  clearAt : Option DWord := none
  /-- R344; the sample held. -/
  last : Word := 0
  /-- R345; the sample delivered. -/
  out : Word := 0
  /-- R352; 32 bits. Peak. -/
  peak : Word := 0
  /-- R352; ticks of hold left. -/
  hold : Nat := 0
  /-- R352; mean square Q, units of 2^-64. -/
  q : Nat := 0
  /-- R352; 32 bits. Envelope. -/
  env : Word := 0
  /-- R346, R365; 8 bytes. The configuration entry in force since the last reset; none while the channel does not run. -/
  entry : List Byte := []
  deriving DecidableEq, Repr

/-- One TDM port (R354-R357). -/
structure Tdm where
  /-- R365; 3 bits. TDMx_STATUS.STATE. -/
  state : BitVec 3 := 0
  /-- R357; gain of the slots. -/
  fade : Fade := { pos := 0, up := false }
  /-- R357; consecutive good frames. -/
  good : Nat := 0
  /-- R357; consecutive frames of wrong rate, and of the same wrong bit-clock count. -/
  badRate : Nat := 0
  badBck : Nat := 0
  lastBck : Nat := 0
  /-- R365; 16 bits. FRAME_BCK. -/
  frameBck : BitVec 16 := 0
  /-- R365; 32 bits signed. TDMx_FREQ. -/
  ppm : Word := 0
  /-- R354; the slots of the frame received in this tick, once it is found good. -/
  rx : Option (List Word) := none
  /-- R357; input slots last received. -/
  last : List Word := []
  /-- R355; slots sent on TDMxDO in the frame of this tick; none: DO held low. -/
  output : List Word := []
  /-- R354; slots of the next frame. -/
  queued : List Word := []
  /-- R356; the clocks run. -/
  clocks : Bool := false
  deriving DecidableEq, Repr

/-- Decimators, PDM and TDM ports (13). -/
structure LocalSt where
  /-- R340; the channels. -/
  decs : Vector Dec 40 := Vector.replicate 40 {}
  /-- R340; the bit streams of DEC0-DEC39 as sampled in the last tick, newest first. -/
  streams : List (List Bool) := []
  /-- R365; 4 bits. CLK_RUN. -/
  clkRun : BitVec 4 := 0
  /-- R365; 4 bits. WARMING. -/
  warming : BitVec 4 := 0
  /-- R365; 4 bits. RATIO128 in force. -/
  ratio128 : BitVec 4 := 0
  /-- R365; 64 bits. DEC_SYNC_TICK. -/
  syncTick : DWord := 0
  /-- R349; the boundary SYNC_RESETS was last counted at. -/
  syncSeen : Option DWord := none
  /-- R365; DEC_DSYNC.LEVEL. -/
  dsync : Bool := false
  /-- R351; an accepted edge waits for its boundary. -/
  dsyncWait : Bool := false
  /-- R351; 64 bits. The tick in which the edge that waits was accepted. -/
  dsyncFrom : DWord := 0
  /-- R351; the boundary of the last DSYNC reset; edges up to two ticks later are ignored. -/
  dsyncAt : Option DWord := none
  /-- R353; the TDM ports. -/
  tdm : Vector Tdm 2 := Vector.replicate 2 {}
  deriving DecidableEq, Repr

/-- A polarity or load test on a channel (R408, R410). -/
structure TestRun where
  job : Nat
  polarity : Bool
  repeats : Nat
  results : List (Byte × BitVec 24) := []
  fade : Fade := {}
  /-- The result record is written; the programme rises. -/
  finished : Bool := false
  deriving DecidableEq, Repr

/-- One power channel with its protection and its coil model (14, 15).
Volts are held in units of 2^-32 V, gains in units of 2^-32, temperatures in units of 2^-48 degC. -/
structure Pch where
  /-- R389; 3 bits. PHASE. -/
  phase : BitVec 3 := 0
  /-- R377, R378; the common-mode duty as a position on the raised-cosine law; DUTY_CM is 512 times its gain. -/
  cm : Fade := { pos := 0, up := false }
  /-- R377, R378; gain of the output. -/
  fade : Fade := { pos := 0, up := false }
  /-- R371; G_vol x V_pk and its ramp; the reset value is LEVEL 0, VOLUME 0: 10 V (R387, R389). -/
  scale : Nat := 42949672960
  scaleRamp : Option Ramp := none
  /-- R371, R382; V_pk and its ramp, which the Chive path takes without VOLUME. -/
  vpk : Nat := 42949672960
  vpkRamp : Option Ramp := none
  /-- R378; cause of the stop: 0 for FUNC_STOP, else the cause of FAULTED that follows. -/
  stopCause : Byte := 0
  /-- R16; 32 bits. The sink value of the tick before, which the modulator takes in this tick. -/
  sample : Word := 0
  /-- R370; clipped in the last tick. -/
  clip : Bool := false
  /-- R381; CHIVE_SRC in force. -/
  chiveSrc : Byte := 0xFF
  /-- R382; CHIVE_GAIN in force. -/
  chiveGain : BitVec 4 := 0
  /-- R384; r. -/
  chive : Fade := { pos := 0, up := false }
  /-- R384; ticks until the new setting takes effect. -/
  chiveWait : Nat := 0
  /-- R384; CHIVE_CUT. -/
  cut : Bool := false
  /-- R415; 3 bits. SAGEc_PROT.STATE. -/
  prot : BitVec 3 := 0
  /-- R415; 4 bits. KIND. -/
  kind : BitVec 4 := 0
  /-- R394; 8 bits. RETRY, saturating. -/
  retry : Nat := 0
  /-- R369; v at the last tick, units of 2^-32 V, after clipping. -/
  vOut : Int := 0
  /-- R393, R394; entry into FAULTED with this cause at the next boundary. -/
  toFault : Option Byte := none
  /-- R391; the KIND of a slow protection, die or baseplate stop that takes effect at the next boundary. -/
  stopNext : Option (BitVec 4) := none
  /-- R393; the KINDs of shorts and overloads whose report is due at the next boundary. -/
  notices : List (BitVec 4) := []
  /-- R378, R379, R393-R395; the boundary from which the wait in hand runs (RETRY_TIME, the probe, the fast stop,
  RETRY_CLEAR); in STOPPING the boundary at which the switches open. DESIGN CHOICE 0 (log 6) -/
  mark : DWord := 0
  /-- R415; OPEN. -/
  openLoad : Bool := false
  /-- R415; Z_LOW. -/
  zLow : Bool := false
  /-- R415; Z_HIGH. -/
  zHigh : Bool := false
  /-- R391; consecutive windows outside and inside the impedance window. -/
  zOut : Nat := 0
  zIn : Nat := 0
  /-- R415; COIL_MUTE. -/
  coilMute : Bool := false
  /-- R415; DIE_WARN. -/
  dieWarn : Bool := false
  /-- R397; a die stop in force until below 130 degC. -/
  dieStop : Bool := false
  /-- R415; 16 bits signed, 1/16 degC. DIE. -/
  die : BitVec 16 := 0
  /-- R398; W, units of 2^-16. P_avg. -/
  pAvg : Nat := 0
  /-- R405; g_coil and g_stage. -/
  gCoil : Nat := 4294967296
  gStage : Nat := 4294967296
  /-- R399; G_sage at the update before, and the ticks since the last update. -/
  gFrom : Nat := 4294967296
  gStep : Nat := 16
  /-- R404, R415; T_c and T_m. -/
  tc : Int := 0
  tm : Int := 0
  /-- R402, R404, R391; the ticks of the last Sage update, of the end of the last estimation window and of the last
  impedance window. DESIGN CHOICE 0 (log 6) -/
  sageAt : Option DWord := none
  winAt : DWord := 0
  zAt : DWord := 0
  /-- R407; the persisted copy of T_c and T_m; none: never stored. DESIGN CHOICE none (log 6) -/
  saved : Option (Int × Int) := none
  /-- R415; 16 bits. R_EST and VALID. -/
  rEst : Nat := 0
  rValid : Bool := false
  /-- R415; windows since the last valid one. -/
  rAge : Nat := 0
  /-- R407; RESEED. -/
  reseed : Bool := false
  /-- R406; SENSE_LOST. -/
  senseLost : Bool := false
  /-- R415; 32 bits. SAGEc_Z. -/
  z : Word := 0xFFFFFFFF
  /-- R405; G_sage was below 1 at the last update. -/
  limiting : Bool := false
  /-- R408, R410; the test running. -/
  test : Option TestRun := none
  deriving DecidableEq, Repr

/-- The power channels, the switching frequency and the module's temperatures. -/
structure PwrSt where
  /-- R366; the channels. -/
  ch : Vector Pch 4 := Vector.replicate 4 {}
  /-- R389; 32 bits. PCH_FSW_CTRL. -/
  fswCtrl : Word := 0x00020190
  /-- R389; 4 x 32 bits. PCH_BAND_i. -/
  bands : Vector Word 4 := Vector.replicate 4 0
  /-- R389; 8 bits. G. -/
  g : Byte := 0
  /-- R389; VALID. -/
  valid : Bool := false
  /-- R376; NONE. -/
  noFsw : Bool := false
  /-- R389; 16 bits. FSW. -/
  fsw : BitVec 16 := 0
  /-- R415; 16 bits signed, 1/16 degC. SAGE_BASEPLATE. -/
  base : BitVec 16 := 0
  /-- R415; BASE_WARN. -/
  baseWarn : Bool := false
  /-- R415; BASE_STOP. -/
  baseStop : Bool := false
  /-- R397; logic-die warning. -/
  logicWarn : Bool := false
  /-- R407; the tick of the last of the 10 s saves. DESIGN CHOICE 0 (log 6) -/
  savedAt : DWord := 0
  deriving DecidableEq, Repr

/-- A migration (R432). -/
structure Mig where
  rank : Fin 4
  share : Nat
  doneMib : Nat := 0
  /-- The MEM_RETIRE in progress; none for an automatic retirement. -/
  job : Option Nat := none
  /-- An automatic retirement of the same rank: it cannot be aborted (R433). -/
  auto : Bool := false
  deriving DecidableEq, Repr

/-- A crossbar transaction outstanding (R417). -/
structure Txn where
  id : BitVec 6
  req : XbarReq
  target : Fin 10
  granted : Bool := false
  /-- Its master was reset: it ends without effect on the master (R420). -/
  abandoned : Bool := false
  /-- What the target answers: status code and data; none until served. -/
  answer : Option (Byte × List Byte) := none
  deriving DecidableEq, Repr

/-- Crossbar, DRAM controller and its registers (16). -/
structure MemSt where
  /-- R427; HOT. -/
  hot : Bool := false
  /-- R428; 4 bits. Ranks in self-refresh. -/
  selfRefresh : BitVec 4 := 0
  /-- R427; refreshes owed by each rank. -/
  owed : Vector Nat 4 := Vector.replicate 4 0
  /-- R432; the migration running. -/
  mig : Option Mig := none
  /-- R441; 3 x 2 bits. L0, L1, L2. -/
  rankMap : Vector (Fin 4) 3 := #v[0, 1, 2]
  /-- R441; 2 bits. SPARE. -/
  spare : Fin 4 := 3
  /-- R441; SPARE_VALID. -/
  spareValid : Bool := true
  /-- R441; 4 x 2 bits. STATE_r. -/
  ranks : Vector (BitVec 2) 4 := #v[0, 0, 0, 1]
  /-- R434; ranks failed with no spare. -/
  failed : BitVec 4 := 0
  /-- R423; 4 x 32 bits. BANK_MASK_k in force. -/
  masks : Vector Word 4 := #v[0x01111000, 0x02222000, 0x04444000, 0x08888000]
  /-- R441; 40 bits. MEMC_ERR. -/
  errAddr : BitVec 40 := 0
  /-- R441; 32 bits. MEMC_ERR_INFO. -/
  errInfo : Word := 0
  /-- R441; 32 bits. MEMC_RH_LAST. -/
  rhLast : Word := 0
  /-- R441; 16 bits, RC. MEMC_WORST_RT0. -/
  worst : BitVec 16 := 0
  /-- R431; poisoned words: word addresses. -/
  poison : List Nat := []
  /-- R431; the seconds (POWERED_S) of each rank's corrected errors within the last hour. -/
  ceHour : Vector (List Nat) 4 := Vector.replicate 4 []
  /-- R430; activations of rows in this window, by (rank * 16 + bank) * 32768 + row. -/
  rows : Store Nat := []
  /-- R430; the last activations of each bank, newest first, at most 64: row and master. -/
  acts : Store (List (Nat × Nat)) := []
  /-- R422; the open row of each bank. -/
  openRow : Store Nat := []
  /-- R430; masters throttled in a bank: (bank, master). -/
  throttled : List (Nat × Nat) := []
  /-- R417; transactions outstanding of each master. -/
  txns : Vector (List Txn) 13 := Vector.replicate 13 []
  /-- R417; requests waiting at their master, oldest first. -/
  queued : Vector (List XbarReq) 13 := Vector.replicate 13 []
  /-- R418; the master last granted at each target and priority, by 16 * target + priority. DESIGN CHOICE 12 where
  none is listed, so that M0 comes first (log 17) -/
  granted : Store Nat := []
  /-- R420; 13 bits. DRAINING. -/
  draining : BitVec 13 := 0
  /-- R442; 13 x 6 bits, RC. XBAR_PEAK. -/
  peak : Vector Nat 13 := Vector.replicate 13 0
  /-- R442; 32 bits, RC. XBAR_ERR_COUNT. -/
  errCount : Word := 0
  /-- R417; the answer returned last: master, id, status, data. -/
  lastResp : Option (Fin 13 × BitVec 6 × Byte × List Byte) := none
  deriving DecidableEq, Repr

/-- One fault-log entry (R449). -/
structure LogEntry where
  seq : Word
  code : Byte
  func : Byte
  cause : Byte
  timeValid : Bool
  tick : DWord
  cycle : BitVec 16
  repeats : BitVec 16
  powered : Word
  data : DWord
  /-- R451; the log's own count of ticks when the entry was written, which no counter load moves. -/
  born : Nat := 0
  deriving DecidableEq, Repr

/-- The fault log and the elapsed-time record (17). -/
structure LogSt where
  /-- R449; up to 8192 entries, newest first; at manufacture the factory entry. -/
  entries : List LogEntry := [⟨0, 0x0B, 0, 0, false, 0, 0, 0, 0, 0, 0⟩]
  /-- R451; ticks begun in this power cycle. -/
  clock : Nat := 0
  /-- R451; new entries in this second. -/
  second : Nat := 0
  /-- R451; entries dropped since the excess began. -/
  dropped : Nat := 0
  /-- R453; 64 bits. POWERED_S, live. -/
  poweredS : DWord := 0
  /-- R453; LIFE_EQ_S, units of 2^-16 s. -/
  lifeEq : Nat := 0
  /-- R453; 32 bits. POWER_CYCLES. -/
  cycles : Word := 0
  /-- R453; 32 bits. HV_WAKES. -/
  hvWakes : Word := 0
  /-- R453; 64 bits. HV_AWAKE_S. -/
  hvAwakeS : DWord := 0
  /-- R453; 64 bits. SWITCH_S. -/
  switchS : DWord := 0
  /-- R453; 16 bits signed. T_PEAK. DESIGN CHOICE 0 (log 6) -/
  tPeak : BitVec 16 := 0
  /-- R453; 14 x 32 bits. TEMP_BIN_k. -/
  bins : Vector Word 14 := Vector.replicate 14 0
  deriving DecidableEq, Repr

/-- The 48-bit counters (R161, R196, R228, R254, R286, R316, R364, R388, R414, R440, R445). -/
structure CntSt where
  /-- R444; 48 bits each, saturating; by `Cnt.key`; unlisted counters are 0. -/
  vals : Store Nat := []
  /-- R162; 16 bits each. HI registers, by the same key. -/
  hi : Store (BitVec 16) := []
  deriving DecidableEq, Repr

/-- The whole machine. -/
structure State where
  /-- Commands waiting, first in, first out. -/
  pending : List Instr
  chip : Chip
  life : LifeSt
  host : HostSt
  svc : SvcSt
  net : NetSt
  path : PathSt
  time : TimeSt
  strm : StrmSt
  lov : LovSt
  /-- R288; SC0-SC15. -/
  cores : Vector Core 16
  loc : LocalSt
  pwr : PwrSt
  memc : MemSt
  /-- R10, R416; the module's memory: DRAM, shared SRAM, parameter store, core memories; canonical list; log 5. -/
  mem : List Host.Cell
  log : LogSt
  cnt : CntSt
  /-- R15-R19; the edges between producers and consumers, by `edgeKey`. -/
  edges : Store Edge
  /-- The model's own counter behind free values (log 11). DESIGN CHOICE 0 -/
  free : Nat
  deriving DecidableEq, Repr

/-- The rings after reset: VEC of ring q is q (R87). -/
def resetRings : Vector Ring 32 := Vector.ofFn fun q => { vec := BitVec.ofNat 5 q.val }

/-- The module right after reset: no line power yet, every register at its reset value, nothing stored, no command
waiting. LINE_POWER_UP starts it (R62). -/
def State.reset : State where
  pending := []
  chip := {}
  life := {}
  host := { rings := resetRings }
  svc := {}
  net := {}
  path := {}
  time := { refs := (Vector.replicate 6 {}).set 0 { present := true, qualified := true } }
  strm := {}
  lov := {}
  cores := Vector.replicate 16 {}
  loc := {}
  pwr := {}
  memc := {}
  mem := []
  log := {}
  cnt := {}
  edges := []
  free := 0

end Sys2Proof.Machine
end

