-- ==== Sys2Proof/Machine/Ops.lean ====
section
/-! DEFINITION. The shared operations over the state: sparse data, memory, functions, parameters, counters, the event
word, the fault log, and the completion of descriptors. -/

namespace Sys2Proof

/-! Functions (R73, R75, R459). -/

/-- The place of a function in `LifeSt.funcs`. -/
def Func.idx : Func → Fin 34
  | .pathA => 0 | .pathB => 1 | .streamRx => 2 | .streamTx => 3 | .timekeeper => 4 | .lovage => 5 | .capture => 6
  | .decim => 7 | .pdm => 8 | .tdm0 => 9 | .tdm1 => 10 | .service => 11 | .memctl => 12
  | .sc n => ⟨13 + n.val, by omega⟩
  | .pch c => ⟨29 + c.val, by omega⟩
  | .sage => 33

/-- The function ID. -/
def Func.id : Func → Byte
  | .pathA => 0x01 | .pathB => 0x02 | .streamRx => 0x03 | .streamTx => 0x04 | .timekeeper => 0x05 | .lovage => 0x06
  | .capture => 0x07 | .decim => 0x08 | .pdm => 0x09 | .tdm0 => 0x0A | .tdm1 => 0x0B | .service => 0x0C
  | .memctl => 0x0D
  | .sc n => BitVec.ofNat 8 (0x10 + n.val)
  | .pch c => BitVec.ofNat 8 (0x20 + c.val)
  | .sage => 0x24

/-- The function of an ID; none for the IDs that no function has (R459). -/
def Func.ofId (b : Byte) : Option Func :=
  let n := b.toNat
  if n = 1 then some .pathA else if n = 2 then some .pathB else if n = 3 then some .streamRx
  else if n = 4 then some .streamTx else if n = 5 then some .timekeeper else if n = 6 then some .lovage
  else if n = 7 then some .capture else if n = 8 then some .decim else if n = 9 then some .pdm
  else if n = 10 then some .tdm0 else if n = 11 then some .tdm1 else if n = 12 then some .service
  else if n = 13 then some .memctl
  else if h : 0x10 ≤ n ∧ n < 0x20 then some (.sc ⟨n - 0x10, by omega⟩)
  else if h : 0x20 ≤ n ∧ n < 0x24 then some (.pch ⟨n - 0x20, by omega⟩)
  else if n = 0x24 then some .sage else none

/-- The functions of the high-voltage side (R2). -/
def Func.hv : Func → Bool
  | .pch _ => true
  | .sage => true
  | _ => false

end Sys2Proof

namespace Sys2Proof.Machine

open Sys2Proof

/-! Updates of one group of the state. -/

def State.onChip (g : Chip → Chip) (s : State) : State := { s with chip := g s.chip }
def State.onLife (g : LifeSt → LifeSt) (s : State) : State := { s with life := g s.life }
def State.onHost (g : HostSt → HostSt) (s : State) : State := { s with host := g s.host }
def State.onSvc (g : SvcSt → SvcSt) (s : State) : State := { s with svc := g s.svc }
def State.onNet (g : NetSt → NetSt) (s : State) : State := { s with net := g s.net }
def State.onPath (g : PathSt → PathSt) (s : State) : State := { s with path := g s.path }
def State.onTime (g : TimeSt → TimeSt) (s : State) : State := { s with time := g s.time }
def State.onStrm (g : StrmSt → StrmSt) (s : State) : State := { s with strm := g s.strm }
def State.onLov (g : LovSt → LovSt) (s : State) : State := { s with lov := g s.lov }
def State.onLoc (g : LocalSt → LocalSt) (s : State) : State := { s with loc := g s.loc }
def State.onPwr (g : PwrSt → PwrSt) (s : State) : State := { s with pwr := g s.pwr }
def State.onMemc (g : MemSt → MemSt) (s : State) : State := { s with memc := g s.memc }
def State.onLog (g : LogSt → LogSt) (s : State) : State := { s with log := g s.log }
def State.onCnt (g : CntSt → CntSt) (s : State) : State := { s with cnt := g s.cnt }
def State.onMem (g : List Host.Cell → List Host.Cell) (s : State) : State := { s with mem := g s.mem }
def State.onEdges (g : Store Edge → Store Edge) (s : State) : State := { s with edges := g s.edges }

/-- One element of a vector changed. -/
def vmod {α : Type} {n : Nat} (v : Vector α n) (i : Fin n) (g : α → α) : Vector α n := v.set i.val (g v[i]) i.isLt

def State.core (s : State) (n : Fin 16) : Core := s.cores[n]
def State.onCore (n : Fin 16) (g : Core → Core) (s : State) : State := { s with cores := vmod s.cores n g }
def State.ring (s : State) (q : Fin 32) : Ring := s.host.rings[q]
def State.onRing (q : Fin 32) (g : Ring → Ring) (s : State) : State :=
  s.onHost fun h => { h with rings := vmod h.rings q g }
def State.port (s : State) : Port → PortSt
  | .a => s.net.a
  | .b => s.net.b
def State.onPort (p : Port) (g : PortSt → PortSt) (s : State) : State :=
  match p with
  | .a => s.onNet fun n => { n with a := g n.a }
  | .b => s.onNet fun n => { n with b := g n.b }
def State.pch (s : State) (c : Fin 4) : Pch := s.pwr.ch[c]
def State.onPch (c : Fin 4) (g : Pch → Pch) (s : State) : State := s.onPwr fun p => { p with ch := vmod p.ch c g }
def State.dec (s : State) (c : Fin 40) : Dec := s.loc.decs[c]
def State.onDec (c : Fin 40) (g : Dec → Dec) (s : State) : State := s.onLoc fun l => { l with decs := vmod l.decs c g }
def State.tdm (s : State) (x : Fin 2) : Tdm := s.loc.tdm[x]
def State.onTdm (x : Fin 2) (g : Tdm → Tdm) (s : State) : State := s.onLoc fun l => { l with tdm := vmod l.tdm x g }

/-- The other port, or path. -/
def otherPort : Port → Port
  | .a => .b
  | .b => .a

/-- Fold a state update over a list. -/
def forAll {α : Type} : List α → (α → State → State) → State → State
  | [], _, s => s
  | a :: l, g, s => forAll l g (g a s)

/-! Sparse data. -/

/-- The entry of a key. -/
def Store.get? {α : Type} : Store α → Nat → Option α
  | [], _ => none
  | (j, v) :: r, k => if j = k then some v else Store.get? r k

/-- A key given a value; keys stay strictly rising. -/
def Store.put {α : Type} : Store α → Nat → α → Store α
  | [], k, v => [(k, v)]
  | (j, w) :: r, k, v =>
    if k < j then (k, v) :: (j, w) :: r
    else if k = j then (k, v) :: r
    else (j, w) :: Store.put r k v

/-- A key taken out. -/
def Store.del {α : Type} (m : Store α) (k : Nat) : Store α := m.filter fun e => e.1 != k

/-- Every value changed. -/
def Store.mapVal {α : Type} (m : Store α) (g : Nat → α → α) : Store α := m.map fun e => (e.1, g e.1 e.2)

/-! Memory (R10, R416, R437). An unlisted byte reads 0 (log 5). -/

/-- The byte at a module address. -/
def memByte (m : List Host.Cell) (a : Nat) : Byte :=
  match m with
  | [] => 0
  | (j, b) :: r => if j = a then b else memByte r a

/-- One byte written; a byte equal to what an unlisted address reads as is not listed. -/
def memPut : List Host.Cell → Nat → Byte → List Host.Cell
  | [], a, b => if b = 0 then [] else [(a, b)]
  | (j, c) :: r, a, b =>
    if a < j then (if b = 0 then (j, c) :: r else (a, b) :: (j, c) :: r)
    else if a = j then (if b = 0 then r else (a, b) :: r)
    else (j, c) :: memPut r a b

/-- Bytes written from an address up. -/
def memPutList (m : List Host.Cell) (a : Nat) : List Byte → List Host.Cell
  | [] => m
  | b :: bs => memPutList (memPut m a b) (a + 1) bs

/-- `n` bytes read from an address up. -/
def memGetList (m : List Host.Cell) (a : Nat) : Nat → List Byte
  | 0 => []
  | n + 1 => memByte m a :: memGetList m (a + 1) n

/-- The canonical form: addresses strictly rising and no entry equal to what an unlisted address reads as. -/
def Memory.wf : List Host.Cell → Bool
  | [] => true
  | (_, b) :: [] => b != 0
  | (j, b) :: (k, c) :: r => b != 0 && decide (j < k) && Memory.wf ((k, c) :: r)

/-- The module's memory, written and read. -/
def State.write (a : Nat) (bs : List Byte) (s : State) : State := s.onMem fun m => memPutList m a bs
def State.read (s : State) (a n : Nat) : List Byte := memGetList s.mem a n

/-- One byte of host memory written by the module. -/
def hostPut : List Host.Cell → Nat → Byte → List Host.Cell
  | [], a, b => [(a, b)]
  | (j, c) :: r, a, b =>
    if a < j then (a, b) :: (j, c) :: r
    else if a = j then (a, b) :: r
    else (j, c) :: hostPut r a b

def hostPutList (m : List Host.Cell) (a : Nat) : List Byte → List Host.Cell
  | [] => m
  | b :: bs => hostPutList (hostPut m a b) (a + 1) bs

/-- Bytes written by the module as bus master at a PCIe host address (R103, R123). -/
def State.writeHost (a : Nat) (bs : List Byte) (s : State) : State :=
  s.onHost fun h => { h with hostMem := hostPutList h.hostMem a bs }

/-- A poisoned word stays poisoned until all 4 of its bytes are written (R431). -/
def State.unpoison (a n : Nat) (s : State) : State :=
  s.onMemc fun m => { m with poison := m.poison.filter fun w => !(decide (a ≤ w) && decide (w + 4 ≤ a + n)) }

/-- Bytes written at a 64-bit address field: module memory with bit 63 set, host memory otherwise (R10). -/
def State.writeAt (a : DWord) (bs : List Byte) (s : State) : State :=
  if a.getLsbD 63 then (s.write (a.toNat % 2 ^ 40) bs).unpoison (a.toNat % 2 ^ 40) bs.length else s.writeHost a.toNat bs

/-! Free values (log 9, log 11). -/

def State.freshen (s : State) : State := { s with free := s.free + 1 }
/-- A value the spec does not fix. -/
def State.freeVal (w : Nat) (s : State) : BitVec w := Config.freeBits w s.free
/-- A condition the spec does not fix. -/
def State.freeBool (s : State) : Bool := (s.freeVal 1).getLsbD 0

/-! The functions' records. -/

def allSc : List (Fin 16) := List.finRange 16
def allPch : List (Fin 4) := List.finRange 4
def allDec : List (Fin 40) := List.finRange 40
def allRings : List (Fin 32) := List.finRange 32

/-- Every function, in the order of the IDs. -/
def allFuncs : List Func :=
  [.pathA, .pathB, .streamRx, .streamTx, .timekeeper, .lovage, .capture, .decim, .pdm, .tdm0, .tdm1, .service,
   .memctl] ++ allSc.map .sc ++ allPch.map .pch ++ [.sage]

def pathFunc : Port → Func
  | .a => .pathA
  | .b => .pathB

def tdmFunc (x : Fin 2) : Func := if x = 0 then .tdm0 else .tdm1

/-- Functions absent on this variant (R2). -/
def State.absent (s : State) (f : Func) : Bool := f.hv && s.chip.variant == .l

def State.func (s : State) (f : Func) : FuncRec := s.life.funcs[f.idx]
def State.onFunc (f : Func) (g : FuncRec → FuncRec) (s : State) : State :=
  s.onLife fun l => { l with funcs := vmod l.funcs f.idx g }
def State.life? (s : State) (f : Func) : Life := (s.func f).state
def State.running (s : State) (f : Func) : Bool := s.life? f == .running

/-- STARTING, RUNNING or STOPPING. -/
def Life.busy : Life → Bool
  | .starting => true | .running => true | .stopping => true
  | _ => false

/-- The code of GLOBAL_FSTATE_id.STATE (R74). -/
def Life.code : Life → Nat
  | .off => 0 | .stopped => 1 | .starting => 2 | .running => 3 | .stopping => 4 | .faulted => 5

/-- The tick counter now. -/
def State.now (s : State) : DWord := s.time.tick

/-- A change of life-cycle state, stamped (R118). -/
def State.setLife (f : Func) (st : Life) (s : State) : State :=
  s.onFunc f fun r => { r with state := st, lastChange := s.now }

/-- Sampling rates by code (R198): ticks per second. -/
def fsHz (c : BitVec 2) : Nat := if c = 0 then 44100 else if c = 1 then 48000 else if c = 2 then 88200 else 96000
def State.fsHz (s : State) : Nat := Machine.fsHz s.time.fs
/-- The length of the present tick in picoseconds, rounded as its boundaries are. -/
def State.tickPs (s : State) : Nat :=
  (s.now.toNat + 1) * 1000000000000 / s.fsHz - s.now.toNat * 1000000000000 / s.fsHz
/-- A time unit in which a second and a tick at every Fs are whole: units in a second, and in a tick. -/
def secondUnits : Nat := 28224000
def State.tickUnits (s : State) : Nat := secondUnits / s.fsHz
/-- 88.2 or 96 kHz. -/
def State.fast (s : State) : Bool := s.time.fs.toNat ≥ 2

/-- An island whose clock runs at this stage of the supply (R24, R458). -/
def islandRuns (i : Island) (s : State) : Bool :=
  match s.chip.supply with
  | .off => false
  | .stopped => match i with
    | .lovage => false | .sc _ => false | .path _ => false | .xbar => false | .service => false
    | _ => true
  | .clocked => match i with
    | .timing => true | .memctl => true | .decim => true
    | _ => false
  | _ => true

/-! Parameters (R10). A parameter no write has changed has its default. -/

def pidOf (f : Func) (idx : Nat) : Nat := f.id.toNat * 2 ^ 24 + idx
def State.param (s : State) (f : Func) (idx : Nat) (dflt : Nat) : Nat :=
  match s.life.params.get? (pidOf f idx) with
  | some v => v.toNat
  | none => dflt
def State.setParam (pid : Nat) (v : Word) (s : State) : State :=
  s.onLife fun l => { l with params := l.params.put pid v }
/-- Parameters of a function return to their defaults; a core's program words, which are words of its DY, stay (R84). -/
def State.dropParams (f : Func) (s : State) : State :=
  let word := fun (pid : Nat) => match f with
    | .sc _ => decide (0x100000 ≤ pid % 2 ^ 24)
    | _ => false
  s.onLife fun l => { l with params := l.params.filter fun e => e.1 / 2 ^ 24 != f.id.toNat || word e.1 }

/-- A fade time in units of 0.1 ms in ticks: rounded to nearest, at least 1 (R285). -/
def fadeTicks (s : State) (v : Nat) : Nat := max 1 ((2 * v * s.fsHz + 10000) / 20000)

/-! Counters (R444): 48 bits, saturating. -/

def cntKey (f : Nat) (i : Nat) : Nat := f * 4096 + i
def State.count (s : State) (f i : Nat) : Nat := ((s.cnt.vals.get? (cntKey f i)).getD 0)
def State.bumpBy (f i n : Nat) (s : State) : State :=
  s.onCnt fun c => { c with vals := c.vals.put (cntKey f i) (min (2 ^ 48 - 1) (s.count f i + n)) }
def State.bump (f i : Nat) (s : State) : State := s.bumpBy f i 1
def State.clearCnt (f i : Nat) (s : State) : State := s.onCnt fun c => { c with vals := c.vals.del (cntKey f i) }
/-- A read of a LO register: the low bits out, the upper bits held, the counter cleared (R162). -/
def State.readLo (f i : Nat) (s : State) : State :=
  let v := s.count f i
  let s1 := s.onCnt fun c =>
    { vals := c.vals.del (cntKey f i), hi := c.hi.put (cntKey f i) (BitVec.ofNat 16 (v / 2 ^ 32)) }
  s1.onChip fun c => { c with bus := some (BitVec.ofNat 32 v), unsupported := false }
def portFn : Port → Nat
  | .a => 1
  | .b => 2
/-- A port counter of R161, a path counter of R196. -/
def State.bumpPort (p : Port) (i : Nat) (s : State) : State := s.bump (portFn p) i
def State.bumpPath (p : Port) (i : Nat) (s : State) : State := s.bump (portFn p) (30 + i)

/-- 32-bit saturating addition. -/
def satInc (w : Word) : Word := if w = 0xFFFFFFFF then w else w + 1

/-! Events (R120). An event sets its bit in both EVENT words (R97). -/

def PageSt.raise (bit : Nat) (p : PageSt) : PageSt :=
  if p.event.getLsbD bit then p
  else { p with event := p.event ||| BitVec.ofNat 64 (2 ^ bit), seq := p.seq + 1, dirty := true, rose := true }

def State.raise (bit : Nat) (s : State) : State :=
  s.onHost fun h => { h with hostPage := h.hostPage.raise bit, tarrPage := h.tarrPage.raise bit }

/-! The fault log (R449-R451). -/

def LogEntry.same (e : LogEntry) (code func cause : Byte) : Bool :=
  e.code == code && e.func == func && e.cause == cause

/-- The newest entry of the same CODE, FUNC and CAUSE, updated in place (R451). -/
def mergeEntry (code func cause : Byte) (data : DWord) : List LogEntry → List LogEntry
  | [] => []
  | e :: r =>
    if e.same code func cause then
      { e with
        repeats := if e.repeats = 0xFFFF then 0xFFFF else e.repeats + 1
        data := if code = 0x03 then e.data + data else data } :: r
    else e :: mergeEntry code func cause data r

/-- An entry put at the head; the oldest of 8192 goes (R449). -/
def State.putEntry (code func cause : Byte) (data : DWord) (s : State) : State :=
  let seq := match s.log.entries with
    | [] => 0
    | e :: _ => e.seq + 1
  (s.onLog fun l => { l with
    entries := ({ seq, code, func, cause, timeValid := s.time.lock == 3, tick := s.now,
                  cycle := s.log.cycles.truncate 16, repeats := 0, powered := s.log.poweredS.truncate 32,
                  data, born := s.log.clock } :: l.entries).take 8192 }).raise 11

/-- A fault-log entry written, merged into one less than 1 s old, or dropped (R451). The first entry after an
excess is preceded by the code 0x0D entry that counts the dropped ones. -/
def State.logEntry (code func cause : Byte) (data : DWord) (s : State) : State :=
  let recent := s.log.entries.find? fun e => e.same code func cause
  let young := match recent with
    | some e => decide (e.cycle = s.log.cycles.truncate 16 ∧ s.log.clock - e.born < s.fsHz ∧ e.seq ≠ 0)
    | none => false
  if young then s.onLog fun l => { l with entries := mergeEntry code func cause data l.entries }
  else if s.log.second ≥ 1000 then s.onLog fun l => { l with dropped := l.dropped + 1 }
  else
    let s1 := if s.log.dropped = 0 then s
      else (s.putEntry 0x0D 0 0 (BitVec.ofNat 64 s.log.dropped)).onLog fun l => { l with dropped := 0 }
    (s1.putEntry code func cause data).onLog fun l => { l with second := l.second + 1 }

/-! Completion (R101-R105). -/

def stOk : Byte := 0x00
def stPartial : Byte := 0x01
def stLate : Byte := 0x02
def stLateApplied : Byte := 0x03
def stBadState : Byte := 0x04
def stBadDesc : Byte := 0x05
def stHostError : Byte := 0x06
def stMemError : Byte := 0x07
def stAborted : Byte := 0x08
def stAuthFail : Byte := 0x09
def stTimeout : Byte := 0x0A
def stBudget : Byte := 0x0B
def stAbsent : Byte := 0x0C

/-- The 16 bytes of a record, with its PHASE bit (R101). -/
def Rec.bytes (r : Rec) (phase : Bool) : List Byte :=
  leBytes 2 r.tag.toNat ++ [r.status,
    BitVec.ofNat 8 ((if r.uncertain then 1 else 0) + 2 * r.cause.toNat + (if phase then 128 else 0))]
  ++ leBytes 4 r.done.toNat ++ leBytes 8 r.tick.toNat

/-- A record of a Noard request joins its reply (R133). -/
def NoardReq.take (q : Fin 32) (r : Rec) (n : NoardReq) : NoardReq :=
  if n.ring = q ∧ (r.idx - n.first).toNat < n.count ∧ 0 < n.left then
    { n with left := n.left - 1, recs := n.recs ++ [(some (r.idx - n.first).toNat, r.bytes false)] }
  else n

/-- Position `a` comes before position `b` in a ring. -/
def idxBefore (a b : Word) : Bool := a != b && decide ((b - a).toNat < 2 ^ 31)
/-- A record among those that wait: behind them, but those of the same tick stand in ring order (R103). -/
def insertRec (r : Rec) : List Rec → List Rec
  | [] => [r]
  | w :: l => if (w :: l).all fun x => x.tick == r.tick && idxBefore r.idx x.idx then r :: w :: l else w :: insertRec r l

/-- A record formed: it waits for its place in the completion ring (R102, R103). -/
def State.addRec (q : Fin 32) (r : Rec) (s : State) : State :=
  (s.onRing q fun g => { g with waiting := insertRec r g.waiting }).onSvc fun v => { v with reqs := v.reqs.map (·.take q r) }

/-- The end of a descriptor. An error after some units is PARTIAL with the error as CAUSE; with none, the error
itself; ABORTED and OK stand as they are (R105). -/
def mkRec (tag : BitVec 16) (irq : Bool) (idx : Word) (status : Byte) (done : Nat) (unc : Bool) (tick : DWord) : Rec :=
  let partialEnd := status.toNat ≥ 2 ∧ status ≠ stAborted ∧ status ≠ stLateApplied ∧ (done ≠ 0 ∨ unc)
  { tag, irq, idx, tick, uncertain := unc, done := BitVec.ofNat 32 done
    status := if partialEnd then stPartial else status
    cause := if partialEnd then status.truncate 4 else 0 }

def tagOf (d : Desc) : BitVec 16 := d.extractLsb' 32 16
def irqOf (d : Desc) : Bool := d.getLsbD 8

/-- A job taken out of the list of descriptors in progress. -/
def State.dropJob (uid : Nat) (s : State) : State :=
  s.onLife fun l => { l with jobs := l.jobs.filter fun j => j.uid != uid }

/-- A run with a progress word leaves its last count (R112). -/
def noteProgress (j : Job) (done : Nat) (s : State) : State :=
  let a := j.desc.extractLsb' 320 64
  if (j.op == 0x21 || j.op == 0x22) && a != 0 && !j.silent then
    s.onHost fun h => { h with progress := h.progress ++ [(j.ring, a, done)] }
  else s

/-- A descriptor in progress completes. -/
def State.endJob (j : Job) (status : Byte) (done : Nat) (unc : Bool) (s : State) : State :=
  let s1 := noteProgress j done (s.dropJob j.uid)
  if j.silent then s1 else s1.addRec j.ring (mkRec (tagOf j.desc) (irqOf j.desc) j.idx status done unc s.now)

/-- Every descriptor in progress that answers `p` completes with one status. -/
def State.endJobs (p : Job → Bool) (status : Byte) (done : Nat) (s : State) : State :=
  forAll (s.life.jobs.filter p) (fun j s => s.endJob j status done false) s

def State.onJob (uid : Nat) (g : Job → Job) (s : State) : State :=
  s.onLife fun l => { l with jobs := l.jobs.map fun j => if j.uid = uid then g j else j }

def State.job? (s : State) (p : Job → Bool) : Option Job := s.life.jobs.find? p

def Action.key (a : Action) : Nat := a.func.idx.val * 2 ^ 32 + a.id.toNat

/-- An action leaves its table and its SCHED completes. -/
def State.endAction (a : Action) (status : Byte) (done : Nat) (s : State) : State :=
  let s1 := s.onLife fun l => { l with acts := l.acts.filter fun b => b != a }
  if a.silent then s1 else s1.addRec a.ring (mkRec a.tag a.irq a.idx status done false s.now)

def State.endActions (p : Action → Bool) (status : Byte) (done : Nat) (s : State) : State :=
  forAll (s.life.acts.filter p) (fun a s => s.endAction a status done) s

/-- FUNC_START and FUNC_STOP in progress on a function, as descriptors and as applied SCHED actions. -/
def Job.is (op : Byte) (f : Func) (j : Job) : Bool := j.op == op && j.desc.extractLsb' 16 8 == f.id
def Action.pend (op : Byte) (f : Func) (a : Action) : Bool := a.applied && a.op == op && decide (a.func = f)

/-- The pending FUNC_START of a function completes (R75, R110). -/
def State.endStarts (f : Func) (status : Byte) (s : State) : State :=
  let done := if status = stOk then 1 else 0
  let s1 := s.endJobs (Job.is 0x12 f) status done
  forAll (s1.life.acts.filter (Action.pend 2 f))
    (fun a s => s.endAction a (if status = stOk ∧ a.late then stLateApplied else status) done) s1

/-- The pending FUNC_STOP of a function completes. -/
def State.endStops (f : Func) (status : Byte) (s : State) : State :=
  let done := if status = stOk then 1 else 0
  let s1 := s.endJobs (Job.is 0x10 f) status done
  forAll (s1.life.acts.filter (Action.pend 3 f))
    (fun a s => s.endAction a (if status = stOk ∧ a.late then stLateApplied else status) done) s1

/-! Fades (R18, R19). -/

/-- A fade of length `t` that begins from the gain reached; the position scale is exact. -/
def Fade.go (f : Fade) (up : Bool) (t : Nat) : Fade :=
  let t := max 1 t
  if f.pos = 0 then { pos := 0, full := t, step := 1, up }
  else if f.full ≤ f.pos then { pos := t, full := t, step := 1, up }
  else if f.step * t = f.full then { f with up }
  else { pos := f.pos * t, full := f.full * t, step := f.full, up }

/-- One tick along the law. -/
def Fade.tick (f : Fade) : Fade :=
  if f.up then { f with pos := min f.full (f.pos + f.step) } else { f with pos := f.pos - f.step }

def Fade.silent (f : Fade) : Bool := f.pos == 0
def Fade.atFull (f : Fade) : Bool := decide (f.full ≤ f.pos)
/-- The gain, 96 fractional bits. -/
def Fade.gain (f : Fade) : Nat := raised f.pos f.full
def Fade.zero : Fade := { pos := 0, up := false }
def Fade.one : Fade := {}

/-- A sample times a gain of 96 fractional bits; the neighbour is free where the product is not exact (log 9). -/
def gainWord (g : Nat) (w : Word) : Word :=
  if g = 2 ^ 96 then w else satWord (divOpen (w.toInt * (g : Int)) (2 ^ 96))

/-- A register read answered on the bus (R121). -/
def State.answer (w : Word) (s : State) : State := s.onChip fun c => { c with bus := some w, unsupported := false }

/-- Bit `n` of a word. -/
def bit (w : Word) (n : Nat) : Bool := w.getLsbD n
/-- A word with the bits of `mask` taken from `v`. -/
def mergeBits (mask old v : Word) : Word := (old &&& ~~~mask) ||| (v &&& mask)
def b2n (b : Bool) : Nat := if b then 1 else 0

/-! Islands and their tokens (R11, R12, R14). -/

def pathIx : Port → Nat
  | .a => 0
  | .b => 1

/-- Every island, with the key of its copy of the counter. -/
def islandIdx : Island → Nat
  | .lovage => 0 | .sc n => 1 + n.val | .path p => 17 + pathIx p | .mac p => 19 + pathIx p | .fwd => 21
  | .timing => 22 | .memctl => 23 | .xbar => 24 | .decim => 25 | .service => 26 | .isolink => 27

/-- The island that carries a function's work. The streams' functions and the power channels have no island of their
own (DESIGN CHOICE, log 26). -/
def islandOf : Func → Island
  | .pathA => .path .a | .pathB => .path .b | .timekeeper => .timing | .lovage => .lovage | .sc n => .sc n
  | .decim => .decim | .pdm => .decim | .tdm0 => .decim | .tdm1 => .decim
  | .service => .service | .streamRx => .service | .memctl => .memctl | .capture => .xbar | .streamTx => .xbar
  | .pch _ => .isolink | .sage => .isolink

/-- An island's copy of the tick counter (R12). -/
def State.copy (s : State) (i : Island) : DWord := (s.time.copies.get? (islandIdx i)).getD 0
def setCopy (i : Island) (n : DWord) (s : State) : State :=
  s.onTime fun t => { t with copies := t.copies.put (islandIdx i) n }
/-- The island has begun to take its next token. -/
def State.begun (s : State) (i : Island) : Bool := s.time.begun.getLsbD (islandIdx i)
def setBegun (i : Island) (b : Bool) (s : State) : State :=
  s.onTime fun t => { t with begun := mergeBits (BitVec.ofNat 32 (2 ^ islandIdx i)) t.begun (if b then 0xFFFFFFFF else 0) }
/-- The island stands still after a token mismatch (R12). -/
def State.halted (s : State) (i : Island) : Bool := s.time.halted.getLsbD (islandIdx i)
def setHalted (i : Island) (b : Bool) (s : State) : State :=
  s.onTime fun t => { t with halted := mergeBits (BitVec.ofNat 32 (2 ^ islandIdx i)) t.halted (if b then 0xFFFFFFFF else 0) }
/-- The boundary whose token the island has had, token first (R14). -/
def State.lastTok (s : State) (i : Island) : DWord := if s.begun i then s.copy i + 1 else s.copy i
/-- A FUNC_START and a FUNC_STOP reach their function's island (R14, R76). -/
def askStart (f : Func) (s : State) : State :=
  s.onFunc f fun r => { r with startReq := true, startAfter := s.lastTok (islandOf f) }
def askStop (f : Func) (off : Bool) (s : State) : State :=
  s.onFunc f fun r => { r with stopReq := true, offReq := r.offReq || off, stopAfter := s.lastTok (islandOf f) }

/-- The gain of a function's own fade on this tick, wherever its island's token is (R13, R76). -/
def State.funcGain (s : State) (f : Func) : Nat :=
  let r := (s.func f).fade
  if s.lastTok (islandOf f) = s.now then r.gain else r.tick.gain

end Sys2Proof.Machine
end

