-- ==== Sys2Proof/Machine/Operands.lean ====
section
/-! DEFINITION. The operand forms: the fields of a descriptor (R107, R10, R459) and of a signal core's slots (R322,
R327, R332). -/

namespace Sys2Proof.Machine

open Sys2Proof

/-- Bits [hi:lo] of a word as a number. -/
def bits {n : Nat} (w : BitVec n) (hi lo : Nat) : Nat := w.toNat / 2 ^ lo % 2 ^ (hi + 1 - lo)

/-- A signed field. -/
def sbits {n : Nat} (w : BitVec n) (hi lo : Nat) : Int :=
  let v := bits w hi lo
  if v < 2 ^ (hi - lo) then (v : Int) else (v : Int) - (2 ^ (hi + 1 - lo) : Int)

/-! Descriptor fields. -/

/-- `len` bytes of a descriptor from byte `off`. -/
def fld (d : Desc) (off len : Nat) : Nat := d.toNat / 2 ^ (8 * off) % 2 ^ (8 * len)
/-- One bit of a descriptor. -/
def fbit (d : Desc) (byte n : Nat) : Bool := d.getLsbD (8 * byte + n)
def opcodeOf (d : Desc) : Nat := fld d 0 1
def optOf (d : Desc) : Bool := fbit d 1 2
def orderedOf (d : Desc) : Bool := fbit d 1 1
def funcByte (d : Desc) : Byte := d.extractLsb' 16 8
/-- The level of the ring while this descriptor is at its head (R98). -/
def levelOf (d : Desc) (prio : BitVec 3) : Nat := if fbit d 3 7 then fld d 3 1 % 8 else prio.toNat

/-- Bytes `off … off+len-1`, as a mask of the descriptor. -/
def byteMask : List (Nat × Nat) → Nat
  | [] => 0
  | (off, len) :: r => (2 ^ (8 * len) - 1) * 2 ^ (8 * off) ||| byteMask r

/-- The payload bytes not listed are zero (R9). `spare` holds the reserved bits inside listed bytes. -/
def payloadOk (d : Desc) (used : List (Nat × Nat)) (spare : Nat := 0) : Bool :=
  let payload := (2 ^ 512 - 1) - (2 ^ 128 - 1)
  d.toNat &&& (payload - (payload &&& byteMask used)) == 0 && d.toNat &&& spare == 0

/-- Bit `n` of byte `b`, as a mask. -/
def bitMask (b lo hi : Nat) : Nat := (2 ^ (hi + 1 - lo) - 1) * 2 ^ (8 * b + lo)

/-- The header's reserved fields are zero; OPT and T are zero where the opcode has no use for them (R9, R107). -/
def headerOk (d : Desc) (opt time : Bool) : Bool :=
  d.toNat &&& (bitMask 1 3 7 ||| bitMask 3 3 6 ||| byteMask [(6, 2)]) == 0
  && (opt || !optOf d) && (time || fld d 8 8 == 0)

/-- FUNC is 0x00, as an opcode that uses none must have it (R459). -/
def noFunc (d : Desc) : Bool := funcByte d == 0

/-- A 64-bit address field has its reserved bits clear and the alignment asked for (R10). -/
def addrOk (a align : Nat) : Bool :=
  a % align == 0 && (a / 2 ^ 63 % 2 == 0 || a / 2 ^ 40 % 2 ^ 23 == 0)

/-- Whether an address field names module memory (R10). -/
def isModule (a : Nat) : Bool := a / 2 ^ 63 % 2 == 1
/-- The module address of such a field. -/
def modAddr (a : Nat) : Nat := a % 2 ^ 40

/-! The address map (R416, R288). -/

/-- The target port that holds a module address: DRAM counts as T0 here; a class decides between T0 and T1. -/
def targetOf (a : Nat) : Option (Fin 10) :=
  if a < 0x0180000000 then some 0
  else if 0x1000000000 ≤ a ∧ a < 0x1001000000 then
    some (let p := (a - 0x1000000000) / 0x400000
          if p = 0 then 2 else if p = 1 then 3 else if p = 2 then 4 else 5)
  else if 0x1010000000 ≤ a ∧ a < 0x1010400000 then some 6
  else if 0x1100000000 ≤ a ∧ a < 0x1101000000 then
    (let o := (a - 0x1100000000) % 0x100000
     if o < 0x10000 ∨ (0x40000 ≤ o ∧ o < 0x60000) ∨ (0x80000 ≤ o ∧ o < 0xA0000) then some 9 else none)
  else none

/-- Base of a core's local memories; DX and DY follow at 0x4_0000 and 0x8_0000 (R288). -/
def coreBase (n : Fin 16) : Nat := 0x1100000000 + n.val * 0x100000
def dxBase (n : Fin 16) : Nat := coreBase n + 0x40000
def dyBase (n : Fin 16) : Nat := coreBase n + 0x80000

/-- The logical rank a DRAM address lies in (R422). -/
def logicalRank (a : Nat) : Fin 3 := if a / 2 ^ 31 = 0 then 0 else if a / 2 ^ 31 = 1 then 1 else 2

/-- A DRAM address whose rank has failed with no spare (R434). -/
def State.rankFailed (s : State) (a : Nat) : Bool :=
  decide (a < 0x0180000000) && s.memc.failed.getLsbD (s.memc.rankMap[logicalRank a]).val

/-- The buffer ranges of R290, which T9 never writes. -/
def isBuffer (o : Nat) : Bool := (0x58000 ≤ o && o < 0x60000) || (0x9C000 ≤ o && o < 0xA0000)

/-- End of the readable stretch of DRAM from `a`, rank by rank. -/
def dramEnd (s : State) (a : Nat) : Nat :=
  let bad := fun r : Fin 3 => s.memc.failed.getLsbD (s.memc.rankMap[r]).val
  let r := logicalRank a
  if bad r then a
  else if r.val = 2 ∨ bad (if r.val = 0 then 1 else 2) then (r.val + 1) * 2 ^ 31
  else if r.val = 1 ∨ bad 2 then 0x100000000 + (if r.val = 1 then 2 ^ 31 else 0)
  else 0x0180000000

/-- End of the stretch that a master other than the firmware may read from `a` on: mapped, in no failed rank, not
the keys (R416, R434, R437). It is `a` where it may not read there. -/
def State.readEnd (s : State) (a : Nat) : Nat :=
  match targetOf a with
  | none => a
  | some t =>
    if t = 0 then dramEnd s a
    else if t = 6 then
      (if a < 0x1010010000 then 0x1010010000 else if a < 0x1010014000 then a else 0x1010400000)
    else if t = 9 then
      (let o := (a - 0x1100000000) % 0x100000
       a - o + (if o < 0x10000 then 0x10000 else if o < 0x60000 then 0x60000 else 0xA0000))
    else 0x1001000000

/-- The same for writes: the store's integrator area only, PM only in OFF or STOPPED, no core buffer (R291, R437). -/
def State.writeEnd (s : State) (a : Nat) : Nat :=
  match targetOf a with
  | none => a
  | some t =>
    if t = 0 then dramEnd s a
    else if t = 6 then (if 0x10103B0000 ≤ a then 0x1010400000 else a)
    else if t = 9 then
      (let o := (a - 0x1100000000) % 0x100000
       let st := s.life? (.sc (Fin.ofNat 16 ((a - 0x1100000000) / 0x100000)))
       if isBuffer o then a
       else a - o + (if o < 0x10000 then (if st == .off || st == .stopped then 0x10000 else o)
                     else if o < 0x60000 then 0x58000 else 0x9C000))
    else 0x1001000000

/-- The first poisoned word at or after `a`, up to `e` (R431). -/
def State.poisonEnd (s : State) (a e : Nat) : Nat :=
  s.memc.poison.foldl (fun e w => if a < w + 4 ∧ w < e then max a w else e) e

/-- Bytes of a range that can be read, or written, before the first one that cannot. A host address never fails a
write (R106). -/
def State.readable (s : State) (a n : Nat) : Nat :=
  if isModule a then min n (s.poisonEnd (modAddr a) (s.readEnd (modAddr a)) - modAddr a) else n
def State.writable (s : State) (a n : Nat) : Nat :=
  if isModule a then min n (s.writeEnd (modAddr a) - modAddr a) else n

/-- A 64-bit address field whose whole range can be written, or read. -/
def State.dstOk (s : State) (a n : Nat) : Bool := s.writable a n == n
def State.srcOk (s : State) (a n : Nat) : Bool := s.readable a n == n

/-- The PHYs and the forwarding engine have power (R24, R458). -/
def State.portsUp (s : State) : Bool := s.chip.supply != .off && s.chip.supply != .clocked
/-- The module may issue requests to the host (R121, R123). -/
def State.hostBus (s : State) : Bool := s.host.bme && s.portsUp
/-- An address that a transfer cannot use yet: a host address with bus mastering off (R123); DRAM before MEMCTL is
RUNNING (R418). -/
def State.busWait (s : State) (a : Nat) : Bool :=
  if isModule a then decide (modAddr a < 0x0180000000) && !s.running .memctl else !s.hostBus

/-! Address fields of a descriptor (R132): field offset, length of its range, and whether it is a destination. -/

/-- The units of a count field; a range that the descriptor itself does not bound is as long as it says. -/
def descRanges (d : Desc) : List (Nat × Nat × Bool) :=
  let op := opcodeOf d
  let used := (List.range 6).countP fun k => fld d (16 + 4 * k) 4 != 0
  let progress := if fld d 40 8 = 0 then [] else [(40, 8, true)]
  if op = 0x03 then [(40, 4 * used, true)]
  else if op = 0x11 then [(16, fld d 24 4, false)]
  else if op = 0x13 then [(16, 16, true)]
  else if op = 0x20 then [(16, fld d 32 4, false), (24, fld d 32 4, true)]
  else if op = 0x21 then (16, fld d 24 4, true) :: progress
  else if op = 0x22 then (16, fld d 24 4, false) :: progress
  else if op = 0x23 then [(16, fld d 24 4, false)]
  else if op = 0x30 then [(16, 8 * fld d 24 4, true)]
  else if op = 0x31 then [(16, 32 * fld d 28 4, true)]
  else if op = 0x32 then [(16, 32, true)]
  else if op = 0x40 then (if optOf d then [(16, 8 * fld d 24 4, false)] else [])
  else if op = 0x41 then [(16, 16 * fld d 32 4, true)]
  else if op = 0x51 then [(24, 16 + 4 * fld d 18 1, true)]
  else if op = 0x52 then [(24, if fld d 16 1 = 0 then 16 else 544, true)]
  else []

/-- The staging window, and Tarragon's own part of it (R126). -/
def inStaging (a n : Nat) : Bool := decide (a < 0x0180000000 ∧ 0x017E000000 < a + max 1 n)
/-- No range of the descriptor reaches into the staging window; what a host descriptor that does so meets is a DESIGN CHOICE
(log 54). -/
def clearOfStaging (d : Desc) : Bool :=
  (descRanges d).all fun r => !(isModule (fld d r.1 8) && inStaging (modAddr (fld d r.1 8)) r.2.1)

/-! Slot fields of a signal core. -/

/-- The fields of the MAC slot (R322); bit 0 of `w` is bundle bit 88. -/
def macStg (w : BitVec 40) : Nat := bits w 39 38
def macOpc (w : BitVec 40) : Nat := bits w 37 32
def macAd (w : BitVec 40) : Fin 16 := Fin.ofNat 16 (bits w 31 28)
def macXa (w : BitVec 40) : Fin 64 := Fin.ofNat 64 (bits w 27 22)
def macXb (w : BitVec 40) : Fin 64 := Fin.ofNat 64 (bits w 21 16)
def macAs (w : BitVec 40) : Fin 16 := Fin.ofNat 16 (bits w 15 12)
def macBc (w : BitVec 40) : Bool := w.getLsbD 11
def macBl (w : BitVec 40) : Fin 8 := Fin.ofNat 8 (bits w 10 8)

/-- Unused fields, the reserved byte and BL without BC are zero (R319, R322). -/
def macFieldsOk (w : BitVec 40) (ad xa xb as : Bool) : Bool :=
  bits w 7 0 == 0 && (ad || bits w 31 28 == 0) && (xa || bits w 27 22 == 0)
  && (as || bits w 15 12 == 0)
  && (if xb then macBc w || bits w 10 8 == 0 else bits w 21 16 == 0 && bits w 11 8 == 0)

/-- The fields of the ALU slot (R327); bit 0 of `w` is bundle bit 56. -/
def aluStg (w : BitVec 32) : Nat := bits w 31 30
def aluOpc (w : BitVec 32) : Nat := bits w 29 24
def aluXd (w : BitVec 32) : Fin 64 := Fin.ofNat 64 (bits w 23 18)
def aluXs1 (w : BitVec 32) : Fin 64 := Fin.ofNat 64 (bits w 17 12)
def aluXs2 (w : BitVec 32) : Fin 64 := Fin.ofNat 64 (bits w 11 6)
def aluAux (w : BitVec 32) : Nat := bits w 5 0
def aluImm18 (w : BitVec 32) : Int := sbits w 17 0
def aluImm14 (w : BitVec 32) : Nat := bits w 13 0
def aluSh (w : BitVec 32) : Int := sbits w 11 6
def aluAsrc (w : BitVec 32) : Fin 16 := Fin.ofNat 16 (bits w 5 2)
def aluRnd (w : BitVec 32) : Bool := w.getLsbD 1
def aluTarget (w : BitVec 32) : BitVec 12 := BitVec.ofNat 12 (bits w 23 12)
def aluCount (w : BitVec 32) : Nat := bits w 11 6
def aluRot (w : BitVec 32) : Bool := w.getLsbD 5
def aluStages (w : BitVec 32) : Nat := bits w 4 3 + 1

/-- The fields of a move slot (R332). -/
def mvStg (w : BitVec 28) : Nat := bits w 27 26
def mvOpc (w : BitVec 28) : Nat := bits w 25 22
def mvReg (w : BitVec 28) : Fin 64 := Fin.ofNat 64 (bits w 21 16)
def mvAcc (w : BitVec 28) : Fin 16 := Fin.ofNat 16 (bits w 19 16)
def mvPtr (w : BitVec 28) : Fin 16 := Fin.ofNat 16 (bits w 15 12)
def mvBr (w : BitVec 28) : Bool := w.getLsbD 11
def mvImm (w : BitVec 28) : Bool := w.getLsbD 10
def mvAsel (w : BitVec 28) : BitVec 6 := BitVec.ofNat 6 (bits w 15 10)
def mvLiaSel (w : BitVec 28) : BitVec 6 := BitVec.ofNat 6 (bits w 21 16)
def mvImm16 (w : BitVec 28) : Nat := bits w 15 0

/-- IMM = 0 leaves bits [9:3] reserved. -/
def mvModOk (w : BitVec 28) : Bool := mvImm w || bits w 9 3 == 0

end Sys2Proof.Machine
end

