-- ==== Sys2Proof/Machine/Flags.lean ====
section
/-! DEFINITION. Saturation, rounding and the sticky overflow flags: what the operations of a signal core compute
from a lane (R321-R331), and the flags of AOV (R325). -/

namespace Sys2Proof.Machine

open Sys2Proof

/-- A function of one lane, of two lanes, and of the lane numbers. -/
def mapLanes {α β : Type} (f : α → β) (v : Vector α 8) : Vector β 8 := v.map f
def zipLanes {α β γ : Type} (f : α → β → γ) (v : Vector α 8) (w : Vector β 8) : Vector γ 8 :=
  Vector.ofFn fun i => f v[i] w[i]
def splat {α : Type} (x : α) : Vector α 8 := Vector.replicate 8 x
/-- Lane 0, with zeros in the others. -/
def lane0 (x : Word) : Lanes := Vector.ofFn fun i => if i.val = 0 then x else 0

/-- The exact product of two lanes, in 80 bits (R321). -/
def mulLane (a b : Word) : Acc := BitVec.ofInt 80 (a.toInt * b.toInt)

/-- Lanes whose exact sum lies outside 80 bits; such a lane receives the sum modulo 2^80 (R325). -/
def ovLanes (f : Acc → Acc → Int) (a b : AccLanes) : Byte :=
  BitVec.ofNat 8 ((List.finRange 8).foldl (fun r i => r + b2n (overflows 80 (f a[i] b[i])) * 2 ^ i.val) 0)

def addExact (a b : Acc) : Int := a.toInt + b.toInt
def subExact (a b : Acc) : Int := a.toInt - b.toInt

/-- sat(r(A * 2^s / 2^31)): extraction with shift s and rounding (R329). -/
def extLane (rnd : Bool) (s : Int) (a : Acc) : Int :=
  let n : Nat := (31 - s).toNat
  let x := a.toInt * (2 ^ (s - 31).toNat : Int)
  let y := if rnd then roundEven x n else x / (2 ^ n : Int)
  y

def extWord (rnd : Bool) (s : Int) (a : Acc) : Word := satWord (extLane rnd s a)

/-- The largest shift from -32 to 31 whose rounded extraction does not saturate (R330). -/
def expaFrom (a : Acc) : Nat → Int
  | 0 => -32
  | k + 1 => if overflows 32 (extLane true ((k : Int) - 31) a) then expaFrom a k else (k : Int) - 31

def expaLane (a : Acc) : Int := expaFrom a 63

/-- A lane clamped to the range of E (R328). -/
def clampE (w : Word) : Int := if w.toInt < -32 then -32 else if w.toInt > 31 then 31 else w.toInt

/-- sat(|x|) (R328). -/
def absWord (w : Word) : Word := satWord (if w.toInt < 0 then -w.toInt else w.toInt)

/-- A search over the lanes, lane 0 first: each comparison uses the BV the lane before left (R331). -/
def searchGo (better : Word → Word → Bool) (key : Word → Word) (xs : List Word) (base : Word) (i : Nat)
    (bv bi : Word) : Word × Word :=
  match xs with
  | [] => (bv, bi)
  | x :: r =>
    if better (key x) bv then searchGo better key r base (i + 1) (key x) (base + BitVec.ofNat 32 i)
    else searchGo better key r base (i + 1) bv bi

end Sys2Proof.Machine
end

