-- ==== Sys2Proof/Machine/CoreOps.lean ====
section
/-! DEFINITION. A signal core's registers, results in flight, loop unit and traps (R288-R317, R337-R339). -/

namespace Sys2Proof.Machine

open Sys2Proof

/-! Registers (R292, R293). -/

def Core.inHandler (c : Core) : Bool := c.exec == .handler
def Core.bank (c : Core) : Bank := if c.inHandler then c.shadow else c.main
def Core.bankOf (c : Core) (sh : Bool) : Bank := if sh then c.shadow else c.main
def Core.onBank (sh : Bool) (g : Bank → Bank) (c : Core) : Core :=
  if sh then { c with shadow := g c.shadow } else { c with main := g c.main }

/-- The physical register behind a name of the window (R293). -/
def Core.phys (c : Core) (r : Fin 64) : Fin 32 := Fin.ofNat 32 (r.val - 32 + c.rb.toNat)

def Core.getX (c : Core) (r : Fin 64) : Lanes :=
  if h : r.val < 32 then c.bank.x[r.val] else c.xu[c.phys r]
def Core.destX (c : Core) (r : Fin 64) : Dest :=
  if r.val < 32 then .xLow (Fin.ofNat 32 r.val) c.inHandler else .xHigh (c.phys r)
def Core.accOf (c : Core) (sh : Bool) (r : Fin 16) : AccLanes :=
  if h : r.val < 8 then (c.bankOf sh).a[r.val] else c.au[r.val - 8]
def Core.getA (c : Core) (r : Fin 16) : AccLanes := c.accOf c.inHandler r
def Core.putA (sh : Bool) (r : Fin 16) (v : AccLanes) (c : Core) : Core :=
  if r.val < 8 then c.onBank sh fun b => { b with a := vmod b.a (Fin.ofNat 8 r.val) fun _ => v }
  else { c with au := vmod c.au (Fin.ofNat 8 (r.val - 8)) fun _ => v }

/-- A register named by ASEL, as MVRA reads it (R334). -/
def Core.getSel (c : Core) (i : BitVec 6) : Word :=
  let n := i.toNat
  let b := c.bank
  if n < 16 then b.p[Fin.ofNat 16 n]
  else if n < 24 then b.m[Fin.ofNat 8 (n - 16)]
  else if n < 32 then b.b[Fin.ofNat 8 (n - 24)]
  else if n < 40 then (b.l[Fin.ofNat 8 (n - 32)]).zeroExtend 32
  else if n < 56 then
    (let x := c.xf[Fin.ofNat 4 ((n - 40) / 4)]
     let k := (n - 40) % 4
     if k = 0 then x.src else if k = 1 then x.dst else if k = 2 then x.len
     else BitVec.ofNat 32 (2 * b2n x.irq + 4 * b2n x.dir + 8 * b2n x.done + 16 * x.err.toNat + 256 * x.mhi.toNat))
  else if n = 0x38 then c.ibase.zeroExtend 32
  else if n = 0x39 then c.obase.zeroExtend 32
  else if n = 0x3A then c.taskn.truncate 32
  else if n = 0x3B then (c.taskn >>> 32).truncate 32
  else if n = 0x3C then c.blen.zeroExtend 32
  else if n = 0x3D then c.pseq
  else if n = 0x3E then c.dbell.zeroExtend 32
  else BitVec.ofNat 32 (c.irqEn.toNat ||| 1) ||| ((c.irqPend ||| BitVec.ofNat 8 (b2n (c.aovTrap.isSome || c.xfTrap))).zeroExtend 32 <<< 8)

/-- A register named by ASEL written (R334). START on a transfer channel makes it busy (R309). -/
def Core.putSel (i : BitVec 6) (sh : Bool) (v : Word) (c : Core) : Core :=
  let n := i.toNat
  if n < 16 then c.onBank sh fun b => { b with p := vmod b.p (Fin.ofNat 16 n) fun _ => v }
  else if n < 24 then c.onBank sh fun b => { b with m := vmod b.m (Fin.ofNat 8 (n - 16)) fun _ => v }
  else if n < 32 then c.onBank sh fun b => { b with b := vmod b.b (Fin.ofNat 8 (n - 24)) fun _ => v }
  else if n < 40 then c.onBank sh fun b => { b with l := vmod b.l (Fin.ofNat 8 (n - 32)) fun _ => v.truncate 18 }
  else if n < 56 then
    (let k := (n - 40) % 4
     { c with xf := vmod c.xf (Fin.ofNat 4 ((n - 40) / 4)) fun x =>
        if k = 0 then { x with src := v } else if k = 1 then { x with dst := v } else if k = 2 then { x with len := v }
        else
          (let y := { x with irq := bit v 1, dir := bit v 2, mhi := v.extractLsb' 8 8 }
           if bit v 0 then { y with busy := true, done := false, err := 0 } else y) })
  else if n = 0x3F then
    { c with irqEn := v.truncate 8 &&& 0xFE, irqPend := c.irqPend &&& ~~~((v.extractLsb' 8 8) &&& 0x3E) }
  else c

/-! Results in flight (R295, R297). -/

def Flight.before (f g : Flight) : Bool :=
  f.due < g.due || (f.due == g.due && (f.issued < g.issued || (f.issued == g.issued && f.order < g.order)))

/-- The list stays in the order of landing. -/
def putFlight (f : Flight) : List Flight → List Flight
  | [] => [f]
  | g :: r => if f.before g then f :: g :: r else g :: putFlight f r

/-- An operation issued with latency `d`. Slot ranks are MAC 0, ALU 1, MV1 2, MV2 3 (R297). -/
def Core.issue (d order : Nat) (dest : Dest) (val : Landing) (c : Core) : Core :=
  { c with flight := putFlight { due := c.cycle + d, issued := c.cycle, order, pc := c.pc, dest, val,
                                 handler := c.inHandler } c.flight }

/-- Accumulator lanes after a landing, and the lanes that overflowed (R324, R325). -/
def landAcc (old : AccLanes) : Landing → AccLanes × Byte
  | .accSet v => (v, 0)
  | .accAdd v => (zipLanes (· + ·) old v, ovLanes addExact old v)
  | .accSub v => (zipLanes (· - ·) old v, ovLanes subExact old v)
  | .accSum a v => (zipLanes (· + ·) a v, ovLanes addExact a v)
  | .accPart part v =>
    (zipLanes (fun (o : Acc) (w : Word) =>
      if part = 0 then (o &&& ~~~(0xFFFFFFFF : Acc)) ||| w.zeroExtend 80
      else if part = 1 then (o &&& ~~~((0xFFFFFFFF : Acc) <<< 32)) ||| (w.zeroExtend 80 <<< 32)
      else (o &&& ~~~((0xFFFF : Acc) <<< 64)) ||| ((w &&& 0xFFFF).zeroExtend 80 <<< 64)) old v, 0)
  | .lanes _ => (old, 0)
  | .reg _ => (old, 0)

/-- A result lands in a register. With AOV_TRAP set, an AOV bit that rises makes the trap pending (R326). -/
def Core.land (aovTrap : Bool) (f : Flight) (c : Core) : Core :=
  match f.dest, f.val with
  | .xLow r sh, .lanes v => c.onBank sh fun b => { b with x := vmod b.x r fun _ => v }
  | .xHigh r, .lanes v => { c with xu := vmod c.xu r fun _ => v }
  | .acc r sh, v =>
    let (a, ov) := landAcc (c.accOf sh r) v
    let rise := ov &&& ~~~c.aov
    let c1 := { c.putA sh r a with aov := c.aov ||| ov }
    if aovTrap && rise != 0 then { c1 with aovTrap := some (f.pc, f.handler) } else c1
  | .asel i sh, .reg v => c.putSel i sh v
  | .aov, _ => { c with aov := 0 }
  | _, _ => c

/-- The accepted configuration block of a core, or nothing (R313, R457). -/
def State.scByte (s : State) (n : Fin 16) (i : Nat) : Nat :=
  match (s.func (.sc n)).config with
  | some l => leAt l i 1
  | none => 0
def State.scAovTrap (s : State) (n : Fin 16) : Bool := s.scByte n 2 % 2 == 1
def State.scLog2 (s : State) (n : Fin 16) : Nat := s.scByte n 1 % 8
/-- B, in ticks (R302). -/
def State.scBlock (s : State) (n : Fin 16) : Nat := 2 ^ s.scLog2 n

/-- A result lands: in a register, or a store in DX or DY (R295). -/
def landOne (n : Fin 16) (f : Flight) (s : State) : State :=
  match f.dest, f.val with
  | .mem dy a, .lanes v =>
    s.write ((if dy then dyBase n else dxBase n) + a.toNat) (v.toList.flatMap fun w => leBytes 4 w.toNat)
  | .mem dy a, .reg w => s.write ((if dy then dyBase n else dxBase n) + a.toNat) (leBytes 4 w.toNat)
  | _, _ => s.onCore n (·.land (s.scAovTrap n) f)

/-- The first result in flight lands (R296: it may land early). -/
def landFirst (n : Fin 16) (s : State) : State :=
  match (s.core n).flight with
  | [] => s
  | f :: r => landOne n f (s.onCore n fun c => { c with flight := r })

/-- Every result that is due lands, in the order of R297. -/
def landDue (n : Fin 16) (s : State) : State :=
  let c := s.core n
  let due := c.flight.filter fun f => decide (f.due ≤ c.cycle)
  forAll due (landOne n) (s.onCore n fun c => { c with flight := c.flight.filter fun f => !decide (f.due ≤ c.cycle) })

/-- Every result in flight lands (R336, before the next task's first bundle). -/
def landAll (n : Fin 16) (s : State) : State :=
  forAll (s.core n).flight (landOne n) (s.onCore n fun c => { c with flight := [] })

/-- The task in hand, in the main bank or behind a handler. -/
def Core.inTask (c : Core) : Bool := c.exec == .task || (c.inHandler && c.retExec == .task)

/-! The loop unit (R337-R339). -/

/-- The innermost loop's iteration lets a stage issue (R338). -/
def Core.stageOn (c : Core) (stg : Nat) : Bool :=
  match c.loops with
  | [] => true
  | l :: _ => if c.inHandler then true else decide (stg ≤ l.pass ∧ l.pass - stg < l.count)

/-- A stage field the loop in hand admits (R320). -/
def Core.stageOk (c : Core) (stg : Nat) : Bool :=
  if stg = 0 then true
  else if c.inHandler then false
  else match c.loops with
    | [] => false
    | l :: _ => decide (1 < l.stages ∧ stg < l.stages)

/-- RB after one completed pass (R293). -/
def Core.rotate (l : Loop) (c : Core) : Core := if l.rot then { c with rb := c.rb - 1 } else c

/-- The bundle at `pc` has issued without a branch: the next bundle, or none beyond 0xFFF. -/
def Core.advance (c : Core) : Core × Option (BitVec 12) :=
  let step : Option (BitVec 12) := if c.pc = 0xFFF then none else some (c.pc + 1)
  if c.inHandler then (c, step)
  else match c.loops with
    | [] => (c, step)
    | l :: r =>
      if c.pc = l.last then
        (let c1 := c.rotate l
         if l.pass + 1 < l.count + l.stages - 1 then
           ({ c1 with loops := { l with pass := l.pass + 1 } :: r }, some l.first)
         else ({ c1 with loops := r }, step))
      else (c, step)

/-- A branch to `t` ends every loop whose body does not contain it (R339). -/
def Core.branchTo (t : BitVec 12) (c : Core) : Core :=
  { c with loops := c.loops.dropWhile fun l => !(decide (l.first ≤ t) && decide (t ≤ l.last)) }

/-! Traps and interrupts (R307, R308, R317, R326). -/

/-- Entry into the shadow bank, with the bundle to resume. -/
def Core.enter (entry retPc : BitVec 12) (isTrap : Bool) (c : Core) : Core :=
  { c with exec := .handler, pc := entry, retPc, retExec := c.exec, trapHandler := isTrap }

/-- A trap in place of a bundle: recorded, and taken by TRAP_ENTRY, or leading to FAULTED (second component).
Nothing that the bundle has issued takes effect (R319). -/
def coreTrap (n : Fin 16) (cause : BitVec 4) (at_ ret : BitVec 12) (s : State) : State × Bool :=
  let c := s.core n
  let fatal := c.inHandler || c.image.trapEntry == 0xFFFF
  let word : Word := BitVec.ofNat 32 (cause.toNat + 16 * b2n (!fatal) + 2 ^ 16 * at_.toNat)
  let s1 := s.onCore n fun c => { c with
    trap := word, trapTick := s.now, waitXf := none
    flight := c.flight.filter fun f => f.issued != c.cycle }
  if fatal then (s1.onCore n fun c => { c with exec := .halted, retExec := .waiting, trapHandler := false }, true)
  else (s1.onCore n (·.enter (c.image.trapEntry.truncate 12) ret true), false)

/-! Blocks (R302, R305). -/

/-- The input and output buffers of a block (R290). -/
def inAddr (n : Fin 16) (b : Nat) : Nat := dxBase n + 0x18000 + 0x2000 * (b % 4)
def outAddr (n : Fin 16) (b : Nat) : Nat := dyBase n + 0x1C000 + 0x2000 * (b % 2)

/-- The words of an output block, tick by tick, 32 channels each. -/
def State.outWords (s : State) (n : Fin 16) (b : Nat) : List Word :=
  (List.range (32 * s.scBlock n)).map fun i => BitVec.ofNat 32 (ofLe (s.read (outAddr n b + 4 * i) 4))

/-- BUDGET (R304). -/
def State.scBudget (s : State) (n : Fin 16) : Nat := s.scBlock n * 1200000000 / s.fsHz - 256

/-- The island's own view of the tick: `g` with the counter at `n` (R12). A counter load within `g` stands (R199). -/
def atTick (n : DWord) (g : State → State) (s : State) : State :=
  if s.now = n then g s
  else
    let s1 := g (s.onTime fun x => { x with tick := n })
    if s1.now = n then s1.onTime fun x => { x with tick := s.now } else s1

/-- The declared worst case at the B in force; 0 when undeclared (R317). -/
def State.scWcet (s : State) (n : Fin 16) : Nat :=
  let i := (s.core n).image
  if i.wcetBase = 0 then 0 else i.wcetBase + i.wcetPerTick * s.scBlock n

end Sys2Proof.Machine
end

