-- ==== Sys2Proof/Machine/Edges.lean ====
section
/-! DEFINITION. The handshake channels between producers and consumers: hand-off, misses, hold-and-fade and the
ramp back in (R15-R22, R448). -/

namespace Sys2Proof.Machine

open Sys2Proof

def prodCode : Producer → Nat
  | .path => 0 | .sc n => 1 + n.val | .dec c => 17 + c.val | .tdm x => 57 + x.val | .lovage => 59
def consCode : Consumer → Nat
  | .lovage => 0 | .sc n => 1 + n.val | .pch c => 17 + c.val | .tdm x => 21 + x.val | .capture => 23 | .streamTx => 24

/-- The key of an edge in `State.edges`. -/
def edgeKey (p : Producer) (k : Consumer) : Nat := 32 * prodCode p + consCode k
def State.edge (s : State) (p : Producer) (k : Consumer) : Edge := (s.edges.get? (edgeKey p k)).getD {}
def State.onEdge (p : Producer) (k : Consumer) (g : Edge → Edge) (s : State) : State :=
  s.onEdges fun m => m.put (edgeKey p k) (g (s.edge p k))

def prodFunc (s : State) : Producer → Func
  | .path => pathFunc s.path.active
  | .sc n => .sc n
  | .dec _ => .decim
  | .tdm x => tdmFunc x
  | .lovage => .lovage
def consFunc : Consumer → Func
  | .lovage => .lovage | .sc n => .sc n | .pch c => .pch c | .tdm x => tdmFunc x | .capture => .capture
  | .streamTx => .streamTx

/-- The edges of R22. -/
def edgeExists : Producer → Consumer → Bool
  | .lovage, .lovage => false
  | .lovage, _ => true
  | _, .lovage => true
  | _, _ => false

/-- Functions that have the parameter FADE_TIME at index 0x00_0001 (R283, R285, R315, R363, R387). -/
def hasFadeTime : Func → Bool
  | .lovage => true | .capture => true | .decim => true | .pdm => true | .tdm0 => true | .tdm1 => true
  | .sc _ => true | .pch _ => true
  | _ => false

/-- The fade time of a function, in ticks (R18); 1 ms where it has no parameter of its own (R76, DEDUCED, log 20). -/
def State.fadeTime (s : State) (f : Func) : Nat := fadeTicks s (if hasFadeTime f then s.param f 1 10 else 10)

/-- A vector placed in the FIFO. With the FIFO full the producer pauses with it (R15); one whose tick has passed is
discarded and counted as late (R18). -/
def Edge.place (v : Vec) (e0 : Edge) : Edge :=
  let e := { e0 with sent := some v.tick }
  let old := match e.seen with
    | some t => decide ((v.tick - t).toNat = 0 ∨ (v.tick - t).toNat ≥ 2 ^ 63)
    | none => false
  if old then { e with late := e.late + 1 }
  else match e.fifo with
    | none => { e with fifo := some v }
    | some _ => match e.paused with
      | none => { e with paused := some v }
      | some _ => e

/-- Stale vectors leave the FIFO, and a paused producer goes on (R15, R18). -/
def Edge.drop (t : DWord) (e : Edge) : Edge :=
  match e.fifo with
  | some v =>
    if v.tick ≠ t ∧ (t - v.tick).toNat < 2 ^ 63 then { e with fifo := e.paused, paused := none, late := e.late + 1 } else e
  | none => { e with fifo := e.paused, paused := none }

/-- A miss at tick `t`: counted once, and the fall begins from the gain reached (R17-R19). -/
def Edge.miss (t : DWord) (fade : Nat) (count : Bool) (e : Edge) : Edge :=
  if e.seen = some t then e
  else { e with seen := some t, onTime := 0, inMiss := true, missed := e.missed + b2n count,
                fade := if e.inMiss && !e.fade.up then e.fade.tick else e.fade.tick.go false fade }

/-- The vector of tick `t` on time. The ramp begins with the second consecutive one (R19). -/
def Edge.hit (t : DWord) (fade : Nat) (v : Vec) (e : Edge) : Edge :=
  let e1 := { e with seen := some t, fifo := e.paused, paused := none, cur := some v, onTime := min 2 (e.onTime + 1) }
  if !e.inMiss then { e1 with fade := e.fade.tick }
  else if e1.onTime < 2 then { e1 with fade := e.fade.tick }
  else { e1 with inMiss := false, fade := e.fade.tick.go true fade }

/-- What the consumer uses in tick `t` (R18, R19): the fresh samples times the gain, or the held ones. -/
def Edge.deliver (fresh : List Word) (e : Edge) : Edge :=
  let g := e.fade.gain
  if e.inMiss then { e with out := e.last.map (gainWord g) }
  else { e with last := fresh, out := fresh.map (gainWord g) }

/-- The consumer's function ID and channel in a code 0x02 entry (R450). -/
def missData (p : Producer) (k : Consumer) : DWord :=
  let ch := match p, k with
    | .dec c, _ => c.val
    | .tdm _, _ => 0xFF
    | _, .tdm _ => 0xFF
    | _, _ => 0xFF
  BitVec.ofNat 64 ((consFunc k).id.toNat + 256 * ch)

/-- One error event of a path (R186). -/
def errEvent (p : Port) (s : State) : State :=
  (s.bumpPath p 10).onPath fun x => match p with
    | .a => { x with errsA := s.now :: x.errsA }
    | .b => { x with errsB := s.now :: x.errsB }

/-- A vector that is not on time is not complete: the comparison of its tick counts for nothing (R181, R182). -/
def lateVector (s : State) : State :=
  let back := fun (r : Role) => if r = .inStep then .resync else r
  s.onPath fun x => { x with matchRun := 0, roleA := back x.roleA, roleB := back x.roleB }

/-- The miss is counted against the producer (R17, R21, R196, R445) and, at the first after an on-time run, logged
with event bit 12 (R448). A FAULTED producer's absence counts under its fault, an absent one's not at all (R74). -/
def missAt (p : Producer) (k : Consumer) (s : State) : State :=
  let e := s.edge p k
  let t := s.now
  if e.seen = some t then s
  else
    let f := prodFunc s p
    let counted := (s.life? f).busy && s.life? f != .starting
    let s1 := s.onEdge p k (Edge.miss t (s.fadeTime (consFunc k)) counted)
    if !counted then s1
    else
      let s2 := match p, k with
        | .path, _ => lateVector (errEvent s.path.active (s1.bumpPath s.path.active 9))
        | .lovage, .sc n => s1.bump (0x10 + n.val) 3
        | _, _ => s1
      if e.inMiss || e.onTime < 2 then s2
      else (s2.logEntry 0x02 f.id 0 (missData p k)).raise 12

/-- The consumer's work on one edge at the token of tick `t`: stale vectors go, the vector of the tick is used or its
miss dealt with, and a ramp back in writes code 0x03 (R448). `due`: a vector is owed at this tick (a core owes one per
block); `fresh`: the samples of the vector in use that belong to this tick. -/
def edgeTick (p : Producer) (k : Consumer) (due : Bool) (fresh : Vec → List Word) (s : State) : State :=
  let t := s.now
  let f := prodFunc s p
  let st := s.life? f
  let fade := s.fadeTime (consFunc k)
  if st == .off || st == .stopped || st == .starting then
    s.onEdge p k fun e => { (e.drop t) with out := [], last := [], cur := none, inMiss := false, missed := 0,
                                            onTime := 2, fade := {}, seen := some t }
  else
    let s1 := s.onEdge p k (Edge.drop t)
    let e := s1.edge p k
    let hit := match e.fifo with
      | some v => if due && v.tick == t && e.seen != some t then some v else none
      | none => none
    let s2 := if !due then s1.onEdge p k fun e => { e with fade := e.fade.tick }
      else match hit with
        | some v => s1.onEdge p k (Edge.hit t fade v)
        | none => missAt p k s1
    let e2 := s2.edge p k
    let s3 := if e.inMiss && !e2.inMiss then
        (s2.logEntry 0x03 f.id 0 (BitVec.ofNat 64 e.missed)).onEdge p k fun e => { e with missed := 0 }
      else s2
    let now := match e2.cur with
      | some v => fresh v
      | none => []
    s3.freshen.onEdge p k (Edge.deliver now)

end Sys2Proof.Machine
end

