-- ==== Sys2Proof/Machine/StreamOps.lean ====
section
/-! DEFINITION. Streams: configuration fields, sample formats, presentation at a tick, groups (R230-R247). -/

namespace Sys2Proof.Machine

open Sys2Proof

/-! Configuration in force (R235, R244, R457). -/

def State.rxCfg (s : State) : List Byte := (s.func .streamRx).config.getD (leBytes 16 1)
def State.txCfg (s : State) : List Byte := (s.func .streamTx).config.getD (leBytes 16 1)
def State.rxCount (s : State) : Nat := leAt s.rxCfg 1 1
def State.txCount (s : State) : Nat := leAt s.txCfg 1 1
/-- A field of entry k. -/
def State.rxFld (s : State) (k off len : Nat) : Nat := leAt s.rxCfg (16 + 64 * k + off) len
def State.txFld (s : State) (k off len : Nat) : Nat := leAt s.txCfg (16 + 64 * k + off) len
/-- An address in network order. -/
def State.rxAddr (s : State) (k off len : Nat) : Nat := ofBe ((s.rxCfg.drop (16 + 64 * k + off)).take len)
def State.txAddr (s : State) (k off len : Nat) : Nat := ofBe ((s.txCfg.drop (16 + 64 * k + off)).take len)

/-- N (R180). -/
def State.netN (s : State) : Nat := if s.fast then 512 else 1024

/-- The topology of PATH_TOPO: 0 daisy chain, 1 ring, 2 dual network (R167). -/
def State.topo (s : State) : Nat := bits s.path.topo 1 0
def State.fed (s : State) : Port := if bit s.path.topo 4 then .b else .a
/-- The path is fed (R237). -/
def State.isFed (s : State) (p : Port) : Bool := s.topo != 0 || s.fed == p

def rxKey (p : Port) (k : Nat) : Nat := 128 * pathIx p + k
def State.rx (s : State) (p : Port) (k : Nat) : RxRec := (s.strm.rx.get? (rxKey p k)).getD {}
def State.onRx (p : Port) (k : Nat) (g : RxRec → RxRec) (s : State) : State :=
  s.onStrm fun t => { t with rx := t.rx.put (rxKey p k) (g (s.rx p k)) }
def State.tx (s : State) (k : Nat) : TxRec := (s.strm.tx.get? k).getD {}
def State.onTx (k : Nat) (g : TxRec → TxRec) (s : State) : State :=
  s.onStrm fun t => { t with tx := t.tx.put k (g (s.tx k)) }

/-- Receive counter i of stream k on a path, as STATS_READ orders them (R254). -/
def rxCnt (p : Port) (k i : Nat) : Nat := 20 * k + 10 * pathIx p + i
def State.bumpRx (p : Port) (k i n : Nat) (s : State) : State := s.bumpBy 3 (rxCnt p k i) n

/-- RX_EN, RAMP and TX_EN (R243). -/
def State.rxEn (s : State) (k : Nat) : Bool := s.param .streamRx (256 * k + 1) 1 == 1
def State.rxRamp (s : State) (k : Nat) : Nat := s.param .streamRx (256 * k + 2) (s.rxFld k 6 2)
def State.txEn (s : State) (k : Nat) : Bool := s.param .streamTx (256 * k + 1) 1 == 1

/-! Sample formats (R232). -/

/-- A single-precision value times 2^31, rounded to nearest with ties to even, saturated; and whether it is a NaN. -/
def floatIn (w : Word) : Word × Bool :=
  let e := bits w 30 23
  let m := bits w 22 0
  if e = 255 ∧ m ≠ 0 then (0, true)
  else
    let mant := if e = 0 then m else m + 2 ^ 23
    let ex := if e = 0 then 1 else e
    -- the value is mant * 2^(ex - 150), times 2^31 is mant * 2^(ex - 119)
    let mag : Int := if ex ≥ 160 then 2 ^ 40 else if ex ≥ 119 then (mant * 2 ^ (ex - 119) : Nat) else roundEven mant (119 - ex)
    (satWord (if w.msb then -mag else mag), false)

/-- A sample word divided by 2^31, as single precision (R232). -/
def floatOut (w : Word) : Word :=
  let mag := if w.msb then (-w.toInt).toNat else w.toNat
  if mag = 0 then 0
  else
    let e := Nat.log2 mag
    let m := if e ≤ 23 then mag * 2 ^ (23 - e) else (roundEven mag (e - 23)).toNat
    let (m, e) := if m = 2 ^ 24 then (2 ^ 23, e + 1) else (m, e)
    BitVec.ofNat 32 ((if w.msb then 2 ^ 31 else 0) + (e + 96) * 2 ^ 23 + (m - 2 ^ 23))

/-- A received sample, right-aligned in its format's width, as the assembler hands it on; of an AM824 quadlet its 24-bit
field. -/
def sampleIn (fmt : Nat) (raw : Word) : Word :=
  if fmt = 0 ∨ fmt = 2 then raw <<< 16
  else if fmt = 1 ∨ fmt = 3 ∨ fmt = 6 then raw <<< 8
  else if fmt = 5 then (floatIn raw).1
  else raw

/-- Octets of a sample. -/
def sampleBytes (fmt : Nat) : Nat := if fmt = 0 ∨ fmt = 2 then 2 else if fmt = 1 ∨ fmt = 3 then 3 else 4
/-- A sink word in a transmit format: rounded to nearest with ties to even, and saturated. -/
def sampleOut (fmt : Nat) (w : Word) : List Byte :=
  if fmt = 0 ∨ fmt = 2 then beBytes 2 (BitVec.ofInt 16 (satInt 16 (roundEven w.toInt 16))).toNat
  else if fmt = 1 ∨ fmt = 3 then beBytes 3 (BitVec.ofInt 24 (satInt 24 (roundEven w.toInt 8))).toNat
  else if fmt = 5 then beBytes 4 (floatOut w).toNat
  else beBytes 4 w.toNat

/-! Non-audio data (R242). The label of a quadlet and the places of the channel-status bit and of the block's first frame in it
are those of IEC 61883-6 (PRESUMED, log 13). -/

/-- A quadlet of a channel: what the channel has shown with it, whether the sample is non-audio, and whether it completes a
preamble. Pa and Pb stand in two words of the channel in a row (DEDUCED, log 58). -/
def ChanAudio.take (q : Word) (c : ChanAudio) : ChanAudio × Bool × Bool :=
  let label := bits q 31 24
  let word := bits q 23 8
  let frame := if 0x40 ≤ label then none
    else if label / 16 % 4 = 3 then some 0
    else match c.frame with
      | some i => if i < 191 then some (i + 1) else none
      | none => none
  let b := if frame = some 1 then label / 4 % 2 == 1 else c.bit
  let whole := decide (frame = some 191)
  let pre := c.sawPa && word == 0x4E1F
  -- plain audio carries no channel status: it counts as clear (DEDUCED, log 58)
  let clear := if 0x40 ≤ label ∧ label ≤ 0x43 then 2 else if whole then (if b then 0 else c.clear + 1) else c.clear
  ({ frame, bit := b, clear, sawPa := word == 0xF872 }, decide (0x43 < label) || (whole && b) || pre, pre)

/-- The channels of a tick inspected: one non-audio sample makes the stream non-audio; two complete clear blocks in every
channel and 4096 frames without a preamble make it audio again. -/
def RxRec.inspect (v : List Word) (r : RxRec) : RxRec :=
  let cs := (List.range v.length).map fun i => ((r.chans[i]?).getD {}).take ((v[i]?).getD 0)
  let bad := cs.any fun x => x.2.1
  let quiet := if cs.any fun x => x.2.2 then 0 else r.quiet + 1
  let chans := cs.map fun x => if bad then { x.1 with clear := 0 } else x.1
  { r with
    chans, quiet
    nonAudio := bad || (r.nonAudio && !(chans.all (fun c => decide (2 ≤ c.clear)) && decide (4096 ≤ quiet))) }

/-! Presentation (R239-R242). -/

/-- Stream k of a path at the boundary of tick n. A tick without samples breaks the channels' blocks off. -/
def RxRec.present (n : DWord) (en : Bool) (ramp fmt : Nat) (rr : RxRec) : RxRec :=
  let smp := (rr.held.find? fun e => e.1 == n).map (·.2)
  let r1 := { rr with held := rr.held.filter fun e => decide (e.1 ≠ n) && decide ((e.1 - n).toNat < 2 ^ 63) }
  let fall := fun (f : Fade) => if f.up then f.tick.go false ramp else f.tick
  let rise := fun (f : Fade) => if f.up then f.tick else f.tick.go true ramp
  match smp with
  | some v =>
    let r2 := if fmt = 6 then r1.inspect v else r1
    if r2.nonAudio || !en then { r2 with under := false, fade := fall rr.fade, live := false }
    else
      let f := if rr.delivered then rise rr.fade else Fade.zero.go true ramp
      { r2 with under := false, fade := f, delivered := true, live := f.atFull,
                last := if fmt = 6 then v.map (sampleIn 6) else v }
  | none =>
    { r1 with under := !(rr.nonAudio || !en), fade := fall rr.fade, live := false,
              chans := rr.chans.map fun c => { c with frame := none, sawPa := false } }

/-- None of the stream's channels is a substitute, fading or ramping: it presents at gain 1, or it is silent for a reason
other than an underrun (R181, R241). -/
def RxRec.whole (r : RxRec) : Bool := r.live || (!r.under && r.fade.silent)

/-- The boundary of tick n for stream k on a path: presented, its underrun counted (R240), its word times the gain. -/
def presentOne (p : Port) (n : DWord) (k : Nat) (s : State) : State :=
  let old := s.rx p k
  let rr := old.present n (s.rxEn k) (s.rxRamp k) (s.rxFld k 0 1 % 16)
  let s1 := s.freshen.onRx p k fun _ => { rr with out := rr.last.map (gainWord rr.fade.gain) }
  let s2 := if rr.nonAudio && !old.nonAudio then s1.bumpRx p k 8 1 else s1
  if rr.under then
    (if old.under then s2 else s2.bumpRx p k 6 1).bumpRx p k 7 1
  else s2

/-- The words of a stream at its sources. -/
def putWords (base : Nat) (ws : List Word) (m : Store Word) : Store Word :=
  match ws with
  | [] => m
  | w :: r => putWords (base + 1) r (m.put base w)

/-- The vector of a path for tick n (R180, R181, R239). A fading function scales every word (R76). -/
def assemble (p : Port) (n : DWord) (s : State) : State :=
  if !(s.life? (pathFunc p)).busy then
    s.onStrm fun t => match p with
      | .a => { t with vecA := { tick := n } }
      | .b => { t with vecB := { tick := n } }
  else
    let on := (s.life? .streamRx).busy && s.isFed p
    let ks := if on then List.range s.rxCount else []
    let s1 := forAll ks (presentOne p n) s
    let g1 := (s1.func (pathFunc p)).fade
    let g2 := (s1.func .streamRx).fade
    let gain := fun w => gainWord g2.gain (gainWord g1.gain w)
    let data := ks.foldl (fun m k => putWords (s1.rxFld k 2 2) ((s1.rx p k).out.map gain) m) []
    let vec : PathVec := {
      tick := n, data, present := true
      complete := ks.all (fun k => (s1.rx p k).whole) && g1.atFull && (ks.isEmpty || g2.atFull)
      under := ks.any fun k => (s1.rx p k).under }
    s1.freshen.onStrm fun t => match p with
      | .a => { t with vecA := vec }
      | .b => { t with vecB := vec }

def State.pathVec (s : State) : Port → PathVec
  | .a => s.strm.vecA
  | .b => s.strm.vecB

/-! The digest (R180): CRC-32 of IEEE 802.3, least significant bit first. -/

def crcBits : Nat → Word → Word
  | 0, c => c
  | n + 1, c => crcBits n (if bit c 0 then (c >>> 1) ^^^ 0xEDB88320 else c >>> 1)
def crcByte (c : Word) (b : Byte) : Word := crcBits 8 (c ^^^ b.zeroExtend 32)
def crc32 (l : List Byte) : Word := ~~~(l.foldl crcByte 0xFFFFFFFF)

def digest (n : DWord) (count : Nat) (data : Store Word) : Word :=
  crc32 (leBytes 4 n.toNat ++ (List.range count).flatMap fun i => leBytes 4 ((data.get? i).getD 0).toNat)

/-! Groups (R153, R237). -/

/-- Whether entry k is AES67 (FORMAT 0x0 or 0x1). -/
def State.rxAes (s : State) (k : Nat) : Bool := s.rxFld k 0 1 % 16 < 2
def State.rxV6 (s : State) (k : Nat) : Bool := s.rxFld k 8 1 % 2 == 1

/-- The destination of entry k on a path: an IPv4 or IPv6 address, or the MAC address of a 1722 stream. -/
def State.rxDst (s : State) (p : Port) (k : Nat) : Nat :=
  let off := 16 + 16 * pathIx p
  if s.rxAes k then (if s.rxV6 k then s.rxAddr k off 16 else s.rxAddr k off 4) else s.rxAddr k off 6

def v4Multicast (a : Nat) : Bool := a / 2 ^ 28 == 14
def v6Multicast (a : Nat) : Bool := a / 2 ^ 120 == 255
def macGroup (m : Nat) : Bool := m / 2 ^ 40 % 2 == 1

/-- The group MAC address of entry k, or none for a unicast destination. -/
def State.rxGroup (s : State) (p : Port) (k : Nat) : Option Nat :=
  let d := s.rxDst p k
  if s.rxAes k then
    (if s.rxV6 k then (if v6Multicast d then some (0x3333 * 2 ^ 32 + d % 2 ^ 32) else none)
     else (if v4Multicast d then some (0x01005E * 2 ^ 24 + d % 2 ^ 23) else none))
  else (if macGroup d then some d else none)

/-- The groups a path's streams need. -/
def State.groupsOf (s : State) (p : Port) : List (BitVec 128) :=
  if s.isFed p then
    ((List.range s.rxCount).filter fun k => (s.rxGroup p k).isSome).foldl
      (fun l k => let a := BitVec.ofNat 128 (s.rxDst p k); if a ∈ l then l else l ++ [a]) []
  else []

/-- SSM of an AES67 entry, and its SRC_ADDR (R235). -/
def State.rxSsm (s : State) (k : Nat) : Bool := s.rxAes k && s.rxFld k 8 1 / 2 % 2 == 1
def State.rxTalker (s : State) (k : Nat) : Nat := s.rxAddr k 48 (if s.rxV6 k then 16 else 4)
/-- The sources of the groups that only source-specific entries ask for. -/
def State.sourcesOf (s : State) (p : Port) : List (BitVec 128 × BitVec 128) :=
  let ks := (List.range s.rxCount).filter fun k => s.isFed p && (s.rxGroup p k).isSome
  let open_ := fun (g : Nat) => ks.any fun k => !s.rxSsm k && s.rxDst p k == g
  (ks.filter fun k => !open_ (s.rxDst p k)).foldl (fun l k =>
    let e := (BitVec.ofNat 128 (s.rxDst p k), BitVec.ofNat 128 (s.rxTalker k))
    if e ∈ l then l else l ++ [e]) []

/-- GROUP_JOIN and GROUP_LEAVE (R237). -/
def joinPort (p : Port) (s : State) : State := s.onPort p fun r => { r with groups := s.groupsOf p, sources := s.sourcesOf p }
def joinGroups (s : State) : State := joinPort .b (joinPort .a s)
def leaveGroups (s : State) : State :=
  (s.onPort .a fun r => { r with groups := [], sources := [] }).onPort .b fun r => { r with groups := [], sources := [] }

/-- The jitter buffers and stream states as STREAM_RX starts (R241). -/
def resetRx (s : State) : State :=
  s.onStrm fun t => { t with rx := t.rx.mapVal fun _ r => { marginMin := r.marginMin, marginLast := r.marginLast } }

/-- The first block of every transmit stream, a random sequence start (R234, R247). -/
def startTx (s : State) : State :=
  forAll (List.range s.txCount) (fun k s =>
    let pt := max 1 (s.txFld k 4 1)
    let first := (s.now.toNat + pt - 1) / pt * pt
    s.freshen.onTx k fun _ => { seq := s.freeVal 16, next := some (BitVec.ofNat 64 first), en := s.txEn k }) s

end Sys2Proof.Machine
end

