-- ==== Sys2Proof/Machine/PathOps.lean ====
section
/-! DEFINITION. The two paths: digests, MATCH_RUN, roles, triggers, the arbiter and the switch (R180-R196). -/

namespace Sys2Proof.Machine

open Sys2Proof

def State.role (s : State) : Port → Role
  | .a => s.path.roleA
  | .b => s.path.roleB
def setRole (p : Port) (r : Role) (s : State) : State :=
  s.onPath fun x => match p with
    | .a => { x with roleA := r }
    | .b => { x with roleB := r }
def State.standby (s : State) : Port := otherPort s.path.active
def State.pathRuns (s : State) (p : Port) : Bool := s.running (pathFunc p)

def pathDefault (i : Nat) : Nat :=
  if i = 4 then 16 else if i = 5 then 4800 else if i = 7 then 64 else 1
/-- A parameter of R194. -/
def State.pathParam (s : State) (p : Port) (i : Nat) : Nat := s.param (pathFunc p) i (pathDefault i)

def Role.code : Role → Nat
  | .idle => 0 | .active => 1 | .resync => 2 | .inStep => 3
/-- PATH_LAST_SWITCH.CAUSE (R195). -/
def Trigger.code : Trigger → Nat
  | .link => 1 | .notRunning => 2 | .stream => 3 | .errors => 4 | .command => 5 | .external => 6

/-- A standby path is in step: IN_STEP, and DIGEST_FLAG is cleared (R181, R182). -/
def enterStep (p : Port) (s : State) : State :=
  (setRole p .inStep s).onPath fun x => { x with digestFlag := false }

/-- A switch of ILK (R190, R192). -/
def doSwitch (tgt : Port) (cause : Trigger) (sync : Bool) (s : State) : State :=
  let old := otherPort tgt
  let keep := sync && (cause == .command || cause == .external)
  let count := min 0xFFFF (bits s.path.lastSwitch 31 16 + 1)
  let s1 := s.onPath fun x => { x with
    active := tgt, matchRun := if keep then x.matchRun else 0, lastTick := s.now
    lastSwitch := BitVec.ofNat 32 (cause.code + 16 * b2n sync + 32 * pathIx tgt + 65536 * count)
    ilkLand := if x.ext then x.ilkLand else tgt == .a }
  let s2 := setRole tgt .active s1
  let s3 := if keep then enterStep old s2 else setRole old (if s.pathRuns old then .resync else .idle) s2
  ((s3.bumpPath tgt 12).raise 2).logEntry 0x04 0 0 (s3.path.lastSwitch.zeroExtend 64)

/-- Those PATH_SWITCHes in progress of which `p` holds (of target and FORCE) complete. -/
def endRequests (status : Byte) (p : Port → Bool → Bool) (s : State) : State :=
  forAll (s.path.request.filter fun r => p r.2.1 r.2.2) (fun r s =>
    match s.job? fun j => j.uid == r.1 with
    | some j => s.endJob j status (if status = stOk then 1 else 0) false
    | none => s) (s.onPath fun x => { x with request := x.request.filter fun r => !p r.2.1 r.2.2 })
/-- All of them. -/
def endRequest (status : Byte) (s : State) : State := endRequests status (fun _ _ => true) s

/-- The first boundary of an unsynchronised switch (R189). -/
def beginUnsync (tgt : Port) (cause : Trigger) (s : State) : State :=
  let f := s.fadeTime .lovage
  (s.onPath fun x => { x with unsync := some { start := s.now, f, target := tgt, cause } }).onLov fun l =>
    { l with netFade := l.netFade.go false f }

/-- ILK changes and the network sources ramp in (R189). -/
def unsyncChange (s : State) : State :=
  match s.path.unsync with
  | none => s
  | some u =>
    if u.changed then s
    else
      let s1 := (s.onPath fun x => { x with unsync := some { u with changed := true } }).onLov fun l =>
        { l with netFade := Fade.zero.go true u.f }
      endRequest stOk (doSwitch u.target u.cause false s1)

/-- The old path has stopped: ILK changes at once, its own fade standing for the first half (R187). The cause is the first
trigger that fired (R191). -/
def stoppedSwitch (tgt : Port) (cause : Trigger) (s : State) : State :=
  let f := s.fadeTime .lovage
  unsyncChange (s.onPath fun x => { x with unsync := some { start := s.now - BitVec.ofNat 64 f, f, target := tgt, cause } })

/-- UNSYNC clears at n + 2F (R189). -/
def unsyncClear (s : State) : State := s.onPath fun x => { x with unsync := none }

/-- An unsynchronised switch at a boundary. -/
def unsyncTick (s : State) : State :=
  match s.path.unsync with
  | none => s
  | some u =>
    let k := (s.now - u.start).toNat
    let s1 := if u.f ≤ k then unsyncChange s else s
    if 2 * u.f ≤ k then unsyncClear s1 else s1

/-! Triggers (R186). -/

def State.vecOk (s : State) (p : Port) : Bool :=
  let v := s.pathVec p
  v.present && v.complete && v.tick == s.now

/-- Error events of a path in the last ERR_WINDOW ticks, the ones that end at this boundary. -/
def State.errCount (s : State) (p : Port) : Nat :=
  let l := match p with
    | .a => s.path.errsA
    | .b => s.path.errsB
  l.countP fun t => decide (t ≠ s.now ∧ (s.now - t).toNat ≤ s.pathParam p 5)

/-- The automatic triggers that fire against the active path, in the order of R191. -/
def State.autoTriggers (s : State) : List Trigger :=
  let act := s.path.active
  let lost := match act with
    | .a => s.path.lostA
    | .b => s.path.lostB
  let gone := !s.pathRuns act
  let v := s.pathVec act
  (if lost && s.pathParam act 1 == 1 then [.link] else [])
  ++ (if gone && s.pathParam act 2 == 1 then [.notRunning] else [])
  ++ (if v.under && v.tick == s.now && s.vecOk s.standby && s.pathParam act 3 == 1 then [.stream] else [])
  ++ (if s.pathParam act 4 ≠ 0 ∧ s.pathParam act 4 ≤ s.errCount act then [.errors] else [])

/-- In external mode: two consecutive samples select the other path (R185). -/
def State.extWants (s : State) : Bool :=
  match s.path.ilkHist with
  | [x, y] => x == y && x == (s.standby == .a)
  | _ => false

/-- A trigger that may switch without step (R187). -/
def State.allowsUnsync (s : State) : Trigger → Bool
  | .notRunning => true
  | .external => true
  | .command => s.path.request.any fun r => r.2.2
  | .link => s.pathParam s.path.active 6 == 1
  | .stream => false
  | .errors => false

/-- The arbiter at boundary n, before MATCH_RUN is updated (R186-R191). -/
def arbitrate (s : State) : State :=
  let act := s.path.active
  let sby := s.standby
  let auto := s.autoTriggers
  let cmd := if s.path.request.any fun r => r.2.1 == sby then [Trigger.command] else []
  if s.path.unsync.isSome then s
  else
    let s := endRequests stOk (fun tgt _ => tgt == act) s
    let fired := if s.path.ext then (if s.extWants then [.external] else []) else auto ++ cmd
    let s0 := if s.path.ext && !auto.isEmpty then s.bumpPath act 13 else s
    match fired with
    | [] => s0
    | c :: _ =>
      let role := s0.role sby
      if role == .idle || role == .active then
        endRequest stBadState (if c == .external then s0.bumpPath sby 14 else s0)
      else if role == .inStep && s0.vecOk sby then endRequest stOk (doSwitch sby c true s0)
      else if fired.any fun t => t != .notRunning && s0.allowsUnsync t then
        -- a PATH_SWITCH without FORCE has its switch only from an automatic trigger (R187, R193); one with it waits for ILK
        (let auto' := fired.any fun t => t != .notRunning && t != .command && s0.allowsUnsync t
         endRequests (if auto' then stOk else stBadState) (fun _ force => !force) (beginUnsync sby c s0))
      else if c == .notRunning || fired.contains .notRunning then
        (if (s0.life? (pathFunc act)).busy then endRequest stBadState s0 else endRequest stOk (stoppedSwitch sby c s0))
      else endRequest stBadState (s0.bumpPath act 13)

/-- The digests of tick n (R180). -/
def takeDigests (s : State) : State :=
  let n := s.now
  let one := fun (p : Port) (r : Word) => if s.pathRuns p then digest n s.netN (s.pathVec p).data else r
  let s1 := s.freshen
  s1.freshen.onPath fun x => { x with
    digestA := one .a (s.freeVal 32), digestB := one .b (s1.freeVal 32), digestTick := n.truncate 32 }

/-- MATCH_RUN, DIGEST_FLAG and the roles from the vectors of tick n (R181, R182). -/
def updateMatch (s : State) : State :=
  let sby := s.standby
  let both := s.vecOk .a && s.vecOk .b && s.pathRuns .a && s.pathRuns .b
  let s1 :=
    if !both then s.onPath fun x => { x with matchRun := 0 }
    else if s.path.digestA = s.path.digestB then
      s.onPath fun x => { x with matchRun := if x.matchRun = 0xFFFF then x.matchRun else x.matchRun + 1, mismatches := 0 }
    else
      let s2 := (s.bumpPath sby 11).onPath fun x => { x with matchRun := 0, mismatches := x.mismatches + 1 }
      if decide (s.pathParam s.path.active 7 ≤ s2.path.mismatches) && !s.path.digestFlag then
        ((s2.onPath fun x => { x with digestFlag := true }).raise 3).logEntry 0x05 0 0
          (s2.path.digestA.zeroExtend 64 ||| (s2.path.digestB.zeroExtend 64 <<< 32))
      else s2
  if !s1.pathRuns sby then setRole sby .idle s1
  else if s1.role sby == .inStep then (if s1.path.matchRun = 0 then setRole sby .resync s1 else s1)
  else if s1.path.matchRun = 64 then enterStep sby s1
  else setRole sby .resync s1

/-- The standby path's assembler has missed the tick: counted, an error event of that path (R186, R191, R196). The active
path's misses are counted where Lovage waits for its vector. -/
def standbyMiss (s : State) : State :=
  let p := s.standby
  if s.pathRuns p && !((s.pathVec p).present && (s.pathVec p).tick == s.now) then errEvent p (s.bumpPath p 9) else s

/-- A change of PATH_ILK.EXT takes effect, and the active path stays (R184, R185). -/
def extEffect (s : State) : State :=
  let e := bit s.path.ilk 0
  s.onPath fun x => { x with
    ext := e, ilkHist := if e && x.ext then x.ilkHist else []
    ilkLand := if x.ext && !e then x.active == .a else x.ilkLand }

/-- The paths at the boundary of tick n, their vectors formed. -/
def pathBoundary (s : State) : State :=
  let s1 := extEffect (unsyncTick s)
  let s2 := standbyMiss (updateMatch (takeDigests (arbitrate s1)))
  let keep := fun l : List DWord => l.filter fun t => decide ((s.now - t).toNat < 65536)
  s2.onPath fun x => { x with lostA := false, lostB := false, errsA := keep x.errsA, errsB := keep x.errsB }

/-- A path enters RUNNING (R182, R187). In external mode ILK_N alone decides which path is active (R185). -/
def pathRunning (p : Port) (s : State) : State :=
  let o := otherPort p
  if s.path.active = p then setRole p .active s
  else if s.path.ext then setRole p .resync s
  else if s.role o == .idle || (!(s.life? (pathFunc o)).busy && s.pathParam o 2 == 1) then
    doSwitch p .notRunning false s
  else setRole p .resync s

/-- A path has left RUNNING for good: a standby path is IDLE; the active one stays selected until a switch. -/
def pathLeft (p : Port) (s : State) : State := if s.path.active = p then s else setRole p .idle s

/-- Loss of link at a port takes its standby path out of step (R182). -/
def pathLinkLost (p : Port) (s : State) : State :=
  let s1 := s.onPath fun x => match p with
    | .a => { x with lostA := true }
    | .b => { x with lostB := true }
  if s1.role p == .inStep then setRole p .resync s1 else s1

end Sys2Proof.Machine
end

