-- ==== Sys2Proof/Machine/LovOps.lean ====
section
/-! DEFINITION. Lovage: crosspoints and their ramps, the budget, sink scales, generators, the sum of a sink, playback
frames (R256-R282). -/

namespace Sys2Proof.Machine

open Sys2Proof

/-! Configuration (R266, R273, R284). -/

def rampDefault (i : Nat) : Nat := (#v[0, 10, 20, 50, 100, 200, 500, 1000] : Vector Nat 8)[Fin.ofNat 8 i]

/-- RAMP_i in units of 0.1 ms. -/
def State.rampUnits (s : State) (i : Nat) : Nat :=
  match (s.func .lovage).config with
  | some l => leAt l (8 + 2 * (i % 8)) 2
  | none => rampDefault i

/-- K: floor(t Fs / 1000 + 1/2) ticks. -/
def State.rampTicks (s : State) (i : Nat) : Nat := (2 * s.rampUnits i * s.fsHz + 10000) / 20000

/-- Scaling mode of a sink. -/
def State.scaleMode (s : State) (j : Nat) : Nat :=
  match (s.func .lovage).config with
  | some l => leAt l (64 + j / 4) 1 / 4 ^ (j % 4) % 4
  | none => 0

/-- Target scale for a mode and a count, 23 fraction bits, rounded to nearest (R273). -/
def scaleTarget (mode n : Nat) : Nat :=
  if n = 0 then 2 ^ 23
  else if mode = 1 then (2 ^ 24 / n + 1) / 2
  else if mode = 2 then (isqrt (2 ^ 48 / n) + 1) / 2
  else 2 ^ 23

/-! Ramps (R267). -/

/-- The value at step k, rounded to nearest. -/
def Ramp.now (r : Ramp) : Int :=
  if r.len ≤ r.k then r.dst else r.src + nearest ((r.dst - r.src) * (raised r.k r.len : Int)) (2 ^ 96)
def Ramp.tick (r : Ramp) : Ramp := { r with k := min r.len (r.k + 1) }
def Ramp.done (r : Ramp) : Bool := decide (r.len ≤ r.k)

/-! Crosspoints (R259-R261, R268). -/

def xpKey (src snk : Nat) : Nat := src * 2048 + snk
def State.xp (s : State) (k : Nat) : Xp := (s.lov.xp.get? k).getD {}
def Xp.active (x : Xp) : Bool := x.gain != 0 || x.ramp.isSome
/-- The gain in force. -/
def Xp.now (x : Xp) : Int :=
  match x.ramp with
  | some r => r.now
  | none => x.gain.toInt

/-- A, the active crosspoints; R, the units reserved; the budget at the Fs in TIME_CTRL (R270). -/
def State.lovActive (s : State) : Nat := s.lov.xp.countP fun e => e.2.active
def State.lovReserved (s : State) : Nat :=
  (s.life.writes.map (·.units)).sum + s.life.acts.countP fun a => a.reserved
def State.ctrlFast (s : State) : Bool := bit s.time.ctrl 1
def State.lovBudget (s : State) : Nat := if s.ctrlFast then 65536 else 131072

/-- n of R273: crosspoints of a sink whose target gain is not zero. -/
def State.snkCount (s : State) (j : Nat) : Nat := s.lov.xp.countP fun e => e.1 % 2048 == j && e.2.target != 0

def State.scale (s : State) (j : Nat) : Scale := (s.lov.scales.get? j).getD {}

/-- A write has changed n of a sink, which was `n0`: its scale ramps from its value before this boundary, and where the
boundary's writes together leave n as it was, no change is left (R274). A sink in mode 0x0 stays at 1 (R273). `work`:
LOVAGE works; if not, the scale is at its target at once (R262). -/
def rescale (work : Bool) (j k n0 : Nat) (s : State) : State :=
  let sc := s.scale j
  let n := s.snkCount j
  let t := scaleTarget (s.scaleMode j) n
  let kMax := max sc.kMax k
  let m := sc.mark.getD (n0, sc.ramp)
  let sc1 : Scale :=
    if !work then { s := t, base := t }
    else if m.1 = n then { sc with s := sc.base, ramp := m.2, kMax, mark := some m }
    else if kMax = 0 then { sc with s := t, ramp := none, mark := some m }
    else { sc with kMax, s := sc.base, ramp := some { src := sc.base, dst := t, len := kMax }, mark := some m }
  if s.scaleMode j = 0 && sc == {} then s
  else s.onLov fun l => { l with scales := l.scales.put j sc1 }

/-- One crosspoint write takes effect (R262, R267, R268): `k` ticks of ramp. -/
def writeXp (key : Nat) (gain : BitVec 24) (idx : BitVec 3) (k : Nat) (s : State) : State :=
  let x := s.xp key
  let now := x.now
  let n0 := s.snkCount (key % 2048)
  let y : Xp :=
    if x.ramp.isNone && now == gain.toInt then { x with target := gain, rampIdx := idx }
    else if k = 0 then { gain, target := gain, rampIdx := idx, ramp := none }
    else { x with target := gain, rampIdx := idx, ramp := some { src := now, dst := gain.toInt, len := k } }
  let s1 := (s.freshen.bump 6 1).onLov fun l => { l with xp := l.xp.put key y }
  if s1.snkCount (key % 2048) = n0 then s1 else rescale (s.life? .lovage).busy (key % 2048) k n0 s1

/-- The ramp of a crosspoint has reached its target (R267); one at 0 is inactive from here (R261). -/
def Xp.endRamp (x : Xp) : Xp := { x with gain := x.target, ramp := none }
def Scale.endRamp (x : Scale) : Scale :=
  match x.ramp with
  | some r => { s := r.dst.toNat, base := r.dst.toNat }
  | none => { s := x.s, base := x.s }

/-- Ramps that are due end. -/
def endDue (s : State) : State :=
  s.onLov fun l => { l with
    xp := l.xp.mapVal fun _ x => match x.ramp with
      | some r => if r.done then x.endRamp else x
      | none => x
    scales := l.scales.mapVal fun _ x => match x.ramp with
      | some r => if r.done then x.endRamp else x
      | none => x }

/-- A of R270 at the boundary, and LOV_PEAK (R287). -/
def markActive (s : State) : State :=
  let a := s.lovActive
  s.onLov fun l => { l with active := a, peak := max l.peak a }

/-! Generators (R276-R278). -/

def genPid (g : Fin 16) (p : Nat) : Nat := 0x010000 + 0x100 * g.val + p
def State.gen (s : State) (g : Fin 16) : Gen := s.lov.gens[g]
def State.onGen (g : Fin 16) (f : Gen → Gen) (s : State) : State :=
  s.onLov fun l => { l with gens := vmod l.gens g f }
def State.genMode (s : State) (g : Fin 16) : Nat := s.param .lovage (genPid g 1) 0
/-- LEVEL as written, in 0.1 dB. -/
def State.genLevel (s : State) (g : Fin 16) : Int :=
  (BitVec.ofNat 32 (s.param .lovage (genPid g 3) 0xFFFFFF38)).toInt
/-- A level as an amplitude, 64 fraction bits. -/
def levelAmp (l : Int) : Nat := dbToLin l 10
/-- The amplitude in force. -/
def State.genAmp (s : State) (g : Fin 16) : Nat :=
  match (s.gen g).level with
  | some r => (r.now).toNat
  | none => levelAmp (s.genLevel g)

/-- One draw of R277. -/
def draw (s : Word) : Word :=
  let a := s ^^^ (s <<< 13)
  let b := a ^^^ (a >>> 17)
  b ^^^ (b <<< 5)

/-- The rows and the white register filled at the reset boundary. -/
def fillRows : Nat → Nat → Word → Vector Word 16 → Word × Vector Word 16
  | 0, _, s, r => (s, r)
  | k + 1, i, s, r => fillRows k (i + 1) (draw s) (r.set! i (draw s))
def Gen.pinkReset (g : Gen) : Gen :=
  let f := fillRows 16 0 g.seed g.rows
  let w := draw f.1
  { g with s := w, rows := f.2, white := w, m := 0 }

/-- Trailing zero bits of a positive number. -/
def trailing : Nat → Nat → Nat
  | 0, _ => 0
  | k + 1, m => if m % 2 = 1 then 0 else 1 + trailing k (m / 2)

/-- The registers at the next boundary. -/
def Gen.pinkNext (g : Gen) : Gen :=
  let m := g.m + 1
  let j := trailing 16 m
  let a := if j ≤ 15 then draw g.s else g.s
  let rows := if j ≤ 15 then g.rows.set! j a else g.rows
  let w := draw a
  { g with s := w, rows, white := w, m }

/-- Q of R277. -/
def pinkQ (amp : Nat) : Nat := (amp * isqrt (3 * 2 ^ 128 / 17) / 2 ^ 96 + 1) / 2
def Gen.pink (amp : Nat) (g : Gen) : Int :=
  let sum := g.white.toInt + (g.rows.toList.map (·.toInt)).sum
  satInt 32 (roundEven (sum * (pinkQ amp : Int)) 31)

/-- sin(2 pi phi / 2^32), 96 fraction bits; exact at multiples of a quarter turn. -/
def sinPhi (phi : Nat) : Int :=
  let q := (phi + 3 * 2 ^ 30) % 2 ^ 32
  let q := min q (2 ^ 32 - q)
  if q = 0 then 2 ^ 96 else if q = 2 ^ 30 then 0 else if q = 2 ^ 31 then -(2 ^ 96 : Int) else cosPi q (2 ^ 31)

/-- The sample of a generator for the tick, before its fade (R277). -/
def State.genRaw (s : State) (g : Fin 16) (play : Word) : Word :=
  let x := s.gen g
  let amp := s.genAmp g
  let full := fun (v : Int) (d : Nat) => satWord (divOpen v d)
  if x.mode = 1 then
    (let inc := (x.freq.toNat * 2 ^ 33 / (100 * s.fsHz) + 1) / 2
     full ((amp : Int) * sinPhi (s.now.toNat * inc % 2 ^ 32)) (2 ^ 129))
  else if x.mode = 2 then satWord (x.pink amp)
  else if x.mode = 3 then (if s.now.toNat % max 1 x.period.toNat = 0 then full amp (2 ^ 33) else 0)
  else if x.mode = 4 then play
  else 0
def State.genOut (s : State) (g : Fin 16) (play : Word) : Word :=
  gainWord (s.gen g).fade.gain (s.genRaw g play)

/-- Every setting written comes into force (R278); a reset of the noise is taken here (R277). -/
def genApply (g : Fin 16) (s : State) : State :=
  s.onGen g fun x =>
    let y := { x with
      mode := BitVec.ofNat 3 (s.genMode g)
      freq := BitVec.ofNat 32 (s.param .lovage (genPid g 2) 100000)
      period := BitVec.ofNat 32 (s.param .lovage (genPid g 4) 48000)
      seed := BitVec.ofNat 32 (s.param .lovage (genPid g 5) 1)
      wait := 0, rst := false }
    if x.rst then y.pinkReset else y

/-- 64 ticks after the latest write: the settings are in force and the output rises (R278). -/
def genRise (g : Fin 16) (s : State) : State :=
  (genApply g s).onGen g fun x => { x with fade := x.fade.go true 64 }

/-- A setting that waits is due. -/
def Gen.due (x : Gen) : Bool := x.wait == 1

/-- A write to a generator's parameter at its boundary, LOVAGE at work (R278). -/
def genTouch (g : Fin 16) (p : Nat) (old : Int) (v : Word) (s : State) : State :=
  if p = 3 then
    s.onGen g fun x => { x with level := some {
      src := match x.level with
        | some r => r.now
        | none => (levelAmp old : Int)
      dst := levelAmp v.toInt, len := 64 } }
  else
    s.onGen g fun x => { x with wait := 65, fade := x.fade.go false 64, rst := x.rst || p == 5 || (p == 1 && v == 2) }

/-- Settings in force at once, full gain, LEVEL at its target (R269; and at a start, R74). -/
def genFlush (g : Fin 16) (s : State) : State :=
  (genApply g s).onGen g fun x => { x with fade := Fade.one, level := none }

/-- R269: every ramp of Lovage ends at its target. -/
def lovFlush (s : State) : State :=
  forAll (List.finRange 16) genFlush (s.onLov fun l => { l with
    xp := l.xp.mapVal fun _ x => if x.ramp.isSome then x.endRamp else x
    scales := l.scales.mapVal fun _ x => x.endRamp })

/-- The pink noise of a generator goes on by one boundary, whatever LOVAGE does (R277). -/
def Gen.advance (x : Gen) : Gen := if x.mode = 2 then x.pinkNext else x

/-- The next boundary for ramps and generators: each counts one tick (R267, R277, R278). -/
def lovAdvance (s : State) : State :=
  s.onLov fun l => { l with
    xp := l.xp.mapVal fun _ x => { x with ramp := x.ramp.map Ramp.tick }
    scales := (l.scales.mapVal fun _ x =>
      let y : Scale := { x with ramp := x.ramp.map Ramp.tick }
      { y with kMax := 0, mark := none, base := match y.ramp with
          | some r => (r.now).toNat
          | none => y.s }).filter fun e => e.2.s != 2 ^ 23 || e.2.ramp.isSome
    gens := l.gens.map fun x =>
      { x.advance with
        fade := x.fade.tick, wait := if x.wait > 1 then x.wait - 1 else x.wait
        level := match x.level with
          | some r => if r.done then none else some r.tick
          | none => none } }

/-! The playback frames (R112, R281). -/

def Job.isPlay (j : Job) : Bool := j.op == 0x22
def Job.isCapture (j : Job) : Bool := j.op == 0x21
def playFirst (d : Desc) : Nat := fld d 28 1
def playCount (d : Desc) : Nat := fld d 29 1

/-- What a playback job gives generator `g` in this tick. -/
def Job.playWord (fnGain : Nat) (g : Nat) (j : Job) : Word :=
  gainWord fnGain (gainWord j.fade.gain ((j.lastFrame.drop (g - playFirst j.desc)).headD 0))

/-- A playback that generator `g` is given to, begun or not (R278). -/
def Job.plays (g : Nat) (j : Job) : Bool :=
  j.isPlay && playFirst j.desc ≤ g && decide (g < playFirst j.desc + playCount j.desc)

/-- A job that feeds a generator. -/
def Job.feeds (g : Nat) (j : Job) : Bool :=
  j.plays g && j.start.isSome && j.done > 0

def State.playFor (s : State) (g : Fin 16) : Word :=
  match s.job? (·.feeds g.val) with
  | some j => if (s.life? .capture).busy then j.playWord (s.funcGain .capture) g.val else 0
  | none => 0

/-! The sum of the sinks (R272, R275). -/

/-- Sources and sinks outside the network range at the rate in force (R258). -/
def State.outside (s : State) (i : Nat) : Bool := s.fast && decide (512 ≤ i ∧ i < 1024)

/-- The exact sums of gain times sample, by sink. -/
def State.sums (s : State) (src : Store Word) : Store Int :=
  s.lov.xp.foldl (fun m e =>
    let i := e.1 / 2048
    let j := e.1 % 2048
    if !e.2.active || s.outside i || s.outside j then m
    else m.put j ((m.get? j).getD 0 + e.2.now * ((src.get? i).getD 0).toInt)) []

/-- s of a sink in force. -/
def State.scaleNow (s : State) (j : Nat) : Int :=
  match (s.scale j).ramp with
  | some r => r.now
  | none => ((s.scale j).s : Int)

/-- One sink: scaled, rounded once to nearest with ties to even, saturated once. -/
def sinkExact (scale sum : Int) : Int := roundEven (scale * sum) 42

/-- The sinks that saturate are marked and counted (R275). -/
def markClips (js : List Nat) (s : State) : State :=
  let s1 := forAll js (fun j s => (s.bump 6 (5 + j)).onLov fun l => { l with
    clipped := l.clipped.set! (j / 32) ((l.clipped[j / 32]?).getD 0 ||| BitVec.ofNat 32 (2 ^ (j % 32))) }) s
  if js.isEmpty then s1 else s1.bump 6 4

/-- The sink samples of tick n + 1, with LOVAGE's own fade (R272). -/
def lovSum (s : State) : State :=
  let exact := (s.sums s.lov.src).map fun e => (e.1, sinkExact (s.scaleNow e.1) e.2)
  let g := (s.func .lovage).fade.tick.gain
  let clips := (exact.filter fun e => overflows 32 e.2).map (·.1)
  let snk := exact.map fun e => (e.1, gainWord g (satWord e.2))
  (markClips clips s).freshen.onLov fun l => { l with snk, snkTick := some (s.now + 1) }

end Sys2Proof.Machine
end

