-- ==== Sys2Proof/Machine/TimeOps.lean ====
section
/-! DEFINITION. System time and ticks, counter loads, references, the servo's states, the PTP port engines
(R198-R229, R455). -/

namespace Sys2Proof.Machine

open Sys2Proof

/-! Configuration and parameters (R226, R227, R457). -/

def timeDefault : List Byte := [1, 0, 0, 0, 0, 0, 128, 128, 0, 1, 0, 3, 0, 0, 0, 0]
def State.timeCfg (s : State) : List Byte := (s.func .timekeeper).config.getD timeDefault
def State.ptpProfile (s : State) : Nat := leAt s.timeCfg 1 1
def State.ptpDomain (s : State) (p : Port) : Nat := leAt s.timeCfg (2 + pathIx p) 1
def State.ptpEn (s : State) (p : Port) : Bool := (leAt s.timeCfg 5 1).testBit (pathIx p)
def State.masterCapable (s : State) : Bool := (leAt s.timeCfg 5 1).testBit 2
def State.followIlk (s : State) : Bool := (leAt s.timeCfg 5 1).testBit 3

def timeParamDefault (i : Nat) : Nat :=
  if i = 2 ∨ i = 3 then 6 else if i = 8 then 2000 else if i = 9 ∨ i = 10 then 50 else if i = 11 then 8
  else if i = 12 then 50 else if i = 13 then 500 else if i = 14 then 10 else if i = 15 then 500
  else if i = 17 then 100 else if i = 22 then 50 else 0
def State.timeParam (s : State) (i : Nat) : Nat := s.param .timekeeper i (timeParamDefault i)
/-- STEP_THRESH and LOCK_NS in quarter nanoseconds. -/
def State.stepThresh (s : State) : Int := 4 * (s.timeParam 15 : Int)
def State.lockBound (s : State) : Int := 4 * (s.timeParam 22 : Int)

/-! System time. Tick n begins at system time n / Fs (R199, R223, R248); log 8. -/

/-- Whole nanoseconds of the boundary of tick n. -/
def State.tickNs (s : State) (n : DWord) : Nat := n.toNat * 1000000000 / s.fsHz
/-- Whole quarter nanoseconds of the boundary of tick n. -/
def State.tickQ (s : State) (n : DWord) : Nat := n.toNat * 4000000000 / s.fsHz
/-- A phase brought between -1/2 and +1/2 tick (R219). -/
def wrapTick (s : State) (x : Int) : Int :=
  ((x * (s.fsHz : Int) + 2000000000) % 4000000000 - 2000000000) / (s.fsHz : Int)
/-- The index of the tick that holds the boundary of tick n displaced by `q` quarter nanoseconds: floor(n + q Fs). -/
def State.tickMoved (s : State) (n : DWord) (q : Int) : DWord :=
  BitVec.ofNat 64 ((n.toNat : Int) + q * (s.fsHz : Int) / 4000000000).toNat
/-- The time T of a descriptor in nanoseconds (R107). -/
def timeNs (v : DWord) : Nat := (v.toNat / 2 ^ 16) * 1000000000 + v.toNat % 2 ^ 16 * 65536
/-- The first boundary at or after T (R248). -/
def State.tickAt (s : State) (v : DWord) : DWord :=
  BitVec.ofNat 64 ((timeNs v * s.fsHz + 999999999) / 1000000000)

/-! Time-stamps at the MDI plane (R204-R206). -/

/-- The row of R205 for a line mode and role. -/
def calRow : LineMode → Bool → Option (Fin 5)
  | .none, _ => none
  | .m2500, m => some (if m then 0 else 1)
  | .m1000, m => some (if m then 2 else 3)
  | .m100, _ => some 4
/-- The constants of a port for the mode and role in force; 0 without link (DESIGN CHOICE, log 57). -/
def State.calOf (s : State) (p : Port) : Word :=
  match calRow (s.port p).mode (s.port p).master, p with
  | none, _ => 0
  | some i, .a => s.time.calA[i]
  | some i, .b => s.time.calB[i]
/-- DLY_x of TIME_BOARD. -/
def State.boardDelay (s : State) (p : Port) : Nat := bits s.time.board (8 * pathIx p + 7) (8 * pathIx p)
/-- The time-stamp of a frame received, and of a frame sent, from the stamp inside the PHY (R204). -/
def State.rxTime (s : State) (p : Port) (t : Int) : Int := t - bits (s.calOf p) 31 16 - s.boardDelay p
def State.txTime (s : State) (p : Port) (t : Int) : Int := t + bits (s.calOf p) 15 0 + s.boardDelay p
/-- A time-stamp's ten octets: seconds and whole nanoseconds. -/
def stampBytes (q : Int) : List Byte :=
  let ns := (q / 4).toNat
  beBytes 6 (ns / 1000000000) ++ beBytes 4 (ns % 1000000000)

/-! Counter loads (R199, R269, R455). -/

/-- Jitter buffers and chains of stamps at a load (R233, R455). -/
def RxRec.reload (n : DWord) (r : RxRec) : RxRec :=
  { r with held := r.held.filter fun e => decide ((e.1 - n).toNat < 2 ^ 63), prev := none }

/-- A vector keeps its place only where its tick lies in the new count (R199). -/
def Edge.reload (n : DWord) (e : Edge) : Edge :=
  let keep := fun v : Option Vec => match v with
    | some w => if w.tick = n ∨ w.tick = n + 1 then some w else none
    | none => none
  { e with fifo := keep e.fifo, paused := none, seen := none, sent := none }

/-- Instants the module keeps as ticks move with the count, so that the time since each stays what it was. -/
def shiftTicks (d : DWord) (s : State) : State :=
  let s0 := s.onChip fun c => { c with resetAt := c.resetAt + d }
  let s1 := s0.onLife fun l => { l with funcs := l.funcs.map fun r => { r with effect := r.effect + d } }
  let s2 := s1.onPath fun x => { x with
    unsync := x.unsync.map fun u => { u with start := u.start + d }
    errsA := x.errsA.map (· + d), errsB := x.errsB.map (· + d) }
  let ports := fun (r : PortSt) => { r with darkEnd := r.darkEnd.map (· + d) }
  let s3 := ((s2.onPort .a ports).onPort .b ports).onSvc fun v => { v with noticeAt := v.noticeAt.map (· + d) }
  let s4 := s3.onPwr fun w => { w with
    savedAt := w.savedAt + d
    ch := w.ch.map fun p => { p with mark := p.mark + d, sageAt := p.sageAt.map (· + d), winAt := p.winAt + d, zAt := p.zAt + d } }
  let s5 := s4.onTime fun t => { t with glitches := t.glitches.map (· + d) }
  s5.onLoc fun l => { l with dsyncAt := l.dsyncAt.map (· + d), syncSeen := l.syncSeen.map (· + d) }

/-- A core at a load: the block in hand has no place in the new count, and the next is the first of the new count (R199). -/
def Core.reload (d : DWord) (n block : Nat) (c : Core) : Core :=
  { c with orphan := c.inTask || c.orphan, outBlock := none, released := c.released + d, firstBlock := BitVec.ofNat 64 ((n + block - 1) / block) }

/-- A descriptor in progress at a load at boundary `now` of the old count: a first tick that derives from a time not yet
reached is computed again from it, any other runs on with the count (R112, R455). -/
def Job.reload (again : DWord → DWord) (now d n : DWord) (j : Job) : Job :=
  let ahead := match j.start with
    | some e => now != e && decide ((e - now).toNat < 2 ^ 63)
    | none => false
  if (j.isCapture || j.isPlay) && ahead && fld j.desc 8 8 ≠ 0 then
    let m := again (BitVec.ofNat 64 (fld j.desc 8 8))
    { j with start := some (if (n - m).toNat < 2 ^ 63 then n else m) }
  else { j with start := j.start.map (· + d) }

/-- A waiting action at a load: its tick is that of its time in the new count; one at or before the load is late (R199). -/
def Action.reload (again : DWord → DWord) (n : DWord) (a : Action) : Action :=
  if a.applied then a
  else
    let m := again a.time
    if (n - m).toNat < 2 ^ 63 then { a with nT := n, late := true } else { a with nT := m }

/-- The counter takes `n` at this boundary; every island takes the load token next, and what waits for a token waits for that
one (R199, R455). -/
def counterLoad (n : DWord) (s : State) : State :=
  let s1 := shiftTicks (n - s.now) ((lovFlush s).bump 5 13)
  let s2 := s1.onTime fun t => { t with
    tick := n, loadAt := some n, loads := if t.loads = 0xFFFF then t.loads else t.loads + 1
    copies := (List.range 28).map fun i => (i, n - 1), begun := 0 }
  let s3 := s2.onEdges fun m => m.mapVal fun _ e => e.reload n
  let s4 := s3.onStrm fun t => { t with
    mr := !t.mr, rx := t.rx.mapVal fun _ r => r.reload n
    tx := t.tx.mapVal fun k x =>
      let pt := max 1 (s3.txFld k 4 1)
      { x with next := x.next.map fun _ => BitVec.ofNat 64 ((n.toNat + pt - 1) / pt * pt) } }
  let s5 := s4.onLov fun l => { l with snkTick := none }
  let s6 := { s5 with cores := Vector.ofFn fun i => (s5.cores[i]).reload (n - s.now) n.toNat (s5.scBlock i) }
  s6.onLife fun l => { l with
    acts := l.acts.map (Action.reload s6.tickAt n)
    jobs := l.jobs.map (Job.reload s6.tickAt s.now (n - s.now) n)
    writes := l.writes.map fun w => { w with after := n - 1 }
    funcs := l.funcs.map fun r => { r with startAfter := n - 1, stopAfter := n - 1 } }

/-! References (R216, R217). -/

def ptpPort (t : TimeSt) : Port → PtpPort
  | .a => t.ptpA
  | .b => t.ptpB
def State.ptp (s : State) (p : Port) : PtpPort := ptpPort s.time p
def State.onPtp (p : Port) (g : PtpPort → PtpPort) (s : State) : State :=
  match p with
  | .a => s.onTime fun t => { t with ptpA := g t.ptpA }
  | .b => s.onTime fun t => { t with ptpB := g t.ptpB }
def State.onRef (r : Fin 6) (g : RefRec → RefRec) (s : State) : State :=
  s.onTime fun t => { t with refs := vmod t.refs r g }
def State.refRec (s : State) (r : Fin 6) : RefRec := s.time.refs[r]
def ptpRef : Port → Fin 6
  | .a => 1
  | .b => 2

/-- The engine of a port runs (R201). -/
def State.ptpRuns (s : State) (p : Port) : Bool :=
  s.running .timekeeper && s.ptpEn p && s.life? (pathFunc p) != .off

/-- SLAVE of the accepted block of a TDM port. -/
def State.tdmSlaveCfg (s : State) (x : Fin 2) : Bool := leAt ((s.func (tdmFunc x)).config.getD []) 1 1 % 2 == 1

/-- Whether a reference is present (R216, R225, R357). WCIN's presence is kept by its own events. -/
def State.refPresent (s : State) (r : Fin 6) : Bool :=
  if r = 0 then true
  else if r = 1 then s.ptpRuns .a && (s.ptp .a).role == .slave && (s.ptp .a).announced && (s.ptp .a).synced
  else if r = 2 then s.ptpRuns .b && (s.ptp .b).role == .slave && (s.ptp .b).announced && (s.ptp .b).synced
  else if r = 3 then (s.refRec 3).present
  else
    let x : Fin 2 := if r = 4 then 0 else 1
    s.running (tdmFunc x) && s.tdmSlaveCfg x && ((s.tdm x).state == 4 || (s.tdm x).state == 5)

/-- A reference that stops being present is disqualified at once (R216). -/
def checkPresent (r : Fin 6) (s : State) : State :=
  let p := s.refPresent r
  let o := s.refRec r
  let s1 := s.onRef r fun x =>
    if p then { x with present := true } else { x with present := false, qualified := r == 0, goodMs := 0, badMs := 0 }
  if o.qualified && !p && r != 0 then s1.bump 5 10 else s1

def checkRefs (s : State) : State := forAll (List.finRange 6) checkPresent s

/-- PRIO of a reference. -/
def State.refPrio (s : State) (r : Fin 6) : Nat := if r = 0 then 0 else s.timeParam (1 + r.val)

/-- Rank among qualified references: greater wins (R217). -/
def State.refRank (s : State) (r : Fin 6) : Nat :=
  let act := ptpRef s.path.active
  let tie := if r = act then 5 else if r = 1 ∨ r = 2 then 4 else 6 - r.val
  let top := s.followIlk && decide (r = act ∧ s.refPrio 1 ≠ 0 ∧ s.refPrio 2 ≠ 0) && (s.refRec 1).qualified && (s.refRec 2).qualified &&
    decide (s.refPrio r < max (s.refPrio 1) (s.refPrio 2))
  (if top then max (s.refPrio 1) (s.refPrio 2) else s.refPrio r) * 8 + tie

/-- The reference that R217 selects. -/
def State.refWanted (s : State) : Fin 6 :=
  let mode := s.timeParam 1
  if 0x10 ≤ mode then
    (let r := Fin.ofNat 6 (mode - 0x10)
     if (s.refRec r).qualified then r else 0)
  else
    (List.finRange 6).foldl (fun best r =>
      if r = 0 ∨ !(s.refRec r).qualified ∨ s.refPrio r = 0 then best
      else if best = 0 ∨ s.refRank best < s.refRank r then r else best) 0

/-- A pending step is withdrawn (R214). -/
def withdrawStep (s : State) : State :=
  if s.time.stepId = 0 then s
  else ((s.onTime fun t => { t with stepId := 0, step := 0, outliers := 0, within := 0 }).bump 5 7)

/-! The oscillator's models (R221): a frequency by temperature bin, and ageing. -/

/-- The temperature bin of 1/16 degC, 14 bins of 10 K from -40 degC. -/
def tempBin (t : BitVec 16) : Option (Fin 14) :=
  let k := (t.toInt + 640) / 160
  if 0 ≤ k ∧ k < 14 then some (Fin.ofNat 14 k.toNat) else none
/-- The learned model at a temperature: its bin's value, past either end that of the last bin (DESIGN CHOICE, log 57). -/
def State.learned (s : State) (t : BitVec 16) : Int :=
  let k := (t.toInt + 640) / 160
  s.time.model[Fin.ofNat 14 (min 13 k.toNat)]
/-- a(t) = A ln(1 + t / tau), t the elapsed powered time; its rounding is open (log 9). -/
def State.ageing (s : State) : Int :=
  let tau := max 1 s.time.ageTau
  divOpen (s.time.ageA * (lnFix (tau + s.log.poweredS.toNat) tau : Nat)) (2 ^ 64)
/-- What the models give now. -/
def State.modelled (s : State) : Int := s.learned s.time.temp + s.ageing
/-- The output holds its frequency from here on, corrected along the models (R213, R222). -/
def holdFreq (s : State) : State := s.onTime fun t => { t with heldBase := t.freq - s.modelled }

/-- A step forms (R213). -/
def formStep (v : Int) (s : State) : State :=
  let id := if s.time.stepCount = 0xFFFFFFFF then 1 else s.time.stepCount + 1
  (((holdFreq s).onTime fun t => { t with
    lock := 4, stepId := id, stepCount := id, step := v, slew := 0, outliers := 0, within := 0 }).bump 5 5).raise 4

/-- REF changes (R218). -/
def setRef (r : Fin 6) (s : State) : State :=
  ((s.onTime fun t => { t with ref := BitVec.ofNat 3 r.val, ofs := 0 }).bump 5 8).raise 5

/-- Holdover begins (R222). -/
def enterHoldover (s : State) : State :=
  if s.time.lock = 5 ∨ s.time.lock = 0 then s
  else
    let held := if s.time.lock = 2 then s.time.ref else 0
    let s1 := withdrawStep (if s.time.lock = 4 then s else holdFreq s)
    let s2 := if s.time.ref = 0 then s1 else setRef 0 s1
    ((s2.onTime fun t => { t with
      lock := 5, slew := 0, slewAcc := 0, heldRef := if held.toNat ≥ 3 then held else 0, lockedS := 0
      modelSaved := t.model }).bump 5 12)

/-- The output moves by -mv: with it what is left between it and each reference's phase, and what the servo predicts (R210,
R211, R215, R218). -/
def moveOutput (mv : Int) (s : State) : State :=
  s.onTime fun t => { t with pred := t.pred - mv, refs := t.refs.map fun r => { r with phase := r.phase - mv } }
/-- The boundaries move alone, T being kept: the phases of the edges within the tick (R211). -/
def moveEdges (mv : Int) (s : State) : State :=
  forAll [3, 4, 5] (fun r s => s.onRef r fun x => { x with phase := wrapTick s (x.phase - mv) }) s

/-- D: the output phase minus a reference's (R218, R219). -/
def State.refPhase (s : State) (r : Fin 6) : Int := if r.val ≤ 2 then (s.refRec r).phase else wrapTick s (s.refRec r).phase

/-- The selector at a boundary (R211, R217-R219, R222). -/
def selectRef (s : State) : State :=
  let w := s.refWanted
  if !s.running .timekeeper || w.val = s.time.ref.toNat then s
  else if w = 0 then enterHoldover s
  else
    let d := s.refPhase w
    if s.time.lock = 0 then
      -- R211: acquired at once, by a counter load
      let s1 := if w.val ≤ 2 then moveOutput d s else moveEdges d s
      let s2 := (setRef w s1).onTime fun t => { t with lock := 1, restarted := false, pred := 0 }
      counterLoad (s.tickMoved s.now (if w.val ≤ 2 then -d else 0)) s2
    else
      let again := s.time.lock = 3
      let s1 := setRef w (withdrawStep s)
      let s2 := if again then s1.bump 5 9 else s1
      if s.time.restarted && decide (w.val ≤ 2 ∧ (s.stepThresh < d ∨ d < -s.stepThresh)) then
        formStep d (s2.onTime fun t => { t with restarted := false, pred := 0 })
      else s2.onTime fun t => { t with
        restarted := false, pred := d, lock := if d = 0 then 1 else 3, slew := d, slewAcc := 0, outliers := 0, within := 0 }

/-- One tick of a slew at exactly SLEW_RATE (R218); the remainder 0 lets the servo enter ACQUIRE. -/
def slewTick (s : State) : State :=
  if s.time.lock ≠ 3 then s
  else if s.time.slew = 0 then s.onTime fun t => { t with lock := 1, slewAcc := 0 }
  else
    let acc := s.time.slewAcc + s.timeParam 14 * 400
    let q : Int := (acc / s.fsHz : Nat)
    let mv := if s.time.slew > 0 then min q s.time.slew else -(min q (-s.time.slew))
    moveOutput mv (s.onTime fun t => { t with slewAcc := acc % s.fsHz, slew := t.slew - mv })

/-! The servo (R207-R214). -/

/-- The servo takes a measurement, of which what a slew has still to remove is no error. Its frequency and its next prediction
follow a law of which R207 gives bandwidth and damping (log 11). -/
def servoTake (m : Int) (s : State) : State :=
  let bw := s.timeParam (if s.time.ref.toNat ≤ 2 then 12 else 13)
  s.onTime fun t => { t with
    ofs := m, freq := Config.servoFreq bw (m - t.slew) t.freq, pred := t.slew + Config.servoPredict bw (m - t.slew) t.freq }

/-- An offset measured on a PTP port, against the servo's phase target (R209, R210, R213, R214, R220). -/
def ptpMeasure (p : Port) (raw : Int) (s : State) : State :=
  let r := ptpRef p
  let m := raw - s.time.phaseOfs
  let d := m - s.time.pred
  let out := decide (s.stepThresh < d ∨ d < -s.stepThresh)
  let s1 := ((s.onRef r fun x => { x with phase := m }).bump 5 (pathIx p))
  if s.time.ref.toNat ≠ r.val then
    (if out && s.time.ref != 0 then s1.bump 5 4 else s1)
  else if s.time.lock = 4 then
    let s2 := (if out then s1.bump 5 4 else s1).onTime fun t => { t with
      ofs := m, step := d, within := if out then 0 else t.within + 1 }
    if s2.time.within ≥ 8 then (withdrawStep s2).onTime fun t => { t with lock := 1 } else s2
  else if out then
    let sign := decide (d < 0)
    let n := if s.time.outliers > 0 && s.time.outSign == sign then s.time.outliers + 1 else 1
    let s2 := (s1.bump 5 4).onTime fun t => { t with ofs := m, outliers := n, outSign := sign }
    if n ≥ 4 then formStep d s2 else s2
  else servoTake m (s1.onTime fun t => { t with outliers := 0 })

/-! The best master clock algorithm, PRESUMED as IEEE 1588 orders data sets (R201; log 13). -/

/-- The module's clock identity: the MAC address as an EUI-64. -/
def State.clockId (s : State) : DWord :=
  let m := s.svc.mac.toNat
  BitVec.ofNat 64 (m / 2 ^ 24 * 2 ^ 40 + 0xFFFE * 2 ^ 24 + m % 2 ^ 24)
/-- clockClass announced as master (R201). -/
def State.clockClass (s : State) : Nat :=
  if s.time.ref.toNat ≥ 3 && s.time.lock == 2 then 13
  else if s.time.lock = 5 && s.time.heldRef != 0 && !bit s.time.ctrl 4 then 14 else 248
/-- The module's own data set. -/
def State.ownData (s : State) : PtpAnnounce where
  domain := 0
  gm := s.clockId
  priority1 := BitVec.ofNat 8 (leAt s.timeCfg 6 1)
  clockClass := BitVec.ofNat 8 s.clockClass
  accuracy := 0xFE
  variance := 0xFFFF
  priority2 := BitVec.ofNat 8 (leAt s.timeCfg 7 1)
  steps := 0

/-- The order of two data sets: lower is better. -/
def announceKey (a : PtpAnnounce) : Nat :=
  ((((a.priority1.toNat * 2 ^ 8 + a.clockClass.toNat) * 2 ^ 8 + a.accuracy.toNat) * 2 ^ 16 + a.variance.toNat) * 2 ^ 8
    + a.priority2.toNat) * 2 ^ 80 + a.gm.toNat * 2 ^ 16 + a.steps.toNat

/-- The role of a port after the algorithm. A module of clockClass below 128 that hears a better master is PASSIVE, as IEEE
1588 has it (log 13). In 802.1AS the port with the better master is SLAVE; the other one is MASTER where what the relay
sends is better than what it hears there, else PASSIVE (R202). With MASTER_CAPABLE clear no port becomes MASTER. -/
def State.ptpRole (s : State) (p : Port) : PtpRole :=
  let own := s.ownData
  match (s.ptp p).best with
  | none => if s.masterCapable then .master else .listening
  | some b =>
    if s.masterCapable && decide (announceKey own < announceKey b) then .master
    else if s.ptpProfile = 3 then
      match (s.ptp (otherPort p)).best with
      | some o =>
        if announceKey o < announceKey b ∨ (announceKey o = announceKey b ∧ p = .b) then
          (if s.masterCapable && decide (announceKey { o with steps := o.steps + 1 } < announceKey b) then .master else .passive)
        else .slave
      | none => .slave
    else if s.masterCapable && decide (s.clockClass < 128) then .passive
    else .slave

/-- The algorithm runs on a port. -/
def runBmca (p : Port) (s : State) : State :=
  if !s.ptpRuns p then s
  else
    let r := s.ptpRole p
    s.onPtp p fun t => { t with
      role := r
      gm := if r == .slave then (t.best.map (·.gm)).getD 0 else if r == .master then s.clockId else 0
      synced := t.synced && r == .slave }

/-- The engine of a port stops. -/
def stopPtp (p : Port) (s : State) : State :=
  s.onPtp p fun t => { t with
    role := .listening, best := none, gm := 0, announced := false, synced := false, pending := none, pdPending := none }

end Sys2Proof.Machine
end

