-- ==== Sys2Proof/Machine/NetOps.lean ====
section
/-! DEFINITION. The ports and the forwarding engine: link, queues, reception, classification, ring tags, forwarded
copies (R140-R178). -/

namespace Sys2Proof.Machine

open Sys2Proof

/-! Addresses. -/

def isGroup (m : BitVec 48) : Bool := m.getLsbD 40
def isBroadcast (m : BitVec 48) : Bool := m == 0xFFFFFFFFFFFF
/-- 01-80-C2-00-00-00 to 01-80-C2-00-00-0F (R169). -/
def isLinkLocal (m : BitVec 48) : Bool := m.toNat / 16 == 0x0180C2000000 / 16
/-- The PTP multicast addresses, PRESUMED from IEEE 1588 (log 13). -/
def isPtpGroup (m : BitVec 48) : Bool :=
  m == 0x011B19000000 || m == 0x0180C200000E || m == 0x01005E000181 || m == 0x01005E00006B || m == 0x333300000181
  || m == 0x33330000006B

/-- SERVICE parameters (R128). -/
def svcDefault (i : Nat) : Nat :=
  if i = 3 then 0x88B5 else if i = 4 then 0x41000001 else if i = 5 then 0x07D0 else if i = 6 then 50
  else if i = 0x11 then 24 else 0
def State.svcParam (s : State) (i : Nat) : Nat := s.param .service i (svcDefault i)
def State.nodeId (s : State) : BitVec 16 := BitVec.ofNat 16 (s.svcParam 2)
def State.noardGroup (s : State) : BitVec 48 := BitVec.ofNat 48 (s.svcParam 5 % 2 ^ 16 * 2 ^ 32 + s.svcParam 4)

/-- The MAC address of a group-table entry: an IPv4 address, a MAC address or an IPv6 address. -/
def groupMac (g : BitVec 128) : Nat :=
  let n := g.toNat
  if n < 2 ^ 32 then 0x01005E * 2 ^ 24 + n % 2 ^ 23 else if n < 2 ^ 48 then n else 0x3333 * 2 ^ 32 + n % 2 ^ 32

/-! Ports. -/

/-- Tarragon runs (R62, R24): from the check of its patch on. -/
def State.svcAlive (s : State) : Bool :=
  decide (2 ≤ s.chip.stage.toNat) && s.portsUp && s.chip.supply != .stopped && s.running .service

def modeCode : LineMode → Nat
  | .none => 0 | .m100 => 1 | .m1000 => 2 | .m2500 => 3
/-- A quantum of 512 bit times, picoseconds (R158). -/
def quantum : LineMode → Nat
  | .none => 1 | .m100 => 5120000 | .m1000 => 512000 | .m2500 => 204800
/-- Line rate in Mbit/s. -/
def modeRate : LineMode → Nat
  | .none => 0 | .m100 => 100 | .m1000 => 1000 | .m2500 => 2500
/-- The mode's bit in an advertisement. -/
def modeBit : LineMode → BitVec 3
  | .none => 0 | .m100 => 1 | .m1000 => 2 | .m2500 => 4

/-- MAXLEN of a port (R149). -/
def maxLen (w : Word) : Nat := if bits w 1 0 = 1 then 1522 else if bits w 1 0 = 2 then 2000 else 1518
def State.maxLen (s : State) (p : Port) : Nat := Machine.maxLen (s.port p).macCtrl

/-- A frame sent or received darkens the jack LED in link-and-activity mode (R164). -/
def ledFlash (p : Port) (s : State) : State :=
  let r := s.port p
  let lit := match r.darkEnd with
    | some t => decide ((s.now - t).toNat < (30 * s.fsHz + 999) / 1000)
    | none => false
  if bits r.led 1 0 = 2 && r.link && !r.ledDark && !lit then s.onPort p fun r => { r with ledDark := true } else s

/-- Loss of link (R145, R171). An active pause runs on, since no rule ends it (DESIGN CHOICE, log 56). -/
def linkLost (p : Port) (s : State) : State :=
  let r := s.port p
  if !r.link then s.onPort p fun r => { r with resolved := .none }
  else
    let n := (r.queues.toList.map List.length).sum + r.fwd.length
    let s1 := (s.bumpPort p 20).bumpBy (portFn p) 17 n
    pathLinkLost p ((s1.onPort p fun r => { r with
      link := false, mode := .none, resolved := .none, mdix := false, swap01 := false, swap23 := false, pol := 0
      master := false, lpPause := false, withheld := 0, attempts := 0, queues := Vector.replicate 8 [], fwd := []
      ledDark := false }).raise 7)

/-! Local frames (R155, R156, R175, R176). -/

def lenSum (l : List Frame) : Nat := (l.map (·.len)).sum

/-- A frame offered to a transmit queue (R145, R155). -/
def enqueue (p : Port) (q : Fin 8) (f : Frame) (s : State) : State :=
  let r := s.port p
  let l := r.queues[q]
  if !r.link then s.bumpPort p 17
  else if 16 ≤ l.length ∨ 16384 < lenSum l + f.len then s.bumpPort p 16
  else s.onPort p fun r => { r with queues := vmod r.queues q fun l => l ++ [f] }

def State.isRing (s : State) : Bool := s.topo == 1
def State.ringType (s : State) : BitVec 16 := s.path.ring.truncate 16

/-- The next SEQ: 0x0001 to 0xFFFF (R176). -/
def nextSeq (n : BitVec 16) : BitVec 16 := if n = 0xFFFF then 1 else n + 1

/-- A frame tagged by this node as its origin. -/
def originTag (f : Frame) (s : State) : Frame × State :=
  if isLinkLocal f.dst then (f, s)
  else
    let grp := isGroup f.dst
    ({ f with ring := some { tpid := s.ringType, origin := s.nodeId, seq := if grp then s.path.seq else 0 }, len := f.len + 6 },
      if grp then s.onPath fun x => { x with seq := nextSeq x.seq } else s)

/-- A frame of the module itself, sent on some ports with one tag (R176). -/
def sendFrame (ps : List Port) (q : Fin 8) (f : Frame) (s : State) : State :=
  let r := if s.isRing then originTag { f with len := max 64 f.len } s else ({ f with len := max 64 f.len }, s)
  forAll ps (fun p s => enqueue p q r.1 s) r.2

def State.txqService (s : State) (p : Port) : Fin 8 := Fin.ofNat 8 (bits (s.port p).txqMap 10 8)
def State.txqEvent (s : State) (p : Port) : Fin 8 := Fin.ofNat 8 (bits (s.port p).txqMap 2 0)
def State.txqGeneral (s : State) (p : Port) : Fin 8 := Fin.ofNat 8 (bits (s.port p).txqMap 6 4)

/-- The number of the highest queue that holds a frame. -/
def PortSt.topQueue (r : PortSt) : Option (Fin 8) := (List.finRange 8).reverse.find? fun q => !(r.queues[q]).isEmpty
/-- The forward queue is ahead of every local queue that holds a frame (R171). -/
def State.fwdFirst (s : State) (p : Port) : Bool :=
  let r := s.port p
  !r.fwd.isEmpty && match r.topQueue with
    | some q => decide (q.val ≤ bits s.path.fwd 2 0)
    | none => true

/-! Reception (R149-R154, R169). -/

/-- A setting of a port or of the paths, as the frame in reception met it. -/
def settled (p : Port) (h : RxHold) (s : State) : State :=
  (s.onPort p fun r => { r with macCtrl := h.macCtrl, vlan := h.vlan, rxPcp := h.rxPcp }).onPath fun x =>
    { x with topo := h.topo, ring := h.ring }
/-- The settings in force. -/
def State.settings (s : State) (p : Port) (f : Frame) : RxHold :=
  let r := s.port p
  { frame := f, macCtrl := r.macCtrl, vlan := r.vlan, rxPcp := r.rxPcp, topo := s.path.topo, ring := s.path.ring }
/-- A frame whose start the forwarding engine has seen is judged to its end by the settings of its start (R151, R166, R168).
FORWARD_COMMIT stands for that start; a frame without one meets the settings at its end (DESIGN CHOICE, log 56). -/
def underHold (p : Port) (f : Frame) (g : State → State) (s : State) : State :=
  match (s.port p).hold with
  | some h =>
    let s0 := s.onPort p fun r => { r with hold := none }
    if h.frame = f then settled p (s.settings p f) (g (settled p h s0)) else g s0
  | none => g s

/-- The order of R150 that decides. -/
def rxOrder (lim : Nat) (f : Frame) : Nat :=
  if f.symErr then 1
  else if f.len < 64 then (if f.fcs == .good then 2 else 3)
  else if lim < f.len then 4
  else if f.fcs == .good then 6 else 5

/-- A tag of this ring (R175, R179). -/
def State.tagOf? (s : State) (f : Frame) : Option RingTag :=
  match f.ring with
  | some t => if s.isRing && t.tpid == s.ringType then some t else none
  | none => none
/-- The tag has an origin that this node strips (R177). -/
def State.strips (s : State) (f : Frame) : Bool :=
  match s.tagOf? f with
  | some t => t.origin == s.nodeId || s.path.prevNode == some t.origin
  | none => false

/-- VLAN identifier 0 is untagged (R152). -/
def frameVid (f : Frame) : Nat :=
  match f.vlans with
  | [] => 0
  | v :: _ => v.vid.toNat
def vlanOk (w : Word) (f : Frame) : Bool :=
  let v := frameVid f
  let m := bits w 1 0
  if m = 1 then v == 0 || v == bits w 27 16 else if m = 2 then v != 0 && v == bits w 27 16 else true

def State.accepts (s : State) (p : Port) (m : BitVec 48) : Bool :=
  m == s.svc.mac || isBroadcast m || isPtpGroup m || m == s.noardGroup
  || (s.port p).groups.any fun g => groupMac g == m.toNat

def isPtpFrame (f : Frame) : Bool :=
  f.vlans.length < 2 && (f.etype == 0x88F7 || match f.ip with
    | some i => i.proto == 17 && !i.fragment && (i.udpDst == 319 || i.udpDst == 320)
    | none => false)

/-- A stream that STREAM_RX receives on this path matches the frame (R152, R237). -/
def State.streamMatch (s : State) (p : Port) (f : Frame) : Bool :=
  s.running .streamRx && s.running (pathFunc p) && s.isFed p && (List.range s.rxCount).any fun k =>
    if s.rxAes k then
      match f.ip with
      | some i => i.proto == 17 && !i.fragment && i.v6 == s.rxV6 k && i.dst.toNat == s.rxDst p k
          && i.udpDst.toNat == s.rxFld k 10 2
      | none => false
    else f.etype == 0x22F0 && f.streamId.toNat == s.rxAddr k (24 + 16 * pathIx p) 8

def isService (f : Frame) : Bool :=
  f.etype == 0x0806 || match f.ip with
    | some i => !i.fragment && (i.proto == 1 || i.proto == 2 || i.proto == 58)
    | none => false

/-- The order of R152 that decides, for a good frame. -/
def State.rxClass (s : State) (p : Port) (f : Frame) : Nat :=
  let odd := match f.ring with
    | some _ => (s.tagOf? f).isNone
    | none => false
  if f.etype == 0x8808 && !odd then 1
  else if !s.accepts p f.dst then 2
  else if !vlanOk (s.port p).vlan f then 3
  else if odd || 2 ≤ f.vlans.length then 9
  else if isPtpFrame f then 4
  else if f.etype.toNat == s.svcParam 3 then 5
  else if f.etype == 0x22F0 && s.streamMatch p f then 6
  else if f.etype != 0x22F0 && s.streamMatch p f then 7
  else if isService f then 8 else 9

/-- A service frame has high priority (R154); VLAN identifier 0 is untagged (R152). -/
def svcHigh (w : Word) (f : Frame) : Bool :=
  match f.vlans with
  | [] => bit w 8
  | v :: _ => if v.vid = 0 then bit w 8 else bit w v.pcp.toNat

/-- A service frame taken into the buffer of 64 KiB, or dropped (R154). -/
def takeService (p : Port) (f : Frame) (s : State) : State :=
  let r := s.port p
  if 65536 < r.svcBuf + f.len ∨ (!svcHigh r.rxPcp f ∧ 49152 < r.svcBuf) then
    (s.bumpPort p 13).onPort p fun r => { r with lastRx := .none }
  else s.onPort p fun r => { r with svcBuf := r.svcBuf + f.len, lastRx := .service }

/-- A frame for the path or for the timing engine: dropped only where its buffer is full (R154). An empty buffer is not
full, whatever the free size is (DEDUCED, log 11). -/
def takePath (p : Port) (f : Frame) (s : State) : State :=
  if (s.port p).pathBuf ≠ 0 ∧ Config.pathBuffer < (s.port p).pathBuf + f.len then (s.bumpPort p 13).onPort p fun r => { r with lastRx := .none }
  else s.onPort p fun r => { r with pathBuf := r.pathBuf + f.len, lastRx := .path }
def takeTiming (p : Port) (f : Frame) (s : State) : State :=
  if (s.port p).timeBuf ≠ 0 ∧ Config.timingBuffer < (s.port p).timeBuf + f.len then (s.bumpPort p 13).onPort p fun r => { r with lastRx := .none }
  else s.onPort p fun r => { r with timeBuf := r.timeBuf + f.len, lastRx := .timing }

/-- A good frame is classified and delivered to at most one consumer (R152). A pause frame is two rows of the table: here it
is a good frame received, and PAUSE_FRAME, which follows, counts it in RX_PAUSE and lets it act (DESIGN CHOICE, log 56). -/
def deliver (p : Port) (f : Frame) (s : State) : State :=
  let s1 := (s.bumpBy (portFn p) 0 f.len).bumpPort p 1
  let s2 := if isBroadcast f.dst then s1.bumpPort p 2 else if isGroup f.dst then s1.bumpPort p 3 else s1
  let c := s2.rxClass p f
  let to_ := fun (k : RxConsumer) (s : State) => s.onPort p fun r => { r with lastRx := k }
  if c = 1 then to_ .mac (if f.macOpcode = 1 then s2 else s2.bumpPort p 10)
  else if c = 2 ∨ c = 3 then to_ .none (s2.bumpPort p 11)
  else if c = 4 then takeTiming p f s2
  else if c = 5 ∨ c = 8 then takeService p f s2
  else if c = 6 ∨ c = 7 then takePath p f s2
  else to_ .none (s2.bumpPort p 12)

/-- Steps from `a` to `b` along 0x0001 to 0xFFFF (R178). -/
def seqAhead (a b : BitVec 16) : Nat := (b.toNat + 65535 - a.toNat) % 65535

/-- An own group frame returns on a port (R178): the SEQ expected is that of the oldest such frame sent on the other port
which has neither returned nor been passed. One that is further away resets the expectation to the next frame sent
(DEDUCED, log 19). -/
def ringReturn (p : Port) (seq : BitVec 16) (s : State) : State :=
  let l := (s.port p).ringExp
  let g := match l with
    | e :: _ => seqAhead e seq
    | [] => 0
  let s1 := if 1 ≤ g ∧ g < 32768 then s.bumpBy (portFn p) (30 + 7) g else s
  s1.onPort p fun r => { r with
    ringClosed := true, ringExp := if g < 32768 then l.filter fun e => decide (seqAhead seq e ≠ 0 ∧ seqAhead seq e < 32768) else [] }

/-- A group frame of this node's own leaves by a port, and is expected on the other one (R178). -/
def ringSent (p : Port) (f : Frame) (s : State) : State :=
  match s.tagOf? f with
  | some t =>
    if t.origin == s.nodeId && t.seq != 0 && isGroup f.dst then
      s.onPort (otherPort p) fun r => { r with ringExp := (r.ringExp ++ [t.seq]).drop (r.ringExp.length + 1 - 32767) }
    else s
  | none => s

/-- A stripped frame (R177). Only a good one shows a return (R178; DEDUCED, log 19). -/
def strip (p : Port) (f : Frame) (good : Bool) (s : State) : State :=
  let s1 := s.bumpPath p 6
  let s2 := if f.src = s.svc.mac then s1
    else (s1.bumpPath p 8).logEntry 0x06 0 0 (BitVec.ofNat 64 (ofLe (beBytes 6 f.src.toNat)))
  match f.ring with
  | some t => if good && t.seq != 0 && isGroup f.dst then ringReturn p t.seq s2 else s2
  | none => s2

/-- A frame received on a port (R150), under the settings in force. -/
def receiveNow (p : Port) (f : Frame) (s : State) : State :=
  let o := rxOrder (s.maxLen p) f
  let s0 := ledFlash p s
  let gone := 64 ≤ f.len && s.strips f
  if o = 1 then (let s1 := errEvent p (s0.bumpPort p 8); if gone then strip p f false s1 else s1)
  else if o = 2 then s0.bumpPort p 4
  else if o = 3 then s0.bumpPort p 5
  else if o = 4 then (let s1 := errEvent p (s0.bumpPort p 6); if gone then strip p f false s1 else s1)
  else if o = 5 then
    (let s1 := errEvent p (s0.bumpPort p 7)
     let s2 := if f.fcs == .inverted then s1.bumpPath p 3 else s1
     if gone then strip p f false s2 else s2)
  else if gone then
    (let s1 := (s0.bumpBy (portFn p) 0 f.len).bumpPort p 1
     let s2 := if isBroadcast f.dst then s1.bumpPort p 2 else if isGroup f.dst then s1.bumpPort p 3 else s1
     (strip p f true s2).onPort p fun r => { r with lastRx := .none })
  else deliver p f s0
/-- A frame received, under the settings of its start. -/
def receive (p : Port) (f : Frame) (s : State) : State := underHold p f (receiveNow p f) s

/-! Forwarding (R167-R174, R203). -/

/-- The PTP profile of TIMEKEEPER's configuration forwards the message (R169 order 3, R203). -/
def State.passesPtp (s : State) (f : Frame) : Bool :=
  if s.ptpProfile = 3 then false
  else if s.ptpProfile = 1 then !(f.ptp == .pdelayReq || f.ptp == .pdelayResp || f.ptp == .pdelayRespFollowUp)
  else true

/-- The forwarding decision of R169. -/
def State.forwards (s : State) (p : Port) (f : Frame) : Bool :=
  s.topo != 2 && decide (64 ≤ f.len) && !isLinkLocal f.dst && !s.strips f
  && (if s.rxClass p f = 4 then s.passesPtp f else f.dst != s.svc.mac)

/-- A committed frame joins the egress port's forward queue of 32 KiB (R170, R171, R176). The settings it meets are kept for
it to its end. -/
def commitFrame (p : Port) (f : Frame) (st : State) : State :=
  let e := otherPort p
  let s := st.onPort p fun r => { r with hold := some (st.settings p f) }
  if !s.portsUp || !s.forwards p f then s
  else
    let untagged := s.isRing && (s.tagOf? f).isNone
    if untagged && decide (s.maxLen e < f.len + 6) && decide (f.len ≤ s.maxLen p) then (s.bumpPath p 4).bumpPath p 5
    else
      let r := if untagged then originTag f (s.bumpPath p 4) else (f, s)
      let g := r.1
      let s1 := r.2
      let pe := s1.port e
      if !pe.link then s1.bumpPort e 17
      else if 32768 < ((pe.fwd.map (·.frame.len)).sum + g.len) then s1.bumpPath p 1
      else s1.onPort e fun r => { r with fwd := r.fwd ++ [{
        frame := g, ingress := p, inMax := s.maxLen p, outMax := s.maxLen e, order := rxOrder (s.maxLen p) f
        timing := s.rxClass p f == 4 }] }

/-- Time in quarter nanoseconds that `n` octets take at a mode. -/
def wireTime (n : Nat) (m : LineMode) : Nat := n * 8 * 4000 / max 1 (modeRate m)

/-- A copy from a slower to a faster mode is stored and forwarded (R170). -/
def State.stores (s : State) (e : Port) (w : FwdFrame) : Bool :=
  decide (modeRate (s.port w.ingress).mode < modeRate (s.port e).mode)
/-- The ingress port has received enough for the copy to start: octet 64, or to be stored the whole frame (R170). -/
def State.mayStart (s : State) (e : Port) (w : FwdFrame) (residence : Nat) : Bool :=
  decide (wireTime (if s.stores e w then w.frame.len else 64) (s.port w.ingress).mode ≤ residence)

/-- Where the frame is found bad before its copy starts: it has been received in full (R170 store and forward, or
a wait longer than the frame), or up to the octet that shows the fault (R172). -/
def foundBad (s : State) (e : Port) (w : FwdFrame) (residence : Nat) : Bool :=
  let got := fun n => s.stores e w || decide (wireTime n (s.port w.ingress).mode ≤ residence)
  let o := w.order
  if o = 1 then got w.frame.errAt else if o = 5 then got w.frame.len else if o = 4 then got (w.inMax + 1) else false

/-- Octets that a copy holds which a symbol error ends: those sent as the error is detected, and the next whole one (R172). -/
def errorOctets (s : State) (e : Port) (w : FwdFrame) (residence : Nat) : Nat :=
  (wireTime w.frame.errAt (s.port w.ingress).mode - residence) * modeRate (s.port e).mode / 32000 + 1
/-- How many octets of the copy are sent before it is ended early; none: it is sent whole and good (R172). -/
def copyCut (s : State) (e : Port) (w : FwdFrame) (residence : Nat) : Option Nat :=
  let both := min w.inMax w.outMax
  let n := w.frame.len
  if w.order = 1 then some (if both < n then min (both + 1) (errorOctets s e w residence) else errorOctets s e w residence)
  else if w.order = 4 then some (both + 1)
  else if w.outMax < n then some (w.outMax + 1)
  else if w.order = 5 then some n
  else none

/-! UDP checksums of PTP frames whose fields change on their way (R206). -/

/-- The sum of 16-bit words in network order. -/
def wordSum : List Byte → Nat
  | [] => 0
  | [a] => 256 * a.toNat
  | a :: b :: r => 256 * a.toNat + b.toNat + wordSum r
/-- The octets of a correctionField. -/
def corrBytes (c : Int) : List Byte := beBytes 8 (BitVec.ofInt 64 c).toNat
/-- Octets that change from `old` to `new`: over IPv4 the checksum is set to 0, over IPv6 the two trailing octets keep it
correct. -/
def fixSum (old new : List Byte) (f : Frame) : Frame :=
  match f.ip with
  | none => f
  | some i =>
    if i.v6 then { f with tail := BitVec.ofNat 16 ((f.tail.toNat + wordSum old + 65535 - wordSum new % 65535) % 65535) }
    else { f with ip := some { i with udpSum := 0 } }

/-- The one-step correction of a forwarded event message, units of 2^-16 ns (R203, R206). -/
def correctPtp (w : FwdFrame) (residence : Nat) (s : State) : Frame × State :=
  let f := w.frame
  let p2p := s.ptpProfile = 1
  let event := f.ptp == .sync || (f.ptp == .delayReq && !p2p)
  if !w.timing || !event then (f, s)
  else
    let v6 := match f.ip with
      | some i => i.v6
      | none => false
    if v6 && !f.udpTail then (f, s.bump 5 15)
    else
      let add : Int := (residence : Int) * 16384 + (if p2p then (s.ptp w.ingress).meanDelay * 16384 else 0)
      let c := f.correction + add
      (fixSum (corrBytes f.correction) (corrBytes c) { f with correction := c }, s.bump 5 14)

/-- The copy of a committed frame starts on the egress port (R170-R173), or is discarded. -/
def startCopy (e : Port) (w : FwdFrame) (residence : Nat) (s : State) : State :=
  if foundBad s e w residence then s
  else
    let r := correctPtp w residence s
    let s1 := ledFlash e (r.2.bumpPath w.ingress 0)
    let f := r.1
    match copyCut s e w residence with
    | some n =>
      (s1.bumpPath w.ingress 2).onPort e fun r => { r with
        lastTx := some { frame := f, forwarded := true, octets := n, inverted := true } }
    | none =>
      (ringSent e f ((s1.bumpBy (portFn e) 14 f.len).bumpPort e 15)).onPort e fun r => { r with
        lastTx := some { frame := f, forwarded := true, octets := f.len, inverted := false } }

end Sys2Proof.Machine
end

