-- ==== Sys2Proof/Machine/Housekeeping.lean ====
section
/-! DEFINITION. What Tarragon sends for the module besides Noard: ARP, echo replies, neighbour advertisements, group
reports (R127, R153, R156, R237). Their octets are those of RFC 826, 792, 4443, 4861, 3376 and 3810 (PRESUMED, log 13).
The payload of an IP frame is what follows its IP header, of any other frame what follows its EtherType. -/

namespace Sys2Proof.Machine

open Sys2Proof

/-- The internet checksum. -/
def inetSum (l : List Byte) : Nat :=
  let n := wordSum l
  let a := n % 65536 + n / 65536
  65535 - (a % 65536 + a / 65536)

/-- A message with its checksum at octets 2 and 3, over `pre` (a pseudo-header) and itself. -/
def withSum (pre : List Byte) (head : List Byte) (rest : List Byte) : List Byte :=
  head ++ beBytes 2 (inetSum (pre ++ head ++ [0, 0] ++ rest)) ++ rest

/-- A frame of the module. -/
def ownFrame (s : State) (dst : BitVec 48) (etype : BitVec 16) (hdr : Nat) (ip : Option IpInfo) (msg : List Byte) : Frame :=
  { dst, src := s.svc.mac, len := 18 + hdr + msg.length, etype, ip, payload := msg }
def ipInfo (v6 : Bool) (src dst : Nat) (proto : Byte) : IpInfo :=
  { v6, src := BitVec.ofNat 128 src, dst := BitVec.ofNat 128 dst, proto, fragment := false, udpSrc := 0, udpDst := 0 }

/-- A datagram with its UDP checksum, over the pseudo-header, the UDP header and the message; a sum of 0 goes as 0xFFFF
(R206, R244). -/
def udpInfo (i : IpInfo) (msg : List Byte) : IpInfo :=
  let n := 8 + msg.length
  let addr := fun (a : BitVec 128) => if i.v6 then beBytes 16 a.toNat else beBytes 4 a.toNat
  let pre := addr i.src ++ addr i.dst ++ beBytes 4 n ++ [0, 0, 0, 17]
  let c := inetSum (pre ++ beBytes 2 i.udpSrc.toNat ++ beBytes 2 i.udpDst.toNat ++ beBytes 2 n ++ [0, 0] ++ msg)
  { i with udpSum := if c = 0 then 0xFFFF else BitVec.ofNat 16 c }

/-- ARP: operation 1 asks, 2 answers. -/
def arpFrame (s : State) (dst : BitVec 48) (op senderIp : Nat) (targetMac : Nat) (targetIp : Nat) : Frame :=
  ownFrame s dst 0x0806 0 none (beBytes 2 1 ++ beBytes 2 0x0800 ++ [6, 4] ++ beBytes 2 op ++ beBytes 6 s.svc.mac.toNat
    ++ beBytes 4 senderIp ++ beBytes 6 targetMac ++ beBytes 4 targetIp)

def icmpFrame (s : State) (mac : BitVec 48) (dst : Nat) (msg : List Byte) : Frame :=
  ownFrame s mac 0x0800 20 (some (ipInfo false (s.svcParam 0x10) dst 1)) msg
def igmpFrame (s : State) (msg : List Byte) : Frame :=
  ownFrame s 0x01005E000016 0x0800 24 (some (ipInfo false (s.svcParam 0x10) 0xE0000016 2)) msg

/-- An ICMPv6 message: its checksum covers the addresses. -/
def icmp6Msg (src dst : Nat) (head rest : List Byte) : List Byte :=
  withSum (beBytes 16 src ++ beBytes 16 dst ++ beBytes 4 (4 + rest.length) ++ beBytes 4 58) head rest
def icmp6Frame (s : State) (mac : BitVec 48) (src dst hop : Nat) (head rest : List Byte) : Frame :=
  ownFrame s mac 0x86DD (40 + hop) (some (ipInfo true src dst 58)) (icmp6Msg src dst head rest)

/-- IPV6_ADDR (R128), and the link-local address of the MAC address (PRESUMED, log 13: RFC 4291). -/
def State.ipv6Addr (s : State) : Nat :=
  (List.range 4).foldl (fun a i => a * 2 ^ 32 + s.svcParam (0x12 + i)) 0
def State.linkLocal (s : State) : Nat :=
  let m := (s.svc.mac ^^^ 0x020000000000).toNat
  0xFE80 * 2 ^ 112 + m / 2 ^ 24 * 2 ^ 40 + 0xFFFE * 2 ^ 24 + m % 2 ^ 24
/-- An address that ICMPv6 answers for. -/
def State.ownV6 (s : State) (a : Nat) : Bool := a == s.linkLocal || (a != 0 && a == s.ipv6Addr)

/-- A frame of the service island leaves by a port (R127, R156). -/
def sendService (p : Port) (f : Frame) (s : State) : State := sendFrame [p] (s.txqService p) f s

/-- The gratuitous ARP of R127. -/
def gratuitousArp (p : Port) (s : State) : State :=
  let a := s.svcParam 0x10
  if s.svcAlive && a != 0 then sendService p (arpFrame s 0xFFFFFFFFFFFF 1 a s.svc.mac.toNat a) s else s

/-! Group reports (R127, R235, R237). A record is a group, with the source it is restricted to. Record types: 2 a current
state, 4 a join, 3 a leave; with a source 1, 5 and 6. -/

def isV4 (g : BitVec 128) : Bool := decide (g.toNat < 2 ^ 32)
def isV6 (g : BitVec 128) : Bool := decide (2 ^ 48 ≤ g.toNat)

/-- The records of a port's groups: a group restricted to sources has one for each of them. -/
def PortSt.records (r : PortSt) (gs : List (BitVec 128)) : List (BitVec 128 × Option (BitVec 128)) :=
  gs.flatMap fun g =>
    let l := r.sources.filter fun e => e.1 == g
    if l.isEmpty then [(g, none)] else l.map fun e => (g, some e.2)
/-- One record; `n`: octets of an address. -/
def recordBytes (kind n : Nat) (e : BitVec 128 × Option (BitVec 128)) : List Byte :=
  match e.2 with
  | none => [BitVec.ofNat 8 kind, 0, 0, 0] ++ beBytes n e.1.toNat
  | some a => [if kind = 2 then 1 else if kind = 4 then 5 else 6, 0, 0, 1] ++ beBytes n e.1.toNat ++ beBytes n a.toNat

/-- The body of a report. -/
def reportBody (kind n : Nat) (l : List (BitVec 128 × Option (BitVec 128))) : List Byte :=
  [0, 0] ++ beBytes 2 l.length ++ l.flatMap (recordBytes kind n)
/-- A list in pieces of 32, which a frame can hold at every MAXLEN. -/
def pieces {α : Type} (l : List α) : List (List α) :=
  ((List.range ((l.length + 31) / 32)).map fun i => (l.drop (32 * i)).take 32)

/-- IGMPv3 reports. -/
def igmpReport (kind : Nat) (gs : List (BitVec 128)) (p : Port) (s : State) : State :=
  forAll (pieces ((s.port p).records gs)) (fun l s =>
    sendService p (igmpFrame s (withSum [] [0x22, 0] (reportBody kind 4 l))) s) s
/-- MLDv2 reports. -/
def mldReport (kind : Nat) (gs : List (BitVec 128)) (p : Port) (s : State) : State :=
  forAll (pieces ((s.port p).records gs)) (fun l s =>
    sendService p (icmp6Frame s 0x333300000016 s.linkLocal (0xFF02 * 2 ^ 112 + 0x16) 8 [0x8F, 0] (reportBody kind 16 l)) s) s

/-- Joins or leaves of a port's groups. -/
def reportPort (kind : Nat) (p : Port) (s : State) : State :=
  let gs := (s.port p).groups
  if !s.svcAlive then s else mldReport kind (gs.filter isV6) p (igmpReport kind (gs.filter isV4) p s)
def reportGroups (kind : Nat) (s : State) : State := reportPort kind .b (reportPort kind .a s)

/-- STREAM_RX enters RUNNING: the group tables are filled and the joins reported (R237). -/
def joinReported (s : State) : State := reportGroups 4 (joinGroups s)
/-- It leaves RUNNING. -/
def leaveReported (s : State) : State := leaveGroups (reportGroups 3 s)

end Sys2Proof.Machine
end

