-- ==== Sys2Proof/Machine/LocOps.lean ====
section
/-! DEFINITION. Decimator channels, PDM clocks and TDM ports (R340-R365). -/

namespace Sys2Proof.Machine

open Sys2Proof

/-! Configuration in force (R360-R362, R457). -/

/-- The default DECIM block: DSYNC_EN 1, STANDARD for DEC0-DEC31 and CONTROL for DEC32-DEC39. -/
def decDefault : List Byte :=
  [1, 1, 0, 0, 0, 0, 0, 0, 0, 0, 0, 0, 0, 0, 0, 0] ++ (List.range 40).flatMap fun c =>
    [1, if c < 32 then 1 else 3, 0, 0, 0, 0, 0, 0]
def State.decCfg (s : State) : List Byte := (s.func .decim).config.getD decDefault
def State.dsyncEn (s : State) : Bool := leAt s.decCfg 1 1 % 2 == 1
def State.pdmCfg (s : State) : List Byte := (s.func .pdm).config.getD [1, 0, 20, 0, 0, 0, 0, 0]
def State.pdmClkEn (s : State) : Nat := leAt s.pdmCfg 1 1 % 16
def State.pdmRatio128 (s : State) : Nat := leAt s.pdmCfg 1 1 / 16
/-- WARMUP in ticks, to the first boundary at or after it (R342). -/
def State.warmTicks (s : State) : Nat := (leAt s.pdmCfg 2 2 * s.fsHz + 999) / 1000
/-- WARMUP in force is still running (R342). -/
def State.warming (s : State) : Bool := s.loc.warming != 0

def State.tdmCfg (s : State) (x : Fin 2) : List Byte := (s.func (tdmFunc x)).config.getD []
def State.tdmSlave (s : State) (x : Fin 2) : Bool := leAt (s.tdmCfg x) 1 1 % 2 == 1
def State.tdmWait (s : State) (x : Fin 2) : Bool := leAt (s.tdmCfg x) 1 1 / 2 % 2 == 1
def State.tdmSlots (s : State) (x : Fin 2) : Nat := leAt (s.tdmCfg x) 2 1
/-- Bits of a word: 32, 24 or 16. -/
def State.tdmWord (s : State) (x : Fin 2) : Nat :=
  let c := leAt (s.tdmCfg x) 4 1
  if c = 1 then 24 else if c = 2 then 16 else 32
def State.tdmStable (s : State) (x : Fin 2) : Nat := s.param (tdmFunc x) 2 64

/-! The chains (R345-R348). -/

/-- A chain: N1, K1, N2, K2, the FIR, and the shifts. -/
structure Chain where
  n1 : Nat
  k1 : Nat
  n2 : Nat
  k2 : Nat
  fir : Bool
  sh1 : Nat
  sh2 : Nat
  sh3 : Nat
  deriving DecidableEq, Repr

def Chain.g1 (c : Chain) : Nat := c.k1 * Nat.log2 c.n1
def Chain.g2 (c : Chain) : Nat := c.k2 * Nat.log2 c.n2

/-- A preset at R = 64 or 128 (R348). -/
def preset (p : Nat) (high : Bool) : Chain :=
  let mk := fun (n1 k1 n2 k2 : Nat) (fir : Bool) =>
    let n := if high then 2 * n1 else n1
    ({ n1 := n, k1, n2, k2, fir, sh1 := k1 * Nat.log2 n, sh2 := k2 * Nat.log2 n2, sh3 := 0 } : Chain)
  if p = 0 then mk 16 5 2 4 true else if p = 1 then mk 16 4 2 2 true
  else if p = 2 then mk 16 3 4 2 false else mk 32 2 2 1 false

/-- The chain of an entry of 8 configuration bytes; none: off. -/
def entryChain (e : List Byte) (high : Bool) : Option Chain :=
  let b := fun i => leAt e i 1
  if b 0 = 1 then some (preset (b 1) high)
  else if b 0 = 2 then some {
    n1 := 2 ^ (b 2 % 8), k1 := b 2 / 16 % 8, n2 := 2 ^ (b 3 % 4), k2 := b 3 / 16 % 8, fir := b 3 / 128 == 1
    sh1 := b 4, sh2 := b 5, sh3 := b 6 }
  else none

/-- R346. -/
def Chain.valid (c : Chain) (r : Nat) : Bool :=
  (c.n1 == 8 || c.n1 == 16 || c.n1 == 32 || c.n1 == 64) && 1 ≤ c.k1 && c.k1 ≤ 5
  && (c.n2 == 2 || c.n2 == 4 || c.n2 == 8) && 1 ≤ c.k2 && c.k2 ≤ 4
  && c.n1 * c.n2 * (if c.fir then 2 else 1) == r
  && c.g1 + c.g2 ≤ 31 + c.sh1 && (!c.fir || c.g1 + c.g2 ≤ 30 + c.sh1 + c.sh2)

/-- Span in bits; L and S (R347). -/
def Chain.span (c : Chain) (r : Nat) : Nat :=
  c.k1 * (c.n1 - 1) + c.n1 * c.k2 * (c.n2 - 1) + (if c.fir then 31 * r / 2 else 0)
def Chain.latency (c : Chain) (r : Nat) : Nat := (c.span r + 2 * r - 1) / (2 * r) + 1
def Chain.settle (c : Chain) (r : Nat) : Nat := (c.span r + r - 1) / r

/-- RATIO 128 of a channel: as PDM's configuration has it, and always for the sense channels (R340). -/
def State.ratioHigh (s : State) (c : Nat) : Bool := decide (32 ≤ c) || s.pdmRatio128.testBit (c / 8)
def ratioOf (high : Bool) : Nat := if high then 128 else 64
def State.decEntry (s : State) (c : Nat) : List Byte := (s.decCfg.drop (16 + 8 * c)).take 8
/-- The chain that applies at the next reset (R365). -/
def State.chain (s : State) (c : Nat) : Option Chain := entryChain (s.decEntry c) (s.ratioHigh c)
/-- The chain in force, taken at the channel's last reset. -/
def State.chainNow (s : State) (c : Fin 40) : Option Chain := entryChain (s.dec c).entry (s.ratioHigh c.val)
def Dec.isControl (d : Dec) : Bool := leAt d.entry 0 1 == 1 && leAt d.entry 1 1 == 3

/-- The impulse response of `k` moving averages of length `n`. -/
def boxes (n : Nat) : Nat → List Nat
  | 0 => [1]
  | k + 1 =>
    let h := boxes n k
    (List.range (h.length + n - 1)).map fun i => ((h.drop (i + 1 - n)).take (min n (i + 1))).sum

/-- A weighted sum over the newest values, `x i` the i-th value back. -/
def weigh (h : List Nat) (x : Nat → Int) : Int := ((h.zipIdx).map fun e => (e.1 : Int) * x e.2).sum

/-- The shift after a stage: to nearest, ties upward. -/
def stageShift (x : Int) (n : Nat) : Int := roundHalfUp x n

/-- Coefficient i of the compensation FIR, units of 2^-31: symmetric, and their sum is 1 (R346, "The decimation
chain"); the spec gives no other property of it, so the coefficients are free (log 11). -/
def firTap (p i : Nat) : Int :=
  let j := if i < 16 then i else 31 - i
  if j = 15 then (2 ^ 30 : Int) - ((List.range 15).map fun m => (Config.firCoeff p 0 m).toInt).sum
  else (Config.firCoeff p 0 j).toInt

/-- The value of a chain at a boundary from the bits before it, newest first; before a reset's first bit the stages
hold 0. -/
def Chain.value (c : Chain) (bits : List Bool) : Int :=
  let bitAt := fun i => match bits[i]? with
    | some true => (2 ^ 31 : Int)
    | some false => -(2 ^ 31 : Int)
    | none => 0
  let h1 := boxes c.n1 c.k1
  let h2 := boxes c.n2 c.k2
  let s1 := fun i => stageShift (weigh h1 fun j => bitAt (c.n1 * i + j)) c.sh1
  let s2 := fun i => stageShift (weigh h2 fun j => s1 (c.n2 * i + j)) c.sh2
  let s3 := if c.fir then
      divOpen (((List.range 32).map fun i => firTap 0 i * s2 i).sum) (2 ^ 31)
    else s2 0
  stageShift s3 c.sh3

/-! Channels (R340-R352). -/

/-- A chain that runs: its mode on and its stream there; those of DEC32-DEC39 run for Sage whatever DECIM's state
(R340, "Sage: the coil model"). -/
def State.decRuns (s : State) (c : Fin 40) : Bool :=
  (s.chain c.val).isSome &&
  if c.val < 32 then
    (s.life? .decim).busy && s.loc.clkRun.getLsbD (c.val / 8) && !s.loc.warming.getLsbD (c.val / 8)
      && (s.life? .pdm).busy && s.life? .pdm != .starting
  else s.chip.linkUp && s.chip.variant == .p

def decPid (c : Nat) (p : Nat) : Nat := 0x010000 + 0x100 * c + p

/-- A channel that produces at its source: DECIM is at work too (R340). -/
def State.decOn (s : State) (c : Fin 40) : Bool := (s.life? .decim).busy && s.decRuns c

/-- A reset of one channel at the present boundary (R349); one that does not run is not affected (R351). -/
def resetDec (c : Fin 40) (s : State) : State :=
  let n := match s.chain c.val with
    | some h => h.settle (ratioOf (s.ratioHigh c.val)) + 1
    | none => 0
  if !s.decRuns c then s else s.onDec c fun d => { d with
    settle := n, entry := s.decEntry c.val, clearAt := some s.now, stuck := false, run := 0, peak := 0, hold := 0, q := 0, env := 0 }

/-- A reset of all channels, counted once at a boundary (R349). -/
def syncDec (s : State) : State :=
  let s1 := forAll allDec resetDec s
  let s2 := if s.loc.syncSeen = some s.now then s1 else s1.bump 8 0
  s2.onLoc fun l => { l with syncTick := s.now, syncSeen := some s.now }

/-- Settling has ended: a CONTROL channel is live at full gain, another rises (R350). -/
def endSettle (c : Fin 40) (s : State) : State :=
  s.onDec c fun d => { d with
    settle := 0
    fade := if d.isControl then Fade.one else Fade.zero.go true (s.fadeTime .decim) }

/-- The detectors of a channel take one delivered sample (R352). -/
def detect (c : Fin 40) (x : Word) (s : State) : State :=
  let a := min x.toInt.natAbs (2 ^ 31)
  let fs := s.fsHz
  let p := fun i dflt => s.param .decim (decPid c.val i) dflt
  let hold := (2 * p 1 500 * fs + 1000) / 2000
  let alpha : Int := (2 ^ 64 : Int) - expNeg 1000 (max 1 (p 3 300 * fs))
  s.onDec c fun d =>
    let q : Int := (d.q : Int) + alpha * (((a * a * 2 ^ 64 : Nat) : Int) - (d.q : Int)) / (2 ^ 64 : Int)
    let t := if a > d.env.toNat then p 4 10 else p 5 1000
    let beta : Int := (2 ^ 64 : Int) - expNeg 10000 (max 1 (t * fs))
    let v := (d.env.toNat : Int) + divOpen (beta * ((a : Int) - (d.env.toNat : Int))) (2 ^ 64)
    let d1 := { d with q := q.toNat, env := BitVec.ofInt 32 v }
    if a ≥ d.peak.toNat then { d1 with peak := BitVec.ofNat 32 a, hold }
    else if d.hold > 0 then { d1 with hold := d.hold - 1 }
    else { d1 with peak := BitVec.ofNat 32 (d.peak.toNat * dbToLin (-(p 2 20 : Int)) fs / 2 ^ 64) }

/-- The run of one level at the newest bit, after `bits` (newest first) follow `d`'s (R344). -/
def Dec.take (bits : List Bool) (d : Dec) : Dec :=
  match bits with
  | [] => d
  | b :: _ =>
    let k := (bits.takeWhile (· == b)).length
    { d with level := b, run := if k = bits.length && (d.run = 0 || d.level == b) then d.run + k else k }

/-- R344: 4096 consecutive bits of one level. -/
def stuckRun : Nat := 4096
/-- The bit stream of a channel has stuck: from the next token its output holds and fades (R344). -/
def becomeStuck (c : Fin 40) (s : State) : State :=
  let f := s.fadeTime .decim
  (s.onDec c fun d => { d with stuck := true, fade := d.fade.go false f }).bump 8 2
/-- The channel produces, is not stuck, and has had 4096 bits of one level, or with `more` further bits can have had. -/
def sticks (c : Fin 40) (more : Nat) (s : State) : Bool :=
  s.decRuns c && !(s.dec c).stuck && decide (stuckRun ≤ (s.dec c).run + more)
/-- The channel is stuck and a bit of the other level has arrived. -/
def unsticks (c : Fin 40) (s : State) : Bool := s.decRuns c && (s.dec c).stuck && decide ((s.dec c).run < stuckRun)
/-- The bits before the boundary at one channel (R344). -/
def takeBits (c : Fin 40) (bits : List Bool) (s : State) : State :=
  if s.decRuns c then s.onDec c (Dec.take bits) else s
/-- R344 at a boundary, for one channel. -/
def stuckTick (c : Fin 40) (s : State) : State :=
  if sticks c 0 s then becomeStuck c s else if unsticks c s then resetDec c s else s

/-- The token of tick n at one channel: the output of tick n from the bits before boundary n (R345), held and faded
while stuck (R344), zero while settling (R350), faded with DECIM and, for DEC0-DEC31, with PDM (R343). -/
def decTick (c : Fin 40) (bits : List Bool) (s : State) : State :=
  let quiet := fun (s : State) => if (s.life? .decim).busy then detect c 0 s else s
  if !s.decRuns c then quiet (s.onDec c fun d => { d with
    out := 0, last := 0, bits := [], run := 0, stuck := false, settle := 0, clearAt := none, entry := [], fade := Fade.zero })
  else
    let s := if (s.dec c).entry.isEmpty then resetDec c s else s
    let high := s.ratioHigh c.val
    match s.chainNow c with
    | none => s
    | some ch =>
      let d0 := s.dec c
      let stale := match d0.clearAt with
        | some b => b != s.now
        | none => false
      let s0 := if stale then s.onDec c fun d => { d with bits := [], clearAt := none, fade := Fade.zero } else s
      let s1 := if !d0.clearAt.isSome && d0.settle = 1 then endSettle c s0 else s0
      let d := s1.dec c
      let hist := (bits ++ d.bits).take (ch.span (ratioOf high) + ratioOf high)
      let raw := ch.value hist
      let inv := s.param .decim (decPid c.val 6) 0 == 1
      let sat := satInt 32 raw
      let fresh : Word := if inv then satWord (-sat) else BitVec.ofInt 32 sat
      let settling := d.settle > 1 && d.clearAt.isNone
      let held := if settling then 0 else if d.stuck then d.last else fresh
      let fn := (s.func .decim).fade.gain
      let pg := if c.val < 32 then (s.func .pdm).fade.gain else 2 ^ 96
      let g := if d.settle > 1 && !d.clearAt.isSome then 0 else d.fade.gain
      let out := if settling || !(s.life? .decim).busy then 0
        else gainWord pg (gainWord fn (gainWord g held))
      let s2 := if (overflows 32 raw || (inv && overflows 32 (-sat))) && !settling && !d.stuck then s1.bump 8 3 else s1
      let s3 := s2.freshen.onDec c fun d => { d with
        bits := if d.clearAt.isSome then [] else hist
        clearAt := none, out, last := held, fade := d.fade.tick
        settle := if settling then d.settle - 1 else d.settle }
      if d.settle > 0 || !(s.life? .decim).busy then s3 else detect c out s3

/-! TDM ports (R353-R357). -/

/-- An output slot: rounded to WORD bits with ties to even, saturated, zero fill (R355). -/
def slotOut (bits : Nat) (w : Word) : Word :=
  BitVec.ofInt 32 (satInt bits (roundEven w.toInt (32 - bits))) <<< (32 - bits)
/-- An input slot: the bits below WORD zeroed (R355). -/
def slotIn (bits : Nat) (w : Word) : Word := (w >>> (32 - bits)) <<< (32 - bits)

/-- A port is live or rising (R357). -/
def Tdm.good? (t : Tdm) : Bool := t.state == 4 || t.state == 5

/-- The port falls into state `st`: its slots fade from the gain reached (R357). -/
def tdmFall (x : Fin 2) (st : BitVec 3) (s : State) : State :=
  let f := s.fadeTime (tdmFunc x)
  s.onTdm x fun t => { t with state := st, good := 0, rx := none, fade := if t.fade.up then t.fade.go false f else t.fade }

/-- The slots rise (R356, R357). -/
def tdmRise (x : Fin 2) (s : State) : State :=
  let f := s.fadeTime (tdmFunc x)
  s.onTdm x fun t => { t with state := 4, fade := t.fade.go true f }

/-- The input slots of the tick in hand: those of its frame, or the held ones (R355, R357). -/
def State.tdmData (s : State) (x : Fin 2) : List Word :=
  let t := s.tdm x
  let slots := s.tdmSlots x
  let pad := fun (l : List Word) => (l.take slots) ++ List.replicate (32 - (l.take slots).length) 0
  match t.rx with
  | some l => if t.good? then pad (l.map (slotIn (s.tdmWord x))) else t.last
  | none => t.last
/-- They reach src on the next tick, under the port's fade and its function's (R16, R76, R354, R357). -/
def State.tdmInput (s : State) (x : Fin 2) : List Word :=
  (s.tdmData x).map fun w => gainWord (s.func (tdmFunc x)).fade.tick.gain (gainWord (s.tdm x).fade.gain w)

/-- The boundary of tick n at a port: the frame of the tick before is done with, and the slots of the next frame stand.
`sinks`: the sink values of tick n. A master whose clocks have started begins to rise with this frame (R356). -/
def tdmTick (x : Fin 2) (sinks : List Word) (s : State) : State :=
  let t := s.tdm x
  let fn := (s.func (tdmFunc x)).fade.gain
  let gain := fun w => gainWord fn (gainWord t.fade.gain w)
  let slots := s.tdmSlots x
  let data := s.tdmData x
  let begins := t.clocks && (t.state == 0 || t.state == 1)
  s.freshen.onTdm x fun t => { t with
    last := data, rx := none
    output := if begins then t.queued else if t.state == 0 || t.state == 1 || t.state == 2 || t.state == 6 then [] else t.queued
    queued := ((sinks ++ List.replicate 32 0).take slots).map fun w => slotOut (s.tdmWord x) (gain w)
    fade := if begins then t.fade.go true (s.fadeTime (tdmFunc x)) else t.fade.tick
    state := if begins || (t.state == 4 && !t.fade.atFull) then 4 else if t.state == 4 then 5 else t.state }

end Sys2Proof.Machine
end

