-- ==== Sys2Proof/Machine/PwrOps.lean ====
section
/-! DEFINITION. Power channels, the Chive path, the fast protection and the coil model (R366-R415). -/

namespace Sys2Proof.Machine

open Sys2Proof

/-! Configuration and parameters (R386, R387, R412, R413). -/

def State.pchCfg (s : State) (c : Fin 4) : List Byte :=
  (s.func (.pch c)).config.getD [1, 0, 50, 0, 251, 0, 0, 0, 0, 0, 0, 0, 0, 0, 0, 0]
def State.cmRampMs (s : State) (c : Fin 4) : Nat := leAt (s.pchCfg c) 2 2
def State.levelMax (s : State) (c : Fin 4) : Nat := leAt (s.pchCfg c) 4 1
def State.pchInvert (s : State) (c : Fin 4) : Bool := leAt (s.pchCfg c) 1 1 % 2 == 1

def State.sageCfg (s : State) : List Byte := (s.func .sage).config.getD (leBytes 144 1)
def State.sageFld (s : State) (c : Fin 4) (off len : Nat) : Nat := leAt s.sageCfg (16 + 32 * c.val + off) len
def State.sageOn (s : State) (c : Fin 4) : Bool := s.sageFld c 0 1 % 2 == 1
def sagePid (c : Fin 4) (p : Nat) : Nat := 0x010000 + 0x100 * c.val + p
/-- The default of a SAGE parameter. -/
def sageDefault (p : Nat) : Nat :=
  if p = 1 then 1800 else if p = 2 then 200 else if p = 3 then 200 else if p = 4 then 2000 else if p = 5 then 100
  else if p = 6 then 5000 else if p = 7 then 250 else if p = 8 then 64 else if p = 9 then 3000 else if p = 10 then 1
  else if p = 11 then 1000 else if p = 12 then 100000 else if p = 13 then 0 else if p = 14 then 5
  else if p = 15 then 100 else 10
def State.sageParam (s : State) (c : Fin 4) (p : Nat) : Nat := s.param .sage (sagePid c p) (sageDefault p)

def pchFn (c : Fin 4) : Nat := 0x20 + c.val
/-- A protection counter of R414, behind the four of R388. -/
def State.bumpProt (c : Fin 4) (i : Nat) (s : State) : State := s.bump (pchFn c) (4 + i)

/-- Milliseconds in ticks, up to the next boundary. -/
def State.msTicks (s : State) (ms : Nat) : Nat := (ms * s.fsHz + 999) / 1000

/-! Level (R369, R371). -/

/-- V_pk for a LEVEL, and G_vol for a VOLUME: 64 fraction bits of V and of 1. -/
def vPk (level : Nat) : Nat := 10 * dbToLin level 10
def gVol (vol : Int) : Nat := if vol = -1000 then 0 else dbToLin vol 10
def State.pchLevel (s : State) (c : Fin 4) : Nat := s.param (.pch c) 2 0
def State.pchVolume (s : State) (c : Fin 4) : Int := (BitVec.ofNat 32 (s.param (.pch c) 3 0)).toInt
/-- G_vol x V_pk as the parameters have it, 2^-32 V. -/
def State.pchTarget (s : State) (c : Fin 4) : Nat := vPk (s.pchLevel c) * gVol (s.pchVolume c) / 2 ^ 96
/-- G_vol x V_pk in force. -/
def State.pchScale (s : State) (c : Fin 4) : Int :=
  match (s.pch c).scaleRamp with
  | some r => r.now
  | none => ((s.pch c).scale : Int)
/-- V_pk as LEVEL has it, and as in force, 2^-32 V. -/
def State.vpkTarget (s : State) (c : Fin 4) : Nat := vPk (s.pchLevel c) / 2 ^ 32
def State.pchVpk (s : State) (c : Fin 4) : Int :=
  match (s.pch c).vpkRamp with
  | some r => r.now
  | none => ((s.pch c).vpk : Int)
/-- A write to LEVEL or VOLUME has taken effect: a ramp of 10 ms on a channel at work (R371). -/
def levelRamp (c : Fin 4) (s : State) : State :=
  let t := s.pchTarget c
  let u := s.vpkTarget c
  let len := (2 * s.fsHz * 100 + 10000) / 20000
  if (s.life? (.pch c)).busy then
    s.onPch c fun p => { p with
      scale := t, scaleRamp := some { src := s.pchScale c, dst := t, len }
      vpk := u, vpkRamp := some { src := s.pchVpk c, dst := u, len } }
  else s.onPch c fun p => { p with scale := t, scaleRamp := none, vpk := u, vpkRamp := none }

/-! Switching frequency (R373-R376). -/

/-- A channel is switching (R374). -/
def State.switching (s : State) (c : Fin 4) : Bool := (s.life? (.pch c)).busy || (s.pch c).phase != 0
def State.anySwitching (s : State) : Bool := allPch.any s.switching

def absDiff (a b : Nat) : Nat := if a ≤ b then b - a else a - b

/-- The ripple fundamental of g clears every protected band; frequencies in units of 1/8 Hz. -/
def clears (fs : Nat) (bands : Vector Word 4) (g : Nat) : Bool :=
  bands.toList.all fun b => bits b 27 16 == 0 ||
    (List.range 8).all fun h => decide (absDiff ((h + 1) * g * fs) (8000 * bits b 15 0) > 4000 * bits b 27 16)

/-- The element of a list with the least key; of equal ones the first. -/
def leastBy (key : Nat → Nat) : List Nat → Option Nat
  | [] => none
  | a :: r =>
    match leastBy key r with
    | some b => if key b < key a then some b else some a
    | none => some a

/-- R375. -/
def selectG (fs : Nat) (ctrl : Word) (bands : Vector Word 4) : Option Nat :=
  let lo := (300000 * 16 + fs - 1) / fs
  let hi := 600000 * 16 / fs
  let fmin := min 600 (max 300 (bits ctrl 9 0))
  let g0 := min hi (max lo ((fmin * 16000 + fs - 1) / fs))
  let gs := (List.range (hi + 1 - g0)).map (· + g0)
  if bit ctrl 16 then gs.find? (clears fs bands)
  else if bits ctrl 18 17 = 0 then some g0
  else
    let r := (if bits ctrl 18 17 = 2 then 10 else 9) * 16000
    leastBy (fun g => absDiff (2 * (2 * g * fs % r)) r) gs

/-- The selection at the start of a channel while none switches (R374, R376); `false`: none found. -/
def fswSelect (s : State) : State × Bool :=
  match selectG s.fsHz s.pwr.fswCtrl s.pwr.bands with
  | some g => (s.onPwr fun p => { p with
      g := BitVec.ofNat 8 g, valid := true, noFsw := false, fsw := BitVec.ofNat 16 ((g * s.fsHz + 800) / 1600) }, true)
  | none => (s.onPwr fun p => { p with noFsw := true }, false)

/-! The Chive path (R381-R384). -/

/-- The selected stream has a running sampling clock. -/
def State.streamRuns (s : State) (src : Nat) : Bool :=
  if src < 32 then s.loc.clkRun.getLsbD (src / 8) && !s.loc.warming.getLsbD (src / 8)
    && (s.life? .pdm).busy && s.life? .pdm != .starting
  else decide (src < 40) && s.chip.linkUp && s.chip.variant == .p

/-- y x 8 at each bit of the tick: bits newest first, the three before the tick behind them (R382). -/
def chiveY (bits : List Bool) : List Int :=
  let v := fun i => match bits[i]? with
    | some true => (1 : Int)
    | some false => -1
    | none => 0
  (List.range (bits.length - 3)).map fun i => v i + 3 * v (i + 1) + 3 * v (i + 2) + v (i + 3)

/-- The largest and least v_C of the tick (R382), 2^-32 V. -/
def State.chiveTerm (s : State) (c : Fin 4) : List Int :=
  let p := s.pch c
  if p.chiveSrc.toNat ≥ 40 then [0]
  else
    let tst := match p.test with
      | some t => t.fade.gain
      | none => 2 ^ 96
    let g := p.chive.gain * (s.func (.pch c)).fade.gain / 2 ^ 96 * tst / 2 ^ 96
    let m := p.chiveGain.toNat % 8
    let vp : Int := (((s.pchVpk c).toNat * 2 ^ m * g / 2 ^ 96 : Nat) : Int)
    let sg : Int := if p.chiveGain.getLsbD 3 then -1 else 1
    0 :: (chiveY ((s.loc.streams[p.chiveSrc.toNat]?).getD [])).map fun y => sg * y * vp / 1024

/-- r of the Chive path is above 0 (R384, R389). -/
def State.chiveOn (s : State) (c : Fin 4) : Bool :=
  let p := s.pch c
  (p.phase == 3 || p.phase == 4 || p.phase == 6) && !p.chive.silent && !(s.func (.pch c)).fade.silent

/-- SAGEc_PROT (R415). -/
def Pch.protWord (p : Pch) : Nat :=
  p.prot.toNat + 2 ^ 4 * p.kind.toNat + 2 ^ 8 * p.retry + 2 ^ 16 * b2n p.openLoad + 2 ^ 17 * b2n p.zLow
    + 2 ^ 18 * b2n p.zHigh + 2 ^ 19 * b2n p.coilMute + 2 ^ 20 * b2n p.dieWarn

/-- A write to CHIVE_SRC or CHIVE_GAIN has taken effect (R384). -/
def chiveTouch (c : Fin 4) (s : State) : State :=
  if (s.life? (.pch c)).busy then s.onPch c fun p => { p with chive := p.chive.go false 64, chiveWait := 65 }
  else s.onPch c fun p => { p with
    chiveSrc := BitVec.ofNat 8 (s.param (.pch c) 4 0xFF), chiveGain := BitVec.ofNat 4 (s.param (.pch c) 5 0), chiveWait := 0 }
/-- The new setting is in force and r rises (R384). -/
def chiveApply (c : Fin 4) (s : State) : State :=
  let src := s.param (.pch c) 4 0xFF
  s.onPch c fun p => { p with
    chiveSrc := BitVec.ofNat 8 src, chiveGain := BitVec.ofNat 4 (s.param (.pch c) 5 0), chiveWait := 0, cut := false
    chive := if s.streamRuns src then p.chive.go true 64 else Fade.zero }

/-! The bridge (R377-R380). -/

/-- G_sage at the last update, and as interpolated (R399). -/
def Pch.gSage (p : Pch) : Nat := min p.gCoil p.gStage
def Pch.gNow (p : Pch) : Int :=
  (p.gFrom : Int) + ((p.gSage : Int) - (p.gFrom : Int)) * (p.gStep : Int) / 16

/-- Tenths of a millisecond in ticks, up to the next boundary. -/
def tenths (n : Nat) (s : State) : Nat := (n * s.fsHz + 9999) / 10000
/-- `n` ticks have passed since the channel's mark. -/
def State.pastMark (s : State) (c : Fin 4) (n : Nat) : Bool := decide ((n : Int) ≤ (s.now - (s.pch c).mark).toInt)

/-- The retry sequence is running (R393). -/
def Pch.retrying (p : Pch) : Bool := p.prot == 1 || p.prot == 2

/-- Duties from 0 for a ramp of C ms: positions count thousandths of a tick. -/
def cmUp (ms fs : Nat) : Fade := { pos := 0, full := max 1 (ms * fs), step := 1000, up := true }

/-- The delays of the impulses with a response, in rising order. -/
def insertDelay (x : Nat) : List Nat → List Nat
  | [] => [x]
  | y :: r => if x ≤ y then x :: y :: r else y :: insertDelay x r

/-- The median delay: of an even number the mean of the middle two, its rounding open (log 9). With no response the
rule states no value (log 11). -/
def medianDelay (s : State) (l : List Nat) : Nat :=
  let v := l.foldr insertDelay []
  let n := v.length
  if n = 0 then (s.freeVal 32).toNat
  else (divOpen (((v[(n - 1) / 2]?).getD 0 : Int) + ((v[n / 2]?).getD 0 : Int)) 2).toNat

/-- The record of R409 for the impulses done. -/
def polarityRecord (s : State) (t : TestRun) : List Byte :=
  let cnt := fun (x : Byte) => t.results.countP fun e => e.1 == x
  let pos := cnt 0x01
  let neg := cnt 0xFF
  let none_ := cnt 0x00
  let half := (t.repeats + 1) / 2
  let verdict := if half ≤ pos ∧ neg = 0 then 0 else if half ≤ neg ∧ pos = 0 then 1
    else if none_ = t.results.length then 3 else 2
  let med := medianDelay s ((t.results.filter fun e => e.1 != 0).map fun e => e.2.toNat)
  leBytes 1 verdict ++ leBytes 1 pos ++ leBytes 1 neg ++ leBytes 1 none_ ++ leBytes 4 med ++ leBytes 8 0
    ++ t.results.flatMap fun e => e.1 :: leBytes 3 e.2.toNat

/-- RESULT_ADDR of a test. -/
def testAddr (j : Job) : Nat := fld j.desc 24 8
/-- A test's record is written where its address can be written. -/
def writeTest (j : Job) (bytes : List Byte) (s : State) : State :=
  if s.dstOk (testAddr j) bytes.length then s.writeAt (BitVec.ofNat 64 (testAddr j)) bytes else s

/-- A test on a channel ends early: by FUNC_STOP with ABORTED, by a protection event with its error. The record of
the impulses done is written first (R411); while the host bus holds it the descriptor waits with it (R123). -/
def endTest (c : Fin 4) (status : Byte) (s : State) : State :=
  match (s.pch c).test with
  | none => s
  | some t =>
    let s1 := s.onPch c fun p => { p with test := none }
    match s1.job? fun j => j.uid == t.job with
    | some j =>
      let n := if t.polarity then t.results.length else 0
      if !t.polarity || t.results.isEmpty || t.finished || j.silent then s1.endJob j status n false
      else if s1.busWait (testAddr j) then
        s1.freshen.onJob j.uid fun j => { j with phase := 256 + status.toNat, data := polarityRecord s1 t, done := n }
      else ((writeTest j (polarityRecord s1 t) s1).freshen).endJob j status n false
    | none => s1

/-- Ticks until 100 us after duties at position `pos` of a fall have reached 0 (R378). -/
def untilOpen (pos : Nat) (s : State) : Nat := (10 * pos + s.fsHz + 9999) / 10000

/-- A stop by R378 or R380; `cause` 0 for FUNC_STOP. The function is STOPPING from here. -/
def pchStop (c : Fin 4) (cause : Byte) (s : State) : State :=
  let f := s.fadeTime (.pch c)
  let s0 := endTest c (if cause = 0 then stAborted else stBadState) s
  let s1 := s0.setLife (.pch c) .stopping
  let p := s1.pch c
  let s2 := s1.onPch c fun p => { p with stopCause := if p.stopCause = 0 then cause else p.stopCause }
  if p.retrying then s2.onPch c fun p => { p with phase := 0, prot := 0, retry := 0, cm := Fade.zero, mark := s.now + BitVec.ofNat 64 (tenths 1 s) }
  else if p.phase = 3 then
    (s2.onPch c fun p => { p with phase := 4 }).onFunc (.pch c) fun r => { r with fade := r.fade.go false f }
  else if p.phase = 2 then s2.onPch c fun p => { p with
      phase := 5, cm := { p.cm with up := false }, mark := s.now + BitVec.ofNat 64 (untilOpen p.cm.pos s) }
  else if p.phase = 1 then s2.onPch c fun p => { p with mark := s.now + BitVec.ofNat 64 (tenths 1 s) }
  else s2

/-- The switches open at once: short, end of a fast stop, end of an overvoltage short. -/
def openSwitches (c : Fin 4) (s : State) : State :=
  (s.onPch c fun p => { p with phase := 0, cm := Fade.zero, vOut := 0, clip := false }).onFunc (.pch c)
    fun r => { r with fade := Fade.zero }

/-- The modulator takes vectors: PHASE 0x3; the Chive term rises with the output (R377, R384). -/
def pchRuns (c : Fin 4) (s : State) : State :=
  s.onPch c fun p => { p with
    phase := 3, cm := Fade.one, mark := s.now
    chive := if s.streamRuns p.chiveSrc.toNat && !p.cut then Fade.one else Fade.zero }

/-- A channel's Chive path takes a PDM stream. -/
def Pch.fromPdm (p : Pch) : Bool := decide (p.chiveSrc.toNat < 32)
/-- The warm-up has ended: r of the channels that take a stream of its ports rises over 64 ticks (R384). -/
def chiveWarm (s : State) : State :=
  forAll (allPch.filter fun c => (s.pch c).fromPdm && s.streamRuns (s.pch c).chiveSrc.toNat && (s.pch c).chiveWait = 0)
    (fun c s => s.onPch c fun p => { p with chive := p.chive.go true 64 }) s
/-- PDM stops: r of the channels that take its streams fades over PDM's FADE_TIME (R384). -/
def chivePdmStop (s : State) : State :=
  let f := s.fadeTime .pdm
  forAll (allPch.filter fun c => (s.pch c).fromPdm) (fun c s => s.onPch c fun p => { p with chive := p.chive.go false f }) s

/-- The fast stop of R379 begins; in PHASE 0x1 the switches open at once. -/
def fastStop (c : Fin 4) (s : State) : State :=
  let p := s.pch c
  let f := s.msTicks 1
  let late := (s.life? (.pch c)).busy
  if p.phase.toNat ≤ 1 then (openSwitches c s).onPch c fun p => { p with toFault := if late then some 4 else p.toFault }
  else if p.phase.toNat ≤ 5 then
    (s.onPch c fun p => { p with phase := 6, cm := { p.cm with up := true }, mark := s.now }).onFunc (.pch c)
      fun r => { r with fade := r.fade.go false f }
  else s

/-- The duties begin to fall in a fast stop `late` thousandths of a tick ago, over 1 ms (R379). -/
def fallFast (fs late : Nat) (f : Fade) : Fade :=
  let g := f.go false fs
  { g with pos := g.pos - g.step * late, step := 1000 * g.step }

/-- The duties at a tick: up in PHASE 0x2, from 1 ms after a start; down in PHASE 0x5; in a fast stop down over 1 ms once
the output is silent (R377-R379). -/
def State.cmTick (s : State) (c : Fin 4) : Fade :=
  let p := s.pch c
  if p.phase = 2 && s.life? (.pch c) == .starting then
    { p.cm with pos := min p.cm.full (1000 * (s.now - (s.func (.pch c)).effect).toNat - s.fsHz) }
  else if p.phase = 2 ∨ p.phase = 5 then p.cm.tick
  else if p.phase = 6 && (s.func (.pch c)).fade.silent then
    (if p.cm.up then fallFast s.fsHz (1000 * (s.now - p.mark).toNat - s.fsHz) p.cm else p.cm.tick)
  else p.cm

/-- One impulse of R408 at `k` ticks after its start, as a fraction of 2^96: half of 1 - cos over 0.5 ms. -/
def impulse (s : State) (k : Nat) : Nat :=
  if s.fsHz < 2000 * k then 0 else if 4000 * k ≤ s.fsHz then raised (4000 * k) s.fsHz else raised (2 * s.fsHz - 4000 * k) s.fsHz

/-- The levels of LOAD_TEST's MODE 0x0 at `k` ticks after the fade, units of 2^-32 V (R410): from 0 to +1 V, to -1 V and to
0 by ramps of 10 ms (the ends' ramps DEDUCED, log 35). -/
def dcLevels (s : State) (k : Nat) : Int :=
  let r := s.msTicks 10
  let h := s.msTicks 250
  let up := fun n => ((raised n r / 2 ^ 64 : Nat) : Int)
  if k < r then up k
  else if k < r + h then (2 ^ 32 : Int)
  else if k < 2 * r + h then (2 ^ 32 : Int) - 2 * up (k - r - h)
  else if k < 2 * r + 2 * h then -(2 ^ 32 : Int)
  else if k < 3 * r + 2 * h then up (k - 2 * r - 2 * h) - (2 ^ 32 : Int)
  else 0

/-- What a test drives at this tick, units of 2^-32 V, before INVERT (R408, R410): the impulse bypasses VOLUME and not
G_sage and is positive after INVERT; the sweep's sine is a free value of at most 2 sqrt 2 V (log 11). -/
def State.testDrive (s : State) (c : Fin 4) : Int :=
  match (s.pch c).test with
  | none => 0
  | some t =>
    if t.finished then 0 else
    match s.job? fun j => j.uid == t.job with
    | none => 0
    | some j =>
      let d := match j.start with
        | some e => (s.now - e).toNat
        | none => 0
      if d < 64 ∨ 2 ^ 63 ≤ d then 0
      else if t.polarity then
        let a := min (20 * 2 ^ 32) (vPk (s.pchLevel c) / 2 ^ 32) * dbToLin (-((fld j.desc 17 1 : Nat) : Int)) 1 / 2 ^ 64
        let g := (List.range t.repeats).foldl (fun m k =>
          let n := 64 + s.msTicks (200 * k)
          if n ≤ d then max m (impulse s (d - n)) else m) 0
        let v := ((a * g / 2 ^ 96 : Nat) : Int) * (s.pch c).gNow / (2 ^ 32 : Int)
        if s.pchInvert c then -v else v
      else if fld j.desc 16 1 = 0 then dcLevels s (d - 64)
      else (((s.freeVal 64).toNat % 24296004000 : Nat) : Int) - (12148002000 : Int)

/-- The tick at a channel (R369, R370, R382, R399, R408, R410): `x` is the sample the modulator takes. -/
def pchTick (c : Fin 4) (x : Word) (s : State) : State :=
  let p := s.pch c
  let live := p.phase == 3 || p.phase == 4 || p.phase == 6
  let g := (s.func (.pch c)).fade.gain
  let prog := match p.test with
    | some t => t.fade.gain
    | none => 2 ^ 96
  let v : Int := if !live then 0 else
    x.toInt * s.pchScale c / (2 ^ 31 : Int) * p.gNow / (2 ^ 32 : Int) * (g : Int) / (2 ^ 96 : Int) * (prog : Int) / (2 ^ 96 : Int)
      + s.testDrive c
  let lim : Int := max 0 (s.chip.vbus.toInt * (2 ^ 32 : Int) / 10 * 98 / 100)
  let terms := if live then (s.chiveTerm c).map (· + v) else [0]
  let clip := live && terms.any fun w => decide (w > lim ∨ w < -lim)
  let out := if v > lim then lim else if v < -lim then -lim else v
  let lim1 := decide (p.gNow < (2 ^ 32 : Int))
  let s1 := if clip then s.bump (pchFn c) 1 else s
  let s2 := if lim1 then s1.bumpProt c 8 else s1
  let s3 := if p.gStage < 2 ^ 32 then s2.bumpProt c 9 else s2
  s3.freshen.onPch c fun p => { p with clip, vOut := if s.pchInvert c then -out else out }

/-- What moves with the tick counter at a channel: the common mode, the ramp of R371, the steps of G_sage, the Chive
term and the programme during a test. -/
def pchAdvance (c : Fin 4) (s : State) : State :=
  s.onPch c fun p => { p with
    cm := s.cmTick c
    gStep := min 16 (p.gStep + 1)
    scale := match p.scaleRamp with
      | some r => if r.done then r.dst.toNat else p.scale
      | none => p.scale
    scaleRamp := match p.scaleRamp with
      | some r => if r.done then none else some r.tick
      | none => none
    vpkRamp := match p.vpkRamp with
      | some r => if r.done then none else some r.tick
      | none => none
    chive := p.chive.tick
    chiveWait := if p.chiveWait > 1 then p.chiveWait - 1 else p.chiveWait
    test := p.test.map fun t => { t with fade := t.fade.tick } }

/-- DUTY_CM, units of 1/1024. -/
def Pch.dutyCm (p : Pch) : Nat :=
  if p.phase = 3 ∨ p.phase = 4 then 512 else if p.phase = 2 ∨ p.phase = 5 ∨ p.phase = 6 then p.cm.gain * 512 / 2 ^ 96 else 0

/-! The coil model (R403-R405). -/

/-- alpha, units of 10^-5 / K. -/
def State.alpha5 (s : State) (c : Fin 4) : Int := if s.sageFld c 0 1 / 4 % 2 = 1 then 403 else 393
/-- 1 + alpha (T - 20 degC), units of 10^-5 2^-48. -/
def tempFactor (al t : Int) : Int := 100000 * (2 ^ 48 : Int) + al * (t - 20 * (2 ^ 48 : Int))
/-- T_REF as configured, 2^-48 degC. -/
def State.tRef (s : State) (c : Fin 4) : Int :=
  (BitVec.ofNat 16 (s.sageFld c 4 2)).toInt * (2 ^ 48 : Int) / 100
/-- R(T), units of 2^-16 milliohm (R403). -/
def State.coilR (s : State) (c : Fin 4) (t : Int) : Int :=
  let al := s.alpha5 c
  (s.sageFld c 2 2 : Int) * (2 ^ 16 : Int) * tempFactor al t / max 1 (tempFactor al (s.tRef c))
/-- T_meas of a resistance in milliohm (R403), 2^-48 degC. -/
def State.tMeas (s : State) (c : Fin 4) (r : Nat) : Int :=
  let al := s.alpha5 c
  let q := (r : Int) * tempFactor al (s.tRef c) / max 1 (s.sageFld c 2 2 : Int)
  20 * (2 ^ 48 : Int) + (q - 100000 * (2 ^ 48 : Int)) / al
/-- T_a (R404). -/
def State.tAmb (s : State) (c : Fin 4) : Int :=
  let v := s.sageParam c 7
  if v = 0x7FFF then s.pwr.base.toInt * (2 ^ 44 : Int) else (BitVec.ofNat 32 v).toInt * (2 ^ 48 : Int) / 10
/-- P_max(T_b), units of 2^-16 W (R398); above 100 degC the value at 100 degC holds. -/
def State.pMax (s : State) : Nat :=
  let t := min 1600 s.pwr.base.toInt
  if t ≤ 1120 then 600 * 2 ^ 16 else (600 * 2 ^ 16 : Int).toNat - (1333 * (t - 1120).toNat * 2 ^ 16 / 1600)

/-- One first-order step: g + (1 - e^(-num/den)) (t - g). -/
def approach (g t : Nat) (num den : Nat) : Nat :=
  let a : Int := (2 ^ 64 : Int) - (expNeg num (max 1 den) : Int)
  ((g : Int) + a * ((t : Int) - (g : Int)) / (2 ^ 64 : Int)).toNat

/-- A sense channel is settling or stuck (R406). -/
def State.senseBad (s : State) (c : Fin 4) : Bool :=
  let d := fun i => s.dec (Fin.ofNat 40 (32 + 2 * c.val + i))
  decide ((d 0).settle > 0) || (d 0).stuck || decide ((d 1).settle > 0) || (d 1).stuck

/-- The thermal state a channel takes when it leaves OFF or is reset (R84, R407). -/
def reloadCoil (c : Fin 4) (s : State) : State :=
  s.onPch c fun p => match p.saved with
    | some (a, b) => { p with tc := a, tm := b, reseed := true }
    | none => { p with tc := s.tAmb c, tm := s.tAmb c }
/-- Sage writes T_c and T_m (R407). -/
def saveCoil (c : Fin 4) (s : State) : State := s.onPch c fun p => { p with saved := some (p.tc, p.tm) }

/-- One update of the model and the gains from mean(i^2) and the power, units of 2^-16 (R398, R404, R405). -/
def sageStep (c : Fin 4) (i2 pw : Nat) (s : State) : State :=
  let fs := s.fsHz
  let p := s.pch c
  let r := s.coilR c p.tc
  let pd : Int :=
    if s.senseBad c then
      (let a := p.vOut * 1000 * (2 ^ 16 : Int) / max 1 r
       a * a / (2 ^ 48 : Int))
    else (i2 : Int) * r / (1000 * (2 ^ 16 : Int))
  let on := s.sageOn c
  let pdT := pd * (2 ^ 32 : Int)
  let rcm : Int := max 1 (s.sageFld c 12 2 : Int)
  let rma : Int := max 1 (s.sageFld c 14 2 : Int)
  let cc : Int := max 1 (s.sageFld c 6 2 : Int)
  let cg : Int := max 1 (s.sageFld c 8 4 : Int)
  let flow := (p.tc - p.tm) * 1000 / rcm
  let tc := if on then p.tc + 1600 * (pdT - flow) / (cc * (fs : Int)) else p.tc
  let tm := if on then p.tm + 160 * ((tc - p.tm) * 1000 / rcm - (p.tm - s.tAmb c) * 1000 / rma) / (cg * (fs : Int)) else p.tm
  let deg := fun (n : Nat) => (n : Int) * (2 ^ 48 : Int) / 10
  let tMax := deg (s.sageParam c 1)
  let knee := max 1 (deg (s.sageParam c 2))
  let pred := tc + (s.sageParam c 4 : Int) * (pdT - (tc - tm) * 1000 / rcm) / (10 * cc)
  let mute := on && (if p.coilMute then decide (tc ≥ tMax) else decide (tc ≥ tMax + deg (s.sageParam c 3)))
  let target : Nat :=
    if !on || decide (pred ≤ tMax - knee) then 2 ^ 32
    else if pred ≥ tMax then 0
    else isqrt ((tMax - pred).toNat * 2 ^ 64 / knee.toNat)
  let tau := if target < p.gCoil then s.sageParam c 5 else s.sageParam c 6
  let gCoil := if mute then p.gCoil - 2 ^ 32 * 1600 / fs
    else if !on then 2 ^ 32 else approach p.gCoil target 16000 (fs * tau)
  let pAvg := approach p.pAvg pw 16 (2 * fs)
  let tStage := if pAvg > s.pMax then isqrt (s.pMax * 2 ^ 64 / pAvg) else 2 ^ 32
  let gStage := approach p.gStage tStage 160 (if tStage < p.gStage then fs else 20 * fs)
  let g := min gCoil gStage
  let begins := decide (g < 2 ^ 32) && !p.limiting
  let s1 := s.onPch c fun p => { p with
    sageAt := some s.now, tc, tm, gCoil, gStage, pAvg, coilMute := mute, gFrom := p.gSage, gStep := 0, limiting := decide (g < 2 ^ 32)
    senseLost := s.senseBad c }
  let s2 := if mute && !p.coilMute then (s1.bumpProt c 10).raise 8 else s1
  if begins then s2.raise 8 else s2

end Sys2Proof.Machine
end

