-- ==== Sys2Proof/Machine/MemOps.lean ====
section
/-! DEFINITION. The crossbar, the DRAM controller, rank retirement, the parameter store (R416-R443). -/

namespace Sys2Proof.Machine

open Sys2Proof

/-! The fault log and the elapsed-time record as T6 shows them (R437, R449, R453). -/

def LogEntry.bytes (e : LogEntry) : List Byte :=
  leBytes 4 e.seq.toNat ++ [e.code, e.func, e.cause, BitVec.ofNat 8 (b2n e.timeValid + 2 * b2n (e.repeats != 0))]
  ++ leBytes 8 e.tick.toNat ++ leBytes 2 e.cycle.toNat ++ leBytes 2 e.repeats.toNat ++ leBytes 4 e.powered.toNat
  ++ leBytes 8 e.data.toNat

def logBase : Nat := 0x1010030000
def recordBase : Nat := 0x101002F000

/-- One byte of module memory: the log's slots hold its entries, the rest is the memory. -/
def State.byteAt (s : State) (a : Nat) : Byte :=
  if logBase ≤ a ∧ a < logBase + 262144 then
    match s.log.entries.find? fun e => e.seq.toNat % 8192 == (a - logBase) / 32 with
    | some e => (e.bytes[(a - logBase) % 32]?).getD 0
    | none => 0
  else memByte s.mem a

/-- Bytes of module memory. -/
def State.fetch (s : State) (a n : Nat) : List Byte := (List.range n).map fun i => s.byteAt (a + i)

/-- The live elapsed-time record (R453). -/
def State.recordBytes (s : State) : List Byte :=
  let l := s.log
  leBytes 8 l.poweredS.toNat ++ leBytes 8 (l.lifeEq / 2 ^ 16) ++ leBytes 4 l.cycles.toNat ++ leBytes 4 l.hvWakes.toNat
  ++ leBytes 8 l.hvAwakeS.toNat ++ leBytes 8 l.switchS.toNat ++ leBytes 2 l.tPeak.toNat ++ leBytes 22 0
  ++ (l.bins.toList.flatMap fun b => leBytes 4 b.toNat) ++ leBytes 8 0
/-- The live copy is written to the record. -/
def saveRecord (s : State) : State := s.write recordBase s.recordBytes

/-! Reach and priority (R416, R439). -/

/-- The master reaches the target. -/
def reaches (m : Fin 13) (t : Fin 10) : Bool :=
  let m := m.val
  let t := t.val
  if m ≤ 3 then t ≤ 6 || t == 9
  else if m ≤ 6 then t ≤ 5
  else if m = 7 ∨ m = 9 then t ≤ 5 || t == 8
  else if m = 8 then t ≤ 6 || t == 8 || t == 9
  else if m = 10 then 2 ≤ t && t ≤ 5
  else if m = 11 then true
  else t == 7

def prioDefault (m : Fin 13) : Nat := (#v[10, 10, 10, 10, 15, 14, 14, 9, 4, 12, 13, 6, 8] : Vector Nat 13)[m]
def State.xbarPrio (s : State) (m : Fin 13) (t : Fin 10) : Nat :=
  if reaches m t then s.param .memctl (0x010000 + 0x10 * m.val + t.val) (prioDefault m) else 0

def memDefault (i : Nat) : Nat :=
  (#v[0, 0, 500, 2000, 20000, 100000, 4, 8192, 500, 0, 0] : Vector Nat 11)[Fin.ofNat 11 i]
def State.memParam (s : State) (i : Nat) : Nat := s.param .memctl i (memDefault i)

/-- The target of a request: its address, and for DRAM its class (R416). -/
def reqTarget (r : XbarReq) : Option (Fin 10) :=
  match targetOf r.addr.toNat with
  | some t => if t = 0 ∧ (r.cls = .bulk ∨ r.cls = .bg) then some 1 else some t
  | none => none

def State.onTxns (m : Fin 13) (g : List Txn → List Txn) (s : State) : State :=
  s.onMemc fun c => { c with txns := vmod c.txns m g }
def State.txnsOf (s : State) (m : Fin 13) : List Txn := s.memc.txns[m]

/-! Error records, retirement (R431-R434). -/

/-- MEMC_ERR and MEMC_ERR_INFO (R441). -/
def noteError (kind : Nat) (master : Nat) (rank : Nat) (addr : Nat) (s : State) : State :=
  s.onMemc fun c => { c with
    errAddr := BitVec.ofNat 40 addr, errInfo := BitVec.ofNat 32 (kind + 16 * master + 256 * rank) }

def logDram (cause : Byte) (data : Nat) (s : State) : State := s.logEntry 0x08 0x0D cause (BitVec.ofNat 64 data)

/-- The module address at which a physical rank begins now; a rank that no logical rank names has none. -/
def State.rankBase (s : State) (r : Fin 4) : Nat :=
  match (List.finRange 3).find? fun l => s.memc.rankMap[l] == r with
  | some l => l.val * 2 ^ 31
  | none => 0

/-- A rank is retired (R432): the migration to the spare begins; with no spare left it fails (R434). -/
def retireRank (r : Fin 4) (addr : Nat) (s : State) : State :=
  let st := s.memc.ranks[r]
  match s.memc.mig with
  | some g =>
    if g.rank = r then s.onMemc fun c => { c with mig := some { g with auto := true } }
    else if st = 0 then
      s.onMemc fun c => { c with ranks := vmod c.ranks r fun _ => 3, failed := c.failed ||| BitVec.ofNat 4 (2 ^ r.val) }
    else s
  | none =>
    if st ≠ 0 ∧ st ≠ 2 then s
    else if s.memc.spareValid && st = 0 then
      (logDram 4 addr (s.onMemc fun c => { c with
        ranks := vmod c.ranks r fun _ => 2, mig := some { rank := r, share := s.memParam 6, auto := true } })).raise 10
    else s.onMemc fun c => { c with
      ranks := vmod c.ranks r fun _ => 3, failed := c.failed ||| BitVec.ofNat 4 (2 ^ r.val) }

/-- A corrected error in a rank (R431). -/
def corrected (r : Fin 4) (addr master : Nat) (s : State) : State :=
  let t := s.log.poweredS.toNat
  let l := t :: s.memc.ceHour[r].filter fun e => decide (t < e + 3600)
  let s1 := (noteError 1 master r.val addr (s.bump 0x0D 0)).onMemc fun c => { c with ceHour := vmod c.ceHour r fun _ => l }
  let lim := s.memParam 10
  if lim ≠ 0 ∧ lim ≤ l.length ∧ s.memc.ranks[r] = 0 then retireRank r addr (logDram 1 addr s1) else s1

/-- An uncorrectable error in a rank (R431). -/
def uncorrectable (r : Fin 4) (addr master : Nat) (s : State) : State :=
  retireRank r addr (logDram 2 addr (noteError 2 master r.val addr (s.bump 0x0D 1)))

/-! Banks, rows and the row-hammer defence (R422, R430). -/

/-- The parity of the bits that a mask selects. -/
def parityOf (x m : Nat) : Nat := (List.range 31).foldl (fun p i => (p + b2n (x.testBit i && m.testBit i)) % 2) 0
def State.bankOf (s : State) (a : Nat) : Nat :=
  parityOf a s.memc.masks[0].toNat + 2 * parityOf a s.memc.masks[1].toNat + 4 * parityOf a s.memc.masks[2].toNat
    + 8 * parityOf a s.memc.masks[3].toNat
def rowOf (a : Nat) : Nat := a / 65536 % 32768

/-- The master with the most activations of a row among the last 64 of its bank; of equal ones the latest. -/
def topMaster (row : Nat) (l : List (Nat × Nat)) : Nat :=
  let ms := (l.filter fun e => e.1 == row).map (·.2)
  ms.foldl (fun b m => if ms.count b < ms.count m then m else b) (ms.headD 0)

/-- A row is opened for a master (R430). -/
def activate (r : Fin 4) (bank row m : Nat) (s : State) : State :=
  let bk := r.val * 16 + bank
  let key := bk * 32768 + row
  let n := (s.memc.rows.get? key).getD 0 + 1
  let acts := ((row, m) :: ((s.memc.acts.get? bk).getD [])).take 64
  let s1 := s.onMemc fun c => { c with
    openRow := c.openRow.put bk row, rows := c.rows.put key n, acts := c.acts.put bk acts }
  let s2 := if s.memc.throttled.contains (bk, m) && s.freeBool then s1.freshen.bump 0x0D 8 else s1
  if n = s.memParam 7 then
    let t := topMaster row acts
    let w := row + 65536 * bank + 2 ^ 20 * r.val + 2 ^ 24 * t
    logDram 7 w ((s2.bump 0x0D 7).onMemc fun c => { c with
      rhLast := BitVec.ofNat 32 w
      throttled := if c.throttled.contains (bk, t) then c.throttled else (bk, t) :: c.throttled })
  else s2

/-! Accesses at a target. -/

/-- A request that has waited for its DRAM slots beyond the age limit of its class counts in AGED; how long it waited is
not in the state, so whether it did is free (R425, log 45). -/
def ageOut (s : State) : State :=
  if s.memParam 1 ≠ 0 then s else if s.freeBool then s.freshen.bump 0x0D 9 else s.freshen

/-- What the request finds at DRAM: its wait (R425), self-refresh left (R428), the row opened, errors handled (R431). -/
def dramTouch (m : Fin 13) (r : XbarReq) (s : State) : State :=
  let a := r.addr.toNat
  let rank := s.memc.rankMap[logicalRank a]
  let bank := s.bankOf a
  let s0 := ageOut s
  let s1 := if s0.memc.selfRefresh.getLsbD rank.val then
      (s0.onMemc fun c => { c with selfRefresh := c.selfRefresh &&& ~~~(BitVec.ofNat 4 (2 ^ rank.val)) }).bump 0x0D 6
    else s0
  let s2 := if s1.memc.openRow.get? (rank.val * 16 + bank) = some (rowOf a) then s1 else activate rank bank (rowOf a) m.val s1
  let s3 := match r.write, r.err with
    | none, .correctable => corrected rank a m.val s2
    | none, .uncorrectable => uncorrectable rank a m.val s2
    | _, _ => s2
  if r.cls = .rt0 ∧ r.write = none then
    let f := (s3.freeVal 16).toNat
    let lat := if s.memParam 1 = 0 then f % 2851 else f
    s3.freshen.onMemc fun c => { c with worst := if c.worst.toNat < lat then BitVec.ofNat 16 lat else c.worst }
  else s3

/-- The words of 8 bytes that a write to the parameter store touches. -/
def psWords (a n : Nat) : Nat := if n = 0 then 0 else (a + n - 1) / 8 - a / 8 + 1

/-- A granted burst at its target: the status code and the data it answers (R416, R431, R434-R437). -/
def serveReq (m : Fin 13) (r : XbarReq) (t : Fin 10) (s : State) : State × Byte × List Byte :=
  let a := r.addr.toNat
  let ma := 2 ^ 63 + a
  let s1 := if t.val ≤ 1 then dramTouch m r s
    else if 2 ≤ t.val ∧ t.val ≤ 5 ∧ r.err = .uncorrectable ∧ r.write = none then
      noteError 2 m.val 0 a (s.bump 0x0D 1)
    else s
  match r.write with
  | some bs =>
    if s.rankFailed a || !(r.firmware || s.writable ma bs.length == bs.length) then (s1, stMemError, [])
    else
      let s2 := s1.writeAt (BitVec.ofNat 64 ma) bs
      ((if t = 6 then s2.bumpBy 0x0E 0 (psWords a bs.length) else s2), stOk, [])
  | none =>
    if s.rankFailed a || r.err = .uncorrectable || s.poisonEnd a (a + r.len) != a + r.len
        || !(r.firmware || s.readable ma r.len == r.len) then (s1, stMemError, [])
    else (s1, stOk, s1.fetch a r.len)

/-! The crossbar (R416-R420). -/

def State.xbarError (s : State) : State := s.onMemc fun c => { c with errCount := satInc c.errCount }
def respond (m : Fin 13) (id : BitVec 6) (st : Byte) (data : List Byte) (s : State) : State :=
  s.onMemc fun c => { c with lastResp := some (m, id, st, data) }

/-- A burst: 1 to 4096 bytes that cross no 4 KiB boundary; one beat at the parameter store (R418). -/
def burstOk (r : XbarReq) (t : Fin 10) : Bool :=
  let n := match r.write with
    | some bs => bs.length
    | none => r.len
  let a := r.addr.toNat
  1 ≤ n && n ≤ 4096 && a / 4096 == (a + n - 1) / 4096 && (t != 6 || a / 32 == (a + n - 1) / 32)

/-- The request waits behind the abandoned ones of its unit (R420). -/
def State.held (s : State) (m : Fin 13) (r : XbarReq) : Bool :=
  if m.val ≤ 3 then (s.txnsOf m).any fun x => x.abandoned && x.req.unit == r.unit
  else s.memc.draining.getLsbD m.val

/-- The oldest waiting requests of a master become outstanding while there is room (R417). -/
def intake (m : Fin 13) : Nat → State → State
  | 0, s => s
  | k + 1, s =>
    match s.memc.queued[m] with
    | [] => s
    | r :: rest =>
      match reqTarget r with
      | none => s
      | some t =>
        if 32 ≤ (s.txnsOf m).length || s.held m r then s
        else intake m k (s.onMemc fun c =>
          let l := c.txns[m] ++ [{ id := r.id, req := r, target := t }]
          { c with queued := vmod c.queued m fun _ => rest, txns := vmod c.txns m fun _ => l
                   peak := vmod c.peak m fun p => max p l.length })

/-- A request to a master's unit: refused at once, outstanding, or waiting (R416, R417, R420). -/
def request (m : Fin 13) (r : XbarReq) (s : State) : State :=
  match reqTarget r with
  | none => respond m r.id stMemError [] s.xbarError
  | some t =>
    if !reaches m t then respond m r.id stMemError [] s.xbarError
    else if !burstOk r t then s
    else intake m 33 (s.onMemc fun c => { c with queued := vmod c.queued m fun l => l ++ [r] })

/-- Whether a master waits at a target; DRAM serves from MEMCTL's RUNNING on (R416). -/
def State.waits (s : State) (t : Fin 10) (m : Fin 13) : Bool :=
  (2 ≤ t.val || s.running .memctl) && (s.txnsOf m).any fun x => x.target == t && !x.granted

/-- The master after `last` in the round. -/
def nextMaster (last : Nat) (p : Fin 13 → Bool) : Option (Fin 13) :=
  ((List.range 13).map fun i => Fin.ofNat 13 (last + 1 + i)).find? p

/-- The waiting master that R418 grants. -/
def State.grantee (s : State) (t : Fin 10) : Option (Fin 13) :=
  let top := (List.finRange 13).foldl (fun b m => if s.waits t m then max b (s.xbarPrio m t + 1) else b) 0
  if top = 0 then none
  else nextMaster ((s.memc.granted.get? (16 * t.val + (top - 1))).getD 12) fun m => s.waits t m && s.xbarPrio m t + 1 == top

/-- The first waiting transaction of a list for a target is served. -/
def grantFirst (t : Fin 10) (f : Txn → Txn) : List Txn → List Txn
  | [] => []
  | x :: r => if x.target == t && !x.granted then f x :: r else x :: grantFirst t f r

/-- A burst is granted and served. An abandoned write whose beats had not been supplied writes nothing (R420). -/
def grant (t : Fin 10) (s : State) : State :=
  match s.grantee t with
  | none => s
  | some m =>
    match (s.txnsOf m).find? fun x => x.target == t && !x.granted with
    | none => s
    | some x =>
      let r := if x.abandoned && x.req.write.isSome then (s, stOk, []) else serveReq m x.req t s
      (r.1.onTxns m (grantFirst t fun x => { x with granted := true, answer := some r.2 })).onMemc fun c =>
        { c with granted := c.granted.put (16 * t.val + s.xbarPrio m t) m.val }

/-- The first transaction of an ID. -/
def dropFirst (id : BitVec 6) : List Txn → List Txn
  | [] => []
  | x :: r => if x.id == id then r else x :: dropFirst id r

/-- A response returns to its source, in the order of the source's requests (R417). -/
def respondTxn (m : Fin 13) (id : BitVec 6) (s : State) : State :=
  match (s.txnsOf m).find? fun x => x.id == id with
  | none => s
  | some x =>
    match x.answer with
    | none => s
    | some (st, data) =>
      let s1 := s.onTxns m (dropFirst id)
      intake m 33 (if x.abandoned then s1 else respond m id st data s1)

/-- A master, or one core of a group, resets its transactions (R420). -/
def resetMaster (m : Fin 13) (unit : Option (Fin 4)) (s : State) : State :=
  let hit := fun r : XbarReq => match unit with
    | some u => r.unit == u
    | none => true
  if !(s.txnsOf m).any (fun x => hit x.req) then s.onMemc fun c => { c with queued := vmod c.queued m fun l => l.filter fun r => !hit r }
  else s.onMemc fun c => { c with
    queued := vmod c.queued m fun l => l.filter fun r => !hit r
    txns := vmod c.txns m fun l => l.map fun x => if hit x.req then { x with abandoned := true } else x
    draining := c.draining ||| BitVec.ofNat 13 (2 ^ m.val) }

/-- The group master of a core, and its place in the group (R288). -/
def coreMaster (n : Fin 16) : Fin 13 := Fin.ofNat 13 (n.val / 4)
def coreUnit (n : Fin 16) : Fin 4 := Fin.ofNat 4 n.val

/-! Atomic operations (R435). -/

def isSram (a : Nat) : Bool := decide (0x1000000000 ≤ a ∧ a < 0x1001000000)

/-- One indivisible read-modify-write; the old value is returned, zero-extended. -/
def atomic (m : Fin 13) (arg : AtomicArg) (f : Nat → Nat) (s : State) : State :=
  let a := arg.addr.toNat
  let n := if arg.wide then 8 else 4
  if !(4 ≤ m.val && m.val ≤ 11) then s
  else if !isSram a then respond m 0 stMemError [] s.xbarError
  else if a % n ≠ 0 ∨ s.poisonEnd a (a + n) ≠ a + n then respond m 0 stMemError [] s
  else
    let old := ofLe (s.read a n)
    respond m 0 stOk (leBytes n old) (s.write a (leBytes n (f old)))

end Sys2Proof.Machine
end

