-- ==== Sys2Proof/Machine/Rings.lean ====
section
/-! DEFINITION. Rings: pages, taking and serving descriptors, records, draining, interrupts (R86-R124). -/

namespace Sys2Proof.Machine

open Sys2Proof

abbrev Effect := State → State

/-! Page sets (R97). -/

/-- The ring is Tarragon's (R125). -/
def State.tarrRing (s : State) (q : Fin 32) : Bool := s.svc.hostless && decide (24 ≤ q.val)
def State.page (s : State) : PageSet → PageSt
  | .host => s.host.hostPage
  | .tarragon => s.host.tarrPage
def State.onPage (p : PageSet) (g : PageSt → PageSt) (s : State) : State :=
  match p with
  | .host => s.onHost fun h => { h with hostPage := g h.hostPage }
  | .tarragon => s.onHost fun h => { h with tarrPage := g h.tarrPage }
def State.pageOf (s : State) (q : Fin 32) : PageSet := if s.tarrRing q then .tarragon else .host
/-- A field of the status page other than TICK changes (R96). -/
def State.touchPage (q : Fin 32) (s : State) : State := s.onPage (s.pageOf q) fun p => { p with dirty := true }

/-- The doorbell and status pages of Tarragon (R97). -/
def tarrDoorbell : Nat := 0x017F000000
def tarrStatus : Nat := 0x017F001000

/-- Rings are worked: settings applied, the service and ring islands at work (R24, R62). A module reset under way only
stops the fetching: what was taken runs on and is recorded (R83). -/
def State.ringsWork (s : State) : Bool :=
  decide (3 ≤ s.chip.stage.toNat) && s.portsUp && s.chip.supply != .stopped

/-! A ring's state (R87, R95, R102). -/

def Ring.full (r : Ring) : Bool := decide (2 ^ r.cqLog.toNat ≤ (r.cqPi - r.cqCi).toNat)
/-- RING_STATUS_q.STATE. -/
def Ring.state (r : Ring) : Nat :=
  if r.err ≠ 0 then 3 else if !r.enable && !r.draining then 0 else if r.full then 2 else 1
def Ring.pendingCount (r : Ring) : Nat := if r.seen then (r.sqPi - r.sqCi).toNat else 0

/-- A ring enters STATE 0x3 (R89, R95, R120). -/
def ringError (q : Fin 32) (e : BitVec 4) (s : State) : State :=
  ((s.onRing q fun r => { r with err := e, fetched := [] }).raise 0).touchPage q

/-- Opcodes that run deferred (R118). -/
def deferredOp (op : Nat) : Bool :=
  op == 0x01 || op == 0x10 || op == 0x11 || op == 0x12 || (0x20 ≤ op && op ≤ 0x23) || op == 0x30 || op == 0x31
  || op == 0x33 || op == 0x34 || op == 0x40 || op == 0x41 || (0x50 ≤ op && op ≤ 0x52)
def knownOp (op : Nat) : Bool :=
  deferredOp op || op == 0x00 || op == 0x02 || op == 0x03 || op == 0x04 || op == 0x05 || op == 0x13 || op == 0x32

def State.jobsOf (s : State) (q : Fin 32) : List Job := s.life.jobs.filter fun j => j.ring == q && !j.silent
/-- Deferred descriptors of a ring in progress (R99). -/
def State.deferredCount (s : State) (q : Fin 32) : Nat :=
  (s.jobsOf q).countP (fun j => deferredOp j.op.toNat)
    + s.host.taken.countP fun e => e.1 == q && deferredOp (opcodeOf e.2.2)
/-- A ring is blocked (R100). -/
def State.blocked (s : State) (q : Fin 32) : Bool :=
  ((s.jobsOf q).any fun j => j.op == 0x01)
  || s.host.taken.any fun e => e.1 == q && (opcodeOf e.2.2 == 0x01 || orderedOf e.2.2)
/-- An immediate descriptor of the ring has been taken and not been served (R99). -/
def State.unservedHere (s : State) (q : Fin 32) : Bool := s.host.taken.any fun e => e.1 == q && !deferredOp (opcodeOf e.2.2)
/-- Descriptors taken in this tick, module-wide (R98). -/
def State.takenNow (s : State) : Nat := (s.host.rings.toList.map (·.taken)).sum

/-- The ring may have its next descriptor, `d`, taken now (R98-R102). -/
def State.mayTake (s : State) (q : Fin 32) (d : Desc) : Bool :=
  let r := s.ring q
  s.ringsWork && !s.chip.resetting && r.enable && !r.draining && r.err == 0 && !r.full && decide (r.taken < r.budgetNow.toNat)
  && decide (s.takenNow < 32) && !s.blocked q && !s.unservedHere q && (!deferredOp (opcodeOf d) || decide (s.deferredCount q < 32))

/-- RING_SQ_CI counts a descriptor: it is taken (R95). -/
def countTaken (q : Fin 32) (s : State) : State :=
  (s.onRing q fun r => { r with sqCi := r.sqCi + 1, taken := r.taken + 1, fetched := r.fetched.drop 1 }).touchPage q

/-- An earlier descriptor of the ring is in progress (R100). -/
def State.earlier (s : State) (q : Fin 32) : Bool := !(s.jobsOf q).isEmpty

/-- The first taken and unserved descriptor of a ring. -/
def State.firstTaken (s : State) (q : Fin 32) : Option (Fin 32 × Word × Desc) := s.host.taken.find? fun e => e.1 == q
/-- The list of taken descriptors without a ring's first. -/
def dropTaken (q : Fin 32) : List (Fin 32 × Word × Desc) → List (Fin 32 × Word × Desc)
  | [] => []
  | e :: r => if e.1 = q then r else e :: dropTaken q r

/-- The rings in round-robin order from the one after the ring last served at a level. -/
def State.robin (s : State) (lv : Nat) : List (Fin 32) :=
  (List.range 32).map fun i => Fin.ofNat 32 (s.host.lastServed[Fin.ofNat 8 lv].val + 1 + i)

/-- Ring q may be taken from at a level. -/
def State.ready (s : State) (lv : Nat) (q : Fin 32) : Bool :=
  match (s.ring q).fetched with
  | d :: _ => levelOf d (s.ring q).prio == lv && (s.ring q).pendingCount != 0 && s.mayTake q d
  | [] => false

/-- The order of R98 comes to ring q with `d` at its head: no higher level is ready, nor a ring before it in its own. -/
def State.turn (s : State) (q : Fin 32) (d : Desc) : Bool :=
  let lv := levelOf d (s.ring q).prio
  ((s.robin lv).find? fun p => p == q || s.ready lv p) == some q
  && (List.range 8).all fun l => l ≤ lv || (s.robin l).all fun p => p == q || !s.ready l p

/-- The ring is the one last served at the level of `d`. A FENCE notes what has been taken before it (R108). -/
def noteServed (q : Fin 32) (d : Desc) (s : State) : State :=
  let s1 := if opcodeOf d = 1 then s.onRing q fun r => { r with fenceAt := s.host.rings.toList.map (·.sqCi) } else s
  s1.onHost fun h => { h with lastServed := vmod h.lastServed (Fin.ofNat 8 (levelOf d (s.ring q).prio)) fun _ => q }

/-- A descriptor of ring q is served: the one the module has taken, or, with none taken, the one at the head of the
ring (which the command brings, if none is read ahead), taken here when its turn comes in the order of R98 (log 3).
ORDERED waits for the earlier ones (R100). None: nothing is served. -/
def State.serving (s : State) (q : Fin 32) (d : Desc) : Option (Word × State) :=
  match s.firstTaken q with
  | some (_, idx, e) =>
    if e = d ∧ s.ringsWork ∧ !(orderedOf d && s.earlier q) then
      some (idx, s.onHost fun h => { h with taken := dropTaken q h.taken })
    else none
  | none =>
    let here := match (s.ring q).fetched with
      | [] => (s.ring q).pendingCount != 0 && !s.busWait (s.ring q).sqBase.toNat
      | e :: _ => e == d && (s.ring q).pendingCount != 0
    if here && s.mayTake q d && s.turn q d && !(orderedOf d && s.earlier q) then
      some ((s.ring q).sqCi, countTaken q (noteServed q d s))
    else none

/-- A descriptor that completes at once (R101, R118). -/
def finish (q : Fin 32) (d : Desc) (idx : Word) (status : Byte) (done : Nat) (s : State) : State :=
  s.addRec q (mkRec (tagOf d) (irqOf d) idx status done false s.now)

/-- A descriptor that stays in progress. -/
def newJob (q : Fin 32) (d : Desc) (idx : Word) (s : State) : Job :=
  { uid := s.life.nextUid, ring := q, idx, desc := d, op := BitVec.ofNat 8 (opcodeOf d) }
def addJob (j : Job) (s : State) : State := s.onLife fun l => { l with jobs := l.jobs ++ [j], nextUid := l.nextUid + 1 }
def defer (q : Fin 32) (d : Desc) (idx : Word) (s : State) : State := addJob (newJob q d idx s) s

/-- The command of opcode `op` serves `d`: the form is checked first, then `body` does the rest. -/
def serve (op : Nat) (q : Fin 32) (d : Desc) (form : Bool) (body : Word → State → State) (s : State) : State :=
  if opcodeOf d ≠ op then s
  else match s.serving q d with
    | none => s
    | some (idx, s1) =>
      if form && (!s.svc.hostless || s.tarrRing q || clearOfStaging d) then body idx s1 else finish q d idx stBadDesc 0 s1

/-! Taking (R98). -/

/-- The head of q taken; an unknown opcode completes at once (R107). -/
def takeHead (q : Fin 32) (s : State) : State :=
  match (s.ring q).fetched with
  | [] => s
  | d :: _ =>
    let idx := (s.ring q).sqCi
    let s1 := countTaken q (noteServed q d s)
    if knownOp (opcodeOf d) then s1.onHost fun h => { h with taken := h.taken ++ [(q, idx, d)] }
    else finish q d idx stBadDesc 0 s1

/-- The passes of one level, at most `k` descriptors. -/
def takeLevel (lv : Nat) : Nat → State → State
  | 0, s => s
  | k + 1, s =>
    match (s.robin lv).find? (s.ready lv) with
    | some q => takeLevel lv k (takeHead q s)
    | none => s

/-- The taking of one tick; a budget written in the tick before applies from here (R88). -/
def takeAll (s : State) : State :=
  let s0 := s.onHost fun h => { h with rings := h.rings.map fun r => { r with taken := 0, budgetNow := r.budget } }
  [7, 6, 5, 4, 3, 2, 1, 0].foldl (fun s lv => takeLevel lv 32 s) s0

/-! Records, the status page and MSI-X (R92, R96, R101-R103, R119). -/

/-- The status page of this fetch period is not written yet: the period's records come before it (R96). -/
def State.periodOpen (s : State) (p : PageSet) : Bool :=
  (s.page p).due || (match p with
    | .host => !s.host.fetch
    | .tarragon => false)
/-- A descriptor of the ring before position `idx` is in progress. -/
def State.openBefore (s : State) (q : Fin 32) (idx : Word) : Bool :=
  (s.jobsOf q).any (fun j => idxBefore j.idx idx) || s.host.taken.any (fun e => e.1 == q && idxBefore e.2.1 idx)
  || s.life.acts.any fun a => a.ring == q && !a.silent && idxBefore a.idx idx

/-- A record joins the completion ring, when it has room (R102). A record of this tick waits while an earlier descriptor
of the ring may still complete in it (R103). Tarragon consumes its records at once. -/
def writeRecord (q : Fin 32) (s : State) : State :=
  let r := s.ring q
  match r.waiting with
  | [] => s
  | w :: rest =>
    let tarr := s.tarrRing q
    if !(r.enable || r.draining) || r.full || !s.ringsWork || s.busWait r.cqBase.toNat || !s.periodOpen (s.pageOf q)
        || (w.tick == s.now && s.openBefore q w.idx) then s
    else
      let n := 2 ^ r.cqLog.toNat
      let k := r.cqPi.toNat
      let phase := k / n % 2 == 0
      let s1 := s.writeAt (r.cqBase + BitVec.ofNat 64 (16 * (k % n))) (w.bytes phase)
      let s2 := (s1.onRing q fun r => { r with
        waiting := rest, cqPi := r.cqPi + 1, cqCi := if tarr then r.cqPi + 1 else r.cqCi }).touchPage q
      if tarr then s2.write (tarrDoorbell + 4 + 8 * q.val) (leBytes 4 (k + 1))
      else if w.irq || r.irqAll then
        s2.onHost fun h => { h with toSignal := h.toSignal ||| BitVec.ofNat 32 (2 ^ r.vec.toNat) }
      else s2

/-- The status page: the entries of rings the page set does not serve hold zero (R97). -/
def State.pageBytes (s : State) (p : PageSet) : List Byte :=
  let pg := s.page p
  (allRings.flatMap fun q =>
    if s.pageOf q == p then leBytes 4 (s.ring q).sqCi.toNat ++ leBytes 4 (s.ring q).cqPi.toNat else leBytes 8 0)
  ++ leBytes 8 pg.event.toNat ++ leBytes 4 pg.seq.toNat ++ leBytes 4 0 ++ leBytes 8 pg.tick.toNat

/-- The messages of the pending vectors that are not masked leave, where the module may issue them (R119, R123). -/
def sendMsix (h : HostSt) : HostSt :=
  let go := if h.msixEnable && h.bme then h.msixPend &&& ~~~h.msixMask else 0
  { h with
    msixSent := go, msixPend := h.msixPend &&& ~~~go
    msixMsgs := ((List.finRange 32).filter fun v => go.getLsbD v.val).map fun v => h.msixTable[v] }

/-- The vectors to signal become messages; one that cannot leave stays pending: a masked vector's by the PCIe rule, and
while MSI-X is disabled as a whole, which the spec does not settle, any (DESIGN CHOICE, log 18). -/
def signal (s : State) : State :=
  s.onHost fun h =>
    let v := if h.hostPage.rose then h.toSignal ||| BitVec.ofNat 32 (2 ^ h.eventVec.toNat) else h.toSignal
    sendMsix { h with toSignal := 0, msixPend := h.msixPend ||| v, hostPage := { h.hostPage with rose := false } }

/-- The progress word of a CAPTURE or PLAYBACK (R112); where it cannot be written the run ends (R105, DEDUCED, log 23). -/
def writeProgress (j : Job) (s : State) : State :=
  let a := fld j.desc 40 8
  if !(j.op == 0x21 || j.op == 0x22) || a = 0 || j.silent || s.busWait a then s
  else if s.dstOk a 8 then s.writeAt (BitVec.ofNat 64 a) (leBytes 8 j.done)
  else s.endJob j stMemError j.done false
/-- The last counts of runs that have ended. -/
def writeLast (p : PageSet) (s : State) : State :=
  let go := fun (e : Fin 32 × DWord × Nat) => s.pageOf e.1 == p && !s.busWait e.2.1.toNat
  forAll (s.host.progress.filter go) (fun e s => if s.dstOk e.2.1.toNat 8 then s.writeAt e.2.1 (leBytes 8 e.2.2) else s)
    (s.onHost fun h => { h with progress := h.progress.filter fun e => !go e })

/-- The end of a fetch period: progress words, then the page if a field other than TICK has changed, then the
messages (R96, R112, R119). -/
def writePage (p : PageSet) (s : State) : State :=
  let s1 := if s.ringsWork && s.periodOpen p then
      forAll (s.life.jobs.filter fun j => s.pageOf j.ring == p) writeProgress (writeLast p s) else s
  if !(s1.page p).dirty || !(s1.page p).due || !s1.ringsWork then s1
  else match p with
    | .host =>
      if s1.host.stAddr = 0 || s1.busWait s1.host.stAddr.toNat then s1
      else signal ((s1.writeAt s1.host.stAddr (s1.pageBytes .host)).onPage .host fun g => { g with dirty := false, due := false })
    | .tarragon =>
      if !s1.svc.hostless || s1.busWait (2 ^ 63 + tarrStatus) then s1
      else (s1.write tarrStatus (s1.pageBytes .tarragon)).onPage .tarragon fun g => { g with dirty := false, due := false }

/-! Doorbell pages (R91, R93, R95, R120). -/

/-- A failed read of host memory (R106). -/
def hostReadFailed (a : DWord) (s : State) : State :=
  s.onHost fun h => { h with hostErr := a, hostErrCount := satInc h.hostErrCount }

/-- The acknowledgement in a page (R120). The first read of a page set only records the sequence number. -/
def ackEvents (p : PageSet) (seq : Word) (mask : DWord) (s : State) : State :=
  s.onPage p fun g =>
    match g.ackSeq with
    | none => { g with ackSeq := some seq }
    | some old =>
      if old = seq then g
      else { g with ackSeq := some seq, event := g.event &&& ~~~mask, seq := g.seq + 1, dirty := true }

/-- One ring's entry of a doorbell page; a ring in STATE 0x3 still sees the room the host frees (R102). -/
def ringDoorbell (q : Fin 32) (b : List Byte) (fresh : Bool) (s : State) : State :=
  let r := s.ring q
  if !(r.enable || r.draining) || !(r.seen || fresh) then s
  else
    let pi_ := BitVec.ofNat 32 (leAt b (8 * q.val) 4)
    let ci := BitVec.ofNat 32 (leAt b (8 * q.val + 4) 4)
    let s1 := s.onRing q fun r => { r with sqPi := if r.err = 0 then pi_ else r.sqPi, cqCi := ci, seen := true }
    if r.enable && r.err == 0 && decide (2 ^ r.sqLog.toNat < (pi_ - r.sqCi).toNat) then ringError q 1 s1 else s1

/-- A doorbell read completes with its 272 bytes. -/
def doorbellDone (p : PageSet) (b : List Byte) (s : State) : State :=
  let pg := s.page p
  let s1 := s.onPage p fun g => { g with outstanding := false, fresh := 0 }
  let s2 := forAll (allRings.filter fun q => s.pageOf q == p) (fun q s => ringDoorbell q b (pg.fresh.getLsbD q.val) s) s1
  ackEvents p (BitVec.ofNat 32 (leAt b 0x100 4)) (BitVec.ofNat 64 (leAt b 0x108 8)) s2

/-- Rings whose enable precedes a read issued now (R89). -/
def State.freshMask (s : State) : Word :=
  BitVec.ofNat 32 (allRings.foldl (fun n q => n + b2n (s.ring q).enable * 2 ^ q.val) 0)

/-! Drain (R90). -/

/-- Bulk descriptors (the payload table of that name): they stop at a unit boundary. -/
def bulkOp (op : Nat) : Bool := op == 0x20 || op == 0x21 || op == 0x22 || op == 0x23 || op == 0x30 || op == 0x31

/-- A draining ring has nothing left in the module. -/
def State.drained (s : State) (q : Fin 32) : Bool :=
  (s.ring q).waiting.isEmpty && (s.jobsOf q).isEmpty && (s.host.taken.all fun e => e.1 != q)
  && s.life.acts.all fun a => a.ring != q || a.silent

/-- DRAINING and STATE read 0 (R90). -/
def endDrain (q : Fin 32) (s : State) : State :=
  if (s.ring q).draining && s.drained q then
    (s.onRing q fun r => { r with draining := false, err := 0, seen := false, fetched := [] })
  else s

end Sys2Proof.Machine
end

