-- ==== Sys2Proof/Machine/Life.lean ====
section
/-! DEFINITION. The function life cycle: faults, starts, stops, OFF, and what each does to a function's island
(R74-R80, R84, R456). -/

namespace Sys2Proof.Machine

open Sys2Proof

/-! Functions at work. -/

/-- The crossbar master of a function's island (R439). -/
def masterOf : Func → Option (Fin 13)
  | .pathA => some 5 | .pathB => some 6 | .lovage => some 4 | .capture => some 9 | .decim => some 10
  | _ => none
/-- The requests of a function's island are abandoned (R420). -/
def dropRequests (f : Func) (s : State) : State :=
  match f with
  | .sc n => resetMaster (coreMaster n) (some (coreUnit n)) s
  | _ => match masterOf f with
    | some m => resetMaster m none s
    | none => s

/-- The status a run ends with: `open_` for FRAMES 0. -/
def runStatus (j : Job) (status open_ : Byte) : Byte := if fld j.desc 32 4 = 0 then open_ else status
/-- A fault of CAPTURE ends every run at once (R281). -/
def abortRuns (s : State) : State :=
  forAll (s.life.jobs.filter fun j => j.isCapture || j.isPlay) (fun j s => s.endJob j stAborted j.done false) s
/-- CAPTURE enters STOPPED: runs end, a capture after its last frame is written: it takes no further frame and keeps
the status in `phase` (R112, R281). -/
def stopRuns (s : State) : State :=
  forAll (s.life.jobs.filter fun j => j.isCapture || j.isPlay) (fun j s =>
    if j.isCapture && !j.frames.isEmpty then s.onJob j.uid fun j => { j with phase := 1 + (runStatus j stAborted stOk).toNat }
    else s.endJob j (runStatus j stAborted stOk) j.done false) s

/-- The function's work ends: what its island held for its outputs is gone. -/
def leaveWork (f : Func) (s : State) : State :=
  match f with
  | .pathA => pathLeft .a s
  | .pathB => pathLeft .b s
  | .streamRx => leaveReported s
  | .streamTx => s.onStrm fun t => { t with tx := t.tx.mapVal fun _ x => { x with next := none, live := false } }
  | .lovage => (lovFlush s).onLov fun l => { l with snk := [], snkTick := none }
  | .pdm => s.onLoc fun l => { l with clkRun := 0, warming := 0 }
  | .tdm0 => s.onTdm 0 fun t => { t with state := 0, clocks := false, rx := none, output := [], queued := [] }
  | .tdm1 => s.onTdm 1 fun t => { t with state := 0, clocks := false, rx := none, output := [], queued := [] }
  | .sage => forAll allPch saveCoil s
  | _ => s

/-- The record of a FAULTED entry: state, cause, count, completions, event and log (R73, R75, R80, R450). -/
def enterFaulted (f : Func) (cause : Byte) (data : DWord) (s : State) : State :=
  let s1 := (s.setLife f .faulted).onFunc f fun r => { r with
    cause, faultCount := if r.faultCount = 0xFFFF then r.faultCount else r.faultCount + 1
    startReq := false, stopReq := false, offReq := false }
  let s2 := (s1.endStarts f stAborted).endStops f stAborted
  (s2.raise 1).logEntry 0x01 f.id cause data

/-- The high-voltage side has no supply (R47, R85). -/
def State.vbusLost (s : State) : Bool := decide (s.chip.vbus.toInt ≤ 0)

/-- A fault of a power channel: a bridge that still switches is brought down by the fast stop (R25, R80, R379); with
VBUS lost switching has stopped (R380). -/
def faultPch (c : Fin 4) (cause : Byte) (data : DWord) (s : State) : State :=
  let s1 := enterFaulted (.pch c) cause data (endTest c stBadState s)
  let s2 := s1.onPch c fun p => { p with
    stopCause := 0, toFault := none, stopNext := none, prot := if p.prot = 3 then 3 else 0 }
  if cause = 5 && s2.vbusLost then openSwitches c s2 else fastStop c s2

/-- A fault enters FAULTED: from STOPPED only by a token mismatch or, on the high-voltage side, by its loss (R75). -/
def faultFunc (f : Func) (cause : Byte) (data : DWord) (s : State) : State :=
  let st := s.life? f
  if !(st.busy || (st == .stopped && (cause == 1 || (f.hv && cause == 5)))) then s
  else match f with
    | .pch c => faultPch c cause data s
    | .sc n =>
      dropRequests f (enterFaulted f cause data ((landAll n s).onCore n fun c => { c with
        exec := .halted, waitXf := none, retExec := .waiting, trapHandler := false }))
    | .sage =>
      let s1 := enterFaulted f cause data (leaveWork f s)
      if cause = 5 then s1
      else forAll (allPch.filter fun c => (s.life? (.pch c)).busy) (fun c s => pchStop c 9 s) s1
    | .timekeeper => enterFaulted f cause data (stopPtp .a (stopPtp .b (enterHoldover s)))
    | .capture => dropRequests f (enterFaulted f cause data (abortRuns s))
    | _ => dropRequests f (enterFaulted f cause data (leaveWork f s))

/-! OFF (R75, R84). -/

/-- What the island of a function loses in OFF. The memories of a core and its image stay (R291, R312). -/
def clearIsland (f : Func) (s : State) : State :=
  match f with
  | .streamRx => s.onStrm fun t => { t with rx := [] }
  | .streamTx => s.onStrm fun t => { t with tx := [], history := [] }
  | .lovage => s.onLov fun l => { l with xp := [], scales := [], netFade := {}, gens := Vector.replicate 16 {} }
  | .decim => s.onLoc fun l => { l with decs := Vector.replicate 40 {} }
  | .tdm0 => s.onTdm 0 fun _ => {}
  | .tdm1 => s.onTdm 1 fun _ => {}
  | .sc n => (landAll n s).onCore n fun c => { c with loops := [], exec := .waiting, waitXf := none }
  | .pch c => s.onPch c fun p => { p with
      scale := 42949672960, scaleRamp := none, vpk := 42949672960, vpkRamp := none, chiveSrc := 0xFF, chiveGain := 0, chive := { pos := 0, up := false }
      chiveWait := 0, cut := false }
  | _ => s

/-- The port engine of a path stops with it in OFF (R201). -/
def offPtp (f : Func) (s : State) : State :=
  match f with
  | .pathA => stopPtp .a s
  | .pathB => stopPtp .b s
  | _ => s
/-- A function enters OFF. -/
def enterOff (f : Func) (s : State) : State :=
  (clearIsland f (offPtp f ((s.setLife f .off).dropParams f))).onFunc f fun r => { r with config := none, offReq := false }

/-! Entering RUNNING and STOPPED (R76, R77, R456). -/

/-- A function leaves STARTING for RUNNING at this boundary. -/
def enterRunning (f : Func) (s : State) : State :=
  let s1 := s.setLife f .running
  let rise := fun (s : State) => s.onFunc f fun r => { r with fade := r.fade.go true (s.fadeTime f) }
  let s2 := match f with
    | .pathA => pathRunning .a s1
    | .pathB => pathRunning .b s1
    | .streamRx => joinReported s1
    | .lovage => rise s1
    | .streamTx => rise s1
    | .tdm0 => if s1.tdmSlave 0 then s1 else s1.onTdm 0 fun t => { t with state := 1, clocks := !s1.tdmWait 0 }
    | .tdm1 => if s1.tdmSlave 1 then s1 else s1.onTdm 1 fun t => { t with state := 1, clocks := !s1.tdmWait 1 }
    | .pdm =>
      let s2 := ((s1.onLoc fun l => { l with warming := 0 }).bump 9 0)
      if s2.life? .decim == Life.starting || s2.life? .decim == Life.running then
        chiveWarm (forAll (allDec.filter fun (c : Fin 40) => decide (c.val < 32) && s2.loc.clkRun.getLsbD (c.val / 8)) resetDec s2)
      else chiveWarm s2
    | .sc n =>
      let v := (s1.core n).image.secVersion
      (rise s1).onSvc fun x => { x with secMin := vmod x.secMin 2 fun m => if m.toNat < v.toNat then v else m }
    | .pch c => rise ((pchRuns c s1).bump (pchFn c) 0)
    | .sage => s1.onPwr fun w => { w with
        savedAt := s1.now, ch := w.ch.map fun (p : Pch) => { p with sageAt := none, winAt := s1.now, zAt := s1.now } }
    | _ => s1
  s2.endStarts f stOk

/-- A stopped function: its work ends, FUNC_STOP completes, and with the OFF flag OFF follows (R75). -/
def enterStopped (f : Func) (s : State) : State :=
  let s1 := match f with
    | .capture => stopRuns s
    | .sc n => s.onCore n fun c => { c with stopping := true }
    | .pch c => saveCoil c (s.onPch c fun p => { p with prot := 0, retry := 0, stopCause := 0 })
    | _ => leaveWork f s
  let s2 := dropRequests f ((s1.setLife f .stopped).onFunc f fun r => { r with stopReq := false })
  let s3 := if (s2.func f).offReq then enterOff f s2 else s2
  s3.endStops f stOk

/-- A power channel whose bridge is open ends its stop: STOPPED, or FAULTED with the cause of the stop (R378). -/
def pchStopped (c : Fin 4) (s : State) : State :=
  let p := s.pch c
  if s.life? (.pch c) != .stopping || p.phase != 0 || !s.pastMark c 0 then s
  else if p.stopCause = 0 then enterStopped (.pch c) s
  else enterFaulted (.pch c) p.stopCause 0 (saveCoil c (s.onPch c fun p => { p with
    stopCause := 0, prot := if p.prot = 3 then 3 else 0 }))

/-! START_EFFECT (R76). -/

/-- The Fs of TIME_CTRL comes into force through a counter load (R198, R199). -/
def changeFs (s : State) : State :=
  let s1 := s.onTime fun x => { x with fs := x.ctrl.truncate 2, lock := 0, ref := 0, freq := 0, ofs := 0, pred := 0, slew := 0 }
  counterLoad (BitVec.ofNat 64 (s.now.toNat * s1.fsHz / s.fsHz)) s1

/-- The program of a core runs from INIT_ENTRY, if its image declares one; the first block is chosen (R305). -/
def startCore (n : Fin 16) (s : State) : State :=
  let b := s.scBlock n
  (landAll n s).onCore n fun c => { c with
    firstBlock := BitVec.ofNat 64 ((s.now.toNat + b - 1) / b), stopping := false, late := false, outBlock := none
    loops := [], waitXf := none, aovTrap := none, xfTrap := false, trapHandler := false
    exec := if c.image.initEntry = 0xFFFF then .waiting else .init
    pc := if c.image.initEntry = 0xFFFF then c.pc else c.image.initEntry.truncate 12 }

/-- A channel's low-side switches close; with no channel switching the frequency is selected (R374, R377). -/
def startPch (c : Fin 4) (s : State) : State :=
  s.onPch c fun p => { p with
    phase := 1, cm := cmUp (s.cmRampMs c) s.fsHz, scale := s.pchTarget c, scaleRamp := none, stopCause := 0
    vpk := s.vpkTarget c, vpkRamp := none, stopNext := none
    test := none, retry := 0, prot := 0, toFault := none, notices := [], gFrom := p.gSage, gStep := 16
    chiveSrc := BitVec.ofNat 8 (s.param (.pch c) 4 0xFF), chiveGain := BitVec.ofNat 4 (s.param (.pch c) 5 0)
    chiveWait := 0, chive := Fade.zero, clip := false, vOut := 0 }

/-- The streams of one path hold nothing as its assembler starts (R239, R241). -/
def resetPathRx (p : Port) (s : State) : State :=
  let fresh := fun (k : Nat) (r : RxRec) =>
    if k / 128 = pathIx p then ({ marginMin := r.marginMin, marginLast := r.marginLast } : RxRec) else r
  s.onStrm fun t => { t with rx := t.rx.mapVal fresh }

/-- The start sequence of a function begins at this boundary. -/
def beginStart (f : Func) (s : State) : State :=
  let full := s.onFunc f fun r => { r with fade := Fade.one }
  let zero := s.onFunc f fun r => { r with fade := Fade.zero }
  match f with
  | .pathA => resetPathRx .a full
  | .pathB => resetPathRx .b full
  | .streamRx => resetRx full
  | .streamTx => startTx zero
  | .timekeeper =>
    let s1 := full.onTime fun t => { t with restarted := t.lock != 0 }
    if s1.time.ctrl.truncate 2 = s1.time.fs then s1 else changeFs s1
  | .lovage => forAll (List.finRange 16) genFlush zero
  | .decim => syncDec full
  | .pdm =>
    let en := BitVec.ofNat 4 full.pdmClkEn
    full.onLoc fun l => { l with clkRun := en, warming := en, ratio128 := BitVec.ofNat 4 full.pdmRatio128 }
  | .tdm0 => full.onTdm 0 fun _ => { state := if full.tdmSlave 0 then 2 else 0 }
  | .tdm1 => full.onTdm 1 fun _ => { state := if full.tdmSlave 1 then 2 else 0 }
  | .sc n => startCore n zero
  | .pch c => startPch c zero
  | _ => full

/-- A FUNC_STOP that waits was accepted before the FUNC_START that waits: it takes effect first (R76). -/
def stopFirst (f : Func) (s : State) : Bool :=
  (s.func f).stopReq && match s.job? fun j => (j.op == 0x10 || j.op == 0x12) && Func.ofId (funcByte j.desc) == some f with
    | some j => j.op == 0x10
    | none => false

/-- An island that a token mismatch has stopped resumes from the timing island's counter (R12). -/
def resumeIsland (i : Island) (s : State) : State :=
  if s.halted i then setBegun i false (setCopy i s.now (setHalted i false s)) else s

/-! Autostart's refusals (R69). -/

/-- A refused entry: logged and skipped. -/
def autoRefuse (e : SetEntry) (st : Byte) (pid : Nat) (s : State) : State :=
  s.logEntry 0x0A e.func st (BitVec.ofNat 64 (e.kind + pid * 2 ^ 32))
def autoNext (s : State) : State := s.onSvc fun v => { v with autostart := v.autostart.drop 1, autoBusy := false }
/-- A start of the list that is refused at its effect. -/
def autoStartRefused (f : Func) (st : Byte) (s : State) : State :=
  match s.svc.autostart with
  | e :: _ => if s.svc.autoBusy && e.kind == 3 && Func.ofId e.func == some f then autoNext (autoRefuse e st 0 s) else s
  | [] => s

/-- FUNC_START takes effect (R76). A power channel for which no frequency is found does not start (R376), and none starts
without SAGE RUNNING (R79) or with VBUS reversed (R47). A start that waits while a module reset stops the functions is
abandoned (R83; its status DESIGN CHOICE, log 53). -/
def startEffect (f : Func) (s : State) : State :=
  let st := s.life? f
  if !(s.func f).startReq || stopFirst f s || !(st == .stopped || st == .faulted) then s
  else if s.chip.resetting then (s.onFunc f fun r => { r with startReq := false }).endStarts f stAborted
  else if f.hv && (!s.chip.linkUp || s.chip.vbus.slt 0) then s
  else
    let s0 := resumeIsland (islandOf f) (s.onFunc f fun r => { r with startReq := false })
    let (s1, ok) := match f with
      | .pch _ => if s0.anySwitching then (s0, true) else fswSelect s0
      | _ => (s0, true)
    if !ok || (f.hv && f != .sage && !s1.running .sage) then autoStartRefused f stBadState (s1.endStarts f stBadState)
    else
      let s2 := beginStart f (s1.setLife f .starting)
      s2.onFunc f fun r => { r with effect := s2.now, lastChange := s2.now }

/-! STOP_EFFECT (R76, R378). -/

/-- The outputs of a function begin to fall (R76); DEC0 to DEC31 fall with PDM (R343). -/
def fadeOut (f : Func) (s : State) : State :=
  s.onFunc f fun r => { r with fade := r.fade.go false (s.fadeTime f) }

/-- A high-voltage function leaves OFF: the wake of R65 comes first; the request finds a reversed VBUS (R66,
R400). -/
def wakeHv (s : State) : State :=
  if s.chip.awake || s.chip.waking then s
  else
    let s1 := s.onChip fun c => { c with waking := true }
    if s.chip.vbus.slt 0 then ((s1.onChip fun c => { c with vbusReversed := true }).logEntry 0x0C 0 0 0).raise 9 else s1

/-- A channel that is STARTING, RUNNING or STOPPING keeps SAGE from stopping (R79). -/
def State.sageHeld (s : State) (f : Func) : Bool := f == .sage && allPch.any fun c => (s.life? (.pch c)).busy

/-- FUNC_STOP takes effect at this boundary. SAGE's condition of R79 is judged here too. -/
def stopEffect (f : Func) (s : State) : State :=
  let st := s.life? f
  if !(s.func f).stopReq then s
  else if s.sageHeld f && !s.chip.resetting then (s.onFunc f fun r => { r with stopReq := false, offReq := false }).endStops f stBadState
  else if st == .off then
    (if (s.func f).offReq then (s.onFunc f fun r => { r with stopReq := false, offReq := false }).endStops f stOk
     else if f.hv && !s.chip.awake then wakeHv s
     else ((s.setLife f .stopped).onFunc f fun r => { r with stopReq := false }).endStops f stOk)
  else if st == .stopped || st == .faulted then
    (let s1 := if st == .faulted then s.setLife f .stopped else s
     let s2 := s1.onFunc f fun r => { r with stopReq := false }
     let s3 := if (s2.func f).offReq then enterOff f s2 else s2
     s3.endStops f stOk)
  else if st == .stopping then s.onFunc f fun r => { r with stopReq := false }
  else
    let s1 := (s.endStarts f stAborted).onFunc f fun r => { r with stopReq := false, effect := s.now }
    match f with
    | .pch c => pchStop c 0 s1
    | .sage => s1.setLife .sage .stopping
    | .timekeeper => fadeOut f ((stopPtp .a (stopPtp .b (enterHoldover s1))).setLife f .stopping)
    | .streamRx => fadeOut f ((leaveReported s1).setLife f .stopping)
    | .pdm => fadeOut .pdm (chivePdmStop (s1.setLife .pdm .stopping))
    | _ => fadeOut f (s1.setLife f .stopping)

/-! START_SEQUENCE_COMPLETE, STOP_FADE_COMPLETE, START_TIMEOUT (R75-R77, R456). -/

/-- The first output block of a core stands in Lovage's FIFO for this boundary (R305). -/
def scReady (n : Fin 16) (s : State) : Bool :=
  match (s.edge (.sc n) .lovage).fifo with
  | some v => v.tick == s.now
  | none => false

/-- Ticks since the start or stop effect. -/
def State.since (s : State) (f : Func) : Nat := (s.now - (s.func f).effect).toNat

/-- A STARTING function that has done what R456 or its chapter asks before RUNNING. STREAM_TX without streams has no
launch to wait for (DEDUCED, log 20). -/
def startDone (f : Func) (s : State) : Bool :=
  s.life? f == .starting && match f with
    | .sc n => scReady n s
    | .pdm => decide (max 1 s.warmTicks ≤ s.since .pdm)
    | .pch _ => false
    | .streamTx => s.txCount == 0 && decide (1 ≤ s.since f)
    | _ => decide (1 ≤ s.since f)

/-- The outputs of a STOPPING function are silent. -/
def stopDone (f : Func) (s : State) : Bool :=
  s.life? f == .stopping && match f with
    | .pch _ => false
    | .sage => decide (1 ≤ s.since f)
    | _ => (s.func f).fade.silent

/-- Warm-up and ramp times that R77 adds to the 1 s, in ticks. -/
def startAllowance (f : Func) (s : State) : Nat :=
  match f with
  | .pdm => s.warmTicks
  | .pch c => s.msTicks (1 + s.cmRampMs c)
  | _ => 0

/-- STARTING has lasted too long: FAULTED with cause 0x08 (R77). -/
def startExpire (f : Func) (s : State) : State :=
  if s.life? f == .starting && decide (s.fsHz + startAllowance f s ≤ s.since f) then faultFunc f 8 0 s else s

/-- The life cycle at a boundary: what is done enters RUNNING or STOPPED there (R76). -/
def lifeTick (f : Func) (s : State) : State :=
  let s1 := if startDone f s then enterRunning f s else s
  let s2 := if stopDone f s1 then enterStopped f s1 else s1
  match f with
  | .pch c => pchStopped c s2
  | _ => s2

/-! Starting: what FUNC_START checks (R75, R78, R79, and the chapters). -/

/-- Nothing but TIMEKEEPER, SERVICE and MEMCTL is at work (R198). -/
def State.othersIdle (s : State) : Bool :=
  allFuncs.all fun f => f == .timekeeper || f == .service || f == .memctl || !(s.life? f).busy

end Sys2Proof.Machine
end

