-- ==== Sys2Proof/Machine/Slots.lean ====
section
/-! DEFINITION. Issuing the slots of a bundle. A slot command issues one operation of the bundle at the core's
program counter; the ALU-slot command comes last and closes the bundle (log 14). -/

namespace Sys2Proof.Machine

open Sys2Proof

abbrev Result := Host.Outcome State Fault Refusal

/-- The core is executing bundles (R302, R305, R307) and is not paused by WAITXF (R336). -/
def Core.issuing (c : Core) : Bool :=
  match c.exec with
  | .task => c.waitXf.isNone
  | .init => c.waitXf.isNone
  | .handler => true
  | .waiting => false
  | .halted => false

/-- The core issues: its island's clock runs and it has something to issue (R24, R317). -/
def State.issuing (s : State) (n : Fin 16) : Bool := islandRuns (.sc n) s && (s.core n).issuing

/-- TAKING A TRAP (R308): by TRAP_ENTRY, or to FAULTED with cause 0x03 and SCn_TRAP in the log (R450). -/
def takeTrap (n : Fin 16) (cause : BitVec 4) (at_ ret : BitVec 12) (s : State) : State :=
  let r := coreTrap n cause at_ ret s
  if r.2 then faultFunc (.sc n) 0x03 ((r.1.core n).trap.zeroExtend 64) r.1 else r.1

/-- A trap in place of the bundle at the program counter. -/
def trapHere (n : Fin 16) (cause : BitVec 4) (s : State) : State :=
  takeTrap n cause (s.core n).pc (s.core n).pc s

/-- A pending trap taken in place of the next bundle: AOV, where a handler's own operation makes it a trap inside a
handler (R326), then a transfer's MEM_ERROR (R309). One that is not the handler's own waits for the handler's end. -/
def pendingTraps (n : Fin 16) (s : State) : State :=
  let c := s.core n
  match c.aovTrap with
  | some (pc, own) =>
    if c.inHandler && !own then s
    else
      let s1 := s.onCore n fun c => { c with aovTrap := none, exec := if own then .handler else c.exec }
      takeTrap n 1 pc c.pc s1
  | none =>
    if c.xfTrap && (c.exec == .task || c.exec == .init) then
      takeTrap n 5 c.pc c.pc (s.onCore n fun c => { c with xfTrap := false })
    else s

/-- Between two bundles of INIT or the task an enabled pending interrupt starts IRQ_ENTRY in the shadow bank; what a bundle
has issued in part does not take effect. An image without IRQ_ENTRY takes none (R307; DEDUCED, log 25). -/
def takeIrq (n : Fin 16) (s : State) : State :=
  let c := s.core n
  if (c.exec == .task || c.exec == .init) && c.irqEn &&& c.irqPend &&& 0x3E != 0 && c.image.irqEntry != 0xFFFF then
    (s.bump (0x10 + n.val) 5).onCore n fun c =>
      ({ c with flight := c.flight.filter fun f => f.issued != c.cycle }).enter (c.image.irqEntry.truncate 12) c.pc false
  else s

/-- A bundle boundary: pending traps first, then interrupts (R307). -/
def bundleEdge (n : Fin 16) (s : State) : State := takeIrq n (pendingTraps n s)

/-- The bundle has issued; `next` is the bundle to issue after it. Results that are due land (R295). -/
def closeBundle (n : Fin 16) (next : BitVec 12) (s : State) : State :=
  bundleEdge n (landDue n (s.onCore n fun c => { c with pc := next, cycle := c.cycle + 1 }))

/-- The bundle issues from 0xFFF and closes no loop (R335). -/
def Core.runsOff (c : Core) : Bool :=
  c.pc == 0xFFF && (c.inHandler || match c.loops with
    | [] => true
    | l :: _ => l.last != c.pc)

/-- The bundle closes without a branch. A loop that ends at 0xFFF has no bundle to continue at (R335, R337). -/
def closePlain (n : Fin 16) (s : State) : State :=
  let r := (s.core n).advance
  let s1 := s.onCore n fun _ => r.1
  match r.2 with
  | some next => closeBundle n next s1
  | none => trapHere n 4 (closeBundle n (s.core n).pc s1)

/-- A MAC or move slot: nothing while the core issues none; ILLEGAL by its `form` (R319, R320); nothing in a stage that is
predicated off (R338); ILLEGAL by the values it meets, unless `ok`; else its operation. -/
def slotOp (n : Fin 16) (stg : Nat) (form : Bool) (ok : Core → Bool) (body : Core → State → State) (s : State) : State :=
  let c := s.core n
  if !s.issuing n then s
  else if !(form && c.stageOk stg) then trapHere n 3 s
  else if !c.stageOn stg then s
  else if !ok c then trapHere n 3 s
  else body c s

/-- An ALU slot that is no branch: its operation, then the bundle closes. -/
def aluOp (n : Fin 16) (w : BitVec 32) (ok : Core → Bool) (body : Core → State → State) (s : State) : State :=
  let c := s.core n
  if !s.issuing n then s
  else if !(ok c && c.stageOk (aluStg w)) then trapHere n 3 s
  else if c.runsOff then trapHere n 4 s
  else if !c.stageOn (aluStg w) then closePlain n s
  else closePlain n (body c s)

/-- A control operation (R335-R339): not in the last bundle of a body; `act` answers the state after the bundle. -/
def controlOp (n : Fin 16) (w : BitVec 32) (ok : Core → Bool) (leaves : Core → Bool) (act : Core → State → State)
    (s : State) : State :=
  let c := s.core n
  let last := !c.inHandler && match c.loops with
    | [] => false
    | l :: _ => l.last == c.pc
  if !s.issuing n then s
  else if last || !(ok c && c.stageOk (aluStg w)) then trapHere n 3 s
  else if c.runsOff && !leaves c then trapHere n 4 s
  else if !c.stageOn (aluStg w) then closePlain n s
  else act c s

/-- A result in every lane, with its latency and slot rank. -/
def writeX (n : Fin 16) (r : Fin 64) (d order : Nat) (v : Lanes) (s : State) : State :=
  s.onCore n fun c => c.issue d order (c.destX r) (.lanes v)

end Sys2Proof.Machine
end

