-- ==== Sys2Proof/Machine/Alu.lean ====
section
/-! DEFINITION. The ALU slot's lane operations, extraction, block exponent and search (R327-R331). -/

namespace Sys2Proof.Machine

open Sys2Proof

/-- An ALU operation with a result in XD, latency 1 (R328). -/
def aluX (n : Fin 16) (w : BitVec 32) (ok : Bool) (val : Core → Lanes) (s : State) : Result :=
  .next (aluOp n w (fun _ => ok) (fun c s => writeX n (aluXd w) 1 1 (val c) s) s)

/-- A lane-wise operation on XS1 and XS2. -/
def aluZip (n : Fin 16) (w : BitVec 32) (f : Word → Word → Word) (s : State) : Result :=
  aluX n w true (fun c => zipLanes f (c.getX (aluXs1 w)) (c.getX (aluXs2 w))) s

/-- A lane-wise operation on XS1. -/
def aluMap (n : Fin 16) (w : BitVec 32) (ok : Bool) (f : Word → Word) (s : State) : Result :=
  aluX n w ok (fun c => mapLanes f (c.getX (aluXs1 w))) s

/-- An ALU operation on the core's own registers, visible to the next bundle. -/
def aluReg (n : Fin 16) (w : BitVec 32) (g : Core → Core) (s : State) : Result :=
  .next (aluOp n w (fun _ => true) (fun _ s => s.onCore n g) s)

/-- The shift form: bit 5 of AUX is reserved; the count is 0 to 31 (R327). -/
def shiftOk (w : BitVec 32) : Bool := bits w 5 5 == 0
def shiftCount (w : BitVec 32) : Nat := bits w 4 0

/-- A search over the lanes of XS1 (R331). -/
def aluSearch (n : Fin 16) (w : BitVec 32) (better : Word → Word → Bool) (key : Word → Word) (s : State) : Result :=
  aluReg n w (fun c =>
    let r := searchGo better key (c.getX (aluXs1 w)).toList (c.getX (aluXs2 w))[0] 0 c.bv c.bi
    { c with bv := r.1, bi := r.2 }) s

/-- NOP: no result (R328). -/
def execAluNop (n : Fin 16) (w : BitVec 32) (s : State) : Result :=
  .next (aluOp n w (fun _ => true) (fun _ s => s) s)
/-- ADD: wrapping sum (R328). -/
def execAdd (n : Fin 16) (w : BitVec 32) (s : State) : Result :=
  aluZip n w (fun a b => a + b) s
/-- ADDS: saturating sum (R328). -/
def execAdds (n : Fin 16) (w : BitVec 32) (s : State) : Result :=
  aluZip n w (fun a b => satWord (a.toInt + b.toInt)) s
/-- SUB: wrapping difference (R328). -/
def execSub (n : Fin 16) (w : BitVec 32) (s : State) : Result :=
  aluZip n w (fun a b => a - b) s
/-- SUBS: saturating difference (R328). -/
def execSubs (n : Fin 16) (w : BitVec 32) (s : State) : Result :=
  aluZip n w (fun a b => satWord (a.toInt - b.toInt)) s
/-- AND: bitwise (R328). -/
def execAnd (n : Fin 16) (w : BitVec 32) (s : State) : Result :=
  aluZip n w (fun a b => a &&& b) s
/-- OR: bitwise (R328). -/
def execOr (n : Fin 16) (w : BitVec 32) (s : State) : Result :=
  aluZip n w (fun a b => a ||| b) s
/-- XOR: bitwise (R328). -/
def execXor (n : Fin 16) (w : BitVec 32) (s : State) : Result :=
  aluZip n w (fun a b => a ^^^ b) s
/-- SHL: shift left, zero fill (R328). -/
def execShl (n : Fin 16) (w : BitVec 32) (s : State) : Result :=
  aluMap n w (shiftOk w) (fun a => a <<< shiftCount w) s
/-- SHRA: shift right, sign fill (R328). -/
def execShra (n : Fin 16) (w : BitVec 32) (s : State) : Result :=
  aluMap n w (shiftOk w) (fun a => a.sshiftRight (shiftCount w)) s
/-- SHRL: shift right, zero fill (R328). -/
def execShrl (n : Fin 16) (w : BitVec 32) (s : State) : Result :=
  aluMap n w (shiftOk w) (fun a => a >>> shiftCount w) s
/-- SHLS: saturating shift left (R328). -/
def execShls (n : Fin 16) (w : BitVec 32) (s : State) : Result :=
  aluMap n w (shiftOk w) (fun a => satWord (a.toInt * 2 ^ shiftCount w)) s
/-- MIN: signed minimum (R328). -/
def execMin (n : Fin 16) (w : BitVec 32) (s : State) : Result :=
  aluZip n w (fun a b => if a.toInt ≤ b.toInt then a else b) s
/-- MAX: signed maximum (R328). -/
def execMax (n : Fin 16) (w : BitVec 32) (s : State) : Result :=
  aluZip n w (fun a b => if a.toInt ≤ b.toInt then b else a) s
/-- ABS: saturating magnitude (R328). -/
def execAbs (n : Fin 16) (w : BitVec 32) (s : State) : Result :=
  aluMap n w true absWord s
/-- NEG: saturating negation (R328). -/
def execNeg (n : Fin 16) (w : BitVec 32) (s : State) : Result :=
  aluMap n w true (fun a => satWord (-a.toInt)) s
/-- MOV: XS1 (R328). -/
def execMov (n : Fin 16) (w : BitVec 32) (s : State) : Result :=
  aluMap n w true (fun a => a) s
/-- BCAST: lane AUX[2:0] of XS1 in every lane (R328). -/
def execBcast (n : Fin 16) (w : BitVec 32) (s : State) : Result :=
  aluX n w (bits w 5 3 == 0) (fun c => splat (c.getX (aluXs1 w))[Fin.ofNat 8 (bits w 2 0)]) s
/-- LDIL: IMM18 sign-extended in every lane (R328). -/
def execLdil (n : Fin 16) (w : BitVec 32) (s : State) : Result :=
  aluX n w true (fun _ => splat (wrapWord (aluImm18 w))) s
/-- LDIH: bits [31:18] of XD replaced by IMM14 (R328). -/
def execLdih (n : Fin 16) (w : BitVec 32) (s : State) : Result :=
  aluX n w (bits w 17 14 == 0)
    (fun c => mapLanes (fun a => (a &&& 0x3FFFF) ||| BitVec.ofNat 32 (aluImm14 w * 2 ^ 18)) (c.getX (aluXd w))) s
/-- CMPLT: −1 where XS1 < XS2, signed, else 0 (R328). -/
def execCmplt (n : Fin 16) (w : BitVec 32) (s : State) : Result :=
  aluZip n w (fun a b => if a.toInt < b.toInt then 0xFFFFFFFF else 0) s
/-- CMPEQ: −1 where XS1 = XS2, else 0 (R328). -/
def execCmpeq (n : Fin 16) (w : BitVec 32) (s : State) : Result :=
  aluZip n w (fun a b => if a = b then 0xFFFFFFFF else 0) s
/-- EXT: extraction with shift SH (R329). -/
def execExt (n : Fin 16) (w : BitVec 32) (s : State) : Result :=
  aluX n w (bits w 17 12 == 0 && bits w 0 0 == 0)
    (fun c => mapLanes (extWord (aluRnd w) (aluSh w)) (c.getA (aluAsrc w))) s
/-- EXTE: extraction with the block exponent E (R329). -/
def execExte (n : Fin 16) (w : BitVec 32) (s : State) : Result :=
  aluX n w (bits w 17 12 == 0 && bits w 0 0 == 0 && bits w 11 6 == 0)
    (fun c => mapLanes (extWord (aluRnd w) c.e.toInt) (c.getA (aluAsrc w))) s
/-- EXPA: the largest shift that does not saturate (R330). -/
def execExpa (n : Fin 16) (w : BitVec 32) (s : State) : Result :=
  aluX n w (bits w 17 12 == 0 && bits w 0 0 == 0)
    (fun c => mapLanes (fun a => wrapWord (expaLane a)) (c.getA (aluAsrc w))) s
/-- SETE: E receives lane 0 of XS1, clamped (R328). -/
def execSete (n : Fin 16) (w : BitVec 32) (s : State) : Result :=
  aluReg n w (fun c => { c with e := BitVec.ofInt 8 (clampE (c.getX (aluXs1 w))[0]) }) s
/-- MINE: E receives the minimum of E and the clamped lanes (R328). -/
def execMine (n : Fin 16) (w : BitVec 32) (s : State) : Result :=
  aluReg n w (fun c => { c with
    e := BitVec.ofInt 8 ((c.getX (aluXs1 w)).toList.foldl (fun m x => min m (clampE x)) c.e.toInt) }) s
/-- GETE: E sign-extended in every lane (R328). -/
def execGete (n : Fin 16) (w : BitVec 32) (s : State) : Result :=
  aluX n w true (fun c => splat (c.e.signExtend 32)) s
/-- SINIT: BV receives lane 0 of XS1, BI 0xFFFF_FFFF (R331). -/
def execSinit (n : Fin 16) (w : BitVec 32) (s : State) : Result :=
  aluReg n w (fun c => { c with bv := (c.getX (aluXs1 w))[0], bi := 0xFFFFFFFF }) s
/-- SMAX: search for the maximum (R331). -/
def execSmax (n : Fin 16) (w : BitVec 32) (s : State) : Result :=
  aluSearch n w (fun x b => decide (b.toInt < x.toInt)) (fun x => x) s
/-- SMIN: search for the minimum (R331). -/
def execSmin (n : Fin 16) (w : BitVec 32) (s : State) : Result :=
  aluSearch n w (fun x b => decide (x.toInt < b.toInt)) (fun x => x) s
/-- SMAXA: search for the maximum magnitude (R331). -/
def execSmaxa (n : Fin 16) (w : BitVec 32) (s : State) : Result :=
  aluSearch n w (fun x b => decide (b.toInt < x.toInt)) absWord s
/-- GETBV: BV in every lane (R331). -/
def execGetbv (n : Fin 16) (w : BitVec 32) (s : State) : Result :=
  aluX n w true (fun c => splat c.bv) s
/-- GETBI: BI in every lane (R331). -/
def execGetbi (n : Fin 16) (w : BitVec 32) (s : State) : Result :=
  aluX n w true (fun c => splat c.bi) s
/-- GETAOV: AOV in lane 0, zeros elsewhere (R328). -/
def execGetaov (n : Fin 16) (w : BitVec 32) (s : State) : Result :=
  aluX n w true (fun c => lane0 (c.aov.zeroExtend 32)) s
/-- CLRAOV: clears AOV; over a flag set in the cycle of its result it prevails, as the later-issued one (R297, R325). -/
def execClraov (n : Fin 16) (w : BitVec 32) (s : State) : Result :=
  .next (aluOp n w (fun _ => true) (fun _ s => s.onCore n (·.issue 1 1 .aov (.reg 0))) s)

end Sys2Proof.Machine
end

