-- ==== Sys2Proof/Machine/Params.lean ====
section
/-! DEFINITION. The parameters of every function: what a write may hold, what a read returns, what a write does
(R128, R194, R227, R243, R260, R276, R285, R315, R363, R387, R413, R439). -/

namespace Sys2Proof.Machine

open Sys2Proof

/-- A parameter: its range, read as a signed number when `sgn`, or read-only, or write-only (reads 0). -/
structure PSpec where
  lo : Int
  hi : Int
  sgn : Bool := false
  dflt : Nat := 0
  readOnly : Bool := false
  writeOnly : Bool := false
  deriving DecidableEq, Repr

def uns (lo hi dflt : Nat) : PSpec := { lo, hi, dflt }
/-- A signed range; `dflt` as a 32-bit word. -/
def sgd (lo hi : Int) (dflt : Nat) : PSpec := { lo, hi, sgn := true, dflt }
def anyWord : PSpec := uns 0 0xFFFFFFFF 0
def ro : PSpec := { lo := 0, hi := 0, readOnly := true }

def fadeSpec : PSpec := uns 1 1000 10

/-- SERVICE (R128). -/
def svcSpec (i : Nat) : Option PSpec :=
  if i = 1 then some (uns 0 1 0) else if i = 2 then some (uns 1 0xFFFE 0) else if i = 3 then some (uns 0x600 0xFFFF 0x88B5)
  else if i = 4 then some (uns 0 0xFFFFFFFF 0x41000001) else if i = 5 then some (uns 0 0xFFFF 0x7D0)
  else if i = 6 then some (uns 1 1000 50) else if i = 0x10 then some anyWord else if i = 0x11 then some (uns 0 32 24)
  else if 0x12 ≤ i ∧ i ≤ 0x15 then some anyWord
  else if i = 0x20 then some { lo := 0, hi := 0x103, writeOnly := true }
  else if i = 0x30 then some { lo := 0xD041, hi := 0xD041, writeOnly := true }
  else if i = 0x40 then some (uns 0 3600 0)
  else none
/-- Bounds that are no interval: GROUP_MAC_HI has bit 8 set, KEY_REVOKE bits [7:2] clear, the unicast addresses. -/
def svcValueOk (i : Nat) (v : Word) : Bool :=
  if i = 5 then bit v 8 else if i = 0x20 then bits v 7 2 == 0
  else if i = 0x10 then bits v 31 28 != 14 && v != 0xFFFFFFFF
  else if i = 0x12 then bits v 31 24 != 255
  else true

def pathSpec (i : Nat) : Option PSpec :=
  if i = 1 ∨ i = 2 ∨ i = 3 ∨ i = 6 then some (uns 0 1 1) else if i = 4 then some (uns 0 65535 16)
  else if i = 5 then some (uns 1 65535 4800) else if i = 7 then some (uns 1 65535 64) else none

def timeSpec (i : Nat) : Option PSpec :=
  let d := timeParamDefault i
  if i = 1 then some (uns 0 0x15 0) else if 2 ≤ i ∧ i ≤ 6 then some (uns 0 7 d)
  else if i = 8 then some (uns 100 60000 d) else if i = 9 ∨ i = 10 then some (uns 1 500 d)
  else if i = 11 then some (uns 1 15 d) else if i = 12 then some (uns 5 500 d) else if i = 13 then some (uns 50 5000 d)
  else if i = 14 then some (uns 1 500 d) else if i = 15 then some (uns 50 100000 d) else if i = 16 then some (uns 0 1 0)
  else if i = 17 then some (uns 1 1000 d) else if i = 18 then some { lo := 0, hi := 0xFFFFFFFF, writeOnly := true }
  else if i = 19 then some (uns 0 1 0) else if i = 20 ∨ i = 21 then some (sgd (-40000) 40000 0)
  else if i = 22 then some (uns 10 1000 d) else none

def genSpec (s : State) (p : Nat) : Option PSpec :=
  if p = 1 then some (uns 0 4 0) else if p = 2 then some (uns 100 (45 * s.fsHz) 100000)
  else if p = 3 then some (sgd (-1200) 0 0xFFFFFF38) else if p = 4 then some (uns 1 1048576 48000)
  else if p = 5 then some (uns 1 0xFFFFFFFF 1) else none

/-- The crosspoint of a LOVAGE parameter index (R260); bit 22 is reserved. -/
def xpIndex (i : Nat) : Option Nat := if 0x800000 ≤ i ∧ i < 0xC00000 then some (i - 0x800000) else none

def lovSpec (s : State) (i : Nat) : Option PSpec :=
  if i = 1 then some fadeSpec
  else if 0x010000 ≤ i ∧ i < 0x011000 then genSpec s (i % 256)
  else match xpIndex i with
    | some k => if (1656 ≤ k / 2048) || (1668 ≤ k % 2048) then none else some (uns 0 0x07FFFFFF 0)
    | none => none

def decSpec (p : Nat) : Option PSpec :=
  if p = 1 then some (uns 0 10000 500) else if p = 2 then some (uns 1 1000 20) else if p = 3 then some (uns 1 10000 300)
  else if p = 4 then some (uns 1 10000 10) else if p = 5 then some (uns 1 100000 1000) else if p = 6 then some (uns 0 1 0)
  else if 0x10 ≤ p ∧ p ≤ 0x12 then some ro else none

def sageSpec (p : Nat) : Option PSpec :=
  let d := sageDefault p
  if p = 1 then some (uns 500 3000 d) else if p = 2 then some (uns 10 500 d) else if p = 3 then some (uns 0 500 d)
  else if p = 4 then some (uns 0 10000 d) else if p = 5 then some (uns 10 10000 d) else if p = 6 then some (uns 100 60000 d)
  else if p = 7 then some (sgd (-400) 0x7FFF d) else if p = 8 then some (uns 1 256 d) else if p = 9 then some (uns 500 20000 d)
  else if p = 10 ∨ p = 13 then some (uns 0 1 d) else if p = 11 ∨ p = 12 then some (uns 0 1000000 d)
  else if p = 14 then some (uns 0 255 d) else if p = 15 then some (uns 10 10000 d) else if p = 16 then some (uns 1 3600 d)
  else if 0x20 ≤ p ∧ p ≤ 0x22 then some ro else none

def memSpec (i : Nat) : Option PSpec :=
  let d := memDefault i
  if i = 1 then some (uns 0 1 0) else if 2 ≤ i ∧ i ≤ 5 then some (uns 100 100000 d) else if i = 6 then some (uns 1 16 d)
  else if i = 7 then some (uns 1024 65535 d) else if i = 8 then some (uns 100 10000 d) else if i = 9 then some (uns 0 1000000 0)
  else if i = 10 then some (uns 0 65535 0)
  else if 0x010000 ≤ i ∧ i < 0x0100D0 ∧ i % 16 < 10 then
    (let m := Fin.ofNat 13 ((i - 0x010000) / 16)
     if reaches m (Fin.ofNat 10 (i % 16)) then some (uns 0 15 (prioDefault m)) else none)
  else none

/-- The parameter of an index, or none for an unknown one. -/
def paramSpec (s : State) (f : Func) (i : Nat) : Option PSpec :=
  match f with
  | .pathA => pathSpec i
  | .pathB => pathSpec i
  | .streamRx =>
    if i / 256 < s.rxCount then
      (if i % 256 = 1 then some (uns 0 1 1) else if i % 256 = 2 then some (uns 1 4800 (s.rxFld (i / 256) 6 2)) else none)
    else none
  | .streamTx => if i / 256 < s.txCount ∧ i % 256 = 1 then some (uns 0 1 1) else none
  | .timekeeper => timeSpec i
  | .lovage => lovSpec s i
  | .capture => if i = 1 then some fadeSpec else none
  | .decim =>
    if i = 1 then some fadeSpec else if 0x010000 ≤ i ∧ i < 0x012800 then decSpec (i % 256) else none
  | .pdm => if i = 1 then some fadeSpec else none
  | .tdm0 => if i = 1 then some fadeSpec else if i = 2 then some (uns 8 4096 64) else none
  | .tdm1 => if i = 1 then some fadeSpec else if i = 2 then some (uns 8 4096 64) else none
  | .service => svcSpec i
  | .memctl => memSpec i
  | .sc n =>
    if i = 1 then some fadeSpec
    else if 0x100000 ≤ i ∧ i < 0x100000 + (s.core n).image.paramCount then some anyWord else none
  | .pch c =>
    if i = 1 then some fadeSpec else if i = 2 then some (uns 0 (s.levelMax c) 0)
    else if i = 3 then some (sgd (-1000) 0 0) else if i = 4 then some (uns 0 0xFF 0xFF) else if i = 5 then some (uns 0 15 0)
    else none
  | .sage => if 0x010000 ≤ i ∧ i < 0x010400 then sageSpec (i % 256) else none

/-- The non-interval bounds of a value. -/
def valueOk (f : Func) (i : Nat) (v : Word) : Bool :=
  match f with
  | .service => svcValueOk i v
  | .timekeeper =>
    (i != 1 || v == 0 || 0x10 ≤ v.toNat) && (i != 18 || bit v 31 || decide ((sbits v 30 0).natAbs ≤ 400))
  | .sage => i % 256 != 7 || decide (v.toInt ≤ 1000) || v == 0x7FFF
  | .pch _ => i != 4 || v.toNat < 0x28 || v == 0xFF
  | _ => true

/-- R258: a crosspoint outside the network range of TIME_CTRL.FS takes only gain 0. -/
def xpRangeOk (s : State) (k : Nat) (gain : BitVec 24) : Bool :=
  let out := fun i : Nat => decide (512 ≤ i ∧ i < 1024)
  !s.ctrlFast || gain == 0 || !(out (k / 2048) || out (k % 2048))

/-- A crosspoint absent on this variant (R3). -/
def State.xpAbsent (s : State) (k : Nat) : Bool :=
  s.chip.variant == .l && ((1568 ≤ k / 2048 && k / 2048 < 1576) || (1536 ≤ k % 2048 && k % 2048 < 1540))

/-- The checks of one entry but for the state: ID, range, presence (R109, R250). -/
def paramCheck (s : State) (pid : Nat) (v : Word) : Byte :=
  match Func.ofId (BitVec.ofNat 8 (pid / 2 ^ 24)) with
  | none => stBadDesc
  | some f =>
    let i := pid % 2 ^ 24
    if s.absent f then stAbsent
    else match paramSpec s f i with
      | none => stBadDesc
      | some p =>
        let x : Int := if p.sgn then v.toInt else v.toNat
        if p.readOnly || decide (x < p.lo ∨ p.hi < x) || !valueOk f i v then stBadDesc
        else match f, xpIndex i with
          | .lovage, some k => if !xpRangeOk s k (v.truncate 24) then stBadDesc else if s.xpAbsent k then stAbsent else stOk
          | _, _ => stOk

/-- The function of a parameter ID. -/
def pidFunc (pid : Nat) : Func := (Func.ofId (BitVec.ofNat 8 (pid / 2 ^ 24))).getD .service

/-! Reading (R109, R260, R278, R352, R363, R384, R413). -/

/-- A temperature of the coil model in 0.01 degC. -/
def centi (t : Int) : Word := wrapWord (divOpen (t * 100) (2 ^ 48))

/-- The value of a parameter; 0 for one that only a write reaches, and for the word of a core's image. -/
def paramValue (s : State) (f : Func) (i : Nat) : Word :=
  let plain := match paramSpec s f i with
    | some p => if p.writeOnly then 0 else BitVec.ofNat 32 (s.param f i p.dflt)
    | none => 0
  match f with
  | .service => if i = 0x40 then BitVec.ofNat 32 ((s.svc.identify + secondUnits - 1) / secondUnits) else plain
  | .lovage => match xpIndex i with
    | some k =>
      let x := s.xp k
      (BitVec.ofInt 24 (x.now)).zeroExtend 32 ||| (BitVec.zeroExtend 32 x.rampIdx <<< 24)
    | none => plain
  | .decim =>
    let d := s.dec (Fin.ofNat 40 ((i - 0x010000) / 256))
    if i < 0x010000 then plain
    else if i % 256 = 0x10 then d.peak else if i % 256 = 0x11 then BitVec.ofNat 32 (isqrt (d.q / 2 ^ 64))
    else if i % 256 = 0x12 then d.env else plain
  | .sc n =>
    if 0x100000 ≤ i then
      (match s.life.params.get? (pidOf f i) with
       | some v => v
       | none => BitVec.ofNat 32 (ofLe (s.read (dyBase n + (s.core n).image.paramBase.toNat + 4 * (i - 0x100000)) 4)))
    else plain
  | .pch c =>
    if i = 4 then (s.pch c).chiveSrc.zeroExtend 32 else if i = 5 then (s.pch c).chiveGain.zeroExtend 32 else plain
  | .sage =>
    let c := Fin.ofNat 4 ((i - 0x010000) / 256)
    if i % 256 = 0x20 then centi (s.pch c).tc else if i % 256 = 0x21 then centi (s.pch c).tm
    else if i % 256 = 0x22 then BitVec.ofNat 32 (s.pch c).rEst else plain
  | _ => plain

/-! What a write does at its boundary (R14, R74). -/

/-- A key slot revoked (R137). -/
def revokeSlot (v : Word) (s : State) : State :=
  let b := BitVec.ofNat 4 (2 ^ bits v 1 0)
  if bit v 8 then s.onSvc fun x => { x with imageRevoked := x.imageRevoked ||| b }
  else s.onSvc fun x => { x with noardRevoked := x.noardRevoked ||| b }

/-- SERVICE's parameters with a behaviour of their own; every one but the two commands and IDENTIFY is persisted (R128,
R165). -/
def serviceWrite (i : Nat) (v : Word) (at_ : Fin 32 × Word) (s : State) : State :=
  if i = 0x20 then revokeSlot v s
  else if i = 0x30 then
    s.onChip fun c => { c with noardReset := some at_ }
  else if i = 0x40 then 
    let lit := fun (r : PortSt) => { r with ledLit := true }
    ((s.onPort .a lit).onPort .b lit).onSvc fun x => { x with identify := v.toNat * secondUnits }
  else
    let old := s.nodeId
    let s1 := (s.setParam (pidOf .service i) v).onLife fun l => { l with live := l.live.put i v }
    if i = 2 then s1.onPath fun x => { x with prevNode := some old }
    else if i = 0x10 ∧ v.toNat ≠ s.svcParam 0x10 then gratuitousArp .b (gratuitousArp .a s1)
    else s1

/-- A phase step: the output's phase and the servo's phase target move together, so that what is left between the output and
each reference stays as it is (R220). -/
def phaseStep (v : Word) (s : State) : State :=
  let a : Int := sbits v 30 0
  let s1 := s.onTime fun t => { t with phaseOfs := t.phaseOfs + a }
  if s1.fsHz * a.natAbs < 4000000000 then s1 else counterLoad (s1.tickMoved s1.now a) s1

/-- The write takes effect. `at_`: the ring and the position of the descriptor it belongs to. -/
def applyParam (pid : Nat) (v : Word) (at_ : Fin 32 × Word) (s : State) : State :=
  let f := pidFunc pid
  let i := pid % 2 ^ 24
  let work := (s.life? f).busy
  let put := s.setParam pid v
  match f with
  | .service => serviceWrite i v at_ s
  | .timekeeper => if i = 18 then phaseStep v s else put
  | .lovage => match xpIndex i with
    | some k =>
      let idx : BitVec 3 := v.extractLsb' 24 3
      writeXp k (v.truncate 24) idx (if work then s.rampTicks idx.toNat else 0) s
    | none =>
      if i < 0x010000 then put
      else
        let g := Fin.ofNat 16 ((i - 0x010000) / 256)
        let p := i % 256
        let leaves := p == 1 && s.genMode g == 4 && v != 4
        let s1 := if leaves then
            forAll (put.life.jobs.filter (·.plays g.val)) (fun j s => s.endJob j stAborted j.done false) put
          else put
        if work then genTouch g p (s.genLevel g) v s1
        else s1.onGen g fun x => { x with rst := x.rst || p == 5 || (p == 1 && v == 2) }
  | .sc n =>
    if 0x100000 ≤ i then
      put.onCore n fun c => { c with dirty := (c.dirty.filter fun e => e.1 != i - 0x100000) ++ [(i - 0x100000, v)] }
    else put
  | .pch c => if i = 2 ∨ i = 3 then levelRamp c put else if i = 4 ∨ i = 5 then chiveTouch c put else put
  | _ => put

/-! Budget of crosspoint writes (R264, R270). -/

/-- Units that the writes of `l` (key, gain, ticks of ramp) make active, and active ones set to 0 at once. -/
def xpUnits (s : State) (reserved : Nat → Bool) (l : List (Nat × BitVec 24 × Nat)) : Nat × Nat :=
  let last := l.foldl (fun (m : Store (BitVec 24 × Nat)) e => m.put e.1 (e.2.1, e.2.2)) []
  ((last.countP fun e => e.2.1 != 0 && !(s.xp e.1).active && !reserved e.1),
   last.countP fun e => e.2.1 == 0 && e.2.2 == 0 && (s.xp e.1).active)

/-- Crosspoints that a waiting write or action makes active. -/
def State.reservedKeys (s : State) : List Nat :=
  (s.life.writes.filterMap fun w => if w.units = 0 then none else xpIndex (w.pid.toNat % 2 ^ 24))
  ++ s.life.acts.filterMap fun a => if a.reserved then xpIndex (a.pid.toNat % 2 ^ 24) else none

/-- E, and whether A + R + E - C stays in the budget (R270). -/
def xpBudget (s : State) (l : List (Nat × BitVec 24 × Nat)) : Nat × Bool :=
  let keys := s.reservedKeys
  let (e, c) := xpUnits s (fun k => keys.contains k) l
  (e, decide (s.lovActive + s.lovReserved + e ≤ s.lovBudget + c))

/-- A crosspoint write as the budget sees it: K of R266, 0 while LOVAGE is not at work. -/
def xpWrite (s : State) (pid : Nat) (v : Word) : Option (Nat × BitVec 24 × Nat) :=
  if pidFunc pid = .lovage then
    (xpIndex (pid % 2 ^ 24)).map fun k =>
      (k, v.truncate 24, if (s.life? .lovage).busy then s.rampTicks (bits v 26 24) else 0)
  else none

end Sys2Proof.Machine
end

