-- ==== Sys2Proof/Machine/Blocks.lean ====
section
/-! DEFINITION. The configuration blocks: what each must hold to be accepted (R78, R226, R235, R236, R244, R245,
R279, R284, R313, R346, R353, R360-R362, R386, R412), and what FUNC_START asks of a function (R75, R78, R79). -/

namespace Sys2Proof.Machine

open Sys2Proof

/-- Bytes `off … off+len-1` are zero. -/
def zeros (l : List Byte) (off len : Nat) : Bool := leAt l off len == 0
/-- A field of a byte range, in bounds. -/
def within (l : List Byte) (off len lo hi : Nat) : Bool := lo ≤ leAt l off len && leAt l off len ≤ hi
/-- A signed byte in bounds. -/
def within8 (l : List Byte) (off : Nat) (lo hi : Int) : Bool :=
  let x := (BitVec.ofNat 8 (leAt l off 1)).toInt
  decide (lo ≤ x ∧ x ≤ hi)

/-- Ranges (first, count) that do not overlap. -/
def disjoint : List (Nat × Nat) → Bool
  | [] => true
  | (a, n) :: r => r.all (fun e => decide (a + n ≤ e.1 ∨ e.1 + e.2 ≤ a)) && disjoint r

/-- IPV4_ADDR, and IPV6_ADDR as one number (R128). -/
def State.ipv4 (s : State) : Nat := s.svcParam 0x10
def State.ipv6 (s : State) : Nat :=
  ((s.svcParam 0x12 * 2 ^ 32 + s.svcParam 0x13) * 2 ^ 32 + s.svcParam 0x14) * 2 ^ 32 + s.svcParam 0x15

/-- Entry k of a stream block. -/
def entryOf (l : List Byte) (k : Nat) : List Byte := (l.drop (16 + 64 * k)).take 64
def beAt (l : List Byte) (off len : Nat) : Nat := ofBe ((l.drop off).take len)

/-- The destination address of an entry on a path: offset, and its value. -/
def dstOf (e : List Byte) (base : Nat) (p : Port) (aes v6 : Bool) : Nat :=
  let off := base + 16 * pathIx p
  if aes then (if v6 then beAt e off 16 else beAt e off 4) else beAt e off 6
def multicast (v6 : Bool) (a : Nat) : Bool := if v6 then v6Multicast a else v4Multicast a

/-! STREAM_RX (R235, R236). -/

def rxEntryOk (s : State) (e : List Byte) : Bool :=
  let fmt := leAt e 0 1
  let aes := decide (fmt < 2)
  let v6 := leAt e 8 1 % 2 == 1
  let ssm := leAt e 8 1 / 2 % 2 == 1
  let dst := fun p => dstOf e 16 p aes v6
  fmt ≤ 6 && leAt e 8 1 < 4 && zeros e 9 1 && within e 1 1 1 64 && within e 4 2 1 4096 && within e 6 2 1 4800
  && decide (leAt e 2 2 + leAt e 1 1 ≤ s.netN)
  && (if aes then (v6 || (zeros e 20 12 && zeros e 36 12))
        && (if ssm then v6 || zeros e 52 12 else zeros e 48 16)
        && [Port.a, .b].all fun p => !s.isFed p || multicast v6 (dst p)
            || (dst p != 0 && dst p == (if v6 then s.ipv6 else s.ipv4))
      else zeros e 12 4 && zeros e 22 2 && zeros e 38 2 && zeros e 48 16)
  && (s.topo != 0 || zeros e (if s.fed == .a then 32 else 16) 16)
  && (s.topo != 1 || leAt e 16 16 == leAt e 32 16)

/-- Groups a block needs on one port. -/
def rxGroups (l : List Byte) (p : Port) : Nat :=
  let g := (List.range (leAt l 1 1)).filterMap fun k =>
    let e := entryOf l k
    let aes := decide (leAt e 0 1 < 2)
    let v6 := leAt e 8 1 % 2 == 1
    let d := dstOf e 16 p aes v6
    if (if aes then multicast v6 d else macGroup d) then some d else none
  g.dedup.length

def rxBlockOk (s : State) (l : List Byte) : Bool :=
  let n := leAt l 1 1
  let es := (List.range n).map (entryOf l)
  let a := leAt l 8 8
  n ≤ 128 && l.length == 16 + 64 * n && zeros l 2 6 && a % 2 ^ 20 == 0 && decide (a + 2 ^ 26 ≤ 0x0180000000)
  && !(s.svc.hostless && decide (0x017E000000 < a + 2 ^ 26))
  && es.all (rxEntryOk s) && disjoint (es.map fun e => (leAt e 2 2, leAt e 1 1))
  && decide ((es.map fun e => leAt e 1 1).sum ≤ s.netN)
  && [Port.a, .b].all fun p => !s.isFed p || decide (rxGroups l p ≤ 128)

/-! STREAM_TX (R244, R245). -/

/-- The frame length of a transmit entry. -/
def txFrameLen (e : List Byte) : Nat :=
  let fmt := leAt e 0 1
  let w := leAt e 1 1 * leAt e 4 1 * sampleBytes fmt
  (if fmt < 2 then (if leAt e 8 1 % 2 = 1 then 78 else 58) else 42) + w + (if leAt e 8 1 / 2 % 2 = 1 then 4 else 0)

def txSends (e : List Byte) (p : Port) : Bool := (leAt e 5 1).testBit (pathIx p)

def txEntryOk (s : State) (e : List Byte) : Bool :=
  let fmt := leAt e 0 1
  let aes := decide (fmt < 2)
  let v6 := leAt e 8 1 % 2 == 1
  let dst := fun p => dstOf e 32 p aes v6
  let ps := [Port.a, .b].filter (txSends e)
  let q := leAt e 6 1
  fmt ≤ 5 && within e 1 1 1 64 && decide (leAt e 2 2 + leAt e 1 1 ≤ s.netN) && within e 4 1 1 64
  && leAt e 5 1 < 4 && leAt e 5 1 != 0 && (q == 0 || (8 ≤ q && q < 16)) && leAt e 7 1 < 64 && leAt e 8 1 < 4
  && leAt e 9 1 < 8 && leAt e 10 2 < 4096 && zeros e 21 3
  && (if aes then within e 20 1 96 127 && zeros e 28 4 && ps.all fun p => multicast v6 (dst p)
      else within e 16 4 0 4096 && zeros e 20 1)
  && (s.topo != 1 || (ps.length == 2 && leAt e 32 16 == leAt e 48 16))
  && (s.topo != 0 || ps.length != 2 || leAt e 32 16 == leAt e 48 16)
  && ps.all fun p => decide (txFrameLen e + (if s.topo = 1 then 6 else 0) ≤ s.maxLen p)

def txBlockOk (s : State) (l : List Byte) : Bool :=
  let n := leAt l 1 1
  let es := (List.range n).map (entryOf l)
  n ≤ 64 && l.length == 16 + 64 * n && zeros l 2 14 && es.all (txEntryOk s)
  && disjoint (es.map fun e => (leAt e 2 2, leAt e 1 1))

/-! The other blocks. -/

/-- TIMEKEEPER (R200, R226). The log intervals of the AES67 media profile have narrower ranges (PRESUMED, log 13: AES67). -/
def timeBlockOk (l : List Byte) : Bool :=
  let prof := leAt l 1 1
  let tr := leAt l 4 1
  l.length == 16 && prof ≤ 3 && within l 2 1 0 127 && within l 3 1 0 127 && tr ≤ 2 && leAt l 5 1 < 16
  && within8 l 8 (-7) 1 && within8 l 9 (-3) 4 && within8 l 10 (-7) 5 && within l 11 1 2 10 && zeros l 12 4
  && (prof != 2 || (tr != 0 && within8 l 8 (-4) 1 && within8 l 9 0 4 && within8 l 10 (-3) 5)) && (prof != 3 || (tr == 0 && zeros l 2 2))

/-- LOVAGE (R284). -/
def lovBlockOk (l : List Byte) : Bool :=
  l.length == 576 && zeros l 1 7 && zeros l 24 40
  && (List.range 8).all (fun i => within l (8 + 2 * i) 2 0 20000)
  && (List.range 2048).all fun j => leAt l (64 + j / 4) 1 / 4 ^ (j % 4) % 4 != 3

/-- DECIM (R346, R361). -/
def decEntryOk (e : List Byte) (high : Bool) : Bool :=
  let m := leAt e 0 1
  zeros e 7 1 &&
  if m = 0 then zeros e 1 6
  else if m = 1 then leAt e 1 1 < 4 && zeros e 2 5
  else if m = 2 then
    zeros e 1 1 && leAt e 2 1 / 8 % 2 == 0 && leAt e 2 1 < 128 && leAt e 3 1 / 4 % 4 == 0 && leAt e 4 1 ≤ 40
    && leAt e 5 1 ≤ 20 && leAt e 6 1 ≤ 8
    && match entryChain e high with
      | some c => c.valid (ratioOf high)
      | none => false
  else false
def decBlockOk (s : State) (l : List Byte) : Bool :=
  l.length == 336 && leAt l 1 1 < 2 && zeros l 2 14
  && (List.range 40).all fun c => decEntryOk ((l.drop (16 + 8 * c)).take 8) (s.ratioHigh c)

/-- A clock whose RATIO a block changes while a custom channel of a DECIM at work takes it (R346). -/
def ratioClash (s : State) (l : List Byte) : Bool :=
  (s.life? .decim).busy && (List.range 32).any fun c =>
    (leAt l 1 1 / 16).testBit (c / 8) != s.pdmRatio128.testBit (c / 8) && leAt (s.decEntry c) 0 1 == 2
def pdmBlockOk (s : State) (l : List Byte) : Bool :=
  l.length == 8 && within l 2 2 1 1000 && zeros l 4 4 && !ratioClash s l

/-- The clock limits of R353 at a rate. -/
def tdmRateOk (l : List Byte) (fs : Nat) : Bool :=
  let mc := leAt l 3 1
  decide (32 * leAt l 2 1 * fs ≤ 49152000) && (mc == 0 || decide (64 * 2 ^ mc * fs ≤ 24576000))
def tdmBlockOk (s : State) (l : List Byte) : Bool :=
  let f := leAt l 1 1
  let n := leAt l 2 1
  l.length == 16 && f < 64 && f % 4 != 3 && (n == 2 || n == 4 || n == 8 || n == 16 || n == 32) && leAt l 3 1 < 4
  && leAt l 4 1 ≤ 2 && zeros l 5 11 && tdmRateOk l s.fsHz

/-- SAGE (R412). -/
def sageEntryOk (e : List Byte) : Bool :=
  let t := (BitVec.ofNat 16 (leAt e 4 2)).toInt
  leAt e 0 1 < 8 && zeros e 1 1 && zeros e 24 8
  && (leAt e 0 1 % 2 == 0 && zeros e 2 22
    || (within e 2 2 100 65535 && decide (-4000 ≤ t ∧ t ≤ 10000) && within e 6 2 1 65535 && within e 8 4 1 10000000
        && within e 12 2 1 65535 && within e 14 2 1 65535 && within e 16 2 10 1999
        && within e 18 2 (leAt e 16 2 + 1) 2000 && within e 20 2 100 1000 && within e 22 2 10 5000))

/-- A block of a function passes validation (R78). -/
def blockOk (s : State) (f : Func) (l : List Byte) : Bool :=
  leAt l 0 1 == 1 && match f with
  | .pathA => false
  | .pathB => false
  | .streamRx => rxBlockOk s l
  | .streamTx => txBlockOk s l
  | .timekeeper => timeBlockOk l
  | .lovage => lovBlockOk l
  | .capture => l.length == 8 && zeros l 1 7
  | .decim => decBlockOk s l
  | .pdm => pdmBlockOk s l
  | .tdm0 => tdmBlockOk s l
  | .tdm1 => tdmBlockOk s l
  | .service => false
  | .memctl => false
  | .sc _ => l.length == 16 && leAt l 1 1 ≤ 6 && leAt l 2 1 < 2 && leAt l 3 1 ≤ 2 && zeros l 4 12
  | .pch _ => l.length == 16 && leAt l 1 1 < 2 && within l 2 2 10 500 && within l 4 1 0 251 && zeros l 5 11
  | .sage => l.length == 144 && zeros l 1 15 && [0, 1, 2, 3].all fun c => sageEntryOk ((l.drop (16 + 32 * c)).take 32)

/-- What accepting a block does beside storing it: new scale modes act at once on their sinks (R273); a changed entry
of SAGE sets its temperatures to T_a (R407). -/
def blockEffect (f : Func) (old new : List Byte) (s : State) : State :=
  match f with
  | .lovage =>
    let js := (s.lov.xp.map fun e => e.1 % 2048).dedup
    forAll js (fun j s => s.onLov fun l => { l with
      scales := l.scales.put j { s := scaleTarget (s.scaleMode j) (s.snkCount j), ramp := none, base := scaleTarget (s.scaleMode j) (s.snkCount j), kMax := 0 } }) s
  | .sage =>
    forAll (allPch.filter fun (c : Fin 4) => leAt new (16 + 32 * c.val) 32 != leAt old (16 + 32 * c.val) 32)
      (fun c s => s.onPch c fun p => { p with tc := s.tAmb c, tm := s.tAmb c }) s
  | .streamRx => s.onStrm fun t => { t with rx := [] }
  | _ => s

/-- A block accepted: in force, and counted (R78, R118). -/
def acceptBlock (f : Func) (l : List Byte) (s : State) : State :=
  let old := match f with
    | .sage => s.sageCfg
    | _ => []
  blockEffect f old l (s.onFunc f fun r => { r with config := some l, configGen := r.configGen + 1 })

/-! FUNC_START (R75, R78, R79). -/

/-- The configuration of a function in force is complete and consistent, and what it depends on holds: OK, or the
status that refuses the start. -/
def startCheck (f : Func) (s : State) : Byte :=
  let bad := fun (b : Bool) => if b then stBadState else stOk
  match f with
  | .pathA => bad (!s.isFed .a || (s.topo == 1 && s.nodeId == 0))
  | .pathB => bad (!s.isFed .b || (s.topo == 1 && s.nodeId == 0))
  | .streamRx =>
    let a := leAt s.rxCfg 8 8
    -- the limits of R231 hold at the Fs in force now (DEDUCED, log 58)
    let tooMany := (List.range s.rxCount).any fun k => decide (s.netN < s.rxFld k 2 2 + s.rxFld k 1 1)
    bad (tooMany || (s.topo == 0 && (List.range s.rxCount).any fun k => !zeros (entryOf s.rxCfg k) (if s.fed == .a then 32 else 16) 16)
      || (s.rxCount != 0 && (s.rankFailed a || s.rankFailed (a + 2 ^ 26 - 1))))
  | .streamTx => bad ((List.range s.txCount).any fun k => decide (s.netN < s.txFld k 2 2 + s.txFld k 1 1))
  | .timekeeper => bad (s.time.ctrl.truncate 2 != s.time.fs && !s.othersIdle)
  | .lovage => if s.lovBudget < s.lovActive + s.lovReserved then stBudget else stOk
  | .pdm => bad (bit s.time.ctrl 1 && (s.pdmClkEn &&& s.pdmRatio128) != 0)
  | .tdm0 => bad ((s.func .tdm0).config.isNone || !tdmRateOk (s.tdmCfg 0) s.fsHz)
  | .tdm1 => bad ((s.func .tdm1).config.isNone || !tdmRateOk (s.tdmCfg 1) s.fsHz)
  | .decim => bad (!(List.range 40).all fun c => decEntryOk (s.decEntry c) (s.ratioHigh c))
  | .sc n =>
    let c := s.core n
    let b := s.scLog2 n
    bad ((s.func (.sc n)).config.isNone || !c.imageOk || decide (b < c.image.minLog ∨ c.image.maxLog < b)
      || decide (s.scBudget n < s.scWcet n))
  | .pch c => bad (!s.running .sage || s.chip.vbus.toInt > 1850 || (s.pch c).dieStop || s.pwr.baseStop)
  | _ => stOk

/-- What the check of a FUNC_START leaves behind, `st` its status: one refused for a core's declared worst case sets
WCET_FAIL, one that passes clears it (R314); LOVAGE counts a refusal for its budget (R271, R286). -/
def noteStart (f : Func) (st : Byte) (s : State) : State :=
  match f with
  | .lovage => if st = stBudget then s.bump 6 2 else s
  | .sc n =>
    let c := s.core n
    if (s.func f).config.isNone || !c.imageOk || decide (s.scLog2 n < c.image.minLog ∨ c.image.maxLog < s.scLog2 n) then s
    else s.onCore n fun c => { c with wcetFail := decide (s.scBudget n < s.scWcet n) }
  | _ => s

end Sys2Proof.Machine
end

