-- ==== Sys2Proof/Machine/DescOps.lean ====
section
/-! DEFINITION. What the descriptor commands share: a function named by a descriptor, sources and results (R10, R99,
R106, R118, R123, R459). -/

namespace Sys2Proof.Machine

open Sys2Proof

abbrev Answer := Host.Outcome State Fault Refusal

/-- The function a descriptor names. -/
def descFunc (d : Desc) : Option Func := Func.ofId (funcByte d)
/-- The function byte names a function (R459). -/
def funcOk (d : Desc) : Bool := (descFunc d).isSome

/-- `serve` for a descriptor that moves data at `addr`: it waits while the transfer would be held (R123, R418). -/
def serveAt (op : Nat) (q : Fin 32) (d : Desc) (form : Bool) (addr : Nat) (body : Word → State → State) (s : State) :
    State :=
  if form && s.busWait addr then s else serve op q d form body s

/-- The bytes of a source: module memory, or what the module's read of host memory brought (R106). -/
def readSource (s : State) (a n : Nat) (h : HostRead) : Except Byte (List Byte) :=
  if isModule a then (if s.srcOk a n then .ok (s.fetch (modAddr a) n) else .error stMemError)
  else match h with
    | .data b => if b.length = n then .ok b else .error stHostError
    | .failed => .error stHostError

/-- A failed read of the host is recorded (R106). -/
def noteRead (a : Nat) (e : Byte) (s : State) : State :=
  if e = stHostError then hostReadFailed (BitVec.ofNat 64 a) s else s

/-- A result written at its address, and the descriptor completed (R118). -/
def finishResult (q : Fin 32) (d : Desc) (idx : Word) (a : Nat) (bytes : List Byte) (done : Nat) (s : State) : State :=
  if s.dstOk a bytes.length then finish q d idx stOk done (s.writeAt (BitVec.ofNat 64 a) bytes)
  else finish q d idx stMemError 0 s

/-- A descriptor whose function exists on this variant, or ABSENT (R2). -/
def onFunction (q : Fin 32) (d : Desc) (idx : Word) (body : Func → State → State) (s : State) : State :=
  match descFunc d with
  | none => finish q d idx stBadDesc 0 s
  | some f => if s.absent f then finish q d idx stAbsent 0 s else body f s

/-- The whole units of a list of records, each `size` bytes, that fit before an address that cannot be written (R105). -/
def unitsThatFit (s : State) (a size n : Nat) : Nat := min n (s.writable a (size * n) / max 1 size)

/-- Records of `size` bytes written at `a`: the first that cannot be written ends the descriptor (R105, R118). -/
def finishRecords (q : Fin 32) (d : Desc) (idx : Word) (a size : Nat) (recs : List (List Byte)) (last : Byte)
    (s : State) : State :=
  let n := recs.length
  let k := unitsThatFit s a size n
  let room := s.writable a (size * n)
  let s1 := s.writeAt (BitVec.ofNat 64 a) (recs.flatten.take room)
  if k = n then s1.addRec q (mkRec (tagOf d) (irqOf d) idx last n false s.now)
  else s1.addRec q (mkRec (tagOf d) (irqOf d) idx stMemError k (room % max 1 size != 0) s.now)

end Sys2Proof.Machine
end

