-- ==== Sys2Proof/Machine/Crypto.lean ====
section
/-! DEFINITION. SHA-256, HMAC-SHA-256 and ECDSA over P-256 as R70, R130 and R138 name them, and the checks of an
image (R71). Keys and signatures are big-endian; a public key is X then Y (PRESUMED, log 12: FIPS 180-4, FIPS 186-4,
RFC 2104). -/

namespace Sys2Proof.Machine

open Sys2Proof

/-! SHA-256 (PRESUMED, log 12). -/

def shaK0 : List Word :=
  [0x428A2F98, 0x71374491, 0xB5C0FBCF, 0xE9B5DBA5,
   0x3956C25B, 0x59F111F1, 0x923F82A4, 0xAB1C5ED5,
   0xD807AA98, 0x12835B01, 0x243185BE, 0x550C7DC3,
   0x72BE5D74, 0x80DEB1FE, 0x9BDC06A7, 0xC19BF174]
def shaK1 : List Word :=
  [0xE49B69C1, 0xEFBE4786, 0x0FC19DC6, 0x240CA1CC,
   0x2DE92C6F, 0x4A7484AA, 0x5CB0A9DC, 0x76F988DA,
   0x983E5152, 0xA831C66D, 0xB00327C8, 0xBF597FC7,
   0xC6E00BF3, 0xD5A79147, 0x06CA6351, 0x14292967]
def shaK2 : List Word :=
  [0x27B70A85, 0x2E1B2138, 0x4D2C6DFC, 0x53380D13,
   0x650A7354, 0x766A0ABB, 0x81C2C92E, 0x92722C85,
   0xA2BFE8A1, 0xA81A664B, 0xC24B8B70, 0xC76C51A3,
   0xD192E819, 0xD6990624, 0xF40E3585, 0x106AA070]
def shaK3 : List Word :=
  [0x19A4C116, 0x1E376C08, 0x2748774C, 0x34B0BCB5,
   0x391C0CB3, 0x4ED8AA4A, 0x5B9CCA4F, 0x682E6FF3,
   0x748F82EE, 0x78A5636F, 0x84C87814, 0x8CC70208,
   0x90BEFFFA, 0xA4506CEB, 0xBEF9A3F7, 0xC67178F2]
def shaInit : List Word :=
  [0x6A09E667, 0xBB67AE85, 0x3C6EF372, 0xA54FF53A,
   0x510E527F, 0x9B05688C, 0x1F83D9AB, 0x5BE0CD19]

/-- The next 48 words of the message schedule; `l` holds the last 16, newest first. -/
def shaMore : Nat → List Word → List Word
  | 0, l => l
  | k + 1, l =>
    let w := fun i => (l[i - 1]?).getD 0
    let s0 := (w 15).rotateRight 7 ^^^ (w 15).rotateRight 18 ^^^ (w 15) >>> 3
    let s1 := (w 2).rotateRight 17 ^^^ (w 2).rotateRight 19 ^^^ (w 2) >>> 10
    shaMore k ((w 16 + s0 + w 7 + s1) :: l)

/-- One round on the eight working words. -/
def shaRound (v : List Word) (kw : Word × Word) : List Word :=
  match v with
  | [a, b, c, d, e, f, g, h] =>
    let s1 := e.rotateRight 6 ^^^ e.rotateRight 11 ^^^ e.rotateRight 25
    let t1 := h + s1 + ((e &&& f) ^^^ (~~~e &&& g)) + kw.1 + kw.2
    let s0 := a.rotateRight 2 ^^^ a.rotateRight 13 ^^^ a.rotateRight 22
    let t2 := s0 + ((a &&& b) ^^^ (a &&& c) ^^^ (b &&& c))
    [t1 + t2, a, b, c, d + t1, e, f, g]
  | _ => v

/-- The words of a 64-byte block, in order. -/
def blockWords (b : List Byte) : List Word := (List.range 16).map fun i => BitVec.ofNat 32 (ofBe ((b.drop (4 * i)).take 4))

/-- The hash state after one block. -/
def shaBlock (h : List Word) (b : List Byte) : List Word :=
  let w := (shaMore 48 (blockWords b).reverse).reverse
  let v := ((shaK0 ++ shaK1 ++ shaK2 ++ shaK3).zip w).foldl shaRound h
  (h.zip v).map fun e => e.1 + e.2

def shaBlocks : Nat → List Byte → List Word → List Word
  | 0, _, h => h
  | k + 1, l, h => shaBlocks k (l.drop 64) (shaBlock h (l.take 64))

/-- SHA-256: 32 bytes. -/
def sha256 (m : List Byte) : List Byte :=
  let pad := (119 - m.length % 64) % 64
  let l := m ++ [0x80#8] ++ List.replicate pad 0 ++ beBytes 8 (8 * m.length)
  (shaBlocks (l.length / 64) l shaInit).flatMap fun w => beBytes 4 w.toNat

/-- HMAC-SHA-256 with a key of at most 64 bytes. -/
def hmac256 (key m : List Byte) : List Byte :=
  let k := key ++ List.replicate (64 - key.length) 0
  sha256 (k.map (· ^^^ 0x5C) ++ sha256 (k.map (· ^^^ 0x36) ++ m))

/-! ECDSA over P-256 (PRESUMED, log 12). -/

def p256 : Nat := 0xFFFFFFFF00000001000000000000000000000000FFFFFFFFFFFFFFFFFFFFFFFF
def n256 : Nat := 0xFFFFFFFF00000000FFFFFFFFFFFFFFFFBCE6FAADA7179E84F3B9CAC2FC632551
def b256 : Nat := 0x5AC635D8AA3A93E7B3EBBD55769886BC651D06B0CC53B0F63BCE3C3E27D2604B
def gx256 : Nat := 0x6B17D1F2E12C4247F8BCE6E563A440F277037D812DEB33A0F4A13945D898C296
def gy256 : Nat := 0x4FE342E2FE1A7F9B8EE7EB4A7C0F9E162BCE33576B315ECECBB6406837BF51F5

/-- x^e mod m for an exponent of `k` bits. -/
def powMod (m x e : Nat) : Nat → Nat
  | 0 => 1
  | k + 1 =>
    let r := powMod m x (e / 2) k
    if e % 2 = 1 then r * r % m * x % m else r * r % m
/-- The inverse modulo a prime. -/
def invMod (m x : Nat) : Nat := powMod m (x % m) (m - 2) 256
def subMod (a b : Nat) : Nat := (a + p256 - b % p256) % p256

/-- A point of the curve; none: the point at infinity. -/
abbrev Point := Option (Nat × Nat)
def onCurve (x y : Nat) : Bool :=
  decide (x < p256 ∧ y < p256) && y * y % p256 == subMod (x * x * x + b256) (3 * x)
def pointAdd (a b : Point) : Point :=
  match a, b with
  | none, _ => b
  | _, none => a
  | some (x1, y1), some (x2, y2) =>
    if x1 = x2 ∧ (y1 + y2) % p256 = 0 then none
    else
      let l := if x1 = x2 then subMod (3 * x1 * x1) 3 * invMod p256 (2 * y1) % p256
        else subMod y2 y1 * invMod p256 (subMod x2 x1) % p256
      let x3 := subMod (subMod (l * l) x1) x2
      some (x3, subMod (l * subMod x1 x3) y1)
/-- k times a point, for a number of `n` bits. -/
def pointMul (p : Point) (k : Nat) : Nat → Point
  | 0 => none
  | n + 1 =>
    let h := pointMul p (k / 2) n
    let d := pointAdd h h
    if k % 2 = 1 then pointAdd d p else d

/-- An ECDSA signature (r then s) over a message with a 64-byte public key. -/
def ecdsaOk (key msg sig : List Byte) : Bool :=
  let x := ofBe (key.take 32)
  let y := ofBe ((key.drop 32).take 32)
  let r := ofBe (sig.take 32)
  let t := ofBe ((sig.drop 32).take 32)
  if !onCurve x y || r = 0 || t = 0 || n256 ≤ r || n256 ≤ t then false
  else
    let w := invMod n256 t
    let u1 := ofBe (sha256 msg) * w % n256
    let u2 := r * w % n256
    match pointAdd (pointMul (some (gx256, gy256)) u1 256) (pointMul (some (x, y)) u2 256) with
    | some (px, _) => px % n256 == r
    | none => false

/-! Images (R70, R71). -/

def imgType (c : List Byte) : Nat := leAt c 4 1
def imgSlot (c : List Byte) : Fin 4 := Fin.ofNat 4 (leAt c 5 1)
def imgVersion (c : List Byte) : Word := BitVec.ofNat 32 (leAt c 8 4)
def imgSec (c : List Byte) : Word := BitVec.ofNat 32 (leAt c 12 4)
def imgLen (c : List Byte) : Nat := leAt c 16 8
/-- The body follows at byte 128. -/
def imgBody (c : List Byte) : List Byte := (c.drop 128).take (imgLen c)

/-- Check 1: magic, reserved fields, TYPE and LENGTH, and a container long enough for its body. -/
def imgHeadOk (c : List Byte) : Bool :=
  leAt c 0 4 == 0x44514D47 && leAt c 6 2 == 0 && leAt c 24 8 == 0 && leAt c 5 1 < 4 && 1 ≤ imgType c && imgType c ≤ 3
  && imgLen c % 64 == 0 && imgLen c ≤ 2 ^ 24 && 128 + imgLen c ≤ c.length

/-- The number of the first check of R71 that fails; 0: all pass. -/
def imageCheck (s : State) (c : List Byte) : Nat :=
  if !imgHeadOk c then 1
  else
    let k := imgSlot c
    match s.svc.imageKeys[k] with
    | none => 2
    | some key =>
      if s.svc.imageRevoked.getLsbD k.val then 2
      else if !ecdsaOk key (c.take 64) ((c.drop 64).take 64) then 3
      else if sha256 (imgBody c) ≠ (c.drop 32).take 32 then 4
      else if (imgSec c).toNat < (s.svc.secMin[Fin.ofNat 4 (imgType c)]).toNat then 5
      else 0

end Sys2Proof.Machine
end

