-- ==== Sys2Proof/Machine/FuncCmds.lean ====
section
/-! DEFINITION. The life-cycle commands: FUNC_CONFIG, FUNC_START, FUNC_STOP, FUNC_QUERY, and the events of the life
cycle (R73-R80, R118, R451). -/

namespace Sys2Proof.Machine

open Sys2Proof

/-! FUNC_CONFIG (R78). -/

/-- A configuration block judged with its function's island powered. -/
def judgeBlock (f : Func) (l : List Byte) (j : Job) (s : State) : State :=
  if blockOk s f l then
    (let s1 := if s.life? f == .off then s.setLife f .stopped else s
     (acceptBlock f l s1).endJob j stOk 1 false)
  else s.endJob j stBadDesc 0 false

/-- The block has been read; from OFF the function is powered first, at the next boundary (R75, R76), the
high-voltage side after its wake (R65). -/
def takeBlock (f : Func) (l : List Byte) (q : Fin 32) (d : Desc) (idx : Word) (s : State) : State :=
  let j := newJob q d idx s
  let s1 := addJob { j with data := l, phase := 1 } s
  if s.life? f == .stopped then judgeBlock f l { j with data := l } s1
  else if f.hv then wakeHv s1 else s1

def configForm (d : Desc) : Bool :=
  headerOk d false false && payloadOk d [(16, 8), (24, 4)] && addrOk (fld d 16 8) 8 && funcOk d
  && 8 ≤ fld d 24 4 && fld d 24 4 ≤ 2 ^ 20 && fld d 24 4 % 8 == 0

/-- FUNC_CONFIG (R78, R79, R457). -/
def execFuncConfig (q : Fin 32) (d : Desc) (h : HostRead) (s : State) : Answer :=
  .next (serveAt 0x11 q d (configForm d) (fld d 16 8) (fun idx s => onFunction q d idx (fun f s =>
    if f == .pathA || f == .pathB then finish q d idx stBadDesc 0 s
    else if f == .service || f == .memctl || !(s.life? f == .off || s.life? f == .stopped) then finish q d idx stBadState 0 s
    else match readSource s (fld d 16 8) (fld d 24 4) h with
      | .error e => finish q d idx e 0 (noteRead (fld d 16 8) e s)
      | .ok l => takeBlock f l q d idx s) s) s)

/-- Blocks that wait for their function's power are judged at a boundary (R75). -/
def configTick (s : State) : State :=
  forAll (s.life.jobs.filter fun j => j.op == 0x11 && j.phase == 1) (fun j s =>
    match descFunc j.desc with
    | none => s
    | some f =>
      if f.hv && !s.chip.awake then s
      else if s.life? f == .off || s.life? f == .stopped then judgeBlock f j.data j s
      else s.endJob j stBadState 0 false) s

/-! FUNC_START and FUNC_STOP (R75). -/

/-- FUNC_START (R75, R78, R79). -/
def execFuncStart (q : Fin 32) (d : Desc) (s : State) : Answer :=
  .next (serve 0x12 q d (headerOk d false false && payloadOk d [] && funcOk d) (fun idx s => onFunction q d idx (fun f s =>
    match s.life? f with
    | .off => finish q d idx stBadState 0 s
    | .stopping => finish q d idx stBadState 0 s
    | .running => finish q d idx stOk 1 s
    | .starting => defer q d idx s
    | _ =>
      if (s.func f).startReq then defer q d idx s
      else
        let st := startCheck f s
        let s1 := noteStart f st s
        if st ≠ stOk then finish q d idx st 0 s1
        else
          let s2 := askStart f (defer q d idx s1)
          if f.hv then wakeHv s2 else s2) s) s)

/-- FUNC_STOP, with its OFF flag in OPT (R75, R79). -/
def execFuncStop (q : Fin 32) (d : Desc) (s : State) : Answer :=
  .next (serve 0x10 q d (headerOk d true false && payloadOk d [] && funcOk d) (fun idx s => onFunction q d idx (fun f s =>
    let off := optOf d
    let ask := fun (s : State) => askStop f off (defer q d idx s)
    if f == .service || f == .memctl || s.sageHeld f then finish q d idx stBadState 0 s
    else match s.life? f with
      | .off => if off then finish q d idx stOk 1 s else if f.hv then wakeHv (ask s) else ask s
      | .stopped =>
        if off then ask s
        else finish q d idx stOk 1 s
      | .stopping => (defer q d idx s).onFunc f fun r => { r with offReq := r.offReq || off }
      | _ => ask s) s) s)

/-! FUNC_QUERY (R118). -/

/-- GLOBAL_FSTATE's fields and the record of R118. -/
def State.fstate (s : State) (f : Func) : Nat :=
  let r := s.func f
  if s.absent f then 8 else r.state.code + 256 * r.cause.toNat + 65536 * r.faultCount.toNat
def queryRecord (s : State) (f : Func) : List Byte :=
  let r := s.func f
  leBytes 4 (s.fstate f) ++ (if s.absent f then leBytes 12 0 else leBytes 4 r.configGen.toNat ++ leBytes 8 r.lastChange.toNat)

/-- FUNC_QUERY: the record; for an absent function OFF with the absent flag (R2). -/
def execFuncQuery (q : Fin 32) (d : Desc) (s : State) : Answer :=
  .next (serveAt 0x13 q d (headerOk d false false && payloadOk d [(16, 8)] && addrOk (fld d 16 8) 16 && funcOk d)
    (fld d 16 8) (fun idx s =>
      match descFunc d with
      | some f => finishResult q d idx (fld d 16 8) (queryRecord s f) 1 s
      | none => finish q d idx stBadDesc 0 s) s)

/-! The events of the life cycle (R76, R77, R80). -/

/-- The causes of R73 a function can fault with. -/
def causeFits (f : Func) (cause : Byte) : Bool :=
  let c := cause.toNat
  let pch := match f with
    | .pch _ => true
    | _ => false
  let sc := match f with
    | .sc _ => true
    | _ => false
  c == 1 || c == 2 || c == 8 || c == 10 || (c == 3 && sc) || (c == 5 && f.hv) || ((c == 4 || c == 6 || c == 7 || c == 9) && pch)

/-- DATA of the code 0x01 entry (R450). The bits of a mismatched token that the event does not carry are free. -/
def causeData (f : Func) (cause : Byte) (s : State) : DWord :=
  match f with
  | .sc n => if cause = 3 then (s.core n).trap.zeroExtend 64 else 0
  | _ => if cause = 1 then (s.now &&& 0xFFFF) ||| (((s.freeVal 17).zeroExtend 64) <<< 16) else 0

/-- FUNCTION_FAULT: the function alone moves to FAULTED (R80). -/
def execFunctionFault (f : Func) (cause : Byte) (s : State) : Answer :=
  .next (if causeFits f cause then faultFunc f cause (causeData f cause s) s.freshen else s)

/-- LOG_DROP_REPORT: the entry that counts the entries dropped (R451). -/
def execLogDropReport (s : State) : Answer :=
  .next (if s.log.dropped = 0 || 1000 ≤ s.log.second then s
    else ((s.putEntry 0x0D 0 0 (BitVec.ofNat 64 s.log.dropped)).onLog fun l => { l with dropped := 0 }))

end Sys2Proof.Machine
end

