-- ==== Sys2Proof/Machine/DescCmds.lean ====
section
/-! DEFINITION. Descriptors that complete without moving bulk data: NOP, FENCE, parameters, SCHED, routes, counters,
the log, time and path requests (R107-R118, R248-R252, R260-R268, R433). -/

namespace Sys2Proof.Machine

open Sys2Proof

/-- NOP (R118). -/
def execNop (q : Fin 32) (d : Desc) (s : State) : Answer :=
  .next (serve 0x00 q d (headerOk d false false && payloadOk d [] && noFunc d) (fun idx s => finish q d idx stOk 1 s) s)

/-! FENCE (R108). -/

/-- The rings a FENCE waits for; its own is always included. -/
def fenceMask (q : Fin 32) (d : Desc) (r : Fin 32) : Bool := r == q || (fld d 16 4).testBit r.val
/-- A descriptor of those rings, taken before this one, that has not been served yet. -/
def State.unserved (s : State) (q : Fin 32) (d : Desc) : Bool :=
  (s.host.taken.takeWhile fun e => e.1 != q).any fun e => fenceMask q d e.1
def fenceDone (s : State) (j : Job) : Bool := j.waits.all fun u => s.life.jobs.all fun k => k.uid != u

/-- FENCE: it waits for the descriptors in progress on its rings that were taken before it (R108). -/
def execFence (q : Fin 32) (d : Desc) (s : State) : Answer :=
  .next (if s.unserved q d then s else
    serve 0x01 q d (headerOk d false false && payloadOk d [(16, 4)] && noFunc d) (fun idx s =>
      let waits := (s.life.jobs.filter fun j => fenceMask q d j.ring && !j.silent
        && idxBefore j.idx (((s.ring q).fenceAt[j.ring.val]?).getD 0)).map (·.uid)
      if waits.isEmpty then finish q d idx stOk 1 s
      else addJob { newJob q d idx s with waits } s) s)

/-- FENCE_COMPLETE: the last descriptor it waits for has completed (R108). -/
def execFenceComplete (q : Fin 32) (s : State) : Answer :=
  .next (match s.job? fun j => j.op == 0x01 && j.ring == q with
    | some j => if fenceDone s j then s.endJob j stOk 1 false else s
    | none => s)

/-! PARAM_WRITE and PARAM_READ (R14, R109, R264). -/

/-- The used entries; none where a used one follows an unused one or an unused one is not zero. -/
def writeEntries (d : Desc) : Option (List (Nat × Word)) :=
  let l := (List.range 6).map fun k => (fld d (16 + 8 * k) 4, BitVec.ofNat 32 (fld d (20 + 8 * k) 4))
  let used := l.takeWhile fun e => e.1 != 0
  if (l.drop used.length).all fun e => e.1 == 0 && e.2 == 0 then some used else none

/-- The checks of a list of writes: the first that fails, else the budget (R109, R264). -/
def writesCheck (s : State) (l : List (Nat × Word)) : Byte :=
  let one := fun (e : Nat × Word) =>
    let st := paramCheck s e.1 e.2
    if st ≠ stOk then st else if s.life? (pidFunc e.1) == .off then stBadState else stOk
  match l.find? fun e => one e != stOk with
  | some e => one e
  | none =>
    let xs := l.filterMap fun e => xpWrite s e.1 e.2
    if xs.isEmpty || (xpBudget s xs).2 then stOk else stBudget

/-- The last place of each crosspoint in a list of writes. -/
def lastPlace (l : List (Nat × Word)) : Store Nat :=
  l.zipIdx.foldl (fun m e => match xpIndex (e.1.1 % 2 ^ 24) with
    | some k => m.put k e.2
    | none => m) []

/-- The units each write holds: one where it is its crosspoint's last and makes it active (R263, R264). -/
def unitsOf (s : State) (l : List (Nat × Word)) : List Nat :=
  let last := lastPlace l
  let keys := s.reservedKeys
  l.zipIdx.map fun e => match xpWrite s e.1.1 e.1.2 with
    | some (k, g, _) => b2n (last.get? k == some e.2 && g != 0 && !(s.xp k).active && !keys.contains k)
    | none => 0

/-- Jobs whose writes have all taken effect complete (R14, R116, R118). -/
def finishWrites (s : State) : State :=
  forAll (s.life.jobs.filter fun j => (j.op == 0x02 || j.op == 0x40) && s.life.writes.all fun w => w.job != j.uid)
    (fun j s => (if j.op == 0x40 then s.bump 6 0 else s).endJob j stOk j.phase false) s

/-- The latest boundary after which a waiting write of the ring takes effect: a later write waits at least as long (R100). -/
def State.writesAhead (s : State) (q : Fin 32) : Option DWord :=
  (s.life.writes.filter fun w => s.life.jobs.any fun j => j.uid == w.job && j.ring == q).foldl
    (fun m w => some (match m with
      | none => w.after
      | some t => if (w.after - t).toNat < 2 ^ 63 then w.after else t)) none
def laterTick (t : DWord) : Option DWord → DWord
  | none => t
  | some u => if (u - t).toNat < 2 ^ 63 then u else t

/-- Checked writes of a descriptor: those to a function at work wait for its boundary, and so does a write behind one of the
same ring that waits (R100); the others are stored (R74). -/
def placeWrites (q : Fin 32) (d : Desc) (idx : Word) (l : List (Nat × Word)) (s : State) : State :=
  let uid := s.life.nextUid
  let s1 := addJob { newJob q d idx s with phase := l.length } s
  let ws := l.zip (unitsOf s l)
  let ahead := s.writesAhead q
  let holds := fun (e : (Nat × Word) × Nat) => (s.life? (pidFunc e.1.1)).busy || ahead.isSome
  let now := ws.filter fun e => !holds e
  let s2 := s1.onLife fun x => { x with
    writes := x.writes ++ (ws.filter holds).map fun e => {
      job := uid, pid := BitVec.ofNat 32 e.1.1, value := e.1.2, units := e.2
      after := laterTick (s.lastTok (islandOf (pidFunc e.1.1))) ahead } }
  finishWrites (forAll now (fun e s => applyParam e.1.1 e.1.2 (q, idx) s) s2)

/-- PARAM_WRITE (R109). -/
def execParamWrite (q : Fin 32) (d : Desc) (s : State) : Answer :=
  .next (serve 0x02 q d (headerOk d false false && noFunc d && (writeEntries d).isSome) (fun idx s =>
    let l := (writeEntries d).getD []
    let st := writesCheck s l
    if st ≠ stOk then finish q d idx st 0 (if st = stBudget then s.bump 6 2 else s)
    else placeWrites q d idx l s) s)

/-- Ring and position of a job's descriptor. -/
def State.jobPlace (s : State) (uid : Nat) : Fin 32 × Word := match s.job? fun j => j.uid == uid with
  | some j => (j.ring, j.idx)
  | none => (0, 0)

/-- The used parameter IDs of PARAM_READ. -/
def readEntries (d : Desc) : Option (List Nat) :=
  let l := (List.range 6).map fun k => fld d (16 + 4 * k) 4
  let used := l.takeWhile (· != 0)
  if (l.drop used.length).all (· == 0) then some used else none

/-- An ID that can be read: known, and present (R2, R109). -/
def readCheck (s : State) (pid : Nat) : Byte :=
  match Func.ofId (BitVec.ofNat 8 (pid / 2 ^ 24)) with
  | none => stBadDesc
  | some f => if s.absent f then stAbsent else if (paramSpec s f (pid % 2 ^ 24)).isSome then stOk else stBadDesc

/-- PARAM_READ: the values in force (R109). -/
def execParamRead (q : Fin 32) (d : Desc) (s : State) : Answer :=
  let a := fld d 40 8
  .next (serveAt 0x03 q d (headerOk d false false && noFunc d && payloadOk d [(16, 24), (40, 8)] && (readEntries d).isSome
      && addrOk a 4) a (fun idx s =>
    let l := (readEntries d).getD []
    match l.find? fun p => readCheck s p != stOk with
    | some p => finish q d idx (readCheck s p) 0 s
    | none =>
      if l.isEmpty then finish q d idx stOk 0 s
      else finishRecords q d idx a 4 (l.map fun p => leBytes 4 (paramValue s (pidFunc p) (p % 2 ^ 24)).toNat) stOk s.freshen) s)

/-! SCHED (R110, R248-R252). -/

def schedOp (d : Desc) : Nat := fld d 16 1
/-- The form of a SCHED: fields its OP does not use are zero (R110 step 1). -/
def schedForm (d : Desc) : Bool :=
  let op := schedOp d
  headerOk d true true && payloadOk d [(16, 1), (20, 4), (24, 4), (28, 4), (32, 2)] && 1 ≤ op && op ≤ 6 && funcOk d
  && (op == 1 || (fld d 24 4 == 0 && fld d 28 4 == 0)) && (op == 5 || fld d 32 2 == 0)
  && (op != 4 || descFunc d == some .decim) && (op != 5 || descFunc d == some .capture)
  && (op != 6 || descFunc d == some .tdm0 || descFunc d == some .tdm1)

/-- The checks of the OP at acceptance (R250). -/
def schedCheck (s : State) (d : Desc) : Byte :=
  if schedOp d = 1 then
    (if fld d 24 4 / 2 ^ 24 ≠ (funcByte d).toNat then stBadDesc
     else paramCheck s (fld d 24 4) (BitVec.ofNat 32 (fld d 28 4)))
  else if schedOp d = 5 ∧ fld d 32 2 = 0 then stBadDesc
  else stOk

/-- Actions of a function that are pending: neither applied nor cancelled. -/
def State.pendingActs (s : State) (f : Func) : List Action := s.life.acts.filter fun a => a.func == f && !a.applied

/-- The crosspoint unit a SCHED reserves, and whether it is free (R264). -/
def schedUnit (s : State) (d : Desc) : Bool × Bool :=
  match xpWrite s (fld d 24 4) (BitVec.ofNat 32 (fld d 28 4)) with
  | some e => if schedOp d = 1 ∧ e.2.1 ≠ 0 then (let r := xpBudget s [e]; (r.1 != 0, r.1 == 0 || r.2)) else (false, true)
  | none => (false, true)

/-- SCHED: checked in the order of R110, then held until its tick; on a ring that drains an action due later is ABORTED
(R90). -/
def execSched (q : Fin 32) (d : Desc) (s : State) : Answer :=
  .next (serve 0x04 q d (schedForm d) (fun idx s => onFunction q d idx (fun f s =>
    let id := BitVec.ofNat 32 (fld d 20 4)
    let t := BitVec.ofNat 64 (fld d 8 8)
    let n := s.tickAt t
    let late := decide (n.toNat < s.now.toNat + 2)
    let st := schedCheck s d
    let pend := s.pendingActs f
    let a : Action := {
      func := f, id, time := t, nT := if late then s.lastTok (islandOf f) + 1 else n, op := BitVec.ofNat 8 (schedOp d)
      pid := BitVec.ofNat 32 (fld d 24 4), value := BitVec.ofNat 32 (fld d 28 4), capTag := BitVec.ofNat 16 (fld d 32 2)
      ring := q, idx, tag := tagOf d, irq := irqOf d, late }
    let hold := fun (a : Action) (s : State) => s.onLife fun l => { l with acts := l.acts ++ [a] }
    if st ≠ stOk then finish q d idx st 0 s
    else if id = 0 ∨ pend.any (fun b => b.id == id) then finish q d idx stBadDesc 0 s
    else if late then (if optOf d then hold a s else finish q d idx stLate 0 s)
    else if 256 ≤ pend.countP (fun b => !b.late) then finish q d idx stBudget 0 s
    else
      let u := schedUnit s d
      if !u.2 then finish q d idx stBudget 0 (s.bump 6 2)
      else if (s.ring q).draining then finish q d idx stAborted 0 s
      else hold { a with reserved := u.1 } s) s) s)

/-- SCHED_CANCEL (R111). -/
def execSchedCancel (q : Fin 32) (d : Desc) (s : State) : Answer :=
  .next (serve 0x05 q d (headerOk d false false && payloadOk d [(20, 4)] && funcOk d) (fun idx s =>
    onFunction q d idx (fun f s =>
      match (s.pendingActs f).find? fun a => a.id.toNat == fld d 20 4 with
      | none => finish q d idx stBadState 0 s
      | some a =>
        if a.nT.toNat < s.now.toNat + 2 then finish q d idx stLate 0 s
        else finish q d idx stOk 1 (s.endAction a stAborted 0)) s) s)

/-- A scheduled FUNC_START or FUNC_STOP stays in progress until its function gets there (R110). -/
def markApplied (a : Action) (s : State) : State :=
  s.onLife fun l => { l with acts := l.acts.map fun b => if b = a then { a with applied := true, reserved := false } else b }

/-- A scheduled FUNC_START at its tick (R250). -/
def schedStart (a : Action) (ok : Byte) (s : State) : State :=
  let f := a.func
  match s.life? f with
  | .off => s.endAction a stBadState 0
  | .stopping => s.endAction a stBadState 0
  | .running => s.endAction a ok 1
  | .starting => markApplied a s
  | _ =>
    let st := startCheck f s
    let s1 := noteStart f st s
    if st ≠ stOk then s1.endAction a st 0
    else
      let s2 := (markApplied a s1).onFunc f fun r => { r with startReq := true, startAfter := s.now - 1 }
      startEffect f (if f.hv then wakeHv s2 else s2)

/-- A scheduled FUNC_STOP at its tick; it carries no OFF flag (R250). -/
def schedStop (a : Action) (ok : Byte) (s : State) : State :=
  let f := a.func
  if f == .service || f == .memctl || s.sageHeld f then s.endAction a stBadState 0
  else match s.life? f with
    | .stopped => s.endAction a ok 1
    | .stopping => markApplied a s
    | _ => stopEffect f ((markApplied a s).onFunc f fun r => { r with stopReq := true, stopAfter := s.now - 1 })

/-- A converter start on a master port that waits for it; on any other port it has no effect (R356). -/
def converterStart (x : Fin 2) (s : State) : State :=
  if s.tdmSlave x || (s.tdm x).clocks then s else s.onTdm x fun t => { t with clocks := true }

/-- The armed CAPTURE that a capture start names. -/
def State.armed (s : State) (a : Action) : Option Job :=
  s.job? fun j => j.isCapture && j.ring == a.ring && tagOf j.desc == a.capTag && fbit j.desc 31 1 && j.start.isNone

/-- An action is applied at this boundary (R249, R250). -/
def applyAction (a : Action) (s : State) : State :=
  let ok := if a.late then stLateApplied else stOk
  let op := a.op.toNat
  if op = 1 then
    (let free := s.onLife fun l => { l with acts := l.acts.map fun b => if b = a then { a with reserved := false } else b }
     let b := { a with reserved := false }
     let st := if s.life? a.func == .off then stBadState
       else if a.late then writesCheck s [(a.pid.toNat, a.value)] else stOk
     if st ≠ stOk then (if st = stBudget then free.bump 6 2 else free).endAction b st 0 else (applyParam a.pid.toNat a.value (a.ring, a.idx) free).endAction b ok 1)
  else if op = 2 then schedStart a ok s
  else if op = 3 then schedStop a ok s
  else if op = 4 then (if s.running .decim then (syncDec s).endAction a ok 1 else s.endAction a stBadState 0)
  else if op = 5 then
    (match s.armed a with
     | some j => (s.onJob j.uid fun j => { j with start := some s.now }).endAction a ok 1
     | none => s.endAction a stBadState 0)
  else
    let x : Fin 2 := if a.func = .tdm0 then 0 else 1
    let st := s.life? a.func
    if st == .starting || st == .running then (converterStart x s).endAction a ok 1 else s.endAction a stBadState 0

/-! ROUTE_SET and ROUTE_READ (R116, R262-R265, R283). -/

/-- An entry's crosspoint, gain and ramp index (R117). -/
def xpEntry (e : Nat) : Nat × BitVec 24 × Nat :=
  (xpKey (e % 2048) (e / 2 ^ 16 % 2048), BitVec.ofNat 24 (e / 2 ^ 32), e / 2 ^ 56 % 8)
/-- Reserved bits zero and VALID set. -/
def entryForm (e : Nat) : Bool :=
  e / 2 ^ 11 % 32 == 0 && e / 2 ^ 27 % 32 == 0 && e / 2 ^ 59 % 16 == 0 && e / 2 ^ 63 == 1
/-- The checks of R263 but for the budget. -/
def routesCheck (s : State) (l : List Nat) : Byte :=
  if !l.all entryForm then stBadDesc
  else if l.any fun e => decide (1656 ≤ e % 2048 ∨ 1668 ≤ e / 2 ^ 16 % 2048) then stBadDesc
  else if !l.all fun e => xpRangeOk s (xpEntry e).1 (xpEntry e).2.1 then stBadDesc
  else if l.any fun e => s.xpAbsent (xpEntry e).1 then stAbsent
  else if (xpBudget s (l.map fun e =>
      let x := xpEntry e
      (x.1, x.2.1, if (s.life? .lovage).busy then s.rampTicks x.2.2 else 0))).2 then stOk
  else stBudget

/-- A crosspoint entry as the write of its parameter (R260). -/
def entryWrite (e : Nat) : Nat × Word :=
  let x := xpEntry e
  (0x06800000 + x.1, BitVec.ofNat 32 (x.2.1.toNat + 2 ^ 24 * x.2.2))

/-- The inline entries: the VALID ones first, the rest zero (R263). -/
def inlineEntries (d : Desc) : Option (List Nat) :=
  let l := (List.range 6).map fun k => fld d (16 + 8 * k) 8
  let used := l.takeWhile fun e => e / 2 ^ 63 == 1
  if (l.drop used.length).all (· == 0) then some used else none

/-- The form of a ROUTE_SET; the reserved bits of its inline entries belong to it (R9, R263). -/
def routeForm (d : Desc) : Bool :=
  headerOk d true false && noFunc d &&
  if optOf d then payloadOk d [(16, 8), (24, 4)] && addrOk (fld d 16 8) 8 && 1 ≤ fld d 24 4 && fld d 24 4 ≤ 65536
  else match inlineEntries d with
    | some l => l.all entryForm
    | none => false

/-- ROUTE_SET (R116, R262, R263). Inline entries wait for no transfer: the address passed on is then the crossbar
SRAM's, which is never held. With LOVAGE in OFF the entries are not looked at, whether they name an absent source or sink
(R3) or not: BAD_STATE (R262) comes before ABSENT (DESIGN CHOICE, log 54). -/
def execRouteSet (q : Fin 32) (d : Desc) (h : HostRead) (s : State) : Answer :=
  let a := if optOf d then fld d 16 8 else 2 ^ 63 + 0x1000000000
  .next (serveAt 0x40 q d (routeForm d) a (fun idx s =>
    if s.life? .lovage == .off then finish q d idx stBadState 0 s
    else
      let src := if optOf d then
          (readSource s a (8 * fld d 24 4) h).map fun b => (List.range (fld d 24 4)).map fun k => leAt b (8 * k) 8
        else .ok ((inlineEntries d).getD [])
      match src with
      | .error e => finish q d idx e 0 (noteRead a e s)
      | .ok l =>
        let st := routesCheck s l
        if st ≠ stOk then finish q d idx st 0 (if st = stBudget then s.bump 6 2 else s)
        else placeWrites q d idx (l.map entryWrite) s) s)

/-- L_src and L_snk; none where undefined (R283). -/
def latSrc (s : State) (a : Nat) : Option Nat :=
  if a < 1024 then
    ((List.range s.rxCount).find? fun k => decide (s.rxFld k 2 2 ≤ a ∧ a < s.rxFld k 2 2 + s.rxFld k 1 1)).map fun k => s.rxFld k 4 2
  else if a < 1536 then some 0
  else if a < 1576 then (s.chain (a - 1536)).map fun c => c.latency (ratioOf (s.ratioHigh (a - 1536)))
  else if a < 1640 then some 1 else if a < 1656 then some 0 else none
def latSnk (s : State) (b : Nat) : Option Nat :=
  if b < 1024 then some 0
  else if b < 1536 then
    (let n := Fin.ofNat 16 ((b - 1024) / 32)
     if (s.func (.sc n)).config.isSome then some (2 * s.scBlock n) else none)
  else if b < 1604 then some 1 else if b < 1668 then some 0 else none

/-- The record of a crosspoint (R117, R265). -/
def routeRecord (s : State) (k : Nat) : List Byte :=
  let x := s.xp k
  let lat := match latSrc s (k / 2048), latSnk s (k % 2048) with
    | some a, some b => a + 1 + b
    | _, _ => 0xFFFFFFFF
  let left := match x.ramp with
    | some r => r.len - r.k
    | none => 0
  leBytes 8 (k / 2048 + 2 ^ 16 * (k % 2048) + 2 ^ 32 * (BitVec.ofInt 24 (x.now)).toNat
    + 2 ^ 56 * x.rampIdx.toNat + 2 ^ 63) ++ leBytes 4 lat ++ leBytes 4 left

def routeReadForm (d : Desc) : Bool :=
  let kind := fld d 28 1
  headerOk d false false && noFunc d && payloadOk d [(16, 8), (24, 2), (26, 2), (28, 1), (32, 4)] && addrOk (fld d 16 8) 8
  && kind ≤ 2 && fld d 24 2 < 2048 && fld d 26 2 < 2048 && (kind == 0 || fld d 26 2 == 0)

/-- ROUTE_READ: records of one boundary (R265). -/
def execRouteRead (q : Fin 32) (d : Desc) (s : State) : Answer :=
  let a := fld d 16 8
  .next (serveAt 0x41 q d (routeReadForm d) a (fun idx s =>
    if s.life? .lovage == .off then finish q d idx stBadState 0 s
    else
      let i := fld d 24 2
      let kind := fld d 28 1
      let keys := if kind = 0 then [xpKey i (fld d 26 2)]
        else (s.lov.xp.filter fun e => e.2.active && (if kind = 1 then e.1 / 2048 == i else e.1 % 2048 == i)).map (·.1)
      let m := fld d 32 4
      let last := if m < keys.length then stBudget else stOk
      finishRecords q d idx a 16 ((keys.take m).map (routeRecord s)) last s.freshen) s)

/-! STATS_READ, LOG_READ, TIME_QUERY (R115, R445, R446, R452). -/

/-- The counters of a function in the order of R445, by function and index. -/
def statKeys (s : State) (f : Func) : List (Nat × Nat) :=
  let run := fun (g n : Nat) => (List.range n).map fun i => (g, i)
  match f with
  | .pathA => run 1 45
  | .pathB => run 2 45
  | .streamRx => run 3 (20 * s.rxCount)
  | .streamTx => run 4 (4 * s.txCount)
  | .timekeeper => run 5 17
  | .lovage => run 6 2053
  | .capture => run 7 3
  | .decim => run 8 4
  | .pdm => run 9 1
  | .tdm0 => run 10 5
  | .tdm1 => run 11 5
  | .service => []
  | .memctl => run 0x0D 11 ++ run 0x0E 3
  | .sc n => run (0x10 + n.val) 7
  | .pch c => run (pchFn c) 16
  | .sage => allPch.flatMap fun c => (List.range 12).map fun i => (pchFn c, 4 + i)

def statValues (s : State) (f : Func) : List Nat :=
  if f = .service then s.svc.noardCnt.toList.map (·.toNat) else (statKeys s f).map fun k => s.count k.1 k.2
/-- CLEAR: the counters count again from 0 (R446). -/
def statClear (f : Func) (s : State) : State :=
  if f = .service then s.onSvc fun v => { v with noardCnt := Vector.replicate 5 0 }
  else forAll (statKeys s f) (fun k s => s.clearCnt k.1 k.2) s

/-- STATS_READ (R115, R445, R446). -/
def execStatsRead (q : Fin 32) (d : Desc) (s : State) : Answer :=
  let a := fld d 16 8
  .next (serveAt 0x30 q d (headerOk d true false && payloadOk d [(16, 8), (24, 4)] && addrOk a 8 && funcOk d) a (fun idx s =>
    onFunction q d idx (fun f s =>
      let v := (statValues s f).take (fld d 24 4)
      finishRecords q d idx a 8 (v.map (leBytes 8)) stOk (if optOf d then statClear f s else s)) s) s)

/-- LOG_READ: entries from FIRST_SEQ, or the oldest held, in SEQ order (R452). -/
def execLogRead (q : Fin 32) (d : Desc) (s : State) : Answer :=
  let a := fld d 16 8
  .next (serveAt 0x31 q d (headerOk d false false && noFunc d && payloadOk d [(16, 8), (24, 4), (28, 4)] && addrOk a 8) a
    (fun idx s =>
      let first := BitVec.ofNat 32 (fld d 24 4)
      let next := match s.log.entries with
        | [] => (0 : Word)
        | e :: _ => e.seq + 1
      let gap := (first - next).toNat
      if gap = 0 then finish q d idx stOk 0 s
      else if gap < 2 ^ 31 then finish q d idx stBadDesc 0 s
      else
        let l := (s.log.entries.reverse.filter fun e => decide ((e.seq - first).toNat < 2 ^ 31)).take (fld d 28 4)
        finishRecords q d idx a 32 (l.map (·.bytes)) stOk s) s)

/-- The record of TIME_QUERY (R117). -/
def timeRecord (s : State) : List Byte :=
  let ns := s.tickNs s.now
  leBytes 8 s.now.toNat ++ leBytes 6 (ns / 1000000000) ++ [s.time.lock.zeroExtend 8, s.time.ref.zeroExtend 8]
  ++ leBytes 4 (ns % 1000000000) ++ leBytes 4 s.time.stepId.toNat ++ leBytes 8 (BitVec.ofInt 64 s.time.step).toNat

/-- TIME_QUERY (R118). -/
def execTimeQuery (q : Fin 32) (d : Desc) (s : State) : Answer :=
  let a := fld d 16 8
  .next (serveAt 0x32 q d (headerOk d false false && noFunc d && payloadOk d [(16, 8)] && addrOk a 8) a
    (fun idx s => finishResult q d idx a (timeRecord s) 1 s) s)

/-! Requests to other parts: TIME_STEP_ACCEPT, PATH_SWITCH, MEM_RETIRE (R193, R215, R433). -/

/-- TIME_STEP_ACCEPT: the step is applied at the next boundary (R215). -/
def execTimeStepAccept (q : Fin 32) (d : Desc) (s : State) : Answer :=
  .next (serve 0x33 q d (headerOk d false false && noFunc d && payloadOk d [(16, 4)]) (fun idx s =>
    if fld d 16 4 = 0 ∨ fld d 16 4 ≠ s.time.stepId.toNat ∨ s.time.accept.isSome then finish q d idx stBadState 0 s
    else (defer q d idx s).onTime fun t => { t with accept := some s.life.nextUid }) s)

/-- The accepted step at a boundary: by slew, or by a counter load to the reference's time (R215). -/
def acceptTick (s : State) : State :=
  match s.time.accept with
  | none => s
  | some uid =>
    let s1 := s.onTime fun t => { t with accept := none }
    let fin := fun (st : Byte) (s : State) => match s.job? fun j => j.uid == uid with
      | some j => s.endJob j st (if st = stOk then 1 else 0) false
      | none => s
    if s.time.stepId = 0 then fin stBadState s1
    else
      let v := s.time.step
      let s2 := (s1.onTime fun t => { t with stepId := 0, step := 0, outliers := 0, within := 0 }).bump 5 6
      if s.timeParam 16 = 0 ∧ v.natAbs ≤ 4000 * s.timeParam 17 then
        fin stOk (s2.onTime fun t => { t with lock := 3, slew := v, slewAcc := 0, pred := t.pred + v })
      else
        fin stOk (counterLoad (s2.tickMoved s2.now (-v)) ((moveOutput v s2).onTime fun t => { t with lock := 1, pred := s2.time.pred }))

/-- PATH_SWITCH (R187, R193). -/
def execPathSwitch (q : Fin 32) (d : Desc) (s : State) : Answer :=
  .next (serve 0x34 q d (headerOk d true false && payloadOk d [] && (funcByte d == 1 || funcByte d == 2)) (fun idx s =>
    let tgt : Port := if funcByte d = 1 then .a else .b
    if s.topo = 0 ∨ s.path.ext ∨ bit s.path.ilk 0 ∨ s.path.unsync.isSome then finish q d idx stBadState 0 s
    else if s.path.active = tgt then finish q d idx stOk 1 s
    else if s.role tgt == .idle then finish q d idx stBadState 0 s
    else if s.role tgt == .resync ∧ !optOf d then finish q d idx stBadState 0 (s.bumpPath s.path.active 13)
    else (defer q d idx s).onPath fun x => { x with request := x.request ++ [(s.life.nextUid, tgt, optOf d)] }) s)

/-- MEM_RETIRE: the migration begins (R433). -/
def execMemRetire (q : Fin 32) (d : Desc) (s : State) : Answer :=
  let r := Fin.ofNat 4 (fld d 16 1)
  .next (serve 0x50 q d (headerOk d false false && payloadOk d [(16, 1), (17, 1)] && funcByte d == 0x0D && fld d 16 1 < 4
      && 1 ≤ fld d 17 1 && fld d 17 1 ≤ 16) (fun idx s =>
    let st := s.memc.ranks[r]
    if st = 1 ∨ st = 3 ∨ !s.memc.spareValid ∨ s.memc.mig.isSome then finish q d idx stBadState 0 s
    else
      let s1 := (defer q d idx s).onMemc fun c => { c with
        ranks := vmod c.ranks r fun _ => 2, mig := some { rank := r, share := fld d 17 1, job := some s.life.nextUid } }
      (logDram 4 (s.rankBase r) s1).raise 10) s)

end Sys2Proof.Machine
end

