-- ==== Sys2Proof/Machine/Registers.lean ====
section
/-! DEFINITION. The registers of BAR0 (R454): what each reads as, the plain writes, and which counter a LO register
holds. -/

namespace Sys2Proof.Machine

open Sys2Proof

/-! What a register reads as (R7, R8). -/

/-- Fields, each a value at a bit position. -/
def pk (l : List (Nat × Nat)) : Word := BitVec.ofNat 32 ((l.map fun e => e.1 * 2 ^ e.2).sum)
/-- A signed value in a 32-bit field that saturates. -/
def sat32 (x : Int) : Word := BitVec.ofInt 32 (satInt 32 x)
def loW (d : DWord) : Word := d.truncate 32
def hiW (d : DWord) : Word := (d >>> 32).truncate 32
/-- 32 flags from `base` on. -/
def flags (base n : Nat) (p : Nat → Bool) : Word := BitVec.ofNat 32 ((List.range n).foldl (fun a i => a + b2n (p (base + i)) * 2 ^ i) 0)
/-- LO and HI registers of `n` counters from offset `base`: the counter, and whether the register is the LO one. -/
def cntReg (o base n : Nat) : Option (Nat × Bool) :=
  if base ≤ o ∧ o < base + 8 * n ∧ o % 4 = 0 then some ((o - base) / 8, (o - base) % 8 == 0) else none

/-- The counter of a LO or HI register: function and index of R444, and whether it is LO (R162). -/
def counterAt (off : Nat) : Option (Nat × Nat × Bool) :=
  let b := off / 0x1000
  let o := off % 0x1000
  let on := fun (f base n first : Nat) => (cntReg o base n).map fun e => (f, first + e.1, e.2)
  if b = 4 then on 1 0x100 30 0
  else if b = 5 then on 2 0x100 30 0
  else if b = 6 then (on 1 0x100 15 30).orElse fun _ => on 2 0x200 15 30
  else if b = 9 then
    (((on 8 0x400 4 0).orElse fun _ => on 9 0x440 1 0).orElse fun _ => on 10 0x460 5 0).orElse fun _ => on 11 0x4A0 5 0
  else if b = 10 then
    ((((on 0x20 0x110 4 0).orElse fun _ => on 0x21 0x150 4 0).orElse fun _ => on 0x22 0x190 4 0).orElse fun _ =>
      on 0x23 0x1D0 4 0)
  else if b = 11 then
    ((((on 0x20 0x200 12 4).orElse fun _ => on 0x21 0x300 12 4).orElse fun _ => on 0x22 0x400 12 4).orElse fun _ =>
      on 0x23 0x500 12 4)
  else if b = 12 then on 0x0D 0x100 11 0
  else if b = 14 then on 0x0E 0x100 3 0
  else if 0x10 ≤ b ∧ b < 0x20 then on b 0x100 7 0
  else none

/-- GLOBAL (R73). -/
def globalReg (s : State) (o : Nat) : Word :=
  let p := s.chip.variant == .p
  let c := s.chip
  if o = 0x000 then (if p then 0xD04150B1 else 0xD0414CB1)
  else if o = 0x004 then (if p then 0x00041003 else 0x00041002)
  else if o = 0x008 then pk [(c.strap.toNat, 0), (c.stage.toNat, 4), (c.result.toNat, 8), (c.patchVersion.toNat, 16)]
  else if o = 0x00C then c.resetCause
  else if o = 0x014 then pk [(b2n c.awake, 0), (b2n c.linkUp, 1), (b2n c.vbusReversed, 2), (b2n c.vbusOv, 3)]
  else if o = 0x018 then c.scratch
  else if 0x100 ≤ o ∧ o < 0x200 ∧ o % 4 = 0 then
    match Func.ofId (BitVec.ofNat 8 ((o - 0x100) / 4)) with
    | some f => BitVec.ofNat 32 (s.fstate f)
    | none => 8
  else 0

/-- PCIE (R124). -/
def pcieReg (s : State) (o : Nat) : Word :=
  let h := s.host
  if o = 0 then pk [(b2n h.linkUp, 0), (h.speed.toNat, 1), (h.width.toNat, 4), (b2n h.bme, 8)]
  else if o = 4 then pk [(b2n h.relaxed, 0)] else if o = 8 then loW h.hostErr else if o = 12 then hiW h.hostErr
  else if o = 16 then h.hostErrCount else 0

/-- RING (R87). -/
def ringReg (s : State) (o : Nat) : Word :=
  let h := s.host
  if o < 0x800 then
    (let q := Fin.ofNat 32 (o / 0x40)
     let r := s.ring q
     let k := o % 0x40
     if k = 0x00 then loW r.sqBase else if k = 0x04 then hiW r.sqBase
     else if k = 0x08 then loW r.cqBase else if k = 0x0C then hiW r.cqBase
     else if k = 0x10 then pk [(b2n r.enable, 0), (b2n r.irqAll, 1), (r.sqLog.toNat, 4), (r.cqLog.toNat, 12),
       (r.prio.toNat, 20), (r.vec.toNat, 24)]
     else if k = 0x14 then pk [(r.budget.toNat, 0)]
     else if k = 0x18 then pk [(r.state, 0), (b2n r.draining, 2), (r.err.toNat, 4), (b2n (s.tarrRing q), 8)]
     else if k = 0x1C then r.sqCi else if k = 0x20 then r.cqPi else 0)
  else if o = 0x800 then loW h.dbAddr else if o = 0x804 then hiW h.dbAddr
  else if o = 0x808 then loW h.stAddr else if o = 0x80C then hiW h.stAddr
  else if o = 0x810 then pk [(b2n h.fetch, 0), (h.period.toNat, 8), (h.eventVec.toNat, 16)]
  else if o = 0x814 then h.fetchSkip else 0

/-- TIME_OFS_STBY: the offset last measured on the PTP reference that is not selected, 0 while free run is selected or its
port is no slave (R209, R229). With a reference other than PTP selected it is port B's (DESIGN CHOICE, log 57). -/
def stbyOfs (t : TimeSt) : Word :=
  let p := if t.ref = 2 then Port.a else .b
  let r := match p with
    | .a => t.ptpA
    | .b => t.ptpB
  if t.ref = 0 ∨ r.role != .slave then 0 else sat32 t.refs[Fin.ofNat 6 (1 + pathIx p)].phase
/-- TIME (R229). -/
def timeReg (s : State) (o : Nat) : Word :=
  let t := s.time
  let refFlags := fun (p : RefRec → Bool) => (flags 0 6 fun i => p t.refs[Fin.ofNat 6 i]).toNat
  if o = 0x00 then t.ctrl
  else if o = 0x04 then pk [(t.lock.toNat, 0), (t.ref.toNat, 4), (b2n (t.stepId != 0), 8), (b2n (t.ptpA.role == .slave), 9),
    (b2n (t.ptpB.role == .slave), 10), (b2n (t.ptpA.role == .master || t.ptpB.role == .master), 11)]
  else if o = 0x08 then pk [(refFlags (·.present), 0), (refFlags (·.qualified), 8), (refFlags (·.drift), 16)]
  else if o = 0x0C then sat32 t.ofs else if o = 0x10 then stbyOfs t else if o = 0x14 then sat32 t.freq
  else if o = 0x18 then t.stepId else if o = 0x1C then sat32 t.step else if o = 0x20 then t.board
  else if o = 0x24 then s.calOf .a else if o = 0x28 then s.calOf .b else if o = 0x2C then t.temp.zeroExtend 32
  else if o = 0x30 then (if t.lock = 3 then sat32 t.slew else 0) else if o = 0x34 then sat32 t.phaseOfs
  else if o = 0x38 then t.loads.zeroExtend 32
  else if o = 0x40 then loW t.ptpA.gm else if o = 0x44 then hiW t.ptpA.gm
  else if o = 0x48 then loW t.ptpB.gm else if o = 0x4C then hiW t.ptpB.gm
  else if o = 0x50 then loW t.tick else if o = 0x54 then t.tickHi else 0

/-- Quanta left on the pause timer, a part of one counted as one (R166; the rounding DESIGN CHOICE, log 56). -/
def quantaLeft (r : PortSt) : Nat := min 65535 ((r.pause + quantum r.mode - 1) / quantum r.mode)
/-- NETA and NETB (R166). GRANTED is class 3 for fewer than 2 events and class 4 above (R146). -/
def netReg (s : State) (p : Port) (o : Nat) : Word :=
  let r := s.port p
  if o = 0x00 then pk [(b2n r.link, 0), (modeCode r.mode, 1), (b2n r.mdix, 3), (b2n r.swap01, 4), (b2n r.swap23, 5),
    (r.pol.toNat, 6), (b2n r.master, 10), (b2n r.lpPause, 11), (b2n (r.withheld != 0), 12)]
  else if o = 0x04 then r.aneg else if o = 0x08 then r.macCtrl else if o = 0x0C then r.vlan
  else if o = 0x10 then pk [(b2n r.powered, 0), (r.pairsets.toNat, 1), (r.events.toNat, 4),
    (if !r.powered then 0 else if r.events.toNat ≤ 1 then 3 else 4, 8), (b2n r.carrying, 12),
    (b2n (r.powered && !r.carrying), 13), (r.vin.toNat, 16)]
  else if o = 0x14 then r.led else if o = 0x18 then r.txqMap else if o = 0x1C then r.rxPcp
  else if o = 0x20 then pk [(b2n (r.pause != 0), 0), (quantaLeft r, 16)] else 0

/-- PATH_TOPO and PATH_RING ignore writes (R168). -/
def State.topoLocked (s : State) : Bool :=
  let idle := fun f => s.life? f == .off || s.life? f == .stopped
  !(idle .pathA && idle .pathB)

/-- PATH (R195). -/
def pathReg (s : State) (o : Nat) : Word :=
  let x := s.path
  if o = 0x00 then x.topo else if o = 0x04 then x.fwd else if o = 0x08 then x.ring else if o = 0x0C then x.ilk
  else if o = 0x10 then pk [(pathIx x.active, 0), (x.roleA.code, 2), (x.roleB.code, 4), (b2n x.unsync.isSome, 6),
    (b2n s.topoLocked, 7), (b2n x.digestFlag, 8), (b2n s.net.a.ringClosed, 9), (b2n s.net.b.ringClosed, 10),
    (b2n x.ilkLand, 11), (x.matchRun.toNat, 16)]
  else if o = 0x14 then x.lastSwitch else if o = 0x18 then loW x.lastTick else if o = 0x1C then hiW x.lastTick
  else if o = 0x20 then x.digestA else if o = 0x24 then x.digestB else if o = 0x28 then x.digestTick else 0

/-- STRM (R255). -/
def strmReg (s : State) (o : Nat) : Word :=
  let buf := leAt s.rxCfg 8 8
  let margin := fun (p : Port) (k : Nat) =>
    let r := s.rx p k
    pk [(r.marginMin.toNat, 0), (r.marginLast.toNat, 16)]
  let live := fun (p : Port) (w : Nat) => flags (32 * w) 32 fun k => (s.rx p k).live
  let non := fun (p : Port) (w : Nat) => flags (32 * w) 32 fun k => (s.rx p k).nonAudio
  if o % 4 ≠ 0 then 0
  else if o = 0x00 then pk [(s.rxCount, 0), (s.txCount, 16)]
  else if o = 0x08 then BitVec.ofNat 32 buf else if o = 0x0C then BitVec.ofNat 32 (buf / 2 ^ 32 % 256)
  else if 0x10 ≤ o ∧ o < 0x20 then live .a ((o - 0x10) / 4) else if 0x20 ≤ o ∧ o < 0x30 then live .b ((o - 0x20) / 4)
  else if 0x30 ≤ o ∧ o < 0x40 then non .a ((o - 0x30) / 4) else if 0x40 ≤ o ∧ o < 0x50 then non .b ((o - 0x40) / 4)
  else if 0x50 ≤ o ∧ o < 0x58 then flags (32 * ((o - 0x50) / 4)) 32 fun k => (s.tx k).live
  else if 0x100 ≤ o ∧ o < 0x300 then margin .a ((o - 0x100) / 4)
  else if 0x300 ≤ o ∧ o < 0x500 then margin .b ((o - 0x300) / 4) else 0

/-- LOV (R287). -/
def lovReg (s : State) (o : Nat) : Word :=
  if o % 4 ≠ 0 then 0
  else if o = 0x00 then pk [(b2n s.ctrlFast, 0), (s.lov.scales.countP fun e => e.2.ramp.isSome, 16)]
  else if o = 0x04 then BitVec.ofNat 32 s.lov.active else if o = 0x08 then BitVec.ofNat 32 s.lovReserved
  else if o = 0x0C then BitVec.ofNat 32 s.lovBudget else if o = 0x10 then BitVec.ofNat 32 s.lov.peak
  else if o = 0x14 then BitVec.ofNat 32 (s.fadeTime .lovage)
  else if 0x20 ≤ o ∧ o < 0x40 then BitVec.ofNat 32 (s.rampUnits ((o - 0x20) / 4))
  else if 0x100 ≤ o ∧ o < 0x200 then s.lov.clipped[Fin.ofNat 64 ((o - 0x100) / 4)] else 0

/-- DEC and ports (R365). DEC_CH reports the chain of the next reset, from the configurations in force; 0 with none. -/
def decReg (s : State) (o : Nat) : Word :=
  let l := s.loc
  let tdm := fun (x : Fin 2) => pk [((s.tdm x).state.toNat, 0), (b2n (s.tdmSlave x), 4), ((s.tdm x).frameBck.toNat, 16)]
  let set := fun c => decide (c < 40) && decide ((s.dec (Fin.ofNat 40 c)).settle > 0)
  let stk := fun c => decide (c < 40) && (s.dec (Fin.ofNat 40 c)).stuck
  if o % 4 ≠ 0 then 0
  else if o = 0x00 then pk [(l.clkRun.toNat, 0), (l.warming.toNat, 4), (l.ratio128.toNat, 8)]
  else if o = 0x04 then flags 0 32 set else if o = 0x08 then flags 32 8 set
  else if o = 0x0C then flags 0 32 stk else if o = 0x10 then flags 32 8 stk
  else if o = 0x14 then loW l.syncTick else if o = 0x18 then hiW l.syncTick
  else if o = 0x1C then pk [(b2n l.dsync, 0), (b2n s.dsyncEn, 1)]
  else if o = 0x20 then tdm 0 else if o = 0x24 then tdm 1
  else if o = 0x28 then (if s.tdmSlave 0 then (s.tdm 0).ppm else 0) else if o = 0x2C then (if s.tdmSlave 1 then (s.tdm 1).ppm else 0)
  else if 0x100 ≤ o ∧ o < 0x380 then
    (let c := (o - 0x100) / 16
     let d := s.dec (Fin.ofNat 40 c)
     let e := s.decEntry c
     let r := if s.ratioHigh c then 128 else 64
     if o % 16 = 0 then d.peak else if o % 16 = 4 then BitVec.ofNat 32 (isqrt (d.q / 2 ^ 64)) else if o % 16 = 8 then d.env
     else if (s.func .decim).config.isNone then 0 else match s.chain c with
       | some h => pk [(leAt e 0 1 % 4, 0), (leAt e 1 1 % 4, 2), (h.latency r, 8), (h.settle r, 16)]
       | none => pk [(leAt e 0 1 % 4, 0), (leAt e 1 1 % 4, 2)])
  else 0

/-- PCH (R389). -/
def pchReg (s : State) (o : Nat) : Word :=
  let w := s.pwr
  let chFlags := fun (p : Pch → Bool) => (flags 0 4 fun i => p w.ch[Fin.ofNat 4 i]).toNat
  if o % 4 ≠ 0 then 0
  else if o = 0x00 then w.fswCtrl
  else if o = 0x04 then pk [(w.g.toNat, 0), (b2n w.valid, 8), (b2n w.noFsw, 9), (b2n s.anySwitching, 10), (w.fsw.toNat, 16)]
  else if o = 0x08 then (if s.chip.awake then s.chip.pchVbus.zeroExtend 32 else 0)
  else if o = 0x0C then pk [(chFlags (·.clip), 0), ((flags 0 4 fun i => s.chiveOn (Fin.ofNat 4 i)).toNat, 8), (chFlags (·.cut), 16)]
  else if 0x10 ≤ o ∧ o < 0x20 then w.bands[Fin.ofNat 4 ((o - 0x10) / 4)]
  else if 0x100 ≤ o ∧ o < 0x200 then
    (let c := Fin.ofNat 4 ((o - 0x100) / 0x40)
     let p := s.pch c
     if o % 0x40 = 0 then pk [(p.phase.toNat, 0), (b2n (s.pchInvert c), 3), (p.dutyCm, 16)]
     else if o % 0x40 = 4 then pk [(((s.pchScale c * 10 + 2 ^ 31) / (2 ^ 32 : Int)).toNat, 0), (s.pchLevel c, 16)] else 0)
  else 0

/-- SAGE (R415). -/
def sageReg (s : State) (o : Nat) : Word :=
  let w := s.pwr
  let chFlags := fun (p : Pch → Bool) => (flags 0 4 fun i => p w.ch[Fin.ofNat 4 i]).toNat
  let cdeg := fun (t : Int) => (BitVec.ofInt 16 (satInt 16 (divOpen (t * 100) (2 ^ 48)))).toNat
  if o % 4 ≠ 0 then 0
  else if o = 0x00 then pk [(chFlags (·.limiting), 0), (chFlags (·.senseLost), 4), (chFlags (·.reseed), 8),
    (b2n w.baseWarn, 12), (b2n w.baseStop, 13)]
  else if o = 0x04 then w.base.zeroExtend 32
  else if 0x100 ≤ o ∧ o < 0x200 then
    (let p := s.pch (Fin.ofNat 4 ((o - 0x100) / 0x40))
     let k := o % 0x40
     if k = 0x00 then pk [(cdeg p.tc, 0), (cdeg p.tm, 16)]
     else if k = 0x04 then pk [(p.rEst, 0), (b2n p.rValid, 16)]
     else if k = 0x08 then pk [(p.gSage / 2 ^ 16, 0), (b2n (decide (p.gCoil < 2 ^ 32)), 24), (b2n (decide (p.gStage < 2 ^ 32)), 25)]
     else if k = 0x0C then BitVec.ofNat 32 p.protWord
     else if k = 0x10 then p.z
     else if k = 0x14 then pk [(p.die.toNat, 0), (p.pAvg / 2 ^ 16, 16)] else 0)
  else 0

/-- MEMC (R441). -/
def memcReg (s : State) (o : Nat) : Word :=
  let m := s.memc
  let mig := match m.mig with
    | some g => (true, g.rank.val, g.doneMib, g.share)
    | none => (false, 0, 0, 0)
  if o = 0x00 then pk [(b2n (s.running .memctl), 0), (s.memParam 1, 1), (b2n mig.1, 2), (mig.2.1, 4), (b2n m.hot, 6),
    (b2n (m.selfRefresh != 0), 7), (b2n (!m.spareValid), 8)]
  else if o = 0x04 then pk [(m.rankMap[0].val, 0), (m.rankMap[1].val, 2), (m.rankMap[2].val, 4), (m.spare.val, 8),
    (b2n m.spareValid, 10), (m.ranks[0].toNat, 16), (m.ranks[1].toNat, 18), (m.ranks[2].toNat, 20), (m.ranks[3].toNat, 22)]
  else if o = 0x08 then pk [(mig.2.2.1, 0), (mig.2.2.2, 16)]
  else if 0x10 ≤ o ∧ o < 0x20 ∧ o % 4 = 0 then m.masks[Fin.ofNat 4 ((o - 0x10) / 4)]
  else if o = 0x20 then m.errAddr.truncate 32 else if o = 0x24 then (m.errAddr >>> 32).truncate 32
  else if o = 0x28 then m.errInfo else if o = 0x2C then m.rhLast else if o = 0x30 then m.worst.zeroExtend 32 else 0

/-- XBAR (R442). -/
def xbarReg (s : State) (o : Nat) : Word :=
  if o % 4 ≠ 0 then 0
  else if o < 0x68 then
    (let m := Fin.ofNat 13 (o / 8)
     let prio := fun t => s.xbarPrio m (Fin.ofNat 10 t)
     if o % 8 = 0 then pk ((List.range 8).map fun t => (prio t, 4 * t)) else pk [(prio 8, 0), (prio 9, 4)])
  else if 0x80 ≤ o ∧ o < 0x80 + 4 * 13 then
    (let m := Fin.ofNat 13 ((o - 0x80) / 4)
     pk [((s.txnsOf m).length, 0), (b2n (s.memc.draining.getLsbD m.val), 16)])
  else if 0xC0 ≤ o ∧ o < 0xC0 + 4 * 13 then BitVec.ofNat 32 s.memc.peak[Fin.ofNat 13 ((o - 0xC0) / 4)]
  else if o = 0x100 then s.memc.errCount else 0

/-- NVS (R443). -/
def nvsReg (s : State) (o : Nat) : Word :=
  let v := s.svc
  if o = 0 then pk [(b2n v.settingsCopy, 0), (b2n v.patchCopy, 1), (b2n v.settingsValid, 2), (b2n v.patchValid, 3),
    (b2n v.writeFail, 8)]
  else 0

/-- SVC (R139). -/
def svcReg (s : State) (o : Nat) : Word :=
  let v := s.svc
  if o = 0x000 then pk [(b2n v.hostless, 0), (b2n v.provisioned, 1), (b2n v.jtagOpen, 2), (s.nodeId.toNat, 16)]
  else if o = 0x004 then pk [(s.svcParam 3, 0)]
  else if o = 0x008 then v.mac.truncate 32 else if o = 0x00C then (v.mac >>> 32).truncate 32
  else if o = 0x010 then v.keySel
  else if o = 0x018 then pk [((flags 0 4 fun i => v.noardKeys[Fin.ofNat 4 i].isSome).toNat, 0), (v.noardRevoked.toNat, 4),
    ((flags 0 4 fun i => v.imageKeys[Fin.ofNat 4 i].isSome).toNat, 8), (v.imageRevoked.toNat, 12), (b2n v.debugKey.isSome, 16)]
  else if 0x080 ≤ o ∧ o < 0x094 ∧ o % 4 = 0 then v.noardCnt[Fin.ofNat 5 ((o - 0x080) / 4)] else 0

/-- SCn control (R317). -/
def scReg (s : State) (n : Fin 16) (o : Nat) : Word :=
  let c := s.core n
  let ex : Nat := match c.exec with
    | .waiting => 0 | .task => 1 | .init => 2 | .handler => 3 | .halted => 4
  if o = 0x00 then pk [(ex, 0), (b2n c.inHandler, 3), (s.scLog2 n, 4), (b2n c.imageOk, 8), (b2n c.imageUncertain, 9),
    (b2n c.wcetFail, 10), (c.aovEnd.toNat, 16)]
  else if o = 0x04 then c.pc.zeroExtend 32
  else if o = 0x08 then (if (s.func (.sc n)).config.isSome then BitVec.ofNat 32 (s.scBudget n) else 0)
  else if o = 0x0C then c.taskLast else if o = 0x10 then c.taskMax else if o = 0x14 then c.trap
  else if o = 0x18 then loW c.trapTick else if o = 0x1C then hiW c.trapTick
  else if o = 0x24 then pk [(c.image.version.toNat % 65536, 0), (c.image.secVersion.toNat % 65536, 16)]
  else if o = 0x28 then BitVec.ofNat 32 (s.scWcet n) else 0

/-- Before STAGE 0x3 only GLOBAL and PCIE can be read and written; every other block reads zero and ignores writes
(R64). -/
def State.blockOpen (s : State) (b : Nat) : Bool := b ≤ 1 || 3 ≤ s.chip.stage.toNat

/-- What a read of 4 bytes at a BAR0 offset returns; the effect of a read that has one is its command's (R7, R454). -/
def State.regRead (s : State) (off : Nat) : Word :=
  let b := off / 0x1000
  let o := off % 0x1000
  if !s.blockOpen b || (s.chip.variant == .l && (b == 10 || b == 11)) then 0
  else match counterAt off with
  | some (f, i, lo) =>
    if lo then BitVec.ofNat 32 (s.count f i)
    else BitVec.zeroExtend 32 ((s.cnt.hi.get? (cntKey f i)).getD 0)
  | none =>
    if b = 0 then globalReg s o else if b = 1 then pcieReg s o else if b = 2 then ringReg s o
    else if b = 3 then timeReg s o else if b = 4 then netReg s .a o else if b = 5 then netReg s .b o
    else if b = 6 then pathReg s o else if b = 7 then strmReg s o else if b = 8 then lovReg s o
    else if b = 9 then decReg s o else if b = 10 then pchReg s o else if b = 11 then sageReg s o
    else if b = 12 then memcReg s o else if b = 13 then xbarReg s o else if b = 14 then nvsReg s o
    else if b = 15 then svcReg s o else if 0x10 ≤ b ∧ b < 0x20 then scReg s (Fin.ofNat 16 (b - 0x10)) o
    else 0

/-- A read with an effect, or a write, in a block that STAGE opens: before, the read returns 0 without its effect and the
write is ignored (R64). -/
def readIn (b : Nat) (eff : State → State) (s : State) : State := if s.blockOpen b then eff s else s.answer 0
def writeIn (b : Nat) (eff : State → State) (s : State) : State := if s.blockOpen b then eff s else s

/-! Plain writes (R8, R88). -/

/-- Halves of a 64-bit register. -/
def putLo (d : DWord) (v : Word) : DWord := (d &&& 0xFFFFFFFF00000000) ||| v.zeroExtend 64
def putHi (d : DWord) (v : Word) : DWord := (d &&& 0xFFFFFFFF) ||| (v.zeroExtend 64 <<< 32)

/-- A write to a ring's registers; ENABLE keeps its value (R88). Rings that hostless control owns ignore it. -/
def ringWrite (q : Fin 32) (k : Nat) (v : Word) (s : State) : State :=
  let r := s.ring q
  if s.tarrRing q then s
  else if k = 0x14 then s.onRing q fun r => { r with budget := v.truncate 8 }
  else if r.enable || r.draining then s
  else if k = 0x00 then s.onRing q fun r => { r with sqBase := putLo r.sqBase (v &&& 0xFFFFFFC0) }
  else if k = 0x04 then s.onRing q fun r => { r with sqBase := putHi r.sqBase v }
  else if k = 0x08 then s.onRing q fun r => { r with cqBase := putLo r.cqBase (v &&& 0xFFFFFFF0) }
  else if k = 0x0C then s.onRing q fun r => { r with cqBase := putHi r.cqBase v }
  else if k = 0x10 ∧ !bit v 0 then s.onRing q fun r => { r with
    irqAll := bit v 1, sqLog := v.extractLsb' 4 5, cqLog := v.extractLsb' 12 5, prio := v.extractLsb' 20 3, vec := v.extractLsb' 24 5 }
  else s

/-- The common ring registers: the pages and PERIOD ignore writes while fetching (R88). As fetching begins, the next
doorbell read only records EVENT_ACK_SEQ (R120). -/
def ringCommonWrite (o : Nat) (v : Word) (s : State) : State :=
  s.onHost fun h =>
    if o = 0x810 then { h with
      hostPage := { h.hostPage with ackSeq := if !h.fetch && bit v 0 then none else h.hostPage.ackSeq }
      fetch := bit v 0, period := if h.fetch then h.period else v.extractLsb' 8 6, eventVec := v.extractLsb' 16 5 }
    else if h.fetch then h
    else if o = 0x800 then { h with dbAddr := putLo h.dbAddr (v &&& 0xFFFFF000) }
    else if o = 0x804 then { h with dbAddr := putHi h.dbAddr v }
    else if o = 0x808 then { h with stAddr := putLo h.stAddr (v &&& 0xFFFFF000) }
    else if o = 0x80C then { h with stAddr := putHi h.stAddr v }
    else h

/-- A port's registers without a command of their own; MAXLEN 0x3 is ignored (R166). -/
def netWrite (p : Port) (o : Nat) (v : Word) (s : State) : State :=
  s.onPort p fun r =>
    if o = 0x08 then { r with macCtrl := mergeBits (if bits v 1 0 = 3 then 0x10 else 0x13) r.macCtrl v }
    else if o = 0x0C then { r with vlan := v &&& 0x0FFF0003 }
    else if o = 0x14 then { r with led := v &&& 0x1F07 }
    else if o = 0x18 then { r with txqMap := v &&& 0x777 }
    else if o = 0x1C then { r with rxPcp := v &&& 0x1FF }
    else r

/-- A value put into a field with no behaviour of its own; at any other offset nothing happens (R8). -/
def State.regPut (off : Nat) (v : Word) (s : State) : State :=
  let b := off / 0x1000
  let o := off % 0x1000
  if off % 4 ≠ 0 then s
  else if b = 0 then (if o = 0x18 then s.onChip fun c => { c with scratch := v } else s)
  else if b = 1 then (if o = 4 then s.onHost fun h => { h with relaxed := bit v 0 } else s)
  else if b = 2 then (if o < 0x800 then ringWrite (Fin.ofNat 32 (o / 0x40)) (o % 0x40) v s else ringCommonWrite o v s)
  else if b = 3 then (if o = 0x20 then s.onTime fun t => { t with board := v &&& 0xFFFF } else s)
  else if b = 4 then netWrite .a o v s
  else if b = 5 then netWrite .b o v s
  else if b = 6 then
    (if o = 0x04 then s.onPath fun x => { x with fwd := v &&& 7 }
     else if o = 0x0C then s.onPath fun x => { x with ilk := v &&& 1 } else s)
  else if b = 15 then
    (if o = 0x10 then s.onSvc fun x => { x with keySel := v &&& 0x33 }
     else if 0x40 ≤ o ∧ o < 0x80 then s.onSvc fun x => { x with keyData := vmod x.keyData (Fin.ofNat 16 ((o - 0x40) / 4)) fun _ => v }
     else s)
  else s

/-- A write to a field with no behaviour of its own (R8, R64). -/
def State.regWrite (off : Nat) (v : Word) (s : State) : State := if s.blockOpen (off / 0x1000) then s.regPut off v else s

/-! Writes that a rule restricts; also how persisted settings put registers (R438). -/

/-- In a daisy chain ILK selects the fed path (R182, R183); DEDUCED that it follows a write of FED too (log 34). -/
def followFed (s : State) : State :=
  if s.topo = 0 then
    s.onPath fun x => { x with active := s.fed, ilkLand := if x.ext then x.ilkLand else s.fed == .a }
  else s

/-- PATH_TOPO (R168, R195). -/
def writeTopo (v : Word) (s : State) : State :=
  if s.topoLocked then s
  else followFed (s.onPath fun x => { x with topo := mergeBits (if bits v 1 0 = 3 then 0x10 else 0x13) x.topo v })
/-- PATH_RING (R168, R195). -/
def writeRingType (v : Word) (s : State) : State :=
  if s.topoLocked ∨ v.toNat % 65536 < 0x600 then s else s.onPath fun x => { x with ring := v &&& 0xFFFF }
/-- TIME_CTRL (R198, R229). -/
def writeTimeCtrl (v : Word) (s : State) : State :=
  let st := s.life? .timekeeper
  let m := if st == .off || st == .stopped then 0x113 else 0x100
  s.onTime fun t => { t with ctrl := mergeBits m t.ctrl v }
/-- PCH_FSW_CTRL and PCH_BAND_i, while no channel switches (R374). -/
def writeFsw (o : Nat) (v : Word) (s : State) : State :=
  if s.anySwitching ∨ s.chip.variant = .l then s
  else if o = 0x00 then s.onPwr fun p => { p with fswCtrl := v &&& 0x000703FF }
  else if 0x10 ≤ o ∧ o < 0x20 ∧ o % 4 = 0 then
    s.onPwr fun p => { p with bands := vmod p.bands (Fin.ofNat 4 ((o - 0x10) / 4)) fun _ => v &&& 0x0FFFFFFF }
  else s

/-- Offsets that a KIND 0x4 entry of persisted settings may name (R438). -/
def settingReg (off : Nat) : Bool :=
  let b := off / 0x1000
  let o := off % 0x1000
  if b = 4 ∨ b = 5 then o == 4 || o == 8 || o == 12 || o == 0x14 || o == 0x18 || o == 0x1C
  else if b = 6 then o == 0 || o == 4 || o == 8 || o == 12
  else if b = 3 then o == 0 || o == 0x20
  else b == 10 && (o == 0 || o == 0x10 || o == 0x14 || o == 0x18 || o == 0x1C)

/-- A persisted register value applied before the PHYs start (R438). -/
def applySetting (off : Nat) (v : Word) (s : State) : State :=
  let b := off / 0x1000
  let o := off % 0x1000
  if !settingReg off then s
  else if (b = 4 ∨ b = 5) ∧ o = 4 then s.onPort (if b = 4 then .a else .b) fun r => { r with aneg := v &&& 0x317 }
  else if b = 6 ∧ o = 0 then writeTopo v s
  else if b = 6 ∧ o = 8 then writeRingType v s
  else if b = 3 ∧ o = 0 then writeTimeCtrl v s
  else if b = 10 then writeFsw o v s
  else s.regPut off v

end Sys2Proof.Machine
end

