-- ==== Sys2Proof/Machine/Images.lean ====
section
/-! DEFINITION. The bodies of images and their placement: core images (R310-R312), persisted settings (R438), the two
copies in the parameter store (R114, R443). -/

namespace Sys2Proof.Machine

open Sys2Proof

/-! Core images (R310, R311). -/

/-- One section: target memory, local address, length, offset of its data. -/
def imgSection (b : List Byte) (i : Nat) : Nat × Nat × Nat × Nat :=
  (leAt b (64 + 16 * i) 1, leAt b (68 + 16 * i) 4, leAt b (72 + 16 * i) 4, leAt b (76 + 16 * i) 4)
def imgSections (b : List Byte) : List (Nat × Nat × Nat × Nat) := (List.range (leAt b 2 1)).map (imgSection b)
/-- Size of a memory's program range (R290). -/
def progRange (t : Nat) : Nat := if t = 0 then 0x10000 else if t = 1 then 0x18000 else 0x1C000
/-- Base of a section's memory. -/
def targetBase (n : Fin 16) (t : Nat) : Nat := if t = 0 then coreBase n else if t = 1 then dxBase n else dyBase n

def sectionOk (b : List Byte) (x : Nat × Nat × Nat × Nat) : Bool :=
  let (t, dest, len, data) := x
  t ≤ 2 && decide (dest + len ≤ progRange t) && (t != 0 || (dest % 16 == 0 && len % 16 == 0)) && data % 64 == 0
  && decide (data + len ≤ b.length)

/-- A bundle, or none. -/
def entryOk (e : Nat) : Bool := e ≤ 0xFFF || e == 0xFFFF

/-- R311. -/
def coreBodyOk (b : List Byte) : Bool :=
  let n := leAt b 2 1
  let secs := imgSections b
  leAt b 0 2 == 1 && 1 ≤ n && n ≤ 8 && decide (64 + 16 * n ≤ b.length)
  && zeros b 3 1 && zeros b 18 2 && zeros b 30 34 && (List.range n).all (fun i => zeros b (65 + 16 * i) 3)
  && leAt b 4 2 ≤ 0xFFF && entryOk (leAt b 6 2) && entryOk (leAt b 8 2) && entryOk (leAt b 10 2)
  && leAt b 12 4 % 4 == 0 && leAt b 16 2 ≤ 4096 && decide (leAt b 12 4 + 4 * leAt b 16 2 ≤ 0x1C000)
  && leAt b 28 1 ≤ leAt b 29 1 && leAt b 29 1 ≤ 6
  && secs.all (sectionOk b)
  && [0, 1, 2].all fun t => disjoint ((secs.filter fun x => x.1 == t).map fun x => (x.2.1, x.2.2.1))

/-- The header a placed image leaves with its core. -/
def imageOf (c : List Byte) : Image :=
  let b := imgBody c
  { taskEntry := BitVec.ofNat 16 (leAt b 4 2), initEntry := BitVec.ofNat 16 (leAt b 6 2)
    trapEntry := BitVec.ofNat 16 (leAt b 8 2), irqEntry := BitVec.ofNat 16 (leAt b 10 2)
    paramBase := BitVec.ofNat 32 (leAt b 12 4), paramCount := leAt b 16 2, wcetBase := leAt b 20 4
    wcetPerTick := leAt b 24 4, minLog := leAt b 28 1, maxLog := leAt b 29 1, version := imgVersion c, secVersion := imgSec c }

/-- A range of memory set to zero. -/
def memZero (m : List Host.Cell) (a n : Nat) : List Host.Cell := m.filter fun e => !(decide (a ≤ e.1) && decide (e.1 < a + n))

/-- A core image in its core's memories (R311, R312); the words written as parameters are the image's again. -/
def placeCore (n : Fin 16) (c : List Byte) (s : State) : State :=
  let b := imgBody c
  let s1 := s.onMem fun m => memZero (memZero (memZero m (coreBase n) 0x10000) (dxBase n) 0x18000) (dyBase n) 0x1C000
  let s2 := forAll (imgSections b) (fun x s => s.write (targetBase n x.1 + x.2.1) ((b.drop x.2.2.2).take x.2.2.1)) s1
  let s3 := s2.onLife fun l => { l with
    params := l.params.filter fun e => !decide (pidOf (.sc n) 0x100000 ≤ e.1 ∧ e.1 < pidOf (.sc n) 0x101000) }
  s3.onCore n fun k => { k with image := imageOf c, imageOk := true, imageUncertain := false, dirty := [] }

/-! Persisted settings (R438). -/

/-- `k` entries of a body; none where one does not fit or its reserved bytes are not zero. -/
def setEntries : Nat → List Byte → Option (List SetEntry)
  | 0, _ => some []
  | k + 1, b =>
    let n := leAt b 4 4
    if b.length < 8 + n ∨ n % 8 ≠ 0 ∨ leAt b 2 2 ≠ 0 then none
    else (setEntries k (b.drop (8 + n))).map fun r =>
      { kind := leAt b 0 1, func := BitVec.ofNat 8 (leAt b 1 1), data := (b.drop 8).take n } :: r

/-- The pairs of an entry. -/
def SetEntry.pairs (e : SetEntry) : List (Nat × Word) :=
  (List.range (e.data.length / 8)).map fun k => (leAt e.data (8 * k) 4, BitVec.ofNat 32 (leAt e.data (8 * k + 4) 4))

/-- The rules of an entry. -/
def entryRules (e : SetEntry) : Bool :=
  if e.kind = 4 then e.func == 0 && e.pairs.all fun p => settingReg p.1
  else (e.kind == 1 || e.kind == 2 || (e.kind == 3 && e.data.isEmpty)) && (Func.ofId e.func).isSome
    && !(e.kind == 2 && e.func == 0x0C)

/-- The entries of a body whose header is right. -/
def settingsOf (b : List Byte) : Option (List SetEntry) :=
  if leAt b 0 2 = 1 ∧ zeros b 4 12 then setEntries (leAt b 2 2) (b.drop 16) else none

end Sys2Proof.Machine
end

