-- ==== Sys2Proof/Machine/BulkCmds.lean ====
section
/-! DEFINITION. Descriptors that move bulk data or measure a load: COPY, CAPTURE, PLAYBACK, LOAD_IMAGE, POLARITY_TEST,
LOAD_TEST (R112-R114, R281, R282, R310-R312, R408-R411). -/

namespace Sys2Proof.Machine

open Sys2Proof

/-- Data written at an address; words of the parameter store count in WORD_WRITES (R440). -/
def State.place (a : Nat) (bs : List Byte) (s : State) : State :=
  let s1 := s.writeAt (BitVec.ofNat 64 a) bs
  if isModule a && targetOf (modAddr a) == some 6 then s1.bumpBy 0x0E 0 (psWords (modAddr a) bs.length) else s1

/-- The oldest descriptor of an opcode in progress on a ring. -/
def State.jobOn (s : State) (q : Fin 32) (op : Byte) (p : Job → Bool) : Option Job :=
  s.job? fun j => j.ring == q && j.op == op && p j

/-! COPY (R113, R118). -/

def copySrc (d : Desc) : Nat := fld d 16 8
def copyDst (d : Desc) : Nat := fld d 24 8
def copyLen (d : Desc) : Nat := fld d 32 4
/-- Two module ranges of the same length overlap. -/
def overlap (a b n : Nat) : Bool := decide (a < b + n ∧ b < a + n)
def copyForm (d : Desc) : Bool :=
  let a := copySrc d
  let b := copyDst d
  headerOk d false false && noFunc d && payloadOk d [(16, 8), (24, 8), (32, 4)] && addrOk a 1 && addrOk b 1
  && 1 ≤ copyLen d && (isModule a || isModule b)
  && !(isModule a && isModule b && overlap (modAddr a) (modAddr b) (copyLen d))

/-- COPY is taken; its data moves until COPY_COMPLETE (R113). -/
def execCopy (q : Fin 32) (d : Desc) (s : State) : Answer :=
  .next (serve 0x20 q d (copyForm d) (fun idx s => defer q d idx s) s)

/-- Whole destination blocks in the first `k` bytes from `a`, and whether a further one is partly written. -/
def copyBlocks (a k : Nat) : Nat × Bool :=
  let f := 64 - a % 64
  if k < f then (0, k != 0) else (1 + (k - f) / 64, (k - f) % 64 != 0)

/-- What the source gives before its first failure, and the failure (R106). -/
def copyData (s : State) (a n : Nat) (h : HostRead) : List Byte × Byte :=
  if isModule a then
    (let k := s.readable a n
     (s.fetch (modAddr a) k, if k = n then stOk else stMemError))
  else match h with
    | .data b => (b.take n, if n ≤ b.length then stOk else stHostError)
    | .failed => ([], stHostError)

/-- The move, up to the first byte that cannot be read or written (R105, R118). -/
def copyRun (j : Job) (h : HostRead) (s : State) : State :=
  let a := copySrc j.desc
  let b := copyDst j.desc
  let n := copyLen j.desc
  let (bytes, st) := copyData s a n h
  let k := s.writable b bytes.length
  let status := if k < bytes.length then stMemError else st
  let s1 := s.place b (bytes.take k)
  let s2 := if status = stHostError then hostReadFailed (BitVec.ofNat 64 (a + bytes.length)) s1 else s1
  if status = stOk then
    (let (full, part) := copyBlocks b n
     s2.endJob j stOk (full + b2n part) false)
  else
    let (full, part) := copyBlocks b k
    s2.endJob j status full part

/-- COPY_COMPLETE: the last byte of a COPY is written, or its first failure met (R118). Needs the host bus where an
address is the host's (R123). -/
def execCopyComplete (q : Fin 32) (h : HostRead) (s : State) : Answer :=
  .next (match s.jobOn q 0x20 fun _ => true with
    | some j => if s.busWait (copySrc j.desc) || s.busWait (copyDst j.desc) then s else copyRun j h s
    | none => s)

/-! CAPTURE and PLAYBACK (R112, R281, R282). -/

def frameSize (d : Desc) : Nat := 4 * fld d 29 1
def runFrames (d : Desc) : Nat := fld d 32 4
/-- CIRCULAR, or LOOP. -/
def runWraps (d : Desc) : Bool := fbit d 31 0
def runLen (d : Desc) : Nat := fld d 24 4

/-- The fields CAPTURE and PLAYBACK share; a run that does not wrap fits in its buffer (DEDUCED, log 23). -/
def runForm (d : Desc) (limit : Nat) (spare : Nat) : Bool :=
  headerOk d false true && noFunc d
  && payloadOk d [(16, 8), (24, 4), (28, 1), (29, 1), (30, 1), (31, 1), (32, 4), (40, 8)] spare
  && addrOk (fld d 16 8) 64 && addrOk (fld d 40 8) 8
  && 1 ≤ fld d 29 1 && decide (fld d 28 1 + fld d 29 1 ≤ limit) && fld d 30 1 ≤ 1
  && runLen d != 0 && runLen d % frameSize d == 0
  && (runWraps d || (runFrames d != 0 && decide (runFrames d * frameSize d ≤ runLen d)))

def captureForm (d : Desc) : Bool := runForm d 64 (bitMask 31 2 7) && (!fbit d 31 1 || fld d 8 8 == 0)
def playbackForm (d : Desc) : Bool := runForm d 16 (bitMask 31 1 7)

/-- The first tick of a run: the first boundary at or after T, and not before the next one; so a T already past starts it at
the next boundary, which the rule does not say (DESIGN CHOICE, log 54) (R112). -/
def runStart (s : State) (d : Desc) : DWord :=
  let t := s.tickAt (BitVec.ofNat 64 (fld d 8 8))
  if fld d 8 8 = 0 ∨ t.toNat ≤ s.now.toNat then s.now + 1 else t

/-- Runs in progress, module-wide. -/
def State.runs (s : State) : Nat := s.life.jobs.countP fun j => j.isCapture || j.isPlay

/-- CAPTURE (R112). -/
def execCapture (q : Fin 32) (d : Desc) (s : State) : Answer :=
  .next (serve 0x21 q d (captureForm d) (fun idx s =>
    if !s.running .capture then finish q d idx stBadState 0 s
    else if 8 ≤ s.runs then finish q d idx stBudget 0 s
    else addJob { newJob q d idx s with start := if fbit d 31 1 then none else some (runStart s d) } s) s)

/-- PLAYBACK: the generators it names are in playback mode (R112, R278). -/
def execPlayback (q : Fin 32) (d : Desc) (s : State) : Answer :=
  .next (serve 0x22 q d (playbackForm d) (fun idx s =>
    let gens := (List.range (playCount d)).map fun k => Fin.ofNat 16 (playFirst d + k)
    if !s.running .capture || !gens.all (fun g => s.genMode g == 4) then finish q d idx stBadState 0 s
    else if 8 ≤ s.runs then finish q d idx stBudget 0 s
    else addJob { newJob q d idx s with start := some (runStart s d) } s) s)

/-- Samples in the buffer's format (R112, R232). -/
def frameBytes (float : Bool) (ws : List Word) : List Byte :=
  ws.flatMap fun w => leBytes 4 (if float then floatOut w else w).toNat
def frameWords (float : Bool) (n : Nat) (b : List Byte) : List Word :=
  (List.range n).map fun k =>
    let w := BitVec.ofNat 32 (leAt b (4 * k) 4)
    if float then (floatIn w).1 else w

/-- Address of frame `i` in its buffer. -/
def frameAddr (d : Desc) (i : Nat) : Nat := fld d 16 8 + i * frameSize d % runLen d

/-! A bulk descriptor stopped part way (R81, R90, R105, R118). -/

/-- `n` bytes that the spec does not fix. -/
def freeBytes : Nat → State → List Byte × State
  | 0, s => ([], s)
  | n + 1, s =>
    let (l, s1) := freeBytes n s.freshen
    (s.freeVal 8 :: l, s1)

/-- A COPY cut short: how far it has got is free (log 11); `atUnit`: it stops at the next unit boundary. DONE, and whether
the block there is partly written. -/
def cutCopy (atUnit : Bool) (j : Job) (s : State) : State × Nat × Bool :=
  let a := copySrc j.desc
  let b := copyDst j.desc
  if s.busWait a || s.busWait b then (s, 0, false)
  else
    let k0 := min ((s.freeVal 33).toNat % (copyLen j.desc + 1)) (s.writable b (copyLen j.desc))
    let k1 := if isModule a then min k0 (s.readable a k0) else k0
    let full := (copyBlocks b k1).1
    let k := if !atUnit then k1 else if full = 0 then 0 else min k1 (64 - b % 64 + 64 * (full - 1))
    let (bytes, s1) := if isModule a then (s.fetch (modAddr a) k, s.freshen) else freeBytes k s.freshen
    let (done, part) := copyBlocks b k
    (s1.place b bytes, done, part)

/-- A descriptor in progress that is cut: what it leaves in memory, DONE and UNCERTAIN (R118). The frame of a CAPTURE that
waits for its destination, and the MiB of a migration, may be partly written when they are cut at once; whether they are is
free (log 11). An image in placement is uncertain. -/
def cutJob (atUnit : Bool) (j : Job) (s : State) : State × Nat × Bool :=
  if j.op == 0x20 then cutCopy atUnit j s
  else if atUnit then (s, j.done, false)
  else if j.op == 0x21 && !j.frames.isEmpty && !s.busWait (fld j.desc 16 8) then
    let a := frameAddr j.desc j.done
    let b := frameBytes (fld j.desc 30 1 == 1) ((j.frames.head?.map (·.2)).getD [])
    let k := min ((s.freeVal 16).toNat % frameSize j.desc) (s.writable a b.length)
    (s.freshen.place a (b.take k), j.done, k != 0)
  else if j.op == 0x50 then (s.freshen, j.done, s.freeBool)
  else (s, j.done, j.op == 0x23 && j.phase == 1)

/-! The frames of CAPTURE. -/

/-- Frames of a capture that wait for their destination are written, in order, while it can take them. -/
def captureFlush : Nat → Nat → State → State
  | 0, _, s => s
  | k + 1, uid, s =>
    match s.job? fun j => j.uid == uid with
    | none => s
    | some j =>
      let n := runFrames j.desc
      match j.frames with
      | [] => if j.phase = 0 then s else s.endJob j (BitVec.ofNat 8 (j.phase - 1)) j.done false
      | (_, ws) :: rest =>
        let a := frameAddr j.desc j.done
        if s.busWait a then s
        else
          let b := frameBytes (fld j.desc 30 1 == 1) ws
          let w := s.writable a b.length
          let s1 := s.place a (b.take w)
          if w < b.length then s1.endJob j stMemError j.done (w != 0)
          else if n ≠ 0 ∧ n ≤ j.done + 1 then s1.endJob j stOk (j.done + 1) false
          else captureFlush k uid (s1.onJob uid fun j => { j with done := j.done + 1, frames := rest })

/-- A capture takes one tick's frame (R281); with 256 frames pending it has fallen behind and stops (R282). -/
def captureFrame (taps : List Word) (missed : Bool) (j : Job) (s : State) : State :=
  let n := runFrames j.desc
  let due := match j.start with
    | some t => decide ((s.now - t).toNat < 2 ^ 63)
    | none => false
  if !due || j.phase ≠ 0 || (n ≠ 0 && n ≤ j.done + j.frames.length) then s
  else if 256 ≤ j.frames.length then s.endJob j stTimeout j.done false
  else
    let first := fld j.desc 28 1
    let ws := (List.range (fld j.desc 29 1)).map fun k => (taps[first + k]?).getD 0
    captureFlush 257 j.uid
      (((if missed then s.bump 7 2 else s).bump 7 0).onJob j.uid fun j => { j with frames := j.frames ++ [(j.done + j.frames.length, ws)] })

/-- The taps of this tick go to every capture at work. -/
def captureTick (s : State) : State :=
  if !(s.life? .capture).busy || s.life? .capture == .starting then s
  else
    let e := s.edge .lovage .capture
    let on := (s.life? .lovage).busy
    forAll (s.life.jobs.filter Job.isCapture) (captureFrame (if on then e.out else []) (on && e.inMiss)) s

/-- Captures that wait only for their destination. -/
def flushCaptures (s : State) : State :=
  forAll (s.life.jobs.filter fun j => j.isCapture && !j.frames.isEmpty) (fun j s => captureFlush 257 j.uid s) s

/-- Ticks from this boundary to that of frame `i`: 1 is the next boundary. -/
def Job.ahead (now : DWord) (i : Nat) (j : Job) : Int :=
  match j.start with
  | some t => if j.done = 0 ∧ (t - now).toNat < 2 ^ 63 ∧ t ≠ now then ((t - now).toNat : Int) + i
      else (i : Int) - j.done + 1
  | none => 0

/-- PLAYBACK_FRAME_READ: the next frame not read is read, 128 to 4 ticks before its tick (R112); frames whose time to
be read has passed are left out. -/
def execPlaybackFrameRead (q : Fin 32) (tag : BitVec 16) (h : HostRead) (s : State) : Answer :=
  .next (match s.jobOn q 0x22 fun j => tagOf j.desc == tag with
    | none => s
    | some j =>
      let a0 := j.ahead s.now j.phase
      let i := if a0 < 4 then j.phase + (4 - a0).toNat else j.phase
      let n := runFrames j.desc
      let a := frameAddr j.desc i
      if 128 < j.ahead s.now i ∨ (n ≠ 0 ∧ n ≤ i) ∨ s.busWait a then s
      else
        let size := frameSize j.desc
        let s1 := s.onJob j.uid fun j => { j with phase := i + 1 }
        match readSource s a size h with
        | .ok b => s1.onJob j.uid fun j => { j with
            frames := j.frames ++ [(i, frameWords (fld j.desc 30 1 == 1) (playCount j.desc) b)] }
        | .error e => noteRead a e s1)

/-- The boundary of one playback frame: played, or replaced by the hold-and-fade value and counted (R112, R281).
`backlog` holds the frames replaced in this run of misses (R448). -/
def playFrame (j : Job) (s : State) : State :=
  let n := runFrames j.desc
  let due := match j.start with
    | some t => decide (j.done ≠ 0 ∨ (s.now - t).toNat < 2 ^ 63)
    | none => false
  if !due then s
  else if n ≠ 0 ∧ n ≤ j.done then s.endJob j stOk j.done false
  else
    let f := s.fadeTime .capture
    let rest := j.frames.filter fun e => decide (j.done < e.1)
    match j.frames.find? fun e => e.1 == j.done with
    | some (_, ws) =>
      let run := min 2 (j.onTime + 1)
      let back := !j.fade.up && run == 2
      let s1 := if back then s.logEntry 0x03 0x07 0 (BitVec.ofNat 64 j.backlog) else s
      (s1.bump 7 1).onJob j.uid fun j => { j with
        done := j.done + 1, frames := rest, onTime := run, backlog := if back then 0 else j.backlog
        lastFrame := if j.fade.up || back then ws else j.lastFrame
        fade := if back then j.fade.tick.go true f else j.fade.tick }
    | none =>
      let s1 := if j.onTime = 2 ∧ j.fade.up then (s.logEntry 0x02 0x07 0 0xFF06).raise 12 else s
      (s1.bump 7 2).onJob j.uid fun j => { j with
        done := j.done + 1, frames := rest, onTime := 0, backlog := j.backlog + 1
        fade := if j.fade.up then j.fade.tick.go false f else j.fade.tick }

/-- Every playback's frame of this boundary. -/
def playTick (s : State) : State := forAll (s.life.jobs.filter Job.isPlay) playFrame s

/-! LOAD_IMAGE (R114, R311, R312). -/

/-- The function a container's TYPE asks for. -/
def imgFuncOk (ty : Nat) (f : Func) : Bool :=
  match f with
  | .sc _ => ty == 2
  | .service => ty == 1 || ty == 3
  | _ => false

def loadForm (d : Desc) : Bool :=
  let f := descFunc d
  headerOk d false false && payloadOk d [(16, 8), (24, 4)] && addrOk (fld d 16 8) 64 && 128 ≤ fld d 24 4
  && (match f with
    | some (.sc _) => true
    | some .service => true
    | _ => false)

/-- Room for a container in a copy of the store: settings 512 KiB, patches 1152 KiB (R437). -/
def copySize (ty : Nat) : Nat := if ty = 3 then 0x80000 else 0x120000

/-- The structure of a body (R311, R438), and its room. -/
def bodyOk (c : List Byte) : Bool :=
  let ty := imgType c
  if ty = 2 then coreBodyOk (imgBody c)
  else decide (c.length ≤ copySize ty) && (ty != 3 || (match settingsOf (imgBody c) with
    | some l => l.all entryRules
    | none => false))

/-- LOAD_IMAGE: the container is read and checked; placement follows (R114). The image it replaces is not to be run
from here on (DEDUCED, log 24). -/
def execLoadImage (q : Fin 32) (d : Desc) (h : HostRead) (s : State) : Answer :=
  let a := fld d 16 8
  .next (serveAt 0x23 q d (loadForm d) a (fun idx s =>
    match descFunc d, readSource s a (fld d 24 4) h with
    | _, .error e => finish q d idx e 0 (noteRead a e s)
    | none, _ => finish q d idx stBadDesc 0 s
    | some f, .ok c =>
      if !imgFuncOk (imgType c) f || 128 + imgLen c ≠ c.length then finish q d idx stBadDesc 0 s
      else if f != .service && !(s.life? f == .off || s.life? f == .stopped) then finish q d idx stBadState 0 s
      else if imageCheck s c ≠ 0 then finish q d idx stAuthFail 0 s
      else if !bodyOk c then finish q d idx stBadDesc 0 s
      else
        let s1 := match f with
          | .sc n => s.onCore n fun k => { k with imageOk := false }
          | _ => s
        addJob { newJob q d idx s1 with data := c, phase := 1 } s1) s)

/-- Addresses of the copies: settings A and B, patch A and B (R437). -/
def settingsAt (b : Bool) : Nat := if b then 0x10100F0000 else 0x1010070000
def patchAt (b : Bool) : Nat := if b then 0x1010290000 else 0x1010170000

/-- A container in the inactive copy, which one word write then makes the active one (R114, R443). -/
def placeCopy (c : List Byte) (s : State) : State :=
  let put := fun (a : Nat) (s : State) => (s.write a c).bumpBy 0x0E 0 (psWords a c.length + 1)
  if imgType c = 3 then
    (put (settingsAt !s.svc.settingsCopy) s).onSvc fun v => { v with settingsCopy := !v.settingsCopy, settingsValid := true }
  else
    (put (patchAt !s.svc.patchCopy) s).onSvc fun v => { v with patchCopy := !v.patchCopy, patchValid := true }

/-- IMAGE_PLACED: placement ends (R311, R312); on a ring that drains the descriptor is ABORTED after its unit (R90). -/
def execImagePlaced (q : Fin 32) (s : State) : Answer :=
  .next (match s.jobOn q 0x23 fun j => j.phase == 1 with
    | none => s
    | some j =>
      let s1 := match descFunc j.desc with
        | some (.sc n) => placeCore n j.data s
        | _ => placeCopy j.data s
      s1.endJob j (if (s.ring q).draining then stAborted else stOk) 1 false)

/-! POLARITY_TEST and LOAD_TEST (R408-R411). -/

/-- A channel that can take a test. -/
def testReady (c : Fin 4) (s : State) : Bool :=
  s.running (.pch c) && (s.pch c).prot == 0 && (s.pch c).test.isNone

def pchOf (d : Desc) : Option (Fin 4) := match descFunc d with
  | some (.pch c) => some c
  | _ => none

/-- A test begins: the programme and the Chive term fade over 64 ticks; `start` is its origin. -/
def beginTest (q : Fin 32) (d : Desc) (idx : Word) (c : Fin 4) (polarity : Bool) (repeats : Nat) (s : State) : State :=
  let t : TestRun := { job := s.life.nextUid, polarity, repeats, fade := Fade.one.go false 64 }
  (addJob { newJob q d idx s with start := some (s.now + 1) } s).onPch c fun p => { p with test := some t }

/-- POLARITY_TEST (R408, R411). -/
def execPolarityTest (q : Fin 32) (d : Desc) (s : State) : Answer :=
  .next (serve 0x51 q d (headerOk d false false && payloadOk d [(16, 1), (17, 1), (18, 1), (24, 8)] && (pchOf d).isSome
      && fld d 16 1 ≤ 39 && fld d 17 1 ≤ 60 && 1 ≤ fld d 18 1 && fld d 18 1 ≤ 16 && addrOk (fld d 24 8) 8)
    (fun idx s => onFunction q d idx (fun _ s =>
      match pchOf d with
      | none => finish q d idx stBadDesc 0 s
      | some c =>
        if !testReady c s || !s.streamRuns (fld d 16 1) then finish q d idx stBadState 0 s
        else beginTest q d idx c true (fld d 18 1) s) s) s)

/-- LOAD_TEST (R410, R411). -/
def execLoadTest (q : Fin 32) (d : Desc) (s : State) : Answer :=
  .next (serve 0x52 q d (headerOk d false false && payloadOk d [(16, 1), (24, 8)] && (pchOf d).isSome && fld d 16 1 ≤ 1
      && addrOk (fld d 24 8) 8)
    (fun idx s => onFunction q d idx (fun _ s =>
      match pchOf d with
      | none => finish q d idx stBadDesc 0 s
      | some c => if !testReady c s then finish q d idx stBadState 0 s else beginTest q d idx c false 0 s) s) s)

/-- The test on a channel with its descriptor. -/
def State.testOn (s : State) (c : Fin 4) : Option (TestRun × Job) :=
  match (s.pch c).test with
  | none => none
  | some t => (s.job? fun j => j.uid == t.job).map fun j => (t, j)

/-- Ticks since a test's origin. -/
def testSince (s : State) (j : Job) : Nat := match j.start with
  | some e => if (s.now - e).toNat < 2 ^ 63 then (s.now - e).toNat else 0
  | none => 0

/-- POLARITY_IMPULSE: the 20 ms window of the next impulse ends with its sign and delay (R408). -/
def execPolarityImpulse (c : Fin 4) (sign : BitVec 8) (delay : BitVec 24) (s : State) : Answer :=
  .next (match s.testOn c with
    | some (t, j) =>
      let k := t.results.length
      if !t.polarity || t.repeats ≤ k || testSince s j < 64 + s.msTicks (200 * k + 20)
          || !(sign == 0x01 || sign == 0xFF || sign == 0x00) then s
      else s.onPch c fun p => { p with test := some { t with results := t.results ++ [(sign, delay)] } }
    | none => s)

/-- A test's record is written and the programme rises over 64 ticks; an address that cannot be written ends the
descriptor (R118, R410). -/
def endMeasure (c : Fin 4) (t : TestRun) (j : Job) (bytes : List Byte) (done : Nat) (s : State) : State :=
  let rise := fun (s : State) => s.onPch c fun p => { p with test := some { t with finished := true, fade := t.fade.go true 64 } }
  if s.busWait (testAddr j) then s
  else if s.dstOk (testAddr j) bytes.length then rise (writeTest j bytes s)
  else rise (s.endJob j stMemError done false)

/-- POLARITY_RESULT: 20 ms after the last impulse (R408, R409). -/
def execPolarityResult (c : Fin 4) (s : State) : Answer :=
  .next (match s.testOn c with
    | some (t, j) =>
      if !t.polarity || t.finished || t.results.length < t.repeats then s
      else endMeasure c t j (polarityRecord s t) t.repeats s.freshen
    | none => s)

/-- The record of R410: what was measured between the fields the rule fixes. -/
def loadRecord (s : State) (mode : Nat) (m : List Byte) : List Byte :=
  let open_ := leAt m 2 1 % 2
  [BitVec.ofNat 8 mode, if mode = 0 then 0 else 66, BitVec.ofNat 8 open_, 0] ++ leBytes 2 s.pwr.base.toNat ++ leBytes 2 0
  ++ leBytes 4 (if mode = 1 then 0 else if open_ = 1 then 0xFFFFFFFF else leAt m 8 4) ++ leBytes 4 0
  ++ if mode = 0 then [] else (List.range 66).flatMap fun k => leBytes 6 (leAt m (16 + 8 * k) 6) ++ leBytes 2 0

/-- LOAD_TEST_RESULT: the measurement ends (R410). It lasts at least the levels or dwells of its mode. -/
def execLoadTestResult (c : Fin 4) (rec : List Byte) (s : State) : Answer :=
  .next (match s.testOn c with
    | some (t, j) =>
      let mode := fld j.desc 16 1
      if t.polarity || t.finished || testSince s j < 64 + s.msTicks (if mode = 0 then 500 else 10700) then s
      else endMeasure c t j (loadRecord s mode rec) 0 s
    | none => s)

/-- Records of tests that ended early and waited for the host bus (R123, R411). -/
def flushTests (s : State) : State :=
  forAll (s.life.jobs.filter fun j => j.op == 0x51 && decide (256 ≤ j.phase)) (fun j s =>
    if s.busWait (testAddr j) then s
    else (writeTest j j.data s).endJob j (BitVec.ofNat 8 (j.phase - 256)) j.done false) s

/-- The rise after a test has ended: the descriptor completes (R408, R410). -/
def testTick (c : Fin 4) (s : State) : State :=
  match (s.pch c).test with
  | none => s
  | some t =>
    if !t.finished || !t.fade.atFull then s
    else
      let s1 := s.onPch c fun p => { p with test := none }
      match s1.job? fun j => j.uid == t.job with
      | some j => s1.endJob j stOk (if t.polarity then t.repeats else 1) false
      | none => s1

end Sys2Proof.Machine
end

