-- ==== Sys2Proof/Machine/Control.lean ====
section
/-! DEFINITION. Branches, loops and task control in the ALU slot (R335-R339). -/

namespace Sys2Proof.Machine

open Sys2Proof

/-- The main bank resumes at `t`; loops whose body does not contain it end (R339). -/
def jump (n : Fin 16) (t : BitVec 12) (s : State) : State :=
  closeBundle n t (s.onCore n fun c => if c.inHandler then c else c.branchTo t)

/-- A branch on lane 0 of XS2, read at issue (R335). -/
def branch (n : Fin 16) (w : BitVec 32) (cond : Word → Bool) (s : State) : Result :=
  let taken := fun c : Core => c.stageOn (aluStg w) && cond (c.getX (aluXs2 w))[0]
  .next (controlOp n w (fun _ => true) taken
    (fun c s => if taken c then jump n (aluTarget w) s else closePlain n s) s)

/-- BR: always taken (R335). -/
def execBr (n : Fin 16) (w : BitVec 32) (s : State) : Result := branch n w (fun _ => true) s
/-- BZ: taken when lane 0 is 0 (R335). -/
def execBz (n : Fin 16) (w : BitVec 32) (s : State) : Result := branch n w (fun x => x == 0) s
/-- BNZ: taken when lane 0 is not 0 (R335). -/
def execBnz (n : Fin 16) (w : BitVec 32) (s : State) : Result := branch n w (fun x => x != 0) s
/-- BNEG: taken when lane 0 is negative (R335). -/
def execBneg (n : Fin 16) (w : BitVec 32) (s : State) : Result := branch n w (fun x => x.msb) s

/-- A loop instruction is legal (R337, R339). -/
def loopOk (w : BitVec 32) (c : Core) : Bool :=
  !c.inHandler && bits w 2 0 == 0 && decide (c.pc < aluTarget w) && decide (c.loops.length < 3)
  && match c.loops with
    | [] => true
    | l :: _ => l.stages == 1 && decide (aluTarget w < l.last)

/-- A loop of `count` iterations starts (R337). -/
def startLoop (n : Fin 16) (w : BitVec 32) (count : Nat) (s : State) : State :=
  let c := s.core n
  let s1 := s.onCore n fun c => { c with rb := if aluRot w then 0 else c.rb }
  if count = 0 then
    (if aluTarget w = 0xFFF then trapHere n 4 (closeBundle n c.pc s1) else closeBundle n (aluTarget w + 1) s1)
  else
    closeBundle n (c.pc + 1) (s1.onCore n fun c => { c with
      loops := { first := c.pc + 1, last := aluTarget w, count, stages := aluStages w, rot := aluRot w } :: c.loops })

/-- LOOPI: COUNT 0 to 63 iterations (R337). -/
def execLoopi (n : Fin 16) (w : BitVec 32) (s : State) : Result :=
  .next (controlOp n w (loopOk w) (fun _ => false) (fun _ s => startLoop n w (aluCount w) s) s)
/-- LOOPR: bits [15:0] of lane 0 of X register COUNT, read at issue (R337). -/
def execLoopr (n : Fin 16) (w : BitVec 32) (s : State) : Result :=
  .next (controlOp n w (loopOk w) (fun _ => false)
    (fun c s => startLoop n w (bits (c.getX (aluXs2 w))[0] 15 0) s) s)

/-- Every selected transfer channel shows DONE (R336). -/
def xfAllDone (c : Core) (m : BitVec 4) : Bool :=
  (List.finRange 4).all fun i => !m.getLsbD i.val || (c.xf[i]).done

/-- WAITXF: the core pauses until every selected channel shows DONE (R336). -/
def execWaitxf (n : Fin 16) (w : BitVec 32) (s : State) : Result :=
  .next (controlOp n w (fun _ => bits w 5 4 == 0) (fun _ => false)
    (fun c s =>
      let m := BitVec.ofNat 4 (bits w 3 0)
      closePlain n (s.onCore n fun k => if xfAllDone c m then k else { k with waitXf := some m })) s)

/-! Releases (R302, R303, R306). -/

/-- Parameter words written since the last release are copied; PSEQ counts the release (R303). -/
def copyParams (n : Fin 16) (s : State) : State :=
  let c := s.core n
  if c.dirty.isEmpty then s
  else
    let base := dyBase n + c.image.paramBase.toNat
    (forAll c.dirty (fun e s => s.write (base + 4 * e.1) (leBytes 4 e.2.toNat)) s).onCore n fun c => { c with
      dirty := [], pseq := c.pseq + 1 }

/-- The latest block whose input is complete, if its task may be released (R302, R306). A core whose vector still waits for
its consumer pauses (R15), and so does one whose island the sag has stopped (R24). -/
def State.nextBlock (s : State) (n : Fin 16) : Option Nat :=
  let c := s.core n
  let done := s.now.toNat / s.scBlock n
  if islandRuns (.sc n) s && (s.life? (.sc n)).busy && !c.stopping && c.exec == .waiting && !(s.edge (.sc n) .lovage).paused.isSome
      && decide (c.firstBlock.toNat < done) then some (done - 1)
  else none

/-- The task of block `b` starts at TASK_ENTRY in the main bank, `off` units into the tick (R294, R302, R304). -/
def releaseTask (n : Fin 16) (b off : Nat) (s : State) : State :=
  let skipped := b - (s.core n).firstBlock.toNat
  let s1 := ((copyParams n (landAll n s)).bump (0x10 + n.val) 0).bumpBy (0x10 + n.val) 2 skipped
  let s2 := s1.onCore n fun c => { c with
    taskn := BitVec.ofNat 64 b, blen := BitVec.ofNat 7 (s.scBlock n)
    ibase := BitVec.ofNat 17 (0x18000 + 0x2000 * (b % 4)), obase := BitVec.ofNat 17 (0x1C000 + 0x2000 * (b % 2))
    firstBlock := BitVec.ofNat 64 (b + 1), late := false, outBlock := none, orphan := false
    released := s.now, relOff := off
    exec := .task, pc := c.image.taskEntry.truncate 12, loops := [], waitXf := none }
  bundleEdge n s2

/-- The next task, if one may be released. -/
def releaseAt (n : Fin 16) (off : Nat) (s : State) : State :=
  match s.nextBlock n with
  | some b => releaseTask n b off s
  | none => s
/-- The same at a boundary. -/
def releaseNext (n : Fin 16) (s : State) : State := releaseAt n 0 s

/-- Units of R304 in one tick. -/
def State.tickUnits12 (s : State) : Nat := 1200000000 / s.fsHz
/-- How far into the tick an END lies: nothing fixes it but the release before it in the same tick; so it is free. -/
def State.endOff (s : State) (n : Fin 16) : Nat :=
  let c := s.core n
  let lo := if c.released = s.now then min c.relOff s.tickUnits12 else 0
  lo + (s.freeVal 32).toNat % (s.tickUnits12 + 1 - lo)

/-- A trap handler that resumes or ends the task is counted (R316). -/
def countHandled (n : Fin 16) (s : State) : State :=
  if (s.core n).inHandler && (s.core n).trapHandler then s.bump (0x10 + n.val) 4 else s

/-- The output block handed to Lovage when on time, else discarded with OVERRUN (R21, R302, R306); that of a block in hand
at a counter load has no tick in the new count and is discarded (R199). -/
def endOutput (n : Fin 16) (s : State) : State :=
  let c := s.core n
  let b := c.taskn.toNat
  let due := (b + 2) * s.scBlock n
  let wall : Word := BitVec.ofNat 32 (min 0xFFFFFF ((s.now - c.released).toNat * 1200000000 / s.fsHz + s.endOff n - c.relOff))
  let s1 := s.freshen.onCore n fun c => { c with
    taskLast := wall, taskMax := if c.taskMax.toNat < wall.toNat then wall else c.taskMax, aovEnd := c.aov }
  if c.orphan then s1.onCore n fun c => { c with late := false }
  else if c.late || due ≤ s.now.toNat then
    (if c.late then s1 else s1.bump (0x10 + n.val) 1).onCore n fun c => { c with late := false }
  else
    (s1.onEdge (.sc n) .lovage (Edge.place { tick := BitVec.ofNat 64 due, data := s.outWords n b })).onCore n
      fun c => { c with outBlock := some c.taskn }

/-- END: the end of INIT or of the task; in a handler also the return to the main bank. Stores and results in
flight land first, and the next task that may be released is (R302, R305, R306, R308, R336). -/
def execEnd (n : Fin 16) (w : BitVec 32) (s : State) : Result :=
  .next (controlOp n w (fun _ => true) (fun _ => true)
    (fun c s =>
      let kind := if c.inHandler then c.retExec else c.exec
      let s1 := countHandled n s
      let s2 := landAll n (s1.onCore n fun c => { c with cycle := c.cycle + 1 })
      let s3 := s2.onCore n fun c => { c with exec := .waiting, retExec := .waiting, trapHandler := false, loops := [], waitXf := none }
      let off := s3.endOff n
      atTick (s3.copy (.sc n)) (releaseAt n off) (if kind == .task then endOutput n s3 else s3)) s)

/-- Leaving a handler (R336): the main bank resumes at `t`. -/
def leaveHandler (n : Fin 16) (t : BitVec 12) (s : State) : State :=
  let s1 := countHandled n s
  let s2 := landDue n (s1.onCore n fun c => { c with cycle := c.cycle + 1 })
  bundleEdge n (s2.onCore n fun c => { c with exec := c.retExec, pc := t, trapHandler := false })

/-- RTI: resumes at the bundle in place of which the interrupt or trap was taken; ILLEGAL outside a handler. -/
def execRti (n : Fin 16) (w : BitVec 32) (s : State) : Result :=
  .next (controlOp n w (fun c => c.inHandler) (fun _ => true) (fun c s => leaveHandler n c.retPc s) s)
/-- RTIJ: resumes in the main bank at TARGET, ending loops as a branch does (R336, R339). -/
def execRtij (n : Fin 16) (w : BitVec 32) (s : State) : Result :=
  .next (controlOp n w (fun c => c.inHandler) (fun _ => true)
    (fun _ s => leaveHandler n (aluTarget w) (s.onCore n fun c => c.branchTo (aluTarget w))) s)
/-- TRAP: a trap with cause 0x7 in place of this bundle (R336). -/
def execTrap (n : Fin 16) (w : BitVec 32) (s : State) : Result :=
  .next (controlOp n w (fun _ => true) (fun _ => true) (fun _ s => trapHere n 7 s) s)

end Sys2Proof.Machine
end

