-- ==== Sys2Proof/Machine/CoreCmds.lean ====
section
/-! DEFINITION. The scheduling of signal cores: releases, deadlines, interrupts, traps, transfers, the load port (R291,
R302-R309, R317, R336, R337). -/

namespace Sys2Proof.Machine

open Sys2Proof

/-! Blocks and tasks (R302-R306). -/

/-- The sink values of this tick go into the input buffer of its block (R302, R305). -/
def scInput (n : Fin 16) (s : State) : State :=
  if !(s.life? (.sc n)).busy then s
  else
    let s1 := edgeTick .lovage (.sc n) true (·.data) s
    let out := (s1.edge .lovage (.sc n)).out
    let t := s.now.toNat
    let b := s.scBlock n
    s1.write (inAddr n (t / b) + 128 * (t % b))
      ((List.range 32).flatMap fun i => leBytes 4 ((out[i]?).getD 0).toNat)

/-- A task that has not executed END at its deadline counts once in OVERRUN (R306). One in hand at a counter load has no
block in the new count (R199, R455). -/
def taskDeadline (n : Fin 16) (s : State) : State :=
  let c := s.core n
  if c.inTask && !c.late && !c.orphan && decide ((c.taskn.toNat + 2) * s.scBlock n ≤ s.now.toNat) then
    (s.bump (0x10 + n.val) 1).onCore n fun c => { c with late := true }
  else s

/-- A task still running when block b + 4 would overwrite its input traps with cause TIMEOUT, once (R306). -/
def taskTimeout (n : Fin 16) (s : State) : State :=
  let c := s.core n
  let taken := c.trapTick == s.now && bits c.trap 3 0 == 6
  if c.inTask && !taken && !c.orphan && (c.taskn.toNat + 4) * s.scBlock n == s.now.toNat then trapHere n 6 s else s

/-! Interrupts and traps (R307, R308). -/

/-- INTERRUPT_TAKEN: an enabled pending interrupt is taken (R307). -/
def execInterruptTaken (n : Fin 16) (s : State) : Answer := .next (if islandRuns (.sc n) s then takeIrq n s else s)

/-- TRAP_TAKEN: the trap that is due is taken: AOV or XFER when pending, TIMEOUT at its boundary, the others in place of
the bundle at the program counter (R308, R326). -/
def execTrapTaken (n : Fin 16) (cause : BitVec 4) (s : State) : Answer :=
  let c := s.core n
  .next (if !islandRuns (.sc n) s then s
    else if cause = 1 then (if c.aovTrap.isSome && c.issuing then pendingTraps n s else s)
    else if cause = 5 then (if c.xfTrap && c.aovTrap.isNone then pendingTraps n s else s)
    else if cause = 6 then taskTimeout n s
    else if (cause = 2 ∨ cause = 3 ∨ cause = 4 ∨ cause = 7) ∧ c.issuing then trapHere n cause s
    else s)

/-- RESULT_LAND: the first result in flight lands (R297); an AOV trap it makes pending is taken (R326). -/
def execResultLand (n : Fin 16) (s : State) : Answer :=
  .next (if !islandRuns (.sc n) s || (s.core n).flight.isEmpty then s else pendingTraps n (landFirst n s))

/-- WAITXF_RESUME: every selected transfer shows DONE (R336). -/
def execWaitxfResume (n : Fin 16) (s : State) : Answer :=
  .next (if !islandRuns (.sc n) s then s else s.onCore n fun c => match c.waitXf with
    | some m => if xfAllDone c m then { c with waitXf := none } else c
    | none => c)

/-- The bundle at the program counter is the last of a loop's last pass. -/
def atExit (n : Fin 16) (s : State) : Bool :=
  let c := s.core n
  s.issuing n && !c.inHandler && match c.loops with
    | [] => false
    | l :: _ => l.last == c.pc && decide (l.count + l.stages - 1 ≤ l.pass + 1)

/-- LOOP_EXIT: the last bundle of the last pass closes and the core continues after END (R337). -/
def execLoopExit (n : Fin 16) (s : State) : Answer := .next (if atExit n s then closePlain n s else s)

/-- SC_DOORBELL (R317). -/
def execScDoorbell (n : Fin 16) (v : Word) (s : State) : Answer :=
  .next (writeIn (0x10 + n.val) (fun s => s.onCore n fun c => { c with dbell := v.truncate 16, irqPend := c.irqPend ||| 0x20 }) s)

/-! Transfers (R309, R334). -/

/-- The module end of a transfer lies outside every PM and core buffer, and can be read or written. -/
def xfFarOk (s : State) (a n : Nat) (write : Bool) : Bool :=
  let off := (a - 0x1100000000) % 0x100000
  let t := targetOf a
  t.isSome && (t != some 9 || !(off < 0x10000 || isBuffer off || isBuffer (off + n - 1)))
  && !(s.svc.hostless && inStaging a n)
  && (if write then s.dstOk (2 ^ 63 + a) n else s.srcOk (2 ^ 63 + a) n)

/-- XF_DONE: the transfer's data moves and DONE is written, or ERR with the target's status; MEM_ERROR traps with cause
XFER and counts in XF_ERRORS (R309). -/
def execXfDone (n : Fin 16) (c : Fin 4) (status : BitVec 4) (s : State) : Answer :=
  let x := (s.core n).xf[c]
  let loc := if x.dir then x.dst else x.src
  let far := (if x.dir then x.src else x.dst).toNat + x.mhi.toNat * 2 ^ 32
  let la := (if loc.msb then dyBase n else dxBase n) + bits loc 16 0
  let len := x.len.toNat
  let st : BitVec 4 := if status ≠ 0 then status else if xfFarOk s far len (!x.dir) then 0 else 7
  let s1 := if st ≠ 0 then s
    else if x.dir then s.write la (s.fetch far len)
    else s.place (2 ^ 63 + far) (s.read la len)
  let s2 := if st = 7 then s1.bump (0x10 + n.val) 6 else s1
  let s3 := s2.onCore n fun k => { k with
    xf := vmod k.xf c fun x => { x with busy := false, done := true, err := st }
    irqPend := if x.irq then k.irqPend ||| BitVec.ofNat 8 (2 ^ (1 + c.val)) else k.irqPend
    xfTrap := k.xfTrap || st == 7 }
  .next (if !x.busy || !islandRuns (.sc n) s then s else pendingTraps n s3)

/-! The load port (R291). -/

/-- LOAD_PORT_ACCESS: one burst of a master at T9. -/
def execLoadPortAccess (master : Fin 13) (n : Fin 16) (addr : BitVec 20) (write : Option (List Byte)) (len : Nat) (s : State) :
    Answer :=
  let a := coreBase n + addr.toNat
  let r : XbarReq := { id := 0, cls := .bulk, addr := BitVec.ofNat 40 a, len, write }
  .next (if !reaches master 9 || targetOf a != some 9 then respond master 0 stMemError [] s.xbarError
    else if !burstOk r 9 then s
    else
      let (s1, st, data) := serveReq master r 9 s
      respond master 0 st data s1)

end Sys2Proof.Machine
end

