-- ==== Sys2Proof/Machine/LocCmds.lean ====
section
/-! DEFINITION. The events of the PDM clocks, the decimators, DSYNC and the TDM ports (R342-R357). -/

namespace Sys2Proof.Machine

open Sys2Proof

/-! PDM and decimators. -/

/-- DEC_STUCK: 4096 bits of one level, the last of them in this tick; the channel holds and fades, and the event is
counted (R344). -/
def execDecStuck (c : Fin 40) (s : State) : Answer :=
  .next (if sticks c (ratioOf (s.ratioHigh c.val)) s then becomeStuck c s else s)
/-- A bit of the other level has arrived: at its boundary the channel alone is reset (R344). -/
def unstick (c : Fin 40) (s : State) : State := if s.decRuns c && (s.dec c).stuck then resetDec c s else s
/-- DEC_SETTLE_END: S zeros delivered; a CONTROL channel is live, any other rises (R350). -/
def execDecSettleEnd (c : Fin 40) (s : State) : Answer :=
  .next (if s.decRuns c && (s.dec c).settle = 1 && (s.dec c).clearAt.isNone then endSettle c s else s)

/-- An accepted edge at this boundary or up to two ticks after a DSYNC reset is ignored (R351). -/
def State.dsyncHeld (s : State) : Bool :=
  match s.loc.dsyncAt with
  | some b => decide ((s.now - b).toNat ≤ 2)
  | none => false

/-- DSYNC_EDGE: a rising edge after `lowNs` low that stays high for `highNs`. At least 200 ns of each is accepted;
then it waits for its boundary, or is ignored and counted (R351). -/
def execDsyncEdge (lowNs highNs : Nat) (s : State) : Answer :=
  .next (
    if lowNs < 200 || highNs < 200 then s
    else
      let s1 := s.onLoc fun l => { l with dsync := true }
      if s.life? .decim != Life.running || !s.dsyncEn || s.dsyncHeld then s1.bump 8 1
      else s1.onLoc fun l => { l with dsyncWait := true, dsyncFrom := if l.dsyncWait then l.dsyncFrom else s.now })

/-- The first boundary at least 2 us after an accepted edge: all channels are reset (R351, R349). -/
def dsyncReset (s : State) : State :=
  if !s.loc.dsyncWait then s
  else
    let s1 := s.onLoc fun l => { l with dsyncWait := false }
    if (s.life? .decim).busy then (syncDec s1).onLoc fun l => { l with dsyncAt := some s.now } else s1
/-- The boundary after the one that follows the edge lies 2 us behind it in any case (R351). -/
def dsyncDue (s : State) : State := if 2 ≤ (s.now - s.loc.dsyncFrom).toNat then dsyncReset s else s

/-! TDM ports (R354-R357). -/

/-- The runs of wrong frames (R357): of a period outside 1/Fs by more than 2 %, and of one wrong bit-clock count. -/
def Tdm.judge (want bck : Nat) (ppm : Int) (t : Tdm) : Tdm :=
  { t with
    frameBck := BitVec.ofNat 16 bck, ppm := BitVec.ofInt 32 ppm, lastBck := bck
    badRate := if ppm.natAbs > 20000 then t.badRate + 1 else 0
    badBck := if bck = want then 0 else if t.lastBck = bck then t.badBck + 1 else 1 }

/-- A frame of a slave port. -/
def slaveFrame (x : Fin 2) (bck edges : Nat) (ppm : Int) (slots : List Word) (s : State) : State :=
  let want := 32 * s.tdmSlots x
  let fn := (tdmFunc x).id.toNat
  let s1 := if edges = 0 then s else s.onTdm x (Tdm.judge want bck ppm)
  let t := s1.tdm x
  if t.state = 6 ∨ (t.state = 2 ∧ edges = 0) then s1
  else
    let s2 := if edges ≠ 1 then tdmFall x 3 (s1.bump fn 3)
      else if bck ≠ want then tdmFall x 3 (s1.bump fn 2)
      else
        let s2 := (s1.bump fn 0).onTdm x fun t => { t with good := t.good + 1, rx := some slots }
        if !t.good? && decide (s.tdmStable x ≤ t.good + 1) then tdmRise x s2 else s2
    if 64 ≤ t.badRate ∨ 64 ≤ t.badBck then tdmFall x 6 (s2.bump fn 4) else s2

/-- TDM_FRAME: the frame of this tick has ended: its bit-clock count, the frame-start edges in its window, its rate
and its slots. A master's frame is its own (R354, R357). -/
def execTdmFrame (x : Fin 2) (bck : Nat) (edges : Nat) (ratePpm : Int) (slots : List Word) (s : State) : Answer :=
  .next (
    if !(s.life? (tdmFunc x)).busy then s
    else if s.tdmSlave x then slaveFrame x bck edges ratePpm slots s
    else if (s.tdm x).clocks then
      (s.bump (tdmFunc x).id.toNat 0).onTdm x fun t => { t with
        rx := some slots, frameBck := BitVec.ofNat 16 (32 * s.tdmSlots x) }
    else s)

/-- TDM_LOSS: no frame-start edge for 2/Fs at a slave port (R357). -/
def execTdmLoss (x : Fin 2) (s : State) : Answer :=
  .next (
    let t := s.tdm x
    if !(s.life? (tdmFunc x)).busy || !s.tdmSlave x || t.state = 2 || t.state = 6 then s
    else tdmFall x 2 (s.bump (tdmFunc x).id.toNat 1))

end Sys2Proof.Machine
end

