-- ==== Sys2Proof/Machine/Mac.lean ====
section
/-! DEFINITION. The MAC slot (R322-R325): each operation has a latency of 4 bundles; XA, XB and AS are read at issue,
AD when the result lands. -/

namespace Sys2Proof.Machine

open Sys2Proof

/-- XB, or its lane BL in every lane (R322). -/
def xbOf (c : Core) (w : BitVec 40) : Lanes :=
  let v := c.getX (macXb w)
  if macBc w then splat v[macBl w] else v

/-- XA times XB', exact (R321). -/
def product (c : Core) (w : BitVec 40) : AccLanes := zipLanes mulLane (c.getX (macXa w)) (xbOf c w)

/-- A MAC operation with the fields it uses (AD, XA, XB, AS) and what lands in AD. -/
def macSlot (n : Fin 16) (w : BitVec 40) (ad xa xb as : Bool) (val : Core → Landing) (s : State) : Result :=
  .next (slotOp n (macStg w) (macFieldsOk w ad xa xb as) (fun _ => true)
    (fun c s => s.onCore n fun k => k.issue 4 0 (.acc (macAd w) c.inHandler) (val c)) s)

/-- MNOP: no result (R323). -/
def execMnop (n : Fin 16) (w : BitVec 40) (s : State) : Result :=
  .next (slotOp n (macStg w) (macFieldsOk w false false false false) (fun _ => true) (fun _ s => s) s)
/-- MPY: AD receives XA × XB' (R323). -/
def execMpy (n : Fin 16) (w : BitVec 40) (s : State) : Result :=
  macSlot n w true true true false (fun c => .accSet (product c w)) s
/-- MAC: AD receives AD + XA × XB' (R323, R324). -/
def execMac (n : Fin 16) (w : BitVec 40) (s : State) : Result :=
  macSlot n w true true true false (fun c => .accAdd (product c w)) s
/-- MSU: AD receives AD − XA × XB' (R323, R324). -/
def execMsu (n : Fin 16) (w : BitVec 40) (s : State) : Result :=
  macSlot n w true true true false (fun c => .accSub (product c w)) s
/-- MPYA: AD receives AS + XA × XB' (R323). -/
def execMpya (n : Fin 16) (w : BitVec 40) (s : State) : Result :=
  macSlot n w true true true true (fun c => .accSum (c.getA (macAs w)) (product c w)) s
/-- AADD: AD receives AD + AS (R323, R324). -/
def execAadd (n : Fin 16) (w : BitVec 40) (s : State) : Result :=
  macSlot n w true false false true (fun c => .accAdd (c.getA (macAs w))) s
/-- ASUB: AD receives AD − AS (R323, R324). -/
def execAsub (n : Fin 16) (w : BitVec 40) (s : State) : Result :=
  macSlot n w true false false true (fun c => .accSub (c.getA (macAs w))) s
/-- AMOV: AD receives AS (R323). -/
def execAmov (n : Fin 16) (w : BitVec 40) (s : State) : Result :=
  macSlot n w true false false true (fun c => .accSet (c.getA (macAs w))) s
/-- ACLR: AD receives 0 (R323). -/
def execAclr (n : Fin 16) (w : BitVec 40) (s : State) : Result :=
  macSlot n w true false false false (fun _ => .accSet (splat 0)) s
/-- ALD: AD receives XA × 2^31 (R323). -/
def execAld (n : Fin 16) (w : BitVec 40) (s : State) : Result :=
  macSlot n w true true false false
    (fun c => .accSet (mapLanes (fun (x : Word) => BitVec.ofInt 80 (x.toInt * 2 ^ 31)) (c.getX (macXa w)))) s

end Sys2Proof.Machine
end

