-- ==== Sys2Proof/Machine/MemCmds.lean ====
section
/-! DEFINITION. The crossbar, the atomic operations, the DRAM controller and the parameter store as commands (R416-R443). -/

namespace Sys2Proof.Machine

open Sys2Proof

/-! The crossbar (R416-R420). -/

/-- XBAR_REQUEST: refused at once if unreachable, else outstanding or waiting (R416, R417). -/
def execXbarRequest (m : Fin 13) (r : XbarReq) (s : State) : Answer := .next (request m r s)
/-- BURST_GRANT: the highest-priority waiting master, in turn among equals (R418). -/
def execBurstGrant (t : Fin 10) (s : State) : Answer := .next (grant t s)
/-- TRANSACTION_RESPONSE (R417). -/
def execTransactionResponse (m : Fin 13) (id : BitVec 6) (s : State) : Answer := .next (respondTxn m id s)
/-- MASTER_RESET_DRAIN: none of the abandoned transactions is outstanding any more (R420). -/
def execMasterResetDrain (m : Fin 13) (s : State) : Answer :=
  .next (if (s.txnsOf m).any (·.abandoned) then s
    else intake m 33 (s.onMemc fun c => { c with draining := c.draining &&& ~~~(BitVec.ofNat 13 (2 ^ m.val)) }))

/-! Atomic operations (R435). -/

/-- SWAP: word becomes operand. -/
def execSwap (m : Fin 13) (a : AtomicArg) (s : State) : Answer := .next (atomic m a (fun _ => a.operand.toNat) s)
/-- FETCH_ADD: modulo 2^32 or 2^64. -/
def execFetchAdd (m : Fin 13) (a : AtomicArg) (s : State) : Answer := .next (atomic m a (fun x => x + a.operand.toNat) s)
/-- FETCH_AND. -/
def execFetchAnd (m : Fin 13) (a : AtomicArg) (s : State) : Answer := .next (atomic m a (fun x => x &&& a.operand.toNat) s)
/-- FETCH_OR. -/
def execFetchOr (m : Fin 13) (a : AtomicArg) (s : State) : Answer := .next (atomic m a (fun x => x ||| a.operand.toNat) s)
/-- CAS: word becomes `new` if it equals the compare value, which is the operand. -/
def execCas (m : Fin 13) (a : AtomicArg) (new : DWord) (s : State) : Answer :=
  .next (atomic m a (fun x => if x = a.operand.toNat % 2 ^ (if a.wide then 64 else 32) then new.toNat else x) s)

/-! Refresh, self-refresh, scrub (R421, R427, R428, R430). -/

/-- DRAM_REFRESH: issued, postponed or forced. `burst`: a real-time burst is being served in the rank; `waiting`: another
one waits. -/
def execDramRefresh (rank : Fin 4) (burst waiting : Bool) (s : State) : Answer :=
  let owe := fun (n : Nat) (s : State) => s.onMemc fun c => { c with owed := vmod c.owed rank fun _ => n }
  let n := s.memc.owed[rank]
  .next (if s.memc.selfRefresh.getLsbD rank.val then s
    else if !burst then owe 0 s
    else if 8 ≤ n then s.bump 0x0D 5
    else if waiting then (owe (n + 1) s).bump 0x0D 4
    else (owe 0 s).bump 0x0D 4)

/-- SELF_REFRESH_ENTRY: a rank without a request for SR_IDLE, where SR_IDLE is not 0; its rows close. -/
def execSelfRefreshEntry (rank : Fin 4) (s : State) : Answer :=
  .next (if s.memParam 9 = 0 || !s.running .memctl then s
    else s.onMemc fun c => { c with
      selfRefresh := c.selfRefresh ||| BitVec.ofNat 4 (2 ^ rank.val)
      openRow := c.openRow.filter fun e => e.1 / 16 != rank.val })

/-- PATROL_SCRUB: a word of a rank in service; `last` ends a pass (R421, R440). -/
def execPatrolScrub (rank : Fin 4) (addr : BitVec 31) (err : DramError) (last : Bool) (s : State) : Answer :=
  let st := s.memc.ranks[rank]
  let a := s.rankBase rank + addr.toNat
  let s1 := match err with
    | .none => s
    | .correctable => corrected rank a 15 s
    | .uncorrectable => uncorrectable rank a 15 s
  .next (if !s.running .memctl || !(st == 0 || st == 2) then s else if last then s1.bump 0x0D 10 else s1)

/-- PARITY_ALERT: counted, recorded, logged, and the rank is retired at once (R431). -/
def execParityAlert (rank : Fin 4) (addr : BitVec 40) (m : Fin 13) (s : State) : Answer :=
  .next (retireRank rank addr.toNat (logDram 3 addr.toNat (noteError 3 m.val rank.val addr.toNat (s.bump 0x0D 2))))

/-- DRAM_HOT_CHANGE (R427). -/
def execDramHotChange (hot : Bool) (s : State) : Answer := .next (s.onMemc fun c => { c with hot })
/-- ROW_HAMMER_WINDOW_END: the counts restart and throttling lifts (R430). -/
def execRowHammerWindowEnd (s : State) : Answer := .next (s.onMemc fun c => { c with rows := [], throttled := [] })

/-! Migration (R432, R433). -/

/-- The MEM_RETIRE of a migration. -/
def State.migJob (s : State) (g : Mig) : Option Job :=
  match g.job with
  | some u => s.job? fun j => j.uid == u
  | none => none

/-- A MEM_RETIRE ends. -/
def endRetire (g : Mig) (st : Byte) (done : Nat) (unc : Bool) (s : State) : State :=
  match s.migJob g with
  | some j => s.endJob j st done unc
  | none => s

/-- Words that the failing rank cannot correct are poisoned, logged by address and counted. -/
def poisonWords (base : Nat) (l : List (BitVec 20)) (s : State) : State :=
  forAll l (fun o s =>
    let w := base + o.toNat / 4 * 4
    (logDram 6 w (s.bump 0x0D 3)).onMemc fun c => { c with
      poison := if c.poison.contains w then c.poison else c.poison ++ [w] }) s

/-- MIGRATION_MIB_COPY: one MiB in address order, or the failure of the spare; a MEM_RETIRE whose ring drains stops at
the MiB boundary, unless the retirement has become automatic (R432, R433). -/
def execMigrationMibCopy (uncorrectable : List (BitVec 20)) (spareFails : Bool) (s : State) : Answer :=
  .next (match s.memc.mig with
    | none => s
    | some g =>
      if spareFails then
        endRetire g stMemError g.doneMib true (s.onMemc fun c => { c with
          mig := none, spareValid := false, ranks := vmod c.ranks c.spare fun _ => 3 })
      else if 2048 ≤ g.doneMib then s
      else
        let s1 := poisonWords (s.rankBase g.rank + g.doneMib * 2 ^ 20) uncorrectable s
        let done := g.doneMib + 1
        let drains := match s.migJob g with
          | some j => !g.auto && (s.ring j.ring).draining
          | none => false
        if drains then
          endRetire g stAborted done false (s1.onMemc fun c => { c with mig := none, ranks := vmod c.ranks g.rank fun _ => 0 })
        else s1.onMemc fun c => { c with mig := some { g with doneMib := done } })

/-- RANK_MAP_SWITCH: after 2048 MiB the logical rank is the spare's; the map is persisted (R432). -/
def execRankMapSwitch (s : State) : Answer :=
  .next (match s.memc.mig with
    | none => s
    | some g =>
      if g.doneMib < 2048 then s
      else
        let base := s.rankBase g.rank
        let s1 := (s.onMemc fun c => { c with
          mig := none, spareValid := false, rankMap := c.rankMap.map fun r => if r = g.rank then c.spare else r
          ranks := vmod (vmod c.ranks g.rank fun _ => 3) c.spare fun _ => 0 }).bump 0x0E 0
        endRetire g stOk 2048 false ((logDram 5 base s1).raise 10))

/-! The parameter store (R436). -/

/-- PS_WORD_WRITE: a word of 8 bytes, verified and tried at most 4 times; the word keeps its old value when every try
fails. `corrected`: its code corrected a bit when it was read back. -/
def execPsWordWrite (addr : BitVec 22) (data : DWord) (failures : Nat) (corrected : Bool) (s : State) : Answer :=
  let s1 := if corrected then s.bump 0x0E 1 else s
  .next (if 4 ≤ failures then (s1.bump 0x0E 2).onSvc fun v => { v with writeFail := true }
    else (s1.write (0x1010000000 + addr.toNat / 8 * 8) (leBytes 8 data.toNat)).bump 0x0E 0)

end Sys2Proof.Machine
end

