-- ==== Sys2Proof/Machine/Move.lean ====
section
/-! DEFINITION. The move slots (R332-R334): loads, stores, post-modify (R298-R301) and register moves. -/

namespace Sys2Proof.Machine

open Sys2Proof

/-- The low `n` bits of `x` in reverse order. -/
def revBits : Nat → Nat → Nat
  | 0, _ => 0
  | n + 1, x => x % 2 * 2 ^ n + revBits n (x / 2)

/-- The exponent w when L is 2^w with w from 5 to 17 (R301). -/
def bitRevExp (l : BitVec 18) : Option Nat :=
  let n := l.toNat
  let w := Nat.log2 n
  if n = 2 ^ w ∧ 5 ≤ w ∧ w ≤ 17 then some w else none

/-- Reverse-carry sum of bits [w-1:a] of the offset and of M; the other bits become 0 (R301). -/
def bitRevNext (w a off m : Nat) : Nat :=
  let k := w - a
  let x := off / 2 ^ a % 2 ^ k
  let y := m / 2 ^ a % 2 ^ k
  revBits k ((revBits k x + revBits k y) % 2 ^ k) * 2 ^ a

/-- The modifier: an M register, or MODV in units of the access size (R332). -/
def modifier (c : Core) (w : BitVec 28) (unit : Nat) : Int :=
  if mvImm w then sbits w 9 0 * unit else (c.bank.m[Fin.ofNat 8 (bits w 2 0)]).toInt

/-- The pointer after its post-modify (R299, R301): linear, modulo, or bit-reversed. -/
def postModify (c : Core) (w : BitVec 28) (unit : Nat) : Word :=
  let p := c.bank.p[mvPtr w]
  let m := modifier c w unit
  if h : (mvPtr w).val < 8 then
    let l := c.bank.l[(mvPtr w).val]
    let b := c.bank.b[(mvPtr w).val]
    if mvBr w then
      let k := (bitRevExp l).getD 5
      b + BitVec.ofNat 32 (bitRevNext k (Nat.log2 unit) (p - b).toNat (wrapWord m).toNat)
    else if l = 0 then p + wrapWord m
    else wrapWord ((b.toNat : Int) + ((p.toNat : Int) + m - (b.toNat : Int)) % (l.toNat : Int))
  else p + wrapWord m

/-- The pointer form is legal: reserved MODV bits, BR only with P0–P7 (R333). -/
def ptrForm (w : BitVec 28) : Bool := mvModOk w && (!mvBr w || decide ((mvPtr w).val < 8))
/-- BR finds an L that R301 allows. -/
def ptrOk (c : Core) (w : BitVec 28) : Bool :=
  !mvBr w || (if h : (mvPtr w).val < 8 then (bitRevExp c.bank.l[(mvPtr w).val]).isSome else false)

def mvRank : MvSlot → Nat
  | .mv1 => 2
  | .mv2 => 3
def mvDy : MvSlot → Bool
  | .mv1 => false
  | .mv2 => true
def mvBase (n : Fin 16) (slot : MvSlot) : Nat := if mvDy slot then dyBase n else dxBase n

/-- The local address of the access (R298). -/
def mvAddr (c : Core) (w : BitVec 28) : BitVec 17 := (c.bank.p[mvPtr w]).truncate 17

/-- The pointer's new value issued, latency 1 (R299). -/
def issuePtr (n : Fin 16) (slot : MvSlot) (w : BitVec 28) (unit : Nat) (s : State) : State :=
  let c := s.core n
  s.onCore n fun k => k.issue 1 (mvRank slot) (.asel (BitVec.ofNat 6 (mvPtr w).val) c.inHandler)
    (.reg (postModify c w unit))

/-- An access of `size` bytes: ILLEGAL forms, then MISALIGN (R298), then the access and the post-modify. -/
def access (n : Fin 16) (slot : MvSlot) (w : BitVec 28) (size : Nat) (ok : Bool) (body : Core → State → State)
    (s : State) : Result :=
  let c := s.core n
  if s.issuing n && c.stageOk (mvStg w) && c.stageOn (mvStg w) && ok && ptrForm w && ptrOk c w
      && (mvAddr c w).toNat % size != 0 then .next (trapHere n 2 s)
  else .next (slotOp n (mvStg w) (ok && ptrForm w) (ptrOk · w) (fun c s => issuePtr n slot w size (body c s)) s)

/-- The words at a local address. -/
def localWords (n : Fin 16) (slot : MvSlot) (a : BitVec 17) (s : State) : Lanes :=
  Vector.ofFn fun i => BitVec.ofNat 32 (ofLe (s.read (mvBase n slot + a.toNat + 4 * i.val) 4))

def issueMv (n : Fin 16) (slot : MvSlot) (d : Nat) (dest : Dest) (v : Landing) (s : State) : State :=
  s.onCore n fun k => k.issue d (mvRank slot) dest v

/-- Accumulator loads and stores of one part of each lane (R333). -/
def loadAcc (n : Fin 16) (slot : MvSlot) (w : BitVec 28) (part : Fin 3) (s : State) : Result :=
  access n slot w 32 (bits w 21 20 == 0) (fun c s =>
    issueMv n slot 3 (.acc (mvAcc w) c.inHandler) (.accPart part (localWords n slot (mvAddr c w) s)) s) s
def storeAcc (n : Fin 16) (slot : MvSlot) (w : BitVec 28) (f : Acc → Word) (s : State) : Result :=
  access n slot w 32 (bits w 21 20 == 0) (fun c s =>
    issueMv n slot 1 (.mem (mvDy slot) (mvAddr c w)) (.lanes (mapLanes f (c.getA (mvAcc w)))) s) s

/-- MVNOP: nothing (R333). -/
def execMvnop (n : Fin 16) (slot : MvSlot) (w : BitVec 28) (s : State) : Result :=
  .next (slotOp n (mvStg w) true (fun _ => true) (fun _ s => match slot with | .mv1 => s | .mv2 => s) s)
/-- LDV: eight words, word i to lane i, latency 3 (R333). -/
def execLdv (n : Fin 16) (slot : MvSlot) (w : BitVec 28) (s : State) : Result :=
  access n slot w 32 true (fun c s =>
    issueMv n slot 3 (c.destX (mvReg w)) (.lanes (localWords n slot (mvAddr c w) s)) s) s
/-- LDB: one word in every lane, latency 3 (R333). -/
def execLdb (n : Fin 16) (slot : MvSlot) (w : BitVec 28) (s : State) : Result :=
  access n slot w 4 true (fun c s =>
    issueMv n slot 3 (c.destX (mvReg w)) (.lanes (splat (localWords n slot (mvAddr c w) s)[0])) s) s
/-- STV: lanes 0 to 7 to eight words (R333). -/
def execStv (n : Fin 16) (slot : MvSlot) (w : BitVec 28) (s : State) : Result :=
  access n slot w 32 true (fun c s =>
    issueMv n slot 1 (.mem (mvDy slot) (mvAddr c w)) (.lanes (c.getX (mvReg w))) s) s
/-- STS: lane 0 to one word (R333). -/
def execSts (n : Fin 16) (slot : MvSlot) (w : BitVec 28) (s : State) : Result :=
  access n slot w 4 true (fun c s =>
    issueMv n slot 1 (.mem (mvDy slot) (mvAddr c w)) (.reg (c.getX (mvReg w))[0]) s) s
/-- LDAL: bits [31:0] of each lane (R333). -/
def execLdal (n : Fin 16) (slot : MvSlot) (w : BitVec 28) (s : State) : Result := loadAcc n slot w 0 s
/-- LDAM: bits [63:32] (R333). -/
def execLdam (n : Fin 16) (slot : MvSlot) (w : BitVec 28) (s : State) : Result := loadAcc n slot w 1 s
/-- LDAH: bits [79:64] from bits [15:0] of the word (R333). -/
def execLdah (n : Fin 16) (slot : MvSlot) (w : BitVec 28) (s : State) : Result := loadAcc n slot w 2 s
/-- STAL: bits [31:0] (R333). -/
def execStal (n : Fin 16) (slot : MvSlot) (w : BitVec 28) (s : State) : Result :=
  storeAcc n slot w (fun a => a.truncate 32) s
/-- STAM: bits [63:32] (R333). -/
def execStam (n : Fin 16) (slot : MvSlot) (w : BitVec 28) (s : State) : Result :=
  storeAcc n slot w (fun a => a.extractLsb' 32 32) s
/-- STAH: bits [79:64], sign-extended (R333). -/
def execStah (n : Fin 16) (slot : MvSlot) (w : BitVec 28) (s : State) : Result :=
  storeAcc n slot w (fun a => (a.extractLsb' 64 16).signExtend 32) s
/-- MODP: post-modify without access; REG reserved; offsets in units of 4 bytes (R332, R333). -/
def execModp (n : Fin 16) (slot : MvSlot) (w : BitVec 28) (s : State) : Result :=
  .next (slotOp n (mvStg w) (bits w 21 16 == 0 && ptrForm w) (ptrOk · w) (fun _ s => issuePtr n slot w 4 s) s)

/-! Transfer starts (R309). -/

/-- The fields with which a transfer channel would start: CTRL value `v`. -/
def xfFieldsOk (x : Xf) (v : Word) : Bool :=
  let loc := if bit v 2 then x.dst else x.src
  let far := if bit v 2 then x.src else x.dst
  let len := x.len.toNat
  !x.busy && decide (32 ≤ len) && decide (len ≤ 65536) && len % 32 == 0
  && bits loc 30 17 == 0 && loc.toNat % 32 == 0 && decide (bits loc 16 0 + len ≤ 0x20000)
  && far.toNat % 32 == 0

/-- ASEL names a register that can be written (R334). -/
def selForm (i : BitVec 6) : Bool := decide (i.toNat < 56) || i == 0x3F
/-- A write of `v` to it is legal (R333, R309). -/
def selOk (c : Core) (i : BitVec 6) (v : Word) : Bool :=
  let n := i.toNat
  if n < 32 then true
  else if n < 40 then decide (v.toNat ≤ 131072)
  else if n < 56 then
    (if (n - 40) % 4 = 3 ∧ bit v 0 then xfFieldsOk c.xf[Fin.ofNat 4 ((n - 40) / 4)] v else true)
  else true

/-- The value an LIA writes: IMM16 × 4 for P, B and L, sign-extended for M (R333). -/
def liaValue (w : BitVec 28) : Word :=
  let n := bits w 21 16
  if 16 ≤ n ∧ n < 24 then wrapWord (sbits w 15 0) else BitVec.ofNat 32 (mvImm16 w * 4)

/-- MVAR: the register named by ASEL receives lane 0 of the X register (R333). -/
def execMvar (n : Fin 16) (slot : MvSlot) (w : BitVec 28) (s : State) : Result :=
  .next (slotOp n (mvStg w) (bits w 9 0 == 0 && selForm (mvAsel w)) (fun c => selOk c (mvAsel w) (c.getX (mvReg w))[0])
    (fun c s => issueMv n slot 1 (.asel (mvAsel w) c.inHandler) (.reg (c.getX (mvReg w))[0]) s) s)
/-- MVRA: lane 0 of the X register receives the register named by ASEL, the other lanes 0 (R333). -/
def execMvra (n : Fin 16) (slot : MvSlot) (w : BitVec 28) (s : State) : Result :=
  .next (slotOp n (mvStg w) (bits w 9 0 == 0) (fun _ => true)
    (fun c s => issueMv n slot 1 (c.destX (mvReg w)) (.lanes (lane0 (c.getSel (mvAsel w)))) s) s)
/-- LIA: an immediate into the register named by ASEL; not an XF, IRQ or read-only entry (R333, R334). -/
def execLia (n : Fin 16) (slot : MvSlot) (w : BitVec 28) (s : State) : Result :=
  .next (slotOp n (mvStg w) (decide (bits w 21 16 < 40)) (fun c => selOk c (mvLiaSel w) (liaValue w))
    (fun c s => issueMv n slot 1 (.asel (mvLiaSel w) c.inHandler) (.reg (liaValue w)) s) s)

end Sys2Proof.Machine
end

