-- ==== Sys2Proof/Machine/NetCmds.lean ====
section
/-! DEFINITION. Events of the ports and of the forwarding engine: link, frames, pause, queues, copies, LEDs (R141-R145,
R150-R160, R164, R165, R169-R178). -/

namespace Sys2Proof.Machine

open Sys2Proof

/-- A port carries frames: power, and link (R24, R145, R458). -/
def State.carries (s : State) (p : Port) : Bool := s.portsUp && (s.port p).link

/-! Link (R141-R145). -/

/-- The modes a port advertises: those NETx_ANEG enables and R143 does not withhold. -/
def PortSt.advert (r : PortSt) : BitVec 3 := r.aneg.truncate 3 &&& ~~~r.withheld
/-- All that it advertises: PAUSE (bit 3) and ASM_DIR (bit 4) both as PAUSE_RX_EN stands (R141). -/
def PortSt.basePage (r : PortSt) : BitVec 5 := r.advert.zeroExtend 5 ||| (if bit r.macCtrl 4 then 0x18 else 0)
/-- The highest mode that both ends advertise (R141). -/
def highestMode (m : BitVec 3) : LineMode :=
  if m.getLsbD 2 then .m2500 else if m.getLsbD 1 then .m1000 else if m.getLsbD 0 then .m100 else .none
/-- Master or slave: automatically as IEEE 802.3 resolves a multiport device against its partner, with the seed between
equals; a preference decides by itself (PRESUMED, log 13). -/
def PortSt.masters (r : PortSt) (partnerMulti seedWins : Bool) : Bool :=
  if bits r.aneg 9 8 = 1 then true else if bits r.aneg 9 8 = 2 then false else !partnerMulti || seedWins

/-- ANEG_COMPLETE: the highest common mode is resolved (R141). A run of failed attempts counts at one mode (R143). -/
def execAnegComplete (port : Port) (partner : BitVec 3) (lpPause partnerMulti seedWins : Bool) (s : State) : Answer :=
  let r := s.port port
  let m := highestMode (r.advert &&& partner)
  .next (if !s.portsUp || r.link then s
    else s.onPort port fun r => { r with
      resolved := m, lpPause, advertised := r.basePage, master := (m == .m1000 || m == .m2500) && r.masters partnerMulti seedWins
      attempts := if m = r.resolved then r.attempts else 0 })

/-- LINK_UP: the port gains link at the resolved mode; the corrections found are reported (R145), and IPV4_ADDR is
announced (R127). -/
def execLinkUp (port : Port) (mdix swap01 swap23 : Bool) (pol : BitVec 4) (s : State) : Answer :=
  let r := s.port port
  .next (if !s.portsUp || r.link || r.resolved = .none then s
    else
      let four := r.resolved != .m100
      gratuitousArp port ((s.onPort port fun r => { r with
        link := true, mode := r.resolved, attempts := 0, mdix, swap01 := swap01 && four, swap23 := swap23 && four, pol }).raise 7))

/-- LINK_DOWN (R145). -/
def execLinkDown (port : Port) (s : State) : Answer := .next (if (s.port port).link then linkLost port s else s)

/-- LINK_ATTEMPT_FAIL: the third in a row at one mode withholds it, with DOWNSHIFT set (R143). -/
def execLinkAttemptFail (port : Port) (s : State) : Answer :=
  let r := s.port port
  .next (if !s.portsUp || r.link || r.resolved = .none || !bit r.aneg 4 then s
    else if r.attempts < 2 then s.onPort port fun r => { r with attempts := r.attempts + 1 }
    else (s.bumpPort port 21).onPort port fun r => { r with
      withheld := r.withheld ||| modeBit r.resolved, resolved := .none, attempts := 0 })

/-- A write to NETx_ANEG: a changed advertisement bit or MS_PREF, or RESTART, drops the link and negotiates again;
every write advertises a withheld mode again (R142, R143). -/
def writeAneg (p : Port) (v : Word) (s : State) : State :=
  let r := s.port p
  let again := bit v 16 || (r.aneg ^^^ v) &&& 0x307 != 0
  let s1 := s.onPort p fun r => { r with aneg := v &&& 0x317, withheld := 0, attempts := 0 }
  if again then linkLost p s1 else s1

/-- The block of a port's registers. -/
def netBlock (p : Port) : Nat := 4 + pathIx p

/-- ANEG_WRITE (R142). -/
def execAnegWrite (port : Port) (v : Word) (s : State) : Answer := .next (writeIn (netBlock port) (writeAneg port v) s)
/-- ANEG_RESTART: a write with RESTART set (R142). -/
def execAnegRestart (port : Port) (v : Word) (s : State) : Answer :=
  .next (if bit v 16 then writeIn (netBlock port) (writeAneg port v) s else s)

/-! Frames (R150-R160). -/

/-- FRAME_RECEIVE (R150, R152). -/
def execFrameReceive (port : Port) (f : Frame) (s : State) : Answer := .next (if s.carries port then receive port f s else s)

/-- PAUSE_FRAME: counted whether it acts or not; it acts while PAUSE_RX_EN is 1, and loads the timer with its own time
(R158). -/
def execPauseFrame (port : Port) (toModule : Bool) (time : BitVec 16) (s : State) : Answer :=
  let s1 := (s.bumpPort port 9).bumpBy (portFn port) 19 time.toNat
  .next (if !s.carries port then s
    else if toModule && bit (s.port port).macCtrl 4 then
      s1.onPort port fun r => { r with pause := time.toNat * quantum r.mode, pauseFresh := true }
    else s1)
/-- PAUSE_EXPIRY: within the tick in which the timer runs out (R158). -/
def execPauseExpiry (port : Port) (s : State) : Answer :=
  .next (if (s.port port).pause ≤ s.tickPs then s.onPort port fun r => { r with pause := 0, pauseFresh := false } else s)

/-- When a frame that leaves now passes the reference plane, quarter nanoseconds: in the present tick; the moment within it is
not in the state and is free (log 11). -/
def State.departure (s : State) : Int :=
  let q := s.tickQ s.now
  (q + (s.freeVal 64).toNat % max 1 (s.tickQ (s.now + 1) - q) : Nat)

/-- Octets of a PTP message replaced as the frame leaves (R206). -/
def putStamp (off : Nat) (b : List Byte) (f : Frame) : Frame :=
  fixSum ((f.payload.drop off).take b.length) b { f with payload := f.payload.take off ++ b ++ f.payload.drop (off + b.length) }

/-- The one-step field of a PTP message, written as the frame passes the reference plane: originTimestamp of a Sync, its
quarter nanoseconds in correctionField; the turnaround in a Pdelay_Resp (R157, R206). -/
def stampFrame (s : State) (f : Frame) : Frame :=
  let q := s.departure
  let corr := fun (c : Int) (f : Frame) => putStamp 8 (corrBytes c) { f with correction := c }
  if f.ptp = .sync then putStamp 34 (stampBytes q) (corr (f.correction + q % 4 * 16384) f)
  else if f.ptp = .pdelayResp then corr (f.correction + (q - f.asked) * 16384) f
  else f

/-- The port starts nothing: a pause is active, and pauses are honoured (R158, R160). -/
def State.paused (s : State) (p : Port) : Bool := (s.port p).pause != 0 && bit (s.port p).macCtrl 4

/-- The head of a queue leaves the port and is counted (R155, R161). -/
def sendHead (p : Port) (q : Fin 8) (f : Frame) (s : State) : State :=
  let s1 := s.freshen.onPort p fun r => { r with
    queues := vmod r.queues q (·.drop 1), lastTx := some { frame := stampFrame s f, forwarded := false, octets := f.len, inverted := false } }
  ringSent p f (ledFlash p (((s1.bumpBy (portFn p) 14 f.len).bumpPort p 15).bumpPort p (22 + q.val)))

/-- FRAME_TRANSMIT: at a frame boundary the head of the highest non-empty queue starts, unless the forward queue ranks
above it or the port is paused (R155, R159, R171). -/
def execFrameTransmit (port : Port) (s : State) : Answer :=
  let r := s.port port
  .next (if !s.carries port || s.paused port || s.fwdFirst port then s
    else match r.topQueue with
      | some q => match r.queues[q] with
        | f :: _ => sendHead port q f s
        | [] => s
      | none => s)

/-! Forwarding (R169-R174). -/

/-- FORWARD_COMMIT (R169, R170). -/
def execForwardCommit (ingress : Port) (f : Frame) (s : State) : Answer :=
  .next (if s.carries ingress then commitFrame ingress f s else s)

/-- FORWARD_EGRESS_START: the head of the forward queue starts at its rank, once enough of it has been received, or finds a
pause and is discarded (R159, R170, R171). -/
def execForwardEgressStart (egress : Port) (residence : Nat) (s : State) : Answer :=
  let r := s.port egress
  let pop := s.onPort egress fun r => { r with fwd := r.fwd.drop 1 }
  .next (if !s.carries egress then s
    else match r.fwd with
      | [] => s
      | w :: _ =>
        if !s.mayStart egress w residence then s
        else if s.paused egress then pop.bumpPort egress 18
        else if s.fwdFirst egress then startCopy egress w residence pop else s)

/-- RING_CLOSED_TIMEOUT (R178). -/
def execRingClosedTimeout (port : Port) (s : State) : Answer := .next (s.onPort port fun r => { r with ringClosed := false })
/-- NODE_ID_GRACE_END (R177). -/
def execNodeIdGraceEnd (s : State) : Answer := .next (s.onPath fun x => { x with prevNode := none })

/-! LEDs (R164, R165). -/

/-- The LED of a port's jack is lit. -/
def State.ledOn (s : State) (p : Port) : Bool :=
  let r := s.port p
  if 0 < s.svc.identify then r.ledLit
  else if bits r.led 1 0 = 0 then false
  else if bits r.led 1 0 = 3 then true
  else r.link && !(bits r.led 1 0 == 2 && r.ledDark) && (r.ledLit || !bit r.led 2 || r.mode == .m2500)

/-- The current the LED land sinks, mA: CURRENT, held to 2 to 20 (R56, R164, R166). -/
def State.ledCurrent (s : State) (p : Port) : Nat :=
  if s.ledOn p then min 20 (max 2 (bits (s.port p).led 12 8)) else 0

/-- LED_DARK_PERIOD_END: lit again, for at least 30 ms (R164). -/
def execLedDarkPeriodEnd (port : Port) (s : State) : Answer :=
  .next (if (s.port port).ledDark then s.onPort port fun r => { r with ledDark := false, darkEnd := some s.now } else s)
/-- LED_BLINK_TOGGLE: the speed blink at 1 Hz, or the IDENTIFY blink at 4 Hz (R164, R165). -/
def execLedBlinkToggle (port : Port) (s : State) : Answer := .next (s.onPort port fun r => { r with ledLit := !r.ledLit })

end Sys2Proof.Machine
end

