-- ==== Sys2Proof/Machine/PathCmds.lean ====
section
/-! DEFINITION. Events of ILK: the unsynchronised switch and the ILK_N land (R184, R185, R189). -/

namespace Sys2Proof.Machine

open Sys2Proof

/-- Ticks since an unsynchronised switch was decided, with its fade time; none: no such switch. -/
def State.unsyncAge (s : State) : Option (Nat × Nat) := s.path.unsync.map fun u => ((s.now - u.start).toNat, u.f)

/-- UNSYNC_ILK_CHANGE: at n + F (R189). -/
def execUnsyncIlkChange (s : State) : Answer :=
  .next (match s.unsyncAge with
    | some (k, f) => if f ≤ k then unsyncChange s else s
    | none => s)
/-- UNSYNC_END: at n + 2F (R189). -/
def execUnsyncEnd (s : State) : Answer :=
  .next (match s.unsyncAge with
    | some (k, f) => if 2 * f ≤ k then unsyncClear (unsyncChange s) else s
    | none => s)

/-- ILK_N_CHANGE: in external mode the land changes level and passes the deglitch filter; otherwise the module drives
it (R184, R185). -/
def execIlkNChange (high : Bool) (s : State) : Answer :=
  .next (if s.path.ext then s.onPath fun x => { x with ilkLand := high } else s)
/-- ILK_SAMPLE: 1 us before each boundary in external mode (R185). -/
def execIlkSample (s : State) : Answer :=
  .next (if s.path.ext then s.onPath fun x => { x with ilkHist := (x.ilkLand :: x.ilkHist).take 2 } else s)

end Sys2Proof.Machine
end

