-- ==== Sys2Proof/Machine/RingCmds.lean ====
section
/-! DEFINITION. The rings as commands: enable, disable, fetching, records, the status page (R87-R106). -/

namespace Sys2Proof.Machine

open Sys2Proof

/-- The size of a ring is legal (R89). -/
def sizeOk (n : BitVec 5) : Bool := 4 ≤ n.toNat && n.toNat ≤ 16

/-- ENABLE has risen: the counts are zeroed and no earlier doorbell value is used, or the ring is in error (R89). -/
def enableRing (q : Fin 32) (s : State) : State :=
  let r := s.ring q
  let old := fun (g : PageSt) => { g with fresh := g.fresh &&& ~~~(BitVec.ofNat 32 (2 ^ q.val)) }
  let s1 := (s.onRing q fun r => { r with enable := true, seen := false, fetched := [], err := 0 }).onPage (s.pageOf q) old
  if !(sizeOk r.sqLog && sizeOk r.cqLog) then ringError q 3 s1
  else if !s.tarrRing q && (s.host.dbAddr == 0 || s.host.stAddr == 0) then ringError q 4 s1
  else (s1.onRing q fun r => { r with sqCi := 0, cqPi := 0, sqPi := 0, cqCi := 0 }).touchPage q

/-- RING_ENABLE: a write to RING_CTRL_q that sets ENABLE; not while DRAINING, nor for a ring of Tarragon (R88, R89). -/
def execRingEnable (q : Fin 32) (v : Word) (s : State) : Answer :=
  let r := s.ring q
  .next (if !s.blockOpen 2 || !bit v 0 || r.enable || r.draining || s.tarrRing q then s
    else enableRing q (s.onRing q fun r => { r with
      irqAll := bit v 1, sqLog := v.extractLsb' 4 5, cqLog := v.extractLsb' 12 5, prio := v.extractLsb' 20 3
      vec := v.extractLsb' 24 5 }))

/-- Descriptors that a disable ends at once: a FENCE, and a bulk descriptor at a unit boundary; an image in placement
is at none (R90). The rule names no end for ROUTE_SET, ROUTE_READ, FUNC_CONFIG, TIME_STEP_ACCEPT, PATH_SWITCH, MEM_RETIRE,
POLARITY_TEST and LOAD_TEST: they run to completion (DESIGN CHOICE, log 54). -/
def stopsAt (j : Job) : Bool := j.op == 0x01 || (bulkOp j.op.toNat && !(j.op == 0x23 && j.phase == 1))

/-- ENABLE has fallen: the ring drains (R90). -/
def drainRing (q : Fin 32) (s : State) : State :=
  let s1 := s.onRing q fun r => { r with enable := false, draining := true, fetched := [] }
  let mine := s1.host.taken.filter fun e => e.1 == q && (opcodeOf e.2.2 == 0x01 || bulkOp (opcodeOf e.2.2))
  let s2 := s1.onHost fun h => { h with
    taken := h.taken.filter fun e => !(e.1 == q && (opcodeOf e.2.2 == 0x01 || bulkOp (opcodeOf e.2.2))) }
  let s3 := forAll (s2.life.jobs.filter fun j => j.ring == q && !j.silent && stopsAt j)
    (fun j s => let c := cutJob true j s; c.1.endJob j stAborted c.2.1 false) s2
  let s4 := forAll mine (fun e s => finish q e.2.2 e.2.1 stAborted 0 s) s3
  s4.endActions (fun a => a.ring == q && !a.silent && !a.applied && decide (s.now.toNat + 2 ≤ a.nT.toNat)) stAborted 0

/-- RING_DISABLE: a write to RING_CTRL_q that clears ENABLE (R88, R90). -/
def execRingDisable (q : Fin 32) (v : Word) (s : State) : Answer :=
  let r := s.ring q
  .next (if !s.blockOpen 2 || bit v 0 || !r.enable || r.draining || s.tarrRing q then s else (drainRing q s).touchPage q)

/-- RING_DRAIN_COMPLETE: the last record is written (R90). -/
def execRingDrainComplete (q : Fin 32) (s : State) : Answer := .next (endDrain q s)

/-! Fetching (R93-R97). -/

/-- The fetch of this boundary, one at each: a read goes out, or the boundary is skipped while the read before is
outstanding (R93). A fetch period begins. -/
def issueDoorbell (p : PageSet) (s : State) : State :=
  s.onPage p fun g =>
    if g.asked then g
    else if g.outstanding then { g with asked := true, due := true }
    else { g with outstanding := true, fresh := s.freshMask, tick := s.now, asked := true, due := true }

/-- DOORBELL_FETCH: at a multiple of the period, a read or a counted skip; none without the host bus or in D3hot (R93,
R121, R123). -/
def execDoorbellFetch (s : State) : Answer :=
  .next (if !s.host.fetch || !s.hostBus || s.chip.resetting || s.host.d3 || s.now.toNat % (s.host.period.toNat + 1) ≠ 0 then s
    else
      let skip := s.host.hostPage.outstanding && !s.host.hostPage.asked
      issueDoorbell .host (if skip then s.onHost fun h => { h with fetchSkip := satInc h.fetchSkip } else s))

/-- TARRAGON_DOORBELL_FETCH: at every boundary while hostless control is on (R97). -/
def execTarragonDoorbellFetch (s : State) : Answer := .next (if s.svc.hostless && s.ringsWork && !s.chip.resetting then issueDoorbell .tarragon s else s)

/-- DOORBELL_READ_COMPLETE: 272 bytes of the page, from the host or, for the Tarragon page, from module memory (R91,
R95, R97); a read of DRAM waits for MEMCTL (R418). -/
def execDoorbellReadComplete (set : PageSet) (h : HostRead) (s : State) : Answer :=
  .next (if !(s.page set).outstanding then s
    else match set, h with
    | .tarragon, _ => if s.running .memctl then doorbellDone .tarragon (s.fetch tarrDoorbell 272) s else s
    | .host, .data b => if b.length = 272 then doorbellDone .host b s else s
    | .host, .failed => hostReadFailed s.host.dbAddr (s.onPage .host fun g => { g with outstanding := false }))

/-- DESCRIPTOR_READ_COMPLETE: a descriptor that the doorbell covers has been read; a failed read is ERR 0x2 (R94, R95, R418). -/
def execDescriptorReadComplete (q : Fin 32) (d : Option Desc) (s : State) : Answer :=
  let r := s.ring q
  .next (if !r.enable || r.err ≠ 0 || r.pendingCount ≤ r.fetched.length || s.chip.resetting || s.busWait r.sqBase.toNat then s
    else match d with
    | some e => s.onRing q fun r => { r with fetched := r.fetched ++ [e] }
    | none =>
      let a := r.sqBase + BitVec.ofNat 64 (64 * ((r.sqCi.toNat + r.fetched.length) % 2 ^ r.sqLog.toNat))
      ringError q 2 (if a.getLsbD 63 then s else hostReadFailed a s))

/-- COMPLETION_RECORD_WRITE: the oldest record of the ring, when its completion ring has room (R102, R103). -/
def execCompletionRecordWrite (q : Fin 32) (s : State) : Answer := .next (writeRecord q s)
/-- STATUS_PAGE_WRITE: once per fetch period, after the last record (R96, R112, R119). -/
def execStatusPageWrite (set : PageSet) (s : State) : Answer := .next (writePage set s)
/-- HOST_READ_FAIL (R106). -/
def execHostReadFail (addr : DWord) (s : State) : Answer := .next (if s.hostBus then hostReadFailed addr s else s)

end Sys2Proof.Machine
end

