-- ==== Sys2Proof/Machine/Boot.lean ====
section
/-! DEFINITION. Power-up, boot, autostart and module reset (R24, R62-R72, R83, R84, R126, R423, R438, R453). -/

namespace Sys2Proof.Machine

open Sys2Proof

/-! What survives (R84, R436). -/

/-- The 4 MiB of the parameter store. -/
def isStore (a : Nat) : Bool := decide (0x1010000000 ≤ a ∧ a < 0x1010400000)
/-- DRAM: the three logical ranks. -/
def isDram (a : Nat) : Bool := decide (a < 0x180000000)

/-- The islands that a module reset resets (R83). -/
def resetIslandsOf : List Island :=
  [.lovage] ++ allSc.map .sc ++ [.path .a, .path .b, .xbar, .decim, .service]

/-- The service island's lasting state: keys, security state, active copies; what is not stored starts again. -/
def SvcSt.kept (v : SvcSt) : SvcSt :=
  { mac := v.mac, serial := v.serial, provisioned := v.provisioned, noardKeys := v.noardKeys, noardRevoked := v.noardRevoked
    imageKeys := v.imageKeys, imageRevoked := v.imageRevoked, debugKey := v.debugKey, lastCounter := v.lastCounter
    replyCounter := v.replyCounter, secMin := v.secMin, settingsCopy := v.settingsCopy, patchCopy := v.patchCopy
    settingsValid := v.settingsValid, patchValid := v.patchValid }

/-- A port without power in its logic keeps what its PD interface shows. -/
def PortSt.kept (r : PortSt) : PortSt :=
  { powered := r.powered, pairsets := r.pairsets, events := r.events, carrying := r.carrying, vin := r.vin }

/-- A channel's thermal state is taken from the store (R84, R407). -/
def Pch.kept (p : Pch) : Pch := { saved := p.saved, die := p.die }
/-- What the high-voltage side goes on with by itself when the logic side loses its supply: the link-loss stop, and the
short of an overvoltage stop (R25, R26, R48). The streams of the Chive path are gone (R384). -/
def Pch.alone (p : Pch) : Pch :=
  if p.phase = 6 ∨ p.phase = 7 then
    { p.kept with phase := p.phase, cm := p.cm, mark := p.mark, scale := p.scale, vpk := p.vpk, sample := p.sample, vOut := p.vOut
                  gCoil := p.gCoil, gStage := p.gStage, gFrom := p.gFrom, gStep := p.gStep, chive := Fade.zero }
  else p.kept

/-- All logic rails have collapsed: the parameter store, the fault log, the record, the rank map, the line's and the
host's own state are left (R24 stage 6, R84). -/
def coldState (s : State) : State :=
  { State.reset with
    pending := s.pending, free := s.free, log := { s.log with second := 0, dropped := 0, clock := 0 }
    chip := { variant := s.chip.variant, vauxShort := s.chip.vauxShort, vbus := s.chip.vbus, vbusOv := s.chip.vbusOv }
    life := { live := s.life.live, nextUid := s.life.nextUid
              funcs := Vector.ofFn fun i : Fin 34 => if h : 29 ≤ i.val ∧ i.val < 33 then
                  (if (s.pch ⟨i.val - 29, by omega⟩).phase = 6 then { fade := s.life.funcs[i].fade } else {})
                else {} }
    host := { rings := resetRings, perst := s.host.perst, hostMem := s.host.hostMem }
    svc := s.svc.kept
    net := { a := s.net.a.kept, b := s.net.b.kept }
    path := { ilkLand := s.path.ilkLand || !s.path.ext }
    time := { State.reset.time with
      model := s.time.modelSaved, modelSaved := s.time.modelSaved, calA := s.time.calA, calB := s.time.calB, ageA := s.time.ageA, ageTau := s.time.ageTau, temp := s.time.temp }
    loc := { dsync := s.loc.dsync }
    pwr := { ch := s.pwr.ch.map Pch.alone, base := s.pwr.base }
    memc := { rankMap := s.memc.rankMap, spare := s.memc.spare, spareValid := s.memc.spareValid, ranks := s.memc.ranks
              failed := s.memc.failed }
    mem := s.mem.filter fun e => isStore e.1 }

/-! The settings record and the patch (R68, R71, R72, R438). -/

/-- A container in one of the two copies. -/
def containerAt (s : State) (a size : Nat) : List Byte :=
  let n := 128 + imgLen (s.fetch a 128)
  s.fetch a (if n ≤ size then n else 128)

/-- Recovery boot. -/
def State.recovery (s : State) : Bool := s.chip.strap == 0

/-- The entries of the active record, if there is one and it passes R71; none in recovery boot. -/
def State.settingsEntries (s : State) : List SetEntry :=
  let c := containerAt s (settingsAt s.svc.settingsCopy) 0x80000
  if s.recovery || !s.svc.settingsValid || imgType c != 3 || imageCheck s c != 0 then []
  else (settingsOf (imgBody c)).getD []

/-- The register values of KIND 0x4 (R438). -/
def applyKind4 (s : State) : State :=
  forAll (s.settingsEntries.filter fun e => e.kind == 4) (fun e s => forAll e.pairs (fun p s => applySetting p.1 p.2 s) s) s

/-- GLOBAL_BOOT.RESULT for a check of R71 that fails, or none. -/
def bootResult (s : State) (c : List Byte) (check : Nat) : Nat :=
  if check = 0 then 0 else if check = 5 then 3
  else if check = 2 ∧ (s.svc.imageRevoked.getLsbD (imgSlot c).val) then 4 else 2

/-- STAGE 0x2: the patch is verified and started, or refused (R71, R73). Whether the parameter store gives the patch's words at
all, RESULT 0x5, is free (log 11). -/
def checkPatch (s : State) : State :=
  let c := containerAt s (patchAt s.svc.patchCopy) 0x120000
  let k := if imgType c = 1 then imageCheck s c else 1
  let none_ := !s.svc.patchValid
  let lost := !s.recovery && !none_ && s.freeBool
  let res := if s.recovery then 6 else if none_ then 1 else if lost then 5 else bootResult s c k
  let checked := !s.recovery && !none_ && !lost
  let s1 := s.freshen.onChip fun x => { x with
    stage := 2, result := BitVec.ofNat 4 res, patchVersion := if res = 0 then (imgVersion c).truncate 16 else 0 }
  let s2 := s1.onSvc fun v => { v with bootPatchSec := if res = 0 then some (imgSec c) else none }
  s2.logEntry 0x09 0 (BitVec.ofNat 8 res) (if checked then (imgVersion c).zeroExtend 64 else 0)

/-- The SERVICE parameters that a boot applies: in recovery NODE_ID, NOARD_ETYPE and the group address (R68). -/
def applyService (s : State) : State :=
  let keep := fun i : Nat => !s.recovery || (2 ≤ i && i ≤ 5)
  forAll (s.life.live.filter fun e => keep e.1) (fun e s => s.setParam (pidOf .service e.1) e.2) s

/-! Hostless control (R125, R126). -/

/-- Memory of a ring of Tarragon, in the Tarragon area; its place there is the model's (log 16). -/
def tarrSq (q : Fin 32) : DWord := BitVec.ofNat 64 (2 ^ 63 + 0x017F010000 + (q.val - 24) * 0x4000)
def tarrCq (q : Fin 32) : DWord := BitVec.ofNat 64 (2 ^ 63 + 0x017F030000 + (q.val - 24) * 0x1000)

/-- Tarragon prepares its rings as R89 tells the owner of a ring: completion rings and its entries of the doorbell page are
zeroed. -/
def clearTarr (s : State) : State :=
  let own := fun (a : Nat) => decide (tarrDoorbell + 192 ≤ a ∧ a < tarrDoorbell + 256) || decide (0x017F030000 ≤ a ∧ a < 0x017F038000)
  (((s.onMem fun m => m.filter fun e => !own e.1).unpoison (tarrDoorbell + 192) 64).unpoison 0x017F030000 0x8000)

/-- Tarragon takes Q24 to Q31: 256 entries each, priority 3, budget 8 (R126). -/
def startHostless (s : State) : State :=
  let on := s.chip.strap == 0 || s.chip.strap == 1 || s.svcParam 1 == 1
  let s1 := s.onSvc fun v => { v with hostless := on }
  if !on then s1
  else forAll (allRings.filter fun q => decide (24 ≤ q.val)) (fun q s => s.onRing q fun r => { r with
    sqBase := tarrSq q, cqBase := tarrCq q, enable := true, sqLog := 8, cqLog := 8, prio := 3, budget := 8 }) (clearTarr s1)

/-- Boot from t = 35 ms to STAGE 0x3 (R62): the strap is sampled, the patch checked, the settings applied. `cold`: line
power has come, so the registers of KIND 0x4 are set and POWER_CYCLES counts. -/
def bootStages (strap : BitVec 2) (cold : Bool) (s : State) : State :=
  let s1 := (s.onChip fun c => { c with strap, stage := 1 }).setLife .service .running
  let s2 := if cold then s1.onLog fun l => { l with cycles := satInc l.cycles } else s1
  let s3 := s2.logEntry 0x0B 0 (s2.chip.resetCause.truncate 8) s2.log.poweredS
  let c := containerAt s3 (settingsAt s3.svc.settingsCopy) 0x80000
  let s4 := s3.onSvc fun v => { v with
    bootSettingsSec := if !s3.recovery && v.settingsValid && imgType c == 3 && imageCheck s3 c == 0 then some (imgSec c) else none }
  let s5 := if cold then (applyKind4 s4).onTime fun t => { t with fs := t.ctrl.truncate 2 } else s4
  let s6 := startHostless (applyService (checkPatch s5))
  let s7 := if s6.recovery then s6.onPath fun x => { x with topo := x.topo &&& ~~~3 } else s6
  forAll allPch reloadCoil ((followFed s7).onChip fun x => { x with stage := 3 })

/-- Line power comes: power-up from t = 0 to STAGE 0x3 (R62). -/
def powerUp (strap : BitVec 2) (s : State) : State :=
  bootStages strap true ((coldState s).onChip fun c => { c with supply := .full })

/-! STAGE 0x4 (R423, R432, R438). -/

/-- A valid bank mask k (R422). -/
def maskOk (k : Nat) (w : Word) : Bool :=
  bits w 15 12 == 2 ^ k && bits w 11 0 == 0 && bits w 31 31 == 0 && (List.range 32).countP (fun i => bit w i) ≤ 8
/-- MEMCTL's block (R423). -/
def memBlockOk (l : List Byte) : Bool :=
  l.length == 24 && leAt l 0 1 == 1 && leAt l 1 1 < 4 && zeros l 2 6
  && (List.range 4).all fun k => maskOk k (BitVec.ofNat 32 (leAt l (8 + 4 * k) 4))

/-- The mapping that a spare rank and four masks give; a different one leaves the DRAM contents undefined: no byte of
it counts as written (log 5). SPARE applies only while no rank has been retired. -/
def memMapping (spare : Fin 4) (masks : Vector Word 4) (s : State) : State :=
  let fresh := s.memc.ranks.toList.all fun r => r == 0 || r == 1
  let rest := (List.finRange 4).filter (· != spare)
  let map : Vector (Fin 4) 3 := Vector.ofFn fun i => (rest[i.val]?).getD 0
  let s1 := s.onMemc fun m => { m with masks }
  let s2 := if fresh then s1.onMemc fun m => { m with
      spare, rankMap := map, ranks := Vector.ofFn fun r => if r = spare then 1 else 0 } else s1
  if s2.memc.masks = s.memc.masks ∧ s2.memc.rankMap = s.memc.rankMap then s2
  else (s2.onMem fun m => m.filter fun e => !isDram e.1).onMemc fun m => { m with poison := m.poison.filter fun a => !isDram a }

def defaultMasks : Vector Word 4 := #v[0x01111000, 0x02222000, 0x04444000, 0x08888000]

/-- MEMCTL's configuration from the persisted settings, or the defaults (R423). -/
def configMem (s : State) : State :=
  match s.settingsEntries.find? fun e => e.kind == 1 && e.func == 0x0D with
  | none => memMapping 3 defaultMasks s
  | some e =>
    if memBlockOk e.data then
      memMapping (Fin.ofNat 4 (leAt e.data 1 1)) (Vector.ofFn fun k => BitVec.ofNat 32 (leAt e.data (8 + 4 * k.val) 4)) s
    else logDram 8 0 (memMapping 3 defaultMasks s)

/-- MEMCTL's parameters from the persisted settings (R438). -/
def paramMem (s : State) : State :=
  forAll ((s.settingsEntries.filter fun e => e.kind == 2 && e.func == 0x0D).flatMap (·.pairs)) (fun p s =>
    if pidFunc p.1 == .memctl && paramCheck s p.1 p.2 == stOk then applyParam p.1 p.2 (0, 0) s else s) s

/-- A migration cut short starts again from MiB 0 (R432). -/
def resumeMigration (s : State) : State :=
  match s.memc.mig, (List.finRange 4).find? fun r => s.memc.ranks[r] == 2 with
  | none, some r =>
    if s.memc.spareValid then s.onMemc fun m => { m with mig := some { rank := r, share := s.memParam 6, auto := true } } else s
  | _, _ => s

/-- The entries autostart works through, in its order: blocks, writes, starts (R69). Only a parameter-store boot has
any. -/
def autostartList (s : State) : List SetEntry :=
  if s.chip.strap ≠ 3 then []
  else
    let l := s.settingsEntries.filter fun e => e.func != 0x0D
    l.filter (·.kind == 1) ++ l.filter (·.kind == 2) ++ s.settingsEntries.filter (·.kind == 3)

/-- DRAM is trained: STAGE 0x4 (R62). -/
def dramUp (s : State) : State :=
  let s1 := paramMem (configMem s)
  let s2 := resumeMigration ((s1.setLife .memctl .running).onMemc fun m => { m with selfRefresh := 0 })
  (s2.onSvc fun v => { v with autostart := autostartList s2, autoBusy := false }).onChip fun c => { c with stage := 4 }
/-- The autostart list begins at the service island's next boundary: STAGE 0x5, which a boot without one passes at once
(R62). -/
def autoBegin (s : State) : State :=
  if s.chip.stage = 4 ∧ !s.chip.resetting then s.onChip fun c => { c with stage := 5 } else s

/-! Autostart (R69). -/

def autoWait (s : State) : State := s.onSvc fun v => { v with autoBusy := true }

/-- One configuration block, as FUNC_CONFIG would apply it. -/
def autoConfig (e : SetEntry) (f : Func) (s : State) : State :=
  if s.absent f then autoNext (autoRefuse e stAbsent 0 s)
  else if f == .pathA || f == .pathB then autoNext (autoRefuse e stBadDesc 0 s)
  else if f == .service || f == .memctl || !(s.life? f == .off || s.life? f == .stopped) then autoNext (autoRefuse e stBadState 0 s)
  else if f.hv && s.life? f == .off && !s.chip.awake then autoWait (wakeHv s)
  else if !blockOk s f e.data then autoNext (autoRefuse e stBadDesc 0 s)
  else autoNext (acceptBlock f e.data (if s.life? f == .off then s.setLife f .stopped else s))

/-- The parameter writes of an entry, each as one PARAM_WRITE would apply it. -/
def autoWrites (e : SetEntry) (s : State) : State :=
  autoNext (forAll e.pairs (fun p s =>
    let st := writesCheck s [p]
    if st ≠ stOk then autoRefuse e st p.1 (if st = stBudget then s.bump 6 2 else s) else applyParam p.1 p.2 (0, 0) s) s)

/-- A FUNC_START of the list: the next one follows when it has completed. -/
def autoStart (e : SetEntry) (f : Func) (s : State) : State :=
  let st := s.life? f
  if s.svc.autoBusy then (if (s.func f).startReq || st == .starting then s else autoNext s)
  else if s.absent f then autoNext (autoRefuse e stAbsent 0 s)
  else if st == .running then autoNext s
  else if st == .off || st == .stopping then autoNext (autoRefuse e stBadState 0 s)
  else if st == .starting then autoWait s
  else
    let c := startCheck f s
    let s1 := noteStart f c s
    if c ≠ stOk then autoNext (autoRefuse e c 0 s1)
    else
      let s2 := autoWait (askStart f s1)
      if f.hv then wakeHv s2 else s2

/-- The first entry is dealt with. -/
def autoOne (s : State) : State :=
  match s.svc.autostart with
  | [] => s
  | e :: _ =>
    match Func.ofId e.func with
    | none => autoNext (autoRefuse e stBadDesc 0 s)
    | some f => if e.kind = 1 then autoConfig e f s else if e.kind = 2 then autoWrites e s else autoStart e f s

/-- Autostart at a boundary: entries are dealt with until one waits. -/
def autoRun : Nat → State → State
  | 0, s => s
  | k + 1, s =>
    let s1 := autoOne s
    if s1.svc.autostart.length = s.svc.autostart.length then s1 else autoRun k s1
def autoTick (s : State) : State :=
  if s.chip.stage = 5 ∧ !s.chip.resetting then autoRun s.svc.autostart.length s else s

/-- A wake that fails refuses the block that waits for it (R66, R69). -/
def autoWakeFail (s : State) : State :=
  match s.svc.autostart with
  | e :: _ =>
    match Func.ofId e.func with
    | some f => if s.svc.autoBusy && f.hv then autoNext (if e.kind = 1 then autoRefuse e stTimeout 0 s else
        autoRefuse e stTimeout 0 (s.onFunc f fun r => { r with startReq := false })) else s
    | none => s
  | [] => s

/-- PCH0-PCH3 and SAGE are all OFF, and nothing waits to take one of them out of it (R50, R67). -/
def State.hvResting (s : State) : Bool :=
  (allFuncs.filter (·.hv)).all (fun f => s.life? f == .off && !(s.func f).stopReq)
  && s.life.jobs.all (fun j => !(j.op == 0x11 && j.phase == 1 && (descFunc j.desc).any (·.hv)))
  && !(s.svc.autoBusy && (s.svc.autostart.head?.bind fun e => Func.ofId e.func).any (·.hv))
/-- The time for which that has lasted. -/
def restTick (s : State) : State := s.onChip fun c => { c with hvIdle := if s.hvResting then c.hvIdle + 1 else 0 }

/-- Boot is complete once autostart is done: STAGE 0x6, and the minima of the patch and the settings record in force
are raised (R62, R72). -/
def bootDone (s : State) : State :=
  if s.chip.stage ≠ 5 ∨ !s.svc.autostart.isEmpty ∨ s.chip.resetting then s
  else
    let up := fun (sec : Option Word) (old : Word) => match sec with
      | some v => if old.toNat < v.toNat then v else old
      | none => old
    (s.onChip fun c => { c with stage := 6 }).onSvc fun v => { v with
      secMin := vmod (vmod v.secMin 1 (up v.bootPatchSec)) 3 (up v.bootSettingsSec) }

/-! Module reset (R83). -/

/-- A request accepted: fetching stops and every function at work but SAGE is asked to stop; SERVICE and MEMCTL, which
no stop reaches (R79), go on. A request during a reset joins it. -/
def beginReset (causeBit : Nat) (s : State) : State :=
  let b : Word := BitVec.ofNat 32 (2 ^ causeBit)
  if s.chip.supply = .off then s
  else if s.chip.resetting then s.onChip fun c => { c with resetBits := c.resetBits ||| b }
  else
    let s1 := (s.onChip fun c => { c with resetting := true, resetBits := b, resetAt := s.now, noardReset := none }).onHost
      fun h => { h with fetch := false }
    let s2 := s1.onSvc fun v => { v with autostart := [], autoBusy := false }
    forAll (allFuncs.filter fun f => (s2.life? f == .starting || s2.life? f == .running)
        && !(f == .sage || f == .service || f == .memctl))
      (fun f s => askStop f false s) s2

/-- SAGE stops at the first boundary at which no channel is at work. -/
def resetSage (s : State) : State :=
  if s.chip.resetting && (s.life? .sage == .running || s.life? .sage == .starting) && allPch.all fun c => !(s.life? (.pch c)).busy then
    askStop .sage false s
  else s

/-- 200 ms after the request: channels that still ramp take the fast stop, other functions that still stop are ended, those
whose boundary has not come among them. -/
def resetTimeout (s : State) : State :=
  if !s.chip.resetting || (s.now - s.chip.resetAt).toNat < s.msTicks 200 then s
  else
    let s1 := forAll (allPch.filter fun c => (s.life? (.pch c)).busy) fastStop s
    forAll (allFuncs.filter fun f => (s1.life? f).busy && !(f.hv || f == .service || f == .memctl))
      (fun f s => enterStopped f (((s.endStarts f stAborted).onFunc f fun r => { r with fade := Fade.zero }).endStops f stOk)) s1

/-- Every function is stopped and no channel switches. -/
def State.allStopped (s : State) : Bool :=
  !s.anySwitching && allFuncs.all fun f => f == .service || f == .memctl || !(s.life? f).busy

/-- Counters that a module reset keeps: ports, paths, TIMEKEEPER (R84). -/
def keptCounter (k : Nat) : Bool := k / 4096 == 1 || k / 4096 == 2 || k / 4096 == 5

/-- The islands are reset: DRAM enters self-refresh, shared SRAM and the cores' memories are cleared, the service
island, the processing islands and the rings start again. Ports, forwarding, the timing island, the memory controller
and the isolation link go on (R83, R84). -/
def clearIslands (s : State) : State :=
  { s with
    chip := { s.chip with
      resetting := false, resetCause := s.chip.resetCause ||| s.chip.resetBits, resetBits := 0, noardReset := none
      stage := 0, result := 0, patchVersion := 0, bus := none, unsupported := false, hvIdle := 0 }
    life := { live := s.life.live, nextUid := s.life.nextUid }
    host := { rings := resetRings, perst := s.host.perst, hostMem := s.host.hostMem, linkUp := s.host.linkUp
              speed := s.host.speed, width := s.host.width, bme := s.host.bme, d3 := s.host.d3
              msixMask := s.host.msixMask, msixEnable := s.host.msixEnable, msixTable := s.host.msixTable }
    svc := { s.svc.kept with jtagLocked := s.svc.jtagLocked, wrong := s.svc.wrong }
    net := { a := { s.net.a with groups := [], sources := [], svcBuf := 0, pathBuf := 0, timeBuf := 0 }
             b := { s.net.b with groups := [], sources := [], svcBuf := 0, pathBuf := 0, timeBuf := 0 } }
    path := { topo := s.path.topo, fwd := s.path.fwd, ring := s.path.ring, ilk := s.path.ilk, seq := s.path.seq
              prevNode := s.path.prevNode, ilkLand := if s.path.ext then s.path.ilkLand else true }
    time := { s.time with accept := none }
    strm := {}
    lov := {}
    cores := Vector.replicate 16 {}
    loc := { dsync := s.loc.dsync }
    pwr := { s.pwr with
      ch := s.pwr.ch.map fun p => { p.kept with dieWarn := p.dieWarn, dieStop := p.dieStop }
      g := 0, valid := false, noFsw := false, fsw := 0 }
    memc := { s.memc with
      selfRefresh := 0xF, mig := s.memc.mig.map fun g => { g with job := none }
      poison := s.memc.poison.filter isDram, txns := Vector.replicate 13 [], queued := Vector.replicate 13 []
      granted := [], draining := 0, peak := Vector.replicate 13 0, errCount := 0, lastResp := none, errAddr := 0, errInfo := 0
      rhLast := 0, worst := 0 }
    mem := s.mem.filter fun e => isDram e.1 || isStore e.1
    cnt := { vals := s.cnt.vals.filter fun e => keptCounter e.1, hi := s.cnt.hi.filter fun e => keptCounter e.1 }
    edges := [] }

/-- 1 ms after everything has stopped: the record is saved, the islands are reset, boot runs from t = 35 ms (R83, R453). -/
def resetIslands (strap : BitVec 2) (s : State) : State :=
  if s.chip.supply = .off ∨ !s.chip.resetting ∨ !s.allStopped then s
  else bootStages strap false (forAll resetIslandsOf (fun i s => setHalted i false (setBegun i false (setCopy i s.now s)))
    (clearIslands (saveRecord s)))

/-- RESET_REQ: accepted once its record has been written and, for a Noard request, its reply has left (R83, R128). -/
def noardResetDue (s : State) : Bool :=
  match s.chip.noardReset with
  | none => false
  | some (q, idx) =>
    let mail := fun (p : Port) => (s.port p).queues.toList.all fun l => l.all fun f => f.etype.toNat != s.svcParam 3
    s.life.jobs.all (fun j => j.ring != q || j.idx != idx || j.silent)
    && s.life.acts.all (fun a => a.ring != q || a.idx != idx || a.silent)
    && (s.ring q).waiting.all (fun r => r.idx != idx)
    && s.svc.reqs.all (fun n => n.ring != q || n.count ≤ (idx - n.first).toNat)
    && (!s.tarrRing q || (mail .a && mail .b))

end Sys2Proof.Machine
end

