-- ==== Sys2Proof/Machine/PowerCmds.lean ====
section
/-! DEFINITION. Supplies, the high-voltage side, PCIe, resets and boot as commands, and the elapsed-time record (R23-R26,
R40-R50, R62-R69, R81-R85, R119-R124, R146, R147, R389, R453, R458). -/

namespace Sys2Proof.Machine

open Sys2Proof

/-! Line power and the core rail (R24, R43, R45, R62, R146, R147, R458). -/

/-- The ideal diodes conduct at the port of the higher interface voltage, and at both within 0.1 V (R41, R147). -/
def carry (s : State) : State :=
  let up := fun (p : Port) =>
    let o := s.port (otherPort p)
    (s.port p).powered && (!o.powered || decide (o.vin.toNat ≤ (s.port p).vin.toNat + 1))
  (s.onPort .a fun r => { r with carrying := up .a }).onPort .b fun r => { r with carrying := up .b }

/-- LINE_POWER_UP: a port is powered; the first one starts the logic side, up to STAGE 0x3 (R62). -/
def execLinePowerUp (port : Port) (strap : BitVec 2) (s : State) : Answer :=
  let s1 := carry (s.onPort port fun r => { r with powered := true })
  .next (if s.chip.supply = .off then powerUp strap s1 else s1)

/-- DRAM_TRAINED: MEMCTL is RUNNING; STAGE 0x4, then 0x5 (R62, R423). -/
def execDramTrained (s : State) : Answer := .next (if s.chip.supply ≠ .off ∧ s.chip.stage = 3 ∧ !s.chip.resetting then dramUp s else s)
/-- BOOT_COMPLETE: STAGE 0x6 once autostart is done (R62, R72). -/
def execBootComplete (s : State) : Answer := .next (bootDone (autoBegin s))

/-- How far the core rail has fallen. -/
def sagStage : SagDepth → Supply
  | .cores => .cores
  | .paths => .paths
  | .stopped => .stopped
/-- CORE_RAIL_SAG: stages 2 to 4 (R23, R24). -/
def execCoreRailSag (depth : SagDepth) (s : State) : Answer :=
  .next (if s.chip.supply = .off ∨ s.chip.supply = .clocked then s else s.onChip fun c => { c with supply := sagStage depth })

/-- CLOCKED_RAIL_FALL: the PHYs and forwarding stop, and link partners see link down (stage 5 of R24). The isolation
link goes quiet: HV_LOST and HV_TOKEN_TIMEOUT follow. -/
def execClockedRailFall (s : State) : Answer :=
  .next (if s.chip.supply = .off then s
    else linkLost .b (linkLost .a (s.onChip fun c => { c with supply := .clocked })))

/-- A change of AWAKE and LINK_UP raises event bit 14 (R120). -/
def setHv (awake link : Bool) (s : State) : State :=
  let s1 := s.onChip fun c => { c with awake, linkUp := link }
  if s.chip.awake = awake ∧ s.chip.linkUp = link then s1 else s1.raise 14

/-- CLOCKED_RAIL_RETURN: ports negotiate again, and the isolation link carries tokens where the high-voltage side is
awake (R458). -/
def execClockedRailReturn (s : State) : Answer :=
  let s1 := s.onChip fun c => { c with supply := .stopped }
  .next (if s.chip.supply ≠ .clocked then s else if s.chip.hvUp then setHv true true s1 else s1)

/-- PD_TURN_OFF: all logic rails collapse (stage 6 of R24), the PD state returns to reset (R144), and a channel that
switches performs the link-loss stop (R25, R26). -/
def execPdTurnOff (s : State) : Answer :=
  let gone := fun (r : PortSt) => { r with powered := false, carrying := false, events := 0, pairsets := 0, vin := 0 }
  .next (coldState (((forAll allPch fastStop s).onPort .a gone).onPort .b gone))

/-- PORT_POWER_LOSS: the other port, if powered, takes the load (R43). -/
def execPortPowerLoss (port : Port) (s : State) : Answer :=
  .next (carry (s.onPort port fun r => { r with powered := false, events := 0, pairsets := 0 }))

/-- PD_CLASSIFICATION: the class events counted once, at power-on (R146, R147). -/
def execPdClassification (port : Port) (events : BitVec 3) (pairsets : BitVec 2) (s : State) : Answer :=
  .next (carry (s.onPort port fun r => { r with powered := true, events, pairsets }))
/-- PD_VIN_UPDATE: the load follows the higher voltage (R41, R147). -/
def execPdVinUpdate (port : Port) (vin : BitVec 12) (s : State) : Answer := .next (carry (s.onPort port fun r => { r with vin }))
/-- VAUX_SHORT: no other rail is affected (R45). -/
def execVauxShort (shorted : Bool) (s : State) : Answer := .next (s.onChip fun c => { c with vauxShort := shorted })
/-- CORE_RAIL_RECOVERY: the islands speed up again without a restart (R24). -/
def execCoreRailRecovery (s : State) : Answer :=
  .next (if s.chip.supply = .off ∨ s.chip.supply = .clocked then s else s.onChip fun c => { c with supply := .full })

/-! VBUS and the high-voltage side (R46-R50, R65-R67, R85, R389, R400). -/

/-- VBUS_CONNECT: the inlet charges and the side sleeps (R46). -/
def execVbusConnect (v : BitVec 16) (s : State) : Answer := .next (s.onChip fun c => { c with vbus := v })
/-- VBUS_LOSS: the high-voltage side sends no token any more; HV_LOST follows (R85). -/
def execVbusLoss (s : State) : Answer := .next (s.onChip fun c => { c with vbus := 0, hvUp := false })
/-- VBUS_REVERSED: blocked by the inlet; the next wake request reports it (R47, R400). -/
def execVbusReversed (v : BitVec 16) (s : State) : Answer :=
  .next (if v.slt 0 then s.onChip fun c => { c with vbus := v, hvUp := false } else s)

/-- VBUS_OVERVOLTAGE: above 190 V every switching channel shorts its load with the low-side switches (R48). -/
def execVbusOvervoltage (v : BitVec 16) (s : State) : Answer :=
  let s1 := s.onChip fun c => { c with vbus := v, vbusOv := true }
  .next (if v.toInt ≤ 1900 || s.chip.variant == .l then s
    else forAll (allPch.filter fun c => (s1.pch c).phase != 0) (fun c s => s.onPch c fun p => { p with
      phase := 7, vOut := 0, clip := false, prot := if p.retrying then 0 else p.prot }) s1)

/-- OV_SHORT_RELEASE: the switches open and the channel enters FAULTED with cause 0x06 (R48). -/
def execOvShortRelease (c : Fin 4) (s : State) : Answer :=
  .next (if (s.pch c).phase ≠ 7 then s else faultFunc (.pch c) 6 0 (openSwitches c s))

/-- HV_TOKEN_TIMEOUT: every channel that switches performs the link-loss stop, and none starts before the link has
returned (R25, R379). -/
def execHvTokenTimeout (s : State) : Answer :=
  .next (forAll (allPch.filter fun c => (s.life? (.pch c)).busy) fastStop
    (if s.chip.linkUp then setHv s.chip.awake false s else s))

/-- HV_LOST: the functions of the high-voltage side that are not OFF enter FAULTED with cause 0x05 (R85). -/
def execHvLost (s : State) : Answer :=
  .next (if s.chip.variant = .l then s
    else setHv false false (forAll (allFuncs.filter (·.hv)) (fun f s => faultFunc f 5 0 s) (s.onChip fun c => { c with waking := false })))

/-- HV_AWAKE: the wake of R65 ends, or tokens pass again after a silence of the link that left the side awake. A wake
with VBUS correct clears VBUS_REVERSED (R73), and Sage takes its persisted state (R84). -/
def execHvAwake (s : State) : Answer :=
  let s1 := setHv true true (s.onChip fun c => { c with waking := false, vbusReversed := false, hvUp := true })
  .next (if !(s.chip.waking || s.chip.hvUp) || s.chip.vbus.toInt < 240 || s.chip.variant == .l then s
    else if s.chip.hvUp then s1
    else forAll allPch reloadCoil (s1.onLog fun l => { l with hvWakes := satInc l.hvWakes }))

/-- HV_WAKE_TIMEOUT: the descriptors that wait for the wake complete with TIMEOUT and the functions stay as they are
(R66). -/
def execHvWakeTimeout (s : State) : Answer :=
  let s1 := s.onChip fun c => { c with waking := false }
  let mine := fun (j : Job) => j.op == 0x11 && j.phase == 1 && (match descFunc j.desc with
    | some f => f.hv
    | none => false)
  let s2 := s1.endJobs mine stTimeout 0
  let one := fun (f : Func) (s : State) =>
    let r := s.func f
    let a := if r.state == .off && r.stopReq then
        (s.onFunc f fun r => { r with stopReq := false, offReq := false }).endStops f stTimeout else s
    if r.startReq then (a.onFunc f fun r => { r with startReq := false }).endStarts f stTimeout else a
  .next (if !s.chip.waking then s else autoWakeFail (forAll (allFuncs.filter (·.hv)) one s2))

/-- HV_SLEEP: 100 ms after the last of PCH0-PCH3 and SAGE has entered OFF (R67). -/
def execHvSleep (s : State) : Answer :=
  .next (if s.chip.awake && s.hvResting && decide (s.msTicks 100 ≤ s.chip.hvIdle) then
      setHv false false (s.onChip fun c => { c with hvUp := false })
    else s)

/-- VBUS_OV_CLEAR (R73). -/
def execVbusOvClear (v : BitVec 16) (s : State) : Answer :=
  .next (if v.toInt < 1900 then s.onChip fun c => { c with vbus := v, vbusOv := false } else s)
/-- PCH_VBUS_UPDATE: the measured VBUS, every 1 ms while the side is awake (R389). -/
def execPchVbusUpdate (v : BitVec 16) (s : State) : Answer :=
  .next (if s.chip.awake then s.onChip fun c => { c with pchVbus := v, vbus := v } else s)

/-! Descriptors that stop (R81, R123). -/

/-- The image that was being placed (R312). -/
def markUncertain (j : Job) (s : State) : State :=
  match descFunc j.desc with
  | some (.sc n) =>
    if j.op == 0x23 && j.phase == 1 then s.onCore n fun c => { c with imageOk := false, imageUncertain := true } else s
  | _ => s

/-- Starts and stops that no descriptor, action, autostart entry or module reset stands behind any more do not take effect. -/
def dropAsks (s : State) : State :=
  let first := s.svc.autostart.head?.bind fun e => Func.ofId e.func
  let keep := fun (f : Func) (op act : Byte) =>
    s.chip.resetting || (s.svc.autoBusy && first == some f) || s.life.jobs.any (Job.is op f) || s.life.acts.any (Action.pend act f)
  forAll allFuncs (fun f s => s.onFunc f fun r => { r with
    startReq := r.startReq && keep f 0x12 2, stopReq := r.stopReq && keep f 0x10 3
    offReq := r.offReq && (r.state == .stopping || keep f 0x10 3) }) s

/-- What descriptors of these rings have asked of other parts is withdrawn. -/
def withdraw (mine : Nat → Bool) (s : State) : State :=
  let back := fun (m : MemSt) => match m.mig with
    | some g => if !g.job.any mine then m
      else if g.auto then { m with mig := some { g with job := none } }
      else { m with mig := none, ranks := vmod m.ranks g.rank fun _ => 0 }
    | none => m
  (((s.onLife fun l => { l with writes := l.writes.filter fun w => !mine w.job }).onMemc back).onPath fun x => { x with
    request := x.request.filter fun r => !mine r.1 }).onTime fun t => { t with accept := t.accept.filter fun u => !mine u }

/-- The descriptors in progress on these rings stop: bulk ones at their next unit boundary, where an image in placement has
none, or at once. -/
def stopDescs (ring : Fin 32 → Bool) (atUnit : Bool) (s : State) : State :=
  let mine := fun (u : Nat) => s.life.jobs.any fun j => j.uid == u && ring j.ring
  let s1 := forAll (allPch.filter fun c => (s.pch c).test.any fun t => mine t.job) (endTest · stAborted) s
  forAll (s1.life.jobs.filter fun j => ring j.ring && !(atUnit && j.op == 0x23)) (fun j s =>
    let c := cutJob atUnit j (if atUnit then s else markUncertain j s)
    c.1.endJob j stAborted c.2.1 c.2.2) (withdraw mine s1)

/-! PCIe (R82, R119, R121, R123, R124). -/

/-- PERST_N_ASSERT: the endpoint and the rings that the host owns are reset; their descriptors in progress stop, bulk ones
at a unit boundary, without records; the functions stay as they are (R82, R120, R123). -/
def execPerstNAssert (s : State) : Answer :=
  let hostOwned := fun q : Fin 32 => !s.tarrRing q
  let rings := Vector.ofFn fun q : Fin 32 => if hostOwned q then resetRings[q] else s.host.rings[q]
  let quiet := s.onLife fun l => { l with
    jobs := l.jobs.map fun j => if hostOwned j.ring then { j with silent := true } else j
    acts := l.acts.map fun a => if hostOwned a.ring then { a with silent := true } else a }
  let s1 := (dropAsks (stopDescs hostOwned true quiet)).onHost fun h => { h with
    rings, hostPage := {}, dbAddr := 0, stAddr := 0, fetch := false, period := 0, eventVec := 0, fetchSkip := 0
    taken := h.taken.filter fun e => !hostOwned e.1
    msixMask := 0xFFFFFFFF, msixEnable := false, msixPend := 0, toSignal := 0, msixSent := 0, msixMsgs := []
    msixTable := Vector.replicate 32 (0, 0), progress := h.progress.filter fun e => !hostOwned e.1
    perst := false, linkUp := false, speed := 0, width := 0, bme := false, d3 := false, hostErr := 0, hostErrCount := 0 }
  .next s1

/-- PERST_N_RELEASE: PCIe link training begins (R62). -/
def execPerstNRelease (s : State) : Answer := .next (s.onHost fun h => { h with perst := true })
/-- PCIE_LINK_TRAINED: PCIE_STATUS follows the link (R121, R124). -/
def execPcieLinkTrained (speed : BitVec 3) (width : BitVec 4) (s : State) : Answer :=
  .next (if s.host.perst && s.chip.supply != .off && 1 ≤ speed.toNat && speed.toNat ≤ 3 && (width == 1 || width == 2) then
      s.onHost fun h => { h with linkUp := true, speed, width }
    else s)
/-- PCIE_LINK_DOWN (R124). -/
def execPcieLinkDown (s : State) : Answer := .next (s.onHost fun h => { h with linkUp := false, speed := 0, width := 0 })
/-- BME_CHANGE: messages that waited for it leave (R123). -/
def execBmeChange (on : Bool) (s : State) : Answer := .next (s.onHost fun h => sendMsix { h with bme := on })
/-- D3HOT_TRANSITION: D3hot stops fetching only (R121). -/
def execD3hotTransition (d3 : Bool) (s : State) : Answer := .next (s.onHost fun h => { h with d3 })
/-- MSIX_MASK_CHANGE: unmasking a vector whose pending bit is set sends its message (R119). -/
def execMsixMaskChange (masks : Word) (enable : Bool) (s : State) : Answer :=
  .next (s.onHost fun h =>
    sendMsix { h with msixMask := masks, msixEnable := enable })

/-! Resets (R81, R83). -/

/-- SOFT_RESET: a write of 0xD041 to GLOBAL_SOFT_RESET is accepted at once (R73, R83). -/
def execSoftReset (v : Word) (s : State) : Answer := .next (if bits v 15 0 = 0xD041 then beginReset 1 s else s)
/-- JTAG_RESET: accepted at once (R83), where the debug lock leaves JTAG more than its public instructions (R138). -/
def execJtagReset (s : State) : Answer := .next (if s.svc.provisioned && !s.svc.jtagOpen then s else beginReset 3 s)
/-- NOARD_RESET_ACCEPT (R83, R128). -/
def execNoardResetAccept (s : State) : Answer :=
  .next (if noardResetDue s then (beginReset 2 s).onChip fun c => { c with noardReset := none } else s)
/-- RESET_STOP_TIMEOUT (R83). -/
def execResetStopTimeout (s : State) : Answer := .next (resetTimeout s)
/-- RESET_ISLANDS (R83). -/
def execResetIslands (strap : BitVec 2) (s : State) : Answer := .next (resetIslands strap s)

/-- SVC_WATCHDOG_RESTART: every descriptor taken and not completed is ABORTED, the requests and stored replies of Noard
are lost, and no function changes state (R81, R136, R252). With the stored replies goes the last accepted PDU that R131
compares with: the same frame sent again then counts as REPLAY (DESIGN CHOICE, log 32). -/
def execSvcWatchdogRestart (s : State) : Answer :=
  let s1 := (s.onChip fun c => { c with resetCause := c.resetCause ||| 0x10 }).raise 15
  let s2 := stopDescs (fun _ => true) false s1
  let s3 := forAll s2.host.taken (fun e s => finish e.1 e.2.2 e.2.1 stAborted 0 s) s2
  let s4 := dropAsks (forAll s3.life.acts (fun a s => s.endAction a stAborted 0) s3)
  .next (if s.chip.supply = .off then s
    else (s4.onHost fun h => { h with taken := [], rings := h.rings.map fun r => { r with fetched := [] } }).onSvc fun v => { v with
      reqs := [], stored := Vector.replicate 4 [], lastPdu := Vector.replicate 4 [], arp := [], nonce := none })

/-! The elapsed-time record (R453), and what the module does once a second (R127, R165, R221, R222, R225, R431, R451). -/

/-- Saturating addition at a width. -/
def satAdd (w n a : Nat) : Nat := min (2 ^ w - 1) (n + a)

/-- What one second adds to the life at 60 degC, units of 2^-16 s; its rounding is open (log 9). -/
def lifeSecond (t : BitVec 16) : Nat := pow2Fix ((t.toInt - 960) * (2 ^ 64 : Int) / 160) / 2 ^ 48

/-- The record's fields in one second. -/
def countSecond (temp : BitVec 16) (s : State) : State :=
  s.onLog fun l => { l with
    poweredS := BitVec.ofNat 64 (satAdd 64 l.poweredS.toNat 1)
    lifeEq := min (2 ^ 80 - 1) (l.lifeEq + lifeSecond temp)
    hvAwakeS := BitVec.ofNat 64 (satAdd 64 l.hvAwakeS.toNat (b2n s.chip.awake))
    switchS := BitVec.ofNat 64 (satAdd 64 l.switchS.toNat (b2n s.anySwitching))
    tPeak := if l.tPeak.slt temp then temp else l.tPeak
    bins := match tempBin temp with
      | some k => vmod l.bins k satInc
      | none => l.bins
    second := 0 }

/-- One second of the ramp of 0.1 ppm/s to nominal. -/
def toNominal (f : Int) : Int := if f > 100 then f - 100 else if f < -100 then f + 100 else 0

/-- TIMEKEEPER's second: in LOCKED for 60 s the bin of the temperature takes the frequency (R221); in nominal holdover
the frequency ramps to nominal; in corrected holdover and in STEP_HELD it follows the learned model and the ageing model from
the frequency held (R213, R222). -/
def timeSecond (temp : BitVec 16) (s : State) : State :=
  let locked := s.time.lock == 2
  let s1 := s.onTime fun t => { t with temp, lockedS := if locked then t.lockedS + 1 else 0 }
  let s2 := if locked && 60 ≤ s1.time.lockedS then
      s1.onTime fun t => { t with model := match tempBin temp with
        | some k => vmod t.model k fun _ => t.freq
        | none => t.model }
    else s1
  if s2.time.lock = 5 ∧ bit s2.time.ctrl 4 then s2.onTime fun t => { t with freq := toNominal t.freq }
  else if s2.time.lock = 4 ∨ s2.time.lock = 5 then s2.onTime fun t => { t with freq := t.heldBase + s2.modelled }
  else s2

/-- The record is 10 s behind the live copy: it is written (R453). -/
def recordDue (s : State) : State :=
  if ofLe (s.read recordBase 8) + 10 ≤ s.log.poweredS.toNat then saveRecord s else s

/-- ELAPSED_SECOND. -/
def execElapsedSecond (temp : BitVec 16) (s : State) : Answer :=
  let s1 := recordDue (timeSecond temp (countSecond temp s))
  let s2 := s1.onSvc fun v => { v with echoA := 0, echoB := 0, echo6A := 0, echo6B := 0 }
  .next (if s.chip.supply = .off then s else s2)

/-- ELAPSED_RECORD_SAVE: every 10 s and at module reset (R453). -/
def execElapsedRecordSave (s : State) : Answer := .next (if s.chip.supply = .off then s else saveRecord s)

end Sys2Proof.Machine
end

