-- ==== Sys2Proof/Machine/PwrCmds.lean ====
section
/-! DEFINITION. The events of the power channels, of their protection and of Sage (R377-R380, R384, R391-R407).
Temperatures come in units of 1/16 degC. -/

namespace Sys2Proof.Machine

open Sys2Proof

/-! The bridge (R377-R379). What the rules put at a boundary comes there; what they put between boundaries can be commanded
from its tick on and comes at the next boundary at the latest (log 59). -/

/-- Switching begins 1 ms after the low sides closed, where `n` ticks have passed since (R377). -/
def beginSwitching (n : Nat) (c : Fin 4) (s : State) : State :=
  if s.life? (.pch c) == .starting && (s.pch c).phase == 1 && decide (n ≤ s.since (.pch c)) then
    s.onPch c fun p => { p with
      phase := 2, cm := { cmUp (s.cmRampMs c) s.fsHz with pos := 1000 * s.since (.pch c) - s.fsHz } }
  else s
/-- PCH_SWITCHING_BEGIN (R377). -/
def execPchSwitchingBegin (c : Fin 4) (s : State) : Answer := .next (beginSwitching (s.fsHz / 1000) c s)

/-- The ramp up is done: a start has lasted 1 ms + CM_RAMP, a restart after a retry has both duties at 0.5. -/
def rampDone (c : Fin 4) (s : State) : Bool :=
  (s.pch c).phase == 2 && match s.life? (.pch c) with
    | .starting => decide (s.msTicks (1 + s.cmRampMs c) ≤ s.since (.pch c))
    | .running => (s.pch c).cm.atFull
    | _ => false

/-- The modulator takes vectors; a start enters RUNNING, a restart after a retry is RUNNING already, and the output rises
(R377, R393). -/
def pchEnterRunning (c : Fin 4) (s : State) : State :=
  let f := s.fadeTime (.pch c)
  if !rampDone c s then s
  else if s.life? (.pch c) == .starting then enterRunning (.pch c) s
  else (pchRuns c s).onFunc (.pch c) fun r => { r with fade := Fade.zero.go true f }

/-- The output is silent: both duties fall, and the boundary of the end is known (R378). -/
def rampDown (c : Fin 4) (s : State) : State :=
  let full := max 1 (s.cmRampMs c * s.fsHz)
  if (s.pch c).phase == 4 && (s.func (.pch c)).fade.silent then
    s.onPch c fun p => { p with
      phase := 5, cm := { cmUp (s.cmRampMs c) s.fsHz with pos := full, up := false }
      mark := s.now + BitVec.ofNat 64 (untilOpen full s) }
  else s

/-- Both duties reach 0 within `left` thousandths of a tick: the low sides are closed (R378). -/
def closeLowSides (left : Nat) (c : Fin 4) (s : State) : State :=
  if (s.pch c).phase == 5 && decide ((s.pch c).cm.pos ≤ left) then s.onPch c fun p => { p with phase := 1, cm := Fade.zero } else s
/-- PCH_LOW_SIDE_CLOSED (R378). -/
def execPchLowSideClosed (c : Fin 4) (s : State) : Answer := .next (closeLowSides 999 c s)

/-- All switches open and the stop ends (R378). -/
def pchSwitchesOpen (c : Fin 4) (s : State) : State :=
  if s.life? (.pch c) == .stopping && (s.pch c).phase == 1 && s.pastMark c 0 then pchStopped c (openSwitches c s) else s

/-- A fast stop of at least `n` ticks has ended, where the logic side has lost its supply once the duties are down: all
switches open and the channel reports FAULTED with cause 0x04, unless another fault began the stop (R379, R396). -/
def fastStopEnd (n : Nat) (c : Fin 4) (s : State) : State :=
  if (s.pch c).phase != 6 then s
  else if s.chip.supply = .off then (if (s.pch c).cm.silent then openSwitches c s else s)
  else if s.pastMark c n then faultFunc (.pch c) 4 0 ((openSwitches c s).bump (pchFn c) 2)
  else s
/-- FAST_STOP_END: 2 ms after the fast stop began (R379). -/
def execFastStopEnd (c : Fin 4) (s : State) : Answer := .next (fastStopEnd (2 * s.fsHz / 1000) c s)

/-! The Chive path (R384). -/

/-- 64 ticks after the write the setting takes effect and r rises. -/
def chiveSettle (c : Fin 4) (s : State) : State := if (s.pch c).chiveWait = 1 then chiveApply c s else s

/-- CHIVE_CUT: 128 equal bits, or no sampling edge for 1 us: r is 0 at once. -/
def execChiveCut (c : Fin 4) (s : State) : Answer :=
  let p := s.pch c
  .next (
    if p.chiveSrc.toNat < 40 && !p.cut && (p.phase == 3 || p.phase == 4) then
      (s.onPch c fun p => { p with chive := Fade.zero, cut := true }).bump (pchFn c) 3
    else s)

/-- A bit of the other level has come on a running clock; r rises over 64 ticks. -/
def chiveRestore (c : Fin 4) (s : State) : State :=
  let p := s.pch c
  if p.cut && s.streamRuns p.chiveSrc.toNat then
    s.onPch c fun p => { p with cut := false, chive := if p.chiveWait = 0 then p.chive.go true 64 else p.chive }
  else s

/-! Current limit, shorts and the retry (R391-R396). -/

/-- The bridge switches (R390). -/
def Pch.switches (p : Pch) : Bool := decide (2 ≤ p.phase.toNat ∧ p.phase.toNat ≤ 6)

/-- CURRENT_LIMIT: one half-period is cut off (R391). -/
def execCurrentLimit (c : Fin 4) (s : State) : Answer := .next (if (s.pch c).switches then s.bumpProt c 0 else s)

/-- R392. -/
def shortKind : ShortPattern → BitVec 4
  | .outToOut => 1 | .aHighOnly => 2 | .bHighOnly => 3 | .aLowOnly => 4 | .bLowOnly => 5 | .other => 7

/-- KIND records the response that began first (R396). -/
def setKind (c : Fin 4) (k : BitVec 4) (s : State) : State :=
  s.onPch c fun p =>
    if p.stopCause = 0 ∧ p.phase ≠ 6 ∧ p.phase ≠ 7 ∧ p.prot = 0 ∧ p.toFault = none then { p with kind := k } else p

/-- The retry wait begins, or the channel gives up at the next boundary (R393, R394). -/
def retryWait (c : Fin 4) (s : State) : State :=
  let limit := s.sageParam c 14
  s.onPch c fun p => { p with
    phase := 0, prot := 1, retry := min 255 (p.retry + 1), mark := s.now
    toFault := if limit < p.retry + 1 then some 7 else p.toFault }
/-- RETRY has exceeded RETRY_MAX. -/
def State.givesUp (s : State) (c : Fin 4) : Bool := (s.pch c).prot == 1 && decide (s.sageParam c 14 < (s.pch c).retry)

/-- Ticks until a stop in PHASE 0x4 opens its switches (R378). -/
def stopLeft (c : Fin 4) (s : State) : Nat :=
  let f := (s.func (.pch c)).fade
  (f.pos + f.step - 1) / max 1 f.step + untilOpen (s.cmRampMs c * s.fsHz) s

/-- All four switches open on a short or an overload of kind `k`; what follows depends on what the channel does
(R392-R396). -/
def shortOpen (c : Fin 4) (k : BitVec 4) (s : State) : State :=
  let p := s.pch c
  let s1 := (setKind c k (endTest c stBadState s)).onPch c fun p => { p with notices := p.notices ++ [k] }
  let left := stopLeft c s
  let s2 := openSwitches c s1
  if p.phase = 6 then
    (let s3 := s2.bump (pchFn c) 2
     if (s.life? (.pch c)).busy then s3.onPch c fun p => { p with toFault := some 4 } else s3)
  else if p.phase = 7 then s2.onPch c fun p => { p with toFault := some 6 }
  else match s.life? (.pch c) with
    | .starting => s2.onPch c fun p => { p with toFault := some 7 }
    | .running => retryWait c s2
    | .stopping => s2.onPch c fun q => { q with mark := if p.phase = 4 then s.now + BitVec.ofNat 64 left else q.mark }
    | _ => s2

/-- SHORT_DETECT: a switch current of 85 A, or desaturation, in any phase with a switch closed but the probe
(R391, R392). -/
def execShortDetect (c : Fin 4) (pattern : ShortPattern) (s : State) : Answer :=
  .next (if (s.pch c).phase = 0 ∨ (s.pch c).prot = 2 then s else shortOpen c (shortKind pattern) s)

/-- OVERLOAD: current limit in 64 consecutive periods (R391). -/
def execOverload (c : Fin 4) (s : State) : Answer := .next (if (s.pch c).switches then shortOpen c 6 s else s)

/-- RETRY_TIME of at least `n` ticks has passed: the low sides close (R393). -/
def retryClose (n : Nat) (c : Fin 4) (s : State) : State :=
  let p := s.pch c
  if p.prot == 1 && p.toFault.isNone && s.running (.pch c) && s.pastMark c n then
    s.onPch c fun p => { p with phase := 1, prot := 2, mark := s.now }
  else s
/-- RETRY_WAIT_EXPIRY (R393). -/
def execRetryWaitExpiry (c : Fin 4) (s : State) : Answer := .next (retryClose (s.sageParam c 15 * s.fsHz / 1000) c s)

/-- PROBE: from 100 us after the low sides closed it can pass, and the start of R377 runs from its row e + 1 ms; failed, at
any moment of the hold, the retry wait begins again (R393). -/
def execProbe (c : Fin 4) (passed : Bool) (s : State) : Answer :=
  .next (
    if (s.pch c).prot ≠ 2 then s
    else if !passed then (retryWait c s).bumpProt c 3
    else if s.pastMark c (s.fsHz / 10000) then s.onPch c fun p => { p with phase := 2, prot := 0, cm := cmUp (s.cmRampMs c) s.fsHz }
    else s)

/-- A clean run of RETRY_CLEAR in PHASE 0x3 (R394). -/
def retryClear (c : Fin 4) (s : State) : State :=
  let p := s.pch c
  if p.phase == 3 && p.prot == 0 && s.pastMark c (s.sageParam c 16 * s.fsHz) then s.onPch c fun p => { p with retry := 0 } else s

/-- One response at a time: a stop by R378 that ends in FAULTED with cause 0x07 (R391, R396). -/
def protectStop (c : Fin 4) (k : BitVec 4) (s : State) : State :=
  let p := s.pch c
  if !(s.life? (.pch c)).busy || p.phase = 6 || p.phase = 7 then s
  else if p.retrying then pchStop c 7 (s.onPch c fun p => { p with kind := k, toFault := none })
  else pchStop c 7 (setKind c k s)

/-- The reports of shorts and overloads, and the entry into FAULTED that follows one (R393, R394). -/
def pchReports (c : Fin 4) (s : State) : State :=
  let one := fun (k : BitVec 4) (s : State) =>
    ((s.bumpProt c (if k = 6 then 2 else 1)).raise 9).logEntry 0x07 (Func.id (.pch c)) ((s.pch c).kind.zeroExtend 8)
      (BitVec.ofNat 64 (s.pch c).protWord)
  let s1 := forAll (s.pch c).notices one s
  let s2 := s1.onPch c fun p => { p with notices := [] }
  match (s2.pch c).toFault with
  | none => s2
  | some k =>
    let up := if s2.givesUp c then (s2.onPch c fun p => { p with prot := 3 }).bumpProt c 4 else s2
    (faultFunc (.pch c) k 0 up).onPch c fun p => { p with toFault := none }

/-- The stop that a protection asked for takes effect (R391). -/
def pchStopNext (c : Fin 4) (s : State) : State :=
  match (s.pch c).stopNext with
  | none => s
  | some k => protectStop c k (s.onPch c fun p => { p with stopNext := none })

/-- What a channel does at a boundary without a command (R377-R379, R384, R391-R394). -/
def pchBoundary (c : Fin 4) (s : State) : State :=
  let s1 := pchStopNext c (pchReports c s)
  let s2 := rampDown c (closeLowSides 0 c (pchSwitchesOpen c s1))
  let s3 := beginSwitching (s2.msTicks 1) c (pchEnterRunning c s2)
  let s4 := retryClear c (retryClose (s3.msTicks (s3.sageParam c 15)) c s3)
  chiveSettle c (fastStopEnd (s4.msTicks 2) c s4)

/-! The slow protection (R390, R391, R406). -/

/-- The slow protection watches a channel: Sage runs, and its sense channels neither settle nor are stuck. -/
def State.watched (s : State) (c : Fin 4) : Bool := s.running .sage && !s.senseBad c && (s.pch c).switches

/-- A protection asks for a stop at the next boundary; the first to ask is the one. -/
def askProtect (c : Fin 4) (k : BitVec 4) (s : State) : State :=
  s.onPch c fun p => { p with stopNext := if p.stopNext.isSome then p.stopNext else some k }

/-- DC_FAULT: |mean| at or above DC_MAX for 200 ms. -/
def execDcFault (c : Fin 4) (s : State) : Answer :=
  .next (if s.watched c then askProtect c 8 ((s.bumpProt c 5).raise 9) else s)

/-- IMP_ACTION 1 also stops the channel (R391). -/
def impAction (c : Fin 4) (s : State) : State := if s.sageParam c 13 = 1 then askProtect c 0xB s else s

/-- OPEN_LOAD: the condition has lasted 500 ms with OPEN_EN 1. -/
def execOpenLoad (c : Fin 4) (s : State) : Answer :=
  .next (
    if s.watched c && s.sageParam c 10 = 1 && !(s.pch c).openLoad then
      impAction c (((s.onPch c fun p => { p with openLoad := true }).bumpProt c 6).raise 9)
    else s)
/-- OPEN_LOAD_CLEAR: 500 ms without the condition. -/
def execOpenLoadClear (c : Fin 4) (s : State) : Answer := .next (s.onPch c fun p => { p with openLoad := false })

/-- IMPEDANCE_WINDOW: one window of 500 ms has ended with impedance `z` in milliohm, all ones below 0.2 A; the fourth
outside in a row flags, the fourth inside in a row clears (R391, R415). -/
def execImpedanceWindow (c : Fin 4) (z : Word) (s : State) : Answer :=
  let low := decide (s.sageParam c 11 ≠ 0 ∧ z.toNat < s.sageParam c 11)
  let high := decide (s.sageParam c 12 ≠ 0 ∧ s.sageParam c 12 < z.toNat)
  .next (
    if !(s.running .sage) || s.senseBad c || decide ((s.now - (s.pch c).zAt).toInt < ((s.fsHz / 2 : Nat) : Int)) then s
    else
      let s1 := s.onPch c fun p => { p with z, zAt := s.now }
      if z = 0xFFFFFFFF then s1
      else if low || high then
        let s2 := s1.onPch c fun p => { p with zOut := p.zOut + 1, zIn := 0 }
        let p := s2.pch c
        if p.zOut < 4 || p.zLow || p.zHigh then s2
        else impAction c (((s2.onPch c fun p => { p with zLow := low, zHigh := high }).bumpProt c 7).raise 9)
      else s1.onPch c fun p => { p with
        zOut := 0, zIn := p.zIn + 1, zLow := p.zLow && decide (p.zIn < 3), zHigh := p.zHigh && decide (p.zIn < 3) })

/-! Temperatures (R391, R397). -/

/-- Degrees in units of 1/16. -/
def deg16 (n : Int) : Int := 16 * n

/-- DIE_TEMP_EVENT: a stage die temperature; a warning from 140 degC, a stop of its channel from 150 degC. -/
def execDieTempEvent (c : Fin 4) (temp : Int) (s : State) : Answer :=
  let p := s.pch c
  let s1 := s.onPch c fun p => { p with die := BitVec.ofInt 16 (satInt 16 temp), dieWarn := p.dieWarn || decide (deg16 140 ≤ temp) }
  let s2 := if decide (deg16 140 ≤ temp) && !p.dieWarn then s1.raise 13 else s1
  .next (
    if s.chip.variant == .l then s
    else if decide (deg16 150 ≤ temp) && (s.life? (.pch c)).busy && !p.dieStop then
      askProtect c 9 (s2.onPch c fun p => { p with dieStop := true })
    else if temp < deg16 130 then s2.onPch c fun p => { p with dieStop := false }
    else s2)

/-- BASEPLATE_TEMP_EVENT: the baseplate temperature; a warning from 90 degC, a stop of every switching channel from
102 degC, both while Sage runs (R390). -/
def execBaseplateTempEvent (temp : Int) (s : State) : Answer :=
  let s1 := s.onPwr fun w => { w with base := BitVec.ofInt 16 (satInt 16 temp) }
  .next (
    if s.chip.variant == .l then s
    else if temp < deg16 95 then
      (if decide (deg16 90 ≤ temp) && !s.pwr.baseWarn && s.running .sage then
        (s1.onPwr fun w => { w with baseWarn := true, baseStop := false }).raise 13
       else s1.onPwr fun w => { w with baseStop := false })
    else if !s.running .sage then s1
    else
      let s2 := if s.pwr.baseWarn then s1 else (s1.onPwr fun w => { w with baseWarn := true }).raise 13
      if temp < deg16 102 || s.pwr.baseStop then s2
      else forAll (allPch.filter s.switching) (askProtect · 0xA) (s2.onPwr fun w => { w with baseStop := true }))

/-- LOGIC_DIE_TEMP_WARNING: the logic die has reached 105 degC. -/
def execLogicDieTempWarning (s : State) : Answer :=
  .next (if s.pwr.logicWarn then s else (s.onPwr fun w => { w with logicWarn := true }).raise 13)

/-- TEMP_WARNING_CLEAR: 10 s at least 5 K below the threshold; the temperatures the module holds must agree. -/
def execTempWarningClear (src : TempSource) (s : State) : Answer :=
  .next (match src with
    | .die c => if (s.pch c).die.toInt ≤ deg16 135 then s.onPch c fun p => { p with dieWarn := false } else s
    | .baseplate => if s.pwr.base.toInt ≤ deg16 85 then s.onPwr fun w => { w with baseWarn := false } else s
    | .logic => s.onPwr fun w => { w with logicWarn := false })

/-- TEMP_STOP_RECOVERY: a die below 130 degC or the baseplate below 95 degC; the logic die has no stop. -/
def execTempStopRecovery (src : TempSource) (temp : Int) (s : State) : Answer :=
  .next (match src with
    | .die c =>
      if temp < deg16 130 then s.onPch c fun p => { p with dieStop := false, die := BitVec.ofInt 16 (satInt 16 temp) } else s
    | .baseplate =>
      if temp < deg16 95 then s.onPwr fun w => { w with baseStop := false, base := BitVec.ofInt 16 (satInt 16 temp) } else s
    | .logic => s)

/-! Sage (R398-R407). -/

/-- Sage runs and its sense streams arrive. -/
def State.sageAlive (s : State) : Bool := s.running .sage && s.chip.linkUp

/-- The update of this block of 16 ticks has not been made (R404). -/
def State.updateDue (s : State) (c : Fin 4) : Bool :=
  match (s.pch c).sageAt with
  | some t => t.toNat / 16 != s.now.toNat / 16
  | none => true

/-- SAGE_UPDATE: once every 16 ticks; `i2` is mean(i^2) in units of 2^-16 A^2, `p` the output power in units of 2^-16 W. -/
def execSageUpdate (c : Fin 4) (i2 p : Nat) (s : State) : Answer := .next (if s.sageAlive && s.updateDue c then sageStep c i2 p s else s)

/-- T_c and T_m after a valid window with T_meas `t` (R404, R407). -/
def fuse (w : Nat) (t : Int) (p : Pch) : Pch :=
  if p.reseed then { p with tc := t, tm := min p.tm t, reseed := false }
  else { p with tc := p.tc + (w : Int) * (t - p.tc) / 256 }

/-- SAGE_WINDOW: a window of at least 0.5 s has ended with R_meas `r` in milliohm. VALID holds for 2 s (R402, R415).
A lost sense channel gives no estimate (R406). -/
def execSageWindow (c : Fin 4) (r : Nat) (valid : Bool) (s : State) : Answer :=
  let t := s.tMeas c r
  let w := s.sageParam c 8
  .next (
    if !s.sageAlive || !s.sageOn c || decide ((s.now - (s.pch c).winAt).toInt < ((s.fsHz / 2 : Nat) : Int)) then s
    else if valid && !s.senseBad c then
      (s.bumpProt c 11).onPch c fun p => fuse w t { p with rEst := min r 65535, rValid := true, rAge := 0, winAt := s.now }
    else s.onPch c fun p => { p with winAt := s.now, rAge := p.rAge + 1, rValid := p.rValid && decide (p.rAge < 3) })

/-- Every 10 s while RUNNING Sage writes the thermal state (R407). -/
def saveDue (s : State) : State :=
  if s.running .sage && decide ((10 * s.fsHz : Nat) ≤ (s.now - s.pwr.savedAt).toInt) then
    (forAll allPch saveCoil s).onPwr fun w => { w with savedAt := s.now }
  else s

end Sys2Proof.Machine
end

