-- ==== Sys2Proof/Machine/RegCmds.lean ====
section
/-! DEFINITION. Accesses to BAR0: plain writes, and the reads and writes of registers with a behaviour (R7, R8, R73, R87,
R121, R124, R139, R162, R168, R198, R229, R255, R287, R317, R374, R441, R442). -/

namespace Sys2Proof.Machine

open Sys2Proof

/-- REGISTER_WRITE: a field with no behaviour of its own (R8). -/
def execRegisterWrite (off : BitVec 20) (v : Word) (s : State) : Answer := .next (s.regWrite off.toNat v)

/-- BAR0_BAD_ACCESS: unsupported request, no data, no effect (R121). -/
def execBar0BadAccess (off : BitVec 20) (size : Nat) (_write : Bool) (s : State) : Answer :=
  .next (if size = 4 ∧ off.toNat % 4 = 0 then s else s.onChip fun c => { c with bus := none, unsupported := true })

/-- COUNTER_LO_READ: the counter is taken whole and cleared; its upper bits stay in HI (R162). The blocks of the
high-voltage side read zero on a DQ41-L (R454). -/
def execCounterLoRead (off : BitVec 20) (s : State) : Answer :=
  .next (match counterAt off.toNat with
    | some (f, i, true) =>
      if !s.blockOpen (off.toNat / 0x1000) then s.answer 0
      else if s.chip.variant == .l && (off.toNat / 0x1000 == 10 || off.toNat / 0x1000 == 11) then s.answer 0 else s.readLo f i
    | _ => s)

/-- RING_FETCH_SKIP_READ (R87). -/
def execRingFetchSkipRead (s : State) : Answer :=
  .next (readIn 2 (fun s => (s.onHost fun h => { h with fetchSkip := 0 }).answer s.host.fetchSkip) s)

/-- PCIE_HOSTERR_COUNT_READ (R124). -/
def execPcieHosterrCountRead (s : State) : Answer :=
  .next ((s.onHost fun h => { h with hostErrCount := 0 }).answer s.host.hostErrCount)
/-- SVC_NOARD_COUNT_READ (R139). -/
def execSvcNoardCountRead (i : Fin 5) (s : State) : Answer :=
  .next (readIn 15 (fun s => (s.onSvc fun v => { v with noardCnt := vmod v.noardCnt i fun _ => 0 }).answer s.svc.noardCnt[i]) s)

/-- TIME_TICK_LO_READ: all 64 bits are captured (R229). -/
def execTimeTickLoRead (s : State) : Answer :=
  .next (readIn 3 (fun s => (s.onTime fun t => { t with tickHi := hiW t.tick }).answer (loW s.time.tick)) s)

/-- STRM_RX_MARGIN_READ: both margins, reset to 0x7FFF (R255). -/
def execStrmRxMarginRead (path : Port) (k : Fin 128) (s : State) : Answer :=
  let r := s.rx path k.val
  .next (readIn 7 (fun s => (s.onRx path k.val fun r => { r with marginMin := 0x7FFF, marginLast := 0x7FFF }).answer
    (pk [(r.marginMin.toNat, 0), (r.marginLast.toNat, 16)])) s)

/-- LOV_PEAK_READ: cleared to the present LOV_ACTIVE (R287). -/
def execLovPeakRead (s : State) : Answer :=
  .next (readIn 8 (fun s => (s.onLov fun l => { l with peak := l.active }).answer (BitVec.ofNat 32 s.lov.peak)) s)

/-- LOV_CLIPPED_CLEAR (R287). -/
def execLovClippedClear (w : Fin 64) (v : Word) (s : State) : Answer :=
  .next (writeIn 8 (fun s => s.onLov fun l => { l with clipped := vmod l.clipped w fun x => x &&& ~~~v }) s)

/-- SC_TASK_MAX_READ (R317). -/
def execScTaskMaxRead (n : Fin 16) (s : State) : Answer :=
  .next (readIn (0x10 + n.val) (fun s => (s.onCore n fun c => { c with taskMax := 0 }).answer (s.core n).taskMax) s)

/-- MEMC_WORST_RT0_READ (R441). -/
def execMemcWorstRt0Read (s : State) : Answer :=
  .next (readIn 12 (fun s => (s.onMemc fun c => { c with worst := 0 }).answer (s.memc.worst.zeroExtend 32)) s)

/-- XBAR_PEAK_READ: cleared to the present count (R442). -/
def execXbarPeakRead (m : Fin 13) (s : State) : Answer :=
  .next (readIn 13 (fun s => (s.onMemc fun c => { c with peak := vmod c.peak m fun _ => (c.txns[m]).length }).answer
    (BitVec.ofNat 32 s.memc.peak[m])) s)

/-- XBAR_ERR_COUNT_READ (R442). -/
def execXbarErrCountRead (s : State) : Answer :=
  .next (readIn 13 (fun s => (s.onMemc fun c => { c with errCount := 0 }).answer s.memc.errCount) s)

/-- RESET_CAUSE_CLEAR (R73). -/
def execResetCauseClear (v : Word) (s : State) : Answer := .next (s.onChip fun c => { c with resetCause := c.resetCause &&& ~~~v })
/-- PATH_TOPO_WRITE: PATH_TOPO or PATH_RING, only while both paths are OFF or STOPPED (R168). -/
def execPathTopoWrite (ringReg : Bool) (v : Word) (s : State) : Answer := .next (writeIn 6 (fun s => if ringReg then writeRingType v s else writeTopo v s) s)

/-- TIME_CTRL_WRITE: FS and HOLDOVER only while TIMEKEEPER is OFF or STOPPED (R198, R229). -/
def execTimeCtrlWrite (v : Word) (s : State) : Answer := .next (writeIn 3 (fun s => writeTimeCtrl v s) s)

/-- PCH_FSW_CTRL_WRITE: ignored while any channel switches (R374). -/
def execPchFswCtrlWrite (off : BitVec 5) (v : Word) (s : State) : Answer := .next (writeIn 10 (fun s => writeFsw off.toNat v s) s)

end Sys2Proof.Machine
end

