-- ==== Sys2Proof/Machine/StreamCmds.lean ====
section
/-! DEFINITION. Packets of streams, and the events of Lovage's ramps and generators (R230-R247, R267, R278). -/

namespace Sys2Proof.Machine

open Sys2Proof

/-! Reception (R233, R238, R242). -/

/-- The stamp of a packet (R233); none without a time-stamp and without a previous packet. -/
def rxStamp (s : State) (p : Port) (k : Nat) (pkt : StreamPacket) : Option DWord :=
  let t := s.now
  if s.rxAes k then
    (let d := pkt.stamp - BitVec.ofNat 32 (s.rxFld k 12 4) - t.truncate 32
     some (t + d.signExtend 64))
  else if pkt.tv then
    (let d := pkt.stamp - BitVec.ofNat 32 pkt.arrival
     let tau : Int := (pkt.arrival : Int) + d.toInt
     some (BitVec.ofInt 64 (nearest (tau * (s.fsHz : Int)) 1000000000)))
  else (s.rx p k).prev.map fun e => e.1 + BitVec.ofNat 64 e.2

/-- A margin in its register field. -/
def marginField (m : Int) : BitVec 16 := BitVec.ofInt 16 (satInt 16 m)
/-- MIN and LAST (R255). -/
def RxRec.noteMargin (m : Int) (r : RxRec) : RxRec :=
  { r with marginLast := marginField m, marginMin := if m < r.marginMin.toInt then marginField m else r.marginMin }

/-- The sample words of a payload, `n` of them (R232). -/
def payloadWords (fmt : Nat) : Nat → List Byte → List Word
  | 0, _ => []
  | n + 1, l => BitVec.ofNat 32 (ofBe (l.take (sampleBytes fmt))) :: payloadWords fmt n (l.drop (sampleBytes fmt))
/-- The samples of a block by tick; ticks already held keep theirs (R238). AM824 quadlets are kept whole for R242. -/
def blockTicks (first : DWord) (ch fmt n : Nat) (words : List Word) (held : List (DWord × List Word)) :
    List (DWord × List Word) :=
  held ++ ((List.range n).map fun i =>
    (first + BitVec.ofNat 64 i, ((words.drop (ch * i)).take ch).map fun w => if fmt = 6 then w else sampleIn fmt w)).filter
      fun e => held.all fun h => h.1 != e.1

/-- A gap in the sequence numbers: 16 bits of RTP, 8 bits of AVTP (R238). -/
def seqGap (aes : Bool) (expect : Option (BitVec 16)) (seq : BitVec 16) : Nat :=
  match expect with
  | none => 0
  | some e =>
    let g := if aes then (seq - e).toNat else (seq - e).toNat % 256
    if g < (if aes then 2 ^ 15 else 2 ^ 7) then g else 0

/-- A block is stored (R238). -/
def storeBlock (p : Port) (k : Nat) (pkt : StreamPacket) (stamp : DWord) (n : Nat) (s : State) : State :=
  let fmt := s.rxFld k 0 1 % 16
  let ch := s.rxFld k 1 1
  let first := stamp + BitVec.ofNat 64 (s.rxFld k 4 2)
  let g := seqGap (s.rxAes k) (s.rx p k).expect pkt.seq
  let words := payloadWords fmt (ch * n) pkt.payload
  let s1 := (s.bumpRx p k 0 1).onRx p k fun r => { r with
    held := blockTicks first ch fmt n words r.held, prev := some (stamp, n), expect := some (pkt.seq + 1) }
  let s2 := if g = 0 then s1 else errEvent p (s1.bumpRx p k 1 g)
  if fmt = 5 ∧ words.any (fun w => (floatIn w).2) then s2.bumpRx p k 9 1 else s2

/-- Codes of IEEE 1722 for a rate and a format, SFC of IEC 61883-6 (PRESUMED, log 13). -/
def aafRate (fs : BitVec 2) : Nat := if fs = 0 then 4 else if fs = 1 then 5 else if fs = 2 then 6 else 7
def aafFormat (fmt : Nat) : Nat × Nat := if fmt = 2 then (4, 16) else if fmt = 3 then (3, 24) else if fmt = 4 then (2, 32) else (1, 32)
/-- A packet is of the form that R230 supports for its format, at the rate Fs. -/
def formOk (s : State) (fmt : Nat) (pkt : StreamPacket) : Bool :=
  if fmt < 2 then pkt.rtpVersion == 2
  else if fmt < 6 then !pkt.sparse && pkt.aafCode.toNat == (aafFormat fmt).1 && pkt.rate.toNat == aafRate s.time.fs
  else pkt.cipFmt == 0x10 && pkt.rate.toNat == s.time.fs.toNat + 1
/-- The whole number of ticks that a payload holds; none: it holds no whole number of them (R238). -/
def payloadTicks (s : State) (k : Nat) (pkt : StreamPacket) : Option Nat :=
  let unit := max 1 (s.rxFld k 1 1 * sampleBytes (s.rxFld k 0 1 % 16))
  if pkt.payload.length % unit = 0 then some (pkt.payload.length / unit) else none

/-- A packet of an enabled stream, judged by the first row of R238 that applies. -/
def judgePacket (p : Port) (k : Nat) (pkt : StreamPacket) (s : State) : State :=
  let n := (payloadTicks s k pkt).getD 0
  match rxStamp s p k pkt with
  | none => s.bumpRx p k 5 1
  | some stamp =>
    if n < 1 ∨ 64 < n ∨ !formOk s (s.rxFld k 0 1 % 16) pkt then s.bumpRx p k 5 1
    else
      let m : Int := (stamp - s.now).toInt + s.rxFld k 4 2 - 2
      let s1 := s.onRx p k (RxRec.noteMargin m)
      let first := stamp + BitVec.ofNat 64 (s.rxFld k 4 2)
      if m < 0 then s1.bumpRx p k 2 1
      else if 8000 < m then s1.bumpRx p k 3 1
      else if (List.range n).all fun i => (s.rx p k).held.any fun e => e.1 == first + BitVec.ofNat 64 i then s1.bumpRx p k 4 1
      else storeBlock p k pkt stamp n s1

/-- With SSM, an AES67 packet is accepted only from SRC_ADDR (the table of R235). -/
def fromTalker (s : State) (k : Nat) (pkt : StreamPacket) : Bool :=
  !s.rxSsm k || pkt.src.toNat == s.rxTalker k

/-- STREAM_PACKET_RECEIVE: a packet to the address of entry k, while the path and STREAM_RX run (R237); with RX_EN 0 the
packet goes uncounted (R243). -/
def execStreamPacketReceive (path : Port) (k : Fin 128) (pkt : StreamPacket) (s : State) : Answer :=
  .next (if !s.running (pathFunc path) || !s.running .streamRx || !s.isFed path || s.rxCount ≤ k.val || !s.rxEn k.val || !fromTalker s k.val pkt then s
    else judgePacket path k.val pkt s)

/-! Transmission (R234, R244-R247). -/

/-- The sink words of a block, tick by tick, channel by channel. -/
def txWords (s : State) (k : Nat) (stamp : DWord) : List Word :=
  (List.range (s.txFld k 4 1)).flatMap fun i =>
    let t := stamp + BitVec.ofNat 64 i
    let snk := ((s.strm.history.find? fun e => e.1 == t).map (·.2)).getD []
    (List.range (s.txFld k 1 1)).map fun c => (Store.get? snk (s.txFld k 2 2 + c)).getD 0

/-- The RTP packet (R234). -/
def rtpPacket (s : State) (k : Nat) (seq : BitVec 16) (stamp : DWord) : List Byte :=
  [0x80, BitVec.ofNat 8 (s.txFld k 20 1)] ++ beBytes 2 seq.toNat
  ++ beBytes 4 (stamp.truncate 32 + BitVec.ofNat 32 (s.txFld k 16 4)).toNat
  ++ (s.txCfg.drop (16 + 64 * k + 24)).take 4 ++ (txWords s k stamp).flatMap (sampleOut (s.txFld k 0 1))
/-- The AAF data unit (R234). -/
def aafPacket (s : State) (k : Nat) (seq : BitVec 16) (stamp : DWord) : List Byte :=
  let fmt := s.txFld k 0 1
  let ch := s.txFld k 1 1
  let body := (txWords s k stamp).flatMap (sampleOut fmt)
  [0x02, BitVec.ofNat 8 (0x81 + 8 * b2n s.strm.mr), BitVec.ofNat 8 seq.toNat, 0]
  ++ (s.txCfg.drop (16 + 64 * k + 24)).take 8 ++ beBytes 4 (s.tickNs (stamp + BitVec.ofNat 64 (s.txFld k 16 4)))
  ++ [BitVec.ofNat 8 (aafFormat fmt).1] ++ beBytes 2 (aafRate s.time.fs * 2 ^ 12 + ch) ++ [BitVec.ofNat 8 (aafFormat fmt).2]
  ++ beBytes 2 body.length ++ [0, 0] ++ body

/-- The frame a stream sends on a port (R244, R245). -/
def txFrame (s : State) (k : Nat) (p : Port) (seq : BitVec 16) (stamp : DWord) : Frame :=
  let aes := decide (s.txFld k 0 1 < 2)
  let v6 := s.txFld k 8 1 % 2 == 1
  let off := 32 + 16 * pathIx p
  let ip : IpInfo := { ipInfo v6 (if v6 then s.ipv6Addr else s.svcParam 0x10) (s.txAddr k off (if v6 then 16 else 4)) 17 with
    udpSrc := BitVec.ofNat 16 (s.txFld k 14 2), udpDst := BitVec.ofNat 16 (s.txFld k 12 2), dscp := BitVec.ofNat 6 (s.txFld k 7 1) }
  let f := if aes then
      ownFrame s (BitVec.ofNat 48 (groupMac ip.dst)) (if v6 then 0x86DD else 0x0800) (if v6 then 48 else 28) (some (udpInfo ip (rtpPacket s k seq stamp)))
        (rtpPacket s k seq stamp)
    else { ownFrame s (BitVec.ofNat 48 (s.txAddr k off 6)) 0x22F0 0 none (aafPacket s k seq stamp) with
      streamId := BitVec.ofNat 64 (s.txAddr k 24 8) }
  if s.txFld k 8 1 / 2 % 2 = 1 then
    { f with len := f.len + 4, vlans := [{ pcp := BitVec.ofNat 3 (s.txFld k 9 1), vid := BitVec.ofNat 12 (s.txFld k 10 2) }] }
  else f

def State.txQueue (s : State) (k : Nat) : Fin 8 :=
  let q := s.txFld k 6 1
  if q = 0 then 6 else Fin.ofNat 8 (q - 8)
/-- The ports an entry names. -/
def State.txPorts (s : State) (k : Nat) : List Port := [Port.a, Port.b].filter fun p => (s.txFld k 5 1).testBit (pathIx p)

/-- A frame fits its queue and the link is up (R155). -/
def State.fits (s : State) (p : Port) (q : Fin 8) (n : Nat) : Bool :=
  let l := (s.port p).queues[q]
  (s.port p).link && decide (l.length < 16 ∧ lenSum l + n ≤ 16384)
/-- Counter i of transmit stream k (R254). -/
def State.bumpTx (k i : Nat) (s : State) : State := s.bump 4 (4 * k + i)

/-- A packet on its ports: too long, not sent, or sent; the two ports of a ring get one tag (R176, R246). -/
def launchOn (k : Nat) (seq : BitVec 16) (stamp : DWord) (s : State) : State :=
  let q := s.txQueue k
  let tag := if s.isRing then 6 else 0
  let long := fun p => decide (s.maxLen p < (txFrame s k p seq stamp).len + tag)
  let ps := s.txPorts k
  let live := ps.all fun p => !long p && s.fits p q (max 64 (txFrame s k p seq stamp).len + tag)
  let count := fun (p : Port) (s1 : State) =>
    if long p then s1.bumpTx k 3
    else if s.fits p q (max 64 (txFrame s k p seq stamp).len + tag) then s1.bumpTx k (pathIx p) else s1.bumpTx k 2
  let s1 := forAll ps count s
  let out := ps.filter fun p => !long p
  let s2 := if s.isRing then sendFrame out q (txFrame s k .a seq stamp) s1
    else forAll out (fun p s1 => sendFrame [p] q (txFrame s k p seq stamp) s1) s1
  s2.onTx k fun x => { x with live }

/-- STREAM_PACKET_LAUNCH: the packet of the block that ends at this boundary; blocks whose launch has passed are not
sent (R246). The first launch of STREAM_TX brings it to RUNNING (R247). -/
def execStreamPacketLaunch (k : Fin 64) (s : State) : Answer :=
  let pt := max 1 (s.txFld k.val 4 1)
  .next (match (s.tx k.val).next with
    | none => s
    | some st =>
      let d := (s.now - st).toNat
      let n := d / pt
      if !(s.life? .streamTx).busy || s.txCount ≤ k.val || 2 ^ 63 ≤ d || n = 0 then s
      else
        let x := s.tx k.val
        let seq := x.seq + BitVec.ofNat 16 (n - 1)
        let s1 := if x.en && d % pt == 0 then launchOn k.val seq (s.now - BitVec.ofNat 64 pt) s
          else s.onTx k.val fun x => { x with live := false }
        let s2 := s1.onTx k.val fun x => { x with
          seq := if x.en then x.seq + BitVec.ofNat 16 n else x.seq, next := some (st + BitVec.ofNat 64 (n * pt)), en := s.txEn k.val }
        if s2.life? .streamTx == .starting then enterRunning .streamTx s2 else s2)

/-! Lovage (R267, R278). -/

/-- CROSSPOINT_RAMP_END: the ramp has reached its target; at 0 the crosspoint is inactive (R261, R267). -/
def execCrosspointRampEnd (src snk : BitVec 11) (s : State) : Answer :=
  let k := xpKey src.toNat snk.toNat
  let done := match (s.xp k).ramp with
    | some r => r.done
    | none => false
  .next (if done then s.onLov fun l => { l with xp := l.xp.put k (s.xp k).endRamp } else s)
/-- GENERATOR_SETTING_APPLY: 64 ticks after the latest write (R278). -/
def execGeneratorSettingApply (g : Fin 16) (s : State) : Answer := .next (if (s.gen g).due then genRise g s else s)

end Sys2Proof.Machine
end

