-- ==== Sys2Proof/Machine/SvcCmds.lean ====
section
/-! DEFINITION. Tarragon: Noard requests and replies, housekeeping protocols, keys, the debug lock (R125-R139, R165). -/

namespace Sys2Proof.Machine

open Sys2Proof

/-! The Noard PDU (R129, R130). -/

def pduSlot (p : List Byte) : Fin 4 := Fin.ofNat 4 (leAt p 2 1)
def pduCount (p : List Byte) : Nat := leAt p 3 1
def pduCounter (p : List Byte) : DWord := BitVec.ofNat 64 (leAt p 8 8)
def pduDataLen (p : List Byte) : Nat := leAt p 18 2
def pduReplyLen (p : List Byte) : Nat := leAt p 20 2
/-- Step 1: version, kind, reserved fields, and lengths that make up the frame; a COUNT or RING outside its range counts
with them (DEDUCED, log 32). -/
def pduForm (p : List Byte) : Bool :=
  leAt p 0 1 == 1 && leAt p 1 1 == 1 && leAt p 2 1 < 4 && leAt p 7 1 < 8 && zeros p 22 10
  && 1 ≤ pduCount p && pduCount p ≤ 16 && 24 ≤ leAt p 6 1 && leAt p 6 1 ≤ 31
  && p.length == 32 + 64 * pduCount p + pduDataLen p + 16
/-- Step 2: an unprovisioned module answers to 0xFFFF alone (R128). -/
def pduNode (s : State) (p : List Byte) : Bool :=
  leAt p 4 2 == 0xFFFF || (s.nodeId != 0 && leAt p 4 2 == s.nodeId.toNat)
/-- The key of a slot, provisioned and not revoked. -/
def State.noardKey (s : State) (k : Fin 4) : Option (List Byte) :=
  if s.svc.noardRevoked.getLsbD k.val then none else s.svc.noardKeys[k]
/-- The tag over everything before it. -/
def noardTag (key p : List Byte) : List Byte := (hmac256 key p).take 16
/-- Steps 3 and 4. -/
def pduTagOk (s : State) (p : List Byte) : Bool :=
  match s.noardKey (pduSlot p) with
  | some key => noardTag key (p.take (p.length - 16)) == p.drop (p.length - 16)
  | none => false

/-- The i-th of SVC_NOARD_OK, _TAGFAIL, _REPLAY, _MALFORMED, _BUSY. -/
def noardCount (i : Fin 5) (s : State) : State := s.onSvc fun v => { v with noardCnt := vmod v.noardCnt i satInc }

/-! Placing (R132). -/

/-- A field replaced. -/
def setFld (d : Desc) (off len v : Nat) : Desc :=
  let m := BitVec.ofNat 512 ((2 ^ (8 * len) - 1) * 2 ^ (8 * off))
  (d &&& ~~~m) ||| BitVec.ofNat 512 (v % 2 ^ (8 * len) * 2 ^ (8 * off))

/-- One range: a module address stays out of the Tarragon area, an offset lies inside its area and becomes the module
address of the copy; none where it does neither (R126, R132). -/
def placeRange (dataAt dataLen replyAt replyLen : Nat) (d : Desc) (r : Nat × Nat × Bool) : Option Desc :=
  let a := fld d r.1 8
  if isModule a then
    (if modAddr a < 0x0180000000 ∧ 0x017F000000 < modAddr a + max 1 r.2.1 then none else some d)
  else
    let area := if r.2.2 then replyLen else dataLen
    if area < a + r.2.1 then none
    else some (setFld d r.1 8 (2 ^ 63 + (if r.2.2 then replyAt else dataAt) + a))
def placeDesc (dataAt dataLen replyAt replyLen : Nat) (d : Desc) : Option Desc :=
  (descRanges d).foldl (fun o r => match o with
    | some e => placeRange dataAt dataLen replyAt replyLen e r
    | none => none) (some d)
/-- The reply data a descriptor writes, a run's progress word included: offsets and lengths. -/
def replyRanges (d : Desc) : List (Nat × Nat) :=
  ((descRanges d).filter fun r => r.2.2 && !isModule (fld d r.1 8)).map fun r => (fld d r.1 8, r.2.1)

/-! Replies (R129, R133). -/

/-- A PDU of the module, tagged under the slot's key, also when the slot has been revoked since the request was accepted
(DEDUCED, log 47). -/
def ownPdu (s : State) (kind : Byte) (k : Fin 4) (ring flags : Nat) (reqId : BitVec 16) (recs : List (List Byte))
    (data : List Byte) : List Byte :=
  let body := [1, kind, BitVec.ofNat 8 k.val, BitVec.ofNat 8 recs.length] ++ leBytes 2 s.nodeId.toNat
    ++ [BitVec.ofNat 8 ring, BitVec.ofNat 8 flags] ++ leBytes 8 s.svc.replyCounter[k].toNat ++ leBytes 2 reqId.toNat
    ++ leBytes 2 data.length ++ leBytes 2 0 ++ leBytes 10 0 ++ recs.flatten ++ data
  body ++ noardTag ((s.svc.noardKeys[k]).getD []) body

/-- A Noard frame to a controller. -/
def sendNoard (p : Port) (dst : BitVec 48) (vlan : Option Vlan) (pdu : List Byte) (s : State) : State :=
  let f := { ownFrame s dst (BitVec.ofNat 16 (s.svcParam 3)) 0 none pdu with vlans := vlan.toList }
  sendService p { f with len := f.len + 4 * f.vlans.length } s

/-- A reply: the slot's reply counter advances, and the reply joins those of the slot's last accepted request (R131). -/
def sendReply (n : NoardReq) (flags : Nat) (recs : List (List Byte)) (data : List Byte) (s : State) : State :=
  let s1 := s.onSvc fun v => { v with replyCounter := vmod v.replyCounter n.slot (· + 1) }
  let pdu := ownPdu s1 2 n.slot n.ring.val flags n.reqId recs data
  let keep := s1.svc.lastCounter[n.slot] == n.counter
  sendNoard n.port n.src n.vlan pdu (if keep then s1.onSvc fun v => { v with stored := vmod v.stored n.slot (· ++ [pdu]) } else s1)

/-- The reply data of the descriptors whose records a reply carries, zero elsewhere (R133). -/
def replyData (s : State) (n : NoardReq) : List Byte :=
  let mine := n.recs.flatMap fun r => (r.1.bind fun i => n.outs[i]?).getD []
  (List.range n.replyLen).map fun i =>
    if mine.any fun o => decide (o.1 ≤ i ∧ i < o.1 + o.2) then s.byteAt (n.replyAt + i) else 0

/-- The records completed so far are sent; FINAL when none is outstanding. -/
def replyNow (n : NoardReq) (s : State) : State :=
  let s1 := sendReply n (b2n (n.left == 0)) (n.recs.map (·.2)) (replyData s n) s
  let sent := fun (m : NoardReq) => if m.slot = n.slot ∧ m.counter = n.counter then { m with recs := [], waited := true } else m
  let others := fun (m : NoardReq) => !(m.slot == n.slot && m.counter == n.counter)
  s1.onSvc fun v => { v with reqs := if n.left = 0 then v.reqs.filter others else v.reqs.map sent }

/-! Requests (R130-R133). -/

/-- A buffer of 4 KiB in the Tarragon area that no request holds: 2 KiB for its data, 2 KiB for its reply (log 16). -/
def State.noardBuffer (s : State) : Nat :=
  let at_ := fun k : Nat => 0x017F100000 + 4096 * k
  at_ (((List.range 3840).find? fun k => s.svc.reqs.all fun n => n.replyAt != at_ k + 2048).getD 0)

/-- The place Tarragon's producer index stands at in its doorbell page (R91, R97). -/
def State.tarrPi (s : State) (q : Fin 32) : Word := BitVec.ofNat 32 (ofLe (s.read (tarrDoorbell + 8 * q.val) 4))

/-- Descriptors written in PDU order, the producer index advanced once. -/
def placeAll (q : Fin 32) (l : List Desc) (s : State) : State :=
  let pi_ := s.tarrPi q
  let base := (s.ring q).sqBase.toNat % 2 ^ 40
  let one := fun (e : Desc × Nat) (s : State) =>
    s.write (base + 64 * ((pi_.toNat + e.2) % 256)) (leBytes 64 e.1.toNat)
  (forAll l.zipIdx one s).write (tarrDoorbell + 8 * q.val) (leBytes 4 (pi_ + BitVec.ofNat 32 l.length).toNat)

/-- The record of a descriptor that is not placed (R126, R132). -/
def refusedRec (s : State) (d : Desc) : Option Nat × List Byte :=
  (none, (mkRec (tagOf d) false 0 stBadDesc 0 false s.now).bytes false)

/-- The descriptors of a PDU. -/
def pduDescs (p : List Byte) : List Desc :=
  (List.range (pduCount p)).map fun i => BitVec.ofNat 512 (leAt p (32 + 64 * i) 64)

/-- An accepted request that a reply can carry: its data is copied and its descriptors placed, or BUSY (R132, R133). -/
def placeRequest (n : NoardReq) (p : List Byte) (s : State) : State :=
  let at_ := s.noardBuffer
  let u := 64 * pduCount p
  let ds := (pduDescs p).map fun d => (d, placeDesc at_ (pduDataLen p) (at_ + 2048) n.replyLen d)
  let good := ds.filterMap fun e => e.2.map fun r => (e.1, r)
  let used := (s.tarrPi n.ring - (s.ring n.ring).sqCi).toNat
  if 256 < used + good.length then
    noardCount 4 (sendReply n 3 [] (List.replicate n.replyLen 0) s)
  else
    let s1 := s.write at_ ((p.drop (32 + u)).take (pduDataLen p) ++ List.replicate (2048 - pduDataLen p) 0
      ++ List.replicate 2048 0)
    let m := { n with
      replyAt := at_ + 2048, first := s.tarrPi n.ring, count := good.length, left := good.length
      outs := good.map fun e => replyRanges e.1
      recs := (ds.filter fun e => e.2.isNone).map fun e => refusedRec s e.1 }
    (placeAll n.ring (good.map (·.2)) s1).onSvc fun v => { v with reqs := v.reqs ++ [m] }

/-- A request that has passed every check (R130, R133). A TOOBIG reply has an empty data area, since REPLY_LEN octets are what
does not fit (DEDUCED, log 47). -/
def acceptRequest (port : Port) (src : BitVec 48) (vlan : Option Vlan) (p : List Byte) (s : State) : State :=
  let k := pduSlot p
  let s1 := noardCount 0 (s.onSvc fun v => { v with
    lastCounter := vmod v.lastCounter k fun _ => pduCounter p, lastPdu := vmod v.lastPdu k fun _ => p
    stored := vmod v.stored k fun _ => [], lastCtl := some (src, port, k, vlan) })
  let n : NoardReq := {
    slot := k, counter := pduCounter p, reqId := BitVec.ofNat 16 (leAt p 16 2), ring := Fin.ofNat 32 (leAt p 6 1)
    port, src, vlan, replyLen := pduReplyLen p, first := 0, count := 0, left := 0 }
  let extra := 18 + (if vlan.isSome then 4 else 0) + (if s.isRing then 6 else 0)
  if s.maxLen port < 32 + 16 * pduCount p + pduReplyLen p + 16 + extra then
    noardCount 3 (sendReply n 5 [] [] s1)
  else placeRequest n p s1

/-- NOARD_REQUEST (R130, R131). Without hostless control Tarragon owns no ring and takes no request (DEDUCED, log 32). -/
def execNoardRequest (port : Port) (src : BitVec 48) (vlan : Option Vlan) (pdu : List Byte) (s : State) : Answer :=
  let k := pduSlot pdu
  let last := s.svc.lastCounter[k]
  .next (if !s.svcAlive || !s.svc.hostless then s
    else if !pduForm pdu then noardCount 3 s
    else if !pduNode s pdu then s
    else if !pduTagOk s pdu then noardCount 1 s
    else if last.toNat < (pduCounter pdu).toNat then acceptRequest port src vlan pdu s
    else if pduCounter pdu = last ∧ s.svc.lastPdu[k] = pdu then
      forAll s.svc.stored[k] (fun r s => sendNoard port src vlan r s) s
    else noardCount 2 s)

def State.noardReq (s : State) (slot : Fin 4) (counter : DWord) : Option NoardReq :=
  s.svc.reqs.find? fun n => n.slot == slot && n.counter == counter

/-- NOARD_REPLY: every descriptor has completed; or, after REPLY_WAIT, further ones have (R133). -/
def execNoardReply (slot : Fin 4) (counter : DWord) (s : State) : Answer :=
  .next (match s.noardReq slot counter with
    | some n => if s.svcAlive && (n.left == 0 || (n.waited && !n.recs.isEmpty)) then replyNow n s else s
    | none => s)
/-- REPLY_WAIT_EXPIRY: the records completed so far (R133). -/
def execReplyWaitExpiry (slot : Fin 4) (counter : DWord) (s : State) : Answer :=
  .next (match s.noardReq slot counter with
    | some n => if s.svcAlive && n.left != 0 && !n.waited then replyNow n s else s
    | none => s)

/-- NOARD_EVENT_NOTICE: the EVENT word to the last controller, at most once per 10 ms; Tarragon then acknowledges the
bits in its doorbell page (R120, R135). RING and REQ_ID are 0, the slot is the last request's, and a rise before the first
accepted request stays pending until there is one (DESIGN CHOICE, log 47). -/
def execNoardEventNotice (s : State) : Answer :=
  let early := match s.svc.noticeAt with
    | some t => decide ((s.now - t).toNat < s.msTicks 10)
    | none => false
  .next (match s.svc.lastCtl with
    | none => s
    | some (src, port, k, vlan) =>
      if !s.svcAlive || !s.host.tarrPage.rose || early then s
      else
        let ev := s.host.tarrPage.event
        let s1 := s.onSvc fun v => { v with replyCounter := vmod v.replyCounter k (· + 1), noticeAt := some s.now }
        let s2 := sendNoard port src vlan (ownPdu s1 3 k 0 0 0 [] (leBytes 8 ev.toNat)) s1
        let seq := ofLe (s.read (tarrDoorbell + 0x100) 4)
        ((s2.write (tarrDoorbell + 0x100) (leBytes 4 (seq + 1))).write (tarrDoorbell + 0x108) (leBytes 8 ev.toNat)).onPage
          .tarragon fun g => { g with rose := false })

/-! Housekeeping protocols (R127). -/

/-- An address learnt: at most 64 entries, the oldest replaced. -/
def learnArp (ip : Word) (mac : BitVec 48) (s : State) : State :=
  s.onSvc fun v => { v with arp := ((ip, mac) :: v.arp.filter fun e => e.1 != ip).take 64 }

/-- ARP_REQUEST for IPV4_ADDR. -/
def execArpRequest (port : Port) (target asker : Word) (mac : BitVec 48) (s : State) : Answer :=
  let a := s.svcParam 0x10
  .next (if !s.svcAlive || a = 0 || target.toNat ≠ a then s
    else sendService port (arpFrame s mac 2 a mac.toNat asker.toNat) (learnArp asker mac s))

/-- Echo replies of a port in this second. -/
def State.echoes (s : State) (p : Port) (v6 : Bool) : Nat :=
  match p, v6 with
  | .a, false => s.svc.echoA
  | .b, false => s.svc.echoB
  | .a, true => s.svc.echo6A
  | .b, true => s.svc.echo6B
def countEcho (p : Port) (v6 : Bool) (s : State) : State :=
  s.onSvc fun v => match p, v6 with
    | .a, false => { v with echoA := v.echoA + 1 }
    | .b, false => { v with echoB := v.echoB + 1 }
    | .a, true => { v with echo6A := v.echo6A + 1 }
    | .b, true => { v with echo6B := v.echo6B + 1 }
/-- An echo reply is due: payload and rate within the limits. -/
def State.mayEcho (s : State) (p : Port) (v6 : Bool) (payload : List Byte) : Bool :=
  s.svcAlive && payload.length ≤ 1472 && s.echoes p v6 < 100

/-- The address a reply goes to: as the ARP cache has it, else as the request came (log 13). -/
def State.macOf (s : State) (ip : Word) (mac : BitVec 48) : BitVec 48 :=
  match s.svc.arp.find? fun e => e.1 == ip with
  | some e => e.2
  | none => mac

/-- ICMP_ECHO. -/
def execIcmpEcho (port : Port) (dst asker : Word) (mac : BitVec 48) (ident : Word) (payload : List Byte) (s : State) : Answer :=
  let a := s.svcParam 0x10
  .next (if a = 0 || dst.toNat ≠ a || !s.mayEcho port false payload then s
    else sendService port (icmpFrame s (s.macOf asker mac) asker.toNat
      (withSum [] [0, 0] (beBytes 4 ident.toNat ++ payload))) (countEcho port false s))

/-- ICMPV6_ECHO. -/
def execIcmpv6Echo (port : Port) (dst asker : BitVec 128) (mac : BitVec 48) (ident : Word) (payload : List Byte) (s : State) :
    Answer :=
  .next (if !s.ownV6 dst.toNat || !s.mayEcho port true payload then s
    else sendService port (icmp6Frame s mac dst.toNat asker.toNat 0 [0x81, 0] (beBytes 4 ident.toNat ++ payload))
      (countEcho port true s))

/-- NEIGHBOUR_SOLICITATION: the advertisement; an asker without an address is answered to all nodes (PRESUMED, log 13:
RFC 4861). -/
def execNeighbourSolicitation (port : Port) (target asker : BitVec 128) (mac : BitVec 48) (s : State) : Answer :=
  let all := asker = 0
  let to_ := if all then 0xFF02 * 2 ^ 112 + 1 else asker.toNat
  .next (if !s.svcAlive || !s.ownV6 target.toNat then s
    else sendService port (icmp6Frame s (if all then 0x333300000001 else mac) target.toNat to_ 0 [0x88, 0]
      (beBytes 4 (if all then 0x20000000 else 0x60000000) ++ beBytes 16 target.toNat ++ [2, 1] ++ beBytes 6 s.svc.mac.toNat)) s)

/-- The groups a query asks for: 0 asks for all. -/
def asked (all : Bool) (g : BitVec 128) (gs : List (BitVec 128)) : List (BitVec 128) := if all then gs else gs.filter (· == g)
/-- IGMP_QUERY. -/
def execIgmpQuery (port : Port) (group : Word) (s : State) : Answer :=
  .next (if !s.svcAlive then s
    else igmpReport 2 (asked (group == 0) (group.zeroExtend 128) ((s.port port).groups.filter isV4)) port s)
/-- MLD_QUERY. -/
def execMldQuery (port : Port) (group : BitVec 128) (s : State) : Answer :=
  .next (if !s.svcAlive then s else mldReport 2 (asked (group == 0) group ((s.port port).groups.filter isV6)) port s)

/-- IDENTIFY_EXPIRY: the LEDs follow NETx_LED again (R165). -/
def execIdentifyExpiry (s : State) : Answer :=
  .next (if s.svc.identify ≤ s.tickUnits then s.onSvc fun v => { v with identify := 0 } else s)

/-! Keys and locks (R137, R138). -/

/-- The first words of SVC_KEY_DATA: the octets in order, each word most significant first (DEDUCED, log 12). -/
def keyBytes (s : State) (n : Nat) : List Byte := (s.svc.keyData.toList.take n).flatMap fun w => beBytes 4 w.toNat
def State.keySlot (s : State) : Fin 4 := Fin.ofNat 4 (bits s.svc.keySel 1 0)
/-- SVC_KEY_CMD with its KEY and an OP. -/
def keyCmd (v : Word) (op : Nat) : Bool := bits v 31 16 == 0xD041 && bits v 3 0 == op

/-- SVC_KEY_WRITE: only while PROVISIONED is 0 (R137). -/
def execSvcKeyWrite (v : Word) (s : State) : Answer :=
  .next (writeIn 15 (fun s =>
    if !keyCmd v 1 || s.svc.provisioned then s
    else s.onSvc fun x =>
      if bits x.keySel 5 4 = 0 then { x with noardKeys := vmod x.noardKeys s.keySlot fun _ => some (keyBytes s 8) }
      else if bits x.keySel 5 4 = 1 then { x with imageKeys := vmod x.imageKeys s.keySlot fun _ => some (keyBytes s 16) }
      else if bits x.keySel 5 4 = 2 then { x with debugKey := some (keyBytes s 8) }
      else x) s)
/-- SVC_KEY_REVOKE: permanent (R137). The debug key has no revoked state (R139). -/
def execSvcKeyRevoke (v : Word) (s : State) : Answer :=
  .next (writeIn 15 (fun s =>
    let b := BitVec.ofNat 4 (2 ^ s.keySlot.val)
    if !keyCmd v 2 then s
    else s.onSvc fun x =>
      if bits x.keySel 5 4 = 0 then { x with noardRevoked := x.noardRevoked ||| b }
      else if bits x.keySel 5 4 = 1 then { x with imageRevoked := x.imageRevoked ||| b }
      else x) s)
/-- SVC_LOCK: 0xD041_0001 sets PROVISIONED, which never clears (R137). -/
def execSvcLock (v : Word) (s : State) : Answer :=
  .next (writeIn 15 (fun s => if v = 0xD0410001 then s.onSvc fun x => { x with provisioned := true } else s) s)

/-- JTAG_NONCE_READ: a fresh nonce (R138). -/
def execJtagNonceRead (s : State) : Answer :=
  .next (if s.chip.supply = .off then s else s.freshen.onSvc fun x => { x with nonce := some (s.freeVal 128) })

/-- The answer R138 asks for: the nonce's 16 bytes, most significant first, then the serial number as its PCIe capability
holds it, least significant first (DEDUCED, log 12). -/
def jtagExpect (key : List Byte) (nonce : BitVec 128) (serial : DWord) : List Byte :=
  (hmac256 key (beBytes 16 nonce.toNat ++ leBytes 8 serial.toNat)).take 16

/-- JTAG_CHALLENGE_ANSWER: a correct answer opens the lock; the third wrong one in a row shuts it for 10 s. Any answer spends
the nonce, one without a nonce or without a debug key is wrong, and a correct one starts the count again: none of it is
stated (DESIGN CHOICE, log 55). -/
def execJtagChallengeAnswer (ans : BitVec 128) (s : State) : Answer :=
  let right := match s.svc.debugKey, s.svc.nonce with
    | some k, some n => jtagExpect k n s.svc.serial == beBytes 16 ans.toNat
    | _, _ => false
  .next (if s.chip.supply = .off || s.svc.jtagLocked then s
    else s.onSvc fun x =>
      if right then { x with jtagOpen := true, wrong := 0, nonce := none }
      else { x with wrong := if x.wrong < 2 then x.wrong + 1 else 0, jtagLocked := 2 ≤ x.wrong, nonce := none })
/-- JTAG_LOCKOUT_END. -/
def execJtagLockoutEnd (s : State) : Answer := .next (s.onSvc fun x => { x with jtagLocked := false })

end Sys2Proof.Machine
end

