-- ==== Sys2Proof/Machine/Boundary.lean ====
section
/-! DEFINITION. What an island does with a tick token: the boundary begins on the island, what is due takes effect, and
only then come the vectors (R11, R12, R14, R76, R100, R249-R251). An island works on the tick that its own copy of the
counter names, whenever its token comes.

A boundary's effects are also rows of the table (PARAM_WRITE_EFFECT, START_EFFECT and others). Such a command is the first
part of the receipt of the token that is on its way; what no command has carried out TICK_TOKEN carries out itself, so that
each effect comes at exactly its boundary (DESIGN CHOICE, log 52). -/

namespace Sys2Proof.Machine

open Sys2Proof

/-! Tokens on their way. -/

def consIsland : Consumer → Island
  | .lovage => .lovage | .sc n => .sc n | .pch _ => .isolink | .tdm _ => .decim | .capture => .xbar | .streamTx => .xbar

/-- A producer's vector waits behind a full FIFO whose consumer goes on (R15). -/
def State.waitsFor (s : State) (p : Producer) (k : Consumer) : Bool :=
  (s.edge p k).paused.isSome && (s.life? (consFunc k)).busy && islandRuns (consIsland k) s && !s.halted (consIsland k)

def lovConsumers : List Consumer :=
  allSc.map .sc ++ allPch.map .pch ++ [.tdm 0, .tdm 1, .capture, .streamTx]

/-- An island that pauses because a vector of its producer waits (R15); its token waits with it. The bit clocks of the
decimator island do not pause: there a waiting vector's successors are not formed. -/
def State.pausedIsland (s : State) : Island → Bool
  | .lovage => lovConsumers.any (s.waitsFor .lovage ·)
  | .path p => s.path.active == p && (s.life? (pathFunc p)).busy && s.waitsFor .path .lovage
  | _ => false

/-- The tick whose token an island takes next: one whose boundary the timing island has begun, at an island whose clock
runs, which no mismatch has stopped (R12) and which does not pause. -/
def State.tokenTick (s : State) (i : Island) : Option DWord :=
  let n := s.copy i + 1
  if islandRuns i s && !s.halted i && !s.pausedIsland i && decide ((s.now - n).toNat < 2 ^ 63) then some n else none

/-! The boundary begins on an island: fades, ramps and the life cycle go on by one tick. -/

def funcsOn (i : Island) : List Func := allFuncs.filter fun f => decide (islandOf f = i)

/-- Fades and ramps of the functions on an island go on by one tick (R18, R76, R189, R267, R371, R377, R384). -/
def fadeTick (i : Island) (s : State) : State :=
  let s1 := forAll (funcsOn i) (fun f s => s.onFunc f fun r => { r with fade := r.fade.tick }) s
  match i with
  | .lovage => (endDue s1).onLov fun l => { l with netFade := l.netFade.tick }
  | .isolink => forAll allPch pchAdvance s1
  | _ => s1

/-- What the functions of an island do at a boundary without a command (R75-R77, R305, R306, R344, R393). -/
def lifeWork (i : Island) (s : State) : State :=
  let s1 := match i with
    | .isolink => saveDue (forAll allPch pchBoundary s)
    | .decim => dsyncDue s
    | .sc n => taskTimeout n (taskDeadline n s)
    | _ => s
  forAll (funcsOn i) (fun f s => startExpire f (lifeTick f s)) s1

/-- The island begins to take the token of tick `n`. -/
def openBoundary (i : Island) (n : DWord) (s : State) : State :=
  if s.begun i then s else atTick n (fun s => lifeWork i (fadeTick i s)) (setBegun i true s)

/-- `g` at the boundary whose token the island takes next; without one the state is unchanged. -/
def boundaryDo (i : Island) (g : State → State) (s : State) : State :=
  match s.tokenTick i with
  | none => s
  | some n => atTick n g (openBoundary i n s)

/-! What is due (R14, R76, R100, R249-R251). -/

/-- An action that is due: at its tick, or, where its island stood still in it, at the first boundary after it. -/
def Action.due (s : State) (a : Action) : Bool := !a.applied && decide (a.nT.toNat ≤ s.now.toNat)

/-- The actions due on an island, in the order of their acceptance (R251). -/
def actsDue (i : Island) (s : State) : State :=
  forAll (s.life.acts.filter fun a => a.due s && decide (islandOf a.func = i)) applyAction s

/-- A waiting write that is due: the island had an earlier token when it came (R14). -/
def PWrite.due (s : State) (f : Func) (w : PWrite) : Bool :=
  decide (pidFunc w.pid.toNat = f) && w.after != s.now && decide ((s.now - w.after).toNat < 2 ^ 63)

/-- The writes due of one function, in the order in which they were taken (R14, R100). -/
def writesDue (f : Func) (s : State) : State :=
  let mine := s.life.writes.filter (·.due s f)
  if mine.isEmpty then s
  else finishWrites (forAll mine (fun w s =>
      if s.life? f == .off then s else applyParam w.pid.toNat w.value (s.jobPlace w.job) s)
    (s.onLife fun l => { l with writes := l.writes.filter fun w => !w.due s f }))

/-- A FUNC_START and a FUNC_STOP that are due (R76). -/
def startDue (f : Func) (s : State) : State :=
  let r := s.func f
  if r.startReq && r.startAfter != s.now && decide ((s.now - r.startAfter).toNat < 2 ^ 63) then startEffect f s else s
def stopDue (f : Func) (s : State) : State :=
  let r := s.func f
  if r.stopReq && r.stopAfter != s.now && decide ((s.now - r.stopAfter).toNat < 2 ^ 63) then stopEffect f s else s
/-- Both, in the order of their acceptance. -/
def reqsDue (f : Func) (s : State) : State :=
  if stopFirst f s then startDue f (stopDue f s) else stopDue f (startDue f s)

/-- All that is due on an island: scheduled actions before immediate writes (R100, R251), then starts and stops. -/
def effectsDue (i : Island) (s : State) : State :=
  forAll (funcsOn i) reqsDue (forAll (funcsOn i) writesDue (actsDue i s))

/-! The commands. -/

/-- PARAM_WRITE_EFFECT: the writes that wait for this function take effect at this boundary, in order (R14), behind the
actions that are due (R100). -/
def execParamWriteEffect (f : Func) (s : State) : Answer :=
  .next (boundaryDo (islandOf f) (fun s => writesDue f (actsDue (islandOf f) s)) s)

/-- The first action due of a name that answers `p`. -/
def State.dueAct (s : State) (f : Func) (id : Word) (p : Action → Bool) : Option Action :=
  (s.pendingActs f).find? fun a => a.id == id && a.due s && p a
/-- One action due is applied. -/
def applyDue (f : Func) (id : Word) (p : Action → Bool) (s : State) : State :=
  match s.dueAct f id p with
  | some a => applyAction a s
  | none => s

/-- SCHED_ACTION_APPLY: a waiting action at its boundary (R248, R251). -/
def execSchedActionApply (f : Func) (id : Word) (s : State) : Answer :=
  .next (boundaryDo (islandOf f) (applyDue f id fun _ => true) s)
/-- LATE_ACTION_APPLY: a late action with APPLY_LATE, as an immediate write (R249). -/
def execLateActionApply (f : Func) (id : Word) (s : State) : Answer :=
  .next (boundaryDo (islandOf f) (applyDue f id (·.late)) s)

/-- START_EFFECT: FUNC_START takes effect at this boundary (R76). An island that a token mismatch has stopped takes no
token and resumes with it (R12). -/
def execStartEffect (f : Func) (s : State) : Answer :=
  .next (if s.halted (islandOf f) then startEffect f s
    else boundaryDo (islandOf f) (fun s => startDue f (actsDue (islandOf f) s)) s)
/-- STOP_EFFECT: FUNC_STOP takes effect at this boundary (R76). -/
def execStopEffect (f : Func) (s : State) : Answer :=
  .next (if s.halted (islandOf f) then stopEffect f s
    else boundaryDo (islandOf f) (fun s => stopDue f (actsDue (islandOf f) s)) s)
/-- START_SEQUENCE_COMPLETE: RUNNING at this boundary, where the function's start sequence is done (R77, R456). -/
def execStartSequenceComplete (f : Func) (s : State) : Answer :=
  .next (boundaryDo (islandOf f) (fun s => if startDone f s then enterRunning f s else s) s)
/-- STOP_FADE_COMPLETE: STOPPED or OFF at this boundary, where the outputs are silent (R75). -/
def execStopFadeComplete (f : Func) (s : State) : Answer :=
  .next (boundaryDo (islandOf f) (fun s => if stopDone f s then enterStopped f s else s) s)
/-- START_TIMEOUT: FAULTED with cause 0x08 (R77). -/
def execStartTimeout (f : Func) (s : State) : Answer := .next (boundaryDo (islandOf f) (startExpire f) s)

/-- PDM_WARMUP_END: at the first boundary at or after the start plus WARMUP, PDM enters RUNNING, and the channels of
enabled clocks are reset (R342). -/
def execPdmWarmupEnd (s : State) : Answer :=
  .next (boundaryDo .decim (fun s => if startDone .pdm s then enterRunning .pdm s else s) s)
/-- PDM_CLOCK_STOP: the stop fade has ended; the clocks stop low and PDM enters STOPPED (R343). -/
def execPdmClockStop (s : State) : Answer :=
  .next (boundaryDo .decim (fun s => if stopDone .pdm s then enterStopped .pdm s else s) s)

/-- DEC_STUCK_RECOVER: a bit of the other level; at this boundary the channel alone is reset (R344). -/
def execDecStuckRecover (c : Fin 40) (s : State) : Answer := .next (boundaryDo .decim (unstick c) s)
/-- DSYNC_RESET: the first boundary at least 2 us after an accepted edge (R351). -/
def execDsyncReset (s : State) : Answer := .next (boundaryDo .decim dsyncReset s)

/-- PCH_ENTER_RUNNING: the first boundary at or after e + 1 ms + C (R377, R393). -/
def execPchEnterRunning (c : Fin 4) (s : State) : Answer := .next (boundaryDo .isolink (pchEnterRunning c) s)
/-- PCH_CM_RAMP_DOWN: the output is silent; both duties fall (R378). -/
def execPchCmRampDown (c : Fin 4) (s : State) : Answer := .next (boundaryDo .isolink (rampDown c) s)
/-- PCH_SWITCHES_OPEN: the first boundary at least 100 us after the duties are at 0 (R378). -/
def execPchSwitchesOpen (c : Fin 4) (s : State) : Answer := .next (boundaryDo .isolink (pchSwitchesOpen c) s)
/-- CHIVE_SETTING_APPLY: 64 ticks after the write the setting takes effect and r rises (R384). -/
def execChiveSettingApply (c : Fin 4) (s : State) : Answer := .next (boundaryDo .isolink (chiveSettle c) s)
/-- CHIVE_RESTORE: the first boundary after a bit of the other level on a running clock (R384). -/
def execChiveRestore (c : Fin 4) (s : State) : Answer := .next (boundaryDo .isolink (chiveRestore c) s)
/-- RETRY_CLEAR: a clean run in PHASE 0x3 (R394). -/
def execRetryClear (c : Fin 4) (s : State) : Answer := .next (boundaryDo .isolink (retryClear c) s)
/-- SAGE_STATE_SAVE: every 10 s while RUNNING (R407). -/
def execSageStateSave (s : State) : Answer := .next (boundaryDo .isolink saveDue s)

/-- TASK_RELEASE (R302, R306): at the end of a block, with the writes that are due there in force (R303); in between, as soon
as what held the release back is gone. -/
def execTaskRelease (n : Fin 16) (s : State) : Answer :=
  .next (match s.tokenTick (.sc n) with
    | some _ => boundaryDo (.sc n) (fun s => releaseNext n (writesDue (.sc n) (actsDue (.sc n) s))) s
    | none => atTick (s.copy (.sc n)) (releaseNext n) s)
/-- TASK_DEADLINE_MISS (R306). -/
def execTaskDeadlineMiss (n : Fin 16) (s : State) : Answer := .next (boundaryDo (.sc n) (taskDeadline n) s)
/-- TASK_TIMEOUT (R306). -/
def execTaskTimeout (n : Fin 16) (s : State) : Answer := .next (boundaryDo (.sc n) (taskTimeout n) s)

end Sys2Proof.Machine
end

