-- ==== Sys2Proof/Machine/TickCmds.lean ====
section
/-! DEFINITION. The tick: boundaries, tokens, hand-offs, misses and the ends of fades (R11-R22). -/

namespace Sys2Proof.Machine

open Sys2Proof

/-! Vectors (R15-R17). -/

/-- `n` entries of sparse data from index `i` up, every absent one 0. -/
def dense (i : Nat) : Nat → Store Word → List Word
  | 0, _ => []
  | n + 1, [] => 0 :: dense (i + 1) n []
  | n + 1, (k, w) :: r => if k = i then w :: dense (i + 1) n r else 0 :: dense (i + 1) n ((k, w) :: r)
def slice (i n : Nat) (m : Store Word) : List Word := dense i n (m.dropWhile fun e => decide (e.1 < i))

/-- The sinks of a consumer: the first and how many (R257). -/
def sinksOf (s : State) : Consumer → Nat × Nat
  | .sc n => (1024 + 32 * n.val, 32)
  | .pch c => (1536 + c.val, 1)
  | .tdm x => (1540 + 32 * x.val, 32)
  | .capture => (1604, 64)
  | .streamTx => (0, s.netN)
  | .lovage => (0, 0)

/-- The vector a producer has formed and its consumer has not, named by its tick (R15-R17): a path's once the arbiter has
dealt with its tick (R188); a decimator's and a TDM port's, formed behind their island's token, for the next tick; Lovage's
as last formed. A core's block is handed over by its END. -/
def vectorOf (s : State) (p : Producer) (k : Consumer) : Option Vec :=
  match p with
  | .path =>
    let v := s.pathVec s.path.active
    if v.present && (s.path.arb || v.tick != s.now) then some { tick := v.tick, data := slice 0 s.netN v.data } else none
  | .sc n => (s.core n).outBlock.map fun b =>
      { tick := BitVec.ofNat 64 ((b.toNat + 2) * s.scBlock n), data := s.outWords n b.toNat }
  | .dec c => if s.decOn c then some { tick := s.copy .decim + 1, data := [(s.dec c).out] } else none
  | .tdm x => if (s.life? (tdmFunc x)).busy then some { tick := s.copy .decim + 1, data := s.tdmInput x } else none
  | .lovage => s.lov.snkTick.map fun t =>
      { tick := t, data := slice (sinksOf s k).1 (sinksOf s k).2 s.lov.snk }

/-- A producer hands its vector over, each vector once, to a consumer that is at work; behind a vector that waits nothing is
formed (R15). -/
def handOver (p : Producer) (k : Consumer) (s : State) : State :=
  match vectorOf s p k with
  | none => s
  | some v =>
    let e := s.edge p k
    if e.sent = some v.tick || e.paused.isSome || !(s.life? (consFunc k)).busy then s else s.onEdge p k (Edge.place v)

/-- VECTOR_HANDOFF: the producer places its vector; with the FIFO full it pauses with it (R15). -/
def execVectorHandoff (p : Producer) (k : Consumer) (s : State) : Answer :=
  .next (if edgeExists p k then handOver p k s else s)

/-- The consumer uses vectors: at work and past its start. -/
def State.consumes (s : State) (k : Consumer) : Bool :=
  let st := s.life? (consFunc k)
  match k with
  | .pch c => (st == .running || st == .stopping) && !(s.pch c).retrying
  | .lovage => st.busy
  | .sc _ => st.busy
  | _ => st == .running || st == .stopping

/-- The producer owes a vector at this boundary: a core one per block (R17). -/
def owes (s : State) : Producer → Bool
  | .sc n => s.now.toNat % s.scBlock n == 0
  | .dec c => s.decOn c
  | _ => true

/-- The vector of this tick is not in the consumer's FIFO (R17). A producer that is not running misses nothing (R74). -/
def missedHere (p : Producer) (k : Consumer) (s : State) : State :=
  let here := match (s.edge p k).fifo with
    | some v => v.tick == s.now
    | none => false
  let st := s.life? (prodFunc s p)
  if s.consumes k && owes s p && !here && !(st == .off || st == .stopped || st == .starting) then missAt p k s else s

/-- VECTOR_MISSED: as a boundary's token reaches the consumer, the vector it needs is not there (R17). -/
def execVectorMissed (p : Producer) (k : Consumer) (s : State) : Answer :=
  .next (if edgeExists p k then boundaryDo (consIsland k) (missedHere p k) s else s)

/-- The fade stands at the end its next tick reaches (R18, R19). -/
def Fade.finish (f : Fade) : Fade :=
  if f.up then (if f.full ≤ f.pos + f.step then Fade.one else f)
  else if f.pos ≤ f.step then Fade.zero else f

/-- FADE_COMPLETE: a fall has reached silence, a ramp the full gain (R18, R19). -/
def execFadeComplete (p : Producer) (k : Consumer) (s : State) : Answer :=
  .next (if edgeExists p k then s.onEdge p k fun e => { e with fade := e.fade.finish } else s)

/-- An edge whose consumer takes nothing: what arrived is let go, nothing is missed (R74, R395). -/
def idleEdge (p : Producer) (k : Consumer) (s : State) : State :=
  s.onEdges fun m => (m.del (edgeKey p k)).put (edgeKey p k) { seen := some s.now }

/-- What a consumer takes from Lovage in this tick. -/
def takeSinks (k : Consumer) (s : State) : State × List Word :=
  if s.consumes k then
    (let s1 := edgeTick .lovage k true (·.data) s
     (s1, (s1.edge .lovage k).out))
  else (idleEdge .lovage k s, [])

/-! Lovage's token (R256, R272). -/

/-- The 32 words of a core's block that belong to this tick, under the core's own fade (R302, R305). -/
def coreWords (n : Fin 16) (s : State) (v : Vec) : List Word :=
  let k := s.now.toNat % s.scBlock n
  ((v.data.drop (32 * k)).take 32).map (gainWord (s.funcGain (.sc n)))

/-- A decimator channel that gave samples until a fault of DECIM: its source fades (R18, R74, R80). -/
def State.decFaulted (s : State) (c : Fin 40) : Bool := (s.chain c.val).isSome && s.life? .decim == .faulted

/-- An edge whose producer has faulted away: the held samples fade, and nothing is counted (R18, R74). -/
def missAtFault (p : Producer) (s : State) : State :=
  (s.onEdge p .lovage (Edge.miss s.now (s.fadeTime .lovage) false)).onEdge p .lovage (Edge.deliver [])

/-- One producer's edge into Lovage, and its sources. -/
def takeSource (p : Producer) (s : State) : State :=
  match p with
  | .sc n =>
    -- A core whose first output block is there enters RUNNING at this boundary (R305), whichever token comes first.
    let s1 := if startDone (.sc n) s && s.tokenTick (.sc n) = some s.now then openBoundary (.sc n) s.now s else s
    edgeTick p .lovage (owes s1 p) (coreWords n s1) s1
  | .dec c => if s.decOn c then edgeTick p .lovage true (·.data) s
    else if s.decFaulted c then missAtFault p s else idleEdge p .lovage s
  | _ => edgeTick p .lovage true (·.data) s

def producers : List Producer :=
  [.path] ++ allSc.map .sc ++ allDec.map .dec ++ [.tdm 0, .tdm 1]

/-- First source of a producer (R256). -/
def sourceBase : Producer → Nat
  | .path => 0 | .sc n => 1024 + 32 * n.val | .dec c => 1536 + c.val | .tdm x => 1576 + 32 * x.val | .lovage => 2048

/-- Every source of this tick: network sources under the gain of an unsynchronised switch (R189). -/
def gatherSources (s : State) : Store Word :=
  let net := fun (w : Word) => gainWord s.lov.netFade.gain w
  let words := fun (p : Producer) =>
    let out := (s.edge p .lovage).out
    match p with
    | .path => out.map net
    | _ => out
  let m := producers.foldl (fun m p => putWords (sourceBase p) (words p) m) []
  (List.finRange 16).foldl (fun m g => m.put (1640 + g.val) (s.genOut g (s.playFor g))) m

/-- The tick at Lovage: sources taken or substituted, the sinks of the next tick formed (R15-R22, R267, R272-R278). -/
def lovTick (s : State) : State :=
  if !(s.life? .lovage).busy then
    markActive ((s.onEdges fun m => m.filter fun e => e.1 % 32 != 0).onLov fun l =>
      { l with snk := [], snkTick := none, src := [], gens := l.gens.map Gen.advance })
  else
    let s1 := forAll ((List.finRange 16).filter fun g => (s.gen g).due) genRise s
    let s2 := forAll producers takeSource s1
    let s3 := if producers.any fun p => (s2.edge p .lovage).inMiss then s2.bump 6 3 else s2
    let s4 := s3.freshen.onLov fun l => { l with src := gatherSources s3 }
    markActive (lovAdvance (lovSum s4))

/-! The other islands' tokens. -/

/-- The boundary of a path: its vector, and with both vectors formed the arbiter's decision (R180-R191, R239). -/
def pathTick (p : Port) (s : State) : State :=
  let s1 := assemble p s.now s
  let o := otherPort p
  if s1.path.arb || ((s1.life? (pathFunc o)).busy && (s1.pathVec o).tick != s1.now) then s1
  else pathBoundary (s1.onPath fun x => { x with arb := true })

/-- The bits of a tick, and behind them the three before it, which the filter of R382 reaches back to. -/
def carryBits (old new : List (List Bool)) : List (List Bool) :=
  (List.range 40).map fun i => (new[i]?).getD [] ++ ((old[i]?).getD []).take 3

/-- The boundary at the decimator island: the chains take the bits of the tick that ended, the TDM ports their frames
and sinks (R345, R354). -/
def decimTick (streams : List (List Bool)) (s : State) : State :=
  let s0 := s.onLoc fun l => { l with streams := carryBits l.streams streams }
  let s1 := forAll allDec (fun c s => decTick c ((streams[c.val]?).getD []) s)
    (forAll allDec stuckTick (forAll allDec (fun c s => takeBits c ((streams[c.val]?).getD []) s) s0))
  forAll [0, 1] (fun x s =>
    let (s2, snk) := takeSinks (.tdm x) s
    if (s2.life? (tdmFunc x)).busy then tdmTick x snk s2 else s2) s1

/-- The boundary across the isolation link: the sink values arrive, and the modulators take those of the tick before
(R16, R369). On a silent link the high-voltage side times the fast stop alone (R379). -/
def isoTick (s : State) : State :=
  if !s.chip.linkUp then forAll (allPch.filter fun c => (s.pch c).phase == 6) (fun c s => pchTick c (s.pch c).sample s) s
  else forAll allPch (fun c s =>
    let (s1, out) := takeSinks (.pch c) s
    (pchTick c (s1.pch c).sample s1).onPch c fun p => { p with sample := out.headD 0 }) s

/-- Sink samples kept for the transmit blocks being formed: the longest block has 64 ticks (R244). -/
def keptTicks : Nat := 80

/-- The boundary at the taps and the transmit channels, which the crossbar's token carries (DESIGN CHOICE, log 26). -/
def xbarTick (s : State) : State :=
  let (s1, _) := takeSinks .capture s
  let s2 := captureTick s1
  let (s3, out) := takeSinks .streamTx s2
  let g := s3.funcGain .streamTx
  let snk := putWords 0 (out.map (gainWord g)) []
  s3.onStrm fun t => { t with history := ((s.now, snk) :: t.history).take keptTicks }

/-- The function that owns an island (the table above R15); the MACs, the forwarding engine and the isolation link have
none (DESIGN CHOICE, log 26). -/
def ownerOf : Island → Option Func
  | .lovage => some .lovage | .sc n => some (.sc n) | .path p => some (pathFunc p) | .timing => some .timekeeper
  | .memctl => some .memctl | .xbar => some .memctl | .decim => some .decim | .service => some .service
  | .mac _ => none | .fwd => none | .isolink => none

/-- DATA of the entry of a token fault (R450). -/
def tokenData (want idx : BitVec 16) (parityOk : Bool) : DWord :=
  want.zeroExtend 64 ||| (idx.zeroExtend 64 <<< 16) ||| (if parityOk then 0 else 0x100000000)

/-- STREAM_RX whose jitter buffers lie in a failed rank faults at its next access (R434). -/
def rxRankCheck (s : State) : State :=
  let a := leAt s.rxCfg 8 8
  if (s.life? .streamRx).busy && s.rxCount != 0 && (s.rankFailed (modAddr a) || s.rankFailed (modAddr a + 2 ^ 26 - 1)) then
    faultFunc .streamRx 2 0 s
  else s

/-- What the service island does at a boundary: blocks that wait for power, autostart, the steps of a module reset,
playback, captures and tests, and the taking of descriptors (R69, R78, R83, R98, R112). -/
def serviceTick (s : State) : State :=
  let s1 := forAll allPch testTick (flushTests (flushCaptures (playTick (rxRankCheck s))))
  takeAll (bootDone (autoTick (autoBegin (resetTimeout (resetSage (configTick s1))))))

/-- What the token starts at the island. -/
def islandTick (i : Island) (streams : List (List Bool)) (s : State) : State :=
  match i with
  | .lovage => lovTick s
  | .sc n => releaseNext n (if s.consumes (.sc n) then scInput n s else idleEdge .lovage (.sc n) s)
  | .path p => pathTick p s
  | .decim => decimTick streams s
  | .isolink => isoTick s
  | .xbar => xbarTick s
  | .service => serviceTick s
  | _ => s

/-- What an island's producers have formed and not yet handed over goes before their next vectors (R15). -/
def handAll (i : Island) (s : State) : State :=
  match i with
  | .lovage => forAll lovConsumers (handOver .lovage ·) s
  | .path p => if s.path.active == p then handOver .path .lovage s else s
  | .decim => forAll [0, 1] (fun x s => handOver (.tdm x) .lovage s) (forAll allDec (fun c s => handOver (.dec c) .lovage s) s)
  | _ => s

/-- The token of tick `n` taken: the boundary's effects, then the island's work on the tick. Where they load the counter, the
load token is the next (R199). -/
def takeToken (i : Island) (n : DWord) (streams : List (List Bool)) (s : State) : State :=
  let s1 := openBoundary i n (handAll i s)
  let s2 := atTick n (fun s => islandTick i streams (effectsDue i s)) s1
  setBegun i false (if s2.copy i = s1.copy i then setCopy i n s2 else s2)

/-- A token that does not carry `n`'s low 16 bits, or fails its parity: the owner is faulted, with both values in the log
(R12). Where the owner is OFF or already FAULTED nothing is left to fault, and an island without an owner has none (log 26). -/
def tokenError (isl : Island) (n : DWord) (idx : BitVec 16) (parityOk : Bool) (s : State) : State :=
  match ownerOf isl with
  | some f => setHalted isl (s.life? f != .off) (faultFunc f 1 (tokenData (n.truncate 16) idx parityOk) s)
  | none => s

/-- The island's clock runs, no mismatch has stopped it, and it does not pause: a token that reaches it is taken. -/
def State.listens (s : State) (isl : Island) : Bool := islandRuns isl s && !s.halted isl && !s.pausedIsland isl

/-- TICK_TOKEN: the island increments its copy of the counter and compares it; a load token is taken as it is; a mismatch or
a parity error faults the owner and stops the island until a function start (R12, R199). A token beyond those that the timing
island has sent is compared with the index that comes next and leaves the copy as it is; an island whose clock stands takes
none (log 52). -/
def execTickToken (isl : Island) (idx : BitVec 16) (parityOk : Bool) (streams : List (List Bool)) (s : State) : Answer :=
  let good := fun (n : DWord) => parityOk && (n.truncate 16 : BitVec 16) == idx
  .next (match s.tokenTick isl with
    | none => if s.listens isl && !good (s.copy isl + 1) then tokenError isl (s.copy isl + 1) idx parityOk s else s
    | some n =>
      if s.time.loadAt = some n || good n then takeToken isl n streams s
      else tokenError isl n idx parityOk (setBegun isl false (setCopy isl n s)))

/-! TICK_BOUNDARY (R11). -/

/-- The timing island's own work at a boundary (R211-R222, R216). -/
def timeTick (s : State) : State := slewTick (selectRef (checkRefs (acceptTick s)))

/-- A tick has passed at a port: its frames leave the receive buffers (R154), and the pause timer has counted (R158); of a
timer loaded within the tick, the part of the tick that `q` tells. -/
def portTick (q ps : Nat) (r : PortSt) : PortSt :=
  { r with svcBuf := 0, pathBuf := 0, timeBuf := 0, pauseFresh := false,
           pause := r.pause - if r.pauseFresh then q % (ps + 1) else ps }
/-- The counter advances; time passes at the ports and for IDENTIFY (R158, R165). -/
def advance (s : State) : State :=
  let ask := fun (p : PageSt) => { p with asked := false }
  let s1 := ((((restTick s.freshen).onPage .host ask).onPage .tarragon ask).onLog fun l => { l with clock := l.clock + 1 }).onTime fun t =>
    { t with tick := t.tick + 1, loadAt := none }
  let ps := s.tickPs
  ((s1.onPath fun x => { x with arb := false }).onSvc fun v => { v with identify := v.identify - s.tickUnits }).freshen.freshen.onNet fun n => { n with
    a := portTick (s1.freeVal 64).toNat ps n.a, b := portTick (s1.freshen.freeVal 64).toNat ps n.b }

/-- Word clock output (R223): with WCOUT_EN 1 an edge rises in this tick at WCOUT_OFFSET from a boundary, and falls half a
period after it. -/
def wcoutTick (s : State) : State :=
  let len := max 1 (s.tickQ (s.now + 1) - s.tickQ s.now)
  let off := (BitVec.ofNat 32 (s.timeParam 0x14)).toInt
  s.onTime fun t => { t with wcout := if s.timeParam 0x13 = 1 then some (off % (len : Int)).toNat else none }

/-- Every island but the timing island. -/
def otherIslands : List Island :=
  [.lovage] ++ allSc.map .sc ++ [.path .a, .path .b, .mac .a, .mac .b, .fwd, .memctl, .xbar, .decim, .service, .isolink]

/-- Islands whose clocks the sag has stopped do no work on the tick and need no restart: their copies go on (R24, DEDUCED,
log 34). -/
def passTokens (s : State) : State :=
  forAll (otherIslands.filter fun i => !islandRuns i s) (fun i s => setBegun i false (setCopy i s.now s)) s

/-- The high-voltage side, whose isolation link has gone quiet, times the fast stop by itself (R25, R379). -/
def hvAlone (s : State) : State :=
  if islandRuns .isolink s then s
  else forAll (allPch.filter fun c => (s.pch c).phase == 6) (fun c s =>
    fastStopEnd (s.msTicks 2) c (pchTick c (s.pch c).sample (s.onFunc (.pch c) fun r => { r with fade := r.fade.tick })))
    (forAll (allPch.filter fun c => (s.pch c).phase == 6) pchAdvance s)

/-- TICK_BOUNDARY: the timing island begins the next tick, does its own part of it and sends the tokens (R11). The arbiter
deals with a tick once, at the latest as it ends. -/
def execTickBoundary (s : State) : Answer :=
  .next (
    if s.chip.supply = .off then hvAlone s
    else
      let s0 := if islandRuns .service s && !s.path.arb then pathBoundary s else s
      let s1 := timeTick (advance s0)
      let s2 := effectsDue .timing (lifeWork .timing (fadeTick .timing (setCopy .timing (s1.now - 1) s1)))
      hvAlone (passTokens (wcoutTick (setCopy .timing s2.now s2))))

end Sys2Proof.Machine
end

