-- ==== Sys2Proof/Machine/TimeCmds.lean ====
section
/-! DEFINITION. Events of the timing island: PTP messages, the servo, references, WCIN (R200-R225). Times are quarter
nanoseconds. The octets of PTP messages are those of IEEE 1588-2019 and IEEE 802.1AS (PRESUMED, log 13). -/

namespace Sys2Proof.Machine

open Sys2Proof

/-- Roles and presence follow what the ports have heard. -/
def settlePtp (s : State) : State := checkRefs (runBmca .b (runBmca .a s))
/-- The engine of a port runs and its port has link. -/
def State.ptpLive (s : State) (p : Port) : Bool := s.ptpRuns p && s.portsUp && (s.port p).link
/-- End-to-end or peer delay (R200). -/
def State.peerDelay (s : State) : Bool := s.ptpProfile == 1 || s.ptpProfile == 3
def State.slaves (s : State) (p : Port) : Bool := s.ptpLive p && (s.ptp p).role == .slave
def State.masters (s : State) (p : Port) : Bool := s.ptpLive p && (s.ptp p).role == .master

/-! Messages sent (R157, R200, R201, R206). -/

def logInterval (s : State) (off : Nat) : Nat := leAt s.timeCfg off 1

/-- A message: header of 34 octets and a body. -/
def ptpMessage (s : State) (p : Port) (ty : Nat) (seq : BitVec 16) (log : Nat) (body : List Byte) : List Byte :=
  let sdo := if s.ptpProfile = 3 then 16 else 0
  [BitVec.ofNat 8 (sdo + ty), 2] ++ beBytes 2 (34 + body.length) ++ [BitVec.ofNat 8 (s.ptpDomain p), 0] ++ leBytes 2 0
  ++ leBytes 8 0 ++ leBytes 4 0 ++ beBytes 8 s.clockId.toNat ++ beBytes 2 (1 + pathIx p) ++ beBytes 2 seq.toNat
  ++ [if ty = 0 then 0 else if ty = 1 then 1 else if ty = 9 then 3 else 5, BitVec.ofNat 8 log] ++ body

/-- The frame of a message in the transport of the configuration. `peer`: it goes to the neighbour alone; `event`: it
carries a time-stamp, and over IPv6 two octets follow the message (R206). -/
def ptpFrame (s : State) (kind : PtpKind) (peer event : Bool) (msg : List Byte) : Frame :=
  let tr := if s.ptpProfile = 3 then 0 else leAt s.timeCfg 4 1
  let port : BitVec 16 := if event then 319 else 320
  let ip := fun (v6 : Bool) (src dst : Nat) =>
    some (udpInfo { ipInfo v6 src dst 17 with udpSrc := port, udpDst := port } (if v6 && event then msg ++ [0, 0] else msg))
  let f := if tr = 1 then
      ownFrame s (if peer then 0x01005E00006B else 0x01005E000181) 0x0800 28
        (ip false (s.svcParam 0x10) (if peer then 0xE000006B else 0xE0000181)) msg
    else if tr = 2 then
      ownFrame s (if peer then 0x33330000006B else 0x333300000181) 0x86DD (if event then 50 else 48)
        (ip true s.ipv6Addr (if peer then 0xFF02 * 2 ^ 112 + 0x6B else 0xFF0E * 2 ^ 112 + 0x181)) msg
    else ownFrame s (if peer || s.ptpProfile == 3 then 0x0180C200000E else 0x011B19000000) 0x88F7 0 none msg
  { f with ptp := kind }

def sendPtp (p : Port) (event : Bool) (f : Frame) (s : State) : State :=
  sendFrame [p] (if event then s.txqEvent p else s.txqGeneral p) f s

/-- PTP_SYNC_SEND: originTimestamp is written as the frame leaves (R157, R206). -/
def execPtpSyncSend (port : Port) (s : State) : Answer :=
  .next (if !s.masters port then s
    else sendPtp port true (ptpFrame s .sync false true (ptpMessage s port 0 (s.ptp port).seqSync (logInterval s 8) (leBytes 10 0)))
      (s.onPtp port fun t => { t with seqSync := t.seqSync + 1 }))

/-- What the module announces: its own data set, or as a relay the better master heard on the other port (R201, R202). -/
def State.announceData (s : State) (p : Port) : PtpAnnounce :=
  let o := s.ptp (otherPort p)
  match o.best with
  | some b => if s.ptpProfile = 3 && o.role == .slave then { b with steps := b.steps + 1 } else s.ownData
  | none => s.ownData
def announceBody (a : PtpAnnounce) : List Byte :=
  leBytes 10 0 ++ beBytes 2 0 ++ [0, a.priority1, a.clockClass, a.accuracy] ++ beBytes 2 a.variance.toNat ++ [a.priority2]
  ++ beBytes 8 a.gm.toNat ++ beBytes 2 a.steps.toNat ++ [0xA0]
/-- PTP_ANNOUNCE_SEND (R201). -/
def execPtpAnnounceSend (port : Port) (s : State) : Answer :=
  .next (if !s.masters port then s
    else sendPtp port false (ptpFrame s .announce false false (ptpMessage s port 11 (s.ptp port).seqAnn (logInterval s 9)
        (announceBody (s.announceData port)))) (s.onPtp port fun t => { t with seqAnn := t.seqAnn + 1 }))

/-- PTP_DELAY_REQ_SEND: Delay_Req of a slave, or Pdelay_Req; its transmit time-stamp is kept (R201, R206). -/
def execPtpDelayReqSend (port : Port) (t3 : Int) (s : State) : Answer :=
  let r := s.ptp port
  let peer := s.peerDelay
  .next (if !(if peer then s.ptpLive port else s.slaves port) then s
    else
      let msg := ptpMessage s port (if peer then 2 else 1) r.seqReq (logInterval s 10) (leBytes (if peer then 20 else 10) 0)
      sendPtp port true (ptpFrame s (if peer then .pdelayReq else .delayReq) peer true msg)
        (s.onPtp port fun t => { t with reqSent := some (t.seqReq, s.txTime port t3), seqReq := t.seqReq + 1, pdPending := none }))

/-- PTP_DELAY_REQ: a master port answers with Delay_Resp (R201). -/
def execPtpDelayReq (port : Port) (seq : BitVec 16) (requester : BitVec 80) (t4 : Int) (s : State) : Answer :=
  .next (if !s.masters port || s.peerDelay then s
    else sendPtp port false (ptpFrame s .delayResp false false (ptpMessage s port 9 seq (logInterval s 10)
      (stampBytes (s.rxTime port t4) ++ beBytes 10 requester.toNat))) s)
/-- PTP_PDELAY_REQ: answered with Pdelay_Resp, whose turnaround is written as it leaves (R201, R206). -/
def execPtpPdelayReq (port : Port) (seq : BitVec 16) (requester : BitVec 80) (t2 : Int) (s : State) : Answer :=
  .next (if !s.ptpLive port || !s.peerDelay then s
    else sendPtp port true { ptpFrame s .pdelayResp true true (ptpMessage s port 3 seq 0x7F
      (leBytes 10 0 ++ beBytes 10 requester.toNat)) with asked := s.rxTime port t2 } s)

/-! Measurements (R201, R209, R210). -/

/-- The offset of a Sync: t2 - t1 - correction - mean delay; the reference has a Sync again (R216). -/
def useSync (p : Port) (t1 t2 corr : Int) (s : State) : State :=
  let m := t2 - t1 - corr - (s.ptp p).meanDelay
  ptpMeasure p m (checkRefs (s.onPtp p fun t => { t with synced := true, pending := none, lastT1 := t1 + corr, lastT2 := t2 }))

/-- PTP_SYNC: used at once, or held until its Follow_Up (R201). -/
def execPtpSync (port : Port) (m : PtpSync) (s : State) : Answer :=
  .next (if !s.slaves port || m.domain.toNat ≠ s.ptpDomain port then s
    else if m.twoStep then s.onPtp port fun t => { t with pending := some (m.seq, s.rxTime port m.t2, m.corr) }
    else useSync port m.t1 (s.rxTime port m.t2) m.corr s)
/-- PTP_FOLLOW_UP of the Sync that waits (R201). -/
def execPtpFollowUp (port : Port) (seq : BitVec 16) (t1 corr : Int) (s : State) : Answer :=
  .next (match (s.ptp port).pending with
    | some (q, t2, c) => if s.slaves port && q == seq then useSync port t1 t2 (c + corr) s else s
    | none => s)

/-- Half of a time; its rounding is open (log 9). -/
def halfTime (x : Int) : Int := divOpen x 2
/-- PTP_DELAY_RESP: half of (t2 - t1) + (t4 - t3) (R201). -/
def execPtpDelayResp (port : Port) (seq : BitVec 16) (t4 corr : Int) (s : State) : Answer :=
  .next (match (s.ptp port).reqSent with
    | some (q, t3) =>
      if !s.slaves port || s.peerDelay || q != seq then s
      else s.onPtp port fun t => { t with
        reqSent := none, meanDelay := halfTime ((t.lastT2 - t.lastT1) + (t4 - corr - t3)) }
    | none => s)
/-- PTP_PDELAY_RESP, or its follow-up: half of (t4 - t1) less the responder's turnaround (R201). -/
def execPtpPdelayResp (port : Port) (m : PtpPdelayResp) (s : State) : Answer :=
  .next (if !s.ptpLive port || !s.peerDelay then s
    else if m.followUp then
      match (s.ptp port).pdPending with
      | some (q, d) => if q != m.seq then s else s.onPtp port fun t => { t with
          pdPending := none, meanDelay := halfTime (d - m.turnaround) }
      | none => s
    else match (s.ptp port).reqSent with
      | some (q, t1) =>
        let d := s.rxTime port m.t4 - t1 - m.turnaround
        if q != m.seq then s
        else if m.twoStep then s.onPtp port fun t => { t with reqSent := none, pdPending := some (q, d) }
        else s.onPtp port fun t => { t with reqSent := none, meanDelay := halfTime d }
      | none => s)

/-- PTP_ANNOUNCE: the better of the master heard so far and this one is kept, and the algorithm runs (R201). -/
def execPtpAnnounce (port : Port) (m : PtpAnnounce) (s : State) : Answer :=
  let better := match (s.ptp port).best with
    | some b => b.gm == m.gm || decide (announceKey m < announceKey b)
    | none => true
  .next (if !s.ptpLive port || m.domain.toNat ≠ s.ptpDomain port || m.gm = s.clockId then s
    else settlePtp (if better then s.onPtp port fun t => { t with best := some m, announced := true } else s))

/-- ANNOUNCE_TIMEOUT (R216, R228). -/
def execAnnounceTimeout (port : Port) (s : State) : Answer :=
  .next (if !s.ptpRuns port || !(s.ptp port).announced then s
    else settlePtp ((s.onPtp port fun t => { t with best := none, announced := false, gm := 0 }).bump 5 (2 + pathIx port)))
/-- SYNC_RECEIPT_TIMEOUT (R216). -/
def execSyncReceiptTimeout (port : Port) (s : State) : Answer :=
  .next (if (s.ptp port).role == .slave then checkRefs (s.onPtp port fun t => { t with synced := false, pending := none }) else s)

/-! The servo (R207, R208, R218, R221). -/

/-- A reference edge's phase: the boundary minus the edge, against the edge plus WCIN_OFFSET and the servo's phase target
(R211, R219, R220, R224). -/
def State.edgePhase (s : State) (x : Int) : Int :=
  wrapTick s (x - (BitVec.ofNat 32 (s.timeParam 0x15)).toInt - s.time.phaseOfs)

/-- SERVO_UPDATE: a measurement of WCIN, TDM0 or TDM1 at every 8th tick, the boundary minus the edge (R207). -/
def execServoUpdate (meas : Int) (s : State) : Answer :=
  .next (if !s.running .timekeeper || s.time.ref.toNat < 3 || s.time.lock = 0 || 4 ≤ s.time.lock.toNat || s.now.toNat % 8 ≠ 0 then s
    else servoTake (s.edgePhase meas) s)

/-- LOCK_TIMER: ACQUIRE to LOCKED within LOCK_NS, LOCKED to ACQUIRE outside 4 LOCK_NS (R208). -/
def execLockTimer (s : State) : Answer :=
  let o : Int := s.time.ofs.natAbs
  .next (if s.time.lock = 1 ∧ o ≤ s.lockBound then s.onTime fun t => { t with lock := 2, lockedS := 0 }
    else if s.time.lock = 2 ∧ 4 * s.lockBound < o then s.onTime fun t => { t with lock := 1, lockedS := 0 }
    else s)
/-- SLEW_COMPLETE: the remainder is 0 and the servo enters ACQUIRE (R218). -/
def execSlewComplete (s : State) : Answer :=
  .next (if s.time.lock = 3 ∧ s.time.slew = 0 then s.onTime fun t => { t with lock := 1, slewAcc := 0 } else s)
/-- OSC_MODEL_SAVE (R221). -/
def execOscModelSave (s : State) : Answer :=
  .next (if s.chip.supply = .off then s else s.onTime fun t => { t with modelSaved := t.model })

/-! References (R216). -/

/-- The frequency of a reference judged after another 100 ms, units of 0.001 ppm. -/
def RefRec.judge (f : Int) (tol qual frac : Nat) (r : RefRec) : RefRec :=
  let a := f.natAbs
  let inTol := decide (a ≤ 1000 * tol)
  let good := if inTol then r.goodMs + 100 else 0
  let bad := if inTol then 0 else r.badMs + 100
  let hot := decide (frac * 1000 * tol ≤ 16 * a)
  let calm := if hot then 0 else r.calmMs + 100
  { r with
    freq := f, goodMs := good, badMs := bad, calmMs := calm
    qualified := if r.qualified then !decide (qual ≤ bad) else decide (qual ≤ good)
    drift := hot || (r.drift && decide (calm < qual)) }

/-- A reference in the 100 ms update, with the counts and the event of R216. -/
def judgeRef (freqs phases : List Int) (r : Fin 6) (s : State) : State :=
  let o := s.refRec r
  if r = 0 || !o.present then s
  else
    let tol := s.timeParam (if r.val ≤ 2 then 9 else 10)
    let n := o.judge ((freqs[r.val - 1]?).getD o.freq) tol (s.timeParam 8) (s.timeParam 11)
    let s1 := s.onRef r fun _ => { n with phase := if r.val ≤ 2 then o.phase else ((phases[r.val - 1]?).map s.edgePhase).getD o.phase }
    let s2 := if o.qualified && !n.qualified then s1.bump 5 10 else s1
    if n.drift && !o.drift then (s2.bump 5 11).raise 6 else s2

/-- REF_QUAL_UPDATE: every 100 ms; element r - 1 of each list belongs to reference r (R216). A PTP reference's phase is
the one measured last. -/
def execRefQualUpdate (freqs phases : List Int) (s : State) : Answer :=
  .next (if s.chip.supply = .off then s else forAll (List.finRange 6) (judgeRef freqs phases) (checkRefs s))

/-- WCIN is not present any more. -/
def dropWcin (s : State) : State := checkPresent 3 (s.onRef 3 fun r => { r with present := false })

/-- WCIN_EDGE: an edge from 0.99 to 1.01 of a tick after the last accepted one makes WCIN present and measures its
phase; an earlier or later one is a glitch, and the fourth in 1 s ends its presence (R225). Edges within 1 us, and pulses
shorter than 1 us, are ignored. With no accepted edge for 4 ticks this one is the first (DEDUCED, log 33). `phase`: the
boundary minus the edge. -/
def execWcinEdge (sinceLast high : Nat) (phase : Int) (s : State) : Answer :=
  let d := sinceLast * s.fsHz
  let g := (s.bump 5 16).onTime fun t => { t with
    glitches := s.now :: t.glitches.filter fun e => decide ((s.now - e).toNat < s.fsHz) }
  let ok := s.onRef 3 fun r => { r with phase := s.edgePhase phase }
  .next (if s.chip.supply = .off || sinceLast < 1000 || high < 1000 then s
    else if !(s.refRec 3).present && 4000000000 ≤ d then ok
    else if d < 990000000 ∨ 1010000000 < d then (if 4 ≤ g.time.glitches.length then dropWcin g else g)
    else checkPresent 3 (ok.onRef 3 fun r => { r with present := true }))
/-- WCIN_LOSS: no rising edge for 4/Fs (R225). -/
def execWcinLoss (s : State) : Answer := .next (dropWcin s)

end Sys2Proof.Machine
end

