-- ==== Sys2Proof/Machine/Dispatch.lean ====
section
/-! DEFINITION. One arm per command: a direct call of its meaning. -/

namespace Sys2Proof.Machine

open Sys2Proof

def exec (i : Instr) (s : State) : Host.Outcome State Fault Refusal :=
  match i with
  | .linePowerUp port strap => Sys2Proof.Machine.execLinePowerUp port strap s
  | .dramTrained => Sys2Proof.Machine.execDramTrained s
  | .bootComplete => Sys2Proof.Machine.execBootComplete s
  | .coreRailSag depth => Sys2Proof.Machine.execCoreRailSag depth s
  | .clockedRailFall => Sys2Proof.Machine.execClockedRailFall s
  | .clockedRailReturn => Sys2Proof.Machine.execClockedRailReturn s
  | .pdTurnOff => Sys2Proof.Machine.execPdTurnOff s
  | .portPowerLoss port => Sys2Proof.Machine.execPortPowerLoss port s
  | .pdClassification port events pairsets => Sys2Proof.Machine.execPdClassification port events pairsets s
  | .pdVinUpdate port vin => Sys2Proof.Machine.execPdVinUpdate port vin s
  | .vauxShort shorted => Sys2Proof.Machine.execVauxShort shorted s
  | .vbusConnect v => Sys2Proof.Machine.execVbusConnect v s
  | .vbusLoss => Sys2Proof.Machine.execVbusLoss s
  | .vbusReversed v => Sys2Proof.Machine.execVbusReversed v s
  | .vbusOvervoltage v => Sys2Proof.Machine.execVbusOvervoltage v s
  | .ovShortRelease c => Sys2Proof.Machine.execOvShortRelease c s
  | .hvTokenTimeout => Sys2Proof.Machine.execHvTokenTimeout s
  | .hvLost => Sys2Proof.Machine.execHvLost s
  | .hvAwake => Sys2Proof.Machine.execHvAwake s
  | .hvWakeTimeout => Sys2Proof.Machine.execHvWakeTimeout s
  | .hvSleep => Sys2Proof.Machine.execHvSleep s
  | .perstNAssert => Sys2Proof.Machine.execPerstNAssert s
  | .perstNRelease => Sys2Proof.Machine.execPerstNRelease s
  | .pcieLinkTrained speed width => Sys2Proof.Machine.execPcieLinkTrained speed width s
  | .bmeChange on => Sys2Proof.Machine.execBmeChange on s
  | .softReset v => Sys2Proof.Machine.execSoftReset v s
  | .jtagReset => Sys2Proof.Machine.execJtagReset s
  | .noardResetAccept => Sys2Proof.Machine.execNoardResetAccept s
  | .resetStopTimeout => Sys2Proof.Machine.execResetStopTimeout s
  | .resetIslands strap => Sys2Proof.Machine.execResetIslands strap s
  | .resetCauseClear v => Sys2Proof.Machine.execResetCauseClear v s
  | .svcWatchdogRestart => Sys2Proof.Machine.execSvcWatchdogRestart s
  | .tickBoundary => Sys2Proof.Machine.execTickBoundary s
  | .tickToken isl idx parityOk streams => Sys2Proof.Machine.execTickToken isl idx parityOk streams s
  | .paramWriteEffect f => Sys2Proof.Machine.execParamWriteEffect f s
  | .vectorHandoff p k => Sys2Proof.Machine.execVectorHandoff p k s
  | .vectorMissed p k => Sys2Proof.Machine.execVectorMissed p k s
  | .fadeComplete p k => Sys2Proof.Machine.execFadeComplete p k s
  | .funcConfig q d h => Sys2Proof.Machine.execFuncConfig q d h s
  | .funcStart q d => Sys2Proof.Machine.execFuncStart q d s
  | .funcStop q d => Sys2Proof.Machine.execFuncStop q d s
  | .funcQuery q d => Sys2Proof.Machine.execFuncQuery q d s
  | .startEffect f => Sys2Proof.Machine.execStartEffect f s
  | .stopEffect f => Sys2Proof.Machine.execStopEffect f s
  | .startSequenceComplete f => Sys2Proof.Machine.execStartSequenceComplete f s
  | .stopFadeComplete f => Sys2Proof.Machine.execStopFadeComplete f s
  | .startTimeout f => Sys2Proof.Machine.execStartTimeout f s
  | .functionFault f cause => Sys2Proof.Machine.execFunctionFault f cause s
  | .logDropReport => Sys2Proof.Machine.execLogDropReport s
  | .registerWrite off v => Sys2Proof.Machine.execRegisterWrite off v s
  | .bar0BadAccess off size write => Sys2Proof.Machine.execBar0BadAccess off size write s
  | .counterLoRead off => Sys2Proof.Machine.execCounterLoRead off s
  | .ringFetchSkipRead => Sys2Proof.Machine.execRingFetchSkipRead s
  | .pcieHosterrCountRead => Sys2Proof.Machine.execPcieHosterrCountRead s
  | .svcNoardCountRead k => Sys2Proof.Machine.execSvcNoardCountRead k s
  | .timeTickLoRead => Sys2Proof.Machine.execTimeTickLoRead s
  | .strmRxMarginRead path k => Sys2Proof.Machine.execStrmRxMarginRead path k s
  | .lovPeakRead => Sys2Proof.Machine.execLovPeakRead s
  | .lovClippedClear w v => Sys2Proof.Machine.execLovClippedClear w v s
  | .scTaskMaxRead n => Sys2Proof.Machine.execScTaskMaxRead n s
  | .memcWorstRt0Read => Sys2Proof.Machine.execMemcWorstRt0Read s
  | .xbarPeakRead m => Sys2Proof.Machine.execXbarPeakRead m s
  | .xbarErrCountRead => Sys2Proof.Machine.execXbarErrCountRead s
  | .ringEnable q v => Sys2Proof.Machine.execRingEnable q v s
  | .ringDisable q v => Sys2Proof.Machine.execRingDisable q v s
  | .ringDrainComplete q => Sys2Proof.Machine.execRingDrainComplete q s
  | .doorbellFetch => Sys2Proof.Machine.execDoorbellFetch s
  | .tarragonDoorbellFetch => Sys2Proof.Machine.execTarragonDoorbellFetch s
  | .doorbellReadComplete set h => Sys2Proof.Machine.execDoorbellReadComplete set h s
  | .descriptorReadComplete q d => Sys2Proof.Machine.execDescriptorReadComplete q d s
  | .completionRecordWrite q => Sys2Proof.Machine.execCompletionRecordWrite q s
  | .statusPageWrite set => Sys2Proof.Machine.execStatusPageWrite set s
  | .hostReadFail addr => Sys2Proof.Machine.execHostReadFail addr s
  | .nop q d => Sys2Proof.Machine.execNop q d s
  | .fence q d => Sys2Proof.Machine.execFence q d s
  | .fenceComplete q => Sys2Proof.Machine.execFenceComplete q s
  | .paramWrite q d => Sys2Proof.Machine.execParamWrite q d s
  | .paramRead q d => Sys2Proof.Machine.execParamRead q d s
  | .sched q d => Sys2Proof.Machine.execSched q d s
  | .schedCancel q d => Sys2Proof.Machine.execSchedCancel q d s
  | .schedActionApply f id => Sys2Proof.Machine.execSchedActionApply f id s
  | .lateActionApply f id => Sys2Proof.Machine.execLateActionApply f id s
  | .copy q d => Sys2Proof.Machine.execCopy q d s
  | .copyComplete q h => Sys2Proof.Machine.execCopyComplete q h s
  | .capture q d => Sys2Proof.Machine.execCapture q d s
  | .playback q d => Sys2Proof.Machine.execPlayback q d s
  | .loadImage q d h => Sys2Proof.Machine.execLoadImage q d h s
  | .imagePlaced q => Sys2Proof.Machine.execImagePlaced q s
  | .statsRead q d => Sys2Proof.Machine.execStatsRead q d s
  | .logRead q d => Sys2Proof.Machine.execLogRead q d s
  | .timeQuery q d => Sys2Proof.Machine.execTimeQuery q d s
  | .timeStepAccept q d => Sys2Proof.Machine.execTimeStepAccept q d s
  | .pathSwitch q d => Sys2Proof.Machine.execPathSwitch q d s
  | .routeSet q d h => Sys2Proof.Machine.execRouteSet q d h s
  | .routeRead q d => Sys2Proof.Machine.execRouteRead q d s
  | .memRetire q d => Sys2Proof.Machine.execMemRetire q d s
  | .polarityTest q d => Sys2Proof.Machine.execPolarityTest q d s
  | .loadTest q d => Sys2Proof.Machine.execLoadTest q d s
  | .noardRequest port src vlan pdu => Sys2Proof.Machine.execNoardRequest port src vlan pdu s
  | .noardReply slot counter => Sys2Proof.Machine.execNoardReply slot counter s
  | .replyWaitExpiry slot counter => Sys2Proof.Machine.execReplyWaitExpiry slot counter s
  | .noardEventNotice => Sys2Proof.Machine.execNoardEventNotice s
  | .arpRequest port target asker mac => Sys2Proof.Machine.execArpRequest port target asker mac s
  | .icmpEcho port dst asker mac ident payload => Sys2Proof.Machine.execIcmpEcho port dst asker mac ident payload s
  | .icmpv6Echo port dst asker mac ident payload => Sys2Proof.Machine.execIcmpv6Echo port dst asker mac ident payload s
  | .neighbourSolicitation port target asker mac => Sys2Proof.Machine.execNeighbourSolicitation port target asker mac s
  | .igmpQuery port group => Sys2Proof.Machine.execIgmpQuery port group s
  | .mldQuery port group => Sys2Proof.Machine.execMldQuery port group s
  | .identifyExpiry => Sys2Proof.Machine.execIdentifyExpiry s
  | .svcKeyWrite v => Sys2Proof.Machine.execSvcKeyWrite v s
  | .svcKeyRevoke v => Sys2Proof.Machine.execSvcKeyRevoke v s
  | .svcLock v => Sys2Proof.Machine.execSvcLock v s
  | .jtagNonceRead => Sys2Proof.Machine.execJtagNonceRead s
  | .jtagChallengeAnswer ans => Sys2Proof.Machine.execJtagChallengeAnswer ans s
  | .jtagLockoutEnd => Sys2Proof.Machine.execJtagLockoutEnd s
  | .anegComplete port partner lpPause partnerMulti seedWins => Sys2Proof.Machine.execAnegComplete port partner lpPause partnerMulti seedWins s
  | .linkUp port mdix swap01 swap23 pol => Sys2Proof.Machine.execLinkUp port mdix swap01 swap23 pol s
  | .linkDown port => Sys2Proof.Machine.execLinkDown port s
  | .linkAttemptFail port => Sys2Proof.Machine.execLinkAttemptFail port s
  | .anegWrite port v => Sys2Proof.Machine.execAnegWrite port v s
  | .anegRestart port v => Sys2Proof.Machine.execAnegRestart port v s
  | .frameReceive port f => Sys2Proof.Machine.execFrameReceive port f s
  | .pauseFrame port toModule time => Sys2Proof.Machine.execPauseFrame port toModule time s
  | .pauseExpiry port => Sys2Proof.Machine.execPauseExpiry port s
  | .frameTransmit port => Sys2Proof.Machine.execFrameTransmit port s
  | .forwardCommit ingress f => Sys2Proof.Machine.execForwardCommit ingress f s
  | .forwardEgressStart egress residence => Sys2Proof.Machine.execForwardEgressStart egress residence s
  | .ringClosedTimeout port => Sys2Proof.Machine.execRingClosedTimeout port s
  | .nodeIdGraceEnd => Sys2Proof.Machine.execNodeIdGraceEnd s
  | .pathTopoWrite ringReg v => Sys2Proof.Machine.execPathTopoWrite ringReg v s
  | .unsyncIlkChange => Sys2Proof.Machine.execUnsyncIlkChange s
  | .unsyncEnd => Sys2Proof.Machine.execUnsyncEnd s
  | .ilkNChange high => Sys2Proof.Machine.execIlkNChange high s
  | .ilkSample => Sys2Proof.Machine.execIlkSample s
  | .ptpSync port m => Sys2Proof.Machine.execPtpSync port m s
  | .ptpFollowUp port seq t1 corr => Sys2Proof.Machine.execPtpFollowUp port seq t1 corr s
  | .ptpDelayReq port seq requester t4 => Sys2Proof.Machine.execPtpDelayReq port seq requester t4 s
  | .ptpDelayResp port seq t4 corr => Sys2Proof.Machine.execPtpDelayResp port seq t4 corr s
  | .ptpPdelayReq port seq requester t2 => Sys2Proof.Machine.execPtpPdelayReq port seq requester t2 s
  | .ptpPdelayResp port m => Sys2Proof.Machine.execPtpPdelayResp port m s
  | .ptpAnnounce port m => Sys2Proof.Machine.execPtpAnnounce port m s
  | .servoUpdate meas => Sys2Proof.Machine.execServoUpdate meas s
  | .announceTimeout port => Sys2Proof.Machine.execAnnounceTimeout port s
  | .ptpSyncSend port => Sys2Proof.Machine.execPtpSyncSend port s
  | .ptpAnnounceSend port => Sys2Proof.Machine.execPtpAnnounceSend port s
  | .ptpDelayReqSend port t3 => Sys2Proof.Machine.execPtpDelayReqSend port t3 s
  | .lockTimer => Sys2Proof.Machine.execLockTimer s
  | .refQualUpdate freqs phases => Sys2Proof.Machine.execRefQualUpdate freqs phases s
  | .slewComplete => Sys2Proof.Machine.execSlewComplete s
  | .oscModelSave => Sys2Proof.Machine.execOscModelSave s
  | .wcinEdge sinceLast high phase => Sys2Proof.Machine.execWcinEdge sinceLast high phase s
  | .wcinLoss => Sys2Proof.Machine.execWcinLoss s
  | .timeCtrlWrite v => Sys2Proof.Machine.execTimeCtrlWrite v s
  | .streamPacketReceive path k pkt => Sys2Proof.Machine.execStreamPacketReceive path k pkt s
  | .streamPacketLaunch k => Sys2Proof.Machine.execStreamPacketLaunch k s
  | .crosspointRampEnd src snk => Sys2Proof.Machine.execCrosspointRampEnd src snk s
  | .generatorSettingApply g => Sys2Proof.Machine.execGeneratorSettingApply g s
  | .playbackFrameRead q tag h => Sys2Proof.Machine.execPlaybackFrameRead q tag h s
  | .taskRelease n => Sys2Proof.Machine.execTaskRelease n s
  | .taskDeadlineMiss n => Sys2Proof.Machine.execTaskDeadlineMiss n s
  | .taskTimeout n => Sys2Proof.Machine.execTaskTimeout n s
  | .interruptTaken n => Sys2Proof.Machine.execInterruptTaken n s
  | .trapTaken n cause => Sys2Proof.Machine.execTrapTaken n cause s
  | .resultLand n => Sys2Proof.Machine.execResultLand n s
  | .xfDone n c status => Sys2Proof.Machine.execXfDone n c status s
  | .waitxfResume n => Sys2Proof.Machine.execWaitxfResume n s
  | .loopExit n => Sys2Proof.Machine.execLoopExit n s
  | .scDoorbell n v => Sys2Proof.Machine.execScDoorbell n v s
  | .loadPortAccess master n addr write len => Sys2Proof.Machine.execLoadPortAccess master n addr write len s
  | .mnop n w => Sys2Proof.Machine.execMnop n w s
  | .mpy n w => Sys2Proof.Machine.execMpy n w s
  | .macOp n w => Sys2Proof.Machine.execMac n w s
  | .msu n w => Sys2Proof.Machine.execMsu n w s
  | .mpya n w => Sys2Proof.Machine.execMpya n w s
  | .aadd n w => Sys2Proof.Machine.execAadd n w s
  | .asub n w => Sys2Proof.Machine.execAsub n w s
  | .amov n w => Sys2Proof.Machine.execAmov n w s
  | .aclr n w => Sys2Proof.Machine.execAclr n w s
  | .ald n w => Sys2Proof.Machine.execAld n w s
  | .aluNop n w => Sys2Proof.Machine.execAluNop n w s
  | .addOp n w => Sys2Proof.Machine.execAdd n w s
  | .adds n w => Sys2Proof.Machine.execAdds n w s
  | .subOp n w => Sys2Proof.Machine.execSub n w s
  | .subs n w => Sys2Proof.Machine.execSubs n w s
  | .andOp n w => Sys2Proof.Machine.execAnd n w s
  | .orOp n w => Sys2Proof.Machine.execOr n w s
  | .xorOp n w => Sys2Proof.Machine.execXor n w s
  | .shl n w => Sys2Proof.Machine.execShl n w s
  | .shra n w => Sys2Proof.Machine.execShra n w s
  | .shrl n w => Sys2Proof.Machine.execShrl n w s
  | .shls n w => Sys2Proof.Machine.execShls n w s
  | .minOp n w => Sys2Proof.Machine.execMin n w s
  | .maxOp n w => Sys2Proof.Machine.execMax n w s
  | .absOp n w => Sys2Proof.Machine.execAbs n w s
  | .negOp n w => Sys2Proof.Machine.execNeg n w s
  | .movOp n w => Sys2Proof.Machine.execMov n w s
  | .bcast n w => Sys2Proof.Machine.execBcast n w s
  | .ldil n w => Sys2Proof.Machine.execLdil n w s
  | .ldih n w => Sys2Proof.Machine.execLdih n w s
  | .cmplt n w => Sys2Proof.Machine.execCmplt n w s
  | .cmpeq n w => Sys2Proof.Machine.execCmpeq n w s
  | .ext n w => Sys2Proof.Machine.execExt n w s
  | .exte n w => Sys2Proof.Machine.execExte n w s
  | .expa n w => Sys2Proof.Machine.execExpa n w s
  | .sete n w => Sys2Proof.Machine.execSete n w s
  | .mine n w => Sys2Proof.Machine.execMine n w s
  | .gete n w => Sys2Proof.Machine.execGete n w s
  | .sinit n w => Sys2Proof.Machine.execSinit n w s
  | .smax n w => Sys2Proof.Machine.execSmax n w s
  | .smin n w => Sys2Proof.Machine.execSmin n w s
  | .smaxa n w => Sys2Proof.Machine.execSmaxa n w s
  | .getbv n w => Sys2Proof.Machine.execGetbv n w s
  | .getbi n w => Sys2Proof.Machine.execGetbi n w s
  | .getaov n w => Sys2Proof.Machine.execGetaov n w s
  | .clraov n w => Sys2Proof.Machine.execClraov n w s
  | .br n w => Sys2Proof.Machine.execBr n w s
  | .bz n w => Sys2Proof.Machine.execBz n w s
  | .bnz n w => Sys2Proof.Machine.execBnz n w s
  | .bneg n w => Sys2Proof.Machine.execBneg n w s
  | .loopi n w => Sys2Proof.Machine.execLoopi n w s
  | .loopr n w => Sys2Proof.Machine.execLoopr n w s
  | .waitxf n w => Sys2Proof.Machine.execWaitxf n w s
  | .endTask n w => Sys2Proof.Machine.execEnd n w s
  | .rti n w => Sys2Proof.Machine.execRti n w s
  | .rtij n w => Sys2Proof.Machine.execRtij n w s
  | .trapOp n w => Sys2Proof.Machine.execTrap n w s
  | .mvnop n slot w => Sys2Proof.Machine.execMvnop n slot w s
  | .ldv n slot w => Sys2Proof.Machine.execLdv n slot w s
  | .ldb n slot w => Sys2Proof.Machine.execLdb n slot w s
  | .stv n slot w => Sys2Proof.Machine.execStv n slot w s
  | .sts n slot w => Sys2Proof.Machine.execSts n slot w s
  | .ldal n slot w => Sys2Proof.Machine.execLdal n slot w s
  | .ldam n slot w => Sys2Proof.Machine.execLdam n slot w s
  | .ldah n slot w => Sys2Proof.Machine.execLdah n slot w s
  | .stal n slot w => Sys2Proof.Machine.execStal n slot w s
  | .stam n slot w => Sys2Proof.Machine.execStam n slot w s
  | .stah n slot w => Sys2Proof.Machine.execStah n slot w s
  | .modp n slot w => Sys2Proof.Machine.execModp n slot w s
  | .mvar n slot w => Sys2Proof.Machine.execMvar n slot w s
  | .mvra n slot w => Sys2Proof.Machine.execMvra n slot w s
  | .lia n slot w => Sys2Proof.Machine.execLia n slot w s
  | .pdmWarmupEnd => Sys2Proof.Machine.execPdmWarmupEnd s
  | .pdmClockStop => Sys2Proof.Machine.execPdmClockStop s
  | .decStuck c => Sys2Proof.Machine.execDecStuck c s
  | .decStuckRecover c => Sys2Proof.Machine.execDecStuckRecover c s
  | .dsyncEdge lowNs highNs => Sys2Proof.Machine.execDsyncEdge lowNs highNs s
  | .dsyncReset => Sys2Proof.Machine.execDsyncReset s
  | .decSettleEnd c => Sys2Proof.Machine.execDecSettleEnd c s
  | .tdmFrame x bck edges ratePpm slots => Sys2Proof.Machine.execTdmFrame x bck edges ratePpm slots s
  | .tdmLoss x => Sys2Proof.Machine.execTdmLoss x s
  | .pchFswCtrlWrite off v => Sys2Proof.Machine.execPchFswCtrlWrite off v s
  | .pchSwitchingBegin c => Sys2Proof.Machine.execPchSwitchingBegin c s
  | .pchEnterRunning c => Sys2Proof.Machine.execPchEnterRunning c s
  | .pchCmRampDown c => Sys2Proof.Machine.execPchCmRampDown c s
  | .pchLowSideClosed c => Sys2Proof.Machine.execPchLowSideClosed c s
  | .pchSwitchesOpen c => Sys2Proof.Machine.execPchSwitchesOpen c s
  | .fastStopEnd c => Sys2Proof.Machine.execFastStopEnd c s
  | .chiveSettingApply c => Sys2Proof.Machine.execChiveSettingApply c s
  | .chiveCut c => Sys2Proof.Machine.execChiveCut c s
  | .chiveRestore c => Sys2Proof.Machine.execChiveRestore c s
  | .currentLimit c => Sys2Proof.Machine.execCurrentLimit c s
  | .shortDetect c pattern => Sys2Proof.Machine.execShortDetect c pattern s
  | .overload c => Sys2Proof.Machine.execOverload c s
  | .dcFault c => Sys2Proof.Machine.execDcFault c s
  | .openLoad c => Sys2Proof.Machine.execOpenLoad c s
  | .impedanceWindow c z => Sys2Proof.Machine.execImpedanceWindow c z s
  | .dieTempEvent c temp => Sys2Proof.Machine.execDieTempEvent c temp s
  | .baseplateTempEvent temp => Sys2Proof.Machine.execBaseplateTempEvent temp s
  | .logicDieTempWarning => Sys2Proof.Machine.execLogicDieTempWarning s
  | .tempWarningClear src => Sys2Proof.Machine.execTempWarningClear src s
  | .retryWaitExpiry c => Sys2Proof.Machine.execRetryWaitExpiry c s
  | .probe c passed => Sys2Proof.Machine.execProbe c passed s
  | .retryClear c => Sys2Proof.Machine.execRetryClear c s
  | .sageUpdate c i2 p => Sys2Proof.Machine.execSageUpdate c i2 p s
  | .sageWindow c r valid => Sys2Proof.Machine.execSageWindow c r valid s
  | .sageStateSave => Sys2Proof.Machine.execSageStateSave s
  | .polarityImpulse c sign delay => Sys2Proof.Machine.execPolarityImpulse c sign delay s
  | .polarityResult c => Sys2Proof.Machine.execPolarityResult c s
  | .loadTestResult c rec => Sys2Proof.Machine.execLoadTestResult c rec s
  | .xbarRequest m r => Sys2Proof.Machine.execXbarRequest m r s
  | .burstGrant t => Sys2Proof.Machine.execBurstGrant t s
  | .masterResetDrain m => Sys2Proof.Machine.execMasterResetDrain m s
  | .swap m a => Sys2Proof.Machine.execSwap m a s
  | .fetchAdd m a => Sys2Proof.Machine.execFetchAdd m a s
  | .fetchAnd m a => Sys2Proof.Machine.execFetchAnd m a s
  | .fetchOr m a => Sys2Proof.Machine.execFetchOr m a s
  | .cas m a new => Sys2Proof.Machine.execCas m a new s
  | .dramRefresh rank burst waiting => Sys2Proof.Machine.execDramRefresh rank burst waiting s
  | .selfRefreshEntry rank => Sys2Proof.Machine.execSelfRefreshEntry rank s
  | .patrolScrub rank addr err last => Sys2Proof.Machine.execPatrolScrub rank addr err last s
  | .parityAlert rank addr m => Sys2Proof.Machine.execParityAlert rank addr m s
  | .migrationMibCopy uncorrectable spareFails => Sys2Proof.Machine.execMigrationMibCopy uncorrectable spareFails s
  | .rankMapSwitch => Sys2Proof.Machine.execRankMapSwitch s
  | .psWordWrite addr data failures corrected => Sys2Proof.Machine.execPsWordWrite addr data failures corrected s
  | .elapsedSecond temp => Sys2Proof.Machine.execElapsedSecond temp s
  | .elapsedRecordSave => Sys2Proof.Machine.execElapsedRecordSave s
  | .coreRailRecovery => Sys2Proof.Machine.execCoreRailRecovery s
  | .vbusOvClear v => Sys2Proof.Machine.execVbusOvClear v s
  | .syncReceiptTimeout port => Sys2Proof.Machine.execSyncReceiptTimeout port s
  | .pcieLinkDown => Sys2Proof.Machine.execPcieLinkDown s
  | .d3hotTransition d3 => Sys2Proof.Machine.execD3hotTransition d3 s
  | .msixMaskChange masks enable => Sys2Proof.Machine.execMsixMaskChange masks enable s
  | .transactionResponse m id => Sys2Proof.Machine.execTransactionResponse m id s
  | .tempStopRecovery src temp => Sys2Proof.Machine.execTempStopRecovery src temp s
  | .openLoadClear c => Sys2Proof.Machine.execOpenLoadClear c s
  | .dramHotChange hot => Sys2Proof.Machine.execDramHotChange hot s
  | .rowHammerWindowEnd => Sys2Proof.Machine.execRowHammerWindowEnd s
  | .pchVbusUpdate v => Sys2Proof.Machine.execPchVbusUpdate v s
  | .ledDarkPeriodEnd port => Sys2Proof.Machine.execLedDarkPeriodEnd port s
  | .ledBlinkToggle port => Sys2Proof.Machine.execLedBlinkToggle port s

end Sys2Proof.Machine
end

