-- ==== Sys2Proof/WellFormed.lean ====
section
/-! DEFINITION. Commands that the outside can send: the shapes that the types of `Instr` leave open. `exec` is total and
does not ask for them; a statement that needs one names it. -/

namespace Sys2Proof

/-- 40 bit streams of at most 128 bits each for the decimator island, none for another one (R340). -/
def streamsOk (i : Island) (l : List (List Bool)) : Bool :=
  match i with
  | .decim => l.length == 40 && l.all fun b => decide (b.length ≤ 128)
  | _ => l.isEmpty

/-- A frame holds at least its addresses, its type and the FCS (R149), and its tags fit. -/
def frameOk (f : Frame) : Bool := decide (18 ≤ f.len) && decide (f.vlans.length ≤ 2)

/-- A request moves at least one byte, and a write as many as it names (R417). -/
def xbarReqOk (r : XbarReq) : Bool :=
  decide (1 ≤ r.len) && match r.write with
    | some b => b.length == r.len
    | none => true

/-- Bytes the host returned: as many as were asked for (R106). -/
def readOk (n : Nat) : HostRead → Bool
  | .data b => b.length == n
  | .failed => true

/-- The well-formed commands. -/
def Instr.wf : Instr → Bool
  | .tickToken i _ _ streams => streamsOk i streams
  | .pdClassification _ _ p => p != 0
  | .registerWrite off _ => off.toNat % 4 == 0
  | .bar0BadAccess off size _ => decide (1 ≤ size) && (size != 4 || off.toNat % 4 != 0)
  | .counterLoRead off => off.toNat % 4 == 0
  | .pcieLinkTrained speed width => decide (1 ≤ speed.toNat ∧ speed.toNat ≤ 3) && (width == 1 || width == 2)
  | .functionFault _ cause => decide (1 ≤ cause.toNat ∧ cause.toNat ≤ 10)
  | .doorbellReadComplete _ h => readOk 272 h
  | .funcConfig _ d h => readOk (d.extractLsb' 192 32).toNat h
  | .loadImage _ d h => readOk (d.extractLsb' 192 32).toNat h
  | .frameReceive _ f => frameOk f
  | .forwardCommit _ f => frameOk f
  | .noardRequest _ _ _ pdu => decide (pdu.length ≤ 1500)
  | .refQualUpdate f p => f.length == 5 && p.length == 5
  | .tdmFrame _ _ _ _ slots => decide (slots.length ≤ 32)
  | .polarityImpulse _ sign _ => sign == 1 || sign == 0 || sign == 0xFF
  | .loadTestResult _ r => r.length == 16 || r.length == 544
  | .loadPortAccess _ _ _ w len => decide (1 ≤ len) && match w with
      | some b => b.length == len
      | none => true
  | .xbarRequest _ r => xbarReqOk r
  | _ => true

end Sys2Proof
end

