-- ==== Sys2Proof/Safety.lean ====
section
/-! DEFINITION. What a safe run is, the parts of the state that a statement's frame names, and the invariants. -/

namespace Sys2Proof.Machine

open Sys2Proof

/-- A step that answers a next state. -/
def Goes (s : State) : Prop := ∃ t, step s = .next t

/-! Frames. The state's parts; together with `pending` they are all of it. -/

/-- The parts a frame names: `jobs` with the model's own numbering, `taken` with the rings last served, `link` the
host registers that are in no other part, `svc` the service island but its Noard requests, `reqs` those. -/
inductive Part where
  | chip | funcs | params | live | writes | jobs | acts | rings | pages | taken | link | hostMem | reqs | svc
  | portA | portB | path | time | strm | lov | cores | loc | pwr | memc | mem | log | cnt | edges | free
  deriving DecidableEq, Repr

/-- The host registers but rings, pages, descriptors taken and host memory. -/
def HostSt.link (h : HostSt) : HostSt :=
  { h with rings := Vector.replicate 32 {}, hostPage := {}, tarrPage := {}, taken := [], lastServed := Vector.replicate 8 31, hostMem := [] }
/-- The service island but the requests being executed. -/
def SvcSt.rest (v : SvcSt) : SvcSt := { v with reqs := [] }

/-- Two states agree in a part. -/
def Part.same (s t : State) : Part → Prop
  | .chip => t.chip = s.chip
  | .funcs => t.life.funcs = s.life.funcs
  | .params => t.life.params = s.life.params
  | .live => t.life.live = s.life.live
  | .writes => t.life.writes = s.life.writes
  | .jobs => t.life.jobs = s.life.jobs ∧ t.life.nextUid = s.life.nextUid
  | .acts => t.life.acts = s.life.acts
  | .rings => t.host.rings = s.host.rings
  | .pages => t.host.hostPage = s.host.hostPage ∧ t.host.tarrPage = s.host.tarrPage
  | .taken => t.host.taken = s.host.taken ∧ t.host.lastServed = s.host.lastServed
  | .link => t.host.link = s.host.link
  | .hostMem => t.host.hostMem = s.host.hostMem
  | .reqs => t.svc.reqs = s.svc.reqs
  | .svc => t.svc.rest = s.svc.rest
  | .portA => t.net.a = s.net.a
  | .portB => t.net.b = s.net.b
  | .path => t.path = s.path
  | .time => t.time = s.time
  | .strm => t.strm = s.strm
  | .lov => t.lov = s.lov
  | .cores => t.cores = s.cores
  | .loc => t.loc = s.loc
  | .pwr => t.pwr = s.pwr
  | .memc => t.memc = s.memc
  | .mem => t.mem = s.mem
  | .log => t.log = s.log
  | .cnt => t.cnt = s.cnt
  | .edges => t.edges = s.edges
  | .free => t.free = s.free

/-! What no command undoes. -/

/-- Keys and security state from one state to a later one: PROVISIONED stays set, and with it the keys; a revoked slot
stays revoked; no minimum security version falls (R72, R137). -/
structure SvcSt.Later (v w : SvcSt) : Prop where
  prov : v.provisioned = true → w.provisioned = true
  keys : v.provisioned = true → w.noardKeys = v.noardKeys ∧ w.imageKeys = v.imageKeys ∧ w.debugKey = v.debugKey
  noard : ∀ i : Fin 4, v.noardRevoked.getLsbD i = true → w.noardRevoked.getLsbD i = true
  image : ∀ i : Fin 4, v.imageRevoked.getLsbD i = true → w.imageRevoked.getLsbD i = true
  minima : ∀ i : Fin 4, v.secMin[i].toNat ≤ w.secMin[i].toNat

/-- The fault log from one state to a later one: at most 8192 entries stay at most 8192, and none is lost but the
oldest of 8192 (R449, R451). -/
def LogSt.Later (l m : LogSt) : Prop :=
  l.entries.length ≤ 8192 → l.entries.length ≤ m.entries.length ∧ m.entries.length ≤ 8192

/-- No counter exceeds 2^48 - 1 (R444). -/
def CntSt.inRange (c : CntSt) : Prop := ∀ e ∈ c.vals, e.2 < 2 ^ 48

/-- What every command keeps in a part that it may change. -/
def Part.later (s t : State) : Part → Prop
  | .chip => t.chip.variant = s.chip.variant
  | .svc => s.svc.Later t.svc
  | .log => s.log.Later t.log
  | .cnt => s.cnt.inRange → t.cnt.inRange
  | .mem => Memory.wf s.mem = true → Memory.wf t.mem = true
  | _ => True

/-- `t` comes from `s` with changes in the listed parts only, each of a kind that commands make; the queue is the same. -/
structure Touch (ps : List Part) (s t : State) : Prop where
  queue : t.pending = s.pending
  frame : ∀ p : Part, p ∉ ps → p.same s t
  later : ∀ p : Part, p.later s t

/-- The command answers a next state that differs from `s` in the listed parts only, and `P` holds of it. -/
def Does (c : Instr) (s : State) (ps : List Part) (P : State → Prop) : Prop :=
  ∃ t, exec c s = .next t ∧ t.pending = s.pending ∧ (∀ p : Part, p ∉ ps → p.same s t) ∧ P t

/-! Boundaries. -/

/-- Nothing but the listed parts differs. -/
def Only (ps : List Part) (s t : State) : Prop := ∀ p : Part, p ∉ ps → p.same s t

/-- The state in which the effects of an island's next boundary, of tick `n`, take place: the boundary has begun there, and
the island's work sees that tick (R11, R12). -/
def opened (i : Island) (n : DWord) (s : State) : State := (openBoundary i n s).onTime fun x => { x with tick := n }

/-- While the token of island `i` is on its way the command is a part of its receipt: it answers a next state, in which `P`
holds of the state where the boundary's effects take place and of the state they leave (R11). A counter load among the
effects stands (R199). -/
def AtToken (c : Instr) (s : State) (i : Island) (P : State → State → Prop) : Prop :=
  ∀ n, s.tokenTick i = some n → ∃ t,
    exec c s = .next (if t.now = n then t.onTime fun x => { x with tick := s.now } else t) ∧
    t.pending = s.pending ∧ P (opened i n s) t

/-- The command belongs to island `i`'s next boundary: it changes nothing while no token is on its way (R11). -/
def DoesAt (c : Instr) (s : State) (i : Island) (P : State → State → Prop) : Prop :=
  AtToken c s i P ∧ (s.tokenTick i = none → exec c s = .next s)

/-- No scheduled action of the island is due (R251). -/
def State.noneDue (s : State) (i : Island) : Prop := ∀ a ∈ s.life.acts, a.due s = true → islandOf a.func ≠ i

/-- A request accepted behind the island's token of tick `after` is due (R14, R76). -/
def State.dueSince (s : State) (after : DWord) : Bool := after != s.now && decide ((s.now - after).toNat < 2 ^ 63)

/-! Counters. -/

/-- Counter `i` of block `f` has gone up by `n`, saturating, and no other counter has changed (R444). -/
def Counts (s t : State) (f i n : Nat) : Prop :=
  ∀ g j, j < 4096 → t.count g j = if g = f ∧ j = i then min (2 ^ 48 - 1) (s.count f i + n) else s.count g j

/-! What a descriptor leaves. -/

/-- The record of a descriptor that ends without a partial result (R101, R105). -/
def endRec (d : Desc) (idx : Word) (status : Byte) (done : Nat) (tick : DWord) : Rec :=
  { tag := tagOf d, status, uncertain := false, cause := 0, done := BitVec.ofNat 32 done, tick, irq := irqOf d, idx }
/-- `r` waits on ring `q`, behind the records that wait there but for those of its tick, which stand in ring order (R103);
the records that waited still do, on every ring. -/
def Ends (s t : State) (q : Fin 32) (r : Rec) : Prop :=
  (t.ring q).waiting = insertRec r (s.ring q).waiting ∧ ∀ p, p ≠ q → (t.ring p).waiting = (s.ring p).waiting
/-- The descriptor `d`, taken from ring `q` at position `idx`, has joined those in progress; no record is formed. -/
def Begins (s t : State) (q : Fin 32) (d : Desc) (idx : Word) : Prop :=
  (∃ j : Job, t.life.jobs = s.life.jobs ++ [j] ∧ j.ring = q ∧ j.idx = idx ∧ j.desc = d ∧ j.uid = s.life.nextUid ∧
    j.silent = false) ∧ t.host.rings = s.host.rings
/-- Exactly these bytes have been written, at the 64-bit address (R10). -/
def Wrote (s t : State) (a : Nat) (bs : List Byte) : Prop :=
  t.mem = (s.writeAt (BitVec.ofNat 64 a) bs).mem ∧ t.host.hostMem = (s.writeAt (BitVec.ofNat 64 a) bs).host.hostMem

/-- What an action that is due does at its boundary by its OP: a parameter write, a start, a stop, a DSYNC reset, the start of
an armed run, the start of a converter (R249, R250). Its SCHED then completes, with LATE_APPLIED where the action was late,
and with BAD_STATE where the function's state does not admit it. -/
def Applied (f : Func) (a : Action) (b t : State) : Prop :=
  let ends := fun (status : Byte) (done : Nat) => t.life.acts = b.life.acts.filter (· != a) ∧
    Ends b t a.ring { tag := a.tag, status, uncertain := false, cause := 0, done := BitVec.ofNat 32 done, tick := b.now, irq := a.irq, idx := a.idx }
  let ok : Byte := if a.late then 0x03 else 0x00
  (a.op = 1 → b.life? f = .off → ends 0x04 0) ∧
  (a.op = 1 → b.life? f ≠ .off → (a.late = true → writesCheck b [(a.pid.toNat, a.value)] = 0x00) →
    f = .decim ∨ f = .pdm ∨ f = .sage ∨ f = .streamTx ∨ f = .streamRx → a.reserved = false →
    ends ok 1 ∧ Only [.params, .acts, .rings, .reqs] b t ∧ t.life.params.get? a.pid.toNat = some a.value) ∧
  (a.op = 2 → b.life? f = .running → ends ok 1 ∧ Only [.acts, .rings, .reqs] b t) ∧
  (a.op = 2 → b.life? f = .off ∨ b.life? f = .stopping → ends 0x04 0 ∧ Only [.acts, .rings, .reqs] b t) ∧
  (a.op = 3 → b.life? f = .stopped → f ≠ .service → f ≠ .memctl → b.sageHeld f = false → ends ok 1 ∧ Only [.acts, .rings, .reqs] b t) ∧
  (a.op = 3 → b.life? f = .running → f ≠ .service → f ≠ .memctl → b.sageHeld f = false → f.hv = false → t.life? f = .stopping) ∧
  (a.op = 4 → f = .decim → b.running .decim = true → ends ok 1 ∧ Only [.acts, .rings, .reqs, .loc, .cnt] b t ∧ t.loc.syncTick = b.now) ∧
  (a.op = 4 → b.running .decim = false → ends 0x04 0 ∧ Only [.acts, .rings, .reqs] b t) ∧
  (∀ j, b.armed a = some j → a.op = 5 → ends ok 1 ∧ Only [.jobs, .acts, .rings, .reqs] b t ∧
    t.life.jobs = b.life.jobs.map (fun k => if k.uid = j.uid then { k with start := some b.now } else k)) ∧
  (a.op = 5 → b.armed a = none → ends 0x04 0 ∧ Only [.acts, .rings, .reqs] b t) ∧
  (∀ x : Fin 2, a.op = 6 → f = tdmFunc x →
    (b.life? f = .running → ends ok 1 ∧ Only [.acts, .rings, .reqs, .loc] b t ∧
      (b.tdmSlave x = false → (t.tdm x).clocks = true) ∧ (b.tdmSlave x = true → t.tdm x = b.tdm x)) ∧
    (b.life? f = .off ∨ b.life? f = .stopped ∨ b.life? f = .stopping ∨ b.life? f = .faulted →
      ends 0x04 0 ∧ Only [.acts, .rings, .reqs] b t))

/-! The supply. -/

/-- The ideal diodes conduct at each powered port whose interface voltage is not lower than the other powered port's by more
than 0.1 V (R41, R147). -/
def Carried (s : State) : Prop := ∀ p : Port, (s.port p).carrying = true ↔ (s.port p).powered = true ∧
  ((s.port (otherPort p)).powered = true → (s.port (otherPort p)).vin.toNat ≤ (s.port p).vin.toNat + 1)

/-! What a port sends. -/

/-- Queue `q` of a port with link takes one more frame of at most `n` octets (R155). -/
def Room (s : State) (p : Port) (q : Fin 8) (n : Nat) : Prop :=
  (s.port p).link = true ∧ (s.port p).queues[q].length < 16 ∧ lenSum (s.port p).queues[q] + n ≤ 16384
/-- One frame, of which `P` holds, has joined queue `q` of a port. -/
def Queued (s t : State) (p : Port) (q : Fin 8) (P : Frame → Prop) : Prop :=
  ∃ f, (t.port p).queues[q] = (s.port p).queues[q] ++ [f] ∧ P f

/-! A signal core at one bundle. -/

/-- Core `n` issues a bundle that a next one follows, with no trap or interrupt pending and no result due. -/
structure State.AtBundle (s : State) (n : Fin 16) : Prop where
  runs : s.issuing n = true
  notEnd : (s.core n).pc ≠ 0xFFF ∨ ((s.core n).inHandler = false ∧
    ∃ l, (s.core n).loops.head? = some l ∧ l.last = 0xFFF ∧ l.pass + 2 < l.count + l.stages)
  noDue : ∀ f ∈ (s.core n).flight, (s.core n).cycle + 1 < f.due
  noTrap : (s.core n).aovTrap = none ∧ (s.core n).xfTrap = false
  noIrq : (s.core n).inHandler = true ∨ (s.core n).irqEn &&& (s.core n).irqPend &&& 0x3E = 0 ∨ (s.core n).image.irqEntry = 0xFFFF

/-- Such a bundle, with a slot of stage `stg` that the loop in hand lets issue (R320, R338). -/
structure State.Ready (s : State) (n : Fin 16) (stg : Nat) : Prop extends State.AtBundle s n where
  legal : (s.core n).stageOk stg = true
  on : (s.core n).stageOn stg = true

/-- The bundle at the program counter is not the last one of a loop's body. -/
def Core.inside (c : Core) : Prop := c.inHandler = true ∨ ∀ l, c.loops.head? = some l → l.last ≠ c.pc

/-- The register that a name means now holds `v` (R292, R293). -/
def Core.setX (r : Fin 64) (v : Lanes) (c : Core) : Core :=
  if h : r.val < 32 then
    if c.inHandler then { c with shadow := { c.shadow with x := c.shadow.x.set r.val v h } }
    else { c with main := { c.main with x := c.main.x.set r.val v h } }
  else { c with xu := c.xu.set (c.phys r).val v (c.phys r).isLt }

/-- The bundle has issued without a branch. The next one follows it; at the end of a loop's body that is the first one of the
body's next pass, while the loop has one, with the window rotated where the loop asks for it (R293, R337). -/
def Core.goesOn (c : Core) : Core :=
  let on := { c with pc := c.pc + 1, cycle := c.cycle + 1 }
  match c.loops with
  | [] => on
  | l :: outer =>
    if c.inHandler = true ∨ l.last ≠ c.pc then on
    else
      let rotated := { on with rb := if l.rot then c.rb - 1 else c.rb }
      if l.pass + 2 < l.count + l.stages then { rotated with pc := l.first, loops := { l with pass := l.pass + 1 } :: outer }
      else { rotated with loops := outer }

/-- A command on core `n` leaves the core as `g` makes it and the rest of the machine as it is. -/
def Leaves (c : Instr) (s : State) (n : Fin 16) (g : Core → Core) : Prop :=
  exec c s = .next { s with cores := s.cores.set n.val (g s.cores[n]) n.isLt }

/-- Core `n` has entered its trap handler with a cause, in place of the bundle at its program counter, nothing of which takes
effect (R308, R319). -/
def Trapped (s t : State) (n : Fin 16) (cause : BitVec 4) : Prop :=
  t.core n = { s.core n with
    exec := .handler, pc := (s.core n).image.trapEntry.truncate 12, retPc := (s.core n).pc, retExec := (s.core n).exec
    trapHandler := true, trapTick := s.now, waitXf := none
    trap := BitVec.ofNat 32 (cause.toNat + 16 + 2 ^ 16 * (s.core n).pc.toNat)
    flight := (s.core n).flight.filter fun f => f.issued != (s.core n).cycle } ∧
  ∀ m, m ≠ n → t.core m = s.core m

/-! Invariants. -/

/-- The memory of the module is in its canonical form. -/
def MemInv (s : State) : Prop := Memory.wf s.mem = true
/-- The fault log holds at most its 8192 entries, and at least the factory's (R449). -/
def LogInv (s : State) : Prop := 1 ≤ s.log.entries.length ∧ s.log.entries.length ≤ 8192
/-- Counters are 48 bits wide (R444). -/
def CntInv (s : State) : Prop := s.cnt.inRange

end Sys2Proof.Machine
end

