-- ==== Sys2Proof/Certificates/Slice0/Obligations.lean ====
section
/-! DEFINITION. Statements for the provers. -/

open Sys2Proof Sys2Proof.Machine

/-- A step takes the command at the front of the queue and runs it with the queue's rest. -/
def Obligations.StepRunsFront : Prop :=
  ∀ (c : Instr) (rest : List Instr) (s : State),
    step { s with pending := c :: rest } = exec c { s with pending := rest }

/-- R73, R87, R124, R139, R166, R195, R229 with R8: a write to a field with no behaviour of its own puts its defined bits
into the field, where a read finds them, and changes nothing else; an unaligned offset changes nothing; nor does a write to
a register that is not among the plain ones. -/
def Obligations.PlainRegisterWrites : Prop := ∀ (s : State) (v : Word), 3 ≤ s.chip.stage.toNat →
  Does (.registerWrite 0x00018 v) s [.chip] (fun t =>
    t.chip = { s.chip with scratch := v } ∧ t.regRead 0x00018 = v) ∧
  Does (.registerWrite 0x01004 v) s [.link] (fun t =>
    t.host = { s.host with relaxed := v.getLsbD 0 } ∧ t.regRead 0x01004 = v &&& 1) ∧
  (∀ q : Fin 32, s.tarrRing q = false →
    Does (.registerWrite (BitVec.ofNat 20 (0x02014 + 0x40 * q.val)) v) s [.rings] (fun t =>
      t.ring q = { s.ring q with budget := v.truncate 8 } ∧ (∀ r, r ≠ q → t.ring r = s.ring r) ∧
      t.regRead (0x02014 + 0x40 * q.val) = v &&& 0xFF)) ∧
  (∀ q : Fin 32, s.tarrRing q = false → (s.ring q).enable = false → (s.ring q).draining = false →
    Does (.registerWrite (BitVec.ofNat 20 (0x02000 + 0x40 * q.val)) v) s [.rings] (fun t =>
      (∀ r, r ≠ q → t.ring r = s.ring r) ∧ t.regRead (0x02000 + 0x40 * q.val) = v &&& 0xFFFFFFC0 ∧
      t.regRead (0x02004 + 0x40 * q.val) = s.regRead (0x02004 + 0x40 * q.val))) ∧
  (s.host.fetch = false → Does (.registerWrite 0x02800 v) s [.link] (fun t =>
    t.regRead 0x02800 = v &&& 0xFFFFF000 ∧ t.regRead 0x02804 = s.regRead 0x02804 ∧
    t.regRead 0x02808 = s.regRead 0x02808 ∧ t.regRead 0x02810 = s.regRead 0x02810)) ∧
  Does (.registerWrite 0x03020 v) s [.time] (fun t =>
    t.time = { s.time with board := v &&& 0xFFFF } ∧ t.regRead 0x03020 = v &&& 0xFFFF) ∧
  Does (.registerWrite 0x0400C v) s [.portA] (fun t =>
    t.net.a = { s.net.a with vlan := v &&& 0x0FFF0003 } ∧ t.regRead 0x0400C = v &&& 0x0FFF0003) ∧
  Does (.registerWrite 0x05014 v) s [.portB] (fun t =>
    t.net.b = { s.net.b with led := v &&& 0x1F07 } ∧ t.regRead 0x05014 = v &&& 0x1F07) ∧
  Does (.registerWrite 0x06004 v) s [.path] (fun t =>
    t.path = { s.path with fwd := v &&& 7 } ∧ t.regRead 0x06004 = v &&& 7) ∧
  Does (.registerWrite 0x0F010 v) s [.svc] (fun t =>
    t.svc = { s.svc with keySel := v &&& 0x33 } ∧ t.regRead 0x0F010 = v &&& 0x33) ∧
  (∀ off : BitVec 20, off.toNat % 4 ≠ 0 → exec (.registerWrite off v) s = .next s) ∧
  exec (.registerWrite 0x00000 v) s = .next s ∧ exec (.registerWrite 0x03050 v) s = .next s ∧
  exec (.registerWrite 0x1FFFC v) s = .next s

/-- R64: before STAGE reaches 0x3, every block but GLOBAL and PCIE reads zero and ignores writes, without any other
effect of the access. -/
def Obligations.ClosedBlocks : Prop := ∀ s : State, s.chip.stage.toNat < 3 →
  (∀ off : Nat, 0x02000 ≤ off → s.regRead off = 0) ∧
  (∀ (off : BitVec 20) (v : Word), 0x02000 ≤ off.toNat → exec (.registerWrite off v) s = .next s) ∧
  (∀ v, exec (.timeCtrlWrite v) s = .next s) ∧ (∀ r v, exec (.pathTopoWrite r v) s = .next s) ∧
  (∀ off v, exec (.pchFswCtrlWrite off v) s = .next s) ∧ (∀ w v, exec (.lovClippedClear w v) s = .next s) ∧
  (∀ q v, exec (.ringEnable q v) s = .next s) ∧ (∀ q v, exec (.ringDisable q v) s = .next s) ∧
  (∀ p v, exec (.anegWrite p v) s = .next s) ∧ (∀ v, exec (.svcLock v) s = .next s) ∧
  (∀ n v, exec (.scDoorbell n v) s = .next s) ∧
  exec .timeTickLoRead s = .next { s with chip := { s.chip with bus := some 0, unsupported := false } } ∧
  exec .lovPeakRead s = .next { s with chip := { s.chip with bus := some 0, unsupported := false } } ∧
  exec .memcWorstRt0Read s = .next { s with chip := { s.chip with bus := some 0, unsupported := false } }

/-- R7, R87, R124, R139, R229, R255, R287, R317, R441, R442: a read with an effect returns the field and then clears it,
or captures or refills it as its block says, and changes nothing else. The data returned stand in `chip.bus`. Readings of
the model's in it: log 27. -/
def Obligations.ReadsWithEffect : Prop := ∀ s : State, 3 ≤ s.chip.stage.toNat →
  (let got := fun (w : Word) => { s.chip with bus := some w, unsupported := false }
   exec .ringFetchSkipRead s = .next { s with chip := got s.host.fetchSkip, host := { s.host with fetchSkip := 0 } } ∧
   exec .pcieHosterrCountRead s =
     .next { s with chip := got s.host.hostErrCount, host := { s.host with hostErrCount := 0 } } ∧
   (∀ i : Fin 5, Does (.svcNoardCountRead i) s [.chip, .svc] fun t =>
     t.chip = got s.svc.noardCnt[i] ∧ t.svc.noardCnt[i] = 0 ∧ (∀ j : Fin 5, j ≠ i → t.svc.noardCnt[j] = s.svc.noardCnt[j]) ∧
     t.svc = { s.svc with noardCnt := t.svc.noardCnt }) ∧
   exec .timeTickLoRead s = .next { s with
     chip := got (s.time.tick.truncate 32), time := { s.time with tickHi := (s.time.tick >>> 32).truncate 32 } } ∧
   (∀ (p : Port) (k : Fin 128), Does (.strmRxMarginRead p k) s [.chip, .strm] fun t =>
     t.chip.bus = some (BitVec.ofNat 32 ((s.rx p k.val).marginMin.toNat + (s.rx p k.val).marginLast.toNat * 65536)) ∧
     (t.rx p k.val).marginMin = 0x7FFF ∧ (t.rx p k.val).marginLast = 0x7FFF ∧ t.strm = { s.strm with rx := t.strm.rx } ∧
     (t.rx p k.val) = { s.rx p k.val with marginMin := 0x7FFF, marginLast := 0x7FFF }) ∧
   exec .lovPeakRead s =
     .next { s with chip := got (BitVec.ofNat 32 s.lov.peak), lov := { s.lov with peak := s.lov.active } } ∧
   (∀ n : Fin 16, Does (.scTaskMaxRead n) s [.chip, .cores] fun t =>
     t.chip = got (s.core n).taskMax ∧ t.core n = { s.core n with taskMax := 0 } ∧ ∀ m, m ≠ n → t.core m = s.core m) ∧
   exec .memcWorstRt0Read s =
     .next { s with chip := got (s.memc.worst.zeroExtend 32), memc := { s.memc with worst := 0 } } ∧
   (∀ m : Fin 13, Does (.xbarPeakRead m) s [.chip, .memc] fun t =>
     t.chip = got (BitVec.ofNat 32 s.memc.peak[m]) ∧ t.memc.peak[m] = s.memc.txns[m].length ∧
     t.memc = { s.memc with peak := t.memc.peak } ∧ ∀ j : Fin 13, j ≠ m → t.memc.peak[j] = s.memc.peak[j]) ∧
   exec .xbarErrCountRead s = .next { s with chip := got s.memc.errCount, memc := { s.memc with errCount := 0 } })

/-- R162 with R444: a read of a counter's LO register returns the low 32 bits of the whole counter, holds its upper 16
bits in the HI register and clears it to zero; the other counters keep their values. Shown for the counters of both ports,
of MEMC and of the cores. Readings of the model's in it: log 27. -/
def Obligations.CounterReads : Prop := ∀ s : State, 3 ≤ s.chip.stage.toNat →
  (∀ i : Fin 30, Does (.counterLoRead (BitVec.ofNat 20 (0x04100 + 8 * i.val))) s [.chip, .cnt] fun t =>
    t.chip.bus = some (BitVec.ofNat 32 (s.count 1 i.val)) ∧ t.count 1 i.val = 0 ∧
    t.regRead (0x04104 + 8 * i.val) = BitVec.ofNat 32 (s.count 1 i.val / 2 ^ 32 % 65536) ∧
    ∀ f j, j < 4096 → (f, j) ≠ (1, i.val) → t.count f j = s.count f j) ∧
  (∀ i : Fin 30, Does (.counterLoRead (BitVec.ofNat 20 (0x05100 + 8 * i.val))) s [.chip, .cnt] fun t =>
    t.chip.bus = some (BitVec.ofNat 32 (s.count 2 i.val)) ∧ t.count 2 i.val = 0 ∧
    ∀ f j, j < 4096 → (f, j) ≠ (2, i.val) → t.count f j = s.count f j) ∧
  (∀ i : Fin 11, Does (.counterLoRead (BitVec.ofNat 20 (0x0C100 + 8 * i.val))) s [.chip, .cnt] fun t =>
    t.chip.bus = some (BitVec.ofNat 32 (s.count 0x0D i.val)) ∧ t.count 0x0D i.val = 0) ∧
  (∀ (n : Fin 16) (i : Fin 7), Does (.counterLoRead (BitVec.ofNat 20 (0x10100 + 0x1000 * n.val + 8 * i.val))) s [.chip, .cnt] fun t =>
    t.chip.bus = some (BitVec.ofNat 32 (s.count (0x10 + n.val) i.val)) ∧ t.count (0x10 + n.val) i.val = 0)

/-- R73, R121, R168, R198, R229, R287, R374: the writes with an effect. PATH_TOPO and PATH_RING take a value only while
both paths are OFF or STOPPED; FS and HOLDOVER only while TIMEKEEPER is; PCH_FSW_CTRL and PCH_BAND_i only while no channel
switches (on the DQ41-P); W1C bits clear; an access of another size is an unsupported request. The
followed selection of PATH_TOPO is the model's reading (log 34). -/
def Obligations.WritesWithEffect : Prop := ∀ (s : State) (v : Word), 3 ≤ s.chip.stage.toNat →
  (∀ (off : BitVec 20) (size : Nat) (w : Bool), size ≠ 4 ∨ off.toNat % 4 ≠ 0 →
    exec (.bar0BadAccess off size w) s = .next { s with chip := { s.chip with bus := none, unsupported := true } }) ∧
  exec (.resetCauseClear v) s = .next { s with chip := { s.chip with resetCause := s.chip.resetCause &&& ~~~v } } ∧
  (∀ w : Fin 64, Does (.lovClippedClear w v) s [.lov] fun t =>
    t.lov.clipped[w] = s.lov.clipped[w] &&& ~~~v ∧ (∀ j : Fin 64, j ≠ w → t.lov.clipped[j] = s.lov.clipped[j]) ∧
    t.lov = { s.lov with clipped := t.lov.clipped }) ∧
  (s.life? .timekeeper = .stopped ∨ s.life? .timekeeper = .off → Does (.timeCtrlWrite v) s [.time] fun t =>
    t.regRead 0x03000 = (s.regRead 0x03000 &&& ~~~0x113) ||| (v &&& 0x113) ∧ t.time = { s.time with ctrl := t.time.ctrl }) ∧
  (s.running .timekeeper = true → Does (.timeCtrlWrite v) s [.time] fun t =>
    t.regRead 0x03000 = (s.regRead 0x03000 &&& ~~~0x100) ||| (v &&& 0x100) ∧ t.time = { s.time with ctrl := t.time.ctrl }) ∧
  (s.topoLocked = false → v &&& 3 ≠ 3 → Does (.pathTopoWrite false v) s [.path] fun t =>
    t.regRead 0x06000 = (s.regRead 0x06000 &&& ~~~0x13) ||| (v &&& 0x13) ∧
    t.path = { s.path with topo := t.path.topo, active := t.path.active, ilkLand := t.path.ilkLand } ∧
    (v &&& 3 ≠ 0 → t.path.active = s.path.active ∧ t.path.ilkLand = s.path.ilkLand)) ∧
  (s.topoLocked = false → 0x600 ≤ v.toNat % 65536 → Does (.pathTopoWrite true v) s [.path] fun t =>
    t.path = { s.path with ring := v &&& 0xFFFF }) ∧
  (s.topoLocked = true → ∀ r, exec (.pathTopoWrite r v) s = .next s) ∧
  (s.anySwitching = false → s.chip.variant = .p → Does (.pchFswCtrlWrite 0 v) s [.pwr] fun t =>
    t.pwr = { s.pwr with fswCtrl := v &&& 0x000703FF }) ∧
  (∀ i : Fin 4, s.anySwitching = false → s.chip.variant = .p →
    Does (.pchFswCtrlWrite (BitVec.ofNat 5 (0x10 + 4 * i.val)) v) s [.pwr] fun t =>
      t.pwr.bands[i] = v &&& 0x0FFFFFFF ∧ (∀ j : Fin 4, j ≠ i → t.pwr.bands[j] = s.pwr.bands[j]) ∧
      t.pwr = { s.pwr with bands := t.pwr.bands }) ∧
  (s.anySwitching = true → ∀ off, exec (.pchFswCtrlWrite off v) s = .next s)

/-- R62, R69, R72 (boot): from no line power, LINE_POWER_UP runs the boot from t = 0 to STAGE 0x3 with the strap sampled,
POR as the only reset cause, every function OFF but SERVICE, and POWER_CYCLES one higher; DRAM_TRAINED makes MEMCTL
RUNNING and reaches STAGE 0x4; BOOT_COMPLETE reaches STAGE 0x6 once autostart is done, passing STAGE 0x5 where there is
none (log 31). -/
def Obligations.BootCommands : Prop := ∀ s : State,
  (∀ (p : Port) (strap : BitVec 2), s.chip.supply = .off →
    Does (.linePowerUp p strap) s [.chip, .funcs, .params, .writes, .jobs, .acts, .rings, .pages, .taken, .link, .reqs, .svc,
      .portA, .portB, .path, .time, .strm, .lov, .cores, .loc, .pwr, .memc, .mem, .log, .cnt, .edges, .free] fun t =>
      t.chip.supply = .full ∧ t.chip.strap = strap ∧ t.chip.stage = 3 ∧ t.chip.resetCause = 1 ∧ t.chip.scratch = 0 ∧
      t.life? .service = .running ∧ (∀ f : Func, f ≠ .service → t.life? f = .off) ∧ t.log.cycles = satInc s.log.cycles) ∧
  (∀ (p : Port) (strap : BitVec 2), s.chip.supply ≠ .off → Does (.linePowerUp p strap) s [.portA, .portB] fun t =>
    t.port p = { s.port p with powered := true, carrying := (t.port p).carrying } ∧
    t.port (otherPort p) = { s.port (otherPort p) with carrying := (t.port (otherPort p)).carrying } ∧ Carried t) ∧
  (s.chip.supply ≠ .off → s.chip.stage = 3 → s.chip.resetting = false → Does .dramTrained s [.chip, .funcs, .params, .live, .writes, .jobs, .acts, .rings,
      .pages, .link, .reqs, .svc, .portA, .portB, .path, .time, .strm, .lov, .cores, .loc, .pwr, .memc, .mem, .log, .cnt, .edges,
      .free] fun t => t.chip.stage = 4 ∧ t.memc.selfRefresh = 0 ∧ t.life? .memctl = .running) ∧
  (s.chip.supply = .off ∨ s.chip.stage ≠ 3 ∨ s.chip.resetting = true → exec .dramTrained s = .next s) ∧
  (s.chip.stage = 4 ∨ s.chip.stage = 5 → s.chip.resetting = false → s.svc.autostart = [] → Does .bootComplete s [.chip, .svc] fun t =>
    t.chip = { s.chip with stage := 6 } ∧ t.svc = { s.svc with secMin := t.svc.secMin } ∧
    (∀ v, s.svc.bootPatchSec = some v → t.svc.secMin[1].toNat = max s.svc.secMin[1].toNat v.toNat) ∧
    (∀ v, s.svc.bootSettingsSec = some v → t.svc.secMin[3].toNat = max s.svc.secMin[3].toNat v.toNat) ∧
    t.svc.secMin[0] = s.svc.secMin[0] ∧ t.svc.secMin[2] = s.svc.secMin[2]) ∧
  (s.chip.stage = 5 → s.svc.autostart ≠ [] → exec .bootComplete s = .next s)

/-- R23, R24, R43, R45, R146, R147, R458: the supply and the ports' PD interfaces. A sag and its recovery change the stage
of the supply alone; the fall of the clocked rail takes both links down, and its return brings the high-voltage link
back if it had stayed up. The loss of both ports' power turns every function OFF and keeps the live parameters, the
log, the keys, the rank map and the parameter store; that DRAM then reads 0 is the model's choice (log 5). A port's
power, class and input voltage are its own; a short at VAUX is noted. -/
def Obligations.SupplyCommands : Prop := ∀ s : State,
  (s.chip.supply ≠ .off → s.chip.supply ≠ .clocked → ∀ d : SagDepth,
    exec (.coreRailSag d) s = .next { s with chip := { s.chip with supply := sagStage d } } ∧
    exec .coreRailRecovery s = .next { s with chip := { s.chip with supply := .full } }) ∧
  (s.chip.supply ≠ .off → Does .clockedRailFall s [.chip, .pages, .portA, .portB, .path, .cnt] fun t =>
    t.chip.supply = .clocked ∧ t.net.a.link = false ∧ t.net.b.link = false) ∧
  (s.chip.supply = .clocked → Does .clockedRailReturn s [.chip, .pages] fun t =>
    t.chip.supply = .stopped ∧ (s.chip.hvUp = true → t.chip.awake = true ∧ t.chip.linkUp = true) ∧
    (s.chip.hvUp = false → t.chip = { s.chip with supply := .stopped })) ∧
  Does .pdTurnOff s [.chip, .funcs, .params, .writes, .jobs, .acts, .rings, .pages, .taken, .link, .reqs, .svc, .portA,
      .portB, .path, .time, .strm, .lov, .cores, .loc, .pwr, .memc, .mem, .log, .cnt, .edges] (fun t =>
    t.chip.supply = .off ∧ t.net.a.powered = false ∧ t.net.b.powered = false ∧ t.chip.stage = 0 ∧
    (∀ f : Func, t.life? f = .off) ∧ t.life.live = s.life.live ∧ t.log.entries = s.log.entries ∧
    t.log.poweredS = s.log.poweredS ∧ t.svc.noardKeys = s.svc.noardKeys ∧ t.memc.rankMap = s.memc.rankMap ∧
    (∀ a, 0x1010000000 ≤ a → a < 0x1010400000 → memByte t.mem a = memByte s.mem a) ∧
    (∀ a, a < 0x1010000000 → memByte t.mem a = 0)) ∧
  (∀ p : Port, Does (.portPowerLoss p) s [.portA, .portB] fun t =>
    t.port p = { s.port p with powered := false, carrying := false, events := 0, pairsets := 0 } ∧
    t.port (otherPort p) = { s.port (otherPort p) with carrying := (s.port (otherPort p)).powered }) ∧
  (∀ (p : Port) (events : BitVec 3) (pairsets : BitVec 2), Does (.pdClassification p events pairsets) s [.portA, .portB] fun t =>
    t.port p = { s.port p with powered := true, events, pairsets, carrying := (t.port p).carrying } ∧
    t.port (otherPort p) = { s.port (otherPort p) with carrying := (t.port (otherPort p)).carrying } ∧ Carried t) ∧
  (∀ (p : Port) (vin : BitVec 12), Does (.pdVinUpdate p vin) s [.portA, .portB] fun t =>
    t.port p = { s.port p with vin, carrying := (t.port p).carrying } ∧
    t.port (otherPort p) = { s.port (otherPort p) with carrying := (t.port (otherPort p)).carrying } ∧ Carried t) ∧
  (∀ b : Bool, exec (.vauxShort b) s = .next { s with chip := { s.chip with vauxShort := b } })

/-- R25, R46-R48, R65-R67, R73, R85, R389: VBUS and the high-voltage side. VBUS is taken as measured; above 190 V every
bridge at work goes to the overvoltage short, whose end leaves the channel FAULTED with cause 0x06. A token time-out
begins a fast stop; a lost side faults its functions with cause 0x05; waking, its time-out and sleep change the link and
no function's life-cycle state. Readings of the model's in it: log 48. -/
def Obligations.HighVoltageSide : Prop := ∀ s : State,
  (∀ v : BitVec 16, exec (.vbusConnect v) s = .next { s with chip := { s.chip with vbus := v } }) ∧
  exec .vbusLoss s = .next { s with chip := { s.chip with vbus := 0, hvUp := false } } ∧
  (∀ v : BitVec 16, v.toInt < 0 → exec (.vbusReversed v) s = .next { s with chip := { s.chip with vbus := v, hvUp := false } }) ∧
  (∀ v : BitVec 16, 1900 < v.toInt → s.chip.variant = .p → Does (.vbusOvervoltage v) s [.chip, .pwr] fun t =>
    t.chip = { s.chip with vbus := v, vbusOv := true } ∧ t.pwr = { s.pwr with ch := t.pwr.ch } ∧
    ∀ c : Fin 4, ((s.pch c).phase = 0 → t.pch c = s.pch c) ∧ ((s.pch c).phase ≠ 0 → t.pch c = { s.pch c with
      phase := 7, vOut := 0, clip := false, prot := if (s.pch c).prot = 1 ∨ (s.pch c).prot = 2 then 0 else (s.pch c).prot })) ∧
  (∀ c : Fin 4, (s.pch c).phase = 7 → (s.life? (.pch c)).busy = true → Does (.ovShortRelease c) s [.funcs, .jobs, .acts, .rings,
      .pages, .link, .hostMem, .reqs, .portA, .portB, .path, .time, .strm, .lov, .cores, .loc, .pwr, .memc, .mem, .log, .cnt, .free]
    fun t => t.life? (.pch c) = .faulted ∧ (t.func (.pch c)).cause = 6 ∧ (t.pch c).phase = 0) ∧
  (Does .hvTokenTimeout s [.chip, .funcs, .pages, .pwr] fun t => t.chip = { s.chip with linkUp := false } ∧
    (∀ c : Fin 4, (s.life? (.pch c)).busy = false → t.pch c = s.pch c ∧ t.func (.pch c) = s.func (.pch c)) ∧
    (∀ c : Fin 4, (s.life? (.pch c)).busy = true → 2 ≤ (s.pch c).phase.toNat → (s.pch c).phase.toNat ≤ 5 →
      t.pch c = { s.pch c with phase := 6, cm := { (s.pch c).cm with up := true }, mark := s.now } ∧
      (t.func (.pch c)).fade.up = false) ∧
    (∀ c : Fin 4, (s.life? (.pch c)).busy = true → (s.pch c).phase.toNat ≤ 1 → (t.pch c).phase = 0 ∧ (t.pch c).vOut = 0)) ∧
  (s.chip.variant = .p → Does .hvLost s [.chip, .funcs, .jobs, .acts, .rings, .pages, .link, .hostMem, .reqs, .portA, .portB, .path,
      .time, .strm, .lov, .cores, .loc, .pwr, .memc, .mem, .log, .cnt, .free] fun t =>
    t.chip.awake = false ∧ t.chip.linkUp = false ∧ t.chip.waking = false ∧
    (∀ f : Func, f.hv = true → (s.life? f).busy = true ∨ s.life? f = .stopped → t.life? f = .faulted ∧ (t.func f).cause = 5) ∧
    (∀ f : Func, f.hv = false ∨ s.life? f = .off → t.life? f = s.life? f)) ∧
  (s.chip.waking = true → s.chip.hvUp = false → 240 ≤ s.chip.vbus.toInt → s.chip.variant = .p →
    Does .hvAwake s [.chip, .pages, .pwr, .log] fun t =>
      t.chip = { s.chip with waking := false, vbusReversed := false, hvUp := true, awake := true, linkUp := true } ∧
      t.log = { s.log with hvWakes := satInc s.log.hvWakes }) ∧
  (s.chip.waking = true → Does .hvWakeTimeout s [.chip, .funcs, .jobs, .acts, .rings, .pages, .link, .reqs, .svc, .log] fun t =>
    t.chip.waking = false ∧ ∀ f : Func, t.life? f = s.life? f) ∧
  (s.chip.awake = true → s.hvResting = true → s.msTicks 100 ≤ s.chip.hvIdle →
    Does .hvSleep s [.chip, .pages] fun t => t.chip = { s.chip with awake := false, linkUp := false, hvUp := false }) ∧
  (∀ v : BitVec 16, v.toInt < 1900 →
    exec (.vbusOvClear v) s = .next { s with chip := { s.chip with vbus := v, vbusOv := false } }) ∧
  (∀ v : BitVec 16, s.chip.awake = true →
    exec (.pchVbusUpdate v) s = .next { s with chip := { s.chip with pchVbus := v, vbus := v } })

/-- R82, R119, R121, R123, R124: the PCIe endpoint. PERST_N low resets the rings of the host and the endpoint; the
descriptors of those rings stop, bulk ones at a unit boundary, and what is left of them writes no record; no function
changes its life-cycle state. Readings of the model's in it: log 18, log 48. -/
def Obligations.PcieEndpoint : Prop := ∀ s : State,
  Does .perstNAssert s [.funcs, .writes, .jobs, .acts, .rings, .pages, .taken, .link, .hostMem, .reqs, .path, .time, .cores, .pwr,
      .memc, .mem, .cnt, .free] (fun t =>
    (∀ q : Fin 32, s.tarrRing q = false → t.ring q = resetRings[q]) ∧ (∀ q : Fin 32, s.tarrRing q = true → t.ring q = s.ring q) ∧
    t.host.perst = false ∧ t.host.linkUp = false ∧ t.host.bme = false ∧ t.host.fetch = false ∧ t.host.hostPage = {} ∧
    t.host.tarrPage = s.host.tarrPage ∧ t.host.msixMask = 0xFFFFFFFF ∧
    (∀ j ∈ t.life.jobs, s.tarrRing j.ring = false → j.silent = true ∧ j.op = 0x23) ∧ (∀ f : Func, t.life? f = s.life? f) ∧
    (∀ a ∈ t.life.acts, s.tarrRing a.ring = false → a.silent = true) ∧ t.life.acts.length = s.life.acts.length) ∧
  exec .perstNRelease s = .next { s with host := { s.host with perst := true } } ∧
  (∀ (speed : BitVec 3) (width : BitVec 4), s.host.perst = true → s.chip.supply ≠ .off → 1 ≤ speed.toNat → speed.toNat ≤ 3 →
    width = 1 ∨ width = 2 →
    exec (.pcieLinkTrained speed width) s = .next { s with host := { s.host with linkUp := true, speed, width } }) ∧
  exec .pcieLinkDown s = .next { s with host := { s.host with linkUp := false, speed := 0, width := 0 } } ∧
  (∀ b : Bool, exec (.bmeChange b) s = .next { s with host := { s.host with bme := b } }) ∧
  (∀ b : Bool, exec (.d3hotTransition b) s = .next { s with host := { s.host with d3 := b } }) ∧
  (∀ masks : Word, exec (.msixMaskChange masks true) s = .next { s with host := { s.host with
      msixMask := masks, msixEnable := true, msixSent := s.host.msixPend &&& ~~~masks,
      msixPend := s.host.msixPend &&& ~~~(s.host.msixPend &&& ~~~masks) } }) ∧
  (∀ masks : Word, exec (.msixMaskChange masks false) s = .next { s with host := { s.host with
      msixMask := masks, msixEnable := false, msixSent := 0 } })

/-- R81, R83: a module reset. A request stops fetching and asks every function at work to stop; the islands are reset once
everything has stopped, the cause bits are set and the boot runs again, without the settings of a line power-up. Readings
of the model's in it: log 22. -/
def Obligations.Resets : Prop := ∀ s : State,
  (∀ v : Word, v &&& 0xFFFF = 0xD041 → s.chip.supply ≠ .off → s.chip.resetting = false → Does (.softReset v) s [.chip, .funcs, .link, .svc] fun t =>
    t.chip.resetting = true ∧ t.chip.resetBits = 2 ∧ t.chip.resetAt = s.now ∧ t.host.fetch = false ∧
    ∀ f : Func, t.life? f = s.life? f ∧
      (s.life? f = .running → f ≠ .sage → f ≠ .service → f ≠ .memctl → (t.func f).stopReq = true)) ∧
  (∀ v : Word, v &&& 0xFFFF ≠ 0xD041 → exec (.softReset v) s = .next s) ∧
  (s.svc.provisioned = false ∨ s.svc.jtagOpen = true → s.chip.supply ≠ .off → s.chip.resetting = false → Does .jtagReset s [.chip, .funcs, .link, .svc] fun t =>
    t.chip.resetting = true ∧ t.chip.resetBits = 8 ∧ t.host.fetch = false) ∧
  (s.svc.provisioned = true → s.svc.jtagOpen = false → exec .jtagReset s = .next s) ∧
  (s.chip.supply ≠ .off → s.chip.resetting = true → ∀ v : Word, v &&& 0xFFFF = 0xD041 →
    exec (.softReset v) s = .next { s with chip := { s.chip with resetBits := s.chip.resetBits ||| 2 } }) ∧
  (noardResetDue s = true → s.chip.supply ≠ .off → s.chip.resetting = false → Does .noardResetAccept s [.chip, .funcs, .link, .svc] fun t =>
    t.chip.resetting = true ∧ t.chip.resetBits = 4 ∧ t.chip.noardReset = none) ∧
  (s.chip.resetting = true → s.msTicks 200 ≤ (s.now - s.chip.resetAt).toNat →
    Does .resetStopTimeout s [.funcs, .params, .jobs, .acts, .rings, .link, .reqs, .portA, .portB, .path, .time, .strm, .lov,
      .cores, .loc, .pwr, .memc, .mem, .cnt] fun t =>
      (∀ f : Func, f.hv = true ∨ f = .service ∨ f = .memctl ∨ (s.life? f).busy = false → t.life? f = s.life? f) ∧
      (∀ f : Func, f.hv = false → f ≠ .service → f ≠ .memctl → (s.life? f).busy = true → t.life? f = .stopped ∨ t.life? f = .off) ∧
      (∀ c : Fin 4, (s.life? (.pch c)).busy = true → 2 ≤ (s.pch c).phase.toNat → (s.pch c).phase.toNat ≤ 5 → (t.pch c).phase = 6)) ∧
  (∀ strap : BitVec 2, s.chip.supply ≠ .off → s.chip.resetting = true → s.allStopped = true →
    Does (.resetIslands strap) s [.chip, .funcs, .params, .writes, .jobs, .acts, .rings, .pages, .taken, .link, .reqs, .svc,
      .portA, .portB, .path, .time, .strm, .lov, .cores, .loc, .pwr, .memc, .mem, .log, .cnt, .edges, .free] fun t =>
      t.chip.resetting = false ∧ t.chip.strap = strap ∧ t.chip.stage = 3 ∧ t.chip.scratch = s.chip.scratch ∧
      t.chip.resetCause = s.chip.resetCause ||| s.chip.resetBits ∧ t.chip.supply = s.chip.supply ∧ t.time.tick = s.time.tick ∧
      t.life? .service = .running ∧ (∀ f : Func, f ≠ .service → t.life? f = .off) ∧
      (∀ a, a < 0x180000000 → memByte t.mem a = memByte s.mem a) ∧ t.log.cycles = s.log.cycles) ∧
  (s.chip.supply ≠ .off → Does .svcWatchdogRestart s [.chip, .funcs, .writes, .jobs, .acts, .rings, .pages, .taken, .link, .hostMem,
      .reqs, .svc, .path, .time, .cores, .pwr, .memc, .mem, .cnt, .free] fun t =>
    t.chip.resetCause = s.chip.resetCause ||| 0x10 ∧ t.svc.reqs = [] ∧ t.host.taken = [] ∧ t.life.writes = [] ∧
    t.time.accept = none ∧ t.path.request = [] ∧ t.svc.noardKeys = s.svc.noardKeys ∧
    t.life.jobs = [] ∧ t.life.acts = [] ∧ ∀ f : Func, t.life? f = s.life? f)

/-- R449-R451, R453, R454 (the log and elapsed time): once a second POWERED_S counts, HV_AWAKE_S while the high-voltage side is
awake, SWITCH_S while a channel switches, and the highest temperature is kept; the record is saved in the parameter store.
The entry that reports the entries dropped, code 0x0D with their number, stands in front of the newest 8191 others; the number
starts again at 0. -/
def Obligations.LogRecords : Prop := ∀ s : State,
  (s.chip.supply ≠ .off → ∀ temp : BitVec 16, Does (.elapsedSecond temp) s [.svc, .time, .mem, .log] fun t =>
    (s.log.poweredS.toNat + 1 < 2 ^ 64 → t.log.poweredS = s.log.poweredS + 1) ∧
    (s.chip.awake = false → t.log.hvAwakeS = s.log.hvAwakeS) ∧ (s.anySwitching = false → t.log.switchS = s.log.switchS) ∧
    t.log.entries = s.log.entries ∧ t.log.cycles = s.log.cycles ∧ t.log.second = 0 ∧
    (s.log.tPeak.toInt < temp.toInt → t.log.tPeak = temp) ∧ (temp.toInt ≤ s.log.tPeak.toInt → t.log.tPeak = s.log.tPeak)) ∧
  (s.chip.supply ≠ .off → Does .elapsedRecordSave s [.mem] fun t =>
    t.read recordBase s.recordBytes.length = s.recordBytes ∧
    ∀ a, a < recordBase ∨ recordBase + s.recordBytes.length ≤ a → memByte t.mem a = memByte s.mem a) ∧
  (s.log.dropped ≠ 0 → s.log.second < 1000 → Does .logDropReport s [.pages, .log] fun t => t.log.dropped = 0 ∧
    t.log.entries.head?.map (fun e => (e.code, e.data)) = some (0x0D, BitVec.ofNat 64 s.log.dropped) ∧
    t.log.entries.tail = s.log.entries.take 8191)

/-- R95, R98-R100 (taking): a served descriptor either was taken before, and leaves the list of those taken, or is taken
now, once a doorbell has shown it: its position is RING_SQ_CI, which counts one up, within the budget in force. Nothing
but the ring's counts, its page and the lists of taking change; no record is formed; an ORDERED one waits for the earlier
ones of its ring. Readings of the model's in it: log 3. -/
def Obligations.Taking : Prop := ∀ (s t : State) (q : Fin 32) (d : Desc) (idx : Word), s.serving q d = some (idx, t) →
  t.life = s.life ∧ t.mem = s.mem ∧ t.svc = s.svc ∧ t.chip = s.chip ∧ t.pending = s.pending ∧
  (∀ p, (t.ring p).waiting = (s.ring p).waiting) ∧ (∀ p, p ≠ q → t.ring p = s.ring p) ∧
  (s.firstTaken q = none → idx = (s.ring q).sqCi ∧ (t.ring q).sqCi = (s.ring q).sqCi + 1 ∧ t.host.taken = s.host.taken ∧
    (s.ring q).enable = true ∧ (s.ring q).taken < (s.ring q).budgetNow.toNat ∧ (s.ring q).pendingCount ≠ 0 ∧
    s.takenNow < 32 ∧ s.unservedHere q = false ∧ (s.ring q).full = false) ∧
  (∀ r, s.firstTaken q = some (r, idx, d) → t.ring q = s.ring q ∧ t.host.taken.length + 1 = s.host.taken.length) ∧
  (orderedOf d = true → s.earlier q = false)

/-- R9, R101, R105, R109, R115, R117, R118, R265, R445, R446, R452: the descriptors that complete at once form one
completion record, on their own ring, with their TAG, STATUS OK, the units done and the tick, and write their result at
the address they give; a descriptor whose fields the rules do not allow completes with BAD_DESC and does nothing else.
Readings of the model's in it: log 3, log 46. -/
def Obligations.DescriptorsAtOnce : Prop :=
  ∀ (s s1 : State) (q : Fin 32) (d : Desc) (idx : Word), s.serving q d = some (idx, s1) →
  s.svc.hostless = false ∨ s.tarrRing q = true ∨ clearOfStaging d = true →
  (opcodeOf d = 0x00 → (headerOk d false false && payloadOk d [] && noFunc d) = true →
    Does (.nop q d) s [.rings, .pages, .taken, .reqs] fun t => Ends s t q (endRec d idx 0x00 1 s.now)) ∧
  (opcodeOf d = 0x00 → (headerOk d false false && payloadOk d [] && noFunc d) = false →
    Does (.nop q d) s [.rings, .pages, .taken, .reqs] fun t => Ends s t q (endRec d idx 0x05 0 s.now)) ∧
  (opcodeOf d = 0x13 → (headerOk d false false && payloadOk d [(16, 8)] && addrOk (fld d 16 8) 16 && funcOk d) = true →
    s.busWait (fld d 16 8) = false → s.dstOk (fld d 16 8) 16 = true → ∀ f : Func, descFunc d = some f →
    Does (.funcQuery q d) s [.rings, .pages, .taken, .hostMem, .reqs, .memc, .mem] fun t =>
      Ends s t q (endRec d idx 0x00 1 s.now) ∧ Wrote s t (fld d 16 8) (queryRecord s f)) ∧
  (opcodeOf d = 0x32 → (headerOk d false false && noFunc d && payloadOk d [(16, 8)] && addrOk (fld d 16 8) 8) = true →
    s.busWait (fld d 16 8) = false → s1.dstOk (fld d 16 8) (timeRecord s1).length = true →
    Does (.timeQuery q d) s [.rings, .pages, .taken, .hostMem, .reqs, .memc, .mem] fun t =>
      Ends s t q (endRec d idx 0x00 1 s.now) ∧ Wrote s t (fld d 16 8) (timeRecord s1)) ∧
  (∀ l, readEntries d = some l → opcodeOf d = 0x03 →
    (headerOk d false false && noFunc d && payloadOk d [(16, 24), (40, 8)] && addrOk (fld d 40 8) 4) = true → (∀ p ∈ l, readCheck s1 p = 0x00) → l ≠ [] → s.busWait (fld d 40 8) = false →
    s1.writable (fld d 40 8) (4 * l.length) = 4 * l.length →
    Does (.paramRead q d) s [.rings, .pages, .taken, .hostMem, .reqs, .memc, .mem, .free] fun t =>
      Ends s t q (endRec d idx 0x00 l.length s.now) ∧
      Wrote s t (fld d 40 8) (l.flatMap fun p => leBytes 4 (paramValue s1 (pidFunc p) (p % 2 ^ 24)).toNat)) ∧
  (opcodeOf d = 0x41 → routeReadForm d = true → s.busWait (fld d 16 8) = false → s.life? .lovage ≠ .off → fld d 28 1 = 0 →
    1 ≤ fld d 32 4 → s1.writable (fld d 16 8) 16 = 16 →
    Does (.routeRead q d) s [.rings, .pages, .taken, .hostMem, .reqs, .memc, .mem, .free] fun t =>
      Ends s t q (endRec d idx 0x00 1 s.now) ∧ Wrote s t (fld d 16 8) (routeRecord s1 (xpKey (fld d 24 2) (fld d 26 2)))) ∧
  (∀ keys, keys = (s.lov.xp.filter fun e => e.2.active &&
      (if fld d 28 1 = 1 then e.1 / 2048 == fld d 24 2 else e.1 % 2048 == fld d 24 2)).map (·.1) →
    opcodeOf d = 0x41 → routeReadForm d = true → s.busWait (fld d 16 8) = false → s.life? .lovage ≠ .off →
    fld d 28 1 ≠ 0 → keys.length ≤ fld d 32 4 → s1.writable (fld d 16 8) (16 * keys.length) = 16 * keys.length →
    Does (.routeRead q d) s [.rings, .pages, .taken, .hostMem, .reqs, .memc, .mem, .free] fun t =>
      Ends s t q (endRec d idx 0x00 keys.length s.now) ∧ Wrote s t (fld d 16 8) (keys.flatMap (routeRecord s1))) ∧
  (∀ f : Func, opcodeOf d = 0x30 → (headerOk d true false && payloadOk d [(16, 8), (24, 4)] && addrOk (fld d 16 8) 8 && funcOk d) = true →
    s.busWait (fld d 16 8) = false → descFunc d = some f → s.absent f = false → f ≠ .service →
    s1.writable (fld d 16 8) (8 * min (fld d 24 4) (statKeys s f).length) = 8 * min (fld d 24 4) (statKeys s f).length →
    Does (.statsRead q d) s [.rings, .pages, .taken, .hostMem, .reqs, .memc, .mem, .svc, .cnt] fun t =>
      Ends s t q (endRec d idx 0x00 (min (fld d 24 4) (statKeys s f).length) s.now) ∧
      Wrote s t (fld d 16 8) (((statKeys s f).take (fld d 24 4)).flatMap fun k => leBytes 8 (s.count k.1 k.2)) ∧
      (optOf d = false → t.cnt = s.cnt) ∧ (optOf d = true → ∀ k ∈ statKeys s f, t.count k.1 k.2 = 0)) ∧
  (∀ l, l = (s.log.entries.reverse.filter fun e => decide ((e.seq - BitVec.ofNat 32 (fld d 24 4)).toNat < 2 ^ 31)).take (fld d 28 4) →
    opcodeOf d = 0x31 → (headerOk d false false && noFunc d && payloadOk d [(16, 8), (24, 4), (28, 4)] && addrOk (fld d 16 8) 8) = true →
    s.busWait (fld d 16 8) = false → (∀ e, s.log.entries.head? = some e → 2 ^ 31 ≤ (BitVec.ofNat 32 (fld d 24 4) - (e.seq + 1)).toNat) →
    s.log.entries ≠ [] →
    s1.writable (fld d 16 8) (32 * l.length) = 32 * l.length →
    Does (.logRead q d) s [.rings, .pages, .taken, .hostMem, .reqs, .memc, .mem] fun t =>
      Ends s t q (endRec d idx 0x00 l.length s.now) ∧ Wrote s t (fld d 16 8) (l.flatMap (·.bytes)))

/-- R14, R100, R108-R111, R116, R193, R215, R262, R433: the descriptors that wait for a boundary or for other work. A
FENCE waits for the jobs of its mask taken before it that record; PARAM_WRITE and ROUTE_SET hold their writes in order,
each behind the token its island has had; SCHED holds an action with its tick; SCHED_CANCEL removes one, which completes
as cancelled; TIME_STEP_ACCEPT, PATH_SWITCH and MEM_RETIRE hold their request. Readings of the model's in it: log 3, log
52. -/
def Obligations.DescriptorsThatWait : Prop :=
  ∀ (s s1 : State) (q : Fin 32) (d : Desc) (idx : Word), s.serving q d = some (idx, s1) →
  s.svc.hostless = false ∨ s.tarrRing q = true ∨ clearOfStaging d = true →
  (∀ waits, waits = (s.life.jobs.filter fun j => fenceMask q d j.ring && !j.silent &&
      idxBefore j.idx (((s1.ring q).fenceAt[j.ring.val]?).getD 0)).map (·.uid) →
    opcodeOf d = 0x01 → s.unserved q d = false → (headerOk d false false && payloadOk d [(16, 4)] && noFunc d) = true →
    Does (.fence q d) s [.jobs, .rings, .pages, .taken, .reqs] fun t =>
      (waits = [] → Ends s t q (endRec d idx 0x00 1 s.now)) ∧
      (waits ≠ [] → Begins s1 t q d idx ∧ ∃ k ∈ t.life.jobs, k.desc = d ∧ k.uid = s.life.nextUid ∧ k.waits = waits)) ∧
  (∀ l, writeEntries d = some l → opcodeOf d = 0x02 → (headerOk d false false && noFunc d) = true → writesCheck s1 l = 0x00 →
    l ≠ [] → (∀ e ∈ l, (s.life? (pidFunc e.1)).busy = true) → (∀ j ∈ s.life.jobs, j.op ≠ 0x02 ∧ j.op ≠ 0x40) →
    Does (.paramWrite q d) s [.jobs, .writes, .rings, .pages, .taken] fun t => Begins s1 t q d idx ∧
      t.life.writes.map (fun w => (w.pid, w.value, w.after)) = s.life.writes.map (fun w => (w.pid, w.value, w.after)) ++
        l.map fun e => (BitVec.ofNat 32 e.1, e.2, s.lastTok (islandOf (pidFunc e.1)))) ∧
  (∀ l, inlineEntries d = some l → opcodeOf d = 0x40 → routeForm d = true → optOf d = false → routesCheck s1 l = 0x00 →
    l ≠ [] → (s.life? .lovage).busy = true → (∀ j ∈ s.life.jobs, j.op ≠ 0x02 ∧ j.op ≠ 0x40) →
    Does (.routeSet q d .failed) s [.jobs, .writes, .rings, .pages, .taken] fun t => Begins s1 t q d idx ∧
      t.life.writes.map (fun w => (w.pid, w.value)) = s.life.writes.map (fun w => (w.pid, w.value)) ++
        l.map fun e => (BitVec.ofNat 32 (entryWrite e).1, (entryWrite e).2)) ∧
  (∀ f : Func, opcodeOf d = 0x04 → schedForm d = true → descFunc d = some f → s.absent f = false → schedCheck s1 d = 0x00 →
    fld d 20 4 ≠ 0 → (∀ b ∈ s1.pendingActs f, b.id ≠ BitVec.ofNat 32 (fld d 20 4)) →
    s1.now.toNat + 2 ≤ (s1.tickAt (BitVec.ofNat 64 (fld d 8 8))).toNat → (s1.pendingActs f).length < 256 → schedOp d ≠ 1 →
    (s.ring q).draining = false →
    Does (.sched q d) s [.acts, .rings, .pages, .taken] fun t => t.host.rings = s1.host.rings ∧
      ∃ a : Action, t.life.acts = s.life.acts ++ [a] ∧ a.func = f ∧ a.id = BitVec.ofNat 32 (fld d 20 4) ∧
        a.nT = s1.tickAt (BitVec.ofNat 64 (fld d 8 8)) ∧ a.op.toNat = schedOp d ∧ a.ring = q ∧ a.idx = idx ∧
        a.late = false ∧ a.applied = false) ∧
  (∀ (f : Func) (a : Action), opcodeOf d = 0x05 → (headerOk d false false && payloadOk d [(20, 4)] && funcOk d) = true →
    descFunc d = some f → s.absent f = false → (s.pendingActs f).find? (fun a => a.id.toNat == fld d 20 4) = some a →
    s.now.toNat + 2 ≤ a.nT.toNat → a.silent = false →
    Does (.schedCancel q d) s [.acts, .rings, .pages, .taken, .reqs] fun t =>
      t.life.acts = s.life.acts.filter (· != a) ∧ endRec d idx 0x00 1 s.now ∈ (t.ring q).waiting ∧
      { tag := a.tag, status := 0x08, uncertain := false, cause := 0, done := 0, tick := s.now, irq := a.irq, idx := a.idx : Rec } ∈
        (t.ring a.ring).waiting) ∧
  (opcodeOf d = 0x33 → (headerOk d false false && noFunc d && payloadOk d [(16, 4)]) = true → s.time.stepId ≠ 0 →
    fld d 16 4 = s.time.stepId.toNat → s.time.accept = none →
    Does (.timeStepAccept q d) s [.jobs, .rings, .pages, .taken, .time] fun t => Begins s1 t q d idx ∧
      t.time = { s.time with accept := some s.life.nextUid }) ∧
  (∀ p : Port, opcodeOf d = 0x34 → (headerOk d true false && payloadOk d [] && (funcByte d == 1 || funcByte d == 2)) = true →
    s.topo ≠ 0 → s.path.ext = false → s.path.ilk.getLsbD 0 = false → s.path.unsync = none → funcByte d = 1 + BitVec.ofNat 8 (pathIx p) →
    (s.path.active ≠ p → s.role p = .inStep ∨ (s.role p = .resync ∧ optOf d = true) →
      Does (.pathSwitch q d) s [.jobs, .rings, .pages, .taken, .path] fun t => Begins s1 t q d idx ∧
        t.path = { s.path with request := s.path.request ++ [(s.life.nextUid, p, optOf d)] }) ∧
    (s.path.active = p → Does (.pathSwitch q d) s [.rings, .pages, .taken, .reqs] fun t =>
      Ends s t q (endRec d idx 0x00 1 s.now))) ∧
  (∀ r : Fin 4, opcodeOf d = 0x50 → (headerOk d false false && payloadOk d [(16, 1), (17, 1)] && funcByte d == 0x0D &&
      1 ≤ fld d 17 1 && fld d 17 1 ≤ 16) = true → fld d 16 1 = r.val → s.memc.ranks[r] = 0 → s.memc.spareValid = true →
    s.memc.mig = none → Does (.memRetire q d) s [.jobs, .rings, .pages, .taken, .memc, .log] fun t =>
      t.memc.ranks[r] = 2 ∧ t.memc.mig = some { rank := r, share := fld d 17 1, job := some s.life.nextUid } ∧
      ∃ j : Job, t.life.jobs = s.life.jobs ++ [j] ∧ j.desc = d ∧ j.uid = s.life.nextUid)

/-- R14, R100, R108, R110, R248-R251: what waits takes effect at its boundary. A FENCE completes once all it waited for
has. The waiting writes of a function take effect together, behind the actions due. A scheduled action whose tick has come
is applied as its OP says and its SCHED completes, one applied late with LATE_APPLIED. Readings of the model's in it: log
52. -/
def Obligations.WaitingEffects : Prop := ∀ s : State,
  (∀ (q : Fin 32) (j : Job), s.job? (fun j => j.op == 0x01 && j.ring == q) = some j → fenceDone s j = true →
    Does (.fenceComplete q) s [.jobs, .rings, .reqs] fun t =>
      t.life.jobs = s.life.jobs.filter (fun k => k.uid != j.uid) ∧
      (j.silent = false → Ends s t j.ring (endRec j.desc j.idx 0x00 1 s.now)) ∧
      (j.silent = true → t.host.rings = s.host.rings)) ∧
  (∀ f : Func, DoesAt (.paramWriteEffect f) s (islandOf f) fun b t => b.noneDue (islandOf f) →
    t.life.writes = b.life.writes.filter (fun w => !w.due b f) ∧
    ((∀ w ∈ b.life.writes, w.due b f = false) → t = b) ∧
    (∀ w : PWrite, (b.life.writes.filter (·.due b f)).getLast? = some w → b.life? f ≠ .off → f ≠ .service →
      f ≠ .lovage → ¬(f = .timekeeper ∧ w.pid.toNat % 2 ^ 24 = 18) → t.life.params.get? w.pid.toNat = some w.value)) ∧
  (∀ (f : Func) (id : Word), DoesAt (.schedActionApply f id) s (islandOf f) fun b t =>
    (b.dueAct f id (fun _ => true) = none → t = b) ∧
    ∀ a : Action, b.dueAct f id (fun _ => true) = some a → a.silent = false → Applied f a b t) ∧
  (∀ (f : Func) (id : Word), DoesAt (.lateActionApply f id) s (islandOf f) fun b t =>
    (b.dueAct f id (·.late) = none → t = b) ∧
    ∀ a : Action, b.dueAct f id (·.late) = some a → a.silent = false → Applied f a b t)

/-- R88-R90: ENABLE of an idle ring with legal sizes zeroes its counts and uses no earlier doorbell value, nor a read
issued before it; a size outside 4 to 16, or page addresses not set, is error 0x3 or 0x4; clearing ENABLE drains the ring:
a FENCE and the bulk descriptors in progress end, with the rest of the ring's the ring then is disabled. Readings of the
model's in it: log 54. -/
def Obligations.RingSwitching : Prop := ∀ (s : State) (q : Fin 32) (v : Word), 3 ≤ s.chip.stage.toNat → s.tarrRing q = false →
  (v.getLsbD 0 = true → (s.ring q).enable = false → (s.ring q).draining = false →
    Does (.ringEnable q v) s [.rings, .pages] fun t => (∀ p, p ≠ q → t.ring p = s.ring p) ∧ (t.ring q).enable = true ∧
      (t.ring q).sqLog = v.extractLsb' 4 5 ∧ (t.ring q).cqLog = v.extractLsb' 12 5 ∧ (t.ring q).prio = v.extractLsb' 20 3 ∧
      (t.ring q).vec = v.extractLsb' 24 5 ∧ (t.ring q).irqAll = v.getLsbD 1 ∧
      (t.ring q).waiting = (s.ring q).waiting ∧ (t.ring q).seen = false ∧ t.host.hostPage.fresh.getLsbD q.val = false ∧
      (sizeOk (v.extractLsb' 4 5) = false → (t.ring q).err = 3 ∧ (t.ring q).state = 3) ∧
      (sizeOk (v.extractLsb' 4 5) = true → sizeOk (v.extractLsb' 12 5) = true →
        (s.host.dbAddr = 0 ∨ s.host.stAddr = 0 → (t.ring q).err = 4) ∧
        (s.host.dbAddr ≠ 0 → s.host.stAddr ≠ 0 → (t.ring q).err = 0 ∧ (t.ring q).sqCi = 0 ∧ (t.ring q).cqPi = 0 ∧
          (t.ring q).state = 1))) ∧
  (v.getLsbD 0 = true → (s.ring q).enable = true ∨ (s.ring q).draining = true → exec (.ringEnable q v) s = .next s) ∧
  (v.getLsbD 0 = false → (s.ring q).enable = true → (s.ring q).draining = false →
    Does (.ringDisable q v) s [.jobs, .acts, .rings, .pages, .taken, .link, .hostMem, .reqs, .memc, .mem, .cnt, .free] fun t =>
      (t.ring q).enable = false ∧ (t.ring q).draining = true ∧ (t.ring q).fetched = [] ∧ (t.ring q).sqCi = (s.ring q).sqCi ∧
      (∀ j ∈ t.life.jobs, j.ring = q → j.silent = false → stopsAt j = false) ∧
      (∀ j ∈ s.life.jobs, j.ring ≠ q → (∀ k ∈ s.life.jobs, k.uid = j.uid → k = j) → j ∈ t.life.jobs)) ∧
  ((s.ring q).draining = true → s.drained q = true → Does (.ringDrainComplete q) s [.rings] fun t =>
    t.ring q = { s.ring q with draining := false, err := 0, seen := false, fetched := [] } ∧ ∀ p, p ≠ q → t.ring p = s.ring p) ∧
  ((s.ring q).draining = false ∨ s.drained q = false → exec (.ringDrainComplete q) s = .next s)

/-- R91, R93-R95, R97, R102, R106: fetching. At a multiple of the period a doorbell read goes out, or, while the read
before is outstanding, is skipped and, for the host, counted; a boundary has one. A doorbell shows the counts of each ring
at work, a ring in error seeing the room alone; a descriptor read joins those read ahead, a failed one puts the ring in
error 0x2. Readings of the model's in it: log 3. -/
def Obligations.Fetching : Prop := ∀ s : State,
  (s.host.fetch = true → s.hostBus = true → s.chip.resetting = false → s.host.d3 = false →
    s.now.toNat % (s.host.period.toNat + 1) = 0 → s.host.hostPage.asked = false →
    (s.host.hostPage.outstanding = true →
      exec .doorbellFetch s = .next { s with host := { s.host with
        fetchSkip := satInc s.host.fetchSkip, hostPage := { s.host.hostPage with asked := true, due := true } } }) ∧
    (s.host.hostPage.outstanding = false → exec .doorbellFetch s = .next { s with host := { s.host with
      hostPage := { s.host.hostPage with outstanding := true, fresh := s.freshMask, tick := s.now, asked := true, due := true } } })) ∧
  (s.now.toNat % (s.host.period.toNat + 1) ≠ 0 ∨ s.host.hostPage.asked = true → exec .doorbellFetch s = .next s) ∧
  (s.svc.hostless = true → s.ringsWork = true → s.chip.resetting = false → s.host.tarrPage.asked = false →
    (s.host.tarrPage.outstanding = false → exec .tarragonDoorbellFetch s = .next { s with host := { s.host with
      tarrPage := { s.host.tarrPage with outstanding := true, fresh := s.freshMask, tick := s.now, asked := true, due := true } } }) ∧
    (s.host.tarrPage.outstanding = true → exec .tarragonDoorbellFetch s = .next { s with host := { s.host with
      tarrPage := { s.host.tarrPage with asked := true, due := true } } })) ∧
  (∀ (set : PageSet) (h : HostRead), (s.page set).outstanding = true → (set = .tarragon → s.running .memctl = true) →
    ∀ b, b = (match set, h with
      | .tarragon, _ => s.fetch tarrDoorbell 272
      | .host, .data l => l
      | .host, .failed => []) → b.length = 272 →
    Does (.doorbellReadComplete set h) s [.rings, .pages] fun t =>
      (t.page set).outstanding = false ∧
      (∀ q, s.pageOf q ≠ set → t.ring q = s.ring q) ∧
      (∀ q, s.pageOf q = set → (s.ring q).enable = true → (s.ring q).seen = true →
        (t.ring q).cqCi = BitVec.ofNat 32 (leAt b (8 * q.val + 4) 4) ∧
        ((s.ring q).err ≠ 0 → (t.ring q).sqPi = (s.ring q).sqPi ∧ (t.ring q).err = (s.ring q).err) ∧
        ((s.ring q).err = 0 → (t.ring q).sqPi = BitVec.ofNat 32 (leAt b (8 * q.val) 4) ∧
          (2 ^ (s.ring q).sqLog.toNat < ((t.ring q).sqPi - (s.ring q).sqCi).toNat → (t.ring q).err = 1) ∧
          (((t.ring q).sqPi - (s.ring q).sqCi).toNat ≤ 2 ^ (s.ring q).sqLog.toNat → (t.ring q).err = 0))) ∧
      (∀ q, (t.ring q).sqCi = (s.ring q).sqCi ∧ (t.ring q).waiting = (s.ring q).waiting)) ∧
  (s.host.hostPage.outstanding = true → Does (.doorbellReadComplete .host .failed) s [.pages, .link] fun t =>
    t.host.hostPage = { s.host.hostPage with outstanding := false } ∧ t.host.hostErr = s.host.dbAddr ∧
    t.host.hostErrCount = satInc s.host.hostErrCount) ∧
  (∀ (set : PageSet) (h : HostRead), (s.page set).outstanding = false → exec (.doorbellReadComplete set h) s = .next s) ∧
  (∀ (q : Fin 32) (d : Desc), (s.ring q).enable = true → (s.ring q).err = 0 → (s.ring q).fetched.length < (s.ring q).pendingCount →
    s.chip.resetting = false → s.busWait (s.ring q).sqBase.toNat = false →
    (Does (.descriptorReadComplete q (some d)) s [.rings] fun t =>
      t.ring q = { s.ring q with fetched := (s.ring q).fetched ++ [d] } ∧ ∀ p, p ≠ q → t.ring p = s.ring p) ∧
    (Does (.descriptorReadComplete q none) s [.rings, .pages, .link] fun t =>
      (t.ring q).err = 2 ∧ (t.ring q).state = 3 ∧ ∀ p, p ≠ q → t.ring p = s.ring p)) ∧
  (∀ a : DWord, s.hostBus = true → exec (.hostReadFail a) s = .next { s with host := { s.host with
    hostErr := a, hostErrCount := satInc s.host.hostErrCount } })

/-- R96, R97, R101-R103, R112, R119: the oldest record of a ring is written at its place in the completion ring, with the
phase of the pass, and RING_CQ_PI counts; a full completion ring gets none, nor does a period whose status page is
written. The status page is written once in the period, if it has changed, and the messages of the period leave; that a
vector stays pending while MSI-X is disabled as a whole is the model's choice (log 18). -/
def Obligations.CompletionRing : Prop := ∀ s : State,
  (∀ (q : Fin 32) (r : Rec), (s.ring q).waiting.head? = some r →
    (s.ring q).enable = true ∨ (s.ring q).draining = true → (s.ring q).full = false → s.ringsWork = true →
    s.busWait (s.ring q).cqBase.toNat = false → s.periodOpen (s.pageOf q) = true → (r.tick ≠ s.now ∨ s.openBefore q r.idx = false) →
    (s.tarrRing q = false → Does (.completionRecordWrite q) s [.rings, .pages, .link, .hostMem, .memc, .mem] fun t =>
      t.ring q = { s.ring q with waiting := (s.ring q).waiting.tail, cqPi := (s.ring q).cqPi + 1 } ∧ (∀ p, p ≠ q → t.ring p = s.ring p) ∧
      (let n := 2 ^ (s.ring q).cqLog.toNat
       let k := (s.ring q).cqPi.toNat
       let w := s.writeAt ((s.ring q).cqBase + BitVec.ofNat 64 (16 * (k % n))) (r.bytes (k / n % 2 == 0))
       t.mem = w.mem ∧ t.host.hostMem = w.host.hostMem) ∧
      (r.irq = true ∨ (s.ring q).irqAll = true → t.host.toSignal.getLsbD (s.ring q).vec.toNat = true)) ∧
    (s.tarrRing q = true → Does (.completionRecordWrite q) s [.rings, .pages, .hostMem, .memc, .mem] fun t =>
      (t.ring q).waiting = (s.ring q).waiting.tail ∧ (t.ring q).cqPi = (s.ring q).cqPi + 1 ∧ (t.ring q).cqCi = (s.ring q).cqPi + 1 ∧
      ∀ p, p ≠ q → t.ring p = s.ring p)) ∧
  (∀ q : Fin 32, (s.ring q).full = true ∨ s.periodOpen (s.pageOf q) = false → exec (.completionRecordWrite q) s = .next s) ∧
  ((∀ j ∈ s.life.jobs, s.pageOf j.ring ≠ .host) → (∀ e ∈ s.host.progress, s.pageOf e.1 ≠ .host) →
    (s.host.hostPage.dirty = true → s.host.hostPage.due = true → s.ringsWork = true → s.host.stAddr ≠ 0 →
      s.busWait s.host.stAddr.toNat = false →
      Does (.statusPageWrite .host) s [.pages, .link, .hostMem, .memc, .mem] fun t =>
        t.host.hostPage = { s.host.hostPage with dirty := false, due := false, rose := false } ∧
        t.mem = (s.writeAt s.host.stAddr (s.pageBytes .host)).mem ∧
        t.host.hostMem = (s.writeAt s.host.stAddr (s.pageBytes .host)).host.hostMem ∧ t.host.rings = s.host.rings ∧
        t.host.toSignal = 0 ∧
        (s.host.msixEnable = false → t.host.msixSent = 0 ∧ t.host.msixPend &&& s.host.toSignal = s.host.toSignal) ∧
        (s.host.msixEnable = true → s.host.bme = true → t.host.msixSent &&& s.host.msixMask = 0 ∧
          s.host.toSignal &&& ~~~s.host.msixMask &&& ~~~t.host.msixSent = 0)) ∧
    (s.host.hostPage.dirty = false ∨ s.host.hostPage.due = false → exec (.statusPageWrite .host) s = .next s)) ∧
  ((∀ j ∈ s.life.jobs, s.pageOf j.ring ≠ .tarragon) → (∀ e ∈ s.host.progress, s.pageOf e.1 ≠ .tarragon) →
    s.host.tarrPage.dirty = true → s.host.tarrPage.due = true → s.ringsWork = true → s.svc.hostless = true →
    s.busWait (2 ^ 63 + tarrStatus) = false → Does (.statusPageWrite .tarragon) s [.pages, .memc, .mem] fun t =>
      t.host.tarrPage = { s.host.tarrPage with dirty := false, due := false } ∧ t.host.hostPage = s.host.hostPage ∧
      t.mem = (s.write tarrStatus (s.pageBytes .tarragon)).mem)

/-- R65, R75, R78, R79, R106: FUNC_CONFIG of a STOPPED function with a block that fits its rules puts the block in force,
counts it and completes with OK; of a function in OFF it waits for the function's power, the high-voltage side being woken
for its own; a block that cannot be read, or does not fit, changes no function. Readings of the model's in it: log 42. -/
def Obligations.FunctionConfig : Prop :=
  ∀ (s s1 : State) (q : Fin 32) (d : Desc) (idx : Word), s.serving q d = some (idx, s1) →
  s.svc.hostless = false ∨ s.tarrRing q = true ∨ clearOfStaging d = true →
  opcodeOf d = 0x11 → configForm d = true → s.busWait (fld d 16 8) = false → ∀ f : Func, descFunc d = some f → s.absent f = false →
  (f = .pathA ∨ f = .pathB → ∀ h, Does (.funcConfig q d h) s [.rings, .pages, .taken, .reqs] fun t => Ends s t q (endRec d idx 0x05 0 s.now)) ∧
  (f ≠ .pathA → f ≠ .pathB → f ≠ .service → f ≠ .memctl →
    (s.life? f ≠ .off → s.life? f ≠ .stopped → ∀ h, Does (.funcConfig q d h) s [.rings, .pages, .taken, .reqs] fun t =>
      Ends s t q (endRec d idx 0x04 0 s.now)) ∧
    (∀ (h : HostRead) (b : List Byte), (readSource s1 (fld d 16 8) (fld d 24 4) h).toOption = some b →
      (s.life? f = .stopped → blockOk s1 f b = true →
        Does (.funcConfig q d h) s [.funcs, .jobs, .rings, .pages, .taken, .link, .reqs, .strm, .lov, .pwr] fun t =>
          (t.func f).config = some b ∧ (t.func f).configGen = (s.func f).configGen + 1 ∧ t.life? f = .stopped ∧
          (∀ k : Func, k ≠ f → t.func k = s.func k) ∧ endRec d idx 0x00 1 s.now ∈ (t.ring q).waiting) ∧
      (s.life? f = .stopped → blockOk s1 f b = false →
        Does (.funcConfig q d h) s [.jobs, .rings, .pages, .taken, .reqs] fun t =>
          endRec d idx 0x05 0 s.now ∈ (t.ring q).waiting) ∧
      (s.life? f = .off → f.hv = false → Does (.funcConfig q d h) s [.jobs, .rings, .pages, .taken] fun t =>
        Begins s1 t q d idx ∧ t.life? f = .off) ∧
      (s.life? f = .off → f.hv = true → Does (.funcConfig q d h) s [.chip, .jobs, .rings, .pages, .taken, .log] fun t =>
        Begins s1 t q d idx ∧ t.life? f = .off ∧ (t.chip.waking = true ∨ t.chip.awake = true))) ∧
    (isModule (fld d 16 8) = false → s.life? f = .stopped →
      Does (.funcConfig q d .failed) s [.rings, .pages, .taken, .reqs, .link] fun t =>
        Ends s t q (endRec d idx 0x06 0 s.now) ∧ t.host.hostErrCount = satInc s.host.hostErrCount))

/-- R65, R75, R79: FUNC_START and FUNC_STOP as they are taken. A start of a RUNNING function and a stop of a STOPPED one
complete at once with OK, a start in OFF or STOPPING with BAD_STATE, a stop of SERVICE, of MEMCTL, or of SAGE with a
channel at work too; a start in STOPPED or FAULTED, its checks passed, and a stop in OFF, STARTING, RUNNING or FAULTED are
requested and wait for a boundary after the token their island has had; one that joins a request stays in progress.
Readings of the model's in it: log 42, log 52. -/
def Obligations.FunctionStartStop : Prop :=
  ∀ (s s1 : State) (q : Fin 32) (d : Desc) (idx : Word), s.serving q d = some (idx, s1) →
  s.svc.hostless = false ∨ s.tarrRing q = true ∨ clearOfStaging d = true →
  payloadOk d [] = true → ∀ f : Func, descFunc d = some f → s.absent f = false →
  (opcodeOf d = 0x12 → (headerOk d false false && funcOk d) = true →
    (s.life? f = .running → Does (.funcStart q d) s [.rings, .pages, .taken, .reqs] fun t => Ends s t q (endRec d idx 0x00 1 s.now)) ∧
    (s.life? f = .off ∨ s.life? f = .stopping → Does (.funcStart q d) s [.rings, .pages, .taken, .reqs] fun t =>
      Ends s t q (endRec d idx 0x04 0 s.now)) ∧
    (s.life? f = .starting → Does (.funcStart q d) s [.jobs, .rings, .pages, .taken] fun t => Begins s1 t q d idx) ∧
    (s.life? f = .stopped ∨ s.life? f = .faulted → (s.func f).startReq = false → startCheck f s1 = 0x00 →
      Does (.funcStart q d) s [.chip, .funcs, .jobs, .rings, .pages, .taken, .cores, .log] fun t =>
        t.func f = { s.func f with startReq := true, startAfter := s.lastTok (islandOf f) } ∧
        (∀ k : Func, k ≠ f → t.func k = s.func k) ∧ (f.hv = false → t.chip = s.chip) ∧
        (f.hv = true → t.chip.awake = true ∨ t.chip.waking = true) ∧
        ∃ j : Job, t.life.jobs = s.life.jobs ++ [j] ∧ j.desc = d ∧ j.ring = q) ∧
    (s.life? f = .stopped ∨ s.life? f = .faulted → (s.func f).startReq = true →
      Does (.funcStart q d) s [.jobs, .rings, .pages, .taken] fun t => Begins s1 t q d idx)) ∧
  (opcodeOf d = 0x10 → (headerOk d true false && funcOk d) = true →
    (f = .service ∨ f = .memctl ∨ s.sageHeld f = true → Does (.funcStop q d) s [.rings, .pages, .taken, .reqs] fun t =>
      Ends s t q (endRec d idx 0x04 0 s.now)) ∧
    (f ≠ .service → f ≠ .memctl → s.sageHeld f = false →
      (s.life? f = .running ∨ s.life? f = .starting ∨ s.life? f = .faulted → Does (.funcStop q d) s [.funcs, .jobs, .rings, .pages, .taken] fun t =>
        t.func f = { s.func f with stopReq := true, offReq := (s.func f).offReq || optOf d, stopAfter := s.lastTok (islandOf f) } ∧
        (∀ k : Func, k ≠ f → t.func k = s.func k) ∧ Begins s1 t q d idx) ∧
      (s.life? f = .stopping → Does (.funcStop q d) s [.funcs, .jobs, .rings, .pages, .taken] fun t =>
        t.func f = { s.func f with offReq := (s.func f).offReq || optOf d } ∧ (∀ k : Func, k ≠ f → t.func k = s.func k) ∧
        Begins s1 t q d idx) ∧
      ((s.life? f = .stopped ∧ optOf d = false) ∨ (s.life? f = .off ∧ optOf d = true) →
        Does (.funcStop q d) s [.rings, .pages, .taken, .reqs] fun t => Ends s t q (endRec d idx 0x00 1 s.now)) ∧
      ((s.life? f = .stopped ∧ optOf d = true) ∨ (s.life? f = .off ∧ optOf d = false) →
        Does (.funcStop q d) s [.chip, .funcs, .jobs, .rings, .pages, .taken, .log] fun t =>
          (t.func f).stopReq = true ∧ (t.func f).stopAfter = s.lastTok (islandOf f) ∧ Begins s1 t q d idx)))

/-- R12, R47, R74-R77, R79, R80: the life cycle at a boundary. START_EFFECT leads to STARTING, for a power channel only
with SAGE at work and a frequency found; the end of the start sequence to RUNNING; STOP_EFFECT to STOPPING; the end of the
fall to STOPPED, or to OFF with the OFF flag, where the parameters return to their defaults. A start that takes too long
and a fault lead to FAULTED, with the cause, a count and an event. No other function changes, but the channels that a
fault of SAGE stops. An island that a token mismatch has stopped resumes with a start, at the timing island's count.
Readings of the model's in it: log 20, log 42, log 52. -/
def Obligations.LifeCycle : Prop := ∀ (s : State) (f : Func),
  (s.halted (islandOf f) = false → DoesAt (.startEffect f) s (islandOf f) fun b t => b.noneDue (islandOf f) →
    (b.func f).startReq = true → stopFirst f b = false → b.life? f = .stopped ∨ b.life? f = .faulted → b.chip.resetting = false →
    (f.hv = true → b.chip.linkUp = true ∧ 0 ≤ b.chip.vbus.toInt) →
    (b.dueSince (b.func f).startAfter = true → (f.hv = true → f ≠ .sage → b.running .sage = true ∧ b.anySwitching = true) →
      (f = .timekeeper → b.time.ctrl.truncate 2 = b.time.fs) →
      Only [.funcs, .writes, .jobs, .acts, .rings, .pages, .link, .reqs, .svc, .path, .time, .strm, .lov, .loc, .cores, .pwr, .mem, .log, .cnt, .edges, .free] b t ∧
      t.life? f = .starting ∧ (t.func f).startReq = false ∧ (t.func f).effect = b.now ∧ (∀ k : Func, k ≠ f → t.func k = b.func k)) ∧
    (b.dueSince (b.func f).startAfter = true → f.hv = true → f ≠ .sage → b.running .sage = false → b.anySwitching = true →
      b.svc.autostart = [] → Only [.funcs, .jobs, .acts, .rings, .reqs] b t ∧ t.life? f = b.life? f ∧ (t.func f).startReq = false) ∧
    (b.dueSince (b.func f).startAfter = false → t = b)) ∧
  (s.halted (islandOf f) = true → (s.func f).startReq = true → stopFirst f s = false → s.life? f = .stopped ∨ s.life? f = .faulted →
    s.chip.resetting = false → f.hv = false → f ≠ .timekeeper → Does (.startEffect f) s [.funcs, .writes, .jobs, .acts, .rings, .pages,
      .link, .reqs, .svc, .path, .time, .strm, .lov, .loc, .cores, .pwr, .mem, .log, .cnt, .edges, .free] fun t =>
      t.life? f = .starting ∧ t.halted (islandOf f) = false ∧ t.copy (islandOf f) = s.now) ∧
  DoesAt (.startSequenceComplete f) s (islandOf f) (fun b t =>
    (startDone f b = true → Only [.funcs, .jobs, .acts, .rings, .pages, .link, .reqs, .svc, .portA, .portB, .path, .loc, .pwr, .log, .cnt] b t ∧
      t.life? f = .running ∧ ∀ k : Func, k ≠ f → t.func k = b.func k) ∧
    (startDone f b = false → t = b)) ∧
  (s.halted (islandOf f) = false → DoesAt (.stopEffect f) s (islandOf f) fun b t => b.noneDue (islandOf f) → (b.func f).stopReq = true →
    (b.dueSince (b.func f).stopAfter = true → b.sageHeld f = false →
      (b.life? f = .running → (∀ c, f ≠ .pch c) → Only [.funcs, .jobs, .acts, .rings, .link, .reqs, .time, .strm, .loc, .pwr, .log, .pages, .portA, .portB, .path, .cnt, .free] b t ∧
        t.life? f = .stopping ∧ (t.func f).stopReq = false ∧ (t.func f).effect = b.now ∧ (f ≠ .sage → (t.func f).fade.up = false) ∧
        ∀ k : Func, k ≠ f → t.func k = b.func k) ∧
      (∀ c, f = .pch c → b.life? f = .running → 2 ≤ (b.pch c).phase.toNat → (b.pch c).phase.toNat ≤ 5 →
        t.life? f = .stopping ∧ (t.func f).stopReq = false ∧ ∀ k : Func, k ≠ f → t.func k = b.func k) ∧
      (b.life? f = .off → (b.func f).offReq = false → f.hv = false → t.life? f = .stopped) ∧
      (b.life? f = .stopped ∨ b.life? f = .faulted → (b.func f).offReq = false → t.life? f = .stopped) ∧
      (b.life? f = .stopped ∨ b.life? f = .faulted → (b.func f).offReq = true → t.life? f = .off)) ∧
    (b.dueSince (b.func f).stopAfter = false → t = b)) ∧
  (s.halted (islandOf f) = true → (s.func f).stopReq = true → s.life? f = .faulted → (s.func f).offReq = false → s.sageHeld f = false →
    Does (.stopEffect f) s [.funcs, .jobs, .acts, .rings, .reqs] fun t =>
      t.life? f = .stopped ∧ t.halted (islandOf f) = true) ∧
  DoesAt (.stopFadeComplete f) s (islandOf f) (fun b t =>
    (stopDone f b = true → Only [.funcs, .params, .jobs, .acts, .rings, .link, .reqs, .portA, .portB, .path, .time, .strm, .lov, .cores,
        .loc, .pwr, .memc, .mem, .cnt] b t ∧ (∀ k : Func, k ≠ f → t.func k = b.func k) ∧
      ((b.func f).offReq = false → t.life? f = .stopped ∧ t.life.params = b.life.params ∧ (t.func f).config = (b.func f).config) ∧
      ((b.func f).offReq = true → t.life? f = .off ∧ (t.func f).config = none ∧
        ∀ p, p / 2 ^ 24 = f.id.toNat → (t.life.params.get? p = none ∨ ∃ n, f = .sc n ∧ 0x100000 ≤ p % 2 ^ 24))) ∧
    (stopDone f b = false → t = b)) ∧
  DoesAt (.startTimeout f) s (islandOf f) (fun b t =>
    (b.life? f = .starting → b.fsHz + startAllowance f b ≤ b.since f → t.life? f = .faulted ∧ (t.func f).cause = 0x08 ∧
      (f ≠ .sage → ∀ k : Func, k ≠ f → t.func k = b.func k)) ∧
    (b.life? f ≠ .starting ∨ b.since f < b.fsHz + startAllowance f b → t = b)) ∧
  (∀ cause : Byte, causeFits f cause = true → (s.life? f).busy = true ∨ (s.life? f = .stopped ∧ (cause = 1 ∨ (f.hv = true ∧ cause = 5))) →
    Does (.functionFault f cause) s [.funcs, .jobs, .acts, .rings, .pages, .reqs, .link, .hostMem, .portA, .portB, .path, .time, .strm, .lov,
      .cores, .loc, .pwr, .memc, .mem, .log, .cnt, .free] fun t =>
      t.life? f = .faulted ∧ (t.func f).cause = cause ∧ (t.func f).lastChange = s.now ∧
      ((s.func f).faultCount ≠ 0xFFFF → (t.func f).faultCount = (s.func f).faultCount + 1) ∧
      t.host.hostPage.event.getLsbD 1 = true ∧ (f ≠ .sage → ∀ k : Func, k ≠ f → t.func k = s.func k) ∧
      (f = .sage → ∀ k : Func, k ≠ .sage → (∀ c, k ≠ .pch c) → t.func k = s.func k)) ∧
  (∀ cause : Byte, causeFits f cause = true → (s.life? f = .off ∨ s.life? f = .faulted) →
    Does (.functionFault f cause) s [.free] fun _ => True)

/-- R130-R135: Noard. A PDU is checked for form, node, tag and counter in this order, and each failure is counted; a
higher counter is accepted and recorded, and a request with room is placed; the same counter with the same bytes has its
stored replies sent again. Records that complete are sent in replies, each under the next reply counter. Readings of the
model's in it: log 12, log 32, log 47. -/
def Obligations.NoardProtocol : Prop := ∀ s : State, s.svcAlive = true → s.svc.hostless = true →
  (∀ port src vlan pdu, pduForm pdu = false → Does (.noardRequest port src vlan pdu) s [.svc] fun t =>
    t.svc = { s.svc with noardCnt := t.svc.noardCnt } ∧ t.svc.noardCnt[3] = satInc s.svc.noardCnt[3]) ∧
  (∀ port src vlan pdu, pduForm pdu = true → pduNode s pdu = false → exec (.noardRequest port src vlan pdu) s = .next s) ∧
  (∀ port src vlan pdu, pduForm pdu = true → pduNode s pdu = true → pduTagOk s pdu = false →
    Does (.noardRequest port src vlan pdu) s [.svc] fun t =>
      t.svc = { s.svc with noardCnt := t.svc.noardCnt } ∧ t.svc.noardCnt[1] = satInc s.svc.noardCnt[1]) ∧
  (∀ port src vlan pdu, pduForm pdu = true → pduNode s pdu = true → pduTagOk s pdu = true →
    (pduCounter pdu).toNat < s.svc.lastCounter[pduSlot pdu].toNat →
    Does (.noardRequest port src vlan pdu) s [.svc] fun t =>
      t.svc = { s.svc with noardCnt := t.svc.noardCnt } ∧ t.svc.noardCnt[2] = satInc s.svc.noardCnt[2]) ∧
  (∀ port src vlan pdu, pduForm pdu = true → pduNode s pdu = true → pduTagOk s pdu = true →
    pduCounter pdu = s.svc.lastCounter[pduSlot pdu] → s.svc.lastPdu[pduSlot pdu] = pdu →
    Does (.noardRequest port src vlan pdu) s [.portA, .portB, .path, .cnt] fun _ => True) ∧
  (∀ port src vlan pdu, pduForm pdu = true → pduNode s pdu = true → pduTagOk s pdu = true →
    s.svc.lastCounter[pduSlot pdu].toNat < (pduCounter pdu).toNat →
    32 + 16 * pduCount pdu + pduReplyLen pdu + 16 + 28 ≤ s.maxLen port →
    (s.tarrPi (Fin.ofNat 32 (leAt pdu 6 1)) - (s.ring (Fin.ofNat 32 (leAt pdu 6 1))).sqCi).toNat + pduCount pdu ≤ 256 →
    Does (.noardRequest port src vlan pdu) s [.reqs, .svc, .mem] fun t =>
      t.svc.lastCounter[pduSlot pdu] = pduCounter pdu ∧ t.svc.lastPdu[pduSlot pdu] = pdu ∧ t.svc.stored[pduSlot pdu] = [] ∧
      t.svc.noardCnt[0] = satInc s.svc.noardCnt[0] ∧ t.svc.lastCtl = some (src, port, pduSlot pdu, vlan) ∧
      (∃ m, t.svc.reqs = s.svc.reqs ++ [m] ∧ m.slot = pduSlot pdu ∧ m.counter = pduCounter pdu ∧ m.left = m.count ∧
        m.count ≤ pduCount pdu ∧ m.port = port ∧ m.src = src) ∧
      (∀ i : Fin 4, i ≠ pduSlot pdu → t.svc.lastCounter[i] = s.svc.lastCounter[i])) ∧
  (∀ port src vlan pdu, pduForm pdu = true → pduNode s pdu = true → pduTagOk s pdu = true →
    s.svc.lastCounter[pduSlot pdu].toNat < (pduCounter pdu).toNat →
    s.maxLen port < 32 + 16 * pduCount pdu + pduReplyLen pdu + 16 + 18 →
    Does (.noardRequest port src vlan pdu) s [.svc, .portA, .portB, .path, .cnt] fun t =>
      t.svc.lastCounter[pduSlot pdu] = pduCounter pdu ∧ t.svc.replyCounter[pduSlot pdu] = s.svc.replyCounter[pduSlot pdu] + 1 ∧
      t.svc.noardCnt[0] = satInc s.svc.noardCnt[0] ∧ t.svc.noardCnt[3] = satInc s.svc.noardCnt[3]) ∧
  (∀ (slot : Fin 4) (counter : DWord) (n : NoardReq), s.noardReq slot counter = some n → n.left = 0 →
    Does (.noardReply slot counter) s [.reqs, .svc, .portA, .portB, .path, .cnt] fun t =>
      t.svc.replyCounter[slot] = s.svc.replyCounter[slot] + 1 ∧
      t.svc.reqs = s.svc.reqs.filter (fun m => !(m.slot == slot && m.counter == counter))) ∧
  (∀ (slot : Fin 4) (counter : DWord) (n : NoardReq), s.noardReq slot counter = some n → n.left ≠ 0 → n.waited = true →
    n.recs ≠ [] → Does (.noardReply slot counter) s [.reqs, .svc, .portA, .portB, .path, .cnt] fun t =>
      t.svc.replyCounter[slot] = s.svc.replyCounter[slot] + 1 ∧ t.svc.reqs.length = s.svc.reqs.length ∧
      ∀ m ∈ t.svc.reqs, m.slot = slot → m.counter = counter → m.recs = []) ∧
  (∀ (slot : Fin 4) (counter : DWord) (n : NoardReq), s.noardReq slot counter = some n → n.left ≠ 0 → n.waited = false →
    Does (.replyWaitExpiry slot counter) s [.reqs, .svc, .portA, .portB, .path, .cnt] fun t =>
      t.svc.replyCounter[slot] = s.svc.replyCounter[slot] + 1 ∧ t.svc.reqs.length = s.svc.reqs.length ∧
      ∀ m ∈ t.svc.reqs, m.slot = slot → m.counter = counter → m.recs = [] ∧ m.waited = true) ∧
  (∀ c, s.svc.lastCtl = some c → s.host.tarrPage.rose = true →
    (∀ at_, s.svc.noticeAt = some at_ → s.msTicks 10 ≤ (s.now - at_).toNat) →
    Does .noardEventNotice s [.pages, .svc, .portA, .portB, .path, .mem, .cnt] fun t =>
      t.svc.replyCounter[c.2.2.1] = s.svc.replyCounter[c.2.2.1] + 1 ∧ t.svc.noticeAt = some s.now ∧
      t.host.tarrPage = { s.host.tarrPage with rose := false } ∧ t.host.hostPage = s.host.hostPage ∧
      t.read (tarrDoorbell + 0x108) 8 = leBytes 8 s.host.tarrPage.event.toNat ∧
      ∀ a, a < tarrDoorbell + 0x100 ∨ tarrDoorbell + 0x110 ≤ a → memByte t.mem a = memByte s.mem a)

/-- R127, R165: the housekeeping protocols answer on the port a request came by, for the module's own addresses alone, and
echo replies at most 100 times a second. Readings of the model's in it: log 13. -/
def Obligations.Housekeeping : Prop := ∀ (s : State) (port : Port), s.svcAlive = true → s.isRing = false →
  Room s port (s.txqService port) 1600 →
  (∀ (target asker : Word) (mac : BitVec 48), target.toNat = s.svcParam 0x10 → target ≠ 0 →
    Does (.arpRequest port target asker mac) s [.svc, .portA, .portB] fun t =>
      Queued s t port (s.txqService port) (fun f => f.dst = mac ∧ f.src = s.svc.mac ∧ f.etype = 0x0806) ∧
      t.svc.arp.head? = some (asker, mac) ∧ t.svc = { s.svc with arp := t.svc.arp }) ∧
  (∀ (dst asker ident : Word) (mac : BitVec 48) (payload : List Byte), dst.toNat = s.svcParam 0x10 → dst ≠ 0 →
    payload.length ≤ 1472 → s.echoes port false < 100 →
    Does (.icmpEcho port dst asker mac ident payload) s [.svc, .portA, .portB] fun t =>
      Queued s t port (s.txqService port) (fun f => f.dst = s.macOf asker mac ∧ f.etype = 0x0800) ∧
      t.echoes port false = s.echoes port false + 1) ∧
  (∀ (dst asker : BitVec 128) (ident : Word) (mac : BitVec 48) (payload : List Byte), s.ownV6 dst.toNat = true →
    payload.length ≤ 1472 → s.echoes port true < 100 →
    Does (.icmpv6Echo port dst asker mac ident payload) s [.svc, .portA, .portB] fun t =>
      Queued s t port (s.txqService port) (fun f => f.dst = mac ∧ f.etype = 0x86DD) ∧
      t.echoes port true = s.echoes port true + 1) ∧
  (∀ dst asker ident mac payload, dst.toNat = s.svcParam 0x10 → 100 ≤ s.echoes port false →
    exec (.icmpEcho port dst asker mac ident payload) s = .next s) ∧
  (∀ (target asker : BitVec 128) (mac : BitVec 48), s.ownV6 target.toNat = true → asker ≠ 0 →
    Does (.neighbourSolicitation port target asker mac) s [.portA, .portB] fun t =>
      Queued s t port (s.txqService port) (fun f => f.dst = mac ∧ f.etype = 0x86DD)) ∧
  (∀ group : Word, group ≠ 0 → group.zeroExtend 128 ∈ (s.port port).groups → (s.port port).groups.Nodup →
    Does (.igmpQuery port group) s [.portA, .portB] fun t =>
      Queued s t port (s.txqService port) (fun f => f.dst = 0x01005E000016 ∧ f.etype = 0x0800)) ∧
  (∀ group : BitVec 128, 2 ^ 48 ≤ group.toNat → group ∈ (s.port port).groups → (s.port port).groups.Nodup →
    Does (.mldQuery port group) s [.portA, .portB] fun t =>
      Queued s t port (s.txqService port) (fun f => f.dst = 0x333300000016 ∧ f.etype = 0x86DD)) ∧
  (s.svc.identify ≤ s.tickUnits → exec .identifyExpiry s = .next { s with svc := { s.svc with identify := 0 } }) ∧
  (s.tickUnits < s.svc.identify → exec .identifyExpiry s = .next s)

/-- R137: keys are written while PROVISIONED is 0 only; a revocation is permanent; SVC_LOCK sets PROVISIONED. -/
def Obligations.KeyCommands : Prop := ∀ (s : State) (v : Word), 3 ≤ s.chip.stage.toNat →
  (keyCmd v 1 = true → s.svc.provisioned = false → s.svc.keySel &&& 0x30 = 0 → Does (.svcKeyWrite v) s [.svc] fun t =>
    t.svc.noardKeys[s.keySlot] = some (keyBytes s 8) ∧ t.svc = { s.svc with noardKeys := t.svc.noardKeys } ∧
    ∀ k : Fin 4, k ≠ s.keySlot → t.svc.noardKeys[k] = s.svc.noardKeys[k]) ∧
  (keyCmd v 1 = true → s.svc.provisioned = false → s.svc.keySel &&& 0x30 = 0x10 → Does (.svcKeyWrite v) s [.svc] fun t =>
    t.svc.imageKeys[s.keySlot] = some (keyBytes s 16) ∧ t.svc = { s.svc with imageKeys := t.svc.imageKeys } ∧
    ∀ k : Fin 4, k ≠ s.keySlot → t.svc.imageKeys[k] = s.svc.imageKeys[k]) ∧
  (keyCmd v 1 = true → s.svc.provisioned = false → s.svc.keySel &&& 0x30 = 0x20 →
    exec (.svcKeyWrite v) s = .next { s with svc := { s.svc with debugKey := some (keyBytes s 8) } }) ∧
  (s.svc.provisioned = true → exec (.svcKeyWrite v) s = .next s) ∧
  (keyCmd v 2 = true → s.svc.keySel &&& 0x30 = 0x10 → exec (.svcKeyRevoke v) s =
    .next { s with svc := { s.svc with imageRevoked := s.svc.imageRevoked ||| BitVec.ofNat 4 (2 ^ s.keySlot.val) } }) ∧
  (keyCmd v 2 = true → s.svc.keySel &&& 0x30 = 0 → exec (.svcKeyRevoke v) s =
    .next { s with svc := { s.svc with noardRevoked := s.svc.noardRevoked ||| BitVec.ofNat 4 (2 ^ s.keySlot.val) } }) ∧
  exec (.svcLock 0xD0410001) s = .next { s with svc := { s.svc with provisioned := true } } ∧
  (v ≠ 0xD0410001 → exec (.svcLock v) s = .next s)

/-- R138: the debug lock. A nonce is read once and answered once; the right answer under the debug key opens the lock, the
third wrong one in a row shuts it for 10 s. The nonce is a free value (log 11); the order of its octets is the model's
reading (log 12). Readings of the model's in it: log 55. -/
def Obligations.DebugLock : Prop := ∀ s : State, s.chip.supply ≠ .off →
  (Does .jtagNonceRead s [.svc, .free] fun t => (∃ n, t.svc.nonce = some n) ∧ t.svc = { s.svc with nonce := t.svc.nonce }) ∧
  (∀ k, s.svc.debugKey = some k → ∀ n, s.svc.nonce = some n → ∀ ans : BitVec 128, s.svc.jtagLocked = false →
    (jtagExpect k n s.svc.serial = beBytes 16 ans.toNat → exec (.jtagChallengeAnswer ans) s =
      .next { s with svc := { s.svc with jtagOpen := true, wrong := 0, nonce := none } }) ∧
    (jtagExpect k n s.svc.serial ≠ beBytes 16 ans.toNat → Does (.jtagChallengeAnswer ans) s [.svc] fun t =>
      t.svc.jtagOpen = s.svc.jtagOpen ∧ t.svc.nonce = none ∧ (s.svc.wrong < 2 → t.svc.wrong = s.svc.wrong + 1 ∧ t.svc.jtagLocked = false) ∧
      (s.svc.wrong = 2 → t.svc.wrong = 0 ∧ t.svc.jtagLocked = true))) ∧
  (s.svc.jtagLocked = true → ∀ ans, exec (.jtagChallengeAnswer ans) s = .next s) ∧
  exec .jtagLockoutEnd s = .next { s with svc := { s.svc with jtagLocked := false } }

/-- R127, R141-R145, R158, R164, R177, R178: link, negotiation, LEDs and the timers of a port. The highest common mode is
resolved; link up records the cable's corrections, and link down empties the queues and counts; the third failed attempt
withholds a mode where downshift is on; a write of NETx_ANEG that changes no advertisement and a restart clear the
withheld modes, and any other drops the link. The other port keeps everything. Readings of the model's in it: log 13, log
44, log 56. -/
def Obligations.LinkCommands : Prop := ∀ (s : State) (p : Port), s.portsUp = true →
  (∀ partner lpPause multi seed, (s.port p).link = false →
    Does (.anegComplete p partner lpPause multi seed) s [.portA, .portB] fun t => t.port (otherPort p) = s.port (otherPort p) ∧
      (t.port p).resolved = highestMode ((s.port p).aneg.truncate 3 &&& ~~~(s.port p).withheld &&& partner) ∧
      (t.port p).lpPause = lpPause ∧ (t.port p).link = false ∧
      (t.port p).advertised.getLsbD 3 = (s.port p).macCtrl.getLsbD 4 ∧ (t.port p).advertised.getLsbD 4 = (s.port p).macCtrl.getLsbD 4) ∧
  ((s.port p).link = true → ∀ partner lpPause multi seed, exec (.anegComplete p partner lpPause multi seed) s = .next s) ∧
  (∀ mdix s01 s23 pol, (s.port p).link = false → (s.port p).resolved ≠ .none →
    Does (.linkUp p mdix s01 s23 pol) s [.pages, .portA, .portB, .path, .cnt] fun t =>
      { t.port p with queues := (s.port p).queues } = { s.port p with
        link := true, mode := (s.port p).resolved, attempts := 0, mdix := mdix,
        swap01 := s01 && (s.port p).resolved != .m100, swap23 := s23 && (s.port p).resolved != .m100, pol := pol } ∧
      t.host.hostPage.event.getLsbD 7 = true ∧ t.port (otherPort p) = s.port (otherPort p) ∧
      (s.svcParam 0x10 = 0 → t.path = s.path ∧ t.cnt = s.cnt ∧ (t.port p).queues = (s.port p).queues)) ∧
  ((s.port p).link = true → Does (.linkDown p) s [.pages, .portA, .portB, .path, .cnt] fun t =>
    t.port (otherPort p) = s.port (otherPort p) ∧ (t.port p).link = false ∧ (t.port p).mode = .none ∧ (t.port p).pause = (s.port p).pause ∧
    (∀ q : Fin 8, (t.port p).queues[q] = []) ∧ (t.port p).fwd = [] ∧ t.host.hostPage.event.getLsbD 7 = true ∧
    (s.count (portFn p) 20 < 2 ^ 48 - 1 → t.count (portFn p) 20 = s.count (portFn p) 20 + 1)) ∧
  ((s.port p).link = false → exec (.linkDown p) s = .next s) ∧
  ((s.port p).link = false → (s.port p).resolved ≠ .none → (s.port p).aneg.getLsbD 4 = true →
    Does (.linkAttemptFail p) s [.portA, .portB, .cnt] fun t => t.port (otherPort p) = s.port (otherPort p) ∧
      ((s.port p).attempts < 2 → t.port p = { s.port p with attempts := (s.port p).attempts + 1 } ∧ t.cnt = s.cnt) ∧
      (2 ≤ (s.port p).attempts → (t.port p).withheld = (s.port p).withheld ||| modeBit (s.port p).resolved ∧
        (t.port p).resolved = .none)) ∧
  (∀ v : Word, 3 ≤ s.chip.stage.toNat → v.getLsbD 16 = false →
    (((s.port p).aneg ^^^ v) &&& 0x307 = 0 → Does (.anegWrite p v) s [.portA, .portB] fun t =>
      t.port p = { s.port p with aneg := v &&& 0x317, withheld := 0, attempts := 0 } ∧ t.port (otherPort p) = s.port (otherPort p)) ∧
    (((s.port p).aneg ^^^ v) &&& 0x307 ≠ 0 → Does (.anegWrite p v) s [.pages, .portA, .portB, .path, .cnt] fun t =>
      (t.port p).aneg = v &&& 0x317 ∧ (t.port p).link = false ∧ (t.port p).resolved = .none ∧
      t.port (otherPort p) = s.port (otherPort p))) ∧
  (∀ v : Word, 3 ≤ s.chip.stage.toNat → v.getLsbD 16 = true →
    Does (.anegRestart p v) s [.pages, .portA, .portB, .path, .cnt] fun t => (t.port p).aneg = v &&& 0x317 ∧
      (t.port p).link = false ∧ (t.port p).withheld = 0 ∧ t.port (otherPort p) = s.port (otherPort p)) ∧
  ((s.port p).pause ≤ s.tickPs → Does (.pauseExpiry p) s [.portA, .portB] fun t =>
    t.port p = { s.port p with pause := 0, pauseFresh := false } ∧ t.port (otherPort p) = s.port (otherPort p)) ∧
  (s.tickPs < (s.port p).pause → exec (.pauseExpiry p) s = .next s) ∧
  (Does (.ringClosedTimeout p) s [.portA, .portB] fun t =>
    t.port p = { s.port p with ringClosed := false } ∧ t.port (otherPort p) = s.port (otherPort p)) ∧
  exec .nodeIdGraceEnd s = .next { s with path := { s.path with prevNode := none } } ∧
  ((s.port p).ledDark = true → Does (.ledDarkPeriodEnd p) s [.portA, .portB] fun t =>
    t.port p = { s.port p with ledDark := false, darkEnd := some s.now } ∧ t.port (otherPort p) = s.port (otherPort p)) ∧
  (Does (.ledBlinkToggle p) s [.portA, .portB] fun t =>
    t.port p = { s.port p with ledLit := !(s.port p).ledLit } ∧ t.port (otherPort p) = s.port (otherPort p))

/-- R150, R152, R154, R158, R177: reception. A good frame that this node does not strip counts its octets and goes to the one
consumer of its class, where that one has room; a stripped one goes to none; a bad one is counted in the order of R150 and
goes to none. A pause frame loads the timer where pauses are honoured; that it is a second row beside FRAME_RECEIVE is the
model's choice (log 56). -/
def Obligations.Reception : Prop := ∀ (s : State) (p : Port), s.carries p = true → (s.port p).hold = none →
  (∀ f : Frame, f.symErr = false → 64 ≤ f.len → f.len ≤ s.maxLen p → f.fcs = .good →
    (s.strips f = false → Does (.frameReceive p f) s [.portA, .portB, .cnt] fun t =>
      t.count (portFn p) 0 = min (2 ^ 48 - 1) (s.count (portFn p) 0 + f.len) ∧
      t.count (portFn p) 1 = min (2 ^ 48 - 1) (s.count (portFn p) 1 + 1) ∧
      t.port (otherPort p) = s.port (otherPort p) ∧ (t.port p).queues = (s.port p).queues ∧
      (s.rxClass p f = 1 → (t.port p).lastRx = .mac) ∧
      (s.rxClass p f = 2 ∨ s.rxClass p f = 3 → (t.port p).lastRx = .none ∧ t.count (portFn p) 11 = min (2 ^ 48 - 1) (s.count (portFn p) 11 + 1)) ∧
      (s.rxClass p f = 4 → (s.port p).timeBuf = 0 ∨ (s.port p).timeBuf + f.len ≤ Config.timingBuffer → (t.port p).lastRx = .timing) ∧
      (s.rxClass p f = 5 ∨ s.rxClass p f = 8 → (s.port p).svcBuf + f.len ≤ 65536 →
        svcHigh (s.port p).rxPcp f = true ∨ (s.port p).svcBuf ≤ 49152 → (t.port p).lastRx = .service) ∧
      (s.rxClass p f = 5 ∨ s.rxClass p f = 8 → svcHigh (s.port p).rxPcp f = false → 49152 < (s.port p).svcBuf →
        (t.port p).lastRx = .none ∧ (t.port p).svcBuf = (s.port p).svcBuf ∧ t.count (portFn p) 13 = min (2 ^ 48 - 1) (s.count (portFn p) 13 + 1)) ∧
      (s.rxClass p f = 6 ∨ s.rxClass p f = 7 → (s.port p).pathBuf = 0 ∨ (s.port p).pathBuf + f.len ≤ Config.pathBuffer → (t.port p).lastRx = .path) ∧
      (s.rxClass p f = 9 → (t.port p).lastRx = .none ∧ t.count (portFn p) 12 = min (2 ^ 48 - 1) (s.count (portFn p) 12 + 1))) ∧
    (s.strips f = true → Does (.frameReceive p f) s [.pages, .portA, .portB, .cnt, .log] fun t =>
      (t.port p).lastRx = .none ∧ (t.port p).svcBuf = (s.port p).svcBuf ∧
      t.count (portFn p) 36 = min (2 ^ 48 - 1) (s.count (portFn p) 36 + 1))) ∧
  (∀ f : Frame, f.symErr = false → f.len < 64 → Does (.frameReceive p f) s [.portA, .portB, .cnt] fun t =>
    (f.fcs = .good → t.count (portFn p) 4 = min (2 ^ 48 - 1) (s.count (portFn p) 4 + 1)) ∧
    (f.fcs ≠ .good → t.count (portFn p) 5 = min (2 ^ 48 - 1) (s.count (portFn p) 5 + 1)) ∧
    (t.port p).lastRx = (s.port p).lastRx ∧ (t.port p).svcBuf = (s.port p).svcBuf) ∧
  (∀ f : Frame, f.symErr = true ∨ s.maxLen p < f.len ∨ (64 ≤ f.len ∧ f.fcs ≠ .good) → s.strips f = false → 64 ≤ f.len →
    Does (.frameReceive p f) s [.portA, .portB, .path, .cnt] fun t =>
      (t.port p).lastRx = (s.port p).lastRx ∧ (t.port p).svcBuf = (s.port p).svcBuf ∧ t.count (portFn p) 1 = s.count (portFn p) 1 ∧
      (f.symErr = true → t.count (portFn p) 8 = min (2 ^ 48 - 1) (s.count (portFn p) 8 + 1)) ∧
      (f.symErr = false → s.maxLen p < f.len → t.count (portFn p) 6 = min (2 ^ 48 - 1) (s.count (portFn p) 6 + 1)) ∧
      (f.symErr = false → f.len ≤ s.maxLen p → t.count (portFn p) 7 = min (2 ^ 48 - 1) (s.count (portFn p) 7 + 1))) ∧
  (∀ (toModule : Bool) (time : BitVec 16), Does (.pauseFrame p toModule time) s [.portA, .portB, .cnt] fun t =>
    (toModule = true → (s.port p).macCtrl.getLsbD 4 = true →
      t.port p = { s.port p with pause := time.toNat * quantum (s.port p).mode, pauseFresh := true }) ∧
    (toModule = false ∨ (s.port p).macCtrl.getLsbD 4 = false → t.port p = s.port p) ∧ t.port (otherPort p) = s.port (otherPort p) ∧
    t.count (portFn p) 9 = min (2 ^ 48 - 1) (s.count (portFn p) 9 + 1) ∧
    t.count (portFn p) 19 = min (2 ^ 48 - 1) (s.count (portFn p) 19 + time.toNat))

/-- R155, R157-R161, R169-R173, R206: sending. The head of the highest queue leaves a port that is not paused, with its
one-step fields written; a frame to forward joins the other port's forward queue, and leaves it once enough of it has been
received, whole and good or cut and inverted; one found bad before leaves unsent; one that finds a pause is discarded. The
moment within the tick at which a frame leaves is free (log 11). Readings of the model's in it: log 44, log 56. -/
def Obligations.Sending : Prop := ∀ (s : State) (p : Port), s.carries p = true →
  (∀ q, (s.port p).topQueue = some q → ∀ f, (s.port p).queues[q].head? = some f → s.paused p = false → s.fwdFirst p = false →
    Does (.frameTransmit p) s [.portA, .portB, .cnt, .free] fun t =>
      (t.port p).queues[q] = (s.port p).queues[q].tail ∧ (∀ r : Fin 8, r ≠ q → (t.port p).queues[r] = (s.port p).queues[r]) ∧
      (t.port p).lastTx = some { frame := stampFrame s f, forwarded := false, octets := f.len, inverted := false } ∧
      (f.ptp ≠ .sync → f.ptp ≠ .pdelayResp → stampFrame s f = f) ∧
      t.count (portFn p) 14 = min (2 ^ 48 - 1) (s.count (portFn p) 14 + f.len) ∧
      t.count (portFn p) 15 = min (2 ^ 48 - 1) (s.count (portFn p) 15 + 1) ∧
      t.count (portFn p) (22 + q.val) = min (2 ^ 48 - 1) (s.count (portFn p) (22 + q.val) + 1) ∧
      (s.isRing = false → t.port (otherPort p) = s.port (otherPort p))) ∧
  (s.paused p = true → exec (.frameTransmit p) s = .next s) ∧
  (∀ f : Frame, s.forwards p f = true → (s.isRing && (s.tagOf? f).isNone) = false →
    (s.port (otherPort p)).link = true → ((s.port (otherPort p)).fwd.map (·.frame.len)).sum + f.len ≤ 32768 →
    Does (.forwardCommit p f) s [.portA, .portB] fun t => t.port p = { s.port p with hold := some (s.settings p f) } ∧
      (t.port (otherPort p)).fwd = (s.port (otherPort p)).fwd ++ [{
        frame := f, ingress := p, inMax := s.maxLen p, outMax := s.maxLen (otherPort p), order := rxOrder (s.maxLen p) f
        timing := s.rxClass p f == 4 }]) ∧
  (∀ f : Frame, s.forwards p f = false → Does (.forwardCommit p f) s [.portA, .portB] fun t =>
    t.port p = { s.port p with hold := some (s.settings p f) } ∧ t.port (otherPort p) = s.port (otherPort p)) ∧
  (∀ w, (s.port p).fwd.head? = some w → ∀ residence : Nat,
    (s.mayStart p w residence = false → exec (.forwardEgressStart p residence) s = .next s) ∧
    (s.mayStart p w residence = true → s.paused p = false → s.fwdFirst p = true → foundBad s p w residence = false →
      (copyCut s p w residence = none → w.timing = false → Does (.forwardEgressStart p residence) s [.portA, .portB, .cnt] fun t =>
        (t.port p).fwd = (s.port p).fwd.tail ∧
        (t.port p).lastTx = some { frame := w.frame, forwarded := true, octets := w.frame.len, inverted := false } ∧
        t.count (portFn p) 15 = min (2 ^ 48 - 1) (s.count (portFn p) 15 + 1)) ∧
      (∀ n, copyCut s p w residence = some n → Does (.forwardEgressStart p residence) s [.portA, .portB, .cnt] fun t =>
        (t.port p).fwd = (s.port p).fwd.tail ∧ (t.port p).lastTx.map (fun x => (x.octets, x.inverted, x.forwarded)) = some (n, true, true) ∧
        t.count (portFn p) 15 = s.count (portFn p) 15)) ∧
    (s.mayStart p w residence = true → s.paused p = false → s.fwdFirst p = true → foundBad s p w residence = true →
      Does (.forwardEgressStart p residence) s [.portA, .portB] fun t => t.port p = { s.port p with fwd := (s.port p).fwd.tail }) ∧
    (s.mayStart p w residence = true → s.paused p = true → Does (.forwardEgressStart p residence) s [.portA, .portB, .cnt] fun t =>
      t.port p = { s.port p with fwd := (s.port p).fwd.tail } ∧
      t.count (portFn p) 18 = min (2 ^ 48 - 1) (s.count (portFn p) 18 + 1)))

/-- R184, R185, R189: ILK changes F ticks after an unsynchronised switch was decided, and the switch ends after 2 F; in
external mode the land and its samples are taken. Readings of the model's in it: log 43. -/
def Obligations.IlkCommands : Prop := ∀ s : State,
  (∀ u : Unsync, s.path.unsync = some u → u.changed = false → u.f ≤ (s.now - u.start).toNat →
    (Does .unsyncIlkChange s [.jobs, .rings, .pages, .link, .reqs, .path, .lov, .log, .cnt] fun t =>
      t.path.active = u.target ∧ t.path.unsync = some { u with changed := true } ∧ t.path.lastTick = s.now ∧
      t.host.hostPage.event.getLsbD 2 = true ∧ t.role u.target = .active) ∧
    (2 * u.f ≤ (s.now - u.start).toNat → Does .unsyncEnd s [.jobs, .rings, .pages, .link, .reqs, .path, .lov, .log, .cnt] fun t =>
      t.path.active = u.target ∧ t.path.unsync = none)) ∧
  (∀ u : Unsync, s.path.unsync = some u → u.changed = true → 2 * u.f ≤ (s.now - u.start).toNat →
    Does .unsyncEnd s [.path] fun t => t.path = { s.path with unsync := none }) ∧
  (∀ u : Unsync, s.path.unsync = some u → (s.now - u.start).toNat < u.f →
    exec .unsyncIlkChange s = .next s ∧ (exec .unsyncEnd s = .next s)) ∧
  (s.path.ext = true → ∀ high : Bool, exec (.ilkNChange high) s = .next { s with path := { s.path with ilkLand := high } }) ∧
  (s.path.ext = true → exec .ilkSample s =
    .next { s with path := { s.path with ilkHist := (s.path.ilkLand :: s.path.ilkHist).take 2 } }) ∧
  (s.path.ext = false → ∀ high : Bool, exec (.ilkNChange high) s = .next s ∧ exec .ilkSample s = .next s)

/-- R157, R200, R201, R206: the messages of a PTP port. A master port sends Sync and Announce and answers Delay_Req; a slave
port sends Delay_Req; with peer delay each port sends and answers Pdelay_Req. Each message goes to the queue of its
class, with the next sequence number; the transmit time is taken at the reference plane (R204). The octets are those of
IEEE 1588 (log 13). -/
def Obligations.PtpSending : Prop := ∀ (s : State) (p : Port), s.isRing = false →
  Room s p (s.txqEvent p) 256 → Room s p (s.txqGeneral p) 256 →
  (s.masters p = true →
    (Does (.ptpSyncSend p) s [.portA, .portB, .time] fun t =>
      Queued s t p (s.txqEvent p) (fun f => f.ptp = .sync ∧ f.src = s.svc.mac) ∧ t.port (otherPort p) = s.port (otherPort p) ∧
      t.ptp p = { s.ptp p with seqSync := (s.ptp p).seqSync + 1 } ∧ t.ptp (otherPort p) = s.ptp (otherPort p)) ∧
    (Does (.ptpAnnounceSend p) s [.portA, .portB, .time] fun t =>
      Queued s t p (s.txqGeneral p) (fun f => f.ptp = .announce ∧ f.src = s.svc.mac) ∧
      t.ptp p = { s.ptp p with seqAnn := (s.ptp p).seqAnn + 1 }) ∧
    (s.peerDelay = false → ∀ seq requester t4, Does (.ptpDelayReq p seq requester t4) s [.portA, .portB] fun t =>
      Queued s t p (s.txqGeneral p) (fun f => f.ptp = .delayResp ∧ f.src = s.svc.mac))) ∧
  ((s.peerDelay = false ∧ s.slaves p = true) ∨ (s.peerDelay = true ∧ s.ptpLive p = true) → ∀ t3 : Int,
    Does (.ptpDelayReqSend p t3) s [.portA, .portB, .time] fun t =>
      Queued s t p (s.txqEvent p) (fun f => f.ptp = if s.peerDelay then .pdelayReq else .delayReq) ∧
      (t.ptp p).reqSent = some ((s.ptp p).seqReq, s.txTime p t3) ∧ (t.ptp p).seqReq = (s.ptp p).seqReq + 1) ∧
  (s.ptpLive p = true → s.peerDelay = true → ∀ seq requester t2, Does (.ptpPdelayReq p seq requester t2) s [.portA, .portB] fun t =>
    Queued s t p (s.txqEvent p) (fun f => f.ptp = .pdelayResp ∧ f.asked = s.rxTime p t2)) ∧
  (s.masters p = false → exec (.ptpSyncSend p) s = .next s ∧ exec (.ptpAnnounceSend p) s = .next s ∧
    ∀ seq requester t4, exec (.ptpDelayReq p seq requester t4) s = .next s)

/-- R200, R201, R204, R209, R210, R216, R220: what PTP messages received do. A Sync of the port's domain is measured at
once, or held for its Follow_Up; Delay_Resp and Pdelay_Resp, in one step or two, set the mean delay; Announce, if it is
better than what was heard, and its time-out set the master. The halves round openly (log 9). Readings of the model's in
it: log 13. -/
def Obligations.PtpReceiving : Prop := ∀ (s : State) (p : Port),
  (∀ m : PtpSync, s.slaves p = true → m.domain.toNat = s.ptpDomain p →
    (m.twoStep = true → Does (.ptpSync p m) s [.time] fun t =>
      t.ptp p = { s.ptp p with pending := some (m.seq, s.rxTime p m.t2, m.corr) } ∧ t.ptp (otherPort p) = s.ptp (otherPort p)) ∧
    (m.twoStep = false → Does (.ptpSync p m) s [.pages, .time, .cnt] fun t => (t.ptp p).synced = true ∧ (t.ptp p).pending = none ∧
      (t.ptp p).lastT2 = s.rxTime p m.t2 ∧
      (t.refRec (ptpRef p)).phase = s.rxTime p m.t2 - m.t1 - m.corr - (s.ptp p).meanDelay - s.time.phaseOfs)) ∧
  (∀ m : PtpSync, s.slaves p = false ∨ m.domain.toNat ≠ s.ptpDomain p → exec (.ptpSync p m) s = .next s) ∧
  (∀ c, (s.ptp p).pending = some c → ∀ seq t1 corr,
    (s.slaves p = true → seq = c.1 → Does (.ptpFollowUp p seq t1 corr) s [.pages, .time, .cnt] fun t => (t.ptp p).pending = none ∧
      (t.refRec (ptpRef p)).phase = c.2.1 - t1 - (c.2.2 + corr) - (s.ptp p).meanDelay - s.time.phaseOfs) ∧
    (seq ≠ c.1 → exec (.ptpFollowUp p seq t1 corr) s = .next s)) ∧
  (∀ c, (s.ptp p).reqSent = some c → ∀ seq t4 corr, s.slaves p = true → s.peerDelay = false → seq = c.1 →
    Does (.ptpDelayResp p seq t4 corr) s [.time] fun t =>
      (t.ptp p).reqSent = none ∧ (let x := ((s.ptp p).lastT2 - (s.ptp p).lastT1) + (t4 - corr - c.2)
        x ≤ 2 * (t.ptp p).meanDelay + 1 ∧ 2 * (t.ptp p).meanDelay ≤ x + 1)) ∧
  (∀ c, (s.ptp p).reqSent = some c → ∀ m : PtpPdelayResp, s.ptpLive p = true → s.peerDelay = true → m.followUp = false → m.seq = c.1 →
    (m.twoStep = false → Does (.ptpPdelayResp p m) s [.time] fun t =>
      (t.ptp p).reqSent = none ∧ (let x := s.rxTime p m.t4 - c.2 - m.turnaround
        x ≤ 2 * (t.ptp p).meanDelay + 1 ∧ 2 * (t.ptp p).meanDelay ≤ x + 1)) ∧
    (m.twoStep = true → Does (.ptpPdelayResp p m) s [.time] fun t => t.ptp p = { s.ptp p with
      reqSent := none, pdPending := some (m.seq, s.rxTime p m.t4 - c.2 - m.turnaround) })) ∧
  (∀ c, (s.ptp p).pdPending = some c → ∀ m : PtpPdelayResp, s.ptpLive p = true → s.peerDelay = true → m.followUp = true → m.seq = c.1 →
    Does (.ptpPdelayResp p m) s [.time] fun t => (t.ptp p).pdPending = none ∧ (let x := c.2 - m.turnaround
      x ≤ 2 * (t.ptp p).meanDelay + 1 ∧ 2 * (t.ptp p).meanDelay ≤ x + 1)) ∧
  (∀ m : PtpAnnounce, s.ptpLive p = true → m.domain.toNat = s.ptpDomain p → m.gm ≠ s.clockId →
    Does (.ptpAnnounce p m) s [.time, .cnt] fun t =>
      ((s.ptp p).best = none → (t.ptp p).best = some m ∧ (t.ptp p).announced = true) ∧
      (∀ b, (s.ptp p).best = some b → (b.gm = m.gm ∨ announceKey m < announceKey b → (t.ptp p).best = some m ∧ (t.ptp p).announced = true) ∧
        (b.gm ≠ m.gm → announceKey b ≤ announceKey m → (t.ptp p).best = some b))) ∧
  (∀ m : PtpAnnounce, m.domain.toNat ≠ s.ptpDomain p ∨ m.gm = s.clockId → exec (.ptpAnnounce p m) s = .next s) ∧
  (s.ptpRuns p = true → (s.ptp p).announced = true → Does (.announceTimeout p) s [.time, .cnt] fun t =>
    (t.ptp p).best = none ∧ (t.ptp p).announced = false ∧ (t.refRec (ptpRef p)).present = false ∧
    t.count 5 (2 + pathIx p) = min (2 ^ 48 - 1) (s.count 5 (2 + pathIx p) + 1)) ∧
  ((s.ptp p).role = .slave → Does (.syncReceiptTimeout p) s [.time, .cnt] fun t =>
    (t.ptp p).synced = false ∧ (t.refRec (ptpRef p)).present = false ∧ (t.refRec (ptpRef p)).qualified = false) ∧
  ((s.ptp p).role ≠ .slave → exec (.syncReceiptTimeout p) s = .next s)

/-- R207, R208, R211, R216, R218, R221, R224, R225: servo, lock and references. A servo update takes the offset measured,
against the edge plus WCIN_OFFSET, and keeps the lock; the lock timer locks below its bound and unlocks above four times
it; a slew that has ended acquires; the oscillator model is saved; each 100 ms a present reference is judged by its
frequency; an edge at WCIN of a good width and period makes it present, one at another time is a glitch, of which the
fourth within a second ends its presence, as a loss does. The other references keep theirs. Readings of the model's in it:
log 11, log 33, log 49. -/
def Obligations.ClockCommands : Prop := ∀ s : State,
  (∀ m : Int, s.running .timekeeper = true → 3 ≤ s.time.ref.toNat → 1 ≤ s.time.lock.toNat → s.time.lock.toNat ≤ 3 →
    s.now.toNat % 8 = 0 → Does (.servoUpdate m) s [.time] fun t => t.time.ofs = s.edgePhase m ∧ t.time.lock = s.time.lock ∧
      t.time = { s.time with ofs := s.edgePhase m, freq := t.time.freq, pred := t.time.pred }) ∧
  (∀ m : Int, s.running .timekeeper = false ∨ s.time.ref.toNat < 3 ∨ s.now.toNat % 8 ≠ 0 → exec (.servoUpdate m) s = .next s) ∧
  (s.time.lock = 1 → (s.time.ofs.natAbs : Int) ≤ s.lockBound →
    exec .lockTimer s = .next { s with time := { s.time with lock := 2, lockedS := 0 } }) ∧
  (s.time.lock = 2 → 4 * s.lockBound < (s.time.ofs.natAbs : Int) →
    exec .lockTimer s = .next { s with time := { s.time with lock := 1, lockedS := 0 } }) ∧
  (s.time.lock ≠ 1 → s.time.lock ≠ 2 → exec .lockTimer s = .next s) ∧
  (s.time.lock = 3 → s.time.slew = 0 → exec .slewComplete s = .next { s with time := { s.time with lock := 1, slewAcc := 0 } }) ∧
  (s.time.lock ≠ 3 ∨ s.time.slew ≠ 0 → exec .slewComplete s = .next s) ∧
  (s.chip.supply ≠ .off → exec .oscModelSave s = .next { s with time := { s.time with modelSaved := s.time.model } }) ∧
  (∀ freqs phases, s.chip.supply ≠ .off → Does (.refQualUpdate freqs phases) s [.pages, .time, .cnt] fun t =>
    t.refRec 0 = { s.refRec 0 with present := true } ∧ t.time = { s.time with refs := t.time.refs } ∧
    ∀ r : Fin 6, r ≠ 0 →
      (s.refPresent r = false → (t.refRec r).present = false ∧ (t.refRec r).qualified = false) ∧
      (s.refPresent r = true → (t.refRec r).present = true ∧ (t.refRec r).freq = (freqs[r.val - 1]?).getD (s.refRec r).freq ∧
        (let tol := s.timeParam (if r.val ≤ 2 then 9 else 10)
         ((t.refRec r).freq.natAbs ≤ 1000 * tol → (t.refRec r).goodMs = (s.refRec r).goodMs + 100 ∧ (t.refRec r).badMs = 0 ∧
           ((s.refRec r).qualified = false → ((t.refRec r).qualified = true ↔ s.timeParam 8 ≤ (s.refRec r).goodMs + 100))) ∧
         (1000 * tol < (t.refRec r).freq.natAbs → (t.refRec r).goodMs = 0 ∧ (t.refRec r).badMs = (s.refRec r).badMs + 100 ∧
           ((s.refRec r).qualified = true → ((t.refRec r).qualified = false ↔ s.timeParam 8 ≤ (s.refRec r).badMs + 100)))))) ∧
  (∀ (sinceLast high : Nat) (phase : Int), s.chip.supply ≠ .off → 1000 ≤ sinceLast → 1000 ≤ high →
    (990000000 ≤ sinceLast * s.fsHz → sinceLast * s.fsHz ≤ 1010000000 →
      Does (.wcinEdge sinceLast high phase) s [.time, .cnt] fun t => (t.refRec 3).present = true ∧ (t.refRec 3).phase = s.edgePhase phase ∧
        t.time.glitches = s.time.glitches ∧ ∀ r : Fin 6, r ≠ 3 → t.refRec r = s.refRec r) ∧
    ((s.refRec 3).present = false → 4000000000 ≤ sinceLast * s.fsHz → Does (.wcinEdge sinceLast high phase) s [.time] fun t =>
      (t.refRec 3).present = false ∧ (t.refRec 3).phase = s.edgePhase phase) ∧
    ((s.refRec 3).present = true → sinceLast * s.fsHz < 990000000 ∨ 1010000000 < sinceLast * s.fsHz →
      Does (.wcinEdge sinceLast high phase) s [.time, .cnt] fun t => t.count 5 16 = min (2 ^ 48 - 1) (s.count 5 16 + 1) ∧
        t.time.glitches = s.now :: s.time.glitches.filter (fun e => decide ((s.now - e).toNat < s.fsHz)) ∧
        (t.time.glitches.length < 4 → t.refRec 3 = s.refRec 3) ∧ (4 ≤ t.time.glitches.length → (t.refRec 3).present = false))) ∧
  (∀ (sinceLast high : Nat) (phase : Int), sinceLast < 1000 ∨ high < 1000 → exec (.wcinEdge sinceLast high phase) s = .next s) ∧
  (Does .wcinLoss s [.time, .cnt] fun t => (t.refRec 3).present = false ∧ (t.refRec 3).qualified = false ∧
    ∀ r : Fin 6, r ≠ 3 → t.refRec r = s.refRec r)

/-- R230, R233, R235, R238, R243, R254: a packet of an enabled stream is handled by the first row of R238's table that
applies, and each row counts in its own counter: a wrong form or length, a margin below 0, one above 8000, a block already
held, and else a block stored by tick index, where ticks already held keep their samples. With RX_EN 0, from another
source than the one of a source-specific entry, or before STREAM_RX and its path run, nothing happens. Readings of the
model's in it: log 29. -/
def Obligations.StreamReception : Prop := ∀ (s : State) (p : Port) (k : Fin 128) (pkt : StreamPacket),
  (s.running (pathFunc p) = true → s.running .streamRx = true → s.isFed p = true → k.val < s.rxCount → s.rxEn k.val = true →
    fromTalker s k.val pkt = true →
    (let n := (payloadTicks s k.val pkt).getD 0
     let fmt := s.rxFld k.val 0 1 % 16
     let ch := s.rxFld k.val 1 1
     let offset := s.rxFld k.val 4 2
     let words := payloadWords fmt (ch * n) pkt.payload
     let good := 1 ≤ n ∧ n ≤ 64 ∧ formOk s fmt pkt = true
     (rxStamp s p k.val pkt = none ∨ ¬ good → Does (.streamPacketReceive p k pkt) s [.cnt] fun t =>
       Counts s t 3 (rxCnt p k.val 5) 1) ∧
     ∀ stamp : DWord, rxStamp s p k.val pkt = some stamp → good →
       (let m : Int := (stamp - s.now).toInt + offset - 2
        let first := stamp + BitVec.ofNat 64 offset
        let held := fun i : Nat => (s.rx p k.val).held.any fun e => e.1 == first + BitVec.ofNat 64 i
        let gap := seqGap (s.rxAes k.val) (s.rx p k.val).expect pkt.seq
        (m < 0 → Does (.streamPacketReceive p k pkt) s [.strm, .cnt] fun t => Counts s t 3 (rxCnt p k.val 2) 1 ∧
          t.rx p k.val = (s.rx p k.val).noteMargin m) ∧
        (8000 < m → Does (.streamPacketReceive p k pkt) s [.strm, .cnt] fun t => Counts s t 3 (rxCnt p k.val 3) 1 ∧
          t.rx p k.val = (s.rx p k.val).noteMargin m) ∧
        (0 ≤ m → m ≤ 8000 → (∀ i ∈ List.range n, held i = true) → Does (.streamPacketReceive p k pkt) s [.strm, .cnt] fun t =>
          Counts s t 3 (rxCnt p k.val 4) 1 ∧ t.rx p k.val = (s.rx p k.val).noteMargin m) ∧
        (0 ≤ m → m ≤ 8000 → (∃ i, i ∈ List.range n ∧ held i = false) →
          Does (.streamPacketReceive p k pkt) s [.path, .strm, .cnt] fun t =>
            t.count 3 (rxCnt p k.val 0) = min (2 ^ 48 - 1) (s.count 3 (rxCnt p k.val 0) + 1) ∧
            t.count 3 (rxCnt p k.val 1) = min (2 ^ 48 - 1) (s.count 3 (rxCnt p k.val 1) + gap) ∧
            (gap = 0 → t.path = s.path ∧ ((fmt = 5 → ∀ w ∈ words, (floatIn w).2 = false) → Counts s t 3 (rxCnt p k.val 0) 1)) ∧
            (fmt = 5 → (∃ w, w ∈ words ∧ (floatIn w).2 = true) →
              t.count 3 (rxCnt p k.val 9) = min (2 ^ 48 - 1) (s.count 3 (rxCnt p k.val 9) + 1)) ∧
            (∀ (q : Port) (j : Fin 128), rxKey q j.val ≠ rxKey p k.val → t.rx q j.val = s.rx q j.val) ∧
            t.rx p k.val = { (s.rx p k.val).noteMargin m with
              held := blockTicks first ch fmt n words (s.rx p k.val).held
              prev := some (stamp, n), expect := some (pkt.seq + 1) })))) ∧
  (s.running (pathFunc p) = false ∨ s.running .streamRx = false ∨ s.rxEn k.val = false ∨ s.isFed p = false ∨
    s.rxCount ≤ k.val ∨ fromTalker s k.val pkt = false → exec (.streamPacketReceive p k pkt) s = .next s)

/-- R234, R246, R247, R254, R267, R278: the packet of the block that ends at this boundary joins its queue and the
sequence number counts one up for each block since the last launch; with the link down or a full queue it is not sent and
is counted, and a disabled stream sends nothing; the first launch makes STREAM_TX RUNNING. A ramp that has reached its
target leaves the crosspoint at it, and inactive at 0. 64 ticks after a generator's last write its settings come into
force and its output rises. The octets of a packet are those of log 13. Readings of the model's in it: log 30. -/
def Obligations.StreamAndRouterEvents : Prop := ∀ s : State,
  (∀ (k : Fin 64) (st : DWord), (s.tx k.val).next = some st →
    (let x := s.tx k.val
     let pt := max 1 (s.txFld k.val 4 1)
     let d := (s.now - st).toNat
     let q := s.txQueue k.val
     let seq := x.seq + BitVec.ofNat 16 (d / pt - 1)
     let f := fun p => txFrame s k.val p seq (s.now - BitVec.ofNat 64 pt)
     let goesOn := fun live => { x with
       seq := if x.en then x.seq + BitVec.ofNat 16 (d / pt) else x.seq, en := s.txEn k.val, live
       next := some (st + BitVec.ofNat 64 (d / pt * pt)) }
     k.val < s.txCount → d < 2 ^ 63 → 0 < d / pt →
     (∀ p : Port, s.life? .streamTx = .running → x.en = true → d % pt = 0 → s.isRing = false → s.txPorts k.val = [p] → (f p).len ≤ s.maxLen p →
       (s.fits p q (max 64 (f p).len) = true →
         Does (.streamPacketLaunch k) s [.portA, .portB, .strm, .cnt] fun t =>
           Queued s t p q (fun g => g = { f p with len := max 64 (f p).len }) ∧ t.port (otherPort p) = s.port (otherPort p) ∧
           Counts s t 4 (4 * k.val + pathIx p) 1 ∧ t.tx k.val = goesOn true) ∧
       (s.fits p q (max 64 (f p).len) = false →
         Does (.streamPacketLaunch k) s [.portA, .portB, .strm, .cnt] fun t => (t.port p).queues = (s.port p).queues ∧
           t.count 4 (4 * k.val + 2) = min (2 ^ 48 - 1) (s.count 4 (4 * k.val + 2) + 1) ∧ t.tx k.val = goesOn false)) ∧
     (s.life? .streamTx = .running → x.en = false ∨ d % pt ≠ 0 → Does (.streamPacketLaunch k) s [.strm] fun t =>
       t.tx k.val = goesOn false ∧ ∀ j : Fin 64, j ≠ k → t.tx j.val = s.tx j.val) ∧
     (s.life? .streamTx = .starting → Does (.streamPacketLaunch k) s [.funcs, .jobs, .acts, .rings, .pages, .link, .reqs, .svc, .portA,
         .portB, .path, .strm, .loc, .pwr, .log, .cnt] fun t => t.life? .streamTx = .running))) ∧
  (∀ k : Fin 64, (s.tx k.val).next = none ∨ (s.life? .streamTx).busy = false → exec (.streamPacketLaunch k) s = .next s) ∧
  (∀ (src snk : BitVec 11), (let key := xpKey src.toNat snk.toNat
    (∀ r : Ramp, (s.xp key).ramp = some r →
      (r.len ≤ r.k → Does (.crosspointRampEnd src snk) s [.lov] fun t =>
        t.xp key = { s.xp key with gain := (s.xp key).target, ramp := none } ∧ ((t.xp key).active = false ↔ (s.xp key).target = 0) ∧
        (∀ a b : BitVec 11, xpKey a.toNat b.toNat ≠ key → t.xp (xpKey a.toNat b.toNat) = s.xp (xpKey a.toNat b.toNat)) ∧ t.lov = { s.lov with xp := t.lov.xp }) ∧
      (r.k < r.len → exec (.crosspointRampEnd src snk) s = .next s)) ∧
    ((s.xp key).ramp = none → exec (.crosspointRampEnd src snk) s = .next s))) ∧
  (∀ g : Fin 16, ((s.gen g).wait = 1 → Does (.generatorSettingApply g) s [.lov] fun t =>
      (t.gen g).mode = BitVec.ofNat 3 (s.genMode g) ∧ (t.gen g).freq = BitVec.ofNat 32 (s.param .lovage (genPid g 2) 100000) ∧
      (t.gen g).period = BitVec.ofNat 32 (s.param .lovage (genPid g 4) 48000) ∧
      (t.gen g).seed = BitVec.ofNat 32 (s.param .lovage (genPid g 5) 1) ∧ (t.gen g).wait = 0 ∧ (t.gen g).fade.up = true ∧
      (t.gen g).level = (s.gen g).level ∧ (∀ h : Fin 16, h ≠ g → t.gen h = s.gen h) ∧ t.lov = { s.lov with gens := t.lov.gens }) ∧
    ((s.gen g).wait ≠ 1 → exec (.generatorSettingApply g) s = .next s))

/-- R342-R344, R349-R351: the PDM clocks and the decimators. After WARMUP PDM runs and the channels of its clocks are
reset; after its fade the clocks stop. A channel with 4096 bits of one level holds and fades, and is reset when the level
changes; settling ends with a CONTROL channel live and another rising. An edge of DSYNC with 200 ns before and after it
resets every channel at its boundary; a shorter one does nothing, and one that finds DECIM or DSYNC off counts. Readings
of the model's in it: log 30, log 37, log 59. -/
def Obligations.DecimatorEvents : Prop := ∀ s : State,
  DoesAt .pdmWarmupEnd s .decim (fun b t =>
    (b.life? .pdm = .starting → max 1 b.warmTicks ≤ b.since .pdm →
      Only [.funcs, .jobs, .acts, .rings, .pages, .link, .reqs, .svc, .portA, .portB, .path, .loc, .pwr, .log, .cnt] b t ∧
      t.life? .pdm = .running ∧ t.loc.warming = 0 ∧ t.loc.clkRun = b.loc.clkRun ∧ Counts b t 9 0 1 ∧
      (b.life? .decim = .running → ∀ c : Fin 40, c.val < 32 → b.loc.clkRun.getLsbD (c.val / 8) = true → (b.chain c.val).isSome = true →
        (t.dec c).clearAt = some b.now) ∧ ∀ f : Func, f ≠ .pdm → t.life? f = b.life? f) ∧
    (b.life? .pdm ≠ .starting ∨ b.since .pdm < max 1 b.warmTicks → t = b)) ∧
  DoesAt .pdmClockStop s .decim (fun b t =>
    (b.life? .pdm = .stopping → (b.func .pdm).fade.silent = true → t.loc.clkRun = 0 ∧
      t.loc.decs = b.loc.decs ∧ (∀ f : Func, f ≠ .pdm → t.life? f = b.life? f) ∧
      ((b.func .pdm).offReq = false → t.life? .pdm = .stopped) ∧ ((b.func .pdm).offReq = true → t.life? .pdm = .off)) ∧
    (b.life? .pdm ≠ .stopping ∨ (b.func .pdm).fade.silent = false → t = b)) ∧
  (∀ c : Fin 40, (let ratio := if s.ratioHigh c.val then 128 else 64
    (s.decRuns c = true → (s.dec c).stuck = false → 4096 ≤ (s.dec c).run + ratio →
      Does (.decStuck c) s [.loc, .cnt] fun t => t.dec c = { s.dec c with stuck := true, fade := (s.dec c).fade.go false (s.fadeTime .decim) } ∧
        Counts s t 8 2 1 ∧ (∀ d : Fin 40, d ≠ c → t.dec d = s.dec d)) ∧
    (s.decRuns c = false ∨ (s.dec c).stuck = true ∨ (s.dec c).run + ratio < 4096 → exec (.decStuck c) s = .next s))) ∧
  (∀ c : Fin 40, DoesAt (.decStuckRecover c) s .decim fun b t =>
    (b.decRuns c = true → (b.dec c).stuck = true → Only [.loc] b t ∧
      (t.dec c).stuck = false ∧ (t.dec c).run = 0 ∧ (t.dec c).clearAt = some b.now ∧ (t.dec c).peak = 0 ∧ (t.dec c).q = 0 ∧
      (∀ h, b.chain c.val = some h → (t.dec c).settle = h.settle (ratioOf (b.ratioHigh c.val)) + 1) ∧
      ∀ d : Fin 40, d ≠ c → t.dec d = b.dec d) ∧
    (b.decRuns c = false ∨ (b.dec c).stuck = false → t = b)) ∧
  (∀ c : Fin 40, (s.decRuns c = true → (s.dec c).settle = 1 → (s.dec c).clearAt = none → Does (.decSettleEnd c) s [.loc] fun t =>
      (t.dec c).settle = 0 ∧ ((s.dec c).isControl = true → (t.dec c).fade = Fade.one) ∧
      ((s.dec c).isControl = false → (t.dec c).fade.pos = 0 ∧ (t.dec c).fade.up = true) ∧ ∀ d : Fin 40, d ≠ c → t.dec d = s.dec d) ∧
    (s.decRuns c = false ∨ (s.dec c).settle ≠ 1 ∨ (s.dec c).clearAt.isSome = true → exec (.decSettleEnd c) s = .next s)) ∧
  (∀ low high : Nat, low < 200 ∨ high < 200 → exec (.dsyncEdge low high) s = .next s) ∧
  (∀ low high : Nat, 200 ≤ low → 200 ≤ high →
    (s.life? .decim = .running → s.dsyncEn = true → s.dsyncHeld = false → exec (.dsyncEdge low high) s =
      .next { s with loc := { s.loc with
        dsync := true, dsyncWait := true, dsyncFrom := if s.loc.dsyncWait then s.loc.dsyncFrom else s.now } }) ∧
    (s.life? .decim ≠ .running ∨ s.dsyncEn = false ∨ s.dsyncHeld = true → Does (.dsyncEdge low high) s [.loc, .cnt] fun t =>
      t.loc = { s.loc with dsync := true } ∧ Counts s t 8 1 1)) ∧
  DoesAt .dsyncReset s .decim (fun b t =>
    (b.loc.dsyncWait = true → (b.life? .decim).busy = true → Only [.loc, .cnt] b t ∧
      (∀ c : Fin 40, (b.decRuns c = true → (t.dec c).clearAt = some b.now ∧ (t.dec c).stuck = false ∧ (t.dec c).peak = 0) ∧
        (b.decRuns c = false → t.dec c = b.dec c)) ∧ (b.loc.syncSeen ≠ some b.now → Counts b t 8 0 1) ∧
      t.loc.syncTick = b.now ∧ t.loc.dsyncWait = false ∧ t.loc.tdm = b.loc.tdm) ∧
    (b.loc.dsyncWait = true → (b.life? .decim).busy = false → t = { b with loc := { b.loc with dsyncWait := false } }) ∧
    (b.loc.dsyncWait = false → t = b))

/-- R354, R356, R357, R365: the frames of a TDM port. A master's frame brings its slots; a slave's good frame counts
towards a stable clock, and a frame with another bit-clock count or another number of frame starts is counted and mutes
the port; 64 frames in a row of one wrong count, or of a period more than 2 % off, unlock it; so does the loss of the
frame starts. Readings of the model's in it: log 36. -/
def Obligations.TdmEvents : Prop := ∀ (s : State) (x : Fin 2) (slots : List Word),
  (let fn := (tdmFunc x).id.toNat
   let want := 32 * s.tdmSlots x
   let r := s.tdm x
   ((s.life? (tdmFunc x)).busy = true →
    (∀ bck edges ppm, s.tdmSlave x = false → r.clocks = true → Does (.tdmFrame x bck edges ppm slots) s [.loc, .cnt] fun t =>
      t.tdm x = { r with rx := some slots, frameBck := BitVec.ofNat 16 want } ∧
      Counts s t fn 0 1 ∧ ∀ y, y ≠ x → t.tdm y = s.tdm y) ∧
    (s.tdmSlave x = true → r.state ≠ 6 → ∀ (bck edges : Nat) (ppm : Int),
      (let j := if edges = 0 then r else r.judge want bck ppm
       (j.badRate < 64 → j.badBck < 64 →
        (bck = want → edges = 1 → r.good? = true → Does (.tdmFrame x bck edges ppm slots) s [.loc, .cnt] fun t =>
          Counts s t fn 0 1 ∧ t.tdm x = { j with good := r.good + 1, rx := some slots } ∧ ∀ y, y ≠ x → t.tdm y = s.tdm y) ∧
        (bck = want → edges = 1 → r.good? = false → s.tdmStable x ≤ r.good + 1 →
          Does (.tdmFrame x bck edges ppm slots) s [.loc, .cnt] fun t => (t.tdm x).state = 4 ∧ (t.tdm x).fade.up = true ∧ Counts s t fn 0 1) ∧
        (bck = want → edges = 1 → r.good? = false → r.good + 1 < s.tdmStable x →
          Does (.tdmFrame x bck edges ppm slots) s [.loc, .cnt] fun t => t.tdm x = { j with good := r.good + 1, rx := some slots } ∧ Counts s t fn 0 1) ∧
        (bck ≠ want → edges = 1 → Does (.tdmFrame x bck edges ppm slots) s [.loc, .cnt] fun t =>
          t.tdm x = { j with state := 3, good := 0, rx := none, fade := (t.tdm x).fade } ∧ (t.tdm x).fade.up = false ∧
          Counts s t fn 2 1 ∧ ∀ y, y ≠ x → t.tdm y = s.tdm y) ∧
        (edges ≠ 1 → edges = 0 → r.state ≠ 2 → Does (.tdmFrame x bck edges ppm slots) s [.loc, .cnt] fun t =>
          t.tdm x = { j with state := 3, good := 0, rx := none, fade := (t.tdm x).fade } ∧ Counts s t fn 3 1) ∧
        (2 ≤ edges → Does (.tdmFrame x bck edges ppm slots) s [.loc, .cnt] fun t =>
          t.tdm x = { j with state := 3, good := 0, rx := none, fade := (t.tdm x).fade } ∧ Counts s t fn 3 1)) ∧
       (64 ≤ j.badRate ∨ 64 ≤ j.badBck → edges ≠ 0 → Does (.tdmFrame x bck edges ppm slots) s [.loc, .cnt] fun t =>
         (t.tdm x).state = 6 ∧ (t.tdm x).good = 0 ∧ (t.tdm x).rx = none ∧ t.count fn 4 = min (2 ^ 48 - 1) (s.count fn 4 + 1)))) ∧
    (s.tdmSlave x = true → r.state ≠ 2 → r.state ≠ 6 → Does (.tdmLoss x) s [.loc, .cnt] fun t =>
      (t.tdm x).state = 2 ∧ (t.tdm x).good = 0 ∧ (t.tdm x).rx = none ∧ Counts s t fn 1 1 ∧
      ∀ y, y ≠ x → t.tdm y = s.tdm y)) ∧
   ((s.life? (tdmFunc x)).busy = false → ∀ bck edges ppm, exec (.tdmFrame x bck edges ppm slots) s = .next s) ∧
   ((s.life? (tdmFunc x)).busy = false ∨ s.tdmSlave x = false ∨ r.state = 2 ∨ r.state = 6 → exec (.tdmLoss x) s = .next s))

/-- R112-R114, R118, R408, R410: the descriptors that move bulk data or measure a load. A descriptor in good form, in a
state that allows it, joins those in progress and forms no record yet; a wrong form completes with BAD_DESC, a wrong state
with BAD_STATE, a ninth run with BUDGET, a container that fails its check with AUTH_FAIL. Readings of the model's in it:
log 12, log 23, log 24, log 54. -/
def Obligations.BulkDescriptors : Prop := ∀ (s s1 : State) (q : Fin 32) (d : Desc) (idx : Word), s.serving q d = some (idx, s1) →
  (opcodeOf d = 0x20 →
    (copyForm d = true → Does (.copy q d) s [.jobs, .rings, .pages, .taken] fun t => Begins s1 t q d idx) ∧
    (copyForm d = false → Does (.copy q d) s [.rings, .pages, .taken, .reqs] fun t => Ends s t q (endRec d idx 0x05 0 s.now))) ∧
  (opcodeOf d = 0x21 → captureForm d = false → Does (.capture q d) s [.rings, .pages, .taken, .reqs] fun t =>
    Ends s t q (endRec d idx 0x05 0 s.now)) ∧
  (opcodeOf d = 0x22 → playbackForm d = false → Does (.playback q d) s [.rings, .pages, .taken, .reqs] fun t =>
    Ends s t q (endRec d idx 0x05 0 s.now)) ∧
  (opcodeOf d = 0x21 → captureForm d = true →
    (s.running .capture = true → s.runs < 8 → Does (.capture q d) s [.jobs, .rings, .pages, .taken] fun t => Begins s1 t q d idx ∧
      t.life.jobs.getLast?.map (·.start) = some (if fbit d 31 1 then none else some (runStart s d))) ∧
    (s.running .capture = false → Does (.capture q d) s [.rings, .pages, .taken, .reqs] fun t =>
      Ends s t q (endRec d idx 0x04 0 s.now)) ∧
    (s.running .capture = true → 8 ≤ s.runs → Does (.capture q d) s [.rings, .pages, .taken, .reqs] fun t =>
      Ends s t q (endRec d idx 0x0B 0 s.now))) ∧
  (opcodeOf d = 0x22 → playbackForm d = true →
    (s.running .capture = true → (∀ k ∈ List.range (playCount d), s.genMode (Fin.ofNat 16 (playFirst d + k)) = 4) → s.runs < 8 →
      Does (.playback q d) s [.jobs, .rings, .pages, .taken] fun t => Begins s1 t q d idx ∧
        t.life.jobs.getLast?.map (·.start) = some (some (runStart s d))) ∧
    (s.running .capture = true → (∀ k ∈ List.range (playCount d), s.genMode (Fin.ofNat 16 (playFirst d + k)) = 4) → 8 ≤ s.runs →
      Does (.playback q d) s [.rings, .pages, .taken, .reqs] fun t => Ends s t q (endRec d idx 0x0B 0 s.now)) ∧
    (s.running .capture = false ∨ (∃ k, k ∈ List.range (playCount d) ∧ s.genMode (Fin.ofNat 16 (playFirst d + k)) ≠ 4) →
      Does (.playback q d) s [.rings, .pages, .taken, .reqs] fun t => Ends s t q (endRec d idx 0x04 0 s.now))) ∧
  (∀ h : HostRead, opcodeOf d = 0x23 → loadForm d = false → Does (.loadImage q d h) s [.rings, .pages, .taken, .reqs] fun t =>
    Ends s t q (endRec d idx 0x05 0 s.now)) ∧
  (∀ (f : Func), descFunc d = some f → ∀ h : HostRead, opcodeOf d = 0x23 → loadForm d = true → s.busWait (fld d 16 8) = false →
    (let c := (readSource s1 (fld d 16 8) (fld d 24 4) h).toOption.getD []
    (readSource s1 (fld d 16 8) (fld d 24 4) h).isOk = true → imgFuncOk (imgType c) f = true → 128 + imgLen c = c.length →
    (f ≠ .service → s.life? f ≠ .off → s.life? f ≠ .stopped → Does (.loadImage q d h) s [.rings, .pages, .taken, .reqs] fun t =>
      Ends s t q (endRec d idx 0x04 0 s.now)) ∧
    (f = .service ∨ s.life? f = .off ∨ s.life? f = .stopped →
    (imageCheck s1 c = 0 → bodyOk c = true → Does (.loadImage q d h) s [.jobs, .rings, .pages, .taken, .cores] fun t =>
      Begins s1 t q d idx ∧ t.life.jobs.getLast?.map (·.data) = some c ∧
      (∀ n, f = .sc n → t.core n = { s.core n with imageOk := false } ∧ ∀ m, m ≠ n → t.core m = s.core m) ∧
      (f = .service → t.cores = s.cores)) ∧
    (imageCheck s1 c ≠ 0 → Does (.loadImage q d h) s [.rings, .pages, .taken, .reqs] fun t =>
      Ends s t q (endRec d idx 0x09 0 s.now)) ∧
    (imageCheck s1 c = 0 → bodyOk c = false → Does (.loadImage q d h) s [.rings, .pages, .taken, .reqs] fun t =>
      Ends s t q (endRec d idx 0x05 0 s.now))))) ∧
  (∀ c : Fin 4, pchOf d = some c → s.chip.variant = .p →
    (opcodeOf d = 0x51 → (headerOk d false false && payloadOk d [(16, 1), (17, 1), (18, 1), (24, 8)] && fld d 16 1 ≤ 39 &&
        fld d 17 1 ≤ 60 && 1 ≤ fld d 18 1 && fld d 18 1 ≤ 16 && addrOk (fld d 24 8) 8) = true →
      (testReady c s = true → s.streamRuns (fld d 16 1) = true →
        Does (.polarityTest q d) s [.jobs, .rings, .pages, .taken, .pwr] fun t => Begins s1 t q d idx ∧
          (∃ r, (t.pch c).test = some r ∧ r.job = s.life.nextUid ∧ r.polarity = true ∧ r.repeats = fld d 18 1 ∧
            r.results = [] ∧ r.finished = false ∧ r.fade.up = false) ∧ ∀ k, k ≠ c → t.pch k = s.pch k) ∧
      (testReady c s = false ∨ s.streamRuns (fld d 16 1) = false → Does (.polarityTest q d) s [.rings, .pages, .taken, .reqs] fun t =>
        Ends s t q (endRec d idx 0x04 0 s.now))) ∧
    (opcodeOf d = 0x52 → (headerOk d false false && payloadOk d [(16, 1), (24, 8)] && fld d 16 1 ≤ 1 && addrOk (fld d 24 8) 8) = true →
      (testReady c s = true → Does (.loadTest q d) s [.jobs, .rings, .pages, .taken, .pwr] fun t => Begins s1 t q d idx ∧
        (∃ r, (t.pch c).test = some r ∧ r.job = s.life.nextUid ∧ r.polarity = false ∧ r.finished = false ∧ r.fade.up = false) ∧
        ∀ k, k ≠ c → t.pch k = s.pch k) ∧
      (testReady c s = false → Does (.loadTest q d) s [.rings, .pages, .taken, .reqs] fun t =>
        Ends s t q (endRec d idx 0x04 0 s.now))))

/-- R105, R112-R114, R118, R311, R312, R408-R410: what bulk work in progress does. COPY_COMPLETE writes the bytes read and
completes with the count of blocks. IMAGE_PLACED zeroes the core's program ranges, writes the image's section there and
marks the core's image good, or writes the inactive copy in the parameter store and makes it the active one. A playback
frame is read between 128 and 4 ticks ahead. Impulses of a test gather, and its result is written at its address. Readings
of the model's in it: log 24, log 35, log 46. -/
def Obligations.BulkProgress : Prop := ∀ s : State,
  (∀ (q : Fin 32) (j : Job), s.jobOn q 0x20 (fun _ => true) = some j → ∀ h : HostRead, j.silent = false →
    s.busWait (copySrc j.desc) = false → s.busWait (copyDst j.desc) = false →
    (let r := copyData s (copySrc j.desc) (copyLen j.desc) h
     let k := s.writable (copyDst j.desc) r.1.length
     let b := copyBlocks (copyDst j.desc) (copyLen j.desc)
     let e := copyBlocks (copyDst j.desc) k
     (r.2 = 0x00 → k = r.1.length → Does (.copyComplete q h) s [.jobs, .rings, .hostMem, .reqs, .memc, .mem, .cnt] fun t =>
       Ends s t j.ring (endRec j.desc j.idx 0x00 (b.1 + b2n b.2) s.now) ∧
       Wrote s t (copyDst j.desc) r.1 ∧ ∀ k ∈ t.life.jobs, k.uid ≠ j.uid) ∧
     (r.2 ≠ 0x00 ∨ k < r.1.length → Does (.copyComplete q h) s [.jobs, .rings, .link, .hostMem, .reqs, .memc, .mem, .cnt] fun t =>
       (let st : Byte := if k < r.1.length then 0x07 else r.2
        Ends s t j.ring (if e.1 = 0 ∧ e.2 = false then endRec j.desc j.idx st 0 s.now
          else { endRec j.desc j.idx 0x01 e.1 s.now with uncertain := e.2, cause := st.truncate 4 })) ∧
       Wrote s t (copyDst j.desc) (r.1.take k) ∧ ∀ k ∈ t.life.jobs, k.uid ≠ j.uid))) ∧
  (∀ (q : Fin 32) (h : HostRead), s.jobOn q 0x20 (fun _ => true) = none → exec (.copyComplete q h) s = .next s) ∧
  (∀ (q : Fin 32) (j : Job), s.jobOn q 0x23 (fun j => j.phase == 1) = some j → j.silent = false →
    (let st : Byte := if (s.ring q).draining then 0x08 else 0x00
    (∀ n : Fin 16, descFunc j.desc = some (.sc n) → Memory.wf s.mem = true → coreBodyOk (imgBody j.data) = true →
      Does (.imagePlaced q) s [.params, .jobs, .rings, .reqs, .cores, .mem] fun t =>
        Ends s t j.ring (endRec j.desc j.idx st 1 s.now) ∧
        t.core n = { s.core n with image := imageOf j.data, imageOk := true, imageUncertain := false, dirty := [] } ∧
        (∀ m, m ≠ n → t.core m = s.core m) ∧
        (∀ x ∈ imgSections (imgBody j.data), ∀ i ∈ List.range x.2.2.1,
          memByte t.mem (targetBase n x.1 + x.2.1 + i) = (imgBody j.data).getD (x.2.2.2 + i) 0) ∧
        (∀ m ∈ [0, 1, 2], ∀ i, i < progRange m → (∀ x ∈ imgSections (imgBody j.data), m ≠ x.1 ∨ i < x.2.1 ∨ x.2.1 + x.2.2.1 ≤ i) →
          memByte t.mem (targetBase n m + i) = 0) ∧
        (∀ a, (∀ m ∈ [0, 1, 2], a < targetBase n m ∨ targetBase n m + progRange m ≤ a) → memByte t.mem a = memByte s.mem a)) ∧
    (descFunc j.desc = some .service → Does (.imagePlaced q) s [.jobs, .rings, .reqs, .svc, .mem, .cnt] fun t =>
      Ends s t j.ring (endRec j.desc j.idx st 1 s.now) ∧
      (imgType j.data = 3 → t.mem = memPutList s.mem (settingsAt !s.svc.settingsCopy) j.data ∧
        t.svc.settingsCopy = !s.svc.settingsCopy ∧ t.svc.settingsValid = true ∧ t.svc.patchCopy = s.svc.patchCopy) ∧
      (imgType j.data = 1 → t.mem = memPutList s.mem (patchAt !s.svc.patchCopy) j.data ∧
        t.svc.patchCopy = !s.svc.patchCopy ∧ t.svc.patchValid = true ∧ t.svc.settingsCopy = s.svc.settingsCopy)))) ∧
  (∀ q : Fin 32, s.jobOn q 0x23 (fun j => j.phase == 1) = none → exec (.imagePlaced q) s = .next s) ∧
  (∀ (q : Fin 32) (tag : BitVec 16) (j : Job), s.jobOn q 0x22 (fun j => tagOf j.desc == tag) = some j → ∀ h : HostRead,
    (let i := if j.ahead s.now j.phase < 4 then j.phase + (4 - j.ahead s.now j.phase).toNat else j.phase
     let r := readSource s (frameAddr j.desc i) (frameSize j.desc) h
     (128 < j.ahead s.now i ∨ (runFrames j.desc ≠ 0 ∧ runFrames j.desc ≤ i) ∨ s.busWait (frameAddr j.desc i) = true →
       exec (.playbackFrameRead q tag h) s = .next s) ∧
     (j.ahead s.now i ≤ 128 → runFrames j.desc = 0 ∨ i < runFrames j.desc → s.busWait (frameAddr j.desc i) = false →
       (r.isOk = true → Does (.playbackFrameRead q tag h) s [.jobs] fun t => t.life.jobs = s.life.jobs.map fun k =>
         if k.uid = j.uid then { k with
           phase := i + 1, frames := k.frames ++ [(i, frameWords (fld j.desc 30 1 == 1) (playCount j.desc) (r.toOption.getD []))] }
         else k) ∧
       (r.isOk = false → Does (.playbackFrameRead q tag h) s [.jobs, .link] fun t => t.life.jobs = s.life.jobs.map fun k =>
         if k.uid = j.uid then { k with phase := i + 1 } else k)))) ∧
  (∀ (c : Fin 4) (x : TestRun × Job), s.testOn c = some x → (let r := x.1; let j := x.2
    (∀ (sign : BitVec 8) (delay : BitVec 24), r.polarity = true → r.results.length < r.repeats →
      64 + s.msTicks (200 * r.results.length + 20) ≤ testSince s j → sign = 0x01 ∨ sign = 0xFF ∨ sign = 0x00 →
      Does (.polarityImpulse c sign delay) s [.pwr] fun t =>
        t.pch c = { s.pch c with test := some { r with results := r.results ++ [(sign, delay)] } } ∧
        ∀ k, k ≠ c → t.pch k = s.pch k) ∧
    (∀ (sign : BitVec 8) (delay : BitVec 24), r.polarity = false ∨ r.repeats ≤ r.results.length ∨
      testSince s j < 64 + s.msTicks (200 * r.results.length + 20) → exec (.polarityImpulse c sign delay) s = .next s) ∧
    (r.polarity = true → r.finished = false → r.repeats ≤ r.results.length → s.busWait (testAddr j) = false → j.silent = false → 0 < r.repeats →
      s.dstOk (testAddr j) (polarityRecord s r).length = false → Does (.polarityResult c) s [.jobs, .rings, .reqs, .pwr, .free] fun t =>
        Ends s t j.ring { endRec j.desc j.idx 0x01 r.repeats s.now with cause := 7 }) ∧
    (r.polarity = true → r.finished = false → r.repeats ≤ r.results.length → s.busWait (testAddr j) = false →
      s.dstOk (testAddr j) (polarityRecord s r).length = true → Does (.polarityResult c) s [.hostMem, .pwr, .memc, .mem, .free] fun t =>
        Wrote s t (testAddr j) (polarityRecord s r) ∧ (∀ k, k ≠ c → t.pch k = s.pch k) ∧
        t.pch c = { s.pch c with test := some { r with finished := true, fade := r.fade.go true 64 } }) ∧
    (∀ rec : List Byte, r.polarity = false → r.finished = false →
      64 + s.msTicks (if fld j.desc 16 1 = 0 then 500 else 10700) ≤ testSince s j → s.busWait (testAddr j) = false →
      s.dstOk (testAddr j) (loadRecord s (fld j.desc 16 1) rec).length = true →
      Does (.loadTestResult c rec) s [.hostMem, .pwr, .memc, .mem] fun t =>
        Wrote s t (testAddr j) (loadRecord s (fld j.desc 16 1) rec) ∧ (∀ k, k ≠ c → t.pch k = s.pch k) ∧
        t.pch c = { s.pch c with test := some { r with finished := true, fade := r.fade.go true 64 } }))) ∧
  (∀ c : Fin 4, s.testOn c = none → (∀ sign delay, exec (.polarityImpulse c sign delay) s = .next s) ∧
    exec (.polarityResult c) s = .next s ∧ ∀ rec, exec (.loadTestResult c rec) s = .next s)

/-- R377-R379, R384: the bridge of a channel goes through its phases; the stop ends STOPPED or, after a fault, FAULTED
with that cause; a fast stop ends FAULTED with cause 0x04. The Chive term takes its new setting, is cut and rises again.
The other channels keep everything. What a rule puts at a boundary comes as the isolation link opens it (log 59). Readings
of the model's in it: log 41. -/
def Obligations.PowerStages : Prop := ∀ (s : State) (c : Fin 4),
  (s.life? (.pch c) = .starting → (s.pch c).phase = 1 → s.fsHz / 1000 ≤ s.since (.pch c) → exec (.pchSwitchingBegin c) s =
    .next (s.onPch c fun p => { p with
      phase := 2, cm := { cmUp (s.cmRampMs c) s.fsHz with pos := 1000 * s.since (.pch c) - s.fsHz } })) ∧
  (s.life? (.pch c) ≠ .starting ∨ (s.pch c).phase ≠ 1 ∨ s.since (.pch c) < s.fsHz / 1000 → exec (.pchSwitchingBegin c) s = .next s) ∧
  DoesAt (.pchEnterRunning c) s .isolink (fun b t =>
    ((b.pch c).phase = 2 → b.life? (.pch c) = .starting → b.msTicks (1 + b.cmRampMs c) ≤ b.since (.pch c) →
      Only [.funcs, .jobs, .acts, .rings, .pages, .link, .reqs, .svc, .portA, .portB, .path, .loc, .pwr, .log, .cnt] b t ∧
      t.life? (.pch c) = .running ∧ (t.pch c).phase = 3 ∧ (t.func (.pch c)).fade.up = true ∧ Counts b t (pchFn c) 0 1 ∧
      (∀ f : Func, f ≠ .pch c → t.func f = b.func f) ∧ ∀ k, k ≠ c → t.pch k = b.pch k) ∧
    ((b.pch c).phase = 2 → b.life? (.pch c) = .running → (b.pch c).cm.atFull = true → Only [.funcs, .pwr] b t ∧
      (t.pch c).phase = 3 ∧ t.life? (.pch c) = .running ∧
      (t.func (.pch c)).fade.pos = 0 ∧ (t.func (.pch c)).fade.up = true ∧ ∀ k, k ≠ c → t.pch k = b.pch k) ∧
    (rampDone c b = false → t = b)) ∧
  DoesAt (.pchCmRampDown c) s .isolink (fun b t =>
    ((b.pch c).phase = 4 → (b.func (.pch c)).fade.silent = true → Only [.pwr] b t ∧
      t.pch c = { b.pch c with phase := 5, cm := (t.pch c).cm, mark := (t.pch c).mark } ∧ (t.pch c).cm.up = false ∧
      ∀ k, k ≠ c → t.pch k = b.pch k) ∧
    ((b.pch c).phase ≠ 4 ∨ (b.func (.pch c)).fade.silent = false → t = b)) ∧
  ((s.pch c).phase = 5 → (s.pch c).cm.pos < 1000 →
    exec (.pchLowSideClosed c) s = .next (s.onPch c fun p => { p with phase := 1, cm := Fade.zero })) ∧
  ((s.pch c).phase ≠ 5 ∨ 1000 ≤ (s.pch c).cm.pos → exec (.pchLowSideClosed c) s = .next s) ∧
  DoesAt (.pchSwitchesOpen c) s .isolink (fun b t =>
    (b.life? (.pch c) = .stopping → (b.pch c).phase = 1 → b.pastMark c 0 = true →
      (t.pch c).phase = 0 ∧ (t.pch c).saved = some ((b.pch c).tc, (b.pch c).tm) ∧
      ((b.pch c).stopCause = 0 → (b.func (.pch c)).offReq = false → t.life? (.pch c) = .stopped) ∧
      ((b.pch c).stopCause = 0 → (b.func (.pch c)).offReq = true → t.life? (.pch c) = .off) ∧
      ((b.pch c).stopCause ≠ 0 → t.life? (.pch c) = .faulted ∧ (t.func (.pch c)).cause = (b.pch c).stopCause) ∧
      (∀ f : Func, f ≠ .pch c → t.func f = b.func f) ∧ ∀ k, k ≠ c → t.pch k = b.pch k) ∧
    (b.life? (.pch c) ≠ .stopping ∨ (b.pch c).phase ≠ 1 ∨ b.pastMark c 0 = false → t = b)) ∧
  ((s.pch c).phase = 6 → s.pastMark c (2 * s.fsHz / 1000) = true → (s.life? (.pch c)).busy = true → (s.pch c).test = none →
    s.chip.supply ≠ .off → (s.pch c).stopCause = 0 →
    Does (.fastStopEnd c) s [.funcs, .jobs, .acts, .rings, .pages, .link, .reqs, .portA, .portB, .path, .time, .strm, .lov, .cores,
        .loc, .pwr, .memc, .log, .cnt] fun t => (t.pch c).phase = 0 ∧
      t.life? (.pch c) = .faulted ∧ (t.func (.pch c)).cause = 0x04 ∧ Counts s t (pchFn c) 2 1 ∧
      (∀ f : Func, f ≠ .pch c → t.func f = s.func f) ∧ ∀ k, k ≠ c → t.pch k = s.pch k) ∧
  ((s.pch c).phase ≠ 6 ∨ (s.pastMark c (2 * s.fsHz / 1000) = false ∧ s.chip.supply ≠ .off) → exec (.fastStopEnd c) s = .next s) ∧
  DoesAt (.chiveSettingApply c) s .isolink (fun b t =>
    ((b.pch c).chiveWait = 1 → Only [.pwr] b t ∧
      (t.pch c).chiveSrc = BitVec.ofNat 8 (b.param (.pch c) 4 0xFF) ∧ (t.pch c).chiveGain = BitVec.ofNat 4 (b.param (.pch c) 5 0) ∧
      (t.pch c).chiveWait = 0 ∧ (t.pch c).phase = (b.pch c).phase ∧ ∀ k, k ≠ c → t.pch k = b.pch k) ∧
    ((b.pch c).chiveWait ≠ 1 → t = b)) ∧
  ((s.pch c).chiveSrc.toNat < 40 → (s.pch c).cut = false → (s.pch c).phase = 3 ∨ (s.pch c).phase = 4 →
    Does (.chiveCut c) s [.pwr, .cnt] fun t => t.pwr = (s.onPch c fun p => { p with chive := Fade.zero, cut := true }).pwr ∧
      Counts s t (pchFn c) 3 1) ∧
  (40 ≤ (s.pch c).chiveSrc.toNat ∨ (s.pch c).cut = true ∨ ((s.pch c).phase ≠ 3 ∧ (s.pch c).phase ≠ 4) →
    exec (.chiveCut c) s = .next s) ∧
  DoesAt (.chiveRestore c) s .isolink (fun b t =>
    ((b.pch c).cut = true → b.streamRuns (b.pch c).chiveSrc.toNat = true → t = b.onPch c fun p => { p with
      cut := false, chive := if p.chiveWait = 0 then p.chive.go true 64 else p.chive }) ∧
    ((b.pch c).cut = false ∨ b.streamRuns (b.pch c).chiveSrc.toNat = false → t = b))

/-- R378, R379, R391-R396: shorts, overloads and the retry. A short or an overload opens the bridge of its channel at
once; while RUNNING the retry wait begins, and once RETRY has exceeded RETRY_MAX the channel gives up at the next boundary
with cause 0x07; while STARTING it gives up at once; in a fast stop or an overvoltage short the cause of that one stands.
After the wait the low sides close for the probe, which leads to the start or to another wait. Readings of the model's in
it: log 38. -/
def Obligations.ShortsAndRetry : Prop := ∀ (s : State) (c : Fin 4),
  ((s.pch c).switches = true → Does (.currentLimit c) s [.cnt] fun t => Counts s t (pchFn c) 4 1) ∧
  ((s.pch c).switches = false → exec (.currentLimit c) s = .next s ∧ exec (.overload c) s = .next s) ∧
  ((s.pch c).phase = 0 ∨ (s.pch c).prot = 2 → ∀ pattern, exec (.shortDetect c pattern) s = .next s) ∧
  ((s.pch c).phase ≠ 0 → (s.pch c).prot ≠ 2 → (s.pch c).test = none →
    (let p := s.pch c
     let first := p.prot = 0 ∧ p.stopCause = 0 ∧ p.toFault = none
     let opened := fun (k : BitVec 4) (t : State) => (t.pch c).phase = 0 ∧ (t.pch c).vOut = 0 ∧
       (first → p.phase ≠ 6 → p.phase ≠ 7 → (t.pch c).kind = k) ∧
       (t.pch c).notices = p.notices ++ [k] ∧ (t.func (.pch c)) = { s.func (.pch c) with fade := Fade.zero } ∧
       (∀ f : Func, f ≠ .pch c → t.func f = s.func f) ∧ ∀ j, j ≠ c → t.pch j = s.pch j
     let waits := fun (t : State) => (t.pch c).prot = 1 ∧ (t.pch c).retry = min 255 (p.retry + 1) ∧ (t.pch c).mark = s.now ∧
       (t.pch c).toFault = if s.sageParam c 14 < p.retry + 1 then some 7 else p.toFault
     ∀ pattern : ShortPattern, ∀ e ∈ [(Instr.shortDetect c pattern, shortKind pattern), (Instr.overload c, 6)],
      (e.2 = 6 → p.switches = true) →
      (p.phase ≠ 6 → p.phase ≠ 7 →
        (s.life? (.pch c) = .running → Does e.1 s [.funcs, .pwr] fun t => opened e.2 t ∧ waits t) ∧
        (s.life? (.pch c) = .starting → Does e.1 s [.funcs, .pwr] fun t => opened e.2 t ∧ (t.pch c).toFault = some 7) ∧
        (s.life? (.pch c) = .stopping → Does e.1 s [.funcs, .pwr] fun t => opened e.2 t ∧ t.life? (.pch c) = .stopping ∧
          (t.pch c).toFault = p.toFault)) ∧
      (p.phase = 6 → Does e.1 s [.funcs, .pwr, .cnt] fun t => opened e.2 t ∧ Counts s t (pchFn c) 2 1 ∧
        ((s.life? (.pch c)).busy = true → (t.pch c).toFault = some 4)) ∧
      (p.phase = 7 → Does e.1 s [.funcs, .pwr] fun t => opened e.2 t ∧ (t.pch c).toFault = some 6))) ∧
  ((s.pch c).prot = 1 → (s.pch c).toFault = none → s.running (.pch c) = true →
    (s.pastMark c (s.sageParam c 15 * s.fsHz / 1000) = true → exec (.retryWaitExpiry c) s =
      .next (s.onPch c fun p => { p with phase := 1, prot := 2, mark := s.now })) ∧
    (s.pastMark c (s.sageParam c 15 * s.fsHz / 1000) = false → exec (.retryWaitExpiry c) s = .next s)) ∧
  ((s.pch c).prot ≠ 1 ∨ (s.pch c).toFault.isSome = true ∨ s.running (.pch c) = false → exec (.retryWaitExpiry c) s = .next s) ∧
  ((s.pch c).prot = 2 →
    (s.pastMark c (s.fsHz / 10000) = true → exec (.probe c true) s =
      .next (s.onPch c fun p => { p with phase := 2, prot := 0, cm := cmUp (s.cmRampMs c) s.fsHz })) ∧
    (s.pastMark c (s.fsHz / 10000) = false → exec (.probe c true) s = .next s) ∧
    Does (.probe c false) s [.pwr, .cnt] fun t => (t.pch c).prot = 1 ∧ (t.pch c).phase = 0 ∧
      (t.pch c).retry = min 255 ((s.pch c).retry + 1) ∧ (t.pch c).mark = s.now ∧ Counts s t (pchFn c) 7 1 ∧
      ∀ j, j ≠ c → t.pch j = s.pch j) ∧
  ((s.pch c).prot ≠ 2 → ∀ b, exec (.probe c b) s = .next s) ∧
  DoesAt (.retryClear c) s .isolink (fun b t =>
    ((b.pch c).phase = 3 → (b.pch c).prot = 0 → b.pastMark c (b.sageParam c 16 * b.fsHz) = true →
      t = b.onPch c fun p => { p with retry := 0 }) ∧
    ((b.pch c).phase ≠ 3 ∨ (b.pch c).prot ≠ 0 ∨ b.pastMark c (b.sageParam c 16 * b.fsHz) = false → t = b))

/-- R390, R391, R397, R415: the slow protection and the temperatures. DC and a die or baseplate too hot ask for the stop
of a channel, which comes at the next boundary; the first to ask is the cause. An open load is flagged and counted; the
fourth impedance window outside in a row is flagged; the warnings and stops clear below their thresholds. Temperatures are
in units of 1/16 degC, and saturate. Readings of the model's in it: log 39, log 40. -/
def Obligations.SlowProtection : Prop := ∀ (s : State) (c : Fin 4),
  (let ask := fun (k : BitVec 4) (p : Pch) => { p with stopNext := if p.stopNext.isSome then p.stopNext else some k }
   let held := fun (temp : Int) => BitVec.ofInt 16 (max (-32768) (min 32767 temp))
   (s.watched c = true → Does (.dcFault c) s [.pages, .pwr, .cnt] fun t => t.pwr = (s.onPch c (ask 8)).pwr ∧
     Counts s t (pchFn c) 9 1 ∧ t.host.hostPage.event.getLsbD 9 = true) ∧
   (s.watched c = false → exec (.dcFault c) s = .next s ∧ exec (.openLoad c) s = .next s) ∧
   (∀ temp : Int, s.chip.variant = .p → Does (.dieTempEvent c temp) s [.pages, .pwr] fun t =>
     (16 * 140 ≤ temp → (s.pch c).dieWarn = false → t.host.hostPage.event.getLsbD 13 = true) ∧
     t.pwr = (s.onPch c fun p => (let q := { p with die := held temp, dieWarn := p.dieWarn || decide (16 * 140 ≤ temp) }
       if 16 * 150 ≤ temp ∧ (s.life? (.pch c)).busy = true ∧ p.dieStop = false then ask 9 { q with dieStop := true }
       else if temp < 16 * 130 then { q with dieStop := false } else q)).pwr) ∧
   (∀ temp : Int, s.chip.variant = .p →
     (temp < 16 * 90 → exec (.baseplateTempEvent temp) s = .next { s with pwr := { s.pwr with base := held temp, baseStop := false } }) ∧
     (16 * 90 ≤ temp → s.running .sage = true → Does (.baseplateTempEvent temp) s [.pages, .pwr] fun t =>
       t.pwr.base = held temp ∧ t.pwr.baseWarn = true ∧ (s.pwr.baseWarn = false → t.host.hostPage.event.getLsbD 13 = true) ∧
       (t.pwr.baseStop = true ↔ 16 * 102 ≤ temp ∨ (16 * 95 ≤ temp ∧ s.pwr.baseStop = true)) ∧
       (16 * 102 ≤ temp → s.pwr.baseStop = false → t.pch c = if s.switching c then ask 0xA (s.pch c) else s.pch c) ∧
       (temp < 16 * 102 ∨ s.pwr.baseStop = true → t.pch c = s.pch c)) ∧
     (16 * 95 ≤ temp → s.running .sage = false → exec (.baseplateTempEvent temp) s =
       .next { s with pwr := { s.pwr with base := held temp } })) ∧
   (s.chip.variant = .l → ∀ temp, exec (.dieTempEvent c temp) s = .next s ∧ exec (.baseplateTempEvent temp) s = .next s) ∧
   (s.watched c = true → s.sageParam c 10 = 1 → (s.pch c).openLoad = false → Does (.openLoad c) s [.pages, .pwr, .cnt] fun t =>
     t.pwr = (s.onPch c fun p => (let q := { p with openLoad := true }
       if s.sageParam c 13 = 1 then ask 0xB q else q)).pwr ∧
     Counts s t (pchFn c) 10 1 ∧ t.host.hostPage.event.getLsbD 9 = true) ∧
   (s.sageParam c 10 ≠ 1 ∨ (s.pch c).openLoad = true → exec (.openLoad c) s = .next s) ∧
   exec (.openLoadClear c) s = .next (s.onPch c fun p => { p with openLoad := false }) ∧
   (s.running .sage = true → s.senseBad c = false → ((s.fsHz / 2 : Nat) : Int) ≤ (s.now - (s.pch c).zAt).toInt → ∀ z : Word,
     (let low := decide (s.sageParam c 11 ≠ 0 ∧ z.toNat < s.sageParam c 11)
      let high := decide (s.sageParam c 12 ≠ 0 ∧ s.sageParam c 12 < z.toNat)
      (z = 0xFFFFFFFF → exec (.impedanceWindow c z) s = .next (s.onPch c fun p => { p with z := z, zAt := s.now })) ∧
      (z ≠ 0xFFFFFFFF → low = true ∨ high = true → (s.pch c).zOut < 3 ∨ (s.pch c).zLow = true ∨ (s.pch c).zHigh = true →
        exec (.impedanceWindow c z) s = .next (s.onPch c fun p => { p with z := z, zAt := s.now, zOut := p.zOut + 1, zIn := 0 })) ∧
      (z ≠ 0xFFFFFFFF → low = true ∨ high = true → 3 ≤ (s.pch c).zOut → (s.pch c).zLow = false → (s.pch c).zHigh = false →
        Does (.impedanceWindow c z) s [.pages, .pwr, .cnt] fun t =>
          t.pwr = (s.onPch c fun p => (let q := { p with z := z, zAt := s.now, zOut := p.zOut + 1, zIn := 0, zLow := low, zHigh := high }
            if s.sageParam c 13 = 1 then ask 0xB q else q)).pwr ∧
          Counts s t (pchFn c) 11 1 ∧ t.host.hostPage.event.getLsbD 9 = true) ∧
      (z ≠ 0xFFFFFFFF → low = false → high = false → exec (.impedanceWindow c z) s = .next (s.onPch c fun p => { p with
        z := z, zAt := s.now, zOut := 0, zIn := p.zIn + 1, zLow := p.zLow && decide (p.zIn < 3), zHigh := p.zHigh && decide (p.zIn < 3) })))) ∧
   (s.running .sage = false ∨ s.senseBad c = true ∨ (s.now - (s.pch c).zAt).toInt < ((s.fsHz / 2 : Nat) : Int) →
     ∀ z : Word, exec (.impedanceWindow c z) s = .next s) ∧
   (s.pwr.logicWarn = false → Does .logicDieTempWarning s [.pages, .pwr] fun t => t.pwr = { s.pwr with logicWarn := true } ∧
     t.host.hostPage.event.getLsbD 13 = true) ∧
   (s.pwr.logicWarn = true → exec .logicDieTempWarning s = .next s) ∧
   exec (.tempWarningClear .logic) s = .next { s with pwr := { s.pwr with logicWarn := false } } ∧
   (s.pwr.base.toInt ≤ 16 * 85 → exec (.tempWarningClear .baseplate) s = .next { s with pwr := { s.pwr with baseWarn := false } }) ∧
   (16 * 85 < s.pwr.base.toInt → exec (.tempWarningClear .baseplate) s = .next s) ∧
   ((s.pch c).die.toInt ≤ 16 * 135 → exec (.tempWarningClear (.die c)) s = .next (s.onPch c fun p => { p with dieWarn := false })) ∧
   (16 * 135 < (s.pch c).die.toInt → exec (.tempWarningClear (.die c)) s = .next s) ∧
   (∀ temp : Int,
     (temp < 16 * 130 → exec (.tempStopRecovery (.die c) temp) s = .next (s.onPch c fun p => { p with dieStop := false, die := held temp })) ∧
     (16 * 130 ≤ temp → exec (.tempStopRecovery (.die c) temp) s = .next s) ∧
     (temp < 16 * 95 → exec (.tempStopRecovery .baseplate temp) s =
       .next { s with pwr := { s.pwr with baseStop := false, base := held temp } }) ∧
     (16 * 95 ≤ temp → exec (.tempStopRecovery .baseplate temp) s = .next s) ∧
     exec (.tempStopRecovery .logic temp) s = .next s))

/-- R399, R402, R404-R407, R415: Sage. An update, once in 16 ticks, starts the steps of G_sage from the gain before it; a
channel that is not modelled keeps its temperatures; one whose coil reaches T_MAX plus the margin is muted, counted and
reported. A valid window corrects the temperatures, or reseeds them, and a window without estimate ages the last; every 10
s the state is stored for every channel. Readings of the model's in it: log 35, log 40, log 59. -/
def Obligations.SageCommands : Prop := ∀ (s : State) (c : Fin 4),
  (let alive := s.running .sage = true ∧ s.chip.linkUp = true
   (∀ i2 p : Nat, alive → s.updateDue c = true → Does (.sageUpdate c i2 p) s [.pages, .pwr, .cnt] fun t =>
     (t.pch c).gFrom = (s.pch c).gSage ∧ (t.pch c).gStep = 0 ∧ (t.pch c).sageAt = some s.now ∧ (t.pch c).senseLost = s.senseBad c ∧
     ((t.pch c).limiting = true ↔ (t.pch c).gSage < 2 ^ 32) ∧ (t.pch c).phase = (s.pch c).phase ∧
     (s.sageOn c = false → (t.pch c).tc = (s.pch c).tc ∧ (t.pch c).tm = (s.pch c).tm ∧ (t.pch c).coilMute = false) ∧
     (s.sageOn c = true → (s.pch c).coilMute = false →
       ((s.sageParam c 1 : Int) * 2 ^ 48 / 10 + (s.sageParam c 3 : Int) * 2 ^ 48 / 10 ≤ (t.pch c).tc →
         (t.pch c).coilMute = true ∧ t.host.hostPage.event.getLsbD 8 = true ∧
         t.count (pchFn c) 14 = min (2 ^ 48 - 1) (s.count (pchFn c) 14 + 1)) ∧
       ((t.pch c).tc < (s.sageParam c 1 : Int) * 2 ^ 48 / 10 + (s.sageParam c 3 : Int) * 2 ^ 48 / 10 → (t.pch c).coilMute = false)) ∧
     (s.sageOn c = true → (s.pch c).coilMute = true →
       ((t.pch c).coilMute = true ↔ (s.sageParam c 1 : Int) * 2 ^ 48 / 10 ≤ (t.pch c).tc)) ∧
     ((s.pch c).limiting = false → (t.pch c).limiting = true → t.host.hostPage.event.getLsbD 8 = true) ∧
     t.pwr = { s.pwr with ch := t.pwr.ch } ∧ ∀ k, k ≠ c → t.pch k = s.pch k) ∧
   (¬ alive ∨ s.updateDue c = false → ∀ i2 p, exec (.sageUpdate c i2 p) s = .next s) ∧
   (alive → s.sageOn c = true → ((s.fsHz / 2 : Nat) : Int) ≤ (s.now - (s.pch c).winAt).toInt → ∀ r : Nat,
     (s.senseBad c = false → Does (.sageWindow c r true) s [.pwr, .cnt] fun t => Counts s t (pchFn c) 15 1 ∧
       (t.pch c).rEst = min r 65535 ∧ (t.pch c).rValid = true ∧ (t.pch c).rAge = 0 ∧ (t.pch c).winAt = s.now ∧
       ((s.pch c).reseed = false → (t.pch c).tm = (s.pch c).tm ∧
         (t.pch c).tc = (s.pch c).tc + (s.sageParam c 8 : Int) * (s.tMeas c r - (s.pch c).tc) / 256) ∧
       ((s.pch c).reseed = true → (t.pch c).tc = s.tMeas c r ∧ (t.pch c).tm = min (s.pch c).tm (s.tMeas c r) ∧
         (t.pch c).reseed = false) ∧ ∀ k, k ≠ c → t.pch k = s.pch k) ∧
     ∀ valid : Bool, valid = false ∨ s.senseBad c = true → exec (.sageWindow c r valid) s = .next (s.onPch c fun p => { p with
       winAt := s.now, rAge := p.rAge + 1, rValid := p.rValid && decide (p.rAge < 3) })) ∧
   (¬ alive ∨ s.sageOn c = false ∨ (s.now - (s.pch c).winAt).toInt < ((s.fsHz / 2 : Nat) : Int) →
     ∀ r valid, exec (.sageWindow c r valid) s = .next s)) ∧
  DoesAt .sageStateSave s .isolink (fun b t =>
    (b.running .sage = true → ((10 * b.fsHz : Nat) : Int) ≤ (b.now - b.pwr.savedAt).toInt → Only [.pwr] b t ∧
      t.pwr = { b.pwr with ch := t.pwr.ch, savedAt := b.now } ∧ ∀ k, t.pch k = { b.pch k with saved := some ((b.pch k).tc, (b.pch k).tm) }) ∧
    (b.running .sage = false ∨ (b.now - b.pwr.savedAt).toInt < ((10 * b.fsHz : Nat) : Int) → t = b))

/-- R416-R418, R420: the crossbar. A request to a target its master does not reach is answered MEM_ERROR at once and
counted; else it is outstanding, or waits while 32 are, and the order of a master's requests stays. A target grants the
waiting master of the highest priority, serves its first waiting request, and its answer returns once. An abandoned write
stores nothing and an abandoned answer reaches nobody; a master stops draining when nothing of it is outstanding. Readings
of the model's in it: log 17, log 45. -/
def Obligations.CrossbarCommands : Prop := ∀ (s : State) (m : Fin 13),
  (∀ r : XbarReq, (reqTarget r = none → exec (.xbarRequest m r) s =
      .next { s with memc := { s.memc with errCount := satInc s.memc.errCount, lastResp := some (m, r.id, 0x07, []) } }) ∧
    ∀ g : Fin 10, reqTarget r = some g →
      (reaches m g = false → exec (.xbarRequest m r) s =
        .next { s with memc := { s.memc with errCount := satInc s.memc.errCount, lastResp := some (m, r.id, 0x07, []) } }) ∧
      (reaches m g = true → burstOk r g = false → exec (.xbarRequest m r) s = .next s) ∧
      (reaches m g = true → burstOk r g = true →
        (Does (.xbarRequest m r) s [.memc] fun t => t.memc.lastResp = s.memc.lastResp ∧ t.memc.errCount = s.memc.errCount ∧
          (t.txnsOf m).map (·.req) ++ t.memc.queued[m] = (s.txnsOf m).map (·.req) ++ s.memc.queued[m] ++ [r] ∧
          ∀ k : Fin 13, k ≠ m → t.txnsOf k = s.txnsOf k ∧ t.memc.queued[k] = s.memc.queued[k]) ∧
        ((s.txnsOf m).length < 32 → s.memc.queued[m] = [] → s.held m r = false → Does (.xbarRequest m r) s [.memc] fun t =>
          t.txnsOf m = s.txnsOf m ++ [{ id := r.id, req := r, target := g }] ∧ t.memc.queued[m] = [] ∧
          t.memc.peak[m] = max s.memc.peak[m] ((s.txnsOf m).length + 1)) ∧
        (32 ≤ (s.txnsOf m).length ∨ (s.memc.queued[m] = [] ∧ s.held m r = true) → Does (.xbarRequest m r) s [.memc] fun t =>
          t.txnsOf m = s.txnsOf m ∧ t.memc.queued[m] = s.memc.queued[m] ++ [r] ∧ t.memc = { s.memc with queued := t.memc.queued }))) ∧
  (∀ g : Fin 10, s.grantee g = none → exec (.burstGrant g) s = .next s) ∧
  (∀ g : Fin 10, s.grantee g = some m → s.waits g m = true ∧ ∀ k, s.waits g k = true → s.xbarPrio k g ≤ s.xbarPrio m g) ∧
  (∀ g : Fin 10, s.grantee g = some m →
    (let before := (s.txnsOf m).takeWhile fun y => !(y.target == g && !y.granted)
     let from_ := (s.txnsOf m).dropWhile fun y => !(y.target == g && !y.granted)
     ∀ x : Txn, from_.head? = some x → reqTarget x.req = some g → burstOk x.req g = true →
     (let a := x.req.addr.toNat
      let served := fun (answer : Byte × List Byte) (t : State) =>
        t.txnsOf m = before ++ { x with granted := true, answer := some answer } :: from_.tail ∧
        ∀ k : Fin 13, k ≠ m → t.txnsOf k = s.txnsOf k
      (x.req.write = none →
        (s.rankFailed a = false → x.req.err ≠ .uncorrectable → s.poisonEnd a (a + x.req.len) = a + x.req.len →
          x.req.firmware = true ∨ s.readable (2 ^ 63 + a) x.req.len = x.req.len →
          Does (.burstGrant g) s [.pages, .memc, .log, .cnt, .free] (served (0x00, s.fetch a x.req.len))) ∧
        (s.rankFailed a = true ∨ x.req.err = .uncorrectable ∨ s.poisonEnd a (a + x.req.len) ≠ a + x.req.len ∨
          (x.req.firmware = false ∧ s.readable (2 ^ 63 + a) x.req.len ≠ x.req.len) →
          Does (.burstGrant g) s [.pages, .memc, .log, .cnt, .free] (served (0x07, [])))) ∧
      (∀ bs, x.req.write = some bs →
        (x.abandoned = true → Does (.burstGrant g) s [.memc] (served (0x00, []))) ∧
        (x.abandoned = false → s.rankFailed a = false → x.req.firmware = true ∨ s.writable (2 ^ 63 + a) bs.length = bs.length →
          Does (.burstGrant g) s [.pages, .memc, .mem, .log, .cnt, .free] fun t => served (0x00, []) t ∧ t.mem = memPutList s.mem a bs) ∧
        (x.abandoned = false → s.rankFailed a = true ∨ (x.req.firmware = false ∧ s.writable (2 ^ 63 + a) bs.length ≠ bs.length) →
          Does (.burstGrant g) s [.pages, .memc, .log, .cnt, .free] (served (0x07, []))))))) ∧
  (∀ id : BitVec 6,
    (let before := (s.txnsOf m).takeWhile fun y => y.id != id
     let from_ := (s.txnsOf m).dropWhile fun y => y.id != id
     (from_ = [] → exec (.transactionResponse m id) s = .next s) ∧
     ∀ x : Txn, from_.head? = some x →
     (x.answer = none → exec (.transactionResponse m id) s = .next s) ∧
     (∀ e : Byte × List Byte, x.answer = some e → Does (.transactionResponse m id) s [.memc] fun t =>
       t.memc.lastResp = (if x.abandoned then s.memc.lastResp else some (m, id, e.1, e.2)) ∧
       (s.memc.queued[m] = [] → t.txnsOf m = before ++ from_.tail) ∧
       (t.txnsOf m).map (·.req) ++ t.memc.queued[m] = (before ++ from_.tail).map (·.req) ++ s.memc.queued[m] ∧
       ∀ k : Fin 13, k ≠ m → t.txnsOf k = s.txnsOf k ∧ t.memc.queued[k] = s.memc.queued[k]))) ∧
  ((s.txnsOf m).any (·.abandoned) = true → exec (.masterResetDrain m) s = .next s) ∧
  ((s.txnsOf m).any (·.abandoned) = false → Does (.masterResetDrain m) s [.memc] fun t =>
    t.memc.draining = s.memc.draining &&& ~~~(BitVec.ofNat 13 (2 ^ m.val)) ∧
    (t.txnsOf m).map (·.req) ++ t.memc.queued[m] = (s.txnsOf m).map (·.req) ++ s.memc.queued[m] ∧
    (s.memc.queued[m] = [] → t.memc = { s.memc with draining := t.memc.draining }))

/-- R435: an atomic operation on an aligned word of the shared SRAM answers the old value and stores the new one; no other byte of
memory changes. Elsewhere it is answered MEM_ERROR and counted, and a misaligned or poisoned one MEM_ERROR; a master that has
none does nothing. -/
def Obligations.AtomicCommands : Prop := ∀ (s : State) (m : Fin 13) (a : AtomicArg) (new : DWord), Memory.wf s.mem = true →
  (let n := if a.wide then 8 else 4
   let at_ := a.addr.toNat
   let old := ofLe (s.read at_ n)
   let swaps := fun (t : State) (new : Nat) =>
     t.memc = { s.memc with lastResp := some (m, 0, 0x00, leBytes n old) } ∧ ofLe (t.read at_ n) = new % 2 ^ (8 * n) ∧
     ∀ b, b < at_ ∨ at_ + n ≤ b → memByte t.mem b = memByte s.mem b
   4 ≤ m.val → m.val ≤ 11 →
   (isSram at_ = true → at_ % n = 0 → s.poisonEnd at_ (at_ + n) = at_ + n →
     (Does (.swap m a) s [.memc, .mem] fun t => swaps t a.operand.toNat) ∧
     (Does (.fetchAdd m a) s [.memc, .mem] fun t => swaps t (old + a.operand.toNat)) ∧
     (Does (.fetchAnd m a) s [.memc, .mem] fun t => swaps t (old &&& a.operand.toNat)) ∧
     (Does (.fetchOr m a) s [.memc, .mem] fun t => swaps t (old ||| a.operand.toNat)) ∧
     (Does (.cas m a new) s [.memc, .mem] fun t =>
       swaps t (if old = a.operand.toNat % 2 ^ (8 * n) then new.toNat else old))) ∧
   (∀ e ∈ [(Instr.swap m a, 0), (Instr.fetchAdd m a, 0), (Instr.fetchAnd m a, 0), (Instr.fetchOr m a, 0), (Instr.cas m a new, 0)],
     (isSram at_ = false → exec e.1 s = .next { s with memc := { s.memc with
       errCount := satInc s.memc.errCount, lastResp := some (m, 0, 0x07, []) } }) ∧
     (isSram at_ = true → at_ % n ≠ 0 ∨ s.poisonEnd at_ (at_ + n) ≠ at_ + n →
       exec e.1 s = .next { s with memc := { s.memc with lastResp := some (m, 0, 0x07, []) } }))) ∧
  (m.val < 4 ∨ 11 < m.val →
    ∀ e ∈ [(Instr.swap m a, 0), (Instr.fetchAdd m a, 0), (Instr.fetchAnd m a, 0), (Instr.fetchOr m a, 0), (Instr.cas m a new, 0)],
      exec e.1 s = .next s)

/-- R421, R427, R428, R430-R434, R436, R440: refresh, self-refresh, scrub, errors, migration and the parameter store. A
corrected error counts within the hour, and at CE_LIMIT retires its rank; an uncorrectable one and a parity alert retire
it at once. A migration copies a MiB at a time and ends with the rank map naming the spare; module memory keeps its
contents at its addresses. A word of the store is written whole or, after four failures, keeps its value. Readings of the
model's in it: log 45, log 47. -/
def Obligations.DramCommands : Prop := ∀ (s : State) (r : Fin 4),
  (s.memc.selfRefresh.getLsbD r.val = true → ∀ b w, exec (.dramRefresh r b w) s = .next s) ∧
  (s.memc.selfRefresh.getLsbD r.val = false →
    (let owes := fun (n : Nat) (t : State) => t.memc = { s.memc with owed := t.memc.owed } ∧ t.memc.owed[r] = n ∧
       ∀ k : Fin 4, k ≠ r → t.memc.owed[k] = s.memc.owed[k]
     (∀ w, Does (.dramRefresh r false w) s [.memc] (owes 0)) ∧
     (s.memc.owed[r] < 8 → Does (.dramRefresh r true true) s [.memc, .cnt] fun t => owes (s.memc.owed[r] + 1) t ∧ Counts s t 0x0D 4 1) ∧
     (s.memc.owed[r] < 8 → Does (.dramRefresh r true false) s [.memc, .cnt] fun t => owes 0 t ∧ Counts s t 0x0D 4 1) ∧
     (8 ≤ s.memc.owed[r] → ∀ w, Does (.dramRefresh r true w) s [.cnt] fun t => Counts s t 0x0D 5 1))) ∧
  (s.memParam 9 ≠ 0 → s.running .memctl = true → Does (.selfRefreshEntry r) s [.memc] fun t =>
    t.memc.selfRefresh = s.memc.selfRefresh ||| BitVec.ofNat 4 (2 ^ r.val) ∧ (∀ e ∈ t.memc.openRow, e.1 / 16 ≠ r.val) ∧
    t.memc = { s.memc with selfRefresh := t.memc.selfRefresh, openRow := t.memc.openRow }) ∧
  (s.memParam 9 = 0 ∨ s.running .memctl = false → exec (.selfRefreshEntry r) s = .next s) ∧
  (let retired := fun (auto : Bool) (t : State) => t.memc.ranks[r] = 2 ∧
     t.memc.mig = some { rank := r, share := s.memParam 6, auto } ∧ t.host.hostPage.event.getLsbD 10 = true
   let canRetire := s.memc.mig = none ∧ s.memc.ranks[r] = 0 ∧ s.memc.spareValid = true
   (s.running .memctl = true → s.memc.ranks[r] = 0 ∨ s.memc.ranks[r] = 2 → ∀ (a : BitVec 31) (last : Bool),
     (let ce := s.log.poweredS.toNat :: (s.memc.ceHour[r].filter fun e => decide (s.log.poweredS.toNat < e + 3600))
      let noted := fun (kind : Nat) (t : State) => t.memc.errAddr = BitVec.ofNat 40 (s.rankBase r + a.toNat) ∧
        t.memc.errInfo = BitVec.ofNat 32 (kind + 16 * 15 + 256 * r.val)
      let passed := fun (i : Nat) (t : State) => t.count 0x0D i = min (2 ^ 48 - 1) (s.count 0x0D i + 1) ∧
        t.count 0x0D 10 = min (2 ^ 48 - 1) (s.count 0x0D 10 + b2n last)
      (last = false → exec (.patrolScrub r a .none last) s = .next s) ∧
      (last = true → Does (.patrolScrub r a .none last) s [.cnt] fun t => Counts s t 0x0D 10 1) ∧
      (s.memParam 10 = 0 ∨ ce.length < s.memParam 10 ∨ s.memc.ranks[r] = 2 → Does (.patrolScrub r a .correctable last) s [.memc, .cnt]
        fun t => passed 0 t ∧ noted 1 t ∧ t.memc.ceHour[r] = ce ∧ t.memc.ranks = s.memc.ranks) ∧
      (canRetire → s.memParam 10 ≠ 0 → s.memParam 10 ≤ ce.length → Does (.patrolScrub r a .correctable last) s
        [.pages, .memc, .log, .cnt] fun t => passed 0 t ∧ noted 1 t ∧ retired true t) ∧
      (Does (.patrolScrub r a .uncorrectable last) s [.pages, .memc, .log, .cnt] fun t => passed 1 t ∧ noted 2 t ∧
        (canRetire → retired true t)))) ∧
   (s.running .memctl = false ∨ (s.memc.ranks[r] ≠ 0 ∧ s.memc.ranks[r] ≠ 2) →
     ∀ a e last, exec (.patrolScrub r a e last) s = .next s) ∧
   (∀ (a : BitVec 40) (m : Fin 13), Does (.parityAlert r a m) s [.pages, .memc, .log, .cnt] fun t => Counts s t 0x0D 2 1 ∧
     t.memc.errAddr = a ∧ t.memc.errInfo = BitVec.ofNat 32 (3 + 16 * m.val + 256 * r.val) ∧ (canRetire → retired true t) ∧
     (s.memc.mig = none → s.memc.ranks[r] = 0 → s.memc.spareValid = false → t.memc.ranks[r] = 3 ∧ t.memc.failed.getLsbD r.val = true))) ∧
  (∀ hot, exec (.dramHotChange hot) s = .next { s with memc := { s.memc with hot } }) ∧
  exec .rowHammerWindowEnd s = .next { s with memc := { s.memc with rows := [], throttled := [] } } ∧
  (s.memc.mig = none → exec .rankMapSwitch s = .next s ∧ ∀ l b, exec (.migrationMibCopy l b) s = .next s) ∧
  (∀ g : Mig, s.memc.mig = some g →
    (let stays := ∀ j, s.migJob g = some j → g.auto = true ∨ (s.ring j.ring).draining = false
     (stays → g.doneMib < 2048 →
       exec (.migrationMibCopy [] false) s = .next { s with memc := { s.memc with mig := some { g with doneMib := g.doneMib + 1 } } } ∧
       ∀ o : BitVec 20, Does (.migrationMibCopy [o] false) s [.pages, .memc, .log, .cnt] fun t =>
         t.memc.mig = some { g with doneMib := g.doneMib + 1 } ∧ Counts s t 0x0D 3 1 ∧
         s.rankBase g.rank + g.doneMib * 2 ^ 20 + o.toNat / 4 * 4 ∈ t.memc.poison) ∧
     (∀ j, s.migJob g = some j → j.silent = false → g.auto = false → (s.ring j.ring).draining = true → g.doneMib < 2048 →
       Does (.migrationMibCopy [] false) s [.jobs, .rings, .reqs, .memc] fun t => t.memc.mig = none ∧ t.memc.ranks[g.rank] = 0 ∧
         Ends s t j.ring (endRec j.desc j.idx 0x08 (g.doneMib + 1) s.now)) ∧
     (2048 ≤ g.doneMib → ∀ l, exec (.migrationMibCopy l false) s = .next s) ∧
     (g.rank ≠ s.memc.spare → ∀ l, Does (.migrationMibCopy l true) s [.jobs, .rings, .link, .reqs, .memc] fun t => t.memc.mig = none ∧
       t.memc.spareValid = false ∧ t.memc.ranks[s.memc.spare] = 3 ∧ t.memc.ranks[g.rank] = s.memc.ranks[g.rank] ∧
       t.memc.rankMap = s.memc.rankMap ∧ ∀ j, s.migJob g = some j → j.silent = false →
         Ends s t j.ring { endRec j.desc j.idx 0x01 g.doneMib s.now with uncertain := true, cause := 7 }) ∧
     (g.doneMib < 2048 → exec .rankMapSwitch s = .next s) ∧
     (g.rank ≠ s.memc.spare → 2048 ≤ g.doneMib → Does .rankMapSwitch s [.jobs, .rings, .pages, .link, .reqs, .memc, .log, .cnt] fun t =>
       t.memc.mig = none ∧ t.memc.spareValid = false ∧
       t.memc.ranks[g.rank] = 3 ∧ t.memc.ranks[s.memc.spare] = 0 ∧ t.host.hostPage.event.getLsbD 10 = true ∧ Counts s t 0x0E 0 1 ∧
       (∀ l : Fin 3, t.memc.rankMap[l] = if s.memc.rankMap[l] = g.rank then s.memc.spare else s.memc.rankMap[l]) ∧
       ∀ j, s.migJob g = some j → j.silent = false → Ends s t j.ring (endRec j.desc j.idx 0x00 2048 s.now)))) ∧
  (∀ (addr : BitVec 22) (data : DWord) (failures : Nat) (c : Bool),
    (failures < 4 → Memory.wf s.mem = true → Does (.psWordWrite addr data failures c) s [.mem, .cnt] fun t =>
      (let a := 0x1010000000 + addr.toNat / 8 * 8
       ofLe (t.read a 8) = data.toNat ∧ ∀ b, b < a ∨ a + 8 ≤ b → memByte t.mem b = memByte s.mem b) ∧
      t.count 0x0E 0 = min (2 ^ 48 - 1) (s.count 0x0E 0 + 1) ∧ t.count 0x0E 1 = min (2 ^ 48 - 1) (s.count 0x0E 1 + b2n c)) ∧
    (4 ≤ failures → Does (.psWordWrite addr data failures c) s [.svc, .cnt] fun t => t.svc = { s.svc with writeFail := true } ∧
      t.count 0x0E 2 = min (2 ^ 48 - 1) (s.count 0x0E 2 + 1) ∧ t.count 0x0E 1 = min (2 ^ 48 - 1) (s.count 0x0E 1 + b2n c)))

/-- R15, R17-R19, R22, R74: a producer's vector goes, once, into the empty FIFO of the edge, waits at the producer while
the FIFO is full, and is discarded as late once its tick has passed; behind a vector that waits, and to a consumer not at
work, none goes. A miss at a boundary is counted once, begins the fall and, after a run on time, raises event bit 12; what
a FAULTED producer owes counts nothing. A fall ends at silence and a ramp at full gain. The other edges keep everything.
Readings of the model's in it: log 26, log 52. -/
def Obligations.VectorEvents : Prop := ∀ (s : State) (p : Producer) (k : Consumer),
  (let others := fun (s t : State) => ∀ q j, edgeKey q j ≠ edgeKey p k → t.edge q j = s.edge q j
   let e := s.edge p k
   edgeExists p k = true →
   (∀ v : Vec, vectorOf s p k = some v →
     (e.sent = some v.tick ∨ e.paused.isSome = true ∨ (s.life? (consFunc k)).busy = false →
       exec (.vectorHandoff p k) s = .next s) ∧
     (e.sent ≠ some v.tick → e.paused = none → (s.life? (consFunc k)).busy = true →
       (let passed := (e.seen.map fun u => v.tick == u || decide (2 ^ 63 ≤ (v.tick - u).toNat)) = some true
        (passed → Does (.vectorHandoff p k) s [.edges] fun t =>
          t.edge p k = { e with sent := some v.tick, late := e.late + 1 } ∧ others s t) ∧
        (¬ passed → e.fifo = none → Does (.vectorHandoff p k) s [.edges] fun t =>
          t.edge p k = { e with sent := some v.tick, fifo := some v } ∧ others s t) ∧
        (¬ passed → e.fifo ≠ none → Does (.vectorHandoff p k) s [.edges] fun t =>
          t.edge p k = { e with sent := some v.tick, paused := some v } ∧ others s t)))) ∧
   (vectorOf s p k = none → exec (.vectorHandoff p k) s = .next s) ∧
   DoesAt (.vectorMissed p k) s (consIsland k) (fun b t =>
     (let e := b.edge p k
      let producer := b.life? (prodFunc b p)
      let owed := b.consumes k = true ∧ owes b p = true ∧ e.fifo.map (·.tick) ≠ some b.now ∧
        producer ≠ .off ∧ producer ≠ .stopped ∧ producer ≠ .starting
      (owed → e.seen ≠ some b.now → Only [.pages, .path, .log, .cnt, .edges] b t ∧ others b t ∧ (t.edge p k).inMiss = true ∧
        (t.edge p k).seen = some b.now ∧ (t.edge p k).onTime = 0 ∧ (t.edge p k).missed = e.missed + b2n producer.busy ∧
        (t.edge p k).fade.up = false ∧ (t.edge p k).last = e.last ∧
        (producer.busy = true → e.inMiss = false → 2 ≤ e.onTime → t.host.hostPage.event.getLsbD 12 = true) ∧
        (producer.busy = false → Only [.edges] b t)) ∧
      (¬ owed ∨ e.seen = some b.now → t = b))) ∧
   (e.fade.up = false → e.fade.pos ≤ e.fade.step →
     Does (.fadeComplete p k) s [.edges] fun t => t.edge p k = { e with fade := Fade.zero } ∧ others s t) ∧
   (e.fade.up = true → e.fade.full ≤ e.fade.pos + e.fade.step →
     Does (.fadeComplete p k) s [.edges] fun t => t.edge p k = { e with fade := Fade.one } ∧ others s t)) ∧
  (edgeExists p k = false → exec (.vectorHandoff p k) s = .next s ∧ exec (.vectorMissed p k) s = .next s ∧
    exec (.fadeComplete p k) s = .next s)

/-- R11, R12, R24, R199, R450: a tick. At a boundary the counter goes on by one, unless a counter load is due; islands
whose clocks stand go with it. The token of an island's next tick makes its copy of the counter that tick; one that
carries another index, or a wrong parity, faults the island's function with cause 0x01 and stops the island. An island
that stands takes none; a token beyond those sent is judged against the next index (log 52). Readings of the model's in
it: log 26, log 34. -/
def Obligations.TickEvents : Prop := ∀ s : State,
  (s.chip.supply ≠ .off → Does .tickBoundary s [.chip, .funcs, .params, .live, .writes, .jobs, .acts, .rings, .pages, .link, .hostMem,
      .reqs, .svc, .portA, .portB, .path, .time, .strm, .lov, .cores, .loc, .pwr, .memc, .mem, .log, .cnt, .edges, .free] fun t =>
    (t.now = s.now + 1 ∨ t.time.loadAt = some t.now) ∧ t.copy .timing = t.now ∧
    (s.running .timekeeper = false → (s.func .timekeeper).startReq = false → s.time.accept = none →
      (∀ a ∈ s.life.acts, a.func ≠ .timekeeper) → (∀ w ∈ s.life.writes, pidFunc w.pid.toNat ≠ .timekeeper) →
      t.now = s.now + 1 ∧ t.time.loadAt = none) ∧
    ∀ i ∈ otherIslands, islandRuns i t = false → islandRuns i s = false → t.copy i = t.now) ∧
  (s.chip.supply = .off → Does .tickBoundary s [.funcs, .params, .jobs, .acts, .rings, .pages, .link, .hostMem, .reqs, .portA,
      .portB, .path, .time, .strm, .lov, .cores, .loc, .pwr, .memc, .mem, .log, .cnt, .free] fun t => t.now = s.now ∧
    ∀ c : Fin 4, (s.pch c).phase ≠ 6 → t.pch c = s.pch c) ∧
  (∀ (i : Island) (idx : BitVec 16) (parity : Bool) (streams : List (List Bool)),
    (let faults := fun (n : DWord) => ∀ f, ownerOf i = some f → (s.life? f).busy = true →
       Does (.tickToken i idx parity streams) s [.funcs, .jobs, .acts, .rings, .pages, .link, .hostMem, .reqs, .portA, .portB, .path,
         .time, .strm, .lov, .cores, .loc, .pwr, .memc, .mem, .log, .cnt, .free] fun t => t.life? f = .faulted ∧
         (t.func f).cause = 0x01 ∧ t.copy i = n ∧ t.halted i = true ∧ t.host.hostPage.event.getLsbD 1 = true ∧
         ∀ g : Func, g ≠ f → t.func g = s.func g
     (∀ n, s.tokenTick i = some n →
       (s.time.loadAt = some n ∨ (parity = true ∧ n.truncate 16 = idx) →
         Does (.tickToken i idx parity streams) s [.chip, .funcs, .params, .live, .writes, .jobs, .acts, .rings, .pages, .taken, .link,
           .hostMem, .reqs, .svc, .portA, .portB, .path, .time, .strm, .lov, .cores, .loc, .pwr, .memc, .mem, .log, .cnt, .edges, .free]
           fun t => t.begun i = false ∧ (i ≠ .timing → t.copy i = n ∧ t.now = s.now) ∧
             (i = .lovage → (t.life? .lovage).busy = true → t.lov.snkTick = some (n + 1))) ∧
       (s.time.loadAt ≠ some n → parity = false ∨ n.truncate 16 ≠ idx → faults n ∧
         (ownerOf i = none → Does (.tickToken i idx parity streams) s [.time] fun t => t.copy i = n ∧ t.now = s.now) ∧
         (∀ f, ownerOf i = some f → (s.life? f = .off ∨ s.life? f = .faulted) →
           Does (.tickToken i idx parity streams) s [.time, .free] fun t => t.copy i = n ∧ t.now = s.now))) ∧
     (s.tokenTick i = none → s.listens i = false ∨ (parity = true ∧ (s.copy i + 1).truncate 16 = idx) →
       exec (.tickToken i idx parity streams) s = .next s) ∧
     (s.tokenTick i = none → s.listens i = true → parity = false ∨ (s.copy i + 1).truncate 16 ≠ idx → faults (s.copy i) ∧
       (ownerOf i = none → exec (.tickToken i idx parity streams) s = .next s))))

/-- R302, R303, R306, R15, R24: a core's tasks. At the end of a block the task of the latest complete block starts at
TASK_ENTRY, if the core waits for one, its island's clock runs and no vector of it waits, with the words written since the
last release in the parameter area; blocks passed over are counted. A missed deadline counts once; a task that runs on
into the fourth block traps with cause TIMEOUT. A release that something has held back comes when that is gone. Readings
of the model's in it: log 14. -/
def Obligations.TaskEvents : Prop := ∀ (s : State) (n : Fin 16),
  (let others := fun (b t : State) => ∀ m, m ≠ n → t.core m = b.core m
   let fn := 0x10 + n.val
   let released := fun (b t : State) =>
     (let c := b.core n
      (∀ k, b.nextBlock n = some k → c.flight = [] → c.aovTrap = none → c.xfTrap = false →
         c.irqEn &&& c.irqPend &&& 0x3E = 0 ∨ c.image.irqEntry = 0xFFFF →
         Only [.cores, .mem, .cnt] b t ∧ others b t ∧
         t.count fn 0 = min (2 ^ 48 - 1) (b.count fn 0 + 1) ∧
         t.count fn 2 = min (2 ^ 48 - 1) (b.count fn 2 + (k - c.firstBlock.toNat)) ∧
         t.core n = { c with
           taskn := BitVec.ofNat 64 k, blen := BitVec.ofNat 7 (b.scBlock n), ibase := BitVec.ofNat 17 (0x18000 + 0x2000 * (k % 4))
           obase := BitVec.ofNat 17 (0x1C000 + 0x2000 * (k % 2)), firstBlock := BitVec.ofNat 64 (k + 1), late := false
           orphan := false, outBlock := none, released := b.now, relOff := 0, exec := .task, pc := c.image.taskEntry.truncate 12
           loops := [], waitXf := none, dirty := [], pseq := if c.dirty = [] then c.pseq else c.pseq + 1 } ∧
         (c.dirty = [] → t.mem = b.mem) ∧
         (MemInv b → (c.dirty.map (·.1)).Nodup → ∀ e ∈ c.dirty,
           ofLe (t.read (dyBase n + c.image.paramBase.toNat + 4 * e.1) 4) = e.2.toNat)) ∧
      (b.nextBlock n = none → t = b))
   (∀ k, s.nextBlock n = some k → (s.core n).exec = .waiting ∧ (s.core n).stopping = false ∧ (k + 1) * s.scBlock n ≤ s.now.toNat ∧
     s.now.toNat < (k + 2) * s.scBlock n ∧ (s.core n).firstBlock.toNat ≤ k ∧ islandRuns (.sc n) s = true ∧
     (s.edge (.sc n) .lovage).paused = none) ∧
   AtToken (.taskRelease n) s (.sc n) (fun b t => b.noneDue (.sc n) → (∀ w ∈ b.life.writes, w.due b (.sc n) = false) → released b t) ∧
   (s.tokenTick (.sc n) = none → s.copy (.sc n) = s.now → ∃ t, exec (.taskRelease n) s = .next t ∧ t.pending = s.pending ∧
     released s t) ∧
   DoesAt (.taskDeadlineMiss n) s (.sc n) (fun b t =>
     (let c := b.core n
      (c.inTask = true → c.late = false → c.orphan = false → (c.taskn.toNat + 2) * b.scBlock n ≤ b.now.toNat →
        Only [.cores, .cnt] b t ∧ t.core n = { c with late := true } ∧ Counts b t fn 1 1 ∧ others b t) ∧
      (c.inTask = false ∨ c.late = true ∨ c.orphan = true → t = b))) ∧
   (∀ m, s.tokenTick (.sc n) = some m → (s.core n).inTask = true → (s.core n).late = false → (s.core n).orphan = false →
     (s.core n).taskn.toNat * s.scBlock n + 2 * s.scBlock n ≤ m.toNat → (s.core n).taskn.toNat * s.scBlock n + 4 * s.scBlock n ≠ m.toNat →
     s.life? (.sc n) = .running → Does (.taskDeadlineMiss n) s [.funcs, .cores, .time, .cnt] fun t =>
       (t.core n).late = true ∧ Counts s t fn 1 1 ∧ others s t) ∧
   DoesAt (.taskTimeout n) s (.sc n) (fun b t =>
     (let c := b.core n
      (c.inHandler = false → c.image.trapEntry ≠ 0xFFFF → c.exec = .task → c.trapTick ≠ b.now ∨ bits c.trap 3 0 ≠ 6 → c.orphan = false →
        (c.taskn.toNat + 4) * b.scBlock n = b.now.toNat → Only [.cores] b t ∧ Trapped b t n 6) ∧
      (c.inTask = false ∨ c.orphan = true ∨ (c.trapTick = b.now ∧ bits c.trap 3 0 = 6) → t = b))))

/-- R305, R307, R308, R316, R317, R336, R337: what interrupts a core. A trap is taken in place of its bundle and enters
TRAP_ENTRY, or leads to FAULTED with cause 0x03 inside a handler or without one; an enabled interrupt enters IRQ_ENTRY,
and nothing that its bundle has issued takes effect; a paused core resumes when every selected transfer shows DONE; a
loop's last pass ends it; the doorbell sets its value and its pending bit. A core whose island's clock stands does none of
it (R24). Readings of the model's in it: log 14, log 25, log 28. -/
def Obligations.CoreInterrupts : Prop := ∀ (s : State) (n : Fin 16),
  (let c := s.core n
   let fn := 0x10 + n.val
   let others := fun t : State => ∀ m, m ≠ n → t.core m = s.core m
   (∀ cause : BitVec 4, cause = 2 ∨ cause = 3 ∨ cause = 4 ∨ cause = 7 →
     (s.issuing n = true → c.inHandler = false → c.image.trapEntry ≠ 0xFFFF →
       Does (.trapTaken n cause) s [.cores] fun t => Trapped s t n cause) ∧
     (s.issuing n = true → (s.life? (.sc n)).busy = true → c.inHandler = true ∨ c.image.trapEntry = 0xFFFF →
       Does (.trapTaken n cause) s [.funcs, .jobs, .acts, .rings, .pages, .link, .reqs, .cores, .memc, .mem, .log] fun t =>
         t.life? (.sc n) = .faulted ∧ (t.func (.sc n)).cause = 0x03 ∧ (t.core n).exec = .halted ∧
         (t.core n).trap = BitVec.ofNat 32 (cause.toNat + 2 ^ 16 * c.pc.toNat) ∧ (∀ f : Func, f ≠ .sc n → t.func f = s.func f) ∧
         others t) ∧
     (s.issuing n = false → exec (.trapTaken n cause) s = .next s)) ∧
   (∀ e, c.aovTrap = some e → s.issuing n = true → c.inHandler = false → e.2 = false → c.image.trapEntry ≠ 0xFFFF →
     Does (.trapTaken n 1) s [.cores] fun t => others t ∧ (t.core n).exec = .handler ∧ (t.core n).retPc = c.pc ∧
       (t.core n).retExec = c.exec ∧ (t.core n).aovTrap = none ∧ (t.core n).trap = BitVec.ofNat 32 (1 + 16 + 2 ^ 16 * e.1.toNat)) ∧
   (c.xfTrap = true → c.aovTrap = none → c.exec = .task ∨ c.exec = .init → islandRuns (.sc n) s = true → c.image.trapEntry ≠ 0xFFFF →
     Does (.trapTaken n 5) s [.cores] fun t => others t ∧ (t.core n).exec = .handler ∧ (t.core n).retPc = c.pc ∧
       (t.core n).retExec = c.exec ∧ (t.core n).xfTrap = false ∧ (t.core n).trap = BitVec.ofNat 32 (5 + 16 + 2 ^ 16 * c.pc.toNat)) ∧
   (c.aovTrap = none → c.xfTrap = false → exec (.trapTaken n 1) s = .next s ∧ exec (.trapTaken n 5) s = .next s) ∧
   (islandRuns (.sc n) s = true → c.exec = .task ∨ c.exec = .init → c.irqEn &&& c.irqPend &&& 0x3E ≠ 0 → c.image.irqEntry ≠ 0xFFFF →
     Does (.interruptTaken n) s [.cores, .cnt] fun t => Counts s t fn 5 1 ∧ others t ∧
       t.core n = { c with
         exec := .handler, pc := c.image.irqEntry.truncate 12, retPc := c.pc, retExec := c.exec, trapHandler := false
         flight := c.flight.filter fun f => f.issued != c.cycle }) ∧
   (c.irqEn &&& c.irqPend &&& 0x3E = 0 ∨ c.image.irqEntry = 0xFFFF ∨ c.inHandler = true ∨ c.exec = .waiting ∨ c.exec = .halted →
     exec (.interruptTaken n) s = .next s) ∧
   (∀ m, c.waitXf = some m → islandRuns (.sc n) s = true →
     ((∀ k : Fin 4, m.getLsbD k.val = true → c.xf[k].done = true) →
       Leaves (.waitxfResume n) s n fun c => { c with waitXf := none }) ∧
     (∀ k : Fin 4, m.getLsbD k.val = true → c.xf[k].done = false → exec (.waitxfResume n) s = .next s)) ∧
   (c.waitXf = none → exec (.waitxfResume n) s = .next s) ∧
   (∀ l, c.loops.head? = some l → l.last = c.pc → l.count + l.stages ≤ l.pass + 2 → c.inHandler = false → s.AtBundle n →
     Leaves (.loopExit n) s n fun c => { c with
       loops := c.loops.tail, rb := if l.rot then c.rb - 1 else c.rb, pc := c.pc + 1, cycle := c.cycle + 1 }) ∧
   (c.loops = [] ∨ c.inHandler = true ∨ (∀ l, c.loops.head? = some l → l.last ≠ c.pc ∨ l.pass + 2 < l.count + l.stages) →
     exec (.loopExit n) s = .next s) ∧
   (islandRuns (.sc n) s = false → exec (.interruptTaken n) s = .next s ∧ exec (.waitxfResume n) s = .next s ∧
     exec (.loopExit n) s = .next s) ∧
   (∀ v : Word, (3 ≤ s.chip.stage.toNat → Leaves (.scDoorbell n v) s n fun c => { c with
       dbell := v.truncate 16, irqPend := c.irqPend ||| 0x20 }) ∧
     (s.chip.stage.toNat < 3 → exec (.scDoorbell n v) s = .next s)))

/-- R291, R297, R309, R323-R326: what lands. The first result in flight reaches its register or memory; an accumulator
takes the sum modulo 2^80, and its AOV bit is set where the exact sum does not fit; with AOV_TRAP that traps. A transfer
moves its bytes and shows DONE, or shows ERR and, for MEM_ERROR, counts and traps; its interrupt bit is set where asked
for. The load port reads and writes what the core's state allows. Readings of the model's in it: log 15, log 28. -/
def Obligations.CoreLandings : Prop := ∀ (s : State) (n : Fin 16),
  (let c := s.core n
   let others := fun t : State => ∀ m, m ≠ n → t.core m = s.core m
   (islandRuns (.sc n) s = true → ∀ f, c.flight.head? = some f → c.aovTrap = none → c.xfTrap = false →
     (let r := c.flight.tail
      (∀ x sh, f.dest = .xLow x sh → ∀ v, f.val = .lanes v → Does (.resultLand n) s [.cores] fun t =>
        ((t.core n).bankOf sh).x[x] = v ∧ t.core n = { c with flight := r, main := (t.core n).main, shadow := (t.core n).shadow } ∧
        (t.core n).bankOf (!sh) = c.bankOf (!sh) ∧ (t.core n).bankOf sh = { c.bankOf sh with x := ((t.core n).bankOf sh).x } ∧
        (∀ y, y ≠ x → ((t.core n).bankOf sh).x[y] = (c.bankOf sh).x[y]) ∧ others t) ∧
      (∀ x, f.dest = .xHigh x → ∀ v, f.val = .lanes v → Leaves (.resultLand n) s n fun c => { c with
        flight := r, xu := c.xu.set x.val v x.isLt }) ∧
      (∀ x sh, f.dest = .acc x sh →
        (let old := c.accOf sh x
         (∀ v, f.val = .accSet v → Does (.resultLand n) s [.cores] fun t => (t.core n).accOf sh x = v ∧ (t.core n).aov = c.aov ∧
           (t.core n).flight = r ∧ (∀ y, y ≠ x → (t.core n).accOf sh y = c.accOf sh y) ∧ others t) ∧
         (∀ sub : Bool, s.scAovTrap n = false → ∀ v : AccLanes, f.val = (if sub then .accSub v else .accAdd v) →
           Does (.resultLand n) s [.cores] fun t => (t.core n).flight = r ∧ (∀ y, y ≠ x → (t.core n).accOf sh y = c.accOf sh y) ∧
             others t ∧ ∀ i : Fin 8, ((t.core n).accOf sh x)[i] = (if sub then old[i] - v[i] else old[i] + v[i]) ∧
               (t.core n).aov.getLsbD i.val = (c.aov.getLsbD i.val ||
                 overflows 80 (if sub then old[i].toInt - v[i].toInt else old[i].toInt + v[i].toInt))) ∧
         (∀ (v : AccLanes), f.val = .accAdd v → ∀ i : Fin 8, s.scAovTrap n = true → c.aov = 0 →
           overflows 80 (old[i].toInt + v[i].toInt) = true → c.exec = .task ∨ c.exec = .init → f.handler = false →
           c.image.trapEntry ≠ 0xFFFF →
           Does (.resultLand n) s [.cores] fun t => (t.core n).exec = .handler ∧ (t.core n).retPc = c.pc ∧ others t ∧
             bits (t.core n).trap 3 0 = 1 ∧ bits (t.core n).trap 27 16 = f.pc.toNat))) ∧
      (∀ x sh, f.dest = .acc x sh →
        (∀ (part : Fin 3) (v : Lanes), f.val = .accPart part v → Does (.resultLand n) s [.cores] fun t => (t.core n).aov = c.aov ∧
          (t.core n).flight = r ∧ (∀ y, y ≠ x → (t.core n).accOf sh y = c.accOf sh y) ∧ others t ∧ ∀ i : Fin 8,
            bits ((t.core n).accOf sh x)[i] 31 0 = (if part = 0 then v[i].toNat else bits (c.accOf sh x)[i] 31 0) ∧
            bits ((t.core n).accOf sh x)[i] 63 32 = (if part = 1 then v[i].toNat else bits (c.accOf sh x)[i] 63 32) ∧
            bits ((t.core n).accOf sh x)[i] 79 64 = (if part = 2 then bits v[i] 15 0 else bits (c.accOf sh x)[i] 79 64))) ∧
      (∀ x sh, f.dest = .acc x sh → ∀ as p : AccLanes, f.val = .accSum as p → s.scAovTrap n = false →
        Does (.resultLand n) s [.cores] fun t =>
          (t.core n).flight = r ∧ (∀ y, y ≠ x → (t.core n).accOf sh y = c.accOf sh y) ∧ others t ∧
          ∀ i : Fin 8, ((t.core n).accOf sh x)[i] = as[i] + p[i] ∧
            (t.core n).aov.getLsbD i.val = (c.aov.getLsbD i.val || overflows 80 (as[i].toInt + p[i].toInt))) ∧
      (∀ (sel : BitVec 6) sh, f.dest = .asel sel sh → ∀ w, f.val = .reg w → Does (.resultLand n) s [.cores] fun t =>
        (t.core n).flight = r ∧ (t.core n).bankOf (!sh) = c.bankOf (!sh) ∧ ((t.core n).bankOf sh).x = (c.bankOf sh).x ∧
        (∀ i : Fin 16, ((t.core n).bankOf sh).p[i] = if sel.toNat = i.val then w else (c.bankOf sh).p[i]) ∧
        (∀ i : Fin 8, ((t.core n).bankOf sh).m[i] = (if sel.toNat = 0x10 + i.val then w else (c.bankOf sh).m[i]) ∧
          ((t.core n).bankOf sh).b[i] = (if sel.toNat = 0x18 + i.val then w else (c.bankOf sh).b[i]) ∧
          ((t.core n).bankOf sh).l[i] = if sel.toNat = 0x20 + i.val then w.truncate 18 else (c.bankOf sh).l[i]) ∧ others t) ∧
      (∀ (x : Fin 4) sh, f.dest = .asel (BitVec.ofNat 6 (0x2B + 4 * x.val)) sh → ∀ w : Word, f.val = .reg w →
        Leaves (.resultLand n) s n fun c => { c with
          flight := r
          xf := c.xf.set x.val (let y := { c.xf[x] with irq := w.getLsbD 1, dir := w.getLsbD 2, mhi := BitVec.ofNat 8 (bits w 15 8) }
            if w.getLsbD 0 then { y with busy := true, done := false, err := 0 } else y) x.isLt }) ∧
      (f.dest = .aov → Leaves (.resultLand n) s n fun c => { c with flight := r, aov := 0 }) ∧
      (∀ dy a, f.dest = .mem dy a → ∀ w, f.val = .reg w → MemInv s → Does (.resultLand n) s [.cores, .mem] fun t =>
        (let at_ := (if dy then dyBase n else dxBase n) + a.toNat
         ofLe (t.read at_ 4) = w.toNat ∧ ∀ b, b < at_ ∨ at_ + 4 ≤ b → memByte t.mem b = memByte s.mem b) ∧
        t.core n = { c with flight := r } ∧ others t) ∧
      (∀ dy a, f.dest = .mem dy a → ∀ v : Lanes, f.val = .lanes v → MemInv s → Does (.resultLand n) s [.cores, .mem] fun t =>
        (let at_ := (if dy then dyBase n else dxBase n) + a.toNat
         (∀ i : Fin 8, ofLe (t.read (at_ + 4 * i.val) 4) = v[i].toNat) ∧
         ∀ b, b < at_ ∨ at_ + 32 ≤ b → memByte t.mem b = memByte s.mem b) ∧
        t.core n = { c with flight := r } ∧ others t))) ∧
   (c.flight = [] ∨ islandRuns (.sc n) s = false → exec (.resultLand n) s = .next s) ∧
   (∀ (k : Fin 4), c.xf[k].busy = true → islandRuns (.sc n) s = true → c.aovTrap = none → c.xfTrap = false →
     (let x := c.xf[k]
      let loc := if x.dir then x.dst else x.src
      let far := (if x.dir then x.src else x.dst).toNat + x.mhi.toNat * 2 ^ 32
      let la := (if loc.msb then dyBase n else dxBase n) + bits loc 16 0
      let ends := fun (e : BitVec 4) (t : State) => (t.core n).xf[k] = { x with busy := false, done := true, err := e } ∧
        (∀ j : Fin 4, j ≠ k → (t.core n).xf[j] = c.xf[j]) ∧ others t ∧
        (t.core n).irqPend = (if x.irq then c.irqPend ||| BitVec.ofNat 8 (2 ^ (1 + k.val)) else c.irqPend)
      (x.dir = true → xfFarOk s far x.len.toNat false = true → Does (.xfDone n k 0) s [.cores, .mem] fun t => ends 0 t ∧
        t.mem = memPutList s.mem la (s.fetch far x.len.toNat)) ∧
      (x.dir = false → xfFarOk s far x.len.toNat true = true → far < 2 ^ 40 → Does (.xfDone n k 0) s [.cores, .memc, .mem, .cnt] fun t =>
        ends 0 t ∧ t.mem = memPutList s.mem far (s.read la x.len.toNat)) ∧
      (∀ st : BitVec 4, st ≠ 0 → st ≠ 7 → Does (.xfDone n k st) s [.cores] (ends st)) ∧
      (∀ st : BitVec 4, st = 7 ∨ (st = 0 ∧ xfFarOk s far x.len.toNat (!x.dir) = false) →
        (c.exec = .waiting → Does (.xfDone n k st) s [.cores, .cnt] fun t => ends 7 t ∧ (t.core n).xfTrap = true ∧
          Counts s t (0x10 + n.val) 6 1) ∧
        (c.exec = .task ∨ c.exec = .init → c.image.trapEntry ≠ 0xFFFF → Does (.xfDone n k st) s [.cores, .cnt] fun t => ends 7 t ∧
          (t.core n).exec = .handler ∧ (t.core n).retPc = c.pc ∧ bits (t.core n).trap 3 0 = 5 ∧ (t.core n).xfTrap = false ∧
          Counts s t (0x10 + n.val) 6 1)))) ∧
   (∀ k : Fin 4, c.xf[k].busy = false ∨ islandRuns (.sc n) s = false → ∀ st, exec (.xfDone n k st) s = .next s)) ∧
  (∀ (m : Fin 13) (a : BitVec 20) (len : Nat) (bs : List Byte), reaches m 9 = true → targetOf (coreBase n + a.toNat) = some 9 →
    (burstOk { id := 0, cls := .bulk, addr := BitVec.ofNat 40 (coreBase n + a.toNat), len, write := some bs } 9 = true →
      s.writable (2 ^ 63 + (coreBase n + a.toNat)) bs.length = bs.length →
      Does (.loadPortAccess m n a (some bs) len) s [.memc, .mem] fun t => t.memc.lastResp = some (m, 0, 0x00, []) ∧
        t.mem = memPutList s.mem (coreBase n + a.toNat) bs) ∧
    (burstOk { id := 0, cls := .bulk, addr := BitVec.ofNat 40 (coreBase n + a.toNat), len, write := none } 9 = true →
      s.readable (2 ^ 63 + (coreBase n + a.toNat)) len = len →
      s.poisonEnd (coreBase n + a.toNat) (coreBase n + a.toNat + len) = coreBase n + a.toNat + len →
      Does (.loadPortAccess m n a none len) s [.memc] fun t =>
        t.memc.lastResp = some (m, 0, 0x00, s.fetch (coreBase n + a.toNat) len)) ∧
    (burstOk { id := 0, cls := .bulk, addr := BitVec.ofNat 40 (coreBase n + a.toNat), len, write := some bs } 9 = true →
      s.writable (2 ^ 63 + (coreBase n + a.toNat)) bs.length ≠ bs.length →
      Does (.loadPortAccess m n a (some bs) len) s [.memc] fun t => t.memc.lastResp = some (m, 0, 0x07, []))) ∧
  (∀ (m : Fin 13) (a : BitVec 20) (w : Option (List Byte)) (len : Nat),
    reaches m 9 = false ∨ targetOf (coreBase n + a.toNat) ≠ some 9 →
    Does (.loadPortAccess m n a w len) s [.memc] fun t => t.memc.lastResp = some (m, 0, 0x07, []) ∧
      t.memc.errCount = satInc s.memc.errCount)

/-- R293, R295, R327-R331, R337: the ALU slot. A lane operation writes XD for the next bundle and nothing else, and the core goes on: sums and shifts wrap or saturate
as the mnemonic says; an extraction is the accumulator's lane, scaled, rounded to nearest even or down, and saturated; EXPA is the largest
shift that does not saturate. -/
def Obligations.AluResults : Prop := ∀ (s : State) (n : Fin 16) (w : BitVec 32), s.Ready n (bits w 31 30) →
  let c := s.core n
  let xd : Fin 64 := Fin.ofNat 64 (bits w 23 18)
  let x := c.getX (Fin.ofNat 64 (bits w 17 12))
  let y := c.getX (Fin.ofNat 64 (bits w 11 6))
  let a := c.getA (Fin.ofNat 16 (bits w 5 2))
  let sat : Int → Int := fun v => max (-2 ^ 31) (min (2 ^ 31 - 1) v)
  let gives := fun (i : Instr) (P : Fin 8 → Word → Prop) => ∃ v : Lanes, (∀ l : Fin 8, P l v[l]) ∧
    Leaves i s n fun c => (c.setX xd v).goesOn
  let nearest := fun (v : Int) (k : Nat) (q : Int) => 2 * (v - q * 2 ^ k) ≤ 2 ^ k ∧ -2 ^ k ≤ 2 * (v - q * 2 ^ k) ∧
    (2 * (v - q * 2 ^ k) = 2 ^ k ∨ 2 * (v - q * 2 ^ k) = -2 ^ k → q % 2 = 0)
  let scaled := fun (l : Fin 8) (shift : Int) (r : Word) =>
    (w.getLsbD 1 = true → ∃ q, nearest (a[l].toInt * 2 ^ (shift - 31).toNat) (31 - shift).toNat q ∧ r.toInt = sat q) ∧
    (w.getLsbD 1 = false → r.toInt = sat (a[l].toInt * 2 ^ (shift - 31).toNat / 2 ^ (31 - shift).toNat))
  (Leaves (.aluNop n w) s n Core.goesOn ∧
   gives (.addOp n w) (fun l r => r = x[l] + y[l]) ∧ gives (.adds n w) (fun l r => r.toInt = sat (x[l].toInt + y[l].toInt)) ∧
   gives (.subOp n w) (fun l r => r = x[l] - y[l]) ∧ gives (.subs n w) (fun l r => r.toInt = sat (x[l].toInt - y[l].toInt)) ∧
   gives (.andOp n w) (fun l r => r = x[l] &&& y[l]) ∧ gives (.orOp n w) (fun l r => r = x[l] ||| y[l]) ∧
   gives (.xorOp n w) (fun l r => r = x[l] ^^^ y[l]) ∧
   gives (.minOp n w) (fun l r => r.toInt = min x[l].toInt y[l].toInt) ∧
   gives (.maxOp n w) (fun l r => r.toInt = max x[l].toInt y[l].toInt) ∧
   gives (.absOp n w) (fun l r => r.toInt = sat x[l].toInt.natAbs) ∧ gives (.negOp n w) (fun l r => r.toInt = sat (-x[l].toInt)) ∧
   gives (.movOp n w) (fun l r => r = x[l]) ∧
   gives (.cmplt n w) (fun l r => r.toInt = if x[l].toInt < y[l].toInt then -1 else 0) ∧
   gives (.cmpeq n w) (fun l r => r.toInt = if x[l] = y[l] then -1 else 0) ∧
   gives (.ldil n w) (fun _ r => r.toInt = sbits w 17 0) ∧
   gives (.gete n w) (fun _ r => r.toInt = c.e.toInt) ∧ gives (.getbv n w) (fun _ r => r = c.bv) ∧
   gives (.getbi n w) (fun _ r => r = c.bi) ∧ gives (.getaov n w) (fun l r => r.toNat = if l = 0 then c.aov.toNat else 0)) ∧
  (bits w 5 5 = 0 →
    gives (.shl n w) (fun l r => r.toNat = x[l].toNat * 2 ^ bits w 4 0 % 2 ^ 32) ∧
    gives (.shra n w) (fun l r => r.toInt = x[l].toInt / 2 ^ bits w 4 0) ∧
    gives (.shrl n w) (fun l r => r.toNat = x[l].toNat / 2 ^ bits w 4 0) ∧
    gives (.shls n w) (fun l r => r.toInt = sat (x[l].toInt * 2 ^ bits w 4 0))) ∧
  (bits w 5 3 = 0 → gives (.bcast n w) (fun _ r => r = x[Fin.ofNat 8 (bits w 2 0)])) ∧
  (bits w 17 14 = 0 → gives (.ldih n w) (fun l r =>
    bits r 31 18 = bits w 13 0 ∧ bits r 17 0 = bits (c.getX xd)[l] 17 0)) ∧
  (bits w 17 12 = 0 → bits w 0 0 = 0 →
    gives (.ext n w) (fun l r => scaled l (sbits w 11 6) r) ∧
    (bits w 11 6 = 0 → gives (.exte n w) (fun l r => scaled l c.e.toInt r)) ∧
    gives (.expa n w) (fun l r =>
      (let fits := fun k : Int => ∃ q, nearest a[l].toInt (31 - k).toNat q ∧ sat q = q
       r.toInt ≤ 31 ∧ -32 ≤ r.toInt ∧ (r.toInt = -32 ∨ fits r.toInt) ∧ ∀ k, r.toInt < k → k ≤ 31 → ¬ fits k)))

/-- R319, R320, R328, R331, R325, R335, R337, R338: the ALU operations on the core's own registers, and the forms of them all. E receives
a clamped lane, or the minimum of it and the clamped lanes; a search keeps the best value and the index of the first lane that
reached it; CLRAOV clears AOV. A stage predicated off leaves only the bundle behind; a field that must be zero and a stage
that the loop in hand does not admit trap with ILLEGAL; a bundle at 0xFFF that nothing follows traps with cause 0x4; a core that
issues nothing stays as it is. -/
def Obligations.AluRegistersAndForms : Prop := ∀ (s : State) (n : Fin 16) (w : BitVec 32),
  let c := s.core n
  let stg := bits w 31 30
  let x := c.getX (Fin.ofNat 64 (bits w 17 12))
  let base := (c.getX (Fin.ofNat 64 (bits w 11 6)))[0]
  let clampE : Int → Int := fun v => max (-32) (min 31 v)
  let found := fun (i : Instr) (key : Fin 8 → Int) (up : Int → Int) => ∃ bv bi : Word,
    Leaves i s n (fun c => { c with bv, bi }.goesOn) ∧ (∀ l, up (key l) ≤ up bv.toInt) ∧
    ((bv = c.bv ∧ bi = c.bi) ∨ ∃ l : Fin 8, up c.bv.toInt < up (key l) ∧ bv.toInt = key l ∧ bi = base + BitVec.ofNat 32 l.val ∧
      ∀ k : Fin 8, k < l → up (key k) < up (key l))
  let shift : Bool := bits w 5 5 = 0
  let accs : Bool := bits w 17 12 = 0 ∧ bits w 0 0 = 0
  (s.Ready n stg →
    Leaves (.sete n w) s n (fun c => { c with e := BitVec.ofInt 8 (clampE x[0].toInt) }.goesOn) ∧
    (∃ e : BitVec 8, Leaves (.mine n w) s n (fun c => { c with e }.goesOn) ∧ e.toInt ≤ c.e.toInt ∧
      (∀ l : Fin 8, e.toInt ≤ clampE x[l].toInt) ∧ (e = c.e ∨ ∃ l : Fin 8, e.toInt = clampE x[l].toInt)) ∧
    Leaves (.sinit n w) s n (fun c => { c with bv := x[0], bi := 0xFFFFFFFF }.goesOn) ∧
    found (.smax n w) (fun l => x[l].toInt) (fun v => v) ∧ found (.smin n w) (fun l => x[l].toInt) (fun v => -v) ∧
    found (.smaxa n w) (fun l => min (2 ^ 31 - 1) x[l].toInt.natAbs) (fun v => v) ∧
    Leaves (.clraov n w) s n (fun c => { c with aov := 0 }.goesOn)) ∧
  (∀ e ∈ [(Instr.aluNop n w, true), (.addOp n w, true), (.adds n w, true), (.subOp n w, true), (.subs n w, true), (.andOp n w, true),
      (.orOp n w, true), (.xorOp n w, true), (.shl n w, shift), (.shra n w, shift), (.shrl n w, shift), (.shls n w, shift),
      (.minOp n w, true), (.maxOp n w, true), (.absOp n w, true), (.negOp n w, true), (.movOp n w, true), (.bcast n w, bits w 5 3 == 0),
      (.ldil n w, true), (.ldih n w, bits w 17 14 == 0), (.cmplt n w, true), (.cmpeq n w, true), (.ext n w, accs),
      (.exte n w, accs && bits w 11 6 == 0), (.expa n w, accs), (.sete n w, true), (.mine n w, true), (.gete n w, true),
      (.sinit n w, true), (.smax n w, true), (.smin n w, true), (.smaxa n w, true), (.getbv n w, true), (.getbi n w, true),
      (.getaov n w, true), (.clraov n w, true)],
    (s.issuing n = false → exec e.1 s = .next s) ∧
    (s.AtBundle n → c.stageOk stg = true → c.stageOn stg = false → e.2 = true → Leaves e.1 s n Core.goesOn) ∧
    (s.issuing n = true → c.inHandler = false → c.image.trapEntry ≠ 0xFFFF →
      (e.2 = false ∨ c.stageOk stg = false → Does e.1 s [.cores] fun t => Trapped s t n 3) ∧
      (e.2 = true → c.stageOk stg = true → c.pc = 0xFFF → c.inside → Does e.1 s [.cores] fun t => Trapped s t n 4)))

/-- R295, R319-R324, R338: the MAC slot. With the fields that it does not use zero, an operation issues: its exact lane
results reach AD four bundles later, to replace AD, or to be added or subtracted as AD then stands. Unused fields trap
with ILLEGAL; a stage predicated off, or a core that issues nothing, leaves the state unchanged. Readings of the model's
in it: log 14. -/
def Obligations.MacSlot : Prop := ∀ (s : State) (n : Fin 16) (w : BitVec 40),
  let c := s.core n
  let stg := bits w 39 38
  let xa := c.getX (Fin.ofNat 64 (bits w 27 22))
  let xbReg := c.getX (Fin.ofNat 64 (bits w 21 16))
  let xb : Fin 8 → Word := fun l => if w.getLsbD 11 then xbReg[Fin.ofNat 8 (bits w 10 8)] else xbReg[l]
  let as := c.getA (Fin.ofNat 16 (bits w 15 12))
  let lands := fun (i : Instr) (val : Landing) => Leaves i s n fun c => { c with
    flight := putFlight { due := c.cycle + 4, issued := c.cycle, order := 0, pc := c.pc, handler := c.inHandler, val,
                          dest := .acc (Fin.ofNat 16 (bits w 31 28)) c.inHandler } c.flight }
  let noAd : Bool := bits w 31 28 = 0
  let noXa : Bool := bits w 27 22 = 0
  let noXb : Bool := bits w 21 16 = 0 ∧ bits w 11 8 = 0
  let noAs : Bool := bits w 15 12 = 0
  let xbOk : Bool := bits w 11 11 = 1 ∨ bits w 10 8 = 0
  (s.issuing n = true → c.stageOk stg = true → c.stageOn stg = true → bits w 7 0 = 0 →
    (noAd = true → noXa = true → noXb = true → noAs = true → exec (.mnop n w) s = .next s) ∧
    (∀ p : AccLanes, (∀ l : Fin 8, p[l].toInt = xa[l].toInt * (xb l).toInt) → xbOk = true →
      (noAs = true → lands (.mpy n w) (.accSet p) ∧ lands (.macOp n w) (.accAdd p) ∧ lands (.msu n w) (.accSub p)) ∧
      lands (.mpya n w) (.accSum as p)) ∧
    (noXa = true → noXb = true → lands (.aadd n w) (.accAdd as) ∧ lands (.asub n w) (.accSub as) ∧ lands (.amov n w) (.accSet as)) ∧
    (noXa = true → noXb = true → noAs = true → lands (.aclr n w) (.accSet (Vector.replicate 8 0))) ∧
    (noXb = true → noAs = true → ∀ v : AccLanes, (∀ l : Fin 8, v[l].toInt = xa[l].toInt * 2 ^ 31) → lands (.ald n w) (.accSet v))) ∧
  (∀ e ∈ [(Instr.mnop n w, noAd && noXa && noXb && noAs), (.mpy n w, xbOk && noAs), (.macOp n w, xbOk && noAs),
      (.msu n w, xbOk && noAs), (.mpya n w, xbOk), (.aadd n w, noXa && noXb), (.asub n w, noXa && noXb), (.amov n w, noXa && noXb),
      (.aclr n w, noXa && noXb && noAs), (.ald n w, noXb && noAs)],
    (s.issuing n = false → exec e.1 s = .next s) ∧
    (c.stageOn stg = false → c.stageOk stg = true → e.2 = true → bits w 7 0 = 0 → exec e.1 s = .next s) ∧
    (s.issuing n = true → c.inHandler = false → c.image.trapEntry ≠ 0xFFFF → bits w 7 0 ≠ 0 ∨ e.2 = false ∨ c.stageOk stg = false →
      Does e.1 s [.cores] fun t => Trapped s t n 3))

/-- R295, R298-R301, R319, R332-R334, R338: the move slots. An access is made at P[16:0]; a load lands three bundles later, a store one
bundle later, and the pointer one bundle later as its mode has it: linear, modulo Li, or bit-reversed. A register move lands one bundle
later. A misaligned access traps with MISALIGN, a form or a value that the chapter does not allow with ILLEGAL; a slot of a stage
that is predicated off, or of a core that issues nothing, leaves the state unchanged. -/
def Obligations.MoveSlots : Prop := ∀ (s : State) (n : Fin 16) (slot : MvSlot) (w : BitVec 28),
  let c := s.core n
  let stg := bits w 27 26
  let rank := if slot = .mv1 then 2 else 3
  let base := if slot = .mv1 then dxBase n else dyBase n
  let reg : Fin 64 := Fin.ofNat 64 (bits w 21 16)
  let x := c.getX reg
  let acc : Fin 16 := Fin.ofNat 16 (bits w 19 16)
  let a := c.getA acc
  let p := c.bank.p[Fin.ofNat 16 (bits w 15 12)]
  let i8 : Fin 8 := Fin.ofNat 8 (bits w 15 12)
  let l := c.bank.l[i8].toNat
  let b := c.bank.b[i8]
  let addr := p.toNat % 2 ^ 17
  let word := fun k : Nat => BitVec.ofNat 32 (ofLe (s.read (base + addr + 4 * k) 4))
  let flies := fun (d : Nat) (dest : Dest) (val : Landing) (c : Core) => { c with
    flight := putFlight { due := c.cycle + d, issued := c.cycle, order := rank, pc := c.pc, handler := c.inHandler, dest, val } c.flight }
  let xDest : Dest := if reg.val < 32 then .xLow (Fin.ofNat 32 reg.val) c.inHandler else .xHigh (Fin.ofNat 32 (reg.val - 32 + c.rb.toNat))
  let store : Dest := .mem (slot = .mv2) (BitVec.ofNat 17 addr)
  let modv := fun size : Nat => if bits w 10 10 = 1 then sbits w 9 0 * size else (c.bank.m[Fin.ofNat 8 (bits w 2 0)]).toInt
  let ptrForm : Bool := (bits w 10 10 = 1 ∨ bits w 9 3 = 0) ∧ (bits w 11 11 = 0 ∨ bits w 15 12 < 8)
  let ptrOk : Bool := bits w 11 11 = 0 ∨ ∃ k ∈ List.range 18, 5 ≤ k ∧ l = 2 ^ k
  let accForm : Bool := bits w 21 20 = 0
  let moved := fun (size low : Nat) (q : Word) => ptrForm = true ∧
    ((bits w 11 11 = 0 ∧ (8 ≤ bits w 15 12 ∨ l = 0) ∧ q = p + BitVec.ofInt 32 (modv size)) ∨
     (bits w 11 11 = 0 ∧ bits w 15 12 < 8 ∧ 0 < l ∧ q = b + BitVec.ofInt 32 ((p.toNat + modv size - b.toNat) % l)) ∨
     (bits w 11 11 = 1 ∧ ∃ k ∈ List.range 18, 5 ≤ k ∧ l = 2 ^ k ∧
       q = b + BitVec.ofNat 32 (2 ^ low *
         ((BitVec.ofNat (k - low) ((p - b).toNat / 2 ^ low)).reverse +
          (BitVec.ofNat (k - low) ((BitVec.ofInt 32 (modv size)).toNat / 2 ^ low)).reverse).reverse.toNat)))
  let ptr := flies 1 (.asel (BitVec.ofNat 6 (bits w 15 12)) c.inHandler)
  let runs := s.issuing n = true ∧ c.stageOk stg = true ∧ c.stageOn stg = true
  let traps := fun (i : Instr) (cause : BitVec 4) => Does i s [.cores] fun t => Trapped s t n cause
  (runs → exec (.mvnop n slot w) s = .next s ∧
    (∀ q, moved 32 5 q → addr % 32 = 0 →
      (∀ v : Lanes, (∀ k : Fin 8, v[k] = word k) → Leaves (.ldv n slot w) s n fun c => ptr (.reg q) (flies 3 xDest (.lanes v) c)) ∧
      Leaves (.stv n slot w) s n (fun c => ptr (.reg q) (flies 1 store (.lanes x) c)) ∧
      (accForm = true →
        (∀ v : Lanes, (∀ k : Fin 8, v[k] = word k) →
          Leaves (.ldal n slot w) s n (fun c => ptr (.reg q) (flies 3 (.acc acc c.inHandler) (.accPart 0 v) c)) ∧
          Leaves (.ldam n slot w) s n (fun c => ptr (.reg q) (flies 3 (.acc acc c.inHandler) (.accPart 1 v) c)) ∧
          Leaves (.ldah n slot w) s n (fun c => ptr (.reg q) (flies 3 (.acc acc c.inHandler) (.accPart 2 v) c))) ∧
        (∀ v : Lanes, (∀ k : Fin 8, v[k].toNat = a[k].toNat % 2 ^ 32) →
          Leaves (.stal n slot w) s n (fun c => ptr (.reg q) (flies 1 store (.lanes v) c))) ∧
        (∀ v : Lanes, (∀ k : Fin 8, v[k].toNat = a[k].toNat / 2 ^ 32 % 2 ^ 32) →
          Leaves (.stam n slot w) s n (fun c => ptr (.reg q) (flies 1 store (.lanes v) c))) ∧
        (∀ v : Lanes, (∀ k : Fin 8, v[k].toInt = a[k].toInt / 2 ^ 64) →
          Leaves (.stah n slot w) s n (fun c => ptr (.reg q) (flies 1 store (.lanes v) c))))) ∧
    (∀ q, moved 4 2 q →
      (addr % 4 = 0 → Leaves (.ldb n slot w) s n (fun c => ptr (.reg q) (flies 3 xDest (.lanes (Vector.replicate 8 (word 0))) c)) ∧
        Leaves (.sts n slot w) s n (fun c => ptr (.reg q) (flies 1 store (.reg x[0]) c))) ∧
      (bits w 21 16 = 0 → Leaves (.modp n slot w) s n (ptr (.reg q)))) ∧
    (bits w 9 0 = 0 →
      (∀ v : Lanes, v[0] = c.getSel (BitVec.ofNat 6 (bits w 15 10)) → (∀ k : Fin 8, k ≠ 0 → v[k] = 0) →
        Leaves (.mvra n slot w) s n (flies 1 xDest (.lanes v))) ∧
      (∀ sel : BitVec 6, sel = BitVec.ofNat 6 (bits w 15 10) →
        sel.toNat < 0x20 ∨ (sel.toNat < 0x28 ∧ x[0].toNat ≤ 131072) ∨ (0x28 ≤ sel.toNat ∧ sel.toNat < 0x38 ∧
          (sel.toNat % 4 ≠ 3 ∨ x[0].getLsbD 0 = false ∨
            (let ch := c.xf[Fin.ofNat 4 ((sel.toNat - 0x28) / 4)]
             let near := if x[0].getLsbD 2 then ch.dst else ch.src
             let far := if x[0].getLsbD 2 then ch.src else ch.dst
             ch.busy = false ∧ 32 ≤ ch.len.toNat ∧ ch.len.toNat ≤ 65536 ∧ ch.len.toNat % 32 = 0 ∧ bits near 30 17 = 0 ∧
             near.toNat % 32 = 0 ∧ far.toNat % 32 = 0 ∧ bits near 16 0 + ch.len.toNat ≤ 0x20000))) ∨
          sel = 0x3F → Leaves (.mvar n slot w) s n (flies 1 (.asel sel c.inHandler) (.reg x[0])))) ∧
    (∀ sel : BitVec 6, sel = BitVec.ofNat 6 (bits w 21 16) →
      (sel.toNat < 0x10 ∨ (0x18 ≤ sel.toNat ∧ sel.toNat < 0x20) ∨ (0x20 ≤ sel.toNat ∧ sel.toNat < 0x28 ∧ bits w 15 0 ≤ 32768) →
        Leaves (.lia n slot w) s n (flies 1 (.asel sel c.inHandler) (.reg (BitVec.ofNat 32 (bits w 15 0 * 4))))) ∧
      (0x10 ≤ sel.toNat → sel.toNat < 0x18 →
        Leaves (.lia n slot w) s n (flies 1 (.asel sel c.inHandler) (.reg (BitVec.ofInt 32 (sbits w 15 0))))))) ∧
  (runs → c.inHandler = false → c.image.trapEntry ≠ 0xFFFF →
    (ptrForm = true → ptrOk = true → accForm = true → addr % 32 ≠ 0 →
      ∀ i ∈ [Instr.ldal n slot w, .ldam n slot w, .ldah n slot w, .stal n slot w, .stam n slot w, .stah n slot w], traps i 2) ∧
    (ptrForm = true → ptrOk = true → addr % 32 ≠ 0 → traps (.ldv n slot w) 2 ∧ traps (.stv n slot w) 2) ∧
    (ptrForm = true → ptrOk = true → addr % 4 ≠ 0 → traps (.ldb n slot w) 2 ∧ traps (.sts n slot w) 2) ∧
    (ptrOk = false → ∀ i ∈ [Instr.ldv n slot w, .ldb n slot w, .stv n slot w, .sts n slot w, .ldal n slot w, .ldam n slot w,
      .ldah n slot w, .stal n slot w, .stam n slot w, .stah n slot w, .modp n slot w], traps i 3) ∧
    (bits w 9 0 = 0 →
      (0x20 ≤ bits w 15 10 ∧ bits w 15 10 < 0x28 ∧ 131072 < x[0].toNat) ∨
        (0x28 ≤ bits w 15 10 ∧ bits w 15 10 < 0x38 ∧ bits w 15 10 % 4 = 3 ∧ x[0].getLsbD 0 = true ∧
          c.xf[Fin.ofNat 4 ((bits w 15 10 - 0x28) / 4)].busy = true) → traps (.mvar n slot w) 3) ∧
    (0x20 ≤ bits w 21 16 → bits w 21 16 < 0x28 → 32768 < bits w 15 0 → traps (.lia n slot w) 3)) ∧
  (∀ e ∈ [(Instr.mvnop n slot w, true), (.ldv n slot w, ptrForm), (.ldb n slot w, ptrForm), (.stv n slot w, ptrForm),
      (.sts n slot w, ptrForm), (.ldal n slot w, ptrForm && accForm), (.ldam n slot w, ptrForm && accForm),
      (.ldah n slot w, ptrForm && accForm), (.stal n slot w, ptrForm && accForm), (.stam n slot w, ptrForm && accForm),
      (.stah n slot w, ptrForm && accForm), (.modp n slot w, ptrForm && bits w 21 16 == 0),
      (.mvar n slot w, bits w 9 0 == 0 && (bits w 15 10 < 0x38 || bits w 15 10 == 0x3F)), (.mvra n slot w, bits w 9 0 == 0),
      (.lia n slot w, decide (bits w 21 16 < 0x28))],
    (s.issuing n = false → exec e.1 s = .next s) ∧
    (s.issuing n = true → c.stageOk stg = true → c.stageOn stg = false → e.2 = true → exec e.1 s = .next s) ∧
    (s.issuing n = true → c.inHandler = false → c.image.trapEntry ≠ 0xFFFF → c.stageOk stg = false ∨ e.2 = false → traps e.1 3))

/-- R199, R302, R305, R306, R308, R335-R339: control operations. A taken branch makes TARGET the next bundle and ends the
loops that do not contain it; a LOOP starts its body, or continues after it when it has no pass; WAITXF pauses the core;
END ends INIT or the task, whose output goes to Lovage when on time, counts an overrun when late, and has no place when a
counter load came in between; RTI and RTIJ leave a handler; TRAP traps. A control operation in the last bundle of a body,
or of a form that the chapter does not allow, traps with ILLEGAL; a bundle at 0xFFF that nothing follows traps with cause
0x4. Readings of the model's in it: log 14, log 28. -/
def Obligations.ControlSlot : Prop := ∀ (s : State) (n : Fin 16) (w : BitVec 32),
  let c := s.core n
  let stg := bits w 31 30
  let target := BitVec.ofNat 12 (bits w 23 12)
  let x2 := (c.getX (Fin.ofNat 64 (bits w 11 6)))[0]
  let jump := fun (c : Core) => { c with
    pc := target, cycle := c.cycle + 1
    loops := if c.inHandler then c.loops else c.loops.dropWhile fun l => decide (target < l.first ∨ l.last < target) }
  let loops := fun (i : Instr) (count : Nat) =>
    (count ≠ 0 → Leaves i s n fun c => { c with
      rb := if bits w 5 5 = 1 then 0 else c.rb, pc := c.pc + 1, cycle := c.cycle + 1
      loops := { first := c.pc + 1, last := target, count, stages := bits w 4 3 + 1, rot := bits w 5 5 = 1, pass := 0 } :: c.loops }) ∧
    (count = 0 → target ≠ 0xFFF → Leaves i s n fun c => { c with
      rb := if bits w 5 5 = 1 then 0 else c.rb, pc := target + 1, cycle := c.cycle + 1 })
  let others := fun t : State => ∀ m, m ≠ n → t.core m = s.core m
  let fn := 0x10 + n.val
  let handled := fun t : State => if c.trapHandler then Counts s t fn 4 1 else t.cnt = s.cnt
  let ended : Core → Core := fun c => { c with
    exec := .waiting, retExec := .waiting, trapHandler := false, loops := [], waitXf := none, cycle := c.cycle + 1 }
  let alone := (s.copy (.sc n)).toNat / s.scBlock n ≤ c.firstBlock.toNat ∨ c.stopping = true ∨ (s.life? (.sc n)).busy = false
  let due := (c.taskn.toNat + 2) * s.scBlock n
  let e := s.edge (.sc n) .lovage
  let onTime := c.orphan = false ∧ c.late = false ∧ s.now.toNat < due ∧ due < 2 ^ 63 ∧ e.fifo = none ∧ e.seen = none
  let quiet := c.irqEn &&& c.irqPend &&& 0x3E = 0 ∨ c.image.irqEntry = 0xFFFF
  let lost := fun t : State => (t.core n).exec = .waiting ∧ (t.core n).outBlock = c.outBlock ∧ (t.core n).late = false ∧ others t
  (s.Ready n stg → c.inside →
    Leaves (.br n w) s n jump ∧
    Leaves (.bz n w) s n (if x2 = 0 then jump else Core.goesOn) ∧ Leaves (.bnz n w) s n (if x2 = 0 then Core.goesOn else jump) ∧
    Leaves (.bneg n w) s n (if x2.toInt < 0 then jump else Core.goesOn) ∧
    (c.inHandler = false → bits w 2 0 = 0 → c.pc < target → c.loops.length < 3 →
      (∀ l, c.loops.head? = some l → l.stages = 1 ∧ target < l.last) →
      loops (.loopi n w) (bits w 11 6) ∧ loops (.loopr n w) (bits x2 15 0)) ∧
    (bits w 5 4 = 0 → Leaves (.waitxf n w) s n fun c =>
      if ∀ k : Fin 4, w.getLsbD k.val = true → c.xf[k].done = true then c.goesOn
      else { c with waitXf := some (BitVec.ofNat 4 (bits w 3 0)) }.goesOn) ∧
    (c.flight = [] →
      (c.exec = .init → alone → Leaves (.endTask n w) s n ended) ∧
      (c.exec = .task →
        (onTime → alone → Does (.endTask n w) s [.cores, .edges, .free] fun t => others t ∧
          (t.core n).exec = .waiting ∧ (t.core n).outBlock = some c.taskn ∧ (t.core n).late = false ∧ (t.core n).aovEnd = c.aov ∧
          (t.core n).taskMax.toNat = max c.taskMax.toNat (t.core n).taskLast.toNat ∧
          ∃ v, (t.edge (.sc n) .lovage).fifo = some v ∧ t.edge (.sc n) .lovage = { e with fifo := some v, sent := some v.tick } ∧
            v.tick.toNat = due ∧ v.data.length = 32 * s.scBlock n ∧ ∀ i ∈ List.range (32 * s.scBlock n),
              v.data[i]? = some (BitVec.ofNat 32 (ofLe (s.read (dyBase n + 0x1C000 + 0x2000 * (c.taskn.toNat % 2) + 4 * i) 4)))) ∧
        (c.orphan = false → c.late = false → due ≤ s.now.toNat → alone → Does (.endTask n w) s [.cores, .cnt, .free] fun t =>
          lost t ∧ Counts s t fn 1 1) ∧
        (c.orphan = false → c.late = true → alone → Does (.endTask n w) s [.cores, .free] lost) ∧
        (c.orphan = true → alone → Does (.endTask n w) s [.cores, .free] lost) ∧
        (¬ alone → e.paused = none → e.fifo = none → quiet → Does (.endTask n w) s [.cores, .mem, .edges, .cnt, .free] fun t => others t ∧
          (t.core n).exec = .task ∧ (t.core n).pc = c.image.taskEntry.truncate 12 ∧
          (t.core n).taskn = BitVec.ofNat 64 ((s.copy (.sc n)).toNat / s.scBlock n - 1) ∧ (t.core n).dirty = []))) ∧
    (c.inHandler = true →
      (c.flight = [] → c.retExec = .init → alone → Does (.endTask n w) s [.cores, .cnt] fun t => others t ∧ t.core n = ended c ∧ handled t) ∧
      (c.flight = [] → c.retExec = .task → onTime → alone → Does (.endTask n w) s [.cores, .edges, .cnt, .free] fun t => others t ∧
        (t.core n).exec = .waiting ∧ (t.core n).outBlock = some c.taskn ∧ handled t) ∧
      (quiet →
        (let back := fun (i : Instr) (pc : BitVec 12) (ls : List Loop) => Does i s [.cores, .cnt] fun t => others t ∧
           t.core n = { c with exec := c.retExec, pc, loops := ls, trapHandler := false, cycle := c.cycle + 1 } ∧ handled t
         back (.rti n w) c.retPc c.loops ∧
         back (.rtij n w) target (c.loops.dropWhile fun l => decide (target < l.first ∨ l.last < target)))))) ∧
  (s.issuing n = true → c.inHandler = false → c.image.trapEntry ≠ 0xFFFF → c.stageOk stg = true → c.inside →
    (c.stageOn stg = true → Does (.trapOp n w) s [.cores] fun t => Trapped s t n 7) ∧
    Does (.rti n w) s [.cores] (fun t => Trapped s t n 3) ∧ Does (.rtij n w) s [.cores] (fun t => Trapped s t n 3) ∧
    (c.loops.length = 3 ∨ bits w 2 0 ≠ 0 ∨ target ≤ c.pc ∨ (∃ l ∈ c.loops.take 1, l.stages ≠ 1 ∨ l.last ≤ target) →
      Does (.loopi n w) s [.cores] (fun t => Trapped s t n 3) ∧ Does (.loopr n w) s [.cores] fun t => Trapped s t n 3) ∧
    (bits w 5 4 ≠ 0 → Does (.waitxf n w) s [.cores] fun t => Trapped s t n 3) ∧
    (c.pc = 0xFFF → (c.stageOn stg = false ∨ x2 ≠ 0 → Does (.bz n w) s [.cores] fun t => Trapped s t n 4) ∧
      (bits w 5 4 = 0 → Does (.waitxf n w) s [.cores] fun t => Trapped s t n 4) ∧
      (c.stageOn stg = true → c.flight = [] → c.aovTrap = none → c.xfTrap = false → quiet → Leaves (.br n w) s n jump))) ∧
  (s.AtBundle n → c.inside → c.stageOk stg = true → c.stageOn stg = false →
    ∀ i ∈ [Instr.br n w, .bz n w, .bnz n w, .bneg n w, .endTask n w, .trapOp n w], Leaves i s n Core.goesOn) ∧
  (∀ i ∈ [Instr.br n w, .bz n w, .bnz n w, .bneg n w, .loopi n w, .loopr n w, .waitxf n w, .endTask n w, .rti n w, .rtij n w, .trapOp n w],
    (s.issuing n = false → exec i s = .next s) ∧
    (s.issuing n = true → c.inHandler = false → c.image.trapEntry ≠ 0xFFFF → c.stageOk stg = false ∨ ¬ c.inside →
      Does i s [.cores] fun t => Trapped s t n 3))

/-- The machine right after reset, as the spec's register tables and R449 give it: no supply, every function OFF or absent, one
factory entry in the log, counters at 0, and each register at its reset value where STAGE lets it be read; both variants' identities. The
empty queue and the canonical memory are the model's own (log 1, log 5). -/
def Obligations.ResetState : Prop :=
  (let s : State := State.reset
   let opened : State := { s with chip := { s.chip with stage := 3 } }
   let l : State := { opened with chip := { opened.chip with variant := .l } }
   s.pending = [] ∧ MemInv s ∧ LogInv s ∧ CntInv s ∧ s.chip.supply = .off ∧ s.chip.stage = 0 ∧ s.now = 0 ∧
   (∀ f : Func, s.life? f = .off) ∧ (∀ f i, s.count f i = 0) ∧
   (∃ e : LogEntry, s.log.entries = [e] ∧ e.seq = 0 ∧ e.code = 0x0B ∧ e.func = 0 ∧ e.cause = 0) ∧
   (∀ off : Nat, 0x02000 ≤ off → s.regRead off = 0) ∧
   (∀ e ∈ [((0x00000 : Nat), (0xD04150B1 : Word)), (0x00004, 0x00041003), (0x0000C, 1), (0x00014, 0), (0x00018, 0), (0x00100, 8),
      (0x01000, 0), (0x01004, 1), (0x01010, 0), (0x02000, 0), (0x02010, 0x00004040), (0x02014, 8), (0x02050, 0x01004040), (0x02810, 0),
      (0x03000, 1), (0x03004, 0), (0x03008, 0x101), (0x03038, 0), (0x04004, 0x17), (0x04014, 0x506), (0x04018, 0x257), (0x0401C, 0x1E0),
      (0x05004, 0x17), (0x05018, 0x257), (0x06000, 0), (0x06004, 6), (0x06008, 0x88B6), (0x0600C, 0), (0x06014, 0), (0x07100, 0x7FFF7FFF),
      (0x072FC, 0x7FFF7FFF), (0x07300, 0x7FFF7FFF), (0x08004, 0), (0x0800C, 0x20000), (0x08014, 0x30), (0x08024, 10), (0x0803C, 1000),
      (0x08100, 0), (0x0901C, 2), (0x09020, 0), (0x0A000, 0x00020190), (0x0A104, 0x64), (0x0B108, 0x10000), (0x0B110, 0xFFFFFFFF),
      (0x0C004, 0x00400724), (0x0C030, 0), (0x0D100, 0), (0x0F004, 0x88B5), (0x0F010, 0), (0x0F080, 0), (0x10000, 0), (0x10014, 0)],
     opened.regRead e.1 = e.2) ∧
   l.regRead 0x00000 = 0xD0414CB1 ∧ l.regRead 0x00004 = 0x00041002)

/-- Every step answers a next state, whatever command is at the front: no command is refused and none faults. Exactly the front command
has left the queue; with nothing waiting the state is unchanged (log 1). -/
def Obligations.EveryStepGoes : Prop := ∀ s : State,
  ∃ t, step s = .next t ∧ t.pending = s.pending.tail ∧ (s.pending = [] → t = s)

/-- Every step keeps the invariants of the machine's long-lived parts: the memory's canonical form (log 5), the fault log within its 8192
entries and never empty (R449), and every counter within 48 bits (R444). -/
def Obligations.StepsKeepInvariants : Prop := ∀ s t : State, step s = .next t →
  (MemInv s → MemInv t) ∧ (LogInv s → LogInv t) ∧ (CntInv s → CntInv t)

/-- What no command undoes: the variant; PROVISIONED, and with it the keys; a revocation; a minimum security version (R72, R137); and no
entry of a log within its 8192 goes but for a newer one in its place (R451). -/
def Obligations.NeverUndone : Prop := ∀ s t : State, step s = .next t →
  t.chip.variant = s.chip.variant ∧
  (s.svc.provisioned = true → t.svc.provisioned = true ∧ t.svc.noardKeys = s.svc.noardKeys ∧ t.svc.imageKeys = s.svc.imageKeys ∧
    t.svc.debugKey = s.svc.debugKey) ∧
  (∀ i : Fin 4, (s.svc.noardRevoked.getLsbD i = true → t.svc.noardRevoked.getLsbD i = true) ∧
    (s.svc.imageRevoked.getLsbD i = true → t.svc.imageRevoked.getLsbD i = true) ∧ s.svc.secMin[i].toNat ≤ t.svc.secMin[i].toNat) ∧
  (s.log.entries.length ≤ 8192 → s.log.entries.length ≤ t.log.entries.length ∧ t.log.entries.length ≤ 8192)
end

