-- ==== Sys2Proof/Laws/Memory.lean ====
section
/-! SUPPORT. Memory: a read after a write, and the canonical form that every operation keeps. -/

namespace Sys2Proof.Machine

open Sys2Proof

/-- Every address of a list is above `a`. -/
def above (a : Nat) (m : List Host.Cell) : Prop := ∀ e ∈ m, a < e.1

theorem Memory.wf_cons {e : Host.Cell} {m : List Host.Cell} :
    Memory.wf (e :: m) = true ↔ e.2 ≠ 0 ∧ above e.1 m ∧ Memory.wf m = true := by
  induction m generalizing e with
  | nil => obtain ⟨j, b⟩ := e; simp [Memory.wf, above]
  | cons f r ih =>
    obtain ⟨j, b⟩ := e
    obtain ⟨k, c⟩ := f
    simp only [Memory.wf, Bool.and_eq_true, bne_iff_ne, ne_eq, decide_eq_true_eq]
    constructor
    · rintro ⟨⟨h0, h1⟩, h2⟩
      refine ⟨h0, ?_, h2⟩
      intro x hx
      rcases List.mem_cons.mp hx with rfl | hx
      · exact h1
      · exact Nat.lt_trans h1 ((ih.mp h2).2.1 x hx)
    · rintro ⟨h0, h1, h2⟩
      exact ⟨⟨h0, h1 (k, c) (by simp)⟩, h2⟩

theorem memPut_mem {m : List Host.Cell} {a : Nat} {b : Byte} {e : Host.Cell} (h : e ∈ memPut m a b) : e = (a, b) ∨ e ∈ m := by
  induction m with
  | nil => simp only [memPut] at h; (split at h; all_goals simp_all)
  | cons f r ih =>
    obtain ⟨j, c⟩ := f
    simp only [memPut] at h
    split at h
    · split at h <;> simp_all
    · split at h
      · split at h <;> simp_all <;> tauto
      · rcases List.mem_cons.mp h with rfl | h
        · simp
        · rcases ih h with h | h <;> simp [h]

theorem memPut_wf {m : List Host.Cell} (a : Nat) (b : Byte) (h : Memory.wf m = true) : Memory.wf (memPut m a b) = true := by
  induction m with
  | nil => simp only [memPut]; split <;> simp_all [Memory.wf]
  | cons f r ih =>
    obtain ⟨j, c⟩ := f
    obtain ⟨h0, h1, h2⟩ := Memory.wf_cons.mp h
    simp only [memPut]
    split
    · split
      · exact h
      · refine Memory.wf_cons.mpr ⟨‹_›, ?_, h⟩
        intro x hx
        rcases List.mem_cons.mp hx with rfl | hx
        · assumption
        · have := h1 x hx; simp only at this ⊢; omega
    · split
      · split
        · exact h2
        · refine Memory.wf_cons.mpr ⟨‹_›, ?_, h2⟩
          intro x hx
          have := h1 x hx; simp only at this ⊢; omega
      · refine Memory.wf_cons.mpr ⟨h0, ?_, ih h2⟩
        intro x hx
        rcases memPut_mem hx with rfl | hx
        · simp only; omega
        · exact h1 x hx

theorem memPutList_wf {m : List Host.Cell} (a : Nat) (bs : List Byte) (h : Memory.wf m = true) :
    Memory.wf (memPutList m a bs) = true := by
  induction bs generalizing m a with
  | nil => exact h
  | cons b bs ih => exact ih _ (memPut_wf _ _ h)

theorem memFilter_wf {m : List Host.Cell} (p : Host.Cell → Bool) (h : Memory.wf m = true) :
    Memory.wf (m.filter p) = true := by
  induction m with
  | nil => rfl
  | cons f r ih =>
    obtain ⟨h0, h1, h2⟩ := Memory.wf_cons.mp h
    simp only [List.filter]
    split
    · exact Memory.wf_cons.mpr ⟨h0, fun x hx => h1 x (List.mem_filter.mp hx).1, ih h2⟩
    · exact ih h2

theorem memByte_above {m : List Host.Cell} {a : Nat} (h : above a m) : memByte m a = 0 := by
  induction m with
  | nil => rfl
  | cons f r ih =>
    obtain ⟨j, c⟩ := f
    have : j ≠ a := by have := h (j, c) (by simp); simp only at this; omega
    simp [memByte, this, ih fun e he => h e (by simp [he])]

/-- A read after the write of a byte: the byte at its address, what was there elsewhere. -/
theorem memByte_memPut {m : List Host.Cell} (a x : Nat) (b : Byte) (h : Memory.wf m = true) :
    memByte (memPut m a b) x = if x = a then b else memByte m x := by
  induction m with
  | nil =>
    by_cases hb : b = 0
    · subst hb; simp [memPut, memByte]
    · by_cases hx : x = a
      · subst hx; rw [memPut, if_neg hb]; simp [memByte]
      · rw [memPut, if_neg hb]; simp [memByte, hx, Ne.symm hx]
  | cons f r ih =>
    obtain ⟨j, c⟩ := f
    obtain ⟨h0, h1, h2⟩ := Memory.wf_cons.mp h
    have hz : a < j → memByte ((j, c) :: r) a = 0 := fun hl => memByte_above (a := a) (by
      intro e he
      rcases List.mem_cons.mp he with rfl | he
      · exact hl
      · have := h1 e he; simp only at this; omega)
    simp only [memPut]
    split
    · rename_i hl
      split
      · rename_i hb
        by_cases hx : x = a
        · subst hx; simp [hz hl, hb]
        · simp [hx]
      · by_cases hx : x = a
        · simp [memByte, hx]
        · simp [memByte, hx, Ne.symm hx]
    · split
      · rename_i he
        subst he
        split
        · rename_i hb
          by_cases hx : x = a
          · subst hx; simp [memByte_above h1, hb]
          · simp [memByte, hx, Ne.symm hx]
        · by_cases hx : x = a
          · simp [memByte, hx]
          · simp [memByte, hx, Ne.symm hx]
      · rename_i hl hn
        by_cases hj : j = x
        · subst hj
          have : j ≠ a := Ne.symm hn
          simp [memByte, this]
        · simp [memByte, hj, ih h2]

/-- A read after the write of bytes. -/
theorem memByte_memPutList {m : List Host.Cell} (a x : Nat) (bs : List Byte) (h : Memory.wf m = true) :
    memByte (memPutList m a bs) x = if a ≤ x ∧ x < a + bs.length then bs.getD (x - a) 0 else memByte m x := by
  induction bs generalizing m a with
  | nil => simp only [memPutList, List.length_nil]; rw [if_neg (by omega)]
  | cons b bs ih =>
    simp only [memPutList, ih _ (memPut_wf a b h), memByte_memPut a x b h, List.length_cons]
    by_cases hx : x = a
    · subst hx; simp
    · by_cases hr : a + 1 ≤ x ∧ x < a + 1 + bs.length
      · rw [if_pos hr, if_pos (by omega)]
        obtain ⟨k, rfl⟩ : ∃ k, x = a + 1 + k := ⟨x - (a + 1), by omega⟩
        have e1 : a + 1 + k - (a + 1) = k := by omega
        have e2 : a + 1 + k - a = k + 1 := by omega
        rw [e1, e2]; simp
      · rw [if_neg hr, if_neg hx, if_neg (by omega)]

end Sys2Proof.Machine
end

