-- ==== Sys2Proof/Laws/Touch.lean ====
section
/-! SUPPORT. `Touch`: what a state update may change. Its laws, and the laws of the updates of one group. The other
files of this folder whose names end in Touch say it of every shared operation and of every command. -/

namespace Sys2Proof.Machine

open Sys2Proof

/-- Every part of the first list is in the second. -/
def subParts (qs ps : List Part) : Bool := qs.all fun p => ps.contains p

theorem subParts_not_mem {qs ps : List Part} (h : subParts qs ps = true) {p : Part} (hp : p ∉ ps) : p ∉ qs := by
  intro hq
  have h1 := List.all_eq_true.mp h p hq
  simp at h1
  exact hp h1

theorem subParts_refl (ps : List Part) : subParts ps ps = true := by simp [subParts]

theorem Part.same_refl (s : State) (p : Part) : p.same s s := by cases p <;> simp [Part.same]

theorem Part.same_trans {s t u : State} {p : Part} (h : p.same s t) (k : p.same t u) : p.same s u := by
  cases p <;> simp_all [Part.same]

theorem SvcSt.Later.refl (v : SvcSt) : v.Later v :=
  ⟨id, fun _ => ⟨rfl, rfl, rfl⟩, fun _ => id, fun _ => id, fun _ => Nat.le_refl _⟩

theorem SvcSt.Later.trans {v w x : SvcSt} (h : v.Later w) (k : w.Later x) : v.Later x where
  prov := fun p => k.prov (h.prov p)
  keys := fun p => by
    obtain ⟨a, b, c⟩ := h.keys p
    obtain ⟨d, e, f⟩ := k.keys (h.prov p)
    exact ⟨d.trans a, e.trans b, f.trans c⟩
  noard := fun i p => k.noard i (h.noard i p)
  image := fun i p => k.image i (h.image i p)
  minima := fun i => Nat.le_trans (h.minima i) (k.minima i)

/-- An update that leaves keys, revocations and minima alone. -/
theorem SvcSt.Later.of_eq {v w : SvcSt} (h1 : w.provisioned = v.provisioned) (h2 : w.noardKeys = v.noardKeys)
    (h3 : w.imageKeys = v.imageKeys) (h4 : w.debugKey = v.debugKey) (h5 : w.noardRevoked = v.noardRevoked)
    (h6 : w.imageRevoked = v.imageRevoked) (h7 : w.secMin = v.secMin) : v.Later w where
  prov := fun p => h1 ▸ p
  keys := fun _ => ⟨h2, h3, h4⟩
  noard := fun i p => h5 ▸ p
  image := fun i p => h6 ▸ p
  minima := fun i => by simp [h7]

@[simp] theorem vmod_get_self {α : Type} {n : Nat} (v : Vector α n) (i : Fin n) (g : α → α) : (vmod v i g)[i] = g v[i] := by
  simp [vmod]

theorem vmod_get_ne {α : Type} {n : Nat} (v : Vector α n) {i j : Fin n} (g : α → α) (h : j ≠ i) : (vmod v i g)[j] = v[j] := by
  have : i.val ≠ j.val := fun k => h (Fin.ext k.symm)
  simp [vmod, this]

/-- A minimum that is raised or left as it is (R72). -/
theorem minima_vmod {v w : Vector Word 4} {i : Fin 4} {g : Word → Word} (hg : ∀ m, m.toNat ≤ (g m).toNat)
    (h : ∀ j : Fin 4, v[j].toNat ≤ w[j].toNat) (j : Fin 4) : v[j].toNat ≤ (vmod w i g)[j].toNat := by
  by_cases k : j = i
  · subst k
    rw [vmod_get_self]
    exact Nat.le_trans (h j) (hg _)
  · rw [vmod_get_ne _ _ k]
    exact h j

theorem minima_raise (v : Vector Word 4) (i : Fin 4) (x : Word) (j : Fin 4) :
    v[j].toNat ≤ (vmod v i fun m => if m.toNat < x.toNat then x else m)[j].toNat :=
  minima_vmod (fun m => by split <;> omega) (fun _ => Nat.le_refl _) j

/-- An update that only raises minima. -/
theorem SvcSt.Later.of_minima {v w : SvcSt} (h1 : w.provisioned = v.provisioned) (h2 : w.noardKeys = v.noardKeys)
    (h3 : w.imageKeys = v.imageKeys) (h4 : w.debugKey = v.debugKey) (h5 : w.noardRevoked = v.noardRevoked)
    (h6 : w.imageRevoked = v.imageRevoked) (h7 : ∀ i : Fin 4, v.secMin[i].toNat ≤ w.secMin[i].toNat) : v.Later w where
  prov := fun p => h1 ▸ p
  keys := fun _ => ⟨h2, h3, h4⟩
  noard := fun i p => h5 ▸ p
  image := fun i p => h6 ▸ p
  minima := h7

theorem SvcSt.Later.of_raise (v : SvcSt) (i : Fin 4) (x : Word) :
    v.Later { v with secMin := vmod v.secMin i fun m => if m.toNat < x.toNat then x else m } :=
  SvcSt.Later.of_minima rfl rfl rfl rfl rfl rfl (minima_raise v.secMin i x)

theorem SvcSt.Later.of_noard (v : SvcSt) (x : BitVec 4) : v.Later { v with noardRevoked := v.noardRevoked ||| x } :=
  ⟨id, fun _ => ⟨rfl, rfl, rfl⟩, fun _ h => by simp_all, fun _ => id, fun _ => Nat.le_refl _⟩

theorem SvcSt.Later.of_image (v : SvcSt) (x : BitVec 4) : v.Later { v with imageRevoked := v.imageRevoked ||| x } :=
  ⟨id, fun _ => ⟨rfl, rfl, rfl⟩, fun _ => id, fun _ h => by simp_all, fun _ => Nat.le_refl _⟩

/-- While PROVISIONED is 0 keys may change (R137). -/
theorem SvcSt.Later.of_open {v w : SvcSt} (hp : v.provisioned = false) (h5 : w.noardRevoked = v.noardRevoked)
    (h6 : w.imageRevoked = v.imageRevoked) (h7 : w.secMin = v.secMin) : v.Later w where
  prov := fun p => by simp [hp] at p
  keys := fun p => by simp [hp] at p
  noard := fun i p => h5 ▸ p
  image := fun i p => h6 ▸ p
  minima := fun i => by simp [h7]

theorem LogSt.Later.of_eq {l m : LogSt} (h : m.entries = l.entries) : l.Later m := fun k => by
  rw [h]
  exact ⟨Nat.le_refl _, k⟩

theorem Part.later_refl (s : State) (p : Part) : p.later s s := by
  cases p <;> simp [Part.later, LogSt.Later]
  exact SvcSt.Later.refl _

theorem Part.later_trans {s t u : State} {p : Part} (h : p.later s t) (k : p.later t u) : p.later s u := by
  cases p <;> simp_all [Part.later]
  · exact h.trans k
  · intro hl
    have h1 := h hl
    have h2 := k h1.2
    exact ⟨Nat.le_trans h1.1 h2.1, h2.2⟩

theorem Touch.refl (ps : List Part) (s : State) : Touch ps s s :=
  ⟨rfl, fun p _ => p.same_refl s, fun p => p.later_refl s⟩

/-- One more update, which changes some of the parts already named. -/
theorem Touch.after {qs ps : List Part} {r s t : State} (k : Touch qs s t) (h : Touch ps r s)
    (hq : subParts qs ps = true) : Touch ps r t :=
  ⟨k.queue.trans h.queue, fun p hp => Part.same_trans (h.frame p hp) (k.frame p (subParts_not_mem hq hp)),
   fun p => Part.later_trans (h.later p) (k.later p)⟩

theorem Touch.ite {ps : List Part} {c : Prop} [Decidable c] {r s t : State} (h : Touch ps r s) (k : Touch ps r t) :
    Touch ps r (if c then s else t) := by
  split
  · exact h
  · exact k

theorem Touch.forAll {ps : List Part} {α : Type} {l : List α} {g : α → State → State} {r s : State}
    (hg : ∀ a s, Touch ps s (g a s)) (h : Touch ps r s) : Touch ps r (forAll l g s) := by
  induction l generalizing s with
  | nil => exact h
  | cons a l ih => exact ih ((hg a s).after h (subParts_refl ps))

theorem Touch.foldl {ps : List Part} {α : Type} {l : List α} {g : State → α → State} {r s : State}
    (hg : ∀ s a, Touch ps s (g s a)) (h : Touch ps r s) : Touch ps r (l.foldl g s) := by
  induction l generalizing s with
  | nil => exact h
  | cons a l ih => exact ih ((hg s a).after h (subParts_refl ps))

/-- An answer: a next state that differs in the listed parts only. -/
def AnsTouch (ps : List Part) (s : State) (o : Answer) : Prop := ∃ t, o = .next t ∧ Touch ps s t

theorem AnsTouch.next {ps : List Part} {s t : State} (h : Touch ps s t) : AnsTouch ps s (.next t) := ⟨t, rfl, h⟩

theorem AnsTouch.ite {ps : List Part} {c : Prop} [Decidable c] {s : State} {o o' : Answer} (h : AnsTouch ps s o)
    (k : AnsTouch ps s o') : AnsTouch ps s (if c then o else o') := by
  split
  · exact h
  · exact k

/-! Updates of one group. The parts that the update leaves as they are need not be named. -/

theorem Touch.onPath {ps : List Part} {r s : State} {g} (h : Touch ps r s) (hp : subParts [.path] ps = true) :
    Touch ps r (s.onPath g) := by
  refine Touch.after (qs := [.path]) (s := s) ⟨rfl, fun p hp => ?_, fun p => ?_⟩ h hp
  · cases p <;> first | exact absurd (by decide) hp | exact rfl | exact ⟨rfl, rfl⟩
  · cases p <;> first | exact rfl | exact trivial | exact SvcSt.Later.refl _ | exact id | exact (fun k => ⟨Nat.le_refl _, k⟩)

theorem Touch.onTime {ps : List Part} {r s : State} {g} (h : Touch ps r s) (hp : subParts [.time] ps = true) :
    Touch ps r (s.onTime g) := by
  refine Touch.after (qs := [.time]) (s := s) ⟨rfl, fun p hp => ?_, fun p => ?_⟩ h hp
  · cases p <;> first | exact absurd (by decide) hp | exact rfl | exact ⟨rfl, rfl⟩
  · cases p <;> first | exact rfl | exact trivial | exact SvcSt.Later.refl _ | exact id | exact (fun k => ⟨Nat.le_refl _, k⟩)

theorem Touch.onStrm {ps : List Part} {r s : State} {g} (h : Touch ps r s) (hp : subParts [.strm] ps = true) :
    Touch ps r (s.onStrm g) := by
  refine Touch.after (qs := [.strm]) (s := s) ⟨rfl, fun p hp => ?_, fun p => ?_⟩ h hp
  · cases p <;> first | exact absurd (by decide) hp | exact rfl | exact ⟨rfl, rfl⟩
  · cases p <;> first | exact rfl | exact trivial | exact SvcSt.Later.refl _ | exact id | exact (fun k => ⟨Nat.le_refl _, k⟩)

theorem Touch.onLov {ps : List Part} {r s : State} {g} (h : Touch ps r s) (hp : subParts [.lov] ps = true) :
    Touch ps r (s.onLov g) := by
  refine Touch.after (qs := [.lov]) (s := s) ⟨rfl, fun p hp => ?_, fun p => ?_⟩ h hp
  · cases p <;> first | exact absurd (by decide) hp | exact rfl | exact ⟨rfl, rfl⟩
  · cases p <;> first | exact rfl | exact trivial | exact SvcSt.Later.refl _ | exact id | exact (fun k => ⟨Nat.le_refl _, k⟩)

theorem Touch.onLoc {ps : List Part} {r s : State} {g} (h : Touch ps r s) (hp : subParts [.loc] ps = true) :
    Touch ps r (s.onLoc g) := by
  refine Touch.after (qs := [.loc]) (s := s) ⟨rfl, fun p hp => ?_, fun p => ?_⟩ h hp
  · cases p <;> first | exact absurd (by decide) hp | exact rfl | exact ⟨rfl, rfl⟩
  · cases p <;> first | exact rfl | exact trivial | exact SvcSt.Later.refl _ | exact id | exact (fun k => ⟨Nat.le_refl _, k⟩)

theorem Touch.onPwr {ps : List Part} {r s : State} {g} (h : Touch ps r s) (hp : subParts [.pwr] ps = true) :
    Touch ps r (s.onPwr g) := by
  refine Touch.after (qs := [.pwr]) (s := s) ⟨rfl, fun p hp => ?_, fun p => ?_⟩ h hp
  · cases p <;> first | exact absurd (by decide) hp | exact rfl | exact ⟨rfl, rfl⟩
  · cases p <;> first | exact rfl | exact trivial | exact SvcSt.Later.refl _ | exact id | exact (fun k => ⟨Nat.le_refl _, k⟩)

theorem Touch.onMemc {ps : List Part} {r s : State} {g} (h : Touch ps r s) (hp : subParts [.memc] ps = true) :
    Touch ps r (s.onMemc g) := by
  refine Touch.after (qs := [.memc]) (s := s) ⟨rfl, fun p hp => ?_, fun p => ?_⟩ h hp
  · cases p <;> first | exact absurd (by decide) hp | exact rfl | exact ⟨rfl, rfl⟩
  · cases p <;> first | exact rfl | exact trivial | exact SvcSt.Later.refl _ | exact id | exact (fun k => ⟨Nat.le_refl _, k⟩)

theorem Touch.onEdges {ps : List Part} {r s : State} {g} (h : Touch ps r s) (hp : subParts [.edges] ps = true) :
    Touch ps r (s.onEdges g) := by
  refine Touch.after (qs := [.edges]) (s := s) ⟨rfl, fun p hp => ?_, fun p => ?_⟩ h hp
  · cases p <;> first | exact absurd (by decide) hp | exact rfl | exact ⟨rfl, rfl⟩
  · cases p <;> first | exact rfl | exact trivial | exact SvcSt.Later.refl _ | exact id | exact (fun k => ⟨Nat.le_refl _, k⟩)

theorem Touch.onCore {ps : List Part} {r s : State} {n g} (h : Touch ps r s) (hp : subParts [.cores] ps = true) :
    Touch ps r (s.onCore n g) := by
  refine Touch.after (qs := [.cores]) (s := s) ⟨rfl, fun p hp => ?_, fun p => ?_⟩ h hp
  · cases p <;> first | exact absurd (by decide) hp | exact rfl | exact ⟨rfl, rfl⟩
  · cases p <;> first | exact rfl | exact trivial | exact SvcSt.Later.refl _ | exact id | exact (fun k => ⟨Nat.le_refl _, k⟩)

theorem Touch.onChip {ps : List Part} {r s : State} {g} (h : Touch ps r s) (hg : ∀ x, (g x).variant = x.variant)
    (hp : subParts [.chip] ps = true) : Touch ps r (s.onChip g) := by
  refine Touch.after (qs := [.chip]) (s := s) ⟨rfl, fun p hp => ?_, fun p => ?_⟩ h hp
  · cases p <;> first | exact absurd (by decide) hp | exact rfl | exact ⟨rfl, rfl⟩
  · cases p <;> first | exact rfl | exact trivial | exact SvcSt.Later.refl _ | exact id | exact (fun k => ⟨Nat.le_refl _, k⟩) | exact hg _

theorem Touch.onLog {ps : List Part} {r s : State} {g} (h : Touch ps r s) (hg : ∀ x : LogSt, x.Later (g x))
    (hp : subParts [.log] ps = true) : Touch ps r (s.onLog g) := by
  refine Touch.after (qs := [.log]) (s := s) ⟨rfl, fun p hp => ?_, fun p => ?_⟩ h hp
  · cases p <;> first | exact absurd (by decide) hp | exact rfl | exact ⟨rfl, rfl⟩
  · cases p <;> first | exact rfl | exact trivial | exact SvcSt.Later.refl _ | exact id | exact (fun k => ⟨Nat.le_refl _, k⟩) | exact hg _

theorem Touch.onCnt {ps : List Part} {r s : State} {g} (h : Touch ps r s) (hg : ∀ x : CntSt, x.inRange → (g x).inRange)
    (hp : subParts [.cnt] ps = true) : Touch ps r (s.onCnt g) := by
  refine Touch.after (qs := [.cnt]) (s := s) ⟨rfl, fun p hp => ?_, fun p => ?_⟩ h hp
  · cases p <;> first | exact absurd (by decide) hp | exact rfl | exact ⟨rfl, rfl⟩
  · cases p <;> first | exact rfl | exact trivial | exact SvcSt.Later.refl _ | exact id | exact (fun k => ⟨Nat.le_refl _, k⟩) | exact hg _

theorem Touch.onMem {ps : List Part} {r s : State} {g} (h : Touch ps r s) (hg : ∀ x, Memory.wf x = true → Memory.wf (g x) = true)
    (hp : subParts [.mem] ps = true) : Touch ps r (s.onMem g) := by
  refine Touch.after (qs := [.mem]) (s := s) ⟨rfl, fun p hp => ?_, fun p => ?_⟩ h hp
  · cases p <;> first | exact absurd (by decide) hp | exact rfl | exact ⟨rfl, rfl⟩
  · cases p <;> first | exact rfl | exact trivial | exact SvcSt.Later.refl _ | exact id | exact (fun k => ⟨Nat.le_refl _, k⟩) | exact hg _

theorem Touch.onLife {ps : List Part} {r s : State} {g} (h : Touch ps r s)
    (h0 : ps.contains .funcs = true ∨ ∀ x, (g x).funcs = x.funcs)
    (h1 : ps.contains .params = true ∨ ∀ x, (g x).params = x.params)
    (h2 : ps.contains .live = true ∨ ∀ x, (g x).live = x.live)
    (h3 : ps.contains .writes = true ∨ ∀ x, (g x).writes = x.writes)
    (h4 : ps.contains .jobs = true ∨ ∀ x, ((g x).jobs = x.jobs ∧ (g x).nextUid = x.nextUid))
    (h5 : ps.contains .acts = true ∨ ∀ x, (g x).acts = x.acts) : Touch ps r (s.onLife g) := by
  refine Touch.after (qs := ps) (s := s) ⟨rfl, fun p hp => ?_, fun p => ?_⟩ h (subParts_refl ps)
  · cases p <;> first
      | exact h0.resolve_left (fun k => hp (List.contains_iff_mem.mp k)) _
      | exact h1.resolve_left (fun k => hp (List.contains_iff_mem.mp k)) _
      | exact h2.resolve_left (fun k => hp (List.contains_iff_mem.mp k)) _
      | exact h3.resolve_left (fun k => hp (List.contains_iff_mem.mp k)) _
      | exact h4.resolve_left (fun k => hp (List.contains_iff_mem.mp k)) _
      | exact h5.resolve_left (fun k => hp (List.contains_iff_mem.mp k)) _
      | exact rfl | exact ⟨rfl, rfl⟩
  · cases p <;> first | exact rfl | exact trivial | exact SvcSt.Later.refl _ | exact id | exact (fun k => ⟨Nat.le_refl _, k⟩)

theorem Touch.onHost {ps : List Part} {r s : State} {g} (h : Touch ps r s)
    (h0 : ps.contains .rings = true ∨ ∀ x, (g x).rings = x.rings)
    (h1 : ps.contains .pages = true ∨ ∀ x, ((g x).hostPage = x.hostPage ∧ (g x).tarrPage = x.tarrPage))
    (h2 : ps.contains .taken = true ∨ ∀ x, ((g x).taken = x.taken ∧ (g x).lastServed = x.lastServed))
    (h3 : ps.contains .link = true ∨ ∀ x, (g x).link = x.link)
    (h4 : ps.contains .hostMem = true ∨ ∀ x, (g x).hostMem = x.hostMem) : Touch ps r (s.onHost g) := by
  refine Touch.after (qs := ps) (s := s) ⟨rfl, fun p hp => ?_, fun p => ?_⟩ h (subParts_refl ps)
  · cases p <;> first
      | exact h0.resolve_left (fun k => hp (List.contains_iff_mem.mp k)) _
      | exact h1.resolve_left (fun k => hp (List.contains_iff_mem.mp k)) _
      | exact h2.resolve_left (fun k => hp (List.contains_iff_mem.mp k)) _
      | exact h3.resolve_left (fun k => hp (List.contains_iff_mem.mp k)) _
      | exact h4.resolve_left (fun k => hp (List.contains_iff_mem.mp k)) _
      | exact rfl | exact ⟨rfl, rfl⟩
  · cases p <;> first | exact rfl | exact trivial | exact SvcSt.Later.refl _ | exact id | exact (fun k => ⟨Nat.le_refl _, k⟩)

theorem Touch.onSvc {ps : List Part} {r s : State} {g} (h : Touch ps r s)
    (h0 : ps.contains .reqs = true ∨ ∀ x, (g x).reqs = x.reqs)
    (h1 : ps.contains .svc = true ∨ ∀ x, (g x).rest = x.rest)
    (hl : ∀ x : SvcSt, x.Later (g x)) : Touch ps r (s.onSvc g) := by
  refine Touch.after (qs := ps) (s := s) ⟨rfl, fun p hp => ?_, fun p => ?_⟩ h (subParts_refl ps)
  · cases p <;> first
      | exact h0.resolve_left (fun k => hp (List.contains_iff_mem.mp k)) _
      | exact h1.resolve_left (fun k => hp (List.contains_iff_mem.mp k)) _
      | exact rfl | exact ⟨rfl, rfl⟩
  · cases p <;> first | exact rfl | exact trivial | exact SvcSt.Later.refl _ | exact id | exact (fun k => ⟨Nat.le_refl _, k⟩) | exact hl _

/-- An update of the security block whose two conditions hold where it is applied. -/
theorem Touch.onSvcAt {ps : List Part} {r s : State} {g} (h : Touch ps r s) (hp : subParts [.svc] ps = true)
    (hr : (g s.svc).reqs = s.svc.reqs) (hl : s.svc.Later (g s.svc)) : Touch ps r (s.onSvc g) := by
  refine Touch.after (qs := [.svc]) (s := s) ⟨rfl, fun p hq => ?_, fun p => ?_⟩ h hp
  · cases p <;> first | exact absurd (by decide) hq | exact hr | exact rfl | exact ⟨rfl, rfl⟩
  · cases p <;> first | exact rfl | exact trivial | exact hl | exact id | exact (fun k => ⟨Nat.le_refl _, k⟩)

theorem Touch.onNet {ps : List Part} {r s : State} {g} (h : Touch ps r s)
    (h0 : ps.contains .portA = true ∨ ∀ x, (g x).a = x.a)
    (h1 : ps.contains .portB = true ∨ ∀ x, (g x).b = x.b) : Touch ps r (s.onNet g) := by
  refine Touch.after (qs := ps) (s := s) ⟨rfl, fun p hp => ?_, fun p => ?_⟩ h (subParts_refl ps)
  · cases p <;> first
      | exact h0.resolve_left (fun k => hp (List.contains_iff_mem.mp k)) _
      | exact h1.resolve_left (fun k => hp (List.contains_iff_mem.mp k)) _
      | exact rfl | exact ⟨rfl, rfl⟩
  · cases p <;> first | exact rfl | exact trivial | exact SvcSt.Later.refl _ | exact id | exact (fun k => ⟨Nat.le_refl _, k⟩)

theorem Touch.setCores {ps : List Part} {r s : State} {v} (h : Touch ps r s) (hp : subParts [.cores] ps = true) :
    Touch ps r { s with cores := v } := by
  refine Touch.after (qs := [.cores]) (s := s) ⟨rfl, fun p hp => ?_, fun p => ?_⟩ h hp
  · cases p <;> first | exact absurd (by decide) hp | exact rfl | exact ⟨rfl, rfl⟩
  · cases p <;> first | exact rfl | exact trivial | exact SvcSt.Later.refl _ | exact id | exact (fun k => ⟨Nat.le_refl _, k⟩)

theorem State.freshen_touch (s : State) : Touch [.free] s s.freshen := by
  refine ⟨rfl, fun p hp => ?_, fun p => ?_⟩
  · cases p <;> first | exact absurd (by decide) hp | exact rfl | exact ⟨rfl, rfl⟩
  · cases p <;> first | exact rfl | exact trivial | exact SvcSt.Later.refl _ | exact id | exact (fun k => ⟨Nat.le_refl _, k⟩)

end Sys2Proof.Machine
end

