-- ==== Sys2Proof/Laws/Counters.lean ====
section
/-! SUPPORT. Sparse data: a read after a write. Counters stay in range. Merging keeps the log's length. -/

namespace Sys2Proof.Machine

open Sys2Proof

theorem Store.mem_put {α : Type} {m : Store α} {k : Nat} {v : α} {e : Nat × α} (h : e ∈ m.put k v) : e = (k, v) ∨ e ∈ m := by
  induction m with
  | nil => simp_all [Store.put]
  | cons f r ih =>
    obtain ⟨j, w⟩ := f
    simp only [Store.put] at h
    split at h
    · simp_all
    · split at h
      · simp_all; tauto
      · rcases List.mem_cons.mp h with rfl | h
        · simp
        · rcases ih h with h | h <;> simp [h]

@[simp] theorem Store.get?_put_self {α : Type} (m : Store α) (k : Nat) (v : α) : (m.put k v).get? k = some v := by
  induction m with
  | nil => simp [Store.put, Store.get?]
  | cons f r ih =>
    obtain ⟨j, w⟩ := f
    simp only [Store.put]
    split
    · simp [Store.get?]
    · split
      · simp [Store.get?]
      · have : j ≠ k := by omega
        simp [Store.get?, this, ih]

theorem Store.get?_put_of_ne {α : Type} (m : Store α) {k x : Nat} (v : α) (h : x ≠ k) : (m.put k v).get? x = m.get? x := by
  induction m with
  | nil => simp [Store.put, Store.get?, h.symm]
  | cons f r ih =>
    obtain ⟨j, w⟩ := f
    simp only [Store.put]
    split
    · simp [Store.get?, h.symm]
    · split
      · subst_vars; simp [Store.get?, h.symm]
      · by_cases hj : j = x <;> simp [Store.get?, hj, ih]

theorem CntSt.inRange_put {c : CntSt} {k v : Nat} {hi : Store (BitVec 16)} (h : c.inRange) (hv : v < 2 ^ 48) :
    ({ vals := c.vals.put k v, hi := hi } : CntSt).inRange := by
  intro e he
  rcases Store.mem_put he with rfl | he
  · exact hv
  · exact h e he

theorem CntSt.inRange_filter {c : CntSt} {p : Nat × Nat → Bool} {hi : Store (BitVec 16)} (h : c.inRange) :
    ({ vals := c.vals.filter p, hi := hi } : CntSt).inRange := fun e he => h e (List.mem_filter.mp he).1

theorem CntSt.inRange_del {c : CntSt} {k : Nat} {hi : Store (BitVec 16)} (h : c.inRange) :
    ({ vals := c.vals.del k, hi := hi } : CntSt).inRange := CntSt.inRange_filter h

theorem mergeEntry_length (code func cause : Byte) (data : DWord) (l : List LogEntry) :
    (mergeEntry code func cause data l).length = l.length := by
  induction l with
  | nil => rfl
  | cons e r ih => simp only [mergeEntry]; split <;> simp [ih]

end Sys2Proof.Machine
end

