-- ==== Sys2Proof/Laws/OpsTouch.lean ====
section
/-! SUPPORT. What each operation of Machine/Ops.lean may change: one lemma each, `<name>_touch`. -/

namespace Sys2Proof.Machine

open Sys2Proof

theorem State.onRing_touch (q : Fin 32) (g : Ring → Ring) (s : State) :
    Touch [.rings] s (State.onRing q g s) := by
  unfold State.onRing
  try dsimp only
  repeat' first
      | with_reducible exact Touch.refl _ _ | with_reducible assumption
      | with_reducible refine Touch.onHost ?_ ?_ ?_ ?_ ?_ ?_ | with_reducible refine Touch.ite ?_ ?_
      | exact Or.inl rfl | exact Or.inr fun _ => rfl | exact Or.inr fun _ => ⟨rfl, rfl⟩

theorem State.onPort_touch (p : Port) (g : PortSt → PortSt) (s : State) :
    Touch [.portA, .portB] s (State.onPort p g s) := by
  unfold State.onPort
  try dsimp only
  repeat' first
      | with_reducible exact Touch.refl _ _ | with_reducible assumption | with_reducible refine Touch.onNet ?_ ?_ ?_
      | with_reducible refine Touch.ite ?_ ?_ | exact Or.inl rfl | exact Or.inr fun _ => rfl
      | exact Or.inr fun _ => ⟨rfl, rfl⟩ | (intro _) | split

theorem State.onPch_touch (c : Fin 4) (g : Pch → Pch) (s : State) :
    Touch [.pwr] s (State.onPch c g s) := by
  unfold State.onPch
  try dsimp only
  repeat' first
      | with_reducible exact Touch.refl _ _ | with_reducible assumption | with_reducible refine Touch.onPwr ?_ rfl

theorem State.onDec_touch (c : Fin 40) (g : Dec → Dec) (s : State) :
    Touch [.loc] s (State.onDec c g s) := by
  unfold State.onDec
  try dsimp only
  repeat' first
      | with_reducible exact Touch.refl _ _ | with_reducible assumption | with_reducible refine Touch.onLoc ?_ rfl

theorem State.onTdm_touch (x : Fin 2) (g : Tdm → Tdm) (s : State) :
    Touch [.loc] s (State.onTdm x g s) := by
  unfold State.onTdm
  try dsimp only
  repeat' first
      | with_reducible exact Touch.refl _ _ | with_reducible assumption | with_reducible refine Touch.onLoc ?_ rfl

theorem State.write_touch (a : Nat) (bs : List Byte) (s : State) :
    Touch [.mem] s (State.write a bs s) := by
  exact Touch.onMem (Touch.refl _ _) (fun _ => memPutList_wf _ _) rfl


theorem State.writeHost_touch (a : Nat) (bs : List Byte) (s : State) :
    Touch [.hostMem] s (State.writeHost a bs s) := by
  unfold State.writeHost
  try dsimp only
  repeat' first
      | with_reducible exact Touch.refl _ _ | with_reducible assumption
      | with_reducible refine Touch.onHost ?_ ?_ ?_ ?_ ?_ ?_ | with_reducible refine Touch.ite ?_ ?_
      | exact Or.inl rfl | exact Or.inr fun _ => rfl | exact Or.inr fun _ => ⟨rfl, rfl⟩

theorem State.unpoison_touch (a : Nat) (n : Nat) (s : State) :
    Touch [.memc] s (State.unpoison a n s) := by
  unfold State.unpoison
  try dsimp only
  repeat' first
      | with_reducible exact Touch.refl _ _ | with_reducible assumption | with_reducible refine Touch.onMemc ?_ rfl

theorem State.writeAt_touch (a : DWord) (bs : List Byte) (s : State) :
    Touch [.hostMem, .memc, .mem] s (State.writeAt a bs s) := by
  unfold State.writeAt
  try dsimp only
  repeat' first
      | with_reducible exact Touch.refl _ _ | with_reducible assumption
      | with_reducible refine (State.writeHost_touch ..).after ?_ rfl
      | with_reducible refine (State.write_touch ..).after ?_ rfl
      | with_reducible refine (State.unpoison_touch ..).after ?_ rfl | with_reducible refine Touch.ite ?_ ?_

theorem State.onFunc_touch (f : Func) (g : FuncRec → FuncRec) (s : State) :
    Touch [.funcs] s (State.onFunc f g s) := by
  unfold State.onFunc
  try dsimp only
  repeat' first
      | with_reducible exact Touch.refl _ _ | with_reducible assumption
      | with_reducible refine Touch.onLife ?_ ?_ ?_ ?_ ?_ ?_ ?_ | with_reducible refine Touch.ite ?_ ?_
      | exact Or.inl rfl | exact Or.inr fun _ => rfl | exact Or.inr fun _ => ⟨rfl, rfl⟩

theorem State.setLife_touch (f : Func) (st : Life) (s : State) :
    Touch [.funcs] s (State.setLife f st s) := by
  unfold State.setLife
  try dsimp only
  repeat' first
      | with_reducible exact Touch.refl _ _ | with_reducible assumption
      | with_reducible refine (State.onFunc_touch ..).after ?_ rfl

theorem State.setParam_touch (pid : Nat) (v : Word) (s : State) :
    Touch [.params] s (State.setParam pid v s) := by
  unfold State.setParam
  try dsimp only
  repeat' first
      | with_reducible exact Touch.refl _ _ | with_reducible assumption
      | with_reducible refine Touch.onLife ?_ ?_ ?_ ?_ ?_ ?_ ?_ | with_reducible refine Touch.ite ?_ ?_
      | exact Or.inl rfl | exact Or.inr fun _ => rfl | exact Or.inr fun _ => ⟨rfl, rfl⟩

theorem State.dropParams_touch (f : Func) (s : State) :
    Touch [.params] s (State.dropParams f s) := by
  unfold State.dropParams
  try dsimp only
  repeat' first
      | with_reducible exact Touch.refl _ _ | with_reducible assumption
      | with_reducible refine Touch.onLife ?_ ?_ ?_ ?_ ?_ ?_ ?_ | with_reducible refine Touch.ite ?_ ?_
      | exact Or.inl rfl | exact Or.inr fun _ => rfl | exact Or.inr fun _ => ⟨rfl, rfl⟩

theorem State.bumpBy_touch (f : Nat) (i : Nat) (n : Nat) (s : State) :
    Touch [.cnt] s (State.bumpBy f i n s) := by
  exact Touch.onCnt (Touch.refl _ _) (fun _ k => CntSt.inRange_put k (by omega)) rfl


theorem State.bump_touch (f : Nat) (i : Nat) (s : State) :
    Touch [.cnt] s (State.bump f i s) := by
  unfold State.bump
  try dsimp only
  repeat' first
      | with_reducible exact Touch.refl _ _ | with_reducible assumption
      | with_reducible refine (State.bumpBy_touch ..).after ?_ rfl

theorem State.clearCnt_touch (f : Nat) (i : Nat) (s : State) :
    Touch [.cnt] s (State.clearCnt f i s) := by
  exact Touch.onCnt (Touch.refl _ _) (fun _ => CntSt.inRange_del) rfl


theorem State.readLo_touch (f : Nat) (i : Nat) (s : State) :
    Touch [.chip, .cnt] s (State.readLo f i s) := by
  unfold State.readLo
  dsimp only
  refine Touch.onChip ?_ (fun _ => rfl) rfl
  exact Touch.onCnt (Touch.refl _ _) (fun _ => CntSt.inRange_del) rfl


theorem State.bumpPort_touch (p : Port) (i : Nat) (s : State) :
    Touch [.cnt] s (State.bumpPort p i s) := by
  unfold State.bumpPort
  try dsimp only
  repeat' first
      | with_reducible exact Touch.refl _ _ | with_reducible assumption
      | with_reducible refine (State.bump_touch ..).after ?_ rfl

theorem State.bumpPath_touch (p : Port) (i : Nat) (s : State) :
    Touch [.cnt] s (State.bumpPath p i s) := by
  unfold State.bumpPath
  try dsimp only
  repeat' first
      | with_reducible exact Touch.refl _ _ | with_reducible assumption
      | with_reducible refine (State.bump_touch ..).after ?_ rfl

theorem State.raise_touch (bit : Nat) (s : State) :
    Touch [.pages] s (State.raise bit s) := by
  unfold State.raise
  try dsimp only
  repeat' first
      | with_reducible exact Touch.refl _ _ | with_reducible assumption
      | with_reducible refine Touch.onHost ?_ ?_ ?_ ?_ ?_ ?_ | with_reducible refine Touch.ite ?_ ?_
      | exact Or.inl rfl | exact Or.inr fun _ => rfl | exact Or.inr fun _ => ⟨rfl, rfl⟩

theorem State.putEntry_touch (code : Byte) (func : Byte) (cause : Byte) (data : DWord) (s : State) :
    Touch [.pages, .log] s (State.putEntry code func cause data s) := by
  unfold State.putEntry
  refine (State.raise_touch _ _).after (Touch.onLog (Touch.refl _ _) (fun _ k => ?_) rfl) rfl
  simp only [List.length_take, List.length_cons]
  omega


theorem State.logEntry_touch (code : Byte) (func : Byte) (cause : Byte) (data : DWord) (s : State) :
    Touch [.pages, .log] s (State.logEntry code func cause data s) := by
  unfold State.logEntry
  dsimp only
  refine Touch.ite (Touch.onLog (Touch.refl _ _) (fun _ k => ?_) rfl) (Touch.ite (Touch.onLog (Touch.refl _ _) (fun _ => LogSt.Later.of_eq rfl) rfl)
    (Touch.onLog ((State.putEntry_touch ..).after (Touch.ite (Touch.refl _ _) (Touch.onLog (State.putEntry_touch ..)
      (fun _ => LogSt.Later.of_eq rfl) rfl)) rfl) (fun _ => LogSt.Later.of_eq rfl) rfl))
  simp only [mergeEntry_length]
  exact ⟨Nat.le_refl _, k⟩


theorem State.addRec_touch (q : Fin 32) (r : Rec) (s : State) :
    Touch [.rings, .reqs] s (State.addRec q r s) := by
  unfold State.addRec
  try dsimp only
  repeat' first
      | with_reducible exact Touch.refl _ _ | with_reducible assumption
      | with_reducible refine Touch.onSvc ?_ ?_ ?_ ?_ | exact fun _ => SvcSt.Later.of_eq rfl rfl rfl rfl rfl rfl rfl
      | exact SvcSt.Later.of_eq rfl rfl rfl rfl rfl rfl rfl
      | with_reducible refine (State.onRing_touch ..).after ?_ rfl | with_reducible refine Touch.ite ?_ ?_
      | exact Or.inl rfl | exact Or.inr fun _ => rfl

theorem State.dropJob_touch (uid : Nat) (s : State) :
    Touch [.jobs] s (State.dropJob uid s) := by
  unfold State.dropJob
  try dsimp only
  repeat' first
      | with_reducible exact Touch.refl _ _ | with_reducible assumption
      | with_reducible refine Touch.onLife ?_ ?_ ?_ ?_ ?_ ?_ ?_ | with_reducible refine Touch.ite ?_ ?_
      | exact Or.inl rfl | exact Or.inr fun _ => rfl

theorem noteProgress_touch (j : Job) (done : Nat) (s : State) :
    Touch [.link] s (noteProgress j done s) := by
  unfold noteProgress
  try dsimp only
  repeat' first
      | with_reducible exact Touch.refl _ _ | with_reducible assumption
      | with_reducible refine Touch.onHost ?_ ?_ ?_ ?_ ?_ ?_ | with_reducible refine Touch.ite ?_ ?_
      | exact Or.inl rfl | exact Or.inr fun _ => rfl | exact Or.inr fun _ => ⟨rfl, rfl⟩

theorem State.endJob_touch (j : Job) (status : Byte) (done : Nat) (unc : Bool) (s : State) :
    Touch [.jobs, .rings, .link, .reqs] s (State.endJob j status done unc s) := by
  unfold State.endJob
  try dsimp only
  repeat' first
      | with_reducible exact Touch.refl _ _ | with_reducible assumption
      | with_reducible refine (State.addRec_touch ..).after ?_ rfl
      | with_reducible refine (State.dropJob_touch ..).after ?_ rfl
      | with_reducible refine (noteProgress_touch ..).after ?_ rfl | with_reducible refine Touch.ite ?_ ?_

theorem State.endJobs_touch (p : Job → Bool) (status : Byte) (done : Nat) (s : State) :
    Touch [.jobs, .rings, .link, .reqs] s (State.endJobs p status done s) := by
  unfold State.endJobs
  try dsimp only
  repeat' first
      | with_reducible exact Touch.refl _ _ | with_reducible assumption | with_reducible refine Touch.forAll ?_ ?_
      | with_reducible refine (State.endJob_touch ..).after ?_ rfl | with_reducible refine Touch.ite ?_ ?_ | (intro _)

theorem State.onJob_touch (uid : Nat) (g : Job → Job) (s : State) :
    Touch [.jobs] s (State.onJob uid g s) := by
  unfold State.onJob
  try dsimp only
  repeat' first
      | with_reducible exact Touch.refl _ _ | with_reducible assumption
      | with_reducible refine Touch.onLife ?_ ?_ ?_ ?_ ?_ ?_ ?_ | with_reducible refine Touch.ite ?_ ?_
      | exact Or.inl rfl | exact Or.inr fun _ => rfl

theorem State.endAction_touch (a : Action) (status : Byte) (done : Nat) (s : State) :
    Touch [.acts, .rings, .reqs] s (State.endAction a status done s) := by
  unfold State.endAction
  try dsimp only
  repeat' first
      | with_reducible exact Touch.refl _ _ | with_reducible assumption
      | with_reducible refine Touch.onLife ?_ ?_ ?_ ?_ ?_ ?_ ?_
      | with_reducible refine (State.addRec_touch ..).after ?_ rfl | with_reducible refine Touch.ite ?_ ?_
      | exact Or.inl rfl | exact Or.inr fun _ => rfl | exact Or.inr fun _ => ⟨rfl, rfl⟩

theorem State.endActions_touch (p : Action → Bool) (status : Byte) (done : Nat) (s : State) :
    Touch [.acts, .rings, .reqs] s (State.endActions p status done s) := by
  unfold State.endActions
  try dsimp only
  repeat' first
      | with_reducible exact Touch.refl _ _ | with_reducible assumption | with_reducible refine Touch.forAll ?_ ?_
      | with_reducible refine (State.endAction_touch ..).after ?_ rfl | with_reducible refine Touch.ite ?_ ?_
      | (intro _)

theorem State.endStarts_touch (f : Func) (status : Byte) (s : State) :
    Touch [.jobs, .acts, .rings, .link, .reqs] s (State.endStarts f status s) := by
  unfold State.endStarts
  try dsimp only
  repeat' first
      | with_reducible exact Touch.refl _ _ | with_reducible assumption | with_reducible refine Touch.forAll ?_ ?_
      | with_reducible refine (State.endAction_touch ..).after ?_ rfl
      | with_reducible refine (State.endJobs_touch ..).after ?_ rfl | with_reducible refine Touch.ite ?_ ?_
      | (intro _)

theorem State.endStops_touch (f : Func) (status : Byte) (s : State) :
    Touch [.jobs, .acts, .rings, .link, .reqs] s (State.endStops f status s) := by
  unfold State.endStops
  try dsimp only
  repeat' first
      | with_reducible exact Touch.refl _ _ | with_reducible assumption | with_reducible refine Touch.forAll ?_ ?_
      | with_reducible refine (State.endAction_touch ..).after ?_ rfl
      | with_reducible refine (State.endJobs_touch ..).after ?_ rfl | with_reducible refine Touch.ite ?_ ?_
      | (intro _)

theorem State.answer_touch (w : Word) (s : State) :
    Touch [.chip] s (State.answer w s) := by
  unfold State.answer
  try dsimp only
  repeat' first
      | with_reducible exact Touch.refl _ _ | with_reducible assumption | with_reducible refine Touch.onChip ?_ ?_ rfl
      | with_reducible refine Touch.ite ?_ ?_ | exact fun _ => rfl

theorem setCopy_touch (i : Island) (n : DWord) (s : State) :
    Touch [.time] s (setCopy i n s) := by
  unfold setCopy
  try dsimp only
  repeat' first
      | with_reducible exact Touch.refl _ _ | with_reducible assumption | with_reducible refine Touch.onTime ?_ rfl

theorem setBegun_touch (i : Island) (b : Bool) (s : State) :
    Touch [.time] s (setBegun i b s) := by
  unfold setBegun
  try dsimp only
  repeat' first
      | with_reducible exact Touch.refl _ _ | with_reducible assumption | with_reducible refine Touch.onTime ?_ rfl

theorem setHalted_touch (i : Island) (b : Bool) (s : State) :
    Touch [.time] s (setHalted i b s) := by
  unfold setHalted
  try dsimp only
  repeat' first
      | with_reducible exact Touch.refl _ _ | with_reducible assumption | with_reducible refine Touch.onTime ?_ rfl

theorem askStart_touch (f : Func) (s : State) :
    Touch [.funcs] s (askStart f s) := by
  unfold askStart
  try dsimp only
  repeat' first
      | with_reducible exact Touch.refl _ _ | with_reducible assumption
      | with_reducible refine (State.onFunc_touch ..).after ?_ rfl

theorem askStop_touch (f : Func) (off : Bool) (s : State) :
    Touch [.funcs] s (askStop f off s) := by
  unfold askStop
  try dsimp only
  repeat' first
      | with_reducible exact Touch.refl _ _ | with_reducible assumption
      | with_reducible refine (State.onFunc_touch ..).after ?_ rfl

end Sys2Proof.Machine
end

