-- ==== Sys2Proof/Laws/CoreOpsTouch.lean ====
section
/-! SUPPORT. What each operation of Machine/CoreOps.lean may change: one lemma each, `<name>_touch`. -/

namespace Sys2Proof.Machine

open Sys2Proof

theorem landOne_touch (n : Fin 16) (f : Flight) (s : State) :
    Touch [.cores, .mem] s (landOne n f s) := by
  unfold landOne
  try dsimp only
  repeat' first
      | with_reducible exact Touch.refl _ _ | with_reducible assumption | with_reducible refine Touch.onCore ?_ rfl
      | with_reducible refine (State.write_touch ..).after ?_ rfl | with_reducible refine Touch.ite ?_ ?_ | (intro _)
      | split

theorem landFirst_touch (n : Fin 16) (s : State) :
    Touch [.cores, .mem] s (landFirst n s) := by
  unfold landFirst
  try dsimp only
  repeat' first
      | with_reducible exact Touch.refl _ _ | with_reducible assumption | with_reducible refine Touch.onCore ?_ rfl
      | with_reducible refine (landOne_touch ..).after ?_ rfl | with_reducible refine Touch.ite ?_ ?_ | (intro _)
      | split

theorem landDue_touch (n : Fin 16) (s : State) :
    Touch [.cores, .mem] s (landDue n s) := by
  unfold landDue
  try dsimp only
  repeat' first
      | with_reducible exact Touch.refl _ _ | with_reducible assumption | with_reducible refine Touch.onCore ?_ rfl
      | with_reducible refine Touch.forAll ?_ ?_ | with_reducible refine (landOne_touch ..).after ?_ rfl
      | with_reducible refine Touch.ite ?_ ?_ | (intro _)

theorem landAll_touch (n : Fin 16) (s : State) :
    Touch [.cores, .mem] s (landAll n s) := by
  unfold landAll
  try dsimp only
  repeat' first
      | with_reducible exact Touch.refl _ _ | with_reducible assumption | with_reducible refine Touch.onCore ?_ rfl
      | with_reducible refine Touch.forAll ?_ ?_ | with_reducible refine (landOne_touch ..).after ?_ rfl
      | with_reducible refine Touch.ite ?_ ?_ | (intro _)

theorem coreTrap_touch (n : Fin 16) (cause : BitVec 4) (at_ : BitVec 12) (ret : BitVec 12) (s : State) :
    Touch [.cores] s ((coreTrap n cause at_ ret s).1) := by
  unfold coreTrap
  try dsimp only
  repeat' first
      | with_reducible exact Touch.refl _ _ | with_reducible assumption | with_reducible refine Touch.onCore ?_ rfl
      | with_reducible refine Touch.ite ?_ ?_ | (intro _) | split

/-- Work on a tick of the island's own changes what the work changes, and the counter on the way. -/
theorem atTick_touch {ps : List Part} {n : DWord} {g : State → State} {r s : State} (hb : ∀ s1, Touch ps s1 (g s1))
    (h : Touch ps r s) (hp : subParts [.time] ps = true) : Touch ps r (atTick n g s) := by
  unfold atTick
  have hg : Touch ps r (g (s.onTime fun x => { x with tick := n })) := (hb _).after (Touch.onTime h hp) (subParts_refl ps)
  exact Touch.ite ((hb _).after h (subParts_refl ps)) (Touch.ite (Touch.onTime hg hp) hg)

end Sys2Proof.Machine
end

