-- ==== Sys2Proof/Laws/EdgesTouch.lean ====
section
/-! SUPPORT. What each operation of Machine/Edges.lean may change: one lemma each, `<name>_touch`. -/

namespace Sys2Proof.Machine

open Sys2Proof

theorem State.onEdge_touch (p : Producer) (k : Consumer) (g : Edge → Edge) (s : State) :
    Touch [.edges] s (State.onEdge p k g s) := by
  unfold State.onEdge
  try dsimp only
  repeat' first
      | with_reducible exact Touch.refl _ _ | with_reducible assumption | with_reducible refine Touch.onEdges ?_ rfl

theorem errEvent_touch (p : Port) (s : State) :
    Touch [.path, .cnt] s (errEvent p s) := by
  unfold errEvent
  try dsimp only
  repeat' first
      | with_reducible exact Touch.refl _ _ | with_reducible assumption | with_reducible refine Touch.onPath ?_ rfl
      | with_reducible refine (State.bumpPath_touch ..).after ?_ rfl

theorem lateVector_touch (s : State) :
    Touch [.path] s (lateVector s) := by
  unfold lateVector
  try dsimp only
  repeat' first
      | with_reducible exact Touch.refl _ _ | with_reducible assumption | with_reducible refine Touch.onPath ?_ rfl

theorem missAt_touch (p : Producer) (k : Consumer) (s : State) :
    Touch [.pages, .path, .log, .cnt, .edges] s (missAt p k s) := by
  unfold missAt
  try dsimp only
  repeat' first
      | with_reducible exact Touch.refl _ _ | with_reducible assumption
      | with_reducible refine (State.logEntry_touch ..).after ?_ rfl
      | with_reducible refine (State.raise_touch ..).after ?_ rfl
      | with_reducible refine (State.bump_touch ..).after ?_ rfl
      | with_reducible refine (State.bumpPath_touch ..).after ?_ rfl
      | with_reducible refine (errEvent_touch ..).after ?_ rfl
      | with_reducible refine (lateVector_touch ..).after ?_ rfl
      | with_reducible refine (State.onEdge_touch ..).after ?_ rfl | with_reducible refine Touch.ite ?_ ?_ | (intro _)
      | split

theorem edgeTick_touch (p : Producer) (k : Consumer) (due : Bool) (fresh : Vec → List Word) (s : State) :
    Touch [.pages, .path, .log, .cnt, .edges, .free] s (edgeTick p k due fresh s) := by
  unfold edgeTick
  try dsimp only
  repeat' first
      | with_reducible exact Touch.refl _ _ | with_reducible assumption
      | with_reducible refine (State.freshen_touch _).after ?_ rfl
      | with_reducible refine (State.logEntry_touch ..).after ?_ rfl
      | with_reducible refine (missAt_touch ..).after ?_ rfl
      | with_reducible refine (State.onEdge_touch ..).after ?_ rfl | with_reducible refine Touch.ite ?_ ?_ | (intro _)
      | split

end Sys2Proof.Machine
end

