-- ==== Sys2Proof/Laws/StreamOpsTouch.lean ====
section
/-! SUPPORT. What each operation of Machine/StreamOps.lean may change: one lemma each, `<name>_touch`. -/

namespace Sys2Proof.Machine

open Sys2Proof

theorem State.onRx_touch (p : Port) (k : Nat) (g : RxRec → RxRec) (s : State) :
    Touch [.strm] s (State.onRx p k g s) := by
  unfold State.onRx
  try dsimp only
  repeat' first
      | with_reducible exact Touch.refl _ _ | with_reducible assumption | with_reducible refine Touch.onStrm ?_ rfl

theorem State.onTx_touch (k : Nat) (g : TxRec → TxRec) (s : State) :
    Touch [.strm] s (State.onTx k g s) := by
  unfold State.onTx
  try dsimp only
  repeat' first
      | with_reducible exact Touch.refl _ _ | with_reducible assumption | with_reducible refine Touch.onStrm ?_ rfl

theorem State.bumpRx_touch (p : Port) (k : Nat) (i : Nat) (n : Nat) (s : State) :
    Touch [.cnt] s (State.bumpRx p k i n s) := by
  unfold State.bumpRx
  try dsimp only
  repeat' first
      | with_reducible exact Touch.refl _ _ | with_reducible assumption
      | with_reducible refine (State.bumpBy_touch ..).after ?_ rfl

theorem presentOne_touch (p : Port) (n : DWord) (k : Nat) (s : State) :
    Touch [.strm, .cnt, .free] s (presentOne p n k s) := by
  unfold presentOne
  try dsimp only
  repeat' first
      | with_reducible exact Touch.refl _ _ | with_reducible assumption
      | with_reducible refine (State.freshen_touch _).after ?_ rfl
      | with_reducible refine (State.bumpRx_touch ..).after ?_ rfl
      | with_reducible refine (State.onRx_touch ..).after ?_ rfl | with_reducible refine Touch.ite ?_ ?_

theorem assemble_touch (p : Port) (n : DWord) (s : State) :
    Touch [.strm, .cnt, .free] s (assemble p n s) := by
  unfold assemble
  try dsimp only
  repeat' first
      | with_reducible exact Touch.refl _ _ | with_reducible assumption | with_reducible refine Touch.onStrm ?_ rfl
      | with_reducible refine (State.freshen_touch _).after ?_ rfl | with_reducible refine Touch.forAll ?_ ?_
      | with_reducible refine Touch.foldl ?_ ?_ | with_reducible refine (presentOne_touch ..).after ?_ rfl
      | with_reducible refine Touch.ite ?_ ?_ | (intro _)

theorem joinPort_touch (p : Port) (s : State) :
    Touch [.portA, .portB] s (joinPort p s) := by
  unfold joinPort
  try dsimp only
  repeat' first
      | with_reducible exact Touch.refl _ _ | with_reducible assumption
      | with_reducible refine (State.onPort_touch ..).after ?_ rfl

theorem joinGroups_touch (s : State) :
    Touch [.portA, .portB] s (joinGroups s) := by
  unfold joinGroups
  try dsimp only
  repeat' first
      | with_reducible exact Touch.refl _ _ | with_reducible assumption
      | with_reducible refine (joinPort_touch ..).after ?_ rfl

theorem leaveGroups_touch (s : State) :
    Touch [.portA, .portB] s (leaveGroups s) := by
  unfold leaveGroups
  try dsimp only
  repeat' first
      | with_reducible exact Touch.refl _ _ | with_reducible assumption
      | with_reducible refine (State.onPort_touch ..).after ?_ rfl

theorem resetRx_touch (s : State) :
    Touch [.strm] s (resetRx s) := by
  unfold resetRx
  try dsimp only
  repeat' first
      | with_reducible exact Touch.refl _ _ | with_reducible assumption | with_reducible refine Touch.onStrm ?_ rfl

theorem startTx_touch (s : State) :
    Touch [.strm, .free] s (startTx s) := by
  unfold startTx
  try dsimp only
  repeat' first
      | with_reducible exact Touch.refl _ _ | with_reducible assumption
      | with_reducible refine (State.freshen_touch _).after ?_ rfl | with_reducible refine Touch.forAll ?_ ?_
      | with_reducible refine (State.onTx_touch ..).after ?_ rfl | with_reducible refine Touch.ite ?_ ?_ | (intro _)

end Sys2Proof.Machine
end

