-- ==== Sys2Proof/Laws/PathOpsTouch.lean ====
section
/-! SUPPORT. What each operation of Machine/PathOps.lean may change: one lemma each, `<name>_touch`. -/

namespace Sys2Proof.Machine

open Sys2Proof

theorem setRole_touch (p : Port) (r : Role) (s : State) :
    Touch [.path] s (setRole p r s) := by
  unfold setRole
  try dsimp only
  repeat' first
      | with_reducible exact Touch.refl _ _ | with_reducible assumption | with_reducible refine Touch.onPath ?_ rfl

theorem enterStep_touch (p : Port) (s : State) :
    Touch [.path] s (enterStep p s) := by
  unfold enterStep
  try dsimp only
  repeat' first
      | with_reducible exact Touch.refl _ _ | with_reducible assumption | with_reducible refine Touch.onPath ?_ rfl
      | with_reducible refine (setRole_touch ..).after ?_ rfl

theorem doSwitch_touch (tgt : Port) (cause : Trigger) (sync : Bool) (s : State) :
    Touch [.pages, .path, .log, .cnt] s (doSwitch tgt cause sync s) := by
  unfold doSwitch
  try dsimp only
  repeat' first
      | with_reducible exact Touch.refl _ _ | with_reducible assumption | with_reducible refine Touch.onPath ?_ rfl
      | with_reducible refine (State.bumpPath_touch ..).after ?_ rfl
      | with_reducible refine (State.raise_touch ..).after ?_ rfl
      | with_reducible refine (State.logEntry_touch ..).after ?_ rfl
      | with_reducible refine (enterStep_touch ..).after ?_ rfl
      | with_reducible refine (setRole_touch ..).after ?_ rfl | with_reducible refine Touch.ite ?_ ?_

theorem endRequests_touch (status : Byte) (p : Port → Bool → Bool) (s : State) :
    Touch [.jobs, .rings, .link, .reqs, .path] s (endRequests status p s) := by
  unfold endRequests
  try dsimp only
  repeat' first
      | with_reducible exact Touch.refl _ _ | with_reducible assumption | with_reducible refine Touch.onPath ?_ rfl
      | with_reducible refine Touch.forAll ?_ ?_ | with_reducible refine (State.endJob_touch ..).after ?_ rfl
      | with_reducible refine Touch.ite ?_ ?_ | (intro _) | split

theorem endRequest_touch (status : Byte) (s : State) :
    Touch [.jobs, .rings, .link, .reqs, .path] s (endRequest status s) := by
  unfold endRequest
  try dsimp only
  repeat' first
      | with_reducible exact Touch.refl _ _ | with_reducible assumption
      | with_reducible refine (endRequests_touch ..).after ?_ rfl

theorem beginUnsync_touch (tgt : Port) (cause : Trigger) (s : State) :
    Touch [.path, .lov] s (beginUnsync tgt cause s) := by
  unfold beginUnsync
  try dsimp only
  repeat' first
      | with_reducible exact Touch.refl _ _ | with_reducible assumption | with_reducible refine Touch.onPath ?_ rfl
      | with_reducible refine Touch.onLov ?_ rfl

theorem unsyncChange_touch (s : State) :
    Touch [.jobs, .rings, .pages, .link, .reqs, .path, .lov, .log, .cnt] s (unsyncChange s) := by
  unfold unsyncChange
  try dsimp only
  repeat' first
      | with_reducible exact Touch.refl _ _ | with_reducible assumption | with_reducible refine Touch.onPath ?_ rfl
      | with_reducible refine Touch.onLov ?_ rfl | with_reducible refine (doSwitch_touch ..).after ?_ rfl
      | with_reducible refine (endRequest_touch ..).after ?_ rfl | with_reducible refine Touch.ite ?_ ?_ | (intro _)
      | split

theorem stoppedSwitch_touch (tgt : Port) (cause : Trigger) (s : State) :
    Touch [.jobs, .rings, .pages, .link, .reqs, .path, .lov, .log, .cnt] s (stoppedSwitch tgt cause s) := by
  unfold stoppedSwitch
  try dsimp only
  repeat' first
      | with_reducible exact Touch.refl _ _ | with_reducible assumption | with_reducible refine Touch.onPath ?_ rfl
      | with_reducible refine (unsyncChange_touch ..).after ?_ rfl

theorem unsyncClear_touch (s : State) :
    Touch [.path] s (unsyncClear s) := by
  unfold unsyncClear
  try dsimp only
  repeat' first
      | with_reducible exact Touch.refl _ _ | with_reducible assumption | with_reducible refine Touch.onPath ?_ rfl

theorem unsyncTick_touch (s : State) :
    Touch [.jobs, .rings, .pages, .link, .reqs, .path, .lov, .log, .cnt] s (unsyncTick s) := by
  unfold unsyncTick
  try dsimp only
  repeat' first
      | with_reducible exact Touch.refl _ _ | with_reducible assumption
      | with_reducible refine (unsyncClear_touch ..).after ?_ rfl
      | with_reducible refine (unsyncChange_touch ..).after ?_ rfl | with_reducible refine Touch.ite ?_ ?_ | (intro _)
      | split

theorem arbitrate_touch (s : State) :
    Touch [.jobs, .rings, .pages, .link, .reqs, .path, .lov, .log, .cnt] s (arbitrate s) := by
  unfold arbitrate
  try dsimp only
  repeat' first
      | with_reducible exact Touch.refl _ _ | with_reducible assumption
      | with_reducible refine (stoppedSwitch_touch ..).after ?_ rfl
      | with_reducible refine (beginUnsync_touch ..).after ?_ rfl
      | with_reducible refine (doSwitch_touch ..).after ?_ rfl
      | with_reducible refine (endRequest_touch ..).after ?_ rfl
      | with_reducible refine (State.bumpPath_touch ..).after ?_ rfl
      | with_reducible refine (endRequests_touch ..).after ?_ rfl | with_reducible refine Touch.ite ?_ ?_ | (intro _)
      | split

theorem takeDigests_touch (s : State) :
    Touch [.path, .free] s (takeDigests s) := by
  unfold takeDigests
  try dsimp only
  repeat' first
      | with_reducible exact Touch.refl _ _ | with_reducible assumption | with_reducible refine Touch.onPath ?_ rfl
      | with_reducible refine (State.freshen_touch _).after ?_ rfl

theorem updateMatch_touch (s : State) :
    Touch [.pages, .path, .log, .cnt] s (updateMatch s) := by
  unfold updateMatch
  try dsimp only
  repeat' first
      | with_reducible exact Touch.refl _ _ | with_reducible assumption | with_reducible refine Touch.onPath ?_ rfl
      | with_reducible refine (enterStep_touch ..).after ?_ rfl
      | with_reducible refine (setRole_touch ..).after ?_ rfl
      | with_reducible refine (State.raise_touch ..).after ?_ rfl
      | with_reducible refine (State.logEntry_touch ..).after ?_ rfl
      | with_reducible refine (State.bumpPath_touch ..).after ?_ rfl | with_reducible refine Touch.ite ?_ ?_

theorem standbyMiss_touch (s : State) :
    Touch [.path, .cnt] s (standbyMiss s) := by
  unfold standbyMiss
  try dsimp only
  repeat' first
      | with_reducible exact Touch.refl _ _ | with_reducible assumption
      | with_reducible refine (State.bumpPath_touch ..).after ?_ rfl
      | with_reducible refine (errEvent_touch ..).after ?_ rfl | with_reducible refine Touch.ite ?_ ?_

theorem extEffect_touch (s : State) :
    Touch [.path] s (extEffect s) := by
  unfold extEffect
  try dsimp only
  repeat' first
      | with_reducible exact Touch.refl _ _ | with_reducible assumption | with_reducible refine Touch.onPath ?_ rfl

theorem pathBoundary_touch (s : State) :
    Touch [.jobs, .rings, .pages, .link, .reqs, .path, .lov, .log, .cnt, .free] s (pathBoundary s) := by
  unfold pathBoundary
  try dsimp only
  repeat' first
      | with_reducible exact Touch.refl _ _ | with_reducible assumption | with_reducible refine Touch.onPath ?_ rfl
      | with_reducible refine (arbitrate_touch ..).after ?_ rfl
      | with_reducible refine (takeDigests_touch ..).after ?_ rfl
      | with_reducible refine (updateMatch_touch ..).after ?_ rfl
      | with_reducible refine (standbyMiss_touch ..).after ?_ rfl
      | with_reducible refine (unsyncTick_touch ..).after ?_ rfl
      | with_reducible refine (extEffect_touch ..).after ?_ rfl

theorem pathRunning_touch (p : Port) (s : State) :
    Touch [.pages, .path, .log, .cnt] s (pathRunning p s) := by
  unfold pathRunning
  try dsimp only
  repeat' first
      | with_reducible exact Touch.refl _ _ | with_reducible assumption
      | with_reducible refine (doSwitch_touch ..).after ?_ rfl | with_reducible refine (setRole_touch ..).after ?_ rfl
      | with_reducible refine Touch.ite ?_ ?_

theorem pathLeft_touch (p : Port) (s : State) :
    Touch [.path] s (pathLeft p s) := by
  unfold pathLeft
  try dsimp only
  repeat' first
      | with_reducible exact Touch.refl _ _ | with_reducible assumption
      | with_reducible refine (setRole_touch ..).after ?_ rfl | with_reducible refine Touch.ite ?_ ?_

theorem pathLinkLost_touch (p : Port) (s : State) :
    Touch [.path] s (pathLinkLost p s) := by
  unfold pathLinkLost
  try dsimp only
  repeat' first
      | with_reducible exact Touch.refl _ _ | with_reducible assumption | with_reducible refine Touch.onPath ?_ rfl
      | with_reducible refine (setRole_touch ..).after ?_ rfl | with_reducible refine Touch.ite ?_ ?_

end Sys2Proof.Machine
end

