-- ==== Sys2Proof/Laws/LovOpsTouch.lean ====
section
/-! SUPPORT. What each operation of Machine/LovOps.lean may change: one lemma each, `<name>_touch`. -/

namespace Sys2Proof.Machine

open Sys2Proof

theorem rescale_touch (work : Bool) (j : Nat) (k : Nat) (n0 : Nat) (s : State) :
    Touch [.lov] s (rescale work j k n0 s) := by
  unfold rescale
  try dsimp only
  repeat' first
      | with_reducible exact Touch.refl _ _ | with_reducible assumption | with_reducible refine Touch.onLov ?_ rfl
      | with_reducible refine Touch.ite ?_ ?_

theorem writeXp_touch (key : Nat) (gain : BitVec 24) (idx : BitVec 3) (k : Nat) (s : State) :
    Touch [.lov, .cnt, .free] s (writeXp key gain idx k s) := by
  unfold writeXp
  try dsimp only
  repeat' first
      | with_reducible exact Touch.refl _ _ | with_reducible assumption | with_reducible refine Touch.onLov ?_ rfl
      | with_reducible refine (State.freshen_touch _).after ?_ rfl
      | with_reducible refine (rescale_touch ..).after ?_ rfl
      | with_reducible refine (State.bump_touch ..).after ?_ rfl | with_reducible refine Touch.ite ?_ ?_

theorem endDue_touch (s : State) :
    Touch [.lov] s (endDue s) := by
  unfold endDue
  try dsimp only
  repeat' first
      | with_reducible exact Touch.refl _ _ | with_reducible assumption | with_reducible refine Touch.onLov ?_ rfl

theorem markActive_touch (s : State) :
    Touch [.lov] s (markActive s) := by
  unfold markActive
  try dsimp only
  repeat' first
      | with_reducible exact Touch.refl _ _ | with_reducible assumption | with_reducible refine Touch.onLov ?_ rfl

theorem State.onGen_touch (g : Fin 16) (f : Gen → Gen) (s : State) :
    Touch [.lov] s (State.onGen g f s) := by
  unfold State.onGen
  try dsimp only
  repeat' first
      | with_reducible exact Touch.refl _ _ | with_reducible assumption | with_reducible refine Touch.onLov ?_ rfl

theorem genApply_touch (g : Fin 16) (s : State) :
    Touch [.lov] s (genApply g s) := by
  unfold genApply
  try dsimp only
  repeat' first
      | with_reducible exact Touch.refl _ _ | with_reducible assumption
      | with_reducible refine (State.onGen_touch ..).after ?_ rfl

theorem genRise_touch (g : Fin 16) (s : State) :
    Touch [.lov] s (genRise g s) := by
  unfold genRise
  try dsimp only
  repeat' first
      | with_reducible exact Touch.refl _ _ | with_reducible assumption
      | with_reducible refine (genApply_touch ..).after ?_ rfl
      | with_reducible refine (State.onGen_touch ..).after ?_ rfl

theorem genTouch_touch (g : Fin 16) (p : Nat) (old : Int) (v : Word) (s : State) :
    Touch [.lov] s (genTouch g p old v s) := by
  unfold genTouch
  try dsimp only
  repeat' first
      | with_reducible exact Touch.refl _ _ | with_reducible assumption
      | with_reducible refine (State.onGen_touch ..).after ?_ rfl | with_reducible refine Touch.ite ?_ ?_

theorem genFlush_touch (g : Fin 16) (s : State) :
    Touch [.lov] s (genFlush g s) := by
  unfold genFlush
  try dsimp only
  repeat' first
      | with_reducible exact Touch.refl _ _ | with_reducible assumption
      | with_reducible refine (genApply_touch ..).after ?_ rfl
      | with_reducible refine (State.onGen_touch ..).after ?_ rfl

theorem lovFlush_touch (s : State) :
    Touch [.lov] s (lovFlush s) := by
  unfold lovFlush
  try dsimp only
  repeat' first
      | with_reducible exact Touch.refl _ _ | with_reducible assumption | with_reducible refine Touch.onLov ?_ rfl
      | with_reducible refine Touch.forAll ?_ ?_ | with_reducible refine (genFlush_touch ..).after ?_ rfl
      | with_reducible refine Touch.ite ?_ ?_ | (intro _)

theorem lovAdvance_touch (s : State) :
    Touch [.lov] s (lovAdvance s) := by
  unfold lovAdvance
  try dsimp only
  repeat' first
      | with_reducible exact Touch.refl _ _ | with_reducible assumption | with_reducible refine Touch.onLov ?_ rfl

theorem markClips_touch (js : List Nat) (s : State) :
    Touch [.lov, .cnt] s (markClips js s) := by
  unfold markClips
  try dsimp only
  repeat' first
      | with_reducible exact Touch.refl _ _ | with_reducible assumption | with_reducible refine Touch.onLov ?_ rfl
      | with_reducible refine Touch.forAll ?_ ?_ | with_reducible refine (State.bump_touch ..).after ?_ rfl
      | with_reducible refine Touch.ite ?_ ?_ | (intro _)

theorem lovSum_touch (s : State) :
    Touch [.lov, .cnt, .free] s (lovSum s) := by
  unfold lovSum
  try dsimp only
  repeat' first
      | with_reducible exact Touch.refl _ _ | with_reducible assumption | with_reducible refine Touch.onLov ?_ rfl
      | with_reducible refine (State.freshen_touch _).after ?_ rfl
      | with_reducible refine (markClips_touch ..).after ?_ rfl

end Sys2Proof.Machine
end

