-- ==== Sys2Proof/Laws/TimeOpsTouch.lean ====
section
/-! SUPPORT. What each operation of Machine/TimeOps.lean may change: one lemma each, `<name>_touch`. -/

namespace Sys2Proof.Machine

open Sys2Proof

theorem shiftTicks_touch (d : DWord) (s : State) :
    Touch [.chip, .funcs, .svc, .portA, .portB, .path, .time, .loc, .pwr] s (shiftTicks d s) := by
  unfold shiftTicks
  try dsimp only
  repeat' first
      | with_reducible exact Touch.refl _ _ | with_reducible assumption | with_reducible refine Touch.onChip ?_ ?_ rfl
      | with_reducible refine Touch.onLife ?_ ?_ ?_ ?_ ?_ ?_ ?_ | with_reducible refine Touch.onSvc ?_ ?_ ?_ ?_
      | with_reducible refine Touch.onPath ?_ rfl | with_reducible refine Touch.onTime ?_ rfl
      | with_reducible refine Touch.onLoc ?_ rfl | with_reducible refine Touch.onPwr ?_ rfl
      | exact fun _ => SvcSt.Later.of_eq rfl rfl rfl rfl rfl rfl rfl
      | exact SvcSt.Later.of_eq rfl rfl rfl rfl rfl rfl rfl
      | with_reducible refine (State.onPort_touch ..).after ?_ rfl | with_reducible refine Touch.ite ?_ ?_
      | exact Or.inl rfl | exact Or.inr fun _ => rfl | exact Or.inr fun _ => ⟨rfl, rfl⟩ | exact fun _ => rfl

theorem counterLoad_touch (n : DWord) (s : State) :
    Touch [.chip, .funcs, .writes, .jobs, .acts, .svc, .portA, .portB, .path, .time, .strm, .lov, .cores, .loc, .pwr, .cnt, .edges] s (counterLoad n s) := by
  unfold counterLoad
  try dsimp only
  repeat' first
      | with_reducible exact Touch.refl _ _ | with_reducible assumption
      | with_reducible refine Touch.onLife ?_ ?_ ?_ ?_ ?_ ?_ ?_ | with_reducible refine Touch.onTime ?_ rfl
      | with_reducible refine Touch.onStrm ?_ rfl | with_reducible refine Touch.onLov ?_ rfl
      | with_reducible refine Touch.onEdges ?_ rfl | with_reducible refine (lovFlush_touch ..).after ?_ rfl
      | with_reducible refine (State.bump_touch ..).after ?_ rfl
      | with_reducible refine (shiftTicks_touch ..).after ?_ rfl | with_reducible refine Touch.ite ?_ ?_
      | with_reducible refine Touch.setCores ?_ rfl | exact Or.inl rfl | exact Or.inr fun _ => rfl

theorem State.onPtp_touch (p : Port) (g : PtpPort → PtpPort) (s : State) :
    Touch [.time] s (State.onPtp p g s) := by
  unfold State.onPtp
  try dsimp only
  repeat' first
      | with_reducible exact Touch.refl _ _ | with_reducible assumption | with_reducible refine Touch.onTime ?_ rfl
      | with_reducible refine Touch.ite ?_ ?_ | (intro _) | split

theorem State.onRef_touch (r : Fin 6) (g : RefRec → RefRec) (s : State) :
    Touch [.time] s (State.onRef r g s) := by
  unfold State.onRef
  try dsimp only
  repeat' first
      | with_reducible exact Touch.refl _ _ | with_reducible assumption | with_reducible refine Touch.onTime ?_ rfl

theorem checkPresent_touch (r : Fin 6) (s : State) :
    Touch [.time, .cnt] s (checkPresent r s) := by
  unfold checkPresent
  try dsimp only
  repeat' first
      | with_reducible exact Touch.refl _ _ | with_reducible assumption
      | with_reducible refine (State.bump_touch ..).after ?_ rfl
      | with_reducible refine (State.onRef_touch ..).after ?_ rfl | with_reducible refine Touch.ite ?_ ?_

theorem checkRefs_touch (s : State) :
    Touch [.time, .cnt] s (checkRefs s) := by
  unfold checkRefs
  try dsimp only
  repeat' first
      | with_reducible exact Touch.refl _ _ | with_reducible assumption | with_reducible refine Touch.forAll ?_ ?_
      | with_reducible refine (checkPresent_touch ..).after ?_ rfl | with_reducible refine Touch.ite ?_ ?_ | (intro _)

theorem withdrawStep_touch (s : State) :
    Touch [.time, .cnt] s (withdrawStep s) := by
  unfold withdrawStep
  try dsimp only
  repeat' first
      | with_reducible exact Touch.refl _ _ | with_reducible assumption | with_reducible refine Touch.onTime ?_ rfl
      | with_reducible refine (State.bump_touch ..).after ?_ rfl | with_reducible refine Touch.ite ?_ ?_

theorem holdFreq_touch (s : State) :
    Touch [.time] s (holdFreq s) := by
  unfold holdFreq
  try dsimp only
  repeat' first
      | with_reducible exact Touch.refl _ _ | with_reducible assumption | with_reducible refine Touch.onTime ?_ rfl

theorem formStep_touch (v : Int) (s : State) :
    Touch [.pages, .time, .cnt] s (formStep v s) := by
  unfold formStep
  try dsimp only
  repeat' first
      | with_reducible exact Touch.refl _ _ | with_reducible assumption | with_reducible refine Touch.onTime ?_ rfl
      | with_reducible refine (holdFreq_touch ..).after ?_ rfl
      | with_reducible refine (State.bump_touch ..).after ?_ rfl
      | with_reducible refine (State.raise_touch ..).after ?_ rfl

theorem setRef_touch (r : Fin 6) (s : State) :
    Touch [.pages, .time, .cnt] s (setRef r s) := by
  unfold setRef
  try dsimp only
  repeat' first
      | with_reducible exact Touch.refl _ _ | with_reducible assumption | with_reducible refine Touch.onTime ?_ rfl
      | with_reducible refine (State.bump_touch ..).after ?_ rfl
      | with_reducible refine (State.raise_touch ..).after ?_ rfl

theorem enterHoldover_touch (s : State) :
    Touch [.pages, .time, .cnt] s (enterHoldover s) := by
  unfold enterHoldover
  try dsimp only
  repeat' first
      | with_reducible exact Touch.refl _ _ | with_reducible assumption | with_reducible refine Touch.onTime ?_ rfl
      | with_reducible refine (State.bump_touch ..).after ?_ rfl
      | with_reducible refine (setRef_touch ..).after ?_ rfl | with_reducible refine (holdFreq_touch ..).after ?_ rfl
      | with_reducible refine (withdrawStep_touch ..).after ?_ rfl | with_reducible refine Touch.ite ?_ ?_

theorem moveOutput_touch (mv : Int) (s : State) :
    Touch [.time] s (moveOutput mv s) := by
  unfold moveOutput
  try dsimp only
  repeat' first
      | with_reducible exact Touch.refl _ _ | with_reducible assumption | with_reducible refine Touch.onTime ?_ rfl

theorem moveEdges_touch (mv : Int) (s : State) :
    Touch [.time] s (moveEdges mv s) := by
  unfold moveEdges
  try dsimp only
  repeat' first
      | with_reducible exact Touch.refl _ _ | with_reducible assumption | with_reducible refine Touch.forAll ?_ ?_
      | with_reducible refine (State.onRef_touch ..).after ?_ rfl | with_reducible refine Touch.ite ?_ ?_ | (intro _)

theorem selectRef_touch (s : State) :
    Touch [.chip, .funcs, .writes, .jobs, .acts, .pages, .svc, .portA, .portB, .path, .time, .strm, .lov, .cores, .loc, .pwr, .cnt, .edges] s (selectRef s) := by
  unfold selectRef
  try dsimp only
  repeat' first
      | with_reducible exact Touch.refl _ _ | with_reducible assumption | with_reducible refine Touch.onTime ?_ rfl
      | with_reducible refine (formStep_touch ..).after ?_ rfl
      | with_reducible refine (State.bump_touch ..).after ?_ rfl
      | with_reducible refine (withdrawStep_touch ..).after ?_ rfl
      | with_reducible refine (counterLoad_touch ..).after ?_ rfl
      | with_reducible refine (setRef_touch ..).after ?_ rfl | with_reducible refine (moveEdges_touch ..).after ?_ rfl
      | with_reducible refine (moveOutput_touch ..).after ?_ rfl
      | with_reducible refine (enterHoldover_touch ..).after ?_ rfl | with_reducible refine Touch.ite ?_ ?_

theorem slewTick_touch (s : State) :
    Touch [.time] s (slewTick s) := by
  unfold slewTick
  try dsimp only
  repeat' first
      | with_reducible exact Touch.refl _ _ | with_reducible assumption | with_reducible refine Touch.onTime ?_ rfl
      | with_reducible refine (moveOutput_touch ..).after ?_ rfl | with_reducible refine Touch.ite ?_ ?_

theorem servoTake_touch (m : Int) (s : State) :
    Touch [.time] s (servoTake m s) := by
  unfold servoTake
  try dsimp only
  repeat' first
      | with_reducible exact Touch.refl _ _ | with_reducible assumption | with_reducible refine Touch.onTime ?_ rfl

theorem ptpMeasure_touch (p : Port) (raw : Int) (s : State) :
    Touch [.pages, .time, .cnt] s (ptpMeasure p raw s) := by
  unfold ptpMeasure
  try dsimp only
  repeat' first
      | with_reducible exact Touch.refl _ _ | with_reducible assumption | with_reducible refine Touch.onTime ?_ rfl
      | with_reducible refine (servoTake_touch ..).after ?_ rfl
      | with_reducible refine (formStep_touch ..).after ?_ rfl
      | with_reducible refine (withdrawStep_touch ..).after ?_ rfl
      | with_reducible refine (State.onRef_touch ..).after ?_ rfl
      | with_reducible refine (State.bump_touch ..).after ?_ rfl | with_reducible refine Touch.ite ?_ ?_

theorem runBmca_touch (p : Port) (s : State) :
    Touch [.time] s (runBmca p s) := by
  unfold runBmca
  try dsimp only
  repeat' first
      | with_reducible exact Touch.refl _ _ | with_reducible assumption
      | with_reducible refine (State.onPtp_touch ..).after ?_ rfl | with_reducible refine Touch.ite ?_ ?_

theorem stopPtp_touch (p : Port) (s : State) :
    Touch [.time] s (stopPtp p s) := by
  unfold stopPtp
  try dsimp only
  repeat' first
      | with_reducible exact Touch.refl _ _ | with_reducible assumption
      | with_reducible refine (State.onPtp_touch ..).after ?_ rfl

end Sys2Proof.Machine
end

