-- ==== Sys2Proof/Laws/NetOpsTouch.lean ====
section
/-! SUPPORT. What each operation of Machine/NetOps.lean may change: one lemma each, `<name>_touch`. -/

namespace Sys2Proof.Machine

open Sys2Proof

theorem ledFlash_touch (p : Port) (s : State) :
    Touch [.portA, .portB] s (ledFlash p s) := by
  unfold ledFlash
  try dsimp only
  repeat' first
      | with_reducible exact Touch.refl _ _ | with_reducible assumption
      | with_reducible refine (State.onPort_touch ..).after ?_ rfl | with_reducible refine Touch.ite ?_ ?_

theorem linkLost_touch (p : Port) (s : State) :
    Touch [.pages, .portA, .portB, .path, .cnt] s (linkLost p s) := by
  unfold linkLost
  try dsimp only
  repeat' first
      | with_reducible exact Touch.refl _ _ | with_reducible assumption
      | with_reducible refine (State.raise_touch ..).after ?_ rfl
      | with_reducible refine (pathLinkLost_touch ..).after ?_ rfl
      | with_reducible refine (State.bumpPort_touch ..).after ?_ rfl
      | with_reducible refine (State.bumpBy_touch ..).after ?_ rfl
      | with_reducible refine (State.onPort_touch ..).after ?_ rfl | with_reducible refine Touch.ite ?_ ?_

theorem enqueue_touch (p : Port) (q : Fin 8) (f : Frame) (s : State) :
    Touch [.portA, .portB, .cnt] s (enqueue p q f s) := by
  unfold enqueue
  try dsimp only
  repeat' first
      | with_reducible exact Touch.refl _ _ | with_reducible assumption
      | with_reducible refine (State.onPort_touch ..).after ?_ rfl
      | with_reducible refine (State.bumpPort_touch ..).after ?_ rfl | with_reducible refine Touch.ite ?_ ?_

theorem originTag_touch (f : Frame) (s : State) :
    Touch [.path] s ((originTag f s).2) := by
  unfold originTag
  try dsimp only
  repeat' first
      | with_reducible exact Touch.refl _ _ | with_reducible assumption | with_reducible refine Touch.onPath ?_ rfl
      | with_reducible refine Touch.ite ?_ ?_ | (intro _) | split

theorem sendFrame_touch (ps : List Port) (q : Fin 8) (f : Frame) (s : State) :
    Touch [.portA, .portB, .path, .cnt] s (sendFrame ps q f s) := by
  unfold sendFrame
  try dsimp only
  repeat' first
      | with_reducible exact Touch.refl _ _ | with_reducible assumption | with_reducible refine Touch.forAll ?_ ?_
      | with_reducible refine (enqueue_touch ..).after ?_ rfl
      | with_reducible refine (originTag_touch ..).after ?_ rfl | with_reducible refine Touch.ite ?_ ?_ | (intro _)
      | split

theorem settled_touch (p : Port) (h : RxHold) (s : State) :
    Touch [.portA, .portB, .path] s (settled p h s) := by
  unfold settled
  try dsimp only
  repeat' first
      | with_reducible exact Touch.refl _ _ | with_reducible assumption | with_reducible refine Touch.onPath ?_ rfl
      | with_reducible refine (State.onPort_touch ..).after ?_ rfl

theorem underHold_touch {ps : List Part} {p : Port} {f : Frame} {g : State → State} {r s : State}
    (hb : ∀ s1, Touch ps s1 (g s1)) (h : Touch ps r s) (hp : subParts [.portA, .portB, .path] ps = true)
    (hp2 : subParts [.portA, .portB] ps = true) : Touch ps r (underHold p f g s) := by
  have hq : ∀ {a b : State}, Touch [.portA, .portB, .path] a b → Touch ps r a → Touch ps r b := fun k k' => k.after k' hp
  unfold underHold
  split
  · have h0 := (State.onPort_touch p (fun x => { x with hold := none }) s).after h hp2
    exact Touch.ite (hq (settled_touch ..) ((hb _).after (hq (settled_touch ..) h0) (subParts_refl ps)))
      ((hb _).after h0 (subParts_refl ps))
  · exact (hb _).after h (subParts_refl ps)

theorem takeService_touch (p : Port) (f : Frame) (s : State) :
    Touch [.portA, .portB, .cnt] s (takeService p f s) := by
  unfold takeService
  try dsimp only
  repeat' first
      | with_reducible exact Touch.refl _ _ | with_reducible assumption
      | with_reducible refine (State.bumpPort_touch ..).after ?_ rfl
      | with_reducible refine (State.onPort_touch ..).after ?_ rfl | with_reducible refine Touch.ite ?_ ?_

theorem takePath_touch (p : Port) (f : Frame) (s : State) :
    Touch [.portA, .portB, .cnt] s (takePath p f s) := by
  unfold takePath
  try dsimp only
  repeat' first
      | with_reducible exact Touch.refl _ _ | with_reducible assumption
      | with_reducible refine (State.bumpPort_touch ..).after ?_ rfl
      | with_reducible refine (State.onPort_touch ..).after ?_ rfl | with_reducible refine Touch.ite ?_ ?_

theorem takeTiming_touch (p : Port) (f : Frame) (s : State) :
    Touch [.portA, .portB, .cnt] s (takeTiming p f s) := by
  unfold takeTiming
  try dsimp only
  repeat' first
      | with_reducible exact Touch.refl _ _ | with_reducible assumption
      | with_reducible refine (State.bumpPort_touch ..).after ?_ rfl
      | with_reducible refine (State.onPort_touch ..).after ?_ rfl | with_reducible refine Touch.ite ?_ ?_

theorem deliver_touch (p : Port) (f : Frame) (s : State) :
    Touch [.portA, .portB, .cnt] s (deliver p f s) := by
  unfold deliver
  try dsimp only
  repeat' first
      | with_reducible exact Touch.refl _ _ | with_reducible assumption
      | with_reducible refine (takePath_touch ..).after ?_ rfl
      | with_reducible refine (takeService_touch ..).after ?_ rfl
      | with_reducible refine (takeTiming_touch ..).after ?_ rfl
      | with_reducible refine (State.onPort_touch ..).after ?_ rfl
      | with_reducible refine (State.bumpBy_touch ..).after ?_ rfl
      | with_reducible refine (State.bumpPort_touch ..).after ?_ rfl | with_reducible refine Touch.ite ?_ ?_

theorem ringReturn_touch (p : Port) (seq : BitVec 16) (s : State) :
    Touch [.portA, .portB, .cnt] s (ringReturn p seq s) := by
  unfold ringReturn
  try dsimp only
  repeat' first
      | with_reducible exact Touch.refl _ _ | with_reducible assumption
      | with_reducible refine (State.onPort_touch ..).after ?_ rfl
      | with_reducible refine (State.bumpBy_touch ..).after ?_ rfl | with_reducible refine Touch.ite ?_ ?_

theorem ringSent_touch (p : Port) (f : Frame) (s : State) :
    Touch [.portA, .portB] s (ringSent p f s) := by
  unfold ringSent
  try dsimp only
  repeat' first
      | with_reducible exact Touch.refl _ _ | with_reducible assumption
      | with_reducible refine (State.onPort_touch ..).after ?_ rfl | with_reducible refine Touch.ite ?_ ?_ | (intro _)
      | split

theorem strip_touch (p : Port) (f : Frame) (good : Bool) (s : State) :
    Touch [.pages, .portA, .portB, .log, .cnt] s (strip p f good s) := by
  unfold strip
  try dsimp only
  repeat' first
      | with_reducible exact Touch.refl _ _ | with_reducible assumption
      | with_reducible refine (ringReturn_touch ..).after ?_ rfl
      | with_reducible refine (State.logEntry_touch ..).after ?_ rfl
      | with_reducible refine (State.bumpPath_touch ..).after ?_ rfl | with_reducible refine Touch.ite ?_ ?_
      | (intro _) | split

theorem receiveNow_touch (p : Port) (f : Frame) (s : State) :
    Touch [.pages, .portA, .portB, .path, .log, .cnt] s (receiveNow p f s) := by
  unfold receiveNow
  try dsimp only
  repeat' first
      | with_reducible exact Touch.refl _ _ | with_reducible assumption
      | with_reducible refine (deliver_touch ..).after ?_ rfl
      | with_reducible refine (State.onPort_touch ..).after ?_ rfl
      | with_reducible refine (State.bumpBy_touch ..).after ?_ rfl
      | with_reducible refine (State.bumpPath_touch ..).after ?_ rfl
      | with_reducible refine (strip_touch ..).after ?_ rfl
      | with_reducible refine (State.bumpPort_touch ..).after ?_ rfl
      | with_reducible refine (errEvent_touch ..).after ?_ rfl
      | with_reducible refine (ledFlash_touch ..).after ?_ rfl | with_reducible refine Touch.ite ?_ ?_

theorem receive_touch (p : Port) (f : Frame) (s : State) :
    Touch [.pages, .portA, .portB, .path, .log, .cnt] s (receive p f s) := by
  unfold receive
  try dsimp only
  repeat' first
      | with_reducible exact Touch.refl _ _ | with_reducible assumption
      | with_reducible refine (receiveNow_touch ..).after ?_ rfl
      | with_reducible refine underHold_touch (fun _ => ?_) ?_ rfl rfl

theorem commitFrame_touch (p : Port) (f : Frame) (st : State) :
    Touch [.portA, .portB, .path, .cnt] st (commitFrame p f st) := by
  unfold commitFrame
  try dsimp only
  repeat' first
      | with_reducible exact Touch.refl _ _ | with_reducible assumption
      | with_reducible refine (State.bumpPort_touch ..).after ?_ rfl
      | with_reducible refine (originTag_touch ..).after ?_ rfl
      | with_reducible refine (State.bumpPath_touch ..).after ?_ rfl
      | with_reducible refine (State.onPort_touch ..).after ?_ rfl | with_reducible refine Touch.ite ?_ ?_ | (intro _)
      | split

theorem correctPtp_touch (w : FwdFrame) (residence : Nat) (s : State) :
    Touch [.cnt] s ((correctPtp w residence s).2) := by
  unfold correctPtp
  try dsimp only
  repeat' first
      | with_reducible exact Touch.refl _ _ | with_reducible assumption
      | with_reducible refine (State.bump_touch ..).after ?_ rfl | with_reducible refine Touch.ite ?_ ?_ | (intro _)
      | split

theorem startCopy_touch (e : Port) (w : FwdFrame) (residence : Nat) (s : State) :
    Touch [.portA, .portB, .cnt] s (startCopy e w residence s) := by
  unfold startCopy
  try dsimp only
  repeat' first
      | with_reducible exact Touch.refl _ _ | with_reducible assumption
      | with_reducible refine (State.bumpBy_touch ..).after ?_ rfl
      | with_reducible refine (State.bumpPort_touch ..).after ?_ rfl
      | with_reducible refine (ringSent_touch ..).after ?_ rfl
      | with_reducible refine (State.onPort_touch ..).after ?_ rfl
      | with_reducible refine (State.bumpPath_touch ..).after ?_ rfl
      | with_reducible refine (ledFlash_touch ..).after ?_ rfl
      | with_reducible refine (correctPtp_touch ..).after ?_ rfl | with_reducible refine Touch.ite ?_ ?_ | (intro _)
      | split

end Sys2Proof.Machine
end

