-- ==== Sys2Proof/Laws/HousekeepingTouch.lean ====
section
/-! SUPPORT. What each operation of Machine/Housekeeping.lean may change: one lemma each, `<name>_touch`. -/

namespace Sys2Proof.Machine

open Sys2Proof

theorem sendService_touch (p : Port) (f : Frame) (s : State) :
    Touch [.portA, .portB, .path, .cnt] s (sendService p f s) := by
  unfold sendService
  try dsimp only
  repeat' first
      | with_reducible exact Touch.refl _ _ | with_reducible assumption
      | with_reducible refine (sendFrame_touch ..).after ?_ rfl

theorem gratuitousArp_touch (p : Port) (s : State) :
    Touch [.portA, .portB, .path, .cnt] s (gratuitousArp p s) := by
  unfold gratuitousArp
  try dsimp only
  repeat' first
      | with_reducible exact Touch.refl _ _ | with_reducible assumption
      | with_reducible refine (sendService_touch ..).after ?_ rfl | with_reducible refine Touch.ite ?_ ?_

theorem igmpReport_touch (kind : Nat) (gs : List (BitVec 128)) (p : Port) (s : State) :
    Touch [.portA, .portB, .path, .cnt] s (igmpReport kind gs p s) := by
  unfold igmpReport
  try dsimp only
  repeat' first
      | with_reducible exact Touch.refl _ _ | with_reducible assumption | with_reducible refine Touch.forAll ?_ ?_
      | with_reducible refine (sendService_touch ..).after ?_ rfl | with_reducible refine Touch.ite ?_ ?_ | (intro _)

theorem mldReport_touch (kind : Nat) (gs : List (BitVec 128)) (p : Port) (s : State) :
    Touch [.portA, .portB, .path, .cnt] s (mldReport kind gs p s) := by
  unfold mldReport
  try dsimp only
  repeat' first
      | with_reducible exact Touch.refl _ _ | with_reducible assumption | with_reducible refine Touch.forAll ?_ ?_
      | with_reducible refine (sendService_touch ..).after ?_ rfl | with_reducible refine Touch.ite ?_ ?_ | (intro _)

theorem reportPort_touch (kind : Nat) (p : Port) (s : State) :
    Touch [.portA, .portB, .path, .cnt] s (reportPort kind p s) := by
  unfold reportPort
  try dsimp only
  repeat' first
      | with_reducible exact Touch.refl _ _ | with_reducible assumption
      | with_reducible refine (igmpReport_touch ..).after ?_ rfl
      | with_reducible refine (mldReport_touch ..).after ?_ rfl | with_reducible refine Touch.ite ?_ ?_

theorem reportGroups_touch (kind : Nat) (s : State) :
    Touch [.portA, .portB, .path, .cnt] s (reportGroups kind s) := by
  unfold reportGroups
  try dsimp only
  repeat' first
      | with_reducible exact Touch.refl _ _ | with_reducible assumption
      | with_reducible refine (reportPort_touch ..).after ?_ rfl

theorem joinReported_touch (s : State) :
    Touch [.portA, .portB, .path, .cnt] s (joinReported s) := by
  unfold joinReported
  try dsimp only
  repeat' first
      | with_reducible exact Touch.refl _ _ | with_reducible assumption
      | with_reducible refine (joinGroups_touch ..).after ?_ rfl
      | with_reducible refine (reportGroups_touch ..).after ?_ rfl

theorem leaveReported_touch (s : State) :
    Touch [.portA, .portB, .path, .cnt] s (leaveReported s) := by
  unfold leaveReported
  try dsimp only
  repeat' first
      | with_reducible exact Touch.refl _ _ | with_reducible assumption
      | with_reducible refine (reportGroups_touch ..).after ?_ rfl
      | with_reducible refine (leaveGroups_touch ..).after ?_ rfl

end Sys2Proof.Machine
end

