-- ==== Sys2Proof/Laws/LocOpsTouch.lean ====
section
/-! SUPPORT. What each operation of Machine/LocOps.lean may change: one lemma each, `<name>_touch`. -/

namespace Sys2Proof.Machine

open Sys2Proof

theorem resetDec_touch (c : Fin 40) (s : State) :
    Touch [.loc] s (resetDec c s) := by
  unfold resetDec
  try dsimp only
  repeat' first
      | with_reducible exact Touch.refl _ _ | with_reducible assumption
      | with_reducible refine (State.onDec_touch ..).after ?_ rfl | with_reducible refine Touch.ite ?_ ?_

theorem syncDec_touch (s : State) :
    Touch [.loc, .cnt] s (syncDec s) := by
  unfold syncDec
  try dsimp only
  repeat' first
      | with_reducible exact Touch.refl _ _ | with_reducible assumption | with_reducible refine Touch.onLoc ?_ rfl
      | with_reducible refine Touch.forAll ?_ ?_ | with_reducible refine (State.bump_touch ..).after ?_ rfl
      | with_reducible refine (resetDec_touch ..).after ?_ rfl | with_reducible refine Touch.ite ?_ ?_ | (intro _)

theorem endSettle_touch (c : Fin 40) (s : State) :
    Touch [.loc] s (endSettle c s) := by
  unfold endSettle
  try dsimp only
  repeat' first
      | with_reducible exact Touch.refl _ _ | with_reducible assumption
      | with_reducible refine (State.onDec_touch ..).after ?_ rfl

theorem detect_touch (c : Fin 40) (x : Word) (s : State) :
    Touch [.loc] s (detect c x s) := by
  unfold detect
  try dsimp only
  repeat' first
      | with_reducible exact Touch.refl _ _ | with_reducible assumption
      | with_reducible refine (State.onDec_touch ..).after ?_ rfl

theorem becomeStuck_touch (c : Fin 40) (s : State) :
    Touch [.loc, .cnt] s (becomeStuck c s) := by
  unfold becomeStuck
  try dsimp only
  repeat' first
      | with_reducible exact Touch.refl _ _ | with_reducible assumption
      | with_reducible refine (State.onDec_touch ..).after ?_ rfl
      | with_reducible refine (State.bump_touch ..).after ?_ rfl

theorem takeBits_touch (c : Fin 40) (bits : List Bool) (s : State) :
    Touch [.loc] s (takeBits c bits s) := by
  unfold takeBits
  try dsimp only
  repeat' first
      | with_reducible exact Touch.refl _ _ | with_reducible assumption
      | with_reducible refine (State.onDec_touch ..).after ?_ rfl | with_reducible refine Touch.ite ?_ ?_

theorem stuckTick_touch (c : Fin 40) (s : State) :
    Touch [.loc, .cnt] s (stuckTick c s) := by
  unfold stuckTick
  try dsimp only
  repeat' first
      | with_reducible exact Touch.refl _ _ | with_reducible assumption
      | with_reducible refine (resetDec_touch ..).after ?_ rfl
      | with_reducible refine (becomeStuck_touch ..).after ?_ rfl | with_reducible refine Touch.ite ?_ ?_

theorem decTick_touch (c : Fin 40) (bits : List Bool) (s : State) :
    Touch [.loc, .cnt, .free] s (decTick c bits s) := by
  unfold decTick
  try dsimp only
  repeat' first
      | with_reducible exact Touch.refl _ _ | with_reducible assumption
      | with_reducible refine (State.freshen_touch _).after ?_ rfl
      | with_reducible refine (State.bump_touch ..).after ?_ rfl
      | with_reducible refine (endSettle_touch ..).after ?_ rfl
      | with_reducible refine (resetDec_touch ..).after ?_ rfl
      | with_reducible refine (State.onDec_touch ..).after ?_ rfl
      | with_reducible refine (detect_touch ..).after ?_ rfl | with_reducible refine Touch.ite ?_ ?_ | (intro _)
      | split

theorem tdmFall_touch (x : Fin 2) (st : BitVec 3) (s : State) :
    Touch [.loc] s (tdmFall x st s) := by
  unfold tdmFall
  try dsimp only
  repeat' first
      | with_reducible exact Touch.refl _ _ | with_reducible assumption
      | with_reducible refine (State.onTdm_touch ..).after ?_ rfl

theorem tdmRise_touch (x : Fin 2) (s : State) :
    Touch [.loc] s (tdmRise x s) := by
  unfold tdmRise
  try dsimp only
  repeat' first
      | with_reducible exact Touch.refl _ _ | with_reducible assumption
      | with_reducible refine (State.onTdm_touch ..).after ?_ rfl

theorem tdmTick_touch (x : Fin 2) (sinks : List Word) (s : State) :
    Touch [.loc, .free] s (tdmTick x sinks s) := by
  unfold tdmTick
  try dsimp only
  repeat' first
      | with_reducible exact Touch.refl _ _ | with_reducible assumption
      | with_reducible refine (State.freshen_touch _).after ?_ rfl
      | with_reducible refine (State.onTdm_touch ..).after ?_ rfl

end Sys2Proof.Machine
end

