-- ==== Sys2Proof/Laws/PwrOpsTouch.lean ====
section
/-! SUPPORT. What each operation of Machine/PwrOps.lean may change: one lemma each, `<name>_touch`. -/

namespace Sys2Proof.Machine

open Sys2Proof

theorem State.bumpProt_touch (c : Fin 4) (i : Nat) (s : State) :
    Touch [.cnt] s (State.bumpProt c i s) := by
  unfold State.bumpProt
  try dsimp only
  repeat' first
      | with_reducible exact Touch.refl _ _ | with_reducible assumption
      | with_reducible refine (State.bump_touch ..).after ?_ rfl

theorem levelRamp_touch (c : Fin 4) (s : State) :
    Touch [.pwr] s (levelRamp c s) := by
  unfold levelRamp
  try dsimp only
  repeat' first
      | with_reducible exact Touch.refl _ _ | with_reducible assumption
      | with_reducible refine (State.onPch_touch ..).after ?_ rfl | with_reducible refine Touch.ite ?_ ?_

theorem fswSelect_touch (s : State) :
    Touch [.pwr] s ((fswSelect s).1) := by
  unfold fswSelect
  try dsimp only
  repeat' first
      | with_reducible exact Touch.refl _ _ | with_reducible assumption | with_reducible refine Touch.onPwr ?_ rfl
      | with_reducible refine Touch.ite ?_ ?_ | (intro _) | split

theorem chiveTouch_touch (c : Fin 4) (s : State) :
    Touch [.pwr] s (chiveTouch c s) := by
  unfold chiveTouch
  try dsimp only
  repeat' first
      | with_reducible exact Touch.refl _ _ | with_reducible assumption
      | with_reducible refine (State.onPch_touch ..).after ?_ rfl | with_reducible refine Touch.ite ?_ ?_

theorem chiveApply_touch (c : Fin 4) (s : State) :
    Touch [.pwr] s (chiveApply c s) := by
  unfold chiveApply
  try dsimp only
  repeat' first
      | with_reducible exact Touch.refl _ _ | with_reducible assumption
      | with_reducible refine (State.onPch_touch ..).after ?_ rfl

theorem writeTest_touch (j : Job) (bytes : List Byte) (s : State) :
    Touch [.hostMem, .memc, .mem] s (writeTest j bytes s) := by
  unfold writeTest
  try dsimp only
  repeat' first
      | with_reducible exact Touch.refl _ _ | with_reducible assumption
      | with_reducible refine (State.writeAt_touch ..).after ?_ rfl | with_reducible refine Touch.ite ?_ ?_

theorem endTest_touch (c : Fin 4) (status : Byte) (s : State) :
    Touch [.jobs, .rings, .link, .hostMem, .reqs, .pwr, .memc, .mem, .free] s (endTest c status s) := by
  unfold endTest
  try dsimp only
  repeat' first
      | with_reducible exact Touch.refl _ _ | with_reducible assumption
      | with_reducible refine (State.freshen_touch _).after ?_ rfl
      | with_reducible refine (writeTest_touch ..).after ?_ rfl
      | with_reducible refine (State.onJob_touch ..).after ?_ rfl
      | with_reducible refine (State.endJob_touch ..).after ?_ rfl
      | with_reducible refine (State.onPch_touch ..).after ?_ rfl | with_reducible refine Touch.ite ?_ ?_ | (intro _)
      | split

theorem pchStop_touch (c : Fin 4) (cause : Byte) (s : State) :
    Touch [.funcs, .jobs, .rings, .link, .hostMem, .reqs, .pwr, .memc, .mem, .free] s (pchStop c cause s) := by
  unfold pchStop
  try dsimp only
  repeat' first
      | with_reducible exact Touch.refl _ _ | with_reducible assumption
      | with_reducible refine (State.onFunc_touch ..).after ?_ rfl
      | with_reducible refine (State.onPch_touch ..).after ?_ rfl
      | with_reducible refine (State.setLife_touch ..).after ?_ rfl
      | with_reducible refine (endTest_touch ..).after ?_ rfl | with_reducible refine Touch.ite ?_ ?_

theorem openSwitches_touch (c : Fin 4) (s : State) :
    Touch [.funcs, .pwr] s (openSwitches c s) := by
  unfold openSwitches
  try dsimp only
  repeat' first
      | with_reducible exact Touch.refl _ _ | with_reducible assumption
      | with_reducible refine (State.onPch_touch ..).after ?_ rfl
      | with_reducible refine (State.onFunc_touch ..).after ?_ rfl

theorem pchRuns_touch (c : Fin 4) (s : State) :
    Touch [.pwr] s (pchRuns c s) := by
  unfold pchRuns
  try dsimp only
  repeat' first
      | with_reducible exact Touch.refl _ _ | with_reducible assumption
      | with_reducible refine (State.onPch_touch ..).after ?_ rfl

theorem chiveWarm_touch (s : State) :
    Touch [.pwr] s (chiveWarm s) := by
  unfold chiveWarm
  try dsimp only
  repeat' first
      | with_reducible exact Touch.refl _ _ | with_reducible assumption | with_reducible refine Touch.forAll ?_ ?_
      | with_reducible refine (State.onPch_touch ..).after ?_ rfl | with_reducible refine Touch.ite ?_ ?_ | (intro _)

theorem chivePdmStop_touch (s : State) :
    Touch [.pwr] s (chivePdmStop s) := by
  unfold chivePdmStop
  try dsimp only
  repeat' first
      | with_reducible exact Touch.refl _ _ | with_reducible assumption | with_reducible refine Touch.forAll ?_ ?_
      | with_reducible refine (State.onPch_touch ..).after ?_ rfl | with_reducible refine Touch.ite ?_ ?_ | (intro _)

theorem fastStop_touch (c : Fin 4) (s : State) :
    Touch [.funcs, .pwr] s (fastStop c s) := by
  unfold fastStop
  try dsimp only
  repeat' first
      | with_reducible exact Touch.refl _ _ | with_reducible assumption
      | with_reducible refine (State.onFunc_touch ..).after ?_ rfl
      | with_reducible refine (openSwitches_touch ..).after ?_ rfl
      | with_reducible refine (State.onPch_touch ..).after ?_ rfl | with_reducible refine Touch.ite ?_ ?_

theorem pchTick_touch (c : Fin 4) (x : Word) (s : State) :
    Touch [.pwr, .cnt, .free] s (pchTick c x s) := by
  unfold pchTick
  try dsimp only
  repeat' first
      | with_reducible exact Touch.refl _ _ | with_reducible assumption
      | with_reducible refine (State.freshen_touch _).after ?_ rfl
      | with_reducible refine (State.onPch_touch ..).after ?_ rfl
      | with_reducible refine (State.bumpProt_touch ..).after ?_ rfl
      | with_reducible refine (State.bump_touch ..).after ?_ rfl | with_reducible refine Touch.ite ?_ ?_

theorem pchAdvance_touch (c : Fin 4) (s : State) :
    Touch [.pwr] s (pchAdvance c s) := by
  unfold pchAdvance
  try dsimp only
  repeat' first
      | with_reducible exact Touch.refl _ _ | with_reducible assumption
      | with_reducible refine (State.onPch_touch ..).after ?_ rfl

theorem reloadCoil_touch (c : Fin 4) (s : State) :
    Touch [.pwr] s (reloadCoil c s) := by
  unfold reloadCoil
  try dsimp only
  repeat' first
      | with_reducible exact Touch.refl _ _ | with_reducible assumption
      | with_reducible refine (State.onPch_touch ..).after ?_ rfl

theorem saveCoil_touch (c : Fin 4) (s : State) :
    Touch [.pwr] s (saveCoil c s) := by
  unfold saveCoil
  try dsimp only
  repeat' first
      | with_reducible exact Touch.refl _ _ | with_reducible assumption
      | with_reducible refine (State.onPch_touch ..).after ?_ rfl

theorem sageStep_touch (c : Fin 4) (i2 : Nat) (pw : Nat) (s : State) :
    Touch [.pages, .pwr, .cnt] s (sageStep c i2 pw s) := by
  unfold sageStep
  try dsimp only
  repeat' first
      | with_reducible exact Touch.refl _ _ | with_reducible assumption
      | with_reducible refine (State.bumpProt_touch ..).after ?_ rfl
      | with_reducible refine (State.raise_touch ..).after ?_ rfl
      | with_reducible refine (State.onPch_touch ..).after ?_ rfl | with_reducible refine Touch.ite ?_ ?_

end Sys2Proof.Machine
end

