-- ==== Sys2Proof/Laws/MemOpsTouch.lean ====
section
/-! SUPPORT. What each operation of Machine/MemOps.lean may change: one lemma each, `<name>_touch`. -/

namespace Sys2Proof.Machine

open Sys2Proof

theorem saveRecord_touch (s : State) :
    Touch [.mem] s (saveRecord s) := by
  unfold saveRecord
  try dsimp only
  repeat' first
      | with_reducible exact Touch.refl _ _ | with_reducible assumption
      | with_reducible refine (State.write_touch ..).after ?_ rfl

theorem State.onTxns_touch (m : Fin 13) (g : List Txn → List Txn) (s : State) :
    Touch [.memc] s (State.onTxns m g s) := by
  unfold State.onTxns
  try dsimp only
  repeat' first
      | with_reducible exact Touch.refl _ _ | with_reducible assumption | with_reducible refine Touch.onMemc ?_ rfl

theorem noteError_touch (kind : Nat) (master : Nat) (rank : Nat) (addr : Nat) (s : State) :
    Touch [.memc] s (noteError kind master rank addr s) := by
  unfold noteError
  try dsimp only
  repeat' first
      | with_reducible exact Touch.refl _ _ | with_reducible assumption | with_reducible refine Touch.onMemc ?_ rfl

theorem logDram_touch (cause : Byte) (data : Nat) (s : State) :
    Touch [.pages, .log] s (logDram cause data s) := by
  unfold logDram
  try dsimp only
  repeat' first
      | with_reducible exact Touch.refl _ _ | with_reducible assumption
      | with_reducible refine (State.logEntry_touch ..).after ?_ rfl

theorem retireRank_touch (r : Fin 4) (addr : Nat) (s : State) :
    Touch [.pages, .memc, .log] s (retireRank r addr s) := by
  unfold retireRank
  try dsimp only
  repeat' first
      | with_reducible exact Touch.refl _ _ | with_reducible assumption | with_reducible refine Touch.onMemc ?_ rfl
      | with_reducible refine (logDram_touch ..).after ?_ rfl
      | with_reducible refine (State.raise_touch ..).after ?_ rfl | with_reducible refine Touch.ite ?_ ?_ | (intro _)
      | split

theorem corrected_touch (r : Fin 4) (addr : Nat) (master : Nat) (s : State) :
    Touch [.pages, .memc, .log, .cnt] s (corrected r addr master s) := by
  unfold corrected
  try dsimp only
  repeat' first
      | with_reducible exact Touch.refl _ _ | with_reducible assumption | with_reducible refine Touch.onMemc ?_ rfl
      | with_reducible refine (logDram_touch ..).after ?_ rfl
      | with_reducible refine (retireRank_touch ..).after ?_ rfl
      | with_reducible refine (State.bump_touch ..).after ?_ rfl
      | with_reducible refine (noteError_touch ..).after ?_ rfl | with_reducible refine Touch.ite ?_ ?_

theorem uncorrectable_touch (r : Fin 4) (addr : Nat) (master : Nat) (s : State) :
    Touch [.pages, .memc, .log, .cnt] s (uncorrectable r addr master s) := by
  unfold uncorrectable
  try dsimp only
  repeat' first
      | with_reducible exact Touch.refl _ _ | with_reducible assumption
      | with_reducible refine (State.bump_touch ..).after ?_ rfl
      | with_reducible refine (noteError_touch ..).after ?_ rfl
      | with_reducible refine (logDram_touch ..).after ?_ rfl
      | with_reducible refine (retireRank_touch ..).after ?_ rfl

theorem activate_touch (r : Fin 4) (bank : Nat) (row : Nat) (m : Nat) (s : State) :
    Touch [.pages, .memc, .log, .cnt, .free] s (activate r bank row m s) := by
  unfold activate
  try dsimp only
  repeat' first
      | with_reducible exact Touch.refl _ _ | with_reducible assumption | with_reducible refine Touch.onMemc ?_ rfl
      | with_reducible refine (State.freshen_touch _).after ?_ rfl
      | with_reducible refine (logDram_touch ..).after ?_ rfl
      | with_reducible refine (State.bump_touch ..).after ?_ rfl | with_reducible refine Touch.ite ?_ ?_

theorem ageOut_touch (s : State) :
    Touch [.cnt, .free] s (ageOut s) := by
  unfold ageOut
  try dsimp only
  repeat' first
      | with_reducible exact Touch.refl _ _ | with_reducible assumption
      | with_reducible refine (State.freshen_touch _).after ?_ rfl
      | with_reducible refine (State.bump_touch ..).after ?_ rfl | with_reducible refine Touch.ite ?_ ?_

theorem dramTouch_touch (m : Fin 13) (r : XbarReq) (s : State) :
    Touch [.pages, .memc, .log, .cnt, .free] s (dramTouch m r s) := by
  unfold dramTouch
  try dsimp only
  repeat' first
      | with_reducible exact Touch.refl _ _ | with_reducible assumption | with_reducible refine Touch.onMemc ?_ rfl
      | with_reducible refine (State.freshen_touch _).after ?_ rfl
      | with_reducible refine (uncorrectable_touch ..).after ?_ rfl
      | with_reducible refine (corrected_touch ..).after ?_ rfl
      | with_reducible refine (activate_touch ..).after ?_ rfl
      | with_reducible refine (State.bump_touch ..).after ?_ rfl
      | with_reducible refine (ageOut_touch ..).after ?_ rfl | with_reducible refine Touch.ite ?_ ?_ | (intro _)
      | split

theorem serveReq_touch (m : Fin 13) (r : XbarReq) (t : Fin 10) (s : State) :
    Touch [.pages, .hostMem, .memc, .mem, .log, .cnt, .free] s (serveReq m r t s).1 := by
  have h1 : Touch [.pages, .hostMem, .memc, .mem, .log, .cnt, .free] s (if t.val ≤ 1 then dramTouch m r s
      else if 2 ≤ t.val ∧ t.val ≤ 5 ∧ r.err = .uncorrectable ∧ r.write = none then
        noteError 2 m.val 0 r.addr.toNat (s.bump 0x0D 1) else s) :=
    Touch.ite ((dramTouch_touch ..).after (Touch.refl _ _) rfl)
      (Touch.ite ((noteError_touch ..).after ((State.bump_touch ..).after (Touch.refl _ _) rfl) rfl) (Touch.refl _ _))
  unfold serveReq
  dsimp only
  split
  · split
    · exact h1
    · dsimp only
      split
      · exact (State.bumpBy_touch ..).after ((State.writeAt_touch ..).after h1 rfl) rfl
      · exact (State.writeAt_touch ..).after h1 rfl
  · split <;> exact h1

theorem State.xbarError_touch (s : State) :
    Touch [.memc] s (State.xbarError s) := by
  unfold State.xbarError
  try dsimp only
  repeat' first
      | with_reducible exact Touch.refl _ _ | with_reducible assumption | with_reducible refine Touch.onMemc ?_ rfl

theorem respond_touch (m : Fin 13) (id : BitVec 6) (st : Byte) (data : List Byte) (s : State) :
    Touch [.memc] s (respond m id st data s) := by
  unfold respond
  try dsimp only
  repeat' first
      | with_reducible exact Touch.refl _ _ | with_reducible assumption | with_reducible refine Touch.onMemc ?_ rfl

theorem intake_touch (m : Fin 13) (a1 : Nat) (a2 : State) :
    Touch [.memc] a2 (intake m a1 a2) := by
  induction a1 generalizing a2 with
  | zero => exact Touch.refl _ _
  | succ k ih =>
    unfold intake
    dsimp only
    split
    · exact Touch.refl _ _
    · split
      · exact Touch.refl _ _
      · exact Touch.ite (Touch.refl _ _) ((ih _).after (Touch.onMemc (Touch.refl _ _) rfl) rfl)


theorem request_touch (m : Fin 13) (r : XbarReq) (s : State) :
    Touch [.memc] s (request m r s) := by
  unfold request
  try dsimp only
  repeat' first
      | with_reducible exact Touch.refl _ _ | with_reducible assumption | with_reducible refine Touch.onMemc ?_ rfl
      | with_reducible refine (intake_touch ..).after ?_ rfl
      | with_reducible refine (State.xbarError_touch ..).after ?_ rfl
      | with_reducible refine (respond_touch ..).after ?_ rfl | with_reducible refine Touch.ite ?_ ?_ | (intro _)
      | split

theorem grant_touch (t : Fin 10) (s : State) :
    Touch [.pages, .hostMem, .memc, .mem, .log, .cnt, .free] s (grant t s) := by
  unfold grant
  try dsimp only
  repeat' first
      | with_reducible exact Touch.refl _ _ | with_reducible assumption | with_reducible refine Touch.onMemc ?_ rfl
      | with_reducible refine (State.onTxns_touch ..).after ?_ rfl
      | with_reducible refine (serveReq_touch ..).after ?_ rfl | with_reducible refine Touch.ite ?_ ?_ | (intro _)
      | split

theorem respondTxn_touch (m : Fin 13) (id : BitVec 6) (s : State) :
    Touch [.memc] s (respondTxn m id s) := by
  unfold respondTxn
  try dsimp only
  repeat' first
      | with_reducible exact Touch.refl _ _ | with_reducible assumption
      | with_reducible refine (respond_touch ..).after ?_ rfl | with_reducible refine (intake_touch ..).after ?_ rfl
      | with_reducible refine (State.onTxns_touch ..).after ?_ rfl | with_reducible refine Touch.ite ?_ ?_ | (intro _)
      | split

theorem resetMaster_touch (m : Fin 13) (unit : Option (Fin 4)) (s : State) :
    Touch [.memc] s (resetMaster m unit s) := by
  unfold resetMaster
  try dsimp only
  repeat' first
      | with_reducible exact Touch.refl _ _ | with_reducible assumption | with_reducible refine Touch.onMemc ?_ rfl
      | with_reducible refine Touch.ite ?_ ?_

theorem atomic_touch (m : Fin 13) (arg : AtomicArg) (f : Nat → Nat) (s : State) :
    Touch [.memc, .mem] s (atomic m arg f s) := by
  unfold atomic
  try dsimp only
  repeat' first
      | with_reducible exact Touch.refl _ _ | with_reducible assumption
      | with_reducible refine (State.write_touch ..).after ?_ rfl
      | with_reducible refine (State.xbarError_touch ..).after ?_ rfl
      | with_reducible refine (respond_touch ..).after ?_ rfl | with_reducible refine Touch.ite ?_ ?_

end Sys2Proof.Machine
end

