-- ==== Sys2Proof/Laws/RingsTouch.lean ====
section
/-! SUPPORT. What each operation of Machine/Rings.lean may change: one lemma each, `<name>_touch`. -/

namespace Sys2Proof.Machine

open Sys2Proof

theorem State.onPage_touch (p : PageSet) (g : PageSt → PageSt) (s : State) :
    Touch [.pages] s (State.onPage p g s) := by
  unfold State.onPage
  try dsimp only
  repeat' first
      | with_reducible exact Touch.refl _ _ | with_reducible assumption
      | with_reducible refine Touch.onHost ?_ ?_ ?_ ?_ ?_ ?_ | with_reducible refine Touch.ite ?_ ?_
      | exact Or.inl rfl | exact Or.inr fun _ => rfl | exact Or.inr fun _ => ⟨rfl, rfl⟩ | (intro _) | split

theorem State.touchPage_touch (q : Fin 32) (s : State) :
    Touch [.pages] s (State.touchPage q s) := by
  unfold State.touchPage
  try dsimp only
  repeat' first
      | with_reducible exact Touch.refl _ _ | with_reducible assumption
      | with_reducible refine (State.onPage_touch ..).after ?_ rfl

theorem ringError_touch (q : Fin 32) (e : BitVec 4) (s : State) :
    Touch [.rings, .pages] s (ringError q e s) := by
  unfold ringError
  try dsimp only
  repeat' first
      | with_reducible exact Touch.refl _ _ | with_reducible assumption
      | with_reducible refine (State.onRing_touch ..).after ?_ rfl
      | with_reducible refine (State.raise_touch ..).after ?_ rfl
      | with_reducible refine (State.touchPage_touch ..).after ?_ rfl

theorem countTaken_touch (q : Fin 32) (s : State) :
    Touch [.rings, .pages] s (countTaken q s) := by
  unfold countTaken
  try dsimp only
  repeat' first
      | with_reducible exact Touch.refl _ _ | with_reducible assumption
      | with_reducible refine (State.onRing_touch ..).after ?_ rfl
      | with_reducible refine (State.touchPage_touch ..).after ?_ rfl

theorem noteServed_touch (q : Fin 32) (d : Desc) (s : State) :
    Touch [.rings, .taken] s (noteServed q d s) := by
  unfold noteServed
  try dsimp only
  repeat' first
      | with_reducible exact Touch.refl _ _ | with_reducible assumption
      | with_reducible refine Touch.onHost ?_ ?_ ?_ ?_ ?_ ?_
      | with_reducible refine (State.onRing_touch ..).after ?_ rfl | with_reducible refine Touch.ite ?_ ?_
      | exact Or.inl rfl | exact Or.inr fun _ => rfl | exact Or.inr fun _ => ⟨rfl, rfl⟩

theorem State.serving_touch {q : Fin 32} {d : Desc} {s t : State} {idx : Word} (h : s.serving q d = some (idx, t)) :
    Touch [.rings, .pages, .taken] s t := by
  unfold State.serving at h
  split at h
  · split at h
    · cases h
      exact Touch.onHost (Touch.refl _ _) (.inl rfl) (.inl rfl) (.inl rfl) (.inr fun _ => rfl) (.inr fun _ => rfl)
    · cases h
  · dsimp only at h
    split at h <;> split at h <;> first
      | (cases h; exact (countTaken_touch ..).after ((noteServed_touch ..).after (Touch.refl _ _) rfl) rfl)
      | cases h

theorem finish_touch (q : Fin 32) (d : Desc) (idx : Word) (status : Byte) (done : Nat) (s : State) :
    Touch [.rings, .reqs] s (finish q d idx status done s) := by
  unfold finish
  try dsimp only
  repeat' first
      | with_reducible exact Touch.refl _ _ | with_reducible assumption
      | with_reducible refine (State.addRec_touch ..).after ?_ rfl

theorem addJob_touch (j : Job) (s : State) :
    Touch [.jobs] s (addJob j s) := by
  unfold addJob
  try dsimp only
  repeat' first
      | with_reducible exact Touch.refl _ _ | with_reducible assumption
      | with_reducible refine Touch.onLife ?_ ?_ ?_ ?_ ?_ ?_ ?_ | with_reducible refine Touch.ite ?_ ?_
      | exact Or.inl rfl | exact Or.inr fun _ => rfl

theorem defer_touch (q : Fin 32) (d : Desc) (idx : Word) (s : State) :
    Touch [.jobs] s (defer q d idx s) := by
  unfold defer
  try dsimp only
  repeat' first
      | with_reducible exact Touch.refl _ _ | with_reducible assumption
      | with_reducible refine (addJob_touch ..).after ?_ rfl

theorem serve_touch {ps : List Part} {op : Nat} {q : Fin 32} {d : Desc} {form : Bool} {body : Word → State → State}
    {r s : State} (hb : ∀ idx s1, Touch ps s1 (body idx s1)) (h : Touch ps r s)
    (hp : subParts [.rings, .pages, .taken, .reqs] ps = true) : Touch ps r (serve op q d form body s) := by
  have hq : ∀ {a b : State}, Touch [.rings, .pages, .taken, .reqs] a b → Touch ps r a → Touch ps r b := fun k k' => k.after k' hp
  unfold serve
  refine Touch.ite h ?_
  split
  · exact h
  · rename_i hs
    have h1 := hq ((State.serving_touch hs).after (Touch.refl _ _) rfl) h
    exact Touch.ite ((hb _ _).after h1 (subParts_refl ps)) (hq ((finish_touch ..).after (Touch.refl _ _) rfl) h1)

theorem takeHead_touch (q : Fin 32) (s : State) :
    Touch [.rings, .pages, .taken, .reqs] s (takeHead q s) := by
  unfold takeHead
  try dsimp only
  repeat' first
      | with_reducible exact Touch.refl _ _ | with_reducible assumption
      | with_reducible refine Touch.onHost ?_ ?_ ?_ ?_ ?_ ?_ | with_reducible refine (finish_touch ..).after ?_ rfl
      | with_reducible refine (noteServed_touch ..).after ?_ rfl
      | with_reducible refine (countTaken_touch ..).after ?_ rfl | with_reducible refine Touch.ite ?_ ?_
      | exact Or.inl rfl | exact Or.inr fun _ => rfl | exact Or.inr fun _ => ⟨rfl, rfl⟩ | (intro _) | split

theorem takeLevel_touch (lv : Nat) (a1 : Nat) (a2 : State) :
    Touch [.rings, .pages, .taken, .reqs] a2 (takeLevel lv a1 a2) := by
  induction a1 generalizing a2 with
  | zero => exact Touch.refl _ _
  | succ k ih =>
    unfold takeLevel
    split
    · exact (ih _).after ((takeHead_touch ..).after (Touch.refl _ _) rfl) rfl
    · exact Touch.refl _ _


theorem takeAll_touch (s : State) :
    Touch [.rings, .pages, .taken, .reqs] s (takeAll s) := by
  unfold takeAll
  try dsimp only
  repeat' first
      | with_reducible exact Touch.refl _ _ | with_reducible assumption
      | with_reducible refine Touch.onHost ?_ ?_ ?_ ?_ ?_ ?_ | with_reducible refine Touch.foldl ?_ ?_
      | with_reducible refine (takeLevel_touch ..).after ?_ rfl | with_reducible refine Touch.ite ?_ ?_
      | exact Or.inl rfl | exact Or.inr fun _ => rfl | exact Or.inr fun _ => ⟨rfl, rfl⟩ | (intro _)

theorem writeRecord_touch (q : Fin 32) (s : State) :
    Touch [.rings, .pages, .link, .hostMem, .memc, .mem] s (writeRecord q s) := by
  unfold writeRecord
  try dsimp only
  repeat' first
      | with_reducible exact Touch.refl _ _ | with_reducible assumption
      | with_reducible refine Touch.onHost ?_ ?_ ?_ ?_ ?_ ?_
      | with_reducible refine (State.write_touch ..).after ?_ rfl
      | with_reducible refine (State.onRing_touch ..).after ?_ rfl
      | with_reducible refine (State.touchPage_touch ..).after ?_ rfl
      | with_reducible refine (State.writeAt_touch ..).after ?_ rfl | with_reducible refine Touch.ite ?_ ?_
      | exact Or.inl rfl | exact Or.inr fun _ => rfl | exact Or.inr fun _ => ⟨rfl, rfl⟩ | (intro _) | split

theorem signal_touch (s : State) :
    Touch [.pages, .link] s (signal s) := by
  unfold signal
  try dsimp only
  repeat' first
      | with_reducible exact Touch.refl _ _ | with_reducible assumption
      | with_reducible refine Touch.onHost ?_ ?_ ?_ ?_ ?_ ?_ | with_reducible refine Touch.ite ?_ ?_
      | exact Or.inl rfl | exact Or.inr fun _ => rfl | exact Or.inr fun _ => ⟨rfl, rfl⟩

theorem writeProgress_touch (j : Job) (s : State) :
    Touch [.jobs, .rings, .link, .hostMem, .reqs, .memc, .mem] s (writeProgress j s) := by
  unfold writeProgress
  try dsimp only
  repeat' first
      | with_reducible exact Touch.refl _ _ | with_reducible assumption
      | with_reducible refine (State.endJob_touch ..).after ?_ rfl
      | with_reducible refine (State.writeAt_touch ..).after ?_ rfl | with_reducible refine Touch.ite ?_ ?_

theorem writeLast_touch (p : PageSet) (s : State) :
    Touch [.link, .hostMem, .memc, .mem] s (writeLast p s) := by
  unfold writeLast
  try dsimp only
  repeat' first
      | with_reducible exact Touch.refl _ _ | with_reducible assumption
      | with_reducible refine Touch.onHost ?_ ?_ ?_ ?_ ?_ ?_ | with_reducible refine Touch.forAll ?_ ?_
      | with_reducible refine (State.writeAt_touch ..).after ?_ rfl | with_reducible refine Touch.ite ?_ ?_
      | exact Or.inl rfl | exact Or.inr fun _ => rfl | exact Or.inr fun _ => ⟨rfl, rfl⟩ | (intro _)

theorem writePage_touch (p : PageSet) (s : State) :
    Touch [.jobs, .rings, .pages, .link, .hostMem, .reqs, .memc, .mem] s (writePage p s) := by
  unfold writePage
  try dsimp only
  repeat' first
      | with_reducible exact Touch.refl _ _ | with_reducible assumption | with_reducible refine Touch.forAll ?_ ?_
      | with_reducible refine (State.write_touch ..).after ?_ rfl
      | with_reducible refine (State.writeAt_touch ..).after ?_ rfl
      | with_reducible refine (State.onPage_touch ..).after ?_ rfl
      | with_reducible refine (signal_touch ..).after ?_ rfl | with_reducible refine (writeLast_touch ..).after ?_ rfl
      | with_reducible refine (writeProgress_touch ..).after ?_ rfl | with_reducible refine Touch.ite ?_ ?_
      | (intro _) | split

theorem hostReadFailed_touch (a : DWord) (s : State) :
    Touch [.link] s (hostReadFailed a s) := by
  unfold hostReadFailed
  try dsimp only
  repeat' first
      | with_reducible exact Touch.refl _ _ | with_reducible assumption
      | with_reducible refine Touch.onHost ?_ ?_ ?_ ?_ ?_ ?_ | with_reducible refine Touch.ite ?_ ?_
      | exact Or.inl rfl | exact Or.inr fun _ => rfl | exact Or.inr fun _ => ⟨rfl, rfl⟩

theorem ackEvents_touch (p : PageSet) (seq : Word) (mask : DWord) (s : State) :
    Touch [.pages] s (ackEvents p seq mask s) := by
  unfold ackEvents
  try dsimp only
  repeat' first
      | with_reducible exact Touch.refl _ _ | with_reducible assumption
      | with_reducible refine (State.onPage_touch ..).after ?_ rfl

theorem ringDoorbell_touch (q : Fin 32) (b : List Byte) (fresh : Bool) (s : State) :
    Touch [.rings, .pages] s (ringDoorbell q b fresh s) := by
  unfold ringDoorbell
  try dsimp only
  repeat' first
      | with_reducible exact Touch.refl _ _ | with_reducible assumption
      | with_reducible refine (ringError_touch ..).after ?_ rfl
      | with_reducible refine (State.onRing_touch ..).after ?_ rfl | with_reducible refine Touch.ite ?_ ?_

theorem doorbellDone_touch (p : PageSet) (b : List Byte) (s : State) :
    Touch [.rings, .pages] s (doorbellDone p b s) := by
  unfold doorbellDone
  try dsimp only
  repeat' first
      | with_reducible exact Touch.refl _ _ | with_reducible assumption | with_reducible refine Touch.forAll ?_ ?_
      | with_reducible refine (ackEvents_touch ..).after ?_ rfl
      | with_reducible refine (ringDoorbell_touch ..).after ?_ rfl
      | with_reducible refine (State.onPage_touch ..).after ?_ rfl | with_reducible refine Touch.ite ?_ ?_ | (intro _)

theorem endDrain_touch (q : Fin 32) (s : State) :
    Touch [.rings] s (endDrain q s) := by
  unfold endDrain
  try dsimp only
  repeat' first
      | with_reducible exact Touch.refl _ _ | with_reducible assumption
      | with_reducible refine (State.onRing_touch ..).after ?_ rfl | with_reducible refine Touch.ite ?_ ?_

end Sys2Proof.Machine
end

