-- ==== Sys2Proof/Laws/LifeTouch.lean ====
section
/-! SUPPORT. What each operation of Machine/Life.lean may change: one lemma each, `<name>_touch`. -/

namespace Sys2Proof.Machine

open Sys2Proof

theorem dropRequests_touch (f : Func) (s : State) :
    Touch [.memc] s (dropRequests f s) := by
  unfold dropRequests
  try dsimp only
  repeat' first
      | with_reducible exact Touch.refl _ _ | with_reducible assumption
      | with_reducible refine (resetMaster_touch ..).after ?_ rfl | with_reducible refine Touch.ite ?_ ?_ | (intro _)
      | split

theorem abortRuns_touch (s : State) :
    Touch [.jobs, .rings, .link, .reqs] s (abortRuns s) := by
  unfold abortRuns
  try dsimp only
  repeat' first
      | with_reducible exact Touch.refl _ _ | with_reducible assumption | with_reducible refine Touch.forAll ?_ ?_
      | with_reducible refine (State.endJob_touch ..).after ?_ rfl | with_reducible refine Touch.ite ?_ ?_ | (intro _)

theorem stopRuns_touch (s : State) :
    Touch [.jobs, .rings, .link, .reqs] s (stopRuns s) := by
  unfold stopRuns
  try dsimp only
  repeat' first
      | with_reducible exact Touch.refl _ _ | with_reducible assumption | with_reducible refine Touch.forAll ?_ ?_
      | with_reducible refine (State.endJob_touch ..).after ?_ rfl
      | with_reducible refine (State.onJob_touch ..).after ?_ rfl | with_reducible refine Touch.ite ?_ ?_ | (intro _)

theorem leaveWork_touch (f : Func) (s : State) :
    Touch [.portA, .portB, .path, .strm, .lov, .loc, .pwr, .cnt] s (leaveWork f s) := by
  unfold leaveWork
  try dsimp only
  repeat' first
      | with_reducible exact Touch.refl _ _ | with_reducible assumption | with_reducible refine Touch.onStrm ?_ rfl
      | with_reducible refine Touch.onLov ?_ rfl | with_reducible refine Touch.onLoc ?_ rfl
      | with_reducible refine Touch.forAll ?_ ?_ | with_reducible refine (saveCoil_touch ..).after ?_ rfl
      | with_reducible refine (State.onTdm_touch ..).after ?_ rfl
      | with_reducible refine (lovFlush_touch ..).after ?_ rfl
      | with_reducible refine (leaveReported_touch ..).after ?_ rfl
      | with_reducible refine (pathLeft_touch ..).after ?_ rfl | with_reducible refine Touch.ite ?_ ?_ | (intro _)
      | split

theorem enterFaulted_touch (f : Func) (cause : Byte) (data : DWord) (s : State) :
    Touch [.funcs, .jobs, .acts, .rings, .pages, .link, .reqs, .log] s (enterFaulted f cause data s) := by
  unfold enterFaulted
  try dsimp only
  repeat' first
      | with_reducible exact Touch.refl _ _ | with_reducible assumption
      | with_reducible refine (State.raise_touch ..).after ?_ rfl
      | with_reducible refine (State.logEntry_touch ..).after ?_ rfl
      | with_reducible refine (State.endStarts_touch ..).after ?_ rfl
      | with_reducible refine (State.endStops_touch ..).after ?_ rfl
      | with_reducible refine (State.setLife_touch ..).after ?_ rfl
      | with_reducible refine (State.onFunc_touch ..).after ?_ rfl

theorem faultPch_touch (c : Fin 4) (cause : Byte) (data : DWord) (s : State) :
    Touch [.funcs, .jobs, .acts, .rings, .pages, .link, .hostMem, .reqs, .pwr, .memc, .mem, .log, .free] s (faultPch c cause data s) := by
  unfold faultPch
  try dsimp only
  repeat' first
      | with_reducible exact Touch.refl _ _ | with_reducible assumption
      | with_reducible refine (fastStop_touch ..).after ?_ rfl
      | with_reducible refine (openSwitches_touch ..).after ?_ rfl
      | with_reducible refine (State.onPch_touch ..).after ?_ rfl
      | with_reducible refine (endTest_touch ..).after ?_ rfl
      | with_reducible refine (enterFaulted_touch ..).after ?_ rfl | with_reducible refine Touch.ite ?_ ?_

theorem faultFunc_touch (f : Func) (cause : Byte) (data : DWord) (s : State) :
    Touch [.funcs, .jobs, .acts, .rings, .pages, .link, .hostMem, .reqs, .portA, .portB, .path, .time, .strm, .lov, .cores, .loc, .pwr, .memc, .mem, .log, .cnt, .free] s (faultFunc f cause data s) := by
  unfold faultFunc
  try dsimp only
  repeat' first
      | with_reducible exact Touch.refl _ _ | with_reducible assumption | with_reducible refine Touch.onCore ?_ rfl
      | with_reducible refine Touch.forAll ?_ ?_ | with_reducible refine (abortRuns_touch ..).after ?_ rfl
      | with_reducible refine (enterHoldover_touch ..).after ?_ rfl
      | with_reducible refine (stopPtp_touch ..).after ?_ rfl | with_reducible refine (pchStop_touch ..).after ?_ rfl
      | with_reducible refine (leaveWork_touch ..).after ?_ rfl
      | with_reducible refine (landAll_touch ..).after ?_ rfl
      | with_reducible refine (enterFaulted_touch ..).after ?_ rfl
      | with_reducible refine (dropRequests_touch ..).after ?_ rfl
      | with_reducible refine (faultPch_touch ..).after ?_ rfl | with_reducible refine Touch.ite ?_ ?_ | (intro _)
      | split

theorem clearIsland_touch (f : Func) (s : State) :
    Touch [.strm, .lov, .cores, .loc, .pwr, .mem] s (clearIsland f s) := by
  unfold clearIsland
  try dsimp only
  repeat' first
      | with_reducible exact Touch.refl _ _ | with_reducible assumption | with_reducible refine Touch.onStrm ?_ rfl
      | with_reducible refine Touch.onLov ?_ rfl | with_reducible refine Touch.onLoc ?_ rfl
      | with_reducible refine Touch.onCore ?_ rfl | with_reducible refine (State.onPch_touch ..).after ?_ rfl
      | with_reducible refine (landAll_touch ..).after ?_ rfl
      | with_reducible refine (State.onTdm_touch ..).after ?_ rfl | with_reducible refine Touch.ite ?_ ?_ | (intro _)
      | split

theorem offPtp_touch (f : Func) (s : State) :
    Touch [.time] s (offPtp f s) := by
  unfold offPtp
  try dsimp only
  repeat' first
      | with_reducible exact Touch.refl _ _ | with_reducible assumption
      | with_reducible refine (stopPtp_touch ..).after ?_ rfl | with_reducible refine Touch.ite ?_ ?_ | (intro _)
      | split

theorem enterOff_touch (f : Func) (s : State) :
    Touch [.funcs, .params, .time, .strm, .lov, .cores, .loc, .pwr, .mem] s (enterOff f s) := by
  unfold enterOff
  try dsimp only
  repeat' first
      | with_reducible exact Touch.refl _ _ | with_reducible assumption
      | with_reducible refine (State.setLife_touch ..).after ?_ rfl
      | with_reducible refine (State.dropParams_touch ..).after ?_ rfl
      | with_reducible refine (offPtp_touch ..).after ?_ rfl
      | with_reducible refine (clearIsland_touch ..).after ?_ rfl
      | with_reducible refine (State.onFunc_touch ..).after ?_ rfl

theorem enterRunning_touch (f : Func) (s : State) :
    Touch [.funcs, .jobs, .acts, .rings, .pages, .link, .reqs, .svc, .portA, .portB, .path, .loc, .pwr, .log, .cnt] s (enterRunning f s) := by
  unfold enterRunning
  try dsimp only
  repeat' first
      | with_reducible exact Touch.refl _ _ | with_reducible assumption
      | with_reducible refine Touch.onSvc ?_ ?_ ?_ ?_ | with_reducible refine Touch.onLoc ?_ rfl
      | with_reducible refine Touch.onPwr ?_ rfl | exact fun _ => SvcSt.Later.of_raise ..
      | exact SvcSt.Later.of_eq rfl rfl rfl rfl rfl rfl rfl | with_reducible refine Touch.forAll ?_ ?_
      | with_reducible refine (State.endStarts_touch ..).after ?_ rfl
      | with_reducible refine (pchRuns_touch ..).after ?_ rfl | with_reducible refine (resetDec_touch ..).after ?_ rfl
      | with_reducible refine (chiveWarm_touch ..).after ?_ rfl
      | with_reducible refine (State.bump_touch ..).after ?_ rfl
      | with_reducible refine (State.onTdm_touch ..).after ?_ rfl
      | with_reducible refine (joinReported_touch ..).after ?_ rfl
      | with_reducible refine (pathRunning_touch ..).after ?_ rfl
      | with_reducible refine (State.onFunc_touch ..).after ?_ rfl
      | with_reducible refine (State.setLife_touch ..).after ?_ rfl | with_reducible refine Touch.ite ?_ ?_
      | exact Or.inl rfl | exact Or.inr fun _ => rfl | exact Or.inr fun _ => ⟨rfl, rfl⟩ | (intro _) | split

theorem enterStopped_touch (f : Func) (s : State) :
    Touch [.funcs, .params, .jobs, .acts, .rings, .link, .reqs, .portA, .portB, .path, .time, .strm, .lov, .cores, .loc, .pwr, .memc, .mem, .cnt] s (enterStopped f s) := by
  unfold enterStopped
  try dsimp only
  repeat' first
      | with_reducible exact Touch.refl _ _ | with_reducible assumption | with_reducible refine Touch.onCore ?_ rfl
      | with_reducible refine (State.endStops_touch ..).after ?_ rfl
      | with_reducible refine (enterOff_touch ..).after ?_ rfl
      | with_reducible refine (State.setLife_touch ..).after ?_ rfl
      | with_reducible refine (State.onFunc_touch ..).after ?_ rfl
      | with_reducible refine (dropRequests_touch ..).after ?_ rfl
      | with_reducible refine (leaveWork_touch ..).after ?_ rfl
      | with_reducible refine (State.onPch_touch ..).after ?_ rfl
      | with_reducible refine (saveCoil_touch ..).after ?_ rfl
      | with_reducible refine (stopRuns_touch ..).after ?_ rfl | with_reducible refine Touch.ite ?_ ?_ | (intro _)
      | split

theorem pchStopped_touch (c : Fin 4) (s : State) :
    Touch [.funcs, .params, .jobs, .acts, .rings, .pages, .link, .reqs, .portA, .portB, .path, .time, .strm, .lov, .cores, .loc, .pwr, .memc, .mem, .log, .cnt] s (pchStopped c s) := by
  unfold pchStopped
  try dsimp only
  repeat' first
      | with_reducible exact Touch.refl _ _ | with_reducible assumption
      | with_reducible refine (State.onPch_touch ..).after ?_ rfl
      | with_reducible refine (saveCoil_touch ..).after ?_ rfl
      | with_reducible refine (enterFaulted_touch ..).after ?_ rfl
      | with_reducible refine (enterStopped_touch ..).after ?_ rfl | with_reducible refine Touch.ite ?_ ?_

theorem changeFs_touch (s : State) :
    Touch [.chip, .funcs, .writes, .jobs, .acts, .svc, .portA, .portB, .path, .time, .strm, .lov, .cores, .loc, .pwr, .cnt, .edges] s (changeFs s) := by
  unfold changeFs
  try dsimp only
  repeat' first
      | with_reducible exact Touch.refl _ _ | with_reducible assumption | with_reducible refine Touch.onTime ?_ rfl
      | with_reducible refine (counterLoad_touch ..).after ?_ rfl

theorem startCore_touch (n : Fin 16) (s : State) :
    Touch [.cores, .mem] s (startCore n s) := by
  unfold startCore
  try dsimp only
  repeat' first
      | with_reducible exact Touch.refl _ _ | with_reducible assumption | with_reducible refine Touch.onCore ?_ rfl
      | with_reducible refine (landAll_touch ..).after ?_ rfl

theorem startPch_touch (c : Fin 4) (s : State) :
    Touch [.pwr] s (startPch c s) := by
  unfold startPch
  try dsimp only
  repeat' first
      | with_reducible exact Touch.refl _ _ | with_reducible assumption
      | with_reducible refine (State.onPch_touch ..).after ?_ rfl

theorem resetPathRx_touch (p : Port) (s : State) :
    Touch [.strm] s (resetPathRx p s) := by
  unfold resetPathRx
  try dsimp only
  repeat' first
      | with_reducible exact Touch.refl _ _ | with_reducible assumption | with_reducible refine Touch.onStrm ?_ rfl

theorem beginStart_touch (f : Func) (s : State) :
    Touch [.chip, .funcs, .writes, .jobs, .acts, .svc, .portA, .portB, .path, .time, .strm, .lov, .cores, .loc, .pwr, .mem, .cnt, .edges, .free] s (beginStart f s) := by
  unfold beginStart
  try dsimp only
  repeat' first
      | with_reducible exact Touch.refl _ _ | with_reducible assumption | with_reducible refine Touch.onTime ?_ rfl
      | with_reducible refine Touch.onLoc ?_ rfl | with_reducible refine Touch.forAll ?_ ?_
      | with_reducible refine (startPch_touch ..).after ?_ rfl
      | with_reducible refine (startCore_touch ..).after ?_ rfl
      | with_reducible refine (State.onTdm_touch ..).after ?_ rfl
      | with_reducible refine (syncDec_touch ..).after ?_ rfl | with_reducible refine (genFlush_touch ..).after ?_ rfl
      | with_reducible refine (changeFs_touch ..).after ?_ rfl | with_reducible refine (startTx_touch ..).after ?_ rfl
      | with_reducible refine (resetRx_touch ..).after ?_ rfl
      | with_reducible refine (resetPathRx_touch ..).after ?_ rfl
      | with_reducible refine (State.onFunc_touch ..).after ?_ rfl | with_reducible refine Touch.ite ?_ ?_ | (intro _)
      | split

theorem resumeIsland_touch (i : Island) (s : State) :
    Touch [.time] s (resumeIsland i s) := by
  unfold resumeIsland
  try dsimp only
  repeat' first
      | with_reducible exact Touch.refl _ _ | with_reducible assumption
      | with_reducible refine (setHalted_touch ..).after ?_ rfl
      | with_reducible refine (setCopy_touch ..).after ?_ rfl | with_reducible refine (setBegun_touch ..).after ?_ rfl
      | with_reducible refine Touch.ite ?_ ?_

theorem autoRefuse_touch (e : SetEntry) (st : Byte) (pid : Nat) (s : State) :
    Touch [.pages, .log] s (autoRefuse e st pid s) := by
  unfold autoRefuse
  try dsimp only
  repeat' first
      | with_reducible exact Touch.refl _ _ | with_reducible assumption
      | with_reducible refine (State.logEntry_touch ..).after ?_ rfl

theorem autoNext_touch (s : State) :
    Touch [.svc] s (autoNext s) := by
  unfold autoNext
  try dsimp only
  repeat' first
      | with_reducible exact Touch.refl _ _ | with_reducible assumption
      | with_reducible refine Touch.onSvc ?_ ?_ ?_ ?_ | exact fun _ => SvcSt.Later.of_eq rfl rfl rfl rfl rfl rfl rfl
      | exact SvcSt.Later.of_eq rfl rfl rfl rfl rfl rfl rfl | with_reducible refine Touch.ite ?_ ?_ | exact Or.inl rfl
      | exact Or.inr fun _ => rfl

theorem autoStartRefused_touch (f : Func) (st : Byte) (s : State) :
    Touch [.pages, .svc, .log] s (autoStartRefused f st s) := by
  unfold autoStartRefused
  try dsimp only
  repeat' first
      | with_reducible exact Touch.refl _ _ | with_reducible assumption
      | with_reducible refine (autoRefuse_touch ..).after ?_ rfl
      | with_reducible refine (autoNext_touch ..).after ?_ rfl | with_reducible refine Touch.ite ?_ ?_ | (intro _)
      | split

theorem startEffect_touch (f : Func) (s : State) :
    Touch [.chip, .funcs, .writes, .jobs, .acts, .rings, .pages, .link, .reqs, .svc, .portA, .portB, .path, .time, .strm, .lov, .cores, .loc, .pwr, .mem, .log, .cnt, .edges, .free] s (startEffect f s) := by
  have done : ∀ p : State × Bool, Touch [.chip, .funcs, .writes, .jobs, .acts, .rings, .pages, .link, .reqs, .svc, .portA, .portB, .path, .time, .strm, .lov, .cores, .loc, .pwr, .mem, .log, .cnt, .edges, .free] s p.1 → Touch [.chip, .funcs, .writes, .jobs, .acts, .rings, .pages, .link, .reqs, .svc, .portA, .portB, .path, .time, .strm, .lov, .cores, .loc, .pwr, .mem, .log, .cnt, .edges, .free] s
      (if !p.2 || (f.hv && f != .sage && !p.1.running .sage) then autoStartRefused f stBadState (p.1.endStarts f stBadState)
       else (beginStart f (p.1.setLife f .starting)).onFunc f fun r =>
         { r with effect := (beginStart f (p.1.setLife f .starting)).now, lastChange := (beginStart f (p.1.setLife f .starting)).now }) :=
    fun p h => Touch.ite ((autoStartRefused_touch ..).after ((State.endStarts_touch ..).after h rfl) rfl)
      ((State.onFunc_touch ..).after ((beginStart_touch ..).after ((State.setLife_touch ..).after h rfl) rfl) rfl)
  have h0 := (State.onFunc_touch f (fun r => { r with startReq := false }) s)
  have h1 := (resumeIsland_touch (islandOf f) _).after (h0.after (Touch.refl [.chip, .funcs, .writes, .jobs, .acts, .rings, .pages, .link, .reqs, .svc, .portA, .portB, .path, .time, .strm, .lov, .cores, .loc, .pwr, .mem, .log, .cnt, .edges, .free] _) rfl) rfl
  unfold startEffect
  refine Touch.ite (Touch.refl _ _) (Touch.ite ((State.endStarts_touch ..).after (h0.after (Touch.refl _ _) rfl) rfl)
    (Touch.ite (Touch.refl _ _) (done _ ?_)))
  split
  · split
    · exact h1
    · exact (fswSelect_touch _).after h1 rfl
  · exact h1


theorem fadeOut_touch (f : Func) (s : State) :
    Touch [.funcs] s (fadeOut f s) := by
  unfold fadeOut
  try dsimp only
  repeat' first
      | with_reducible exact Touch.refl _ _ | with_reducible assumption
      | with_reducible refine (State.onFunc_touch ..).after ?_ rfl

theorem wakeHv_touch (s : State) :
    Touch [.chip, .pages, .log] s (wakeHv s) := by
  unfold wakeHv
  try dsimp only
  repeat' first
      | with_reducible exact Touch.refl _ _ | with_reducible assumption | with_reducible refine Touch.onChip ?_ ?_ rfl
      | with_reducible refine (State.logEntry_touch ..).after ?_ rfl
      | with_reducible refine (State.raise_touch ..).after ?_ rfl | with_reducible refine Touch.ite ?_ ?_
      | exact fun _ => rfl

theorem stopEffect_touch (f : Func) (s : State) :
    Touch [.chip, .funcs, .params, .jobs, .acts, .rings, .pages, .link, .hostMem, .reqs, .portA, .portB, .path, .time, .strm, .lov, .cores, .loc, .pwr, .memc, .mem, .log, .cnt, .free] s (stopEffect f s) := by
  unfold stopEffect
  try dsimp only
  repeat' first
      | with_reducible exact Touch.refl _ _ | with_reducible assumption
      | with_reducible refine (chivePdmStop_touch ..).after ?_ rfl
      | with_reducible refine (leaveReported_touch ..).after ?_ rfl
      | with_reducible refine (enterHoldover_touch ..).after ?_ rfl
      | with_reducible refine (stopPtp_touch ..).after ?_ rfl | with_reducible refine (fadeOut_touch ..).after ?_ rfl
      | with_reducible refine (pchStop_touch ..).after ?_ rfl
      | with_reducible refine (State.endStarts_touch ..).after ?_ rfl
      | with_reducible refine (enterOff_touch ..).after ?_ rfl
      | with_reducible refine (State.setLife_touch ..).after ?_ rfl
      | with_reducible refine (wakeHv_touch ..).after ?_ rfl
      | with_reducible refine (State.onFunc_touch ..).after ?_ rfl
      | with_reducible refine (State.endStops_touch ..).after ?_ rfl | with_reducible refine Touch.ite ?_ ?_
      | (intro _) | split

theorem startExpire_touch (f : Func) (s : State) :
    Touch [.funcs, .jobs, .acts, .rings, .pages, .link, .hostMem, .reqs, .portA, .portB, .path, .time, .strm, .lov, .cores, .loc, .pwr, .memc, .mem, .log, .cnt, .free] s (startExpire f s) := by
  unfold startExpire
  try dsimp only
  repeat' first
      | with_reducible exact Touch.refl _ _ | with_reducible assumption
      | with_reducible refine (faultFunc_touch ..).after ?_ rfl | with_reducible refine Touch.ite ?_ ?_

theorem lifeTick_touch (f : Func) (s : State) :
    Touch [.funcs, .params, .jobs, .acts, .rings, .pages, .link, .reqs, .svc, .portA, .portB, .path, .time, .strm, .lov, .cores, .loc, .pwr, .memc, .mem, .log, .cnt] s (lifeTick f s) := by
  unfold lifeTick
  try dsimp only
  repeat' first
      | with_reducible exact Touch.refl _ _ | with_reducible assumption
      | with_reducible refine (pchStopped_touch ..).after ?_ rfl
      | with_reducible refine (enterStopped_touch ..).after ?_ rfl
      | with_reducible refine (enterRunning_touch ..).after ?_ rfl | with_reducible refine Touch.ite ?_ ?_ | (intro _)
      | split

end Sys2Proof.Machine
end

