-- ==== Sys2Proof/Laws/SlotsTouch.lean ====
section
/-! SUPPORT. What each operation of Machine/Slots.lean may change: one lemma each, `<name>_touch`. -/

namespace Sys2Proof.Machine

open Sys2Proof

theorem takeTrap_touch (n : Fin 16) (cause : BitVec 4) (at_ : BitVec 12) (ret : BitVec 12) (s : State) :
    Touch [.funcs, .jobs, .acts, .rings, .pages, .link, .hostMem, .reqs, .portA, .portB, .path, .time, .strm, .lov, .cores, .loc, .pwr, .memc, .mem, .log, .cnt, .free] s (takeTrap n cause at_ ret s) := by
  unfold takeTrap
  try dsimp only
  repeat' first
      | with_reducible exact Touch.refl _ _ | with_reducible assumption
      | with_reducible refine (faultFunc_touch ..).after ?_ rfl
      | with_reducible refine (coreTrap_touch ..).after ?_ rfl | with_reducible refine Touch.ite ?_ ?_

theorem trapHere_touch (n : Fin 16) (cause : BitVec 4) (s : State) :
    Touch [.funcs, .jobs, .acts, .rings, .pages, .link, .hostMem, .reqs, .portA, .portB, .path, .time, .strm, .lov, .cores, .loc, .pwr, .memc, .mem, .log, .cnt, .free] s (trapHere n cause s) := by
  unfold trapHere
  try dsimp only
  repeat' first
      | with_reducible exact Touch.refl _ _ | with_reducible assumption
      | with_reducible refine (takeTrap_touch ..).after ?_ rfl

theorem pendingTraps_touch (n : Fin 16) (s : State) :
    Touch [.funcs, .jobs, .acts, .rings, .pages, .link, .hostMem, .reqs, .portA, .portB, .path, .time, .strm, .lov, .cores, .loc, .pwr, .memc, .mem, .log, .cnt, .free] s (pendingTraps n s) := by
  unfold pendingTraps
  try dsimp only
  repeat' first
      | with_reducible exact Touch.refl _ _ | with_reducible assumption | with_reducible refine Touch.onCore ?_ rfl
      | with_reducible refine (takeTrap_touch ..).after ?_ rfl | with_reducible refine Touch.ite ?_ ?_ | (intro _)
      | split

theorem takeIrq_touch (n : Fin 16) (s : State) :
    Touch [.cores, .cnt] s (takeIrq n s) := by
  unfold takeIrq
  try dsimp only
  repeat' first
      | with_reducible exact Touch.refl _ _ | with_reducible assumption | with_reducible refine Touch.onCore ?_ rfl
      | with_reducible refine (State.bump_touch ..).after ?_ rfl | with_reducible refine Touch.ite ?_ ?_

theorem bundleEdge_touch (n : Fin 16) (s : State) :
    Touch [.funcs, .jobs, .acts, .rings, .pages, .link, .hostMem, .reqs, .portA, .portB, .path, .time, .strm, .lov, .cores, .loc, .pwr, .memc, .mem, .log, .cnt, .free] s (bundleEdge n s) := by
  unfold bundleEdge
  try dsimp only
  repeat' first
      | with_reducible exact Touch.refl _ _ | with_reducible assumption
      | with_reducible refine (pendingTraps_touch ..).after ?_ rfl
      | with_reducible refine (takeIrq_touch ..).after ?_ rfl

theorem closeBundle_touch (n : Fin 16) (next : BitVec 12) (s : State) :
    Touch [.funcs, .jobs, .acts, .rings, .pages, .link, .hostMem, .reqs, .portA, .portB, .path, .time, .strm, .lov, .cores, .loc, .pwr, .memc, .mem, .log, .cnt, .free] s (closeBundle n next s) := by
  unfold closeBundle
  try dsimp only
  repeat' first
      | with_reducible exact Touch.refl _ _ | with_reducible assumption | with_reducible refine Touch.onCore ?_ rfl
      | with_reducible refine (landDue_touch ..).after ?_ rfl
      | with_reducible refine (bundleEdge_touch ..).after ?_ rfl

theorem closePlain_touch (n : Fin 16) (s : State) :
    Touch [.funcs, .jobs, .acts, .rings, .pages, .link, .hostMem, .reqs, .portA, .portB, .path, .time, .strm, .lov, .cores, .loc, .pwr, .memc, .mem, .log, .cnt, .free] s (closePlain n s) := by
  unfold closePlain
  try dsimp only
  repeat' first
      | with_reducible exact Touch.refl _ _ | with_reducible assumption | with_reducible refine Touch.onCore ?_ rfl
      | with_reducible refine (trapHere_touch ..).after ?_ rfl
      | with_reducible refine (closeBundle_touch ..).after ?_ rfl | with_reducible refine Touch.ite ?_ ?_ | (intro _)
      | split

theorem slotOp_touch {ps : List Part} {n : Fin 16} {stg : Nat} {form : Bool} {ok : Core → Bool} {body : Core → State → State} {r s : State}
    (hb : ∀ c s1, Touch ps s1 (body c s1)) (h : Touch ps r s)
    (hp : subParts [.funcs, .jobs, .acts, .rings, .pages, .link, .hostMem, .reqs, .portA, .portB, .path, .time, .strm, .lov, .cores, .loc, .pwr, .memc, .mem, .log, .cnt, .free] ps = true) : Touch ps r (slotOp n stg form ok body s) := by
  have hq : ∀ {a b : State}, Touch [.funcs, .jobs, .acts, .rings, .pages, .link, .hostMem, .reqs, .portA, .portB, .path, .time, .strm, .lov, .cores, .loc, .pwr, .memc, .mem, .log, .cnt, .free] a b → Touch ps r a → Touch ps r b := fun k k' => k.after k' hp
  unfold slotOp
  exact Touch.ite h (Touch.ite (hq ((trapHere_touch ..).after (Touch.refl _ _) rfl) h)
    (Touch.ite h (Touch.ite (hq ((trapHere_touch ..).after (Touch.refl _ _) rfl) h) ((hb _ _).after h (subParts_refl ps)))))

theorem aluOp_touch {ps : List Part} {n : Fin 16} {w : BitVec 32} {ok : Core → Bool} {body : Core → State → State} {r s : State}
    (hb : ∀ c s1, Touch ps s1 (body c s1)) (h : Touch ps r s)
    (hp : subParts [.funcs, .jobs, .acts, .rings, .pages, .link, .hostMem, .reqs, .portA, .portB, .path, .time, .strm, .lov, .cores, .loc, .pwr, .memc, .mem, .log, .cnt, .free] ps = true) : Touch ps r (aluOp n w ok body s) := by
  have hq : ∀ {a b : State}, Touch [.funcs, .jobs, .acts, .rings, .pages, .link, .hostMem, .reqs, .portA, .portB, .path, .time, .strm, .lov, .cores, .loc, .pwr, .memc, .mem, .log, .cnt, .free] a b → Touch ps r a → Touch ps r b := fun k k' => k.after k' hp
  unfold aluOp
  exact Touch.ite h (Touch.ite (hq ((trapHere_touch ..).after (Touch.refl _ _) rfl) h)
    (Touch.ite (hq ((trapHere_touch ..).after (Touch.refl _ _) rfl) h)
      (Touch.ite (hq ((closePlain_touch ..).after (Touch.refl _ _) rfl) h)
        (hq ((closePlain_touch ..).after (Touch.refl _ _) rfl) ((hb _ _).after h (subParts_refl ps))))))

theorem controlOp_touch {ps : List Part} {n : Fin 16} {w : BitVec 32} {ok leaves : Core → Bool} {act : Core → State → State} {r s : State}
    (hb : ∀ c s1, Touch ps s1 (act c s1)) (h : Touch ps r s)
    (hp : subParts [.funcs, .jobs, .acts, .rings, .pages, .link, .hostMem, .reqs, .portA, .portB, .path, .time, .strm, .lov, .cores, .loc, .pwr, .memc, .mem, .log, .cnt, .free] ps = true) : Touch ps r (controlOp n w ok leaves act s) := by
  have hq : ∀ {a b : State}, Touch [.funcs, .jobs, .acts, .rings, .pages, .link, .hostMem, .reqs, .portA, .portB, .path, .time, .strm, .lov, .cores, .loc, .pwr, .memc, .mem, .log, .cnt, .free] a b → Touch ps r a → Touch ps r b := fun k k' => k.after k' hp
  unfold controlOp
  exact Touch.ite h (Touch.ite (hq ((trapHere_touch ..).after (Touch.refl _ _) rfl) h)
    (Touch.ite (hq ((trapHere_touch ..).after (Touch.refl _ _) rfl) h)
      (Touch.ite (hq ((closePlain_touch ..).after (Touch.refl _ _) rfl) h) ((hb _ _).after h (subParts_refl ps)))))

theorem writeX_touch (n : Fin 16) (r : Fin 64) (d : Nat) (order : Nat) (v : Lanes) (s : State) :
    Touch [.cores] s (writeX n r d order v s) := by
  unfold writeX
  try dsimp only
  repeat' first
      | with_reducible exact Touch.refl _ _ | with_reducible assumption | with_reducible refine Touch.onCore ?_ rfl

end Sys2Proof.Machine
end

