-- ==== Sys2Proof/Laws/AluTouch.lean ====
section
/-! SUPPORT. What each operation of Machine/Alu.lean may change: one lemma each, `<name>_touch`. -/

namespace Sys2Proof.Machine

open Sys2Proof

theorem aluX_touch (n : Fin 16) (w : BitVec 32) (ok : Bool) (val : Core → Lanes) (s : State) :
    AnsTouch [.funcs, .jobs, .acts, .rings, .pages, .link, .hostMem, .reqs, .portA, .portB, .path, .time, .strm, .lov, .cores, .loc, .pwr, .memc, .mem, .log, .cnt, .free] s (aluX n w ok val s) := by
  unfold aluX
  try dsimp only
  repeat' first
      | with_reducible refine AnsTouch.next ?_ | with_reducible refine AnsTouch.ite ?_ ?_
      | with_reducible exact Touch.refl _ _ | with_reducible assumption
      | with_reducible refine (writeX_touch ..).after ?_ rfl
      | with_reducible refine aluOp_touch (fun _ _ => ?_) ?_ rfl

theorem aluZip_touch (n : Fin 16) (w : BitVec 32) (f : Word → Word → Word) (s : State) :
    AnsTouch [.funcs, .jobs, .acts, .rings, .pages, .link, .hostMem, .reqs, .portA, .portB, .path, .time, .strm, .lov, .cores, .loc, .pwr, .memc, .mem, .log, .cnt, .free] s (aluZip n w f s) := by
  unfold aluZip
  try dsimp only
  repeat' first
      | with_reducible refine AnsTouch.next ?_ | with_reducible refine AnsTouch.ite ?_ ?_
      | with_reducible exact Touch.refl _ _ | with_reducible assumption | with_reducible exact aluX_touch ..

theorem aluMap_touch (n : Fin 16) (w : BitVec 32) (ok : Bool) (f : Word → Word) (s : State) :
    AnsTouch [.funcs, .jobs, .acts, .rings, .pages, .link, .hostMem, .reqs, .portA, .portB, .path, .time, .strm, .lov, .cores, .loc, .pwr, .memc, .mem, .log, .cnt, .free] s (aluMap n w ok f s) := by
  unfold aluMap
  try dsimp only
  repeat' first
      | with_reducible refine AnsTouch.next ?_ | with_reducible refine AnsTouch.ite ?_ ?_
      | with_reducible exact Touch.refl _ _ | with_reducible assumption | with_reducible exact aluX_touch ..

theorem aluReg_touch (n : Fin 16) (w : BitVec 32) (g : Core → Core) (s : State) :
    AnsTouch [.funcs, .jobs, .acts, .rings, .pages, .link, .hostMem, .reqs, .portA, .portB, .path, .time, .strm, .lov, .cores, .loc, .pwr, .memc, .mem, .log, .cnt, .free] s (aluReg n w g s) := by
  unfold aluReg
  try dsimp only
  repeat' first
      | with_reducible refine AnsTouch.next ?_ | with_reducible refine AnsTouch.ite ?_ ?_
      | with_reducible exact Touch.refl _ _ | with_reducible assumption | with_reducible refine Touch.onCore ?_ rfl
      | with_reducible refine aluOp_touch (fun _ _ => ?_) ?_ rfl

theorem aluSearch_touch (n : Fin 16) (w : BitVec 32) (better : Word → Word → Bool) (key : Word → Word) (s : State) :
    AnsTouch [.funcs, .jobs, .acts, .rings, .pages, .link, .hostMem, .reqs, .portA, .portB, .path, .time, .strm, .lov, .cores, .loc, .pwr, .memc, .mem, .log, .cnt, .free] s (aluSearch n w better key s) := by
  unfold aluSearch
  try dsimp only
  repeat' first
      | with_reducible refine AnsTouch.next ?_ | with_reducible refine AnsTouch.ite ?_ ?_
      | with_reducible exact Touch.refl _ _ | with_reducible assumption | with_reducible exact aluReg_touch ..

theorem execAluNop_touch (n : Fin 16) (w : BitVec 32) (s : State) :
    AnsTouch [.funcs, .jobs, .acts, .rings, .pages, .link, .hostMem, .reqs, .portA, .portB, .path, .time, .strm, .lov, .cores, .loc, .pwr, .memc, .mem, .log, .cnt, .free] s (execAluNop n w s) := by
  unfold execAluNop
  try dsimp only
  repeat' first
      | with_reducible refine AnsTouch.next ?_ | with_reducible refine AnsTouch.ite ?_ ?_
      | with_reducible exact Touch.refl _ _ | with_reducible assumption
      | with_reducible refine aluOp_touch (fun _ _ => ?_) ?_ rfl

theorem execAdd_touch (n : Fin 16) (w : BitVec 32) (s : State) :
    AnsTouch [.funcs, .jobs, .acts, .rings, .pages, .link, .hostMem, .reqs, .portA, .portB, .path, .time, .strm, .lov, .cores, .loc, .pwr, .memc, .mem, .log, .cnt, .free] s (execAdd n w s) := by
  unfold execAdd
  try dsimp only
  repeat' first
      | with_reducible refine AnsTouch.next ?_ | with_reducible refine AnsTouch.ite ?_ ?_
      | with_reducible exact Touch.refl _ _ | with_reducible assumption | with_reducible exact aluZip_touch ..

theorem execAdds_touch (n : Fin 16) (w : BitVec 32) (s : State) :
    AnsTouch [.funcs, .jobs, .acts, .rings, .pages, .link, .hostMem, .reqs, .portA, .portB, .path, .time, .strm, .lov, .cores, .loc, .pwr, .memc, .mem, .log, .cnt, .free] s (execAdds n w s) := by
  unfold execAdds
  try dsimp only
  repeat' first
      | with_reducible refine AnsTouch.next ?_ | with_reducible refine AnsTouch.ite ?_ ?_
      | with_reducible exact Touch.refl _ _ | with_reducible assumption | with_reducible exact aluZip_touch ..

theorem execSub_touch (n : Fin 16) (w : BitVec 32) (s : State) :
    AnsTouch [.funcs, .jobs, .acts, .rings, .pages, .link, .hostMem, .reqs, .portA, .portB, .path, .time, .strm, .lov, .cores, .loc, .pwr, .memc, .mem, .log, .cnt, .free] s (execSub n w s) := by
  unfold execSub
  try dsimp only
  repeat' first
      | with_reducible refine AnsTouch.next ?_ | with_reducible refine AnsTouch.ite ?_ ?_
      | with_reducible exact Touch.refl _ _ | with_reducible assumption | with_reducible exact aluZip_touch ..

theorem execSubs_touch (n : Fin 16) (w : BitVec 32) (s : State) :
    AnsTouch [.funcs, .jobs, .acts, .rings, .pages, .link, .hostMem, .reqs, .portA, .portB, .path, .time, .strm, .lov, .cores, .loc, .pwr, .memc, .mem, .log, .cnt, .free] s (execSubs n w s) := by
  unfold execSubs
  try dsimp only
  repeat' first
      | with_reducible refine AnsTouch.next ?_ | with_reducible refine AnsTouch.ite ?_ ?_
      | with_reducible exact Touch.refl _ _ | with_reducible assumption | with_reducible exact aluZip_touch ..

theorem execAnd_touch (n : Fin 16) (w : BitVec 32) (s : State) :
    AnsTouch [.funcs, .jobs, .acts, .rings, .pages, .link, .hostMem, .reqs, .portA, .portB, .path, .time, .strm, .lov, .cores, .loc, .pwr, .memc, .mem, .log, .cnt, .free] s (execAnd n w s) := by
  unfold execAnd
  try dsimp only
  repeat' first
      | with_reducible refine AnsTouch.next ?_ | with_reducible refine AnsTouch.ite ?_ ?_
      | with_reducible exact Touch.refl _ _ | with_reducible assumption | with_reducible exact aluZip_touch ..

theorem execOr_touch (n : Fin 16) (w : BitVec 32) (s : State) :
    AnsTouch [.funcs, .jobs, .acts, .rings, .pages, .link, .hostMem, .reqs, .portA, .portB, .path, .time, .strm, .lov, .cores, .loc, .pwr, .memc, .mem, .log, .cnt, .free] s (execOr n w s) := by
  unfold execOr
  try dsimp only
  repeat' first
      | with_reducible refine AnsTouch.next ?_ | with_reducible refine AnsTouch.ite ?_ ?_
      | with_reducible exact Touch.refl _ _ | with_reducible assumption | with_reducible exact aluZip_touch ..

theorem execXor_touch (n : Fin 16) (w : BitVec 32) (s : State) :
    AnsTouch [.funcs, .jobs, .acts, .rings, .pages, .link, .hostMem, .reqs, .portA, .portB, .path, .time, .strm, .lov, .cores, .loc, .pwr, .memc, .mem, .log, .cnt, .free] s (execXor n w s) := by
  unfold execXor
  try dsimp only
  repeat' first
      | with_reducible refine AnsTouch.next ?_ | with_reducible refine AnsTouch.ite ?_ ?_
      | with_reducible exact Touch.refl _ _ | with_reducible assumption | with_reducible exact aluZip_touch ..

theorem execShl_touch (n : Fin 16) (w : BitVec 32) (s : State) :
    AnsTouch [.funcs, .jobs, .acts, .rings, .pages, .link, .hostMem, .reqs, .portA, .portB, .path, .time, .strm, .lov, .cores, .loc, .pwr, .memc, .mem, .log, .cnt, .free] s (execShl n w s) := by
  unfold execShl
  try dsimp only
  repeat' first
      | with_reducible refine AnsTouch.next ?_ | with_reducible refine AnsTouch.ite ?_ ?_
      | with_reducible exact Touch.refl _ _ | with_reducible assumption | with_reducible exact aluMap_touch ..

theorem execShra_touch (n : Fin 16) (w : BitVec 32) (s : State) :
    AnsTouch [.funcs, .jobs, .acts, .rings, .pages, .link, .hostMem, .reqs, .portA, .portB, .path, .time, .strm, .lov, .cores, .loc, .pwr, .memc, .mem, .log, .cnt, .free] s (execShra n w s) := by
  unfold execShra
  try dsimp only
  repeat' first
      | with_reducible refine AnsTouch.next ?_ | with_reducible refine AnsTouch.ite ?_ ?_
      | with_reducible exact Touch.refl _ _ | with_reducible assumption | with_reducible exact aluMap_touch ..

theorem execShrl_touch (n : Fin 16) (w : BitVec 32) (s : State) :
    AnsTouch [.funcs, .jobs, .acts, .rings, .pages, .link, .hostMem, .reqs, .portA, .portB, .path, .time, .strm, .lov, .cores, .loc, .pwr, .memc, .mem, .log, .cnt, .free] s (execShrl n w s) := by
  unfold execShrl
  try dsimp only
  repeat' first
      | with_reducible refine AnsTouch.next ?_ | with_reducible refine AnsTouch.ite ?_ ?_
      | with_reducible exact Touch.refl _ _ | with_reducible assumption | with_reducible exact aluMap_touch ..

theorem execShls_touch (n : Fin 16) (w : BitVec 32) (s : State) :
    AnsTouch [.funcs, .jobs, .acts, .rings, .pages, .link, .hostMem, .reqs, .portA, .portB, .path, .time, .strm, .lov, .cores, .loc, .pwr, .memc, .mem, .log, .cnt, .free] s (execShls n w s) := by
  unfold execShls
  try dsimp only
  repeat' first
      | with_reducible refine AnsTouch.next ?_ | with_reducible refine AnsTouch.ite ?_ ?_
      | with_reducible exact Touch.refl _ _ | with_reducible assumption | with_reducible exact aluMap_touch ..

theorem execMin_touch (n : Fin 16) (w : BitVec 32) (s : State) :
    AnsTouch [.funcs, .jobs, .acts, .rings, .pages, .link, .hostMem, .reqs, .portA, .portB, .path, .time, .strm, .lov, .cores, .loc, .pwr, .memc, .mem, .log, .cnt, .free] s (execMin n w s) := by
  unfold execMin
  try dsimp only
  repeat' first
      | with_reducible refine AnsTouch.next ?_ | with_reducible refine AnsTouch.ite ?_ ?_
      | with_reducible exact Touch.refl _ _ | with_reducible assumption | with_reducible exact aluZip_touch ..

theorem execMax_touch (n : Fin 16) (w : BitVec 32) (s : State) :
    AnsTouch [.funcs, .jobs, .acts, .rings, .pages, .link, .hostMem, .reqs, .portA, .portB, .path, .time, .strm, .lov, .cores, .loc, .pwr, .memc, .mem, .log, .cnt, .free] s (execMax n w s) := by
  unfold execMax
  try dsimp only
  repeat' first
      | with_reducible refine AnsTouch.next ?_ | with_reducible refine AnsTouch.ite ?_ ?_
      | with_reducible exact Touch.refl _ _ | with_reducible assumption | with_reducible exact aluZip_touch ..

theorem execAbs_touch (n : Fin 16) (w : BitVec 32) (s : State) :
    AnsTouch [.funcs, .jobs, .acts, .rings, .pages, .link, .hostMem, .reqs, .portA, .portB, .path, .time, .strm, .lov, .cores, .loc, .pwr, .memc, .mem, .log, .cnt, .free] s (execAbs n w s) := by
  unfold execAbs
  try dsimp only
  repeat' first
      | with_reducible refine AnsTouch.next ?_ | with_reducible refine AnsTouch.ite ?_ ?_
      | with_reducible exact Touch.refl _ _ | with_reducible assumption | with_reducible exact aluMap_touch ..

theorem execNeg_touch (n : Fin 16) (w : BitVec 32) (s : State) :
    AnsTouch [.funcs, .jobs, .acts, .rings, .pages, .link, .hostMem, .reqs, .portA, .portB, .path, .time, .strm, .lov, .cores, .loc, .pwr, .memc, .mem, .log, .cnt, .free] s (execNeg n w s) := by
  unfold execNeg
  try dsimp only
  repeat' first
      | with_reducible refine AnsTouch.next ?_ | with_reducible refine AnsTouch.ite ?_ ?_
      | with_reducible exact Touch.refl _ _ | with_reducible assumption | with_reducible exact aluMap_touch ..

theorem execMov_touch (n : Fin 16) (w : BitVec 32) (s : State) :
    AnsTouch [.funcs, .jobs, .acts, .rings, .pages, .link, .hostMem, .reqs, .portA, .portB, .path, .time, .strm, .lov, .cores, .loc, .pwr, .memc, .mem, .log, .cnt, .free] s (execMov n w s) := by
  unfold execMov
  try dsimp only
  repeat' first
      | with_reducible refine AnsTouch.next ?_ | with_reducible refine AnsTouch.ite ?_ ?_
      | with_reducible exact Touch.refl _ _ | with_reducible assumption | with_reducible exact aluMap_touch ..

theorem execBcast_touch (n : Fin 16) (w : BitVec 32) (s : State) :
    AnsTouch [.funcs, .jobs, .acts, .rings, .pages, .link, .hostMem, .reqs, .portA, .portB, .path, .time, .strm, .lov, .cores, .loc, .pwr, .memc, .mem, .log, .cnt, .free] s (execBcast n w s) := by
  unfold execBcast
  try dsimp only
  repeat' first
      | with_reducible refine AnsTouch.next ?_ | with_reducible refine AnsTouch.ite ?_ ?_
      | with_reducible exact Touch.refl _ _ | with_reducible assumption | with_reducible exact aluX_touch ..

theorem execLdil_touch (n : Fin 16) (w : BitVec 32) (s : State) :
    AnsTouch [.funcs, .jobs, .acts, .rings, .pages, .link, .hostMem, .reqs, .portA, .portB, .path, .time, .strm, .lov, .cores, .loc, .pwr, .memc, .mem, .log, .cnt, .free] s (execLdil n w s) := by
  unfold execLdil
  try dsimp only
  repeat' first
      | with_reducible refine AnsTouch.next ?_ | with_reducible refine AnsTouch.ite ?_ ?_
      | with_reducible exact Touch.refl _ _ | with_reducible assumption | with_reducible exact aluX_touch ..

theorem execLdih_touch (n : Fin 16) (w : BitVec 32) (s : State) :
    AnsTouch [.funcs, .jobs, .acts, .rings, .pages, .link, .hostMem, .reqs, .portA, .portB, .path, .time, .strm, .lov, .cores, .loc, .pwr, .memc, .mem, .log, .cnt, .free] s (execLdih n w s) := by
  unfold execLdih
  try dsimp only
  repeat' first
      | with_reducible refine AnsTouch.next ?_ | with_reducible refine AnsTouch.ite ?_ ?_
      | with_reducible exact Touch.refl _ _ | with_reducible assumption | with_reducible exact aluX_touch ..

theorem execCmplt_touch (n : Fin 16) (w : BitVec 32) (s : State) :
    AnsTouch [.funcs, .jobs, .acts, .rings, .pages, .link, .hostMem, .reqs, .portA, .portB, .path, .time, .strm, .lov, .cores, .loc, .pwr, .memc, .mem, .log, .cnt, .free] s (execCmplt n w s) := by
  unfold execCmplt
  try dsimp only
  repeat' first
      | with_reducible refine AnsTouch.next ?_ | with_reducible refine AnsTouch.ite ?_ ?_
      | with_reducible exact Touch.refl _ _ | with_reducible assumption | with_reducible exact aluZip_touch ..

theorem execCmpeq_touch (n : Fin 16) (w : BitVec 32) (s : State) :
    AnsTouch [.funcs, .jobs, .acts, .rings, .pages, .link, .hostMem, .reqs, .portA, .portB, .path, .time, .strm, .lov, .cores, .loc, .pwr, .memc, .mem, .log, .cnt, .free] s (execCmpeq n w s) := by
  unfold execCmpeq
  try dsimp only
  repeat' first
      | with_reducible refine AnsTouch.next ?_ | with_reducible refine AnsTouch.ite ?_ ?_
      | with_reducible exact Touch.refl _ _ | with_reducible assumption | with_reducible exact aluZip_touch ..

theorem execExt_touch (n : Fin 16) (w : BitVec 32) (s : State) :
    AnsTouch [.funcs, .jobs, .acts, .rings, .pages, .link, .hostMem, .reqs, .portA, .portB, .path, .time, .strm, .lov, .cores, .loc, .pwr, .memc, .mem, .log, .cnt, .free] s (execExt n w s) := by
  unfold execExt
  try dsimp only
  repeat' first
      | with_reducible refine AnsTouch.next ?_ | with_reducible refine AnsTouch.ite ?_ ?_
      | with_reducible exact Touch.refl _ _ | with_reducible assumption | with_reducible exact aluX_touch ..

theorem execExte_touch (n : Fin 16) (w : BitVec 32) (s : State) :
    AnsTouch [.funcs, .jobs, .acts, .rings, .pages, .link, .hostMem, .reqs, .portA, .portB, .path, .time, .strm, .lov, .cores, .loc, .pwr, .memc, .mem, .log, .cnt, .free] s (execExte n w s) := by
  unfold execExte
  try dsimp only
  repeat' first
      | with_reducible refine AnsTouch.next ?_ | with_reducible refine AnsTouch.ite ?_ ?_
      | with_reducible exact Touch.refl _ _ | with_reducible assumption | with_reducible exact aluX_touch ..

theorem execExpa_touch (n : Fin 16) (w : BitVec 32) (s : State) :
    AnsTouch [.funcs, .jobs, .acts, .rings, .pages, .link, .hostMem, .reqs, .portA, .portB, .path, .time, .strm, .lov, .cores, .loc, .pwr, .memc, .mem, .log, .cnt, .free] s (execExpa n w s) := by
  unfold execExpa
  try dsimp only
  repeat' first
      | with_reducible refine AnsTouch.next ?_ | with_reducible refine AnsTouch.ite ?_ ?_
      | with_reducible exact Touch.refl _ _ | with_reducible assumption | with_reducible exact aluX_touch ..

theorem execSete_touch (n : Fin 16) (w : BitVec 32) (s : State) :
    AnsTouch [.funcs, .jobs, .acts, .rings, .pages, .link, .hostMem, .reqs, .portA, .portB, .path, .time, .strm, .lov, .cores, .loc, .pwr, .memc, .mem, .log, .cnt, .free] s (execSete n w s) := by
  unfold execSete
  try dsimp only
  repeat' first
      | with_reducible refine AnsTouch.next ?_ | with_reducible refine AnsTouch.ite ?_ ?_
      | with_reducible exact Touch.refl _ _ | with_reducible assumption | with_reducible exact aluReg_touch ..

theorem execMine_touch (n : Fin 16) (w : BitVec 32) (s : State) :
    AnsTouch [.funcs, .jobs, .acts, .rings, .pages, .link, .hostMem, .reqs, .portA, .portB, .path, .time, .strm, .lov, .cores, .loc, .pwr, .memc, .mem, .log, .cnt, .free] s (execMine n w s) := by
  unfold execMine
  try dsimp only
  repeat' first
      | with_reducible refine AnsTouch.next ?_ | with_reducible refine AnsTouch.ite ?_ ?_
      | with_reducible exact Touch.refl _ _ | with_reducible assumption | with_reducible refine Touch.foldl ?_ ?_
      | with_reducible exact aluReg_touch ..

theorem execGete_touch (n : Fin 16) (w : BitVec 32) (s : State) :
    AnsTouch [.funcs, .jobs, .acts, .rings, .pages, .link, .hostMem, .reqs, .portA, .portB, .path, .time, .strm, .lov, .cores, .loc, .pwr, .memc, .mem, .log, .cnt, .free] s (execGete n w s) := by
  unfold execGete
  try dsimp only
  repeat' first
      | with_reducible refine AnsTouch.next ?_ | with_reducible refine AnsTouch.ite ?_ ?_
      | with_reducible exact Touch.refl _ _ | with_reducible assumption | with_reducible exact aluX_touch ..

theorem execSinit_touch (n : Fin 16) (w : BitVec 32) (s : State) :
    AnsTouch [.funcs, .jobs, .acts, .rings, .pages, .link, .hostMem, .reqs, .portA, .portB, .path, .time, .strm, .lov, .cores, .loc, .pwr, .memc, .mem, .log, .cnt, .free] s (execSinit n w s) := by
  unfold execSinit
  try dsimp only
  repeat' first
      | with_reducible refine AnsTouch.next ?_ | with_reducible refine AnsTouch.ite ?_ ?_
      | with_reducible exact Touch.refl _ _ | with_reducible assumption | with_reducible exact aluReg_touch ..

theorem execSmax_touch (n : Fin 16) (w : BitVec 32) (s : State) :
    AnsTouch [.funcs, .jobs, .acts, .rings, .pages, .link, .hostMem, .reqs, .portA, .portB, .path, .time, .strm, .lov, .cores, .loc, .pwr, .memc, .mem, .log, .cnt, .free] s (execSmax n w s) := by
  unfold execSmax
  try dsimp only
  repeat' first
      | with_reducible refine AnsTouch.next ?_ | with_reducible refine AnsTouch.ite ?_ ?_
      | with_reducible exact Touch.refl _ _ | with_reducible assumption | with_reducible exact aluSearch_touch ..

theorem execSmin_touch (n : Fin 16) (w : BitVec 32) (s : State) :
    AnsTouch [.funcs, .jobs, .acts, .rings, .pages, .link, .hostMem, .reqs, .portA, .portB, .path, .time, .strm, .lov, .cores, .loc, .pwr, .memc, .mem, .log, .cnt, .free] s (execSmin n w s) := by
  unfold execSmin
  try dsimp only
  repeat' first
      | with_reducible refine AnsTouch.next ?_ | with_reducible refine AnsTouch.ite ?_ ?_
      | with_reducible exact Touch.refl _ _ | with_reducible assumption | with_reducible exact aluSearch_touch ..

theorem execSmaxa_touch (n : Fin 16) (w : BitVec 32) (s : State) :
    AnsTouch [.funcs, .jobs, .acts, .rings, .pages, .link, .hostMem, .reqs, .portA, .portB, .path, .time, .strm, .lov, .cores, .loc, .pwr, .memc, .mem, .log, .cnt, .free] s (execSmaxa n w s) := by
  unfold execSmaxa
  try dsimp only
  repeat' first
      | with_reducible refine AnsTouch.next ?_ | with_reducible refine AnsTouch.ite ?_ ?_
      | with_reducible exact Touch.refl _ _ | with_reducible assumption | with_reducible exact aluSearch_touch ..

theorem execGetbv_touch (n : Fin 16) (w : BitVec 32) (s : State) :
    AnsTouch [.funcs, .jobs, .acts, .rings, .pages, .link, .hostMem, .reqs, .portA, .portB, .path, .time, .strm, .lov, .cores, .loc, .pwr, .memc, .mem, .log, .cnt, .free] s (execGetbv n w s) := by
  unfold execGetbv
  try dsimp only
  repeat' first
      | with_reducible refine AnsTouch.next ?_ | with_reducible refine AnsTouch.ite ?_ ?_
      | with_reducible exact Touch.refl _ _ | with_reducible assumption | with_reducible exact aluX_touch ..

theorem execGetbi_touch (n : Fin 16) (w : BitVec 32) (s : State) :
    AnsTouch [.funcs, .jobs, .acts, .rings, .pages, .link, .hostMem, .reqs, .portA, .portB, .path, .time, .strm, .lov, .cores, .loc, .pwr, .memc, .mem, .log, .cnt, .free] s (execGetbi n w s) := by
  unfold execGetbi
  try dsimp only
  repeat' first
      | with_reducible refine AnsTouch.next ?_ | with_reducible refine AnsTouch.ite ?_ ?_
      | with_reducible exact Touch.refl _ _ | with_reducible assumption | with_reducible exact aluX_touch ..

theorem execGetaov_touch (n : Fin 16) (w : BitVec 32) (s : State) :
    AnsTouch [.funcs, .jobs, .acts, .rings, .pages, .link, .hostMem, .reqs, .portA, .portB, .path, .time, .strm, .lov, .cores, .loc, .pwr, .memc, .mem, .log, .cnt, .free] s (execGetaov n w s) := by
  unfold execGetaov
  try dsimp only
  repeat' first
      | with_reducible refine AnsTouch.next ?_ | with_reducible refine AnsTouch.ite ?_ ?_
      | with_reducible exact Touch.refl _ _ | with_reducible assumption | with_reducible exact aluX_touch ..

theorem execClraov_touch (n : Fin 16) (w : BitVec 32) (s : State) :
    AnsTouch [.funcs, .jobs, .acts, .rings, .pages, .link, .hostMem, .reqs, .portA, .portB, .path, .time, .strm, .lov, .cores, .loc, .pwr, .memc, .mem, .log, .cnt, .free] s (execClraov n w s) := by
  unfold execClraov
  try dsimp only
  repeat' first
      | with_reducible refine AnsTouch.next ?_ | with_reducible refine AnsTouch.ite ?_ ?_
      | with_reducible exact Touch.refl _ _ | with_reducible assumption | with_reducible refine Touch.onCore ?_ rfl
      | with_reducible refine aluOp_touch (fun _ _ => ?_) ?_ rfl

end Sys2Proof.Machine
end

