-- ==== Sys2Proof/Laws/ParamsTouch.lean ====
section
/-! SUPPORT. What each operation of Machine/Params.lean may change: one lemma each, `<name>_touch`. -/

namespace Sys2Proof.Machine

open Sys2Proof

theorem revokeSlot_touch (v : Word) (s : State) :
    Touch [.svc] s (revokeSlot v s) := by
  unfold revokeSlot
  try dsimp only
  repeat' first
      | with_reducible exact Touch.refl _ _ | with_reducible assumption
      | with_reducible refine Touch.onSvc ?_ ?_ ?_ ?_ | exact fun _ => SvcSt.Later.of_eq rfl rfl rfl rfl rfl rfl rfl
      | exact fun _ => SvcSt.Later.of_noard .. | exact fun _ => SvcSt.Later.of_image ..
      | exact fun _ => SvcSt.Later.of_eq rfl rfl rfl rfl rfl rfl rfl | with_reducible refine Touch.ite ?_ ?_
      | exact Or.inl rfl | exact Or.inr fun _ => rfl

theorem serviceWrite_touch (i : Nat) (v : Word) (at_ : Fin 32 × Word) (s : State) :
    Touch [.chip, .params, .live, .svc, .portA, .portB, .path, .cnt] s (serviceWrite i v at_ s) := by
  unfold serviceWrite
  try dsimp only
  repeat' first
      | with_reducible exact Touch.refl _ _ | with_reducible assumption | with_reducible refine Touch.onChip ?_ ?_ rfl
      | with_reducible refine Touch.onLife ?_ ?_ ?_ ?_ ?_ ?_ ?_ | with_reducible refine Touch.onSvc ?_ ?_ ?_ ?_
      | with_reducible refine Touch.onPath ?_ rfl | exact fun _ => SvcSt.Later.of_eq rfl rfl rfl rfl rfl rfl rfl
      | exact SvcSt.Later.of_eq rfl rfl rfl rfl rfl rfl rfl
      | with_reducible refine (gratuitousArp_touch ..).after ?_ rfl
      | with_reducible refine (State.setParam_touch ..).after ?_ rfl
      | with_reducible refine (State.onPort_touch ..).after ?_ rfl
      | with_reducible refine (revokeSlot_touch ..).after ?_ rfl | with_reducible refine Touch.ite ?_ ?_
      | exact Or.inl rfl | exact Or.inr fun _ => rfl | exact Or.inr fun _ => ⟨rfl, rfl⟩ | exact fun _ => rfl

theorem phaseStep_touch (v : Word) (s : State) :
    Touch [.chip, .funcs, .writes, .jobs, .acts, .svc, .portA, .portB, .path, .time, .strm, .lov, .cores, .loc, .pwr, .cnt, .edges] s (phaseStep v s) := by
  unfold phaseStep
  try dsimp only
  repeat' first
      | with_reducible exact Touch.refl _ _ | with_reducible assumption | with_reducible refine Touch.onTime ?_ rfl
      | with_reducible refine (counterLoad_touch ..).after ?_ rfl | with_reducible refine Touch.ite ?_ ?_

theorem applyParam_touch (pid : Nat) (v : Word) (at_ : Fin 32 × Word) (s : State) :
    Touch [.chip, .funcs, .params, .live, .writes, .jobs, .acts, .rings, .link, .reqs, .svc, .portA, .portB, .path, .time, .strm, .lov, .cores, .loc, .pwr, .cnt, .edges, .free] s (applyParam pid v at_ s) := by
  unfold applyParam
  try dsimp only
  repeat' first
      | with_reducible exact Touch.refl _ _ | with_reducible assumption | with_reducible refine Touch.onCore ?_ rfl
      | with_reducible refine Touch.forAll ?_ ?_ | with_reducible refine (chiveTouch_touch ..).after ?_ rfl
      | with_reducible refine (levelRamp_touch ..).after ?_ rfl
      | with_reducible refine (State.onGen_touch ..).after ?_ rfl
      | with_reducible refine (genTouch_touch ..).after ?_ rfl
      | with_reducible refine (State.endJob_touch ..).after ?_ rfl
      | with_reducible refine (writeXp_touch ..).after ?_ rfl
      | with_reducible refine (phaseStep_touch ..).after ?_ rfl
      | with_reducible refine (serviceWrite_touch ..).after ?_ rfl
      | with_reducible refine (State.setParam_touch ..).after ?_ rfl | with_reducible refine Touch.ite ?_ ?_
      | (intro _) | split

end Sys2Proof.Machine
end

