-- ==== Sys2Proof/Laws/BlocksTouch.lean ====
section
/-! SUPPORT. What each operation of Machine/Blocks.lean may change: one lemma each, `<name>_touch`. -/

namespace Sys2Proof.Machine

open Sys2Proof

theorem blockEffect_touch (f : Func) (old : List Byte) (new : List Byte) (s : State) :
    Touch [.strm, .lov, .pwr] s (blockEffect f old new s) := by
  unfold blockEffect
  try dsimp only
  repeat' first
      | with_reducible exact Touch.refl _ _ | with_reducible assumption | with_reducible refine Touch.onStrm ?_ rfl
      | with_reducible refine Touch.onLov ?_ rfl | with_reducible refine Touch.forAll ?_ ?_
      | with_reducible refine (State.onPch_touch ..).after ?_ rfl | with_reducible refine Touch.ite ?_ ?_ | (intro _)
      | split

theorem acceptBlock_touch (f : Func) (l : List Byte) (s : State) :
    Touch [.funcs, .strm, .lov, .pwr] s (acceptBlock f l s) := by
  unfold acceptBlock
  try dsimp only
  repeat' first
      | with_reducible exact Touch.refl _ _ | with_reducible assumption
      | with_reducible refine (State.onFunc_touch ..).after ?_ rfl
      | with_reducible refine (blockEffect_touch ..).after ?_ rfl

theorem noteStart_touch (f : Func) (st : Byte) (s : State) :
    Touch [.cores, .cnt] s (noteStart f st s) := by
  unfold noteStart
  try dsimp only
  repeat' first
      | with_reducible exact Touch.refl _ _ | with_reducible assumption | with_reducible refine Touch.onCore ?_ rfl
      | with_reducible refine (State.bump_touch ..).after ?_ rfl | with_reducible refine Touch.ite ?_ ?_ | (intro _)
      | split

end Sys2Proof.Machine
end

