-- ==== Sys2Proof/Laws/DescOpsTouch.lean ====
section
/-! SUPPORT. What each operation of Machine/DescOps.lean may change: one lemma each, `<name>_touch`. -/

namespace Sys2Proof.Machine

open Sys2Proof

theorem serveAt_touch {ps : List Part} {op : Nat} {q : Fin 32} {d : Desc} {form : Bool} {addr : Nat}
    {body : Word → State → State} {r s : State} (hb : ∀ idx s1, Touch ps s1 (body idx s1)) (h : Touch ps r s)
    (hp : subParts [.rings, .pages, .taken, .reqs] ps = true) : Touch ps r (serveAt op q d form addr body s) := by
  unfold serveAt
  exact Touch.ite h (serve_touch hb h hp)

theorem noteRead_touch (a : Nat) (e : Byte) (s : State) :
    Touch [.link] s (noteRead a e s) := by
  unfold noteRead
  try dsimp only
  repeat' first
      | with_reducible exact Touch.refl _ _ | with_reducible assumption
      | with_reducible refine (hostReadFailed_touch ..).after ?_ rfl | with_reducible refine Touch.ite ?_ ?_

theorem finishResult_touch (q : Fin 32) (d : Desc) (idx : Word) (a : Nat) (bytes : List Byte) (done : Nat) (s : State) :
    Touch [.rings, .hostMem, .reqs, .memc, .mem] s (finishResult q d idx a bytes done s) := by
  unfold finishResult
  try dsimp only
  repeat' first
      | with_reducible exact Touch.refl _ _ | with_reducible assumption
      | with_reducible refine (State.writeAt_touch ..).after ?_ rfl
      | with_reducible refine (finish_touch ..).after ?_ rfl | with_reducible refine Touch.ite ?_ ?_

theorem onFunction_touch {ps : List Part} {q : Fin 32} {d : Desc} {idx : Word}
    {body : Func → State → State} {r s : State} (hb : ∀ f s1, Touch ps s1 (body f s1)) (h : Touch ps r s)
    (hp : subParts [.rings, .reqs] ps = true) : Touch ps r (onFunction q d idx body s) := by
  have hf : ∀ st, Touch ps r (finish q d idx st 0 s) := fun st => ((finish_touch ..).after (Touch.refl _ _) hp).after h (subParts_refl ps)
  unfold onFunction
  split
  · exact hf _
  · exact Touch.ite (hf _) ((hb _ _).after h (subParts_refl ps))

theorem finishRecords_touch (q : Fin 32) (d : Desc) (idx : Word) (a : Nat) (size : Nat) (recs : List (List Byte)) (last : Byte) (s : State) :
    Touch [.rings, .hostMem, .reqs, .memc, .mem] s (finishRecords q d idx a size recs last s) := by
  unfold finishRecords
  try dsimp only
  repeat' first
      | with_reducible exact Touch.refl _ _ | with_reducible assumption
      | with_reducible refine (State.addRec_touch ..).after ?_ rfl
      | with_reducible refine (State.writeAt_touch ..).after ?_ rfl | with_reducible refine Touch.ite ?_ ?_

end Sys2Proof.Machine
end

