-- ==== Sys2Proof/Laws/FuncCmdsTouch.lean ====
section
/-! SUPPORT. What each operation of Machine/FuncCmds.lean may change: one lemma each, `<name>_touch`. -/

namespace Sys2Proof.Machine

open Sys2Proof

theorem judgeBlock_touch (f : Func) (l : List Byte) (j : Job) (s : State) :
    Touch [.funcs, .jobs, .rings, .link, .reqs, .strm, .lov, .pwr] s (judgeBlock f l j s) := by
  unfold judgeBlock
  try dsimp only
  repeat' first
      | with_reducible exact Touch.refl _ _ | with_reducible assumption
      | with_reducible refine (acceptBlock_touch ..).after ?_ rfl
      | with_reducible refine (State.endJob_touch ..).after ?_ rfl
      | with_reducible refine (State.setLife_touch ..).after ?_ rfl | with_reducible refine Touch.ite ?_ ?_

theorem takeBlock_touch (f : Func) (l : List Byte) (q : Fin 32) (d : Desc) (idx : Word) (s : State) :
    Touch [.chip, .funcs, .jobs, .rings, .pages, .link, .reqs, .strm, .lov, .pwr, .log] s (takeBlock f l q d idx s) := by
  unfold takeBlock
  try dsimp only
  repeat' first
      | with_reducible exact Touch.refl _ _ | with_reducible assumption
      | with_reducible refine (wakeHv_touch ..).after ?_ rfl
      | with_reducible refine (judgeBlock_touch ..).after ?_ rfl
      | with_reducible refine (addJob_touch ..).after ?_ rfl | with_reducible refine Touch.ite ?_ ?_

theorem execFuncConfig_touch (q : Fin 32) (d : Desc) (h : HostRead) (s : State) :
    AnsTouch [.chip, .funcs, .jobs, .rings, .pages, .taken, .link, .reqs, .strm, .lov, .pwr, .log] s (execFuncConfig q d h s) := by
  unfold execFuncConfig
  try dsimp only
  repeat' first
      | with_reducible refine AnsTouch.next ?_ | with_reducible refine AnsTouch.ite ?_ ?_
      | with_reducible exact Touch.refl _ _ | with_reducible assumption
      | with_reducible refine (takeBlock_touch ..).after ?_ rfl
      | with_reducible refine (noteRead_touch ..).after ?_ rfl | with_reducible refine (finish_touch ..).after ?_ rfl
      | with_reducible refine onFunction_touch (fun _ _ => ?_) ?_ rfl
      | with_reducible refine serveAt_touch (fun _ _ => ?_) ?_ rfl | with_reducible refine Touch.ite ?_ ?_ | (intro _)
      | split

theorem configTick_touch (s : State) :
    Touch [.funcs, .jobs, .rings, .link, .reqs, .strm, .lov, .pwr] s (configTick s) := by
  unfold configTick
  try dsimp only
  repeat' first
      | with_reducible exact Touch.refl _ _ | with_reducible assumption | with_reducible refine Touch.forAll ?_ ?_
      | with_reducible refine (State.endJob_touch ..).after ?_ rfl
      | with_reducible refine (judgeBlock_touch ..).after ?_ rfl | with_reducible refine Touch.ite ?_ ?_ | (intro _)
      | split

theorem execFuncStart_touch (q : Fin 32) (d : Desc) (s : State) :
    AnsTouch [.chip, .funcs, .jobs, .rings, .pages, .taken, .reqs, .cores, .log, .cnt] s (execFuncStart q d s) := by
  unfold execFuncStart
  try dsimp only
  repeat' first
      | with_reducible refine AnsTouch.next ?_ | with_reducible refine AnsTouch.ite ?_ ?_
      | with_reducible exact Touch.refl _ _ | with_reducible assumption
      | with_reducible refine (wakeHv_touch ..).after ?_ rfl | with_reducible refine (askStart_touch ..).after ?_ rfl
      | with_reducible refine (noteStart_touch ..).after ?_ rfl | with_reducible refine (defer_touch ..).after ?_ rfl
      | with_reducible refine (finish_touch ..).after ?_ rfl
      | with_reducible refine onFunction_touch (fun _ _ => ?_) ?_ rfl
      | with_reducible refine serve_touch (fun _ _ => ?_) ?_ rfl | with_reducible refine Touch.ite ?_ ?_ | (intro _)
      | split

theorem execFuncStop_touch (q : Fin 32) (d : Desc) (s : State) :
    AnsTouch [.chip, .funcs, .jobs, .rings, .pages, .taken, .reqs, .log] s (execFuncStop q d s) := by
  unfold execFuncStop
  try dsimp only
  repeat' first
      | with_reducible refine AnsTouch.next ?_ | with_reducible refine AnsTouch.ite ?_ ?_
      | with_reducible exact Touch.refl _ _ | with_reducible assumption
      | with_reducible refine (State.onFunc_touch ..).after ?_ rfl
      | with_reducible refine (wakeHv_touch ..).after ?_ rfl | with_reducible refine (finish_touch ..).after ?_ rfl
      | with_reducible refine (defer_touch ..).after ?_ rfl | with_reducible refine (askStop_touch ..).after ?_ rfl
      | with_reducible refine onFunction_touch (fun _ _ => ?_) ?_ rfl
      | with_reducible refine serve_touch (fun _ _ => ?_) ?_ rfl | with_reducible refine Touch.ite ?_ ?_ | (intro _)
      | split

theorem execFuncQuery_touch (q : Fin 32) (d : Desc) (s : State) :
    AnsTouch [.rings, .pages, .taken, .hostMem, .reqs, .memc, .mem] s (execFuncQuery q d s) := by
  unfold execFuncQuery
  try dsimp only
  repeat' first
      | with_reducible refine AnsTouch.next ?_ | with_reducible refine AnsTouch.ite ?_ ?_
      | with_reducible exact Touch.refl _ _ | with_reducible assumption
      | with_reducible refine (finish_touch ..).after ?_ rfl
      | with_reducible refine (finishResult_touch ..).after ?_ rfl
      | with_reducible refine serveAt_touch (fun _ _ => ?_) ?_ rfl | with_reducible refine Touch.ite ?_ ?_ | (intro _)
      | split

theorem execFunctionFault_touch (f : Func) (cause : Byte) (s : State) :
    AnsTouch [.funcs, .jobs, .acts, .rings, .pages, .link, .hostMem, .reqs, .portA, .portB, .path, .time, .strm, .lov, .cores, .loc, .pwr, .memc, .mem, .log, .cnt, .free] s (execFunctionFault f cause s) := by
  unfold execFunctionFault
  try dsimp only
  repeat' first
      | with_reducible refine AnsTouch.next ?_ | with_reducible refine AnsTouch.ite ?_ ?_
      | with_reducible exact Touch.refl _ _ | with_reducible assumption
      | with_reducible refine (State.freshen_touch _).after ?_ rfl
      | with_reducible refine (faultFunc_touch ..).after ?_ rfl | with_reducible refine Touch.ite ?_ ?_

theorem execLogDropReport_touch (s : State) :
    AnsTouch [.pages, .log] s (execLogDropReport s) := by
  unfold execLogDropReport
  try dsimp only
  repeat' first
      | with_reducible refine AnsTouch.next ?_ | with_reducible refine AnsTouch.ite ?_ ?_
      | with_reducible exact Touch.refl _ _ | with_reducible assumption | with_reducible refine Touch.onLog ?_ ?_ rfl
      | exact fun _ => LogSt.Later.of_eq rfl | with_reducible refine (State.putEntry_touch ..).after ?_ rfl
      | with_reducible refine Touch.ite ?_ ?_

end Sys2Proof.Machine
end

