-- ==== Sys2Proof/Laws/DescCmdsTouch.lean ====
section
/-! SUPPORT. What each operation of Machine/DescCmds.lean may change: one lemma each, `<name>_touch`. -/

namespace Sys2Proof.Machine

open Sys2Proof

theorem execNop_touch (q : Fin 32) (d : Desc) (s : State) :
    AnsTouch [.rings, .pages, .taken, .reqs] s (execNop q d s) := by
  unfold execNop
  try dsimp only
  repeat' first
      | with_reducible refine AnsTouch.next ?_ | with_reducible refine AnsTouch.ite ?_ ?_
      | with_reducible exact Touch.refl _ _ | with_reducible assumption
      | with_reducible refine (finish_touch ..).after ?_ rfl
      | with_reducible refine serve_touch (fun _ _ => ?_) ?_ rfl

theorem execFence_touch (q : Fin 32) (d : Desc) (s : State) :
    AnsTouch [.jobs, .rings, .pages, .taken, .reqs] s (execFence q d s) := by
  unfold execFence
  try dsimp only
  repeat' first
      | with_reducible refine AnsTouch.next ?_ | with_reducible refine AnsTouch.ite ?_ ?_
      | with_reducible exact Touch.refl _ _ | with_reducible assumption
      | with_reducible refine (addJob_touch ..).after ?_ rfl | with_reducible refine (finish_touch ..).after ?_ rfl
      | with_reducible refine serve_touch (fun _ _ => ?_) ?_ rfl | with_reducible refine Touch.ite ?_ ?_

theorem execFenceComplete_touch (q : Fin 32) (s : State) :
    AnsTouch [.jobs, .rings, .link, .reqs] s (execFenceComplete q s) := by
  unfold execFenceComplete
  try dsimp only
  repeat' first
      | with_reducible refine AnsTouch.next ?_ | with_reducible refine AnsTouch.ite ?_ ?_
      | with_reducible exact Touch.refl _ _ | with_reducible assumption
      | with_reducible refine (State.endJob_touch ..).after ?_ rfl | with_reducible refine Touch.ite ?_ ?_ | (intro _)
      | split

theorem finishWrites_touch (s : State) :
    Touch [.jobs, .rings, .link, .reqs, .cnt] s (finishWrites s) := by
  unfold finishWrites
  try dsimp only
  repeat' first
      | with_reducible exact Touch.refl _ _ | with_reducible assumption | with_reducible refine Touch.forAll ?_ ?_
      | with_reducible refine (State.bump_touch ..).after ?_ rfl
      | with_reducible refine (State.endJob_touch ..).after ?_ rfl | with_reducible refine Touch.ite ?_ ?_ | (intro _)

theorem placeWrites_touch (q : Fin 32) (d : Desc) (idx : Word) (l : List (Nat × Word)) (s : State) :
    Touch [.chip, .funcs, .params, .live, .writes, .jobs, .acts, .rings, .link, .reqs, .svc, .portA, .portB, .path, .time, .strm, .lov, .cores, .loc, .pwr, .cnt, .edges, .free] s (placeWrites q d idx l s) := by
  unfold placeWrites
  try dsimp only
  repeat' first
      | with_reducible exact Touch.refl _ _ | with_reducible assumption
      | with_reducible refine Touch.onLife ?_ ?_ ?_ ?_ ?_ ?_ ?_ | with_reducible refine Touch.forAll ?_ ?_
      | with_reducible refine (applyParam_touch ..).after ?_ rfl
      | with_reducible refine (finishWrites_touch ..).after ?_ rfl
      | with_reducible refine (addJob_touch ..).after ?_ rfl | with_reducible refine Touch.ite ?_ ?_
      | exact Or.inl rfl | exact Or.inr fun _ => rfl | exact Or.inr fun _ => ⟨rfl, rfl⟩ | (intro _)

theorem execParamWrite_touch (q : Fin 32) (d : Desc) (s : State) :
    AnsTouch [.chip, .funcs, .params, .live, .writes, .jobs, .acts, .rings, .pages, .taken, .link, .reqs, .svc, .portA, .portB, .path, .time, .strm, .lov, .cores, .loc, .pwr, .cnt, .edges, .free] s (execParamWrite q d s) := by
  unfold execParamWrite
  try dsimp only
  repeat' first
      | with_reducible refine AnsTouch.next ?_ | with_reducible refine AnsTouch.ite ?_ ?_
      | with_reducible exact Touch.refl _ _ | with_reducible assumption
      | with_reducible refine (placeWrites_touch ..).after ?_ rfl
      | with_reducible refine (State.bump_touch ..).after ?_ rfl
      | with_reducible refine (finish_touch ..).after ?_ rfl
      | with_reducible refine serve_touch (fun _ _ => ?_) ?_ rfl | with_reducible refine Touch.ite ?_ ?_

theorem execParamRead_touch (q : Fin 32) (d : Desc) (s : State) :
    AnsTouch [.rings, .pages, .taken, .hostMem, .reqs, .memc, .mem, .free] s (execParamRead q d s) := by
  unfold execParamRead
  try dsimp only
  repeat' first
      | with_reducible refine AnsTouch.next ?_ | with_reducible refine AnsTouch.ite ?_ ?_
      | with_reducible exact Touch.refl _ _ | with_reducible assumption
      | with_reducible refine (State.freshen_touch _).after ?_ rfl
      | with_reducible refine (finishRecords_touch ..).after ?_ rfl
      | with_reducible refine (finish_touch ..).after ?_ rfl
      | with_reducible refine serveAt_touch (fun _ _ => ?_) ?_ rfl | with_reducible refine Touch.ite ?_ ?_ | (intro _)
      | split

theorem execSched_touch (q : Fin 32) (d : Desc) (s : State) :
    AnsTouch [.acts, .rings, .pages, .taken, .reqs, .cnt] s (execSched q d s) := by
  unfold execSched
  try dsimp only
  repeat' first
      | with_reducible refine AnsTouch.next ?_ | with_reducible refine AnsTouch.ite ?_ ?_
      | with_reducible exact Touch.refl _ _ | with_reducible assumption
      | with_reducible refine Touch.onLife ?_ ?_ ?_ ?_ ?_ ?_ ?_
      | with_reducible refine (State.bump_touch ..).after ?_ rfl
      | with_reducible refine (finish_touch ..).after ?_ rfl
      | with_reducible refine onFunction_touch (fun _ _ => ?_) ?_ rfl
      | with_reducible refine serve_touch (fun _ _ => ?_) ?_ rfl | with_reducible refine Touch.ite ?_ ?_
      | exact Or.inl rfl | exact Or.inr fun _ => rfl | exact Or.inr fun _ => ⟨rfl, rfl⟩

theorem execSchedCancel_touch (q : Fin 32) (d : Desc) (s : State) :
    AnsTouch [.acts, .rings, .pages, .taken, .reqs] s (execSchedCancel q d s) := by
  unfold execSchedCancel
  try dsimp only
  repeat' first
      | with_reducible refine AnsTouch.next ?_ | with_reducible refine AnsTouch.ite ?_ ?_
      | with_reducible exact Touch.refl _ _ | with_reducible assumption
      | with_reducible refine (State.endAction_touch ..).after ?_ rfl
      | with_reducible refine (finish_touch ..).after ?_ rfl
      | with_reducible refine onFunction_touch (fun _ _ => ?_) ?_ rfl
      | with_reducible refine serve_touch (fun _ _ => ?_) ?_ rfl | with_reducible refine Touch.ite ?_ ?_ | (intro _)
      | split

theorem markApplied_touch (a : Action) (s : State) :
    Touch [.acts] s (markApplied a s) := by
  unfold markApplied
  try dsimp only
  repeat' first
      | with_reducible exact Touch.refl _ _ | with_reducible assumption
      | with_reducible refine Touch.onLife ?_ ?_ ?_ ?_ ?_ ?_ ?_ | with_reducible refine Touch.ite ?_ ?_
      | exact Or.inl rfl | exact Or.inr fun _ => rfl | exact Or.inr fun _ => ⟨rfl, rfl⟩

theorem schedStart_touch (a : Action) (ok : Byte) (s : State) :
    Touch [.chip, .funcs, .writes, .jobs, .acts, .rings, .pages, .link, .reqs, .svc, .portA, .portB, .path, .time, .strm, .lov, .cores, .loc, .pwr, .mem, .log, .cnt, .edges, .free] s (schedStart a ok s) := by
  unfold schedStart
  try dsimp only
  repeat' first
      | with_reducible exact Touch.refl _ _ | with_reducible assumption
      | with_reducible refine (wakeHv_touch ..).after ?_ rfl
      | with_reducible refine (startEffect_touch ..).after ?_ rfl
      | with_reducible refine (State.onFunc_touch ..).after ?_ rfl
      | with_reducible refine (noteStart_touch ..).after ?_ rfl
      | with_reducible refine (markApplied_touch ..).after ?_ rfl
      | with_reducible refine (State.endAction_touch ..).after ?_ rfl | with_reducible refine Touch.ite ?_ ?_
      | (intro _) | split

theorem schedStop_touch (a : Action) (ok : Byte) (s : State) :
    Touch [.chip, .funcs, .params, .jobs, .acts, .rings, .pages, .link, .hostMem, .reqs, .portA, .portB, .path, .time, .strm, .lov, .cores, .loc, .pwr, .memc, .mem, .log, .cnt, .free] s (schedStop a ok s) := by
  unfold schedStop
  try dsimp only
  repeat' first
      | with_reducible exact Touch.refl _ _ | with_reducible assumption
      | with_reducible refine (State.onFunc_touch ..).after ?_ rfl
      | with_reducible refine (stopEffect_touch ..).after ?_ rfl
      | with_reducible refine (markApplied_touch ..).after ?_ rfl
      | with_reducible refine (State.endAction_touch ..).after ?_ rfl | with_reducible refine Touch.ite ?_ ?_
      | (intro _) | split

theorem converterStart_touch (x : Fin 2) (s : State) :
    Touch [.loc] s (converterStart x s) := by
  unfold converterStart
  try dsimp only
  repeat' first
      | with_reducible exact Touch.refl _ _ | with_reducible assumption
      | with_reducible refine (State.onTdm_touch ..).after ?_ rfl | with_reducible refine Touch.ite ?_ ?_

theorem applyAction_touch (a : Action) (s : State) :
    Touch [.chip, .funcs, .params, .live, .writes, .jobs, .acts, .rings, .pages, .link, .hostMem, .reqs, .svc, .portA, .portB, .path, .time, .strm, .lov, .cores, .loc, .pwr, .memc, .mem, .log, .cnt, .edges, .free] s (applyAction a s) := by
  unfold applyAction
  try dsimp only
  repeat' first
      | with_reducible exact Touch.refl _ _ | with_reducible assumption
      | with_reducible refine Touch.onLife ?_ ?_ ?_ ?_ ?_ ?_ ?_
      | with_reducible refine (converterStart_touch ..).after ?_ rfl
      | with_reducible refine (State.onJob_touch ..).after ?_ rfl
      | with_reducible refine (syncDec_touch ..).after ?_ rfl
      | with_reducible refine (schedStop_touch ..).after ?_ rfl
      | with_reducible refine (schedStart_touch ..).after ?_ rfl
      | with_reducible refine (applyParam_touch ..).after ?_ rfl
      | with_reducible refine (State.bump_touch ..).after ?_ rfl
      | with_reducible refine (State.endAction_touch ..).after ?_ rfl | with_reducible refine Touch.ite ?_ ?_
      | exact Or.inl rfl | exact Or.inr fun _ => rfl | exact Or.inr fun _ => ⟨rfl, rfl⟩ | (intro _) | split

theorem execRouteSet_touch (q : Fin 32) (d : Desc) (h : HostRead) (s : State) :
    AnsTouch [.chip, .funcs, .params, .live, .writes, .jobs, .acts, .rings, .pages, .taken, .link, .reqs, .svc, .portA, .portB, .path, .time, .strm, .lov, .cores, .loc, .pwr, .cnt, .edges, .free] s (execRouteSet q d h s) := by
  unfold execRouteSet
  try dsimp only
  repeat' first
      | with_reducible refine AnsTouch.next ?_ | with_reducible refine AnsTouch.ite ?_ ?_
      | with_reducible exact Touch.refl _ _ | with_reducible assumption
      | with_reducible refine (placeWrites_touch ..).after ?_ rfl
      | with_reducible refine (State.bump_touch ..).after ?_ rfl
      | with_reducible refine (noteRead_touch ..).after ?_ rfl | with_reducible refine (finish_touch ..).after ?_ rfl
      | with_reducible refine serveAt_touch (fun _ _ => ?_) ?_ rfl | with_reducible refine Touch.ite ?_ ?_ | (intro _)
      | split

theorem execRouteRead_touch (q : Fin 32) (d : Desc) (s : State) :
    AnsTouch [.rings, .pages, .taken, .hostMem, .reqs, .memc, .mem, .free] s (execRouteRead q d s) := by
  unfold execRouteRead
  try dsimp only
  repeat' first
      | with_reducible refine AnsTouch.next ?_ | with_reducible refine AnsTouch.ite ?_ ?_
      | with_reducible exact Touch.refl _ _ | with_reducible assumption
      | with_reducible refine (State.freshen_touch _).after ?_ rfl
      | with_reducible refine (finishRecords_touch ..).after ?_ rfl
      | with_reducible refine (finish_touch ..).after ?_ rfl
      | with_reducible refine serveAt_touch (fun _ _ => ?_) ?_ rfl | with_reducible refine Touch.ite ?_ ?_

theorem statClear_touch (f : Func) (s : State) :
    Touch [.svc, .cnt] s (statClear f s) := by
  unfold statClear
  try dsimp only
  repeat' first
      | with_reducible exact Touch.refl _ _ | with_reducible assumption
      | with_reducible refine Touch.onSvc ?_ ?_ ?_ ?_ | exact fun _ => SvcSt.Later.of_eq rfl rfl rfl rfl rfl rfl rfl
      | exact SvcSt.Later.of_eq rfl rfl rfl rfl rfl rfl rfl | with_reducible refine Touch.forAll ?_ ?_
      | with_reducible refine (State.clearCnt_touch ..).after ?_ rfl | with_reducible refine Touch.ite ?_ ?_
      | exact Or.inl rfl | exact Or.inr fun _ => rfl | exact Or.inr fun _ => ⟨rfl, rfl⟩ | (intro _)

theorem execStatsRead_touch (q : Fin 32) (d : Desc) (s : State) :
    AnsTouch [.rings, .pages, .taken, .hostMem, .reqs, .svc, .memc, .mem, .cnt] s (execStatsRead q d s) := by
  unfold execStatsRead
  try dsimp only
  repeat' first
      | with_reducible refine AnsTouch.next ?_ | with_reducible refine AnsTouch.ite ?_ ?_
      | with_reducible exact Touch.refl _ _ | with_reducible assumption
      | with_reducible refine (statClear_touch ..).after ?_ rfl
      | with_reducible refine (finishRecords_touch ..).after ?_ rfl
      | with_reducible refine onFunction_touch (fun _ _ => ?_) ?_ rfl
      | with_reducible refine serveAt_touch (fun _ _ => ?_) ?_ rfl | with_reducible refine Touch.ite ?_ ?_

theorem execLogRead_touch (q : Fin 32) (d : Desc) (s : State) :
    AnsTouch [.rings, .pages, .taken, .hostMem, .reqs, .memc, .mem] s (execLogRead q d s) := by
  unfold execLogRead
  try dsimp only
  repeat' first
      | with_reducible refine AnsTouch.next ?_ | with_reducible refine AnsTouch.ite ?_ ?_
      | with_reducible exact Touch.refl _ _ | with_reducible assumption
      | with_reducible refine (finishRecords_touch ..).after ?_ rfl
      | with_reducible refine (finish_touch ..).after ?_ rfl
      | with_reducible refine serveAt_touch (fun _ _ => ?_) ?_ rfl | with_reducible refine Touch.ite ?_ ?_

theorem execTimeQuery_touch (q : Fin 32) (d : Desc) (s : State) :
    AnsTouch [.rings, .pages, .taken, .hostMem, .reqs, .memc, .mem] s (execTimeQuery q d s) := by
  unfold execTimeQuery
  try dsimp only
  repeat' first
      | with_reducible refine AnsTouch.next ?_ | with_reducible refine AnsTouch.ite ?_ ?_
      | with_reducible exact Touch.refl _ _ | with_reducible assumption
      | with_reducible refine (finishResult_touch ..).after ?_ rfl
      | with_reducible refine serveAt_touch (fun _ _ => ?_) ?_ rfl

theorem execTimeStepAccept_touch (q : Fin 32) (d : Desc) (s : State) :
    AnsTouch [.jobs, .rings, .pages, .taken, .reqs, .time] s (execTimeStepAccept q d s) := by
  unfold execTimeStepAccept
  try dsimp only
  repeat' first
      | with_reducible refine AnsTouch.next ?_ | with_reducible refine AnsTouch.ite ?_ ?_
      | with_reducible exact Touch.refl _ _ | with_reducible assumption | with_reducible refine Touch.onTime ?_ rfl
      | with_reducible refine (defer_touch ..).after ?_ rfl | with_reducible refine (finish_touch ..).after ?_ rfl
      | with_reducible refine serve_touch (fun _ _ => ?_) ?_ rfl | with_reducible refine Touch.ite ?_ ?_

theorem acceptTick_touch (s : State) :
    Touch [.chip, .funcs, .writes, .jobs, .acts, .rings, .link, .reqs, .svc, .portA, .portB, .path, .time, .strm, .lov, .cores, .loc, .pwr, .cnt, .edges] s (acceptTick s) := by
  unfold acceptTick
  try dsimp only
  repeat' first
      | with_reducible exact Touch.refl _ _ | with_reducible assumption | with_reducible refine Touch.onTime ?_ rfl
      | with_reducible refine (moveOutput_touch ..).after ?_ rfl
      | with_reducible refine (counterLoad_touch ..).after ?_ rfl
      | with_reducible refine (State.bump_touch ..).after ?_ rfl
      | with_reducible refine (State.endJob_touch ..).after ?_ rfl | with_reducible refine Touch.ite ?_ ?_ | (intro _)
      | split

theorem execPathSwitch_touch (q : Fin 32) (d : Desc) (s : State) :
    AnsTouch [.jobs, .rings, .pages, .taken, .reqs, .path, .cnt] s (execPathSwitch q d s) := by
  unfold execPathSwitch
  try dsimp only
  repeat' first
      | with_reducible refine AnsTouch.next ?_ | with_reducible refine AnsTouch.ite ?_ ?_
      | with_reducible exact Touch.refl _ _ | with_reducible assumption | with_reducible refine Touch.onPath ?_ rfl
      | with_reducible refine (defer_touch ..).after ?_ rfl
      | with_reducible refine (State.bumpPath_touch ..).after ?_ rfl
      | with_reducible refine (finish_touch ..).after ?_ rfl
      | with_reducible refine serve_touch (fun _ _ => ?_) ?_ rfl | with_reducible refine Touch.ite ?_ ?_

theorem execMemRetire_touch (q : Fin 32) (d : Desc) (s : State) :
    AnsTouch [.jobs, .rings, .pages, .taken, .reqs, .memc, .log] s (execMemRetire q d s) := by
  unfold execMemRetire
  try dsimp only
  repeat' first
      | with_reducible refine AnsTouch.next ?_ | with_reducible refine AnsTouch.ite ?_ ?_
      | with_reducible exact Touch.refl _ _ | with_reducible assumption | with_reducible refine Touch.onMemc ?_ rfl
      | with_reducible refine (logDram_touch ..).after ?_ rfl
      | with_reducible refine (State.raise_touch ..).after ?_ rfl
      | with_reducible refine (defer_touch ..).after ?_ rfl | with_reducible refine (finish_touch ..).after ?_ rfl
      | with_reducible refine serve_touch (fun _ _ => ?_) ?_ rfl | with_reducible refine Touch.ite ?_ ?_

end Sys2Proof.Machine
end

