-- ==== Sys2Proof/Laws/RegistersTouch.lean ====
section
/-! SUPPORT. What each operation of Machine/Registers.lean may change: one lemma each, `<name>_touch`. -/

namespace Sys2Proof.Machine

open Sys2Proof

theorem readIn_touch {ps : List Part} {k : Nat} {body : State → State} {r s : State} (hb : ∀ s1, Touch ps s1 (body s1))
    (h : Touch ps r s) (hp : subParts [.chip] ps = true) : Touch ps r (readIn k body s) := by
  unfold readIn
  exact Touch.ite ((hb _).after h (subParts_refl ps)) ((State.answer_touch ..).after h hp)

theorem writeIn_touch {ps : List Part} {k : Nat} {body : State → State} {r s : State} (hb : ∀ s1, Touch ps s1 (body s1))
    (h : Touch ps r s) : Touch ps r (writeIn k body s) := by
  unfold writeIn
  exact Touch.ite ((hb _).after h (subParts_refl ps)) h

theorem ringWrite_touch (q : Fin 32) (k : Nat) (v : Word) (s : State) :
    Touch [.rings] s (ringWrite q k v s) := by
  unfold ringWrite
  try dsimp only
  repeat' first
      | with_reducible exact Touch.refl _ _ | with_reducible assumption
      | with_reducible refine (State.onRing_touch ..).after ?_ rfl | with_reducible refine Touch.ite ?_ ?_

theorem ringCommonWrite_touch (o : Nat) (v : Word) (s : State) :
    Touch [.pages, .link] s (ringCommonWrite o v s) := by
  unfold ringCommonWrite
  try dsimp only
  repeat' first
      | with_reducible exact Touch.refl _ _ | with_reducible assumption
      | with_reducible refine Touch.onHost ?_ ?_ ?_ ?_ ?_ ?_ | with_reducible refine Touch.ite ?_ ?_
      | exact Or.inl rfl | exact Or.inr fun _ => rfl | exact Or.inr fun _ => ⟨rfl, rfl⟩ | (intro _) | split
      | exact .inr fun _ => (by (try dsimp only); split <;> first | rfl | exact ⟨rfl, rfl⟩)

theorem netWrite_touch (p : Port) (o : Nat) (v : Word) (s : State) :
    Touch [.portA, .portB] s (netWrite p o v s) := by
  unfold netWrite
  try dsimp only
  repeat' first
      | with_reducible exact Touch.refl _ _ | with_reducible assumption
      | with_reducible refine (State.onPort_touch ..).after ?_ rfl

theorem State.regPut_touch (off : Nat) (v : Word) (s : State) :
    Touch [.chip, .rings, .pages, .link, .svc, .portA, .portB, .path, .time] s (State.regPut off v s) := by
  unfold State.regPut
  try dsimp only
  repeat' first
      | with_reducible exact Touch.refl _ _ | with_reducible assumption | with_reducible refine Touch.onChip ?_ ?_ rfl
      | with_reducible refine Touch.onHost ?_ ?_ ?_ ?_ ?_ ?_ | with_reducible refine Touch.onSvc ?_ ?_ ?_ ?_
      | with_reducible refine Touch.onPath ?_ rfl | with_reducible refine Touch.onTime ?_ rfl
      | exact fun _ => SvcSt.Later.of_eq rfl rfl rfl rfl rfl rfl rfl
      | exact SvcSt.Later.of_eq rfl rfl rfl rfl rfl rfl rfl | with_reducible refine (netWrite_touch ..).after ?_ rfl
      | with_reducible refine (ringCommonWrite_touch ..).after ?_ rfl
      | with_reducible refine (ringWrite_touch ..).after ?_ rfl | with_reducible refine Touch.ite ?_ ?_
      | exact Or.inl rfl | exact Or.inr fun _ => rfl | exact Or.inr fun _ => ⟨rfl, rfl⟩ | exact fun _ => rfl

theorem State.regWrite_touch (off : Nat) (v : Word) (s : State) :
    Touch [.chip, .rings, .pages, .link, .svc, .portA, .portB, .path, .time] s (State.regWrite off v s) := by
  unfold State.regWrite
  try dsimp only
  repeat' first
      | with_reducible exact Touch.refl _ _ | with_reducible assumption
      | with_reducible refine (State.regPut_touch ..).after ?_ rfl | with_reducible refine Touch.ite ?_ ?_

theorem followFed_touch (s : State) :
    Touch [.path] s (followFed s) := by
  unfold followFed
  try dsimp only
  repeat' first
      | with_reducible exact Touch.refl _ _ | with_reducible assumption | with_reducible refine Touch.onPath ?_ rfl
      | with_reducible refine Touch.ite ?_ ?_

theorem writeTopo_touch (v : Word) (s : State) :
    Touch [.path] s (writeTopo v s) := by
  unfold writeTopo
  try dsimp only
  repeat' first
      | with_reducible exact Touch.refl _ _ | with_reducible assumption | with_reducible refine Touch.onPath ?_ rfl
      | with_reducible refine (followFed_touch ..).after ?_ rfl | with_reducible refine Touch.ite ?_ ?_

theorem writeRingType_touch (v : Word) (s : State) :
    Touch [.path] s (writeRingType v s) := by
  unfold writeRingType
  try dsimp only
  repeat' first
      | with_reducible exact Touch.refl _ _ | with_reducible assumption | with_reducible refine Touch.onPath ?_ rfl
      | with_reducible refine Touch.ite ?_ ?_

theorem writeTimeCtrl_touch (v : Word) (s : State) :
    Touch [.time] s (writeTimeCtrl v s) := by
  unfold writeTimeCtrl
  try dsimp only
  repeat' first
      | with_reducible exact Touch.refl _ _ | with_reducible assumption | with_reducible refine Touch.onTime ?_ rfl

theorem writeFsw_touch (o : Nat) (v : Word) (s : State) :
    Touch [.pwr] s (writeFsw o v s) := by
  unfold writeFsw
  try dsimp only
  repeat' first
      | with_reducible exact Touch.refl _ _ | with_reducible assumption | with_reducible refine Touch.onPwr ?_ rfl
      | with_reducible refine Touch.ite ?_ ?_

theorem applySetting_touch (off : Nat) (v : Word) (s : State) :
    Touch [.chip, .rings, .pages, .link, .svc, .portA, .portB, .path, .time, .pwr] s (applySetting off v s) := by
  unfold applySetting
  try dsimp only
  repeat' first
      | with_reducible exact Touch.refl _ _ | with_reducible assumption
      | with_reducible refine (State.regPut_touch ..).after ?_ rfl
      | with_reducible refine (writeFsw_touch ..).after ?_ rfl
      | with_reducible refine (writeTimeCtrl_touch ..).after ?_ rfl
      | with_reducible refine (writeRingType_touch ..).after ?_ rfl
      | with_reducible refine (writeTopo_touch ..).after ?_ rfl
      | with_reducible refine (State.onPort_touch ..).after ?_ rfl | with_reducible refine Touch.ite ?_ ?_

end Sys2Proof.Machine
end

