-- ==== Sys2Proof/Laws/ImagesTouch.lean ====
section
/-! SUPPORT. What each operation of Machine/Images.lean may change: one lemma each, `<name>_touch`. -/

namespace Sys2Proof.Machine

open Sys2Proof

theorem placeCore_touch (n : Fin 16) (c : List Byte) (s : State) :
    Touch [.params, .cores, .mem] s (placeCore n c s) := by
  unfold placeCore
  try dsimp only
  repeat' first
      | with_reducible exact Touch.refl _ _ | with_reducible assumption
      | with_reducible refine Touch.onLife ?_ ?_ ?_ ?_ ?_ ?_ ?_ | with_reducible refine Touch.onMem ?_ ?_ rfl
      | with_reducible refine Touch.onCore ?_ rfl | exact fun _ => memFilter_wf _
      | exact fun _ k => memFilter_wf _ (memFilter_wf _ (memFilter_wf _ k)) | with_reducible refine Touch.forAll ?_ ?_
      | with_reducible refine (State.write_touch ..).after ?_ rfl | with_reducible refine Touch.ite ?_ ?_
      | exact Or.inl rfl | exact Or.inr fun _ => rfl | exact Or.inr fun _ => ⟨rfl, rfl⟩ | (intro _)

end Sys2Proof.Machine
end

