-- ==== Sys2Proof/Laws/BulkCmdsTouch.lean ====
section
/-! SUPPORT. What each operation of Machine/BulkCmds.lean may change: one lemma each, `<name>_touch`. -/

namespace Sys2Proof.Machine

open Sys2Proof

theorem State.place_touch (a : Nat) (bs : List Byte) (s : State) :
    Touch [.hostMem, .memc, .mem, .cnt] s (State.place a bs s) := by
  unfold State.place
  try dsimp only
  repeat' first
      | with_reducible exact Touch.refl _ _ | with_reducible assumption
      | with_reducible refine (State.bumpBy_touch ..).after ?_ rfl
      | with_reducible refine (State.writeAt_touch ..).after ?_ rfl | with_reducible refine Touch.ite ?_ ?_

theorem execCopy_touch (q : Fin 32) (d : Desc) (s : State) :
    AnsTouch [.jobs, .rings, .pages, .taken, .reqs] s (execCopy q d s) := by
  unfold execCopy
  try dsimp only
  repeat' first
      | with_reducible refine AnsTouch.next ?_ | with_reducible refine AnsTouch.ite ?_ ?_
      | with_reducible exact Touch.refl _ _ | with_reducible assumption
      | with_reducible refine (defer_touch ..).after ?_ rfl | with_reducible refine serve_touch (fun _ _ => ?_) ?_ rfl

theorem copyRun_touch (j : Job) (h : HostRead) (s : State) :
    Touch [.jobs, .rings, .link, .hostMem, .reqs, .memc, .mem, .cnt] s (copyRun j h s) := by
  unfold copyRun
  try dsimp only
  repeat' first
      | with_reducible exact Touch.refl _ _ | with_reducible assumption
      | with_reducible refine (State.endJob_touch ..).after ?_ rfl
      | with_reducible refine (hostReadFailed_touch ..).after ?_ rfl
      | with_reducible refine (State.place_touch ..).after ?_ rfl | with_reducible refine Touch.ite ?_ ?_

theorem execCopyComplete_touch (q : Fin 32) (h : HostRead) (s : State) :
    AnsTouch [.jobs, .rings, .link, .hostMem, .reqs, .memc, .mem, .cnt] s (execCopyComplete q h s) := by
  unfold execCopyComplete
  try dsimp only
  repeat' first
      | with_reducible refine AnsTouch.next ?_ | with_reducible refine AnsTouch.ite ?_ ?_
      | with_reducible exact Touch.refl _ _ | with_reducible assumption
      | with_reducible refine (copyRun_touch ..).after ?_ rfl | with_reducible refine Touch.ite ?_ ?_ | (intro _)
      | split

theorem execCapture_touch (q : Fin 32) (d : Desc) (s : State) :
    AnsTouch [.jobs, .rings, .pages, .taken, .reqs] s (execCapture q d s) := by
  unfold execCapture
  try dsimp only
  repeat' first
      | with_reducible refine AnsTouch.next ?_ | with_reducible refine AnsTouch.ite ?_ ?_
      | with_reducible exact Touch.refl _ _ | with_reducible assumption
      | with_reducible refine (addJob_touch ..).after ?_ rfl | with_reducible refine (finish_touch ..).after ?_ rfl
      | with_reducible refine serve_touch (fun _ _ => ?_) ?_ rfl | with_reducible refine Touch.ite ?_ ?_

theorem execPlayback_touch (q : Fin 32) (d : Desc) (s : State) :
    AnsTouch [.jobs, .rings, .pages, .taken, .reqs] s (execPlayback q d s) := by
  unfold execPlayback
  try dsimp only
  repeat' first
      | with_reducible refine AnsTouch.next ?_ | with_reducible refine AnsTouch.ite ?_ ?_
      | with_reducible exact Touch.refl _ _ | with_reducible assumption
      | with_reducible refine (addJob_touch ..).after ?_ rfl | with_reducible refine (finish_touch ..).after ?_ rfl
      | with_reducible refine serve_touch (fun _ _ => ?_) ?_ rfl | with_reducible refine Touch.ite ?_ ?_

theorem freeBytes_touch (a0 : Nat) (a1 : State) :
    Touch [.free] a1 ((freeBytes a0 a1).2) := by
  induction a0 generalizing a1 with
  | zero => exact Touch.refl _ _
  | succ k ih => exact (ih _).after (State.freshen_touch _) rfl


theorem cutCopy_touch (atUnit : Bool) (j : Job) (s : State) :
    Touch [.hostMem, .memc, .mem, .cnt, .free] s ((cutCopy atUnit j s).1) := by
  unfold cutCopy
  try dsimp only
  repeat' first
      | with_reducible exact Touch.refl _ _ | with_reducible assumption
      | with_reducible refine (State.freshen_touch _).after ?_ rfl
      | with_reducible refine (State.place_touch ..).after ?_ rfl
      | with_reducible refine (freeBytes_touch ..).after ?_ rfl | with_reducible refine Touch.ite ?_ ?_ | (intro _)
      | split

theorem cutJob_touch (atUnit : Bool) (j : Job) (s : State) :
    Touch [.hostMem, .memc, .mem, .cnt, .free] s ((cutJob atUnit j s).1) := by
  unfold cutJob
  try dsimp only
  repeat' first
      | with_reducible exact Touch.refl _ _ | with_reducible assumption
      | with_reducible refine (State.freshen_touch _).after ?_ rfl
      | with_reducible refine (State.place_touch ..).after ?_ rfl
      | with_reducible refine (cutCopy_touch ..).after ?_ rfl | with_reducible refine Touch.ite ?_ ?_ | (intro _)
      | split

theorem captureFlush_touch (a0 : Nat) (a1 : Nat) (a2 : State) :
    Touch [.jobs, .rings, .link, .hostMem, .reqs, .memc, .mem, .cnt] a2 (captureFlush a0 a1 a2) := by
  induction a0 generalizing a2 with
  | zero => exact Touch.refl _ _
  | succ k ih =>
    unfold captureFlush
    dsimp only
    repeat' first
        | with_reducible exact Touch.refl _ _ | with_reducible refine (State.endJob_touch ..).after ?_ rfl
        | with_reducible refine (State.place_touch ..).after ?_ rfl
        | with_reducible refine (State.onJob_touch ..).after ?_ rfl | with_reducible refine (ih _).after ?_ rfl
        | with_reducible refine Touch.ite ?_ ?_ | split


theorem captureFrame_touch (taps : List Word) (missed : Bool) (j : Job) (s : State) :
    Touch [.jobs, .rings, .link, .hostMem, .reqs, .memc, .mem, .cnt] s (captureFrame taps missed j s) := by
  unfold captureFrame
  try dsimp only
  repeat' first
      | with_reducible exact Touch.refl _ _ | with_reducible assumption
      | with_reducible refine (State.bump_touch ..).after ?_ rfl
      | with_reducible refine (State.onJob_touch ..).after ?_ rfl
      | with_reducible refine (captureFlush_touch ..).after ?_ rfl
      | with_reducible refine (State.endJob_touch ..).after ?_ rfl | with_reducible refine Touch.ite ?_ ?_

theorem captureTick_touch (s : State) :
    Touch [.jobs, .rings, .link, .hostMem, .reqs, .memc, .mem, .cnt] s (captureTick s) := by
  unfold captureTick
  try dsimp only
  repeat' first
      | with_reducible exact Touch.refl _ _ | with_reducible assumption | with_reducible refine Touch.forAll ?_ ?_
      | with_reducible refine (captureFrame_touch ..).after ?_ rfl | with_reducible refine Touch.ite ?_ ?_ | (intro _)

theorem flushCaptures_touch (s : State) :
    Touch [.jobs, .rings, .link, .hostMem, .reqs, .memc, .mem, .cnt] s (flushCaptures s) := by
  unfold flushCaptures
  try dsimp only
  repeat' first
      | with_reducible exact Touch.refl _ _ | with_reducible assumption | with_reducible refine Touch.forAll ?_ ?_
      | with_reducible refine (captureFlush_touch ..).after ?_ rfl | with_reducible refine Touch.ite ?_ ?_ | (intro _)

theorem execPlaybackFrameRead_touch (q : Fin 32) (tag : BitVec 16) (h : HostRead) (s : State) :
    AnsTouch [.jobs, .link] s (execPlaybackFrameRead q tag h s) := by
  unfold execPlaybackFrameRead
  try dsimp only
  repeat' first
      | with_reducible refine AnsTouch.next ?_ | with_reducible refine AnsTouch.ite ?_ ?_
      | with_reducible exact Touch.refl _ _ | with_reducible assumption
      | with_reducible refine (noteRead_touch ..).after ?_ rfl
      | with_reducible refine (State.onJob_touch ..).after ?_ rfl | with_reducible refine Touch.ite ?_ ?_ | (intro _)
      | split

theorem playFrame_touch (j : Job) (s : State) :
    Touch [.jobs, .rings, .pages, .link, .reqs, .log, .cnt] s (playFrame j s) := by
  unfold playFrame
  try dsimp only
  repeat' first
      | with_reducible exact Touch.refl _ _ | with_reducible assumption
      | with_reducible refine (State.raise_touch ..).after ?_ rfl
      | with_reducible refine (State.bump_touch ..).after ?_ rfl
      | with_reducible refine (State.onJob_touch ..).after ?_ rfl
      | with_reducible refine (State.logEntry_touch ..).after ?_ rfl
      | with_reducible refine (State.endJob_touch ..).after ?_ rfl | with_reducible refine Touch.ite ?_ ?_ | (intro _)
      | split

theorem playTick_touch (s : State) :
    Touch [.jobs, .rings, .pages, .link, .reqs, .log, .cnt] s (playTick s) := by
  unfold playTick
  try dsimp only
  repeat' first
      | with_reducible exact Touch.refl _ _ | with_reducible assumption | with_reducible refine Touch.forAll ?_ ?_
      | with_reducible refine (playFrame_touch ..).after ?_ rfl | with_reducible refine Touch.ite ?_ ?_ | (intro _)

theorem execLoadImage_touch (q : Fin 32) (d : Desc) (h : HostRead) (s : State) :
    AnsTouch [.jobs, .rings, .pages, .taken, .link, .reqs, .cores] s (execLoadImage q d h s) := by
  unfold execLoadImage
  try dsimp only
  repeat' first
      | with_reducible refine AnsTouch.next ?_ | with_reducible refine AnsTouch.ite ?_ ?_
      | with_reducible exact Touch.refl _ _ | with_reducible assumption | with_reducible refine Touch.onCore ?_ rfl
      | with_reducible refine (addJob_touch ..).after ?_ rfl | with_reducible refine (noteRead_touch ..).after ?_ rfl
      | with_reducible refine (finish_touch ..).after ?_ rfl
      | with_reducible refine serveAt_touch (fun _ _ => ?_) ?_ rfl | with_reducible refine Touch.ite ?_ ?_ | (intro _)
      | split

theorem placeCopy_touch (c : List Byte) (s : State) :
    Touch [.svc, .mem, .cnt] s (placeCopy c s) := by
  unfold placeCopy
  try dsimp only
  repeat' first
      | with_reducible exact Touch.refl _ _ | with_reducible assumption
      | with_reducible refine Touch.onSvc ?_ ?_ ?_ ?_ | exact fun _ => SvcSt.Later.of_eq rfl rfl rfl rfl rfl rfl rfl
      | exact SvcSt.Later.of_eq rfl rfl rfl rfl rfl rfl rfl
      | with_reducible refine (State.write_touch ..).after ?_ rfl
      | with_reducible refine (State.bumpBy_touch ..).after ?_ rfl | with_reducible refine Touch.ite ?_ ?_
      | exact Or.inl rfl | exact Or.inr fun _ => rfl

theorem execImagePlaced_touch (q : Fin 32) (s : State) :
    AnsTouch [.params, .jobs, .rings, .link, .reqs, .svc, .cores, .mem, .cnt] s (execImagePlaced q s) := by
  unfold execImagePlaced
  try dsimp only
  repeat' first
      | with_reducible refine AnsTouch.next ?_ | with_reducible refine AnsTouch.ite ?_ ?_
      | with_reducible exact Touch.refl _ _ | with_reducible assumption
      | with_reducible refine (State.endJob_touch ..).after ?_ rfl
      | with_reducible refine (placeCopy_touch ..).after ?_ rfl
      | with_reducible refine (placeCore_touch ..).after ?_ rfl | with_reducible refine Touch.ite ?_ ?_ | (intro _)
      | split

theorem beginTest_touch (q : Fin 32) (d : Desc) (idx : Word) (c : Fin 4) (polarity : Bool) (repeats : Nat) (s : State) :
    Touch [.jobs, .pwr] s (beginTest q d idx c polarity repeats s) := by
  unfold beginTest
  try dsimp only
  repeat' first
      | with_reducible exact Touch.refl _ _ | with_reducible assumption
      | with_reducible refine (addJob_touch ..).after ?_ rfl
      | with_reducible refine (State.onPch_touch ..).after ?_ rfl

theorem execPolarityTest_touch (q : Fin 32) (d : Desc) (s : State) :
    AnsTouch [.jobs, .rings, .pages, .taken, .reqs, .pwr] s (execPolarityTest q d s) := by
  unfold execPolarityTest
  try dsimp only
  repeat' first
      | with_reducible refine AnsTouch.next ?_ | with_reducible refine AnsTouch.ite ?_ ?_
      | with_reducible exact Touch.refl _ _ | with_reducible assumption
      | with_reducible refine (beginTest_touch ..).after ?_ rfl | with_reducible refine (finish_touch ..).after ?_ rfl
      | with_reducible refine onFunction_touch (fun _ _ => ?_) ?_ rfl
      | with_reducible refine serve_touch (fun _ _ => ?_) ?_ rfl | with_reducible refine Touch.ite ?_ ?_ | (intro _)
      | split

theorem execLoadTest_touch (q : Fin 32) (d : Desc) (s : State) :
    AnsTouch [.jobs, .rings, .pages, .taken, .reqs, .pwr] s (execLoadTest q d s) := by
  unfold execLoadTest
  try dsimp only
  repeat' first
      | with_reducible refine AnsTouch.next ?_ | with_reducible refine AnsTouch.ite ?_ ?_
      | with_reducible exact Touch.refl _ _ | with_reducible assumption
      | with_reducible refine (beginTest_touch ..).after ?_ rfl | with_reducible refine (finish_touch ..).after ?_ rfl
      | with_reducible refine onFunction_touch (fun _ _ => ?_) ?_ rfl
      | with_reducible refine serve_touch (fun _ _ => ?_) ?_ rfl | with_reducible refine Touch.ite ?_ ?_ | (intro _)
      | split

theorem execPolarityImpulse_touch (c : Fin 4) (sign : BitVec 8) (delay : BitVec 24) (s : State) :
    AnsTouch [.pwr] s (execPolarityImpulse c sign delay s) := by
  unfold execPolarityImpulse
  try dsimp only
  repeat' first
      | with_reducible refine AnsTouch.next ?_ | with_reducible refine AnsTouch.ite ?_ ?_
      | with_reducible exact Touch.refl _ _ | with_reducible assumption
      | with_reducible refine (State.onPch_touch ..).after ?_ rfl | with_reducible refine Touch.ite ?_ ?_ | (intro _)
      | split

theorem endMeasure_touch (c : Fin 4) (t : TestRun) (j : Job) (bytes : List Byte) (done : Nat) (s : State) :
    Touch [.jobs, .rings, .link, .hostMem, .reqs, .pwr, .memc, .mem] s (endMeasure c t j bytes done s) := by
  unfold endMeasure
  try dsimp only
  repeat' first
      | with_reducible exact Touch.refl _ _ | with_reducible assumption
      | with_reducible refine (State.endJob_touch ..).after ?_ rfl
      | with_reducible refine (writeTest_touch ..).after ?_ rfl
      | with_reducible refine (State.onPch_touch ..).after ?_ rfl | with_reducible refine Touch.ite ?_ ?_

theorem execPolarityResult_touch (c : Fin 4) (s : State) :
    AnsTouch [.jobs, .rings, .link, .hostMem, .reqs, .pwr, .memc, .mem, .free] s (execPolarityResult c s) := by
  unfold execPolarityResult
  try dsimp only
  repeat' first
      | with_reducible refine AnsTouch.next ?_ | with_reducible refine AnsTouch.ite ?_ ?_
      | with_reducible exact Touch.refl _ _ | with_reducible assumption
      | with_reducible refine (State.freshen_touch _).after ?_ rfl
      | with_reducible refine (endMeasure_touch ..).after ?_ rfl | with_reducible refine Touch.ite ?_ ?_ | (intro _)
      | split

theorem execLoadTestResult_touch (c : Fin 4) (rec : List Byte) (s : State) :
    AnsTouch [.jobs, .rings, .link, .hostMem, .reqs, .pwr, .memc, .mem] s (execLoadTestResult c rec s) := by
  unfold execLoadTestResult
  try dsimp only
  repeat' first
      | with_reducible refine AnsTouch.next ?_ | with_reducible refine AnsTouch.ite ?_ ?_
      | with_reducible exact Touch.refl _ _ | with_reducible assumption
      | with_reducible refine (endMeasure_touch ..).after ?_ rfl | with_reducible refine Touch.ite ?_ ?_ | (intro _)
      | split

theorem flushTests_touch (s : State) :
    Touch [.jobs, .rings, .link, .hostMem, .reqs, .memc, .mem] s (flushTests s) := by
  unfold flushTests
  try dsimp only
  repeat' first
      | with_reducible exact Touch.refl _ _ | with_reducible assumption | with_reducible refine Touch.forAll ?_ ?_
      | with_reducible refine (writeTest_touch ..).after ?_ rfl
      | with_reducible refine (State.endJob_touch ..).after ?_ rfl | with_reducible refine Touch.ite ?_ ?_ | (intro _)

theorem testTick_touch (c : Fin 4) (s : State) :
    Touch [.jobs, .rings, .link, .reqs, .pwr] s (testTick c s) := by
  unfold testTick
  try dsimp only
  repeat' first
      | with_reducible exact Touch.refl _ _ | with_reducible assumption
      | with_reducible refine (State.endJob_touch ..).after ?_ rfl
      | with_reducible refine (State.onPch_touch ..).after ?_ rfl | with_reducible refine Touch.ite ?_ ?_ | (intro _)
      | split

end Sys2Proof.Machine
end

