-- ==== Sys2Proof/Laws/RingCmdsTouch.lean ====
section
/-! SUPPORT. What each operation of Machine/RingCmds.lean may change: one lemma each, `<name>_touch`. -/

namespace Sys2Proof.Machine

open Sys2Proof

theorem enableRing_touch (q : Fin 32) (s : State) :
    Touch [.rings, .pages] s (enableRing q s) := by
  unfold enableRing
  try dsimp only
  repeat' first
      | with_reducible exact Touch.refl _ _ | with_reducible assumption
      | with_reducible refine (State.touchPage_touch ..).after ?_ rfl
      | with_reducible refine (ringError_touch ..).after ?_ rfl
      | with_reducible refine (State.onRing_touch ..).after ?_ rfl
      | with_reducible refine (State.onPage_touch ..).after ?_ rfl | with_reducible refine Touch.ite ?_ ?_

theorem execRingEnable_touch (q : Fin 32) (v : Word) (s : State) :
    AnsTouch [.rings, .pages] s (execRingEnable q v s) := by
  unfold execRingEnable
  try dsimp only
  repeat' first
      | with_reducible refine AnsTouch.next ?_ | with_reducible refine AnsTouch.ite ?_ ?_
      | with_reducible exact Touch.refl _ _ | with_reducible assumption
      | with_reducible refine (State.onRing_touch ..).after ?_ rfl
      | with_reducible refine (enableRing_touch ..).after ?_ rfl | with_reducible refine Touch.ite ?_ ?_

theorem drainRing_touch (q : Fin 32) (s : State) :
    Touch [.jobs, .acts, .rings, .taken, .link, .hostMem, .reqs, .memc, .mem, .cnt, .free] s (drainRing q s) := by
  unfold drainRing
  try dsimp only
  repeat' first
      | with_reducible exact Touch.refl _ _ | with_reducible assumption
      | with_reducible refine Touch.onHost ?_ ?_ ?_ ?_ ?_ ?_ | with_reducible refine Touch.forAll ?_ ?_
      | with_reducible refine (State.endActions_touch ..).after ?_ rfl
      | with_reducible refine (finish_touch ..).after ?_ rfl
      | with_reducible refine (State.endJob_touch ..).after ?_ rfl
      | with_reducible refine (cutJob_touch ..).after ?_ rfl
      | with_reducible refine (State.onRing_touch ..).after ?_ rfl | with_reducible refine Touch.ite ?_ ?_
      | exact Or.inl rfl | exact Or.inr fun _ => rfl | exact Or.inr fun _ => ⟨rfl, rfl⟩ | (intro _)

theorem execRingDisable_touch (q : Fin 32) (v : Word) (s : State) :
    AnsTouch [.jobs, .acts, .rings, .pages, .taken, .link, .hostMem, .reqs, .memc, .mem, .cnt, .free] s (execRingDisable q v s) := by
  unfold execRingDisable
  try dsimp only
  repeat' first
      | with_reducible refine AnsTouch.next ?_ | with_reducible refine AnsTouch.ite ?_ ?_
      | with_reducible exact Touch.refl _ _ | with_reducible assumption
      | with_reducible refine (drainRing_touch ..).after ?_ rfl
      | with_reducible refine (State.touchPage_touch ..).after ?_ rfl | with_reducible refine Touch.ite ?_ ?_

theorem execRingDrainComplete_touch (q : Fin 32) (s : State) :
    AnsTouch [.rings] s (execRingDrainComplete q s) := by
  unfold execRingDrainComplete
  try dsimp only
  repeat' first
      | with_reducible refine AnsTouch.next ?_ | with_reducible refine AnsTouch.ite ?_ ?_
      | with_reducible exact Touch.refl _ _ | with_reducible assumption
      | with_reducible refine (endDrain_touch ..).after ?_ rfl

theorem issueDoorbell_touch (p : PageSet) (s : State) :
    Touch [.pages] s (issueDoorbell p s) := by
  unfold issueDoorbell
  try dsimp only
  repeat' first
      | with_reducible exact Touch.refl _ _ | with_reducible assumption
      | with_reducible refine (State.onPage_touch ..).after ?_ rfl

theorem execDoorbellFetch_touch (s : State) :
    AnsTouch [.pages, .link] s (execDoorbellFetch s) := by
  unfold execDoorbellFetch
  try dsimp only
  repeat' first
      | with_reducible refine AnsTouch.next ?_ | with_reducible refine AnsTouch.ite ?_ ?_
      | with_reducible exact Touch.refl _ _ | with_reducible assumption
      | with_reducible refine Touch.onHost ?_ ?_ ?_ ?_ ?_ ?_
      | with_reducible refine (issueDoorbell_touch ..).after ?_ rfl | with_reducible refine Touch.ite ?_ ?_
      | exact Or.inl rfl | exact Or.inr fun _ => rfl | exact Or.inr fun _ => ⟨rfl, rfl⟩

theorem execTarragonDoorbellFetch_touch (s : State) :
    AnsTouch [.pages] s (execTarragonDoorbellFetch s) := by
  unfold execTarragonDoorbellFetch
  try dsimp only
  repeat' first
      | with_reducible refine AnsTouch.next ?_ | with_reducible refine AnsTouch.ite ?_ ?_
      | with_reducible exact Touch.refl _ _ | with_reducible assumption
      | with_reducible refine (issueDoorbell_touch ..).after ?_ rfl | with_reducible refine Touch.ite ?_ ?_

theorem execDoorbellReadComplete_touch (set : PageSet) (h : HostRead) (s : State) :
    AnsTouch [.rings, .pages, .link] s (execDoorbellReadComplete set h s) := by
  unfold execDoorbellReadComplete
  try dsimp only
  repeat' first
      | with_reducible refine AnsTouch.next ?_ | with_reducible refine AnsTouch.ite ?_ ?_
      | with_reducible exact Touch.refl _ _ | with_reducible assumption
      | with_reducible refine (State.onPage_touch ..).after ?_ rfl
      | with_reducible refine (hostReadFailed_touch ..).after ?_ rfl
      | with_reducible refine (doorbellDone_touch ..).after ?_ rfl | with_reducible refine Touch.ite ?_ ?_ | (intro _)
      | split

theorem execDescriptorReadComplete_touch (q : Fin 32) (d : Option Desc) (s : State) :
    AnsTouch [.rings, .pages, .link] s (execDescriptorReadComplete q d s) := by
  unfold execDescriptorReadComplete
  try dsimp only
  repeat' first
      | with_reducible refine AnsTouch.next ?_ | with_reducible refine AnsTouch.ite ?_ ?_
      | with_reducible exact Touch.refl _ _ | with_reducible assumption
      | with_reducible refine (hostReadFailed_touch ..).after ?_ rfl
      | with_reducible refine (ringError_touch ..).after ?_ rfl
      | with_reducible refine (State.onRing_touch ..).after ?_ rfl | with_reducible refine Touch.ite ?_ ?_ | (intro _)
      | split

theorem execCompletionRecordWrite_touch (q : Fin 32) (s : State) :
    AnsTouch [.rings, .pages, .link, .hostMem, .memc, .mem] s (execCompletionRecordWrite q s) := by
  unfold execCompletionRecordWrite
  try dsimp only
  repeat' first
      | with_reducible refine AnsTouch.next ?_ | with_reducible refine AnsTouch.ite ?_ ?_
      | with_reducible exact Touch.refl _ _ | with_reducible assumption
      | with_reducible refine (writeRecord_touch ..).after ?_ rfl

theorem execStatusPageWrite_touch (set : PageSet) (s : State) :
    AnsTouch [.jobs, .rings, .pages, .link, .hostMem, .reqs, .memc, .mem] s (execStatusPageWrite set s) := by
  unfold execStatusPageWrite
  try dsimp only
  repeat' first
      | with_reducible refine AnsTouch.next ?_ | with_reducible refine AnsTouch.ite ?_ ?_
      | with_reducible exact Touch.refl _ _ | with_reducible assumption
      | with_reducible refine (writePage_touch ..).after ?_ rfl

theorem execHostReadFail_touch (addr : DWord) (s : State) :
    AnsTouch [.link] s (execHostReadFail addr s) := by
  unfold execHostReadFail
  try dsimp only
  repeat' first
      | with_reducible refine AnsTouch.next ?_ | with_reducible refine AnsTouch.ite ?_ ?_
      | with_reducible exact Touch.refl _ _ | with_reducible assumption
      | with_reducible refine (hostReadFailed_touch ..).after ?_ rfl | with_reducible refine Touch.ite ?_ ?_

end Sys2Proof.Machine
end

