-- ==== Sys2Proof/Laws/BootTouch.lean ====
section
/-! SUPPORT. What each operation of Machine/Boot.lean may change: one lemma each, `<name>_touch`. -/

namespace Sys2Proof.Machine

open Sys2Proof

theorem coldState_touch (s : State) :
    Touch [.chip, .funcs, .params, .writes, .jobs, .acts, .rings, .pages, .taken, .link, .reqs, .svc, .portA, .portB, .path, .time, .strm, .lov, .cores, .loc, .pwr, .memc, .mem, .log, .cnt, .edges] s (coldState s) := by
  refine ⟨rfl, fun p hp => ?_, fun p => ?_⟩
  · cases p <;> first | exact absurd (by decide) hp | (dsimp only [Part.same, coldState]; done)
  · cases p <;> dsimp only [Part.later, coldState, SvcSt.kept] <;> first
      | exact trivial | exact SvcSt.Later.of_eq rfl rfl rfl rfl rfl rfl rfl
      | exact fun k => ⟨Nat.le_refl _, k⟩ | exact memFilter_wf _ | exact fun _ e he => absurd he (List.not_mem_nil)


theorem applyKind4_touch (s : State) :
    Touch [.chip, .rings, .pages, .link, .svc, .portA, .portB, .path, .time, .pwr] s (applyKind4 s) := by
  unfold applyKind4
  try dsimp only
  repeat' first
      | with_reducible exact Touch.refl _ _ | with_reducible assumption | with_reducible refine Touch.forAll ?_ ?_
      | with_reducible refine (applySetting_touch ..).after ?_ rfl | with_reducible refine Touch.ite ?_ ?_ | (intro _)

theorem checkPatch_touch (s : State) :
    Touch [.chip, .pages, .svc, .log, .free] s (checkPatch s) := by
  unfold checkPatch
  try dsimp only
  repeat' first
      | with_reducible exact Touch.refl _ _ | with_reducible assumption | with_reducible refine Touch.onChip ?_ ?_ rfl
      | with_reducible refine Touch.onSvc ?_ ?_ ?_ ?_ | with_reducible refine (State.freshen_touch _).after ?_ rfl
      | exact fun _ => SvcSt.Later.of_eq rfl rfl rfl rfl rfl rfl rfl
      | exact SvcSt.Later.of_eq rfl rfl rfl rfl rfl rfl rfl
      | with_reducible refine (State.logEntry_touch ..).after ?_ rfl | with_reducible refine Touch.ite ?_ ?_
      | exact Or.inl rfl | exact Or.inr fun _ => rfl | exact Or.inr fun _ => ⟨rfl, rfl⟩ | exact fun _ => rfl

theorem applyService_touch (s : State) :
    Touch [.params] s (applyService s) := by
  unfold applyService
  try dsimp only
  repeat' first
      | with_reducible exact Touch.refl _ _ | with_reducible assumption | with_reducible refine Touch.forAll ?_ ?_
      | with_reducible refine (State.setParam_touch ..).after ?_ rfl | with_reducible refine Touch.ite ?_ ?_
      | (intro _)

theorem clearTarr_touch (s : State) :
    Touch [.memc, .mem] s (clearTarr s) := by
  unfold clearTarr
  try dsimp only
  repeat' first
      | with_reducible exact Touch.refl _ _ | with_reducible assumption | with_reducible refine Touch.onMem ?_ ?_ rfl
      | exact fun _ => memFilter_wf _ | exact fun _ k => memFilter_wf _ (memFilter_wf _ (memFilter_wf _ k))
      | with_reducible refine (State.unpoison_touch ..).after ?_ rfl

theorem startHostless_touch (s : State) :
    Touch [.rings, .svc, .memc, .mem] s (startHostless s) := by
  unfold startHostless
  try dsimp only
  repeat' first
      | with_reducible exact Touch.refl _ _ | with_reducible assumption
      | with_reducible refine Touch.onSvc ?_ ?_ ?_ ?_ | exact fun _ => SvcSt.Later.of_eq rfl rfl rfl rfl rfl rfl rfl
      | exact SvcSt.Later.of_eq rfl rfl rfl rfl rfl rfl rfl | with_reducible refine Touch.forAll ?_ ?_
      | with_reducible refine (clearTarr_touch ..).after ?_ rfl
      | with_reducible refine (State.onRing_touch ..).after ?_ rfl | with_reducible refine Touch.ite ?_ ?_
      | exact Or.inl rfl | exact Or.inr fun _ => rfl | exact Or.inr fun _ => ⟨rfl, rfl⟩ | (intro _)

theorem bootStages_touch (strap : BitVec 2) (cold : Bool) (s : State) :
    Touch [.chip, .funcs, .params, .rings, .pages, .link, .svc, .portA, .portB, .path, .time, .pwr, .memc, .mem, .log, .free] s (bootStages strap cold s) := by
  unfold bootStages
  try dsimp only
  repeat' first
      | with_reducible exact Touch.refl _ _ | with_reducible assumption | with_reducible refine Touch.onChip ?_ ?_ rfl
      | with_reducible refine Touch.onSvc ?_ ?_ ?_ ?_ | with_reducible refine Touch.onPath ?_ rfl
      | with_reducible refine Touch.onTime ?_ rfl | with_reducible refine Touch.onLog ?_ ?_ rfl
      | exact fun _ => SvcSt.Later.of_eq rfl rfl rfl rfl rfl rfl rfl
      | exact SvcSt.Later.of_eq rfl rfl rfl rfl rfl rfl rfl | exact fun _ => LogSt.Later.of_eq rfl
      | with_reducible refine Touch.forAll ?_ ?_ | with_reducible refine (followFed_touch ..).after ?_ rfl
      | with_reducible refine (reloadCoil_touch ..).after ?_ rfl
      | with_reducible refine (checkPatch_touch ..).after ?_ rfl
      | with_reducible refine (applyService_touch ..).after ?_ rfl
      | with_reducible refine (startHostless_touch ..).after ?_ rfl
      | with_reducible refine (applyKind4_touch ..).after ?_ rfl
      | with_reducible refine (State.logEntry_touch ..).after ?_ rfl
      | with_reducible refine (State.setLife_touch ..).after ?_ rfl | with_reducible refine Touch.ite ?_ ?_
      | exact Or.inl rfl | exact Or.inr fun _ => rfl | exact Or.inr fun _ => ⟨rfl, rfl⟩ | exact fun _ => rfl
      | (intro _)

theorem powerUp_touch (strap : BitVec 2) (s : State) :
    Touch [.chip, .funcs, .params, .writes, .jobs, .acts, .rings, .pages, .taken, .link, .reqs, .svc, .portA, .portB, .path, .time, .strm, .lov, .cores, .loc, .pwr, .memc, .mem, .log, .cnt, .edges, .free] s (powerUp strap s) := by
  unfold powerUp
  try dsimp only
  repeat' first
      | with_reducible exact Touch.refl _ _ | with_reducible assumption | with_reducible refine Touch.onChip ?_ ?_ rfl
      | with_reducible refine (coldState_touch ..).after ?_ rfl
      | with_reducible refine (bootStages_touch ..).after ?_ rfl | with_reducible refine Touch.ite ?_ ?_
      | exact fun _ => rfl

theorem memMapping_touch (spare : Fin 4) (masks : Vector Word 4) (s : State) :
    Touch [.memc, .mem] s (memMapping spare masks s) := by
  unfold memMapping
  try dsimp only
  repeat' first
      | with_reducible exact Touch.refl _ _ | with_reducible assumption | with_reducible refine Touch.onMemc ?_ rfl
      | with_reducible refine Touch.onMem ?_ ?_ rfl | exact fun _ => memFilter_wf _
      | exact fun _ k => memFilter_wf _ (memFilter_wf _ (memFilter_wf _ k)) | with_reducible refine Touch.ite ?_ ?_

theorem configMem_touch (s : State) :
    Touch [.pages, .memc, .mem, .log] s (configMem s) := by
  unfold configMem
  try dsimp only
  repeat' first
      | with_reducible exact Touch.refl _ _ | with_reducible assumption
      | with_reducible refine (logDram_touch ..).after ?_ rfl
      | with_reducible refine (memMapping_touch ..).after ?_ rfl | with_reducible refine Touch.ite ?_ ?_ | (intro _)
      | split

theorem paramMem_touch (s : State) :
    Touch [.chip, .funcs, .params, .live, .writes, .jobs, .acts, .rings, .link, .reqs, .svc, .portA, .portB, .path, .time, .strm, .lov, .cores, .loc, .pwr, .cnt, .edges, .free] s (paramMem s) := by
  unfold paramMem
  try dsimp only
  repeat' first
      | with_reducible exact Touch.refl _ _ | with_reducible assumption | with_reducible refine Touch.forAll ?_ ?_
      | with_reducible refine (applyParam_touch ..).after ?_ rfl | with_reducible refine Touch.ite ?_ ?_ | (intro _)

theorem resumeMigration_touch (s : State) :
    Touch [.memc] s (resumeMigration s) := by
  unfold resumeMigration
  try dsimp only
  repeat' first
      | with_reducible exact Touch.refl _ _ | with_reducible assumption | with_reducible refine Touch.onMemc ?_ rfl
      | with_reducible refine Touch.ite ?_ ?_ | (intro _) | split

theorem dramUp_touch (s : State) :
    Touch [.chip, .funcs, .params, .live, .writes, .jobs, .acts, .rings, .pages, .link, .reqs, .svc, .portA, .portB, .path, .time, .strm, .lov, .cores, .loc, .pwr, .memc, .mem, .log, .cnt, .edges, .free] s (dramUp s) := by
  unfold dramUp
  try dsimp only
  repeat' first
      | with_reducible exact Touch.refl _ _ | with_reducible assumption | with_reducible refine Touch.onChip ?_ ?_ rfl
      | with_reducible refine Touch.onSvc ?_ ?_ ?_ ?_ | with_reducible refine Touch.onMemc ?_ rfl
      | exact fun _ => SvcSt.Later.of_eq rfl rfl rfl rfl rfl rfl rfl
      | exact SvcSt.Later.of_eq rfl rfl rfl rfl rfl rfl rfl
      | with_reducible refine (State.setLife_touch ..).after ?_ rfl
      | with_reducible refine (resumeMigration_touch ..).after ?_ rfl
      | with_reducible refine (configMem_touch ..).after ?_ rfl
      | with_reducible refine (paramMem_touch ..).after ?_ rfl | with_reducible refine Touch.ite ?_ ?_
      | exact Or.inl rfl | exact Or.inr fun _ => rfl | exact Or.inr fun _ => ⟨rfl, rfl⟩ | exact fun _ => rfl

theorem autoBegin_touch (s : State) :
    Touch [.chip] s (autoBegin s) := by
  unfold autoBegin
  try dsimp only
  repeat' first
      | with_reducible exact Touch.refl _ _ | with_reducible assumption | with_reducible refine Touch.onChip ?_ ?_ rfl
      | with_reducible refine Touch.ite ?_ ?_ | exact fun _ => rfl

theorem autoWait_touch (s : State) :
    Touch [.svc] s (autoWait s) := by
  unfold autoWait
  try dsimp only
  repeat' first
      | with_reducible exact Touch.refl _ _ | with_reducible assumption
      | with_reducible refine Touch.onSvc ?_ ?_ ?_ ?_ | exact fun _ => SvcSt.Later.of_eq rfl rfl rfl rfl rfl rfl rfl
      | exact SvcSt.Later.of_eq rfl rfl rfl rfl rfl rfl rfl | with_reducible refine Touch.ite ?_ ?_ | exact Or.inl rfl
      | exact Or.inr fun _ => rfl

theorem autoConfig_touch (e : SetEntry) (f : Func) (s : State) :
    Touch [.chip, .funcs, .pages, .svc, .strm, .lov, .pwr, .log] s (autoConfig e f s) := by
  unfold autoConfig
  try dsimp only
  repeat' first
      | with_reducible exact Touch.refl _ _ | with_reducible assumption
      | with_reducible refine (State.setLife_touch ..).after ?_ rfl
      | with_reducible refine (acceptBlock_touch ..).after ?_ rfl
      | with_reducible refine (wakeHv_touch ..).after ?_ rfl | with_reducible refine (autoWait_touch ..).after ?_ rfl
      | with_reducible refine (autoRefuse_touch ..).after ?_ rfl
      | with_reducible refine (autoNext_touch ..).after ?_ rfl | with_reducible refine Touch.ite ?_ ?_

theorem autoWrites_touch (e : SetEntry) (s : State) :
    Touch [.chip, .funcs, .params, .live, .writes, .jobs, .acts, .rings, .pages, .link, .reqs, .svc, .portA, .portB, .path, .time, .strm, .lov, .cores, .loc, .pwr, .log, .cnt, .edges, .free] s (autoWrites e s) := by
  unfold autoWrites
  try dsimp only
  repeat' first
      | with_reducible exact Touch.refl _ _ | with_reducible assumption | with_reducible refine Touch.forAll ?_ ?_
      | with_reducible refine (applyParam_touch ..).after ?_ rfl
      | with_reducible refine (State.bump_touch ..).after ?_ rfl
      | with_reducible refine (autoRefuse_touch ..).after ?_ rfl
      | with_reducible refine (autoNext_touch ..).after ?_ rfl | with_reducible refine Touch.ite ?_ ?_ | (intro _)

theorem autoStart_touch (e : SetEntry) (f : Func) (s : State) :
    Touch [.chip, .funcs, .pages, .svc, .cores, .log, .cnt] s (autoStart e f s) := by
  unfold autoStart
  try dsimp only
  repeat' first
      | with_reducible exact Touch.refl _ _ | with_reducible assumption
      | with_reducible refine (wakeHv_touch ..).after ?_ rfl | with_reducible refine (askStart_touch ..).after ?_ rfl
      | with_reducible refine (noteStart_touch ..).after ?_ rfl
      | with_reducible refine (autoWait_touch ..).after ?_ rfl
      | with_reducible refine (autoRefuse_touch ..).after ?_ rfl
      | with_reducible refine (autoNext_touch ..).after ?_ rfl | with_reducible refine Touch.ite ?_ ?_

theorem autoOne_touch (s : State) :
    Touch [.chip, .funcs, .params, .live, .writes, .jobs, .acts, .rings, .pages, .link, .reqs, .svc, .portA, .portB, .path, .time, .strm, .lov, .cores, .loc, .pwr, .log, .cnt, .edges, .free] s (autoOne s) := by
  unfold autoOne
  try dsimp only
  repeat' first
      | with_reducible exact Touch.refl _ _ | with_reducible assumption
      | with_reducible refine (autoStart_touch ..).after ?_ rfl
      | with_reducible refine (autoWrites_touch ..).after ?_ rfl
      | with_reducible refine (autoConfig_touch ..).after ?_ rfl
      | with_reducible refine (autoRefuse_touch ..).after ?_ rfl
      | with_reducible refine (autoNext_touch ..).after ?_ rfl | with_reducible refine Touch.ite ?_ ?_ | (intro _)
      | split

theorem autoRun_touch (a0 : Nat) (a1 : State) :
    Touch [.chip, .funcs, .params, .live, .writes, .jobs, .acts, .rings, .pages, .link, .reqs, .svc, .portA, .portB, .path, .time, .strm, .lov, .cores, .loc, .pwr, .log, .cnt, .edges, .free] a1 (autoRun a0 a1) := by
  induction a0 generalizing a1 with
  | zero => exact Touch.refl _ _
  | succ k ih =>
    unfold autoRun
    dsimp only
    exact Touch.ite ((autoOne_touch ..).after (Touch.refl _ _) rfl) ((ih _).after ((autoOne_touch ..).after (Touch.refl _ _) rfl) rfl)


theorem autoTick_touch (s : State) :
    Touch [.chip, .funcs, .params, .live, .writes, .jobs, .acts, .rings, .pages, .link, .reqs, .svc, .portA, .portB, .path, .time, .strm, .lov, .cores, .loc, .pwr, .log, .cnt, .edges, .free] s (autoTick s) := by
  unfold autoTick
  try dsimp only
  repeat' first
      | with_reducible exact Touch.refl _ _ | with_reducible assumption
      | with_reducible refine (autoRun_touch ..).after ?_ rfl | with_reducible refine Touch.ite ?_ ?_

theorem autoWakeFail_touch (s : State) :
    Touch [.funcs, .pages, .svc, .log] s (autoWakeFail s) := by
  unfold autoWakeFail
  try dsimp only
  repeat' first
      | with_reducible exact Touch.refl _ _ | with_reducible assumption
      | with_reducible refine (State.onFunc_touch ..).after ?_ rfl
      | with_reducible refine (autoRefuse_touch ..).after ?_ rfl
      | with_reducible refine (autoNext_touch ..).after ?_ rfl | with_reducible refine Touch.ite ?_ ?_ | (intro _)
      | split

theorem restTick_touch (s : State) :
    Touch [.chip] s (restTick s) := by
  unfold restTick
  try dsimp only
  repeat' first
      | with_reducible exact Touch.refl _ _ | with_reducible assumption | with_reducible refine Touch.onChip ?_ ?_ rfl
      | with_reducible refine Touch.ite ?_ ?_ | exact fun _ => rfl

theorem bootDone_touch (s : State) :
    Touch [.chip, .svc] s (bootDone s) := by
  unfold bootDone
  dsimp only
  refine Touch.ite (Touch.refl _ _) (Touch.onSvc (Touch.onChip (Touch.refl _ _) (fun _ => rfl) rfl) (.inr fun _ => rfl) (.inl rfl)
    (fun _ => SvcSt.Later.of_minima rfl rfl rfl rfl rfl rfl (minima_vmod ?_ (minima_vmod ?_ fun _ => Nat.le_refl _))))
  all_goals
    intro m
    split
    · split <;> omega
    · exact Nat.le_refl _


theorem beginReset_touch (causeBit : Nat) (s : State) :
    Touch [.chip, .funcs, .link, .svc] s (beginReset causeBit s) := by
  unfold beginReset
  try dsimp only
  repeat' first
      | with_reducible exact Touch.refl _ _ | with_reducible assumption | with_reducible refine Touch.onChip ?_ ?_ rfl
      | with_reducible refine Touch.onHost ?_ ?_ ?_ ?_ ?_ ?_ | with_reducible refine Touch.onSvc ?_ ?_ ?_ ?_
      | exact fun _ => SvcSt.Later.of_eq rfl rfl rfl rfl rfl rfl rfl
      | exact SvcSt.Later.of_eq rfl rfl rfl rfl rfl rfl rfl | with_reducible refine Touch.forAll ?_ ?_
      | with_reducible refine (askStop_touch ..).after ?_ rfl | with_reducible refine Touch.ite ?_ ?_
      | exact Or.inl rfl | exact Or.inr fun _ => rfl | exact Or.inr fun _ => ⟨rfl, rfl⟩ | exact fun _ => rfl
      | (intro _)

theorem resetSage_touch (s : State) :
    Touch [.funcs] s (resetSage s) := by
  unfold resetSage
  try dsimp only
  repeat' first
      | with_reducible exact Touch.refl _ _ | with_reducible assumption
      | with_reducible refine (askStop_touch ..).after ?_ rfl | with_reducible refine Touch.ite ?_ ?_

theorem resetTimeout_touch (s : State) :
    Touch [.funcs, .params, .jobs, .acts, .rings, .link, .reqs, .portA, .portB, .path, .time, .strm, .lov, .cores, .loc, .pwr, .memc, .mem, .cnt] s (resetTimeout s) := by
  unfold resetTimeout
  try dsimp only
  repeat' first
      | with_reducible exact Touch.refl _ _ | with_reducible assumption | with_reducible refine Touch.forAll ?_ ?_
      | with_reducible refine (State.endStarts_touch ..).after ?_ rfl
      | with_reducible refine (State.onFunc_touch ..).after ?_ rfl
      | with_reducible refine (State.endStops_touch ..).after ?_ rfl
      | with_reducible refine (enterStopped_touch ..).after ?_ rfl
      | with_reducible refine (fastStop_touch ..).after ?_ rfl | with_reducible refine Touch.ite ?_ ?_ | (intro _)

theorem clearIslands_touch (s : State) :
    Touch [.chip, .funcs, .params, .writes, .jobs, .acts, .rings, .pages, .taken, .link, .reqs, .svc, .portA, .portB, .path, .time, .strm, .lov, .cores, .loc, .pwr, .memc, .mem, .cnt, .edges] s (clearIslands s) := by
  refine ⟨rfl, fun p hp => ?_, fun p => ?_⟩
  · cases p <;> first | exact absurd (by decide) hp | exact rfl | exact ⟨rfl, rfl⟩
  · cases p <;> first
      | exact trivial | exact rfl | exact SvcSt.Later.of_eq rfl rfl rfl rfl rfl rfl rfl
      | exact fun k => ⟨Nat.le_refl _, k⟩ | exact memFilter_wf _ | exact CntSt.inRange_filter


theorem resetIslands_touch (strap : BitVec 2) (s : State) :
    Touch [.chip, .funcs, .params, .writes, .jobs, .acts, .rings, .pages, .taken, .link, .reqs, .svc, .portA, .portB, .path, .time, .strm, .lov, .cores, .loc, .pwr, .memc, .mem, .log, .cnt, .edges, .free] s (resetIslands strap s) := by
  unfold resetIslands
  try dsimp only
  repeat' first
      | with_reducible exact Touch.refl _ _ | with_reducible assumption | with_reducible refine Touch.forAll ?_ ?_
      | with_reducible refine (saveRecord_touch ..).after ?_ rfl
      | with_reducible refine (clearIslands_touch ..).after ?_ rfl
      | with_reducible refine (setCopy_touch ..).after ?_ rfl | with_reducible refine (setBegun_touch ..).after ?_ rfl
      | with_reducible refine (setHalted_touch ..).after ?_ rfl
      | with_reducible refine (bootStages_touch ..).after ?_ rfl | with_reducible refine Touch.ite ?_ ?_ | (intro _)

end Sys2Proof.Machine
end

