-- ==== Sys2Proof/Laws/ControlTouch.lean ====
section
/-! SUPPORT. What each operation of Machine/Control.lean may change: one lemma each, `<name>_touch`. -/

namespace Sys2Proof.Machine

open Sys2Proof

theorem jump_touch (n : Fin 16) (t : BitVec 12) (s : State) :
    Touch [.funcs, .jobs, .acts, .rings, .pages, .link, .hostMem, .reqs, .portA, .portB, .path, .time, .strm, .lov, .cores, .loc, .pwr, .memc, .mem, .log, .cnt, .free] s (jump n t s) := by
  unfold jump
  try dsimp only
  repeat' first
      | with_reducible exact Touch.refl _ _ | with_reducible assumption | with_reducible refine Touch.onCore ?_ rfl
      | with_reducible refine (closeBundle_touch ..).after ?_ rfl

theorem branch_touch (n : Fin 16) (w : BitVec 32) (cond : Word → Bool) (s : State) :
    AnsTouch [.funcs, .jobs, .acts, .rings, .pages, .link, .hostMem, .reqs, .portA, .portB, .path, .time, .strm, .lov, .cores, .loc, .pwr, .memc, .mem, .log, .cnt, .free] s (branch n w cond s) := by
  unfold branch
  try dsimp only
  repeat' first
      | with_reducible refine AnsTouch.next ?_ | with_reducible refine AnsTouch.ite ?_ ?_
      | with_reducible exact Touch.refl _ _ | with_reducible assumption
      | with_reducible refine (closePlain_touch ..).after ?_ rfl | with_reducible refine (jump_touch ..).after ?_ rfl
      | with_reducible refine controlOp_touch (fun _ _ => ?_) ?_ rfl | with_reducible refine Touch.ite ?_ ?_

theorem execBr_touch (n : Fin 16) (w : BitVec 32) (s : State) :
    AnsTouch [.funcs, .jobs, .acts, .rings, .pages, .link, .hostMem, .reqs, .portA, .portB, .path, .time, .strm, .lov, .cores, .loc, .pwr, .memc, .mem, .log, .cnt, .free] s (execBr n w s) := by
  unfold execBr
  try dsimp only
  repeat' first
      | with_reducible refine AnsTouch.next ?_ | with_reducible refine AnsTouch.ite ?_ ?_
      | with_reducible exact Touch.refl _ _ | with_reducible assumption | with_reducible exact branch_touch ..

theorem execBz_touch (n : Fin 16) (w : BitVec 32) (s : State) :
    AnsTouch [.funcs, .jobs, .acts, .rings, .pages, .link, .hostMem, .reqs, .portA, .portB, .path, .time, .strm, .lov, .cores, .loc, .pwr, .memc, .mem, .log, .cnt, .free] s (execBz n w s) := by
  unfold execBz
  try dsimp only
  repeat' first
      | with_reducible refine AnsTouch.next ?_ | with_reducible refine AnsTouch.ite ?_ ?_
      | with_reducible exact Touch.refl _ _ | with_reducible assumption | with_reducible exact branch_touch ..

theorem execBnz_touch (n : Fin 16) (w : BitVec 32) (s : State) :
    AnsTouch [.funcs, .jobs, .acts, .rings, .pages, .link, .hostMem, .reqs, .portA, .portB, .path, .time, .strm, .lov, .cores, .loc, .pwr, .memc, .mem, .log, .cnt, .free] s (execBnz n w s) := by
  unfold execBnz
  try dsimp only
  repeat' first
      | with_reducible refine AnsTouch.next ?_ | with_reducible refine AnsTouch.ite ?_ ?_
      | with_reducible exact Touch.refl _ _ | with_reducible assumption | with_reducible exact branch_touch ..

theorem execBneg_touch (n : Fin 16) (w : BitVec 32) (s : State) :
    AnsTouch [.funcs, .jobs, .acts, .rings, .pages, .link, .hostMem, .reqs, .portA, .portB, .path, .time, .strm, .lov, .cores, .loc, .pwr, .memc, .mem, .log, .cnt, .free] s (execBneg n w s) := by
  unfold execBneg
  try dsimp only
  repeat' first
      | with_reducible refine AnsTouch.next ?_ | with_reducible refine AnsTouch.ite ?_ ?_
      | with_reducible exact Touch.refl _ _ | with_reducible assumption | with_reducible exact branch_touch ..

theorem startLoop_touch (n : Fin 16) (w : BitVec 32) (count : Nat) (s : State) :
    Touch [.funcs, .jobs, .acts, .rings, .pages, .link, .hostMem, .reqs, .portA, .portB, .path, .time, .strm, .lov, .cores, .loc, .pwr, .memc, .mem, .log, .cnt, .free] s (startLoop n w count s) := by
  unfold startLoop
  try dsimp only
  repeat' first
      | with_reducible exact Touch.refl _ _ | with_reducible assumption | with_reducible refine Touch.onCore ?_ rfl
      | with_reducible refine (closeBundle_touch ..).after ?_ rfl
      | with_reducible refine (trapHere_touch ..).after ?_ rfl | with_reducible refine Touch.ite ?_ ?_

theorem execLoopi_touch (n : Fin 16) (w : BitVec 32) (s : State) :
    AnsTouch [.funcs, .jobs, .acts, .rings, .pages, .link, .hostMem, .reqs, .portA, .portB, .path, .time, .strm, .lov, .cores, .loc, .pwr, .memc, .mem, .log, .cnt, .free] s (execLoopi n w s) := by
  unfold execLoopi
  try dsimp only
  repeat' first
      | with_reducible refine AnsTouch.next ?_ | with_reducible refine AnsTouch.ite ?_ ?_
      | with_reducible exact Touch.refl _ _ | with_reducible assumption
      | with_reducible refine (startLoop_touch ..).after ?_ rfl
      | with_reducible refine controlOp_touch (fun _ _ => ?_) ?_ rfl

theorem execLoopr_touch (n : Fin 16) (w : BitVec 32) (s : State) :
    AnsTouch [.funcs, .jobs, .acts, .rings, .pages, .link, .hostMem, .reqs, .portA, .portB, .path, .time, .strm, .lov, .cores, .loc, .pwr, .memc, .mem, .log, .cnt, .free] s (execLoopr n w s) := by
  unfold execLoopr
  try dsimp only
  repeat' first
      | with_reducible refine AnsTouch.next ?_ | with_reducible refine AnsTouch.ite ?_ ?_
      | with_reducible exact Touch.refl _ _ | with_reducible assumption
      | with_reducible refine (startLoop_touch ..).after ?_ rfl
      | with_reducible refine controlOp_touch (fun _ _ => ?_) ?_ rfl

theorem execWaitxf_touch (n : Fin 16) (w : BitVec 32) (s : State) :
    AnsTouch [.funcs, .jobs, .acts, .rings, .pages, .link, .hostMem, .reqs, .portA, .portB, .path, .time, .strm, .lov, .cores, .loc, .pwr, .memc, .mem, .log, .cnt, .free] s (execWaitxf n w s) := by
  unfold execWaitxf
  try dsimp only
  repeat' first
      | with_reducible refine AnsTouch.next ?_ | with_reducible refine AnsTouch.ite ?_ ?_
      | with_reducible exact Touch.refl _ _ | with_reducible assumption | with_reducible refine Touch.onCore ?_ rfl
      | with_reducible refine (closePlain_touch ..).after ?_ rfl
      | with_reducible refine controlOp_touch (fun _ _ => ?_) ?_ rfl

theorem copyParams_touch (n : Fin 16) (s : State) :
    Touch [.cores, .mem] s (copyParams n s) := by
  unfold copyParams
  try dsimp only
  repeat' first
      | with_reducible exact Touch.refl _ _ | with_reducible assumption | with_reducible refine Touch.onCore ?_ rfl
      | with_reducible refine Touch.forAll ?_ ?_ | with_reducible refine (State.write_touch ..).after ?_ rfl
      | with_reducible refine Touch.ite ?_ ?_ | (intro _)

theorem releaseTask_touch (n : Fin 16) (b : Nat) (off : Nat) (s : State) :
    Touch [.funcs, .jobs, .acts, .rings, .pages, .link, .hostMem, .reqs, .portA, .portB, .path, .time, .strm, .lov, .cores, .loc, .pwr, .memc, .mem, .log, .cnt, .free] s (releaseTask n b off s) := by
  unfold releaseTask
  try dsimp only
  repeat' first
      | with_reducible exact Touch.refl _ _ | with_reducible assumption | with_reducible refine Touch.onCore ?_ rfl
      | with_reducible refine (bundleEdge_touch ..).after ?_ rfl
      | with_reducible refine (landAll_touch ..).after ?_ rfl
      | with_reducible refine (copyParams_touch ..).after ?_ rfl
      | with_reducible refine (State.bump_touch ..).after ?_ rfl
      | with_reducible refine (State.bumpBy_touch ..).after ?_ rfl

theorem releaseAt_touch (n : Fin 16) (off : Nat) (s : State) :
    Touch [.funcs, .jobs, .acts, .rings, .pages, .link, .hostMem, .reqs, .portA, .portB, .path, .time, .strm, .lov, .cores, .loc, .pwr, .memc, .mem, .log, .cnt, .free] s (releaseAt n off s) := by
  unfold releaseAt
  try dsimp only
  repeat' first
      | with_reducible exact Touch.refl _ _ | with_reducible assumption
      | with_reducible refine (releaseTask_touch ..).after ?_ rfl | with_reducible refine Touch.ite ?_ ?_ | (intro _)
      | split

theorem releaseNext_touch (n : Fin 16) (s : State) :
    Touch [.funcs, .jobs, .acts, .rings, .pages, .link, .hostMem, .reqs, .portA, .portB, .path, .time, .strm, .lov, .cores, .loc, .pwr, .memc, .mem, .log, .cnt, .free] s (releaseNext n s) := by
  unfold releaseNext
  try dsimp only
  repeat' first
      | with_reducible exact Touch.refl _ _ | with_reducible assumption
      | with_reducible refine (releaseAt_touch ..).after ?_ rfl

theorem countHandled_touch (n : Fin 16) (s : State) :
    Touch [.cnt] s (countHandled n s) := by
  unfold countHandled
  try dsimp only
  repeat' first
      | with_reducible exact Touch.refl _ _ | with_reducible assumption
      | with_reducible refine (State.bump_touch ..).after ?_ rfl | with_reducible refine Touch.ite ?_ ?_

theorem endOutput_touch (n : Fin 16) (s : State) :
    Touch [.cores, .cnt, .edges, .free] s (endOutput n s) := by
  unfold endOutput
  try dsimp only
  repeat' first
      | with_reducible exact Touch.refl _ _ | with_reducible assumption | with_reducible refine Touch.onCore ?_ rfl
      | with_reducible refine (State.freshen_touch _).after ?_ rfl
      | with_reducible refine (State.onEdge_touch ..).after ?_ rfl
      | with_reducible refine (State.bump_touch ..).after ?_ rfl | with_reducible refine Touch.ite ?_ ?_

theorem execEnd_touch (n : Fin 16) (w : BitVec 32) (s : State) :
    AnsTouch [.funcs, .jobs, .acts, .rings, .pages, .link, .hostMem, .reqs, .portA, .portB, .path, .time, .strm, .lov, .cores, .loc, .pwr, .memc, .mem, .log, .cnt, .edges, .free] s (execEnd n w s) := by
  unfold execEnd
  try dsimp only
  repeat' first
      | with_reducible refine AnsTouch.next ?_ | with_reducible refine AnsTouch.ite ?_ ?_
      | with_reducible exact Touch.refl _ _ | with_reducible assumption | with_reducible refine Touch.onCore ?_ rfl
      | with_reducible refine (endOutput_touch ..).after ?_ rfl
      | with_reducible refine (releaseAt_touch ..).after ?_ rfl
      | with_reducible refine atTick_touch (fun _ => ?_) ?_ rfl
      | with_reducible refine (landAll_touch ..).after ?_ rfl
      | with_reducible refine (countHandled_touch ..).after ?_ rfl
      | with_reducible refine controlOp_touch (fun _ _ => ?_) ?_ rfl | with_reducible refine Touch.ite ?_ ?_

theorem leaveHandler_touch (n : Fin 16) (t : BitVec 12) (s : State) :
    Touch [.funcs, .jobs, .acts, .rings, .pages, .link, .hostMem, .reqs, .portA, .portB, .path, .time, .strm, .lov, .cores, .loc, .pwr, .memc, .mem, .log, .cnt, .free] s (leaveHandler n t s) := by
  unfold leaveHandler
  try dsimp only
  repeat' first
      | with_reducible exact Touch.refl _ _ | with_reducible assumption | with_reducible refine Touch.onCore ?_ rfl
      | with_reducible refine (bundleEdge_touch ..).after ?_ rfl
      | with_reducible refine (landDue_touch ..).after ?_ rfl
      | with_reducible refine (countHandled_touch ..).after ?_ rfl

theorem execRti_touch (n : Fin 16) (w : BitVec 32) (s : State) :
    AnsTouch [.funcs, .jobs, .acts, .rings, .pages, .link, .hostMem, .reqs, .portA, .portB, .path, .time, .strm, .lov, .cores, .loc, .pwr, .memc, .mem, .log, .cnt, .free] s (execRti n w s) := by
  unfold execRti
  try dsimp only
  repeat' first
      | with_reducible refine AnsTouch.next ?_ | with_reducible refine AnsTouch.ite ?_ ?_
      | with_reducible exact Touch.refl _ _ | with_reducible assumption
      | with_reducible refine (leaveHandler_touch ..).after ?_ rfl
      | with_reducible refine controlOp_touch (fun _ _ => ?_) ?_ rfl

theorem execRtij_touch (n : Fin 16) (w : BitVec 32) (s : State) :
    AnsTouch [.funcs, .jobs, .acts, .rings, .pages, .link, .hostMem, .reqs, .portA, .portB, .path, .time, .strm, .lov, .cores, .loc, .pwr, .memc, .mem, .log, .cnt, .free] s (execRtij n w s) := by
  unfold execRtij
  try dsimp only
  repeat' first
      | with_reducible refine AnsTouch.next ?_ | with_reducible refine AnsTouch.ite ?_ ?_
      | with_reducible exact Touch.refl _ _ | with_reducible assumption | with_reducible refine Touch.onCore ?_ rfl
      | with_reducible refine (leaveHandler_touch ..).after ?_ rfl
      | with_reducible refine controlOp_touch (fun _ _ => ?_) ?_ rfl

theorem execTrap_touch (n : Fin 16) (w : BitVec 32) (s : State) :
    AnsTouch [.funcs, .jobs, .acts, .rings, .pages, .link, .hostMem, .reqs, .portA, .portB, .path, .time, .strm, .lov, .cores, .loc, .pwr, .memc, .mem, .log, .cnt, .free] s (execTrap n w s) := by
  unfold execTrap
  try dsimp only
  repeat' first
      | with_reducible refine AnsTouch.next ?_ | with_reducible refine AnsTouch.ite ?_ ?_
      | with_reducible exact Touch.refl _ _ | with_reducible assumption
      | with_reducible refine (trapHere_touch ..).after ?_ rfl
      | with_reducible refine controlOp_touch (fun _ _ => ?_) ?_ rfl

end Sys2Proof.Machine
end

