-- ==== Sys2Proof/Laws/CoreCmdsTouch.lean ====
section
/-! SUPPORT. What each operation of Machine/CoreCmds.lean may change: one lemma each, `<name>_touch`. -/

namespace Sys2Proof.Machine

open Sys2Proof

theorem scInput_touch (n : Fin 16) (s : State) :
    Touch [.pages, .path, .mem, .log, .cnt, .edges, .free] s (scInput n s) := by
  unfold scInput
  try dsimp only
  repeat' first
      | with_reducible exact Touch.refl _ _ | with_reducible assumption
      | with_reducible refine (State.write_touch ..).after ?_ rfl
      | with_reducible refine (edgeTick_touch ..).after ?_ rfl | with_reducible refine Touch.ite ?_ ?_

theorem taskDeadline_touch (n : Fin 16) (s : State) :
    Touch [.cores, .cnt] s (taskDeadline n s) := by
  unfold taskDeadline
  try dsimp only
  repeat' first
      | with_reducible exact Touch.refl _ _ | with_reducible assumption | with_reducible refine Touch.onCore ?_ rfl
      | with_reducible refine (State.bump_touch ..).after ?_ rfl | with_reducible refine Touch.ite ?_ ?_

theorem taskTimeout_touch (n : Fin 16) (s : State) :
    Touch [.funcs, .jobs, .acts, .rings, .pages, .link, .hostMem, .reqs, .portA, .portB, .path, .time, .strm, .lov, .cores, .loc, .pwr, .memc, .mem, .log, .cnt, .free] s (taskTimeout n s) := by
  unfold taskTimeout
  try dsimp only
  repeat' first
      | with_reducible exact Touch.refl _ _ | with_reducible assumption
      | with_reducible refine (trapHere_touch ..).after ?_ rfl | with_reducible refine Touch.ite ?_ ?_

theorem execInterruptTaken_touch (n : Fin 16) (s : State) :
    AnsTouch [.cores, .cnt] s (execInterruptTaken n s) := by
  unfold execInterruptTaken
  try dsimp only
  repeat' first
      | with_reducible refine AnsTouch.next ?_ | with_reducible refine AnsTouch.ite ?_ ?_
      | with_reducible exact Touch.refl _ _ | with_reducible assumption
      | with_reducible refine (takeIrq_touch ..).after ?_ rfl | with_reducible refine Touch.ite ?_ ?_

theorem execTrapTaken_touch (n : Fin 16) (cause : BitVec 4) (s : State) :
    AnsTouch [.funcs, .jobs, .acts, .rings, .pages, .link, .hostMem, .reqs, .portA, .portB, .path, .time, .strm, .lov, .cores, .loc, .pwr, .memc, .mem, .log, .cnt, .free] s (execTrapTaken n cause s) := by
  unfold execTrapTaken
  try dsimp only
  repeat' first
      | with_reducible refine AnsTouch.next ?_ | with_reducible refine AnsTouch.ite ?_ ?_
      | with_reducible exact Touch.refl _ _ | with_reducible assumption
      | with_reducible refine (trapHere_touch ..).after ?_ rfl
      | with_reducible refine (taskTimeout_touch ..).after ?_ rfl
      | with_reducible refine (pendingTraps_touch ..).after ?_ rfl | with_reducible refine Touch.ite ?_ ?_

theorem execResultLand_touch (n : Fin 16) (s : State) :
    AnsTouch [.funcs, .jobs, .acts, .rings, .pages, .link, .hostMem, .reqs, .portA, .portB, .path, .time, .strm, .lov, .cores, .loc, .pwr, .memc, .mem, .log, .cnt, .free] s (execResultLand n s) := by
  unfold execResultLand
  try dsimp only
  repeat' first
      | with_reducible refine AnsTouch.next ?_ | with_reducible refine AnsTouch.ite ?_ ?_
      | with_reducible exact Touch.refl _ _ | with_reducible assumption
      | with_reducible refine (landFirst_touch ..).after ?_ rfl
      | with_reducible refine (pendingTraps_touch ..).after ?_ rfl | with_reducible refine Touch.ite ?_ ?_

theorem execWaitxfResume_touch (n : Fin 16) (s : State) :
    AnsTouch [.cores] s (execWaitxfResume n s) := by
  unfold execWaitxfResume
  try dsimp only
  repeat' first
      | with_reducible refine AnsTouch.next ?_ | with_reducible refine AnsTouch.ite ?_ ?_
      | with_reducible exact Touch.refl _ _ | with_reducible assumption | with_reducible refine Touch.onCore ?_ rfl
      | with_reducible refine Touch.ite ?_ ?_

theorem execLoopExit_touch (n : Fin 16) (s : State) :
    AnsTouch [.funcs, .jobs, .acts, .rings, .pages, .link, .hostMem, .reqs, .portA, .portB, .path, .time, .strm, .lov, .cores, .loc, .pwr, .memc, .mem, .log, .cnt, .free] s (execLoopExit n s) := by
  unfold execLoopExit
  try dsimp only
  repeat' first
      | with_reducible refine AnsTouch.next ?_ | with_reducible refine AnsTouch.ite ?_ ?_
      | with_reducible exact Touch.refl _ _ | with_reducible assumption
      | with_reducible refine (closePlain_touch ..).after ?_ rfl | with_reducible refine Touch.ite ?_ ?_

theorem execScDoorbell_touch (n : Fin 16) (v : Word) (s : State) :
    AnsTouch [.cores] s (execScDoorbell n v s) := by
  unfold execScDoorbell
  try dsimp only
  repeat' first
      | with_reducible refine AnsTouch.next ?_ | with_reducible refine AnsTouch.ite ?_ ?_
      | with_reducible exact Touch.refl _ _ | with_reducible assumption | with_reducible refine Touch.onCore ?_ rfl
      | with_reducible refine writeIn_touch (fun _ => ?_) ?_

theorem execXfDone_touch (n : Fin 16) (c : Fin 4) (status : BitVec 4) (s : State) :
    AnsTouch [.funcs, .jobs, .acts, .rings, .pages, .link, .hostMem, .reqs, .portA, .portB, .path, .time, .strm, .lov, .cores, .loc, .pwr, .memc, .mem, .log, .cnt, .free] s (execXfDone n c status s) := by
  unfold execXfDone
  try dsimp only
  repeat' first
      | with_reducible refine AnsTouch.next ?_ | with_reducible refine AnsTouch.ite ?_ ?_
      | with_reducible exact Touch.refl _ _ | with_reducible assumption | with_reducible refine Touch.onCore ?_ rfl
      | with_reducible refine (pendingTraps_touch ..).after ?_ rfl
      | with_reducible refine (State.bump_touch ..).after ?_ rfl
      | with_reducible refine (State.place_touch ..).after ?_ rfl
      | with_reducible refine (State.write_touch ..).after ?_ rfl | with_reducible refine Touch.ite ?_ ?_

theorem execLoadPortAccess_touch (master : Fin 13) (n : Fin 16) (addr : BitVec 20) (write : Option (List Byte)) (len : Nat) (s : State) :
    AnsTouch [.pages, .hostMem, .memc, .mem, .log, .cnt, .free] s (execLoadPortAccess master n addr write len s) := by
  unfold execLoadPortAccess
  try dsimp only
  repeat' first
      | with_reducible refine AnsTouch.next ?_ | with_reducible refine AnsTouch.ite ?_ ?_
      | with_reducible exact Touch.refl _ _ | with_reducible assumption
      | with_reducible refine (serveReq_touch ..).after ?_ rfl
      | with_reducible refine (State.xbarError_touch ..).after ?_ rfl
      | with_reducible refine (respond_touch ..).after ?_ rfl | with_reducible refine Touch.ite ?_ ?_

end Sys2Proof.Machine
end

