-- ==== Sys2Proof/Laws/LocCmdsTouch.lean ====
section
/-! SUPPORT. What each operation of Machine/LocCmds.lean may change: one lemma each, `<name>_touch`. -/

namespace Sys2Proof.Machine

open Sys2Proof

theorem execDecStuck_touch (c : Fin 40) (s : State) :
    AnsTouch [.loc, .cnt] s (execDecStuck c s) := by
  unfold execDecStuck
  try dsimp only
  repeat' first
      | with_reducible refine AnsTouch.next ?_ | with_reducible refine AnsTouch.ite ?_ ?_
      | with_reducible exact Touch.refl _ _ | with_reducible assumption
      | with_reducible refine (becomeStuck_touch ..).after ?_ rfl | with_reducible refine Touch.ite ?_ ?_

theorem unstick_touch (c : Fin 40) (s : State) :
    Touch [.loc] s (unstick c s) := by
  unfold unstick
  try dsimp only
  repeat' first
      | with_reducible exact Touch.refl _ _ | with_reducible assumption
      | with_reducible refine (resetDec_touch ..).after ?_ rfl | with_reducible refine Touch.ite ?_ ?_

theorem execDecSettleEnd_touch (c : Fin 40) (s : State) :
    AnsTouch [.loc] s (execDecSettleEnd c s) := by
  unfold execDecSettleEnd
  try dsimp only
  repeat' first
      | with_reducible refine AnsTouch.next ?_ | with_reducible refine AnsTouch.ite ?_ ?_
      | with_reducible exact Touch.refl _ _ | with_reducible assumption
      | with_reducible refine (endSettle_touch ..).after ?_ rfl | with_reducible refine Touch.ite ?_ ?_

theorem execDsyncEdge_touch (lowNs : Nat) (highNs : Nat) (s : State) :
    AnsTouch [.loc, .cnt] s (execDsyncEdge lowNs highNs s) := by
  unfold execDsyncEdge
  try dsimp only
  repeat' first
      | with_reducible refine AnsTouch.next ?_ | with_reducible refine AnsTouch.ite ?_ ?_
      | with_reducible exact Touch.refl _ _ | with_reducible assumption | with_reducible refine Touch.onLoc ?_ rfl
      | with_reducible refine (State.bump_touch ..).after ?_ rfl | with_reducible refine Touch.ite ?_ ?_

theorem dsyncReset_touch (s : State) :
    Touch [.loc, .cnt] s (dsyncReset s) := by
  unfold dsyncReset
  try dsimp only
  repeat' first
      | with_reducible exact Touch.refl _ _ | with_reducible assumption | with_reducible refine Touch.onLoc ?_ rfl
      | with_reducible refine (syncDec_touch ..).after ?_ rfl | with_reducible refine Touch.ite ?_ ?_

theorem dsyncDue_touch (s : State) :
    Touch [.loc, .cnt] s (dsyncDue s) := by
  unfold dsyncDue
  try dsimp only
  repeat' first
      | with_reducible exact Touch.refl _ _ | with_reducible assumption
      | with_reducible refine (dsyncReset_touch ..).after ?_ rfl | with_reducible refine Touch.ite ?_ ?_

theorem slaveFrame_touch (x : Fin 2) (bck : Nat) (edges : Nat) (ppm : Int) (slots : List Word) (s : State) :
    Touch [.loc, .cnt] s (slaveFrame x bck edges ppm slots s) := by
  unfold slaveFrame
  try dsimp only
  repeat' first
      | with_reducible exact Touch.refl _ _ | with_reducible assumption
      | with_reducible refine (tdmRise_touch ..).after ?_ rfl
      | with_reducible refine (State.bump_touch ..).after ?_ rfl
      | with_reducible refine (tdmFall_touch ..).after ?_ rfl
      | with_reducible refine (State.onTdm_touch ..).after ?_ rfl | with_reducible refine Touch.ite ?_ ?_

theorem execTdmFrame_touch (x : Fin 2) (bck : Nat) (edges : Nat) (ratePpm : Int) (slots : List Word) (s : State) :
    AnsTouch [.loc, .cnt] s (execTdmFrame x bck edges ratePpm slots s) := by
  unfold execTdmFrame
  try dsimp only
  repeat' first
      | with_reducible refine AnsTouch.next ?_ | with_reducible refine AnsTouch.ite ?_ ?_
      | with_reducible exact Touch.refl _ _ | with_reducible assumption
      | with_reducible refine (State.bump_touch ..).after ?_ rfl
      | with_reducible refine (State.onTdm_touch ..).after ?_ rfl
      | with_reducible refine (slaveFrame_touch ..).after ?_ rfl | with_reducible refine Touch.ite ?_ ?_

theorem execTdmLoss_touch (x : Fin 2) (s : State) :
    AnsTouch [.loc, .cnt] s (execTdmLoss x s) := by
  unfold execTdmLoss
  try dsimp only
  repeat' first
      | with_reducible refine AnsTouch.next ?_ | with_reducible refine AnsTouch.ite ?_ ?_
      | with_reducible exact Touch.refl _ _ | with_reducible assumption
      | with_reducible refine (State.bump_touch ..).after ?_ rfl
      | with_reducible refine (tdmFall_touch ..).after ?_ rfl | with_reducible refine Touch.ite ?_ ?_

end Sys2Proof.Machine
end

