-- ==== Sys2Proof/Laws/PwrCmdsTouch.lean ====
section
/-! SUPPORT. What each operation of Machine/PwrCmds.lean may change: one lemma each, `<name>_touch`. -/

namespace Sys2Proof.Machine

open Sys2Proof

theorem beginSwitching_touch (n : Nat) (c : Fin 4) (s : State) :
    Touch [.pwr] s (beginSwitching n c s) := by
  unfold beginSwitching
  try dsimp only
  repeat' first
      | with_reducible exact Touch.refl _ _ | with_reducible assumption
      | with_reducible refine (State.onPch_touch ..).after ?_ rfl | with_reducible refine Touch.ite ?_ ?_

theorem execPchSwitchingBegin_touch (c : Fin 4) (s : State) :
    AnsTouch [.pwr] s (execPchSwitchingBegin c s) := by
  unfold execPchSwitchingBegin
  try dsimp only
  repeat' first
      | with_reducible refine AnsTouch.next ?_ | with_reducible refine AnsTouch.ite ?_ ?_
      | with_reducible exact Touch.refl _ _ | with_reducible assumption
      | with_reducible refine (beginSwitching_touch ..).after ?_ rfl

theorem pchEnterRunning_touch (c : Fin 4) (s : State) :
    Touch [.funcs, .jobs, .acts, .rings, .pages, .link, .reqs, .svc, .portA, .portB, .path, .loc, .pwr, .log, .cnt] s (pchEnterRunning c s) := by
  unfold pchEnterRunning
  try dsimp only
  repeat' first
      | with_reducible exact Touch.refl _ _ | with_reducible assumption
      | with_reducible refine (pchRuns_touch ..).after ?_ rfl
      | with_reducible refine (State.onFunc_touch ..).after ?_ rfl
      | with_reducible refine (enterRunning_touch ..).after ?_ rfl | with_reducible refine Touch.ite ?_ ?_

theorem rampDown_touch (c : Fin 4) (s : State) :
    Touch [.pwr] s (rampDown c s) := by
  unfold rampDown
  try dsimp only
  repeat' first
      | with_reducible exact Touch.refl _ _ | with_reducible assumption
      | with_reducible refine (State.onPch_touch ..).after ?_ rfl | with_reducible refine Touch.ite ?_ ?_

theorem closeLowSides_touch (left : Nat) (c : Fin 4) (s : State) :
    Touch [.pwr] s (closeLowSides left c s) := by
  unfold closeLowSides
  try dsimp only
  repeat' first
      | with_reducible exact Touch.refl _ _ | with_reducible assumption
      | with_reducible refine (State.onPch_touch ..).after ?_ rfl | with_reducible refine Touch.ite ?_ ?_

theorem execPchLowSideClosed_touch (c : Fin 4) (s : State) :
    AnsTouch [.pwr] s (execPchLowSideClosed c s) := by
  unfold execPchLowSideClosed
  try dsimp only
  repeat' first
      | with_reducible refine AnsTouch.next ?_ | with_reducible refine AnsTouch.ite ?_ ?_
      | with_reducible exact Touch.refl _ _ | with_reducible assumption
      | with_reducible refine (closeLowSides_touch ..).after ?_ rfl

theorem pchSwitchesOpen_touch (c : Fin 4) (s : State) :
    Touch [.funcs, .params, .jobs, .acts, .rings, .pages, .link, .reqs, .portA, .portB, .path, .time, .strm, .lov, .cores, .loc, .pwr, .memc, .mem, .log, .cnt] s (pchSwitchesOpen c s) := by
  unfold pchSwitchesOpen
  try dsimp only
  repeat' first
      | with_reducible exact Touch.refl _ _ | with_reducible assumption
      | with_reducible refine (openSwitches_touch ..).after ?_ rfl
      | with_reducible refine (pchStopped_touch ..).after ?_ rfl | with_reducible refine Touch.ite ?_ ?_

theorem fastStopEnd_touch (n : Nat) (c : Fin 4) (s : State) :
    Touch [.funcs, .jobs, .acts, .rings, .pages, .link, .hostMem, .reqs, .portA, .portB, .path, .time, .strm, .lov, .cores, .loc, .pwr, .memc, .mem, .log, .cnt, .free] s (fastStopEnd n c s) := by
  unfold fastStopEnd
  try dsimp only
  repeat' first
      | with_reducible exact Touch.refl _ _ | with_reducible assumption
      | with_reducible refine (State.bump_touch ..).after ?_ rfl
      | with_reducible refine (faultFunc_touch ..).after ?_ rfl
      | with_reducible refine (openSwitches_touch ..).after ?_ rfl | with_reducible refine Touch.ite ?_ ?_

theorem execFastStopEnd_touch (c : Fin 4) (s : State) :
    AnsTouch [.funcs, .jobs, .acts, .rings, .pages, .link, .hostMem, .reqs, .portA, .portB, .path, .time, .strm, .lov, .cores, .loc, .pwr, .memc, .mem, .log, .cnt, .free] s (execFastStopEnd c s) := by
  unfold execFastStopEnd
  try dsimp only
  repeat' first
      | with_reducible refine AnsTouch.next ?_ | with_reducible refine AnsTouch.ite ?_ ?_
      | with_reducible exact Touch.refl _ _ | with_reducible assumption
      | with_reducible refine (fastStopEnd_touch ..).after ?_ rfl

theorem chiveSettle_touch (c : Fin 4) (s : State) :
    Touch [.pwr] s (chiveSettle c s) := by
  unfold chiveSettle
  try dsimp only
  repeat' first
      | with_reducible exact Touch.refl _ _ | with_reducible assumption
      | with_reducible refine (chiveApply_touch ..).after ?_ rfl | with_reducible refine Touch.ite ?_ ?_

theorem execChiveCut_touch (c : Fin 4) (s : State) :
    AnsTouch [.pwr, .cnt] s (execChiveCut c s) := by
  unfold execChiveCut
  try dsimp only
  repeat' first
      | with_reducible refine AnsTouch.next ?_ | with_reducible refine AnsTouch.ite ?_ ?_
      | with_reducible exact Touch.refl _ _ | with_reducible assumption
      | with_reducible refine (State.onPch_touch ..).after ?_ rfl
      | with_reducible refine (State.bump_touch ..).after ?_ rfl | with_reducible refine Touch.ite ?_ ?_

theorem chiveRestore_touch (c : Fin 4) (s : State) :
    Touch [.pwr] s (chiveRestore c s) := by
  unfold chiveRestore
  try dsimp only
  repeat' first
      | with_reducible exact Touch.refl _ _ | with_reducible assumption
      | with_reducible refine (State.onPch_touch ..).after ?_ rfl | with_reducible refine Touch.ite ?_ ?_

theorem execCurrentLimit_touch (c : Fin 4) (s : State) :
    AnsTouch [.cnt] s (execCurrentLimit c s) := by
  unfold execCurrentLimit
  try dsimp only
  repeat' first
      | with_reducible refine AnsTouch.next ?_ | with_reducible refine AnsTouch.ite ?_ ?_
      | with_reducible exact Touch.refl _ _ | with_reducible assumption
      | with_reducible refine (State.bumpProt_touch ..).after ?_ rfl | with_reducible refine Touch.ite ?_ ?_

theorem setKind_touch (c : Fin 4) (k : BitVec 4) (s : State) :
    Touch [.pwr] s (setKind c k s) := by
  unfold setKind
  try dsimp only
  repeat' first
      | with_reducible exact Touch.refl _ _ | with_reducible assumption
      | with_reducible refine (State.onPch_touch ..).after ?_ rfl

theorem retryWait_touch (c : Fin 4) (s : State) :
    Touch [.pwr] s (retryWait c s) := by
  unfold retryWait
  try dsimp only
  repeat' first
      | with_reducible exact Touch.refl _ _ | with_reducible assumption
      | with_reducible refine (State.onPch_touch ..).after ?_ rfl

theorem shortOpen_touch (c : Fin 4) (k : BitVec 4) (s : State) :
    Touch [.funcs, .jobs, .rings, .link, .hostMem, .reqs, .pwr, .memc, .mem, .cnt, .free] s (shortOpen c k s) := by
  unfold shortOpen
  try dsimp only
  repeat' first
      | with_reducible exact Touch.refl _ _ | with_reducible assumption
      | with_reducible refine (retryWait_touch ..).after ?_ rfl
      | with_reducible refine (State.bump_touch ..).after ?_ rfl
      | with_reducible refine (openSwitches_touch ..).after ?_ rfl
      | with_reducible refine (endTest_touch ..).after ?_ rfl | with_reducible refine (setKind_touch ..).after ?_ rfl
      | with_reducible refine (State.onPch_touch ..).after ?_ rfl | with_reducible refine Touch.ite ?_ ?_ | (intro _)
      | split

theorem execShortDetect_touch (c : Fin 4) (pattern : ShortPattern) (s : State) :
    AnsTouch [.funcs, .jobs, .rings, .link, .hostMem, .reqs, .pwr, .memc, .mem, .cnt, .free] s (execShortDetect c pattern s) := by
  unfold execShortDetect
  try dsimp only
  repeat' first
      | with_reducible refine AnsTouch.next ?_ | with_reducible refine AnsTouch.ite ?_ ?_
      | with_reducible exact Touch.refl _ _ | with_reducible assumption
      | with_reducible refine (shortOpen_touch ..).after ?_ rfl | with_reducible refine Touch.ite ?_ ?_

theorem execOverload_touch (c : Fin 4) (s : State) :
    AnsTouch [.funcs, .jobs, .rings, .link, .hostMem, .reqs, .pwr, .memc, .mem, .cnt, .free] s (execOverload c s) := by
  unfold execOverload
  try dsimp only
  repeat' first
      | with_reducible refine AnsTouch.next ?_ | with_reducible refine AnsTouch.ite ?_ ?_
      | with_reducible exact Touch.refl _ _ | with_reducible assumption
      | with_reducible refine (shortOpen_touch ..).after ?_ rfl | with_reducible refine Touch.ite ?_ ?_

theorem retryClose_touch (n : Nat) (c : Fin 4) (s : State) :
    Touch [.pwr] s (retryClose n c s) := by
  unfold retryClose
  try dsimp only
  repeat' first
      | with_reducible exact Touch.refl _ _ | with_reducible assumption
      | with_reducible refine (State.onPch_touch ..).after ?_ rfl | with_reducible refine Touch.ite ?_ ?_

theorem execRetryWaitExpiry_touch (c : Fin 4) (s : State) :
    AnsTouch [.pwr] s (execRetryWaitExpiry c s) := by
  unfold execRetryWaitExpiry
  try dsimp only
  repeat' first
      | with_reducible refine AnsTouch.next ?_ | with_reducible refine AnsTouch.ite ?_ ?_
      | with_reducible exact Touch.refl _ _ | with_reducible assumption
      | with_reducible refine (retryClose_touch ..).after ?_ rfl

theorem execProbe_touch (c : Fin 4) (passed : Bool) (s : State) :
    AnsTouch [.pwr, .cnt] s (execProbe c passed s) := by
  unfold execProbe
  try dsimp only
  repeat' first
      | with_reducible refine AnsTouch.next ?_ | with_reducible refine AnsTouch.ite ?_ ?_
      | with_reducible exact Touch.refl _ _ | with_reducible assumption
      | with_reducible refine (State.onPch_touch ..).after ?_ rfl
      | with_reducible refine (retryWait_touch ..).after ?_ rfl
      | with_reducible refine (State.bumpProt_touch ..).after ?_ rfl | with_reducible refine Touch.ite ?_ ?_

theorem retryClear_touch (c : Fin 4) (s : State) :
    Touch [.pwr] s (retryClear c s) := by
  unfold retryClear
  try dsimp only
  repeat' first
      | with_reducible exact Touch.refl _ _ | with_reducible assumption
      | with_reducible refine (State.onPch_touch ..).after ?_ rfl | with_reducible refine Touch.ite ?_ ?_

theorem protectStop_touch (c : Fin 4) (k : BitVec 4) (s : State) :
    Touch [.funcs, .jobs, .rings, .link, .hostMem, .reqs, .pwr, .memc, .mem, .free] s (protectStop c k s) := by
  unfold protectStop
  try dsimp only
  repeat' first
      | with_reducible exact Touch.refl _ _ | with_reducible assumption
      | with_reducible refine (setKind_touch ..).after ?_ rfl
      | with_reducible refine (State.onPch_touch ..).after ?_ rfl
      | with_reducible refine (pchStop_touch ..).after ?_ rfl | with_reducible refine Touch.ite ?_ ?_

theorem pchReports_touch (c : Fin 4) (s : State) :
    Touch [.funcs, .jobs, .acts, .rings, .pages, .link, .hostMem, .reqs, .portA, .portB, .path, .time, .strm, .lov, .cores, .loc, .pwr, .memc, .mem, .log, .cnt, .free] s (pchReports c s) := by
  unfold pchReports
  try dsimp only
  repeat' first
      | with_reducible exact Touch.refl _ _ | with_reducible assumption | with_reducible refine Touch.forAll ?_ ?_
      | with_reducible refine (faultFunc_touch ..).after ?_ rfl
      | with_reducible refine (State.onPch_touch ..).after ?_ rfl
      | with_reducible refine (State.bumpProt_touch ..).after ?_ rfl
      | with_reducible refine (State.raise_touch ..).after ?_ rfl
      | with_reducible refine (State.logEntry_touch ..).after ?_ rfl | with_reducible refine Touch.ite ?_ ?_
      | (intro _) | split

theorem pchStopNext_touch (c : Fin 4) (s : State) :
    Touch [.funcs, .jobs, .rings, .link, .hostMem, .reqs, .pwr, .memc, .mem, .free] s (pchStopNext c s) := by
  unfold pchStopNext
  try dsimp only
  repeat' first
      | with_reducible exact Touch.refl _ _ | with_reducible assumption
      | with_reducible refine (State.onPch_touch ..).after ?_ rfl
      | with_reducible refine (protectStop_touch ..).after ?_ rfl | with_reducible refine Touch.ite ?_ ?_ | (intro _)
      | split

theorem pchBoundary_touch (c : Fin 4) (s : State) :
    Touch [.funcs, .params, .jobs, .acts, .rings, .pages, .link, .hostMem, .reqs, .svc, .portA, .portB, .path, .time, .strm, .lov, .cores, .loc, .pwr, .memc, .mem, .log, .cnt, .free] s (pchBoundary c s) := by
  unfold pchBoundary
  try dsimp only
  repeat' first
      | with_reducible exact Touch.refl _ _ | with_reducible assumption
      | with_reducible refine (fastStopEnd_touch ..).after ?_ rfl
      | with_reducible refine (chiveSettle_touch ..).after ?_ rfl
      | with_reducible refine (retryClose_touch ..).after ?_ rfl
      | with_reducible refine (retryClear_touch ..).after ?_ rfl
      | with_reducible refine (pchEnterRunning_touch ..).after ?_ rfl
      | with_reducible refine (beginSwitching_touch ..).after ?_ rfl
      | with_reducible refine (pchSwitchesOpen_touch ..).after ?_ rfl
      | with_reducible refine (closeLowSides_touch ..).after ?_ rfl
      | with_reducible refine (rampDown_touch ..).after ?_ rfl
      | with_reducible refine (pchReports_touch ..).after ?_ rfl
      | with_reducible refine (pchStopNext_touch ..).after ?_ rfl

theorem askProtect_touch (c : Fin 4) (k : BitVec 4) (s : State) :
    Touch [.pwr] s (askProtect c k s) := by
  unfold askProtect
  try dsimp only
  repeat' first
      | with_reducible exact Touch.refl _ _ | with_reducible assumption
      | with_reducible refine (State.onPch_touch ..).after ?_ rfl

theorem execDcFault_touch (c : Fin 4) (s : State) :
    AnsTouch [.pages, .pwr, .cnt] s (execDcFault c s) := by
  unfold execDcFault
  try dsimp only
  repeat' first
      | with_reducible refine AnsTouch.next ?_ | with_reducible refine AnsTouch.ite ?_ ?_
      | with_reducible exact Touch.refl _ _ | with_reducible assumption
      | with_reducible refine (State.bumpProt_touch ..).after ?_ rfl
      | with_reducible refine (State.raise_touch ..).after ?_ rfl
      | with_reducible refine (askProtect_touch ..).after ?_ rfl | with_reducible refine Touch.ite ?_ ?_

theorem impAction_touch (c : Fin 4) (s : State) :
    Touch [.pwr] s (impAction c s) := by
  unfold impAction
  try dsimp only
  repeat' first
      | with_reducible exact Touch.refl _ _ | with_reducible assumption
      | with_reducible refine (askProtect_touch ..).after ?_ rfl | with_reducible refine Touch.ite ?_ ?_

theorem execOpenLoad_touch (c : Fin 4) (s : State) :
    AnsTouch [.pages, .pwr, .cnt] s (execOpenLoad c s) := by
  unfold execOpenLoad
  try dsimp only
  repeat' first
      | with_reducible refine AnsTouch.next ?_ | with_reducible refine AnsTouch.ite ?_ ?_
      | with_reducible exact Touch.refl _ _ | with_reducible assumption
      | with_reducible refine (State.onPch_touch ..).after ?_ rfl
      | with_reducible refine (State.bumpProt_touch ..).after ?_ rfl
      | with_reducible refine (State.raise_touch ..).after ?_ rfl
      | with_reducible refine (impAction_touch ..).after ?_ rfl | with_reducible refine Touch.ite ?_ ?_

theorem execOpenLoadClear_touch (c : Fin 4) (s : State) :
    AnsTouch [.pwr] s (execOpenLoadClear c s) := by
  unfold execOpenLoadClear
  try dsimp only
  repeat' first
      | with_reducible refine AnsTouch.next ?_ | with_reducible refine AnsTouch.ite ?_ ?_
      | with_reducible exact Touch.refl _ _ | with_reducible assumption
      | with_reducible refine (State.onPch_touch ..).after ?_ rfl

theorem execImpedanceWindow_touch (c : Fin 4) (z : Word) (s : State) :
    AnsTouch [.pages, .pwr, .cnt] s (execImpedanceWindow c z s) := by
  unfold execImpedanceWindow
  try dsimp only
  repeat' first
      | with_reducible refine AnsTouch.next ?_ | with_reducible refine AnsTouch.ite ?_ ?_
      | with_reducible exact Touch.refl _ _ | with_reducible assumption
      | with_reducible refine (State.bumpProt_touch ..).after ?_ rfl
      | with_reducible refine (State.raise_touch ..).after ?_ rfl
      | with_reducible refine (impAction_touch ..).after ?_ rfl
      | with_reducible refine (State.onPch_touch ..).after ?_ rfl | with_reducible refine Touch.ite ?_ ?_

theorem execDieTempEvent_touch (c : Fin 4) (temp : Int) (s : State) :
    AnsTouch [.pages, .pwr] s (execDieTempEvent c temp s) := by
  unfold execDieTempEvent
  try dsimp only
  repeat' first
      | with_reducible refine AnsTouch.next ?_ | with_reducible refine AnsTouch.ite ?_ ?_
      | with_reducible exact Touch.refl _ _ | with_reducible assumption
      | with_reducible refine (askProtect_touch ..).after ?_ rfl
      | with_reducible refine (State.raise_touch ..).after ?_ rfl
      | with_reducible refine (State.onPch_touch ..).after ?_ rfl | with_reducible refine Touch.ite ?_ ?_

theorem execBaseplateTempEvent_touch (temp : Int) (s : State) :
    AnsTouch [.pages, .pwr] s (execBaseplateTempEvent temp s) := by
  unfold execBaseplateTempEvent
  try dsimp only
  repeat' first
      | with_reducible refine AnsTouch.next ?_ | with_reducible refine AnsTouch.ite ?_ ?_
      | with_reducible exact Touch.refl _ _ | with_reducible assumption | with_reducible refine Touch.onPwr ?_ rfl
      | with_reducible refine Touch.forAll ?_ ?_ | with_reducible refine (askProtect_touch ..).after ?_ rfl
      | with_reducible refine (State.raise_touch ..).after ?_ rfl | with_reducible refine Touch.ite ?_ ?_ | (intro _)

theorem execLogicDieTempWarning_touch (s : State) :
    AnsTouch [.pages, .pwr] s (execLogicDieTempWarning s) := by
  unfold execLogicDieTempWarning
  try dsimp only
  repeat' first
      | with_reducible refine AnsTouch.next ?_ | with_reducible refine AnsTouch.ite ?_ ?_
      | with_reducible exact Touch.refl _ _ | with_reducible assumption | with_reducible refine Touch.onPwr ?_ rfl
      | with_reducible refine (State.raise_touch ..).after ?_ rfl | with_reducible refine Touch.ite ?_ ?_

theorem execTempWarningClear_touch (src : TempSource) (s : State) :
    AnsTouch [.pwr] s (execTempWarningClear src s) := by
  unfold execTempWarningClear
  try dsimp only
  repeat' first
      | with_reducible refine AnsTouch.next ?_ | with_reducible refine AnsTouch.ite ?_ ?_
      | with_reducible exact Touch.refl _ _ | with_reducible assumption | with_reducible refine Touch.onPwr ?_ rfl
      | with_reducible refine (State.onPch_touch ..).after ?_ rfl | with_reducible refine Touch.ite ?_ ?_ | (intro _)
      | split

theorem execTempStopRecovery_touch (src : TempSource) (temp : Int) (s : State) :
    AnsTouch [.pwr] s (execTempStopRecovery src temp s) := by
  unfold execTempStopRecovery
  try dsimp only
  repeat' first
      | with_reducible refine AnsTouch.next ?_ | with_reducible refine AnsTouch.ite ?_ ?_
      | with_reducible exact Touch.refl _ _ | with_reducible assumption | with_reducible refine Touch.onPwr ?_ rfl
      | with_reducible refine (State.onPch_touch ..).after ?_ rfl | with_reducible refine Touch.ite ?_ ?_ | (intro _)
      | split

theorem execSageUpdate_touch (c : Fin 4) (i2 : Nat) (p : Nat) (s : State) :
    AnsTouch [.pages, .pwr, .cnt] s (execSageUpdate c i2 p s) := by
  unfold execSageUpdate
  try dsimp only
  repeat' first
      | with_reducible refine AnsTouch.next ?_ | with_reducible refine AnsTouch.ite ?_ ?_
      | with_reducible exact Touch.refl _ _ | with_reducible assumption
      | with_reducible refine (sageStep_touch ..).after ?_ rfl | with_reducible refine Touch.ite ?_ ?_

theorem execSageWindow_touch (c : Fin 4) (r : Nat) (valid : Bool) (s : State) :
    AnsTouch [.pwr, .cnt] s (execSageWindow c r valid s) := by
  unfold execSageWindow
  try dsimp only
  repeat' first
      | with_reducible refine AnsTouch.next ?_ | with_reducible refine AnsTouch.ite ?_ ?_
      | with_reducible exact Touch.refl _ _ | with_reducible assumption
      | with_reducible refine (State.bumpProt_touch ..).after ?_ rfl
      | with_reducible refine (State.onPch_touch ..).after ?_ rfl | with_reducible refine Touch.ite ?_ ?_

theorem saveDue_touch (s : State) :
    Touch [.pwr] s (saveDue s) := by
  unfold saveDue
  try dsimp only
  repeat' first
      | with_reducible exact Touch.refl _ _ | with_reducible assumption | with_reducible refine Touch.onPwr ?_ rfl
      | with_reducible refine Touch.forAll ?_ ?_ | with_reducible refine (saveCoil_touch ..).after ?_ rfl
      | with_reducible refine Touch.ite ?_ ?_ | (intro _)

end Sys2Proof.Machine
end

