-- ==== Sys2Proof/Laws/BoundaryTouch.lean ====
section
/-! SUPPORT. What each operation of Machine/Boundary.lean may change: one lemma each, `<name>_touch`. -/

namespace Sys2Proof.Machine

open Sys2Proof

theorem fadeTick_touch (i : Island) (s : State) :
    Touch [.funcs, .lov, .pwr] s (fadeTick i s) := by
  unfold fadeTick
  try dsimp only
  repeat' first
      | with_reducible exact Touch.refl _ _ | with_reducible assumption | with_reducible refine Touch.onLov ?_ rfl
      | with_reducible refine Touch.forAll ?_ ?_ | with_reducible refine (pchAdvance_touch ..).after ?_ rfl
      | with_reducible refine (endDue_touch ..).after ?_ rfl
      | with_reducible refine (State.onFunc_touch ..).after ?_ rfl | with_reducible refine Touch.ite ?_ ?_ | (intro _)
      | split

theorem lifeWork_touch (i : Island) (s : State) :
    Touch [.funcs, .params, .jobs, .acts, .rings, .pages, .link, .hostMem, .reqs, .svc, .portA, .portB, .path, .time, .strm, .lov, .cores, .loc, .pwr, .memc, .mem, .log, .cnt, .free] s (lifeWork i s) := by
  unfold lifeWork
  try dsimp only
  repeat' first
      | with_reducible exact Touch.refl _ _ | with_reducible assumption | with_reducible refine Touch.forAll ?_ ?_
      | with_reducible refine (lifeTick_touch ..).after ?_ rfl
      | with_reducible refine (startExpire_touch ..).after ?_ rfl
      | with_reducible refine (taskDeadline_touch ..).after ?_ rfl
      | with_reducible refine (taskTimeout_touch ..).after ?_ rfl
      | with_reducible refine (dsyncDue_touch ..).after ?_ rfl
      | with_reducible refine (pchBoundary_touch ..).after ?_ rfl
      | with_reducible refine (saveDue_touch ..).after ?_ rfl | with_reducible refine Touch.ite ?_ ?_ | (intro _)
      | split

theorem openBoundary_touch (i : Island) (n : DWord) (s : State) :
    Touch [.funcs, .params, .jobs, .acts, .rings, .pages, .link, .hostMem, .reqs, .svc, .portA, .portB, .path, .time, .strm, .lov, .cores, .loc, .pwr, .memc, .mem, .log, .cnt, .free] s (openBoundary i n s) := by
  unfold openBoundary
  try dsimp only
  repeat' first
      | with_reducible exact Touch.refl _ _ | with_reducible assumption
      | with_reducible refine (setBegun_touch ..).after ?_ rfl
      | with_reducible refine (fadeTick_touch ..).after ?_ rfl
      | with_reducible refine (lifeWork_touch ..).after ?_ rfl
      | with_reducible refine atTick_touch (fun _ => ?_) ?_ rfl | with_reducible refine Touch.ite ?_ ?_

/-- The boundary's parts, and what the effect itself changes. -/
theorem boundaryDo_touch {ps : List Part} {i : Island} {g : State → State} {r s : State} (hb : ∀ s1, Touch ps s1 (g s1))
    (h : Touch ps r s) (hp : subParts [.funcs, .params, .jobs, .acts, .rings, .pages, .link, .hostMem, .reqs, .svc, .portA, .portB, .path, .time, .strm, .lov, .cores, .loc, .pwr, .memc, .mem, .log, .cnt, .free] ps = true) (hp2 : subParts [.time] ps = true) :
    Touch ps r (boundaryDo i g s) := by
  unfold boundaryDo
  split
  · exact h
  · exact atTick_touch hb ((openBoundary_touch ..).after h hp) hp2

theorem actsDue_touch (i : Island) (s : State) :
    Touch [.chip, .funcs, .params, .live, .writes, .jobs, .acts, .rings, .pages, .link, .hostMem, .reqs, .svc, .portA, .portB, .path, .time, .strm, .lov, .cores, .loc, .pwr, .memc, .mem, .log, .cnt, .edges, .free] s (actsDue i s) := by
  unfold actsDue
  try dsimp only
  repeat' first
      | with_reducible exact Touch.refl _ _ | with_reducible assumption | with_reducible refine Touch.forAll ?_ ?_
      | with_reducible refine (applyAction_touch ..).after ?_ rfl | with_reducible refine Touch.ite ?_ ?_ | (intro _)

theorem writesDue_touch (f : Func) (s : State) :
    Touch [.chip, .funcs, .params, .live, .writes, .jobs, .acts, .rings, .link, .reqs, .svc, .portA, .portB, .path, .time, .strm, .lov, .cores, .loc, .pwr, .cnt, .edges, .free] s (writesDue f s) := by
  unfold writesDue
  try dsimp only
  repeat' first
      | with_reducible exact Touch.refl _ _ | with_reducible assumption
      | with_reducible refine Touch.onLife ?_ ?_ ?_ ?_ ?_ ?_ ?_ | with_reducible refine Touch.forAll ?_ ?_
      | with_reducible refine (applyParam_touch ..).after ?_ rfl
      | with_reducible refine (finishWrites_touch ..).after ?_ rfl | with_reducible refine Touch.ite ?_ ?_
      | exact Or.inl rfl | exact Or.inr fun _ => rfl | exact Or.inr fun _ => ⟨rfl, rfl⟩ | (intro _)

theorem startDue_touch (f : Func) (s : State) :
    Touch [.chip, .funcs, .writes, .jobs, .acts, .rings, .pages, .link, .reqs, .svc, .portA, .portB, .path, .time, .strm, .lov, .cores, .loc, .pwr, .mem, .log, .cnt, .edges, .free] s (startDue f s) := by
  unfold startDue
  try dsimp only
  repeat' first
      | with_reducible exact Touch.refl _ _ | with_reducible assumption
      | with_reducible refine (startEffect_touch ..).after ?_ rfl | with_reducible refine Touch.ite ?_ ?_

theorem stopDue_touch (f : Func) (s : State) :
    Touch [.chip, .funcs, .params, .jobs, .acts, .rings, .pages, .link, .hostMem, .reqs, .portA, .portB, .path, .time, .strm, .lov, .cores, .loc, .pwr, .memc, .mem, .log, .cnt, .free] s (stopDue f s) := by
  unfold stopDue
  try dsimp only
  repeat' first
      | with_reducible exact Touch.refl _ _ | with_reducible assumption
      | with_reducible refine (stopEffect_touch ..).after ?_ rfl | with_reducible refine Touch.ite ?_ ?_

theorem reqsDue_touch (f : Func) (s : State) :
    Touch [.chip, .funcs, .params, .writes, .jobs, .acts, .rings, .pages, .link, .hostMem, .reqs, .svc, .portA, .portB, .path, .time, .strm, .lov, .cores, .loc, .pwr, .memc, .mem, .log, .cnt, .edges, .free] s (reqsDue f s) := by
  unfold reqsDue
  try dsimp only
  repeat' first
      | with_reducible exact Touch.refl _ _ | with_reducible assumption
      | with_reducible refine (stopDue_touch ..).after ?_ rfl | with_reducible refine (startDue_touch ..).after ?_ rfl
      | with_reducible refine Touch.ite ?_ ?_

theorem effectsDue_touch (i : Island) (s : State) :
    Touch [.chip, .funcs, .params, .live, .writes, .jobs, .acts, .rings, .pages, .link, .hostMem, .reqs, .svc, .portA, .portB, .path, .time, .strm, .lov, .cores, .loc, .pwr, .memc, .mem, .log, .cnt, .edges, .free] s (effectsDue i s) := by
  unfold effectsDue
  try dsimp only
  repeat' first
      | with_reducible exact Touch.refl _ _ | with_reducible assumption | with_reducible refine Touch.forAll ?_ ?_
      | with_reducible refine (actsDue_touch ..).after ?_ rfl
      | with_reducible refine (writesDue_touch ..).after ?_ rfl
      | with_reducible refine (reqsDue_touch ..).after ?_ rfl | with_reducible refine Touch.ite ?_ ?_ | (intro _)

theorem execParamWriteEffect_touch (f : Func) (s : State) :
    AnsTouch [.chip, .funcs, .params, .live, .writes, .jobs, .acts, .rings, .pages, .link, .hostMem, .reqs, .svc, .portA, .portB, .path, .time, .strm, .lov, .cores, .loc, .pwr, .memc, .mem, .log, .cnt, .edges, .free] s (execParamWriteEffect f s) := by
  unfold execParamWriteEffect
  try dsimp only
  repeat' first
      | with_reducible refine AnsTouch.next ?_ | with_reducible refine AnsTouch.ite ?_ ?_
      | with_reducible exact Touch.refl _ _ | with_reducible assumption
      | with_reducible refine (actsDue_touch ..).after ?_ rfl
      | with_reducible refine (writesDue_touch ..).after ?_ rfl
      | with_reducible refine boundaryDo_touch (fun _ => ?_) ?_ rfl rfl

theorem applyDue_touch (f : Func) (id : Word) (p : Action → Bool) (s : State) :
    Touch [.chip, .funcs, .params, .live, .writes, .jobs, .acts, .rings, .pages, .link, .hostMem, .reqs, .svc, .portA, .portB, .path, .time, .strm, .lov, .cores, .loc, .pwr, .memc, .mem, .log, .cnt, .edges, .free] s (applyDue f id p s) := by
  unfold applyDue
  try dsimp only
  repeat' first
      | with_reducible exact Touch.refl _ _ | with_reducible assumption
      | with_reducible refine (applyAction_touch ..).after ?_ rfl | with_reducible refine Touch.ite ?_ ?_ | (intro _)
      | split

theorem execSchedActionApply_touch (f : Func) (id : Word) (s : State) :
    AnsTouch [.chip, .funcs, .params, .live, .writes, .jobs, .acts, .rings, .pages, .link, .hostMem, .reqs, .svc, .portA, .portB, .path, .time, .strm, .lov, .cores, .loc, .pwr, .memc, .mem, .log, .cnt, .edges, .free] s (execSchedActionApply f id s) := by
  unfold execSchedActionApply
  try dsimp only
  repeat' first
      | with_reducible refine AnsTouch.next ?_ | with_reducible refine AnsTouch.ite ?_ ?_
      | with_reducible exact Touch.refl _ _ | with_reducible assumption
      | with_reducible refine (applyDue_touch ..).after ?_ rfl
      | with_reducible refine boundaryDo_touch (fun _ => ?_) ?_ rfl rfl

theorem execLateActionApply_touch (f : Func) (id : Word) (s : State) :
    AnsTouch [.chip, .funcs, .params, .live, .writes, .jobs, .acts, .rings, .pages, .link, .hostMem, .reqs, .svc, .portA, .portB, .path, .time, .strm, .lov, .cores, .loc, .pwr, .memc, .mem, .log, .cnt, .edges, .free] s (execLateActionApply f id s) := by
  unfold execLateActionApply
  try dsimp only
  repeat' first
      | with_reducible refine AnsTouch.next ?_ | with_reducible refine AnsTouch.ite ?_ ?_
      | with_reducible exact Touch.refl _ _ | with_reducible assumption
      | with_reducible refine (applyDue_touch ..).after ?_ rfl
      | with_reducible refine boundaryDo_touch (fun _ => ?_) ?_ rfl rfl

theorem execStartEffect_touch (f : Func) (s : State) :
    AnsTouch [.chip, .funcs, .params, .live, .writes, .jobs, .acts, .rings, .pages, .link, .hostMem, .reqs, .svc, .portA, .portB, .path, .time, .strm, .lov, .cores, .loc, .pwr, .memc, .mem, .log, .cnt, .edges, .free] s (execStartEffect f s) := by
  unfold execStartEffect
  try dsimp only
  repeat' first
      | with_reducible refine AnsTouch.next ?_ | with_reducible refine AnsTouch.ite ?_ ?_
      | with_reducible exact Touch.refl _ _ | with_reducible assumption
      | with_reducible refine (actsDue_touch ..).after ?_ rfl | with_reducible refine (startDue_touch ..).after ?_ rfl
      | with_reducible refine boundaryDo_touch (fun _ => ?_) ?_ rfl rfl
      | with_reducible refine (startEffect_touch ..).after ?_ rfl | with_reducible refine Touch.ite ?_ ?_

theorem execStopEffect_touch (f : Func) (s : State) :
    AnsTouch [.chip, .funcs, .params, .live, .writes, .jobs, .acts, .rings, .pages, .link, .hostMem, .reqs, .svc, .portA, .portB, .path, .time, .strm, .lov, .cores, .loc, .pwr, .memc, .mem, .log, .cnt, .edges, .free] s (execStopEffect f s) := by
  unfold execStopEffect
  try dsimp only
  repeat' first
      | with_reducible refine AnsTouch.next ?_ | with_reducible refine AnsTouch.ite ?_ ?_
      | with_reducible exact Touch.refl _ _ | with_reducible assumption
      | with_reducible refine (actsDue_touch ..).after ?_ rfl | with_reducible refine (stopDue_touch ..).after ?_ rfl
      | with_reducible refine boundaryDo_touch (fun _ => ?_) ?_ rfl rfl
      | with_reducible refine (stopEffect_touch ..).after ?_ rfl | with_reducible refine Touch.ite ?_ ?_

theorem execStartSequenceComplete_touch (f : Func) (s : State) :
    AnsTouch [.funcs, .params, .jobs, .acts, .rings, .pages, .link, .hostMem, .reqs, .svc, .portA, .portB, .path, .time, .strm, .lov, .cores, .loc, .pwr, .memc, .mem, .log, .cnt, .free] s (execStartSequenceComplete f s) := by
  unfold execStartSequenceComplete
  try dsimp only
  repeat' first
      | with_reducible refine AnsTouch.next ?_ | with_reducible refine AnsTouch.ite ?_ ?_
      | with_reducible exact Touch.refl _ _ | with_reducible assumption
      | with_reducible refine (enterRunning_touch ..).after ?_ rfl
      | with_reducible refine boundaryDo_touch (fun _ => ?_) ?_ rfl rfl | with_reducible refine Touch.ite ?_ ?_

theorem execStopFadeComplete_touch (f : Func) (s : State) :
    AnsTouch [.funcs, .params, .jobs, .acts, .rings, .pages, .link, .hostMem, .reqs, .svc, .portA, .portB, .path, .time, .strm, .lov, .cores, .loc, .pwr, .memc, .mem, .log, .cnt, .free] s (execStopFadeComplete f s) := by
  unfold execStopFadeComplete
  try dsimp only
  repeat' first
      | with_reducible refine AnsTouch.next ?_ | with_reducible refine AnsTouch.ite ?_ ?_
      | with_reducible exact Touch.refl _ _ | with_reducible assumption
      | with_reducible refine (enterStopped_touch ..).after ?_ rfl
      | with_reducible refine boundaryDo_touch (fun _ => ?_) ?_ rfl rfl | with_reducible refine Touch.ite ?_ ?_

theorem execStartTimeout_touch (f : Func) (s : State) :
    AnsTouch [.funcs, .params, .jobs, .acts, .rings, .pages, .link, .hostMem, .reqs, .svc, .portA, .portB, .path, .time, .strm, .lov, .cores, .loc, .pwr, .memc, .mem, .log, .cnt, .free] s (execStartTimeout f s) := by
  unfold execStartTimeout
  try dsimp only
  repeat' first
      | with_reducible refine AnsTouch.next ?_ | with_reducible refine AnsTouch.ite ?_ ?_
      | with_reducible exact Touch.refl _ _ | with_reducible assumption
      | with_reducible refine (startExpire_touch ..).after ?_ rfl
      | with_reducible refine boundaryDo_touch (fun _ => ?_) ?_ rfl rfl

theorem execPdmWarmupEnd_touch (s : State) :
    AnsTouch [.funcs, .params, .jobs, .acts, .rings, .pages, .link, .hostMem, .reqs, .svc, .portA, .portB, .path, .time, .strm, .lov, .cores, .loc, .pwr, .memc, .mem, .log, .cnt, .free] s (execPdmWarmupEnd s) := by
  unfold execPdmWarmupEnd
  try dsimp only
  repeat' first
      | with_reducible refine AnsTouch.next ?_ | with_reducible refine AnsTouch.ite ?_ ?_
      | with_reducible exact Touch.refl _ _ | with_reducible assumption
      | with_reducible refine (enterRunning_touch ..).after ?_ rfl
      | with_reducible refine boundaryDo_touch (fun _ => ?_) ?_ rfl rfl | with_reducible refine Touch.ite ?_ ?_

theorem execPdmClockStop_touch (s : State) :
    AnsTouch [.funcs, .params, .jobs, .acts, .rings, .pages, .link, .hostMem, .reqs, .svc, .portA, .portB, .path, .time, .strm, .lov, .cores, .loc, .pwr, .memc, .mem, .log, .cnt, .free] s (execPdmClockStop s) := by
  unfold execPdmClockStop
  try dsimp only
  repeat' first
      | with_reducible refine AnsTouch.next ?_ | with_reducible refine AnsTouch.ite ?_ ?_
      | with_reducible exact Touch.refl _ _ | with_reducible assumption
      | with_reducible refine (enterStopped_touch ..).after ?_ rfl
      | with_reducible refine boundaryDo_touch (fun _ => ?_) ?_ rfl rfl | with_reducible refine Touch.ite ?_ ?_

theorem execDecStuckRecover_touch (c : Fin 40) (s : State) :
    AnsTouch [.funcs, .params, .jobs, .acts, .rings, .pages, .link, .hostMem, .reqs, .svc, .portA, .portB, .path, .time, .strm, .lov, .cores, .loc, .pwr, .memc, .mem, .log, .cnt, .free] s (execDecStuckRecover c s) := by
  unfold execDecStuckRecover
  try dsimp only
  repeat' first
      | with_reducible refine AnsTouch.next ?_ | with_reducible refine AnsTouch.ite ?_ ?_
      | with_reducible exact Touch.refl _ _ | with_reducible assumption
      | with_reducible refine (unstick_touch ..).after ?_ rfl
      | with_reducible refine boundaryDo_touch (fun _ => ?_) ?_ rfl rfl

theorem execDsyncReset_touch (s : State) :
    AnsTouch [.funcs, .params, .jobs, .acts, .rings, .pages, .link, .hostMem, .reqs, .svc, .portA, .portB, .path, .time, .strm, .lov, .cores, .loc, .pwr, .memc, .mem, .log, .cnt, .free] s (execDsyncReset s) := by
  unfold execDsyncReset
  try dsimp only
  repeat' first
      | with_reducible refine AnsTouch.next ?_ | with_reducible refine AnsTouch.ite ?_ ?_
      | with_reducible exact Touch.refl _ _ | with_reducible assumption
      | with_reducible refine (dsyncReset_touch ..).after ?_ rfl
      | with_reducible refine boundaryDo_touch (fun _ => ?_) ?_ rfl rfl

theorem execPchEnterRunning_touch (c : Fin 4) (s : State) :
    AnsTouch [.funcs, .params, .jobs, .acts, .rings, .pages, .link, .hostMem, .reqs, .svc, .portA, .portB, .path, .time, .strm, .lov, .cores, .loc, .pwr, .memc, .mem, .log, .cnt, .free] s (execPchEnterRunning c s) := by
  unfold execPchEnterRunning
  try dsimp only
  repeat' first
      | with_reducible refine AnsTouch.next ?_ | with_reducible refine AnsTouch.ite ?_ ?_
      | with_reducible exact Touch.refl _ _ | with_reducible assumption
      | with_reducible refine (pchEnterRunning_touch ..).after ?_ rfl
      | with_reducible refine boundaryDo_touch (fun _ => ?_) ?_ rfl rfl

theorem execPchCmRampDown_touch (c : Fin 4) (s : State) :
    AnsTouch [.funcs, .params, .jobs, .acts, .rings, .pages, .link, .hostMem, .reqs, .svc, .portA, .portB, .path, .time, .strm, .lov, .cores, .loc, .pwr, .memc, .mem, .log, .cnt, .free] s (execPchCmRampDown c s) := by
  unfold execPchCmRampDown
  try dsimp only
  repeat' first
      | with_reducible refine AnsTouch.next ?_ | with_reducible refine AnsTouch.ite ?_ ?_
      | with_reducible exact Touch.refl _ _ | with_reducible assumption
      | with_reducible refine (rampDown_touch ..).after ?_ rfl
      | with_reducible refine boundaryDo_touch (fun _ => ?_) ?_ rfl rfl

theorem execPchSwitchesOpen_touch (c : Fin 4) (s : State) :
    AnsTouch [.funcs, .params, .jobs, .acts, .rings, .pages, .link, .hostMem, .reqs, .svc, .portA, .portB, .path, .time, .strm, .lov, .cores, .loc, .pwr, .memc, .mem, .log, .cnt, .free] s (execPchSwitchesOpen c s) := by
  unfold execPchSwitchesOpen
  try dsimp only
  repeat' first
      | with_reducible refine AnsTouch.next ?_ | with_reducible refine AnsTouch.ite ?_ ?_
      | with_reducible exact Touch.refl _ _ | with_reducible assumption
      | with_reducible refine (pchSwitchesOpen_touch ..).after ?_ rfl
      | with_reducible refine boundaryDo_touch (fun _ => ?_) ?_ rfl rfl

theorem execChiveSettingApply_touch (c : Fin 4) (s : State) :
    AnsTouch [.funcs, .params, .jobs, .acts, .rings, .pages, .link, .hostMem, .reqs, .svc, .portA, .portB, .path, .time, .strm, .lov, .cores, .loc, .pwr, .memc, .mem, .log, .cnt, .free] s (execChiveSettingApply c s) := by
  unfold execChiveSettingApply
  try dsimp only
  repeat' first
      | with_reducible refine AnsTouch.next ?_ | with_reducible refine AnsTouch.ite ?_ ?_
      | with_reducible exact Touch.refl _ _ | with_reducible assumption
      | with_reducible refine (chiveSettle_touch ..).after ?_ rfl
      | with_reducible refine boundaryDo_touch (fun _ => ?_) ?_ rfl rfl

theorem execChiveRestore_touch (c : Fin 4) (s : State) :
    AnsTouch [.funcs, .params, .jobs, .acts, .rings, .pages, .link, .hostMem, .reqs, .svc, .portA, .portB, .path, .time, .strm, .lov, .cores, .loc, .pwr, .memc, .mem, .log, .cnt, .free] s (execChiveRestore c s) := by
  unfold execChiveRestore
  try dsimp only
  repeat' first
      | with_reducible refine AnsTouch.next ?_ | with_reducible refine AnsTouch.ite ?_ ?_
      | with_reducible exact Touch.refl _ _ | with_reducible assumption
      | with_reducible refine (chiveRestore_touch ..).after ?_ rfl
      | with_reducible refine boundaryDo_touch (fun _ => ?_) ?_ rfl rfl

theorem execRetryClear_touch (c : Fin 4) (s : State) :
    AnsTouch [.funcs, .params, .jobs, .acts, .rings, .pages, .link, .hostMem, .reqs, .svc, .portA, .portB, .path, .time, .strm, .lov, .cores, .loc, .pwr, .memc, .mem, .log, .cnt, .free] s (execRetryClear c s) := by
  unfold execRetryClear
  try dsimp only
  repeat' first
      | with_reducible refine AnsTouch.next ?_ | with_reducible refine AnsTouch.ite ?_ ?_
      | with_reducible exact Touch.refl _ _ | with_reducible assumption
      | with_reducible refine (retryClear_touch ..).after ?_ rfl
      | with_reducible refine boundaryDo_touch (fun _ => ?_) ?_ rfl rfl

theorem execSageStateSave_touch (s : State) :
    AnsTouch [.funcs, .params, .jobs, .acts, .rings, .pages, .link, .hostMem, .reqs, .svc, .portA, .portB, .path, .time, .strm, .lov, .cores, .loc, .pwr, .memc, .mem, .log, .cnt, .free] s (execSageStateSave s) := by
  unfold execSageStateSave
  try dsimp only
  repeat' first
      | with_reducible refine AnsTouch.next ?_ | with_reducible refine AnsTouch.ite ?_ ?_
      | with_reducible exact Touch.refl _ _ | with_reducible assumption
      | with_reducible refine (saveDue_touch ..).after ?_ rfl
      | with_reducible refine boundaryDo_touch (fun _ => ?_) ?_ rfl rfl

theorem execTaskRelease_touch (n : Fin 16) (s : State) :
    AnsTouch [.chip, .funcs, .params, .live, .writes, .jobs, .acts, .rings, .pages, .link, .hostMem, .reqs, .svc, .portA, .portB, .path, .time, .strm, .lov, .cores, .loc, .pwr, .memc, .mem, .log, .cnt, .edges, .free] s (execTaskRelease n s) := by
  unfold execTaskRelease
  try dsimp only
  repeat' first
      | with_reducible refine AnsTouch.next ?_ | with_reducible refine AnsTouch.ite ?_ ?_
      | with_reducible exact Touch.refl _ _ | with_reducible assumption
      | with_reducible refine atTick_touch (fun _ => ?_) ?_ rfl
      | with_reducible refine (actsDue_touch ..).after ?_ rfl
      | with_reducible refine (writesDue_touch ..).after ?_ rfl
      | with_reducible refine (releaseNext_touch ..).after ?_ rfl
      | with_reducible refine boundaryDo_touch (fun _ => ?_) ?_ rfl rfl | with_reducible refine Touch.ite ?_ ?_
      | (intro _) | split

theorem execTaskDeadlineMiss_touch (n : Fin 16) (s : State) :
    AnsTouch [.funcs, .params, .jobs, .acts, .rings, .pages, .link, .hostMem, .reqs, .svc, .portA, .portB, .path, .time, .strm, .lov, .cores, .loc, .pwr, .memc, .mem, .log, .cnt, .free] s (execTaskDeadlineMiss n s) := by
  unfold execTaskDeadlineMiss
  try dsimp only
  repeat' first
      | with_reducible refine AnsTouch.next ?_ | with_reducible refine AnsTouch.ite ?_ ?_
      | with_reducible exact Touch.refl _ _ | with_reducible assumption
      | with_reducible refine (taskDeadline_touch ..).after ?_ rfl
      | with_reducible refine boundaryDo_touch (fun _ => ?_) ?_ rfl rfl

theorem execTaskTimeout_touch (n : Fin 16) (s : State) :
    AnsTouch [.funcs, .params, .jobs, .acts, .rings, .pages, .link, .hostMem, .reqs, .svc, .portA, .portB, .path, .time, .strm, .lov, .cores, .loc, .pwr, .memc, .mem, .log, .cnt, .free] s (execTaskTimeout n s) := by
  unfold execTaskTimeout
  try dsimp only
  repeat' first
      | with_reducible refine AnsTouch.next ?_ | with_reducible refine AnsTouch.ite ?_ ?_
      | with_reducible exact Touch.refl _ _ | with_reducible assumption
      | with_reducible refine (taskTimeout_touch ..).after ?_ rfl
      | with_reducible refine boundaryDo_touch (fun _ => ?_) ?_ rfl rfl

end Sys2Proof.Machine
end

