-- ==== Sys2Proof/Laws/Dispatch.lean ====
section
/-! SUPPORT. What exec runs for each command. -/

namespace Sys2Proof.Machine

open Sys2Proof

@[simp] theorem exec_linePowerUp (port strap s) : exec (.linePowerUp port strap) s = execLinePowerUp port strap s := rfl
@[simp] theorem exec_dramTrained (s) : exec .dramTrained s = execDramTrained s := rfl
@[simp] theorem exec_bootComplete (s) : exec .bootComplete s = execBootComplete s := rfl
@[simp] theorem exec_coreRailSag (depth s) : exec (.coreRailSag depth) s = execCoreRailSag depth s := rfl
@[simp] theorem exec_clockedRailFall (s) : exec .clockedRailFall s = execClockedRailFall s := rfl
@[simp] theorem exec_clockedRailReturn (s) : exec .clockedRailReturn s = execClockedRailReturn s := rfl
@[simp] theorem exec_pdTurnOff (s) : exec .pdTurnOff s = execPdTurnOff s := rfl
@[simp] theorem exec_portPowerLoss (port s) : exec (.portPowerLoss port) s = execPortPowerLoss port s := rfl
@[simp] theorem exec_pdClassification (port events pairsets s) : exec (.pdClassification port events pairsets) s = execPdClassification port events pairsets s := rfl
@[simp] theorem exec_pdVinUpdate (port vin s) : exec (.pdVinUpdate port vin) s = execPdVinUpdate port vin s := rfl
@[simp] theorem exec_vauxShort (shorted s) : exec (.vauxShort shorted) s = execVauxShort shorted s := rfl
@[simp] theorem exec_vbusConnect (v s) : exec (.vbusConnect v) s = execVbusConnect v s := rfl
@[simp] theorem exec_vbusLoss (s) : exec .vbusLoss s = execVbusLoss s := rfl
@[simp] theorem exec_vbusReversed (v s) : exec (.vbusReversed v) s = execVbusReversed v s := rfl
@[simp] theorem exec_vbusOvervoltage (v s) : exec (.vbusOvervoltage v) s = execVbusOvervoltage v s := rfl
@[simp] theorem exec_ovShortRelease (c s) : exec (.ovShortRelease c) s = execOvShortRelease c s := rfl
@[simp] theorem exec_hvTokenTimeout (s) : exec .hvTokenTimeout s = execHvTokenTimeout s := rfl
@[simp] theorem exec_hvLost (s) : exec .hvLost s = execHvLost s := rfl
@[simp] theorem exec_hvAwake (s) : exec .hvAwake s = execHvAwake s := rfl
@[simp] theorem exec_hvWakeTimeout (s) : exec .hvWakeTimeout s = execHvWakeTimeout s := rfl
@[simp] theorem exec_hvSleep (s) : exec .hvSleep s = execHvSleep s := rfl
@[simp] theorem exec_perstNAssert (s) : exec .perstNAssert s = execPerstNAssert s := rfl
@[simp] theorem exec_perstNRelease (s) : exec .perstNRelease s = execPerstNRelease s := rfl
@[simp] theorem exec_pcieLinkTrained (speed width s) : exec (.pcieLinkTrained speed width) s = execPcieLinkTrained speed width s := rfl
@[simp] theorem exec_bmeChange (on s) : exec (.bmeChange on) s = execBmeChange on s := rfl
@[simp] theorem exec_softReset (v s) : exec (.softReset v) s = execSoftReset v s := rfl
@[simp] theorem exec_jtagReset (s) : exec .jtagReset s = execJtagReset s := rfl
@[simp] theorem exec_noardResetAccept (s) : exec .noardResetAccept s = execNoardResetAccept s := rfl
@[simp] theorem exec_resetStopTimeout (s) : exec .resetStopTimeout s = execResetStopTimeout s := rfl
@[simp] theorem exec_resetIslands (strap s) : exec (.resetIslands strap) s = execResetIslands strap s := rfl
@[simp] theorem exec_resetCauseClear (v s) : exec (.resetCauseClear v) s = execResetCauseClear v s := rfl
@[simp] theorem exec_svcWatchdogRestart (s) : exec .svcWatchdogRestart s = execSvcWatchdogRestart s := rfl
@[simp] theorem exec_tickBoundary (s) : exec .tickBoundary s = execTickBoundary s := rfl
@[simp] theorem exec_tickToken (isl idx parityOk streams s) : exec (.tickToken isl idx parityOk streams) s = execTickToken isl idx parityOk streams s := rfl
@[simp] theorem exec_paramWriteEffect (f s) : exec (.paramWriteEffect f) s = execParamWriteEffect f s := rfl
@[simp] theorem exec_vectorHandoff (p k s) : exec (.vectorHandoff p k) s = execVectorHandoff p k s := rfl
@[simp] theorem exec_vectorMissed (p k s) : exec (.vectorMissed p k) s = execVectorMissed p k s := rfl
@[simp] theorem exec_fadeComplete (p k s) : exec (.fadeComplete p k) s = execFadeComplete p k s := rfl
@[simp] theorem exec_funcConfig (q d h s) : exec (.funcConfig q d h) s = execFuncConfig q d h s := rfl
@[simp] theorem exec_funcStart (q d s) : exec (.funcStart q d) s = execFuncStart q d s := rfl
@[simp] theorem exec_funcStop (q d s) : exec (.funcStop q d) s = execFuncStop q d s := rfl
@[simp] theorem exec_funcQuery (q d s) : exec (.funcQuery q d) s = execFuncQuery q d s := rfl
@[simp] theorem exec_startEffect (f s) : exec (.startEffect f) s = execStartEffect f s := rfl
@[simp] theorem exec_stopEffect (f s) : exec (.stopEffect f) s = execStopEffect f s := rfl
@[simp] theorem exec_startSequenceComplete (f s) : exec (.startSequenceComplete f) s = execStartSequenceComplete f s := rfl
@[simp] theorem exec_stopFadeComplete (f s) : exec (.stopFadeComplete f) s = execStopFadeComplete f s := rfl
@[simp] theorem exec_startTimeout (f s) : exec (.startTimeout f) s = execStartTimeout f s := rfl
@[simp] theorem exec_functionFault (f cause s) : exec (.functionFault f cause) s = execFunctionFault f cause s := rfl
@[simp] theorem exec_logDropReport (s) : exec .logDropReport s = execLogDropReport s := rfl
@[simp] theorem exec_registerWrite (off v s) : exec (.registerWrite off v) s = execRegisterWrite off v s := rfl
@[simp] theorem exec_bar0BadAccess (off size write s) : exec (.bar0BadAccess off size write) s = execBar0BadAccess off size write s := rfl
@[simp] theorem exec_counterLoRead (off s) : exec (.counterLoRead off) s = execCounterLoRead off s := rfl
@[simp] theorem exec_ringFetchSkipRead (s) : exec .ringFetchSkipRead s = execRingFetchSkipRead s := rfl
@[simp] theorem exec_pcieHosterrCountRead (s) : exec .pcieHosterrCountRead s = execPcieHosterrCountRead s := rfl
@[simp] theorem exec_svcNoardCountRead (k s) : exec (.svcNoardCountRead k) s = execSvcNoardCountRead k s := rfl
@[simp] theorem exec_timeTickLoRead (s) : exec .timeTickLoRead s = execTimeTickLoRead s := rfl
@[simp] theorem exec_strmRxMarginRead (path k s) : exec (.strmRxMarginRead path k) s = execStrmRxMarginRead path k s := rfl
@[simp] theorem exec_lovPeakRead (s) : exec .lovPeakRead s = execLovPeakRead s := rfl
@[simp] theorem exec_lovClippedClear (w v s) : exec (.lovClippedClear w v) s = execLovClippedClear w v s := rfl
@[simp] theorem exec_scTaskMaxRead (n s) : exec (.scTaskMaxRead n) s = execScTaskMaxRead n s := rfl
@[simp] theorem exec_memcWorstRt0Read (s) : exec .memcWorstRt0Read s = execMemcWorstRt0Read s := rfl
@[simp] theorem exec_xbarPeakRead (m s) : exec (.xbarPeakRead m) s = execXbarPeakRead m s := rfl
@[simp] theorem exec_xbarErrCountRead (s) : exec .xbarErrCountRead s = execXbarErrCountRead s := rfl
@[simp] theorem exec_ringEnable (q v s) : exec (.ringEnable q v) s = execRingEnable q v s := rfl
@[simp] theorem exec_ringDisable (q v s) : exec (.ringDisable q v) s = execRingDisable q v s := rfl
@[simp] theorem exec_ringDrainComplete (q s) : exec (.ringDrainComplete q) s = execRingDrainComplete q s := rfl
@[simp] theorem exec_doorbellFetch (s) : exec .doorbellFetch s = execDoorbellFetch s := rfl
@[simp] theorem exec_tarragonDoorbellFetch (s) : exec .tarragonDoorbellFetch s = execTarragonDoorbellFetch s := rfl
@[simp] theorem exec_doorbellReadComplete (set h s) : exec (.doorbellReadComplete set h) s = execDoorbellReadComplete set h s := rfl
@[simp] theorem exec_descriptorReadComplete (q d s) : exec (.descriptorReadComplete q d) s = execDescriptorReadComplete q d s := rfl
@[simp] theorem exec_completionRecordWrite (q s) : exec (.completionRecordWrite q) s = execCompletionRecordWrite q s := rfl
@[simp] theorem exec_statusPageWrite (set s) : exec (.statusPageWrite set) s = execStatusPageWrite set s := rfl
@[simp] theorem exec_hostReadFail (addr s) : exec (.hostReadFail addr) s = execHostReadFail addr s := rfl
@[simp] theorem exec_nop (q d s) : exec (.nop q d) s = execNop q d s := rfl
@[simp] theorem exec_fence (q d s) : exec (.fence q d) s = execFence q d s := rfl
@[simp] theorem exec_fenceComplete (q s) : exec (.fenceComplete q) s = execFenceComplete q s := rfl
@[simp] theorem exec_paramWrite (q d s) : exec (.paramWrite q d) s = execParamWrite q d s := rfl
@[simp] theorem exec_paramRead (q d s) : exec (.paramRead q d) s = execParamRead q d s := rfl
@[simp] theorem exec_sched (q d s) : exec (.sched q d) s = execSched q d s := rfl
@[simp] theorem exec_schedCancel (q d s) : exec (.schedCancel q d) s = execSchedCancel q d s := rfl
@[simp] theorem exec_schedActionApply (f id s) : exec (.schedActionApply f id) s = execSchedActionApply f id s := rfl
@[simp] theorem exec_lateActionApply (f id s) : exec (.lateActionApply f id) s = execLateActionApply f id s := rfl
@[simp] theorem exec_copy (q d s) : exec (.copy q d) s = execCopy q d s := rfl
@[simp] theorem exec_copyComplete (q h s) : exec (.copyComplete q h) s = execCopyComplete q h s := rfl
@[simp] theorem exec_capture (q d s) : exec (.capture q d) s = execCapture q d s := rfl
@[simp] theorem exec_playback (q d s) : exec (.playback q d) s = execPlayback q d s := rfl
@[simp] theorem exec_loadImage (q d h s) : exec (.loadImage q d h) s = execLoadImage q d h s := rfl
@[simp] theorem exec_imagePlaced (q s) : exec (.imagePlaced q) s = execImagePlaced q s := rfl
@[simp] theorem exec_statsRead (q d s) : exec (.statsRead q d) s = execStatsRead q d s := rfl
@[simp] theorem exec_logRead (q d s) : exec (.logRead q d) s = execLogRead q d s := rfl
@[simp] theorem exec_timeQuery (q d s) : exec (.timeQuery q d) s = execTimeQuery q d s := rfl
@[simp] theorem exec_timeStepAccept (q d s) : exec (.timeStepAccept q d) s = execTimeStepAccept q d s := rfl
@[simp] theorem exec_pathSwitch (q d s) : exec (.pathSwitch q d) s = execPathSwitch q d s := rfl
@[simp] theorem exec_routeSet (q d h s) : exec (.routeSet q d h) s = execRouteSet q d h s := rfl
@[simp] theorem exec_routeRead (q d s) : exec (.routeRead q d) s = execRouteRead q d s := rfl
@[simp] theorem exec_memRetire (q d s) : exec (.memRetire q d) s = execMemRetire q d s := rfl
@[simp] theorem exec_polarityTest (q d s) : exec (.polarityTest q d) s = execPolarityTest q d s := rfl
@[simp] theorem exec_loadTest (q d s) : exec (.loadTest q d) s = execLoadTest q d s := rfl
@[simp] theorem exec_noardRequest (port src vlan pdu s) : exec (.noardRequest port src vlan pdu) s = execNoardRequest port src vlan pdu s := rfl
@[simp] theorem exec_noardReply (slot counter s) : exec (.noardReply slot counter) s = execNoardReply slot counter s := rfl
@[simp] theorem exec_replyWaitExpiry (slot counter s) : exec (.replyWaitExpiry slot counter) s = execReplyWaitExpiry slot counter s := rfl
@[simp] theorem exec_noardEventNotice (s) : exec .noardEventNotice s = execNoardEventNotice s := rfl
@[simp] theorem exec_arpRequest (port target asker mac s) : exec (.arpRequest port target asker mac) s = execArpRequest port target asker mac s := rfl
@[simp] theorem exec_icmpEcho (port dst asker mac ident payload s) : exec (.icmpEcho port dst asker mac ident payload) s = execIcmpEcho port dst asker mac ident payload s := rfl
@[simp] theorem exec_icmpv6Echo (port dst asker mac ident payload s) : exec (.icmpv6Echo port dst asker mac ident payload) s = execIcmpv6Echo port dst asker mac ident payload s := rfl
@[simp] theorem exec_neighbourSolicitation (port target asker mac s) : exec (.neighbourSolicitation port target asker mac) s = execNeighbourSolicitation port target asker mac s := rfl
@[simp] theorem exec_igmpQuery (port group s) : exec (.igmpQuery port group) s = execIgmpQuery port group s := rfl
@[simp] theorem exec_mldQuery (port group s) : exec (.mldQuery port group) s = execMldQuery port group s := rfl
@[simp] theorem exec_identifyExpiry (s) : exec .identifyExpiry s = execIdentifyExpiry s := rfl
@[simp] theorem exec_svcKeyWrite (v s) : exec (.svcKeyWrite v) s = execSvcKeyWrite v s := rfl
@[simp] theorem exec_svcKeyRevoke (v s) : exec (.svcKeyRevoke v) s = execSvcKeyRevoke v s := rfl
@[simp] theorem exec_svcLock (v s) : exec (.svcLock v) s = execSvcLock v s := rfl
@[simp] theorem exec_jtagNonceRead (s) : exec .jtagNonceRead s = execJtagNonceRead s := rfl
@[simp] theorem exec_jtagChallengeAnswer (ans s) : exec (.jtagChallengeAnswer ans) s = execJtagChallengeAnswer ans s := rfl
@[simp] theorem exec_jtagLockoutEnd (s) : exec .jtagLockoutEnd s = execJtagLockoutEnd s := rfl
@[simp] theorem exec_anegComplete (port partner lpPause partnerMulti seedWins s) : exec (.anegComplete port partner lpPause partnerMulti seedWins) s = execAnegComplete port partner lpPause partnerMulti seedWins s := rfl
@[simp] theorem exec_linkUp (port mdix swap01 swap23 pol s) : exec (.linkUp port mdix swap01 swap23 pol) s = execLinkUp port mdix swap01 swap23 pol s := rfl
@[simp] theorem exec_linkDown (port s) : exec (.linkDown port) s = execLinkDown port s := rfl
@[simp] theorem exec_linkAttemptFail (port s) : exec (.linkAttemptFail port) s = execLinkAttemptFail port s := rfl
@[simp] theorem exec_anegWrite (port v s) : exec (.anegWrite port v) s = execAnegWrite port v s := rfl
@[simp] theorem exec_anegRestart (port v s) : exec (.anegRestart port v) s = execAnegRestart port v s := rfl
@[simp] theorem exec_frameReceive (port f s) : exec (.frameReceive port f) s = execFrameReceive port f s := rfl
@[simp] theorem exec_pauseFrame (port toModule time s) : exec (.pauseFrame port toModule time) s = execPauseFrame port toModule time s := rfl
@[simp] theorem exec_pauseExpiry (port s) : exec (.pauseExpiry port) s = execPauseExpiry port s := rfl
@[simp] theorem exec_frameTransmit (port s) : exec (.frameTransmit port) s = execFrameTransmit port s := rfl
@[simp] theorem exec_forwardCommit (ingress f s) : exec (.forwardCommit ingress f) s = execForwardCommit ingress f s := rfl
@[simp] theorem exec_forwardEgressStart (egress residence s) : exec (.forwardEgressStart egress residence) s = execForwardEgressStart egress residence s := rfl
@[simp] theorem exec_ringClosedTimeout (port s) : exec (.ringClosedTimeout port) s = execRingClosedTimeout port s := rfl
@[simp] theorem exec_nodeIdGraceEnd (s) : exec .nodeIdGraceEnd s = execNodeIdGraceEnd s := rfl
@[simp] theorem exec_pathTopoWrite (ringReg v s) : exec (.pathTopoWrite ringReg v) s = execPathTopoWrite ringReg v s := rfl
@[simp] theorem exec_unsyncIlkChange (s) : exec .unsyncIlkChange s = execUnsyncIlkChange s := rfl
@[simp] theorem exec_unsyncEnd (s) : exec .unsyncEnd s = execUnsyncEnd s := rfl
@[simp] theorem exec_ilkNChange (high s) : exec (.ilkNChange high) s = execIlkNChange high s := rfl
@[simp] theorem exec_ilkSample (s) : exec .ilkSample s = execIlkSample s := rfl
@[simp] theorem exec_ptpSync (port m s) : exec (.ptpSync port m) s = execPtpSync port m s := rfl
@[simp] theorem exec_ptpFollowUp (port seq t1 corr s) : exec (.ptpFollowUp port seq t1 corr) s = execPtpFollowUp port seq t1 corr s := rfl
@[simp] theorem exec_ptpDelayReq (port seq requester t4 s) : exec (.ptpDelayReq port seq requester t4) s = execPtpDelayReq port seq requester t4 s := rfl
@[simp] theorem exec_ptpDelayResp (port seq t4 corr s) : exec (.ptpDelayResp port seq t4 corr) s = execPtpDelayResp port seq t4 corr s := rfl
@[simp] theorem exec_ptpPdelayReq (port seq requester t2 s) : exec (.ptpPdelayReq port seq requester t2) s = execPtpPdelayReq port seq requester t2 s := rfl
@[simp] theorem exec_ptpPdelayResp (port m s) : exec (.ptpPdelayResp port m) s = execPtpPdelayResp port m s := rfl
@[simp] theorem exec_ptpAnnounce (port m s) : exec (.ptpAnnounce port m) s = execPtpAnnounce port m s := rfl
@[simp] theorem exec_servoUpdate (meas s) : exec (.servoUpdate meas) s = execServoUpdate meas s := rfl
@[simp] theorem exec_announceTimeout (port s) : exec (.announceTimeout port) s = execAnnounceTimeout port s := rfl
@[simp] theorem exec_ptpSyncSend (port s) : exec (.ptpSyncSend port) s = execPtpSyncSend port s := rfl
@[simp] theorem exec_ptpAnnounceSend (port s) : exec (.ptpAnnounceSend port) s = execPtpAnnounceSend port s := rfl
@[simp] theorem exec_ptpDelayReqSend (port t3 s) : exec (.ptpDelayReqSend port t3) s = execPtpDelayReqSend port t3 s := rfl
@[simp] theorem exec_lockTimer (s) : exec .lockTimer s = execLockTimer s := rfl
@[simp] theorem exec_refQualUpdate (freqs phases s) : exec (.refQualUpdate freqs phases) s = execRefQualUpdate freqs phases s := rfl
@[simp] theorem exec_slewComplete (s) : exec .slewComplete s = execSlewComplete s := rfl
@[simp] theorem exec_oscModelSave (s) : exec .oscModelSave s = execOscModelSave s := rfl
@[simp] theorem exec_wcinEdge (sinceLast high phase s) : exec (.wcinEdge sinceLast high phase) s = execWcinEdge sinceLast high phase s := rfl
@[simp] theorem exec_wcinLoss (s) : exec .wcinLoss s = execWcinLoss s := rfl
@[simp] theorem exec_timeCtrlWrite (v s) : exec (.timeCtrlWrite v) s = execTimeCtrlWrite v s := rfl
@[simp] theorem exec_streamPacketReceive (path k pkt s) : exec (.streamPacketReceive path k pkt) s = execStreamPacketReceive path k pkt s := rfl
@[simp] theorem exec_streamPacketLaunch (k s) : exec (.streamPacketLaunch k) s = execStreamPacketLaunch k s := rfl
@[simp] theorem exec_crosspointRampEnd (src snk s) : exec (.crosspointRampEnd src snk) s = execCrosspointRampEnd src snk s := rfl
@[simp] theorem exec_generatorSettingApply (g s) : exec (.generatorSettingApply g) s = execGeneratorSettingApply g s := rfl
@[simp] theorem exec_playbackFrameRead (q tag h s) : exec (.playbackFrameRead q tag h) s = execPlaybackFrameRead q tag h s := rfl
@[simp] theorem exec_taskRelease (n s) : exec (.taskRelease n) s = execTaskRelease n s := rfl
@[simp] theorem exec_taskDeadlineMiss (n s) : exec (.taskDeadlineMiss n) s = execTaskDeadlineMiss n s := rfl
@[simp] theorem exec_taskTimeout (n s) : exec (.taskTimeout n) s = execTaskTimeout n s := rfl
@[simp] theorem exec_interruptTaken (n s) : exec (.interruptTaken n) s = execInterruptTaken n s := rfl
@[simp] theorem exec_trapTaken (n cause s) : exec (.trapTaken n cause) s = execTrapTaken n cause s := rfl
@[simp] theorem exec_resultLand (n s) : exec (.resultLand n) s = execResultLand n s := rfl
@[simp] theorem exec_xfDone (n c status s) : exec (.xfDone n c status) s = execXfDone n c status s := rfl
@[simp] theorem exec_waitxfResume (n s) : exec (.waitxfResume n) s = execWaitxfResume n s := rfl
@[simp] theorem exec_loopExit (n s) : exec (.loopExit n) s = execLoopExit n s := rfl
@[simp] theorem exec_scDoorbell (n v s) : exec (.scDoorbell n v) s = execScDoorbell n v s := rfl
@[simp] theorem exec_loadPortAccess (master n addr write len s) : exec (.loadPortAccess master n addr write len) s = execLoadPortAccess master n addr write len s := rfl
@[simp] theorem exec_mnop (n w s) : exec (.mnop n w) s = execMnop n w s := rfl
@[simp] theorem exec_mpy (n w s) : exec (.mpy n w) s = execMpy n w s := rfl
@[simp] theorem exec_macOp (n w s) : exec (.macOp n w) s = execMac n w s := rfl
@[simp] theorem exec_msu (n w s) : exec (.msu n w) s = execMsu n w s := rfl
@[simp] theorem exec_mpya (n w s) : exec (.mpya n w) s = execMpya n w s := rfl
@[simp] theorem exec_aadd (n w s) : exec (.aadd n w) s = execAadd n w s := rfl
@[simp] theorem exec_asub (n w s) : exec (.asub n w) s = execAsub n w s := rfl
@[simp] theorem exec_amov (n w s) : exec (.amov n w) s = execAmov n w s := rfl
@[simp] theorem exec_aclr (n w s) : exec (.aclr n w) s = execAclr n w s := rfl
@[simp] theorem exec_ald (n w s) : exec (.ald n w) s = execAld n w s := rfl
@[simp] theorem exec_aluNop (n w s) : exec (.aluNop n w) s = execAluNop n w s := rfl
@[simp] theorem exec_addOp (n w s) : exec (.addOp n w) s = execAdd n w s := rfl
@[simp] theorem exec_adds (n w s) : exec (.adds n w) s = execAdds n w s := rfl
@[simp] theorem exec_subOp (n w s) : exec (.subOp n w) s = execSub n w s := rfl
@[simp] theorem exec_subs (n w s) : exec (.subs n w) s = execSubs n w s := rfl
@[simp] theorem exec_andOp (n w s) : exec (.andOp n w) s = execAnd n w s := rfl
@[simp] theorem exec_orOp (n w s) : exec (.orOp n w) s = execOr n w s := rfl
@[simp] theorem exec_xorOp (n w s) : exec (.xorOp n w) s = execXor n w s := rfl
@[simp] theorem exec_shl (n w s) : exec (.shl n w) s = execShl n w s := rfl
@[simp] theorem exec_shra (n w s) : exec (.shra n w) s = execShra n w s := rfl
@[simp] theorem exec_shrl (n w s) : exec (.shrl n w) s = execShrl n w s := rfl
@[simp] theorem exec_shls (n w s) : exec (.shls n w) s = execShls n w s := rfl
@[simp] theorem exec_minOp (n w s) : exec (.minOp n w) s = execMin n w s := rfl
@[simp] theorem exec_maxOp (n w s) : exec (.maxOp n w) s = execMax n w s := rfl
@[simp] theorem exec_absOp (n w s) : exec (.absOp n w) s = execAbs n w s := rfl
@[simp] theorem exec_negOp (n w s) : exec (.negOp n w) s = execNeg n w s := rfl
@[simp] theorem exec_movOp (n w s) : exec (.movOp n w) s = execMov n w s := rfl
@[simp] theorem exec_bcast (n w s) : exec (.bcast n w) s = execBcast n w s := rfl
@[simp] theorem exec_ldil (n w s) : exec (.ldil n w) s = execLdil n w s := rfl
@[simp] theorem exec_ldih (n w s) : exec (.ldih n w) s = execLdih n w s := rfl
@[simp] theorem exec_cmplt (n w s) : exec (.cmplt n w) s = execCmplt n w s := rfl
@[simp] theorem exec_cmpeq (n w s) : exec (.cmpeq n w) s = execCmpeq n w s := rfl
@[simp] theorem exec_ext (n w s) : exec (.ext n w) s = execExt n w s := rfl
@[simp] theorem exec_exte (n w s) : exec (.exte n w) s = execExte n w s := rfl
@[simp] theorem exec_expa (n w s) : exec (.expa n w) s = execExpa n w s := rfl
@[simp] theorem exec_sete (n w s) : exec (.sete n w) s = execSete n w s := rfl
@[simp] theorem exec_mine (n w s) : exec (.mine n w) s = execMine n w s := rfl
@[simp] theorem exec_gete (n w s) : exec (.gete n w) s = execGete n w s := rfl
@[simp] theorem exec_sinit (n w s) : exec (.sinit n w) s = execSinit n w s := rfl
@[simp] theorem exec_smax (n w s) : exec (.smax n w) s = execSmax n w s := rfl
@[simp] theorem exec_smin (n w s) : exec (.smin n w) s = execSmin n w s := rfl
@[simp] theorem exec_smaxa (n w s) : exec (.smaxa n w) s = execSmaxa n w s := rfl
@[simp] theorem exec_getbv (n w s) : exec (.getbv n w) s = execGetbv n w s := rfl
@[simp] theorem exec_getbi (n w s) : exec (.getbi n w) s = execGetbi n w s := rfl
@[simp] theorem exec_getaov (n w s) : exec (.getaov n w) s = execGetaov n w s := rfl
@[simp] theorem exec_clraov (n w s) : exec (.clraov n w) s = execClraov n w s := rfl
@[simp] theorem exec_br (n w s) : exec (.br n w) s = execBr n w s := rfl
@[simp] theorem exec_bz (n w s) : exec (.bz n w) s = execBz n w s := rfl
@[simp] theorem exec_bnz (n w s) : exec (.bnz n w) s = execBnz n w s := rfl
@[simp] theorem exec_bneg (n w s) : exec (.bneg n w) s = execBneg n w s := rfl
@[simp] theorem exec_loopi (n w s) : exec (.loopi n w) s = execLoopi n w s := rfl
@[simp] theorem exec_loopr (n w s) : exec (.loopr n w) s = execLoopr n w s := rfl
@[simp] theorem exec_waitxf (n w s) : exec (.waitxf n w) s = execWaitxf n w s := rfl
@[simp] theorem exec_endTask (n w s) : exec (.endTask n w) s = execEnd n w s := rfl
@[simp] theorem exec_rti (n w s) : exec (.rti n w) s = execRti n w s := rfl
@[simp] theorem exec_rtij (n w s) : exec (.rtij n w) s = execRtij n w s := rfl
@[simp] theorem exec_trapOp (n w s) : exec (.trapOp n w) s = execTrap n w s := rfl
@[simp] theorem exec_mvnop (n slot w s) : exec (.mvnop n slot w) s = execMvnop n slot w s := rfl
@[simp] theorem exec_ldv (n slot w s) : exec (.ldv n slot w) s = execLdv n slot w s := rfl
@[simp] theorem exec_ldb (n slot w s) : exec (.ldb n slot w) s = execLdb n slot w s := rfl
@[simp] theorem exec_stv (n slot w s) : exec (.stv n slot w) s = execStv n slot w s := rfl
@[simp] theorem exec_sts (n slot w s) : exec (.sts n slot w) s = execSts n slot w s := rfl
@[simp] theorem exec_ldal (n slot w s) : exec (.ldal n slot w) s = execLdal n slot w s := rfl
@[simp] theorem exec_ldam (n slot w s) : exec (.ldam n slot w) s = execLdam n slot w s := rfl
@[simp] theorem exec_ldah (n slot w s) : exec (.ldah n slot w) s = execLdah n slot w s := rfl
@[simp] theorem exec_stal (n slot w s) : exec (.stal n slot w) s = execStal n slot w s := rfl
@[simp] theorem exec_stam (n slot w s) : exec (.stam n slot w) s = execStam n slot w s := rfl
@[simp] theorem exec_stah (n slot w s) : exec (.stah n slot w) s = execStah n slot w s := rfl
@[simp] theorem exec_modp (n slot w s) : exec (.modp n slot w) s = execModp n slot w s := rfl
@[simp] theorem exec_mvar (n slot w s) : exec (.mvar n slot w) s = execMvar n slot w s := rfl
@[simp] theorem exec_mvra (n slot w s) : exec (.mvra n slot w) s = execMvra n slot w s := rfl
@[simp] theorem exec_lia (n slot w s) : exec (.lia n slot w) s = execLia n slot w s := rfl
@[simp] theorem exec_pdmWarmupEnd (s) : exec .pdmWarmupEnd s = execPdmWarmupEnd s := rfl
@[simp] theorem exec_pdmClockStop (s) : exec .pdmClockStop s = execPdmClockStop s := rfl
@[simp] theorem exec_decStuck (c s) : exec (.decStuck c) s = execDecStuck c s := rfl
@[simp] theorem exec_decStuckRecover (c s) : exec (.decStuckRecover c) s = execDecStuckRecover c s := rfl
@[simp] theorem exec_dsyncEdge (lowNs highNs s) : exec (.dsyncEdge lowNs highNs) s = execDsyncEdge lowNs highNs s := rfl
@[simp] theorem exec_dsyncReset (s) : exec .dsyncReset s = execDsyncReset s := rfl
@[simp] theorem exec_decSettleEnd (c s) : exec (.decSettleEnd c) s = execDecSettleEnd c s := rfl
@[simp] theorem exec_tdmFrame (x bck edges ratePpm slots s) : exec (.tdmFrame x bck edges ratePpm slots) s = execTdmFrame x bck edges ratePpm slots s := rfl
@[simp] theorem exec_tdmLoss (x s) : exec (.tdmLoss x) s = execTdmLoss x s := rfl
@[simp] theorem exec_pchFswCtrlWrite (off v s) : exec (.pchFswCtrlWrite off v) s = execPchFswCtrlWrite off v s := rfl
@[simp] theorem exec_pchSwitchingBegin (c s) : exec (.pchSwitchingBegin c) s = execPchSwitchingBegin c s := rfl
@[simp] theorem exec_pchEnterRunning (c s) : exec (.pchEnterRunning c) s = execPchEnterRunning c s := rfl
@[simp] theorem exec_pchCmRampDown (c s) : exec (.pchCmRampDown c) s = execPchCmRampDown c s := rfl
@[simp] theorem exec_pchLowSideClosed (c s) : exec (.pchLowSideClosed c) s = execPchLowSideClosed c s := rfl
@[simp] theorem exec_pchSwitchesOpen (c s) : exec (.pchSwitchesOpen c) s = execPchSwitchesOpen c s := rfl
@[simp] theorem exec_fastStopEnd (c s) : exec (.fastStopEnd c) s = execFastStopEnd c s := rfl
@[simp] theorem exec_chiveSettingApply (c s) : exec (.chiveSettingApply c) s = execChiveSettingApply c s := rfl
@[simp] theorem exec_chiveCut (c s) : exec (.chiveCut c) s = execChiveCut c s := rfl
@[simp] theorem exec_chiveRestore (c s) : exec (.chiveRestore c) s = execChiveRestore c s := rfl
@[simp] theorem exec_currentLimit (c s) : exec (.currentLimit c) s = execCurrentLimit c s := rfl
@[simp] theorem exec_shortDetect (c pattern s) : exec (.shortDetect c pattern) s = execShortDetect c pattern s := rfl
@[simp] theorem exec_overload (c s) : exec (.overload c) s = execOverload c s := rfl
@[simp] theorem exec_dcFault (c s) : exec (.dcFault c) s = execDcFault c s := rfl
@[simp] theorem exec_openLoad (c s) : exec (.openLoad c) s = execOpenLoad c s := rfl
@[simp] theorem exec_impedanceWindow (c z s) : exec (.impedanceWindow c z) s = execImpedanceWindow c z s := rfl
@[simp] theorem exec_dieTempEvent (c temp s) : exec (.dieTempEvent c temp) s = execDieTempEvent c temp s := rfl
@[simp] theorem exec_baseplateTempEvent (temp s) : exec (.baseplateTempEvent temp) s = execBaseplateTempEvent temp s := rfl
@[simp] theorem exec_logicDieTempWarning (s) : exec .logicDieTempWarning s = execLogicDieTempWarning s := rfl
@[simp] theorem exec_tempWarningClear (src s) : exec (.tempWarningClear src) s = execTempWarningClear src s := rfl
@[simp] theorem exec_retryWaitExpiry (c s) : exec (.retryWaitExpiry c) s = execRetryWaitExpiry c s := rfl
@[simp] theorem exec_probe (c passed s) : exec (.probe c passed) s = execProbe c passed s := rfl
@[simp] theorem exec_retryClear (c s) : exec (.retryClear c) s = execRetryClear c s := rfl
@[simp] theorem exec_sageUpdate (c i2 p s) : exec (.sageUpdate c i2 p) s = execSageUpdate c i2 p s := rfl
@[simp] theorem exec_sageWindow (c r valid s) : exec (.sageWindow c r valid) s = execSageWindow c r valid s := rfl
@[simp] theorem exec_sageStateSave (s) : exec .sageStateSave s = execSageStateSave s := rfl
@[simp] theorem exec_polarityImpulse (c sign delay s) : exec (.polarityImpulse c sign delay) s = execPolarityImpulse c sign delay s := rfl
@[simp] theorem exec_polarityResult (c s) : exec (.polarityResult c) s = execPolarityResult c s := rfl
@[simp] theorem exec_loadTestResult (c rec s) : exec (.loadTestResult c rec) s = execLoadTestResult c rec s := rfl
@[simp] theorem exec_xbarRequest (m r s) : exec (.xbarRequest m r) s = execXbarRequest m r s := rfl
@[simp] theorem exec_burstGrant (t s) : exec (.burstGrant t) s = execBurstGrant t s := rfl
@[simp] theorem exec_masterResetDrain (m s) : exec (.masterResetDrain m) s = execMasterResetDrain m s := rfl
@[simp] theorem exec_swap (m a s) : exec (.swap m a) s = execSwap m a s := rfl
@[simp] theorem exec_fetchAdd (m a s) : exec (.fetchAdd m a) s = execFetchAdd m a s := rfl
@[simp] theorem exec_fetchAnd (m a s) : exec (.fetchAnd m a) s = execFetchAnd m a s := rfl
@[simp] theorem exec_fetchOr (m a s) : exec (.fetchOr m a) s = execFetchOr m a s := rfl
@[simp] theorem exec_cas (m a new s) : exec (.cas m a new) s = execCas m a new s := rfl
@[simp] theorem exec_dramRefresh (rank burst waiting s) : exec (.dramRefresh rank burst waiting) s = execDramRefresh rank burst waiting s := rfl
@[simp] theorem exec_selfRefreshEntry (rank s) : exec (.selfRefreshEntry rank) s = execSelfRefreshEntry rank s := rfl
@[simp] theorem exec_patrolScrub (rank addr err last s) : exec (.patrolScrub rank addr err last) s = execPatrolScrub rank addr err last s := rfl
@[simp] theorem exec_parityAlert (rank addr m s) : exec (.parityAlert rank addr m) s = execParityAlert rank addr m s := rfl
@[simp] theorem exec_migrationMibCopy (uncorrectable spareFails s) : exec (.migrationMibCopy uncorrectable spareFails) s = execMigrationMibCopy uncorrectable spareFails s := rfl
@[simp] theorem exec_rankMapSwitch (s) : exec .rankMapSwitch s = execRankMapSwitch s := rfl
@[simp] theorem exec_psWordWrite (addr data failures corrected s) : exec (.psWordWrite addr data failures corrected) s = execPsWordWrite addr data failures corrected s := rfl
@[simp] theorem exec_elapsedSecond (temp s) : exec (.elapsedSecond temp) s = execElapsedSecond temp s := rfl
@[simp] theorem exec_elapsedRecordSave (s) : exec .elapsedRecordSave s = execElapsedRecordSave s := rfl
@[simp] theorem exec_coreRailRecovery (s) : exec .coreRailRecovery s = execCoreRailRecovery s := rfl
@[simp] theorem exec_vbusOvClear (v s) : exec (.vbusOvClear v) s = execVbusOvClear v s := rfl
@[simp] theorem exec_syncReceiptTimeout (port s) : exec (.syncReceiptTimeout port) s = execSyncReceiptTimeout port s := rfl
@[simp] theorem exec_pcieLinkDown (s) : exec .pcieLinkDown s = execPcieLinkDown s := rfl
@[simp] theorem exec_d3hotTransition (d3 s) : exec (.d3hotTransition d3) s = execD3hotTransition d3 s := rfl
@[simp] theorem exec_msixMaskChange (masks enable s) : exec (.msixMaskChange masks enable) s = execMsixMaskChange masks enable s := rfl
@[simp] theorem exec_transactionResponse (m id s) : exec (.transactionResponse m id) s = execTransactionResponse m id s := rfl
@[simp] theorem exec_tempStopRecovery (src temp s) : exec (.tempStopRecovery src temp) s = execTempStopRecovery src temp s := rfl
@[simp] theorem exec_openLoadClear (c s) : exec (.openLoadClear c) s = execOpenLoadClear c s := rfl
@[simp] theorem exec_dramHotChange (hot s) : exec (.dramHotChange hot) s = execDramHotChange hot s := rfl
@[simp] theorem exec_rowHammerWindowEnd (s) : exec .rowHammerWindowEnd s = execRowHammerWindowEnd s := rfl
@[simp] theorem exec_pchVbusUpdate (v s) : exec (.pchVbusUpdate v) s = execPchVbusUpdate v s := rfl
@[simp] theorem exec_ledDarkPeriodEnd (port s) : exec (.ledDarkPeriodEnd port) s = execLedDarkPeriodEnd port s := rfl
@[simp] theorem exec_ledBlinkToggle (port s) : exec (.ledBlinkToggle port) s = execLedBlinkToggle port s := rfl

end Sys2Proof.Machine
end

