-- ==== Sys2Proof/Laws/MemCmdsTouch.lean ====
section
/-! SUPPORT. What each operation of Machine/MemCmds.lean may change: one lemma each, `<name>_touch`. -/

namespace Sys2Proof.Machine

open Sys2Proof

theorem execXbarRequest_touch (m : Fin 13) (r : XbarReq) (s : State) :
    AnsTouch [.memc] s (execXbarRequest m r s) := by
  unfold execXbarRequest
  try dsimp only
  repeat' first
      | with_reducible refine AnsTouch.next ?_ | with_reducible refine AnsTouch.ite ?_ ?_
      | with_reducible exact Touch.refl _ _ | with_reducible assumption
      | with_reducible refine (request_touch ..).after ?_ rfl

theorem execBurstGrant_touch (t : Fin 10) (s : State) :
    AnsTouch [.pages, .hostMem, .memc, .mem, .log, .cnt, .free] s (execBurstGrant t s) := by
  unfold execBurstGrant
  try dsimp only
  repeat' first
      | with_reducible refine AnsTouch.next ?_ | with_reducible refine AnsTouch.ite ?_ ?_
      | with_reducible exact Touch.refl _ _ | with_reducible assumption
      | with_reducible refine (grant_touch ..).after ?_ rfl

theorem execTransactionResponse_touch (m : Fin 13) (id : BitVec 6) (s : State) :
    AnsTouch [.memc] s (execTransactionResponse m id s) := by
  unfold execTransactionResponse
  try dsimp only
  repeat' first
      | with_reducible refine AnsTouch.next ?_ | with_reducible refine AnsTouch.ite ?_ ?_
      | with_reducible exact Touch.refl _ _ | with_reducible assumption
      | with_reducible refine (respondTxn_touch ..).after ?_ rfl

theorem execMasterResetDrain_touch (m : Fin 13) (s : State) :
    AnsTouch [.memc] s (execMasterResetDrain m s) := by
  unfold execMasterResetDrain
  try dsimp only
  repeat' first
      | with_reducible refine AnsTouch.next ?_ | with_reducible refine AnsTouch.ite ?_ ?_
      | with_reducible exact Touch.refl _ _ | with_reducible assumption | with_reducible refine Touch.onMemc ?_ rfl
      | with_reducible refine (intake_touch ..).after ?_ rfl | with_reducible refine Touch.ite ?_ ?_

theorem execSwap_touch (m : Fin 13) (a : AtomicArg) (s : State) :
    AnsTouch [.memc, .mem] s (execSwap m a s) := by
  unfold execSwap
  try dsimp only
  repeat' first
      | with_reducible refine AnsTouch.next ?_ | with_reducible refine AnsTouch.ite ?_ ?_
      | with_reducible exact Touch.refl _ _ | with_reducible assumption
      | with_reducible refine (atomic_touch ..).after ?_ rfl

theorem execFetchAdd_touch (m : Fin 13) (a : AtomicArg) (s : State) :
    AnsTouch [.memc, .mem] s (execFetchAdd m a s) := by
  unfold execFetchAdd
  try dsimp only
  repeat' first
      | with_reducible refine AnsTouch.next ?_ | with_reducible refine AnsTouch.ite ?_ ?_
      | with_reducible exact Touch.refl _ _ | with_reducible assumption
      | with_reducible refine (atomic_touch ..).after ?_ rfl

theorem execFetchAnd_touch (m : Fin 13) (a : AtomicArg) (s : State) :
    AnsTouch [.memc, .mem] s (execFetchAnd m a s) := by
  unfold execFetchAnd
  try dsimp only
  repeat' first
      | with_reducible refine AnsTouch.next ?_ | with_reducible refine AnsTouch.ite ?_ ?_
      | with_reducible exact Touch.refl _ _ | with_reducible assumption
      | with_reducible refine (atomic_touch ..).after ?_ rfl

theorem execFetchOr_touch (m : Fin 13) (a : AtomicArg) (s : State) :
    AnsTouch [.memc, .mem] s (execFetchOr m a s) := by
  unfold execFetchOr
  try dsimp only
  repeat' first
      | with_reducible refine AnsTouch.next ?_ | with_reducible refine AnsTouch.ite ?_ ?_
      | with_reducible exact Touch.refl _ _ | with_reducible assumption
      | with_reducible refine (atomic_touch ..).after ?_ rfl

theorem execCas_touch (m : Fin 13) (a : AtomicArg) (new : DWord) (s : State) :
    AnsTouch [.memc, .mem] s (execCas m a new s) := by
  unfold execCas
  try dsimp only
  repeat' first
      | with_reducible refine AnsTouch.next ?_ | with_reducible refine AnsTouch.ite ?_ ?_
      | with_reducible exact Touch.refl _ _ | with_reducible assumption
      | with_reducible refine (atomic_touch ..).after ?_ rfl

theorem execDramRefresh_touch (rank : Fin 4) (burst : Bool) (waiting : Bool) (s : State) :
    AnsTouch [.memc, .cnt] s (execDramRefresh rank burst waiting s) := by
  unfold execDramRefresh
  try dsimp only
  repeat' first
      | with_reducible refine AnsTouch.next ?_ | with_reducible refine AnsTouch.ite ?_ ?_
      | with_reducible exact Touch.refl _ _ | with_reducible assumption | with_reducible refine Touch.onMemc ?_ rfl
      | with_reducible refine (State.bump_touch ..).after ?_ rfl | with_reducible refine Touch.ite ?_ ?_

theorem execSelfRefreshEntry_touch (rank : Fin 4) (s : State) :
    AnsTouch [.memc] s (execSelfRefreshEntry rank s) := by
  unfold execSelfRefreshEntry
  try dsimp only
  repeat' first
      | with_reducible refine AnsTouch.next ?_ | with_reducible refine AnsTouch.ite ?_ ?_
      | with_reducible exact Touch.refl _ _ | with_reducible assumption | with_reducible refine Touch.onMemc ?_ rfl
      | with_reducible refine Touch.ite ?_ ?_

theorem execPatrolScrub_touch (rank : Fin 4) (addr : BitVec 31) (err : DramError) (last : Bool) (s : State) :
    AnsTouch [.pages, .memc, .log, .cnt] s (execPatrolScrub rank addr err last s) := by
  unfold execPatrolScrub
  try dsimp only
  repeat' first
      | with_reducible refine AnsTouch.next ?_ | with_reducible refine AnsTouch.ite ?_ ?_
      | with_reducible exact Touch.refl _ _ | with_reducible assumption
      | with_reducible refine (State.bump_touch ..).after ?_ rfl
      | with_reducible refine (uncorrectable_touch ..).after ?_ rfl
      | with_reducible refine (corrected_touch ..).after ?_ rfl | with_reducible refine Touch.ite ?_ ?_ | (intro _)
      | split

theorem execParityAlert_touch (rank : Fin 4) (addr : BitVec 40) (m : Fin 13) (s : State) :
    AnsTouch [.pages, .memc, .log, .cnt] s (execParityAlert rank addr m s) := by
  unfold execParityAlert
  try dsimp only
  repeat' first
      | with_reducible refine AnsTouch.next ?_ | with_reducible refine AnsTouch.ite ?_ ?_
      | with_reducible exact Touch.refl _ _ | with_reducible assumption
      | with_reducible refine (State.bump_touch ..).after ?_ rfl
      | with_reducible refine (noteError_touch ..).after ?_ rfl
      | with_reducible refine (logDram_touch ..).after ?_ rfl
      | with_reducible refine (retireRank_touch ..).after ?_ rfl

theorem execDramHotChange_touch (hot : Bool) (s : State) :
    AnsTouch [.memc] s (execDramHotChange hot s) := by
  unfold execDramHotChange
  try dsimp only
  repeat' first
      | with_reducible refine AnsTouch.next ?_ | with_reducible refine AnsTouch.ite ?_ ?_
      | with_reducible exact Touch.refl _ _ | with_reducible assumption | with_reducible refine Touch.onMemc ?_ rfl

theorem execRowHammerWindowEnd_touch (s : State) :
    AnsTouch [.memc] s (execRowHammerWindowEnd s) := by
  unfold execRowHammerWindowEnd
  try dsimp only
  repeat' first
      | with_reducible refine AnsTouch.next ?_ | with_reducible refine AnsTouch.ite ?_ ?_
      | with_reducible exact Touch.refl _ _ | with_reducible assumption | with_reducible refine Touch.onMemc ?_ rfl

theorem endRetire_touch (g : Mig) (st : Byte) (done : Nat) (unc : Bool) (s : State) :
    Touch [.jobs, .rings, .link, .reqs] s (endRetire g st done unc s) := by
  unfold endRetire
  try dsimp only
  repeat' first
      | with_reducible exact Touch.refl _ _ | with_reducible assumption
      | with_reducible refine (State.endJob_touch ..).after ?_ rfl | with_reducible refine Touch.ite ?_ ?_ | (intro _)
      | split

theorem poisonWords_touch (base : Nat) (l : List (BitVec 20)) (s : State) :
    Touch [.pages, .memc, .log, .cnt] s (poisonWords base l s) := by
  unfold poisonWords
  try dsimp only
  repeat' first
      | with_reducible exact Touch.refl _ _ | with_reducible assumption | with_reducible refine Touch.onMemc ?_ rfl
      | with_reducible refine Touch.forAll ?_ ?_ | with_reducible refine (State.bump_touch ..).after ?_ rfl
      | with_reducible refine (logDram_touch ..).after ?_ rfl | with_reducible refine Touch.ite ?_ ?_ | (intro _)

theorem execMigrationMibCopy_touch (uncorrectable : List (BitVec 20)) (spareFails : Bool) (s : State) :
    AnsTouch [.jobs, .rings, .pages, .link, .reqs, .memc, .log, .cnt] s (execMigrationMibCopy uncorrectable spareFails s) := by
  unfold execMigrationMibCopy
  try dsimp only
  repeat' first
      | with_reducible refine AnsTouch.next ?_ | with_reducible refine AnsTouch.ite ?_ ?_
      | with_reducible exact Touch.refl _ _ | with_reducible assumption | with_reducible refine Touch.onMemc ?_ rfl
      | with_reducible refine (poisonWords_touch ..).after ?_ rfl
      | with_reducible refine (endRetire_touch ..).after ?_ rfl | with_reducible refine Touch.ite ?_ ?_ | (intro _)
      | split

theorem execRankMapSwitch_touch (s : State) :
    AnsTouch [.jobs, .rings, .pages, .link, .reqs, .memc, .log, .cnt] s (execRankMapSwitch s) := by
  unfold execRankMapSwitch
  try dsimp only
  repeat' first
      | with_reducible refine AnsTouch.next ?_ | with_reducible refine AnsTouch.ite ?_ ?_
      | with_reducible exact Touch.refl _ _ | with_reducible assumption | with_reducible refine Touch.onMemc ?_ rfl
      | with_reducible refine (logDram_touch ..).after ?_ rfl
      | with_reducible refine (State.raise_touch ..).after ?_ rfl
      | with_reducible refine (endRetire_touch ..).after ?_ rfl
      | with_reducible refine (State.bump_touch ..).after ?_ rfl | with_reducible refine Touch.ite ?_ ?_ | (intro _)
      | split

theorem execPsWordWrite_touch (addr : BitVec 22) (data : DWord) (failures : Nat) (corrected : Bool) (s : State) :
    AnsTouch [.svc, .mem, .cnt] s (execPsWordWrite addr data failures corrected s) := by
  unfold execPsWordWrite
  try dsimp only
  repeat' first
      | with_reducible refine AnsTouch.next ?_ | with_reducible refine AnsTouch.ite ?_ ?_
      | with_reducible exact Touch.refl _ _ | with_reducible assumption
      | with_reducible refine Touch.onSvc ?_ ?_ ?_ ?_ | exact fun _ => SvcSt.Later.of_eq rfl rfl rfl rfl rfl rfl rfl
      | exact SvcSt.Later.of_eq rfl rfl rfl rfl rfl rfl rfl
      | with_reducible refine (State.write_touch ..).after ?_ rfl
      | with_reducible refine (State.bump_touch ..).after ?_ rfl | with_reducible refine Touch.ite ?_ ?_
      | exact Or.inl rfl | exact Or.inr fun _ => rfl

end Sys2Proof.Machine
end

