-- ==== Sys2Proof/Laws/MoveTouch.lean ====
section
/-! SUPPORT. What each operation of Machine/Move.lean may change: one lemma each, `<name>_touch`. -/

namespace Sys2Proof.Machine

open Sys2Proof

theorem issuePtr_touch (n : Fin 16) (slot : MvSlot) (w : BitVec 28) (unit : Nat) (s : State) :
    Touch [.cores] s (issuePtr n slot w unit s) := by
  unfold issuePtr
  try dsimp only
  repeat' first
      | with_reducible exact Touch.refl _ _ | with_reducible assumption | with_reducible refine Touch.onCore ?_ rfl

theorem access_touch {ps : List Part} {n : Fin 16} {slot : MvSlot} {w : BitVec 28} {size : Nat} {ok : Bool}
    {body : Core → State → State} {s : State} (hb : ∀ c s1, Touch ps s1 (body c s1))
    (hp : subParts [.funcs, .jobs, .acts, .rings, .pages, .link, .hostMem, .reqs, .portA, .portB, .path, .time, .strm, .lov, .cores, .loc, .pwr, .memc, .mem, .log, .cnt, .free] ps = true) : AnsTouch ps s (access n slot w size ok body s) := by
  have hq : ∀ {a b r : State}, Touch [.funcs, .jobs, .acts, .rings, .pages, .link, .hostMem, .reqs, .portA, .portB, .path, .time, .strm, .lov, .cores, .loc, .pwr, .memc, .mem, .log, .cnt, .free] a b → Touch ps r a → Touch ps r b := fun k k' => k.after k' hp
  unfold access
  refine AnsTouch.ite (AnsTouch.next (hq ((trapHere_touch ..).after (Touch.refl _ _) rfl) (Touch.refl _ _)))
    (AnsTouch.next (slotOp_touch (fun _ s1 => ?_) (Touch.refl _ _) ?_))
  · exact hq ((issuePtr_touch ..).after (Touch.refl _ _) rfl) (hb _ _)
  · exact hp

theorem issueMv_touch (n : Fin 16) (slot : MvSlot) (d : Nat) (dest : Dest) (v : Landing) (s : State) :
    Touch [.cores] s (issueMv n slot d dest v s) := by
  unfold issueMv
  try dsimp only
  repeat' first
      | with_reducible exact Touch.refl _ _ | with_reducible assumption | with_reducible refine Touch.onCore ?_ rfl

theorem loadAcc_touch (n : Fin 16) (slot : MvSlot) (w : BitVec 28) (part : Fin 3) (s : State) :
    AnsTouch [.funcs, .jobs, .acts, .rings, .pages, .link, .hostMem, .reqs, .portA, .portB, .path, .time, .strm, .lov, .cores, .loc, .pwr, .memc, .mem, .log, .cnt, .free] s (loadAcc n slot w part s) := by
  unfold loadAcc
  try dsimp only
  repeat' first
      | with_reducible refine AnsTouch.next ?_ | with_reducible refine AnsTouch.ite ?_ ?_
      | with_reducible exact Touch.refl _ _ | with_reducible assumption
      | with_reducible refine (issueMv_touch ..).after ?_ rfl | with_reducible refine access_touch (fun _ _ => ?_) rfl

theorem storeAcc_touch (n : Fin 16) (slot : MvSlot) (w : BitVec 28) (f : Acc → Word) (s : State) :
    AnsTouch [.funcs, .jobs, .acts, .rings, .pages, .link, .hostMem, .reqs, .portA, .portB, .path, .time, .strm, .lov, .cores, .loc, .pwr, .memc, .mem, .log, .cnt, .free] s (storeAcc n slot w f s) := by
  unfold storeAcc
  try dsimp only
  repeat' first
      | with_reducible refine AnsTouch.next ?_ | with_reducible refine AnsTouch.ite ?_ ?_
      | with_reducible exact Touch.refl _ _ | with_reducible assumption
      | with_reducible refine (issueMv_touch ..).after ?_ rfl | with_reducible refine access_touch (fun _ _ => ?_) rfl

theorem execMvnop_touch (n : Fin 16) (slot : MvSlot) (w : BitVec 28) (s : State) :
    AnsTouch [.funcs, .jobs, .acts, .rings, .pages, .link, .hostMem, .reqs, .portA, .portB, .path, .time, .strm, .lov, .cores, .loc, .pwr, .memc, .mem, .log, .cnt, .free] s (execMvnop n slot w s) := by
  unfold execMvnop
  try dsimp only
  repeat' first
      | with_reducible refine AnsTouch.next ?_ | with_reducible refine AnsTouch.ite ?_ ?_
      | with_reducible exact Touch.refl _ _ | with_reducible assumption
      | with_reducible refine slotOp_touch (fun _ _ => ?_) ?_ rfl | with_reducible refine Touch.ite ?_ ?_ | (intro _)
      | split

theorem execLdv_touch (n : Fin 16) (slot : MvSlot) (w : BitVec 28) (s : State) :
    AnsTouch [.funcs, .jobs, .acts, .rings, .pages, .link, .hostMem, .reqs, .portA, .portB, .path, .time, .strm, .lov, .cores, .loc, .pwr, .memc, .mem, .log, .cnt, .free] s (execLdv n slot w s) := by
  unfold execLdv
  try dsimp only
  repeat' first
      | with_reducible refine AnsTouch.next ?_ | with_reducible refine AnsTouch.ite ?_ ?_
      | with_reducible exact Touch.refl _ _ | with_reducible assumption
      | with_reducible refine (issueMv_touch ..).after ?_ rfl | with_reducible refine access_touch (fun _ _ => ?_) rfl

theorem execLdb_touch (n : Fin 16) (slot : MvSlot) (w : BitVec 28) (s : State) :
    AnsTouch [.funcs, .jobs, .acts, .rings, .pages, .link, .hostMem, .reqs, .portA, .portB, .path, .time, .strm, .lov, .cores, .loc, .pwr, .memc, .mem, .log, .cnt, .free] s (execLdb n slot w s) := by
  unfold execLdb
  try dsimp only
  repeat' first
      | with_reducible refine AnsTouch.next ?_ | with_reducible refine AnsTouch.ite ?_ ?_
      | with_reducible exact Touch.refl _ _ | with_reducible assumption
      | with_reducible refine (issueMv_touch ..).after ?_ rfl | with_reducible refine access_touch (fun _ _ => ?_) rfl

theorem execStv_touch (n : Fin 16) (slot : MvSlot) (w : BitVec 28) (s : State) :
    AnsTouch [.funcs, .jobs, .acts, .rings, .pages, .link, .hostMem, .reqs, .portA, .portB, .path, .time, .strm, .lov, .cores, .loc, .pwr, .memc, .mem, .log, .cnt, .free] s (execStv n slot w s) := by
  unfold execStv
  try dsimp only
  repeat' first
      | with_reducible refine AnsTouch.next ?_ | with_reducible refine AnsTouch.ite ?_ ?_
      | with_reducible exact Touch.refl _ _ | with_reducible assumption
      | with_reducible refine (issueMv_touch ..).after ?_ rfl | with_reducible refine access_touch (fun _ _ => ?_) rfl

theorem execSts_touch (n : Fin 16) (slot : MvSlot) (w : BitVec 28) (s : State) :
    AnsTouch [.funcs, .jobs, .acts, .rings, .pages, .link, .hostMem, .reqs, .portA, .portB, .path, .time, .strm, .lov, .cores, .loc, .pwr, .memc, .mem, .log, .cnt, .free] s (execSts n slot w s) := by
  unfold execSts
  try dsimp only
  repeat' first
      | with_reducible refine AnsTouch.next ?_ | with_reducible refine AnsTouch.ite ?_ ?_
      | with_reducible exact Touch.refl _ _ | with_reducible assumption
      | with_reducible refine (issueMv_touch ..).after ?_ rfl | with_reducible refine access_touch (fun _ _ => ?_) rfl

theorem execLdal_touch (n : Fin 16) (slot : MvSlot) (w : BitVec 28) (s : State) :
    AnsTouch [.funcs, .jobs, .acts, .rings, .pages, .link, .hostMem, .reqs, .portA, .portB, .path, .time, .strm, .lov, .cores, .loc, .pwr, .memc, .mem, .log, .cnt, .free] s (execLdal n slot w s) := by
  unfold execLdal
  try dsimp only
  repeat' first
      | with_reducible refine AnsTouch.next ?_ | with_reducible refine AnsTouch.ite ?_ ?_
      | with_reducible exact Touch.refl _ _ | with_reducible assumption | with_reducible exact loadAcc_touch ..

theorem execLdam_touch (n : Fin 16) (slot : MvSlot) (w : BitVec 28) (s : State) :
    AnsTouch [.funcs, .jobs, .acts, .rings, .pages, .link, .hostMem, .reqs, .portA, .portB, .path, .time, .strm, .lov, .cores, .loc, .pwr, .memc, .mem, .log, .cnt, .free] s (execLdam n slot w s) := by
  unfold execLdam
  try dsimp only
  repeat' first
      | with_reducible refine AnsTouch.next ?_ | with_reducible refine AnsTouch.ite ?_ ?_
      | with_reducible exact Touch.refl _ _ | with_reducible assumption | with_reducible exact loadAcc_touch ..

theorem execLdah_touch (n : Fin 16) (slot : MvSlot) (w : BitVec 28) (s : State) :
    AnsTouch [.funcs, .jobs, .acts, .rings, .pages, .link, .hostMem, .reqs, .portA, .portB, .path, .time, .strm, .lov, .cores, .loc, .pwr, .memc, .mem, .log, .cnt, .free] s (execLdah n slot w s) := by
  unfold execLdah
  try dsimp only
  repeat' first
      | with_reducible refine AnsTouch.next ?_ | with_reducible refine AnsTouch.ite ?_ ?_
      | with_reducible exact Touch.refl _ _ | with_reducible assumption | with_reducible exact loadAcc_touch ..

theorem execStal_touch (n : Fin 16) (slot : MvSlot) (w : BitVec 28) (s : State) :
    AnsTouch [.funcs, .jobs, .acts, .rings, .pages, .link, .hostMem, .reqs, .portA, .portB, .path, .time, .strm, .lov, .cores, .loc, .pwr, .memc, .mem, .log, .cnt, .free] s (execStal n slot w s) := by
  unfold execStal
  try dsimp only
  repeat' first
      | with_reducible refine AnsTouch.next ?_ | with_reducible refine AnsTouch.ite ?_ ?_
      | with_reducible exact Touch.refl _ _ | with_reducible assumption | with_reducible exact storeAcc_touch ..

theorem execStam_touch (n : Fin 16) (slot : MvSlot) (w : BitVec 28) (s : State) :
    AnsTouch [.funcs, .jobs, .acts, .rings, .pages, .link, .hostMem, .reqs, .portA, .portB, .path, .time, .strm, .lov, .cores, .loc, .pwr, .memc, .mem, .log, .cnt, .free] s (execStam n slot w s) := by
  unfold execStam
  try dsimp only
  repeat' first
      | with_reducible refine AnsTouch.next ?_ | with_reducible refine AnsTouch.ite ?_ ?_
      | with_reducible exact Touch.refl _ _ | with_reducible assumption | with_reducible exact storeAcc_touch ..

theorem execStah_touch (n : Fin 16) (slot : MvSlot) (w : BitVec 28) (s : State) :
    AnsTouch [.funcs, .jobs, .acts, .rings, .pages, .link, .hostMem, .reqs, .portA, .portB, .path, .time, .strm, .lov, .cores, .loc, .pwr, .memc, .mem, .log, .cnt, .free] s (execStah n slot w s) := by
  unfold execStah
  try dsimp only
  repeat' first
      | with_reducible refine AnsTouch.next ?_ | with_reducible refine AnsTouch.ite ?_ ?_
      | with_reducible exact Touch.refl _ _ | with_reducible assumption | with_reducible exact storeAcc_touch ..

theorem execModp_touch (n : Fin 16) (slot : MvSlot) (w : BitVec 28) (s : State) :
    AnsTouch [.funcs, .jobs, .acts, .rings, .pages, .link, .hostMem, .reqs, .portA, .portB, .path, .time, .strm, .lov, .cores, .loc, .pwr, .memc, .mem, .log, .cnt, .free] s (execModp n slot w s) := by
  unfold execModp
  try dsimp only
  repeat' first
      | with_reducible refine AnsTouch.next ?_ | with_reducible refine AnsTouch.ite ?_ ?_
      | with_reducible exact Touch.refl _ _ | with_reducible assumption
      | with_reducible refine (issuePtr_touch ..).after ?_ rfl
      | with_reducible refine slotOp_touch (fun _ _ => ?_) ?_ rfl

theorem execMvar_touch (n : Fin 16) (slot : MvSlot) (w : BitVec 28) (s : State) :
    AnsTouch [.funcs, .jobs, .acts, .rings, .pages, .link, .hostMem, .reqs, .portA, .portB, .path, .time, .strm, .lov, .cores, .loc, .pwr, .memc, .mem, .log, .cnt, .free] s (execMvar n slot w s) := by
  unfold execMvar
  try dsimp only
  repeat' first
      | with_reducible refine AnsTouch.next ?_ | with_reducible refine AnsTouch.ite ?_ ?_
      | with_reducible exact Touch.refl _ _ | with_reducible assumption
      | with_reducible refine (issueMv_touch ..).after ?_ rfl
      | with_reducible refine slotOp_touch (fun _ _ => ?_) ?_ rfl

theorem execMvra_touch (n : Fin 16) (slot : MvSlot) (w : BitVec 28) (s : State) :
    AnsTouch [.funcs, .jobs, .acts, .rings, .pages, .link, .hostMem, .reqs, .portA, .portB, .path, .time, .strm, .lov, .cores, .loc, .pwr, .memc, .mem, .log, .cnt, .free] s (execMvra n slot w s) := by
  unfold execMvra
  try dsimp only
  repeat' first
      | with_reducible refine AnsTouch.next ?_ | with_reducible refine AnsTouch.ite ?_ ?_
      | with_reducible exact Touch.refl _ _ | with_reducible assumption
      | with_reducible refine (issueMv_touch ..).after ?_ rfl
      | with_reducible refine slotOp_touch (fun _ _ => ?_) ?_ rfl

theorem execLia_touch (n : Fin 16) (slot : MvSlot) (w : BitVec 28) (s : State) :
    AnsTouch [.funcs, .jobs, .acts, .rings, .pages, .link, .hostMem, .reqs, .portA, .portB, .path, .time, .strm, .lov, .cores, .loc, .pwr, .memc, .mem, .log, .cnt, .free] s (execLia n slot w s) := by
  unfold execLia
  try dsimp only
  repeat' first
      | with_reducible refine AnsTouch.next ?_ | with_reducible refine AnsTouch.ite ?_ ?_
      | with_reducible exact Touch.refl _ _ | with_reducible assumption
      | with_reducible refine (issueMv_touch ..).after ?_ rfl
      | with_reducible refine slotOp_touch (fun _ _ => ?_) ?_ rfl

end Sys2Proof.Machine
end

