-- ==== Sys2Proof/Laws/NetCmdsTouch.lean ====
section
/-! SUPPORT. What each operation of Machine/NetCmds.lean may change: one lemma each, `<name>_touch`. -/

namespace Sys2Proof.Machine

open Sys2Proof

theorem execAnegComplete_touch (port : Port) (partner : BitVec 3) (lpPause : Bool) (partnerMulti : Bool) (seedWins : Bool) (s : State) :
    AnsTouch [.portA, .portB] s (execAnegComplete port partner lpPause partnerMulti seedWins s) := by
  unfold execAnegComplete
  try dsimp only
  repeat' first
      | with_reducible refine AnsTouch.next ?_ | with_reducible refine AnsTouch.ite ?_ ?_
      | with_reducible exact Touch.refl _ _ | with_reducible assumption
      | with_reducible refine (State.onPort_touch ..).after ?_ rfl | with_reducible refine Touch.ite ?_ ?_

theorem execLinkUp_touch (port : Port) (mdix : Bool) (swap01 : Bool) (swap23 : Bool) (pol : BitVec 4) (s : State) :
    AnsTouch [.pages, .portA, .portB, .path, .cnt] s (execLinkUp port mdix swap01 swap23 pol s) := by
  unfold execLinkUp
  try dsimp only
  repeat' first
      | with_reducible refine AnsTouch.next ?_ | with_reducible refine AnsTouch.ite ?_ ?_
      | with_reducible exact Touch.refl _ _ | with_reducible assumption
      | with_reducible refine (State.onPort_touch ..).after ?_ rfl
      | with_reducible refine (State.raise_touch ..).after ?_ rfl
      | with_reducible refine (gratuitousArp_touch ..).after ?_ rfl | with_reducible refine Touch.ite ?_ ?_

theorem execLinkDown_touch (port : Port) (s : State) :
    AnsTouch [.pages, .portA, .portB, .path, .cnt] s (execLinkDown port s) := by
  unfold execLinkDown
  try dsimp only
  repeat' first
      | with_reducible refine AnsTouch.next ?_ | with_reducible refine AnsTouch.ite ?_ ?_
      | with_reducible exact Touch.refl _ _ | with_reducible assumption
      | with_reducible refine (linkLost_touch ..).after ?_ rfl | with_reducible refine Touch.ite ?_ ?_

theorem execLinkAttemptFail_touch (port : Port) (s : State) :
    AnsTouch [.portA, .portB, .cnt] s (execLinkAttemptFail port s) := by
  unfold execLinkAttemptFail
  try dsimp only
  repeat' first
      | with_reducible refine AnsTouch.next ?_ | with_reducible refine AnsTouch.ite ?_ ?_
      | with_reducible exact Touch.refl _ _ | with_reducible assumption
      | with_reducible refine (State.bumpPort_touch ..).after ?_ rfl
      | with_reducible refine (State.onPort_touch ..).after ?_ rfl | with_reducible refine Touch.ite ?_ ?_

theorem writeAneg_touch (p : Port) (v : Word) (s : State) :
    Touch [.pages, .portA, .portB, .path, .cnt] s (writeAneg p v s) := by
  unfold writeAneg
  try dsimp only
  repeat' first
      | with_reducible exact Touch.refl _ _ | with_reducible assumption
      | with_reducible refine (linkLost_touch ..).after ?_ rfl
      | with_reducible refine (State.onPort_touch ..).after ?_ rfl | with_reducible refine Touch.ite ?_ ?_

theorem execAnegWrite_touch (port : Port) (v : Word) (s : State) :
    AnsTouch [.pages, .portA, .portB, .path, .cnt] s (execAnegWrite port v s) := by
  unfold execAnegWrite
  try dsimp only
  repeat' first
      | with_reducible refine AnsTouch.next ?_ | with_reducible refine AnsTouch.ite ?_ ?_
      | with_reducible exact Touch.refl _ _ | with_reducible assumption
      | with_reducible refine (writeAneg_touch ..).after ?_ rfl | with_reducible refine writeIn_touch (fun _ => ?_) ?_

theorem execAnegRestart_touch (port : Port) (v : Word) (s : State) :
    AnsTouch [.pages, .portA, .portB, .path, .cnt] s (execAnegRestart port v s) := by
  unfold execAnegRestart
  try dsimp only
  repeat' first
      | with_reducible refine AnsTouch.next ?_ | with_reducible refine AnsTouch.ite ?_ ?_
      | with_reducible exact Touch.refl _ _ | with_reducible assumption
      | with_reducible refine (writeAneg_touch ..).after ?_ rfl | with_reducible refine writeIn_touch (fun _ => ?_) ?_
      | with_reducible refine Touch.ite ?_ ?_

theorem execFrameReceive_touch (port : Port) (f : Frame) (s : State) :
    AnsTouch [.pages, .portA, .portB, .path, .log, .cnt] s (execFrameReceive port f s) := by
  unfold execFrameReceive
  try dsimp only
  repeat' first
      | with_reducible refine AnsTouch.next ?_ | with_reducible refine AnsTouch.ite ?_ ?_
      | with_reducible exact Touch.refl _ _ | with_reducible assumption
      | with_reducible refine (receive_touch ..).after ?_ rfl | with_reducible refine Touch.ite ?_ ?_

theorem execPauseFrame_touch (port : Port) (toModule : Bool) (time : BitVec 16) (s : State) :
    AnsTouch [.portA, .portB, .cnt] s (execPauseFrame port toModule time s) := by
  unfold execPauseFrame
  try dsimp only
  repeat' first
      | with_reducible refine AnsTouch.next ?_ | with_reducible refine AnsTouch.ite ?_ ?_
      | with_reducible exact Touch.refl _ _ | with_reducible assumption
      | with_reducible refine (State.onPort_touch ..).after ?_ rfl
      | with_reducible refine (State.bumpPort_touch ..).after ?_ rfl
      | with_reducible refine (State.bumpBy_touch ..).after ?_ rfl | with_reducible refine Touch.ite ?_ ?_

theorem execPauseExpiry_touch (port : Port) (s : State) :
    AnsTouch [.portA, .portB] s (execPauseExpiry port s) := by
  unfold execPauseExpiry
  try dsimp only
  repeat' first
      | with_reducible refine AnsTouch.next ?_ | with_reducible refine AnsTouch.ite ?_ ?_
      | with_reducible exact Touch.refl _ _ | with_reducible assumption
      | with_reducible refine (State.onPort_touch ..).after ?_ rfl | with_reducible refine Touch.ite ?_ ?_

theorem sendHead_touch (p : Port) (q : Fin 8) (f : Frame) (s : State) :
    Touch [.portA, .portB, .cnt, .free] s (sendHead p q f s) := by
  unfold sendHead
  try dsimp only
  repeat' first
      | with_reducible exact Touch.refl _ _ | with_reducible assumption
      | with_reducible refine (State.freshen_touch _).after ?_ rfl
      | with_reducible refine (State.bumpBy_touch ..).after ?_ rfl
      | with_reducible refine (State.bumpPort_touch ..).after ?_ rfl
      | with_reducible refine (ledFlash_touch ..).after ?_ rfl
      | with_reducible refine (ringSent_touch ..).after ?_ rfl
      | with_reducible refine (State.onPort_touch ..).after ?_ rfl

theorem execFrameTransmit_touch (port : Port) (s : State) :
    AnsTouch [.portA, .portB, .cnt, .free] s (execFrameTransmit port s) := by
  unfold execFrameTransmit
  try dsimp only
  repeat' first
      | with_reducible refine AnsTouch.next ?_ | with_reducible refine AnsTouch.ite ?_ ?_
      | with_reducible exact Touch.refl _ _ | with_reducible assumption
      | with_reducible refine (sendHead_touch ..).after ?_ rfl | with_reducible refine Touch.ite ?_ ?_ | (intro _)
      | split

theorem execForwardCommit_touch (ingress : Port) (f : Frame) (s : State) :
    AnsTouch [.portA, .portB, .path, .cnt] s (execForwardCommit ingress f s) := by
  unfold execForwardCommit
  try dsimp only
  repeat' first
      | with_reducible refine AnsTouch.next ?_ | with_reducible refine AnsTouch.ite ?_ ?_
      | with_reducible exact Touch.refl _ _ | with_reducible assumption
      | with_reducible refine (commitFrame_touch ..).after ?_ rfl | with_reducible refine Touch.ite ?_ ?_

theorem execForwardEgressStart_touch (egress : Port) (residence : Nat) (s : State) :
    AnsTouch [.portA, .portB, .cnt] s (execForwardEgressStart egress residence s) := by
  unfold execForwardEgressStart
  try dsimp only
  repeat' first
      | with_reducible refine AnsTouch.next ?_ | with_reducible refine AnsTouch.ite ?_ ?_
      | with_reducible exact Touch.refl _ _ | with_reducible assumption
      | with_reducible refine (startCopy_touch ..).after ?_ rfl
      | with_reducible refine (State.bumpPort_touch ..).after ?_ rfl
      | with_reducible refine (State.onPort_touch ..).after ?_ rfl | with_reducible refine Touch.ite ?_ ?_ | (intro _)
      | split

theorem execRingClosedTimeout_touch (port : Port) (s : State) :
    AnsTouch [.portA, .portB] s (execRingClosedTimeout port s) := by
  unfold execRingClosedTimeout
  try dsimp only
  repeat' first
      | with_reducible refine AnsTouch.next ?_ | with_reducible refine AnsTouch.ite ?_ ?_
      | with_reducible exact Touch.refl _ _ | with_reducible assumption
      | with_reducible refine (State.onPort_touch ..).after ?_ rfl

theorem execNodeIdGraceEnd_touch (s : State) :
    AnsTouch [.path] s (execNodeIdGraceEnd s) := by
  unfold execNodeIdGraceEnd
  try dsimp only
  repeat' first
      | with_reducible refine AnsTouch.next ?_ | with_reducible refine AnsTouch.ite ?_ ?_
      | with_reducible exact Touch.refl _ _ | with_reducible assumption | with_reducible refine Touch.onPath ?_ rfl

theorem execLedDarkPeriodEnd_touch (port : Port) (s : State) :
    AnsTouch [.portA, .portB] s (execLedDarkPeriodEnd port s) := by
  unfold execLedDarkPeriodEnd
  try dsimp only
  repeat' first
      | with_reducible refine AnsTouch.next ?_ | with_reducible refine AnsTouch.ite ?_ ?_
      | with_reducible exact Touch.refl _ _ | with_reducible assumption
      | with_reducible refine (State.onPort_touch ..).after ?_ rfl | with_reducible refine Touch.ite ?_ ?_

theorem execLedBlinkToggle_touch (port : Port) (s : State) :
    AnsTouch [.portA, .portB] s (execLedBlinkToggle port s) := by
  unfold execLedBlinkToggle
  try dsimp only
  repeat' first
      | with_reducible refine AnsTouch.next ?_ | with_reducible refine AnsTouch.ite ?_ ?_
      | with_reducible exact Touch.refl _ _ | with_reducible assumption
      | with_reducible refine (State.onPort_touch ..).after ?_ rfl

end Sys2Proof.Machine
end

