-- ==== Sys2Proof/Laws/PathCmdsTouch.lean ====
section
/-! SUPPORT. What each operation of Machine/PathCmds.lean may change: one lemma each, `<name>_touch`. -/

namespace Sys2Proof.Machine

open Sys2Proof

theorem execUnsyncIlkChange_touch (s : State) :
    AnsTouch [.jobs, .rings, .pages, .link, .reqs, .path, .lov, .log, .cnt] s (execUnsyncIlkChange s) := by
  unfold execUnsyncIlkChange
  try dsimp only
  repeat' first
      | with_reducible refine AnsTouch.next ?_ | with_reducible refine AnsTouch.ite ?_ ?_
      | with_reducible exact Touch.refl _ _ | with_reducible assumption
      | with_reducible refine (unsyncChange_touch ..).after ?_ rfl | with_reducible refine Touch.ite ?_ ?_ | (intro _)
      | split

theorem execUnsyncEnd_touch (s : State) :
    AnsTouch [.jobs, .rings, .pages, .link, .reqs, .path, .lov, .log, .cnt] s (execUnsyncEnd s) := by
  unfold execUnsyncEnd
  try dsimp only
  repeat' first
      | with_reducible refine AnsTouch.next ?_ | with_reducible refine AnsTouch.ite ?_ ?_
      | with_reducible exact Touch.refl _ _ | with_reducible assumption
      | with_reducible refine (unsyncChange_touch ..).after ?_ rfl
      | with_reducible refine (unsyncClear_touch ..).after ?_ rfl | with_reducible refine Touch.ite ?_ ?_ | (intro _)
      | split

theorem execIlkNChange_touch (high : Bool) (s : State) :
    AnsTouch [.path] s (execIlkNChange high s) := by
  unfold execIlkNChange
  try dsimp only
  repeat' first
      | with_reducible refine AnsTouch.next ?_ | with_reducible refine AnsTouch.ite ?_ ?_
      | with_reducible exact Touch.refl _ _ | with_reducible assumption | with_reducible refine Touch.onPath ?_ rfl
      | with_reducible refine Touch.ite ?_ ?_

theorem execIlkSample_touch (s : State) :
    AnsTouch [.path] s (execIlkSample s) := by
  unfold execIlkSample
  try dsimp only
  repeat' first
      | with_reducible refine AnsTouch.next ?_ | with_reducible refine AnsTouch.ite ?_ ?_
      | with_reducible exact Touch.refl _ _ | with_reducible assumption | with_reducible refine Touch.onPath ?_ rfl
      | with_reducible refine Touch.ite ?_ ?_

end Sys2Proof.Machine
end

