-- ==== Sys2Proof/Laws/PowerCmdsTouch.lean ====
section
/-! SUPPORT. What each operation of Machine/PowerCmds.lean may change: one lemma each, `<name>_touch`. -/

namespace Sys2Proof.Machine

open Sys2Proof

theorem carry_touch (s : State) :
    Touch [.portA, .portB] s (carry s) := by
  unfold carry
  try dsimp only
  repeat' first
      | with_reducible exact Touch.refl _ _ | with_reducible assumption
      | with_reducible refine (State.onPort_touch ..).after ?_ rfl

theorem execLinePowerUp_touch (port : Port) (strap : BitVec 2) (s : State) :
    AnsTouch [.chip, .funcs, .params, .writes, .jobs, .acts, .rings, .pages, .taken, .link, .reqs, .svc, .portA, .portB, .path, .time, .strm, .lov, .cores, .loc, .pwr, .memc, .mem, .log, .cnt, .edges, .free] s (execLinePowerUp port strap s) := by
  unfold execLinePowerUp
  try dsimp only
  repeat' first
      | with_reducible refine AnsTouch.next ?_ | with_reducible refine AnsTouch.ite ?_ ?_
      | with_reducible exact Touch.refl _ _ | with_reducible assumption
      | with_reducible refine (powerUp_touch ..).after ?_ rfl
      | with_reducible refine (State.onPort_touch ..).after ?_ rfl
      | with_reducible refine (carry_touch ..).after ?_ rfl | with_reducible refine Touch.ite ?_ ?_

theorem execDramTrained_touch (s : State) :
    AnsTouch [.chip, .funcs, .params, .live, .writes, .jobs, .acts, .rings, .pages, .link, .reqs, .svc, .portA, .portB, .path, .time, .strm, .lov, .cores, .loc, .pwr, .memc, .mem, .log, .cnt, .edges, .free] s (execDramTrained s) := by
  unfold execDramTrained
  try dsimp only
  repeat' first
      | with_reducible refine AnsTouch.next ?_ | with_reducible refine AnsTouch.ite ?_ ?_
      | with_reducible exact Touch.refl _ _ | with_reducible assumption
      | with_reducible refine (dramUp_touch ..).after ?_ rfl | with_reducible refine Touch.ite ?_ ?_

theorem execBootComplete_touch (s : State) :
    AnsTouch [.chip, .svc] s (execBootComplete s) := by
  unfold execBootComplete
  try dsimp only
  repeat' first
      | with_reducible refine AnsTouch.next ?_ | with_reducible refine AnsTouch.ite ?_ ?_
      | with_reducible exact Touch.refl _ _ | with_reducible assumption
      | with_reducible refine (autoBegin_touch ..).after ?_ rfl
      | with_reducible refine (bootDone_touch ..).after ?_ rfl

theorem execCoreRailSag_touch (depth : SagDepth) (s : State) :
    AnsTouch [.chip] s (execCoreRailSag depth s) := by
  unfold execCoreRailSag
  try dsimp only
  repeat' first
      | with_reducible refine AnsTouch.next ?_ | with_reducible refine AnsTouch.ite ?_ ?_
      | with_reducible exact Touch.refl _ _ | with_reducible assumption | with_reducible refine Touch.onChip ?_ ?_ rfl
      | with_reducible refine Touch.ite ?_ ?_ | exact fun _ => rfl

theorem execClockedRailFall_touch (s : State) :
    AnsTouch [.chip, .pages, .portA, .portB, .path, .cnt] s (execClockedRailFall s) := by
  unfold execClockedRailFall
  try dsimp only
  repeat' first
      | with_reducible refine AnsTouch.next ?_ | with_reducible refine AnsTouch.ite ?_ ?_
      | with_reducible exact Touch.refl _ _ | with_reducible assumption | with_reducible refine Touch.onChip ?_ ?_ rfl
      | with_reducible refine (linkLost_touch ..).after ?_ rfl | with_reducible refine Touch.ite ?_ ?_
      | exact fun _ => rfl

theorem setHv_touch (awake : Bool) (link : Bool) (s : State) :
    Touch [.chip, .pages] s (setHv awake link s) := by
  unfold setHv
  try dsimp only
  repeat' first
      | with_reducible exact Touch.refl _ _ | with_reducible assumption | with_reducible refine Touch.onChip ?_ ?_ rfl
      | with_reducible refine (State.raise_touch ..).after ?_ rfl | with_reducible refine Touch.ite ?_ ?_
      | exact fun _ => rfl

theorem execClockedRailReturn_touch (s : State) :
    AnsTouch [.chip, .pages] s (execClockedRailReturn s) := by
  unfold execClockedRailReturn
  try dsimp only
  repeat' first
      | with_reducible refine AnsTouch.next ?_ | with_reducible refine AnsTouch.ite ?_ ?_
      | with_reducible exact Touch.refl _ _ | with_reducible assumption | with_reducible refine Touch.onChip ?_ ?_ rfl
      | with_reducible refine (setHv_touch ..).after ?_ rfl | with_reducible refine Touch.ite ?_ ?_
      | exact fun _ => rfl

theorem execPdTurnOff_touch (s : State) :
    AnsTouch [.chip, .funcs, .params, .writes, .jobs, .acts, .rings, .pages, .taken, .link, .reqs, .svc, .portA, .portB, .path, .time, .strm, .lov, .cores, .loc, .pwr, .memc, .mem, .log, .cnt, .edges] s (execPdTurnOff s) := by
  unfold execPdTurnOff
  try dsimp only
  repeat' first
      | with_reducible refine AnsTouch.next ?_ | with_reducible refine AnsTouch.ite ?_ ?_
      | with_reducible exact Touch.refl _ _ | with_reducible assumption | with_reducible refine Touch.forAll ?_ ?_
      | with_reducible refine (fastStop_touch ..).after ?_ rfl
      | with_reducible refine (State.onPort_touch ..).after ?_ rfl
      | with_reducible refine (coldState_touch ..).after ?_ rfl | with_reducible refine Touch.ite ?_ ?_ | (intro _)

theorem execPortPowerLoss_touch (port : Port) (s : State) :
    AnsTouch [.portA, .portB] s (execPortPowerLoss port s) := by
  unfold execPortPowerLoss
  try dsimp only
  repeat' first
      | with_reducible refine AnsTouch.next ?_ | with_reducible refine AnsTouch.ite ?_ ?_
      | with_reducible exact Touch.refl _ _ | with_reducible assumption
      | with_reducible refine (State.onPort_touch ..).after ?_ rfl
      | with_reducible refine (carry_touch ..).after ?_ rfl

theorem execPdClassification_touch (port : Port) (events : BitVec 3) (pairsets : BitVec 2) (s : State) :
    AnsTouch [.portA, .portB] s (execPdClassification port events pairsets s) := by
  unfold execPdClassification
  try dsimp only
  repeat' first
      | with_reducible refine AnsTouch.next ?_ | with_reducible refine AnsTouch.ite ?_ ?_
      | with_reducible exact Touch.refl _ _ | with_reducible assumption
      | with_reducible refine (State.onPort_touch ..).after ?_ rfl
      | with_reducible refine (carry_touch ..).after ?_ rfl

theorem execPdVinUpdate_touch (port : Port) (vin : BitVec 12) (s : State) :
    AnsTouch [.portA, .portB] s (execPdVinUpdate port vin s) := by
  unfold execPdVinUpdate
  try dsimp only
  repeat' first
      | with_reducible refine AnsTouch.next ?_ | with_reducible refine AnsTouch.ite ?_ ?_
      | with_reducible exact Touch.refl _ _ | with_reducible assumption
      | with_reducible refine (State.onPort_touch ..).after ?_ rfl
      | with_reducible refine (carry_touch ..).after ?_ rfl

theorem execVauxShort_touch (shorted : Bool) (s : State) :
    AnsTouch [.chip] s (execVauxShort shorted s) := by
  unfold execVauxShort
  try dsimp only
  repeat' first
      | with_reducible refine AnsTouch.next ?_ | with_reducible refine AnsTouch.ite ?_ ?_
      | with_reducible exact Touch.refl _ _ | with_reducible assumption | with_reducible refine Touch.onChip ?_ ?_ rfl
      | with_reducible refine Touch.ite ?_ ?_ | exact fun _ => rfl

theorem execCoreRailRecovery_touch (s : State) :
    AnsTouch [.chip] s (execCoreRailRecovery s) := by
  unfold execCoreRailRecovery
  try dsimp only
  repeat' first
      | with_reducible refine AnsTouch.next ?_ | with_reducible refine AnsTouch.ite ?_ ?_
      | with_reducible exact Touch.refl _ _ | with_reducible assumption | with_reducible refine Touch.onChip ?_ ?_ rfl
      | with_reducible refine Touch.ite ?_ ?_ | exact fun _ => rfl

theorem execVbusConnect_touch (v : BitVec 16) (s : State) :
    AnsTouch [.chip] s (execVbusConnect v s) := by
  unfold execVbusConnect
  try dsimp only
  repeat' first
      | with_reducible refine AnsTouch.next ?_ | with_reducible refine AnsTouch.ite ?_ ?_
      | with_reducible exact Touch.refl _ _ | with_reducible assumption | with_reducible refine Touch.onChip ?_ ?_ rfl
      | with_reducible refine Touch.ite ?_ ?_ | exact fun _ => rfl

theorem execVbusLoss_touch (s : State) :
    AnsTouch [.chip] s (execVbusLoss s) := by
  unfold execVbusLoss
  try dsimp only
  repeat' first
      | with_reducible refine AnsTouch.next ?_ | with_reducible refine AnsTouch.ite ?_ ?_
      | with_reducible exact Touch.refl _ _ | with_reducible assumption | with_reducible refine Touch.onChip ?_ ?_ rfl
      | with_reducible refine Touch.ite ?_ ?_ | exact fun _ => rfl

theorem execVbusReversed_touch (v : BitVec 16) (s : State) :
    AnsTouch [.chip] s (execVbusReversed v s) := by
  unfold execVbusReversed
  try dsimp only
  repeat' first
      | with_reducible refine AnsTouch.next ?_ | with_reducible refine AnsTouch.ite ?_ ?_
      | with_reducible exact Touch.refl _ _ | with_reducible assumption | with_reducible refine Touch.onChip ?_ ?_ rfl
      | with_reducible refine Touch.ite ?_ ?_ | exact fun _ => rfl

theorem execVbusOvervoltage_touch (v : BitVec 16) (s : State) :
    AnsTouch [.chip, .pwr] s (execVbusOvervoltage v s) := by
  unfold execVbusOvervoltage
  try dsimp only
  repeat' first
      | with_reducible refine AnsTouch.next ?_ | with_reducible refine AnsTouch.ite ?_ ?_
      | with_reducible exact Touch.refl _ _ | with_reducible assumption | with_reducible refine Touch.onChip ?_ ?_ rfl
      | with_reducible refine Touch.forAll ?_ ?_ | with_reducible refine (State.onPch_touch ..).after ?_ rfl
      | with_reducible refine Touch.ite ?_ ?_ | exact fun _ => rfl | (intro _)

theorem execOvShortRelease_touch (c : Fin 4) (s : State) :
    AnsTouch [.funcs, .jobs, .acts, .rings, .pages, .link, .hostMem, .reqs, .portA, .portB, .path, .time, .strm, .lov, .cores, .loc, .pwr, .memc, .mem, .log, .cnt, .free] s (execOvShortRelease c s) := by
  unfold execOvShortRelease
  try dsimp only
  repeat' first
      | with_reducible refine AnsTouch.next ?_ | with_reducible refine AnsTouch.ite ?_ ?_
      | with_reducible exact Touch.refl _ _ | with_reducible assumption
      | with_reducible refine (openSwitches_touch ..).after ?_ rfl
      | with_reducible refine (faultFunc_touch ..).after ?_ rfl | with_reducible refine Touch.ite ?_ ?_

theorem execHvTokenTimeout_touch (s : State) :
    AnsTouch [.chip, .funcs, .pages, .pwr] s (execHvTokenTimeout s) := by
  unfold execHvTokenTimeout
  try dsimp only
  repeat' first
      | with_reducible refine AnsTouch.next ?_ | with_reducible refine AnsTouch.ite ?_ ?_
      | with_reducible exact Touch.refl _ _ | with_reducible assumption | with_reducible refine Touch.forAll ?_ ?_
      | with_reducible refine (setHv_touch ..).after ?_ rfl | with_reducible refine (fastStop_touch ..).after ?_ rfl
      | with_reducible refine Touch.ite ?_ ?_ | (intro _)

theorem execHvLost_touch (s : State) :
    AnsTouch [.chip, .funcs, .jobs, .acts, .rings, .pages, .link, .hostMem, .reqs, .portA, .portB, .path, .time, .strm, .lov, .cores, .loc, .pwr, .memc, .mem, .log, .cnt, .free] s (execHvLost s) := by
  unfold execHvLost
  try dsimp only
  repeat' first
      | with_reducible refine AnsTouch.next ?_ | with_reducible refine AnsTouch.ite ?_ ?_
      | with_reducible exact Touch.refl _ _ | with_reducible assumption | with_reducible refine Touch.onChip ?_ ?_ rfl
      | with_reducible refine Touch.forAll ?_ ?_ | with_reducible refine (faultFunc_touch ..).after ?_ rfl
      | with_reducible refine (setHv_touch ..).after ?_ rfl | with_reducible refine Touch.ite ?_ ?_
      | exact fun _ => rfl | (intro _)

theorem execHvAwake_touch (s : State) :
    AnsTouch [.chip, .pages, .pwr, .log] s (execHvAwake s) := by
  unfold execHvAwake
  try dsimp only
  repeat' first
      | with_reducible refine AnsTouch.next ?_ | with_reducible refine AnsTouch.ite ?_ ?_
      | with_reducible exact Touch.refl _ _ | with_reducible assumption | with_reducible refine Touch.onChip ?_ ?_ rfl
      | with_reducible refine Touch.onLog ?_ ?_ rfl | exact fun _ => LogSt.Later.of_eq rfl
      | with_reducible refine Touch.forAll ?_ ?_ | with_reducible refine (reloadCoil_touch ..).after ?_ rfl
      | with_reducible refine (setHv_touch ..).after ?_ rfl | with_reducible refine Touch.ite ?_ ?_
      | exact fun _ => rfl | (intro _)

theorem execHvWakeTimeout_touch (s : State) :
    AnsTouch [.chip, .funcs, .jobs, .acts, .rings, .pages, .link, .reqs, .svc, .log] s (execHvWakeTimeout s) := by
  unfold execHvWakeTimeout
  try dsimp only
  repeat' first
      | with_reducible refine AnsTouch.next ?_ | with_reducible refine AnsTouch.ite ?_ ?_
      | with_reducible exact Touch.refl _ _ | with_reducible assumption | with_reducible refine Touch.onChip ?_ ?_ rfl
      | with_reducible refine Touch.forAll ?_ ?_ | with_reducible refine (autoWakeFail_touch ..).after ?_ rfl
      | with_reducible refine (State.endStarts_touch ..).after ?_ rfl
      | with_reducible refine (State.onFunc_touch ..).after ?_ rfl
      | with_reducible refine (State.endStops_touch ..).after ?_ rfl
      | with_reducible refine (State.endJobs_touch ..).after ?_ rfl | with_reducible refine Touch.ite ?_ ?_
      | exact fun _ => rfl | (intro _)

theorem execHvSleep_touch (s : State) :
    AnsTouch [.chip, .pages] s (execHvSleep s) := by
  unfold execHvSleep
  try dsimp only
  repeat' first
      | with_reducible refine AnsTouch.next ?_ | with_reducible refine AnsTouch.ite ?_ ?_
      | with_reducible exact Touch.refl _ _ | with_reducible assumption | with_reducible refine Touch.onChip ?_ ?_ rfl
      | with_reducible refine (setHv_touch ..).after ?_ rfl | with_reducible refine Touch.ite ?_ ?_
      | exact fun _ => rfl

theorem execVbusOvClear_touch (v : BitVec 16) (s : State) :
    AnsTouch [.chip] s (execVbusOvClear v s) := by
  unfold execVbusOvClear
  try dsimp only
  repeat' first
      | with_reducible refine AnsTouch.next ?_ | with_reducible refine AnsTouch.ite ?_ ?_
      | with_reducible exact Touch.refl _ _ | with_reducible assumption | with_reducible refine Touch.onChip ?_ ?_ rfl
      | with_reducible refine Touch.ite ?_ ?_ | exact fun _ => rfl

theorem execPchVbusUpdate_touch (v : BitVec 16) (s : State) :
    AnsTouch [.chip] s (execPchVbusUpdate v s) := by
  unfold execPchVbusUpdate
  try dsimp only
  repeat' first
      | with_reducible refine AnsTouch.next ?_ | with_reducible refine AnsTouch.ite ?_ ?_
      | with_reducible exact Touch.refl _ _ | with_reducible assumption | with_reducible refine Touch.onChip ?_ ?_ rfl
      | with_reducible refine Touch.ite ?_ ?_ | exact fun _ => rfl

theorem markUncertain_touch (j : Job) (s : State) :
    Touch [.cores] s (markUncertain j s) := by
  unfold markUncertain
  try dsimp only
  repeat' first
      | with_reducible exact Touch.refl _ _ | with_reducible assumption | with_reducible refine Touch.onCore ?_ rfl
      | with_reducible refine Touch.ite ?_ ?_ | (intro _) | split

theorem dropAsks_touch (s : State) :
    Touch [.funcs] s (dropAsks s) := by
  unfold dropAsks
  try dsimp only
  repeat' first
      | with_reducible exact Touch.refl _ _ | with_reducible assumption | with_reducible refine Touch.forAll ?_ ?_
      | with_reducible refine (State.onFunc_touch ..).after ?_ rfl | with_reducible refine Touch.ite ?_ ?_ | (intro _)

theorem withdraw_touch (mine : Nat → Bool) (s : State) :
    Touch [.writes, .path, .time, .memc] s (withdraw mine s) := by
  unfold withdraw
  try dsimp only
  repeat' first
      | with_reducible exact Touch.refl _ _ | with_reducible assumption
      | with_reducible refine Touch.onLife ?_ ?_ ?_ ?_ ?_ ?_ ?_ | with_reducible refine Touch.onPath ?_ rfl
      | with_reducible refine Touch.onTime ?_ rfl | with_reducible refine Touch.onMemc ?_ rfl
      | with_reducible refine Touch.ite ?_ ?_ | exact Or.inl rfl | exact Or.inr fun _ => rfl
      | exact Or.inr fun _ => ⟨rfl, rfl⟩

theorem stopDescs_touch (ring : Fin 32 → Bool) (atUnit : Bool) (s : State) :
    Touch [.writes, .jobs, .rings, .link, .hostMem, .reqs, .path, .time, .cores, .pwr, .memc, .mem, .cnt, .free] s (stopDescs ring atUnit s) := by
  unfold stopDescs
  try dsimp only
  repeat' first
      | with_reducible exact Touch.refl _ _ | with_reducible assumption | with_reducible refine Touch.forAll ?_ ?_
      | with_reducible refine (withdraw_touch ..).after ?_ rfl
      | with_reducible refine (State.endJob_touch ..).after ?_ rfl
      | with_reducible refine (markUncertain_touch ..).after ?_ rfl
      | with_reducible refine (cutJob_touch ..).after ?_ rfl | with_reducible refine (endTest_touch ..).after ?_ rfl
      | with_reducible refine Touch.ite ?_ ?_ | (intro _)

theorem execPerstNAssert_touch (s : State) :
    AnsTouch [.funcs, .writes, .jobs, .acts, .rings, .pages, .taken, .link, .hostMem, .reqs, .path, .time, .cores, .pwr, .memc, .mem, .cnt, .free] s (execPerstNAssert s) := by
  unfold execPerstNAssert
  try dsimp only
  repeat' first
      | with_reducible refine AnsTouch.next ?_ | with_reducible refine AnsTouch.ite ?_ ?_
      | with_reducible exact Touch.refl _ _ | with_reducible assumption
      | with_reducible refine Touch.onLife ?_ ?_ ?_ ?_ ?_ ?_ ?_ | with_reducible refine Touch.onHost ?_ ?_ ?_ ?_ ?_ ?_
      | with_reducible refine (stopDescs_touch ..).after ?_ rfl
      | with_reducible refine (dropAsks_touch ..).after ?_ rfl | with_reducible refine Touch.ite ?_ ?_
      | exact Or.inl rfl | exact Or.inr fun _ => rfl

theorem execPerstNRelease_touch (s : State) :
    AnsTouch [.link] s (execPerstNRelease s) := by
  unfold execPerstNRelease
  try dsimp only
  repeat' first
      | with_reducible refine AnsTouch.next ?_ | with_reducible refine AnsTouch.ite ?_ ?_
      | with_reducible exact Touch.refl _ _ | with_reducible assumption
      | with_reducible refine Touch.onHost ?_ ?_ ?_ ?_ ?_ ?_ | with_reducible refine Touch.ite ?_ ?_
      | exact Or.inl rfl | exact Or.inr fun _ => rfl | exact Or.inr fun _ => ⟨rfl, rfl⟩

theorem execPcieLinkTrained_touch (speed : BitVec 3) (width : BitVec 4) (s : State) :
    AnsTouch [.link] s (execPcieLinkTrained speed width s) := by
  unfold execPcieLinkTrained
  try dsimp only
  repeat' first
      | with_reducible refine AnsTouch.next ?_ | with_reducible refine AnsTouch.ite ?_ ?_
      | with_reducible exact Touch.refl _ _ | with_reducible assumption
      | with_reducible refine Touch.onHost ?_ ?_ ?_ ?_ ?_ ?_ | with_reducible refine Touch.ite ?_ ?_
      | exact Or.inl rfl | exact Or.inr fun _ => rfl | exact Or.inr fun _ => ⟨rfl, rfl⟩

theorem execPcieLinkDown_touch (s : State) :
    AnsTouch [.link] s (execPcieLinkDown s) := by
  unfold execPcieLinkDown
  try dsimp only
  repeat' first
      | with_reducible refine AnsTouch.next ?_ | with_reducible refine AnsTouch.ite ?_ ?_
      | with_reducible exact Touch.refl _ _ | with_reducible assumption
      | with_reducible refine Touch.onHost ?_ ?_ ?_ ?_ ?_ ?_ | with_reducible refine Touch.ite ?_ ?_
      | exact Or.inl rfl | exact Or.inr fun _ => rfl | exact Or.inr fun _ => ⟨rfl, rfl⟩

theorem execBmeChange_touch (on : Bool) (s : State) :
    AnsTouch [.link] s (execBmeChange on s) := by
  unfold execBmeChange
  try dsimp only
  repeat' first
      | with_reducible refine AnsTouch.next ?_ | with_reducible refine AnsTouch.ite ?_ ?_
      | with_reducible exact Touch.refl _ _ | with_reducible assumption
      | with_reducible refine Touch.onHost ?_ ?_ ?_ ?_ ?_ ?_ | with_reducible refine Touch.ite ?_ ?_
      | exact Or.inl rfl | exact Or.inr fun _ => rfl | exact Or.inr fun _ => ⟨rfl, rfl⟩

theorem execD3hotTransition_touch (d3 : Bool) (s : State) :
    AnsTouch [.link] s (execD3hotTransition d3 s) := by
  unfold execD3hotTransition
  try dsimp only
  repeat' first
      | with_reducible refine AnsTouch.next ?_ | with_reducible refine AnsTouch.ite ?_ ?_
      | with_reducible exact Touch.refl _ _ | with_reducible assumption
      | with_reducible refine Touch.onHost ?_ ?_ ?_ ?_ ?_ ?_ | with_reducible refine Touch.ite ?_ ?_
      | exact Or.inl rfl | exact Or.inr fun _ => rfl | exact Or.inr fun _ => ⟨rfl, rfl⟩

theorem execMsixMaskChange_touch (masks : Word) (enable : Bool) (s : State) :
    AnsTouch [.link] s (execMsixMaskChange masks enable s) := by
  unfold execMsixMaskChange
  try dsimp only
  repeat' first
      | with_reducible refine AnsTouch.next ?_ | with_reducible refine AnsTouch.ite ?_ ?_
      | with_reducible exact Touch.refl _ _ | with_reducible assumption
      | with_reducible refine Touch.onHost ?_ ?_ ?_ ?_ ?_ ?_ | with_reducible refine Touch.ite ?_ ?_
      | exact Or.inl rfl | exact Or.inr fun _ => rfl | exact Or.inr fun _ => ⟨rfl, rfl⟩

theorem execSoftReset_touch (v : Word) (s : State) :
    AnsTouch [.chip, .funcs, .link, .svc] s (execSoftReset v s) := by
  unfold execSoftReset
  try dsimp only
  repeat' first
      | with_reducible refine AnsTouch.next ?_ | with_reducible refine AnsTouch.ite ?_ ?_
      | with_reducible exact Touch.refl _ _ | with_reducible assumption
      | with_reducible refine (beginReset_touch ..).after ?_ rfl | with_reducible refine Touch.ite ?_ ?_

theorem execJtagReset_touch (s : State) :
    AnsTouch [.chip, .funcs, .link, .svc] s (execJtagReset s) := by
  unfold execJtagReset
  try dsimp only
  repeat' first
      | with_reducible refine AnsTouch.next ?_ | with_reducible refine AnsTouch.ite ?_ ?_
      | with_reducible exact Touch.refl _ _ | with_reducible assumption
      | with_reducible refine (beginReset_touch ..).after ?_ rfl | with_reducible refine Touch.ite ?_ ?_

theorem execNoardResetAccept_touch (s : State) :
    AnsTouch [.chip, .funcs, .link, .svc] s (execNoardResetAccept s) := by
  unfold execNoardResetAccept
  try dsimp only
  repeat' first
      | with_reducible refine AnsTouch.next ?_ | with_reducible refine AnsTouch.ite ?_ ?_
      | with_reducible exact Touch.refl _ _ | with_reducible assumption | with_reducible refine Touch.onChip ?_ ?_ rfl
      | with_reducible refine (beginReset_touch ..).after ?_ rfl | with_reducible refine Touch.ite ?_ ?_
      | exact fun _ => rfl

theorem execResetStopTimeout_touch (s : State) :
    AnsTouch [.funcs, .params, .jobs, .acts, .rings, .link, .reqs, .portA, .portB, .path, .time, .strm, .lov, .cores, .loc, .pwr, .memc, .mem, .cnt] s (execResetStopTimeout s) := by
  unfold execResetStopTimeout
  try dsimp only
  repeat' first
      | with_reducible refine AnsTouch.next ?_ | with_reducible refine AnsTouch.ite ?_ ?_
      | with_reducible exact Touch.refl _ _ | with_reducible assumption
      | with_reducible refine (resetTimeout_touch ..).after ?_ rfl

theorem execResetIslands_touch (strap : BitVec 2) (s : State) :
    AnsTouch [.chip, .funcs, .params, .writes, .jobs, .acts, .rings, .pages, .taken, .link, .reqs, .svc, .portA, .portB, .path, .time, .strm, .lov, .cores, .loc, .pwr, .memc, .mem, .log, .cnt, .edges, .free] s (execResetIslands strap s) := by
  unfold execResetIslands
  try dsimp only
  repeat' first
      | with_reducible refine AnsTouch.next ?_ | with_reducible refine AnsTouch.ite ?_ ?_
      | with_reducible exact Touch.refl _ _ | with_reducible assumption
      | with_reducible refine (resetIslands_touch ..).after ?_ rfl

theorem execSvcWatchdogRestart_touch (s : State) :
    AnsTouch [.chip, .funcs, .writes, .jobs, .acts, .rings, .pages, .taken, .link, .hostMem, .reqs, .svc, .path, .time, .cores, .pwr, .memc, .mem, .cnt, .free] s (execSvcWatchdogRestart s) := by
  unfold execSvcWatchdogRestart
  try dsimp only
  repeat' first
      | with_reducible refine AnsTouch.next ?_ | with_reducible refine AnsTouch.ite ?_ ?_
      | with_reducible exact Touch.refl _ _ | with_reducible assumption | with_reducible refine Touch.onChip ?_ ?_ rfl
      | with_reducible refine Touch.onHost ?_ ?_ ?_ ?_ ?_ ?_ | with_reducible refine Touch.onSvc ?_ ?_ ?_ ?_
      | exact fun _ => SvcSt.Later.of_eq rfl rfl rfl rfl rfl rfl rfl
      | exact SvcSt.Later.of_eq rfl rfl rfl rfl rfl rfl rfl | with_reducible refine Touch.forAll ?_ ?_
      | with_reducible refine (State.endAction_touch ..).after ?_ rfl
      | with_reducible refine (dropAsks_touch ..).after ?_ rfl | with_reducible refine (finish_touch ..).after ?_ rfl
      | with_reducible refine (stopDescs_touch ..).after ?_ rfl
      | with_reducible refine (State.raise_touch ..).after ?_ rfl | with_reducible refine Touch.ite ?_ ?_
      | exact Or.inl rfl | exact Or.inr fun _ => rfl | exact Or.inr fun _ => ⟨rfl, rfl⟩ | exact fun _ => rfl
      | (intro _)

theorem countSecond_touch (temp : BitVec 16) (s : State) :
    Touch [.log] s (countSecond temp s) := by
  unfold countSecond
  try dsimp only
  repeat' first
      | with_reducible exact Touch.refl _ _ | with_reducible assumption | with_reducible refine Touch.onLog ?_ ?_ rfl
      | exact fun _ => LogSt.Later.of_eq rfl

theorem timeSecond_touch (temp : BitVec 16) (s : State) :
    Touch [.time] s (timeSecond temp s) := by
  unfold timeSecond
  try dsimp only
  repeat' first
      | with_reducible exact Touch.refl _ _ | with_reducible assumption | with_reducible refine Touch.onTime ?_ rfl
      | with_reducible refine Touch.ite ?_ ?_

theorem recordDue_touch (s : State) :
    Touch [.mem] s (recordDue s) := by
  unfold recordDue
  try dsimp only
  repeat' first
      | with_reducible exact Touch.refl _ _ | with_reducible assumption
      | with_reducible refine (saveRecord_touch ..).after ?_ rfl | with_reducible refine Touch.ite ?_ ?_

theorem execElapsedSecond_touch (temp : BitVec 16) (s : State) :
    AnsTouch [.svc, .time, .mem, .log] s (execElapsedSecond temp s) := by
  unfold execElapsedSecond
  try dsimp only
  repeat' first
      | with_reducible refine AnsTouch.next ?_ | with_reducible refine AnsTouch.ite ?_ ?_
      | with_reducible exact Touch.refl _ _ | with_reducible assumption
      | with_reducible refine Touch.onSvc ?_ ?_ ?_ ?_ | exact fun _ => SvcSt.Later.of_eq rfl rfl rfl rfl rfl rfl rfl
      | exact SvcSt.Later.of_eq rfl rfl rfl rfl rfl rfl rfl
      | with_reducible refine (countSecond_touch ..).after ?_ rfl
      | with_reducible refine (timeSecond_touch ..).after ?_ rfl
      | with_reducible refine (recordDue_touch ..).after ?_ rfl | with_reducible refine Touch.ite ?_ ?_
      | exact Or.inl rfl | exact Or.inr fun _ => rfl

theorem execElapsedRecordSave_touch (s : State) :
    AnsTouch [.mem] s (execElapsedRecordSave s) := by
  unfold execElapsedRecordSave
  try dsimp only
  repeat' first
      | with_reducible refine AnsTouch.next ?_ | with_reducible refine AnsTouch.ite ?_ ?_
      | with_reducible exact Touch.refl _ _ | with_reducible assumption
      | with_reducible refine (saveRecord_touch ..).after ?_ rfl | with_reducible refine Touch.ite ?_ ?_

end Sys2Proof.Machine
end

