-- ==== Sys2Proof/Laws/RegCmdsTouch.lean ====
section
/-! SUPPORT. What each operation of Machine/RegCmds.lean may change: one lemma each, `<name>_touch`. -/

namespace Sys2Proof.Machine

open Sys2Proof

theorem execRegisterWrite_touch (off : BitVec 20) (v : Word) (s : State) :
    AnsTouch [.chip, .rings, .pages, .link, .svc, .portA, .portB, .path, .time] s (execRegisterWrite off v s) := by
  unfold execRegisterWrite
  try dsimp only
  repeat' first
      | with_reducible refine AnsTouch.next ?_ | with_reducible refine AnsTouch.ite ?_ ?_
      | with_reducible exact Touch.refl _ _ | with_reducible assumption
      | with_reducible refine (State.regWrite_touch ..).after ?_ rfl

theorem execBar0BadAccess_touch (off : BitVec 20) (size : Nat) (_write : Bool) (s : State) :
    AnsTouch [.chip] s (execBar0BadAccess off size _write s) := by
  unfold execBar0BadAccess
  try dsimp only
  repeat' first
      | with_reducible refine AnsTouch.next ?_ | with_reducible refine AnsTouch.ite ?_ ?_
      | with_reducible exact Touch.refl _ _ | with_reducible assumption | with_reducible refine Touch.onChip ?_ ?_ rfl
      | with_reducible refine Touch.ite ?_ ?_ | exact fun _ => rfl

theorem execCounterLoRead_touch (off : BitVec 20) (s : State) :
    AnsTouch [.chip, .cnt] s (execCounterLoRead off s) := by
  unfold execCounterLoRead
  try dsimp only
  repeat' first
      | with_reducible refine AnsTouch.next ?_ | with_reducible refine AnsTouch.ite ?_ ?_
      | with_reducible exact Touch.refl _ _ | with_reducible assumption
      | with_reducible refine (State.readLo_touch ..).after ?_ rfl
      | with_reducible refine (State.answer_touch ..).after ?_ rfl | with_reducible refine Touch.ite ?_ ?_ | (intro _)
      | split

theorem execRingFetchSkipRead_touch (s : State) :
    AnsTouch [.chip, .link] s (execRingFetchSkipRead s) := by
  unfold execRingFetchSkipRead
  try dsimp only
  repeat' first
      | with_reducible refine AnsTouch.next ?_ | with_reducible refine AnsTouch.ite ?_ ?_
      | with_reducible exact Touch.refl _ _ | with_reducible assumption
      | with_reducible refine Touch.onHost ?_ ?_ ?_ ?_ ?_ ?_
      | with_reducible refine (State.answer_touch ..).after ?_ rfl
      | with_reducible refine readIn_touch (fun _ => ?_) ?_ rfl | with_reducible refine Touch.ite ?_ ?_
      | exact Or.inl rfl | exact Or.inr fun _ => rfl | exact Or.inr fun _ => ⟨rfl, rfl⟩

theorem execPcieHosterrCountRead_touch (s : State) :
    AnsTouch [.chip, .link] s (execPcieHosterrCountRead s) := by
  unfold execPcieHosterrCountRead
  try dsimp only
  repeat' first
      | with_reducible refine AnsTouch.next ?_ | with_reducible refine AnsTouch.ite ?_ ?_
      | with_reducible exact Touch.refl _ _ | with_reducible assumption
      | with_reducible refine Touch.onHost ?_ ?_ ?_ ?_ ?_ ?_
      | with_reducible refine (State.answer_touch ..).after ?_ rfl | with_reducible refine Touch.ite ?_ ?_
      | exact Or.inl rfl | exact Or.inr fun _ => rfl | exact Or.inr fun _ => ⟨rfl, rfl⟩

theorem execSvcNoardCountRead_touch (i : Fin 5) (s : State) :
    AnsTouch [.chip, .svc] s (execSvcNoardCountRead i s) := by
  unfold execSvcNoardCountRead
  try dsimp only
  repeat' first
      | with_reducible refine AnsTouch.next ?_ | with_reducible refine AnsTouch.ite ?_ ?_
      | with_reducible exact Touch.refl _ _ | with_reducible assumption
      | with_reducible refine Touch.onSvc ?_ ?_ ?_ ?_ | exact fun _ => SvcSt.Later.of_eq rfl rfl rfl rfl rfl rfl rfl
      | exact SvcSt.Later.of_eq rfl rfl rfl rfl rfl rfl rfl
      | with_reducible refine (State.answer_touch ..).after ?_ rfl
      | with_reducible refine readIn_touch (fun _ => ?_) ?_ rfl | with_reducible refine Touch.ite ?_ ?_
      | exact Or.inl rfl | exact Or.inr fun _ => rfl

theorem execTimeTickLoRead_touch (s : State) :
    AnsTouch [.chip, .time] s (execTimeTickLoRead s) := by
  unfold execTimeTickLoRead
  try dsimp only
  repeat' first
      | with_reducible refine AnsTouch.next ?_ | with_reducible refine AnsTouch.ite ?_ ?_
      | with_reducible exact Touch.refl _ _ | with_reducible assumption | with_reducible refine Touch.onTime ?_ rfl
      | with_reducible refine (State.answer_touch ..).after ?_ rfl
      | with_reducible refine readIn_touch (fun _ => ?_) ?_ rfl

theorem execStrmRxMarginRead_touch (path : Port) (k : Fin 128) (s : State) :
    AnsTouch [.chip, .strm] s (execStrmRxMarginRead path k s) := by
  unfold execStrmRxMarginRead
  try dsimp only
  repeat' first
      | with_reducible refine AnsTouch.next ?_ | with_reducible refine AnsTouch.ite ?_ ?_
      | with_reducible exact Touch.refl _ _ | with_reducible assumption
      | with_reducible refine (State.onRx_touch ..).after ?_ rfl
      | with_reducible refine (State.answer_touch ..).after ?_ rfl
      | with_reducible refine readIn_touch (fun _ => ?_) ?_ rfl

theorem execLovPeakRead_touch (s : State) :
    AnsTouch [.chip, .lov] s (execLovPeakRead s) := by
  unfold execLovPeakRead
  try dsimp only
  repeat' first
      | with_reducible refine AnsTouch.next ?_ | with_reducible refine AnsTouch.ite ?_ ?_
      | with_reducible exact Touch.refl _ _ | with_reducible assumption | with_reducible refine Touch.onLov ?_ rfl
      | with_reducible refine (State.answer_touch ..).after ?_ rfl
      | with_reducible refine readIn_touch (fun _ => ?_) ?_ rfl

theorem execLovClippedClear_touch (w : Fin 64) (v : Word) (s : State) :
    AnsTouch [.lov] s (execLovClippedClear w v s) := by
  unfold execLovClippedClear
  try dsimp only
  repeat' first
      | with_reducible refine AnsTouch.next ?_ | with_reducible refine AnsTouch.ite ?_ ?_
      | with_reducible exact Touch.refl _ _ | with_reducible assumption | with_reducible refine Touch.onLov ?_ rfl
      | with_reducible refine writeIn_touch (fun _ => ?_) ?_

theorem execScTaskMaxRead_touch (n : Fin 16) (s : State) :
    AnsTouch [.chip, .cores] s (execScTaskMaxRead n s) := by
  unfold execScTaskMaxRead
  try dsimp only
  repeat' first
      | with_reducible refine AnsTouch.next ?_ | with_reducible refine AnsTouch.ite ?_ ?_
      | with_reducible exact Touch.refl _ _ | with_reducible assumption | with_reducible refine Touch.onCore ?_ rfl
      | with_reducible refine (State.answer_touch ..).after ?_ rfl
      | with_reducible refine readIn_touch (fun _ => ?_) ?_ rfl

theorem execMemcWorstRt0Read_touch (s : State) :
    AnsTouch [.chip, .memc] s (execMemcWorstRt0Read s) := by
  unfold execMemcWorstRt0Read
  try dsimp only
  repeat' first
      | with_reducible refine AnsTouch.next ?_ | with_reducible refine AnsTouch.ite ?_ ?_
      | with_reducible exact Touch.refl _ _ | with_reducible assumption | with_reducible refine Touch.onMemc ?_ rfl
      | with_reducible refine (State.answer_touch ..).after ?_ rfl
      | with_reducible refine readIn_touch (fun _ => ?_) ?_ rfl

theorem execXbarPeakRead_touch (m : Fin 13) (s : State) :
    AnsTouch [.chip, .memc] s (execXbarPeakRead m s) := by
  unfold execXbarPeakRead
  try dsimp only
  repeat' first
      | with_reducible refine AnsTouch.next ?_ | with_reducible refine AnsTouch.ite ?_ ?_
      | with_reducible exact Touch.refl _ _ | with_reducible assumption | with_reducible refine Touch.onMemc ?_ rfl
      | with_reducible refine (State.answer_touch ..).after ?_ rfl
      | with_reducible refine readIn_touch (fun _ => ?_) ?_ rfl

theorem execXbarErrCountRead_touch (s : State) :
    AnsTouch [.chip, .memc] s (execXbarErrCountRead s) := by
  unfold execXbarErrCountRead
  try dsimp only
  repeat' first
      | with_reducible refine AnsTouch.next ?_ | with_reducible refine AnsTouch.ite ?_ ?_
      | with_reducible exact Touch.refl _ _ | with_reducible assumption | with_reducible refine Touch.onMemc ?_ rfl
      | with_reducible refine (State.answer_touch ..).after ?_ rfl
      | with_reducible refine readIn_touch (fun _ => ?_) ?_ rfl

theorem execResetCauseClear_touch (v : Word) (s : State) :
    AnsTouch [.chip] s (execResetCauseClear v s) := by
  unfold execResetCauseClear
  try dsimp only
  repeat' first
      | with_reducible refine AnsTouch.next ?_ | with_reducible refine AnsTouch.ite ?_ ?_
      | with_reducible exact Touch.refl _ _ | with_reducible assumption | with_reducible refine Touch.onChip ?_ ?_ rfl
      | with_reducible refine Touch.ite ?_ ?_ | exact fun _ => rfl

theorem execPathTopoWrite_touch (ringReg : Bool) (v : Word) (s : State) :
    AnsTouch [.path] s (execPathTopoWrite ringReg v s) := by
  unfold execPathTopoWrite
  try dsimp only
  repeat' first
      | with_reducible refine AnsTouch.next ?_ | with_reducible refine AnsTouch.ite ?_ ?_
      | with_reducible exact Touch.refl _ _ | with_reducible assumption
      | with_reducible refine (writeTopo_touch ..).after ?_ rfl
      | with_reducible refine (writeRingType_touch ..).after ?_ rfl
      | with_reducible refine writeIn_touch (fun _ => ?_) ?_ | with_reducible refine Touch.ite ?_ ?_

theorem execTimeCtrlWrite_touch (v : Word) (s : State) :
    AnsTouch [.time] s (execTimeCtrlWrite v s) := by
  unfold execTimeCtrlWrite
  try dsimp only
  repeat' first
      | with_reducible refine AnsTouch.next ?_ | with_reducible refine AnsTouch.ite ?_ ?_
      | with_reducible exact Touch.refl _ _ | with_reducible assumption
      | with_reducible refine (writeTimeCtrl_touch ..).after ?_ rfl
      | with_reducible refine writeIn_touch (fun _ => ?_) ?_

theorem execPchFswCtrlWrite_touch (off : BitVec 5) (v : Word) (s : State) :
    AnsTouch [.pwr] s (execPchFswCtrlWrite off v s) := by
  unfold execPchFswCtrlWrite
  try dsimp only
  repeat' first
      | with_reducible refine AnsTouch.next ?_ | with_reducible refine AnsTouch.ite ?_ ?_
      | with_reducible exact Touch.refl _ _ | with_reducible assumption
      | with_reducible refine (writeFsw_touch ..).after ?_ rfl | with_reducible refine writeIn_touch (fun _ => ?_) ?_

end Sys2Proof.Machine
end

