-- ==== Sys2Proof/Laws/State.lean ====
section
/-! SUPPORT. The fields of the state after each of its updates, so that no proof unfolds a record update; and the
elements of a vector after one of them is changed. -/

namespace Sys2Proof.Machine

open Sys2Proof

@[simp] theorem vmod_self {α : Type} {n : Nat} (v : Vector α n) (i : Fin n) (g : α → α) : (vmod v i g)[i.val] = g v[i.val] := by
  simp [vmod]

theorem vmod_other {α : Type} {n : Nat} (v : Vector α n) {i j : Fin n} (g : α → α) (h : j ≠ i) :
    (vmod v i g)[j.val] = v[j.val] := by
  have : i.val ≠ j.val := fun k => h (Fin.ext k.symm)
  simp [vmod, this]

theorem vmod_apply {α : Type} {n : Nat} (v : Vector α n) (i j : Fin n) (g : α → α) :
    (vmod v i g)[j.val] = if j = i then g v[j.val] else v[j.val] := by
  by_cases h : j = i
  · subst h
    simp
  · simp [h, vmod_other]

/-! After `State.onChip`. -/

@[simp] theorem State.onChip_pending (g) (s : State) : (s.onChip g).pending = s.pending := rfl
@[simp] theorem State.onChip_chip (g) (s : State) : (s.onChip g).chip = g s.chip := rfl
@[simp] theorem State.onChip_life (g) (s : State) : (s.onChip g).life = s.life := rfl
@[simp] theorem State.onChip_host (g) (s : State) : (s.onChip g).host = s.host := rfl
@[simp] theorem State.onChip_svc (g) (s : State) : (s.onChip g).svc = s.svc := rfl
@[simp] theorem State.onChip_net (g) (s : State) : (s.onChip g).net = s.net := rfl
@[simp] theorem State.onChip_path (g) (s : State) : (s.onChip g).path = s.path := rfl
@[simp] theorem State.onChip_time (g) (s : State) : (s.onChip g).time = s.time := rfl
@[simp] theorem State.onChip_strm (g) (s : State) : (s.onChip g).strm = s.strm := rfl
@[simp] theorem State.onChip_lov (g) (s : State) : (s.onChip g).lov = s.lov := rfl
@[simp] theorem State.onChip_cores (g) (s : State) : (s.onChip g).cores = s.cores := rfl
@[simp] theorem State.onChip_loc (g) (s : State) : (s.onChip g).loc = s.loc := rfl
@[simp] theorem State.onChip_pwr (g) (s : State) : (s.onChip g).pwr = s.pwr := rfl
@[simp] theorem State.onChip_memc (g) (s : State) : (s.onChip g).memc = s.memc := rfl
@[simp] theorem State.onChip_mem (g) (s : State) : (s.onChip g).mem = s.mem := rfl
@[simp] theorem State.onChip_log (g) (s : State) : (s.onChip g).log = s.log := rfl
@[simp] theorem State.onChip_cnt (g) (s : State) : (s.onChip g).cnt = s.cnt := rfl
@[simp] theorem State.onChip_edges (g) (s : State) : (s.onChip g).edges = s.edges := rfl
@[simp] theorem State.onChip_free (g) (s : State) : (s.onChip g).free = s.free := rfl

/-! After `State.onLife`. -/

@[simp] theorem State.onLife_pending (g) (s : State) : (s.onLife g).pending = s.pending := rfl
@[simp] theorem State.onLife_chip (g) (s : State) : (s.onLife g).chip = s.chip := rfl
@[simp] theorem State.onLife_life (g) (s : State) : (s.onLife g).life = g s.life := rfl
@[simp] theorem State.onLife_host (g) (s : State) : (s.onLife g).host = s.host := rfl
@[simp] theorem State.onLife_svc (g) (s : State) : (s.onLife g).svc = s.svc := rfl
@[simp] theorem State.onLife_net (g) (s : State) : (s.onLife g).net = s.net := rfl
@[simp] theorem State.onLife_path (g) (s : State) : (s.onLife g).path = s.path := rfl
@[simp] theorem State.onLife_time (g) (s : State) : (s.onLife g).time = s.time := rfl
@[simp] theorem State.onLife_strm (g) (s : State) : (s.onLife g).strm = s.strm := rfl
@[simp] theorem State.onLife_lov (g) (s : State) : (s.onLife g).lov = s.lov := rfl
@[simp] theorem State.onLife_cores (g) (s : State) : (s.onLife g).cores = s.cores := rfl
@[simp] theorem State.onLife_loc (g) (s : State) : (s.onLife g).loc = s.loc := rfl
@[simp] theorem State.onLife_pwr (g) (s : State) : (s.onLife g).pwr = s.pwr := rfl
@[simp] theorem State.onLife_memc (g) (s : State) : (s.onLife g).memc = s.memc := rfl
@[simp] theorem State.onLife_mem (g) (s : State) : (s.onLife g).mem = s.mem := rfl
@[simp] theorem State.onLife_log (g) (s : State) : (s.onLife g).log = s.log := rfl
@[simp] theorem State.onLife_cnt (g) (s : State) : (s.onLife g).cnt = s.cnt := rfl
@[simp] theorem State.onLife_edges (g) (s : State) : (s.onLife g).edges = s.edges := rfl
@[simp] theorem State.onLife_free (g) (s : State) : (s.onLife g).free = s.free := rfl

/-! After `State.onHost`. -/

@[simp] theorem State.onHost_pending (g) (s : State) : (s.onHost g).pending = s.pending := rfl
@[simp] theorem State.onHost_chip (g) (s : State) : (s.onHost g).chip = s.chip := rfl
@[simp] theorem State.onHost_life (g) (s : State) : (s.onHost g).life = s.life := rfl
@[simp] theorem State.onHost_host (g) (s : State) : (s.onHost g).host = g s.host := rfl
@[simp] theorem State.onHost_svc (g) (s : State) : (s.onHost g).svc = s.svc := rfl
@[simp] theorem State.onHost_net (g) (s : State) : (s.onHost g).net = s.net := rfl
@[simp] theorem State.onHost_path (g) (s : State) : (s.onHost g).path = s.path := rfl
@[simp] theorem State.onHost_time (g) (s : State) : (s.onHost g).time = s.time := rfl
@[simp] theorem State.onHost_strm (g) (s : State) : (s.onHost g).strm = s.strm := rfl
@[simp] theorem State.onHost_lov (g) (s : State) : (s.onHost g).lov = s.lov := rfl
@[simp] theorem State.onHost_cores (g) (s : State) : (s.onHost g).cores = s.cores := rfl
@[simp] theorem State.onHost_loc (g) (s : State) : (s.onHost g).loc = s.loc := rfl
@[simp] theorem State.onHost_pwr (g) (s : State) : (s.onHost g).pwr = s.pwr := rfl
@[simp] theorem State.onHost_memc (g) (s : State) : (s.onHost g).memc = s.memc := rfl
@[simp] theorem State.onHost_mem (g) (s : State) : (s.onHost g).mem = s.mem := rfl
@[simp] theorem State.onHost_log (g) (s : State) : (s.onHost g).log = s.log := rfl
@[simp] theorem State.onHost_cnt (g) (s : State) : (s.onHost g).cnt = s.cnt := rfl
@[simp] theorem State.onHost_edges (g) (s : State) : (s.onHost g).edges = s.edges := rfl
@[simp] theorem State.onHost_free (g) (s : State) : (s.onHost g).free = s.free := rfl

/-! After `State.onSvc`. -/

@[simp] theorem State.onSvc_pending (g) (s : State) : (s.onSvc g).pending = s.pending := rfl
@[simp] theorem State.onSvc_chip (g) (s : State) : (s.onSvc g).chip = s.chip := rfl
@[simp] theorem State.onSvc_life (g) (s : State) : (s.onSvc g).life = s.life := rfl
@[simp] theorem State.onSvc_host (g) (s : State) : (s.onSvc g).host = s.host := rfl
@[simp] theorem State.onSvc_svc (g) (s : State) : (s.onSvc g).svc = g s.svc := rfl
@[simp] theorem State.onSvc_net (g) (s : State) : (s.onSvc g).net = s.net := rfl
@[simp] theorem State.onSvc_path (g) (s : State) : (s.onSvc g).path = s.path := rfl
@[simp] theorem State.onSvc_time (g) (s : State) : (s.onSvc g).time = s.time := rfl
@[simp] theorem State.onSvc_strm (g) (s : State) : (s.onSvc g).strm = s.strm := rfl
@[simp] theorem State.onSvc_lov (g) (s : State) : (s.onSvc g).lov = s.lov := rfl
@[simp] theorem State.onSvc_cores (g) (s : State) : (s.onSvc g).cores = s.cores := rfl
@[simp] theorem State.onSvc_loc (g) (s : State) : (s.onSvc g).loc = s.loc := rfl
@[simp] theorem State.onSvc_pwr (g) (s : State) : (s.onSvc g).pwr = s.pwr := rfl
@[simp] theorem State.onSvc_memc (g) (s : State) : (s.onSvc g).memc = s.memc := rfl
@[simp] theorem State.onSvc_mem (g) (s : State) : (s.onSvc g).mem = s.mem := rfl
@[simp] theorem State.onSvc_log (g) (s : State) : (s.onSvc g).log = s.log := rfl
@[simp] theorem State.onSvc_cnt (g) (s : State) : (s.onSvc g).cnt = s.cnt := rfl
@[simp] theorem State.onSvc_edges (g) (s : State) : (s.onSvc g).edges = s.edges := rfl
@[simp] theorem State.onSvc_free (g) (s : State) : (s.onSvc g).free = s.free := rfl

/-! After `State.onNet`. -/

@[simp] theorem State.onNet_pending (g) (s : State) : (s.onNet g).pending = s.pending := rfl
@[simp] theorem State.onNet_chip (g) (s : State) : (s.onNet g).chip = s.chip := rfl
@[simp] theorem State.onNet_life (g) (s : State) : (s.onNet g).life = s.life := rfl
@[simp] theorem State.onNet_host (g) (s : State) : (s.onNet g).host = s.host := rfl
@[simp] theorem State.onNet_svc (g) (s : State) : (s.onNet g).svc = s.svc := rfl
@[simp] theorem State.onNet_net (g) (s : State) : (s.onNet g).net = g s.net := rfl
@[simp] theorem State.onNet_path (g) (s : State) : (s.onNet g).path = s.path := rfl
@[simp] theorem State.onNet_time (g) (s : State) : (s.onNet g).time = s.time := rfl
@[simp] theorem State.onNet_strm (g) (s : State) : (s.onNet g).strm = s.strm := rfl
@[simp] theorem State.onNet_lov (g) (s : State) : (s.onNet g).lov = s.lov := rfl
@[simp] theorem State.onNet_cores (g) (s : State) : (s.onNet g).cores = s.cores := rfl
@[simp] theorem State.onNet_loc (g) (s : State) : (s.onNet g).loc = s.loc := rfl
@[simp] theorem State.onNet_pwr (g) (s : State) : (s.onNet g).pwr = s.pwr := rfl
@[simp] theorem State.onNet_memc (g) (s : State) : (s.onNet g).memc = s.memc := rfl
@[simp] theorem State.onNet_mem (g) (s : State) : (s.onNet g).mem = s.mem := rfl
@[simp] theorem State.onNet_log (g) (s : State) : (s.onNet g).log = s.log := rfl
@[simp] theorem State.onNet_cnt (g) (s : State) : (s.onNet g).cnt = s.cnt := rfl
@[simp] theorem State.onNet_edges (g) (s : State) : (s.onNet g).edges = s.edges := rfl
@[simp] theorem State.onNet_free (g) (s : State) : (s.onNet g).free = s.free := rfl

/-! After `State.onPath`. -/

@[simp] theorem State.onPath_pending (g) (s : State) : (s.onPath g).pending = s.pending := rfl
@[simp] theorem State.onPath_chip (g) (s : State) : (s.onPath g).chip = s.chip := rfl
@[simp] theorem State.onPath_life (g) (s : State) : (s.onPath g).life = s.life := rfl
@[simp] theorem State.onPath_host (g) (s : State) : (s.onPath g).host = s.host := rfl
@[simp] theorem State.onPath_svc (g) (s : State) : (s.onPath g).svc = s.svc := rfl
@[simp] theorem State.onPath_net (g) (s : State) : (s.onPath g).net = s.net := rfl
@[simp] theorem State.onPath_path (g) (s : State) : (s.onPath g).path = g s.path := rfl
@[simp] theorem State.onPath_time (g) (s : State) : (s.onPath g).time = s.time := rfl
@[simp] theorem State.onPath_strm (g) (s : State) : (s.onPath g).strm = s.strm := rfl
@[simp] theorem State.onPath_lov (g) (s : State) : (s.onPath g).lov = s.lov := rfl
@[simp] theorem State.onPath_cores (g) (s : State) : (s.onPath g).cores = s.cores := rfl
@[simp] theorem State.onPath_loc (g) (s : State) : (s.onPath g).loc = s.loc := rfl
@[simp] theorem State.onPath_pwr (g) (s : State) : (s.onPath g).pwr = s.pwr := rfl
@[simp] theorem State.onPath_memc (g) (s : State) : (s.onPath g).memc = s.memc := rfl
@[simp] theorem State.onPath_mem (g) (s : State) : (s.onPath g).mem = s.mem := rfl
@[simp] theorem State.onPath_log (g) (s : State) : (s.onPath g).log = s.log := rfl
@[simp] theorem State.onPath_cnt (g) (s : State) : (s.onPath g).cnt = s.cnt := rfl
@[simp] theorem State.onPath_edges (g) (s : State) : (s.onPath g).edges = s.edges := rfl
@[simp] theorem State.onPath_free (g) (s : State) : (s.onPath g).free = s.free := rfl

/-! After `State.onTime`. -/

@[simp] theorem State.onTime_pending (g) (s : State) : (s.onTime g).pending = s.pending := rfl
@[simp] theorem State.onTime_chip (g) (s : State) : (s.onTime g).chip = s.chip := rfl
@[simp] theorem State.onTime_life (g) (s : State) : (s.onTime g).life = s.life := rfl
@[simp] theorem State.onTime_host (g) (s : State) : (s.onTime g).host = s.host := rfl
@[simp] theorem State.onTime_svc (g) (s : State) : (s.onTime g).svc = s.svc := rfl
@[simp] theorem State.onTime_net (g) (s : State) : (s.onTime g).net = s.net := rfl
@[simp] theorem State.onTime_path (g) (s : State) : (s.onTime g).path = s.path := rfl
@[simp] theorem State.onTime_time (g) (s : State) : (s.onTime g).time = g s.time := rfl
@[simp] theorem State.onTime_strm (g) (s : State) : (s.onTime g).strm = s.strm := rfl
@[simp] theorem State.onTime_lov (g) (s : State) : (s.onTime g).lov = s.lov := rfl
@[simp] theorem State.onTime_cores (g) (s : State) : (s.onTime g).cores = s.cores := rfl
@[simp] theorem State.onTime_loc (g) (s : State) : (s.onTime g).loc = s.loc := rfl
@[simp] theorem State.onTime_pwr (g) (s : State) : (s.onTime g).pwr = s.pwr := rfl
@[simp] theorem State.onTime_memc (g) (s : State) : (s.onTime g).memc = s.memc := rfl
@[simp] theorem State.onTime_mem (g) (s : State) : (s.onTime g).mem = s.mem := rfl
@[simp] theorem State.onTime_log (g) (s : State) : (s.onTime g).log = s.log := rfl
@[simp] theorem State.onTime_cnt (g) (s : State) : (s.onTime g).cnt = s.cnt := rfl
@[simp] theorem State.onTime_edges (g) (s : State) : (s.onTime g).edges = s.edges := rfl
@[simp] theorem State.onTime_free (g) (s : State) : (s.onTime g).free = s.free := rfl

/-! After `State.onStrm`. -/

@[simp] theorem State.onStrm_pending (g) (s : State) : (s.onStrm g).pending = s.pending := rfl
@[simp] theorem State.onStrm_chip (g) (s : State) : (s.onStrm g).chip = s.chip := rfl
@[simp] theorem State.onStrm_life (g) (s : State) : (s.onStrm g).life = s.life := rfl
@[simp] theorem State.onStrm_host (g) (s : State) : (s.onStrm g).host = s.host := rfl
@[simp] theorem State.onStrm_svc (g) (s : State) : (s.onStrm g).svc = s.svc := rfl
@[simp] theorem State.onStrm_net (g) (s : State) : (s.onStrm g).net = s.net := rfl
@[simp] theorem State.onStrm_path (g) (s : State) : (s.onStrm g).path = s.path := rfl
@[simp] theorem State.onStrm_time (g) (s : State) : (s.onStrm g).time = s.time := rfl
@[simp] theorem State.onStrm_strm (g) (s : State) : (s.onStrm g).strm = g s.strm := rfl
@[simp] theorem State.onStrm_lov (g) (s : State) : (s.onStrm g).lov = s.lov := rfl
@[simp] theorem State.onStrm_cores (g) (s : State) : (s.onStrm g).cores = s.cores := rfl
@[simp] theorem State.onStrm_loc (g) (s : State) : (s.onStrm g).loc = s.loc := rfl
@[simp] theorem State.onStrm_pwr (g) (s : State) : (s.onStrm g).pwr = s.pwr := rfl
@[simp] theorem State.onStrm_memc (g) (s : State) : (s.onStrm g).memc = s.memc := rfl
@[simp] theorem State.onStrm_mem (g) (s : State) : (s.onStrm g).mem = s.mem := rfl
@[simp] theorem State.onStrm_log (g) (s : State) : (s.onStrm g).log = s.log := rfl
@[simp] theorem State.onStrm_cnt (g) (s : State) : (s.onStrm g).cnt = s.cnt := rfl
@[simp] theorem State.onStrm_edges (g) (s : State) : (s.onStrm g).edges = s.edges := rfl
@[simp] theorem State.onStrm_free (g) (s : State) : (s.onStrm g).free = s.free := rfl

/-! After `State.onLov`. -/

@[simp] theorem State.onLov_pending (g) (s : State) : (s.onLov g).pending = s.pending := rfl
@[simp] theorem State.onLov_chip (g) (s : State) : (s.onLov g).chip = s.chip := rfl
@[simp] theorem State.onLov_life (g) (s : State) : (s.onLov g).life = s.life := rfl
@[simp] theorem State.onLov_host (g) (s : State) : (s.onLov g).host = s.host := rfl
@[simp] theorem State.onLov_svc (g) (s : State) : (s.onLov g).svc = s.svc := rfl
@[simp] theorem State.onLov_net (g) (s : State) : (s.onLov g).net = s.net := rfl
@[simp] theorem State.onLov_path (g) (s : State) : (s.onLov g).path = s.path := rfl
@[simp] theorem State.onLov_time (g) (s : State) : (s.onLov g).time = s.time := rfl
@[simp] theorem State.onLov_strm (g) (s : State) : (s.onLov g).strm = s.strm := rfl
@[simp] theorem State.onLov_lov (g) (s : State) : (s.onLov g).lov = g s.lov := rfl
@[simp] theorem State.onLov_cores (g) (s : State) : (s.onLov g).cores = s.cores := rfl
@[simp] theorem State.onLov_loc (g) (s : State) : (s.onLov g).loc = s.loc := rfl
@[simp] theorem State.onLov_pwr (g) (s : State) : (s.onLov g).pwr = s.pwr := rfl
@[simp] theorem State.onLov_memc (g) (s : State) : (s.onLov g).memc = s.memc := rfl
@[simp] theorem State.onLov_mem (g) (s : State) : (s.onLov g).mem = s.mem := rfl
@[simp] theorem State.onLov_log (g) (s : State) : (s.onLov g).log = s.log := rfl
@[simp] theorem State.onLov_cnt (g) (s : State) : (s.onLov g).cnt = s.cnt := rfl
@[simp] theorem State.onLov_edges (g) (s : State) : (s.onLov g).edges = s.edges := rfl
@[simp] theorem State.onLov_free (g) (s : State) : (s.onLov g).free = s.free := rfl

/-! After `State.onLoc`. -/

@[simp] theorem State.onLoc_pending (g) (s : State) : (s.onLoc g).pending = s.pending := rfl
@[simp] theorem State.onLoc_chip (g) (s : State) : (s.onLoc g).chip = s.chip := rfl
@[simp] theorem State.onLoc_life (g) (s : State) : (s.onLoc g).life = s.life := rfl
@[simp] theorem State.onLoc_host (g) (s : State) : (s.onLoc g).host = s.host := rfl
@[simp] theorem State.onLoc_svc (g) (s : State) : (s.onLoc g).svc = s.svc := rfl
@[simp] theorem State.onLoc_net (g) (s : State) : (s.onLoc g).net = s.net := rfl
@[simp] theorem State.onLoc_path (g) (s : State) : (s.onLoc g).path = s.path := rfl
@[simp] theorem State.onLoc_time (g) (s : State) : (s.onLoc g).time = s.time := rfl
@[simp] theorem State.onLoc_strm (g) (s : State) : (s.onLoc g).strm = s.strm := rfl
@[simp] theorem State.onLoc_lov (g) (s : State) : (s.onLoc g).lov = s.lov := rfl
@[simp] theorem State.onLoc_cores (g) (s : State) : (s.onLoc g).cores = s.cores := rfl
@[simp] theorem State.onLoc_loc (g) (s : State) : (s.onLoc g).loc = g s.loc := rfl
@[simp] theorem State.onLoc_pwr (g) (s : State) : (s.onLoc g).pwr = s.pwr := rfl
@[simp] theorem State.onLoc_memc (g) (s : State) : (s.onLoc g).memc = s.memc := rfl
@[simp] theorem State.onLoc_mem (g) (s : State) : (s.onLoc g).mem = s.mem := rfl
@[simp] theorem State.onLoc_log (g) (s : State) : (s.onLoc g).log = s.log := rfl
@[simp] theorem State.onLoc_cnt (g) (s : State) : (s.onLoc g).cnt = s.cnt := rfl
@[simp] theorem State.onLoc_edges (g) (s : State) : (s.onLoc g).edges = s.edges := rfl
@[simp] theorem State.onLoc_free (g) (s : State) : (s.onLoc g).free = s.free := rfl

/-! After `State.onPwr`. -/

@[simp] theorem State.onPwr_pending (g) (s : State) : (s.onPwr g).pending = s.pending := rfl
@[simp] theorem State.onPwr_chip (g) (s : State) : (s.onPwr g).chip = s.chip := rfl
@[simp] theorem State.onPwr_life (g) (s : State) : (s.onPwr g).life = s.life := rfl
@[simp] theorem State.onPwr_host (g) (s : State) : (s.onPwr g).host = s.host := rfl
@[simp] theorem State.onPwr_svc (g) (s : State) : (s.onPwr g).svc = s.svc := rfl
@[simp] theorem State.onPwr_net (g) (s : State) : (s.onPwr g).net = s.net := rfl
@[simp] theorem State.onPwr_path (g) (s : State) : (s.onPwr g).path = s.path := rfl
@[simp] theorem State.onPwr_time (g) (s : State) : (s.onPwr g).time = s.time := rfl
@[simp] theorem State.onPwr_strm (g) (s : State) : (s.onPwr g).strm = s.strm := rfl
@[simp] theorem State.onPwr_lov (g) (s : State) : (s.onPwr g).lov = s.lov := rfl
@[simp] theorem State.onPwr_cores (g) (s : State) : (s.onPwr g).cores = s.cores := rfl
@[simp] theorem State.onPwr_loc (g) (s : State) : (s.onPwr g).loc = s.loc := rfl
@[simp] theorem State.onPwr_pwr (g) (s : State) : (s.onPwr g).pwr = g s.pwr := rfl
@[simp] theorem State.onPwr_memc (g) (s : State) : (s.onPwr g).memc = s.memc := rfl
@[simp] theorem State.onPwr_mem (g) (s : State) : (s.onPwr g).mem = s.mem := rfl
@[simp] theorem State.onPwr_log (g) (s : State) : (s.onPwr g).log = s.log := rfl
@[simp] theorem State.onPwr_cnt (g) (s : State) : (s.onPwr g).cnt = s.cnt := rfl
@[simp] theorem State.onPwr_edges (g) (s : State) : (s.onPwr g).edges = s.edges := rfl
@[simp] theorem State.onPwr_free (g) (s : State) : (s.onPwr g).free = s.free := rfl

/-! After `State.onMemc`. -/

@[simp] theorem State.onMemc_pending (g) (s : State) : (s.onMemc g).pending = s.pending := rfl
@[simp] theorem State.onMemc_chip (g) (s : State) : (s.onMemc g).chip = s.chip := rfl
@[simp] theorem State.onMemc_life (g) (s : State) : (s.onMemc g).life = s.life := rfl
@[simp] theorem State.onMemc_host (g) (s : State) : (s.onMemc g).host = s.host := rfl
@[simp] theorem State.onMemc_svc (g) (s : State) : (s.onMemc g).svc = s.svc := rfl
@[simp] theorem State.onMemc_net (g) (s : State) : (s.onMemc g).net = s.net := rfl
@[simp] theorem State.onMemc_path (g) (s : State) : (s.onMemc g).path = s.path := rfl
@[simp] theorem State.onMemc_time (g) (s : State) : (s.onMemc g).time = s.time := rfl
@[simp] theorem State.onMemc_strm (g) (s : State) : (s.onMemc g).strm = s.strm := rfl
@[simp] theorem State.onMemc_lov (g) (s : State) : (s.onMemc g).lov = s.lov := rfl
@[simp] theorem State.onMemc_cores (g) (s : State) : (s.onMemc g).cores = s.cores := rfl
@[simp] theorem State.onMemc_loc (g) (s : State) : (s.onMemc g).loc = s.loc := rfl
@[simp] theorem State.onMemc_pwr (g) (s : State) : (s.onMemc g).pwr = s.pwr := rfl
@[simp] theorem State.onMemc_memc (g) (s : State) : (s.onMemc g).memc = g s.memc := rfl
@[simp] theorem State.onMemc_mem (g) (s : State) : (s.onMemc g).mem = s.mem := rfl
@[simp] theorem State.onMemc_log (g) (s : State) : (s.onMemc g).log = s.log := rfl
@[simp] theorem State.onMemc_cnt (g) (s : State) : (s.onMemc g).cnt = s.cnt := rfl
@[simp] theorem State.onMemc_edges (g) (s : State) : (s.onMemc g).edges = s.edges := rfl
@[simp] theorem State.onMemc_free (g) (s : State) : (s.onMemc g).free = s.free := rfl

/-! After `State.onLog`. -/

@[simp] theorem State.onLog_pending (g) (s : State) : (s.onLog g).pending = s.pending := rfl
@[simp] theorem State.onLog_chip (g) (s : State) : (s.onLog g).chip = s.chip := rfl
@[simp] theorem State.onLog_life (g) (s : State) : (s.onLog g).life = s.life := rfl
@[simp] theorem State.onLog_host (g) (s : State) : (s.onLog g).host = s.host := rfl
@[simp] theorem State.onLog_svc (g) (s : State) : (s.onLog g).svc = s.svc := rfl
@[simp] theorem State.onLog_net (g) (s : State) : (s.onLog g).net = s.net := rfl
@[simp] theorem State.onLog_path (g) (s : State) : (s.onLog g).path = s.path := rfl
@[simp] theorem State.onLog_time (g) (s : State) : (s.onLog g).time = s.time := rfl
@[simp] theorem State.onLog_strm (g) (s : State) : (s.onLog g).strm = s.strm := rfl
@[simp] theorem State.onLog_lov (g) (s : State) : (s.onLog g).lov = s.lov := rfl
@[simp] theorem State.onLog_cores (g) (s : State) : (s.onLog g).cores = s.cores := rfl
@[simp] theorem State.onLog_loc (g) (s : State) : (s.onLog g).loc = s.loc := rfl
@[simp] theorem State.onLog_pwr (g) (s : State) : (s.onLog g).pwr = s.pwr := rfl
@[simp] theorem State.onLog_memc (g) (s : State) : (s.onLog g).memc = s.memc := rfl
@[simp] theorem State.onLog_mem (g) (s : State) : (s.onLog g).mem = s.mem := rfl
@[simp] theorem State.onLog_log (g) (s : State) : (s.onLog g).log = g s.log := rfl
@[simp] theorem State.onLog_cnt (g) (s : State) : (s.onLog g).cnt = s.cnt := rfl
@[simp] theorem State.onLog_edges (g) (s : State) : (s.onLog g).edges = s.edges := rfl
@[simp] theorem State.onLog_free (g) (s : State) : (s.onLog g).free = s.free := rfl

/-! After `State.onCnt`. -/

@[simp] theorem State.onCnt_pending (g) (s : State) : (s.onCnt g).pending = s.pending := rfl
@[simp] theorem State.onCnt_chip (g) (s : State) : (s.onCnt g).chip = s.chip := rfl
@[simp] theorem State.onCnt_life (g) (s : State) : (s.onCnt g).life = s.life := rfl
@[simp] theorem State.onCnt_host (g) (s : State) : (s.onCnt g).host = s.host := rfl
@[simp] theorem State.onCnt_svc (g) (s : State) : (s.onCnt g).svc = s.svc := rfl
@[simp] theorem State.onCnt_net (g) (s : State) : (s.onCnt g).net = s.net := rfl
@[simp] theorem State.onCnt_path (g) (s : State) : (s.onCnt g).path = s.path := rfl
@[simp] theorem State.onCnt_time (g) (s : State) : (s.onCnt g).time = s.time := rfl
@[simp] theorem State.onCnt_strm (g) (s : State) : (s.onCnt g).strm = s.strm := rfl
@[simp] theorem State.onCnt_lov (g) (s : State) : (s.onCnt g).lov = s.lov := rfl
@[simp] theorem State.onCnt_cores (g) (s : State) : (s.onCnt g).cores = s.cores := rfl
@[simp] theorem State.onCnt_loc (g) (s : State) : (s.onCnt g).loc = s.loc := rfl
@[simp] theorem State.onCnt_pwr (g) (s : State) : (s.onCnt g).pwr = s.pwr := rfl
@[simp] theorem State.onCnt_memc (g) (s : State) : (s.onCnt g).memc = s.memc := rfl
@[simp] theorem State.onCnt_mem (g) (s : State) : (s.onCnt g).mem = s.mem := rfl
@[simp] theorem State.onCnt_log (g) (s : State) : (s.onCnt g).log = s.log := rfl
@[simp] theorem State.onCnt_cnt (g) (s : State) : (s.onCnt g).cnt = g s.cnt := rfl
@[simp] theorem State.onCnt_edges (g) (s : State) : (s.onCnt g).edges = s.edges := rfl
@[simp] theorem State.onCnt_free (g) (s : State) : (s.onCnt g).free = s.free := rfl

/-! After `State.onMem`. -/

@[simp] theorem State.onMem_pending (g) (s : State) : (s.onMem g).pending = s.pending := rfl
@[simp] theorem State.onMem_chip (g) (s : State) : (s.onMem g).chip = s.chip := rfl
@[simp] theorem State.onMem_life (g) (s : State) : (s.onMem g).life = s.life := rfl
@[simp] theorem State.onMem_host (g) (s : State) : (s.onMem g).host = s.host := rfl
@[simp] theorem State.onMem_svc (g) (s : State) : (s.onMem g).svc = s.svc := rfl
@[simp] theorem State.onMem_net (g) (s : State) : (s.onMem g).net = s.net := rfl
@[simp] theorem State.onMem_path (g) (s : State) : (s.onMem g).path = s.path := rfl
@[simp] theorem State.onMem_time (g) (s : State) : (s.onMem g).time = s.time := rfl
@[simp] theorem State.onMem_strm (g) (s : State) : (s.onMem g).strm = s.strm := rfl
@[simp] theorem State.onMem_lov (g) (s : State) : (s.onMem g).lov = s.lov := rfl
@[simp] theorem State.onMem_cores (g) (s : State) : (s.onMem g).cores = s.cores := rfl
@[simp] theorem State.onMem_loc (g) (s : State) : (s.onMem g).loc = s.loc := rfl
@[simp] theorem State.onMem_pwr (g) (s : State) : (s.onMem g).pwr = s.pwr := rfl
@[simp] theorem State.onMem_memc (g) (s : State) : (s.onMem g).memc = s.memc := rfl
@[simp] theorem State.onMem_mem (g) (s : State) : (s.onMem g).mem = g s.mem := rfl
@[simp] theorem State.onMem_log (g) (s : State) : (s.onMem g).log = s.log := rfl
@[simp] theorem State.onMem_cnt (g) (s : State) : (s.onMem g).cnt = s.cnt := rfl
@[simp] theorem State.onMem_edges (g) (s : State) : (s.onMem g).edges = s.edges := rfl
@[simp] theorem State.onMem_free (g) (s : State) : (s.onMem g).free = s.free := rfl

/-! After `State.onEdges`. -/

@[simp] theorem State.onEdges_pending (g) (s : State) : (s.onEdges g).pending = s.pending := rfl
@[simp] theorem State.onEdges_chip (g) (s : State) : (s.onEdges g).chip = s.chip := rfl
@[simp] theorem State.onEdges_life (g) (s : State) : (s.onEdges g).life = s.life := rfl
@[simp] theorem State.onEdges_host (g) (s : State) : (s.onEdges g).host = s.host := rfl
@[simp] theorem State.onEdges_svc (g) (s : State) : (s.onEdges g).svc = s.svc := rfl
@[simp] theorem State.onEdges_net (g) (s : State) : (s.onEdges g).net = s.net := rfl
@[simp] theorem State.onEdges_path (g) (s : State) : (s.onEdges g).path = s.path := rfl
@[simp] theorem State.onEdges_time (g) (s : State) : (s.onEdges g).time = s.time := rfl
@[simp] theorem State.onEdges_strm (g) (s : State) : (s.onEdges g).strm = s.strm := rfl
@[simp] theorem State.onEdges_lov (g) (s : State) : (s.onEdges g).lov = s.lov := rfl
@[simp] theorem State.onEdges_cores (g) (s : State) : (s.onEdges g).cores = s.cores := rfl
@[simp] theorem State.onEdges_loc (g) (s : State) : (s.onEdges g).loc = s.loc := rfl
@[simp] theorem State.onEdges_pwr (g) (s : State) : (s.onEdges g).pwr = s.pwr := rfl
@[simp] theorem State.onEdges_memc (g) (s : State) : (s.onEdges g).memc = s.memc := rfl
@[simp] theorem State.onEdges_mem (g) (s : State) : (s.onEdges g).mem = s.mem := rfl
@[simp] theorem State.onEdges_log (g) (s : State) : (s.onEdges g).log = s.log := rfl
@[simp] theorem State.onEdges_cnt (g) (s : State) : (s.onEdges g).cnt = s.cnt := rfl
@[simp] theorem State.onEdges_edges (g) (s : State) : (s.onEdges g).edges = g s.edges := rfl
@[simp] theorem State.onEdges_free (g) (s : State) : (s.onEdges g).free = s.free := rfl

/-! After `State.onCore`. -/

@[simp] theorem State.onCore_pending (n g) (s : State) : (s.onCore n g).pending = s.pending := rfl
@[simp] theorem State.onCore_chip (n g) (s : State) : (s.onCore n g).chip = s.chip := rfl
@[simp] theorem State.onCore_life (n g) (s : State) : (s.onCore n g).life = s.life := rfl
@[simp] theorem State.onCore_host (n g) (s : State) : (s.onCore n g).host = s.host := rfl
@[simp] theorem State.onCore_svc (n g) (s : State) : (s.onCore n g).svc = s.svc := rfl
@[simp] theorem State.onCore_net (n g) (s : State) : (s.onCore n g).net = s.net := rfl
@[simp] theorem State.onCore_path (n g) (s : State) : (s.onCore n g).path = s.path := rfl
@[simp] theorem State.onCore_time (n g) (s : State) : (s.onCore n g).time = s.time := rfl
@[simp] theorem State.onCore_strm (n g) (s : State) : (s.onCore n g).strm = s.strm := rfl
@[simp] theorem State.onCore_lov (n g) (s : State) : (s.onCore n g).lov = s.lov := rfl
@[simp] theorem State.onCore_cores (n g) (s : State) : (s.onCore n g).cores = vmod s.cores n g := rfl
@[simp] theorem State.onCore_loc (n g) (s : State) : (s.onCore n g).loc = s.loc := rfl
@[simp] theorem State.onCore_pwr (n g) (s : State) : (s.onCore n g).pwr = s.pwr := rfl
@[simp] theorem State.onCore_memc (n g) (s : State) : (s.onCore n g).memc = s.memc := rfl
@[simp] theorem State.onCore_mem (n g) (s : State) : (s.onCore n g).mem = s.mem := rfl
@[simp] theorem State.onCore_log (n g) (s : State) : (s.onCore n g).log = s.log := rfl
@[simp] theorem State.onCore_cnt (n g) (s : State) : (s.onCore n g).cnt = s.cnt := rfl
@[simp] theorem State.onCore_edges (n g) (s : State) : (s.onCore n g).edges = s.edges := rfl
@[simp] theorem State.onCore_free (n g) (s : State) : (s.onCore n g).free = s.free := rfl

@[simp] theorem State.core_onCore (n : Fin 16) (g) (s : State) : (s.onCore n g).core n = g (s.core n) := by
  simp [State.core]

theorem State.core_onCore_ne {n m : Fin 16} (g) (s : State) (h : m ≠ n) : (s.onCore n g).core m = s.core m := by
  simp [State.core, vmod_other _ _ h]

/-! After `State.onRing`, `State.onFunc`, `State.onPch`, `State.onDec`, `State.onTdm` and `State.onRef`. -/

@[simp] theorem State.onRing_pending (q g) (s : State) : (s.onRing q g).pending = s.pending := rfl
@[simp] theorem State.onRing_chip (q g) (s : State) : (s.onRing q g).chip = s.chip := rfl
@[simp] theorem State.onRing_life (q g) (s : State) : (s.onRing q g).life = s.life := rfl
@[simp] theorem State.onRing_svc (q g) (s : State) : (s.onRing q g).svc = s.svc := rfl
@[simp] theorem State.onRing_net (q g) (s : State) : (s.onRing q g).net = s.net := rfl
@[simp] theorem State.onRing_path (q g) (s : State) : (s.onRing q g).path = s.path := rfl
@[simp] theorem State.onRing_time (q g) (s : State) : (s.onRing q g).time = s.time := rfl
@[simp] theorem State.onRing_strm (q g) (s : State) : (s.onRing q g).strm = s.strm := rfl
@[simp] theorem State.onRing_lov (q g) (s : State) : (s.onRing q g).lov = s.lov := rfl
@[simp] theorem State.onRing_cores (q g) (s : State) : (s.onRing q g).cores = s.cores := rfl
@[simp] theorem State.onRing_loc (q g) (s : State) : (s.onRing q g).loc = s.loc := rfl
@[simp] theorem State.onRing_pwr (q g) (s : State) : (s.onRing q g).pwr = s.pwr := rfl
@[simp] theorem State.onRing_memc (q g) (s : State) : (s.onRing q g).memc = s.memc := rfl
@[simp] theorem State.onRing_mem (q g) (s : State) : (s.onRing q g).mem = s.mem := rfl
@[simp] theorem State.onRing_log (q g) (s : State) : (s.onRing q g).log = s.log := rfl
@[simp] theorem State.onRing_cnt (q g) (s : State) : (s.onRing q g).cnt = s.cnt := rfl
@[simp] theorem State.onRing_edges (q g) (s : State) : (s.onRing q g).edges = s.edges := rfl
@[simp] theorem State.onRing_free (q g) (s : State) : (s.onRing q g).free = s.free := rfl
@[simp] theorem State.onRing_host (q g) (s : State) :
    (s.onRing q g).host = { s.host with rings := vmod s.host.rings q g } := rfl

@[simp] theorem State.ring_onRing (q : Fin 32) (g) (s : State) : (s.onRing q g).ring q = g (s.ring q) := by
  simp [State.ring]

theorem State.ring_onRing_ne {q r : Fin 32} (g) (s : State) (h : r ≠ q) : (s.onRing q g).ring r = s.ring r := by
  simp [State.ring, vmod_other _ _ h]

@[simp] theorem State.onPch_pending (q g) (s : State) : (s.onPch q g).pending = s.pending := rfl
@[simp] theorem State.onPch_chip (q g) (s : State) : (s.onPch q g).chip = s.chip := rfl
@[simp] theorem State.onPch_life (q g) (s : State) : (s.onPch q g).life = s.life := rfl
@[simp] theorem State.onPch_host (q g) (s : State) : (s.onPch q g).host = s.host := rfl
@[simp] theorem State.onPch_svc (q g) (s : State) : (s.onPch q g).svc = s.svc := rfl
@[simp] theorem State.onPch_net (q g) (s : State) : (s.onPch q g).net = s.net := rfl
@[simp] theorem State.onPch_path (q g) (s : State) : (s.onPch q g).path = s.path := rfl
@[simp] theorem State.onPch_time (q g) (s : State) : (s.onPch q g).time = s.time := rfl
@[simp] theorem State.onPch_strm (q g) (s : State) : (s.onPch q g).strm = s.strm := rfl
@[simp] theorem State.onPch_lov (q g) (s : State) : (s.onPch q g).lov = s.lov := rfl
@[simp] theorem State.onPch_cores (q g) (s : State) : (s.onPch q g).cores = s.cores := rfl
@[simp] theorem State.onPch_loc (q g) (s : State) : (s.onPch q g).loc = s.loc := rfl
@[simp] theorem State.onPch_memc (q g) (s : State) : (s.onPch q g).memc = s.memc := rfl
@[simp] theorem State.onPch_mem (q g) (s : State) : (s.onPch q g).mem = s.mem := rfl
@[simp] theorem State.onPch_log (q g) (s : State) : (s.onPch q g).log = s.log := rfl
@[simp] theorem State.onPch_cnt (q g) (s : State) : (s.onPch q g).cnt = s.cnt := rfl
@[simp] theorem State.onPch_edges (q g) (s : State) : (s.onPch q g).edges = s.edges := rfl
@[simp] theorem State.onPch_free (q g) (s : State) : (s.onPch q g).free = s.free := rfl
@[simp] theorem State.onPch_pwr (q g) (s : State) :
    (s.onPch q g).pwr = { s.pwr with ch := vmod s.pwr.ch q g } := rfl

@[simp] theorem State.pch_onPch (q : Fin 4) (g) (s : State) : (s.onPch q g).pch q = g (s.pch q) := by
  simp [State.pch]

theorem State.pch_onPch_ne {q r : Fin 4} (g) (s : State) (h : r ≠ q) : (s.onPch q g).pch r = s.pch r := by
  simp [State.pch, vmod_other _ _ h]

@[simp] theorem State.onDec_pending (q g) (s : State) : (s.onDec q g).pending = s.pending := rfl
@[simp] theorem State.onDec_chip (q g) (s : State) : (s.onDec q g).chip = s.chip := rfl
@[simp] theorem State.onDec_life (q g) (s : State) : (s.onDec q g).life = s.life := rfl
@[simp] theorem State.onDec_host (q g) (s : State) : (s.onDec q g).host = s.host := rfl
@[simp] theorem State.onDec_svc (q g) (s : State) : (s.onDec q g).svc = s.svc := rfl
@[simp] theorem State.onDec_net (q g) (s : State) : (s.onDec q g).net = s.net := rfl
@[simp] theorem State.onDec_path (q g) (s : State) : (s.onDec q g).path = s.path := rfl
@[simp] theorem State.onDec_time (q g) (s : State) : (s.onDec q g).time = s.time := rfl
@[simp] theorem State.onDec_strm (q g) (s : State) : (s.onDec q g).strm = s.strm := rfl
@[simp] theorem State.onDec_lov (q g) (s : State) : (s.onDec q g).lov = s.lov := rfl
@[simp] theorem State.onDec_cores (q g) (s : State) : (s.onDec q g).cores = s.cores := rfl
@[simp] theorem State.onDec_pwr (q g) (s : State) : (s.onDec q g).pwr = s.pwr := rfl
@[simp] theorem State.onDec_memc (q g) (s : State) : (s.onDec q g).memc = s.memc := rfl
@[simp] theorem State.onDec_mem (q g) (s : State) : (s.onDec q g).mem = s.mem := rfl
@[simp] theorem State.onDec_log (q g) (s : State) : (s.onDec q g).log = s.log := rfl
@[simp] theorem State.onDec_cnt (q g) (s : State) : (s.onDec q g).cnt = s.cnt := rfl
@[simp] theorem State.onDec_edges (q g) (s : State) : (s.onDec q g).edges = s.edges := rfl
@[simp] theorem State.onDec_free (q g) (s : State) : (s.onDec q g).free = s.free := rfl
@[simp] theorem State.onDec_loc (q g) (s : State) :
    (s.onDec q g).loc = { s.loc with decs := vmod s.loc.decs q g } := rfl

@[simp] theorem State.dec_onDec (q : Fin 40) (g) (s : State) : (s.onDec q g).dec q = g (s.dec q) := by
  simp [State.dec]

theorem State.dec_onDec_ne {q r : Fin 40} (g) (s : State) (h : r ≠ q) : (s.onDec q g).dec r = s.dec r := by
  simp [State.dec, vmod_other _ _ h]

@[simp] theorem State.onTdm_pending (q g) (s : State) : (s.onTdm q g).pending = s.pending := rfl
@[simp] theorem State.onTdm_chip (q g) (s : State) : (s.onTdm q g).chip = s.chip := rfl
@[simp] theorem State.onTdm_life (q g) (s : State) : (s.onTdm q g).life = s.life := rfl
@[simp] theorem State.onTdm_host (q g) (s : State) : (s.onTdm q g).host = s.host := rfl
@[simp] theorem State.onTdm_svc (q g) (s : State) : (s.onTdm q g).svc = s.svc := rfl
@[simp] theorem State.onTdm_net (q g) (s : State) : (s.onTdm q g).net = s.net := rfl
@[simp] theorem State.onTdm_path (q g) (s : State) : (s.onTdm q g).path = s.path := rfl
@[simp] theorem State.onTdm_time (q g) (s : State) : (s.onTdm q g).time = s.time := rfl
@[simp] theorem State.onTdm_strm (q g) (s : State) : (s.onTdm q g).strm = s.strm := rfl
@[simp] theorem State.onTdm_lov (q g) (s : State) : (s.onTdm q g).lov = s.lov := rfl
@[simp] theorem State.onTdm_cores (q g) (s : State) : (s.onTdm q g).cores = s.cores := rfl
@[simp] theorem State.onTdm_pwr (q g) (s : State) : (s.onTdm q g).pwr = s.pwr := rfl
@[simp] theorem State.onTdm_memc (q g) (s : State) : (s.onTdm q g).memc = s.memc := rfl
@[simp] theorem State.onTdm_mem (q g) (s : State) : (s.onTdm q g).mem = s.mem := rfl
@[simp] theorem State.onTdm_log (q g) (s : State) : (s.onTdm q g).log = s.log := rfl
@[simp] theorem State.onTdm_cnt (q g) (s : State) : (s.onTdm q g).cnt = s.cnt := rfl
@[simp] theorem State.onTdm_edges (q g) (s : State) : (s.onTdm q g).edges = s.edges := rfl
@[simp] theorem State.onTdm_free (q g) (s : State) : (s.onTdm q g).free = s.free := rfl
@[simp] theorem State.onTdm_loc (q g) (s : State) :
    (s.onTdm q g).loc = { s.loc with tdm := vmod s.loc.tdm q g } := rfl

@[simp] theorem State.tdm_onTdm (q : Fin 2) (g) (s : State) : (s.onTdm q g).tdm q = g (s.tdm q) := by
  simp [State.tdm]

theorem State.tdm_onTdm_ne {q r : Fin 2} (g) (s : State) (h : r ≠ q) : (s.onTdm q g).tdm r = s.tdm r := by
  simp [State.tdm, vmod_other _ _ h]

@[simp] theorem State.onRef_pending (q g) (s : State) : (s.onRef q g).pending = s.pending := rfl
@[simp] theorem State.onRef_chip (q g) (s : State) : (s.onRef q g).chip = s.chip := rfl
@[simp] theorem State.onRef_life (q g) (s : State) : (s.onRef q g).life = s.life := rfl
@[simp] theorem State.onRef_host (q g) (s : State) : (s.onRef q g).host = s.host := rfl
@[simp] theorem State.onRef_svc (q g) (s : State) : (s.onRef q g).svc = s.svc := rfl
@[simp] theorem State.onRef_net (q g) (s : State) : (s.onRef q g).net = s.net := rfl
@[simp] theorem State.onRef_path (q g) (s : State) : (s.onRef q g).path = s.path := rfl
@[simp] theorem State.onRef_strm (q g) (s : State) : (s.onRef q g).strm = s.strm := rfl
@[simp] theorem State.onRef_lov (q g) (s : State) : (s.onRef q g).lov = s.lov := rfl
@[simp] theorem State.onRef_cores (q g) (s : State) : (s.onRef q g).cores = s.cores := rfl
@[simp] theorem State.onRef_loc (q g) (s : State) : (s.onRef q g).loc = s.loc := rfl
@[simp] theorem State.onRef_pwr (q g) (s : State) : (s.onRef q g).pwr = s.pwr := rfl
@[simp] theorem State.onRef_memc (q g) (s : State) : (s.onRef q g).memc = s.memc := rfl
@[simp] theorem State.onRef_mem (q g) (s : State) : (s.onRef q g).mem = s.mem := rfl
@[simp] theorem State.onRef_log (q g) (s : State) : (s.onRef q g).log = s.log := rfl
@[simp] theorem State.onRef_cnt (q g) (s : State) : (s.onRef q g).cnt = s.cnt := rfl
@[simp] theorem State.onRef_edges (q g) (s : State) : (s.onRef q g).edges = s.edges := rfl
@[simp] theorem State.onRef_free (q g) (s : State) : (s.onRef q g).free = s.free := rfl
@[simp] theorem State.onRef_time (q g) (s : State) :
    (s.onRef q g).time = { s.time with refs := vmod s.time.refs q g } := rfl

@[simp] theorem State.refRec_onRef (q : Fin 6) (g) (s : State) : (s.onRef q g).refRec q = g (s.refRec q) := by
  simp [State.refRec]

theorem State.refRec_onRef_ne {q r : Fin 6} (g) (s : State) (h : r ≠ q) : (s.onRef q g).refRec r = s.refRec r := by
  simp [State.refRec, vmod_other _ _ h]

@[simp] theorem State.onFunc_pending (f g) (s : State) : (s.onFunc f g).pending = s.pending := rfl
@[simp] theorem State.onFunc_chip (f g) (s : State) : (s.onFunc f g).chip = s.chip := rfl
@[simp] theorem State.onFunc_host (f g) (s : State) : (s.onFunc f g).host = s.host := rfl
@[simp] theorem State.onFunc_svc (f g) (s : State) : (s.onFunc f g).svc = s.svc := rfl
@[simp] theorem State.onFunc_net (f g) (s : State) : (s.onFunc f g).net = s.net := rfl
@[simp] theorem State.onFunc_path (f g) (s : State) : (s.onFunc f g).path = s.path := rfl
@[simp] theorem State.onFunc_time (f g) (s : State) : (s.onFunc f g).time = s.time := rfl
@[simp] theorem State.onFunc_strm (f g) (s : State) : (s.onFunc f g).strm = s.strm := rfl
@[simp] theorem State.onFunc_lov (f g) (s : State) : (s.onFunc f g).lov = s.lov := rfl
@[simp] theorem State.onFunc_cores (f g) (s : State) : (s.onFunc f g).cores = s.cores := rfl
@[simp] theorem State.onFunc_loc (f g) (s : State) : (s.onFunc f g).loc = s.loc := rfl
@[simp] theorem State.onFunc_pwr (f g) (s : State) : (s.onFunc f g).pwr = s.pwr := rfl
@[simp] theorem State.onFunc_memc (f g) (s : State) : (s.onFunc f g).memc = s.memc := rfl
@[simp] theorem State.onFunc_mem (f g) (s : State) : (s.onFunc f g).mem = s.mem := rfl
@[simp] theorem State.onFunc_log (f g) (s : State) : (s.onFunc f g).log = s.log := rfl
@[simp] theorem State.onFunc_cnt (f g) (s : State) : (s.onFunc f g).cnt = s.cnt := rfl
@[simp] theorem State.onFunc_edges (f g) (s : State) : (s.onFunc f g).edges = s.edges := rfl
@[simp] theorem State.onFunc_free (f g) (s : State) : (s.onFunc f g).free = s.free := rfl
@[simp] theorem State.onFunc_life (f g) (s : State) :
    (s.onFunc f g).life = { s.life with funcs := vmod s.life.funcs f.idx g } := rfl

@[simp] theorem State.func_onFunc (f : Func) (g) (s : State) : (s.onFunc f g).func f = g (s.func f) := by
  simp [State.func]

theorem State.func_onFunc_ne {f k : Func} (g) (s : State) (h : k.idx ≠ f.idx) : (s.onFunc f g).func k = s.func k := by
  simp [State.func, vmod_other _ _ h]

/-! After `State.onPort` and `State.onPtp`. -/

@[simp] theorem State.onPort_pending (p g) (s : State) : (s.onPort p g).pending = s.pending := by cases p <;> rfl
@[simp] theorem State.onPort_chip (p g) (s : State) : (s.onPort p g).chip = s.chip := by cases p <;> rfl
@[simp] theorem State.onPort_life (p g) (s : State) : (s.onPort p g).life = s.life := by cases p <;> rfl
@[simp] theorem State.onPort_host (p g) (s : State) : (s.onPort p g).host = s.host := by cases p <;> rfl
@[simp] theorem State.onPort_svc (p g) (s : State) : (s.onPort p g).svc = s.svc := by cases p <;> rfl
@[simp] theorem State.onPort_path (p g) (s : State) : (s.onPort p g).path = s.path := by cases p <;> rfl
@[simp] theorem State.onPort_time (p g) (s : State) : (s.onPort p g).time = s.time := by cases p <;> rfl
@[simp] theorem State.onPort_strm (p g) (s : State) : (s.onPort p g).strm = s.strm := by cases p <;> rfl
@[simp] theorem State.onPort_lov (p g) (s : State) : (s.onPort p g).lov = s.lov := by cases p <;> rfl
@[simp] theorem State.onPort_cores (p g) (s : State) : (s.onPort p g).cores = s.cores := by cases p <;> rfl
@[simp] theorem State.onPort_loc (p g) (s : State) : (s.onPort p g).loc = s.loc := by cases p <;> rfl
@[simp] theorem State.onPort_pwr (p g) (s : State) : (s.onPort p g).pwr = s.pwr := by cases p <;> rfl
@[simp] theorem State.onPort_memc (p g) (s : State) : (s.onPort p g).memc = s.memc := by cases p <;> rfl
@[simp] theorem State.onPort_mem (p g) (s : State) : (s.onPort p g).mem = s.mem := by cases p <;> rfl
@[simp] theorem State.onPort_log (p g) (s : State) : (s.onPort p g).log = s.log := by cases p <;> rfl
@[simp] theorem State.onPort_cnt (p g) (s : State) : (s.onPort p g).cnt = s.cnt := by cases p <;> rfl
@[simp] theorem State.onPort_edges (p g) (s : State) : (s.onPort p g).edges = s.edges := by cases p <;> rfl
@[simp] theorem State.onPort_free (p g) (s : State) : (s.onPort p g).free = s.free := by cases p <;> rfl
@[simp] theorem State.port_onPort (p : Port) (g) (s : State) : (s.onPort p g).port p = g (s.port p) := by cases p <;> rfl

@[simp] theorem State.onPtp_pending (p g) (s : State) : (s.onPtp p g).pending = s.pending := by cases p <;> rfl
@[simp] theorem State.onPtp_chip (p g) (s : State) : (s.onPtp p g).chip = s.chip := by cases p <;> rfl
@[simp] theorem State.onPtp_life (p g) (s : State) : (s.onPtp p g).life = s.life := by cases p <;> rfl
@[simp] theorem State.onPtp_host (p g) (s : State) : (s.onPtp p g).host = s.host := by cases p <;> rfl
@[simp] theorem State.onPtp_svc (p g) (s : State) : (s.onPtp p g).svc = s.svc := by cases p <;> rfl
@[simp] theorem State.onPtp_net (p g) (s : State) : (s.onPtp p g).net = s.net := by cases p <;> rfl
@[simp] theorem State.onPtp_path (p g) (s : State) : (s.onPtp p g).path = s.path := by cases p <;> rfl
@[simp] theorem State.onPtp_strm (p g) (s : State) : (s.onPtp p g).strm = s.strm := by cases p <;> rfl
@[simp] theorem State.onPtp_lov (p g) (s : State) : (s.onPtp p g).lov = s.lov := by cases p <;> rfl
@[simp] theorem State.onPtp_cores (p g) (s : State) : (s.onPtp p g).cores = s.cores := by cases p <;> rfl
@[simp] theorem State.onPtp_loc (p g) (s : State) : (s.onPtp p g).loc = s.loc := by cases p <;> rfl
@[simp] theorem State.onPtp_pwr (p g) (s : State) : (s.onPtp p g).pwr = s.pwr := by cases p <;> rfl
@[simp] theorem State.onPtp_memc (p g) (s : State) : (s.onPtp p g).memc = s.memc := by cases p <;> rfl
@[simp] theorem State.onPtp_mem (p g) (s : State) : (s.onPtp p g).mem = s.mem := by cases p <;> rfl
@[simp] theorem State.onPtp_log (p g) (s : State) : (s.onPtp p g).log = s.log := by cases p <;> rfl
@[simp] theorem State.onPtp_cnt (p g) (s : State) : (s.onPtp p g).cnt = s.cnt := by cases p <;> rfl
@[simp] theorem State.onPtp_edges (p g) (s : State) : (s.onPtp p g).edges = s.edges := by cases p <;> rfl
@[simp] theorem State.onPtp_free (p g) (s : State) : (s.onPtp p g).free = s.free := by cases p <;> rfl

end Sys2Proof.Machine
end

