-- ==== Sys2Proof/Laws/StreamCmdsTouch.lean ====
section
/-! SUPPORT. What each operation of Machine/StreamCmds.lean may change: one lemma each, `<name>_touch`. -/

namespace Sys2Proof.Machine

open Sys2Proof

theorem storeBlock_touch (p : Port) (k : Nat) (pkt : StreamPacket) (stamp : DWord) (n : Nat) (s : State) :
    Touch [.path, .strm, .cnt] s (storeBlock p k pkt stamp n s) := by
  unfold storeBlock
  try dsimp only
  repeat' first
      | with_reducible exact Touch.refl _ _ | with_reducible assumption
      | with_reducible refine (errEvent_touch ..).after ?_ rfl
      | with_reducible refine (State.bumpRx_touch ..).after ?_ rfl
      | with_reducible refine (State.onRx_touch ..).after ?_ rfl | with_reducible refine Touch.ite ?_ ?_

theorem judgePacket_touch (p : Port) (k : Nat) (pkt : StreamPacket) (s : State) :
    Touch [.path, .strm, .cnt] s (judgePacket p k pkt s) := by
  unfold judgePacket
  try dsimp only
  repeat' first
      | with_reducible exact Touch.refl _ _ | with_reducible assumption
      | with_reducible refine (storeBlock_touch ..).after ?_ rfl
      | with_reducible refine (State.onRx_touch ..).after ?_ rfl
      | with_reducible refine (State.bumpRx_touch ..).after ?_ rfl | with_reducible refine Touch.ite ?_ ?_ | (intro _)
      | split

theorem execStreamPacketReceive_touch (path : Port) (k : Fin 128) (pkt : StreamPacket) (s : State) :
    AnsTouch [.path, .strm, .cnt] s (execStreamPacketReceive path k pkt s) := by
  unfold execStreamPacketReceive
  try dsimp only
  repeat' first
      | with_reducible refine AnsTouch.next ?_ | with_reducible refine AnsTouch.ite ?_ ?_
      | with_reducible exact Touch.refl _ _ | with_reducible assumption
      | with_reducible refine (judgePacket_touch ..).after ?_ rfl | with_reducible refine Touch.ite ?_ ?_

theorem State.bumpTx_touch (k : Nat) (i : Nat) (s : State) :
    Touch [.cnt] s (State.bumpTx k i s) := by
  unfold State.bumpTx
  try dsimp only
  repeat' first
      | with_reducible exact Touch.refl _ _ | with_reducible assumption
      | with_reducible refine (State.bump_touch ..).after ?_ rfl

theorem launchOn_touch (k : Nat) (seq : BitVec 16) (stamp : DWord) (s : State) :
    Touch [.portA, .portB, .path, .strm, .cnt] s (launchOn k seq stamp s) := by
  unfold launchOn
  try dsimp only
  repeat' first
      | with_reducible exact Touch.refl _ _ | with_reducible assumption | with_reducible refine Touch.forAll ?_ ?_
      | with_reducible refine (State.onTx_touch ..).after ?_ rfl
      | with_reducible refine (sendFrame_touch ..).after ?_ rfl
      | with_reducible refine (State.bumpTx_touch ..).after ?_ rfl | with_reducible refine Touch.ite ?_ ?_ | (intro _)

theorem execStreamPacketLaunch_touch (k : Fin 64) (s : State) :
    AnsTouch [.funcs, .jobs, .acts, .rings, .pages, .link, .reqs, .svc, .portA, .portB, .path, .strm, .loc, .pwr, .log, .cnt] s (execStreamPacketLaunch k s) := by
  unfold execStreamPacketLaunch
  try dsimp only
  repeat' first
      | with_reducible refine AnsTouch.next ?_ | with_reducible refine AnsTouch.ite ?_ ?_
      | with_reducible exact Touch.refl _ _ | with_reducible assumption
      | with_reducible refine (enterRunning_touch ..).after ?_ rfl
      | with_reducible refine (State.onTx_touch ..).after ?_ rfl
      | with_reducible refine (launchOn_touch ..).after ?_ rfl | with_reducible refine Touch.ite ?_ ?_ | (intro _)
      | split

theorem execCrosspointRampEnd_touch (src : BitVec 11) (snk : BitVec 11) (s : State) :
    AnsTouch [.lov] s (execCrosspointRampEnd src snk s) := by
  unfold execCrosspointRampEnd
  try dsimp only
  repeat' first
      | with_reducible refine AnsTouch.next ?_ | with_reducible refine AnsTouch.ite ?_ ?_
      | with_reducible exact Touch.refl _ _ | with_reducible assumption | with_reducible refine Touch.onLov ?_ rfl
      | with_reducible refine Touch.ite ?_ ?_

theorem execGeneratorSettingApply_touch (g : Fin 16) (s : State) :
    AnsTouch [.lov] s (execGeneratorSettingApply g s) := by
  unfold execGeneratorSettingApply
  try dsimp only
  repeat' first
      | with_reducible refine AnsTouch.next ?_ | with_reducible refine AnsTouch.ite ?_ ?_
      | with_reducible exact Touch.refl _ _ | with_reducible assumption
      | with_reducible refine (genRise_touch ..).after ?_ rfl | with_reducible refine Touch.ite ?_ ?_

end Sys2Proof.Machine
end

