-- ==== Sys2Proof/Laws/SvcCmdsTouch.lean ====
section
/-! SUPPORT. What each operation of Machine/SvcCmds.lean may change: one lemma each, `<name>_touch`. -/

namespace Sys2Proof.Machine

open Sys2Proof

theorem noardCount_touch (i : Fin 5) (s : State) :
    Touch [.svc] s (noardCount i s) := by
  unfold noardCount
  try dsimp only
  repeat' first
      | with_reducible exact Touch.refl _ _ | with_reducible assumption
      | with_reducible refine Touch.onSvc ?_ ?_ ?_ ?_ | exact fun _ => SvcSt.Later.of_eq rfl rfl rfl rfl rfl rfl rfl
      | exact SvcSt.Later.of_eq rfl rfl rfl rfl rfl rfl rfl | with_reducible refine Touch.ite ?_ ?_ | exact Or.inl rfl
      | exact Or.inr fun _ => rfl

theorem sendNoard_touch (p : Port) (dst : BitVec 48) (vlan : Option Vlan) (pdu : List Byte) (s : State) :
    Touch [.portA, .portB, .path, .cnt] s (sendNoard p dst vlan pdu s) := by
  unfold sendNoard
  try dsimp only
  repeat' first
      | with_reducible exact Touch.refl _ _ | with_reducible assumption
      | with_reducible refine (sendService_touch ..).after ?_ rfl

theorem sendReply_touch (n : NoardReq) (flags : Nat) (recs : List (List Byte)) (data : List Byte) (s : State) :
    Touch [.svc, .portA, .portB, .path, .cnt] s (sendReply n flags recs data s) := by
  unfold sendReply
  try dsimp only
  repeat' first
      | with_reducible exact Touch.refl _ _ | with_reducible assumption
      | with_reducible refine Touch.onSvc ?_ ?_ ?_ ?_ | exact fun _ => SvcSt.Later.of_eq rfl rfl rfl rfl rfl rfl rfl
      | exact SvcSt.Later.of_eq rfl rfl rfl rfl rfl rfl rfl | with_reducible refine (sendNoard_touch ..).after ?_ rfl
      | with_reducible refine Touch.ite ?_ ?_ | exact Or.inl rfl | exact Or.inr fun _ => rfl

theorem replyNow_touch (n : NoardReq) (s : State) :
    Touch [.reqs, .svc, .portA, .portB, .path, .cnt] s (replyNow n s) := by
  unfold replyNow
  try dsimp only
  repeat' first
      | with_reducible exact Touch.refl _ _ | with_reducible assumption
      | with_reducible refine Touch.onSvc ?_ ?_ ?_ ?_ | exact fun _ => SvcSt.Later.of_eq rfl rfl rfl rfl rfl rfl rfl
      | exact SvcSt.Later.of_eq rfl rfl rfl rfl rfl rfl rfl | with_reducible refine (sendReply_touch ..).after ?_ rfl
      | with_reducible refine Touch.ite ?_ ?_ | exact Or.inl rfl

theorem placeAll_touch (q : Fin 32) (l : List Desc) (s : State) :
    Touch [.mem] s (placeAll q l s) := by
  unfold placeAll
  try dsimp only
  repeat' first
      | with_reducible exact Touch.refl _ _ | with_reducible assumption | with_reducible refine Touch.forAll ?_ ?_
      | with_reducible refine (State.write_touch ..).after ?_ rfl | with_reducible refine Touch.ite ?_ ?_ | (intro _)

theorem placeRequest_touch (n : NoardReq) (p : List Byte) (s : State) :
    Touch [.reqs, .svc, .portA, .portB, .path, .mem, .cnt] s (placeRequest n p s) := by
  unfold placeRequest
  try dsimp only
  repeat' first
      | with_reducible exact Touch.refl _ _ | with_reducible assumption
      | with_reducible refine Touch.onSvc ?_ ?_ ?_ ?_ | exact fun _ => SvcSt.Later.of_eq rfl rfl rfl rfl rfl rfl rfl
      | exact SvcSt.Later.of_eq rfl rfl rfl rfl rfl rfl rfl | with_reducible refine (placeAll_touch ..).after ?_ rfl
      | with_reducible refine (State.write_touch ..).after ?_ rfl
      | with_reducible refine (sendReply_touch ..).after ?_ rfl
      | with_reducible refine (noardCount_touch ..).after ?_ rfl | with_reducible refine Touch.ite ?_ ?_
      | exact Or.inl rfl

theorem acceptRequest_touch (port : Port) (src : BitVec 48) (vlan : Option Vlan) (p : List Byte) (s : State) :
    Touch [.reqs, .svc, .portA, .portB, .path, .mem, .cnt] s (acceptRequest port src vlan p s) := by
  unfold acceptRequest
  try dsimp only
  repeat' first
      | with_reducible exact Touch.refl _ _ | with_reducible assumption
      | with_reducible refine Touch.onSvc ?_ ?_ ?_ ?_ | exact fun _ => SvcSt.Later.of_eq rfl rfl rfl rfl rfl rfl rfl
      | exact SvcSt.Later.of_eq rfl rfl rfl rfl rfl rfl rfl
      | with_reducible refine (placeRequest_touch ..).after ?_ rfl
      | with_reducible refine (sendReply_touch ..).after ?_ rfl
      | with_reducible refine (noardCount_touch ..).after ?_ rfl | with_reducible refine Touch.ite ?_ ?_
      | exact Or.inl rfl

theorem execNoardRequest_touch (port : Port) (src : BitVec 48) (vlan : Option Vlan) (pdu : List Byte) (s : State) :
    AnsTouch [.reqs, .svc, .portA, .portB, .path, .mem, .cnt] s (execNoardRequest port src vlan pdu s) := by
  unfold execNoardRequest
  try dsimp only
  repeat' first
      | with_reducible refine AnsTouch.next ?_ | with_reducible refine AnsTouch.ite ?_ ?_
      | with_reducible exact Touch.refl _ _ | with_reducible assumption | with_reducible refine Touch.forAll ?_ ?_
      | with_reducible refine (sendNoard_touch ..).after ?_ rfl
      | with_reducible refine (acceptRequest_touch ..).after ?_ rfl
      | with_reducible refine (noardCount_touch ..).after ?_ rfl | with_reducible refine Touch.ite ?_ ?_ | (intro _)

theorem execNoardReply_touch (slot : Fin 4) (counter : DWord) (s : State) :
    AnsTouch [.reqs, .svc, .portA, .portB, .path, .cnt] s (execNoardReply slot counter s) := by
  unfold execNoardReply
  try dsimp only
  repeat' first
      | with_reducible refine AnsTouch.next ?_ | with_reducible refine AnsTouch.ite ?_ ?_
      | with_reducible exact Touch.refl _ _ | with_reducible assumption
      | with_reducible refine (replyNow_touch ..).after ?_ rfl | with_reducible refine Touch.ite ?_ ?_ | (intro _)
      | split

theorem execReplyWaitExpiry_touch (slot : Fin 4) (counter : DWord) (s : State) :
    AnsTouch [.reqs, .svc, .portA, .portB, .path, .cnt] s (execReplyWaitExpiry slot counter s) := by
  unfold execReplyWaitExpiry
  try dsimp only
  repeat' first
      | with_reducible refine AnsTouch.next ?_ | with_reducible refine AnsTouch.ite ?_ ?_
      | with_reducible exact Touch.refl _ _ | with_reducible assumption
      | with_reducible refine (replyNow_touch ..).after ?_ rfl | with_reducible refine Touch.ite ?_ ?_ | (intro _)
      | split

theorem execNoardEventNotice_touch (s : State) :
    AnsTouch [.pages, .svc, .portA, .portB, .path, .mem, .cnt] s (execNoardEventNotice s) := by
  unfold execNoardEventNotice
  try dsimp only
  repeat' first
      | with_reducible refine AnsTouch.next ?_ | with_reducible refine AnsTouch.ite ?_ ?_
      | with_reducible exact Touch.refl _ _ | with_reducible assumption
      | with_reducible refine Touch.onSvc ?_ ?_ ?_ ?_ | exact fun _ => SvcSt.Later.of_eq rfl rfl rfl rfl rfl rfl rfl
      | exact SvcSt.Later.of_eq rfl rfl rfl rfl rfl rfl rfl
      | with_reducible refine (State.write_touch ..).after ?_ rfl
      | with_reducible refine (State.onPage_touch ..).after ?_ rfl
      | with_reducible refine (sendNoard_touch ..).after ?_ rfl | with_reducible refine Touch.ite ?_ ?_
      | exact Or.inl rfl | exact Or.inr fun _ => rfl | exact Or.inr fun _ => ⟨rfl, rfl⟩ | (intro _) | split

theorem learnArp_touch (ip : Word) (mac : BitVec 48) (s : State) :
    Touch [.svc] s (learnArp ip mac s) := by
  unfold learnArp
  try dsimp only
  repeat' first
      | with_reducible exact Touch.refl _ _ | with_reducible assumption
      | with_reducible refine Touch.onSvc ?_ ?_ ?_ ?_ | exact fun _ => SvcSt.Later.of_eq rfl rfl rfl rfl rfl rfl rfl
      | exact SvcSt.Later.of_eq rfl rfl rfl rfl rfl rfl rfl | with_reducible refine Touch.ite ?_ ?_ | exact Or.inl rfl
      | exact Or.inr fun _ => rfl

theorem execArpRequest_touch (port : Port) (target : Word) (asker : Word) (mac : BitVec 48) (s : State) :
    AnsTouch [.svc, .portA, .portB, .path, .cnt] s (execArpRequest port target asker mac s) := by
  unfold execArpRequest
  try dsimp only
  repeat' first
      | with_reducible refine AnsTouch.next ?_ | with_reducible refine AnsTouch.ite ?_ ?_
      | with_reducible exact Touch.refl _ _ | with_reducible assumption
      | with_reducible refine (learnArp_touch ..).after ?_ rfl
      | with_reducible refine (sendService_touch ..).after ?_ rfl | with_reducible refine Touch.ite ?_ ?_

theorem countEcho_touch (p : Port) (v6 : Bool) (s : State) :
    Touch [.svc] s (countEcho p v6 s) := by
  unfold countEcho
  try dsimp only
  repeat' first
      | with_reducible exact Touch.refl _ _ | with_reducible assumption
      | with_reducible refine Touch.onSvc ?_ ?_ ?_ ?_ | exact fun _ => SvcSt.Later.of_eq rfl rfl rfl rfl rfl rfl rfl
      | exact SvcSt.Later.of_eq rfl rfl rfl rfl rfl rfl rfl | with_reducible refine Touch.ite ?_ ?_ | exact Or.inl rfl
      | exact Or.inr fun _ => rfl | exact Or.inr fun _ => ⟨rfl, rfl⟩ | (intro _) | split

theorem execIcmpEcho_touch (port : Port) (dst : Word) (asker : Word) (mac : BitVec 48) (ident : Word) (payload : List Byte) (s : State) :
    AnsTouch [.svc, .portA, .portB, .path, .cnt] s (execIcmpEcho port dst asker mac ident payload s) := by
  unfold execIcmpEcho
  try dsimp only
  repeat' first
      | with_reducible refine AnsTouch.next ?_ | with_reducible refine AnsTouch.ite ?_ ?_
      | with_reducible exact Touch.refl _ _ | with_reducible assumption
      | with_reducible refine (countEcho_touch ..).after ?_ rfl
      | with_reducible refine (sendService_touch ..).after ?_ rfl | with_reducible refine Touch.ite ?_ ?_

theorem execIcmpv6Echo_touch (port : Port) (dst : BitVec 128) (asker : BitVec 128) (mac : BitVec 48) (ident : Word) (payload : List Byte) (s : State) :
    AnsTouch [.svc, .portA, .portB, .path, .cnt] s (execIcmpv6Echo port dst asker mac ident payload s) := by
  unfold execIcmpv6Echo
  try dsimp only
  repeat' first
      | with_reducible refine AnsTouch.next ?_ | with_reducible refine AnsTouch.ite ?_ ?_
      | with_reducible exact Touch.refl _ _ | with_reducible assumption
      | with_reducible refine (countEcho_touch ..).after ?_ rfl
      | with_reducible refine (sendService_touch ..).after ?_ rfl | with_reducible refine Touch.ite ?_ ?_

theorem execNeighbourSolicitation_touch (port : Port) (target : BitVec 128) (asker : BitVec 128) (mac : BitVec 48) (s : State) :
    AnsTouch [.portA, .portB, .path, .cnt] s (execNeighbourSolicitation port target asker mac s) := by
  unfold execNeighbourSolicitation
  try dsimp only
  repeat' first
      | with_reducible refine AnsTouch.next ?_ | with_reducible refine AnsTouch.ite ?_ ?_
      | with_reducible exact Touch.refl _ _ | with_reducible assumption
      | with_reducible refine (sendService_touch ..).after ?_ rfl | with_reducible refine Touch.ite ?_ ?_

theorem execIgmpQuery_touch (port : Port) (group : Word) (s : State) :
    AnsTouch [.portA, .portB, .path, .cnt] s (execIgmpQuery port group s) := by
  unfold execIgmpQuery
  try dsimp only
  repeat' first
      | with_reducible refine AnsTouch.next ?_ | with_reducible refine AnsTouch.ite ?_ ?_
      | with_reducible exact Touch.refl _ _ | with_reducible assumption
      | with_reducible refine (igmpReport_touch ..).after ?_ rfl | with_reducible refine Touch.ite ?_ ?_

theorem execMldQuery_touch (port : Port) (group : BitVec 128) (s : State) :
    AnsTouch [.portA, .portB, .path, .cnt] s (execMldQuery port group s) := by
  unfold execMldQuery
  try dsimp only
  repeat' first
      | with_reducible refine AnsTouch.next ?_ | with_reducible refine AnsTouch.ite ?_ ?_
      | with_reducible exact Touch.refl _ _ | with_reducible assumption
      | with_reducible refine (mldReport_touch ..).after ?_ rfl | with_reducible refine Touch.ite ?_ ?_

theorem execIdentifyExpiry_touch (s : State) :
    AnsTouch [.svc] s (execIdentifyExpiry s) := by
  unfold execIdentifyExpiry
  try dsimp only
  repeat' first
      | with_reducible refine AnsTouch.next ?_ | with_reducible refine AnsTouch.ite ?_ ?_
      | with_reducible exact Touch.refl _ _ | with_reducible assumption
      | with_reducible refine Touch.onSvc ?_ ?_ ?_ ?_ | exact fun _ => SvcSt.Later.of_eq rfl rfl rfl rfl rfl rfl rfl
      | exact SvcSt.Later.of_eq rfl rfl rfl rfl rfl rfl rfl | with_reducible refine Touch.ite ?_ ?_ | exact Or.inl rfl
      | exact Or.inr fun _ => rfl

theorem execSvcKeyWrite_touch (v : Word) (s : State) :
    AnsTouch [.svc] s (execSvcKeyWrite v s) := by
  unfold execSvcKeyWrite
  refine AnsTouch.next (writeIn_touch (fun s1 => ?_) (Touch.refl _ _))
  split
  · exact Touch.refl _ _
  · rename_i hc
    have hp : s1.svc.provisioned = false := by simp_all
    refine Touch.onSvcAt (Touch.refl _ _) rfl ?_ ?_
    · split <;> [skip; (split <;> [skip; split])] <;> rfl
    · refine SvcSt.Later.of_open hp ?_ ?_ ?_ <;> (split <;> [skip; (split <;> [skip; split])]) <;> rfl


theorem execSvcKeyRevoke_touch (v : Word) (s : State) :
    AnsTouch [.svc] s (execSvcKeyRevoke v s) := by
  unfold execSvcKeyRevoke
  refine AnsTouch.next (writeIn_touch (fun s1 => ?_) (Touch.refl _ _))
  dsimp only
  split
  · exact Touch.refl _ _
  · refine Touch.onSvcAt (Touch.refl _ _) rfl ?_ ?_ <;> split <;> try split
    all_goals first
      | exact rfl | exact SvcSt.Later.of_noard _ _ | exact SvcSt.Later.of_image _ _ | exact SvcSt.Later.refl _


theorem execSvcLock_touch (v : Word) (s : State) :
    AnsTouch [.svc] s (execSvcLock v s) := by
  unfold execSvcLock
  refine AnsTouch.next (writeIn_touch (fun s1 => Touch.ite (Touch.onSvcAt (Touch.refl _ _) rfl rfl ?_) (Touch.refl _ _)) (Touch.refl _ _))
  exact ⟨fun _ => rfl, fun _ => ⟨rfl, rfl, rfl⟩, fun _ => id, fun _ => id, fun _ => Nat.le_refl _⟩


theorem execJtagNonceRead_touch (s : State) :
    AnsTouch [.svc, .free] s (execJtagNonceRead s) := by
  unfold execJtagNonceRead
  try dsimp only
  repeat' first
      | with_reducible refine AnsTouch.next ?_ | with_reducible refine AnsTouch.ite ?_ ?_
      | with_reducible exact Touch.refl _ _ | with_reducible assumption
      | with_reducible refine Touch.onSvc ?_ ?_ ?_ ?_ | with_reducible refine (State.freshen_touch _).after ?_ rfl
      | exact fun _ => SvcSt.Later.of_eq rfl rfl rfl rfl rfl rfl rfl
      | exact SvcSt.Later.of_eq rfl rfl rfl rfl rfl rfl rfl | with_reducible refine Touch.ite ?_ ?_ | exact Or.inl rfl
      | exact Or.inr fun _ => rfl

theorem execJtagChallengeAnswer_touch (ans : BitVec 128) (s : State) :
    AnsTouch [.svc] s (execJtagChallengeAnswer ans s) := by
  unfold execJtagChallengeAnswer
  try dsimp only
  repeat' first
      | with_reducible refine AnsTouch.next ?_ | with_reducible refine AnsTouch.ite ?_ ?_
      | with_reducible exact Touch.refl _ _ | with_reducible assumption
      | with_reducible refine Touch.onSvc ?_ ?_ ?_ ?_ | exact fun _ => SvcSt.Later.of_eq rfl rfl rfl rfl rfl rfl rfl
      | exact SvcSt.Later.of_eq rfl rfl rfl rfl rfl rfl rfl | with_reducible refine Touch.ite ?_ ?_ | exact Or.inl rfl
      | exact Or.inr fun _ => rfl | exact Or.inr fun _ => ⟨rfl, rfl⟩ | (intro _) | split

theorem execJtagLockoutEnd_touch (s : State) :
    AnsTouch [.svc] s (execJtagLockoutEnd s) := by
  unfold execJtagLockoutEnd
  try dsimp only
  repeat' first
      | with_reducible refine AnsTouch.next ?_ | with_reducible refine AnsTouch.ite ?_ ?_
      | with_reducible exact Touch.refl _ _ | with_reducible assumption
      | with_reducible refine Touch.onSvc ?_ ?_ ?_ ?_ | exact fun _ => SvcSt.Later.of_eq rfl rfl rfl rfl rfl rfl rfl
      | exact SvcSt.Later.of_eq rfl rfl rfl rfl rfl rfl rfl | with_reducible refine Touch.ite ?_ ?_ | exact Or.inl rfl
      | exact Or.inr fun _ => rfl

end Sys2Proof.Machine
end

