-- ==== Sys2Proof/Laws/TickCmdsTouch.lean ====
section
/-! SUPPORT. What each operation of Machine/TickCmds.lean may change: one lemma each, `<name>_touch`. -/

namespace Sys2Proof.Machine

open Sys2Proof

theorem handOver_touch (p : Producer) (k : Consumer) (s : State) :
    Touch [.edges] s (handOver p k s) := by
  unfold handOver
  try dsimp only
  repeat' first
      | with_reducible exact Touch.refl _ _ | with_reducible assumption
      | with_reducible refine (State.onEdge_touch ..).after ?_ rfl | with_reducible refine Touch.ite ?_ ?_ | (intro _)
      | split

theorem execVectorHandoff_touch (p : Producer) (k : Consumer) (s : State) :
    AnsTouch [.edges] s (execVectorHandoff p k s) := by
  unfold execVectorHandoff
  try dsimp only
  repeat' first
      | with_reducible refine AnsTouch.next ?_ | with_reducible refine AnsTouch.ite ?_ ?_
      | with_reducible exact Touch.refl _ _ | with_reducible assumption
      | with_reducible refine (handOver_touch ..).after ?_ rfl | with_reducible refine Touch.ite ?_ ?_

theorem missedHere_touch (p : Producer) (k : Consumer) (s : State) :
    Touch [.pages, .path, .log, .cnt, .edges] s (missedHere p k s) := by
  unfold missedHere
  try dsimp only
  repeat' first
      | with_reducible exact Touch.refl _ _ | with_reducible assumption
      | with_reducible refine (missAt_touch ..).after ?_ rfl | with_reducible refine Touch.ite ?_ ?_

theorem execVectorMissed_touch (p : Producer) (k : Consumer) (s : State) :
    AnsTouch [.funcs, .params, .jobs, .acts, .rings, .pages, .link, .hostMem, .reqs, .svc, .portA, .portB, .path, .time, .strm, .lov, .cores, .loc, .pwr, .memc, .mem, .log, .cnt, .edges, .free] s (execVectorMissed p k s) := by
  unfold execVectorMissed
  try dsimp only
  repeat' first
      | with_reducible refine AnsTouch.next ?_ | with_reducible refine AnsTouch.ite ?_ ?_
      | with_reducible exact Touch.refl _ _ | with_reducible assumption
      | with_reducible refine (missedHere_touch ..).after ?_ rfl
      | with_reducible refine boundaryDo_touch (fun _ => ?_) ?_ rfl rfl | with_reducible refine Touch.ite ?_ ?_

theorem execFadeComplete_touch (p : Producer) (k : Consumer) (s : State) :
    AnsTouch [.edges] s (execFadeComplete p k s) := by
  unfold execFadeComplete
  try dsimp only
  repeat' first
      | with_reducible refine AnsTouch.next ?_ | with_reducible refine AnsTouch.ite ?_ ?_
      | with_reducible exact Touch.refl _ _ | with_reducible assumption
      | with_reducible refine (State.onEdge_touch ..).after ?_ rfl | with_reducible refine Touch.ite ?_ ?_

theorem idleEdge_touch (p : Producer) (k : Consumer) (s : State) :
    Touch [.edges] s (idleEdge p k s) := by
  unfold idleEdge
  try dsimp only
  repeat' first
      | with_reducible exact Touch.refl _ _ | with_reducible assumption | with_reducible refine Touch.onEdges ?_ rfl

theorem takeSinks_touch (k : Consumer) (s : State) :
    Touch [.pages, .path, .log, .cnt, .edges, .free] s ((takeSinks k s).1) := by
  unfold takeSinks
  try dsimp only
  repeat' first
      | with_reducible exact Touch.refl _ _ | with_reducible assumption
      | with_reducible refine (idleEdge_touch ..).after ?_ rfl
      | with_reducible refine (edgeTick_touch ..).after ?_ rfl | with_reducible refine Touch.ite ?_ ?_ | (intro _)
      | split

theorem missAtFault_touch (p : Producer) (s : State) :
    Touch [.edges] s (missAtFault p s) := by
  unfold missAtFault
  try dsimp only
  repeat' first
      | with_reducible exact Touch.refl _ _ | with_reducible assumption
      | with_reducible refine (State.onEdge_touch ..).after ?_ rfl

theorem takeSource_touch (p : Producer) (s : State) :
    Touch [.funcs, .params, .jobs, .acts, .rings, .pages, .link, .hostMem, .reqs, .svc, .portA, .portB, .path, .time, .strm, .lov, .cores, .loc, .pwr, .memc, .mem, .log, .cnt, .edges, .free] s (takeSource p s) := by
  unfold takeSource
  try dsimp only
  repeat' first
      | with_reducible exact Touch.refl _ _ | with_reducible assumption
      | with_reducible refine (idleEdge_touch ..).after ?_ rfl
      | with_reducible refine (missAtFault_touch ..).after ?_ rfl
      | with_reducible refine (edgeTick_touch ..).after ?_ rfl
      | with_reducible refine (openBoundary_touch ..).after ?_ rfl | with_reducible refine Touch.ite ?_ ?_ | (intro _)
      | split

theorem lovTick_touch (s : State) :
    Touch [.funcs, .params, .jobs, .acts, .rings, .pages, .link, .hostMem, .reqs, .svc, .portA, .portB, .path, .time, .strm, .lov, .cores, .loc, .pwr, .memc, .mem, .log, .cnt, .edges, .free] s (lovTick s) := by
  unfold lovTick
  try dsimp only
  repeat' first
      | with_reducible exact Touch.refl _ _ | with_reducible assumption | with_reducible refine Touch.onLov ?_ rfl
      | with_reducible refine Touch.onEdges ?_ rfl | with_reducible refine (State.freshen_touch _).after ?_ rfl
      | with_reducible refine Touch.forAll ?_ ?_ | with_reducible refine (lovSum_touch ..).after ?_ rfl
      | with_reducible refine (lovAdvance_touch ..).after ?_ rfl
      | with_reducible refine (State.bump_touch ..).after ?_ rfl
      | with_reducible refine (takeSource_touch ..).after ?_ rfl
      | with_reducible refine (genRise_touch ..).after ?_ rfl
      | with_reducible refine (markActive_touch ..).after ?_ rfl | with_reducible refine Touch.ite ?_ ?_ | (intro _)

theorem pathTick_touch (p : Port) (s : State) :
    Touch [.jobs, .rings, .pages, .link, .reqs, .path, .strm, .lov, .log, .cnt, .free] s (pathTick p s) := by
  unfold pathTick
  try dsimp only
  repeat' first
      | with_reducible exact Touch.refl _ _ | with_reducible assumption | with_reducible refine Touch.onPath ?_ rfl
      | with_reducible refine (pathBoundary_touch ..).after ?_ rfl
      | with_reducible refine (assemble_touch ..).after ?_ rfl | with_reducible refine Touch.ite ?_ ?_

theorem decimTick_touch (streams : List (List Bool)) (s : State) :
    Touch [.pages, .path, .loc, .log, .cnt, .edges, .free] s (decimTick streams s) := by
  unfold decimTick
  try dsimp only
  repeat' first
      | with_reducible exact Touch.refl _ _ | with_reducible assumption | with_reducible refine Touch.onLoc ?_ rfl
      | with_reducible refine Touch.forAll ?_ ?_ | with_reducible refine (tdmTick_touch ..).after ?_ rfl
      | with_reducible refine (takeSinks_touch ..).after ?_ rfl
      | with_reducible refine (takeBits_touch ..).after ?_ rfl
      | with_reducible refine (stuckTick_touch ..).after ?_ rfl
      | with_reducible refine (decTick_touch ..).after ?_ rfl | with_reducible refine Touch.ite ?_ ?_ | (intro _)

theorem isoTick_touch (s : State) :
    Touch [.pages, .path, .pwr, .log, .cnt, .edges, .free] s (isoTick s) := by
  unfold isoTick
  try dsimp only
  repeat' first
      | with_reducible exact Touch.refl _ _ | with_reducible assumption | with_reducible refine Touch.forAll ?_ ?_
      | with_reducible refine (State.onPch_touch ..).after ?_ rfl
      | with_reducible refine (takeSinks_touch ..).after ?_ rfl
      | with_reducible refine (pchTick_touch ..).after ?_ rfl | with_reducible refine Touch.ite ?_ ?_ | (intro _)

theorem xbarTick_touch (s : State) :
    Touch [.jobs, .rings, .pages, .link, .hostMem, .reqs, .path, .strm, .memc, .mem, .log, .cnt, .edges, .free] s (xbarTick s) := by
  unfold xbarTick
  try dsimp only
  repeat' first
      | with_reducible exact Touch.refl _ _ | with_reducible assumption | with_reducible refine Touch.onStrm ?_ rfl
      | with_reducible refine (captureTick_touch ..).after ?_ rfl
      | with_reducible refine (takeSinks_touch ..).after ?_ rfl

theorem rxRankCheck_touch (s : State) :
    Touch [.funcs, .jobs, .acts, .rings, .pages, .link, .hostMem, .reqs, .portA, .portB, .path, .time, .strm, .lov, .cores, .loc, .pwr, .memc, .mem, .log, .cnt, .free] s (rxRankCheck s) := by
  unfold rxRankCheck
  try dsimp only
  repeat' first
      | with_reducible exact Touch.refl _ _ | with_reducible assumption
      | with_reducible refine (faultFunc_touch ..).after ?_ rfl | with_reducible refine Touch.ite ?_ ?_

theorem serviceTick_touch (s : State) :
    Touch [.chip, .funcs, .params, .live, .writes, .jobs, .acts, .rings, .pages, .taken, .link, .hostMem, .reqs, .svc, .portA, .portB, .path, .time, .strm, .lov, .cores, .loc, .pwr, .memc, .mem, .log, .cnt, .edges, .free] s (serviceTick s) := by
  unfold serviceTick
  try dsimp only
  repeat' first
      | with_reducible exact Touch.refl _ _ | with_reducible assumption | with_reducible refine Touch.forAll ?_ ?_
      | with_reducible refine (configTick_touch ..).after ?_ rfl
      | with_reducible refine (resetSage_touch ..).after ?_ rfl
      | with_reducible refine (resetTimeout_touch ..).after ?_ rfl
      | with_reducible refine (autoBegin_touch ..).after ?_ rfl
      | with_reducible refine (autoTick_touch ..).after ?_ rfl
      | with_reducible refine (bootDone_touch ..).after ?_ rfl | with_reducible refine (takeAll_touch ..).after ?_ rfl
      | with_reducible refine (rxRankCheck_touch ..).after ?_ rfl
      | with_reducible refine (playTick_touch ..).after ?_ rfl
      | with_reducible refine (flushCaptures_touch ..).after ?_ rfl
      | with_reducible refine (flushTests_touch ..).after ?_ rfl
      | with_reducible refine (testTick_touch ..).after ?_ rfl | with_reducible refine Touch.ite ?_ ?_ | (intro _)

theorem islandTick_touch (i : Island) (streams : List (List Bool)) (s : State) :
    Touch [.chip, .funcs, .params, .live, .writes, .jobs, .acts, .rings, .pages, .taken, .link, .hostMem, .reqs, .svc, .portA, .portB, .path, .time, .strm, .lov, .cores, .loc, .pwr, .memc, .mem, .log, .cnt, .edges, .free] s (islandTick i streams s) := by
  unfold islandTick
  try dsimp only
  repeat' first
      | with_reducible exact Touch.refl _ _ | with_reducible assumption
      | with_reducible refine (serviceTick_touch ..).after ?_ rfl
      | with_reducible refine (xbarTick_touch ..).after ?_ rfl | with_reducible refine (isoTick_touch ..).after ?_ rfl
      | with_reducible refine (decimTick_touch ..).after ?_ rfl
      | with_reducible refine (pathTick_touch ..).after ?_ rfl
      | with_reducible refine (idleEdge_touch ..).after ?_ rfl | with_reducible refine (scInput_touch ..).after ?_ rfl
      | with_reducible refine (releaseNext_touch ..).after ?_ rfl
      | with_reducible refine (lovTick_touch ..).after ?_ rfl | with_reducible refine Touch.ite ?_ ?_ | (intro _)
      | split

theorem handAll_touch (i : Island) (s : State) :
    Touch [.edges] s (handAll i s) := by
  unfold handAll
  try dsimp only
  repeat' first
      | with_reducible exact Touch.refl _ _ | with_reducible assumption | with_reducible refine Touch.forAll ?_ ?_
      | with_reducible refine (handOver_touch ..).after ?_ rfl | with_reducible refine Touch.ite ?_ ?_ | (intro _)
      | split

theorem takeToken_touch (i : Island) (n : DWord) (streams : List (List Bool)) (s : State) :
    Touch [.chip, .funcs, .params, .live, .writes, .jobs, .acts, .rings, .pages, .taken, .link, .hostMem, .reqs, .svc, .portA, .portB, .path, .time, .strm, .lov, .cores, .loc, .pwr, .memc, .mem, .log, .cnt, .edges, .free] s (takeToken i n streams s) := by
  unfold takeToken
  try dsimp only
  repeat' first
      | with_reducible exact Touch.refl _ _ | with_reducible assumption
      | with_reducible refine (effectsDue_touch ..).after ?_ rfl
      | with_reducible refine (islandTick_touch ..).after ?_ rfl
      | with_reducible refine atTick_touch (fun _ => ?_) ?_ rfl
      | with_reducible refine (setCopy_touch ..).after ?_ rfl | with_reducible refine (setBegun_touch ..).after ?_ rfl
      | with_reducible refine (handAll_touch ..).after ?_ rfl
      | with_reducible refine (openBoundary_touch ..).after ?_ rfl | with_reducible refine Touch.ite ?_ ?_

theorem tokenError_touch (isl : Island) (n : DWord) (idx : BitVec 16) (parityOk : Bool) (s : State) :
    Touch [.funcs, .jobs, .acts, .rings, .pages, .link, .hostMem, .reqs, .portA, .portB, .path, .time, .strm, .lov, .cores, .loc, .pwr, .memc, .mem, .log, .cnt, .free] s (tokenError isl n idx parityOk s) := by
  unfold tokenError
  try dsimp only
  repeat' first
      | with_reducible exact Touch.refl _ _ | with_reducible assumption
      | with_reducible refine (faultFunc_touch ..).after ?_ rfl
      | with_reducible refine (setHalted_touch ..).after ?_ rfl | with_reducible refine Touch.ite ?_ ?_ | (intro _)
      | split

theorem execTickToken_touch (isl : Island) (idx : BitVec 16) (parityOk : Bool) (streams : List (List Bool)) (s : State) :
    AnsTouch [.chip, .funcs, .params, .live, .writes, .jobs, .acts, .rings, .pages, .taken, .link, .hostMem, .reqs, .svc, .portA, .portB, .path, .time, .strm, .lov, .cores, .loc, .pwr, .memc, .mem, .log, .cnt, .edges, .free] s (execTickToken isl idx parityOk streams s) := by
  unfold execTickToken
  try dsimp only
  repeat' first
      | with_reducible refine AnsTouch.next ?_ | with_reducible refine AnsTouch.ite ?_ ?_
      | with_reducible exact Touch.refl _ _ | with_reducible assumption
      | with_reducible refine (setCopy_touch ..).after ?_ rfl | with_reducible refine (setBegun_touch ..).after ?_ rfl
      | with_reducible refine (takeToken_touch ..).after ?_ rfl
      | with_reducible refine (tokenError_touch ..).after ?_ rfl | with_reducible refine Touch.ite ?_ ?_ | (intro _)
      | split

theorem timeTick_touch (s : State) :
    Touch [.chip, .funcs, .writes, .jobs, .acts, .rings, .pages, .link, .reqs, .svc, .portA, .portB, .path, .time, .strm, .lov, .cores, .loc, .pwr, .cnt, .edges] s (timeTick s) := by
  unfold timeTick
  try dsimp only
  repeat' first
      | with_reducible exact Touch.refl _ _ | with_reducible assumption
      | with_reducible refine (acceptTick_touch ..).after ?_ rfl
      | with_reducible refine (checkRefs_touch ..).after ?_ rfl
      | with_reducible refine (selectRef_touch ..).after ?_ rfl
      | with_reducible refine (slewTick_touch ..).after ?_ rfl

theorem advance_touch (s : State) :
    Touch [.chip, .pages, .svc, .portA, .portB, .path, .time, .log, .free] s (advance s) := by
  unfold advance
  try dsimp only
  repeat' first
      | with_reducible exact Touch.refl _ _ | with_reducible assumption
      | with_reducible refine Touch.onSvc ?_ ?_ ?_ ?_ | with_reducible refine Touch.onNet ?_ ?_ ?_
      | with_reducible refine Touch.onPath ?_ rfl | with_reducible refine Touch.onTime ?_ rfl
      | with_reducible refine Touch.onLog ?_ ?_ rfl | with_reducible refine (State.freshen_touch _).after ?_ rfl
      | exact fun _ => SvcSt.Later.of_eq rfl rfl rfl rfl rfl rfl rfl
      | exact SvcSt.Later.of_eq rfl rfl rfl rfl rfl rfl rfl | exact fun _ => LogSt.Later.of_eq rfl
      | with_reducible refine (restTick_touch ..).after ?_ rfl
      | with_reducible refine (State.onPage_touch ..).after ?_ rfl | with_reducible refine Touch.ite ?_ ?_
      | exact Or.inl rfl | exact Or.inr fun _ => rfl

theorem wcoutTick_touch (s : State) :
    Touch [.time] s (wcoutTick s) := by
  unfold wcoutTick
  try dsimp only
  repeat' first
      | with_reducible exact Touch.refl _ _ | with_reducible assumption | with_reducible refine Touch.onTime ?_ rfl

theorem passTokens_touch (s : State) :
    Touch [.time] s (passTokens s) := by
  unfold passTokens
  try dsimp only
  repeat' first
      | with_reducible exact Touch.refl _ _ | with_reducible assumption | with_reducible refine Touch.forAll ?_ ?_
      | with_reducible refine (setCopy_touch ..).after ?_ rfl | with_reducible refine (setBegun_touch ..).after ?_ rfl
      | with_reducible refine Touch.ite ?_ ?_ | (intro _)

theorem hvAlone_touch (s : State) :
    Touch [.funcs, .jobs, .acts, .rings, .pages, .link, .hostMem, .reqs, .portA, .portB, .path, .time, .strm, .lov, .cores, .loc, .pwr, .memc, .mem, .log, .cnt, .free] s (hvAlone s) := by
  unfold hvAlone
  try dsimp only
  repeat' first
      | with_reducible exact Touch.refl _ _ | with_reducible assumption | with_reducible refine Touch.forAll ?_ ?_
      | with_reducible refine (pchAdvance_touch ..).after ?_ rfl
      | with_reducible refine (State.onFunc_touch ..).after ?_ rfl
      | with_reducible refine (pchTick_touch ..).after ?_ rfl
      | with_reducible refine (fastStopEnd_touch ..).after ?_ rfl | with_reducible refine Touch.ite ?_ ?_ | (intro _)

theorem execTickBoundary_touch (s : State) :
    AnsTouch [.chip, .funcs, .params, .live, .writes, .jobs, .acts, .rings, .pages, .link, .hostMem, .reqs, .svc, .portA, .portB, .path, .time, .strm, .lov, .cores, .loc, .pwr, .memc, .mem, .log, .cnt, .edges, .free] s (execTickBoundary s) := by
  unfold execTickBoundary
  try dsimp only
  repeat' first
      | with_reducible refine AnsTouch.next ?_ | with_reducible refine AnsTouch.ite ?_ ?_
      | with_reducible exact Touch.refl _ _ | with_reducible assumption
      | with_reducible refine (wcoutTick_touch ..).after ?_ rfl
      | with_reducible refine (passTokens_touch ..).after ?_ rfl
      | with_reducible refine (setCopy_touch ..).after ?_ rfl | with_reducible refine (fadeTick_touch ..).after ?_ rfl
      | with_reducible refine (lifeWork_touch ..).after ?_ rfl
      | with_reducible refine (effectsDue_touch ..).after ?_ rfl
      | with_reducible refine (advance_touch ..).after ?_ rfl | with_reducible refine (timeTick_touch ..).after ?_ rfl
      | with_reducible refine (pathBoundary_touch ..).after ?_ rfl
      | with_reducible refine (hvAlone_touch ..).after ?_ rfl | with_reducible refine Touch.ite ?_ ?_

end Sys2Proof.Machine
end

