-- ==== Sys2Proof/Laws/TimeCmdsTouch.lean ====
section
/-! SUPPORT. What each operation of Machine/TimeCmds.lean may change: one lemma each, `<name>_touch`. -/

namespace Sys2Proof.Machine

open Sys2Proof

theorem settlePtp_touch (s : State) :
    Touch [.time, .cnt] s (settlePtp s) := by
  unfold settlePtp
  try dsimp only
  repeat' first
      | with_reducible exact Touch.refl _ _ | with_reducible assumption
      | with_reducible refine (runBmca_touch ..).after ?_ rfl
      | with_reducible refine (checkRefs_touch ..).after ?_ rfl

theorem sendPtp_touch (p : Port) (event : Bool) (f : Frame) (s : State) :
    Touch [.portA, .portB, .path, .cnt] s (sendPtp p event f s) := by
  unfold sendPtp
  try dsimp only
  repeat' first
      | with_reducible exact Touch.refl _ _ | with_reducible assumption
      | with_reducible refine (sendFrame_touch ..).after ?_ rfl

theorem execPtpSyncSend_touch (port : Port) (s : State) :
    AnsTouch [.portA, .portB, .path, .time, .cnt] s (execPtpSyncSend port s) := by
  unfold execPtpSyncSend
  try dsimp only
  repeat' first
      | with_reducible refine AnsTouch.next ?_ | with_reducible refine AnsTouch.ite ?_ ?_
      | with_reducible exact Touch.refl _ _ | with_reducible assumption
      | with_reducible refine (State.onPtp_touch ..).after ?_ rfl
      | with_reducible refine (sendPtp_touch ..).after ?_ rfl | with_reducible refine Touch.ite ?_ ?_

theorem execPtpAnnounceSend_touch (port : Port) (s : State) :
    AnsTouch [.portA, .portB, .path, .time, .cnt] s (execPtpAnnounceSend port s) := by
  unfold execPtpAnnounceSend
  try dsimp only
  repeat' first
      | with_reducible refine AnsTouch.next ?_ | with_reducible refine AnsTouch.ite ?_ ?_
      | with_reducible exact Touch.refl _ _ | with_reducible assumption
      | with_reducible refine (State.onPtp_touch ..).after ?_ rfl
      | with_reducible refine (sendPtp_touch ..).after ?_ rfl | with_reducible refine Touch.ite ?_ ?_

theorem execPtpDelayReqSend_touch (port : Port) (t3 : Int) (s : State) :
    AnsTouch [.portA, .portB, .path, .time, .cnt] s (execPtpDelayReqSend port t3 s) := by
  unfold execPtpDelayReqSend
  try dsimp only
  repeat' first
      | with_reducible refine AnsTouch.next ?_ | with_reducible refine AnsTouch.ite ?_ ?_
      | with_reducible exact Touch.refl _ _ | with_reducible assumption
      | with_reducible refine (State.onPtp_touch ..).after ?_ rfl
      | with_reducible refine (sendPtp_touch ..).after ?_ rfl | with_reducible refine Touch.ite ?_ ?_

theorem execPtpDelayReq_touch (port : Port) (seq : BitVec 16) (requester : BitVec 80) (t4 : Int) (s : State) :
    AnsTouch [.portA, .portB, .path, .cnt] s (execPtpDelayReq port seq requester t4 s) := by
  unfold execPtpDelayReq
  try dsimp only
  repeat' first
      | with_reducible refine AnsTouch.next ?_ | with_reducible refine AnsTouch.ite ?_ ?_
      | with_reducible exact Touch.refl _ _ | with_reducible assumption
      | with_reducible refine (sendPtp_touch ..).after ?_ rfl | with_reducible refine Touch.ite ?_ ?_

theorem execPtpPdelayReq_touch (port : Port) (seq : BitVec 16) (requester : BitVec 80) (t2 : Int) (s : State) :
    AnsTouch [.portA, .portB, .path, .cnt] s (execPtpPdelayReq port seq requester t2 s) := by
  unfold execPtpPdelayReq
  try dsimp only
  repeat' first
      | with_reducible refine AnsTouch.next ?_ | with_reducible refine AnsTouch.ite ?_ ?_
      | with_reducible exact Touch.refl _ _ | with_reducible assumption
      | with_reducible refine (sendPtp_touch ..).after ?_ rfl | with_reducible refine Touch.ite ?_ ?_

theorem useSync_touch (p : Port) (t1 : Int) (t2 : Int) (corr : Int) (s : State) :
    Touch [.pages, .time, .cnt] s (useSync p t1 t2 corr s) := by
  unfold useSync
  try dsimp only
  repeat' first
      | with_reducible exact Touch.refl _ _ | with_reducible assumption
      | with_reducible refine (State.onPtp_touch ..).after ?_ rfl
      | with_reducible refine (checkRefs_touch ..).after ?_ rfl
      | with_reducible refine (ptpMeasure_touch ..).after ?_ rfl

theorem execPtpSync_touch (port : Port) (m : PtpSync) (s : State) :
    AnsTouch [.pages, .time, .cnt] s (execPtpSync port m s) := by
  unfold execPtpSync
  try dsimp only
  repeat' first
      | with_reducible refine AnsTouch.next ?_ | with_reducible refine AnsTouch.ite ?_ ?_
      | with_reducible exact Touch.refl _ _ | with_reducible assumption
      | with_reducible refine (useSync_touch ..).after ?_ rfl
      | with_reducible refine (State.onPtp_touch ..).after ?_ rfl | with_reducible refine Touch.ite ?_ ?_

theorem execPtpFollowUp_touch (port : Port) (seq : BitVec 16) (t1 : Int) (corr : Int) (s : State) :
    AnsTouch [.pages, .time, .cnt] s (execPtpFollowUp port seq t1 corr s) := by
  unfold execPtpFollowUp
  try dsimp only
  repeat' first
      | with_reducible refine AnsTouch.next ?_ | with_reducible refine AnsTouch.ite ?_ ?_
      | with_reducible exact Touch.refl _ _ | with_reducible assumption
      | with_reducible refine (useSync_touch ..).after ?_ rfl | with_reducible refine Touch.ite ?_ ?_ | (intro _)
      | split

theorem execPtpDelayResp_touch (port : Port) (seq : BitVec 16) (t4 : Int) (corr : Int) (s : State) :
    AnsTouch [.time] s (execPtpDelayResp port seq t4 corr s) := by
  unfold execPtpDelayResp
  try dsimp only
  repeat' first
      | with_reducible refine AnsTouch.next ?_ | with_reducible refine AnsTouch.ite ?_ ?_
      | with_reducible exact Touch.refl _ _ | with_reducible assumption
      | with_reducible refine (State.onPtp_touch ..).after ?_ rfl | with_reducible refine Touch.ite ?_ ?_ | (intro _)
      | split

theorem execPtpPdelayResp_touch (port : Port) (m : PtpPdelayResp) (s : State) :
    AnsTouch [.time] s (execPtpPdelayResp port m s) := by
  unfold execPtpPdelayResp
  try dsimp only
  repeat' first
      | with_reducible refine AnsTouch.next ?_ | with_reducible refine AnsTouch.ite ?_ ?_
      | with_reducible exact Touch.refl _ _ | with_reducible assumption
      | with_reducible refine (State.onPtp_touch ..).after ?_ rfl | with_reducible refine Touch.ite ?_ ?_ | (intro _)
      | split

theorem execPtpAnnounce_touch (port : Port) (m : PtpAnnounce) (s : State) :
    AnsTouch [.time, .cnt] s (execPtpAnnounce port m s) := by
  unfold execPtpAnnounce
  try dsimp only
  repeat' first
      | with_reducible refine AnsTouch.next ?_ | with_reducible refine AnsTouch.ite ?_ ?_
      | with_reducible exact Touch.refl _ _ | with_reducible assumption
      | with_reducible refine (State.onPtp_touch ..).after ?_ rfl
      | with_reducible refine (settlePtp_touch ..).after ?_ rfl | with_reducible refine Touch.ite ?_ ?_

theorem execAnnounceTimeout_touch (port : Port) (s : State) :
    AnsTouch [.time, .cnt] s (execAnnounceTimeout port s) := by
  unfold execAnnounceTimeout
  try dsimp only
  repeat' first
      | with_reducible refine AnsTouch.next ?_ | with_reducible refine AnsTouch.ite ?_ ?_
      | with_reducible exact Touch.refl _ _ | with_reducible assumption
      | with_reducible refine (State.onPtp_touch ..).after ?_ rfl
      | with_reducible refine (State.bump_touch ..).after ?_ rfl
      | with_reducible refine (settlePtp_touch ..).after ?_ rfl | with_reducible refine Touch.ite ?_ ?_

theorem execSyncReceiptTimeout_touch (port : Port) (s : State) :
    AnsTouch [.time, .cnt] s (execSyncReceiptTimeout port s) := by
  unfold execSyncReceiptTimeout
  try dsimp only
  repeat' first
      | with_reducible refine AnsTouch.next ?_ | with_reducible refine AnsTouch.ite ?_ ?_
      | with_reducible exact Touch.refl _ _ | with_reducible assumption
      | with_reducible refine (State.onPtp_touch ..).after ?_ rfl
      | with_reducible refine (checkRefs_touch ..).after ?_ rfl | with_reducible refine Touch.ite ?_ ?_

theorem execServoUpdate_touch (meas : Int) (s : State) :
    AnsTouch [.time] s (execServoUpdate meas s) := by
  unfold execServoUpdate
  try dsimp only
  repeat' first
      | with_reducible refine AnsTouch.next ?_ | with_reducible refine AnsTouch.ite ?_ ?_
      | with_reducible exact Touch.refl _ _ | with_reducible assumption
      | with_reducible refine (servoTake_touch ..).after ?_ rfl | with_reducible refine Touch.ite ?_ ?_

theorem execLockTimer_touch (s : State) :
    AnsTouch [.time] s (execLockTimer s) := by
  unfold execLockTimer
  try dsimp only
  repeat' first
      | with_reducible refine AnsTouch.next ?_ | with_reducible refine AnsTouch.ite ?_ ?_
      | with_reducible exact Touch.refl _ _ | with_reducible assumption | with_reducible refine Touch.onTime ?_ rfl
      | with_reducible refine Touch.ite ?_ ?_

theorem execSlewComplete_touch (s : State) :
    AnsTouch [.time] s (execSlewComplete s) := by
  unfold execSlewComplete
  try dsimp only
  repeat' first
      | with_reducible refine AnsTouch.next ?_ | with_reducible refine AnsTouch.ite ?_ ?_
      | with_reducible exact Touch.refl _ _ | with_reducible assumption | with_reducible refine Touch.onTime ?_ rfl
      | with_reducible refine Touch.ite ?_ ?_

theorem execOscModelSave_touch (s : State) :
    AnsTouch [.time] s (execOscModelSave s) := by
  unfold execOscModelSave
  try dsimp only
  repeat' first
      | with_reducible refine AnsTouch.next ?_ | with_reducible refine AnsTouch.ite ?_ ?_
      | with_reducible exact Touch.refl _ _ | with_reducible assumption | with_reducible refine Touch.onTime ?_ rfl
      | with_reducible refine Touch.ite ?_ ?_

theorem judgeRef_touch (freqs : List Int) (phases : List Int) (r : Fin 6) (s : State) :
    Touch [.pages, .time, .cnt] s (judgeRef freqs phases r s) := by
  unfold judgeRef
  try dsimp only
  repeat' first
      | with_reducible exact Touch.refl _ _ | with_reducible assumption
      | with_reducible refine (State.raise_touch ..).after ?_ rfl
      | with_reducible refine (State.bump_touch ..).after ?_ rfl
      | with_reducible refine (State.onRef_touch ..).after ?_ rfl | with_reducible refine Touch.ite ?_ ?_

theorem execRefQualUpdate_touch (freqs : List Int) (phases : List Int) (s : State) :
    AnsTouch [.pages, .time, .cnt] s (execRefQualUpdate freqs phases s) := by
  unfold execRefQualUpdate
  try dsimp only
  repeat' first
      | with_reducible refine AnsTouch.next ?_ | with_reducible refine AnsTouch.ite ?_ ?_
      | with_reducible exact Touch.refl _ _ | with_reducible assumption | with_reducible refine Touch.forAll ?_ ?_
      | with_reducible refine (checkRefs_touch ..).after ?_ rfl
      | with_reducible refine (judgeRef_touch ..).after ?_ rfl | with_reducible refine Touch.ite ?_ ?_ | (intro _)

theorem dropWcin_touch (s : State) :
    Touch [.time, .cnt] s (dropWcin s) := by
  unfold dropWcin
  try dsimp only
  repeat' first
      | with_reducible exact Touch.refl _ _ | with_reducible assumption
      | with_reducible refine (State.onRef_touch ..).after ?_ rfl
      | with_reducible refine (checkPresent_touch ..).after ?_ rfl

theorem execWcinEdge_touch (sinceLast : Nat) (high : Nat) (phase : Int) (s : State) :
    AnsTouch [.time, .cnt] s (execWcinEdge sinceLast high phase s) := by
  unfold execWcinEdge
  try dsimp only
  repeat' first
      | with_reducible refine AnsTouch.next ?_ | with_reducible refine AnsTouch.ite ?_ ?_
      | with_reducible exact Touch.refl _ _ | with_reducible assumption | with_reducible refine Touch.onTime ?_ rfl
      | with_reducible refine (checkPresent_touch ..).after ?_ rfl
      | with_reducible refine (dropWcin_touch ..).after ?_ rfl
      | with_reducible refine (State.onRef_touch ..).after ?_ rfl
      | with_reducible refine (State.bump_touch ..).after ?_ rfl | with_reducible refine Touch.ite ?_ ?_

theorem execWcinLoss_touch (s : State) :
    AnsTouch [.time, .cnt] s (execWcinLoss s) := by
  unfold execWcinLoss
  try dsimp only
  repeat' first
      | with_reducible refine AnsTouch.next ?_ | with_reducible refine AnsTouch.ite ?_ ?_
      | with_reducible exact Touch.refl _ _ | with_reducible assumption
      | with_reducible refine (dropWcin_touch ..).after ?_ rfl

end Sys2Proof.Machine
end

