-- ==== Sys2Proof/Tests/Slice0.lean ====
section
/-! SUPPORT. The model's own tests: a state that meets the hypotheses of each statement, the ill-formed terms that
WellFormed refuses, and single steps whose results are the spec's. -/

namespace Sys2Proof.Tests

set_option Elab.async false

open Sys2Proof Sys2Proof.Machine

/-! Small states. -/

/-- Powered and booted, with the host's bus and ring 0 at work. -/
def up : State := State.onRing 0 (fun r => { r with enable := true, seen := true, sqPi := 1 }) { State.reset with
  chip := { State.reset.chip with supply := .full, stage := 6 }
  host := { State.reset.host with bme := true, linkUp := true, perst := true, fetch := true, dbAddr := 0x1000, stAddr := 0x2000 } }
/-- The same with functions RUNNING. -/
def upOn (l : List Func) : State := forAll l (fun f s => s.setLife f .running) up
/-- A descriptor from the values that start at its bytes. -/
def desc (l : List (Nat × Nat)) : Desc := BitVec.ofNat 512 (l.foldl (fun n e => n + e.2 * 2 ^ (8 * e.1)) 0)
/-- Descriptor `d` is served now, and the state once it is taken. -/
def Served (s : State) (q : Fin 32) (d : Desc) : Prop := ∃ idx t, s.serving q d = some (idx, t)
def srv (s : State) (q : Fin 32) (d : Desc) : State := ((s.serving q d).getD (0, s)).2
theorem served {s : State} {q : Fin 32} {d : Desc} (h : (s.serving q d).isSome = true) : Served s q d :=
  match e : s.serving q d with
  | some p => ⟨p.1, p.2, e⟩
  | none => absurd h (by simp [e])
/-- A job in progress on a ring, and an action held for a function. -/
def job (q : Fin 32) (op : Byte) (d : Desc) : Job := { uid := 1, ring := q, desc := d, op }
def act (f : Func) (op : Byte) : Action :=
  { func := f, id := 7, time := 0, nT := 0, op, pid := 0, value := 0, capTag := 0, ring := 0, tag := 1, irq := false }
/-- A record that waits on a ring. -/
def rec1 : Rec := { tag := 1, status := 0, uncertain := false, cause := 0, done := 1, tick := 0, irq := true, idx := 0 }

/-- The same with tick 1 begun, whose tokens are on their way. -/
def due1 (s : State) : State := s.onTime fun t => { t with tick := 1 }
/-- The boundary of tick 1 begun on an island. -/
def at1 (i : Island) (s : State) : State := opened i 1 (due1 s)

/-! Witnesses: states and operands that meet the hypotheses, clause by clause. -/

def st3 : State := { up with chip := { up.chip with stage := 3 } }
def st2 : State := { up with chip := { up.chip with stage := 2 } }

theorem witness_PlainRegisterWrites : 3 ≤ st3.chip.stage.toNat ∧ (up.tarrRing 31 = false ∧ (up.ring 31).enable = false ∧
    (up.ring 31).draining = false) ∧ State.reset.host.fetch = false ∧ (0x00001 : BitVec 20).toNat % 4 ≠ 0 := by decide
theorem witness_ClosedBlocks : st2.chip.stage.toNat < 3 ∧ 0x02000 ≤ (0x02000 : BitVec 20).toNat := by decide
theorem witness_ReadsWithEffect : 3 ≤ st3.chip.stage.toNat := by decide
theorem witness_CounterReads : 3 ≤ st3.chip.stage.toNat ∧ (1, 4095) ≠ ((1, 29) : Nat × Nat) := by decide
theorem witness_WritesWithEffect : 3 ≤ st3.chip.stage.toNat ∧ (2 ≠ 4 ∨ (0 : BitVec 20).toNat % 4 ≠ 0) ∧
    (st3.setLife .timekeeper .stopped).life? .timekeeper = .stopped ∧ st3.life? .timekeeper = .off ∧
    (st3.setLife .timekeeper .running).running .timekeeper = true ∧
    (st3.topoLocked = false ∧ (0x12 : Word) &&& 3 ≠ 3 ∧ (0x10 : Word) &&& 3 ≠ 3) ∧ 0x600 ≤ (0x600 : Word).toNat % 65536 ∧
    (st3.setLife .pathA .running).topoLocked = true ∧ (st3.anySwitching = false ∧ st3.chip.variant = .p) ∧
    (st3.onPch 3 fun c => { c with phase := 3 }).anySwitching = true := by decide

def chipIs (g : Chip → Chip) : State := { up with chip := g up.chip }

theorem witness_BootCommands : State.reset.chip.supply = .off ∧ up.chip.supply ≠ .off ∧
    (st3.chip.supply ≠ .off ∧ st3.chip.stage = 3 ∧ st3.chip.resetting = false) ∧
    (let s := { chipIs ({ · with stage := 4 }) with svc := { up.svc with bootPatchSec := some 4, bootSettingsSec := some 0 } }
     s.chip.stage = 4 ∧ s.chip.resetting = false ∧ s.svc.autostart = [] ∧ s.svc.bootPatchSec = some 4 ∧ s.svc.bootSettingsSec = some 0) ∧
    (chipIs ({ · with stage := 5 })).chip.stage = 5 ∧ { up.svc with autostart := [⟨1, 8, []⟩] }.autostart ≠ [] := by decide
theorem witness_SupplyCommands : (up.chip.supply ≠ .off ∧ up.chip.supply ≠ .clocked) ∧
    (let s := chipIs ({ · with supply := .clocked, hvUp := true })
     s.chip.supply = .clocked ∧ s.chip.hvUp = true) ∧
    (chipIs ({ · with supply := .clocked })).chip.hvUp = false := by decide
theorem witness_HighVoltageSide : (0xFFFF : BitVec 16).toInt < 0 ∧ (up.pch 0).phase = 0 ∧ (1900 < (1901 : BitVec 16).toInt ∧ up.chip.variant = .p) ∧
    (let s := (up.onPch 3 fun c => { c with phase := 7 }).setLife (.pch 3) .running
     (s.pch 3).phase = 7 ∧ (s.life? (.pch 3)).busy = true) ∧
    (∀ ph ∈ [(2 : BitVec 3), 5], (let s := (up.onPch 0 fun c => { c with phase := ph }).setLife (.pch 0) .running
      (s.life? (.pch 0)).busy = true ∧ 2 ≤ (s.pch 0).phase.toNat ∧ (s.pch 0).phase.toNat ≤ 5)) ∧
    (let s := (up.onPch 0 fun c => { c with phase := 1 }).setLife (.pch 0) .starting
     (s.life? (.pch 0)).busy = true ∧ (s.pch 0).phase.toNat ≤ 1) ∧ (up.life? (.pch 1)).busy = false ∧
    (Func.sage.hv = true ∧ (up.setLife .sage .stopped).life? .sage = .stopped) ∧ Func.decim.hv = false ∧
    (let s := chipIs ({ · with waking := true, vbus := 240 })
     s.chip.waking = true ∧ s.chip.hvUp = false ∧ 240 ≤ s.chip.vbus.toInt ∧ s.chip.variant = .p) ∧
    (chipIs ({ · with awake := true })).chip.awake = true ∧ (1899 : BitVec 16).toInt < 1900 := by decide
theorem witness_hvSleep : (let s := chipIs ({ · with awake := true, hvIdle := 4800 })
    s.chip.awake = true ∧ s.hvResting = true ∧ s.msTicks 100 ≤ s.chip.hvIdle) := by decide
theorem witness_PcieEndpoint : { up.svc with hostless := true }.hostless = true ∧ up.tarrRing 0 = false ∧
    ({ up with svc := { up.svc with hostless := true } } : State).tarrRing 24 = true ∧ up.host.perst = true ∧
    (up.chip.supply ≠ .off ∧ 1 ≤ (1 : BitVec 3).toNat ∧ (3 : BitVec 3).toNat ≤ 3) := by decide
theorem witness_Resets : (0x0000D041 : Word) &&& 0xFFFF = 0xD041 ∧
    (up.chip.supply ≠ .off ∧ up.chip.resetting = false ∧ up.svc.provisioned = false) ∧
    ({ up.svc with provisioned := true } : SvcSt).jtagOpen = false ∧ (0 : Word) &&& 0xFFFF ≠ 0xD041 ∧
    ((upOn [.decim]).life? .decim = .running ∧ Func.decim ≠ .sage ∧ Func.decim ≠ .service ∧ Func.decim ≠ .memctl) ∧
    (chipIs ({ · with resetting := true })).chip.resetting = true ∧
    noardResetDue (chipIs ({ · with noardReset := some (24, 3) })) = true ∧
    (let s := { chipIs ({ · with resetting := true }) with time := { up.time with tick := 9600 } }
     s.msTicks 200 ≤ (s.now - s.chip.resetAt).toNat ∧ Func.decim.hv = false ∧ (s.life? .decim).busy = false) ∧
    (let s := (upOn [.decim, .pch 0]).onPch 0 fun c => { c with phase := 3 }
     (s.life? .decim).busy = true ∧ (s.life? (.pch 0)).busy = true ∧ 2 ≤ (s.pch 0).phase.toNat ∧ (s.pch 0).phase.toNat ≤ 5) ∧
    (chipIs ({ · with resetting := true })).allStopped = true := by decide
theorem witness_LogRecords : up.chip.supply ≠ .off ∧ up.log.poweredS.toNat + 1 < 2 ^ 64 ∧ up.chip.awake = false ∧
    up.anySwitching = false ∧ { up.log with tPeak := 24 }.tPeak.toInt < (25 : BitVec 16).toInt ∧
    (24 : BitVec 16).toInt ≤ { up.log with tPeak := 24 }.tPeak.toInt ∧
    (let l : LogSt := { up.log with dropped := 1, second := 999 }
     l.dropped ≠ 0 ∧ l.second < 1000) := by decide

/-- Module SRAM, where a result can always be written. -/
def sram : Nat := 2 ^ 63 + 0x1000000000
def dNop : Desc := desc []
def dQuery : Desc := desc [(0, 0x13), (2, 0x05), (16, sram)]
def dTime : Desc := desc [(0, 0x32), (16, sram)]
def dRead : Desc := desc [(0, 0x03), (16, 0x06000001), (40, sram)]
def dRoute : Desc := desc [(0, 0x41), (16, sram), (32, 1)]
def dStats : Desc := desc [(0, 0x30), (2, 0x05), (16, sram), (24, 3)]
def dStatsC : Desc := desc [(0, 0x30), (1, 4), (2, 0x01), (16, sram), (24, 200)]
def dLog : Desc := desc [(0, 0x31), (16, sram), (28, 1)]
def upLov : State := upOn [.lovage]

theorem witness_Taking : Served up 0 dNop ∧ up.firstTaken 0 = none ∧ orderedOf (desc [(1, 2)]) = true ∧
    Served up 0 (desc [(1, 2)]) ∧
    (let s := { up with host := { up.host with taken := [(0, 5, dNop)] } }
     Served s 0 dNop ∧ s.firstTaken 0 = some (0, 5, dNop)) :=
  ⟨served (by decide +kernel), by decide +kernel, by decide +kernel, served (by decide +kernel), served (by decide +kernel), by decide +kernel⟩
theorem witness_atOnce_nop : Served up 0 dNop ∧ opcodeOf dNop = 0x00 ∧
    (headerOk dNop false false && payloadOk dNop [] && noFunc dNop) = true := ⟨served (by decide +kernel), by decide +kernel⟩
theorem witness_atOnce_badNop : Served up 0 (desc [(16, 1)]) ∧ opcodeOf (desc [(16, 1)]) = 0x00 ∧ up.svc.hostless = false ∧
    (headerOk (desc [(16, 1)]) false false && payloadOk (desc [(16, 1)]) [] && noFunc (desc [(16, 1)])) = false :=
  ⟨served (by decide +kernel), by decide +kernel⟩
theorem witness_atOnce_query : Served up 0 dQuery ∧ opcodeOf dQuery = 0x13 ∧
    (headerOk dQuery false false && payloadOk dQuery [(16, 8)] && addrOk (fld dQuery 16 8) 16 && funcOk dQuery) = true ∧
    up.busWait (fld dQuery 16 8) = false ∧ up.dstOk (fld dQuery 16 8) 16 = true ∧ descFunc dQuery = some .timekeeper :=
  ⟨served (by decide +kernel), by decide +kernel⟩
theorem witness_atOnce_time : Served up 0 dTime ∧ opcodeOf dTime = 0x32 ∧
    (headerOk dTime false false && noFunc dTime && payloadOk dTime [(16, 8)] && addrOk (fld dTime 16 8) 8) = true ∧
    up.busWait (fld dTime 16 8) = false ∧ (srv up 0 dTime).dstOk (fld dTime 16 8) (timeRecord (srv up 0 dTime)).length = true :=
  ⟨served (by decide +kernel), by decide +kernel⟩
theorem witness_atOnce_paramRead : Served up 0 dRead ∧ opcodeOf dRead = 0x03 ∧
    (headerOk dRead false false && noFunc dRead && payloadOk dRead [(16, 24), (40, 8)] && addrOk (fld dRead 40 8) 4) = true ∧
    readEntries dRead = some [0x06000001] ∧ (∀ p ∈ [0x06000001], readCheck (srv up 0 dRead) p = 0x00) ∧
    [0x06000001] ≠ ([] : List Nat) ∧ up.busWait (fld dRead 40 8) = false ∧ (srv up 0 dRead).writable (fld dRead 40 8) (4 * 1) = 4 * 1 :=
  ⟨served (by decide +kernel), by decide +kernel⟩
theorem witness_atOnce_routeRead : Served upLov 0 dRoute ∧ opcodeOf dRoute = 0x41 ∧ routeReadForm dRoute = true ∧
    upLov.busWait (fld dRoute 16 8) = false ∧ upLov.life? .lovage ≠ .off ∧ fld dRoute 28 1 = 0 ∧ 1 ≤ fld dRoute 32 4 ∧
    (srv upLov 0 dRoute).writable (fld dRoute 16 8) 16 = 16 :=
  ⟨served (by decide +kernel), by decide +kernel⟩
def dRow : Desc := desc [(0, 0x41), (16, sram), (28, 1), (32, 2)]
theorem witness_atOnce_row : Served upLov 0 dRow ∧ opcodeOf dRow = 0x41 ∧ routeReadForm dRow = true ∧
    upLov.busWait (fld dRow 16 8) = false ∧ upLov.life? .lovage ≠ .off ∧ fld dRow 28 1 ≠ 0 ∧
    (upLov.lov.xp.filter fun e => e.2.active && e.1 / 2048 == fld dRow 24 2).length ≤ fld dRow 32 4 ∧
    (srv upLov 0 dRow).writable (fld dRow 16 8) 0 = 0 := ⟨served (by decide +kernel), by decide +kernel⟩
theorem witness_atOnce_stats : ∀ e ∈ [(dStats, Func.timekeeper), (dStatsC, Func.pathA)], (up.serving 0 e.1).isSome = true ∧
    opcodeOf e.1 = 0x30 ∧ (headerOk e.1 true false && payloadOk e.1 [(16, 8), (24, 4)] && addrOk (fld e.1 16 8) 8 && funcOk e.1) = true ∧
    up.busWait (fld e.1 16 8) = false ∧ descFunc e.1 = some e.2 ∧ up.absent e.2 = false ∧ e.2 ≠ .service ∧
    (srv up 0 e.1).writable (fld e.1 16 8) (8 * min (fld e.1 24 4) (statKeys up e.2).length) =
      8 * min (fld e.1 24 4) (statKeys up e.2).length := by decide +kernel
theorem witness_atOnce_statsClear : optOf dStats = false ∧ optOf dStatsC = true := by decide +kernel
theorem witness_atOnce_log : Served up 0 dLog ∧ opcodeOf dLog = 0x31 ∧
    (headerOk dLog false false && noFunc dLog && payloadOk dLog [(16, 8), (24, 4), (28, 4)] && addrOk (fld dLog 16 8) 8) = true ∧
    up.busWait (fld dLog 16 8) = false ∧ up.log.entries = [⟨0, 0x0B, 0, 0, false, 0, 0, 0, 0, 0, 0⟩] ∧ fld dLog 24 4 = 0 ∧
    fld dLog 28 4 = 1 ∧ (srv up 0 dLog).writable (fld dLog 16 8) 32 = 32 :=
  ⟨served (by decide +kernel), by decide +kernel⟩

def dFence : Desc := desc [(0, 0x01), (16, 2)]
def dWrite : Desc := desc [(0, 0x02), (16, 0x06000001), (20, 100)]
def dSet : Desc := desc [(0, 0x40), (16, 2 ^ 63)]
def dSched : Desc := desc [(0, 0x04), (2, 0x08), (8, 10 ^ 9), (16, 4), (20, 7)]
def dCancel : Desc := desc [(0, 0x05), (2, 0x08), (20, 7)]
def dStep : Desc := desc [(0, 0x33), (16, 9)]
def dSwitch : Desc := desc [(0, 0x34), (2, 2)]
def dRetire : Desc := desc [(0, 0x50), (2, 0x0D), (16, 2), (17, 1)]
def upJob : State := { up.onRing 1 fun r => { r with sqCi := 1 } with life := { up.life with jobs := [job 1 0x20 (desc [(0, 0x20)])] } }
def schedAct : Action := { act .decim 4 with nT := 48000 }
def upAct : State := { up with life := { up.life with acts := [schedAct] } }
def upStep : State := { up with time := { up.time with stepId := 9 } }
def upSwitch : State := { up with path := { up.path with topo := 1, roleB := .inStep } }

theorem witness_waits_fence : Served upJob 0 dFence ∧ opcodeOf dFence = 0x01 ∧ upJob.unserved 0 dFence = false ∧
    (headerOk dFence false false && payloadOk dFence [(16, 4)] && noFunc dFence) = true ∧
    (∃ j ∈ upJob.life.jobs, fenceMask 0 dFence j.ring = true ∧ j.silent = false) ∧
    Served up 0 dFence ∧ (∀ j ∈ up.life.jobs, fenceMask 0 dFence j.ring = true → j.silent = true) :=
  ⟨served (by decide +kernel), by decide +kernel, by decide +kernel, by decide +kernel, by decide +kernel, served (by decide +kernel), by decide +kernel⟩
theorem witness_waits_write : Served upLov 0 dWrite ∧ opcodeOf dWrite = 0x02 ∧ (headerOk dWrite false false && noFunc dWrite) = true ∧
    writeEntries dWrite = some [(0x06000001, 100)] ∧ writesCheck (srv upLov 0 dWrite) [(0x06000001, 100)] = 0x00 ∧
    (∀ e ∈ [((0x06000001 : Nat), (100 : Word))], (upLov.life? (pidFunc e.1)).busy = true) ∧
    (∀ j ∈ upLov.life.jobs, j.op ≠ 0x02 ∧ j.op ≠ 0x40) :=
  ⟨served (by decide +kernel), by decide +kernel⟩
theorem witness_waits_routeSet : Served upLov 0 dSet ∧ opcodeOf dSet = 0x40 ∧ routeForm dSet = true ∧ optOf dSet = false ∧
    inlineEntries dSet = some [2 ^ 63] ∧ routesCheck (srv upLov 0 dSet) [2 ^ 63] = 0x00 ∧ (upLov.life? .lovage).busy = true :=
  ⟨served (by decide +kernel), by decide +kernel⟩
theorem witness_waits_sched : Served up 0 dSched ∧ opcodeOf dSched = 0x04 ∧ schedForm dSched = true ∧ descFunc dSched = some .decim ∧
    up.absent .decim = false ∧ schedCheck (srv up 0 dSched) dSched = 0x00 ∧ fld dSched 20 4 ≠ 0 ∧
    (∀ b ∈ (srv up 0 dSched).pendingActs .decim, b.id ≠ BitVec.ofNat 32 (fld dSched 20 4)) ∧
    (srv up 0 dSched).now.toNat + 2 ≤ ((srv up 0 dSched).tickAt (BitVec.ofNat 64 (fld dSched 8 8))).toNat ∧
    ((srv up 0 dSched).pendingActs .decim).length < 256 ∧ schedOp dSched ≠ 1 ∧
    (up.ring 0).draining = false :=
  ⟨served (by decide +kernel), by decide +kernel⟩
theorem witness_waits_cancel : Served upAct 0 dCancel ∧ opcodeOf dCancel = 0x05 ∧
    (headerOk dCancel false false && payloadOk dCancel [(20, 4)] && funcOk dCancel) = true ∧ descFunc dCancel = some .decim ∧
    upAct.absent .decim = false ∧ (upAct.pendingActs .decim).find? (fun a => a.id.toNat == fld dCancel 20 4) = some schedAct ∧
    upAct.now.toNat + 2 ≤ schedAct.nT.toNat ∧ schedAct.silent = false :=
  ⟨served (by decide +kernel), by decide +kernel⟩
theorem witness_waits_step : Served upStep 0 dStep ∧ opcodeOf dStep = 0x33 ∧
    (headerOk dStep false false && noFunc dStep && payloadOk dStep [(16, 4)]) = true ∧ upStep.time.stepId ≠ 0 ∧
    fld dStep 16 4 = upStep.time.stepId.toNat ∧ upStep.time.accept = none :=
  ⟨served (by decide +kernel), by decide +kernel⟩
theorem witness_waits_switch : Served upSwitch 0 dSwitch ∧ opcodeOf dSwitch = 0x34 ∧
    (headerOk dSwitch true false && payloadOk dSwitch [] && (funcByte dSwitch == 1 || funcByte dSwitch == 2)) = true ∧
    upSwitch.topo ≠ 0 ∧ upSwitch.path.ext = false ∧ upSwitch.path.ilk.getLsbD 0 = false ∧ upSwitch.path.unsync = none ∧ upSwitch.path.active = .a ∧ funcByte dSwitch = 2 ∧ upSwitch.role .b = .inStep :=
  ⟨served (by decide +kernel), by decide +kernel⟩
theorem witness_waits_retire : Served up 0 dRetire ∧ opcodeOf dRetire = 0x50 ∧
    (headerOk dRetire false false && payloadOk dRetire [(16, 1), (17, 1)] && funcByte dRetire == 0x0D &&
      1 ≤ fld dRetire 17 1 && fld dRetire 17 1 ≤ 16) = true ∧ fld dRetire 16 1 = (2 : Fin 4).val ∧ up.memc.ranks[(2 : Fin 4)] = 0 ∧
    up.memc.spareValid = true ∧ up.memc.mig = none :=
  ⟨served (by decide +kernel), by decide +kernel⟩

theorem witness_WaitingEffects_fence : (let j := job 0 0x01 dFence
    let s := { up with life := { up.life with jobs := [j] } }
    s.job? (fun j => j.op == 0x01 && j.ring == 0) = some j ∧ fenceDone s j = true ∧ j.silent = false) := by decide +kernel
/-- A write, and an action, that is due at tick 1. -/
def writing (f : Func) (after : DWord) : State :=
  { upOn [f] with life := { (upOn [f]).life with writes := [{ job := 0, pid := BitVec.ofNat 32 (pidOf f 1), value := 5, after }] } }
def acting (f : Func) (g : Action → Action) : State :=
  { upOn [f] with life := { (upOn [f]).life with acts := [g { act f 2 with nT := 1 }] } }
theorem witness_WaitingEffects_write : ∀ f ∈ [Func.decim, .sage, .streamTx],
    (let s := writing f 0
     let b := at1 (islandOf f) s
     (due1 s).tokenTick (islandOf f) = some 1 ∧ (∀ a ∈ b.life.acts, a.due b = true → islandOf a.func ≠ islandOf f) ∧ b.life? f ≠ .off ∧
     (b.life.writes.filter (·.due b f)).getLast?.isSome = true) ∧
    (let b := at1 (islandOf f) (writing f 1)
     ∀ w ∈ b.life.writes, w.due b f = false) := by decide +kernel
theorem witness_WaitingEffects_act :
    (∀ e ∈ [((1 : Byte), Func.decim), (2, .decim), (3, .decim), (4, .decim), (6, .tdm0)],
      (let i := islandOf e.2
       let b := at1 i (acting e.2 ({ · with op := e.1, pid := BitVec.ofNat 32 (pidOf e.2 1) }))
       (due1 (acting e.2 id)).tokenTick i = some 1 ∧ b.running e.2 = true ∧
       ∃ a ∈ b.life.acts, b.dueAct e.2 7 (fun _ => true) = some a ∧ a.op = e.1 ∧ a.silent = false ∧ a.reserved = false)) ∧
    (let b := at1 .decim (acting .decim ({ · with late := true, op := 3 }))
     ∃ a ∈ b.life.acts, b.dueAct .decim 7 (·.late) = some a ∧ a.silent = false ∧ b.sageHeld .decim = false) ∧
    (∀ l ∈ [Life.off, .stopped], (let b := at1 .decim ((acting .decim id).setLife .decim l)
      b.life? .decim = l ∧ (b.dueAct .decim 7 fun _ => true).isSome = true)) ∧
    (at1 .decim up).dueAct .decim 7 (fun _ => true) = none := by decide +kernel
/-- A capture armed for an action. -/
theorem witness_WaitingEffects_armed :
    (let d := desc [(0, 0x21), (4, 0x55), (31, 2)]
     let s := acting .capture ({ · with op := 5, capTag := 0x55 })
     let b := at1 .xbar { s with life := { s.life with jobs := [job 0 0x21 d] } }
     ∃ a ∈ b.life.acts, b.dueAct .capture 7 (fun _ => true) = some a ∧ (b.armed a).isSome = true) ∧
    (let b := at1 .xbar (acting .capture ({ · with op := 5, capTag := 0x55 }))
     ∃ a ∈ b.life.acts, b.dueAct .capture 7 (fun _ => true) = some a ∧ b.armed a = none) := by decide +kernel

def ring0 (g : Ring → Ring) : State := up.onRing 0 g

theorem witness_RingSwitching : 3 ≤ up.chip.stage.toNat ∧ up.tarrRing 1 = false ∧
    ((0x4041 : Word).getLsbD 0 = true ∧ (up.ring 1).enable = false ∧ (up.ring 1).draining = false) ∧
    (sizeOk ((0x3031 : Word).extractLsb' 4 5) = false ∧ sizeOk ((0x4111 : Word).extractLsb' 4 5) = false) ∧
    (sizeOk ((0x4041 : Word).extractLsb' 4 5) = true ∧ sizeOk ((0x4041 : Word).extractLsb' 12 5) = true ∧
      sizeOk ((0x10101 : Word).extractLsb' 4 5) = true ∧ sizeOk ((0x10101 : Word).extractLsb' 12 5) = true) ∧
    (up.host.dbAddr ≠ 0 ∧ up.host.stAddr ≠ 0) ∧ State.reset.host.dbAddr = 0 ∧
    ((0x4040 : Word).getLsbD 0 = false ∧ (up.ring 0).enable = true ∧ (up.ring 0).draining = false) ∧
    (let s := ring0 ({ · with enable := false, draining := true })
     (s.ring 0).draining = true ∧ s.drained 0 = true) := by decide +kernel
def pageOut : State := { up with host := { up.host with hostPage := { up.host.hostPage with outstanding := true } } }
def hostless : State := { up with svc := { up.svc with hostless := true } }
theorem witness_Fetching : (up.host.fetch = true ∧ up.hostBus = true ∧ up.chip.resetting = false ∧ up.host.d3 = false ∧
      up.now.toNat % (up.host.period.toNat + 1) = 0 ∧ up.host.hostPage.asked = false) ∧ pageOut.host.hostPage.outstanding = true ∧
    up.host.hostPage.outstanding = false ∧
    (let s := { up with time := { up.time with tick := 3 }, host := { up.host with period := 1 } }
     s.now.toNat % (s.host.period.toNat + 1) ≠ 0) ∧
    (hostless.svc.hostless = true ∧ hostless.ringsWork = true ∧ hostless.chip.resetting = false ∧
      hostless.host.tarrPage.asked = false ∧ hostless.host.tarrPage.outstanding = false) ∧
    ((List.replicate 272 (0 : Byte)).length = 272 ∧ pageOut.tarrRing 0 = false ∧ (pageOut.ring 0).enable = true ∧
      (pageOut.ring 0).err = 0 ∧ (pageOut.ring 0).seen = true) ∧
    (let s := ring0 ({ · with enable := true, seen := true, sqPi := 1 })
     (s.ring 0).enable = true ∧ (s.ring 0).err = 0 ∧ (s.ring 0).fetched.length < (s.ring 0).pendingCount ∧
       s.chip.resetting = false ∧ s.busWait (s.ring 0).sqBase.toNat = false) := by decide +kernel
/-- A record of ring 0 that may be written, and a status page that is due. -/
def pageDue (g : PageSt → PageSt) : State := { up with host := { up.host with hostPage := g { up.host.hostPage with dirty := true, due := true } } }
def writing0 : State := (pageDue id).onRing 0 ({ · with waiting := [{ rec1 with tick := 1 }], enable := true })
theorem witness_CompletionRing : ((writing0.ring 0).waiting.head? = some { rec1 with tick := 1 } ∧ writing0.tarrRing 0 = false ∧
      (writing0.ring 0).enable = true ∧ (writing0.ring 0).full = false ∧ writing0.ringsWork = true ∧
      writing0.busWait (writing0.ring 0).cqBase.toNat = false ∧ writing0.periodOpen (writing0.pageOf 0) = true ∧
      ({ rec1 with tick := 1 } : Rec).tick ≠ writing0.now ∧ rec1.irq = true) ∧
    (let s : State := { hostless with
       host := { hostless.host with rings := (hostless.onRing 24 ({ · with waiting := [rec1], enable := true, cqBase := 0x8000000000001000 })).host.rings,
                                    tarrPage := { hostless.host.tarrPage with due := true } }
       life := { hostless.life with funcs := (upOn [.memctl]).life.funcs } }
     s.tarrRing 24 = true ∧ (s.ring 24).waiting.head? = some rec1 ∧ (s.ring 24).full = false ∧ s.ringsWork = true ∧
     s.busWait (s.ring 24).cqBase.toNat = false ∧ s.periodOpen (s.pageOf 24) = true ∧ s.openBefore 24 0 = false) ∧
    ((ring0 ({ · with cqPi := 16 })).ring 0).full = true ∧ (pageDue id).host.hostPage.dirty = true ∧
    (let s := pageDue id
     s.host.hostPage.due = true ∧ s.ringsWork = true ∧ s.host.stAddr ≠ 0 ∧ s.busWait s.host.stAddr.toNat = false ∧ s.host.msixEnable = false ∧
     (∀ e ∈ s.host.progress, s.pageOf e.1 ≠ .host)) ∧
    (let s := { up with host := { up.host with msixEnable := true } }
     s.host.msixEnable = true ∧ s.host.bme = true) ∧
    (pageDue ({ · with due := false })).host.hostPage.due = false ∧ up.host.hostPage.dirty = false := by decide +kernel
theorem witness_statusPage_tarragon : (let s : State := { hostless with
      host := { hostless.host with tarrPage := { hostless.host.tarrPage with dirty := true, due := true } }
      life := { hostless.life with funcs := (upOn [.memctl]).life.funcs } }
    s.host.tarrPage.dirty = true ∧ s.host.tarrPage.due = true ∧ s.ringsWork = true ∧ s.svc.hostless = true ∧
      s.busWait (2 ^ 63 + tarrStatus) = false) := by decide +kernel

def dConf : Desc := desc [(0, 0x11), (2, 9), (16, 0x10000), (24, 8)]
def pdmBlock : List Byte := [1, 0, 1, 0, 0, 0, 0, 0]
def pdmStopped : State := up.setLife .pdm .stopped
theorem witness_FunctionConfig : Served pdmStopped 0 dConf ∧ opcodeOf dConf = 0x11 ∧ configForm dConf = true ∧
    pdmStopped.busWait (fld dConf 16 8) = false ∧ descFunc dConf = some .pdm ∧ pdmStopped.absent .pdm = false ∧
    isModule (fld dConf 16 8) = false ∧ pdmBlock.length = fld dConf 24 4 ∧ pdmStopped.life? .pdm = .stopped ∧
    blockOk (srv pdmStopped 0 dConf) .pdm pdmBlock = true ∧ blockOk (srv pdmStopped 0 dConf) .pdm (List.replicate 8 0) = false :=
  ⟨served (by decide +kernel), by decide +kernel⟩
def dConfHv : Desc := desc [(0, 0x11), (2, 0x20), (16, 0x10000), (24, 8)]
theorem witness_FunctionConfig_off : Served up 0 dConf ∧ up.life? .pdm = .off ∧ Func.pdm.hv = false ∧ configForm dConf = true ∧
    up.svc.hostless = false := ⟨served (by decide +kernel), by decide +kernel⟩
theorem witness_FunctionConfig_running : Served (upOn [.pdm]) 0 dConf ∧ (upOn [.pdm]).life? .pdm = .running :=
  ⟨served (by decide +kernel), by decide⟩
theorem witness_FunctionConfig_hv : Served up 0 dConfHv ∧ configForm dConfHv = true ∧ descFunc dConfHv = some (.pch 0) ∧
    up.absent (.pch 0) = false ∧ up.life? (.pch 0) = .off ∧ Func.hv (.pch 0) = true := ⟨served (by decide +kernel), by decide +kernel⟩
theorem witness_FunctionConfig_path : Served up 0 (desc [(0, 0x11), (2, 1), (16, 0x10000), (24, 8)]) ∧
    configForm (desc [(0, 0x11), (2, 1), (16, 0x10000), (24, 8)]) = true ∧
    descFunc (desc [(0, 0x11), (2, 1), (16, 0x10000), (24, 8)]) = some .pathA := ⟨served (by decide +kernel), by decide +kernel⟩
def dStart : Desc := desc [(0, 0x12), (2, 7)]
def dStop : Desc := desc [(0, 0x10), (2, 7)]
theorem witness_FunctionStartStop : ∀ e ∈ [(dStart, Life.running), (dStart, .off), (dStart, .stopping), (dStart, .stopped), (dStart, .faulted),
      (dStart, .starting), (dStop, .running), (dStop, .starting), (dStop, .faulted), (dStop, .stopping), (dStop, .stopped), (dStop, .off)],
    (let s := up.setLife .capture e.2
     (s.serving 0 e.1).isSome = true ∧ payloadOk e.1 [] = true ∧ descFunc e.1 = some .capture ∧ s.absent .capture = false ∧
     (headerOk e.1 false false && funcOk e.1) = true ∧ s.life? .capture = e.2 ∧ startCheck .capture (srv s 0 e.1) = 0x00 ∧
     (s.func .capture).startReq = false) := by decide +kernel
theorem witness_FunctionStartStop_forms : opcodeOf dStart = 0x12 ∧ opcodeOf dStop = 0x10 ∧ (headerOk dStop true false && funcOk dStop) = true ∧
    optOf dStop = false ∧ Func.capture.hv = false ∧ up.sageHeld .capture = false ∧
    optOf (desc [(0, 0x10), (1, 4), (2, 7)]) = true ∧ Func.hv (.pch 0) = true := by decide +kernel
/-- A function in a state, with its record changed. -/
def inLife (f : Func) (st : Life) (g : FuncRec → FuncRec) : State := (up.setLife f st).onFunc f g
/-- The boundary of tick 1 that a command has begun already. -/
def begun1 (i : Island) (s : State) : State := at1 i (setBegun i true s)
theorem witness_LifeCycle_start : (let b := at1 .decim (inLife .decim .stopped ({ · with startReq := true }))
    (due1 (inLife .decim .stopped id)).tokenTick .decim = some 1 ∧ b.life.acts = [] ∧ (b.func .decim).startReq = true ∧ stopFirst .decim b = false ∧
      b.life? .decim = .stopped ∧ b.chip.resetting = false ∧ b.dueSince (b.func .decim).startAfter = true ∧ Func.decim.hv = false) ∧
    (let b := at1 .decim (inLife .decim .faulted ({ · with startReq := true, startAfter := 1 }))
     b.life? .decim = .faulted ∧ b.dueSince (b.func .decim).startAfter = false) ∧
    (let b := at1 .isolink { inLife (.pch 0) .stopped ({ · with startReq := true }) with chip := { up.chip with linkUp := true, vbus := 1500 } }
     (b.func (.pch 0)).startReq = true ∧ b.life? (.pch 0) = .stopped ∧ b.chip.linkUp = true ∧ 0 ≤ b.chip.vbus.toInt ∧
     b.dueSince (b.func (.pch 0)).startAfter = true ∧ b.running .sage = false ∧ b.svc.autostart = []) ∧
    (let s := setHalted .decim true (inLife .decim .faulted ({ · with startReq := true, stopReq := false }))
     s.halted (islandOf .decim) = true ∧ (s.func .decim).startReq = true ∧ stopFirst .decim s = false ∧ s.life? .decim = .faulted) ∧
    (let s := setHalted .decim true (inLife .decim .faulted ({ · with stopReq := true }))
     s.halted (islandOf .decim) = true ∧ (s.func .decim).stopReq = true ∧ (s.func .decim).offReq = false ∧ s.sageHeld .decim = false) := by
  decide +kernel
theorem witness_LifeCycle_stop : ∀ l ∈ [Life.running, .off, .stopped, .faulted],
    (let b := at1 .decim (inLife .decim l ({ · with stopReq := true }))
     b.life.acts = [] ∧ (b.func .decim).stopReq = true ∧ b.dueSince (b.func .decim).stopAfter = true ∧ b.sageHeld .decim = false ∧
     b.life? .decim = l ∧ (b.func .decim).offReq = false) := by decide +kernel
theorem witness_LifeCycle_stopOff : (let b := at1 .decim (inLife .decim .stopped ({ · with stopReq := true, offReq := true }))
     b.life? .decim = .stopped ∧ (b.func .decim).offReq = true ∧ b.dueSince (b.func .decim).stopAfter = true) ∧
    (let b := at1 .decim (inLife .decim .running ({ · with stopReq := true, stopAfter := 1 }))
     (b.func .decim).stopReq = true ∧ b.dueSince (b.func .decim).stopAfter = false) ∧
    (let b := begun1 .isolink ((inLife (.pch 1) .running ({ · with stopReq := true })).onPch 1 fun c => { c with phase := 2 })
     b.life? (.pch 1) = .running ∧ 2 ≤ (b.pch 1).phase.toNat ∧ (b.pch 1).phase.toNat ≤ 5 ∧ b.dueSince (b.func (.pch 1)).stopAfter = true) := by
  decide +kernel
theorem witness_LifeCycle_ends : startDone .decim (begun1 .decim (inLife .decim .starting id)) = true ∧
    startDone .decim (begun1 .decim up) = false ∧
    (∀ off ∈ [true, false], (let b := begun1 .decim (inLife .decim .stopping ({ · with offReq := off, fade := Fade.zero }))
     stopDone .decim b = true ∧ (b.func .decim).offReq = off)) ∧ stopDone .decim (begun1 .decim up) = false ∧
    (let b := begun1 .decim (inLife .decim .starting ({ · with effect := 1 - 48000 }))
     b.life? .decim = .starting ∧ b.fsHz + startAllowance .decim b ≤ b.since .decim) ∧
    (let b := begun1 .decim (inLife .decim .starting ({ · with effect := 2 - 48000 }))
     b.since .decim < b.fsHz + startAllowance .decim b) ∧
    (causeFits .decim 8 = true ∧ ((upOn [.decim]).life? .decim).busy = true ∧ ((upOn [.decim]).func .decim).faultCount ≠ 0xFFFF) ∧
    (causeFits .decim 1 = true ∧ pdmStopped.life? .pdm = .stopped) ∧
    up.life? .decim = .off ∧ (inLife .decim .faulted id).life? .decim = .faulted := by decide +kernel
theorem witness_DoesAt : (∀ i ∈ [Island.lovage, .sc 3, .path .a, .memctl, .xbar, .decim, .service, .isolink, .timing],
      (due1 { up with chip := { up.chip with linkUp := true } }).tokenTick i = some 1) ∧
    (∀ f ∈ allFuncs, f.hv = false → (due1 { up with chip := { up.chip with linkUp := true } }).tokenTick (islandOf f) = some 1) ∧
    State.reset.tokenTick .decim = none ∧ up.tokenTick .isolink = none := by decide +kernel

/-- A Noard request for slot 2 with counter 5, and its tag under a key of ones. -/
def pduBody : List Byte :=
  [1, 1, 2, 1, 0xFF, 0xFF, 24, 0] ++ leBytes 8 5 ++ [1, 0, 0, 0, 16, 0] ++ List.replicate 10 0 ++ List.replicate 64 0
def pdu : List Byte := pduBody ++ [236, 191, 81, 254, 217, 4, 126, 118, 152, 30, 78, 45, 207, 200, 73, 31]
/-- A hostless node whose slot 2 has that key and a last counter. -/
def noard (last : DWord) : State := { upOn [.service] with
  svc := { up.svc with
    hostless := true, noardKeys := up.svc.noardKeys.set 2 (some (List.replicate 32 1))
    lastCounter := up.svc.lastCounter.set 2 last, lastPdu := up.svc.lastPdu.set 2 pdu } }
def noardReq1 (left : Nat) : NoardReq :=
  { slot := 2, counter := 5, reqId := 1, ring := 24, port := .a, src := 0, vlan := none, replyLen := 16, first := 0, count := 1, left, recs := [(some 0, [1])] }

theorem witness_Noard_form : (noard 4).svcAlive = true ∧ (noard 4).svc.hostless = true ∧ pduForm [] = false ∧ pduForm pdu = true ∧
    pduNode (noard 4) pdu = true ∧ pduNode (noard 4) (leBytes 4 0 ++ leBytes 2 3 ++ pdu.drop 6) = false := by decide +kernel
theorem witness_Noard_tag : pduTagOk (noard 4) pdu = true := by decide +kernel
theorem witness_Noard_badTag : pduTagOk State.reset pdu = false := by decide +kernel
theorem witness_Noard_counter : (pduCounter pdu).toNat < (noard 6).svc.lastCounter[pduSlot pdu].toNat ∧
    (pduCounter pdu = (noard 5).svc.lastCounter[pduSlot pdu] ∧ (noard 5).svc.lastPdu[pduSlot pdu] = pdu) ∧
    ((noard 4).svc.lastCounter[pduSlot pdu].toNat < (pduCounter pdu).toNat ∧
      32 + 16 * pduCount pdu + pduReplyLen pdu + 16 + 28 ≤ (noard 4).maxLen .a ∧
      ((noard 4).tarrPi (Fin.ofNat 32 (leAt pdu 6 1)) - ((noard 4).ring (Fin.ofNat 32 (leAt pdu 6 1))).sqCi).toNat + pduCount pdu ≤ 256) := by
  decide +kernel
/-- A request whose reply area does not fit the port's MAXLEN. -/
def pduLongBody : List Byte :=
  [1, 1, 2, 1, 0xFF, 0xFF, 24, 0] ++ leBytes 8 5 ++ [1, 0, 0, 0, 0xB4, 5] ++ List.replicate 10 0 ++ List.replicate 64 0
def pduLong : List Byte := pduLongBody ++ [86, 47, 252, 233, 214, 21, 255, 68, 124, 79, 7, 213, 156, 174, 5, 182]
theorem witness_Noard_tooBig : pduForm pduLong = true ∧ pduNode (noard 4) pduLong = true ∧ pduTagOk (noard 4) pduLong = true ∧
    (noard 4).svc.lastCounter[pduSlot pduLong].toNat < (pduCounter pduLong).toNat ∧
    (noard 4).maxLen .a < 32 + 16 * pduCount pduLong + pduReplyLen pduLong + 16 + 18 := by decide +kernel
def withReq (n : NoardReq) : State := { noard 4 with svc := { (noard 4).svc with reqs := [n] } }
theorem witness_Noard_replies : ∀ left ∈ [0, 1], ∀ waited ∈ [true, false],
    (withReq { noardReq1 left with waited := waited }).noardReq 2 5 = some { noardReq1 left with waited := waited } ∧
      (noardReq1 left).left = left ∧ (noardReq1 left).recs ≠ [] := by decide +kernel
def rose (l : Option DWord) : State := { noard 4 with
  svc := { (noard 4).svc with lastCtl := some (1, .a, 2, none), noticeAt := l }
  host := { up.host with tarrPage := { up.host.tarrPage with rose := true } } }
theorem witness_Noard_notice : (rose none).svc.lastCtl = some (1, .a, 2, none) ∧ (rose none).host.tarrPage.rose = true ∧
    (rose none).svc.noticeAt = none ∧ (rose (some 0)).svc.noticeAt = some 0 ∧
    (let s := (rose (some 0)).onTime fun t => { t with tick := 480 }
     s.svc.lastCtl = some (1, .a, 2, none) ∧ s.host.tarrPage.rose = true ∧ s.msTicks 10 ≤ (s.now - 0).toNat) := by decide +kernel
/-- Port A with link and an address; one group on it. -/
def linked : State := State.onPort .a (fun r => { r with link := true, mode := .m1000, resolved := .m1000, groups := [0xE0000101, 2 ^ 120 + 5] })
  { upOn [.service] with
    life := { (upOn [.service]).life with params := [(pidOf .service 0x10, 0x0A000001)] } }
theorem witness_Housekeeping : linked.svcAlive = true ∧ linked.isRing = false ∧
    ((linked.port .a).link = true ∧ (linked.port .a).queues[linked.txqService .a].length < 16 ∧
      lenSum (linked.port .a).queues[linked.txqService .a] + 1600 ≤ 16384) ∧
    ((0x0A000001 : Word).toNat = linked.svcParam 0x10 ∧ (0x0A000001 : Word) ≠ 0) ∧
    (([] : List Byte).length ≤ 1472 ∧ linked.echoes .a false < 100 ∧ linked.echoes .a true < 100) ∧
    100 ≤ ({ linked with svc := { linked.svc with echoA := 100 } } : State).echoes .a false ∧
    (linked.ownV6 (BitVec.ofNat 128 linked.linkLocal).toNat = true ∧ (1 : BitVec 128) ≠ 0) ∧
    ((0xE0000101 : Word) ≠ 0 ∧ (0xE0000101 : Word).zeroExtend 128 ∈ (linked.port .a).groups ∧ (linked.port .a).groups.Nodup) ∧
    (2 ^ 48 ≤ (2 ^ 120 + 5 : BitVec 128).toNat ∧ (2 ^ 120 + 5 : BitVec 128) ∈ (linked.port .a).groups) ∧
    linked.svc.identify ≤ linked.tickUnits ∧
    linked.tickUnits < ({ linked with svc := { linked.svc with identify := linked.tickUnits + 1 } } : State).svc.identify := by decide +kernel
theorem witness_KeyCommands : 3 ≤ up.chip.stage.toNat ∧ keyCmd 0xD0410001 1 = true ∧ keyCmd 0xD0410002 2 = true ∧
    up.svc.provisioned = false ∧ ({ up.svc with provisioned := true } : SvcSt).provisioned = true ∧
    (0x03 : Word) &&& 0x30 = 0 ∧ (0x13 : Word) &&& 0x30 = 0x10 ∧ (0x20 : Word) &&& 0x30 = 0x20 ∧ (1 : Word) ≠ 0xD0410001 := by decide
theorem witness_DebugLock : up.chip.supply ≠ .off ∧
    (let v := { up.svc with debugKey := some (List.replicate 32 1), nonce := some 7, serial := 9, wrong := 1 }
     v.jtagLocked = false ∧ v.debugKey = some (List.replicate 32 1) ∧ v.nonce = some 7 ∧ v.wrong < 2) ∧
    ({ up.svc with wrong := 2 } : SvcSt).wrong = 2 ∧ ({ up.svc with jtagLocked := true } : SvcSt).jtagLocked = true := by decide
theorem witness_DebugLock_answer : jtagExpect (List.replicate 32 1) 7 9 = beBytes 16 (0xF1B2609D42AF6E4CAB31DBF552BB4185 : BitVec 128).toNat := by
  decide +kernel
theorem witness_DebugLock_wrong : jtagExpect (List.replicate 32 1) 7 9 ≠ beBytes 16 (0 : BitVec 128).toNat := by decide +kernel

def frame1 : Frame := { dst := 0x001122334455, src := 2, len := 64, etype := 0x88B5 }
def fwd1 : FwdFrame := { frame := frame1, ingress := .b, inMax := 1522, outMax := 1522, order := 6, timing := false }
/-- Port A with link, changed. -/
def portA (g : PortSt → PortSt) : State := linked.onPort .a g

/-- Both ports with link at 1000 Mbit/s. -/
def both : State := linked.onPort .b ({ · with link := true, mode := .m1000, resolved := .m1000 })
def atA (g : PortSt → PortSt) : PortSt := (portA g).port .a
theorem witness_LinkCommands : up.portsUp = true ∧ 3 ≤ up.chip.stage.toNat ∧ (up.port .a).link = false ∧
    (∀ n ∈ [1, 2], let s := up.onPort .a fun r => { r with resolved := .m1000, attempts := n }
     (s.port .a).link = false ∧ (s.port .a).resolved ≠ .none ∧ s.svcParam 0x10 = 0 ∧ (s.port .a).aneg.getLsbD 4 = true ∧
       (s.port .a).attempts = n) ∧
    (linked.port .a).link = true ∧ linked.count (portFn .a) 20 < 2 ^ 48 - 1 ∧ (atA ({ · with ledDark := true })).ledDark = true ∧
    (atA ({ · with pause := linked.tickPs })).pause ≤ linked.tickPs ∧
    linked.tickPs < (atA ({ · with pause := linked.tickPs + 1 })).pause := by decide +kernel
theorem witness_LinkCommands_aneg : (0x17 : Word).getLsbD 16 = false ∧ ((up.port .a).aneg ^^^ 0x17) &&& 0x307 = 0 ∧
    ((up.port .a).aneg ^^^ 0x16) &&& 0x307 ≠ 0 ∧ (0x10017 : Word).getLsbD 16 = true := by decide
/-- The paths and STREAM_RX run with one stream of format `fmt`. -/
def rxLinked (fmt : Byte) : State := forAll [.pathA, .streamRx] (fun f s => s.setLife f .running) (linked.onFunc .streamRx fun f =>
  { f with config := some ([1, 1] ++ List.replicate 14 0 ++ [fmt, 1, 0, 0, 2] ++ List.replicate 59 0) })
/-- A frame to this module, or one of its groups. -/
def own (etype : BitVec 16) : Frame := { frame1 with dst := linked.svc.mac, etype }
def udp0 : IpInfo := { v6 := false, src := 1, dst := 0, proto := 17, fragment := false, udpSrc := 0, udpDst := 0 }
theorem witness_Reception : linked.carries .a = true ∧ (linked.port .a).hold = none ∧
    (∀ n ∈ [64, linked.maxLen .a], let f := { frame1 with len := n }
      f.symErr = false ∧ 64 ≤ f.len ∧ f.len ≤ linked.maxLen .a ∧ f.fcs = .good ∧ linked.strips f = false) ∧
    linked.rxClass .a (own 0x8808) = 1 ∧ linked.rxClass .a frame1 = 2 ∧
    (portA ({ · with vlan := 2 })).rxClass .a (own 0x88B5) = 3 ∧ linked.rxClass .a (own 0x88F7) = 4 ∧
    linked.rxClass .a (own (BitVec.ofNat 16 (linked.svcParam 3))) = 5 ∧ (rxLinked 2).rxClass .a (own 0x22F0) = 6 ∧
    (rxLinked 0).rxClass .a { own 0x0800 with ip := some udp0 } = 7 ∧ linked.rxClass .a (own 0x0806) = 8 ∧
    linked.rxClass .a (own 0x9000) = 9 ∧ (linked.port .a).timeBuf = 0 ∧ (linked.port .a).pathBuf = 0 ∧
    (atA ({ · with svcBuf := 49152 })).svcBuf ≤ 49152 ∧ 49152 < (atA ({ · with svcBuf := 49153 })).svcBuf ∧
    svcHigh (linked.port .a).rxPcp { own 0x0806 with vlans := [{ pcp := 7, vid := 5 }] } = true ∧
    svcHigh (linked.port .a).rxPcp { own 0x0806 with vlans := [{ pcp := 0, vid := 5 }] } = false := by decide +kernel
/-- A node of a ring whose own frame comes back. -/
def ringed : State := { linked with path := { linked.path with topo := 1 } }
theorem witness_Reception_strip : ringed.carries .a = true ∧ ringed.strips
    { frame1 with ring := some { tpid := ringed.ringType, origin := ringed.nodeId, seq := 0 } } = true := by decide +kernel
theorem witness_Reception_bad :
    (∀ fcs ∈ [Fcs.good, .wrong], { frame1 with len := 63, fcs }.symErr = false ∧ { frame1 with len := 63, fcs }.len < 64) ∧
    ({ frame1 with symErr := true }.symErr = true ∧ linked.strips { frame1 with symErr := true } = false) ∧
    (linked.maxLen .a < { frame1 with len := linked.maxLen .a + 1 }.len ∧ 64 ≤ linked.maxLen .a) ∧
    { frame1 with fcs := .inverted }.fcs ≠ .good ∧
    (atA ({ · with macCtrl := 0x10 })).macCtrl.getLsbD 4 = true ∧ (linked.port .a).macCtrl.getLsbD 4 = false := by decide +kernel
/-- Port A holds a frame to forward that port B has received. -/
def fwdOn (w : FwdFrame) (m : LineMode) (pause : Nat) : State :=
  (both.onPort .b ({ · with mode := m })).onPort .a ({ · with fwd := [w], pause, macCtrl := 0x10 })
theorem witness_Sending : (let s := portA fun r => { r with queues := r.queues.set 7 [frame1] }
      (s.port .a).topQueue = some 7 ∧ (s.port .a).queues[(7 : Fin 8)].head? = some frame1 ∧ s.paused .a = false ∧ s.fwdFirst .a = false) ∧
    (portA ({ · with pause := 1, macCtrl := 0x10 })).paused .a = true ∧
    (let s := both
     s.carries .a = true ∧ s.forwards .a frame1 = true ∧ (s.isRing && (s.tagOf? frame1).isNone) = false ∧
       (s.port (otherPort .a)).link = true ∧ ((s.port (otherPort .a)).fwd.map (·.frame.len)).sum + frame1.len ≤ 32768) ∧
    (let s := both.onPort .b ({ · with fwd := [{ fwd1 with frame := { frame1 with len := 32704 } }] })
     ((s.port (otherPort .a)).fwd.map (·.frame.len)).sum + frame1.len = 32768) ∧
    linked.forwards .a { frame1 with len := 63 } = false := by decide +kernel
theorem witness_Sending_copy : (let s := fwdOn fwd1 .m1000 0
     s.carries .a = true ∧ (s.port .a).fwd.head? = some fwd1 ∧ s.mayStart .a fwd1 2047 = false ∧ s.mayStart .a fwd1 2048 = true ∧
       s.paused .a = false ∧ s.fwdFirst .a = true ∧ foundBad s .a fwd1 2048 = false ∧ copyCut s .a fwd1 2048 = none ∧ fwd1.timing = false) ∧
    (fwdOn fwd1 .m1000 1).paused .a = true := by decide +kernel
/-- What R172 cuts: a symbol error, a frame past either MAXLEN, a wrong FCS. -/
def cuts : List (FwdFrame × Nat) :=
  [({ fwd1 with frame := { frame1 with len := 1000, symErr := true, errAt := 900 }, order := 1 }, 901 - 64),
   ({ fwd1 with frame := { frame1 with len := 1523 }, order := 4 }, 1523),
   ({ fwd1 with frame := { frame1 with len := 1300 }, outMax := 1299 }, 1300),
   ({ fwd1 with frame := { frame1 with len := 1300, fcs := .wrong }, order := 5 }, 1300)]
theorem witness_Sending_cut : ∀ e ∈ cuts, (let s := fwdOn e.1 .m1000 0
     s.mayStart .a e.1 2048 = true ∧ s.paused .a = false ∧ s.fwdFirst .a = true ∧ foundBad s .a e.1 2048 = false ∧
     copyCut s .a e.1 2048 = some e.2) := by decide +kernel
theorem witness_Sending_bad : ∀ e ∈ cuts, e.1.order ≠ 6 → (let s := fwdOn e.1 .m100 0
     s.mayStart .a e.1 600000 = true ∧ s.paused .a = false ∧ s.fwdFirst .a = true ∧ foundBad s .a e.1 600000 = true) := by decide +kernel
def unsync1 : Unsync := { start := 0, f := 48, target := .b, cause := .link }
def unsyncAt (n : DWord) : State := { up with path := { up.path with unsync := some unsync1 }, time := { up.time with tick := n } }
theorem witness_IlkCommands : (unsyncAt 48).path.unsync = some unsync1 ∧ unsync1.changed = false ∧
    unsync1.f ≤ ((unsyncAt 48).now - unsync1.start).toNat ∧
    2 * unsync1.f ≤ ((unsyncAt 96).now - unsync1.start).toNat ∧ ((unsyncAt 47).now - unsync1.start).toNat < unsync1.f ∧
    ({ unsync1 with changed := true } : Unsync).changed = true ∧
    ({ up.path with ext := true } : PathSt).ext = true ∧ up.path.ext = false := by decide +kernel

/-- TIMEKEEPER and path A run; the port has link, a role and a profile. -/
def ptpOn (role : PtpRole) (profile : Byte) (g : PtpPort → PtpPort) : State :=
  ((((upOn [.timekeeper, .pathA]).onFunc .timekeeper fun r => { r with config := some ([1, profile, 0, 0, 0, 3] ++ List.replicate 10 0) }).onPort
    .a fun r => { r with link := true, mode := .m1000 }).onPtp .a fun r => { r with role }).onPtp .a g
def sync1 (two : Bool) (dom : Byte) : PtpSync := { seq := 4, domain := dom, twoStep := two, t1 := 100, t2 := 900, corr := 0 }

theorem witness_PtpSending : (∀ e ∈ [(PtpRole.master, (0 : Byte)), (.slave, 0), (.slave, 1)], (let s := ptpOn e.1 e.2 id
      s.isRing = false ∧ s.peerDelay = (e.2 == 1) ∧ s.ptpLive .a = true ∧ (s.port .a).link = true ∧
      (∀ q ∈ [s.txqEvent .a, s.txqGeneral .a], (s.port .a).queues[q].length < 16 ∧ lenSum (s.port .a).queues[q] + 256 ≤ 16384))) ∧
    (ptpOn .master 0 id).masters .a = true ∧ (ptpOn .slave 0 id).slaves .a = true ∧ (ptpOn .slave 0 id).masters .a = false := by decide +kernel
def answer1 (followUp twoStep : Bool) : PtpPdelayResp := { seq := 6, followUp, twoStep, turnaround := 10, t4 := 1500 }
def ann1 (gm : DWord) (priority1 : Byte) : PtpAnnounce :=
  { domain := 0, gm, priority1, clockClass := 6, accuracy := 0x21, variance := 0, priority2 := 128, steps := 0 }
theorem witness_PtpReceiving : (ptpOn .slave 0 id).slaves .a = true ∧
    ((sync1 true 0).domain.toNat = (ptpOn .slave 0 id).ptpDomain .a ∧ (sync1 true 0).twoStep = true ∧ (sync1 false 0).twoStep = false) ∧
    (sync1 true 1).domain.toNat ≠ (ptpOn .slave 0 id).ptpDomain .a ∧
    (let s := ptpOn .slave 0 ({ · with pending := some (4, 900, 0), reqSent := some (6, 1000) })
     s.slaves .a = true ∧ (s.ptp .a).pending = some (4, 900, 0) ∧ s.peerDelay = false ∧ (s.ptp .a).reqSent = some (6, 1000)) ∧
    (let s := ptpOn .slave 1 ({ · with reqSent := some (6, 1000), pdPending := some (6, 400) })
     s.ptpLive .a = true ∧ s.peerDelay = true ∧ (s.ptp .a).reqSent = some ((answer1 false false).seq, 1000) ∧
     (s.ptp .a).pdPending = some ((answer1 true false).seq, 400)) ∧
    (let s := ptpOn .listening 0 id
     s.ptpLive .a = true ∧ (ann1 5 128).domain.toNat = s.ptpDomain .a ∧ (ann1 5 128).gm ≠ s.clockId ∧ (s.ptp .a).best = none ∧
     (ann1 s.clockId 128).gm = s.clockId ∧ (s.ptp .a).role ≠ .slave) ∧
    (let s := ptpOn .listening 0 ({ · with best := some (ann1 5 128) })
     (s.ptp .a).best = some (ann1 5 128) ∧ announceKey (ann1 6 127) < announceKey (ann1 5 128) ∧ (ann1 5 128).gm ≠ (ann1 6 129).gm ∧
     announceKey (ann1 5 128) ≤ announceKey (ann1 6 129)) ∧
    (let s := ptpOn .slave 0 ({ · with announced := true })
     s.ptpRuns .a = true ∧ (s.ptp .a).announced = true ∧ (s.ptp .a).role = .slave) := by decide +kernel
def clockIs (g : TimeSt → TimeSt) : State := { upOn [.timekeeper] with time := g up.time }
theorem witness_ClockCommands : (let s := clockIs ({ · with ref := 3, lock := 1, tick := 8 })
      s.running .timekeeper = true ∧ 3 ≤ s.time.ref.toNat ∧ 1 ≤ s.time.lock.toNat ∧ s.time.lock.toNat ≤ 3 ∧ s.now.toNat % 8 = 0) ∧
    (let s := clockIs ({ · with lock := 1 })
     s.time.lock = 1 ∧ (s.time.ofs.natAbs : Int) ≤ s.lockBound) ∧
    (let s := clockIs ({ · with lock := 2, ofs := -1000000 })
     s.time.lock = 2 ∧ 4 * s.lockBound < (s.time.ofs.natAbs : Int)) ∧
    (let s := clockIs ({ · with lock := 3 })
     s.time.lock = 3 ∧ s.time.slew = 0) ∧
    up.chip.supply ≠ .off ∧ up.refPresent 1 = false ∧
    (clockIs ({ · with ref := 2 })).time.ref.toNat < 3 ∧ (up.time.lock ≠ 1 ∧ up.time.lock ≠ 2 ∧ up.time.lock ≠ 3) := by decide +kernel
/-- WCIN is present, with three glitches within the second before. -/
def wcinOn (n : Nat) : State := (clockIs ({ · with glitches := List.replicate n 0 })).onRef 3 ({ · with present := true })
theorem witness_ClockCommands_refs : up.refPresent 1 = false ∧ (wcinOn 0).refPresent 3 = true ∧
    (∀ f ∈ [(1000 * (wcinOn 0).timeParam 10 : Int), 1 + 1000 * (wcinOn 0).timeParam 10],
      ([0, 0, f][(3 : Fin 6).val - 1]?).getD 0 = f) ∧
    (∀ t ∈ [20625, 21041], (1000 ≤ t ∧ 990000000 ≤ t * up.fsHz ∧ t * up.fsHz ≤ 1010000000)) ∧
    (up.refRec 3).present = false ∧ 4000000000 ≤ 83334 * up.fsHz ∧ ((wcinOn 0).refRec 3).present = true ∧
    20624 * up.fsHz < 990000000 ∧ 1010000000 < 21042 * up.fsHz ∧
    ((wcinOn 0).now :: (wcinOn 0).time.glitches.filter (fun e => decide (((wcinOn 0).now - e).toNat < (wcinOn 0).fsHz))).length < 4 ∧
    4 ≤ ((wcinOn 3).now :: (wcinOn 3).time.glitches.filter (fun e => decide (((wcinOn 3).now - e).toNat < (wcinOn 3).fsHz))).length := by
  decide +kernel

/-- STREAM_RX and path A run with one AES67 stream, 24-bit, one channel, LINK_OFFSET 2; the tick counter is at 1000. -/
def rxOn (r : RxRec) : State := { (((upOn [.pathA, .streamRx]).onFunc .streamRx fun f => { f with
    config := some ([1, 1] ++ List.replicate 14 0 ++ [0, 1, 0, 0, 2] ++ List.replicate 59 0) }).onRx .a 0 fun _ => r) with
  time := { up.time with tick := 1000 } }
def pkt (stamp : Word) (n : Nat) (seq : BitVec 16) : StreamPacket :=
  { seq, src := 0, stamp, tv := true, rate := 5, payload := List.replicate n 5, arrival := 0 }
/-- The same with an AVTP entry of format `fmt`. -/
def rxAs (fmt : Byte) : State := (rxOn {}).onFunc .streamRx fun f => { f with
  config := some ([1, 1] ++ List.replicate 14 0 ++ [fmt, 1, 0, 0, 2] ++ List.replicate 59 0) }
def margin (s : State) (stamp : DWord) : Int := (stamp - s.now).toInt + s.rxFld 0 4 2 - 2

theorem witness_StreamReception : (let s := rxOn {}
    s.running (pathFunc .a) = true ∧ s.running .streamRx = true ∧ s.isFed .a = true ∧ (0 : Fin 128).val < s.rxCount ∧
    s.rxEn 0 = true ∧ fromTalker s 0 (pkt 0 0 0) = true ∧ ¬ (1 ≤ (payloadTicks s 0 (pkt 0 0 0)).getD 0) ∧
    rxStamp s .a 0 (pkt 999 2 0) = some 999 ∧ margin s 999 < 0 ∧ rxStamp s .a 0 (pkt 9001 2 0) = some 9001 ∧ 8000 < margin s 9001 ∧
    rxStamp s .a 0 (pkt 1000 2 0) = some 1000 ∧ 0 ≤ margin s 1000 ∧ rxStamp s .a 0 (pkt 9000 128 0) = some 9000 ∧
    margin s 9000 ≤ 8000 ∧ (payloadTicks s 0 (pkt 9000 128 0)).getD 0 = 64 ∧ formOk s (s.rxFld 0 0 1 % 16) (pkt 9000 128 0) = true ∧
    ((s.rx .a 0).held.any fun e => e.1 == (1002 : DWord) + BitVec.ofNat 64 0) = false ∧
    seqGap (s.rxAes 0) (s.rx .a 0).expect 5 = 0 ∧ s.rxFld 0 0 1 % 16 ≠ 5) := by decide +kernel
theorem witness_StreamReception_held : (let s := rxOn { held := [(1002, [0])], expect := some 3 }
    (∀ i ∈ List.range 1, ((s.rx .a 0).held.any fun e => e.1 == (1002 : DWord) + BitVec.ofNat 64 i) = true) ∧
    seqGap (s.rxAes 0) (s.rx .a 0).expect 5 = 2) ∧ up.running .streamRx = false := by decide +kernel
def pktF (top : Byte) : StreamPacket := { pkt 20833333 4 5 with aafCode := 1, payload := [0x7F, top, 0, 0] }
theorem witness_StreamReception_float : (let s := rxAs 5
    s.rxEn 0 = true ∧ s.rxFld 0 0 1 % 16 = 5 ∧ ∀ top ∈ [0x80, 0xC0], rxStamp s .a 0 (pktF top) = some 1000 ∧ formOk s 5 (pktF top) = true ∧
      (payloadTicks s 0 (pktF top)).getD 0 = 1 ∧
      ((payloadWords 5 1 (pktF top).payload).any fun w => (floatIn w).2) = (top == 0xC0)) := by decide +kernel
theorem witness_StreamReception_forms : ({ pkt 1000 2 0 with rtpVersion := 1 }.rtpVersion ≠ 2) ∧
    ¬ (payloadTicks (rxOn {}) 0 (pkt 1000 130 0)).getD 0 ≤ 64 ∧
    formOk (rxOn {}) ((rxOn {}).rxFld 0 0 1 % 16) { pkt 1000 2 0 with rtpVersion := 1 } = false ∧
    rxStamp (rxAs 2) .a 0 { pkt 1000 2 0 with tv := false } = none := by decide +kernel
/-- STREAM_TX has one stream on port A, one tick a packet, whose next block ends now. -/
def txOn (st : Life) (x : TxRec) : State := { ((linked.setLife .streamTx st).onFunc .streamTx fun f => { f with
    config := some ([1, 1] ++ List.replicate 14 0 ++ [0, 1, 0, 0, 1, 1] ++ List.replicate 58 0) }).onTx 0 fun _ => x with
  time := { up.time with tick := 7 } }
def tx1 : TxRec := { next := some 6, en := true }
theorem witness_StreamPacketLaunch : (let s := txOn .running tx1
      (s.tx 0).next = some 6 ∧ (s.tx 0).en = true ∧ (0 : Fin 64).val < s.txCount ∧ (s.now - 6).toNat = 1 ∧ max 1 (s.txFld 0 4 1) = 1 ∧
      s.isRing = false ∧ s.txPorts 0 = [.a] ∧ (txFrame s 0 .a 0 6).len ≤ s.maxLen .a ∧ s.life? .streamTx = .running ∧
      s.fits .a (s.txQueue 0) (max 64 (txFrame s 0 .a 0 6).len) = true) ∧
    (let s := (txOn .running tx1).onPort .a ({ · with link := false })
     s.life? .streamTx = .running ∧ s.txPorts 0 = [.a] ∧ (txFrame s 0 .a 0 6).len ≤ s.maxLen .a ∧
      s.fits .a (s.txQueue 0) (max 64 (txFrame s 0 .a 0 6).len) = false) ∧
    ((txOn .running { tx1 with en := false }).tx 0).en = false ∧
    (txOn .starting tx1).life? .streamTx = .starting ∧ (up.tx 0).next = none := by decide +kernel
def ramp1 (k : Nat) : Ramp := { src := 0, dst := 100, k, len := 48 }
def xpOn (k : Nat) : State := { up with lov := { up.lov with xp := [(xpKey 3 5, { gain := 0, target := 100, ramp := some (ramp1 k) })] } }
theorem witness_RouterEvents : ((xpOn 48).xp (xpKey (3 : BitVec 11).toNat (5 : BitVec 11).toNat)).ramp = some (ramp1 48) ∧
    (ramp1 48).len ≤ (ramp1 48).k ∧ ((xpOn 47).xp (xpKey 3 5)).ramp = some (ramp1 47) ∧ (ramp1 47).k < (ramp1 47).len ∧
    ((up.onGen 15 ({ · with wait := 1 })).gen 15).wait = 1 ∧ (up.gen 15).wait ≠ 1 := by decide +kernel
/-- DECIM and PDM run with clock 0. -/
def decOn (g : Dec → Dec) : State := ({ upOn [.decim, .pdm] with loc := { up.loc with clkRun := 1 } } : State).onDec 0 g
/-- PDM with its warm-up over, and one still warming up. -/
def pdmAt (t : DWord) : State := at1 .decim (begun1 .decim { inLife .pdm .starting ({ · with effect := 1 - t }) with loc := { up.loc with clkRun := 1 } })
theorem witness_DecimatorEvents_pdm : ((pdmAt 960).life? .pdm = .starting ∧ max 1 (pdmAt 960).warmTicks ≤ (pdmAt 960).since .pdm) ∧
    (pdmAt 0).since .pdm < max 1 (pdmAt 0).warmTicks ∧ (at1 .decim up).life? .pdm ≠ .starting ∧
    (∀ off ∈ [true, false], (let b := begun1 .decim (inLife .pdm .stopping ({ · with fade := Fade.zero, offReq := off }))
     b.life? .pdm = .stopping ∧ (b.func .pdm).fade.silent = true ∧ (b.func .pdm).offReq = off)) ∧
    (begun1 .decim (inLife .pdm .stopping ({ · with fade := Fade.one }))).life? .pdm = .stopping ∧
    ((begun1 .decim (inLife .pdm .stopping ({ · with fade := Fade.one }))).func .pdm).fade.silent = false := by decide +kernel
/-- A source entry with the class CONTROL. -/
def control : List Byte := [1, 3] ++ List.replicate 14 0
theorem witness_DecimatorEvents : (decOn id).ratioHigh 0 = false ∧
    (let s := decOn ({ · with run := 4032 })
     s.decRuns 0 = true ∧ (s.dec 0).stuck = false ∧ 4096 ≤ (s.dec 0).run + 64) ∧
    ((decOn ({ · with run := 4031 })).dec 0).run + 64 < 4096 ∧ up.decRuns 0 = false ∧
    (let b := begun1 .decim (decOn ({ · with run := 4095, stuck := true }))
     b.decRuns 0 = true ∧ (b.dec 0).stuck = true ∧ (b.chain (0 : Fin 40).val).isSome = true) ∧
    (begun1 .decim up).decRuns 0 = false ∧
    (∀ e ∈ [control, []], let s := decOn ({ · with settle := 1, entry := e })
     s.decRuns 0 = true ∧ (s.dec 0).settle = 1 ∧ (s.dec 0).clearAt = none ∧ (s.dec 0).isControl = (e == control)) ∧
    ((decOn ({ · with settle := 2 })).dec 0).settle ≠ 1 ∧ ((decOn ({ · with clearAt := some 4 })).dec 0).clearAt.isSome = true := by
  decide +kernel
theorem witness_DsyncEvents : ((upOn [.decim]).life? .decim = .running ∧ (upOn [.decim]).dsyncEn = true ∧
      (upOn [.decim]).dsyncHeld = false) ∧ up.life? .decim ≠ .running ∧
    (let b := begun1 .decim { decOn id with loc := { (decOn id).loc with dsyncWait := true } }
     b.loc.dsyncWait = true ∧ (b.life? .decim).busy = true ∧ b.loc.syncSeen ≠ some b.now ∧ b.decRuns 0 = true ∧ b.decRuns 8 = false) ∧
    (let b := begun1 .decim { up with loc := { up.loc with dsyncWait := true } }
     b.loc.dsyncWait = true ∧ (b.life? .decim).busy = false) ∧
    (begun1 .decim up).loc.dsyncWait = false := by decide +kernel
/-- TDM0 runs, as a slave or as a master, with 8 slots. -/
def tdmOn (slave : Bool) (g : Tdm → Tdm) : State := ((upOn [.tdm0]).onFunc .tdm0 fun f => { f with
  config := some ([1, if slave then 1 else 0, 8] ++ List.replicate 13 0) }).onTdm 0 g
theorem witness_TdmEvents : (let s := tdmOn false ({ · with clocks := true })
      (s.life? (tdmFunc 0)).busy = true ∧ s.tdmSlave 0 = false ∧ (s.tdm 0).clocks = true) ∧
    (let s := tdmOn true ({ · with state := 5, badRate := 62, badBck := 62, lastBck := 255 })
     (s.life? (tdmFunc 0)).busy = true ∧ s.tdmSlave 0 = true ∧ (s.tdm 0).state ≠ 6 ∧ (s.tdm 0).state ≠ 2 ∧ (s.tdm 0).good? = true ∧
     ((s.tdm 0).judge (32 * s.tdmSlots 0) 256 20000).badRate = 0 ∧ 256 = 32 * s.tdmSlots 0 ∧
     ((s.tdm 0).judge (32 * s.tdmSlots 0) 255 20001).badRate = 63 ∧ ((s.tdm 0).judge (32 * s.tdmSlots 0) 255 (-20001)).badBck = 63) ∧
    (let s := tdmOn true ({ · with state := 5, badRate := 63, badBck := 63, lastBck := 255 })
     64 ≤ ((s.tdm 0).judge (32 * s.tdmSlots 0) 256 20001).badRate ∧ 64 ≤ ((s.tdm 0).judge (32 * s.tdmSlots 0) 255 0).badBck) ∧
    (let s := tdmOn true ({ · with state := 3, good := (tdmOn true id).tdmStable 0 - 1 })
     (s.tdm 0).good? = false ∧ s.tdmStable 0 ≤ (s.tdm 0).good + 1) ∧
    (let s := tdmOn true ({ · with state := 3 })
     (s.tdm 0).good? = false ∧ (s.tdm 0).good + 1 < s.tdmStable 0) ∧
    (up.life? (tdmFunc 0)).busy = false ∧ ((tdmOn true ({ · with state := 2 })).tdm 0).state = 2 ∧
    ((tdmOn true ({ · with state := 6 })).tdm 0).state = 6 := by decide +kernel

def dCopy : Desc := desc [(0, 0x20), (16, 0x4000), (24, sram), (32, 80)]
def dCapture : Desc := desc [(0, 0x21), (16, sram), (24, 4), (28, 0), (29, 1), (32, 1)]
def dPlay : Desc := desc [(0, 0x22), (16, sram), (24, 4), (28, 0), (29, 1), (32, 1)]
def dLoad (f : Nat) : Desc := desc [(0, 0x23), (2, f), (16, 0x4000), (24, 320)]
def dPol : Desc := desc [(0, 0x51), (2, 0x20), (16, 32), (18, 1), (24, sram)]
def dImp : Desc := desc [(0, 0x52), (2, 0x20), (16, 1), (24, sram)]
def upCap (n : Nat) : State := { upOn [.capture] with
  life := { (upOn [.capture]).life with jobs := List.replicate n (job 1 0x21 (desc [(0, 0x21)])) } }
def upGen : State := { upOn [.capture] with life := { (upOn [.capture]).life with params := [(pidOf .lovage (genPid 0 1), 4)] } }

/-! A core image of one section, signed: the key, the first 64 bytes, their signature, and the body. -/
def imgHead : List Byte :=
  leBytes 4 0x44514D47 ++ [2, 0, 0, 0] ++ leBytes 4 5 ++ leBytes 4 1 ++ leBytes 8 192 ++ List.replicate 8 0 ++
  beBytes 32 0x1423BC553E10DCF77862C51C1DFBCEDA48A6E12DA997295BAB0EB866AB0B8031
def imgSig : List Byte :=
  (List.replicate 2 (beBytes 32 0x7CF27B188D034F7E8A52380304B51AC3C08969E277F21B35A60B48FC47669978)).flatten
def imgCore : List Byte :=
  [1, 0, 1, 0, 0, 0, 0xFF, 0xFF, 0xFF, 0xFF, 0xFF, 0xFF] ++ List.replicate 56 0 ++ leBytes 4 16 ++ leBytes 4 16 ++ leBytes 4 128 ++
  List.replicate 48 0 ++ leBytes 16 0x100F0E0D0C0B0A090807060504030201 ++ List.replicate 48 0
def imgKey : List Byte :=
  beBytes 32 0xDA285CE599F6234FFB458AB4C55488AC92128E8AA4231863683DCF26CA9CD8EC ++
  beBytes 32 0xB1A9384D2EE09FCD71783F28B35F1F1E40451B8DE54F629B68404D11BF2FD3F9
def image : List Byte := imgHead ++ imgSig ++ imgCore
def keyed : State := { up with svc := { up.svc with imageKeys := up.svc.imageKeys.set 0 (some imgKey) } }

/-- A container of a body that holds no core image, and the key it is signed with. -/
def imageBad : List Byte :=
  imgHead.take 16 ++ leBytes 8 64 ++ List.replicate 8 0 ++
  beBytes 32 0xF5A5FD42D16A20302798EF6ED309979B43003D2320D9F0E8EA9831A92759FB4B ++ imgSig ++ List.replicate 64 0
def keyBad : List Byte :=
  beBytes 32 0x9A6AE61234B53233F270AEE84C0ABDAA71051C206752172A43687B32CC5FCFED ++
  beBytes 32 0x1FAD15B9180398F06E83453162BD2EE94FAC4BC5600AA00B08A68445F714AEBD
def keyedBad : State := { up with svc := { up.svc with imageKeys := up.svc.imageKeys.set 0 (some keyBad) } }
/-- Playback runs on ring 1. -/
def playing (n : Nat) : State := { upGen with
  life := { upGen.life with jobs := List.replicate n (job 1 0x22 (desc [(0, 0x22)])) } }

theorem witness_Bulk_copy : Served up 0 dCopy ∧ opcodeOf dCopy = 0x20 ∧ copyForm dCopy = true ∧ copyForm (desc [(0, 0x20)]) = false :=
  ⟨served (by decide +kernel), by decide +kernel⟩
theorem witness_Bulk_capture : Served (upCap 0) 0 dCapture ∧ Served (upCap 8) 0 dCapture ∧ opcodeOf dCapture = 0x21 ∧
    captureForm dCapture = true ∧ (upCap 0).running .capture = true ∧ (upCap 7).runs = 7 ∧ up.running .capture = false ∧
    (upCap 8).running .capture = true ∧ (upCap 8).runs = 8 ∧ captureForm (desc [(0, 0x21)]) = false :=
  ⟨served (by decide +kernel), served (by decide +kernel), by decide +kernel⟩
theorem witness_Bulk_playback : Served upGen 0 dPlay ∧ Served (playing 8) 0 dPlay ∧ opcodeOf dPlay = 0x22 ∧ playbackForm dPlay = true ∧
    (∀ n ∈ [7, 8], (playing n).running .capture = true ∧ (playing n).runs = n ∧
      ∀ k ∈ List.range (playCount dPlay), (playing n).genMode (Fin.ofNat 16 (playFirst dPlay + k)) = 4) ∧
    (∃ k ∈ List.range (playCount dPlay), (upCap 0).genMode (Fin.ofNat 16 (playFirst dPlay + k)) ≠ 4) ∧
    playbackForm (desc [(0, 0x22)]) = false := ⟨served (by decide +kernel), served (by decide +kernel), by decide +kernel⟩
/-- A container that LOAD_IMAGE reads whole for core 5. -/
def loads (s : State) (c : List Byte) (d : Desc) : Bool :=
  opcodeOf d == 0x23 && loadForm d && !s.busWait (fld d 16 8) && descFunc d == some (.sc 5) &&
  (readSource (srv s 0 d) (fld d 16 8) (fld d 24 4) (.data c)).toOption == some c && imgFuncOk (imgType c) (.sc 5) &&
  128 + imgLen c == c.length
def dLoadBad : Desc := desc [(0, 0x23), (2, 0x15), (16, 0x4000), (24, 192)]
theorem witness_Bulk_load : Served keyed 0 (dLoad 0x15) ∧ loads keyed image (dLoad 0x15) = true ∧ keyed.life? (.sc 5) = .off ∧
    bodyOk image = true ∧ imageCheck up image ≠ 0 ∧ loadForm (desc [(0, 0x23)]) = false ∧
    (loads keyedBad imageBad dLoadBad = true ∧ bodyOk imageBad = false) ∧
    (let s := keyed.setLife (.sc 5) .running
     s.life? (.sc 5) ≠ .off ∧ s.life? (.sc 5) ≠ .stopped) := ⟨served (by decide +kernel), by decide +kernel⟩
theorem witness_Bulk_loadServed : (srv keyed 0 (dLoad 0x15)).svc = keyed.svc ∧ (srv keyedBad 0 dLoadBad).svc = keyedBad.svc := by
  decide +kernel
theorem witness_Bulk_tests : Served (upOn [.pch 0, .pdm]) 0 dPol ∧ pchOf dPol = some 0 ∧ pchOf dImp = some 0 ∧ up.chip.variant = .p ∧
    opcodeOf dPol = 0x51 ∧ opcodeOf dImp = 0x52 ∧
    (headerOk dPol false false && payloadOk dPol [(16, 1), (17, 1), (18, 1), (24, 8)] && fld dPol 16 1 ≤ 39 &&
      fld dPol 17 1 ≤ 60 && 1 ≤ fld dPol 18 1 && fld dPol 18 1 ≤ 16 && addrOk (fld dPol 24 8) 8) = true ∧
    (headerOk dImp false false && payloadOk dImp [(16, 1), (24, 8)] && fld dImp 16 1 ≤ 1 && addrOk (fld dImp 24 8) 8) = true ∧
    testReady 0 (upOn [.pch 0]) = true ∧ testReady 0 up = false ∧ up.streamRuns (fld dPol 16 1) = false ∧
    ({ upOn [.pch 0] with chip := { up.chip with linkUp := true } } : State).streamRuns (fld dPol 16 1) = true :=
  ⟨served (by decide +kernel), by decide +kernel⟩

/-- One job in progress on ring 0. -/
def doing (op : Byte) (d : Desc) (g : Job → Job) : State := { up with life := { up.life with jobs := [g (job 0 op d)] } }
def host80 : HostRead := .data (List.replicate 80 7)
theorem witness_Progress_copy : (let j := job 0 0x20 dCopy
    let s := doing 0x20 dCopy id
    s.jobOn 0 0x20 (fun _ => true) = some j ∧ j.silent = false ∧ s.busWait (copySrc j.desc) = false ∧ s.busWait (copyDst j.desc) = false ∧
    copyData s (copySrc j.desc) (copyLen j.desc) host80 = (List.replicate 80 7, 0x00) ∧ s.writable (copyDst j.desc) 80 = 80 ∧
    (copyData s (copySrc j.desc) (copyLen j.desc) .failed).2 ≠ 0x00) ∧
    up.jobOn 0 0x20 (fun _ => true) = none := by decide +kernel
theorem witness_Progress_copyCut : (let d := desc [(0, 0x20), (16, 0x4000), (24, 2 ^ 63 + 0xFFFFFFFFFFFFF0), (32, 80)]
    (doing 0x20 d id).writable (copyDst d) 80 < 80) := by decide +kernel
theorem witness_Progress_image : (let j := { job 0 0x23 (dLoad 0x15) with data := image, phase := 1 }
    let s := doing 0x23 (dLoad 0x15) ({ · with data := image, phase := 1 })
    s.jobOn 0 0x23 (fun j => j.phase == 1) = some j ∧ j.silent = false ∧ (s.ring 0).draining = false ∧
    descFunc j.desc = some (.sc 5) ∧ Memory.wf s.mem = true ∧ imgSections (imgBody j.data) = [(0, 16, 16, 128)] ∧
    coreBodyOk (imgBody j.data) = true ∧ ((s.onRing 0 ({ · with draining := true })).ring 0).draining = true) ∧
    descFunc (dLoad 0x0C) = some .service ∧ up.jobOn 0 0x23 (fun j => j.phase == 1) = none ∧
    imgType (imgHead.set 4 3) = 3 ∧ imgType (imgHead.set 4 1) = 1 := by decide +kernel
/-- A playback run that starts at boundary 128, of which `k` frames have been asked for. -/
def plays (t : DWord) (k : Nat) : Job := { job 0 0x22 dPlay with start := some t, phase := k }
theorem witness_Progress_play : (let s := doing 0x22 dPlay ({ · with start := some 128 })
    s.jobOn 0 0x22 (fun j => tagOf j.desc == 0) = some (plays 128 0) ∧ s.now = 0 ∧ s.busWait (frameAddr dPlay 0) = false ∧
    (readSource s (frameAddr dPlay 0) (frameSize dPlay) .failed).isOk = true) ∧
    (plays 128 0).ahead 0 0 = 128 ∧ (plays 129 0).ahead 0 0 = 129 ∧ (plays 4 0).ahead 0 0 = 4 ∧ (plays 3 0).ahead 0 0 = 3 ∧
    runFrames dPlay = 1 ∧
    (let d := desc [(0, 0x22), (16, 0x4000), (24, 4), (29, 1)]
     runFrames d = 0 ∧ (readSource up (frameAddr d 0) (frameSize d) .failed).isOk = false) ∧
    (let s := { up with host := { up.host with bme := false } }
     s.busWait (frameAddr (desc [(0, 0x22), (16, 0x4000), (24, 4), (29, 1)]) 0) = true) := by decide +kernel
def testRun (polarity : Bool) (l : List (Byte × BitVec 24)) : TestRun := { job := 1, polarity, repeats := 1, results := l }
/-- Channel 0 measures; the boundary `n` is that many ticks after the test's origin. -/
def testing (d : Desc) (r : TestRun) (n : DWord) : State := ({ doing 0x51 d ({ · with start := some 0 }) with
  time := { up.time with tick := n } }).onPch 0 ({ · with test := some r })
def begun (d : Desc) : Job := { job 0 0x51 d with start := some 0 }
theorem witness_Progress_tests : (let r := testRun true []
    let s := testing dPol r 1024
    s.testOn 0 = some (r, begun dPol) ∧ r.polarity = true ∧ r.results.length < r.repeats ∧
    testSince s (begun dPol) = 64 + s.msTicks (200 * r.results.length + 20) ∧
    testSince (testing dPol r 1023) (begun dPol) < 64 + s.msTicks (200 * r.results.length + 20)) ∧
    (let r := testRun true [(1, 9)]
     let s := testing dPol r 1024
     s.testOn 0 = some (r, begun dPol) ∧ r.finished = false ∧ r.repeats ≤ r.results.length ∧ s.busWait (testAddr (begun dPol)) = false ∧
     (begun dPol).silent = false ∧ 0 < r.repeats ∧ s.dstOk (testAddr (begun dPol)) (polarityRecord s r).length = true) ∧
    up.testOn 0 = none := by decide +kernel
theorem witness_Progress_load : (let r := testRun false []
    let s := testing dImp r 513664
    s.testOn 0 = some (r, begun dImp) ∧ r.polarity = false ∧ r.finished = false ∧
    64 + s.msTicks (if fld dImp 16 1 = 0 then 500 else 10700) ≤ testSince s (begun dImp) ∧ s.busWait (testAddr (begun dImp)) = false ∧
    s.dstOk (testAddr (begun dImp)) (loadRecord s (fld dImp 16 1) []).length = true) ∧
    (let d := desc [(0, 0x52), (2, 0x20), (24, sram)]
     let s := testing d (testRun false []) 24064
     64 + s.msTicks (if fld d 16 1 = 0 then 500 else 10700) ≤ testSince s (begun d)) := by decide +kernel
theorem witness_Progress_testsBad : (let d := desc [(0, 0x51), (2, 0x20), (18, 1), (24, 2 ^ 63 + 0xFFFFFFFFFFFFF8)]
    let s := testing d (testRun true [(1, 9)]) 1024
    s.dstOk (testAddr (begun d)) (polarityRecord s (testRun true [(1, 9)])).length = false) := by decide +kernel

/-- Power channel 0 in a state, at boundary `n` of its wait. -/
def pchIn (st : Life) (n : DWord) (g : Pch → Pch) : State := { (((upOn [.sage]).setLife (.pch 0) st).onPch 0 g) with
  time := { up.time with tick := n } }
/-- The boundary of tick 1 on the isolation link, begun by a command; the channel's waits began `back` ticks before. -/
def pchB (st : Life) (back : DWord) (g : Pch → Pch) : State :=
  let s := (pchIn st 0 (fun p => { g p with mark := 1 - back })).onFunc (.pch 0) ({ · with effect := 1 - back })
  begun1 .isolink { s with chip := { s.chip with linkUp := true, vbus := 1500 } }
def fadeIs (x : Fade) (off : Bool) (s : State) : State := s.onFunc (.pch 0) ({ · with fade := x, offReq := off })
theorem witness_PowerStages : (let s := pchIn .starting 48 ({ · with phase := 1 })
      s.life? (.pch 0) = .starting ∧ (s.pch 0).phase = 1 ∧ s.fsHz / 1000 ≤ s.since (.pch 0)) ∧
    (pchIn .starting 47 id).since (.pch 0) < up.fsHz / 1000 ∧ (up.pch 0).phase ≠ 1 ∧
    (let b := pchB .starting (BitVec.ofNat 64 (up.msTicks (1 + up.cmRampMs 0))) ({ · with phase := 2 })
     b.life? (.pch 0) = .starting ∧ (b.pch 0).phase = 2 ∧ b.msTicks (1 + b.cmRampMs 0) ≤ b.since (.pch 0)) ∧
    (let b := pchB .running 0 ({ · with phase := 2, cm := Fade.one })
     b.life? (.pch 0) = .running ∧ (b.pch 0).phase = 2 ∧ (b.pch 0).cm.atFull = true) ∧
    rampDone 0 (pchB .running 0 id) = false ∧ rampDone 0 (pchB .starting 0 ({ · with phase := 2 })) = false := by decide +kernel
theorem witness_PowerStages_stop :
    (let b := fadeIs Fade.zero false (pchB .stopping 0 ({ · with phase := 4 }))
     (b.pch 0).phase = 4 ∧ (b.func (.pch 0)).fade.silent = true) ∧ ((pchB .running 0 id).pch 0).phase ≠ 4 ∧
    ((fadeIs Fade.one false (pchB .stopping 0 ({ · with phase := 4 }))).func (.pch 0)).fade.silent = false ∧
    (∀ e ∈ [(5, 999), (5, 1000), (4, 0)], (let s := pchIn .stopping 0 ({ · with phase := e.1, cm := { Fade.zero with pos := e.2 } })
     (s.pch 0).phase = e.1 ∧ (s.pch 0).cm.pos = e.2)) ∧
    (∀ off ∈ [true, false], ∀ k ∈ [0, 7], (let b := fadeIs Fade.zero off (pchB .stopping 0 ({ · with phase := 1, stopCause := k }))
     b.life? (.pch 0) = .stopping ∧ (b.pch 0).phase = 1 ∧ b.pastMark 0 0 = true ∧ (b.pch 0).stopCause = k ∧
     (b.func (.pch 0)).offReq = off)) ∧
    (pchB .stopping (0 - 1) ({ · with phase := 1 })).pastMark 0 0 = false := by decide +kernel
theorem witness_PowerStages_fast :
    (let s := pchIn .stopping 96 ({ · with phase := 6 })
     (s.pch 0).phase = 6 ∧ s.pastMark 0 (2 * s.fsHz / 1000) = true ∧ (s.life? (.pch 0)).busy = true ∧ (s.pch 0).test = none ∧
     s.chip.supply ≠ .off ∧ (s.pch 0).stopCause = 0) ∧
    (pchIn .stopping 95 ({ · with phase := 6 })).pastMark 0 (2 * up.fsHz / 1000) = false ∧ (up.pch 0).phase ≠ 6 ∧
    ((pchB .running 0 ({ · with chiveWait := 1 })).pch 0).chiveWait = 1 ∧ ((pchB .running 0 id).pch 0).chiveWait ≠ 1 ∧
    (∀ k ∈ [3, 4], (let s := pchIn .running 0 ({ · with phase := k, chiveSrc := 39 })
     (s.pch 0).chiveSrc.toNat < 40 ∧ (s.pch 0).cut = false ∧ (s.pch 0).phase = k)) ∧
    40 ≤ ((pchIn .running 0 ({ · with chiveSrc := 40 })).pch 0).chiveSrc.toNat ∧ ((up.pch 0).phase ≠ 3 ∧ (up.pch 0).phase ≠ 4) ∧
    (let b := pchB .running 0 ({ · with cut := true, chiveSrc := 32 })
     (b.pch 0).cut = true ∧ b.streamRuns (b.pch 0).chiveSrc.toNat = true) ∧
    (let b := pchB .running 0 ({ · with cut := true, chiveSrc := 0 })
     (b.pch 0).cut = true ∧ b.streamRuns (b.pch 0).chiveSrc.toNat = false) ∧ ((pchB .running 0 id).pch 0).cut = false := by decide +kernel
theorem witness_ShortsAndRetry : ((pchIn .running 0 ({ · with phase := 2 })).pch 0).switches = true ∧ (up.pch 0).switches = false ∧
    (up.pch 0).phase = 0 ∧
    (∀ e ∈ [((1 : Nat), Life.running), (3, .running), (2, .starting), (4, .stopping), (6, .running), (6, .stopped), (7, .running)],
      (let s := pchIn e.2 0 ({ · with phase := BitVec.ofNat 3 e.1 })
       (s.pch 0).phase.toNat = e.1 ∧ (s.pch 0).prot ≠ 2 ∧ (s.pch 0).stopCause = 0 ∧ (s.pch 0).toFault = none ∧
       (s.pch 0).test = none ∧ s.life? (.pch 0) = e.2)) ∧
    (let s := pchIn .running 4800 ({ · with prot := 1 })
     (s.pch 0).prot = 1 ∧ (s.pch 0).toFault = none ∧ s.running (.pch 0) = true ∧ s.pastMark 0 (s.sageParam 0 15 * s.fsHz / 1000) = true) ∧
    (pchIn .running 4799 ({ · with prot := 1 })).pastMark 0 (up.sageParam 0 15 * up.fsHz / 1000) = false ∧
    (pchIn .running 4 id).pastMark 0 (up.fsHz / 10000) = true ∧ (pchIn .running 3 id).pastMark 0 (up.fsHz / 10000) = false ∧
    ((pchIn .running 0 ({ · with toFault := some 7 })).pch 0).toFault.isSome = true ∧
    ((pchIn .running 0 ({ · with prot := 2 })).pch 0).prot = 2 ∧ (up.pch 0).prot ≠ 2 := by decide +kernel
theorem witness_ShortsAndRetry_clear : (let b := pchB .running 480000 ({ · with phase := 3 })
     (b.pch 0).phase = 3 ∧ (b.pch 0).prot = 0 ∧ b.pastMark 0 (b.sageParam 0 16 * b.fsHz) = true) ∧
    (let b := pchB .running 479999 ({ · with phase := 3 })
     b.pastMark 0 (b.sageParam 0 16 * b.fsHz) = false) ∧ ((pchB .running 0 ({ · with prot := 1 })).pch 0).prot ≠ 0 := by decide +kernel
theorem witness_SlowProtection_stops : (let s := pchIn .running 0 ({ · with phase := 3 })
    s.watched 0 = true ∧ s.switching 0 = true ∧ (s.life? (.pch 0)).busy = true ∧ s.chip.variant = .p ∧ (s.pch 0).dieStop = false ∧
    (s.pch 0).dieWarn = false ∧ s.running .sage = true ∧ s.pwr.baseStop = false ∧ s.pwr.baseWarn = false ∧
    s.sageParam 0 10 = 1 ∧ (s.pch 0).openLoad = false) ∧ up.watched 0 = false ∧ up.running .sage = false ∧
    ({ up with chip := { up.chip with variant := .l } } : State).chip.variant = .l ∧
    ((pchIn .running 0 ({ · with openLoad := true })).pch 0).openLoad = true ∧
    ({ up.pwr with baseStop := true } : PwrSt).baseStop = true := by decide +kernel
theorem witness_SlowProtection : (∀ k ∈ [2, 3], (let s := pchIn .running 24000 ({ · with zOut := k })
      s.running .sage = true ∧ s.senseBad 0 = false ∧ ((s.fsHz / 2 : Nat) : Int) ≤ (s.now - (s.pch 0).zAt).toInt ∧
      (999 : Word) ≠ 0xFFFFFFFF ∧ s.sageParam 0 11 ≠ 0 ∧ (999 : Word).toNat < s.sageParam 0 11 ∧
      s.sageParam 0 12 ≠ 0 ∧ s.sageParam 0 12 < (100001 : Word).toNat ∧
      (s.pch 0).zOut = k ∧ (s.pch 0).zLow = false ∧ (s.pch 0).zHigh = false)) ∧
    ((pchIn .running 23999 id).now - ((pchIn .running 23999 id).pch 0).zAt).toInt < ((up.fsHz / 2 : Nat) : Int) ∧
    (let s := pchIn .running 24000 ({ · with zIn := 3, zLow := true })
     s.sageParam 0 11 ≤ (1000 : Word).toNat ∧ (100000 : Word).toNat ≤ s.sageParam 0 12 ∧ 3 ≤ (s.pch 0).zIn ∧ (s.pch 0).zLow = true) ∧
    ((upOn [.sage]).onDec 32 ({ · with stuck := true })).senseBad 0 = true ∧
    up.pwr.logicWarn = false ∧ ({ up.pwr with logicWarn := true } : PwrSt).logicWarn = true ∧
    ({ up.pwr with base := 1360 } : PwrSt).base.toInt ≤ 16 * 85 ∧ 16 * 85 < ({ up.pwr with base := 1361 } : PwrSt).base.toInt ∧
    ((pchIn .running 0 ({ · with die := 2160 })).pch 0).die.toInt ≤ 16 * 135 ∧
    16 * 135 < ((pchIn .running 0 ({ · with die := 2161 })).pch 0).die.toInt := by decide +kernel
/-- SAGE runs with channel 0 modelled, at tick `n`. -/
def sageAt (n : DWord) (g : Pch → Pch) : State := { (({ upOn [.sage] with chip := { up.chip with linkUp := true, vbus := 1500 } }.onFunc .sage ({ · with
  config := some ([1, 0, 0, 0] ++ List.replicate 12 0 ++ [1] ++ List.replicate 127 0) })).onPch 0 g) with time := { up.time with tick := n } }
theorem witness_SageCommands : (let s := sageAt 24000 id
    s.running .sage = true ∧ s.chip.linkUp = true ∧ s.sageOn 0 = true ∧ s.sageOn 1 = false ∧ s.updateDue 0 = true ∧
    (s.pch 0).coilMute = false ∧ (s.pch 0).limiting = false ∧ s.senseBad 0 = false ∧ (s.pch 0).reseed = false ∧
    ((s.fsHz / 2 : Nat) : Int) ≤ (s.now - (s.pch 0).winAt).toInt) ∧
    ((sageAt 16 ({ · with sageAt := some 15 })).updateDue 0 = true ∧ (sageAt 15 ({ · with sageAt := some 0 })).updateDue 0 = false) ∧
    ((sageAt 0 ({ · with reseed := true, coilMute := true })).pch 0).reseed = true ∧
    ((sageAt 0 ({ · with reseed := true, coilMute := true })).pch 0).coilMute = true ∧
    ((sageAt 23999 id).now - ((sageAt 23999 id).pch 0).winAt).toInt < ((up.fsHz / 2 : Nat) : Int) ∧
    ((sageAt 0 id).onDec 32 ({ · with stuck := true })).senseBad 0 = true ∧ up.running .sage = false := by decide +kernel
/-- The boundary of tick 1, the last save `back` ticks before it. -/
def savedB (back : DWord) : State := begun1 .isolink { sageAt 0 id with pwr := { (sageAt 0 id).pwr with savedAt := 1 - back } }
theorem witness_SageCommands_save : (savedB 480000).running .sage = true ∧
    ((10 * (savedB 480000).fsHz : Nat) : Int) ≤ ((savedB 480000).now - (savedB 480000).pwr.savedAt).toInt ∧
    ((savedB 479999).now - (savedB 479999).pwr.savedAt).toInt < ((10 * (savedB 479999).fsHz : Nat) : Int) ∧
    (begun1 .isolink up).running .sage = false := by decide +kernel

def xreq (addr : BitVec 40) (len : Nat) (write : Option (List Byte)) : XbarReq := { id := 5, cls := .bulk, addr, len, write }
def sramReq : XbarReq := xreq 0x1000000100 8 none
def sramPut : XbarReq := xreq 0x1000000100 2 (some [1, 2])
def badRank (s : State) : State := { s with memc := { s.memc with failed := 1 } }
/-- One transaction of M7 outstanding behind another that is served. -/
def txn (r : XbarReq) (t : Fin 10) : Txn := { id := 6, req := r, target := t }
def servedTxn : Txn := { id := 4, req := sramReq, target := 2, granted := true, answer := some (0, [9]) }
def xbarOn (l : List Txn) : State := { upOn [.memctl] with memc := { up.memc with txns := up.memc.txns.set 7 l } }
theorem witness_Crossbar : reqTarget (xreq 0x0180000000 8 none) = none ∧
    (reqTarget (xreq 0x1010000000 8 none) = some 6 ∧ reaches 7 6 = false) ∧
    (reqTarget sramReq = some 2 ∧ reaches 7 2 = true ∧ burstOk sramReq 2 = true ∧ burstOk (xreq 0x1000000100 4096 none) 2 = false ∧
      (up.txnsOf 7).length < 32 ∧ up.memc.queued[(7 : Fin 13)] = [] ∧ up.held 7 sramReq = false) ∧
    (let s := { up with memc := { up.memc with draining := 0x80 } }
     s.memc.queued[(7 : Fin 13)] = [] ∧ s.held 7 sramReq = true) ∧
    ((xbarOn (List.replicate 31 servedTxn)).txnsOf 7).length = 31 ∧ ((xbarOn (List.replicate 32 servedTxn)).txnsOf 7).length = 32 ∧
    up.grantee 2 = none := by decide +kernel
/-- The first waiting transaction of M7 for a target. -/
def frontTxn (s : State) (g : Fin 10) : Option Txn := ((s.txnsOf 7).dropWhile fun y => !(y.target == g && !y.granted)).head?
theorem witness_Crossbar_grant : (∀ r ∈ [sramReq, sramPut], (let s := xbarOn [servedTxn, txn r 2]
    s.grantee 2 = some 7 ∧ frontTxn s 2 = some (txn r 2) ∧ reqTarget r = some 2 ∧ burstOk r 2 = true ∧ s.rankFailed r.addr.toNat = false ∧
    s.poisonEnd r.addr.toNat (r.addr.toNat + r.len) = r.addr.toNat + r.len ∧ r.err = .none ∧
    s.readable (2 ^ 63 + r.addr.toNat) r.len = r.len ∧ s.writable (2 ^ 63 + r.addr.toNat) 2 = 2)) ∧
    (let s := xbarOn [{ txn sramPut 2 with abandoned := true }]
     s.grantee 2 = some 7 ∧ (frontTxn s 2).map (·.abandoned) = some true) := by decide +kernel
theorem witness_Crossbar_failed : (let s := badRank (xbarOn [txn (xreq 64 8 none) 1])
    s.grantee 1 = some 7 ∧ frontTxn s 1 = some (txn (xreq 64 8 none) 1) ∧ reqTarget (xreq 64 8 none) = some 1 ∧
    burstOk (xreq 64 8 none) 1 = true ∧ s.rankFailed 64 = true) ∧
    (let r : XbarReq := { xreq 0x1000000000 8 none with addr := 0x1000001000, err := .uncorrectable }
     (xbarOn [txn r 2]).grantee 2 = some 7 ∧ r.err = .uncorrectable ∧ reqTarget r = some 2) ∧
    (let s := { xbarOn [txn sramReq 2] with memc := { (xbarOn [txn sramReq 2]).memc with poison := [0x1000000104] } }
     s.poisonEnd 0x1000000100 0x1000000108 ≠ 0x1000000108 ∧ s.grantee 2 = some 7) ∧
    (let r := xreq 0x1000058000 2 (some [1, 2])
     r.firmware = false ∧ { r with firmware := true }.firmware = true) := by decide +kernel
theorem witness_Crossbar_response : (let s := xbarOn [txn sramReq 2, servedTxn]
      ((s.txnsOf 7).dropWhile fun y => y.id != 4).head? = some servedTxn ∧ ((s.txnsOf 7).dropWhile fun y => y.id != 6).head? =
        some (txn sramReq 2) ∧ servedTxn.answer = some (0, [9]) ∧ (txn sramReq 2).answer = none ∧ s.memc.queued[(7 : Fin 13)] = [] ∧
      ((s.txnsOf 7).dropWhile fun y => y.id != 5) = []) ∧
    ((xbarOn [{ servedTxn with abandoned := true }]).txnsOf 7).any (·.abandoned) = true ∧ (up.txnsOf 7).any (·.abandoned) = false := by
  decide +kernel
theorem witness_Atomic : Memory.wf up.mem = true ∧ isSram 0x1000000100 = true ∧
    up.poisonEnd 0x1000000100 (0x1000000100 + 4) = 0x1000000100 + 4 ∧ isSram 0x1001000000 = false ∧
    (isSram 0x1000000102 = true ∧ 0x1000000102 % 4 ≠ 0 ∧ 0x1000000104 % 8 ≠ 0 ∧ 0x1000000108 % 8 = 0) ∧
    ({ up with memc := { up.memc with poison := [0x1000000100] } } : State).poisonEnd 0x1000000100 (0x1000000100 + 4) ≠ 0x1000000100 + 4 ∧
    (4 ≤ (4 : Fin 13).val ∧ (11 : Fin 13).val ≤ 11 ∧ (3 : Fin 13).val < 4 ∧ 11 < (12 : Fin 13).val) := by decide +kernel
def migBy (g : Mig) (draining : Bool) : State := { doing 0x70 (desc [(0, 0x70)]) id with memc := { up.memc with mig := some g } }.onRing 0
  ({ · with draining })
def mig1 : Mig := { rank := 0, share := 4 }
theorem witness_Dram : ({ up.memc with selfRefresh := 1 } : MemSt).selfRefresh.getLsbD 0 = true ∧ up.memc.selfRefresh.getLsbD 0 = false ∧
    (∀ n ∈ [7, 8], ({ up.memc with owed := up.memc.owed.set 0 n } : MemSt).owed[(0 : Fin 4)] = n) ∧
    ({ upOn [.memctl] with life := { (upOn [.memctl]).life with params := [(pidOf .memctl 9, 1)] } } : State).memParam 9 ≠ 0 ∧
    up.memParam 9 = 0 ∧ up.running .memctl = false ∧ Memory.wf up.mem = true ∧
    (up.memc.mig = none ∧ up.memc.ranks[(0 : Fin 4)] = 0 ∧ up.memc.spareValid = true) ∧ ({ up.memc with spareValid := false } : MemSt).spareValid = false := by
  decide +kernel
/-- MEMCTL runs with CE_LIMIT 2 and `n` errors within the hour. -/
def scrubs (l : List Nat) : State := { upOn [.memctl] with
  life := { (upOn [.memctl]).life with params := [(pidOf .memctl 10, 2)] }
  memc := { up.memc with ceHour := up.memc.ceHour.set 0 l } }
def ceOf (s : State) : List Nat :=
  s.log.poweredS.toNat :: (s.memc.ceHour[(0 : Fin 4)].filter fun e => decide (s.log.poweredS.toNat < e + 3600))
theorem witness_Dram_scrub : (scrubs []).running .memctl = true ∧ (scrubs []).memc.ranks[(0 : Fin 4)] = 0 ∧
    (scrubs []).memParam 10 = 2 ∧ (ceOf (scrubs [])).length < 2 ∧ 2 ≤ (ceOf (scrubs [0])).length ∧ up.memParam 10 = 0 ∧
    ({ up.memc with ranks := up.memc.ranks.set 0 2 } : MemSt).ranks[(0 : Fin 4)] = 2 ∧
    (({ up.memc with ranks := up.memc.ranks.set 0 1 } : MemSt).ranks[(0 : Fin 4)] ≠ 0 ∧
      ({ up.memc with ranks := up.memc.ranks.set 0 1 } : MemSt).ranks[(0 : Fin 4)] ≠ 2) := by decide +kernel
theorem witness_Dram_migration : (let s := migBy { mig1 with job := some 1 } true
    s.memc.mig = some { mig1 with job := some 1 } ∧ (s.migJob { mig1 with job := some 1 }).map (fun j => (j.silent, j.ring)) = some (false, 0) ∧
      (s.ring 0).draining = true ∧ (0 : Fin 4) ≠ s.memc.spare) ∧
    (let s := migBy { mig1 with doneMib := 2047 } false
     s.migJob { mig1 with doneMib := 2047 } = none ∧ { mig1 with doneMib := 2047 }.doneMib < 2048 ∧ (s.ring 0).draining = false) ∧
    (migBy { mig1 with doneMib := 2048 } false).memc.mig = some { mig1 with doneMib := 2048 } ∧ { mig1 with auto := true }.auto = true := by
  decide +kernel

def edgeOn (e : Edge) : State := (upOn [.tdm0, .lovage]).onEdge (.tdm 0) .lovage fun _ => e
def vec1 : Vec := { tick := 1, data := [] }
theorem witness_VectorEvents : edgeExists (.tdm 0) .lovage = true ∧ edgeExists .lovage .lovage = false ∧
    (∀ e ∈ [({ seen := some 0 } : Edge), { seen := some 1 }, { seen := none, fifo := some vec1 }], let s := edgeOn e
     (vectorOf s (.tdm 0) .lovage).map (·.tick) = some 1 ∧ (s.edge (.tdm 0) .lovage).sent = none ∧ (s.edge (.tdm 0) .lovage).paused = none ∧
     (s.life? (consFunc .lovage)).busy = true) ∧
    ((some (0 : DWord)).map fun u => (1 : DWord) == u || decide (2 ^ 63 ≤ ((1 : DWord) - u).toNat)) = some false ∧
    ((some (1 : DWord)).map fun u => (1 : DWord) == u || decide (2 ^ 63 ≤ ((1 : DWord) - u).toNat)) = some true ∧
    ((some (2 : DWord)).map fun u => (1 : DWord) == u || decide (2 ^ 63 ≤ ((1 : DWord) - u).toNat)) = some true ∧
    ((edgeOn { sent := some 1 }).edge (.tdm 0) .lovage).sent = some 1 ∧ ((edgeOn { paused := some vec1 }).edge (.tdm 0) .lovage).paused.isSome = true ∧
    vectorOf up (.tdm 0) .lovage = none ∧ (up.life? (consFunc .lovage)).busy = false := by decide +kernel
theorem witness_VectorEvents_missed : (∀ f ∈ [Life.running, .faulted], let b := begun1 .lovage ((edgeOn {}).setLife .tdm0 f)
     b.consumes .lovage = true ∧ owes b (.tdm 0) = true ∧ (b.edge (.tdm 0) .lovage).fifo = none ∧ b.life? (prodFunc b (.tdm 0)) = f ∧
     (b.edge (.tdm 0) .lovage).seen ≠ some b.now ∧ (b.edge (.tdm 0) .lovage).inMiss = false ∧ 2 ≤ (b.edge (.tdm 0) .lovage).onTime) ∧
    (begun1 .lovage up).consumes .lovage = false ∧
    ((begun1 .lovage (edgeOn { seen := some 1 })).edge (.tdm 0) .lovage).seen = some (begun1 .lovage (edgeOn {})).now ∧
    (let e := ({ fade := { pos := 1, full := 48, step := 1, up := false } } : Edge)
     e.fade.up = false ∧ e.fade.pos ≤ e.fade.step) ∧
    (let e := ({ fade := { pos := 47, full := 48, step := 1, up := true } } : Edge)
     e.fade.up = true ∧ e.fade.full ≤ e.fade.pos + e.fade.step) := by decide +kernel
theorem witness_TickEvents : (up.chip.supply ≠ .off ∧ up.time.accept = none ∧ up.running .timekeeper = false ∧
      (up.func .timekeeper).startReq = false ∧ up.life.acts = [] ∧ up.life.writes = []) ∧ State.reset.chip.supply = .off ∧
    islandRuns .lovage { up with chip := { up.chip with supply := .clocked } } = false ∧ (up.pch 0).phase ≠ 6 ∧
    (let s := due1 (upOn [.lovage])
     s.tokenTick .lovage = some 1 ∧ s.tokenTick .timing = some 1 ∧ (1 : DWord).truncate 16 = (1 : BitVec 16) ∧
     (1 : DWord).truncate 16 ≠ (0 : BitVec 16) ∧ ownerOf .lovage = some .lovage ∧ (s.life? .lovage).busy = true ∧ s.time.loadAt ≠ some 1) ∧
    (due1 up).life? .lovage = .off ∧ ((due1 up).setLife .lovage .faulted).life? .lovage = .faulted ∧ ownerOf (.mac .a) = none ∧
    (due1 up).tokenTick (.mac .a) = some 1 ∧ ({ (due1 up).time with loadAt := some 1 } : TimeSt).loadAt = some 1 := by decide +kernel
theorem witness_TickEvents_spurious : (upOn [.lovage]).tokenTick .lovage = none ∧ (upOn [.lovage]).listens .lovage = true ∧
    ((upOn [.lovage]).copy .lovage + 1).truncate 16 = (1 : BitVec 16) ∧ State.reset.listens .lovage = false ∧
    State.reset.tokenTick .lovage = none ∧ up.tokenTick (.mac .a) = none ∧ up.listens (.mac .a) = true := by decide +kernel

/-- Core 0 RUNNING at a tick, with its record changed; image entries 0x100 and 0x200. -/
def coreOn (tick : DWord) (g : Core → Core) : State := { (upOn [.sc 0]).onCore 0 (fun c => g { c with
  exec := .task, image := { c.image with trapEntry := 0x100, irqEntry := 0x200 } }) with time := { up.time with tick } }
/-- The same with the token of `tick` on its way, and the boundary that a command has begun there. -/
def coreDue (tick : DWord) (g : Core → Core) : State := setCopy (.sc 0) (tick - 1) (coreOn tick g)
def coreB (tick : DWord) (g : Core → Core) : State := opened (.sc 0) tick (setBegun (.sc 0) true (coreDue tick g))
theorem witness_TaskEvents_release : (∀ d ∈ [[], [(3, (9 : Word))]], let b := coreB 1 ({ · with exec := .waiting, dirty := d })
    (coreDue 1 ({ · with exec := .waiting, dirty := d })).tokenTick (.sc 0) = some 1 ∧ b.life.acts = [] ∧ b.life.writes = [] ∧
    b.nextBlock 0 = some 0 ∧ (b.core 0).flight = [] ∧ (b.core 0).aovTrap = none ∧ (b.core 0).xfTrap = false ∧ (b.core 0).dirty = d ∧
    (b.core 0).irqEn &&& (b.core 0).irqPend &&& 0x3E = 0 ∧ Memory.wf b.mem = true ∧ (d.map (·.1)).Nodup) ∧
    (coreB 1 id).nextBlock 0 = none ∧
    (let s := setCopy (.sc 0) 1 (coreOn 1 ({ · with exec := .waiting }))
     s.tokenTick (.sc 0) = none ∧ s.copy (.sc 0) = s.now ∧ s.nextBlock 0 = some 0) := by decide +kernel
theorem witness_TaskEvents_deadline : (let b := coreB 2 id
    let c := b.core 0
    c.inTask = true ∧ c.late = false ∧ c.orphan = false ∧ (c.taskn.toNat + 2) * b.scBlock 0 ≤ b.now.toNat) ∧
    ((coreB 2 ({ · with exec := .waiting })).core 0).inTask = false ∧ ((coreB 2 ({ · with late := true })).core 0).late = true ∧
    ((coreB 2 ({ · with orphan := true })).core 0).orphan = true ∧
    (let s := coreDue 2 id
     let c := s.core 0
     s.tokenTick (.sc 0) = some 2 ∧ c.inTask = true ∧ c.late = false ∧ c.orphan = false ∧
     c.taskn.toNat * s.scBlock 0 + 2 * s.scBlock 0 ≤ (2 : DWord).toNat ∧ c.taskn.toNat * s.scBlock 0 + 4 * s.scBlock 0 ≠ (2 : DWord).toNat ∧
     s.life? (.sc 0) = .running) := by decide +kernel
theorem witness_TaskEvents_timeout : (let b := coreB 4 id
    let c := b.core 0
    c.inHandler = false ∧ c.image.trapEntry ≠ 0xFFFF ∧ c.exec = .task ∧ c.trapTick ≠ b.now ∧ c.orphan = false ∧
    (c.taskn.toNat + 4) * b.scBlock 0 = b.now.toNat) ∧
    (let b := coreB 4 ({ · with trapTick := 4, trap := 6 })
     (b.core 0).trapTick = b.now ∧ bits (b.core 0).trap 3 0 = 6) := by decide +kernel
/-- A core that issues nothing of what stands between it and its bundle. -/
theorem atBundle (s : State) (h : s.issuing 0 = true ∧ (s.core 0).pc ≠ 0xFFF ∧ (s.core 0).flight = [] ∧ (s.core 0).aovTrap = none ∧
    (s.core 0).xfTrap = false ∧ (s.core 0).irqEn &&& (s.core 0).irqPend &&& 0x3E = 0) : s.AtBundle 0 where
  runs := h.1
  notEnd := .inl h.2.1
  noDue f m := by simp [h.2.2.1] at m
  noTrap := ⟨h.2.2.2.1, h.2.2.2.2.1⟩
  noIrq := .inr (.inl h.2.2.2.2.2)
theorem ready (s : State) (k : Nat) (h : s.AtBundle 0) (hk : (s.core 0).stageOk k = true ∧ (s.core 0).stageOn k = true) : s.Ready 0 k :=
  { h with legal := hk.1, on := hk.2 }
theorem inside (c : Core) (h : c.loops = []) : c.inside := .inr fun l e => by simp [h] at e
theorem witness_CoreInterrupts_traps : (let s := coreOn 1 id
    s.issuing 0 = true ∧ (s.core 0).inHandler = false ∧ (s.core 0).image.trapEntry ≠ 0xFFFF ∧ (s.life? (.sc 0)).busy = true) ∧
    (let s := coreOn 1 ({ · with exec := .handler })
     s.issuing 0 = true ∧ (s.core 0).inHandler = true ∧ (s.life? (.sc 0)).busy = true) ∧
    (let s := coreOn 1 (fun c => { c with image := { c.image with trapEntry := 0xFFFF } })
     s.issuing 0 = true ∧ (s.core 0).image.trapEntry = 0xFFFF) ∧ up.issuing 0 = false ∧
    (let s := coreOn 1 ({ · with aovTrap := some (7, false) })
     (s.core 0).aovTrap = some (7, false) ∧ s.issuing 0 = true ∧ (s.core 0).inHandler = false) ∧
    (∀ x ∈ [Exec.task, .init], let s := coreOn 1 ({ · with xfTrap := true, exec := x })
     (s.core 0).xfTrap = true ∧ (s.core 0).aovTrap = none ∧ (s.core 0).exec = x ∧ islandRuns (.sc 0) s = true) ∧
    (up.core 0).aovTrap = none ∧ (up.core 0).xfTrap = false := by decide +kernel
theorem witness_CoreInterrupts_irq : (∀ x ∈ [Exec.task, .init], let s := coreOn 1 ({ · with irqEn := 0x20, irqPend := 0x20, exec := x })
      islandRuns (.sc 0) s = true ∧ (s.core 0).exec = x ∧ (s.core 0).irqEn &&& (s.core 0).irqPend &&& 0x3E ≠ 0 ∧
      (s.core 0).image.irqEntry ≠ 0xFFFF) ∧ (up.core 0).irqEn &&& (up.core 0).irqPend &&& 0x3E = 0 ∧
    (∀ d ∈ [true, false], let s := coreOn 1 fun c => { c with waitXf := some 1, xf := c.xf.set 0 { done := d } }
     (s.core 0).waitXf = some 1 ∧ (s.core 0).xf[(0 : Fin 4)].done = d ∧ ∀ k : Fin 4, (1 : BitVec 4).getLsbD k.val = true → k = 0) ∧
    (up.core 0).waitXf = none ∧ 3 ≤ up.chip.stage.toNat ∧ State.reset.chip.stage.toNat < 3 ∧
    islandRuns (.sc 0) { coreOn 1 id with chip := { up.chip with supply := .clocked } } = false := by decide +kernel
def loop1 : Loop := { first := 0, last := 0, count := 2, stages := 1, rot := true, pass := 1 }
theorem witness_CoreInterrupts_loop : (coreOn 1 ({ · with loops := [loop1] })).AtBundle 0 ∧
    (let c := (coreOn 1 ({ · with loops := [loop1] })).core 0
     c.loops.head? = some loop1 ∧ loop1.last = c.pc ∧ loop1.count + loop1.stages ≤ loop1.pass + 2 ∧ c.inHandler = false) ∧
    (up.core 0).loops = [] ∧ { loop1 with pass := 0 }.pass + 2 < { loop1 with pass := 0 }.count + { loop1 with pass := 0 }.stages :=
  ⟨atBundle _ (by decide +kernel), by decide +kernel⟩
def acc8 (v : Acc) : AccLanes := Vector.replicate 8 v
def lanes8 (v : Word) : Lanes := Vector.replicate 8 v
def land1 (dest : Dest) (val : Landing) : Flight := { due := 3, issued := 1, order := 0, pc := 9, dest, val, handler := false }
theorem witness_CoreLandings : (∀ f ∈ [land1 (.xLow 3 false) (.lanes (lanes8 5)), land1 (.xHigh 3) (.lanes (lanes8 5)),
      land1 (.acc 3 false) (.accSet (acc8 5)), land1 (.acc 3 false) (.accAdd (acc8 5)), land1 (.acc 3 false) (.accSub (acc8 5)),
      land1 (.acc 9 true) (.accPart 1 (lanes8 5)), land1 (.acc 3 true) (.accSum (acc8 5) (acc8 6)), land1 (.asel 0x27 false) (.reg 5),
      land1 (.asel (BitVec.ofNat 6 (0x2B + 4 * (1 : Fin 4).val)) false) (.reg 5), land1 .aov (.reg 0),
      land1 (.mem true 0x40) (.reg 5), land1 (.mem false 0x40) (.lanes (lanes8 5))],
      (let s := coreOn 1 ({ · with flight := [f] })
       islandRuns (.sc 0) s = true ∧ (s.core 0).flight.head? = some f ∧ (s.core 0).aovTrap = none ∧ (s.core 0).xfTrap = false ∧
       s.scAovTrap 0 = false ∧ Memory.wf s.mem = true)) ∧ (up.core 0).flight = [] := by decide +kernel
theorem witness_CoreLandings_overflow : (let f := land1 (.acc 3 false) (.accAdd (acc8 1))
    let s := (coreOn 1 fun c => { c with flight := [f], main := { c.main with a := c.main.a.set 3 (acc8 (2 ^ 79 - 1)) } }).onFunc (.sc 0)
      ({ · with config := some [1, 0, 1, 0] })
    (s.core 0).flight = [f] ∧ s.scAovTrap 0 = true ∧ (s.core 0).aov = 0 ∧
    overflows 80 (((s.core 0).accOf false 3)[(0 : Fin 8)].toInt + (acc8 1)[(0 : Fin 8)].toInt) = true ∧ (s.core 0).exec = .task ∧
    f.handler = false ∧ (s.core 0).image.trapEntry ≠ 0xFFFF) := by decide +kernel
def xfOn (dir : Bool) (st : Exec) (mhi : Byte) : State :=
  coreOn 1 fun c => { c with exec := st, xf := c.xf.set 1 { busy := true, dir, len := 16, mhi } }
theorem witness_CoreLandings_transfers : (∀ dir ∈ [true, false], ∀ mhi ∈ [0x10, 0xFF], (let s := xfOn dir .task mhi
      let x := (s.core 0).xf[(1 : Fin 4)]
      let far := (if x.dir then x.src else x.dst).toNat + x.mhi.toNat * 2 ^ 32
      x.busy = true ∧ islandRuns (.sc 0) s = true ∧ x.dir = dir ∧ xfFarOk s far x.len.toNat (!dir) = (mhi == 0x10) ∧ far < 2 ^ 40)) ∧
    ((xfOn true .waiting 0x10).core 0).exec = .waiting ∧ (3 : BitVec 4) ≠ 0 ∧ (3 : BitVec 4) ≠ 7 ∧ (up.core 0).xf[(0 : Fin 4)].busy = false := by
  decide +kernel
theorem witness_CoreLandings_port : (reaches 8 9 = true ∧ targetOf (coreBase 0 + (0x40000 : BitVec 20).toNat) = some 9 ∧
      burstOk { id := 0, cls := .bulk, addr := BitVec.ofNat 40 (coreBase 0 + 0x40000), len := 2, write := some [1, 2] } 9 = true ∧
      burstOk { id := 0, cls := .bulk, addr := BitVec.ofNat 40 (coreBase 0 + 0x40000), len := 2, write := none } 9 = true ∧
      up.writable (2 ^ 63 + (coreBase 0 + 0x40000)) 2 = 2 ∧ up.readable (2 ^ 63 + (coreBase 0 + 0x40000)) 2 = 2 ∧
      up.poisonEnd (coreBase 0 + 0x40000) (coreBase 0 + 0x40000 + 2) = coreBase 0 + 0x40000 + 2) ∧
    (targetOf (coreBase 0 + 0x58000) = some 9 ∧ up.writable (2 ^ 63 + (coreBase 0 + 0x58000)) 2 ≠ 2 ∧
      burstOk { id := 0, cls := .bulk, addr := BitVec.ofNat 40 (coreBase 0 + 0x58000), len := 2, write := some [1, 2] } 9 = true) ∧
    reaches 10 9 = false := by decide +kernel

theorem ready1 : (coreOn 1 id).Ready 0 0 := ready _ 0 (atBundle _ (by decide +kernel)) (by decide +kernel)
/-- In the first pass of a loop of two stages, stage 1 is predicated off. -/
def loop2 : Loop := { first := 0, last := 9, count := 9, stages := 2, rot := false }
def stageOff : State := coreOn 1 ({ · with loops := [loop2] })
theorem witness_Alu : (coreOn 1 id).Ready 0 (bits (0x12 : BitVec 32) 31 30) ∧ bits (0x12 : BitVec 32) 5 5 = 0 ∧
    bits (0x6 : BitVec 32) 5 3 = 0 ∧ bits (0x3FFF : BitVec 32) 17 14 = 0 ∧ bits (2 : BitVec 32) 17 12 = 0 ∧ bits (2 : BitVec 32) 0 0 = 0 ∧
    bits (2 : BitVec 32) 11 6 = 0 := ⟨ready1, by decide⟩
theorem witness_Alu_forms : up.issuing 0 = false ∧ stageOff.AtBundle 0 ∧ (coreOn 1 ({ · with pc := 0xFFF }) |>.core 0).inside ∧
    ((stageOff.core 0).stageOk (bits (0x40000000 : BitVec 32) 31 30) = true ∧ (stageOff.core 0).stageOn (bits (0x40000000 : BitVec 32) 31 30) = false ∧
    (let s := coreOn 1 id
     s.issuing 0 = true ∧ (s.core 0).inHandler = false ∧ (s.core 0).image.trapEntry ≠ 0xFFFF ∧ (s.core 0).stageOk 1 = false ∧ (s.core 0).stageOk 0 = true) ∧
    ((coreOn 1 ({ · with pc := 0xFFF })).core 0).pc = 0xFFF ∧ (coreOn 1 ({ · with pc := 0xFFF })).issuing 0 = true ∧
    bits (0x20 : BitVec 32) 5 5 ≠ 0 ∧ bits (8 : BitVec 32) 5 3 ≠ 0 ∧ bits (0x4000 : BitVec 32) 17 14 ≠ 0 ∧ bits (1 : BitVec 32) 0 0 ≠ 0 ∧
    bits (0x40 : BitVec 32) 11 6 ≠ 0) := ⟨by decide +kernel, atBundle _ (by decide +kernel), inside _ (by decide +kernel), by decide +kernel⟩
/-- MAC slot words: D3 from X1, X2 and A4. -/
def mw (ad xa xb as : Nat) : BitVec 40 := BitVec.ofNat 40 (ad * 2 ^ 28 + xa * 2 ^ 22 + xb * 2 ^ 16 + as * 2 ^ 12)
theorem witness_MacSlot : (let s := coreOn 1 id
      let c := s.core 0
      s.issuing 0 = true ∧ c.stageOk 0 = true ∧ c.stageOn 0 = true ∧ c.inHandler = false ∧ c.image.trapEntry ≠ 0xFFFF ∧ c.stageOk 1 = false) ∧
    (let w := mw 3 1 2 0
     bits w 39 38 = 0 ∧ bits w 7 0 = 0 ∧ (bits w 11 11 = 1 ∨ bits w 10 8 = 0) ∧ bits w 15 12 = 0) ∧
    (let w := mw 3 0 0 4
     bits w 27 22 = 0 ∧ bits w 21 16 = 0 ∧ bits w 11 8 = 0) ∧
    (bits (mw 0 0 0 0) 31 28 = 0 ∧ bits (mw 0 0 0 0 ||| 1) 7 0 ≠ 0 ∧ bits (mw 0 0 0 0 ||| 0x4000000000) 39 38 = 1 ∧
      bits (mw 3 1 2 0 ||| 0x100) 10 8 ≠ 0 ∧ bits (mw 3 1 2 0 ||| 0x900) 11 11 = 1) ∧
    up.issuing 0 = false ∧
    (∀ l : Fin 8, (acc8 6)[l].toInt = (lanes8 2)[l].toInt * (lanes8 3)[l].toInt) ∧
    (∀ l : Fin 8, (acc8 (3 * 2 ^ 31))[l].toInt = (lanes8 3)[l].toInt * 2 ^ 31) ∧
    ((stageOff.core 0).stageOk 1 = true ∧ (stageOff.core 0).stageOn 1 = false) := by decide +kernel

/-- Move slot words: register, pointer, mode bit, MODV. -/
def vw (reg ptr br modv : Nat) : BitVec 28 := BitVec.ofNat 28 (reg * 2 ^ 16 + ptr * 2 ^ 12 + br * 2 ^ 11 + modv)
def ptrOn (p : Word) (l : BitVec 18) : State := coreOn 1 fun c => { c with main := { c.main with
  p := c.main.p.set 1 p, b := c.main.b.set 1 64, l := c.main.l.set 1 l, m := c.main.m.set 2 4 } }
/-- The three ways of R299 to leave a pointer. -/
theorem witness_MoveSlots_pointers :
    (let w := vw 3 9 0 0x401
     bits w 10 10 = 1 ∧ bits w 11 11 = 0 ∧ 8 ≤ bits w 15 12 ∧ sbits w 9 0 * 32 = 32) ∧
    (let w := vw 3 1 0 2
     bits w 9 3 = 0 ∧ bits w 11 11 = 0 ∧ bits w 15 12 < 8 ∧ 0 < (ptrOn 64 100 |>.core 0).bank.l[(1 : Fin 8)].toNat ∧
     ((ptrOn 64 100 |>.core 0).bank.m[Fin.ofNat 8 (bits w 2 0)]).toInt = 4) ∧
    (let w := vw 3 1 1 0x401
     bits w 11 11 = 1 ∧ bits w 15 12 < 8 ∧ ∃ k ∈ List.range 18, 5 ≤ k ∧ (ptrOn 64 128 |>.core 0).bank.l[(1 : Fin 8)].toNat = 2 ^ k) ∧
    (ptrOn 64 0 |>.core 0).bank.l[(1 : Fin 8)].toNat = 0 ∧
    (¬ ∃ k ∈ List.range 18, 5 ≤ k ∧ (ptrOn 64 100 |>.core 0).bank.l[(1 : Fin 8)].toNat = 2 ^ k) := by decide +kernel
theorem witness_MoveSlots : (let c := (ptrOn 64 0).core 0
      (ptrOn 64 0).issuing 0 = true ∧ c.stageOk 0 = true ∧ c.stageOn 0 = true ∧ c.inHandler = false ∧ c.image.trapEntry ≠ 0xFFFF ∧
      c.bank.p[Fin.ofNat 16 1].toNat % 2 ^ 17 % 32 = 0 ∧ c.bank.p[Fin.ofNat 16 1].toNat % 2 ^ 17 % 4 = 0) ∧
    ((ptrOn 65 0 |>.core 0).bank.p[Fin.ofNat 16 1].toNat % 2 ^ 17 % 32 ≠ 0 ∧ (ptrOn 65 0 |>.core 0).bank.p[Fin.ofNat 16 1].toNat % 2 ^ 17 % 4 ≠ 0) ∧
    (bits (vw 3 1 0 0) 27 26 = 0 ∧ bits (vw 3 1 0 0) 21 20 = 0 ∧ bits (vw 0 1 0 0) 21 16 = 0 ∧ bits (vw 0x13 1 0 0) 21 20 ≠ 0 ∧
      bits (vw 3 1 0 8) 10 10 ≠ 1 ∧ bits (vw 3 1 0 8) 9 3 ≠ 0) ∧
    -- MVAR and MVRA: a pointer, Li, a transfer channel with and without START, IRQ_EN; the sources that trap.
    (bits (vw 1 1 1 0x400) 9 0 = 0 ∧ bits (vw 1 1 1 0x400) 15 10 = 7 ∧ bits (vw 1 8 0 0) 15 10 = 0x20 ∧ bits (vw 1 10 1 0) 15 10 = 0x2A ∧
      bits (vw 1 15 1 0x400) 15 10 = 0x3F ∧ bits (vw 1 14 0 0) 15 10 = 0x38 ∧ bits (vw 1 10 1 0x400) 15 10 % 4 = 3 ∧ bits (vw 1 1 0 1) 9 0 ≠ 0) ∧
    ((stageOff.core 0).stageOk 1 = true ∧ (stageOff.core 0).stageOn 1 = false ∧ bits (0x4000000 : BitVec 28) 27 26 = 1) ∧
    up.issuing 0 = false := by decide +kernel
theorem witness_MoveSlots_start : (let s := coreOn 1 fun c => { c with
      main := { c.main with x := c.main.x.set 1 (lanes8 5) }, xf := c.xf.set 0 { len := 32, src := 64 } }
    let c := s.core 0
    let ch := c.xf[Fin.ofNat 4 ((0x2B - 0x28) / 4)]
    (c.getX 1)[(0 : Fin 8)].getLsbD 0 = true ∧ (c.getX 1)[(0 : Fin 8)].getLsbD 2 = true ∧ ch.busy = false ∧ 32 ≤ ch.len.toNat ∧
    ch.len.toNat ≤ 65536 ∧ ch.len.toNat % 32 = 0 ∧ bits ch.dst 30 17 = 0 ∧ ch.dst.toNat % 32 = 0 ∧ ch.src.toNat % 32 = 0 ∧
    bits ch.dst 16 0 + ch.len.toNat ≤ 0x20000 ∧ (c.getX 1)[(0 : Fin 8)].toNat ≤ 131072) ∧
    (let c := (coreOn 1 fun c => { c with main := { c.main with x := c.main.x.set 1 (lanes8 131073) }
                                          xf := c.xf.set 0 { busy := true } }).core 0
     131072 < (c.getX 1)[(0 : Fin 8)].toNat ∧ (c.getX 1)[(0 : Fin 8)].getLsbD 0 = true ∧ c.xf[Fin.ofNat 4 ((0x2B - 0x28) / 4)].busy = true) ∧
    (bits (vw 0x10 2 0 5) 21 16 = 0x10 ∧ bits (vw 0x1F 2 0 5) 21 16 = 0x1F ∧ bits (vw 0x27 2 0 5) 21 16 = 0x27 ∧
      bits (vw 0x27 2 0 5) 15 0 ≤ 32768 ∧ 0x28 ≤ bits (vw 0x28 2 0 5) 21 16) := by decide +kernel

def cw (target : Nat) (rest : Nat) : BitVec 32 := BitVec.ofNat 32 (target * 2 ^ 12 + rest)
/-- A core in a state, before a bundle that nothing disturbs. -/
theorem controlReady (g : Core → Core) (h : ((coreOn 1 g).issuing 0 = true ∧ ((coreOn 1 g).core 0).pc ≠ 0xFFF ∧ ((coreOn 1 g).core 0).flight = [] ∧
    ((coreOn 1 g).core 0).aovTrap = none ∧ ((coreOn 1 g).core 0).xfTrap = false ∧
    ((coreOn 1 g).core 0).irqEn &&& ((coreOn 1 g).core 0).irqPend &&& 0x3E = 0) ∧
    (((coreOn 1 g).core 0).stageOk 0 = true ∧ ((coreOn 1 g).core 0).stageOn 0 = true) ∧ ((coreOn 1 g).core 0).loops = []) :
    (coreOn 1 g).Ready 0 (bits (cw 9 0x140) 31 30) ∧ ((coreOn 1 g).core 0).inside :=
  ⟨ready _ _ (atBundle _ h.1) (by rw [show bits (cw 9 0x140) 31 30 = 0 from by decide]; exact h.2.1), inside _ h.2.2⟩
theorem witness_ControlSlot : ((coreOn 1 id).Ready 0 (bits (cw 9 0x140) 31 30) ∧ ((coreOn 1 id).core 0).inside) ∧
    ∀ x ∈ [Exec.task, .init], (coreOn 1 ({ · with exec := .handler, retExec := x, trapHandler := true })).Ready 0 (bits (cw 9 0x140) 31 30) ∧
      ((coreOn 1 ({ · with exec := .handler, retExec := x, trapHandler := true })).core 0).inside := by
  refine ⟨controlReady id (by decide +kernel), fun x h => ?_⟩
  simp only [List.mem_cons, List.not_mem_nil, or_false] at h
  rcases h with rfl | rfl
  · exact controlReady _ (by decide +kernel)
  · exact controlReady _ (by decide +kernel)
theorem witness_ControlSlot_forms : (let c := (coreOn 1 id).core 0
      c.inHandler = false ∧ bits (cw 9 0x140) 2 0 = 0 ∧ c.pc < BitVec.ofNat 12 (bits (cw 9 0x140) 23 12) ∧ c.loops.length < 3 ∧ c.loops = [] ∧
      bits (cw 9 0x140) 11 6 ≠ 0 ∧ bits (cw 9 0) 11 6 = 0 ∧ BitVec.ofNat 12 (bits (cw 9 0) 23 12) ≠ (0xFFF : BitVec 12) ∧
      bits (cw 9 0x140) 5 4 = 0 ∧ bits (cw 9 0x10) 5 4 ≠ 0 ∧ c.flight = [] ∧ c.exec = .task ∧ c.image.trapEntry ≠ 0xFFFF ∧
      bits (cw 9 1) 2 0 ≠ 0 ∧ BitVec.ofNat 12 (bits (cw 0 0) 23 12) ≤ c.pc ∧ c.stageOk 0 = true ∧ c.stageOn 0 = true ∧ c.stageOk 1 = false ∧
      (coreOn 1 id).issuing 0 = true ∧ c.irqEn &&& c.irqPend &&& 0x3E = 0) ∧
    (let c := (coreOn 1 ({ · with pc := 0xFFF })).core 0
     c.pc = 0xFFF ∧ c.loops = [] ∧ c.stageOn 0 = true ∧ c.flight = [] ∧ c.aovTrap = none ∧ c.xfTrap = false) ∧
    (∀ l ∈ [{ loop1 with last := 20 }, { loop1 with last := 20, stages := 2 }, { loop1 with last := 9 }],
      ((coreOn 1 ({ · with loops := [l] })).core 0).loops.head? = some l) ∧
    ((coreOn 1 ({ · with loops := [loop1, loop1, loop1] })).core 0).loops.length = 3 ∧ up.issuing 0 = false ∧
    ((coreOn 1 fun c => { c with main := { c.main with x := c.main.x.set 5 (lanes8 7) } }).core 0).getX (Fin.ofNat 64 (bits (cw 9 0x140) 11 6)) ≠
      lanes8 0 ∧ (stageOff.core 0).stageOk 1 = true ∧ (stageOff.core 0).stageOn 1 = false ∧ loop2.last ≠ (stageOff.core 0).pc := by decide +kernel
theorem witness_ControlSlot_end : (let s := coreOn 1 id
     let c := s.core 0
     let e := s.edge (.sc 0) .lovage
     c.orphan = false ∧ c.late = false ∧ s.now.toNat < (c.taskn.toNat + 2) * s.scBlock 0 ∧ (c.taskn.toNat + 2) * s.scBlock 0 < 2 ^ 63 ∧
     e.fifo = none ∧ e.seen = none ∧ e.paused = none ∧ (s.copy (.sc 0)).toNat / s.scBlock 0 ≤ c.firstBlock.toNat) ∧
    ((coreOn 1 ({ · with exec := .init })).core 0).exec = .init ∧
    (let s := coreOn 2 id
     ((s.core 0).taskn.toNat + 2) * s.scBlock 0 ≤ s.now.toNat ∧ (s.core 0).late = false) ∧
    ((coreOn 2 ({ · with late := true })).core 0).late = true ∧ ((coreOn 2 ({ · with orphan := true })).core 0).orphan = true ∧
    (let s := setCopy (.sc 0) 2 (coreOn 1 id)
     ¬ (s.copy (.sc 0)).toNat / s.scBlock 0 ≤ (s.core 0).firstBlock.toNat ∧ (s.core 0).stopping = false ∧ (s.life? (.sc 0)).busy = true) := by
  decide +kernel

theorem witness_Invariants : MemInv State.reset ∧ LogInv State.reset ∧ CntInv State.reset :=
  ⟨rfl, ⟨by decide, by decide⟩, fun e h => absurd h (by simp [State.reset])⟩
theorem witness_NeverUndone : step up = .next up ∧ ({ up.svc with provisioned := true } : SvcSt).provisioned = true ∧
    ({ up.svc with noardRevoked := 1, imageRevoked := 2 } : SvcSt).noardRevoked.getLsbD 0 = true ∧
    ({ up.svc with noardRevoked := 1, imageRevoked := 2 } : SvcSt).imageRevoked.getLsbD 1 = true ∧ up.log.entries.length ≤ 8192 := by
  refine ⟨rfl, ?_⟩; decide

/-! Ill-formed terms: one for each check of WellFormed, which the check refuses. -/
theorem test_wf_streams : (Instr.tickToken .lovage 0 true [[true]]).wf = false := by decide
theorem test_wf_decimatorStreams : (Instr.tickToken .decim 0 true []).wf = false := by decide
theorem test_wf_pdPort : (Instr.pdClassification .a 1 0).wf = false := by decide
theorem test_wf_registerOffset : (Instr.registerWrite 0x00002 0).wf = false := by decide
theorem test_wf_goodAccess : (Instr.bar0BadAccess 0 4 true).wf = false ∧ (Instr.bar0BadAccess 0 0 true).wf = false := by decide
theorem test_wf_counterOffset : (Instr.counterLoRead 0x04101).wf = false := by decide
theorem test_wf_linkSpeed : (Instr.pcieLinkTrained 4 1).wf = false ∧ (Instr.pcieLinkTrained 1 3).wf = false := by decide
theorem test_wf_cause : (Instr.functionFault .lovage 11).wf = false := by decide
theorem test_wf_doorbellPage : (Instr.doorbellReadComplete .host (.data [])).wf = false := by decide
theorem test_wf_block : (Instr.funcConfig 0 dConf (.data [1])).wf = false := by decide +kernel
theorem test_wf_container : (Instr.loadImage 0 (dLoad 0x15) (.data [1])).wf = false := by decide +kernel
def frame (len : Nat) (fcs : Fcs) (vlans : List Vlan) : Frame := { dst := 0x01, src := 0x02, len, fcs, vlans, etype := 0x0800 }
theorem test_wf_frame : (Instr.frameReceive .a (frame 17 .good [])).wf = false ∧ (Instr.forwardCommit .a (frame 17 .good [])).wf = false := by decide
theorem test_wf_noard : (Instr.noardRequest .a 0 none (List.replicate 1501 0)).wf = false := by decide +kernel
theorem test_wf_refQual : (Instr.refQualUpdate [] [0, 0, 0, 0, 0]).wf = false := by decide
theorem test_wf_tdmSlots : (Instr.tdmFrame 0 0 0 0 (List.replicate 33 0)).wf = false := by decide
theorem test_wf_sign : (Instr.polarityImpulse 0 2 0).wf = false := by decide
theorem test_wf_loadRecord : (Instr.loadTestResult 0 []).wf = false := by decide
theorem test_wf_loadPort : (Instr.loadPortAccess 8 0 0 (some [1]) 2).wf = false := by decide
theorem test_wf_xbar : (Instr.xbarRequest 7 (xreq 0 0 none)).wf = false ∧ (Instr.xbarRequest 7 (xreq 0 2 (some [1]))).wf = false := by decide

/-! The spec's worked examples. -/

/-- 00, identifiers and addresses. -/
theorem test_identifiers : pidOf (.pch 2) 0x10 = 0x22000010 ∧ dxBase 5 = 0x1100540000 := by decide
/-- 10, a crosspoint as a parameter. -/
theorem test_crosspointId : pidOf .lovage (0x800000 + xpKey 1040 1537) = 0x06A08601 := by decide
/-- 04, a COPY of 1000 bytes writes 17 blocks; 272 bytes of it are blocks 0 to 4. -/
theorem test_copyBlocks : copyBlocks 0x8000001000001030 1000 = (16, true) ∧ copyBlocks 0x8000001000001030 272 = (5, false) := by decide +kernel
/-- 11, the bit-reversed order of eight words: L 32, M 16. -/
theorem test_bitReversed : [0, 16, 8, 24, 4, 20, 12].map (fun o => bitRevNext 5 2 o 16) = [16, 8, 24, 4, 20, 12, 28] := by decide +kernel
/-- 12, an eight-tap FIR: M0 = -32 wraps at B0, and MODP +72 takes P0 from x[n] - 256 to x[n] + 32. -/
theorem test_firPointer : (let s := fun p => (coreOn 1 fun c => { c with main := { c.main with
      p := c.main.p.set 0 p, b := c.main.b.set 0 0x1000, l := c.main.l.set 0 512, m := c.main.m.set 0 0xFFFFFFE0 } }).core 0
    postModify (s 0x1000) (vw 10 0 0 0) 32 = 0x11E0 ∧ postModify (s 0x1080) (vw 0 0 0 0x448) 4 = 0x11A0) := by decide +kernel
/-- 11, the block budget of B = 8 at 96 kHz. -/
theorem test_budget : ({ (up.onFunc (.sc 0) ({ · with config := some [1, 3, 0, 0] })) with time := { up.time with fs := 3 } } : State).scBudget 0 =
    99744 := by decide +kernel
/-- 13, a custom chain at R = 64. -/
theorem test_chain : (let c : Chain := { n1 := 32, k1 := 4, n2 := 2, k2 := 3, fir := false, sh1 := 20, sh2 := 3, sh3 := 0 }
    c.valid 64 = true ∧ c.span 64 = 220 ∧ c.latency 64 = 3 ∧ c.settle 64 = 4) := by decide +kernel
/-- 14, protecting three frequencies at 48 kHz: g = 105. -/
theorem test_switchingFrequency : selectG 48000 0x1012C #v[603 + 18 * 65536, 1233 + 18 * 65536, 1872 + 10 * 65536, 0] = some 105 := by
  decide +kernel
/-- 15, a hot coil: 154.7 degC. -/
theorem test_coilTemperature : (let s := up.onFunc .sage ({ · with
      config := some (List.replicate 16 0 ++ [1, 0] ++ leBytes 2 3200 ++ leBytes 2 2500 ++ List.replicate 122 0) })
    (s.tMeas 0 4800 * 10 + 2 ^ 47) / 2 ^ 48 = 1547) := by decide +kernel
/-- 16, locating one address: logical rank 1, row 1893, bank group 2 and bank 0. -/
theorem test_dramAddress : logicalRank 0x087656320 = 1 ∧ rowOf (0x087656320 % 2 ^ 31) = 1893 ∧ up.bankOf 0x087656320 = 2 := by decide +kernel
/-- 06, the boundary cases at MAXLEN 1518. -/
theorem test_frameLengths : [(63, Fcs.good, 4), (63, .wrong, 5), (64, .good, 1), (1518, .good, 1), (1519, .good, 6)].all (fun e =>
    match exec (.frameReceive .a (frame e.1 e.2.1 [])) linked with
    | .next t => (List.range 9).all fun i => t.count 1 i == if i = e.2.2 then 1 else if i = 0 ∧ e.2.2 = 1 then e.1 else 0
    | _ => false) = true := by decide +kernel
/-- 13, a slave glitch: 1023 bit-clock periods with 32 slots. -/
theorem test_slaveGlitch : (match exec (.tdmFrame 0 1023 1 0 []) ((tdmOn true ({ · with state := 5 })).onFunc .tdm0 ({ · with
      config := some ([1, 1, 32] ++ List.replicate 13 0) })) with
    | .next t => t.count 0x0A 2 == 1 && (t.tdm 0).state == 3 && t.count 0x0A 0 == 0
    | _ => false) = true := by decide +kernel
/-- 15, a persistent short: the second fault, found by the probe, makes RETRY 2. -/
theorem test_probeFails : (match exec (.probe 1 false) ((upOn [.pch 1, .sage]).onPch 1 ({ · with prot := 2, phase := 1, retry := 1 })) with
    | .next t => (t.pch 1).retry == 2 && t.count 0x21 7 == 1 && (t.pch 1).phase == 0
    | _ => false) = true := by decide +kernel
/-- 00 and FIPS 180-4: the digest of "abc". -/
theorem test_sha256 : sha256 [0x61, 0x62, 0x63] = beBytes 32 0xBA7816BF8F01CFEA414140DE5DAE2223B00361A396177A9CB410FF61F20015AD := by decide +kernel

/-! The checks of R71 on signed containers. -/
theorem witness_Bulk_loadChecked : imageCheck keyed image = 0 := by decide +kernel
theorem witness_Bulk_loadBadChecked : imageCheck keyedBad imageBad = 0 := by decide +kernel

end Sys2Proof.Tests
end

section
/-! PROOFS. A signal core's move slots: the lemmas on their fields, pointers, accesses and traps, and O55. -/

namespace Sys2Proof.Machine

open Sys2Proof

/-! A move slot's memory, rank (R297, R298) and fields (R332). -/

theorem mvRank_eq (slot : MvSlot) : mvRank slot = if slot = .mv1 then 2 else 3 := by cases slot <;> rfl

theorem mvDy_eq (slot : MvSlot) : mvDy slot = decide (slot = .mv2) := by cases slot <;> rfl

theorem mvBase_eq (n : Fin 16) (slot : MvSlot) : mvBase n slot = if slot = .mv1 then dxBase n else dyBase n := by
  cases slot <;> simp [mvBase, mvDy]

theorem bits_lt {m : Nat} (w : BitVec m) (hi lo : Nat) : bits w hi lo < 2 ^ (hi + 1 - lo) := Nat.mod_lt _ (by positivity)

/-- A field of one bit. -/
theorem bits_self {m : Nat} (w : BitVec m) (i : Nat) : bits w i i = (w.getLsbD i).toNat := by
  simp [bits, BitVec.getLsbD, Nat.toNat_testBit]

theorem mvPtr_val (w : BitVec 28) : (mvPtr w).val = bits w 15 12 := Nat.mod_eq_of_lt (bits_lt w 15 12)

theorem mvAddr_toNat (c : Core) (w : BitVec 28) : (mvAddr c w).toNat = c.bank.p[mvPtr w].toNat % 2 ^ 17 :=
  BitVec.toNat_setWidth ..

theorem mvBr_eq_false {w : BitVec 28} (h : bits w 11 11 = 0) : mvBr w = false := by
  rw [bits_self] at h
  exact Bool.toNat_eq_zero.mp h

theorem mvBr_eq_true {w : BitVec 28} (h : bits w 11 11 = 1) : mvBr w = true := by
  rw [bits_self] at h
  exact Bool.toNat_eq_one.mp h

theorem ptrForm_eq (w : BitVec 28) :
    ptrForm w = decide ((bits w 10 10 = 1 ∨ bits w 9 3 = 0) ∧ (bits w 11 11 = 0 ∨ bits w 15 12 < 8)) := by
  rw [bits_self, bits_self, ptrForm, mvModOk, mvImm, mvBr, mvPtr_val]
  cases w.getLsbD 10 <;> cases w.getLsbD 11 <;> simp [beq_eq_decide]

theorem modifier_eq (c : Core) (w : BitVec 28) (unit : Nat) :
    modifier c w unit = if bits w 10 10 = 1 then sbits w 9 0 * unit else (c.bank.m[Fin.ofNat 8 (bits w 2 0)]).toInt := by
  rw [bits_self, modifier, mvImm]
  cases w.getLsbD 10 <;> rfl

/-- The modulo and base registers that go with the pointer (R299). -/
def mvRing (w : BitVec 28) : Fin 8 := Fin.ofNat 8 (bits w 15 12)

theorem mvRing_val {w : BitVec 28} (h : bits w 15 12 < 8) : (mvRing w).val = (mvPtr w).val := by
  rw [mvPtr_val]
  exact Nat.mod_eq_of_lt h

/-! Reverse-carry order (R301). -/

theorem revBits_lt (n x : Nat) : revBits n x < 2 ^ n := by
  induction n generalizing x with
  | zero => exact Nat.one_pos
  | succ n ih =>
    have hlow := ih (x / 2)
    have hbit : x % 2 * 2 ^ n ≤ 1 * 2 ^ n := Nat.mul_le_mul_right _ (by omega)
    rw [revBits, Nat.pow_succ]
    omega

theorem testBit_revBits (n x i : Nat) : (revBits n x).testBit i = (decide (i < n) && x.testBit (n - 1 - i)) := by
  induction n generalizing x with
  | zero => simp [revBits]
  | succ n ih =>
    rw [revBits, Nat.mul_comm, Nat.testBit_two_pow_mul_add _ (revBits_lt n _)]
    by_cases hi : i < n
    · have hk : n - 1 - i + 1 = n + 1 - 1 - i := by omega
      simp [hi, ih, Nat.lt_succ_of_lt hi, Nat.testBit_div_two, hk]
    · by_cases hn : i = n
      · subst hn
        simp [Nat.testBit_zero]
      · have hlt : ¬ i < n + 1 := by omega
        have hne : i - n ≠ 0 := by omega
        have hbit : x % 2 < 2 ^ (i - n) := (Nat.mod_lt _ Nat.two_pos).trans_le (Nat.le_self_pow hne 2)
        simp [hi, hlt, Nat.testBit_lt_two_pow hbit]

theorem toNat_reverse {k : Nat} (x : BitVec k) : x.reverse.toNat = revBits k x.toNat :=
  Nat.eq_of_testBit_eq fun i => by
    rw [testBit_revBits, BitVec.testBit_toNat, BitVec.getLsbD_reverse, BitVec.getMsbD_eq_getLsbD, BitVec.testBit_toNat]

/-- Adding with the carry from left to right is adding the mirrored numbers. -/
theorem bitRevNext_eq (w a off m : Nat) :
    bitRevNext w a off m =
      2 ^ a * ((BitVec.ofNat (w - a) (off / 2 ^ a)).reverse + (BitVec.ofNat (w - a) (m / 2 ^ a)).reverse).reverse.toNat := by
  simp only [bitRevNext, toNat_reverse, BitVec.toNat_add, BitVec.toNat_ofNat, Nat.mul_comm]

theorem bitRevExp_of_two_pow {l : BitVec 18} {k : Nat} (h5 : 5 ≤ k) (h17 : k < 18) (hl : l.toNat = 2 ^ k) :
    bitRevExp l = some k := by
  simp only [bitRevExp, hl, Nat.log2_two_pow]
  rw [if_pos ⟨trivial, h5, by omega⟩]

theorem bitRevExp_isSome (l : BitVec 18) :
    (bitRevExp l).isSome = decide (∃ k ∈ List.range 18, 5 ≤ k ∧ l.toNat = 2 ^ k) := by
  rw [Bool.eq_iff_iff, decide_eq_true_iff]
  constructor
  · intro h
    simp only [bitRevExp] at h
    split at h
    next hk => exact ⟨_, List.mem_range.mpr (by omega), hk.2.1, hk.1⟩
    next => simp at h
  · rintro ⟨k, hk, h5, hl⟩
    rw [bitRevExp_of_two_pow h5 (List.mem_range.mp hk) hl]
    rfl

/-! The pointer after its post-modify (R299). -/

theorem getElem_mvRing {α : Type} {w : BitVec 28} (v : Vector α 8) (h : (mvPtr w).val < 8) : v[(mvPtr w).val] = v[mvRing w] := by
  have hval := mvRing_val (w := w) (mvPtr_val w ▸ h)
  simp only [Fin.getElem_fin, hval]

/-- On a legal pointer form, `ptrOk` fails only where the mode is bit-reversed and R301 does not allow L. -/
theorem ptrOk_eq {w : BitVec 28} (c : Core) (h : ptrForm w = true) :
    ptrOk c w = decide (bits w 11 11 = 0 ∨ ∃ k ∈ List.range 18, 5 ≤ k ∧ (c.bank.l[mvRing w]).toNat = 2 ^ k) := by
  rw [ptrForm_eq, decide_eq_true_iff, bits_self w 11] at h
  rw [bits_self, ptrOk, mvBr]
  cases hb : w.getLsbD 11 with
  | false => simp
  | true =>
    rw [hb] at h
    have h8 : (mvPtr w).val < 8 := mvPtr_val w ▸ h.2.resolve_left Nat.one_ne_zero
    simp [h8, bitRevExp_isSome, getElem_mvRing]

theorem postModify_linear {c : Core} {w : BitVec 28} (unit : Nat) (hbr : bits w 11 11 = 0)
    (h : 8 ≤ bits w 15 12 ∨ (c.bank.l[mvRing w]).toNat = 0) :
    postModify c w unit = c.bank.p[mvPtr w] + BitVec.ofInt 32 (modifier c w unit) := by
  have hb : mvBr w = false := mvBr_eq_false hbr
  rw [← mvPtr_val] at h
  unfold postModify
  split
  next h8 =>
    have hl : c.bank.l[mvRing w] = 0 := BitVec.eq_of_toNat_eq (h.resolve_left (by omega))
    simp [hb, getElem_mvRing, hl, wrapWord]
  next => rfl

theorem postModify_modulo {c : Core} {w : BitVec 28} (unit : Nat) (hbr : bits w 11 11 = 0) (h8 : bits w 15 12 < 8)
    (hl : 0 < (c.bank.l[mvRing w]).toNat) :
    postModify c w unit = c.bank.b[mvRing w] + BitVec.ofInt 32
      (((c.bank.p[mvPtr w]).toNat + modifier c w unit - (c.bank.b[mvRing w]).toNat) % (c.bank.l[mvRing w]).toNat) := by
  have hb : mvBr w = false := mvBr_eq_false hbr
  have hl0 : c.bank.l[mvRing w] ≠ 0 := fun h => by simp [h] at hl
  rw [← mvPtr_val] at h8
  simp only [postModify, h8, hb, getElem_mvRing, hl0, wrapWord, BitVec.ofInt_add, dif_pos, Bool.false_eq_true, if_false,
    BitVec.ofInt_natCast, BitVec.ofNat_toNat, BitVec.setWidth_eq]

theorem postModify_bitReversed {c : Core} {w : BitVec 28} (unit : Nat) {k : Nat} (hbr : bits w 11 11 = 1) (h8 : bits w 15 12 < 8)
    (hk : bitRevExp c.bank.l[mvRing w] = some k) :
    postModify c w unit = c.bank.b[mvRing w] + BitVec.ofNat 32 (bitRevNext k (Nat.log2 unit)
      (c.bank.p[mvPtr w] - c.bank.b[mvRing w]).toNat (BitVec.ofInt 32 (modifier c w unit)).toNat) := by
  have hb : mvBr w = true := mvBr_eq_true hbr
  rw [← mvPtr_val] at h8
  simp only [postModify, h8, hb, getElem_mvRing, hk, wrapWord, dif_pos, if_true, Option.getD_some]

/-- The three modes of R299 and R301: where one of them gives `q`, the form is allowed and the pointer becomes `q`. -/
theorem postModify_of_mode {c : Core} {w : BitVec 28} {size low : Nat} {q : Word} (hlow : Nat.log2 size = low)
    (hform : ptrForm w = true)
    (h : (bits w 11 11 = 0 ∧ (8 ≤ bits w 15 12 ∨ (c.bank.l[mvRing w]).toNat = 0) ∧
          q = c.bank.p[mvPtr w] + BitVec.ofInt 32 (modifier c w size)) ∨
      (bits w 11 11 = 0 ∧ bits w 15 12 < 8 ∧ 0 < (c.bank.l[mvRing w]).toNat ∧
          q = c.bank.b[mvRing w] + BitVec.ofInt 32
            (((c.bank.p[mvPtr w]).toNat + modifier c w size - (c.bank.b[mvRing w]).toNat) % (c.bank.l[mvRing w]).toNat)) ∨
      (bits w 11 11 = 1 ∧ ∃ k ∈ List.range 18, 5 ≤ k ∧ (c.bank.l[mvRing w]).toNat = 2 ^ k ∧
          q = c.bank.b[mvRing w] + BitVec.ofNat 32 (2 ^ low *
            ((BitVec.ofNat (k - low) ((c.bank.p[mvPtr w] - c.bank.b[mvRing w]).toNat / 2 ^ low)).reverse +
             (BitVec.ofNat (k - low) ((BitVec.ofInt 32 (modifier c w size)).toNat / 2 ^ low)).reverse).reverse.toNat))) :
    ptrOk c w = true ∧ postModify c w size = q := by
  rw [ptrOk_eq c hform, decide_eq_true_iff]
  rcases h with ⟨hbr, hl, rfl⟩ | ⟨hbr, h8, hl, rfl⟩ | ⟨hbr, k, hk, h5, hl, rfl⟩
  · exact ⟨.inl hbr, postModify_linear size hbr hl⟩
  · exact ⟨.inl hbr, postModify_modulo size hbr h8 hl⟩
  · refine ⟨.inr ⟨k, hk, h5, hl⟩, ?_⟩
    rw [ptrForm_eq, decide_eq_true_iff] at hform
    have h8 : bits w 15 12 < 8 := hform.2.resolve_left (by omega)
    rw [postModify_bitReversed size hbr h8 (bitRevExp_of_two_pow h5 (List.mem_range.mp hk) hl), hlow, bitRevNext_eq]

/-! One core of the state. -/

theorem State.onCore_onCore (n : Fin 16) (g h : Core → Core) (s : State) :
    (s.onCore n g).onCore n h = s.onCore n fun c => h (g c) := by
  simp [State.onCore, vmod]

theorem State.onCore_congr {n : Fin 16} {g h : Core → Core} {s : State} (e : g (s.core n) = h (s.core n)) :
    s.onCore n g = s.onCore n h := by
  rw [State.core] at e
  rw [State.onCore, State.onCore, vmod, vmod, e]

/-! A trap that TRAP_ENTRY takes (R308). -/

/-- The core in its trap handler, in place of the bundle at its program counter. -/
def Core.inTrap (cause : BitVec 4) (now : DWord) (c : Core) : Core := { c with
  exec := .handler, pc := c.image.trapEntry.truncate 12, retPc := c.pc, retExec := c.exec
  trapHandler := true, trapTick := now, waitXf := none
  trap := BitVec.ofNat 32 (cause.toNat + 16 + 2 ^ 16 * c.pc.toNat)
  flight := c.flight.filter fun f => f.issued != c.cycle }

/-- A core that is in no handler enters its trap handler, if it has one. -/
theorem trapHere_eq {n : Fin 16} {s : State} (cause : BitVec 4) (hh : (s.core n).inHandler = false)
    (ht : (s.core n).image.trapEntry ≠ 0xFFFF) : trapHere n cause s = s.onCore n (·.inTrap cause s.now) := by
  have hfatal : ((s.core n).inHandler || (s.core n).image.trapEntry == 0xFFFF) = false := by
    rw [hh, Bool.false_or]
    exact beq_false_of_ne ht
  simp only [trapHere, takeTrap, coreTrap, hfatal, Bool.false_eq_true, if_false, State.onCore_onCore]
  exact State.onCore_congr rfl

theorem does_trapHere {i : Instr} {n : Fin 16} {s : State} {cause : BitVec 4} (hi : exec i s = .next (trapHere n cause s))
    (hh : (s.core n).inHandler = false) (ht : (s.core n).image.trapEntry ≠ 0xFFFF) :
    Does i s [.cores] fun t => Trapped s t n cause := by
  rw [trapHere_eq cause hh ht] at hi
  have ho : Touch [.cores] s (s.onCore n (·.inTrap cause s.now)) := (Touch.refl _ s).onCore rfl
  exact ⟨_, hi, ho.queue, ho.frame, State.core_onCore .., fun m hm => State.core_onCore_ne _ _ hm⟩

/-! What issuing a slot comes to (R319, R320, R338). -/

/-- Core `n` issues bundles, and the loop in hand admits a slot of stage `stg` and lets it issue. -/
structure State.SlotRuns (s : State) (n : Fin 16) (stg : Nat) : Prop where
  issues : s.issuing n = true
  legal : (s.core n).stageOk stg = true
  on : (s.core n).stageOn stg = true

section
variable {s : State} {n : Fin 16} {stg : Nat} {form : Bool} {ok : Core → Bool} {body : Core → State → State}

theorem slotOp_idle (h : s.issuing n = false) : slotOp n stg form ok body s = s := by simp [slotOp, h]

theorem slotOp_off (hl : (s.core n).stageOk stg = true) (ho : (s.core n).stageOn stg = false) (hf : form = true) :
    slotOp n stg form ok body s = s := by
  simp [slotOp, hl, ho, hf]

theorem slotOp_illegalForm (hi : s.issuing n = true) (h : (s.core n).stageOk stg = false ∨ form = false) :
    slotOp n stg form ok body s = trapHere n 3 s := by
  have hbad : (form && (s.core n).stageOk stg) = false := by
    rw [Bool.and_eq_false_iff]
    exact h.symm
  simp [slotOp, hi, hbad]

theorem slotOp_illegalValue (h : s.SlotRuns n stg) (hok : ok (s.core n) = false) :
    slotOp n stg form ok body s = trapHere n 3 s := by
  cases form with
  | false => exact slotOp_illegalForm h.issues (.inr rfl)
  | true => simp [slotOp, h.issues, h.legal, h.on, hok]

theorem slotOp_runs (h : s.SlotRuns n stg) (hf : form = true) (hok : ok (s.core n) = true) :
    slotOp n stg form ok body s = body (s.core n) s := by
  simp [slotOp, h.issues, h.legal, h.on, hf, hok]

end

section
variable {s : State} {n : Fin 16} {slot : MvSlot} {w : BitVec 28} {size : Nat} {ok : Bool} {body : Core → State → State}

theorem access_misaligned (h : s.SlotRuns n (mvStg w)) (hok : ok = true) (hform : ptrForm w = true)
    (hptr : ptrOk (s.core n) w = true) (ha : (mvAddr (s.core n) w).toNat % size ≠ 0) :
    access n slot w size ok body s = .next (trapHere n 2 s) := by
  simp [access, h.issues, h.legal, h.on, hok, hform, hptr, ha]

/-- An access that is aligned, or would not be made, is a slot operation that moves the pointer. -/
theorem access_eq_slotOp (h : s.SlotRuns n (mvStg w) → ok = true → ptrForm w = true → ptrOk (s.core n) w = true →
      (mvAddr (s.core n) w).toNat % size = 0) :
    access n slot w size ok body s =
      .next (slotOp n (mvStg w) (ok && ptrForm w) (ptrOk · w) (fun c s => issuePtr n slot w size (body c s)) s) := by
  refine if_neg fun hc => ?_
  simp only [Bool.and_eq_true, bne_iff_ne] at hc
  obtain ⟨⟨⟨⟨⟨⟨hi, hl⟩, ho⟩, hok⟩, hform⟩, hptr⟩, ha⟩ := hc
  exact ha (h ⟨hi, hl, ho⟩ hok hform hptr)

end

/-- A post-modify whose mode R301 does not allow, or whose form R333 does not. -/
theorem slotOp_illegalMode {s : State} {n : Fin 16} {w : BitVec 28} {ok : Bool} {body : Core → State → State}
    (h : s.SlotRuns n (mvStg w)) (hp : ptrForm w = true → ptrOk (s.core n) w = false) :
    slotOp n (mvStg w) (ok && ptrForm w) (ptrOk · w) body s = trapHere n 3 s := by
  cases hform : ptrForm w with
  | false => exact slotOp_illegalForm h.issues (.inr (Bool.and_false _))
  | true => exact slotOp_illegalValue h (hp hform)

theorem access_illegalMode {s : State} {n : Fin 16} {slot : MvSlot} {w : BitVec 28} {size : Nat} {ok : Bool}
    {body : Core → State → State} (h : s.SlotRuns n (mvStg w)) (hp : ptrForm w = true → ptrOk (s.core n) w = false) :
    access n slot w size ok body s = .next (trapHere n 3 s) := by
  rw [access_eq_slotOp fun _ _ hform hptr => absurd hptr (by simp [hp hform]), slotOp_illegalMode h hp]

/-! A move slot that does not issue, or whose form is not allowed. -/

/-- A slot operation leaves the state while its core issues nothing or its stage is predicated off, and traps with ILLEGAL where
its stage or its form is not allowed (R319, R320, R338). -/
structure Gated (i : Instr) (s : State) (n : Fin 16) (stg : Nat) (form : Bool) : Prop where
  idle : s.issuing n = false → exec i s = .next s
  off : (s.core n).stageOk stg = true → (s.core n).stageOn stg = false → form = true → exec i s = .next s
  illegal : s.issuing n = true → (s.core n).stageOk stg = false ∨ form = false → exec i s = .next (trapHere n 3 s)

theorem gated_of_slotOp {i : Instr} {s : State} {n : Fin 16} {stg : Nat} {form form' : Bool} {ok : Core → Bool}
    {body : Core → State → State} (hi : exec i s = .next (slotOp n stg form ok body s)) (hf : form = form') :
    Gated i s n stg form' where
  idle h := by rw [hi, slotOp_idle h]
  off hl ho hform := by rw [hi, slotOp_off hl ho (hf.trans hform)]
  illegal h hbad := by rw [hi, slotOp_illegalForm h (hf ▸ hbad)]

theorem gated_of_access {i : Instr} {s : State} {n : Fin 16} {slot : MvSlot} {w : BitVec 28} {size : Nat} {ok form : Bool}
    {body : Core → State → State} (hi : exec i s = access n slot w size ok body s) (hf : (ok && ptrForm w) = form) :
    Gated i s n (mvStg w) form where
  idle h := by
    rw [hi, access_eq_slotOp fun hr => absurd hr.issues (by simp [h]), slotOp_idle h]
  off hl ho hform := by
    rw [hi, access_eq_slotOp fun hr => absurd hr.on (by simp [ho]), slotOp_off hl ho (hf.trans hform)]
  illegal h hbad := by
    rw [← hf] at hbad
    rw [hi, access_eq_slotOp fun hr hok hform => absurd hbad (by simp [hr.legal, hok, hform]), slotOp_illegalForm h hbad]

/-- The clauses of a gated operation as the statements write them: with its trap as one that TRAP_ENTRY takes. -/
theorem Gated.outcomes {i : Instr} {s : State} {n : Fin 16} {stg : Nat} {form : Bool} (h : Gated i s n stg form) :
    (s.issuing n = false → exec i s = .next s) ∧
    (s.issuing n = true → (s.core n).stageOk stg = true → (s.core n).stageOn stg = false → form = true → exec i s = .next s) ∧
    (s.issuing n = true → (s.core n).inHandler = false → (s.core n).image.trapEntry ≠ 0xFFFF →
      (s.core n).stageOk stg = false ∨ form = false → Does i s [.cores] fun t => Trapped s t n 3) :=
  ⟨h.idle, fun _ => h.off, fun hi hh ht hbad => does_trapHere (h.illegal hi hbad) hh ht⟩

/-! Results in flight. -/

theorem leaves_issueMv {i : Instr} {s : State} {n : Fin 16} {slot : MvSlot} {stg : Nat} {form : Bool} {ok : Core → Bool}
    {body : Core → State → State} {d : Nat} {dest : Dest} {val : Landing} (h : s.SlotRuns n stg) (hf : form = true)
    (hok : ok (s.core n) = true) (hi : exec i s = .next (slotOp n stg form ok body s))
    (hbody : body (s.core n) s = issueMv n slot d dest val s) : Leaves i s n (.issue d (mvRank slot) dest val) := by
  rw [slotOp_runs h hf hok, hbody] at hi
  exact hi

/-- Core `k` with the pointer's new value issued, latency 1 (R299). -/
def Core.movePtr (slot : MvSlot) (w : BitVec 28) (sh : Bool) (q : Word) (k : Core) : Core :=
  k.issue 1 (mvRank slot) (.asel (BitVec.ofNat 6 (bits w 15 12)) sh) (.reg q)

theorem issuePtr_eq (n : Fin 16) (slot : MvSlot) (w : BitVec 28) (unit : Nat) (s : State) :
    issuePtr n slot w unit s = s.onCore n (·.movePtr slot w (s.core n).inHandler (postModify (s.core n) w unit)) := by
  rw [issuePtr, mvPtr_val]
  rfl

/-- Core `k` after an access of latency `d` and the pointer's move to `q`. -/
def Core.accessed (slot : MvSlot) (w : BitVec 28) (sh : Bool) (q : Word) (d : Nat) (dest : Dest) (val : Landing) (k : Core) : Core :=
  (k.issue d (mvRank slot) dest val).movePtr slot w sh q

theorem issuePtr_issueMv (n : Fin 16) (slot : MvSlot) (w : BitVec 28) (unit d : Nat) (dest : Dest) (val : Landing) (s : State) :
    issuePtr n slot w unit (issueMv n slot d dest val s) =
      s.onCore n (.accessed slot w (s.core n).inHandler (postModify (s.core n) w unit) d dest val) := by
  rw [issuePtr_eq, issueMv, State.onCore_onCore, State.core_onCore]
  rfl

/-- The access of a slot that issues is legal and aligned, and leaves its pointer at `q`. -/
structure State.Accesses (s : State) (n : Fin 16) (w : BitVec 28) (size : Nat) (q : Word) : Prop where
  runs : s.SlotRuns n (mvStg w)
  form : ptrForm w = true
  ptr : ptrOk (s.core n) w = true
  aligned : (mvAddr (s.core n) w).toNat % size = 0
  next : postModify (s.core n) w size = q

theorem leaves_access {i : Instr} {s : State} {n : Fin 16} {slot : MvSlot} {w : BitVec 28} {size d : Nat} {ok : Bool} {q : Word}
    {body : Core → State → State} {dest : Dest} {val : Landing} (h : s.Accesses n w size q) (hok : ok = true)
    (hi : exec i s = access n slot w size ok body s) (hbody : body (s.core n) s = issueMv n slot d dest val s) :
    Leaves i s n (.accessed slot w (s.core n).inHandler q d dest val) := by
  have hform : (ok && ptrForm w) = true := by rw [hok, h.form]; rfl
  rw [access_eq_slotOp fun _ _ _ _ => h.aligned, slotOp_runs h.runs hform h.ptr, hbody, issuePtr_issueMv, h.next] at hi
  exact hi

/-! What the move slots load, store and write (R333, R334). -/

theorem lanes_ext {α : Type} {u v : Vector α 8} (h : ∀ k : Fin 8, u[k] = v[k]) : u = v :=
  Vector.ext fun k hk => h ⟨k, hk⟩

theorem localWords_eq {n : Fin 16} {slot : MvSlot} {a : BitVec 17} {s : State} {v : Lanes}
    (h : ∀ k : Fin 8, v[k] = BitVec.ofNat 32 (ofLe (s.read (mvBase n slot + a.toNat + 4 * k) 4))) : localWords n slot a s = v :=
  lanes_ext fun k => by rw [h k]; simp [localWords]

theorem localWords_first (n : Fin 16) (slot : MvSlot) (a : BitVec 17) (s : State) :
    (localWords n slot a s)[0] = BitVec.ofNat 32 (ofLe (s.read (mvBase n slot + a.toNat + 4 * 0) 4)) := by
  simp [localWords]

theorem toInt_topPart (a : Acc) : ((a.extractLsb' 64 16).signExtend 32).toInt = a.toInt / 2 ^ 64 := by
  have hlt : a.toNat < 2 ^ 80 := a.isLt
  rw [BitVec.toInt_signExtend_of_le (by decide), BitVec.toInt_extractLsb', BitVec.toInt_eq_toNat_bmod, Nat.shiftRight_eq_div_pow,
    Int.bmod_def, Int.bmod_def]
  omega

theorem stal_lanes {v : Lanes} {a : AccLanes} (h : ∀ k : Fin 8, v[k].toNat = a[k].toNat % 2 ^ 32) :
    mapLanes (fun x : Acc => x.truncate 32) a = v :=
  lanes_ext fun k => BitVec.eq_of_toNat_eq <| by rw [h k]; simp [mapLanes]

theorem stam_lanes {v : Lanes} {a : AccLanes} (h : ∀ k : Fin 8, v[k].toNat = a[k].toNat / 2 ^ 32 % 2 ^ 32) :
    mapLanes (fun x : Acc => x.extractLsb' 32 32) a = v :=
  lanes_ext fun k => BitVec.eq_of_toNat_eq <| by rw [h k]; simp [mapLanes, Nat.shiftRight_eq_div_pow]

theorem stah_lanes {v : Lanes} {a : AccLanes} (h : ∀ k : Fin 8, v[k].toInt = a[k].toInt / 2 ^ 64) :
    mapLanes (fun x : Acc => (x.extractLsb' 64 16).signExtend 32) a = v :=
  lanes_ext fun k => BitVec.toInt_inj.mp <| by rw [h k, ← toInt_topPart]; simp [mapLanes]

theorem lane0_eq {v : Lanes} {x : Word} (h0 : v[0] = x) (h : ∀ k : Fin 8, k ≠ 0 → v[k] = 0) : lane0 x = v :=
  lanes_ext fun k => by
    by_cases hk : k = 0
    · subst hk
      simpa [lane0] using h0.symm
    · simpa [lane0, hk] using (h k hk).symm

theorem mvAsel_toNat (w : BitVec 28) : (mvAsel w).toNat = bits w 15 10 := Nat.mod_eq_of_lt (bits_lt w 15 10)

theorem mvLiaSel_toNat (w : BitVec 28) : (mvLiaSel w).toNat = bits w 21 16 := Nat.mod_eq_of_lt (bits_lt w 21 16)

theorem selForm_eq (i : BitVec 6) : selForm i = (decide (i.toNat < 0x38) || i.toNat == 0x3F) := by
  rw [selForm, Bool.eq_iff_iff]
  simp [BitVec.toNat_eq]

theorem selOk_pointer {c : Core} {i : BitVec 6} (v : Word) (h : i.toNat < 0x20) : selOk c i v = true := if_pos h

theorem selOk_length {c : Core} {i : BitVec 6} {v : Word} (h : 0x20 ≤ i.toNat) (h' : i.toNat < 0x28) :
    selOk c i v = decide (v.toNat ≤ 131072) := by
  simp [selOk, Nat.not_lt.mpr h, h']

theorem selOk_transfer {c : Core} {i : BitVec 6} {v : Word} (h : 0x28 ≤ i.toNat) (h' : i.toNat < 0x38) :
    selOk c i v = if i.toNat % 4 = 3 ∧ bit v 0 = true then xfFieldsOk c.xf[Fin.ofNat 4 ((i.toNat - 0x28) / 4)] v else true := by
  have hk : (i.toNat - 40) % 4 = i.toNat % 4 := by omega
  have h32 : ¬ i.toNat < 32 := by omega
  simp only [selOk, h32, Nat.not_lt.mpr h, h', hk, if_false, if_true]

theorem liaValue_offset {w : BitVec 28} (h : 0x10 ≤ bits w 21 16) (h' : bits w 21 16 < 0x18) :
    liaValue w = BitVec.ofInt 32 (sbits w 15 0) := if_pos ⟨h, h'⟩

theorem liaValue_scaled {w : BitVec 28} (h : bits w 21 16 < 0x10 ∨ 0x18 ≤ bits w 21 16) :
    liaValue w = BitVec.ofNat 32 (bits w 15 0 * 4) := if_neg (by omega)

theorem liaValue_scaled_toNat (w : BitVec 28) : (BitVec.ofNat 32 (bits w 15 0 * 4)).toNat = bits w 15 0 * 4 := by
  have := bits_lt w 15 0
  exact Nat.mod_eq_of_lt (by omega)

/-- A write of `v` to CTRL would start this channel's transfer: idle, a length and two addresses that R309 allows. -/
def Xf.Starts (x : Xf) (v : Word) : Prop :=
  let near := if v.getLsbD 2 then x.dst else x.src
  let far := if v.getLsbD 2 then x.src else x.dst
  x.busy = false ∧ 32 ≤ x.len.toNat ∧ x.len.toNat ≤ 65536 ∧ x.len.toNat % 32 = 0 ∧ bits near 30 17 = 0 ∧
    near.toNat % 32 = 0 ∧ far.toNat % 32 = 0 ∧ bits near 16 0 + x.len.toNat ≤ 0x20000

theorem xfFieldsOk_of_starts {x : Xf} {v : Word} (h : x.Starts v) : xfFieldsOk x v = true := by
  obtain ⟨hidle, hmin, hmax, hlen, hnear, hnearAligned, hfar, hend⟩ := h
  rw [← bit] at hnear hnearAligned hfar hend
  simp [xfFieldsOk, hidle, hmin, hmax, hlen, hnear, hnearAligned, hfar, hend]

/-- The writes that R333, R334 and R309 allow. -/
theorem selOk_of_legal {c : Core} {sel : BitVec 6} {v : Word}
    (h : sel.toNat < 0x20 ∨ (sel.toNat < 0x28 ∧ v.toNat ≤ 131072) ∨
      (0x28 ≤ sel.toNat ∧ sel.toNat < 0x38 ∧ (sel.toNat % 4 ≠ 3 ∨ v.getLsbD 0 = false ∨
        c.xf[Fin.ofNat 4 ((sel.toNat - 0x28) / 4)].Starts v)) ∨ sel = 0x3F) :
    selForm sel = true ∧ selOk c sel v = true := by
  have hform : sel.toNat < 0x38 → selForm sel = true := fun hlt => by simp [selForm_eq, hlt]
  rcases h with h | ⟨h, hv⟩ | ⟨h, h', hstart⟩ | rfl
  · exact ⟨hform (by omega), selOk_pointer v h⟩
  · refine ⟨hform (by omega), ?_⟩
    by_cases h32 : sel.toNat < 0x20
    · exact selOk_pointer v h32
    · rw [selOk_length (by omega) h, decide_eq_true hv]
  · refine ⟨hform h', ?_⟩
    rw [selOk_transfer h h']
    split
    next hs => exact xfFieldsOk_of_starts ((hstart.resolve_left (· hs.1)).resolve_left (by rw [← bit, hs.2]; decide))
    next => rfl
  · exact ⟨rfl, rfl⟩

/-- A START on a busy channel, and a length above 131072 (R309, R333). -/
theorem selOk_of_illegal {c : Core} {sel : BitVec 6} {k : Nat} {v : Word} (hk : sel.toNat = k)
    (h : (0x20 ≤ k ∧ k < 0x28 ∧ 131072 < v.toNat) ∨
      (0x28 ≤ k ∧ k < 0x38 ∧ k % 4 = 3 ∧ v.getLsbD 0 = true ∧ c.xf[Fin.ofNat 4 ((k - 0x28) / 4)].busy = true)) :
    selOk c sel v = false := by
  subst hk
  rcases h with ⟨h, h', hv⟩ | ⟨h, h', hctrl, hstart, hbusy⟩
  · rw [selOk_length h h', decide_eq_false (by omega)]
  · rw [selOk_transfer h h', if_pos ⟨hctrl, hstart⟩, xfFieldsOk, hbusy]
    rfl

/-- MVNOP does nothing in either slot (R333). -/
theorem exec_mvnop_eq (n : Fin 16) (slot : MvSlot) (w : BitVec 28) (s : State) :
    exec (.mvnop n slot w) s = .next (slotOp n (mvStg w) true (fun _ => true) (fun _ s => s) s) := by
  cases slot <;> rfl

/-- Lanes `v` are the eight words at the slot's address. -/
def LoadsWords (s : State) (n : Fin 16) (slot : MvSlot) (w : BitVec 28) (v : Lanes) : Prop :=
  ∀ k : Fin 8, v[k] = BitVec.ofNat 32 (ofLe (s.read (mvBase n slot + (mvAddr (s.core n) w).toNat + 4 * k) 4))

section
variable {s : State} {n : Fin 16} {slot : MvSlot} {w : BitVec 28} {q : Word}

theorem leaves_ldv {v : Lanes} (h : s.Accesses n w 32 q) (hv : LoadsWords s n slot w v) :
    Leaves (.ldv n slot w) s n
      (.accessed slot w (s.core n).inHandler q 3 ((s.core n).destX (mvReg w)) (.lanes v)) := by
  obtain rfl := localWords_eq hv
  exact leaves_access h rfl (exec_ldv n slot w s) rfl

theorem leaves_accLoads {v : Lanes} (h : s.Accesses n w 32 q) (hacc : bits w 21 20 = 0) (hv : LoadsWords s n slot w v) :
    let loads := fun (i : Instr) (part : Fin 3) => Leaves i s n
      (.accessed slot w (s.core n).inHandler q 3 (.acc (mvAcc w) (s.core n).inHandler) (.accPart part v))
    loads (.ldal n slot w) 0 ∧ loads (.ldam n slot w) 1 ∧ loads (.ldah n slot w) 2 := by
  obtain rfl := localWords_eq hv
  have hok : (bits w 21 20 == 0) = true := beq_of_eq hacc
  exact ⟨leaves_access h hok (exec_ldal n slot w s) rfl, leaves_access h hok (exec_ldam n slot w s) rfl,
    leaves_access h hok (exec_ldah n slot w s) rfl⟩

theorem leaves_stv (h : s.Accesses n w 32 q) :
    Leaves (.stv n slot w) s n (.accessed slot w (s.core n).inHandler q 1 (.mem (mvDy slot) (mvAddr (s.core n) w))
      (.lanes ((s.core n).getX (mvReg w)))) :=
  leaves_access h rfl (exec_stv n slot w s) rfl

theorem leaves_storeAcc {i : Instr} {f : Acc → Word} {v : Lanes} (h : s.Accesses n w 32 q) (hacc : bits w 21 20 = 0)
    (hi : exec i s = storeAcc n slot w f s) (hv : mapLanes f ((s.core n).getA (mvAcc w)) = v) :
    Leaves i s n (.accessed slot w (s.core n).inHandler q 1 (.mem (mvDy slot) (mvAddr (s.core n) w)) (.lanes v)) := by
  subst hv
  exact leaves_access h (beq_of_eq hacc) hi rfl

theorem leaves_ldb (h : s.Accesses n w 4 q) :
    Leaves (.ldb n slot w) s n (.accessed slot w (s.core n).inHandler q 3 ((s.core n).destX (mvReg w))
      (.lanes (Vector.replicate 8 (BitVec.ofNat 32 (ofLe (s.read (mvBase n slot + (mvAddr (s.core n) w).toNat + 4 * 0) 4)))))) := by
  rw [← localWords_first]
  exact leaves_access h rfl (exec_ldb n slot w s) rfl

theorem leaves_sts (h : s.Accesses n w 4 q) :
    Leaves (.sts n slot w) s n (.accessed slot w (s.core n).inHandler q 1 (.mem (mvDy slot) (mvAddr (s.core n) w))
      (.reg ((s.core n).getX (mvReg w))[0])) :=
  leaves_access h rfl (exec_sts n slot w s) rfl

theorem leaves_modp (h : s.SlotRuns n (mvStg w)) (hreg : bits w 21 16 = 0) (hform : ptrForm w = true)
    (hptr : ptrOk (s.core n) w = true) (hnext : postModify (s.core n) w 4 = q) :
    Leaves (.modp n slot w) s n (.movePtr slot w (s.core n).inHandler q) := by
  have hf : (bits w 21 16 == 0 && ptrForm w) = true := by simp [hreg, hform]
  have hexec := exec_modp n slot w s
  rw [execModp, slotOp_runs h hf hptr, issuePtr_eq, hnext] at hexec
  exact hexec

theorem leaves_mvra {v : Lanes} (h : s.SlotRuns n (mvStg w)) (hrest : bits w 9 0 = 0)
    (hv : lane0 ((s.core n).getSel (mvAsel w)) = v) :
    Leaves (.mvra n slot w) s n (.issue 1 (mvRank slot) ((s.core n).destX (mvReg w)) (.lanes v)) := by
  subst hv
  exact leaves_issueMv h (beq_of_eq hrest) rfl (exec_mvra n slot w s) rfl

theorem leaves_mvar (h : s.SlotRuns n (mvStg w)) (hrest : bits w 9 0 = 0) (hform : selForm (mvAsel w) = true)
    (hok : selOk (s.core n) (mvAsel w) ((s.core n).getX (mvReg w))[0] = true) :
    Leaves (.mvar n slot w) s n (.issue 1 (mvRank slot) (.asel (mvAsel w) (s.core n).inHandler)
      (.reg ((s.core n).getX (mvReg w))[0])) := by
  have hf : (bits w 9 0 == 0 && selForm (mvAsel w)) = true := by simp [hrest, hform]
  exact leaves_issueMv h hf hok (exec_mvar n slot w s) rfl

theorem leaves_lia {v : Word} (h : s.SlotRuns n (mvStg w)) (hform : bits w 21 16 < 0x28) (hv : liaValue w = v)
    (hok : selOk (s.core n) (mvLiaSel w) v = true) :
    Leaves (.lia n slot w) s n (.issue 1 (mvRank slot) (.asel (mvLiaSel w) (s.core n).inHandler) (.reg v)) := by
  subst hv
  exact leaves_issueMv h (decide_eq_true hform) hok (exec_lia n slot w s) rfl

end

/-- The immediates that LIA writes to P, B and L (R333). -/
theorem selOk_lia {c : Core} {w : BitVec 28}
    (h : bits w 21 16 < 0x10 ∨ (0x18 ≤ bits w 21 16 ∧ bits w 21 16 < 0x20) ∨
      (0x20 ≤ bits w 21 16 ∧ bits w 21 16 < 0x28 ∧ bits w 15 0 ≤ 32768)) :
    selOk c (mvLiaSel w) (BitVec.ofNat 32 (bits w 15 0 * 4)) = true := by
  rw [← mvLiaSel_toNat] at h
  rcases h with h | ⟨-, h⟩ | ⟨h, h', himm⟩
  · exact selOk_pointer _ (by omega)
  · exact selOk_pointer _ h
  · rw [selOk_length h h', liaValue_scaled_toNat, decide_eq_true (by omega)]

theorem selOk_lia_tooLong {c : Core} {w : BitVec 28} (h : 0x20 ≤ bits w 21 16) (h' : bits w 21 16 < 0x28)
    (himm : 32768 < bits w 15 0) : selOk c (mvLiaSel w) (liaValue w) = false := by
  rw [liaValue_scaled (.inr (by omega))]
  rw [← mvLiaSel_toNat] at h h'
  rw [selOk_length h h', liaValue_scaled_toNat, decide_eq_false (by omega)]

/-! All operations of a move slot at once. -/

/-- The operations of a move slot, each with what R332, R333 and R334 ask of its fields. -/
theorem moveSlots_gated (s : State) (n : Fin 16) (slot : MvSlot) (w : BitVec 28) :
    let accForm := decide (bits w 21 20 = 0)
    ∀ e ∈ [(Instr.mvnop n slot w, true), (.ldv n slot w, ptrForm w), (.ldb n slot w, ptrForm w), (.stv n slot w, ptrForm w),
        (.sts n slot w, ptrForm w), (.ldal n slot w, ptrForm w && accForm), (.ldam n slot w, ptrForm w && accForm),
        (.ldah n slot w, ptrForm w && accForm), (.stal n slot w, ptrForm w && accForm), (.stam n slot w, ptrForm w && accForm),
        (.stah n slot w, ptrForm w && accForm), (.modp n slot w, ptrForm w && bits w 21 16 == 0),
        (.mvar n slot w, bits w 9 0 == 0 && (bits w 15 10 < 0x38 || bits w 15 10 == 0x3F)), (.mvra n slot w, bits w 9 0 == 0),
        (.lia n slot w, decide (bits w 21 16 < 0x28))], Gated e.1 s n (mvStg w) e.2 := by
  have hacc {i : Instr} {body} (hi : exec i s = access n slot w 32 (bits w 21 20 == 0) body s) :
      Gated i s n (mvStg w) (ptrForm w && decide (bits w 21 20 = 0)) := gated_of_access hi (Bool.and_comm _ _)
  have hsel : (bits w 9 0 == 0 && selForm (mvAsel w)) =
      (bits w 9 0 == 0 && (bits w 15 10 < 0x38 || bits w 15 10 == 0x3F)) := by rw [selForm_eq, mvAsel_toNat]
  simp only [List.forall_mem_cons]
  exact ⟨gated_of_slotOp (exec_mvnop_eq n slot w s) rfl, gated_of_access (exec_ldv n slot w s) rfl,
    gated_of_access (exec_ldb n slot w s) rfl, gated_of_access (exec_stv n slot w s) rfl,
    gated_of_access (exec_sts n slot w s) rfl, hacc (exec_ldal n slot w s), hacc (exec_ldam n slot w s),
    hacc (exec_ldah n slot w s), hacc (exec_stal n slot w s), hacc (exec_stam n slot w s), hacc (exec_stah n slot w s),
    gated_of_slotOp (exec_modp n slot w s) (Bool.and_comm _ _), gated_of_slotOp (exec_mvar n slot w s) hsel,
    gated_of_slotOp (exec_mvra n slot w s) rfl, gated_of_slotOp (exec_lia n slot w s) rfl, List.forall_mem_nil _⟩

section
variable {s : State} {n : Fin 16} {slot : MvSlot} {w : BitVec 28}

/-- The accumulator accesses at an address that 32 does not divide (R298). -/
theorem accAccesses_misaligned (h : s.SlotRuns n (mvStg w)) (hacc : bits w 21 20 = 0) (hform : ptrForm w = true)
    (hptr : ptrOk (s.core n) w = true) (hmis : (mvAddr (s.core n) w).toNat % 32 ≠ 0) :
    ∀ i ∈ [Instr.ldal n slot w, .ldam n slot w, .ldah n slot w, .stal n slot w, .stam n slot w, .stah n slot w],
      exec i s = .next (trapHere n 2 s) := by
  have htrap {i : Instr} {body} (hi : exec i s = access n slot w 32 (bits w 21 20 == 0) body s) :
      exec i s = .next (trapHere n 2 s) := hi.trans (access_misaligned h (beq_of_eq hacc) hform hptr hmis)
  simp only [List.forall_mem_cons]
  exact ⟨htrap (exec_ldal n slot w s), htrap (exec_ldam n slot w s), htrap (exec_ldah n slot w s),
    htrap (exec_stal n slot w s), htrap (exec_stam n slot w s), htrap (exec_stah n slot w s), List.forall_mem_nil _⟩

/-- Every operation with a post-modify whose mode R301 does not allow. -/
theorem postModifies_illegalMode (h : s.SlotRuns n (mvStg w)) (hp : ptrForm w = true → ptrOk (s.core n) w = false) :
    ∀ i ∈ [Instr.ldv n slot w, .ldb n slot w, .stv n slot w, .sts n slot w, .ldal n slot w, .ldam n slot w,
      .ldah n slot w, .stal n slot w, .stam n slot w, .stah n slot w, .modp n slot w], exec i s = .next (trapHere n 3 s) := by
  have htrap {i : Instr} {size : Nat} {ok : Bool} {body} (hi : exec i s = access n slot w size ok body s) :
      exec i s = .next (trapHere n 3 s) := hi.trans (access_illegalMode h hp)
  have hmodp : exec (.modp n slot w) s = .next (trapHere n 3 s) := by
    rw [exec_modp, execModp, slotOp_illegalMode h hp]
  simp only [List.forall_mem_cons]
  exact ⟨htrap (exec_ldv n slot w s), htrap (exec_ldb n slot w s), htrap (exec_stv n slot w s), htrap (exec_sts n slot w s),
    htrap (exec_ldal n slot w s), htrap (exec_ldam n slot w s), htrap (exec_ldah n slot w s), htrap (exec_stal n slot w s),
    htrap (exec_stam n slot w s), htrap (exec_stah n slot w s), hmodp, List.forall_mem_nil _⟩

end

/-- Settles O55: the statement's fields are read as the model's, then each clause is the lemma on its operation. -/
theorem moveSlots : Obligations.MoveSlots := by
  intro s n slot w c stg rank base reg x acc a p i8 l b addr word flies xDest store modv formOk modeOk accForm moved ptr runs traps
  have hrank : rank = mvRank slot := (mvRank_eq slot).symm
  have hbase : base = mvBase n slot := (mvBase_eq n slot).symm
  have haddr : addr = (mvAddr c w).toNat := (mvAddr_toNat c w).symm
  have hstore : store = .mem (mvDy slot) (mvAddr c w) := by
    simp only [store, haddr, mvDy_eq, BitVec.ofNat_toNat, BitVec.setWidth_eq]
  have hform : formOk = ptrForm w := (ptrForm_eq w).symm
  have hmode : ptrForm w = true → modeOk = ptrOk c w := fun h => (ptrOk_eq c h).symm
  have hmoved {size low : Nat} {q : Word} (hlow : Nat.log2 size = low) (h : moved size low q) :
      ptrForm w = true ∧ ptrOk c w = true ∧ postModify c w size = q := by
    obtain ⟨hf, hq⟩ := h
    rw [hform] at hf
    rw [show modv size = modifier c w size from (modifier_eq c w size).symm] at hq
    exact ⟨hf, postModify_of_mode hlow hf hq⟩
  clear_value rank base store formOk modeOk
  subst hrank hbase hstore hform
  clear_value addr
  subst haddr
  refine ⟨?_, ?_, fun e he => (moveSlots_gated s n slot w e he).outcomes⟩
  · rintro ⟨hissues, hlegal, hon⟩
    have hruns : s.SlotRuns n (mvStg w) := ⟨hissues, hlegal, hon⟩
    refine ⟨by rw [exec_mvnop_eq, slotOp_runs hruns rfl rfl], fun q hq haligned => ?_, fun q hq => ?_, fun hrest => ?_,
      fun sel hsel => ?_⟩
    · obtain ⟨hf, hp, hnext⟩ := hmoved (by decide) hq
      have ha : s.Accesses n w 32 q := ⟨hruns, hf, hp, haligned, hnext⟩
      refine ⟨fun v hv => leaves_ldv ha hv, leaves_stv ha, fun hacc => ?_⟩
      have hacc := of_decide_eq_true hacc
      exact ⟨fun v hv => leaves_accLoads ha hacc hv,
        fun v hv => leaves_storeAcc ha hacc (exec_stal n slot w s) (stal_lanes hv),
        fun v hv => leaves_storeAcc ha hacc (exec_stam n slot w s) (stam_lanes hv),
        fun v hv => leaves_storeAcc ha hacc (exec_stah n slot w s) (stah_lanes hv)⟩
    · obtain ⟨hf, hp, hnext⟩ := hmoved (by decide) hq
      refine ⟨fun haligned => ?_, fun hreg => leaves_modp hruns hreg hf hp hnext⟩
      have ha : s.Accesses n w 4 q := ⟨hruns, hf, hp, haligned, hnext⟩
      exact ⟨leaves_ldb ha, leaves_sts ha⟩
    · refine ⟨fun v hv0 hv => leaves_mvra hruns hrest (lane0_eq hv0 hv), fun sel hsel hwrite => ?_⟩
      subst hsel
      obtain ⟨hsform, hsok⟩ := selOk_of_legal hwrite
      exact leaves_mvar hruns hrest hsform hsok
    · subst hsel
      rw [show (BitVec.ofNat 6 (bits w 21 16)).toNat = bits w 21 16 from mvLiaSel_toNat w]
      refine ⟨fun hscaled => ?_, fun hlow hhigh => ?_⟩
      · exact leaves_lia hruns (by omega) (liaValue_scaled (by omega)) (selOk_lia hscaled)
      · have hoffset : (mvLiaSel w).toNat < 0x20 := by rw [mvLiaSel_toNat]; omega
        exact leaves_lia hruns (by omega) (liaValue_offset hlow hhigh) (selOk_pointer _ hoffset)
  · rintro ⟨hissues, hlegal, hon⟩ hh ht
    have hruns : s.SlotRuns n (mvStg w) := ⟨hissues, hlegal, hon⟩
    have htrap {i : Instr} {cause : BitVec 4} (hi : exec i s = .next (trapHere n cause s)) : traps i cause :=
      does_trapHere hi hh ht
    have hmisaligned {i : Instr} {size : Nat} {body} (hf : ptrForm w = true) (hp : modeOk = true)
        (hmis : (mvAddr c w).toNat % size ≠ 0) (hi : exec i s = access n slot w size true body s) : traps i 2 :=
      htrap (hi.trans (access_misaligned hruns rfl hf (hmode hf ▸ hp) hmis))
    refine ⟨fun hf hp hacc hmis i hi => ?_, fun hf hp hmis => ?_, fun hf hp hmis => ?_, fun hp i hi => ?_, fun hrest hbad => ?_,
      fun hlow hhigh himm => ?_⟩
    · exact htrap (accAccesses_misaligned hruns (of_decide_eq_true hacc) hf (hmode hf ▸ hp) hmis i hi)
    · exact ⟨hmisaligned hf hp hmis (exec_ldv n slot w s), hmisaligned hf hp hmis (exec_stv n slot w s)⟩
    · exact ⟨hmisaligned hf hp hmis (exec_ldb n slot w s), hmisaligned hf hp hmis (exec_sts n slot w s)⟩
    · exact htrap (postModifies_illegalMode hruns (fun hf => hmode hf ▸ hp) i hi)
    · exact htrap (by rw [exec_mvar, execMvar, slotOp_illegalValue hruns (selOk_of_illegal (mvAsel_toNat w) hbad)])
    · exact htrap (by rw [exec_lia, execLia, slotOp_illegalValue hruns (selOk_lia_tooLong hlow hhigh himm)])

end Sys2Proof.Machine
end

section
/-! PROOFS. A signal core's ALU slot: how a bundle closes, what an operation of the slot leaves, its lane values, O52 and O53. -/

namespace Sys2Proof.Machine

open Sys2Proof

/-! The control of a core, which decides how a bundle closes, and the registers beside it. -/

/-- Core `c` with the control of `k`: what decides how a bundle closes and what follows it, but for results in flight. -/
def Core.withControl (c k : Core) : Core := { c with
  pc := k.pc, cycle := k.cycle, loops := k.loops, rb := k.rb, exec := k.exec, image := k.image
  aovTrap := k.aovTrap, xfTrap := k.xfTrap, irqEn := k.irqEn, irqPend := k.irqPend }

/-- `g` neither reads nor writes a core's control. -/
def Core.Steady (g : Core → Core) : Prop := ∀ c k : Core, g (c.withControl k) = (g c).withControl k

theorem Core.Steady.keeps {g : Core → Core} (h : Core.Steady g) (c : Core) : g c = (g c).withControl c := h c c

theorem Core.goesOn_withControl (c k : Core) : (c.withControl k).goesOn = c.withControl k.goesOn := by
  unfold goesOn
  cases hl : k.loops with
  | nil => simp only [withControl, hl]
  | cons l outer =>
    simp only [withControl, hl, inHandler]
    split
    · rfl
    · split <;> rfl

theorem Core.goesOn_eq (c : Core) : c.goesOn = c.withControl c.goesOn := c.goesOn_withControl c

/-- Writing a register and going on to the next bundle commute. -/
theorem Core.Steady.goesOn {g : Core → Core} (h : Core.Steady g) (c : Core) : (g c).goesOn = g c.goesOn := by
  rw [h.keeps c, goesOn_withControl, ← h, ← goesOn_eq]

/-- Neither a trap nor an interrupt is taken between two bundles of the core (R307). -/
structure Core.Calm (c : Core) : Prop where
  noAov : c.aovTrap = none
  noXf : c.xfTrap = false
  noIrq : c.inHandler = true ∨ c.irqEn &&& c.irqPend &&& 0x3E = 0 ∨ c.image.irqEntry = 0xFFFF

theorem Core.Steady.calm {g : Core → Core} (h : Core.Steady g) {c : Core} (hc : c.Calm) : (g c).Calm := by
  rw [h.keeps c]
  exact ⟨hc.noAov, hc.noXf, hc.noIrq⟩

/-- Going on counts the bundle, and leaves what is in flight and what is pending. -/
theorem Core.goesOn_frame (c : Core) :
    c.goesOn.flight = c.flight ∧ c.goesOn.cycle = c.cycle + 1 ∧ (c.Calm → c.goesOn.Calm) := by
  unfold goesOn
  (repeat' split) <;> exact ⟨rfl, rfl, fun h => ⟨h.noAov, h.noXf, h.noIrq⟩⟩

/-! The bundle that follows (R335, R337). -/

/-- A bundle follows the one at the program counter: the next one, or the first of the loop's next pass. -/
def Core.Followed (c : Core) : Prop := c.pc ≠ 0xFFF ∨ (c.inHandler = false ∧
  ∃ l, c.loops.head? = some l ∧ l.last = 0xFFF ∧ l.pass + 2 < l.count + l.stages)

theorem Core.last_of_not_inside {c : Core} (h : ¬ c.inside) :
    c.inHandler = false ∧ ∃ l outer, c.loops = l :: outer ∧ l.last = c.pc := by
  simp only [inside, not_or, not_forall, not_not, Bool.not_eq_true] at h
  obtain ⟨hin, l, hl, hlast⟩ := h
  obtain ⟨outer, hloops⟩ := List.head?_eq_some_iff.mp hl
  exact ⟨hin, l, outer, hloops, hlast⟩

theorem Core.runsOff_iff (c : Core) : c.runsOff = true ↔ c.pc = 0xFFF ∧ c.inside := by
  unfold runsOff inside
  cases c.loops <;> simp

theorem Core.Followed.not_runsOff {c : Core} (h : c.Followed) : c.runsOff = false := by
  rw [← Bool.not_eq_true, runsOff_iff]
  rintro ⟨hpc, hinside⟩
  obtain ⟨hin, l, hl, hlast, -⟩ := h.resolve_left (not_not.mpr hpc)
  exact hinside.elim (by simp [hin]) fun h => h l hl (hlast.trans hpc.symm)

theorem Core.goesOn_inside {c : Core} (h : c.inside) : c.goesOn = { c with pc := c.pc + 1, cycle := c.cycle + 1 } := by
  unfold goesOn
  cases hl : c.loops with
  | nil => rfl
  | cons l outer => exact if_pos (h.imp_right fun h => h l (by rw [hl]; rfl))

theorem Core.advance_inside {c : Core} (h : c.inside) (hpc : c.pc ≠ 0xFFF) : c.advance = (c, some (c.pc + 1)) := by
  unfold advance
  rw [if_neg hpc]
  split
  · rfl
  next hin =>
    cases hl : c.loops with
    | nil => rfl
    | cons l outer => exact if_neg fun he => h.elim hin fun h => h l (by rw [hl]; rfl) he.symm

/-- Where a bundle follows, `goesOn` is `advance` with that bundle next. -/
theorem Core.advance_eq {c : Core} (h : c.Followed) :
    ∃ r next, c.advance = (r, some next) ∧ { r with pc := next, cycle := r.cycle + 1 } = c.goesOn := by
  by_cases hinside : c.inside
  · have hpc : c.pc ≠ 0xFFF := fun hpc => by simpa [h.not_runsOff] using c.runsOff_iff.mpr ⟨hpc, hinside⟩
    exact ⟨c, c.pc + 1, advance_inside hinside hpc, (goesOn_inside hinside).symm⟩
  · obtain ⟨hin, l, outer, hl, hlast⟩ := last_of_not_inside hinside
    unfold advance goesOn
    simp only [hl, hin, hlast, Bool.false_eq_true, ne_eq, not_true_eq_false, or_self, if_false, if_true]
    by_cases hagain : l.pass + 2 < l.count + l.stages
    · rw [if_pos hagain, if_pos (by omega)]
      exact ⟨_, _, rfl, by unfold rotate; split <;> rfl⟩
    · have hpc : c.pc ≠ 0xFFF := by
        refine h.resolve_right ?_
        rintro ⟨-, l', hl', -, hmore⟩
        obtain rfl : l = l' := by simpa [hl] using hl'
        exact hagain hmore
      rw [if_neg hagain, if_neg (by omega), if_neg hpc]
      exact ⟨_, _, rfl, by unfold rotate; split <;> rfl⟩

/-! The close of a bundle (R295, R307). -/

theorem State.onCore_eq_self {n : Fin 16} {g : Core → Core} {s : State} (h : g (s.core n) = s.core n) : s.onCore n g = s := by
  rw [State.core] at h
  rw [State.onCore, vmod, h]
  exact congrArg (fun v => { s with cores := v }) (Vector.set_getElem_self n.isLt)

theorem bundleEdge_calm {n : Fin 16} {s : State} (h : (s.core n).Calm) : bundleEdge n s = s := by
  obtain ⟨hAov, hXf, hIrq⟩ := h
  have hpending : pendingTraps n s = s := by simp [pendingTraps, hAov, hXf]
  rw [bundleEdge, hpending, takeIrq]
  refine if_neg fun hc => ?_
  simp only [Bool.and_eq_true, bne_iff_ne, Bool.or_eq_true, beq_iff_eq] at hc
  obtain ⟨⟨hexec, hpend⟩, hentry⟩ := hc
  rcases hIrq with hin | hnone | hnone
  · have hexec' : (s.core n).exec = .handler := by simpa [Core.inHandler] using hin
    simp [hexec'] at hexec
  · exact hpend hnone
  · exact hentry hnone

theorem closePlain_eq {n : Fin 16} {s : State} (h : (s.core n).Followed) :
    closePlain n s = bundleEdge n (landDue n (s.onCore n Core.goesOn)) := by
  obtain ⟨r, next, hadvance, hgoes⟩ := Core.advance_eq h
  simp only [closePlain, hadvance, closeBundle, State.onCore_onCore]
  rw [State.onCore_congr (h := Core.goesOn) hgoes]

/-- No result in flight is due when the bundle at hand closes. -/
def Core.NoDue (c : Core) : Prop := ∀ f ∈ c.flight, c.cycle + 1 < f.due

theorem filter_putFlight_of_neg {p : Flight → Bool} {f : Flight} {l : List Flight} (hf : p f = false)
    (hl : ∀ x ∈ l, p x = true) : (putFlight f l).filter p = l := by
  induction l with
  | nil => simp [putFlight, hf]
  | cons g r ih =>
    rw [List.forall_mem_cons] at hl
    unfold putFlight
    split
    · simp [hf, hl.1, List.filter_eq_self.mpr hl.2]
    · simp [hl.1, ih hl.2]

theorem filter_putFlight_of_pos {p : Flight → Bool} {f : Flight} {l : List Flight} (hf : p f = true)
    (hl : ∀ x ∈ l, p x = false) : (putFlight f l).filter p = [f] := by
  induction l with
  | nil => simp [putFlight, hf]
  | cons g r ih =>
    rw [List.forall_mem_cons] at hl
    unfold putFlight
    split
    · have hr : r.filter p = [] := List.filter_eq_nil_iff.mpr fun x hx => by simp [hl.2 x hx]
      simp [hf, hl.1, hr]
    · simp [hl.1, ih hl.2]

theorem landDue_none {n : Fin 16} {s : State} (h : ∀ f ∈ (s.core n).flight, (s.core n).cycle < f.due) : landDue n s = s := by
  have hdue : ((s.core n).flight.filter fun f => decide (f.due ≤ (s.core n).cycle)) = [] :=
    List.filter_eq_nil_iff.mpr fun f hf => by simp [h f hf]
  have hrest : ((s.core n).flight.filter fun f => !decide (f.due ≤ (s.core n).cycle)) = (s.core n).flight :=
    List.filter_eq_self.mpr fun f hf => by simp [h f hf]
  simp only [landDue, hdue, forAll]
  exact State.onCore_eq_self (by rw [hrest])

theorem landDue_one {n : Fin 16} {s : State} {f : Flight} {fl : List Flight} (hfl : (s.core n).flight = putFlight f fl)
    (hf : f.due ≤ (s.core n).cycle) (h : ∀ x ∈ fl, (s.core n).cycle < x.due) :
    landDue n s = landOne n f (s.onCore n fun c => { c with flight := fl }) := by
  have hdue : ((s.core n).flight.filter fun f => decide (f.due ≤ (s.core n).cycle)) = [f] :=
    hfl ▸ filter_putFlight_of_pos (by simpa using hf) fun x hx => by simp [h x hx]
  have hrest : ((s.core n).flight.filter fun f => !decide (f.due ≤ (s.core n).cycle)) = fl :=
    hfl ▸ filter_putFlight_of_neg (by simpa using hf) fun x hx => by simp [h x hx]
  simp only [landDue, hdue, forAll]
  rw [State.onCore_congr (h := fun c => { c with flight := fl }) (by rw [hrest])]

/-- A core whose bundle closes with no event but the results that it has itself issued for the next one. -/
structure Core.Quiet (c : Core) : Prop where
  followed : c.Followed
  noDue : c.NoDue
  calm : c.Calm

theorem State.AtBundle.quiet {s : State} {n : Fin 16} (h : s.AtBundle n) : (s.core n).Quiet :=
  ⟨h.notEnd, h.noDue, h.noTrap.1, h.noTrap.2, h.noIrq⟩

section
variable {n : Fin 16} {s : State} {g : Core → Core} (hq : (s.core n).Quiet)
include hq

/-- After a write of registers the bundle closes as without it. -/
theorem closePlain_steady (hg : Core.Steady g) (hfl : (g (s.core n)).flight = (s.core n).flight) :
    closePlain n (s.onCore n g) = s.onCore n fun c => (g c).goesOn := by
  obtain ⟨hflight, hcycle, hcalm⟩ := (g (s.core n)).goesOn_frame
  have hkeeps := hg.keeps (s.core n)
  have hfollowed : ((s.onCore n g).core n).Followed := by
    rw [State.core_onCore, hkeeps]
    exact hq.followed
  have hdue : ∀ f ∈ (g (s.core n)).goesOn.flight, (g (s.core n)).goesOn.cycle < f.due := by
    rw [hflight, hcycle, hfl, hkeeps]
    exact hq.noDue
  rw [closePlain_eq hfollowed, State.onCore_onCore, landDue_none (by simpa using hdue),
    bundleEdge_calm (by simpa using hcalm (hg.calm hq.calm))]

/-- A bundle that writes nothing leaves the core at the next one. -/
theorem closePlain_quiet : closePlain n s = s.onCore n Core.goesOn := by
  have hclose := closePlain_steady (g := id) hq (fun _ _ => rfl) rfl
  rwa [State.onCore_eq_self rfl] at hclose

/-- A result of latency 1 whose landing is `g` is in its register when the next bundle issues (R295, R328). -/
theorem closePlain_issued {order : Nat} {dest : Dest} {val : Landing} (hg : Core.Steady g)
    (hland : ∀ (f : Flight) (t : State), f.dest = dest → f.val = val → landOne n f t = t.onCore n g) :
    closePlain n (s.onCore n (·.issue 1 order dest val)) = s.onCore n fun c => (g c).goesOn := by
  set c := s.core n
  obtain ⟨hflight, hcycle, -⟩ := (c.issue 1 order dest val).goesOn_frame
  have hcalm : (g c).goesOn.Calm := (g c).goesOn_frame.2.2 (hg.calm hq.calm)
  have hfollowed : ((s.onCore n (·.issue 1 order dest val)).core n).Followed := by
    rw [State.core_onCore]
    exact hq.followed
  rw [closePlain_eq hfollowed, State.onCore_onCore,
    landDue_one (by rw [State.core_onCore, hflight]; rfl) (by rw [State.core_onCore, hcycle]; exact le_rfl)
      (by rw [State.core_onCore, hcycle]; exact hq.noDue), hland _ _ rfl rfl, State.onCore_onCore, State.onCore_onCore]
  have hrestore : Core.Steady fun k => { k with flight := c.flight } := fun _ _ => rfl
  have hgoes : g { (c.issue 1 order dest val).goesOn with flight := c.flight } = (g c).goesOn := by
    rw [hg.goesOn, ← hrestore.goesOn]
    rfl
  rw [State.onCore_congr (h := fun c => (g c).goesOn) hgoes, bundleEdge_calm (by rwa [State.core_onCore])]

end

/-! What the ALU slot comes to (R319, R320, R335, R338). -/

section
variable {n : Fin 16} {w : BitVec 32} {ok : Bool} {body : Core → State → State} {s : State}

theorem aluOp_idle (h : s.issuing n = false) : aluOp n w (fun _ => ok) body s = s := by simp [aluOp, h]

theorem aluOp_illegal (hi : s.issuing n = true) (h : ok = false ∨ (s.core n).stageOk (aluStg w) = false) :
    aluOp n w (fun _ => ok) body s = trapHere n 3 s := by
  have hbad : (ok && (s.core n).stageOk (aluStg w)) = false := Bool.and_eq_false_iff.mpr h
  simp [aluOp, hi, hbad]

theorem aluOp_runsOff (hi : s.issuing n = true) (hok : ok = true) (hl : (s.core n).stageOk (aluStg w) = true)
    (h : (s.core n).runsOff = true) : aluOp n w (fun _ => ok) body s = trapHere n 4 s := by
  simp [aluOp, hi, hok, hl, h]

theorem aluOp_off (h : s.AtBundle n) (hok : ok = true) (hl : (s.core n).stageOk (aluStg w) = true)
    (ho : (s.core n).stageOn (aluStg w) = false) : aluOp n w (fun _ => ok) body s = s.onCore n Core.goesOn := by
  simp [aluOp, h.runs, hok, hl, h.quiet.followed.not_runsOff, ho, closePlain_quiet h.quiet]

theorem aluOp_runs (h : s.Ready n (aluStg w)) (hok : ok = true) :
    aluOp n w (fun _ => ok) body s = closePlain n (body (s.core n) s) := by
  simp [aluOp, h.runs, hok, h.legal, h.toAtBundle.quiet.followed.not_runsOff, h.on]

end

/-- What an ALU operation does where it does not run: while its core issues nothing, in a stage predicated off, with a stage or
a form that is not allowed, and in a bundle that nothing follows. -/
structure AluGated (i : Instr) (s : State) (n : Fin 16) (w : BitVec 32) (form : Bool) : Prop where
  idle : s.issuing n = false → exec i s = .next s
  off : s.AtBundle n → (s.core n).stageOk (aluStg w) = true → (s.core n).stageOn (aluStg w) = false → form = true →
    Leaves i s n Core.goesOn
  illegal : s.issuing n = true → form = false ∨ (s.core n).stageOk (aluStg w) = false → exec i s = .next (trapHere n 3 s)
  runsOff : s.issuing n = true → form = true → (s.core n).stageOk (aluStg w) = true → (s.core n).runsOff = true →
    exec i s = .next (trapHere n 4 s)

theorem aluGated_of_aluOp {i : Instr} {s : State} {n : Fin 16} {w : BitVec 32} {ok form : Bool} {body : Core → State → State}
    (hi : exec i s = .next (aluOp n w (fun _ => ok) body s)) (hf : ok = form) : AluGated i s n w form where
  idle h := by rw [hi, aluOp_idle h]
  off h hl ho hform := by rw [aluOp_off h (hf.trans hform) hl ho] at hi; exact hi
  illegal h hbad := by rw [hi, aluOp_illegal h (hf ▸ hbad)]
  runsOff h hform hl hoff := by rw [hi, aluOp_runsOff h (hf.trans hform) hl hoff]

/-- The clauses of a gated operation as the statement writes them. -/
theorem AluGated.outcomes {i : Instr} {s : State} {n : Fin 16} {w : BitVec 32} {form : Bool} (h : AluGated i s n w form) :
    (s.issuing n = false → exec i s = .next s) ∧
    (s.AtBundle n → (s.core n).stageOk (aluStg w) = true → (s.core n).stageOn (aluStg w) = false → form = true →
      Leaves i s n Core.goesOn) ∧
    (s.issuing n = true → (s.core n).inHandler = false → (s.core n).image.trapEntry ≠ 0xFFFF →
      (form = false ∨ (s.core n).stageOk (aluStg w) = false → Does i s [.cores] fun t => Trapped s t n 3) ∧
      (form = true → (s.core n).stageOk (aluStg w) = true → (s.core n).pc = 0xFFF → (s.core n).inside →
        Does i s [.cores] fun t => Trapped s t n 4)) :=
  ⟨h.idle, h.off, fun hi hh ht => ⟨fun hbad => does_trapHere (h.illegal hi hbad) hh ht,
    fun hform hl hpc hin => does_trapHere (h.runsOff hi hform hl ((Core.runsOff_iff _).mpr ⟨hpc, hin⟩)) hh ht⟩⟩

/-! The landing of a lane result, and the operations on the core's own registers. -/

theorem Core.steady_setLow (r : Fin 32) (sh : Bool) (v : Lanes) :
    Core.Steady (·.onBank sh fun b => { b with x := vmod b.x r fun _ => v }) := by
  cases sh <;> exact fun _ _ => rfl

/-- A lane result lands in the register that its destination meant when it issued (R293, R338). -/
theorem exists_landing (c : Core) (r : Fin 64) (v : Lanes) : ∃ g : Core → Core, Core.Steady g ∧ g c = c.setX r v ∧
    ∀ (n : Fin 16) (f : Flight) (t : State), f.dest = c.destX r → f.val = .lanes v → landOne n f t = t.onCore n g := by
  unfold Core.destX Core.setX
  by_cases hr : r.val < 32
  · simp only [hr, if_true, dif_pos]
    refine ⟨_, Core.steady_setLow (Fin.ofNat 32 r.val) c.inHandler v, ?_, fun n f t hd hv => ?_⟩
    · cases c.inHandler <;> simp [Core.onBank, vmod, Nat.mod_eq_of_lt hr]
    · unfold landOne Core.land
      simp only [hd, hv]
  · simp only [hr, if_false, dif_neg, not_false_eq_true]
    refine ⟨fun k => { k with xu := vmod k.xu (c.phys r) fun _ => v }, fun _ _ => rfl, rfl, fun n f t hd hv => ?_⟩
    unfold landOne Core.land
    simp only [hd, hv]

section
variable {i : Instr} {s : State} {n : Fin 16} {w : BitVec 32} (h : s.Ready n (aluStg w))
include h

theorem leaves_aluNop : Leaves (.aluNop n w) s n Core.goesOn := by
  have hexec := exec_aluNop n w s
  rw [execAluNop, aluOp_runs h rfl, closePlain_quiet h.toAtBundle.quiet] at hexec
  exact hexec

theorem leaves_aluX {ok : Bool} {val : Core → Lanes} (hok : ok = true) (hi : exec i s = aluX n w ok val s) :
    Leaves i s n fun c => (c.setX (aluXd w) (val (s.core n))).goesOn := by
  obtain ⟨g, hg, hset, hland⟩ := exists_landing (s.core n) (aluXd w) (val (s.core n))
  have hissue : writeX n (aluXd w) 1 1 (val (s.core n)) s =
      s.onCore n (·.issue 1 1 ((s.core n).destX (aluXd w)) (.lanes (val (s.core n)))) := State.onCore_congr rfl
  have hgoes : s.onCore n (fun c => (g c).goesOn) = s.onCore n fun c => (c.setX (aluXd w) (val (s.core n))).goesOn :=
    State.onCore_congr (congrArg Core.goesOn hset)
  rw [aluX, aluOp_runs h hok, hissue, closePlain_issued h.toAtBundle.quiet hg (hland n), hgoes] at hi
  exact hi

/-- `k` writes what `g` computes from the core at hand. -/
theorem leaves_aluReg {g k : Core → Core} (hk : Core.Steady k) (hfl : (k (s.core n)).flight = (s.core n).flight)
    (hgk : g (s.core n) = k (s.core n)) (hi : exec i s = aluReg n w g s) : Leaves i s n fun c => (k c).goesOn := by
  rw [aluReg, aluOp_runs h rfl, State.onCore_congr hgk, closePlain_steady h.toAtBundle.quiet hk hfl] at hi
  exact hi

theorem leaves_clraov : Leaves (.clraov n w) s n fun c => { c with aov := 0 }.goesOn := by
  have hexec := exec_clraov n w s
  have hland (f : Flight) (t : State) (hd : f.dest = .aov) (hv : f.val = .reg 0) :
      landOne n f t = t.onCore n fun c => { c with aov := 0 } := by
    unfold landOne Core.land
    simp only [hd, hv]
  rw [execClraov, aluOp_runs h rfl, closePlain_issued h.toAtBundle.quiet (fun _ _ => rfl) hland] at hexec
  exact hexec

end

/-! Saturation, rounding and extraction (R328-R330). -/

/-- The nearest value of a signed 32-bit word. -/
def clampWord (v : Int) : Int := max (-2 ^ 31) (min (2 ^ 31 - 1) v)

theorem satInt_word (v : Int) : satInt 32 v = clampWord v := by
  unfold satInt clampWord
  split_ifs <;> omega

theorem toInt_wrapWord {v : Int} (hlo : -2 ^ 31 ≤ v) (hhi : v < 2 ^ 31) : (wrapWord v).toInt = v :=
  BitVec.toInt_ofInt_eq_self (by decide) hlo hhi

theorem toInt_satWord (v : Int) : (satWord v).toInt = clampWord v := by
  rw [satWord, satInt_word]
  exact toInt_wrapWord (by unfold clampWord; omega) (by unfold clampWord; omega)

theorem toInt_absWord (x : Word) : (absWord x).toInt = clampWord x.toInt.natAbs := by
  rw [absWord, toInt_satWord]
  congr 1
  split <;> omega

/-- `q` is `v / 2^k` rounded to nearest, ties to even (R329). -/
def Nearest (v : Int) (k : Nat) (q : Int) : Prop := 2 * (v - q * 2 ^ k) ≤ 2 ^ k ∧ -2 ^ k ≤ 2 * (v - q * 2 ^ k) ∧
  (2 * (v - q * 2 ^ k) = 2 ^ k ∨ 2 * (v - q * 2 ^ k) = -2 ^ k → q % 2 = 0)

theorem nearest_roundEven (v : Int) (k : Nat) : Nearest v k (roundEven v k) := by
  have hpos : (0 : Int) < 2 ^ k := by positivity
  have hlow := Int.emod_nonneg v hpos.ne'
  have hhigh := Int.emod_lt_of_pos v hpos
  have hrest : v - v / 2 ^ k * 2 ^ k = v % 2 ^ k := by rw [Int.emod_def, Int.mul_comm]
  have hnext : v - (v / 2 ^ k + 1) * 2 ^ k = v % 2 ^ k - 2 ^ k := by rw [Int.add_mul, Int.one_mul, ← hrest]; omega
  unfold roundEven Nearest
  dsimp only
  rw [hrest]
  split
  next h =>
    rw [hnext]
    omega
  next h =>
    rw [hrest]
    omega

theorem Nearest.unique {v : Int} {k : Nat} {p q : Int} (hp : Nearest v k p) (hq : Nearest v k q) : p = q := by
  have hpos : (0 : Int) < 2 ^ k := by positivity
  obtain ⟨hp1, hp2, hp3⟩ := hp
  obtain ⟨hq1, hq2, hq3⟩ := hq
  have hdiff : (p - q) * 2 ^ k = (v - q * 2 ^ k) - (v - p * 2 ^ k) := by ring
  have hle : p - q ≤ 1 := Int.le_of_mul_le_mul_right (by omega) hpos
  have hge : -1 ≤ p - q := Int.le_of_mul_le_mul_right (by omega) hpos
  obtain h | h | h : p - q = -1 ∨ p - q = 0 ∨ p - q = 1 := by omega
  all_goals
    rw [h] at hdiff
    omega

theorem extWord_nearest (shift : Int) (a : Acc) :
    ∃ q, Nearest (a.toInt * 2 ^ (shift - 31).toNat) (31 - shift).toNat q ∧ (extWord true shift a).toInt = clampWord q :=
  ⟨_, nearest_roundEven _ _, toInt_satWord _⟩

theorem extWord_down (shift : Int) (a : Acc) :
    (extWord false shift a).toInt = clampWord (a.toInt * 2 ^ (shift - 31).toNat / 2 ^ (31 - shift).toNat) := toInt_satWord _

/-- The rounded extraction of `a` with shift `k` does not saturate (R330). -/
def Fits (a : Acc) (k : Int) : Prop := ∃ q, Nearest a.toInt (31 - k).toNat q ∧ clampWord q = q

theorem overflows_extLane {a : Acc} {k : Int} (hk : k ≤ 31) : overflows 32 (extLane true k a) = false ↔ Fits a k := by
  have hscale : a.toInt * 2 ^ (k - 31).toNat = a.toInt := by rw [Int.toNat_of_nonpos (by omega), pow_zero, mul_one]
  have hnearest : Nearest a.toInt (31 - k).toNat (extLane true k a) := by
    rw [extLane, hscale]
    exact nearest_roundEven ..
  rw [overflows, satInt_word, bne_eq_false_iff_eq]
  exact ⟨fun h => ⟨_, hnearest, h⟩, fun ⟨q, hq, hsat⟩ => hq.unique hnearest ▸ hsat⟩

/-- `expaFrom` answers the largest shift below its bound that fits, or -32. -/
theorem expaFrom_spec (a : Acc) (m : Nat) (hm : m ≤ 63) :
    let r := expaFrom a m
    r ≤ (m : Int) - 32 ∧ -32 ≤ r ∧ (r = -32 ∨ Fits a r) ∧ ∀ k : Int, r < k → k ≤ (m : Int) - 32 → ¬ Fits a k := by
  induction m with
  | zero => exact ⟨le_rfl, le_rfl, .inl rfl, fun k hlt hle => absurd hle (by unfold expaFrom at hlt; omega)⟩
  | succ m ih =>
    have hfits := overflows_extLane (a := a) (k := (m : Int) - 31) (by omega)
    unfold expaFrom
    split
    next hov =>
      obtain ⟨hhi, hlo, hr, hmax⟩ := ih (by omega)
      refine ⟨by omega, hlo, hr, fun k hlt hle => ?_⟩
      by_cases hk : k = (m : Int) - 31
      · rw [hk, ← hfits, hov]
        exact Bool.noConfusion
      · exact hmax k hlt (by omega)
    next hov =>
      exact ⟨by omega, by omega, .inr (hfits.mp (Bool.not_eq_true _ ▸ hov)), fun k hlt hle => absurd hlt (by omega)⟩

/-! Lane by lane. -/

theorem mapLanes_apply {α β : Type} (f : α → β) (v : Vector α 8) (l : Fin 8) : (mapLanes f v)[l] = f v[l] := by
  simp [mapLanes]

theorem zipLanes_apply {α β γ : Type} (f : α → β → γ) (v : Vector α 8) (u : Vector β 8) (l : Fin 8) :
    (zipLanes f v u)[l] = f v[l] u[l] := by simp [zipLanes]

theorem splat_apply {α : Type} (x : α) (l : Fin 8) : (splat x)[l] = x := by simp [splat]

theorem lane0_apply (x : Word) (l : Fin 8) : (lane0 x)[l] = if l = 0 then x else 0 := by simp [lane0]

/-- The operation leaves a result in XD for the next bundle, each lane of which meets `P`, and the core goes on. -/
def GivesLanes (i : Instr) (s : State) (n : Fin 16) (w : BitVec 32) (P : Fin 8 → Word → Prop) : Prop :=
  ∃ v : Lanes, (∀ l : Fin 8, P l v[l]) ∧ Leaves i s n fun c => (c.setX (aluXd w) v).goesOn

section
variable {i : Instr} {s : State} {n : Fin 16} {w : BitVec 32} {ok : Bool} {P : Fin 8 → Word → Prop} (h : s.Ready n (aluStg w))
include h

theorem gives_aluX {val : Core → Lanes} (hok : ok = true) (hi : exec i s = aluX n w ok val s)
    (hP : ∀ l : Fin 8, P l (val (s.core n))[l]) : GivesLanes i s n w P := ⟨_, hP, leaves_aluX h hok hi⟩

theorem gives_splat {val : Core → Word} (hok : ok = true) (hi : exec i s = aluX n w ok (fun c => splat (val c)) s)
    (hP : ∀ l : Fin 8, P l (val (s.core n))) : GivesLanes i s n w P :=
  gives_aluX h hok hi fun l => (splat_apply (val (s.core n)) l).symm ▸ hP l

theorem gives_lanes {α : Type} {f : Core → α → Word} {v : Core → Vector α 8} (hok : ok = true)
    (hi : exec i s = aluX n w ok (fun c => mapLanes (f c) (v c)) s) (hP : ∀ l : Fin 8, P l (f (s.core n) (v (s.core n))[l])) :
    GivesLanes i s n w P :=
  gives_aluX h hok hi fun l => (mapLanes_apply (f (s.core n)) (v (s.core n)) l).symm ▸ hP l

theorem gives_zip {f : Word → Word → Word} (hi : exec i s = aluZip n w f s)
    (hP : ∀ l : Fin 8, P l (f ((s.core n).getX (aluXs1 w))[l] ((s.core n).getX (aluXs2 w))[l])) : GivesLanes i s n w P :=
  gives_aluX h rfl hi fun l => (zipLanes_apply f _ _ l).symm ▸ hP l

end

/-! Lane values (R328). -/

theorem toInt_ite_le (a b : Word) : (if a.toInt ≤ b.toInt then a else b).toInt = min a.toInt b.toInt := by
  rw [apply_ite BitVec.toInt, min_def]

theorem toInt_ite_ge (a b : Word) : (if a.toInt ≤ b.toInt then b else a).toInt = max a.toInt b.toInt := by
  rw [apply_ite BitVec.toInt, max_def]

theorem toInt_mask (p : Prop) [Decidable p] : (if p then 0xFFFFFFFF else 0 : Word).toInt = if p then -1 else 0 :=
  apply_ite BitVec.toInt ..

theorem toInt_imm18 (w : BitVec 32) : (wrapWord (aluImm18 w)).toInt = sbits w 17 0 := by
  have hlt := bits_lt w 17 0
  refine toInt_wrapWord ?_ ?_ <;>
  · unfold aluImm18 sbits
    dsimp only
    split <;> omega

theorem toNat_shl (a : Word) (k : Nat) : (a <<< k).toNat = a.toNat * 2 ^ k % 2 ^ 32 := by
  rw [BitVec.toNat_shiftLeft, Nat.shiftLeft_eq]

theorem toInt_shra (a : Word) (k : Nat) : (a.sshiftRight k).toInt = a.toInt / 2 ^ k := by
  rw [BitVec.toInt_sshiftRight, Int.shiftRight_eq_div_pow]
  norm_cast

theorem toNat_shrl (a : Word) (k : Nat) : (a >>> k).toNat = a.toNat / 2 ^ k := by
  rw [BitVec.toNat_ushiftRight, Nat.shiftRight_eq_div_pow]

theorem toNat_ldih (a : Word) (w : BitVec 32) :
    ((a &&& 0x3FFFF) ||| BitVec.ofNat 32 (aluImm14 w * 2 ^ 18)).toNat = 2 ^ 18 * bits w 13 0 + a.toNat % 2 ^ 18 := by
  have hlt := bits_lt w 13 0
  have himm : (BitVec.ofNat 32 (aluImm14 w * 2 ^ 18)).toNat = 2 ^ 18 * bits w 13 0 := by
    rw [BitVec.toNat_ofNat, aluImm14]
    omega
  have hlow : (a &&& 0x3FFFF).toNat = a.toNat % 2 ^ 18 := by
    rw [BitVec.toNat_and]
    exact Nat.and_two_pow_sub_one_eq_mod a.toNat 18
  rw [BitVec.toNat_or, himm, hlow, Nat.or_comm, Nat.two_pow_add_eq_or_of_lt (Nat.mod_lt _ (by positivity))]

theorem bits_ldih (a : Word) (w : BitVec 32) :
    let r := (a &&& 0x3FFFF) ||| BitVec.ofNat 32 (aluImm14 w * 2 ^ 18)
    bits r 31 18 = bits w 13 0 ∧ bits r 17 0 = bits a 17 0 := by
  have hlt := bits_lt w 13 0
  have hvalue := toNat_ldih a w
  generalize bits w 13 0 = imm at *
  simp only [bits, hvalue]
  omega

/-- EXPA answers the largest shift from -32 to 31 that does not saturate (R330). -/
theorem expa_spec (a : Acc) :
    let r := (wrapWord (expaLane a)).toInt
    r ≤ 31 ∧ -32 ≤ r ∧ (r = -32 ∨ Fits a r) ∧ ∀ k, r < k → k ≤ 31 → ¬ Fits a k := by
  obtain ⟨hhi, hlo, hr, hmax⟩ := expaFrom_spec a 63 le_rfl
  change -32 ≤ expaLane a at hlo
  rw [toInt_wrapWord (by omega) (by unfold expaLane; omega)]
  exact ⟨hhi, hlo, hr, hmax⟩

/-- Settles O52: each clause is the lemma on its operation's form, with the value of one lane. -/
theorem aluResults : Obligations.AluResults := by
  intro s n w h c xd x y a sat gives nearest scaled
  have hsat : sat = clampWord := rfl
  have hnearest : nearest = Nearest := rfl
  have hgives : gives = fun i P => GivesLanes i s n w P := rfl
  clear_value sat nearest gives
  subst hsat hnearest hgives
  refine ⟨⟨leaves_aluNop h, gives_zip h (exec_addOp n w s) fun _ => rfl,
    gives_zip h (exec_adds n w s) fun _ => toInt_satWord _,
    gives_zip h (exec_subOp n w s) fun _ => rfl, gives_zip h (exec_subs n w s) fun _ => toInt_satWord _,
    gives_zip h (exec_andOp n w s) fun _ => rfl, gives_zip h (exec_orOp n w s) fun _ => rfl,
    gives_zip h (exec_xorOp n w s) fun _ => rfl, gives_zip h (exec_minOp n w s) fun _ => toInt_ite_le _ _,
    gives_zip h (exec_maxOp n w s) fun _ => toInt_ite_ge _ _, gives_lanes h rfl (exec_absOp n w s) fun _ => toInt_absWord _,
    gives_lanes h rfl (exec_negOp n w s) fun _ => toInt_satWord _, gives_lanes h rfl (exec_movOp n w s) fun _ => rfl,
    gives_zip h (exec_cmplt n w s) fun _ => toInt_mask _, gives_zip h (exec_cmpeq n w s) fun _ => toInt_mask _,
    gives_splat h rfl (exec_ldil n w s) fun _ => toInt_imm18 w,
    gives_splat h rfl (exec_gete n w s) fun _ => BitVec.toInt_signExtend_of_le (by decide),
    gives_splat h rfl (exec_getbv n w s) fun _ => rfl, gives_splat h rfl (exec_getbi n w s) fun _ => rfl,
    gives_aluX h rfl (exec_getaov n w s) fun l => ?_⟩, fun hshift => ?_, fun hlane => ?_, fun hreserved => ?_,
    fun hfields hlow => ?_⟩
  · rw [lane0_apply, apply_ite BitVec.toNat, BitVec.toNat_setWidth_of_le (by decide)]
    rfl
  · have hok : shiftOk w = true := beq_of_eq hshift
    exact ⟨gives_lanes h hok (exec_shl n w s) fun _ => toNat_shl _ _,
      gives_lanes h hok (exec_shra n w s) fun _ => toInt_shra _ _,
      gives_lanes h hok (exec_shrl n w s) fun _ => toNat_shrl _ _,
      gives_lanes h hok (exec_shls n w s) fun _ => toInt_satWord _⟩
  · exact gives_splat h (beq_of_eq hlane) (exec_bcast n w s) fun _ => rfl
  · exact gives_lanes h (beq_of_eq hreserved) (exec_ldih n w s) fun l => bits_ldih _ w
  · have hok : (bits w 17 12 == 0 && bits w 0 0 == 0) = true := by simp [hfields, hlow]
    have hscaled (l : Fin 8) (shift : Int) : scaled l shift (extWord (aluRnd w) shift a[l]) :=
      ⟨fun hrnd => (show aluRnd w = true from hrnd) ▸ extWord_nearest shift a[l],
        fun hrnd => (show aluRnd w = false from hrnd) ▸ extWord_down shift a[l]⟩
    exact ⟨gives_lanes h hok (exec_ext n w s) fun l => hscaled l _,
      fun hsh => gives_lanes h (by rw [hok, hsh]; rfl) (exec_exte n w s) fun l => hscaled l _,
      gives_lanes h hok (exec_expa n w s) fun l => expa_spec a[l]⟩

/-! The minimum of E and the clamped lanes (R328), and the searches (R331). -/

/-- A value clamped to the range of E. -/
def clampToE (v : Int) : Int := max (-32) (min 31 v)

theorem clampE_eq (x : Word) : clampE x = clampToE x.toInt := by
  unfold clampE clampToE
  split_ifs <;> omega

/-- What MINE writes to E. -/
def minExponent (e : BitVec 8) (v : Lanes) : Int := v.toList.foldl (fun m x => min m (clampE x)) e.toInt

theorem minExponent_spec (e : BitVec 8) (v : Lanes) :
    (minExponent e v = e.toInt ∨ ∃ l : Fin 8, minExponent e v = clampToE v[l].toInt) ∧ minExponent e v ≤ e.toInt ∧
      ∀ l : Fin 8, minExponent e v ≤ clampToE v[l].toInt := by
  have hmin : (e.toInt :: v.toList.map clampE).min? = some (minExponent e v) := by
    rw [List.min?_cons', List.foldl_map]
    rfl
  obtain ⟨hmem, hle⟩ := List.min?_eq_some_iff.mp hmin
  rw [List.forall_mem_cons] at hle
  refine ⟨?_, hle.1, fun l => ?_⟩
  · rcases List.mem_cons.mp hmem with he | hx
    · exact .inl he
    · obtain ⟨x, hx, hclamp⟩ := List.mem_map.mp hx
      obtain ⟨l, hl, rfl⟩ := Vector.mem_iff_getElem.mp (Vector.mem_toList_iff.mp hx)
      exact .inr ⟨⟨l, hl⟩, by rw [← hclamp, clampE_eq]; rfl⟩
  · rw [← clampE_eq]
    exact hle.2 _ (List.mem_map_of_mem (Vector.mem_toList_iff.mpr (Vector.getElem_mem l.isLt)))

theorem toInt_minExponent (e : BitVec 8) (v : Lanes) : (BitVec.ofInt 8 (minExponent e v)).toInt = minExponent e v := by
  have hlow := e.le_toInt
  have hhigh := e.toInt_lt
  obtain ⟨heq, hle, -⟩ := minExponent_spec e v
  have hbound : -2 ^ 7 ≤ minExponent e v := by
    rcases heq with he | ⟨l, hl⟩
    · exact he ▸ hlow
    · rw [hl]
      unfold clampToE
      omega
  exact BitVec.toInt_ofInt_eq_self (by decide) hbound (hle.trans_lt hhigh)

/-- A search by the measure `val`: the best of the keys and BV, and where the first of the keys that beats all before it and BV
stands (R331). -/
theorem searchGo_spec {better : Word → Word → Bool} {val : Word → Int} (hval : ∀ x b, better x b = true ↔ val b < val x)
    (key : Word → Word) (base : Word) (xs : List Word) (i : Nat) (bv bi : Word) :
    let r := searchGo better key xs base i bv bi
    (∀ x ∈ xs, val (key x) ≤ val r.1) ∧ val bv ≤ val r.1 ∧
      (r = (bv, bi) ∨ ∃ (j : Nat) (hj : j < xs.length), val bv < val (key xs[j]) ∧
        r = (key xs[j], base + BitVec.ofNat 32 (i + j)) ∧ ∀ k (hk : k < j), val (key xs[k]) < val (key xs[j])) := by
  induction xs generalizing i bv bi with
  | nil => exact ⟨by simp, le_rfl, .inl rfl⟩
  | cons x xs ih =>
    unfold searchGo
    by_cases hb : better (key x) bv = true
    · have hlt := (hval _ _).mp hb
      obtain ⟨hall, hbest, hfound⟩ := ih (i + 1) (key x) (base + BitVec.ofNat 32 i)
      rw [if_pos hb]
      refine ⟨List.forall_mem_cons.mpr ⟨hbest, hall⟩, hlt.le.trans hbest, .inr ?_⟩
      rcases hfound with hr | ⟨j, hj, hbetter, hr, hfirst⟩
      · exact ⟨0, Nat.succ_pos _, hlt, hr, fun k hk => absurd hk (Nat.not_lt_zero k)⟩
      · refine ⟨j + 1, Nat.succ_lt_succ hj, hlt.trans hbetter, by rw [hr, Nat.add_right_comm]; rfl, fun k hk => ?_⟩
        cases k with
        | zero => exact hbetter
        | succ k => exact hfirst k (Nat.lt_of_succ_lt_succ hk)
    · have hle : val (key x) ≤ val bv := Int.not_lt.mp fun hlt => hb ((hval _ _).mpr hlt)
      obtain ⟨hall, hbest, hfound⟩ := ih (i + 1) bv bi
      rw [if_neg hb]
      refine ⟨List.forall_mem_cons.mpr ⟨hle.trans hbest, hall⟩, hbest, hfound.imp_right ?_⟩
      rintro ⟨j, hj, hbetter, hr, hfirst⟩
      refine ⟨j + 1, Nat.succ_lt_succ hj, hbetter, by rw [hr, Nat.add_right_comm]; rfl, fun k hk => ?_⟩
      cases k with
      | zero => exact hle.trans_lt hbetter
      | succ k => exact hfirst k (Nat.lt_of_succ_lt_succ hk)

section
variable {s : State} {n : Fin 16} {w : BitVec 32}

/-- The operation leaves in BV the best of BV and the lanes' keys by the measure `up`, and in BI the index of the first lane
that reached it, or BI as it was. -/
def Finds (i : Instr) (s : State) (n : Fin 16) (w : BitVec 32) (key : Fin 8 → Int) (up : Int → Int) : Prop :=
  ∃ bv bi : Word, Leaves i s n (fun c => { c with bv, bi }.goesOn) ∧ (∀ l, up (key l) ≤ up bv.toInt) ∧
    ((bv = (s.core n).bv ∧ bi = (s.core n).bi) ∨ ∃ l : Fin 8, up (s.core n).bv.toInt < up (key l) ∧ bv.toInt = key l ∧
      bi = ((s.core n).getX (aluXs2 w))[0] + BitVec.ofNat 32 l.val ∧ ∀ k : Fin 8, k < l → up (key k) < up (key l))

theorem finds_aluSearch {i : Instr} {better : Word → Word → Bool} {key : Word → Word} {keyOf : Fin 8 → Int}
    {up : Int → Int} (h : s.Ready n (aluStg w)) (hbetter : ∀ x b, better x b = true ↔ up b.toInt < up x.toInt)
    (hkey : ∀ l : Fin 8, (key ((s.core n).getX (aluXs1 w))[l]).toInt = keyOf l) (hi : exec i s = aluSearch n w better key s) :
    Finds i s n w keyOf up := by
  let v := (s.core n).getX (aluXs1 w)
  have hspec := searchGo_spec hbetter key ((s.core n).getX (aluXs2 w))[0] v.toList 0 (s.core n).bv (s.core n).bi
  generalize hr : searchGo better key v.toList ((s.core n).getX (aluXs2 w))[0] 0 (s.core n).bv (s.core n).bi = r at hspec
  obtain ⟨hall, -, hfound⟩ := hspec
  refine ⟨r.1, r.2, leaves_aluReg h (fun _ _ => rfl) rfl (by rw [← hr]) hi, fun l => ?_, ?_⟩
  · rw [← hkey l]
    exact hall _ (Vector.mem_toList_iff.mpr (Vector.getElem_mem l.isLt))
  · refine hfound.imp (fun h => ⟨congrArg Prod.fst h, congrArg Prod.snd h⟩) ?_
    rintro ⟨j, hj, hbest, rfl, hfirst⟩
    have hkeys (k : Nat) (hk : k < v.toList.length) : (key v.toList[k]).toInt = keyOf ⟨k, by simpa using hk⟩ := by
      simpa [v] using hkey ⟨k, by simpa using hk⟩
    rw [hkeys j hj] at hbest
    refine ⟨⟨j, by simpa using hj⟩, hbest, hkeys j hj, by rw [Nat.zero_add], fun k hk => ?_⟩
    have hless := hfirst k hk
    rwa [hkeys k (Nat.lt_trans hk hj), hkeys j hj] at hless

end

/-! All operations of the ALU slot at once. -/

/-- The operations of the ALU slot that are no branch, each with what R327, R328 and R329 ask of its fields. -/
theorem aluOps_gated (s : State) (n : Fin 16) (w : BitVec 32) :
    let shift := decide (bits w 5 5 = 0)
    let accs := decide (bits w 17 12 = 0 ∧ bits w 0 0 = 0)
    ∀ e ∈ [(Instr.aluNop n w, true), (.addOp n w, true), (.adds n w, true), (.subOp n w, true), (.subs n w, true), (.andOp n w, true),
      (.orOp n w, true), (.xorOp n w, true), (.shl n w, shift), (.shra n w, shift), (.shrl n w, shift), (.shls n w, shift),
      (.minOp n w, true), (.maxOp n w, true), (.absOp n w, true), (.negOp n w, true), (.movOp n w, true), (.bcast n w, bits w 5 3 == 0),
      (.ldil n w, true), (.ldih n w, bits w 17 14 == 0), (.cmplt n w, true), (.cmpeq n w, true), (.ext n w, accs),
      (.exte n w, accs && bits w 11 6 == 0), (.expa n w, accs), (.sete n w, true), (.mine n w, true), (.gete n w, true),
      (.sinit n w, true), (.smax n w, true), (.smin n w, true), (.smaxa n w, true), (.getbv n w, true), (.getbi n w, true),
      (.getaov n w, true), (.clraov n w, true)], AluGated e.1 s n w e.2 := by
  intro shift accs
  have hshift : shiftOk w = shift := beq_eq_decide ..
  have haccs : (bits w 17 12 == 0 && bits w 0 0 == 0) = accs := by simp [accs, beq_eq_decide]
  have hgated {i : Instr} {ok form : Bool} {val : Core → Lanes} (hi : exec i s = aluX n w ok val s) (hf : ok = form) :
      AluGated i s n w form := aluGated_of_aluOp hi hf
  have hreg {i : Instr} {g : Core → Core} (hi : exec i s = aluReg n w g s) : AluGated i s n w true := aluGated_of_aluOp hi rfl
  simp only [List.forall_mem_cons]
  exact ⟨aluGated_of_aluOp (exec_aluNop n w s) rfl, hgated (exec_addOp n w s) rfl, hgated (exec_adds n w s) rfl,
    hgated (exec_subOp n w s) rfl, hgated (exec_subs n w s) rfl, hgated (exec_andOp n w s) rfl, hgated (exec_orOp n w s) rfl,
    hgated (exec_xorOp n w s) rfl, hgated (exec_shl n w s) hshift, hgated (exec_shra n w s) hshift,
    hgated (exec_shrl n w s) hshift, hgated (exec_shls n w s) hshift, hgated (exec_minOp n w s) rfl,
    hgated (exec_maxOp n w s) rfl, hgated (exec_absOp n w s) rfl, hgated (exec_negOp n w s) rfl, hgated (exec_movOp n w s) rfl,
    hgated (exec_bcast n w s) rfl, hgated (exec_ldil n w s) rfl, hgated (exec_ldih n w s) rfl, hgated (exec_cmplt n w s) rfl,
    hgated (exec_cmpeq n w s) rfl, hgated (exec_ext n w s) haccs, hgated (exec_exte n w s) (by rw [haccs]),
    hgated (exec_expa n w s) haccs, hreg (exec_sete n w s), hreg (exec_mine n w s), hgated (exec_gete n w s) rfl,
    hreg (exec_sinit n w s), hreg (exec_smax n w s), hreg (exec_smin n w s), hreg (exec_smaxa n w s),
    hgated (exec_getbv n w s) rfl, hgated (exec_getbi n w s) rfl, hgated (exec_getaov n w s) rfl,
    aluGated_of_aluOp (exec_clraov n w s) rfl, List.forall_mem_nil _⟩

/-- Settles O53: the clauses on registers are the lemmas on each operation, those on forms the gate that all share. -/
theorem aluRegistersAndForms : Obligations.AluRegistersAndForms := by
  intro s n w c stg x base clampE found shift accs
  have hfound : found = fun i key up => Finds i s n w key up := rfl
  have hclamp : clampE = clampToE := rfl
  clear_value found clampE
  subst hfound hclamp
  refine ⟨fun h => ?_, fun e he => (aluOps_gated s n w e he).outcomes⟩
  have hmax (x b : Word) : decide (b.toInt < x.toInt) = true ↔ b.toInt < x.toInt := decide_eq_true_iff
  have hmin (x b : Word) : decide (x.toInt < b.toInt) = true ↔ -b.toInt < -x.toInt := by rw [decide_eq_true_iff, neg_lt_neg_iff]
  have habs (l : Fin 8) : (absWord x[l]).toInt = min (2 ^ 31 - 1) (x[l].toInt.natAbs : Int) := by
    rw [toInt_absWord, clampWord]
    omega
  obtain ⟨heq, hle, hall⟩ := minExponent_spec c.e x
  refine ⟨leaves_aluReg h (fun _ _ => rfl) rfl ?_ (exec_sete n w s),
    ⟨BitVec.ofInt 8 (minExponent c.e x), leaves_aluReg h (fun _ _ => rfl) rfl rfl (exec_mine n w s), ?_⟩,
    leaves_aluReg h (fun _ _ => rfl) rfl rfl (exec_sinit n w s), finds_aluSearch h hmax (fun _ => rfl) (exec_smax n w s),
    finds_aluSearch h hmin (fun _ => rfl) (exec_smin n w s), finds_aluSearch h hmax habs (exec_smaxa n w s), leaves_clraov h⟩
  · rw [clampE_eq]
    rfl
  · rw [toInt_minExponent]
    exact ⟨hle, hall, heq.imp_left fun he => by rw [he, BitVec.ofInt_toInt]⟩

end Sys2Proof.Machine
end

section
/-! PROOFS. What every command keeps: the invariants, what nothing undoes, and that a step always goes on. O59, O60, O58, O1. -/

namespace Sys2Proof.Machine

open Sys2Proof

set_option Elab.async false

/-- Every command answers a next state, and keeps what its own `_touch` lemma says. -/
theorem exec_touches (c : Instr) (s : State) : ∃ ps, AnsTouch ps s (exec c s) := by
  cases c with
  | linePowerUp => exact ⟨_, execLinePowerUp_touch ..⟩
  | dramTrained => exact ⟨_, execDramTrained_touch ..⟩
  | bootComplete => exact ⟨_, execBootComplete_touch ..⟩
  | coreRailSag => exact ⟨_, execCoreRailSag_touch ..⟩
  | clockedRailFall => exact ⟨_, execClockedRailFall_touch ..⟩
  | clockedRailReturn => exact ⟨_, execClockedRailReturn_touch ..⟩
  | pdTurnOff => exact ⟨_, execPdTurnOff_touch ..⟩
  | portPowerLoss => exact ⟨_, execPortPowerLoss_touch ..⟩
  | pdClassification => exact ⟨_, execPdClassification_touch ..⟩
  | pdVinUpdate => exact ⟨_, execPdVinUpdate_touch ..⟩
  | vauxShort => exact ⟨_, execVauxShort_touch ..⟩
  | vbusConnect => exact ⟨_, execVbusConnect_touch ..⟩
  | vbusLoss => exact ⟨_, execVbusLoss_touch ..⟩
  | vbusReversed => exact ⟨_, execVbusReversed_touch ..⟩
  | vbusOvervoltage => exact ⟨_, execVbusOvervoltage_touch ..⟩
  | ovShortRelease => exact ⟨_, execOvShortRelease_touch ..⟩
  | hvTokenTimeout => exact ⟨_, execHvTokenTimeout_touch ..⟩
  | hvLost => exact ⟨_, execHvLost_touch ..⟩
  | hvAwake => exact ⟨_, execHvAwake_touch ..⟩
  | hvWakeTimeout => exact ⟨_, execHvWakeTimeout_touch ..⟩
  | hvSleep => exact ⟨_, execHvSleep_touch ..⟩
  | perstNAssert => exact ⟨_, execPerstNAssert_touch ..⟩
  | perstNRelease => exact ⟨_, execPerstNRelease_touch ..⟩
  | pcieLinkTrained => exact ⟨_, execPcieLinkTrained_touch ..⟩
  | bmeChange => exact ⟨_, execBmeChange_touch ..⟩
  | softReset => exact ⟨_, execSoftReset_touch ..⟩
  | jtagReset => exact ⟨_, execJtagReset_touch ..⟩
  | noardResetAccept => exact ⟨_, execNoardResetAccept_touch ..⟩
  | resetStopTimeout => exact ⟨_, execResetStopTimeout_touch ..⟩
  | resetIslands => exact ⟨_, execResetIslands_touch ..⟩
  | resetCauseClear => exact ⟨_, execResetCauseClear_touch ..⟩
  | svcWatchdogRestart => exact ⟨_, execSvcWatchdogRestart_touch ..⟩
  | tickBoundary => exact ⟨_, execTickBoundary_touch ..⟩
  | tickToken => exact ⟨_, execTickToken_touch ..⟩
  | paramWriteEffect => exact ⟨_, execParamWriteEffect_touch ..⟩
  | vectorHandoff => exact ⟨_, execVectorHandoff_touch ..⟩
  | vectorMissed => exact ⟨_, execVectorMissed_touch ..⟩
  | fadeComplete => exact ⟨_, execFadeComplete_touch ..⟩
  | funcConfig => exact ⟨_, execFuncConfig_touch ..⟩
  | funcStart => exact ⟨_, execFuncStart_touch ..⟩
  | funcStop => exact ⟨_, execFuncStop_touch ..⟩
  | funcQuery => exact ⟨_, execFuncQuery_touch ..⟩
  | startEffect => exact ⟨_, execStartEffect_touch ..⟩
  | stopEffect => exact ⟨_, execStopEffect_touch ..⟩
  | startSequenceComplete => exact ⟨_, execStartSequenceComplete_touch ..⟩
  | stopFadeComplete => exact ⟨_, execStopFadeComplete_touch ..⟩
  | startTimeout => exact ⟨_, execStartTimeout_touch ..⟩
  | functionFault => exact ⟨_, execFunctionFault_touch ..⟩
  | logDropReport => exact ⟨_, execLogDropReport_touch ..⟩
  | registerWrite => exact ⟨_, execRegisterWrite_touch ..⟩
  | bar0BadAccess off size write => exact ⟨_, execBar0BadAccess_touch off size write s⟩
  | counterLoRead => exact ⟨_, execCounterLoRead_touch ..⟩
  | ringFetchSkipRead => exact ⟨_, execRingFetchSkipRead_touch ..⟩
  | pcieHosterrCountRead => exact ⟨_, execPcieHosterrCountRead_touch ..⟩
  | svcNoardCountRead => exact ⟨_, execSvcNoardCountRead_touch ..⟩
  | timeTickLoRead => exact ⟨_, execTimeTickLoRead_touch ..⟩
  | strmRxMarginRead => exact ⟨_, execStrmRxMarginRead_touch ..⟩
  | lovPeakRead => exact ⟨_, execLovPeakRead_touch ..⟩
  | lovClippedClear => exact ⟨_, execLovClippedClear_touch ..⟩
  | scTaskMaxRead => exact ⟨_, execScTaskMaxRead_touch ..⟩
  | memcWorstRt0Read => exact ⟨_, execMemcWorstRt0Read_touch ..⟩
  | xbarPeakRead => exact ⟨_, execXbarPeakRead_touch ..⟩
  | xbarErrCountRead => exact ⟨_, execXbarErrCountRead_touch ..⟩
  | ringEnable => exact ⟨_, execRingEnable_touch ..⟩
  | ringDisable => exact ⟨_, execRingDisable_touch ..⟩
  | ringDrainComplete => exact ⟨_, execRingDrainComplete_touch ..⟩
  | doorbellFetch => exact ⟨_, execDoorbellFetch_touch ..⟩
  | tarragonDoorbellFetch => exact ⟨_, execTarragonDoorbellFetch_touch ..⟩
  | doorbellReadComplete => exact ⟨_, execDoorbellReadComplete_touch ..⟩
  | descriptorReadComplete => exact ⟨_, execDescriptorReadComplete_touch ..⟩
  | completionRecordWrite => exact ⟨_, execCompletionRecordWrite_touch ..⟩
  | statusPageWrite => exact ⟨_, execStatusPageWrite_touch ..⟩
  | hostReadFail => exact ⟨_, execHostReadFail_touch ..⟩
  | nop => exact ⟨_, execNop_touch ..⟩
  | fence => exact ⟨_, execFence_touch ..⟩
  | fenceComplete => exact ⟨_, execFenceComplete_touch ..⟩
  | paramWrite => exact ⟨_, execParamWrite_touch ..⟩
  | paramRead => exact ⟨_, execParamRead_touch ..⟩
  | sched => exact ⟨_, execSched_touch ..⟩
  | schedCancel => exact ⟨_, execSchedCancel_touch ..⟩
  | schedActionApply => exact ⟨_, execSchedActionApply_touch ..⟩
  | lateActionApply => exact ⟨_, execLateActionApply_touch ..⟩
  | copy => exact ⟨_, execCopy_touch ..⟩
  | copyComplete => exact ⟨_, execCopyComplete_touch ..⟩
  | capture => exact ⟨_, execCapture_touch ..⟩
  | playback => exact ⟨_, execPlayback_touch ..⟩
  | loadImage => exact ⟨_, execLoadImage_touch ..⟩
  | imagePlaced => exact ⟨_, execImagePlaced_touch ..⟩
  | statsRead => exact ⟨_, execStatsRead_touch ..⟩
  | logRead => exact ⟨_, execLogRead_touch ..⟩
  | timeQuery => exact ⟨_, execTimeQuery_touch ..⟩
  | timeStepAccept => exact ⟨_, execTimeStepAccept_touch ..⟩
  | pathSwitch => exact ⟨_, execPathSwitch_touch ..⟩
  | routeSet => exact ⟨_, execRouteSet_touch ..⟩
  | routeRead => exact ⟨_, execRouteRead_touch ..⟩
  | memRetire => exact ⟨_, execMemRetire_touch ..⟩
  | polarityTest => exact ⟨_, execPolarityTest_touch ..⟩
  | loadTest => exact ⟨_, execLoadTest_touch ..⟩
  | noardRequest => exact ⟨_, execNoardRequest_touch ..⟩
  | noardReply => exact ⟨_, execNoardReply_touch ..⟩
  | replyWaitExpiry => exact ⟨_, execReplyWaitExpiry_touch ..⟩
  | noardEventNotice => exact ⟨_, execNoardEventNotice_touch ..⟩
  | arpRequest => exact ⟨_, execArpRequest_touch ..⟩
  | icmpEcho => exact ⟨_, execIcmpEcho_touch ..⟩
  | icmpv6Echo => exact ⟨_, execIcmpv6Echo_touch ..⟩
  | neighbourSolicitation => exact ⟨_, execNeighbourSolicitation_touch ..⟩
  | igmpQuery => exact ⟨_, execIgmpQuery_touch ..⟩
  | mldQuery => exact ⟨_, execMldQuery_touch ..⟩
  | identifyExpiry => exact ⟨_, execIdentifyExpiry_touch ..⟩
  | svcKeyWrite => exact ⟨_, execSvcKeyWrite_touch ..⟩
  | svcKeyRevoke => exact ⟨_, execSvcKeyRevoke_touch ..⟩
  | svcLock => exact ⟨_, execSvcLock_touch ..⟩
  | jtagNonceRead => exact ⟨_, execJtagNonceRead_touch ..⟩
  | jtagChallengeAnswer => exact ⟨_, execJtagChallengeAnswer_touch ..⟩
  | jtagLockoutEnd => exact ⟨_, execJtagLockoutEnd_touch ..⟩
  | anegComplete => exact ⟨_, execAnegComplete_touch ..⟩
  | linkUp => exact ⟨_, execLinkUp_touch ..⟩
  | linkDown => exact ⟨_, execLinkDown_touch ..⟩
  | linkAttemptFail => exact ⟨_, execLinkAttemptFail_touch ..⟩
  | anegWrite => exact ⟨_, execAnegWrite_touch ..⟩
  | anegRestart => exact ⟨_, execAnegRestart_touch ..⟩
  | frameReceive => exact ⟨_, execFrameReceive_touch ..⟩
  | pauseFrame => exact ⟨_, execPauseFrame_touch ..⟩
  | pauseExpiry => exact ⟨_, execPauseExpiry_touch ..⟩
  | frameTransmit => exact ⟨_, execFrameTransmit_touch ..⟩
  | forwardCommit => exact ⟨_, execForwardCommit_touch ..⟩
  | forwardEgressStart => exact ⟨_, execForwardEgressStart_touch ..⟩
  | ringClosedTimeout => exact ⟨_, execRingClosedTimeout_touch ..⟩
  | nodeIdGraceEnd => exact ⟨_, execNodeIdGraceEnd_touch ..⟩
  | pathTopoWrite => exact ⟨_, execPathTopoWrite_touch ..⟩
  | unsyncIlkChange => exact ⟨_, execUnsyncIlkChange_touch ..⟩
  | unsyncEnd => exact ⟨_, execUnsyncEnd_touch ..⟩
  | ilkNChange => exact ⟨_, execIlkNChange_touch ..⟩
  | ilkSample => exact ⟨_, execIlkSample_touch ..⟩
  | ptpSync => exact ⟨_, execPtpSync_touch ..⟩
  | ptpFollowUp => exact ⟨_, execPtpFollowUp_touch ..⟩
  | ptpDelayReq => exact ⟨_, execPtpDelayReq_touch ..⟩
  | ptpDelayResp => exact ⟨_, execPtpDelayResp_touch ..⟩
  | ptpPdelayReq => exact ⟨_, execPtpPdelayReq_touch ..⟩
  | ptpPdelayResp => exact ⟨_, execPtpPdelayResp_touch ..⟩
  | ptpAnnounce => exact ⟨_, execPtpAnnounce_touch ..⟩
  | servoUpdate => exact ⟨_, execServoUpdate_touch ..⟩
  | announceTimeout => exact ⟨_, execAnnounceTimeout_touch ..⟩
  | ptpSyncSend => exact ⟨_, execPtpSyncSend_touch ..⟩
  | ptpAnnounceSend => exact ⟨_, execPtpAnnounceSend_touch ..⟩
  | ptpDelayReqSend => exact ⟨_, execPtpDelayReqSend_touch ..⟩
  | lockTimer => exact ⟨_, execLockTimer_touch ..⟩
  | refQualUpdate => exact ⟨_, execRefQualUpdate_touch ..⟩
  | slewComplete => exact ⟨_, execSlewComplete_touch ..⟩
  | oscModelSave => exact ⟨_, execOscModelSave_touch ..⟩
  | wcinEdge => exact ⟨_, execWcinEdge_touch ..⟩
  | wcinLoss => exact ⟨_, execWcinLoss_touch ..⟩
  | timeCtrlWrite => exact ⟨_, execTimeCtrlWrite_touch ..⟩
  | streamPacketReceive => exact ⟨_, execStreamPacketReceive_touch ..⟩
  | streamPacketLaunch => exact ⟨_, execStreamPacketLaunch_touch ..⟩
  | crosspointRampEnd => exact ⟨_, execCrosspointRampEnd_touch ..⟩
  | generatorSettingApply => exact ⟨_, execGeneratorSettingApply_touch ..⟩
  | playbackFrameRead => exact ⟨_, execPlaybackFrameRead_touch ..⟩
  | taskRelease => exact ⟨_, execTaskRelease_touch ..⟩
  | taskDeadlineMiss => exact ⟨_, execTaskDeadlineMiss_touch ..⟩
  | taskTimeout => exact ⟨_, execTaskTimeout_touch ..⟩
  | interruptTaken => exact ⟨_, execInterruptTaken_touch ..⟩
  | trapTaken => exact ⟨_, execTrapTaken_touch ..⟩
  | resultLand => exact ⟨_, execResultLand_touch ..⟩
  | xfDone => exact ⟨_, execXfDone_touch ..⟩
  | waitxfResume => exact ⟨_, execWaitxfResume_touch ..⟩
  | loopExit => exact ⟨_, execLoopExit_touch ..⟩
  | scDoorbell => exact ⟨_, execScDoorbell_touch ..⟩
  | loadPortAccess => exact ⟨_, execLoadPortAccess_touch ..⟩
  | mnop => exact ⟨_, execMnop_touch ..⟩
  | mpy => exact ⟨_, execMpy_touch ..⟩
  | macOp => exact ⟨_, execMac_touch ..⟩
  | msu => exact ⟨_, execMsu_touch ..⟩
  | mpya => exact ⟨_, execMpya_touch ..⟩
  | aadd => exact ⟨_, execAadd_touch ..⟩
  | asub => exact ⟨_, execAsub_touch ..⟩
  | amov => exact ⟨_, execAmov_touch ..⟩
  | aclr => exact ⟨_, execAclr_touch ..⟩
  | ald => exact ⟨_, execAld_touch ..⟩
  | aluNop => exact ⟨_, execAluNop_touch ..⟩
  | addOp => exact ⟨_, execAdd_touch ..⟩
  | adds => exact ⟨_, execAdds_touch ..⟩
  | subOp => exact ⟨_, execSub_touch ..⟩
  | subs => exact ⟨_, execSubs_touch ..⟩
  | andOp => exact ⟨_, execAnd_touch ..⟩
  | orOp => exact ⟨_, execOr_touch ..⟩
  | xorOp => exact ⟨_, execXor_touch ..⟩
  | shl => exact ⟨_, execShl_touch ..⟩
  | shra => exact ⟨_, execShra_touch ..⟩
  | shrl => exact ⟨_, execShrl_touch ..⟩
  | shls => exact ⟨_, execShls_touch ..⟩
  | minOp => exact ⟨_, execMin_touch ..⟩
  | maxOp => exact ⟨_, execMax_touch ..⟩
  | absOp => exact ⟨_, execAbs_touch ..⟩
  | negOp => exact ⟨_, execNeg_touch ..⟩
  | movOp => exact ⟨_, execMov_touch ..⟩
  | bcast => exact ⟨_, execBcast_touch ..⟩
  | ldil => exact ⟨_, execLdil_touch ..⟩
  | ldih => exact ⟨_, execLdih_touch ..⟩
  | cmplt => exact ⟨_, execCmplt_touch ..⟩
  | cmpeq => exact ⟨_, execCmpeq_touch ..⟩
  | ext => exact ⟨_, execExt_touch ..⟩
  | exte => exact ⟨_, execExte_touch ..⟩
  | expa => exact ⟨_, execExpa_touch ..⟩
  | sete => exact ⟨_, execSete_touch ..⟩
  | mine => exact ⟨_, execMine_touch ..⟩
  | gete => exact ⟨_, execGete_touch ..⟩
  | sinit => exact ⟨_, execSinit_touch ..⟩
  | smax => exact ⟨_, execSmax_touch ..⟩
  | smin => exact ⟨_, execSmin_touch ..⟩
  | smaxa => exact ⟨_, execSmaxa_touch ..⟩
  | getbv => exact ⟨_, execGetbv_touch ..⟩
  | getbi => exact ⟨_, execGetbi_touch ..⟩
  | getaov => exact ⟨_, execGetaov_touch ..⟩
  | clraov => exact ⟨_, execClraov_touch ..⟩
  | br => exact ⟨_, execBr_touch ..⟩
  | bz => exact ⟨_, execBz_touch ..⟩
  | bnz => exact ⟨_, execBnz_touch ..⟩
  | bneg => exact ⟨_, execBneg_touch ..⟩
  | loopi => exact ⟨_, execLoopi_touch ..⟩
  | loopr => exact ⟨_, execLoopr_touch ..⟩
  | waitxf => exact ⟨_, execWaitxf_touch ..⟩
  | endTask => exact ⟨_, execEnd_touch ..⟩
  | rti => exact ⟨_, execRti_touch ..⟩
  | rtij => exact ⟨_, execRtij_touch ..⟩
  | trapOp => exact ⟨_, execTrap_touch ..⟩
  | mvnop => exact ⟨_, execMvnop_touch ..⟩
  | ldv => exact ⟨_, execLdv_touch ..⟩
  | ldb => exact ⟨_, execLdb_touch ..⟩
  | stv => exact ⟨_, execStv_touch ..⟩
  | sts => exact ⟨_, execSts_touch ..⟩
  | ldal => exact ⟨_, execLdal_touch ..⟩
  | ldam => exact ⟨_, execLdam_touch ..⟩
  | ldah => exact ⟨_, execLdah_touch ..⟩
  | stal => exact ⟨_, execStal_touch ..⟩
  | stam => exact ⟨_, execStam_touch ..⟩
  | stah => exact ⟨_, execStah_touch ..⟩
  | modp => exact ⟨_, execModp_touch ..⟩
  | mvar => exact ⟨_, execMvar_touch ..⟩
  | mvra => exact ⟨_, execMvra_touch ..⟩
  | lia => exact ⟨_, execLia_touch ..⟩
  | pdmWarmupEnd => exact ⟨_, execPdmWarmupEnd_touch ..⟩
  | pdmClockStop => exact ⟨_, execPdmClockStop_touch ..⟩
  | decStuck => exact ⟨_, execDecStuck_touch ..⟩
  | decStuckRecover => exact ⟨_, execDecStuckRecover_touch ..⟩
  | dsyncEdge => exact ⟨_, execDsyncEdge_touch ..⟩
  | dsyncReset => exact ⟨_, execDsyncReset_touch ..⟩
  | decSettleEnd => exact ⟨_, execDecSettleEnd_touch ..⟩
  | tdmFrame => exact ⟨_, execTdmFrame_touch ..⟩
  | tdmLoss => exact ⟨_, execTdmLoss_touch ..⟩
  | pchFswCtrlWrite => exact ⟨_, execPchFswCtrlWrite_touch ..⟩
  | pchSwitchingBegin => exact ⟨_, execPchSwitchingBegin_touch ..⟩
  | pchEnterRunning => exact ⟨_, execPchEnterRunning_touch ..⟩
  | pchCmRampDown => exact ⟨_, execPchCmRampDown_touch ..⟩
  | pchLowSideClosed => exact ⟨_, execPchLowSideClosed_touch ..⟩
  | pchSwitchesOpen => exact ⟨_, execPchSwitchesOpen_touch ..⟩
  | fastStopEnd => exact ⟨_, execFastStopEnd_touch ..⟩
  | chiveSettingApply => exact ⟨_, execChiveSettingApply_touch ..⟩
  | chiveCut => exact ⟨_, execChiveCut_touch ..⟩
  | chiveRestore => exact ⟨_, execChiveRestore_touch ..⟩
  | currentLimit => exact ⟨_, execCurrentLimit_touch ..⟩
  | shortDetect => exact ⟨_, execShortDetect_touch ..⟩
  | overload => exact ⟨_, execOverload_touch ..⟩
  | dcFault => exact ⟨_, execDcFault_touch ..⟩
  | openLoad => exact ⟨_, execOpenLoad_touch ..⟩
  | impedanceWindow => exact ⟨_, execImpedanceWindow_touch ..⟩
  | dieTempEvent => exact ⟨_, execDieTempEvent_touch ..⟩
  | baseplateTempEvent => exact ⟨_, execBaseplateTempEvent_touch ..⟩
  | logicDieTempWarning => exact ⟨_, execLogicDieTempWarning_touch ..⟩
  | tempWarningClear => exact ⟨_, execTempWarningClear_touch ..⟩
  | retryWaitExpiry => exact ⟨_, execRetryWaitExpiry_touch ..⟩
  | probe => exact ⟨_, execProbe_touch ..⟩
  | retryClear => exact ⟨_, execRetryClear_touch ..⟩
  | sageUpdate => exact ⟨_, execSageUpdate_touch ..⟩
  | sageWindow => exact ⟨_, execSageWindow_touch ..⟩
  | sageStateSave => exact ⟨_, execSageStateSave_touch ..⟩
  | polarityImpulse => exact ⟨_, execPolarityImpulse_touch ..⟩
  | polarityResult => exact ⟨_, execPolarityResult_touch ..⟩
  | loadTestResult => exact ⟨_, execLoadTestResult_touch ..⟩
  | xbarRequest => exact ⟨_, execXbarRequest_touch ..⟩
  | burstGrant => exact ⟨_, execBurstGrant_touch ..⟩
  | masterResetDrain => exact ⟨_, execMasterResetDrain_touch ..⟩
  | swap => exact ⟨_, execSwap_touch ..⟩
  | fetchAdd => exact ⟨_, execFetchAdd_touch ..⟩
  | fetchAnd => exact ⟨_, execFetchAnd_touch ..⟩
  | fetchOr => exact ⟨_, execFetchOr_touch ..⟩
  | cas => exact ⟨_, execCas_touch ..⟩
  | dramRefresh => exact ⟨_, execDramRefresh_touch ..⟩
  | selfRefreshEntry => exact ⟨_, execSelfRefreshEntry_touch ..⟩
  | patrolScrub => exact ⟨_, execPatrolScrub_touch ..⟩
  | parityAlert => exact ⟨_, execParityAlert_touch ..⟩
  | migrationMibCopy => exact ⟨_, execMigrationMibCopy_touch ..⟩
  | rankMapSwitch => exact ⟨_, execRankMapSwitch_touch ..⟩
  | psWordWrite => exact ⟨_, execPsWordWrite_touch ..⟩
  | elapsedSecond => exact ⟨_, execElapsedSecond_touch ..⟩
  | elapsedRecordSave => exact ⟨_, execElapsedRecordSave_touch ..⟩
  | coreRailRecovery => exact ⟨_, execCoreRailRecovery_touch ..⟩
  | vbusOvClear => exact ⟨_, execVbusOvClear_touch ..⟩
  | syncReceiptTimeout => exact ⟨_, execSyncReceiptTimeout_touch ..⟩
  | pcieLinkDown => exact ⟨_, execPcieLinkDown_touch ..⟩
  | d3hotTransition => exact ⟨_, execD3hotTransition_touch ..⟩
  | msixMaskChange => exact ⟨_, execMsixMaskChange_touch ..⟩
  | transactionResponse => exact ⟨_, execTransactionResponse_touch ..⟩
  | tempStopRecovery => exact ⟨_, execTempStopRecovery_touch ..⟩
  | openLoadClear => exact ⟨_, execOpenLoadClear_touch ..⟩
  | dramHotChange => exact ⟨_, execDramHotChange_touch ..⟩
  | rowHammerWindowEnd => exact ⟨_, execRowHammerWindowEnd_touch ..⟩
  | pchVbusUpdate => exact ⟨_, execPchVbusUpdate_touch ..⟩
  | ledDarkPeriodEnd => exact ⟨_, execLedDarkPeriodEnd_touch ..⟩
  | ledBlinkToggle => exact ⟨_, execLedBlinkToggle_touch ..⟩

/-- A step answers a next state that keeps of every part what commands keep; only the queue is one shorter. -/
theorem step_touches (s : State) : ∃ t, step s = .next t ∧ t.pending = s.pending.tail ∧ (∀ p : Part, p.later s t) ∧
    (s.pending = [] → t = s) := by
  unfold step
  cases hq : s.pending with
  | nil => exact ⟨s, rfl, hq, fun p => p.later_refl s, fun _ => rfl⟩
  | cons c rest =>
    obtain ⟨ps, t, ht, htouch⟩ := exec_touches c { s with pending := rest }
    refine ⟨t, ht, htouch.queue, fun p => ?_, fun h => nomatch h⟩
    have hlater := htouch.later p
    cases p <;> exact hlater

theorem later_of_step {s t : State} (h : step s = .next t) (p : Part) : p.later s t := by
  obtain ⟨u, hu, -, hlater, -⟩ := step_touches s
  obtain rfl : u = t := Host.Outcome.next.inj (hu.symm.trans h)
  exact hlater p

/-- Settles O59: each clause is what a step keeps of one part. -/
theorem stepsKeepInvariants : Obligations.StepsKeepInvariants := by
  intro s t h
  have hlog : s.log.Later t.log := later_of_step h .log
  refine ⟨later_of_step h .mem, fun hs => ?_, later_of_step h .cnt⟩
  obtain ⟨hle, hmax⟩ := hlog hs.2
  exact ⟨hs.1.trans hle, hmax⟩

/-- Settles O60: the variant, the security state and the log, each as a step keeps it. -/
theorem neverUndone : Obligations.NeverUndone := by
  intro s t h
  obtain ⟨hprov, hkeys, hnoard, himage, hminima⟩ : s.svc.Later t.svc := later_of_step h .svc
  exact ⟨later_of_step h .chip, fun hp => ⟨hprov hp, hkeys hp⟩, fun i => ⟨hnoard i, himage i, hminima i⟩, later_of_step h .log⟩

/-- Settles O58: no arm of `exec` refuses or faults, since each has its `_touch` lemma. -/
theorem everyStepGoes : Obligations.EveryStepGoes := by
  intro s
  obtain ⟨t, hstep, hqueue, -, hidle⟩ := step_touches s
  exact ⟨t, hstep, hqueue, hidle⟩

/-- Settles O1: `step` on a queue with a command at its front. -/
theorem stepRunsFront : Obligations.StepRunsFront := fun _ _ _ => rfl

end Sys2Proof.Machine
end

section
/-! PROOFS. Register accesses: what a plain write leaves and what a read of it then returns, O2. -/

namespace Sys2Proof.Machine

open Sys2Proof

set_option Elab.async false

/-! How a command's answer meets a statement's frame. -/

/-- The command's next state, its frame and what holds of it. -/
theorem Touch.does {c : Instr} {s t : State} {ps : List Part} {P : State → Prop} (ht : Touch ps s t)
    (he : exec c s = .next t) (hP : P t) : Does c s ps P := ⟨t, he, ht.queue, ht.frame, hP⟩

/-- A command whose `_touch` lemma names no part beyond the frame's. -/
theorem AnsTouch.does {c : Instr} {s t : State} {qs ps : List Part} {P : State → Prop} (h : AnsTouch qs s (exec c s))
    (he : exec c s = .next t) (hP : P t) (hsub : subParts qs ps = true := by rfl) : Does c s ps P := by
  obtain ⟨u, hu, htouch⟩ := h
  obtain rfl : u = t := Host.Outcome.next.inj (hu.symm.trans he)
  exact (htouch.after (Touch.refl ps s) hsub).does he hP

/-! Updates of the host registers that leave rings and pages alone, and of one port. -/

theorem Touch.link_of_onHost {g : HostSt → HostSt} (s : State)
    (hrings : ∀ x, (g x).rings = x.rings := by intro _; rfl)
    (hpages : ∀ x, (g x).hostPage = x.hostPage ∧ (g x).tarrPage = x.tarrPage := by intro _; exact ⟨rfl, rfl⟩)
    (htaken : ∀ x, (g x).taken = x.taken ∧ (g x).lastServed = x.lastServed := by intro _; exact ⟨rfl, rfl⟩)
    (hmem : ∀ x, (g x).hostMem = x.hostMem := by intro _; rfl) : Touch [.link] s (s.onHost g) :=
  Touch.onHost (Touch.refl _ _) (.inr hrings) (.inr hpages) (.inr htaken) (.inl rfl) (.inr hmem)

theorem Touch.portA_of_onPort (g : PortSt → PortSt) (s : State) : Touch [.portA] s (s.onPort .a g) :=
  Touch.onNet (g := fun n => { n with a := g n.a }) (Touch.refl _ _) (.inl rfl) (.inr fun _ => rfl)

theorem Touch.portB_of_onPort (g : PortSt → PortSt) (s : State) : Touch [.portB] s (s.onPort .b g) :=
  Touch.onNet (g := fun n => { n with b := g n.b }) (Touch.refl _ _) (.inr fun _ => rfl) (.inl rfl)

/-! Which blocks answer, and what they return (R64, R454). -/

theorem blockOpen_of_stage {s : State} (h : 3 ≤ s.chip.stage.toNat) (b : Nat) : s.blockOpen b = true := by
  simp [State.blockOpen, h]

theorem blockOpen_low (s : State) {b : Nat} (h : b ≤ 1) : s.blockOpen b = true := by simp [State.blockOpen, h]

theorem blockOpen_early {s : State} (h : s.chip.stage.toNat < 3) {b : Nat} (hb : 2 ≤ b) : s.blockOpen b = false := by
  have : ¬ b ≤ 1 := by omega
  simp [State.blockOpen, this, h]

theorem exec_registerWrite_open {s : State} (h : 3 ≤ s.chip.stage.toNat) (off : BitVec 20) (v : Word) :
    exec (.registerWrite off v) s = .next (s.regPut off.toNat v) := by
  rw [exec_registerWrite, execRegisterWrite, State.regWrite, if_pos (blockOpen_of_stage h _)]

theorem regPut_unaligned {off : Nat} (h : off % 4 ≠ 0) (v : Word) (s : State) : s.regPut off v = s := by
  simp [State.regPut, h]

theorem counterAt_port {off : Nat} (hb : off / 0x1000 = 4 ∨ off / 0x1000 = 5) (ho : off % 0x1000 < 0x100) :
    counterAt off = none := by
  have : ¬ 0x100 ≤ off % 0x1000 := by omega
  rcases hb with hb | hb <;> simp [counterAt, cntReg, hb, this]

theorem counterAt_path {off : Nat} (hb : off / 0x1000 = 6) (ho : off % 0x1000 < 0x100) : counterAt off = none := by
  have h1 : ¬ 0x100 ≤ off % 0x1000 := by omega
  have h2 : ¬ 0x200 ≤ off % 0x1000 := by omega
  simp [counterAt, cntReg, hb, h1, h2]

section
variable {s : State} {off : Nat}

theorem regRead_global (hb : off / 0x1000 = 0) : s.regRead off = globalReg s (off % 0x1000) := by
  simp [State.regRead, State.blockOpen, counterAt, hb]

theorem regRead_pcie (hb : off / 0x1000 = 1) : s.regRead off = pcieReg s (off % 0x1000) := by
  simp [State.regRead, State.blockOpen, counterAt, hb]

variable (h : 3 ≤ s.chip.stage.toNat)
include h

theorem regRead_ring (hb : off / 0x1000 = 2) : s.regRead off = ringReg s (off % 0x1000) := by
  simp [State.regRead, blockOpen_of_stage h, counterAt, hb]

theorem regRead_time (hb : off / 0x1000 = 3) : s.regRead off = timeReg s (off % 0x1000) := by
  simp [State.regRead, blockOpen_of_stage h, counterAt, hb]

theorem regRead_netA (hb : off / 0x1000 = 4) (ho : off % 0x1000 < 0x100) : s.regRead off = netReg s .a (off % 0x1000) := by
  simp [State.regRead, blockOpen_of_stage h, counterAt_port (.inl hb) ho, hb]

theorem regRead_netB (hb : off / 0x1000 = 5) (ho : off % 0x1000 < 0x100) : s.regRead off = netReg s .b (off % 0x1000) := by
  simp [State.regRead, blockOpen_of_stage h, counterAt_port (.inr hb) ho, hb]

theorem regRead_path (hb : off / 0x1000 = 6) (ho : off % 0x1000 < 0x100) : s.regRead off = pathReg s (off % 0x1000) := by
  simp [State.regRead, blockOpen_of_stage h, counterAt_path hb ho, hb]

theorem regRead_svc (hb : off / 0x1000 = 15) : s.regRead off = svcReg s (off % 0x1000) := by
  simp [State.regRead, blockOpen_of_stage h, counterAt, hb]

end

/-! A ring's registers, by ring and offset in its block (R87). -/

theorem regPut_ring (q : Fin 32) {k : Nat} (hk : k < 0x40) (hal : k % 4 = 0) (v : Word) (s : State) :
    s.regPut (0x2000 + k + 0x40 * q.val) v = ringWrite q k v s := by
  have h0 : (0x2000 + k + 0x40 * q.val) % 4 = 0 := by omega
  have h1 : (0x2000 + k + 0x40 * q.val) / 0x1000 = 2 := by omega
  have h2 : (0x2000 + k + 0x40 * q.val) % 0x1000 = k + 0x40 * q.val := by omega
  have h3 : k + 0x40 * q.val < 0x800 := by omega
  have h4 : Fin.ofNat 32 ((k + 0x40 * q.val) / 0x40) = q := Fin.ext (by simp; omega)
  have h5 : (k + 0x40 * q.val) % 0x40 = k := by omega
  simp only [State.regPut, h0, h1, h2, h3, h4, h5, ne_eq, not_true_eq_false, if_false, OfNat.ofNat_ne_zero, if_true,
    OfNat.ofNat_ne_one]

section
variable {s : State} (h : 3 ≤ s.chip.stage.toNat) (q : Fin 32)
include h

theorem regRead_sqBaseLo : s.regRead (0x2000 + 0x40 * q.val) = loW (s.ring q).sqBase := by
  have hq : (0x2000 + 0x40 * q.val) % 0x1000 = 0x40 * q.val ∧ 0x40 * q.val < 0x800 ∧ 0x40 * q.val / 0x40 = q.val ∧
    0x40 * q.val % 0x40 = 0 := by omega
  rw [regRead_ring h (by omega)]
  simp [ringReg, hq]

theorem regRead_sqBaseHi : s.regRead (0x2004 + 0x40 * q.val) = hiW (s.ring q).sqBase := by
  have hq : (0x2004 + 0x40 * q.val) % 0x1000 = 4 + 0x40 * q.val ∧ 4 + 0x40 * q.val < 0x800 ∧
    (4 + 0x40 * q.val) / 0x40 = q.val ∧ (4 + 0x40 * q.val) % 0x40 = 4 := by omega
  rw [regRead_ring h (by omega)]
  simp [ringReg, hq]

theorem regRead_budget : s.regRead (0x2014 + 0x40 * q.val) = pk [((s.ring q).budget.toNat, 0)] := by
  have hq : (0x2014 + 0x40 * q.val) % 0x1000 = 0x14 + 0x40 * q.val ∧ 0x14 + 0x40 * q.val < 0x800 ∧
    (0x14 + 0x40 * q.val) / 0x40 = q.val ∧ (0x14 + 0x40 * q.val) % 0x40 = 0x14 := by omega
  rw [regRead_ring h (by omega)]
  simp [ringReg, hq]

end

theorem loW_putLo (d : DWord) (v : Word) : loW (putLo d v) = v := by
  apply BitVec.eq_of_getLsbD_eq
  intro i hi
  simp [loW, putLo, hi]

theorem hiW_putLo (d : DWord) (v : Word) : hiW (putLo d v) = hiW d := by
  have hmask : ∀ i < 32, (0xFFFFFFFF00000000 : DWord).getLsbD (32 + i) = true := by decide
  apply BitVec.eq_of_getLsbD_eq
  intro i hi
  have hset := hmask i hi
  simp only [BitVec.ofNat_eq_ofNat] at hset
  simp [hiW, putLo, hset]

theorem pk_bit0 (v : Word) : pk [(b2n (bit v 0), 0)] = v &&& 1 := by
  apply BitVec.eq_of_toNat_eq
  have hmod : v.toNat &&& 1 = v.toNat % 2 := Nat.and_one_is_mod _
  cases hb : bit v 0
  all_goals
    simp [bit, BitVec.getLsbD] at hb
    simp [pk, b2n, hmod]
    omega

theorem pk_low8 (v : Word) : pk [((v.truncate 8 : Byte).toNat, 0)] = v &&& 0xFF := by
  apply BitVec.eq_of_toNat_eq
  have hmod : v.toNat &&& 0xFF = v.toNat % 2 ^ 8 := Nat.and_two_pow_sub_one_eq_mod _ 8
  simp [pk, hmod]
  omega

/-- Settles O2: each write is the update of its field, and the read finds that field. -/
theorem plainRegisterWrites : Obligations.PlainRegisterWrites := by
  intro s v h
  have hw (off : BitVec 20) : exec (.registerWrite off v) s = .next (s.regPut off.toNat v) := exec_registerWrite_open h off v
  have hring (q : Fin 32) {k : Nat} (hk : k < 0x40) (hal : k % 4 = 0) :
      exec (.registerWrite (BitVec.ofNat 20 (0x2000 + k + 0x40 * q.val)) v) s = .next (ringWrite q k v s) := by
    have hoff : (BitVec.ofNat 20 (0x2000 + k + 0x40 * q.val)).toNat = 0x2000 + k + 0x40 * q.val := Nat.mod_eq_of_lt (by omega)
    rw [hw, hoff, regPut_ring q hk hal]
  refine ⟨(Touch.onChip (g := fun c => { c with scratch := v }) (Touch.refl _ _) (fun _ => rfl) rfl).does (hw _)
      ⟨rfl, regRead_global rfl⟩,
    (Touch.link_of_onHost (g := fun h => { h with relaxed := bit v 0 }) s).does (hw _)
      ⟨rfl, (regRead_pcie rfl).trans (pk_bit0 v)⟩,
    fun q ht => ?_, fun q ht he hd => ?_, fun hf => ?_,
    (Touch.onTime (g := fun t => { t with board := v &&& 0xFFFF }) (Touch.refl _ _) rfl).does (hw _)
      ⟨rfl, regRead_time h rfl⟩,
    (Touch.portA_of_onPort (fun r => { r with vlan := v &&& 0x0FFF0003 }) s).does (hw _)
      ⟨rfl, regRead_netA h rfl (by decide)⟩,
    (Touch.portB_of_onPort (fun r => { r with led := v &&& 0x1F07 }) s).does (hw _) ⟨rfl, regRead_netB h rfl (by decide)⟩,
    (Touch.onPath (g := fun x => { x with fwd := v &&& 7 }) (Touch.refl _ _) rfl).does (hw _)
      ⟨rfl, regRead_path h rfl (by decide)⟩,
    (Touch.onSvcAt (g := fun x => { x with keySel := v &&& 0x33 }) (Touch.refl _ _) rfl rfl
      (SvcSt.Later.of_eq rfl rfl rfl rfl rfl rfl rfl)).does (hw _) ⟨rfl, regRead_svc h rfl⟩,
    fun off hal => by rw [hw, regPut_unaligned hal], hw _, hw _, hw _⟩
  · have hput : ringWrite q 0x14 v s = s.onRing q fun r => { r with budget := v.truncate 8 } := by simp [ringWrite, ht]
    refine (State.onRing_touch ..).does ((hring q (k := 0x14) (by decide) rfl).trans (congrArg _ hput))
      ⟨State.ring_onRing q _ s, fun r hr => State.ring_onRing_ne _ _ hr, ?_⟩
    rw [regRead_budget, State.ring_onRing, pk_low8]
    exact h
  · have hput : ringWrite q 0 v s = s.onRing q fun r => { r with sqBase := putLo r.sqBase (v &&& 0xFFFFFFC0) } := by
      simp [ringWrite, ht, he, hd]
    refine (State.onRing_touch ..).does ((hring q (k := 0) (by decide) rfl).trans (congrArg _ hput))
      ⟨fun r hr => State.ring_onRing_ne _ _ hr, ?_, ?_⟩
    · rw [regRead_sqBaseLo, State.ring_onRing, loW_putLo]
      exact h
    · rw [regRead_sqBaseHi, State.ring_onRing, hiW_putLo, regRead_sqBaseHi h]
      exact h
  · have hput : s.regPut 0x2800 v = s.onHost fun h => { h with dbAddr := putLo h.dbAddr (v &&& 0xFFFFF000) } := by
      simp [State.regPut, ringCommonWrite, State.onHost, hf]
    refine (Touch.link_of_onHost s).does ((hw _).trans (congrArg _ hput)) ⟨?_, ?_, ?_, ?_⟩
    · exact Eq.trans (regRead_ring h rfl) (loW_putLo _ _)
    · rw [regRead_ring (s := s) h rfl]
      exact Eq.trans (regRead_ring h rfl) (hiW_putLo _ _)
    all_goals
      rw [regRead_ring (s := s) h rfl]
      exact regRead_ring h rfl

end Sys2Proof.Machine
end

section
/-! PROOFS. Register reads and writes with an effect: the blocks that STAGE keeps closed, what a read takes, and what a
restricted write lets through, O3, O4, O5 and O6. -/

namespace Sys2Proof.Machine

open Sys2Proof

set_option Elab.async false

/-! Accesses to a block that STAGE has not opened, and to an open one (R64). -/

theorem readIn_open {b : Nat} {s : State} (h : s.blockOpen b = true) (eff : State → State) : readIn b eff s = eff s := if_pos h
theorem readIn_closed {b : Nat} {s : State} (h : s.blockOpen b = false) (eff : State → State) : readIn b eff s = s.answer 0 := by
  simp [readIn, h]
theorem writeIn_open {b : Nat} {s : State} (h : s.blockOpen b = true) (eff : State → State) : writeIn b eff s = eff s := if_pos h
theorem writeIn_closed {b : Nat} {s : State} (h : s.blockOpen b = false) (eff : State → State) : writeIn b eff s = s := by
  simp [writeIn, h]

/-- Settles O3: every block from 0x2000 on is closed, and each access asks for its block first. -/
theorem closedBlocks : Obligations.ClosedBlocks := by
  intro s h
  have hclosed {b : Nat} (hb : 2 ≤ b) : s.blockOpen b = false := blockOpen_early h hb
  have hwrite {b : Nat} (hb : 2 ≤ b) (eff : State → State) : (Host.Outcome.next (writeIn b eff s) : Answer) = .next s :=
    congrArg _ (writeIn_closed (hclosed hb) eff)
  have hread {b : Nat} (hb : 2 ≤ b) (eff : State → State) : (Host.Outcome.next (readIn b eff s) : Answer) = .next (s.answer 0) :=
    congrArg _ (readIn_closed (hclosed hb) eff)
  refine ⟨fun off hoff => ?_, fun off v hoff => ?_, fun v => hwrite (by decide) _, fun r v => hwrite (by decide) _,
    fun off v => hwrite (by decide) _, fun w v => hwrite (by decide) _, fun q v => ?_, fun q v => ?_,
    fun p v => hwrite (by cases p <;> decide) _, fun v => hwrite (by decide) _, fun n v => hwrite (by omega) _,
    hread (by decide) _, hread (by decide) _, hread (by decide) _⟩
  · have hb : 2 ≤ off / 0x1000 := by omega
    simp [State.regRead, hclosed hb]
  · have hb : 2 ≤ off.toNat / 0x1000 := by omega
    simp [execRegisterWrite, State.regWrite, hclosed hb]
  · simp [execRingEnable, hclosed (le_refl 2)]
  · simp [execRingDisable, hclosed (le_refl 2)]

/-! Reads that take a value (R7). -/

theorem hiW_eq (d : DWord) : hiW d = (d >>> 32).truncate 32 := rfl

theorem rx_onRx (p : Port) (k : Nat) (g : RxRec → RxRec) (s : State) : (s.onRx p k g).rx p k = g (s.rx p k) := by
  rw [State.rx, State.onRx, State.onStrm_strm, Store.get?_put_self, Option.getD_some]

theorem rx_answer (p : Port) (k : Nat) (w : Word) (s : State) : (s.answer w).rx p k = s.rx p k := rfl

theorem pk_margins (a b : BitVec 16) : pk [(a.toNat, 0), (b.toNat, 16)] = BitVec.ofNat 32 (a.toNat + b.toNat * 65536) := by
  simp [pk]

/-- Settles O4: each command is its block's update and the answer on the bus. -/
theorem readsWithEffect : Obligations.ReadsWithEffect := by
  intro s h got
  have hread (b : Nat) (eff : State → State) : (Host.Outcome.next (readIn b eff s) : Answer) = .next (eff s) :=
    congrArg _ (readIn_open (blockOpen_of_stage h b) eff)
  refine ⟨hread 2 _, rfl, fun i => ?_, hread 3 _, fun p k => ?_, hread 8 _, fun n => ?_, hread 12 _, fun m => ?_, hread 13 _⟩
  · exact (execSvcNoardCountRead_touch i s).does (hread 15 _)
      ⟨rfl, vmod_get_self _ _ _, fun j hj => vmod_get_ne _ _ hj, rfl⟩
  · refine (execStrmRxMarginRead_touch p k s).does (hread 7 _) ⟨congrArg some (pk_margins _ _), ?_, ?_, rfl, ?_⟩ <;>
      rw [rx_answer, rx_onRx]
  · exact (execScTaskMaxRead_touch n s).does (hread (0x10 + n.val) _)
      ⟨rfl, vmod_get_self _ _ _, fun m hm => vmod_get_ne _ _ hm⟩
  · exact (execXbarPeakRead_touch m s).does (hread 13 _)
      ⟨rfl, vmod_get_self _ _ _, rfl, fun j hj => vmod_get_ne _ _ hj⟩

/-! Counters: where their registers are, and what a read of LO leaves (R162). -/

theorem Store.get?_del {α : Type} (m : Store α) (k x : Nat) : (m.del k).get? x = if x = k then none else m.get? x := by
  induction m with
  | nil => simp [Store.del, Store.get?]
  | cons e r ih =>
    obtain ⟨j, w⟩ := e
    simp only [Store.del] at ih
    by_cases hj : j = k
    · subst hj
      by_cases hx : x = j
      · simp_all [Store.del]
      · simp [Store.del, Store.get?, ih, hx, Ne.symm hx]
    · by_cases hx : x = j
      · subst hx
        simp [Store.del, Store.get?, hj]
      · simp [Store.del, Store.get?, ih, hj, Ne.symm hx]

theorem cntKey_inj {f g i j : Nat} (hi : i < 4096) (hj : j < 4096) : cntKey g j = cntKey f i ↔ (g, j) = (f, i) := by
  simp only [cntKey, Prod.mk.injEq]
  omega

theorem count_readLo {f i : Nat} (hi : i < 4096) (s : State) (g j : Nat) (hj : j < 4096) :
    (s.readLo f i).count g j = if (g, j) = (f, i) then 0 else s.count g j := by
  simp only [State.count, State.readLo, State.onChip_cnt, State.onCnt_cnt, Store.get?_del, cntKey_inj hi hj]
  split <;> rfl

theorem hi_readLo (f i : Nat) (s : State) :
    (s.readLo f i).cnt.hi.get? (cntKey f i) = some (BitVec.ofNat 16 (s.count f i / 2 ^ 32)) := by
  simp [State.readLo]

theorem setWidth_ofNat_16 (x : Nat) : (BitVec.ofNat 16 x).setWidth 32 = BitVec.ofNat 32 (x % 65536) :=
  BitVec.eq_of_toNat_eq (by simp)

theorem cntReg_lo {base n i : Nat} (hbase : base % 4 = 0) (hi : i < n) : cntReg (base + 8 * i) base n = some (i, true) := by
  have h1 : (base + 8 * i - base) / 8 = i := by omega
  have h2 : (base + 8 * i - base) % 8 = 0 := by omega
  rw [cntReg, if_pos (by omega), h1, h2]
  rfl

theorem cntReg_hi {base n i : Nat} (hbase : base % 4 = 0) (hi : i < n) : cntReg (base + 4 + 8 * i) base n = some (i, false) := by
  have h1 : (base + 4 + 8 * i - base) / 8 = i := by omega
  have h2 : (base + 4 + 8 * i - base) % 8 = 4 := by omega
  rw [cntReg, if_pos (by omega), h1, h2]
  rfl

/-- The counter that starts each block of registers: ports, MEMC and cores. -/
theorem counterAt_lo {b i f n : Nat} (hi : i < 64) (h : (b = 4 ∧ f = 1 ∧ n = 30) ∨ (b = 5 ∧ f = 2 ∧ n = 30) ∨
    (b = 12 ∧ f = 0x0D ∧ n = 11) ∨ (0x10 ≤ b ∧ b < 0x20 ∧ f = b ∧ n = 7)) (hn : i < n) :
    counterAt (0x1000 * b + (0x100 + 8 * i)) = some (f, i, true) := by
  have hb : (0x1000 * b + (0x100 + 8 * i)) / 0x1000 = b := by omega
  have ho : (0x1000 * b + (0x100 + 8 * i)) % 0x1000 = 0x100 + 8 * i := by omega
  have hreg := cntReg_lo (base := 0x100) rfl hn
  rcases h with ⟨rfl, rfl, rfl⟩ | ⟨rfl, rfl, rfl⟩ | ⟨rfl, rfl, rfl⟩ | ⟨hlo, hhi, rfl, rfl⟩
  · simp [counterAt, hb, ho, hreg]
  · simp [counterAt, hb, ho, hreg]
  · simp [counterAt, hb, ho, hreg]
  · have : f ≠ 4 ∧ f ≠ 5 ∧ f ≠ 6 ∧ f ≠ 9 ∧ f ≠ 10 ∧ f ≠ 11 ∧ f ≠ 12 ∧ f ≠ 14 := by omega
    simp [counterAt, hb, ho, hreg, this, hlo, hhi]

theorem counterAt_portA_hi {i : Nat} (hi : i < 30) : counterAt (0x04104 + 8 * i) = some (1, i, false) := by
  have hb : (0x04104 + 8 * i) / 0x1000 = 4 := by omega
  have ho : (0x04104 + 8 * i) % 0x1000 = 0x104 + 8 * i := by omega
  simp [counterAt, hb, ho, cntReg_hi (base := 0x100) rfl hi]

theorem exec_counterLoRead_open {s : State} (h : 3 ≤ s.chip.stage.toNat) {off : BitVec 20} {f i : Nat}
    (hc : counterAt off.toNat = some (f, i, true)) (hb : off.toNat / 0x1000 ≠ 10 ∧ off.toNat / 0x1000 ≠ 11) :
    exec (.counterLoRead off) s = .next (s.readLo f i) := by
  simp [execCounterLoRead, hc, blockOpen_of_stage h, hb]

/-- Settles O5: the offset names its counter, and the read takes that one. -/
theorem counterReads : Obligations.CounterReads := by
  intro s h
  have hread {b f n i off : Nat} (hn : i < n) (hoff : off = 0x1000 * b + (0x100 + 8 * i))
      (hbase : (b = 4 ∧ f = 1 ∧ n = 30) ∨ (b = 5 ∧ f = 2 ∧ n = 30) ∨ (b = 12 ∧ f = 0x0D ∧ n = 11) ∨
        (0x10 ≤ b ∧ b < 0x20 ∧ f = b ∧ n = 7)) :
      exec (.counterLoRead (BitVec.ofNat 20 off)) s = .next (s.readLo f i) := by
    have hnat : (BitVec.ofNat 20 off).toNat = off := Nat.mod_eq_of_lt (by omega)
    refine exec_counterLoRead_open h ?_ ?_
    · rw [hnat, hoff]
      exact counterAt_lo (by omega) hbase hn
    · omega
  have hself (f : Nat) {i : Nat} (hi : i < 4096) : (s.readLo f i).count f i = 0 := by rw [count_readLo hi s f i hi, if_pos rfl]
  have hother (f : Nat) {i : Nat} (hi : i < 4096) (g j : Nat) (hj : j < 4096) (hne : (g, j) ≠ (f, i)) :
      (s.readLo f i).count g j = s.count g j := by rw [count_readLo hi s g j hj, if_neg hne]
  refine ⟨fun i => ?_, fun i => ?_, fun i => ?_, fun n i => ?_⟩
  · refine (execCounterLoRead_touch _ s).does (hread (b := 4) i.isLt (by omega) (by omega))
      ⟨rfl, hself 1 (by omega), ?_, hother 1 (by omega)⟩
    have hopen : (s.readLo 1 i.val).blockOpen 4 = true := blockOpen_of_stage (s := s.readLo 1 i.val) h 4
    have hb : (0x04104 + 8 * i.val) / 0x1000 = 4 := by omega
    simp [State.regRead, counterAt_portA_hi i.isLt, hb, hopen, hi_readLo, setWidth_ofNat_16]
  · exact (execCounterLoRead_touch _ s).does (hread (b := 5) i.isLt (by omega) (by omega))
      ⟨rfl, hself 2 (by omega), hother 2 (by omega)⟩
  · exact (execCounterLoRead_touch _ s).does (hread (b := 12) i.isLt (by omega) (by omega)) ⟨rfl, hself 0x0D (by omega)⟩
  · exact (execCounterLoRead_touch _ s).does (hread (b := 0x10 + n.val) i.isLt (by omega) (by omega)) ⟨rfl, hself _ (by omega)⟩

/-! Writes that a rule restricts (R168, R198, R374). -/

theorem bits_low2 (w : Word) : bits w 1 0 = (w &&& 3).toNat := by
  have hmod : w.toNat &&& 3 = w.toNat % 2 ^ 2 := Nat.and_two_pow_sub_one_eq_mod _ 2
  simp [bits, hmod]

theorem bits_low2_eq {w : Word} {n : Nat} (hn : n < 4) : bits w 1 0 = n ↔ w &&& 3 = BitVec.ofNat 32 n := by
  rw [bits_low2, BitVec.toNat_eq, BitVec.toNat_ofNat, Nat.mod_eq_of_lt (by omega)]

theorem mergeBits_topo_low2 (x v : Word) : mergeBits 0x13 x v &&& 3 = v &&& 3 := by
  rw [mergeBits, BitVec.and_or_distrib_right, BitVec.and_assoc, BitVec.and_assoc]
  simp

theorem followFed_topo (s : State) : (followFed s).path.topo = s.path.topo := by
  unfold followFed
  split <;> rfl

theorem followFed_chip (s : State) : (followFed s).chip = s.chip := by
  unfold followFed
  split <;> rfl

theorem followFed_frame (s : State) :
    (followFed s).path = { s.path with active := (followFed s).path.active, ilkLand := (followFed s).path.ilkLand } := by
  unfold followFed
  split <;> rfl

/-- Settles O6: each write under the condition that its block puts on it. -/
theorem writesWithEffect : Obligations.WritesWithEffect := by
  intro s v h
  have hwrite (b : Nat) (eff : State → State) : (Host.Outcome.next (writeIn b eff s) : Answer) = .next (eff s) :=
    congrArg _ (writeIn_open (blockOpen_of_stage h b) eff)
  refine ⟨fun off size w hbad => ?_, rfl, fun w => ?_, fun hst => ?_, fun hrun => ?_, fun hlock hv => ?_, fun hlock hv => ?_,
    fun hlock r => ?_, fun hsw hp => ?_, fun i hsw hp => ?_, fun hsw off => ?_⟩
  · have hbad' : ¬ (size = 4 ∧ off.toNat % 4 = 0) := by tauto
    simp [execBar0BadAccess, hbad', State.onChip]
  · exact (execLovClippedClear_touch w v s).does (hwrite 8 _) ⟨vmod_get_self _ _ _, fun j hj => vmod_get_ne _ _ hj, rfl⟩
  · refine (execTimeCtrlWrite_touch v s).does (hwrite 3 _) ⟨?_, rfl⟩
    rw [regRead_time (s := s) h rfl]
    refine Eq.trans (regRead_time h rfl) ?_
    rcases hst with hst | hst <;> simp [writeTimeCtrl, hst, timeReg, mergeBits]
  · refine (execTimeCtrlWrite_touch v s).does (hwrite 3 _) ⟨?_, rfl⟩
    rw [regRead_time (s := s) h rfl]
    refine Eq.trans (regRead_time h rfl) ?_
    have hst : s.life? .timekeeper = .running := by simpa [State.running] using hrun
    simp [writeTimeCtrl, hst, timeReg, mergeBits]
  · have hmask : bits v 1 0 ≠ 3 := fun hb => hv ((bits_low2_eq (by decide)).mp hb)
    have hput : writeTopo v s = followFed (s.onPath fun x => { x with topo := mergeBits 0x13 x.topo v }) := by
      simp [writeTopo, hlock, hmask]
    refine (execPathTopoWrite_touch false v s).does ((hwrite 6 _).trans (congrArg _ hput)) ⟨?_, ?_, fun hne => ?_⟩
    · rw [regRead_path (s := s) h rfl (by decide)]
      refine Eq.trans (regRead_path ?_ rfl (by decide)) (followFed_topo _)
      rwa [followFed_chip]
    · refine Eq.trans (followFed_frame _) ?_
      rw [followFed_topo]
      rfl
    · have htopo : (s.onPath fun x => { x with topo := mergeBits 0x13 x.topo v }).topo ≠ 0 := fun hz =>
        hne ((mergeBits_topo_low2 _ v).symm.trans ((bits_low2_eq (n := 0) (by decide)).mp hz))
      rw [followFed, if_neg htopo]
      exact ⟨rfl, rfl⟩
  · have hlow : ¬ v.toNat % 65536 < 0x600 := by omega
    have hput : writeRingType v s = s.onPath fun x => { x with ring := v &&& 0xFFFF } := by simp [writeRingType, hlock, hlow]
    exact (execPathTopoWrite_touch true v s).does ((hwrite 6 _).trans (congrArg _ hput)) rfl
  · cases r <;> simp [execPathTopoWrite, writeIn, writeTopo, writeRingType, hlock]
  · have hput : writeFsw 0 v s = s.onPwr fun p => { p with fswCtrl := v &&& 0x000703FF } := by simp [writeFsw, hsw, hp]
    exact (execPchFswCtrlWrite_touch 0 v s).does ((hwrite 10 _).trans (congrArg _ hput)) rfl
  · have hoff : (BitVec.ofNat 5 (0x10 + 4 * i.val)).toNat = 0x10 + 4 * i.val := Nat.mod_eq_of_lt (by omega)
    have hnat : 0x10 + 4 * i.val < 0x20 ∧ (0x10 + 4 * i.val) % 4 = 0 ∧ (0x10 + 4 * i.val - 0x10) / 4 = i.val := by omega
    have hput : writeFsw (BitVec.ofNat 5 (0x10 + 4 * i.val)).toNat v s =
        s.onPwr fun p => { p with bands := vmod p.bands i fun _ => v &&& 0x0FFFFFFF } := by
      rw [hoff]
      simp [writeFsw, hsw, hp, hnat]
    exact (execPchFswCtrlWrite_touch _ v s).does ((hwrite 10 _).trans (congrArg _ hput))
      ⟨vmod_get_self _ _ _, fun j hj => vmod_get_ne _ _ hj, rfl⟩
  · simp [execPchFswCtrlWrite, writeIn, writeFsw, hsw]

end Sys2Proof.Machine
end

section
/-! PROOFS. What a `_touch` lemma gives, part by part; the functions' records; log entries; ports. Facts that later proofs share. -/

namespace Sys2Proof.Machine

open Sys2Proof

set_option Elab.async false

/-! A part that a `_touch` lemma does not name is as before. -/

section
variable {ps : List Part} {s t : State} (h : Touch ps s t)
include h

theorem Touch.same {p : Part} (hp : ps.contains p = false) : p.same s t := h.frame p (by simpa using hp)

theorem Touch.chip_eq (hp : ps.contains .chip = false := by rfl) : t.chip = s.chip := h.same hp
theorem Touch.funcs_eq (hp : ps.contains .funcs = false := by rfl) : t.life.funcs = s.life.funcs := h.same hp
theorem Touch.params_eq (hp : ps.contains .params = false := by rfl) : t.life.params = s.life.params := h.same hp
theorem Touch.live_eq (hp : ps.contains .live = false := by rfl) : t.life.live = s.life.live := h.same hp
theorem Touch.writes_eq (hp : ps.contains .writes = false := by rfl) : t.life.writes = s.life.writes := h.same hp
theorem Touch.jobs_eq (hp : ps.contains .jobs = false := by rfl) : t.life.jobs = s.life.jobs := (h.same (p := .jobs) hp).1
theorem Touch.nextUid_eq (hp : ps.contains .jobs = false := by rfl) : t.life.nextUid = s.life.nextUid := (h.same (p := .jobs) hp).2
theorem Touch.acts_eq (hp : ps.contains .acts = false := by rfl) : t.life.acts = s.life.acts := h.same hp
theorem Touch.rings_eq (hp : ps.contains .rings = false := by rfl) : t.host.rings = s.host.rings := h.same hp
theorem Touch.hostPage_eq (hp : ps.contains .pages = false := by rfl) : t.host.hostPage = s.host.hostPage := (h.same (p := .pages) hp).1
theorem Touch.tarrPage_eq (hp : ps.contains .pages = false := by rfl) : t.host.tarrPage = s.host.tarrPage := (h.same (p := .pages) hp).2
theorem Touch.taken_eq (hp : ps.contains .taken = false := by rfl) : t.host.taken = s.host.taken := (h.same (p := .taken) hp).1
theorem Touch.link_eq (hp : ps.contains .link = false := by rfl) : t.host.link = s.host.link := h.same hp
theorem Touch.hostMem_eq (hp : ps.contains .hostMem = false := by rfl) : t.host.hostMem = s.host.hostMem := h.same hp
theorem Touch.reqs_eq (hp : ps.contains .reqs = false := by rfl) : t.svc.reqs = s.svc.reqs := h.same hp
theorem Touch.svcRest_eq (hp : ps.contains .svc = false := by rfl) : t.svc.rest = s.svc.rest := h.same hp
theorem Touch.portA_eq (hp : ps.contains .portA = false := by rfl) : t.net.a = s.net.a := h.same hp
theorem Touch.portB_eq (hp : ps.contains .portB = false := by rfl) : t.net.b = s.net.b := h.same hp
theorem Touch.path_eq (hp : ps.contains .path = false := by rfl) : t.path = s.path := h.same hp
theorem Touch.time_eq (hp : ps.contains .time = false := by rfl) : t.time = s.time := h.same hp
theorem Touch.strm_eq (hp : ps.contains .strm = false := by rfl) : t.strm = s.strm := h.same hp
theorem Touch.lov_eq (hp : ps.contains .lov = false := by rfl) : t.lov = s.lov := h.same hp
theorem Touch.cores_eq (hp : ps.contains .cores = false := by rfl) : t.cores = s.cores := h.same hp
theorem Touch.loc_eq (hp : ps.contains .loc = false := by rfl) : t.loc = s.loc := h.same hp
theorem Touch.pwr_eq (hp : ps.contains .pwr = false := by rfl) : t.pwr = s.pwr := h.same hp
theorem Touch.memc_eq (hp : ps.contains .memc = false := by rfl) : t.memc = s.memc := h.same hp
theorem Touch.mem_eq (hp : ps.contains .mem = false := by rfl) : t.mem = s.mem := h.same hp
theorem Touch.log_eq (hp : ps.contains .log = false := by rfl) : t.log = s.log := h.same hp
theorem Touch.cnt_eq (hp : ps.contains .cnt = false := by rfl) : t.cnt = s.cnt := h.same hp
theorem Touch.edges_eq (hp : ps.contains .edges = false := by rfl) : t.edges = s.edges := h.same hp

theorem Touch.func_eq (f : Func) (hp : ps.contains .funcs = false := by rfl) : t.func f = s.func f := by
  rw [State.func, State.func, h.funcs_eq hp]
theorem Touch.life?_eq (f : Func) (hp : ps.contains .funcs = false := by rfl) : t.life? f = s.life? f :=
  congrArg FuncRec.state (h.func_eq f hp)
theorem Touch.now_eq (hp : ps.contains .time = false := by rfl) : t.now = s.now := congrArg TimeSt.tick (h.time_eq hp)

end

/-! The functions' records (R73, R459). -/

theorem mem_allFuncs (f : Func) : f ∈ allFuncs := by
  cases f <;> simp [allFuncs, allSc, allPch]

theorem nodup_allFuncs : allFuncs.Nodup := by decide

theorem funcIdx_injective : Function.Injective Func.idx := by
  have hnodup : (allFuncs.map Func.idx).Nodup := by decide
  exact fun f g h => List.inj_on_of_nodup_map hnodup (mem_allFuncs f) (mem_allFuncs g) h

theorem State.func_onFunc_of_ne {f k : Func} (g) (s : State) (h : k ≠ f) : (s.onFunc f g).func k = s.func k :=
  State.func_onFunc_ne g s fun hi => h (funcIdx_injective hi)

theorem State.life?_setLife (f : Func) (st : Life) (s : State) : (s.setLife f st).life? f = st := by
  simp [State.setLife, State.life?]

theorem State.life?_setLife_of_ne {f k : Func} (st : Life) (s : State) (h : k ≠ f) : (s.setLife f st).life? k = s.life? k :=
  congrArg FuncRec.state (State.func_onFunc_of_ne _ s h)

/-- A change of a function's record that is none of its life-cycle state. -/
theorem State.life?_onFunc {g : FuncRec → FuncRec} (hg : ∀ r, (g r).state = r.state) (f k : Func) (s : State) :
    (s.onFunc f g).life? k = s.life? k := by
  by_cases h : k = f
  · subst h
    simp [State.life?, hg]
  · exact congrArg FuncRec.state (State.func_onFunc_of_ne g s h)

/-- What every step of a fold keeps, the fold keeps. -/
theorem forAll_keeps {α β : Type} {l : List α} {g : α → State → State} (F : State → β) (hg : ∀ a ∈ l, ∀ s, F (g a s) = F s)
    (s : State) : F (forAll l g s) = F s := by
  induction l generalizing s with
  | nil => rfl
  | cons a l ih =>
    rw [forAll, ih fun b hb => hg b (List.mem_cons_of_mem a hb)]
    exact hg a List.mem_cons_self s

theorem forAll_nil {α : Type} (g : α → State → State) (s : State) : forAll [] g s = s := rfl
theorem forAll_cons {α : Type} (a : α) (l : List α) (g : α → State → State) (s : State) :
    forAll (a :: l) g s = forAll l g (g a s) := rfl

/-! The life-cycle state after updates of other groups. -/

@[simp] theorem State.life?_onChip (g) (s : State) (f : Func) : (s.onChip g).life? f = s.life? f := rfl
@[simp] theorem State.life?_onHost (g) (s : State) (f : Func) : (s.onHost g).life? f = s.life? f := rfl
@[simp] theorem State.life?_onSvc (g) (s : State) (f : Func) : (s.onSvc g).life? f = s.life? f := rfl
@[simp] theorem State.life?_onNet (g) (s : State) (f : Func) : (s.onNet g).life? f = s.life? f := rfl
@[simp] theorem State.life?_onPath (g) (s : State) (f : Func) : (s.onPath g).life? f = s.life? f := rfl
@[simp] theorem State.life?_onTime (g) (s : State) (f : Func) : (s.onTime g).life? f = s.life? f := rfl
@[simp] theorem State.life?_onStrm (g) (s : State) (f : Func) : (s.onStrm g).life? f = s.life? f := rfl
@[simp] theorem State.life?_onLov (g) (s : State) (f : Func) : (s.onLov g).life? f = s.life? f := rfl
@[simp] theorem State.life?_onLoc (g) (s : State) (f : Func) : (s.onLoc g).life? f = s.life? f := rfl
@[simp] theorem State.life?_onPwr (g) (s : State) (f : Func) : (s.onPwr g).life? f = s.life? f := rfl
@[simp] theorem State.life?_onMemc (g) (s : State) (f : Func) : (s.onMemc g).life? f = s.life? f := rfl
@[simp] theorem State.life?_onLog (g) (s : State) (f : Func) : (s.onLog g).life? f = s.life? f := rfl
@[simp] theorem State.life?_onCnt (g) (s : State) (f : Func) : (s.onCnt g).life? f = s.life? f := rfl
@[simp] theorem State.life?_onMem (g) (s : State) (f : Func) : (s.onMem g).life? f = s.life? f := rfl
@[simp] theorem State.life?_onEdges (g) (s : State) (f : Func) : (s.onEdges g).life? f = s.life? f := rfl
@[simp] theorem State.life?_onCore (n g) (s : State) (f : Func) : (s.onCore n g).life? f = s.life? f := rfl
@[simp] theorem State.life?_onRing (q g) (s : State) (f : Func) : (s.onRing q g).life? f = s.life? f := rfl
@[simp] theorem State.life?_onPch (c g) (s : State) (f : Func) : (s.onPch c g).life? f = s.life? f := rfl
@[simp] theorem State.life?_onDec (c g) (s : State) (f : Func) : (s.onDec c g).life? f = s.life? f := rfl
@[simp] theorem State.life?_onTdm (x g) (s : State) (f : Func) : (s.onTdm x g).life? f = s.life? f := rfl
@[simp] theorem State.life?_onJob (u g) (s : State) (f : Func) : (s.onJob u g).life? f = s.life? f := rfl
@[simp] theorem State.life?_onPort (p g) (s : State) (f : Func) : (s.onPort p g).life? f = s.life? f := by cases p <;> rfl

/-! What the log keeps beside its entries (R453). -/

theorem putEntry_log (code func cause : Byte) (data : DWord) (s : State) :
    (s.putEntry code func cause data).log = { s.log with entries := (s.putEntry code func cause data).log.entries } := rfl

/-- An entry changes the entries and the counts of R451, and nothing else of the log. -/
theorem logEntry_log (code func cause : Byte) (data : DWord) (s : State) :
    ∃ es second dropped, (s.logEntry code func cause data).log = { s.log with entries := es, second, dropped } := by
  unfold State.logEntry
  dsimp only
  (repeat' split) <;> exact ⟨_, _, _, rfl⟩

theorem logEntry_cycles (code func cause : Byte) (data : DWord) (s : State) :
    (s.logEntry code func cause data).log.cycles = s.log.cycles := by
  obtain ⟨es, second, dropped, h⟩ := logEntry_log code func cause data s
  rw [h]

end Sys2Proof.Machine
end

section
/-! PROOFS. Boot: what its stages leave, O7. -/

namespace Sys2Proof.Machine

open Sys2Proof

set_option Elab.async false

/-! The supply of a port (R41, R147). -/

theorem carry_port (p : Port) (s : State) :
    (carry s).port p = { s.port p with carrying := ((carry s).port p).carrying } := by cases p <;> rfl

theorem carried_carry (s : State) : Carried (carry s) := by
  intro p
  cases p <;> cases ha : s.net.a.powered <;> cases hb : s.net.b.powered <;>
    simp [carry, otherPort, State.port, State.onPort, State.onNet, ha, hb]
  all_goals exact decide_eq_true_iff

theorem State.port_onPort_ne {p k : Port} (g) (s : State) (h : k ≠ p) : (s.onPort p g).port k = s.port k := by
  cases p <;> cases k <;> first | exact absurd rfl h | rfl

theorem otherPort_ne (p : Port) : otherPort p ≠ p := by cases p <;> nofun

/-- A change of one port, after which the diodes settle. -/
theorem carry_onPort (p : Port) (g : PortSt → PortSt) (s : State) :
    let t := carry (s.onPort p g)
    t.port p = { g (s.port p) with carrying := (t.port p).carrying } ∧
    t.port (otherPort p) = { s.port (otherPort p) with carrying := (t.port (otherPort p)).carrying } ∧ Carried t := by
  intro t
  refine ⟨?_, ?_, carried_carry _⟩
  · have h := carry_port p (s.onPort p g)
    rwa [State.port_onPort] at h
  · have h := carry_port (otherPort p) (s.onPort p g)
    rwa [State.port_onPort_ne _ _ (otherPort_ne p)] at h

/-! The stages of boot (R62). -/

/-- A register of another block than GLOBAL. -/
theorem regPut_touch_of_block {off : Nat} (h : off / 0x1000 ≠ 0) (v : Word) (s : State) :
    Touch [.rings, .pages, .link, .svc, .portA, .portB, .path, .time] s (s.regPut off v) := by
  have hself := Touch.refl [.rings, .pages, .link, .svc, .portA, .portB, .path, .time] s
  unfold State.regPut
  dsimp only
  rw [if_neg h]
  repeat' first
    | with_reducible refine Touch.ite ?_ ?_
    | with_reducible exact hself
    | exact (ringWrite_touch ..).after hself rfl
    | exact (ringCommonWrite_touch ..).after hself rfl
    | exact (netWrite_touch ..).after hself rfl
    | exact Touch.onTime hself rfl
    | exact Touch.onPath hself rfl
    | exact (Touch.link_of_onHost s).after hself rfl
    | exact Touch.onSvcAt hself rfl rfl (SvcSt.Later.of_eq rfl rfl rfl rfl rfl rfl rfl)

theorem applySetting_chip (off : Nat) (v : Word) (s : State) : (applySetting off v s).chip = s.chip := by
  by_cases hs : settingReg off = true
  · have hb : off / 0x1000 ≠ 0 := fun hb => by simp [settingReg, hb] at hs
    have hself := Touch.refl [.rings, .pages, .link, .svc, .portA, .portB, .path, .time, .pwr] s
    refine Touch.chip_eq (ps := [.rings, .pages, .link, .svc, .portA, .portB, .path, .time, .pwr]) ?_
    unfold applySetting
    dsimp only
    rw [hs]
    repeat' first
      | with_reducible refine Touch.ite ?_ ?_
      | with_reducible exact hself
      | exact (regPut_touch_of_block hb v s).after hself rfl
      | exact (State.onPort_touch ..).after hself rfl
      | exact (writeTopo_touch ..).after hself rfl
      | exact (writeRingType_touch ..).after hself rfl
      | exact (writeTimeCtrl_touch ..).after hself rfl
      | exact (writeFsw_touch ..).after hself rfl
  · simp [applySetting, hs]

theorem applyKind4_chip (s : State) : (applyKind4 s).chip = s.chip :=
  forAll_keeps State.chip (fun _ _ s => forAll_keeps State.chip (fun p _ s => applySetting_chip p.1 p.2 s) s) s

theorem checkPatch_chip (s : State) :
    ∃ stage result patchVersion, (checkPatch s).chip = { s.chip with stage, result, patchVersion } :=
  ⟨_, _, _, (State.logEntry_touch ..).chip_eq⟩

theorem checkPatch_cycles (s : State) : (checkPatch s).log.cycles = s.log.cycles := logEntry_cycles ..

theorem bootStages_chip (strap : BitVec 2) (cold : Bool) (s : State) :
    ∃ result patchVersion, (bootStages strap cold s).chip = { s.chip with strap, stage := 3, result, patchVersion } := by
  unfold bootStages
  extract_lets s1 s2 s3 c s4 s5 s6 s7
  have h2 : s2.chip = s1.chip := by
    dsimp only [s2]
    split <;> rfl
  have h4 : s4.chip = s1.chip := (State.logEntry_touch ..).chip_eq.trans h2
  have h5 : s5.chip = s1.chip := by
    dsimp only [s5]
    split
    · exact (applyKind4_chip s4).trans h4
    · exact h4
  obtain ⟨stage, result, patchVersion, hcheck⟩ := checkPatch_chip s5
  have h6 : s6.chip = (checkPatch s5).chip := (startHostless_touch _).chip_eq.trans (applyService_touch _).chip_eq
  have h7 : s7.chip = s6.chip := by
    dsimp only [s7]
    split <;> rfl
  refine ⟨result, patchVersion, ?_⟩
  rw [forAll_keeps State.chip fun c _ s => (reloadCoil_touch c s).chip_eq, State.onChip_chip, followFed_chip, h7, h6, hcheck, h5]
  rfl

theorem bootStages_funcs (strap : BitVec 2) (cold : Bool) (s : State) :
    (bootStages strap cold s).life.funcs = (s.setLife .service .running).life.funcs := by
  unfold bootStages
  extract_lets s1 s2 s3 c s4 s5 s6 s7
  have h2 : s2.life = s1.life := by
    dsimp only [s2]
    split <;> rfl
  have h4 : s4.life.funcs = s1.life.funcs := (State.logEntry_touch ..).funcs_eq.trans (congrArg LifeSt.funcs h2)
  have h5 : s5.life.funcs = s1.life.funcs := by
    dsimp only [s5]
    split
    · exact (applyKind4_touch s4).funcs_eq.trans h4
    · exact h4
  have h6 : s6.life.funcs = s5.life.funcs :=
    (startHostless_touch _).funcs_eq.trans ((applyService_touch _).funcs_eq.trans (checkPatch_touch _).funcs_eq)
  have h7 : s7.life = s6.life := by
    dsimp only [s7]
    split <;> rfl
  rw [forAll_keeps (·.life.funcs) fun c _ s => (reloadCoil_touch c s).funcs_eq, State.onChip_life, (followFed_touch s7).funcs_eq, h7,
    h6, h5]
  rfl

theorem bootStages_cycles (strap : BitVec 2) (cold : Bool) (s : State) :
    (bootStages strap cold s).log.cycles = if cold then satInc s.log.cycles else s.log.cycles := by
  unfold bootStages
  extract_lets s1 s2 s3 c s4 s5 s6 s7
  have h2 : s2.log.cycles = if cold then satInc s.log.cycles else s.log.cycles := by
    dsimp only [s2]
    split <;> rfl
  have h5 : s5.log = s4.log := by
    dsimp only [s5]
    split
    · exact (applyKind4_touch s4).log_eq
    · rfl
  have h6 : s6.log.cycles = s5.log.cycles := by
    have hlog : s6.log = (checkPatch s5).log := (startHostless_touch _).log_eq.trans (applyService_touch _).log_eq
    rw [hlog, checkPatch_cycles]
  have h7 : s7.log = s6.log := by
    dsimp only [s7]
    split <;> rfl
  rw [forAll_keeps (·.log.cycles) fun c _ s => congrArg LogSt.cycles (reloadCoil_touch c s).log_eq, State.onChip_log,
    (followFed_touch s7).log_eq, h7, h6, h5, ← h2]
  exact logEntry_cycles ..

theorem life?_eq_of_funcs {s t : State} (h : t.life.funcs = s.life.funcs) (f : Func) : t.life? f = s.life? f := by
  rw [State.life?, State.life?, State.func, State.func, h]

/-- After boot SERVICE runs, and every other function is as it was before. -/
theorem bootStages_life? (strap : BitVec 2) (cold : Bool) (s : State) :
    (bootStages strap cold s).life? .service = .running ∧
      ∀ f, f ≠ .service → (bootStages strap cold s).life? f = s.life? f := by
  have h (f : Func) := life?_eq_of_funcs (bootStages_funcs strap cold s) f
  exact ⟨(h _).trans (State.life?_setLife ..), fun f hf => (h f).trans (State.life?_setLife_of_ne _ _ hf)⟩

theorem coldState_life? (s : State) (f : Func) : (coldState s).life? f = .off := by
  simp only [State.life?, State.func, coldState, Fin.getElem_fin, Vector.getElem_ofFn]
  split
  · split <;> rfl
  · rfl

theorem powerUp_spec (strap : BitVec 2) (s : State) :
    let t := powerUp strap s
    t.chip.supply = .full ∧ t.chip.strap = strap ∧ t.chip.stage = 3 ∧ t.chip.resetCause = 1 ∧ t.chip.scratch = 0 ∧
    (t.life? .service = .running ∧ ∀ f : Func, f ≠ .service → t.life? f = .off) ∧ t.log.cycles = satInc s.log.cycles := by
  intro t
  obtain ⟨result, patchVersion, hchip⟩ := bootStages_chip strap true ((coldState s).onChip fun c => { c with supply := .full })
  obtain ⟨hservice, hother⟩ := bootStages_life? strap true ((coldState s).onChip fun c => { c with supply := .full })
  exact ⟨congrArg Chip.supply hchip, congrArg Chip.strap hchip, congrArg Chip.stage hchip, congrArg Chip.resetCause hchip,
    congrArg Chip.scratch hchip, ⟨hservice, fun f hf => (hother f hf).trans (coldState_life? _ f)⟩, bootStages_cycles ..⟩

theorem resumeMigration_selfRefresh (s : State) : (resumeMigration s).memc.selfRefresh = s.memc.selfRefresh := by
  unfold resumeMigration
  split
  · split <;> rfl
  · rfl

theorem dramUp_spec (s : State) :
    (dramUp s).chip.stage = 4 ∧ (dramUp s).memc.selfRefresh = 0 ∧ (dramUp s).life? .memctl = .running := by
  unfold dramUp
  extract_lets s1 s2
  have h2 : s2.life? .memctl = .running := by
    rw [(resumeMigration_touch _).life?_eq .memctl, State.life?_onMemc, State.life?_setLife]
  refine ⟨by rw [State.onChip_chip], ?_, ?_⟩
  · rw [State.onChip_memc, State.onSvc_memc, resumeMigration_selfRefresh, State.onMemc_memc]
  · rw [State.life?_onChip, State.life?_onSvc, h2]

/-- The minima after a boot: those of the patch and of the settings record in force are raised (R72). -/
def raisedTo (sec : Option Word) (old : Word) : Word :=
  match sec with
  | some v => if old.toNat < v.toNat then v else old
  | none => old

def bootMinima (v : SvcSt) : SvcSt :=
  { v with secMin := vmod (vmod v.secMin 1 (raisedTo v.bootPatchSec)) 3 (raisedTo v.bootSettingsSec) }

theorem bootMinima_secMin (v : SvcSt) :
    (bootMinima v).secMin[0] = v.secMin[0] ∧ (bootMinima v).secMin[1] = raisedTo v.bootPatchSec v.secMin[1] ∧
    (bootMinima v).secMin[2] = v.secMin[2] ∧ (bootMinima v).secMin[3] = raisedTo v.bootSettingsSec v.secMin[3] := by
  simp [bootMinima, vmod]

theorem raisedTo_some (v old : Word) : (raisedTo (some v) old).toNat = max old.toNat v.toNat := by
  simp only [raisedTo]
  split <;> omega

/-- Settles O7: power-up is the boot's stages from the cold state; the two later commands set the stage. -/
theorem bootCommands : Obligations.BootCommands := by
  intro s
  refine ⟨fun p strap hoff => ?_, fun p strap hon => ?_, fun hon hst hres => ?_, fun h => ?_, fun hst hres hauto => ?_,
    fun hst hauto => ?_⟩
  · have hcarry := (carry_touch (s.onPort p fun r => { r with powered := true })).after (State.onPort_touch p _ s) rfl
    obtain ⟨hsupply, hstrap, hstage, hcause, hscratch, hlife, hcycles⟩ :=
      powerUp_spec strap (carry (s.onPort p fun r => { r with powered := true }))
    exact (execLinePowerUp_touch p strap s).does (by rw [exec_linePowerUp, execLinePowerUp, if_pos hoff])
      ⟨hsupply, hstrap, hstage, hcause, hscratch, hlife.1, hlife.2, by rw [hcycles, hcarry.log_eq]⟩
  · exact ((carry_touch _).after (State.onPort_touch p _ s) rfl).does
      (by rw [exec_linePowerUp, execLinePowerUp, if_neg hon]) (carry_onPort p _ s)
  · have hup : exec .dramTrained s = .next (dramUp s) := by
      rw [exec_dramTrained, execDramTrained, if_pos ⟨hon, hst, by simp [hres]⟩]
    exact (execDramTrained_touch s).does hup (dramUp_spec s)
  · have hno : ¬ (s.chip.supply ≠ .off ∧ s.chip.stage = 3 ∧ (!s.chip.resetting) = true) := by
      rintro ⟨hon, hst, hres⟩
      rcases h with h | h | h
      · exact hon h
      · exact h hst
      · simp [h] at hres
    rw [exec_dramTrained, execDramTrained, if_neg hno]
  · have hdone : bootDone (autoBegin s) = (s.onChip fun c => { c with stage := 6 }).onSvc bootMinima := by
      rcases hst with hst | hst <;> simp [autoBegin, bootDone, hst, hres, hauto, State.onChip, State.onSvc, bootMinima] <;> rfl
    obtain ⟨h0, h1, h2, h3⟩ := bootMinima_secMin s.svc
    exact (execBootComplete_touch s).does (congrArg Host.Outcome.next hdone)
      ⟨rfl, rfl, fun v hv => (congrArg BitVec.toNat h1).trans (by rw [hv, raisedTo_some]),
        fun v hv => (congrArg BitVec.toNat h3).trans (by rw [hv, raisedTo_some]), h0, h2⟩
  · simp [execBootComplete, autoBegin, bootDone, hst, hauto]

end Sys2Proof.Machine
end

section
/-! PROOFS. Supplies and the powered-device interfaces, O8. -/

namespace Sys2Proof.Machine

open Sys2Proof

set_option Elab.async false

/-- What the bytes at addresses of one kind are when the others are dropped. -/
theorem memByte_filter (p : Nat → Bool) (m : List Host.Cell) (a : Nat) :
    memByte (m.filter fun e => p e.1) a = if p a then memByte m a else 0 := by
  induction m with
  | nil => simp [memByte]
  | cons e r ih =>
    obtain ⟨j, b⟩ := e
    by_cases hj : j = a
    · subst hj
      by_cases hp : p j <;> simp [memByte, hp, ih]
    · by_cases hp : p j <;> simp [memByte, hp, hj, ih]

/-! The loss of a link (R145). -/

theorem State.port_onPath (p : Port) (g) (s : State) : (s.onPath g).port p = s.port p := by cases p <;> rfl
theorem State.port_onChip (p : Port) (g) (s : State) : (s.onChip g).port p = s.port p := by cases p <;> rfl
theorem State.port_raise (p : Port) (bit : Nat) (s : State) : (s.raise bit).port p = s.port p := by cases p <;> rfl
theorem State.port_bumpBy (p : Port) (f i n : Nat) (s : State) : (s.bumpBy f i n).port p = s.port p := by cases p <;> rfl

theorem Touch.port_eq {ps : List Part} {s t : State} (h : Touch ps s t) (p : Port) (ha : ps.contains .portA = false := by rfl)
    (hb : ps.contains .portB = false := by rfl) : t.port p = s.port p := by
  cases p
  · exact h.portA_eq ha
  · exact h.portB_eq hb

theorem linkLost_link (p : Port) (s : State) : ((linkLost p s).port p).link = false := by
  unfold linkLost
  dsimp only
  by_cases hl : (s.port p).link = true
  · rw [if_neg (by simp [hl]), (pathLinkLost_touch ..).port_eq, State.port_raise, State.port_onPort]
  · rw [if_pos (by simp [hl]), State.port_onPort]
    simpa using hl

theorem linkLost_other {p k : Port} (h : k ≠ p) (s : State) : (linkLost p s).port k = s.port k := by
  unfold linkLost
  dsimp only
  by_cases hl : (s.port p).link = true
  · rw [if_neg (by simp [hl]), (pathLinkLost_touch ..).port_eq, State.port_raise, State.port_onPort_ne _ _ h]
    exact (State.port_bumpBy ..).trans (State.port_bumpBy ..)
  · rw [if_pos (by simp [hl]), State.port_onPort_ne _ _ h]

theorem coldState_mem (s : State) (a : Nat) : memByte (coldState s).mem a = if isStore a then memByte s.mem a else 0 :=
  memByte_filter isStore s.mem a

theorem otherPort_otherPort (p : Port) : otherPort (otherPort p) = p := by cases p <;> rfl

theorem carry_carrying (s : State) (p : Port) : ((carry s).port p).carrying =
    ((s.port p).powered && (!(s.port (otherPort p)).powered ||
      decide ((s.port (otherPort p)).vin.toNat ≤ (s.port p).vin.toNat + 1))) := by cases p <;> rfl

theorem setHv_chip (awake link : Bool) (s : State) : (setHv awake link s).chip = { s.chip with awake, linkUp := link } := by
  unfold setHv
  dsimp only
  split
  · rfl
  · exact (State.raise_touch ..).chip_eq

/-- The PD state of a port without line power (R144). -/
def portGone (r : PortSt) : PortSt := { r with powered := false, carrying := false, events := 0, pairsets := 0, vin := 0 }

/-- The moment before all rails collapse: channels that switch have begun their link-loss stop (R25). -/
def pdOff (s : State) : State := ((forAll allPch fastStop s).onPort .a portGone).onPort .b portGone

theorem execPdTurnOff_eq (s : State) : exec .pdTurnOff s = .next (coldState (pdOff s)) := rfl

theorem pdOff_touch (s : State) : Touch [.funcs, .pwr, .portA, .portB] s (pdOff s) :=
  (State.onPort_touch .b portGone _).after ((State.onPort_touch .a portGone _).after
    (Touch.forAll (fun c s => (fastStop_touch c s).after (Touch.refl _ _) rfl) (Touch.refl _ s)) rfl) rfl

theorem coldState_ports (s : State) :
    (coldState s).net.a.powered = s.net.a.powered ∧ (coldState s).net.b.powered = s.net.b.powered := ⟨rfl, rfl⟩

theorem onPorts_gone (s : State) : ((s.onPort .a portGone).onPort .b portGone).net.a.powered = false ∧
    ((s.onPort .a portGone).onPort .b portGone).net.b.powered = false := ⟨rfl, rfl⟩

theorem coldState_supply (s : State) : (coldState s).chip.supply = .off := rfl
theorem coldState_stage (s : State) : (coldState s).chip.stage = 0 := rfl
theorem coldState_keeps (s : State) : (coldState s).life.live = s.life.live ∧ (coldState s).log.entries = s.log.entries ∧
    (coldState s).log.poweredS = s.log.poweredS ∧ (coldState s).svc.noardKeys = s.svc.noardKeys ∧
    (coldState s).memc.rankMap = s.memc.rankMap := by
  simp only [coldState, SvcSt.kept, and_self]

theorem Touch.noardKeys_eq {ps : List Part} {s t : State} (h : Touch ps s t) (hp : ps.contains .svc = false := by rfl) :
    t.svc.noardKeys = s.svc.noardKeys := by
  have hrest : t.svc.rest.noardKeys = s.svc.rest.noardKeys := congrArg SvcSt.noardKeys (h.svcRest_eq hp)
  exact hrest

/-- Settles O8: a sag is an update of the supply, the diodes follow each change of a port, and the cold state keeps what R84 lists. -/
theorem supplyCommands : Obligations.SupplyCommands := by
  intro s
  refine ⟨fun hon hcl d => ?_, fun hon => ?_, fun hcl => ?_, ?_, fun p => ?_, fun p events pairsets => ?_, fun p vin => ?_,
    fun b => rfl⟩
  · simp [execCoreRailSag, execCoreRailRecovery, hon, hcl, State.onChip]
  · refine (execClockedRailFall_touch s).does (by rw [exec_clockedRailFall, execClockedRailFall, if_neg hon])
      ⟨?_, ?_, linkLost_link .b _⟩
    · rw [(linkLost_touch ..).chip_eq, (linkLost_touch ..).chip_eq, State.onChip_chip]
    · exact (congrArg PortSt.link (linkLost_other (p := .b) (k := .a) (by decide) _)).trans (linkLost_link .a _)
  · refine (execClockedRailReturn_touch s).does (by rw [exec_clockedRailReturn, execClockedRailReturn, if_neg (not_not.mpr hcl)])
      ⟨?_, fun hup => ?_, fun hup => ?_⟩
    · split
      · rw [setHv_chip, State.onChip_chip]
      · rfl
    · rw [if_pos hup, setHv_chip]
      exact ⟨rfl, rfl⟩
    · rw [if_neg (by simp [hup]), State.onChip_chip]
  · obtain ⟨hlive, hentries, hpowered, hkeys, hmap⟩ := coldState_keeps (pdOff s)
    obtain ⟨hportA, hportB⟩ := coldState_ports (pdOff s)
    have hoff := pdOff_touch s
    refine (execPdTurnOff_touch s).does (execPdTurnOff_eq s) ⟨coldState_supply _, hportA.trans (onPorts_gone _).1,
      hportB.trans (onPorts_gone _).2,
      coldState_stage _, coldState_life? _, hlive.trans hoff.live_eq, by rw [hentries, hoff.log_eq],
      by rw [hpowered, hoff.log_eq], hkeys.trans hoff.noardKeys_eq, by rw [hmap, hoff.memc_eq],
      fun a hlo hhi => ?_, fun a ha => ?_⟩
    · rw [coldState_mem, if_pos (by simp [isStore, hlo, hhi]), hoff.mem_eq]
    · rw [coldState_mem, if_neg (by simp [isStore, ha])]
  · have hcarry := (carry_touch _).after (State.onPort_touch p (fun r => { r with powered := false, events := 0, pairsets := 0 }) s) rfl
    obtain ⟨hp, ho, -⟩ := carry_onPort p (fun r => { r with powered := false, events := 0, pairsets := 0 }) s
    refine hcarry.does rfl ⟨hp.trans ?_, ho.trans ?_⟩
    · rw [carry_carrying, State.port_onPort]
      simp
    · rw [carry_carrying, State.port_onPort_ne _ _ (otherPort_ne p), otherPort_otherPort, State.port_onPort]
      simp
  · exact ((carry_touch _).after (State.onPort_touch p _ s) rfl).does rfl (carry_onPort p _ s)
  · exact ((carry_touch _).after (State.onPort_touch p _ s) rfl).does rfl (carry_onPort p _ s)

end Sys2Proof.Machine
end

section
/-! PROOFS. Faults and fast stops: what they do to a function's record and to a power channel. The high-voltage side, O9. -/

namespace Sys2Proof.Machine

open Sys2Proof

set_option Elab.async false

/-! Folds whose steps each work on their own element. -/

section
variable {α β : Type} {l : List α} {g : α → State → State} {F : α → State → β}

theorem forAll_of_notMem (hother : ∀ a b s, a ≠ b → F b (g a s) = F b s) {a : α} (h : a ∉ l) (s : State) :
    F a (forAll l g s) = F a s :=
  forAll_keeps (F a) (fun b hb s => hother b a s fun he => h (he ▸ hb)) s

theorem forAll_of_mem (hother : ∀ a b s, a ≠ b → F b (g a s) = F b s)
    (hself : ∀ a s t, F a s = F a t → F a (g a s) = F a (g a t)) (hl : l.Nodup) {a : α} (h : a ∈ l) (s : State) :
    F a (forAll l g s) = F a (g a s) := by
  induction l generalizing s with
  | nil => simp at h
  | cons b l ih =>
    obtain ⟨hb, hl⟩ := List.nodup_cons.mp hl
    rw [forAll_cons]
    by_cases hab : a = b
    · subst hab
      exact forAll_of_notMem hother hb _
    · rw [ih hl ((List.mem_cons.mp h).resolve_left hab)]
      exact hself a _ _ (hother b a s (Ne.symm hab))

end

/-! Power channels after updates of other groups. -/

theorem Touch.pch_eq {ps : List Part} {s t : State} (h : Touch ps s t) (c : Fin 4) (hp : ps.contains .pwr = false := by rfl) :
    t.pch c = s.pch c := by rw [State.pch, State.pch, h.pwr_eq hp]

theorem Touch.msTicks_eq {ps : List Part} {s t : State} (h : Touch ps s t) (n : Nat) (hp : ps.contains .time = false := by rfl) :
    t.msTicks n = s.msTicks n := by rw [State.msTicks, State.msTicks, State.fsHz, State.fsHz, h.time_eq hp]

@[simp] theorem State.pch_onFunc (f g) (s : State) (c : Fin 4) : (s.onFunc f g).pch c = s.pch c := rfl
@[simp] theorem State.func_onPch (c g) (s : State) (f : Func) : (s.onPch c g).func f = s.func f := rfl

/-- A channel's test ends; nothing else of the channels changes. -/
theorem endTest_pwr (c : Fin 4) (status : Byte) (s : State) :
    (endTest c status s).pwr = (s.onPch c fun p => { p with test := none }).pwr := by
  unfold endTest
  split
  next h =>
    have hself : vmod s.pwr.ch c (fun p => { p with test := none }) = s.pwr.ch := by
      rw [State.pch] at h
      rw [vmod, ← h]
      exact Vector.set_getElem_self c.isLt
    rw [State.onPch_pwr, hself]
  next t h =>
    dsimp only
    split
    · split
      · exact (State.endJob_touch ..).pwr_eq
      · split
        · exact (State.onJob_touch ..).pwr_eq
        · exact (State.endJob_touch ..).pwr_eq.trans ((State.freshen_touch _).pwr_eq.trans (writeTest_touch ..).pwr_eq)
    · rfl

theorem endTest_pch (c : Fin 4) (status : Byte) (s : State) : (endTest c status s).pch c = { s.pch c with test := none } := by
  rw [State.pch, endTest_pwr]
  exact State.pch_onPch c _ s

theorem endTest_pch_ne {c k : Fin 4} (h : k ≠ c) (status : Byte) (s : State) : (endTest c status s).pch k = s.pch k := by
  rw [State.pch, endTest_pwr]
  exact State.pch_onPch_ne _ s h

/-! The switches open; the link-loss stop (R25, R379). -/

theorem openSwitches_pch (c : Fin 4) (s : State) :
    (openSwitches c s).pch c = { s.pch c with phase := 0, cm := Fade.zero, vOut := 0, clip := false } := by
  rw [openSwitches, State.pch_onFunc, State.pch_onPch]

theorem openSwitches_pch_ne {c k : Fin 4} (h : k ≠ c) (s : State) : (openSwitches c s).pch k = s.pch k := by
  rw [openSwitches, State.pch_onFunc, State.pch_onPch_ne _ _ h]

theorem openSwitches_func (c : Fin 4) (s : State) :
    (openSwitches c s).func (.pch c) = { s.func (.pch c) with fade := Fade.zero } := by
  rw [openSwitches, State.func_onFunc, State.func_onPch]

theorem openSwitches_func_ne {c : Fin 4} {f : Func} (h : f ≠ .pch c) (s : State) : (openSwitches c s).func f = s.func f := by
  rw [openSwitches, State.func_onFunc_of_ne _ _ h, State.func_onPch]

theorem openSwitches_life? (c : Fin 4) (f : Func) (s : State) : (openSwitches c s).life? f = s.life? f :=
  State.life?_onFunc (g := fun r => { r with fade := Fade.zero }) (fun _ => rfl) _ _ _

section
variable {c : Fin 4} {s : State}

theorem fastStop_open (h : (s.pch c).phase.toNat ≤ 1) : fastStop c s = (openSwitches c s).onPch c fun p =>
    { p with toFault := if (s.life? (.pch c)).busy then some 4 else p.toFault } := if_pos h

theorem fastStop_switching (h : 2 ≤ (s.pch c).phase.toNat) (h' : (s.pch c).phase.toNat ≤ 5) : fastStop c s =
    (s.onPch c fun p => { p with phase := 6, cm := { p.cm with up := true }, mark := s.now }).onFunc (.pch c)
      fun r => { r with fade := r.fade.go false (s.msTicks 1) } := by
  unfold fastStop
  dsimp only
  rw [if_neg (by omega), if_pos h']

theorem fastStop_done (h : 6 ≤ (s.pch c).phase.toNat) : fastStop c s = s := by
  unfold fastStop
  dsimp only
  rw [if_neg (by omega), if_neg (by omega)]

/-- The three cases of R379. -/
theorem fastStop_cases (P : State → Prop)
    (hopen : (s.pch c).phase.toNat ≤ 1 → P ((openSwitches c s).onPch c fun p =>
      { p with toFault := if (s.life? (.pch c)).busy then some 4 else p.toFault }))
    (hswitch : 2 ≤ (s.pch c).phase.toNat → (s.pch c).phase.toNat ≤ 5 →
      P ((s.onPch c fun p => { p with phase := 6, cm := { p.cm with up := true }, mark := s.now }).onFunc (.pch c)
        fun r => { r with fade := r.fade.go false (s.msTicks 1) }))
    (hdone : 6 ≤ (s.pch c).phase.toNat → P s) : P (fastStop c s) := by
  by_cases h1 : (s.pch c).phase.toNat ≤ 1
  · rw [fastStop_open h1]
    exact hopen h1
  · by_cases h5 : (s.pch c).phase.toNat ≤ 5
    · rw [fastStop_switching (by omega) h5]
      exact hswitch (by omega) h5
    · rw [fastStop_done (by omega)]
      exact hdone (by omega)

end

theorem fastStop_life? (c : Fin 4) (f : Func) (s : State) : (fastStop c s).life? f = s.life? f :=
  fastStop_cases (fun t => t.life? f = s.life? f)
    (fun _ => by rw [State.life?_onPch, openSwitches_life?])
    (fun _ _ => by
      rw [State.life?_onFunc (g := fun r => { r with fade := r.fade.go false (s.msTicks 1) }) (fun _ => rfl), State.life?_onPch])
    (fun _ => rfl)

theorem fastStop_func_ne {c : Fin 4} {f : Func} (h : f ≠ .pch c) (s : State) : (fastStop c s).func f = s.func f :=
  fastStop_cases (fun t => t.func f = s.func f)
    (fun _ => by rw [State.func_onPch, openSwitches_func_ne h])
    (fun _ _ => by rw [State.func_onFunc_of_ne _ _ h, State.func_onPch])
    (fun _ => rfl)

theorem fastStop_cause (c : Fin 4) (f : Func) (s : State) : ((fastStop c s).func f).cause = (s.func f).cause := by
  by_cases h : f = .pch c
  · subst h
    exact fastStop_cases (fun t => (t.func (.pch c)).cause = (s.func (.pch c)).cause)
      (fun _ => by rw [State.func_onPch, openSwitches_func])
      (fun _ _ => by rw [State.func_onFunc, State.func_onPch])
      (fun _ => rfl)
  · rw [fastStop_func_ne h]

theorem fastStop_pch_ne {c k : Fin 4} (h : k ≠ c) (s : State) : (fastStop c s).pch k = s.pch k :=
  fastStop_cases (fun t => t.pch k = s.pch k)
    (fun _ => by rw [State.pch_onPch_ne _ _ h, openSwitches_pch_ne h])
    (fun _ _ => by rw [State.pch_onFunc, State.pch_onPch_ne _ _ h])
    (fun _ => rfl)

/-! Faults (R80). -/

theorem enterFaulted_func (f : Func) (cause : Byte) (data : DWord) (s : State) :
    (enterFaulted f cause data s).func f = { s.func f with
      state := .faulted, lastChange := s.now, cause
      faultCount := if (s.func f).faultCount = 0xFFFF then (s.func f).faultCount else (s.func f).faultCount + 1
      startReq := false, stopReq := false, offReq := false } := by
  unfold enterFaulted
  dsimp only
  rw [(State.logEntry_touch ..).func_eq, (State.raise_touch ..).func_eq, (State.endStops_touch ..).func_eq,
    (State.endStarts_touch ..).func_eq, State.func_onFunc, State.setLife, State.func_onFunc]

theorem enterFaulted_func_ne {f k : Func} (h : k ≠ f) (cause : Byte) (data : DWord) (s : State) :
    (enterFaulted f cause data s).func k = s.func k := by
  unfold enterFaulted
  dsimp only
  rw [(State.logEntry_touch ..).func_eq, (State.raise_touch ..).func_eq, (State.endStops_touch ..).func_eq,
    (State.endStarts_touch ..).func_eq, State.func_onFunc_of_ne _ _ h, State.setLife, State.func_onFunc_of_ne _ _ h]

/-- The life-cycle state and the cause of a function. -/
def State.stand (s : State) (f : Func) : Life × Byte := ((s.func f).state, (s.func f).cause)

theorem enterFaulted_stand (f : Func) (cause : Byte) (data : DWord) (s : State) :
    (enterFaulted f cause data s).stand f = (.faulted, cause) := by
  rw [State.stand, enterFaulted_func]

theorem stand_eq_iff {s : State} {f : Func} {st : Life} {cause : Byte} :
    s.stand f = (st, cause) ↔ s.life? f = st ∧ (s.func f).cause = cause := Prod.ext_iff

theorem Touch.stand_eq {ps : List Part} {s t : State} (h : Touch ps s t) (f : Func) (hp : ps.contains .funcs = false := by rfl) :
    t.stand f = s.stand f := by rw [State.stand, State.stand, h.func_eq f hp]

theorem stand_of_func {s t : State} {f : Func} (h : t.func f = s.func f) : t.stand f = s.stand f := by
  rw [State.stand, State.stand, h]

theorem fastStop_stand (c : Fin 4) (f : Func) (s : State) : (fastStop c s).stand f = s.stand f :=
  Prod.ext (fastStop_life? c f s) (fastStop_cause c f s)

theorem openSwitches_stand (c : Fin 4) (f : Func) (s : State) : (openSwitches c s).stand f = s.stand f := by
  by_cases h : f = .pch c
  · subst h
    rw [State.stand, openSwitches_func]
    rfl
  · exact stand_of_func (openSwitches_func_ne h s)

theorem faultPch_stand (c : Fin 4) (f : Func) (cause : Byte) (data : DWord) (s : State) :
    (faultPch c cause data s).stand f = if f = .pch c then (.faulted, cause) else s.stand f := by
  unfold faultPch
  extract_lets s1 s2
  have h2 : s2.stand f = if f = .pch c then (.faulted, cause) else s.stand f := by
    refine Eq.trans (stand_of_func (State.func_onPch ..)) ?_
    split
    next h =>
      subst h
      exact enterFaulted_stand ..
    next h => exact (stand_of_func (enterFaulted_func_ne h ..)).trans ((endTest_touch ..).stand_eq f)
  split
  · rw [openSwitches_stand, h2]
  · rw [fastStop_stand, h2]

theorem pchStop_func_ne {c : Fin 4} {f : Func} (h : f ≠ .pch c) (cause : Byte) (s : State) :
    (pchStop c cause s).func f = s.func f := by
  unfold pchStop
  extract_lets fade s0 s1 p s2
  have h2 : s2.func f = s.func f := by
    exact (State.func_onPch ..).trans ((State.func_onFunc_of_ne _ _ h).trans ((endTest_touch ..).func_eq f))
  repeat' split
  all_goals first
    | exact h2
    | exact (State.func_onPch ..).trans h2
    | exact (State.func_onFunc_of_ne _ _ h).trans ((State.func_onPch ..).trans h2)

/-- A function that a fault of this cause reaches: one at work, and for a token mismatch or a lost side one that is STOPPED. -/
def State.faults (s : State) (f : Func) (cause : Byte) : Bool :=
  (s.life? f).busy || (s.life? f == .stopped && (cause == 1 || (f.hv && cause == 5)))

theorem faultFunc_self {s : State} {f : Func} {cause : Byte} (h : s.faults f cause = true) (data : DWord) :
    (faultFunc f cause data s).stand f = (.faulted, cause) := by
  rw [State.faults] at h
  have hent (t : State) : (enterFaulted f cause data t).stand f = (.faulted, cause) := enterFaulted_stand ..
  unfold faultFunc
  simp only [h, Bool.not_true, Bool.false_eq_true, if_false]
  split
  · rw [faultPch_stand, if_pos rfl]
  · exact ((dropRequests_touch ..).stand_eq _).trans (hent _)
  · split
    · exact hent _
    · refine Eq.trans (forAll_keeps (State.stand · .sage) (fun c _ t => stand_of_func (pchStop_func_ne (by nofun) 9 t)) _) (hent _)
  · exact hent _
  · exact ((dropRequests_touch ..).stand_eq _).trans (hent _)
  · exact ((dropRequests_touch ..).stand_eq _).trans (hent _)

theorem faultFunc_idle {s : State} {f : Func} {cause : Byte} (h : s.faults f cause = false) (data : DWord) :
    faultFunc f cause data s = s := by
  rw [State.faults] at h
  unfold faultFunc
  dsimp only
  rw [if_pos (by rw [h]; rfl)]

/-- Another function's record, but for the channels that a fault of SAGE stops. -/
theorem faultFunc_stand_ne {f k : Func} (hk : k ≠ f) {cause : Byte} (hc : f ≠ .sage ∨ cause = 5) (data : DWord) (s : State) :
    (faultFunc f cause data s).stand k = s.stand k := by
  have hent (t : State) : (enterFaulted f cause data t).stand k = t.stand k := stand_of_func (enterFaulted_func_ne hk ..)
  unfold faultFunc
  dsimp only
  split
  · rfl
  split
  · rw [faultPch_stand, if_neg hk]
  · rw [(dropRequests_touch ..).stand_eq, hent]
    exact (landAll_touch ..).stand_eq k
  · rw [if_pos (hc.resolve_left (by simp)), hent, (leaveWork_touch ..).stand_eq]
  · rw [hent, (stopPtp_touch ..).stand_eq, (stopPtp_touch ..).stand_eq, (enterHoldover_touch ..).stand_eq]
  · rw [(dropRequests_touch ..).stand_eq, hent, (abortRuns_touch ..).stand_eq]
  · rw [(dropRequests_touch ..).stand_eq, hent, (leaveWork_touch ..).stand_eq]

theorem faultFunc_pch {c : Fin 4} {cause : Byte} {s : State} (h : s.faults (.pch c) cause = true) (data : DWord) :
    faultFunc (.pch c) cause data s = faultPch c cause data s := by
  rw [State.faults] at h
  unfold faultFunc
  dsimp only
  rw [if_neg (by rw [h]; decide)]

/-- A fault of a channel other than the loss of VBUS leaves its open switches open. -/
theorem faultPch_phase {c : Fin 4} {cause : Byte} {data : DWord} {s : State} (h : s.faults (.pch c) cause = true) (hc : cause ≠ 5)
    (hp : (s.pch c).phase = 0) : ((faultFunc (.pch c) cause data s).pch c).phase = 0 := by
  rw [faultFunc_pch h]
  unfold faultPch
  extract_lets s1 s2
  have h2 : (s2.pch c).phase = 0 := by
    rw [State.pch_onPch]
    rw [(enterFaulted_touch ..).pch_eq c, endTest_pch, hp]
  rw [if_neg (by simp only [hc, decide_false, Bool.false_and, Bool.false_eq_true, not_false_eq_true]), fastStop_open (by rw [h2]; decide), State.pch_onPch, openSwitches_pch]

theorem fade_go_down (f : Fade) (t : Nat) : (f.go false t).up = false := by
  unfold Fade.go
  dsimp only
  repeat' split
  all_goals rfl

/-! The high-voltage side (R46-R50, R65-R67). -/

theorem not_busy_off : Life.off.busy = false := rfl

/-- The overvoltage short of a channel (R48). -/
def overShort (p : Pch) : Pch := { p with phase := 7, vOut := 0, clip := false, prot := if p.retrying then 0 else p.prot }

theorem overShort_eq (p : Pch) : overShort p = { p with
    phase := 7, vOut := 0, clip := false, prot := if p.prot = 1 ∨ p.prot = 2 then 0 else p.prot } := by
  simp [overShort, Pch.retrying]

/-- The same update of several channels. -/
theorem forAll_onPch {l : List (Fin 4)} (hl : l.Nodup) (f : Pch → Pch) (s : State) :
    let t := forAll l (fun c s => s.onPch c f) s
    t.chip = s.chip ∧ t.pwr = { s.pwr with ch := t.pwr.ch } ∧ ∀ c, t.pch c = if c ∈ l then f (s.pch c) else s.pch c := by
  intro t
  refine ⟨forAll_keeps State.chip (fun c _ s => State.onPch_chip c f s) s, ?_, fun c => ?_⟩
  · have hrest : { t.pwr with ch := s.pwr.ch } = { s.pwr with ch := s.pwr.ch } :=
      forAll_keeps (g := fun c s => s.onPch c f) (fun u => { u.pwr with ch := s.pwr.ch }) (fun _ _ _ => rfl) s
    exact congrArg (fun w : PwrSt => { w with ch := t.pwr.ch }) hrest
  · have hother (a b : Fin 4) (u : State) (h : a ≠ b) : (u.onPch a f).pch b = u.pch b := State.pch_onPch_ne _ _ (Ne.symm h)
    split
    next h => 
      exact (forAll_of_mem (F := fun c u => u.pch c) hother (fun c u v h => by simp only [State.pch_onPch, h]) hl h s).trans
        (State.pch_onPch ..)
    next h => exact forAll_of_notMem (F := fun c u => u.pch c) hother h s

/-- The isolation link is quiet: nothing but the link's flag and its event has changed. -/
theorem exists_linkQuiet (s : State) : ∃ u, (if s.chip.linkUp then setHv s.chip.awake false s else s) = u ∧
    u.chip = { s.chip with linkUp := false } ∧ u.pwr = s.pwr ∧ u.life.funcs = s.life.funcs ∧ u.time = s.time := by
  refine ⟨_, rfl, ?_⟩
  split
  next h => exact ⟨setHv_chip .., (setHv_touch ..).pwr_eq, (setHv_touch ..).funcs_eq, (setHv_touch ..).time_eq⟩
  next h => exact ⟨by rw [← Bool.eq_false_of_not_eq_true h], rfl, rfl, rfl⟩

/-- A fast stop of several channels: each by itself. -/
theorem forAll_fastStop {l : List (Fin 4)} (hl : l.Nodup) (s : State) :
    let t := forAll l fastStop s
    t.chip = s.chip ∧ (∀ c ∈ l, t.pch c = (fastStop c s).pch c ∧ t.func (.pch c) = (fastStop c s).func (.pch c)) ∧
      ∀ c ∉ l, t.pch c = s.pch c ∧ t.func (.pch c) = s.func (.pch c) := by
  intro t
  let F := fun (c : Fin 4) (u : State) => (u.pch c, u.func (.pch c), u.time)
  have hother (a b : Fin 4) (u : State) (h : a ≠ b) : F b (fastStop a u) = F b u := by
    have hf : Func.pch b ≠ .pch a := fun he => h (Func.pch.inj he).symm
    simp only [F, fastStop_pch_ne (Ne.symm h), fastStop_func_ne hf, (fastStop_touch a u).time_eq]
  have hself (a : Fin 4) (u v : State) (h : F a u = F a v) : F a (fastStop a u) = F a (fastStop a v) := by
    simp only [F, Prod.mk.injEq] at h ⊢
    obtain ⟨hp, hf, ht⟩ := h
    have htime (w : State) : (fastStop a w).time = w.time := (fastStop_touch a w).time_eq
    have hlife : u.life? (.pch a) = v.life? (.pch a) := congrArg FuncRec.state hf
    have hms : u.msTicks 1 = v.msTicks 1 := by rw [State.msTicks, State.msTicks, State.fsHz, State.fsHz, ht]
    rw [htime, htime]
    by_cases h1 : (v.pch a).phase.toNat ≤ 1
    · rw [fastStop_open h1, fastStop_open (hp ▸ h1)]
      simp only [State.pch_onPch, State.func_onPch, openSwitches_pch, openSwitches_func, hp, hf, ht, hlife, and_self]
    · by_cases h5 : (v.pch a).phase.toNat ≤ 5
      · rw [fastStop_switching (by omega) h5, fastStop_switching (by rw [hp]; omega) (hp ▸ h5)]
        simp only [State.pch_onFunc, State.pch_onPch, State.func_onFunc, State.func_onPch, State.now, hp, hf, ht, hms, and_self]
      · rw [fastStop_done (s := v) (by omega), fastStop_done (s := u) (by rw [hp]; omega)]
        exact ⟨hp, hf, ht⟩
  refine ⟨forAll_keeps State.chip (fun c _ u => (fastStop_touch c u).chip_eq) s, fun c hc => ?_, fun c hc => ?_⟩
  · have h := forAll_of_mem hother hself hl hc s
    simp only [F, Prod.mk.injEq] at h
    exact ⟨h.1, h.2.1⟩
  · have h := forAll_of_notMem hother hc s
    simp only [F, Prod.mk.injEq] at h
    exact ⟨h.1, h.2.1⟩

/-- The faults of a lost side (R85). -/
def hvFaults (s : State) : State := forAll (allFuncs.filter (·.hv)) (fun f s => faultFunc f 5 0 s) s

theorem forAll_faultHv (s : State) : (hvFaults s).chip = s.chip ∧
    ∀ f, (hvFaults s).stand f = if f.hv = true ∧ s.faults f 5 = true then (.faulted, 5) else s.stand f := by
  have hother (f k : Func) (t : State) (h : f ≠ k) : (faultFunc f 5 0 t).stand k = t.stand k :=
    faultFunc_stand_ne (Ne.symm h) (.inr rfl) 0 t
  have hself (f : Func) (t u : State) (h : t.stand f = u.stand f) : (faultFunc f 5 0 t).stand f = (faultFunc f 5 0 u).stand f := by
    have hfaults : t.faults f 5 = u.faults f 5 := by
      have hlife : t.life? f = u.life? f := congrArg Prod.fst h
      rw [State.faults, State.faults, hlife]
    cases hf : u.faults f 5 with
    | true => rw [faultFunc_self hf, faultFunc_self (hfaults.trans hf)]
    | false => rw [faultFunc_idle hf, faultFunc_idle (hfaults.trans hf), h]
  refine ⟨forAll_keeps State.chip (fun f _ t => (faultFunc_touch f 5 0 t).chip_eq) s, fun f => ?_⟩
  by_cases hf : f.hv = true
  · have hmem : f ∈ allFuncs.filter (·.hv) := List.mem_filter.mpr ⟨mem_allFuncs f, hf⟩
    refine (forAll_of_mem (F := fun f s => State.stand s f) hother hself (nodup_allFuncs.filter _) hmem s).trans ?_
    cases hs : s.faults f 5 with
    | true => rw [faultFunc_self hs, if_pos ⟨hf, rfl⟩]
    | false => rw [faultFunc_idle hs, if_neg (by simp)]
  · rw [if_neg (by simp [hf])]
    exact forAll_of_notMem (F := fun f s => State.stand s f) hother (by simp [hf]) s

/-- The FUNC_CONFIG that waits for a wake (R65). -/
def waitsForWake (j : Job) : Bool := j.op == 0x11 && j.phase == 1 && (match descFunc j.desc with
  | some f => f.hv
  | none => false)

/-- What a failed wake ends of one function (R66). -/
def wakeRefuse (f : Func) (s : State) : State :=
  let r := s.func f
  let a := if r.state == .off && r.stopReq then
      (s.onFunc f fun r => { r with stopReq := false, offReq := false }).endStops f stTimeout else s
  if r.startReq then (a.onFunc f fun r => { r with startReq := false }).endStarts f stTimeout else a

theorem exec_hvWakeTimeout_waking {s : State} (h : s.chip.waking = true) : exec .hvWakeTimeout s = .next (autoWakeFail
    (forAll (allFuncs.filter (·.hv)) wakeRefuse ((s.onChip fun c => { c with waking := false }).endJobs waitsForWake stTimeout 0))) := by
  rw [exec_hvWakeTimeout, execHvWakeTimeout, if_neg (by simp [h])]
  rfl

theorem wakeRefuse_touch (f : Func) (s : State) : Touch [.funcs, .jobs, .acts, .rings, .link, .reqs] s (wakeRefuse f s) := by
  unfold wakeRefuse
  extract_lets r a
  have ha : Touch [.funcs, .jobs, .acts, .rings, .link, .reqs] s a :=
    Touch.ite ((State.endStops_touch ..).after ((State.onFunc_touch ..).after (Touch.refl _ _) rfl) rfl) (Touch.refl _ _)
  exact Touch.ite ((State.endStarts_touch ..).after ((State.onFunc_touch ..).after ha rfl) rfl) ha

theorem wakeRefuse_life? (f k : Func) (s : State) : (wakeRefuse f s).life? k = s.life? k := by
  unfold wakeRefuse
  extract_lets r a
  have ha : a.life? k = s.life? k := by
    dsimp only [a]
    split
    · rw [(State.endStops_touch ..).life?_eq, State.life?_onFunc (g := fun r => { r with stopReq := false, offReq := false }) fun _ => rfl]
    · rfl
  split
  · rw [(State.endStarts_touch ..).life?_eq, State.life?_onFunc (g := fun r => { r with startReq := false }) fun _ => rfl, ha]
  · exact ha

theorem autoWakeFail_life? (f : Func) (s : State) : (autoWakeFail s).life? f = s.life? f := by
  unfold autoWakeFail
  split
  · split
    · split
      · rw [(autoNext_touch _).life?_eq]
        split
        · rw [(autoRefuse_touch ..).life?_eq]
        · rw [(autoRefuse_touch ..).life?_eq, State.life?_onFunc (g := fun r => { r with startReq := false }) fun _ => rfl]
      · rfl
    · rfl
  · rfl

/-- Settles O9: the folds over the channels and over the functions act on each one by itself. -/
theorem highVoltageSide : Obligations.HighVoltageSide := by
  intro s
  refine ⟨fun v => rfl, rfl, fun v hv => ?_, fun v hv hp => ?_, fun c hph hbusy => ?_, ?_, fun hp => ?_, fun hw hup hv hp => ?_,
    fun hw => ?_, fun ha hr ht => ?_, fun v hv => ?_, fun v ha => ?_⟩
  · have hslt : v.slt 0 = true := by simpa [BitVec.slt] using hv
    rw [exec_vbusReversed, execVbusReversed, if_pos hslt]
    rfl
  · have hgo : ¬ ((decide (v.toInt ≤ 1900) || s.chip.variant == .l) = true) := by simp [hp, hv]
    obtain ⟨hchip, hpwr, hch⟩ := forAll_onPch (l := allPch.filter fun c => (s.pch c).phase != 0) ((List.nodup_finRange 4).filter _)
      overShort (s.onChip fun c => { c with vbus := v, vbusOv := true })
    have hexec : exec (.vbusOvervoltage v) s = .next (forAll (allPch.filter fun c => (s.pch c).phase != 0)
        (fun c s => s.onPch c overShort) (s.onChip fun c => { c with vbus := v, vbusOv := true })) := by
      rw [exec_vbusOvervoltage, execVbusOvervoltage, if_neg hgo]
      rfl
    refine (execVbusOvervoltage_touch v s).does hexec
      ⟨hchip, hpwr, fun c => ⟨fun hc => (hch c).trans (if_neg (by simp [hc])), fun hc => (hch c).trans ?_⟩⟩
    rw [if_pos (by simpa [allPch] using hc), overShort_eq]
    rfl
  · have hopen : (openSwitches c s).faults (.pch c) 6 = true := by simp [State.faults, openSwitches_life?, hbusy]
    have hstand := faultFunc_self hopen 0
    exact (execOvShortRelease_touch c s).does (by rw [exec_ovShortRelease, execOvShortRelease, if_neg (not_not.mpr hph)])
      ⟨congrArg Prod.fst hstand, congrArg Prod.snd hstand,
        faultPch_phase hopen (by decide) (by rw [openSwitches_pch])⟩
  · obtain ⟨u, hu, huchip, hupwr, hufuncs, hutime⟩ := exists_linkQuiet s
    have hbusy (c : Fin 4) : c ∈ allPch.filter (fun c => (s.life? (.pch c)).busy) ↔ (s.life? (.pch c)).busy = true := by
      simp [allPch]
    obtain ⟨hchip, hself, hidle⟩ := forAll_fastStop (l := allPch.filter fun c => (s.life? (.pch c)).busy)
      ((List.nodup_finRange 4).filter _) u
    have hpch (c : Fin 4) : u.pch c = s.pch c := by rw [State.pch, State.pch, hupwr]
    have hfunc (f : Func) : u.func f = s.func f := by rw [State.func, State.func, hufuncs]
    have hstop : exec .hvTokenTimeout s = .next (forAll (allPch.filter fun c => (s.life? (.pch c)).busy) fastStop u) := by
      rw [exec_hvTokenTimeout, execHvTokenTimeout, hu]
    refine (execHvTokenTimeout_touch s).does hstop ⟨hchip.trans huchip, fun c hc => ?_, fun c hc hlo hhi => ?_, fun c hc hlo => ?_⟩
    · obtain ⟨hp, hf⟩ := hidle c (by rw [hbusy, hc]; decide)
      rw [hp, hf]
      exact ⟨hpch c, hfunc _⟩
    · obtain ⟨hp, hf⟩ := hself c ((hbusy c).mpr hc)
      rw [hp, hf, fastStop_switching (by rw [hpch]; exact hlo) (by rw [hpch]; exact hhi), State.pch_onFunc, State.pch_onPch,
        State.func_onFunc, hpch, State.now, State.now, hutime]
      exact ⟨rfl, fade_go_down _ _⟩
    · obtain ⟨hp, -⟩ := hself c ((hbusy c).mpr hc)
      rw [hp, fastStop_open (by rw [hpch]; exact hlo), State.pch_onPch, openSwitches_pch]
      exact ⟨rfl, rfl⟩
  · have hgo : ¬ s.chip.variant = .l := by simp [hp]
    obtain ⟨hchip, hstand⟩ := forAll_faultHv (s.onChip fun c => { c with waking := false })
    have hlost : exec .hvLost s = .next (setHv false false (hvFaults (s.onChip fun c => { c with waking := false }))) := by
      rw [exec_hvLost, execHvLost, if_neg hgo, hvFaults]
    refine (execHvLost_touch s).does hlost ⟨by rw [setHv_chip], by rw [setHv_chip], by rw [setHv_chip, hchip, State.onChip_chip],
      fun f hf hst => ?_, fun f hf => ?_⟩
    · have hfault : (s.onChip fun c => { c with waking := false }).faults f 5 = true := by
        rcases hst with hst | hst <;> simp [State.faults, hst, hf]
      have hsf := (setHv_touch false false (hvFaults (s.onChip fun c => { c with waking := false }))).stand_eq f
      rw [hstand, if_pos ⟨hf, hfault⟩] at hsf
      exact stand_eq_iff.mp hsf
    · have hno : ¬ (f.hv = true ∧ (s.onChip fun c => { c with waking := false }).faults f 5 = true) := by
        rcases hf with hf | hf
        · simp [hf]
        · simp [State.faults, hf, Life.busy]
      have hsf := (setHv_touch false false (hvFaults (s.onChip fun c => { c with waking := false }))).stand_eq f
      rw [hstand, if_neg hno] at hsf
      exact (stand_eq_iff.mp hsf).1
  · have hgo : ¬ ((!(s.chip.waking || s.chip.hvUp) || decide (s.chip.vbus.toInt < 240) || s.chip.variant == .l) = true) := by
      simp [hw, hp, hv]
    refine (execHvAwake_touch s).does (by rw [exec_hvAwake, execHvAwake, if_neg hgo, if_neg (by simp [hup])]) ⟨?_, ?_⟩
    · rw [forAll_keeps State.chip fun c _ s => (reloadCoil_touch c s).chip_eq, State.onLog_chip, setHv_chip, State.onChip_chip]
    · rw [forAll_keeps State.log fun c _ s => (reloadCoil_touch c s).log_eq, State.onLog_log, (setHv_touch ..).log_eq, State.onChip_log]
  · refine (execHvWakeTimeout_touch s).does (exec_hvWakeTimeout_waking hw) ⟨?_, fun f => ?_⟩
    · rw [(autoWakeFail_touch _).chip_eq, forAll_keeps State.chip fun f _ t => (wakeRefuse_touch f t).chip_eq,
        (State.endJobs_touch ..).chip_eq, State.onChip_chip]
    · rw [autoWakeFail_life?, forAll_keeps (fun t => t.life? f) fun k _ t => wakeRefuse_life? k f t,
        (State.endJobs_touch ..).life?_eq, State.life?_onChip]
  · have hgo : (s.chip.awake && s.hvResting && decide (s.msTicks 100 ≤ s.chip.hvIdle)) = true := by simp [ha, hr, ht]
    refine (execHvSleep_touch s).does (by rw [exec_hvSleep, execHvSleep, if_pos hgo]) ?_
    rw [setHv_chip, State.onChip_chip]
  · rw [exec_vbusOvClear, execVbusOvClear, if_pos hv]
    rfl
  · rw [exec_pchVbusUpdate, execPchVbusUpdate, if_pos ha]
    rfl

end Sys2Proof.Machine
end

section
/-! PROOFS. The MAC slot, O54. -/

namespace Sys2Proof.Machine

open Sys2Proof

set_option Elab.async false

section
variable {i : Instr} {s : State} {n : Fin 16} {w : BitVec 40} {ad xa xb as form : Bool} {val : Core → Landing}

/-- A MAC operation with its unused fields zero issues its result, four bundles to landing. -/
theorem leaves_macSlot {v : Landing} (h : s.SlotRuns n (macStg w)) (hi : exec i s = macSlot n w ad xa xb as val s)
    (hf : macFieldsOk w ad xa xb as = true) (hv : val (s.core n) = v) :
    Leaves i s n fun c => c.issue 4 0 (.acc (macAd w) c.inHandler) v := by
  rw [macSlot, slotOp_runs h hf rfl, hv] at hi
  exact hi

/-- What the reserved bits and the fields that the operation does not use ask for together. -/
theorem macFieldsOk_eq (w : BitVec 40) (ad xa xb as : Bool) : macFieldsOk w ad xa xb as =
    (decide (bits w 7 0 = 0) && ((ad || decide (bits w 31 28 = 0)) && (xa || decide (bits w 27 22 = 0)) && (as || decide (bits w 15 12 = 0)) &&
      if xb then decide (bits w 11 11 = 1 ∨ bits w 10 8 = 0) else decide (bits w 21 16 = 0 ∧ bits w 11 8 = 0))) := by
  have hbc : macBc w = decide (bits w 11 11 = 1) := by rw [bits_self, macBc]; cases w.getLsbD 11 <;> rfl
  rw [macFieldsOk, hbc]
  cases xb <;> simp [Bool.and_assoc, beq_eq_decide]

theorem gated_macSlot (hi : exec i s = macSlot n w ad xa xb as val s) : Gated i s n (macStg w) (macFieldsOk w ad xa xb as) :=
  gated_of_slotOp hi rfl

/-- The clauses of a MAC operation that does not run, where `form` says what its unused fields must be. -/
theorem macOutcomes (h : Gated i s n (macStg w) (macFieldsOk w ad xa xb as))
    (hf : macFieldsOk w ad xa xb as = (decide (bits w 7 0 = 0) && form)) :
    (s.issuing n = false → exec i s = .next s) ∧
    ((s.core n).stageOn (bits w 39 38) = false → (s.core n).stageOk (bits w 39 38) = true → form = true → bits w 7 0 = 0 →
      exec i s = .next s) ∧
    (s.issuing n = true → (s.core n).inHandler = false → (s.core n).image.trapEntry ≠ 0xFFFF →
      bits w 7 0 ≠ 0 ∨ form = false ∨ (s.core n).stageOk (bits w 39 38) = false → Does i s [.cores] fun t => Trapped s t n 3) := by
  refine ⟨h.idle, fun ho hl hform hres => h.off hl ho (by simp [hf, hform, hres]), fun hi hh ht hbad => ?_⟩
  refine does_trapHere (h.illegal hi ?_) hh ht
  rw [hf]
  rcases hbad with hres | hform | hl
  · exact .inr (by simp [hres])
  · exact .inr (by simp [hform])
  · exact .inl hl

end

theorem xbOf_apply (c : Core) (w : BitVec 40) (l : Fin 8) : (xbOf c w)[l] =
    if w.getLsbD 11 then (c.getX (Fin.ofNat 64 (bits w 21 16)))[Fin.ofNat 8 (bits w 10 8)]
    else (c.getX (Fin.ofNat 64 (bits w 21 16)))[l] := by
  unfold xbOf macBc
  cases w.getLsbD 11
  · rfl
  · exact splat_apply _ l

/-- A lane product fits in an accumulator lane. -/
theorem toInt_mulLane (a b : Word) : (mulLane a b).toInt = a.toInt * b.toInt := by
  have ha := BitVec.toInt_lt (x := a)
  have ha' := BitVec.le_toInt a
  have hb := BitVec.toInt_lt (x := b)
  have hb' := BitVec.le_toInt b
  have habs : |a.toInt * b.toInt| ≤ 2 ^ 31 * 2 ^ 31 := by
    rw [abs_mul]
    exact mul_le_mul (abs_le.2 ⟨by omega, by omega⟩) (abs_le.2 ⟨by omega, by omega⟩) (abs_nonneg _) (by norm_num)
  obtain ⟨hlo, hhi⟩ := abs_le.1 habs
  rw [mulLane, BitVec.toInt_ofInt]
  exact Int.bmod_eq_of_le (by omega) (by omega)

theorem toInt_aldLane (x : Word) : (BitVec.ofInt 80 (x.toInt * 2 ^ 31)).toInt = x.toInt * 2 ^ 31 := by
  have hhi := BitVec.toInt_lt (x := x)
  have hlo := BitVec.le_toInt x
  rw [BitVec.toInt_ofInt]
  exact Int.bmod_eq_of_le (by omega) (by omega)

/-- The accumulator lanes are told by their signed values. -/
theorem accLanes_ext {u v : AccLanes} (h : ∀ l : Fin 8, u[l].toInt = v[l].toInt) : u = v :=
  lanes_ext fun l => BitVec.eq_of_toInt_eq (h l)

/-- Settles O54: each operation is one slot operation, whose form and result are read off. -/
theorem macSlots : Obligations.MacSlot := by
  intro s n w c stg xa xbReg xb as lands noAd noXa noXb noAs xbOk
  have hmul (e : Bool) : macFieldsOk w true true true e = (decide (bits w 7 0 = 0) && (xbOk && (e || noAs))) := by
    rw [macFieldsOk_eq]
    simp [xbOk, noAs, Bool.and_comm]
  have hnone (x e : Bool) : macFieldsOk w true x false e = (decide (bits w 7 0 = 0) && ((x || noXa) && noXb && (e || noAs))) := by
    rw [macFieldsOk_eq]
    simp only [Bool.true_or, Bool.true_and, noXa, noXb, noAs, Bool.false_eq_true, if_false, Bool.and_right_comm]
  have hnop : macFieldsOk w false false false false = (decide (bits w 7 0 = 0) && (noAd && noXa && noXb && noAs)) := by
    rw [macFieldsOk_eq]
    simp only [Bool.false_or, noAd, noXa, noXb, noAs, Bool.false_eq_true, if_false, Bool.and_right_comm]
  refine ⟨fun hiss hok hon hres => ?_, ?_⟩
  · have h : s.SlotRuns n (macStg w) := ⟨hiss, hok, hon⟩
    have hprod {p : AccLanes} (hp : ∀ l : Fin 8, p[l].toInt = xa[l].toInt * (xb l).toInt) : product c w = p :=
      accLanes_ext fun l => by
        rw [hp, product, zipLanes_apply, toInt_mulLane, xbOf_apply]
        rfl
    refine ⟨fun h1 h2 h3 h4 => ?_, fun p hp hxb => ⟨fun h4 => ?_, ?_⟩, fun h2 h3 => ?_, fun h2 h3 h4 => ?_, fun h3 h4 v hv => ?_⟩
    · rw [exec_mnop, execMnop, slotOp_runs h (by rw [hnop, h1, h2, h3, h4, hres]; rfl) rfl]
    · have hf : macFieldsOk w true true true false = true := by simp [hmul, hres, hxb, h4]
      exact ⟨leaves_macSlot h (exec_mpy n w s) hf (congrArg Landing.accSet (hprod hp)),
        leaves_macSlot h (exec_macOp n w s) hf (congrArg Landing.accAdd (hprod hp)),
        leaves_macSlot h (exec_msu n w s) hf (congrArg Landing.accSub (hprod hp))⟩
    · have hf : macFieldsOk w true true true true = true := by simp [hmul, hres, hxb]
      exact leaves_macSlot h (exec_mpya n w s) hf (congrArg (Landing.accSum as) (hprod hp))
    · have hf : macFieldsOk w true false false true = true := by simp [hnone, hres, h2, h3]
      exact ⟨leaves_macSlot h (exec_aadd n w s) hf rfl, leaves_macSlot h (exec_asub n w s) hf rfl,
        leaves_macSlot h (exec_amov n w s) hf rfl⟩
    · have hf : macFieldsOk w true false false false = true := by simp [hnone, hres, h2, h3, h4]
      exact leaves_macSlot h (exec_aclr n w s) hf (congrArg Landing.accSet (lanes_ext fun l => by simp [splat]))
    · have hf : macFieldsOk w true true false false = true := by simp [hnone, hres, h3, h4]
      refine leaves_macSlot h (exec_ald n w s) hf (congrArg Landing.accSet (accLanes_ext fun l => ?_))
      rw [mapLanes_apply, toInt_aldLane, hv]
      rfl
  · have hmac {i : Instr} {ad x xb as form : Bool} {val} (hi : exec i s = macSlot n w ad x xb as val s)
        (hf : macFieldsOk w ad x xb as = (decide (bits w 7 0 = 0) && form)) := macOutcomes (gated_macSlot hi) hf
    have hlanes : macFieldsOk w true true true false = (decide (bits w 7 0 = 0) && (xbOk && noAs)) := hmul false
    have hall : macFieldsOk w true true true true = (decide (bits w 7 0 = 0) && xbOk) := by rw [hmul]; simp
    have hacc : macFieldsOk w true false false true = (decide (bits w 7 0 = 0) && (noXa && noXb)) := by rw [hnone]; simp
    have hclr : macFieldsOk w true false false false = (decide (bits w 7 0 = 0) && (noXa && noXb && noAs)) := hnone false false
    have hld : macFieldsOk w true true false false = (decide (bits w 7 0 = 0) && (noXb && noAs)) := hnone true false
    simp only [List.forall_mem_cons]
    exact ⟨macOutcomes (gated_of_slotOp (exec_mnop n w s) rfl) hnop, hmac (exec_mpy n w s) hlanes, hmac (exec_macOp n w s) hlanes,
      hmac (exec_msu n w s) hlanes, hmac (exec_mpya n w s) hall, hmac (exec_aadd n w s) hacc, hmac (exec_asub n w s) hacc,
      hmac (exec_amov n w s) hacc, hmac (exec_aclr n w s) hclr, hmac (exec_ald n w s) hld, List.forall_mem_nil _⟩

end Sys2Proof.Machine
end

section
/-! PROOFS. A core's results as they land: memory read back, the registers behind a destination, and the accumulators. -/

namespace Sys2Proof.Machine

open Sys2Proof

set_option Elab.async false

/-! Counters (R444). -/

theorem counts_bumpBy {i : Nat} (hi : i < 4096) (f n : Nat) (s : State) : Counts s (s.bumpBy f i n) f i n := by
  intro g j hj
  unfold State.count State.bumpBy
  by_cases h : g = f ∧ j = i
  · obtain ⟨rfl, rfl⟩ := h
    simp [State.count]
  · have hne : cntKey g j ≠ cntKey f i := fun e => h (Prod.mk.inj ((cntKey_inj hi hj).1 e))
    simp [h, Store.get?_put_of_ne _ _ hne]

theorem counts_congr {s s' t t' : State} {f i n : Nat} (hs : s'.cnt = s.cnt) (ht : t'.cnt = t.cnt) (h : Counts s t f i n) :
    Counts s' t' f i n := by
  intro g j hj
  have := h g j hj
  unfold State.count at this ⊢
  rw [hs, ht]
  exact this

/-! Bytes in order, and memory read back after a write (log 5). -/

@[simp] theorem length_leBytes (n v : Nat) : (leBytes n v).length = n := by
  induction n generalizing v with
  | zero => rfl
  | succ n ih => simp [leBytes, ih]

theorem ofLe_leBytes (n v : Nat) : ofLe (leBytes n v) = v % 256 ^ n := by
  induction n generalizing v with
  | zero => simp [leBytes, ofLe, Nat.mod_one]
  | succ n ih => simp [leBytes, ofLe, ih, pow_succ', Nat.mod_mul]

@[simp] theorem length_memGetList (m : List Host.Cell) (a n : Nat) : (memGetList m a n).length = n := by
  induction n generalizing a with
  | zero => rfl
  | succ n ih => simp [memGetList, ih]

theorem getElem_memGetList (m : List Host.Cell) (a n i : Nat) (hi : i < (memGetList m a n).length) :
    (memGetList m a n)[i] = memByte m (a + i) := by
  induction n generalizing a i with
  | zero => simp [memGetList] at hi
  | succ n ih =>
    cases i with
    | zero => rfl
    | succ i =>
      simp only [memGetList, List.getElem_cons_succ, ih]
      congr 1
      omega

/-- What was written is read back, in whole or in part. -/
theorem memGetList_memPutList {m : List Host.Cell} (h : Memory.wf m = true) (a k n : Nat) (bs : List Byte)
    (hle : k + n ≤ bs.length) : memGetList (memPutList m a bs) (a + k) n = (bs.drop k).take n := by
  refine List.ext_getElem (by simp; omega) fun i hi _ => ?_
  rw [length_memGetList] at hi
  rw [getElem_memGetList, memByte_memPutList _ _ _ h, if_pos (by omega), List.getElem_take, List.getElem_drop,
    List.getD_eq_getElem _ _ (by omega)]
  congr 1
  omega

theorem memGetList_memPutList_self {m : List Host.Cell} (h : Memory.wf m = true) (a : Nat) (bs : List Byte) :
    memGetList (memPutList m a bs) a bs.length = bs := by
  simpa using memGetList_memPutList h a 0 bs.length bs (by omega)

/-- One word of a vector's bytes. -/
theorem drop_take_flatMap {α β : Type} (f : α → List β) {k : Nat} (hf : ∀ x, (f x).length = k) (l : List α) (i : Nat)
    (hi : i < l.length) : ((l.flatMap f).drop (k * i)).take k = f l[i] := by
  induction l generalizing i with
  | nil => simp at hi
  | cons x r ih =>
    cases i with
    | zero => simp [List.flatMap_cons, ← hf x]
    | succ i =>
      have hdrop : (f x ++ r.flatMap f).drop (k * (i + 1)) = (r.flatMap f).drop (k * i) := by
        rw [Nat.mul_succ, Nat.add_comm, ← hf x, List.drop_length_add_append]
      rw [List.flatMap_cons, hdrop]
      exact ih i (by simpa using hi)

theorem length_flatMap_leBytes (l : List Word) (k : Nat) : (l.flatMap fun w => leBytes k w.toNat).length = k * l.length := by
  induction l with
  | nil => rfl
  | cons x r ih => rw [List.flatMap_cons, List.length_append, ih, length_leBytes, List.length_cons]; ring

theorem ofLe_leBytes_word (w : Word) : ofLe (leBytes 4 w.toNat) = w.toNat := by
  rw [ofLe_leBytes]
  exact Nat.mod_eq_of_lt w.isLt

/-! The registers of a core that a landing names. -/

section
variable (c : Core) (sh : Bool) (r y : Fin 16) (v : AccLanes)

theorem Core.accOf_putA : (c.putA sh r v).accOf sh r = v := by
  unfold Core.putA Core.accOf
  by_cases h : r.val < 8
  · cases sh <;> simp [h, Core.onBank, Core.bankOf, vmod, Nat.mod_eq_of_lt h]
  · have : r.val - 8 < 8 := by omega
    simp [h, vmod, Nat.mod_eq_of_lt this]

theorem Core.accOf_putA_ne (h : y ≠ r) : (c.putA sh r v).accOf sh y = c.accOf sh y := by
  have hne : y.val ≠ r.val := fun e => h (Fin.ext e)
  unfold Core.putA Core.accOf
  by_cases hr : r.val < 8 <;> by_cases hy : y.val < 8
  · cases sh <;> simp [hr, hy, Core.onBank, Core.bankOf, vmod, Nat.mod_eq_of_lt hr, Ne.symm hne]
  · cases sh <;> simp [hr, hy, Core.onBank]
  · cases sh <;> simp [hr, hy, Core.bankOf]
  · have h1 : r.val - 8 < 8 := by omega
    have h2 : r.val - 8 ≠ y.val - 8 := by omega
    simp [hr, hy, vmod, Nat.mod_eq_of_lt h1, h2]

/-- Nothing else of the core goes with an accumulator. -/
theorem Core.putA_frame : c.putA sh r v = { c with
    main := (c.putA sh r v).main, shadow := (c.putA sh r v).shadow, au := (c.putA sh r v).au } := by
  unfold Core.putA Core.onBank
  by_cases hr : r.val < 8 <;> cases sh <;> simp [hr]

end

/-! Overflow of accumulator lanes (R324). -/

theorem overflows_eq_false {w : Nat} {x : Int} (h : -2 ^ (w - 1) ≤ x) (h' : x < 2 ^ (w - 1)) : overflows w x = false := by
  unfold overflows satInt
  rw [if_neg (by omega), if_neg (by omega)]
  simp

theorem getLsbD_foldl_bits (b : Fin 8 → Bool) (i : Fin 8) :
    (BitVec.ofNat 8 ((List.finRange 8).foldl (fun r i => r + b2n (b i) * 2 ^ i.val) 0)).getLsbD i.val = b i := by
  have hb (j : Fin 8) : b2n (b j) = (b j).toNat := by cases b j <;> rfl
  have hle (j : Fin 8) : (b j).toNat ≤ 1 := Bool.toNat_le _
  have := hle 0; have := hle 1; have := hle 2; have := hle 3; have := hle 4; have := hle 5; have := hle 6; have := hle 7
  have hi : b i = decide ((b i).toNat = 1) := by cases b i <;> rfl
  rw [hi, BitVec.getLsbD_ofNat, Nat.testBit_eq_decide_div_mod_eq]
  have hfold : (List.finRange 8).foldl (fun r i => r + b2n (b i) * 2 ^ i.val) 0 = (b 0).toNat + (b 1).toNat * 2 + (b 2).toNat * 4 +
      (b 3).toNat * 8 + (b 4).toNat * 16 + (b 5).toNat * 32 + (b 6).toNat * 64 + (b 7).toNat * 128 := by
    simp [List.finRange, hb]
  rw [hfold, decide_eq_true i.isLt, Bool.true_and]
  refine decide_eq_decide.2 ?_
  fin_cases i <;> simp only [Fin.reduceFinMk, Fin.zero_eta, Fin.mk_one, Fin.isValue] <;> omega

theorem getLsbD_ovLanes (f : Acc → Acc → Int) (a b : AccLanes) (i : Fin 8) :
    (ovLanes f a b).getLsbD i.val = overflows 80 (f a[i] b[i]) := getLsbD_foldl_bits (fun i => overflows 80 (f a[i] b[i])) i

/-! What lands (R295): the result at the front of those in flight. -/

section
variable {i : Instr} {s : State} {n : Fin 16} {f : Flight} {g : Core → Core}

theorem leaves_congr {h : Core → Core} (e : g (s.core n) = h (s.core n)) : Leaves i s n g → Leaves i s n h := by
  intro hg
  have := State.onCore_congr (s := s) e
  exact hg.trans (congrArg Host.Outcome.next this)

/-- What a core operation leaves, read part by part. -/
theorem Leaves.does (h : Leaves i s n g) {P : State → Prop}
    (hP : ∀ t : State, t.core n = g (s.core n) → (∀ m, m ≠ n → t.core m = s.core m) → P t) : Does i s [.cores] P :=
  ((Touch.refl [.cores] s).onCore (n := n) (g := g) rfl).does h
    (hP _ (State.core_onCore ..) fun _ hm => State.core_onCore_ne _ _ hm)

theorem leaves_of_onCore (h : exec i s = .next (s.onCore n g)) : Leaves i s n g := h

theorem pendingTraps_none (ha : (s.core n).aovTrap = none) (hx : (s.core n).xfTrap = false) : pendingTraps n s = s := by
  simp [pendingTraps, ha, hx]

/-- A result with another place than memory lands in a register. -/
theorem landOne_register (hmem : ∀ dy a, f.dest ≠ .mem dy a) (t : State) :
    landOne n f t = t.onCore n (·.land (t.scAovTrap n) f) := by
  unfold landOne
  split
  · exact absurd ‹_› (hmem _ _)
  · exact absurd ‹_› (hmem _ _)
  · rfl

theorem exec_resultLand_first (hrun : islandRuns (.sc n) s = true) (hf : (s.core n).flight.head? = some f) :
    exec (.resultLand n) s = .next (pendingTraps n (landOne n f (s.onCore n fun c => { c with flight := c.flight.tail }))) := by
  obtain ⟨r, hr⟩ : ∃ r, (s.core n).flight = f :: r := by
    cases hfl : (s.core n).flight with
    | nil => simp [hfl] at hf
    | cons g r => exact ⟨r, by simpa [hfl] using hf⟩
  have hfirst : landFirst n s = landOne n f (s.onCore n fun c => { c with flight := c.flight.tail }) := by
    unfold landFirst
    rw [hr]
    exact congrArg (landOne n f) (State.onCore_congr (by rw [hr]; rfl))
  rw [exec_resultLand, execResultLand, if_neg (by simp [hrun, hr]), hfirst]

/-- The core with the first result in flight landed in its registers. -/
def Core.landed (aovTrap : Bool) (f : Flight) (c : Core) : Core := { c with flight := c.flight.tail }.land aovTrap f

theorem exec_resultLand_eq (hrun : islandRuns (.sc n) s = true) (hf : (s.core n).flight.head? = some f)
    (hmem : ∀ dy a, f.dest ≠ .mem dy a) :
    exec (.resultLand n) s = .next (pendingTraps n (s.onCore n (·.landed (s.scAovTrap n) f))) := by
  rw [exec_resultLand_first hrun hf, landOne_register hmem, State.onCore_onCore]
  rfl

theorem leaves_resultLand (hrun : islandRuns (.sc n) s = true) (hf : (s.core n).flight.head? = some f)
    (hmem : ∀ dy a, f.dest ≠ .mem dy a) {k : Core} (hk : (s.core n).landed (s.scAovTrap n) f = k) (ha : k.aovTrap = none)
    (hx : k.xfTrap = false) : Leaves (.resultLand n) s n fun _ => k := by
  have hone := exec_resultLand_eq hrun hf hmem
  rw [State.onCore_congr (h := fun _ => k) hk, pendingTraps_none (by rwa [State.core_onCore]) (by rwa [State.core_onCore])] at hone
  exact hone

/-- A store lands: its bytes, and nothing of the core but the place in flight. -/
theorem exec_resultLand_store (hrun : islandRuns (.sc n) s = true) (hf : (s.core n).flight.head? = some f) {at_ : Nat}
    {bs : List Byte} (hone : ∀ t : State, landOne n f t = t.write at_ bs) (ha : (s.core n).aovTrap = none)
    (hx : (s.core n).xfTrap = false) :
    exec (.resultLand n) s = .next ((s.onCore n fun c => { c with flight := c.flight.tail }).write at_ bs) := by
  have hcore : ((s.onCore n fun c => { c with flight := c.flight.tail }).write at_ bs).core n =
      { s.core n with flight := (s.core n).flight.tail } := State.core_onCore ..
  rw [exec_resultLand_first hrun hf, hone, pendingTraps_none (by rw [hcore]; exact ha) (by rw [hcore]; exact hx)]

end

section
variable {c : Core} {f : Flight} {x : Fin 16} {sh : Bool} {trap : Bool}

/-- The core with accumulator `x` of bank `sh` at `v`, and the overflows `ov` added. -/
def Core.withAcc (x : Fin 16) (sh : Bool) (v : AccLanes) (ov : Byte) (c : Core) : Core :=
  { { c with flight := c.flight.tail }.putA sh x v with aov := c.aov ||| ov }

theorem Core.accOf_congr {c k : Core} (hm : c.main = k.main) (hs : c.shadow = k.shadow) (hu : c.au = k.au) (sh : Bool)
    (y : Fin 16) : c.accOf sh y = k.accOf sh y := by
  unfold Core.accOf Core.bankOf
  rw [hm, hs, hu]

theorem Core.accOf_withAcc (v : AccLanes) (ov : Byte) : (c.withAcc x sh v ov).accOf sh x = v :=
  (Core.accOf_congr rfl rfl rfl sh x).trans (Core.accOf_putA _ sh x v)

theorem Core.accOf_withAcc_ne (v : AccLanes) (ov : Byte) {y : Fin 16} (h : y ≠ x) :
    (c.withAcc x sh v ov).accOf sh y = c.accOf sh y :=
  ((Core.accOf_congr rfl rfl rfl sh y).trans (Core.accOf_putA_ne _ sh x y v h)).trans (Core.accOf_congr rfl rfl rfl sh y)

theorem Core.withAcc_frame (v : AccLanes) (ov : Byte) : c.withAcc x sh v ov = { c with
    main := (c.withAcc x sh v ov).main, shadow := (c.withAcc x sh v ov).shadow, au := (c.withAcc x sh v ov).au
    aov := c.aov ||| ov, flight := c.flight.tail } := by
  unfold Core.withAcc
  rw [Core.putA_frame]

/-- An accumulator's result lands without a trap: AOV_TRAP is 0, or nothing overflows. -/
theorem Core.landed_acc {v : AccLanes} {ov : Byte} (hd : f.dest = .acc x sh) (hv : landAcc (c.accOf sh x) f.val = (v, ov))
    (hq : trap = false ∨ ov = 0) : c.landed trap f = c.withAcc x sh v ov := by
  have hold : { c with flight := c.flight.tail }.accOf sh x = c.accOf sh x := Core.accOf_congr rfl rfl rfl sh x
  unfold Core.landed Core.land
  simp only [hd, hold, hv]
  refine if_neg ?_
  rcases hq with rfl | rfl <;> simp

/-- With AOV_TRAP, an overflow that AOV did not show makes the trap pending (R326). -/
theorem Core.landed_acc_trap {v : AccLanes} {ov : Byte} (hd : f.dest = .acc x sh) (hv : landAcc (c.accOf sh x) f.val = (v, ov))
    (hrise : ov &&& ~~~c.aov ≠ 0) : c.landed true f = { c.withAcc x sh v ov with aovTrap := some (f.pc, f.handler) } := by
  have hold : { c with flight := c.flight.tail }.accOf sh x = c.accOf sh x := Core.accOf_congr rfl rfl rfl sh x
  unfold Core.landed Core.land
  simp only [hd, hold, hv]
  exact if_pos (by simpa using hrise)

end

end Sys2Proof.Machine
end

section
/-! PROOFS. Landings, transfers and the load port of a core, O51. -/

namespace Sys2Proof.Machine

open Sys2Proof

set_option Elab.async false

/-! One bank of a core. -/

theorem Core.bankOf_onBank (c : Core) (sh : Bool) (g : Bank → Bank) : (c.onBank sh g).bankOf sh = g (c.bankOf sh) := by
  cases sh <;> rfl

theorem Core.bankOf_onBank_other (c : Core) (sh : Bool) (g : Bank → Bank) : (c.onBank sh g).bankOf (!sh) = c.bankOf (!sh) := by
  cases sh <;> rfl

theorem Core.onBank_frame (c : Core) (sh : Bool) (g : Bank → Bank) :
    c.onBank sh g = { c with main := (c.onBank sh g).main, shadow := (c.onBank sh g).shadow } := by
  cases sh <;> rfl

/-! The registers that ASEL names. -/

theorem getElem_vmod {α : Type} {k : Nat} (v : Vector α k) (i j : Fin k) (g : α → α) :
    (vmod v i g)[j] = if i.val = j.val then g v[i] else v[j] := by
  simp [vmod, Vector.getElem_set]

theorem getElem_vmod_ofNat {α : Type} {k : Nat} [NeZero k] (v : Vector α k) {m : Nat} (hm : m < k) (j : Fin k) (w : α) :
    (vmod v (Fin.ofNat k m) fun _ => w)[j] = if m = j.val then w else v[j] := by
  rw [getElem_vmod]
  simp [Nat.mod_eq_of_lt hm]

/-- The registers of a bank that ASEL names (R334). -/
theorem Core.bankOf_putSel (c : Core) (sel : BitVec 6) (sh : Bool) (w : Word) :
    (c.putSel sel sh w).bankOf (!sh) = c.bankOf (!sh) ∧ ((c.putSel sel sh w).bankOf sh).x = (c.bankOf sh).x ∧
    (∀ i : Fin 16, ((c.putSel sel sh w).bankOf sh).p[i] = if sel.toNat = i.val then w else (c.bankOf sh).p[i]) ∧
    (∀ i : Fin 8, ((c.putSel sel sh w).bankOf sh).m[i] = (if sel.toNat = 0x10 + i.val then w else (c.bankOf sh).m[i]) ∧
      ((c.putSel sel sh w).bankOf sh).b[i] = (if sel.toNat = 0x18 + i.val then w else (c.bankOf sh).b[i]) ∧
      ((c.putSel sel sh w).bankOf sh).l[i] = if sel.toNat = 0x20 + i.val then w.truncate 18 else (c.bankOf sh).l[i]) := by
  have hsel := sel.isLt
  have hno {P : Prop} {α : Type} {_ : Decidable P} {x y : α} (h : ¬ P) : y = if P then x else y := (if_neg h).symm
  unfold Core.putSel
  extract_lets k
  by_cases h1 : k < 16
  · rw [if_pos h1, Core.bankOf_onBank_other, Core.bankOf_onBank]
    refine ⟨rfl, rfl, fun i => ?_, fun i => ⟨hno (by omega), hno (by omega), hno (by omega)⟩⟩
    exact getElem_vmod_ofNat _ h1 i w
  rw [if_neg h1]
  by_cases h2 : k < 24
  · rw [if_pos h2, Core.bankOf_onBank_other, Core.bankOf_onBank]
    refine ⟨rfl, rfl, fun i => hno (by omega), fun i => ⟨?_, hno (by omega), hno (by omega)⟩⟩
    refine (getElem_vmod_ofNat _ (by omega) i w).trans (if_congr (by omega) rfl rfl)
  rw [if_neg h2]
  by_cases h3 : k < 32
  · rw [if_pos h3, Core.bankOf_onBank_other, Core.bankOf_onBank]
    refine ⟨rfl, rfl, fun i => hno (by omega), fun i => ⟨hno (by omega), ?_, hno (by omega)⟩⟩
    refine (getElem_vmod_ofNat _ (by omega) i w).trans (if_congr (by omega) rfl rfl)
  rw [if_neg h3]
  by_cases h4 : k < 40
  · rw [if_pos h4, Core.bankOf_onBank_other, Core.bankOf_onBank]
    refine ⟨rfl, rfl, fun i => hno (by omega), fun i => ⟨hno (by omega), hno (by omega), ?_⟩⟩
    refine (getElem_vmod_ofNat _ (by omega) i _).trans (if_congr (by omega) rfl rfl)
  rw [if_neg h4]
  have hrest (x : Core) (hm : x.main = c.main) (hs : x.shadow = c.shadow) (b : Bool) : x.bankOf b = c.bankOf b := by
    unfold Core.bankOf
    rw [hm, hs]
  have hsame (x : Core) (hm : x.main = c.main) (hs : x.shadow = c.shadow) :
      x.bankOf (!sh) = c.bankOf (!sh) ∧ (x.bankOf sh).x = (c.bankOf sh).x ∧
      (∀ i : Fin 16, (x.bankOf sh).p[i] = if sel.toNat = i.val then w else (c.bankOf sh).p[i]) ∧
      (∀ i : Fin 8, (x.bankOf sh).m[i] = (if sel.toNat = 0x10 + i.val then w else (c.bankOf sh).m[i]) ∧
        (x.bankOf sh).b[i] = (if sel.toNat = 0x18 + i.val then w else (c.bankOf sh).b[i]) ∧
        (x.bankOf sh).l[i] = if sel.toNat = 0x20 + i.val then w.truncate 18 else (c.bankOf sh).l[i]) := by
    rw [hrest x hm hs, hrest x hm hs]
    exact ⟨rfl, rfl, fun i => hno (by omega), fun i => ⟨hno (by omega), hno (by omega), hno (by omega)⟩⟩
  split
  · exact hsame _ rfl rfl
  · split
    · exact hsame _ rfl rfl
    · exact hsame _ rfl rfl

/-- Nothing pending or in flight goes with a register that ASEL names. -/
theorem Core.putSel_frame (c : Core) (sel : BitVec 6) (sh : Bool) (w : Word) :
    (c.putSel sel sh w).flight = c.flight ∧ (c.putSel sel sh w).aovTrap = c.aovTrap ∧
    (c.putSel sel sh w).xfTrap = c.xfTrap := by
  have hbank (g : Bank → Bank) : (c.onBank sh g).flight = c.flight ∧ (c.onBank sh g).aovTrap = c.aovTrap ∧
      (c.onBank sh g).xfTrap = c.xfTrap := by
    rw [Core.onBank_frame]
    exact ⟨rfl, rfl, rfl⟩
  unfold Core.putSel
  extract_lets k
  split
  · exact hbank _
  split
  · exact hbank _
  split
  · exact hbank _
  split
  · exact hbank _
  split
  · exact ⟨rfl, rfl, rfl⟩
  split <;> exact ⟨rfl, rfl, rfl⟩

/-- Transfer channel `x`'s command word, ASEL 0x2B + 4 x (R309, R334). -/
theorem Core.putSel_transfer (c : Core) (x : Fin 4) (sh : Bool) (w : Word) :
    c.putSel (BitVec.ofNat 6 (0x2B + 4 * x.val)) sh w = { c with
      xf := c.xf.set x.val (let y := { c.xf[x] with irq := w.getLsbD 1, dir := w.getLsbD 2, mhi := BitVec.ofNat 8 (bits w 15 8) }
        if w.getLsbD 0 then { y with busy := true, done := false, err := 0 } else y) x.isLt } := by
  have hx := x.isLt
  have hn : (BitVec.ofNat 6 (0x2B + 4 * x.val)).toNat = 0x2B + 4 * x.val := by
    rw [BitVec.toNat_ofNat]
    omega
  have hidx : Fin.ofNat 4 ((0x2B + 4 * x.val - 40) / 4) = x := Fin.ext (by simp only [Fin.ofNat]; omega)
  have hk : (0x2B + 4 * x.val - 40) % 4 = 3 := by omega
  have hmhi : w.extractLsb' 8 8 = BitVec.ofNat 8 (bits w 15 8) := BitVec.eq_of_toNat_eq (by simp [bits, Nat.shiftRight_eq_div_pow])
  unfold Core.putSel
  rw [hn]
  dsimp only
  rw [if_neg (by omega), if_neg (by omega), if_neg (by omega), if_neg (by omega), if_pos (by omega), hidx, hk, hmhi]
  rfl

/-! A trap taken at a bundle of its own (R308). -/

/-- The core in its trap handler for the bundle at `at_`, to return to `ret`. -/
def Core.trapped (cause : BitVec 4) (at_ ret : BitVec 12) (now : DWord) (c : Core) : Core := { c with
  exec := .handler, pc := c.image.trapEntry.truncate 12, retPc := ret, retExec := c.exec
  trapHandler := true, trapTick := now, waitXf := none
  trap := BitVec.ofNat 32 (cause.toNat + 16 + 2 ^ 16 * at_.toNat)
  flight := c.flight.filter fun f => f.issued != c.cycle }

theorem takeTrap_enters {n : Fin 16} {s : State} (cause : BitVec 4) (at_ ret : BitVec 12) (hh : (s.core n).inHandler = false)
    (ht : (s.core n).image.trapEntry ≠ 0xFFFF) : takeTrap n cause at_ ret s = s.onCore n (·.trapped cause at_ ret s.now) := by
  have hfatal : ((s.core n).inHandler || (s.core n).image.trapEntry == 0xFFFF) = false := by
    rw [hh, Bool.false_or]
    exact beq_false_of_ne ht
  simp only [takeTrap, coreTrap, hfatal, Bool.false_eq_true, if_false, State.onCore_onCore]
  exact State.onCore_congr rfl

theorem trapWord_cause (cause : BitVec 4) (at_ : BitVec 12) :
    bits (BitVec.ofNat 32 (cause.toNat + 16 + 2 ^ 16 * at_.toNat)) 3 0 = cause.toNat := by
  have := cause.isLt
  have := at_.isLt
  simp only [bits, BitVec.toNat_ofNat]
  omega

theorem trapWord_pc (cause : BitVec 4) (at_ : BitVec 12) :
    bits (BitVec.ofNat 32 (cause.toNat + 16 + 2 ^ 16 * at_.toNat)) 27 16 = at_.toNat := by
  have := cause.isLt
  have := at_.isLt
  simp only [bits, BitVec.toNat_ofNat]
  omega

theorem not_inHandler {c : Core} (h : c.exec = .task ∨ c.exec = .init) : c.inHandler = false := by
  rcases h with h | h <;> rw [Core.inHandler, h] <;> rfl

section
variable {s : State} {n : Fin 16} (ht : (s.core n).image.trapEntry ≠ 0xFFFF)
include ht

/-- A pending AOV trap of a task's operation is taken (R326). -/
theorem pendingTraps_aov {pc : BitVec 12} (ha : (s.core n).aovTrap = some (pc, false)) (hh : (s.core n).inHandler = false) :
    pendingTraps n s = s.onCore n fun c => { c with aovTrap := none }.trapped 1 pc c.pc s.now := by
  have hcore (g : Core → Core) : (s.onCore n g).core n = g (s.core n) := State.core_onCore ..
  unfold pendingTraps
  simp only [ha, hh, Bool.false_and, Bool.false_eq_true, if_false]
  rw [takeTrap_enters _ _ _ (by rw [hcore]; exact hh) (by rw [hcore]; exact ht), State.onCore_onCore]
  exact State.onCore_congr rfl

/-- The trap of a transfer that ended with MEM_ERROR is taken while the core runs (R309). -/
theorem pendingTraps_xf (ha : (s.core n).aovTrap = none) (hx : (s.core n).xfTrap = true)
    (he : (s.core n).exec = .task ∨ (s.core n).exec = .init) :
    pendingTraps n s = s.onCore n fun c => { c with xfTrap := false }.trapped 5 c.pc c.pc s.now := by
  have hcore (g : Core → Core) : (s.onCore n g).core n = g (s.core n) := State.core_onCore ..
  have hgo : ((s.core n).xfTrap && ((s.core n).exec == .task || (s.core n).exec == .init)) = true := by
    rw [hx]
    rcases he with he | he <;> rw [he] <;> rfl
  unfold pendingTraps
  simp only [ha, hgo, if_true]
  rw [takeTrap_enters _ _ _ (by rw [hcore]; exact not_inHandler he) (by rw [hcore]; exact ht), State.onCore_onCore]
  exact State.onCore_congr rfl

end

section
variable {s : State} {n : Fin 16} {f : Flight} (hrun : islandRuns (.sc n) s = true)
  (hf : (s.core n).flight.head? = some f) (ha : (s.core n).aovTrap = none) (hx : (s.core n).xfTrap = false)
include hrun hf ha hx

theorem does_landLow {x : Fin 32} {sh : Bool} (hd : f.dest = .xLow x sh) {v : Lanes} (hv : f.val = .lanes v) :
    Does (.resultLand n) s [.cores] fun t =>
      ((t.core n).bankOf sh).x[x] = v ∧
      t.core n = { s.core n with flight := (s.core n).flight.tail, main := (t.core n).main, shadow := (t.core n).shadow } ∧
      (t.core n).bankOf (!sh) = (s.core n).bankOf (!sh) ∧
      (t.core n).bankOf sh = { (s.core n).bankOf sh with x := ((t.core n).bankOf sh).x } ∧
      (∀ y, y ≠ x → ((t.core n).bankOf sh).x[y] = ((s.core n).bankOf sh).x[y]) ∧ ∀ m, m ≠ n → t.core m = s.core m := by
  have hk : (s.core n).landed (s.scAovTrap n) f = { s.core n with flight := (s.core n).flight.tail }.onBank sh fun b =>
      { b with x := vmod b.x x fun _ => v } := by
    unfold Core.landed Core.land
    simp only [hd, hv]
  refine (leaves_resultLand hrun hf (by simp [hd]) hk (by rw [Core.onBank_frame]; exact ha)
    (by rw [Core.onBank_frame]; exact hx)).does fun t ht hothers => ⟨?_, ?_, ?_, ?_, fun y hy => ?_, hothers⟩
  · rw [ht, Core.bankOf_onBank]
    exact vmod_get_self ..
  · rw [ht]
    exact Core.onBank_frame ..
  · rw [ht, Core.bankOf_onBank_other]
    rfl
  · rw [ht, Core.bankOf_onBank]
    rfl
  · rw [ht, Core.bankOf_onBank]
    exact vmod_get_ne _ _ hy

theorem leaves_landHigh {x : Fin 32} (hd : f.dest = .xHigh x) {v : Lanes} (hv : f.val = .lanes v) :
    Leaves (.resultLand n) s n fun c => { c with flight := (s.core n).flight.tail, xu := c.xu.set x.val v x.isLt } := by
  refine leaves_congr (g := fun _ => { s.core n with flight := (s.core n).flight.tail, xu := (s.core n).xu.set x.val v x.isLt })
    rfl (leaves_resultLand hrun hf (by simp [hd]) ?_ ha hx)
  unfold Core.landed Core.land
  simp only [hd, hv]
  rfl

theorem leaves_landAov (hd : f.dest = .aov) :
    Leaves (.resultLand n) s n fun c => { c with flight := (s.core n).flight.tail, aov := 0 } := by
  refine leaves_congr (g := fun _ => { s.core n with flight := (s.core n).flight.tail, aov := 0 })
    rfl (leaves_resultLand hrun hf (by simp [hd]) ?_ ha hx)
  unfold Core.landed Core.land
  simp only [hd]

/-- A result lands in an accumulator without a trap. -/
theorem does_landAcc {x : Fin 16} {sh : Bool} (hd : f.dest = .acc x sh) {v : AccLanes} {ov : Byte}
    (hv : landAcc ((s.core n).accOf sh x) f.val = (v, ov)) (hq : s.scAovTrap n = false ∨ ov = 0) :
    Does (.resultLand n) s [.cores] fun t =>
      (t.core n).accOf sh x = v ∧ (t.core n).aov = (s.core n).aov ||| ov ∧ (t.core n).flight = (s.core n).flight.tail ∧
      (∀ y, y ≠ x → (t.core n).accOf sh y = (s.core n).accOf sh y) ∧ ∀ m, m ≠ n → t.core m = s.core m := by
  refine (leaves_resultLand hrun hf (by simp [hd]) (Core.landed_acc hd hv hq) (by rw [Core.withAcc_frame]; exact ha)
    (by rw [Core.withAcc_frame]; exact hx)).does fun t ht hothers => ⟨?_, ?_, ?_, fun y hy => ?_, hothers⟩
  · rw [ht, Core.accOf_withAcc]
  · rw [ht, Core.withAcc_frame]
  · rw [ht, Core.withAcc_frame]
  · rw [ht, Core.accOf_withAcc_ne _ _ hy]

/-- The lanes of a sum that AOV follows. -/
theorem does_landLanes {x : Fin 16} {sh : Bool} (hd : f.dest = .acc x sh) {a b : AccLanes} {op : Acc → Acc → Acc}
    {e : Acc → Acc → Int} (hv : landAcc ((s.core n).accOf sh x) f.val = (zipLanes op a b, ovLanes e a b)) (hq : s.scAovTrap n = false) :
    Does (.resultLand n) s [.cores] fun t => (t.core n).flight = (s.core n).flight.tail ∧
      (∀ y, y ≠ x → (t.core n).accOf sh y = (s.core n).accOf sh y) ∧ (∀ m, m ≠ n → t.core m = s.core m) ∧
      ∀ i : Fin 8, ((t.core n).accOf sh x)[i] = op a[i] b[i] ∧
        (t.core n).aov.getLsbD i.val = ((s.core n).aov.getLsbD i.val || overflows 80 (e a[i] b[i])) := by
  obtain ⟨t, he, hq, hfr, hacc, haov, hfl, hne, hothers⟩ := does_landAcc hrun hf ha hx hd hv (.inl hq)
  exact ⟨t, he, hq, hfr, hfl, hne, hothers, fun i => ⟨by rw [hacc, zipLanes_apply], by rw [haov, BitVec.getLsbD_or, getLsbD_ovLanes]⟩⟩

omit ha hx in
/-- An addition that overflows under AOV_TRAP: its trap is taken at the bundle that issued it (R326). -/
theorem does_landTrap {x : Fin 16} {sh : Bool} (hd : f.dest = .acc x sh) {v : AccLanes} (hv : f.val = .accAdd v) (i : Fin 8)
    (htrap : s.scAovTrap n = true) (haov : (s.core n).aov = 0)
    (hov : overflows 80 (((s.core n).accOf sh x)[i].toInt + v[i].toInt) = true)
    (hexec : (s.core n).exec = .task ∨ (s.core n).exec = .init) (hown : f.handler = false)
    (hent : (s.core n).image.trapEntry ≠ 0xFFFF) :
    Does (.resultLand n) s [.cores] fun t => (t.core n).exec = .handler ∧ (t.core n).retPc = (s.core n).pc ∧
      (∀ m, m ≠ n → t.core m = s.core m) ∧ bits (t.core n).trap 3 0 = 1 ∧ bits (t.core n).trap 27 16 = f.pc.toNat := by
  have hrise : ovLanes addExact ((s.core n).accOf sh x) v &&& ~~~(s.core n).aov ≠ 0 := by
    have hall : ~~~(0 : Byte) = BitVec.allOnes 8 := rfl
    rw [haov, hall, BitVec.and_allOnes]
    intro h0
    have hlane : (ovLanes addExact ((s.core n).accOf sh x) v).getLsbD i.val = true := (getLsbD_ovLanes ..).trans hov
    rw [h0] at hlane
    simp at hlane
  have hland := exec_resultLand_eq hrun hf (by simp [hd])
  rw [htrap] at hland
  have hk := Core.landed_acc_trap (c := s.core n) (f := f) hd (by rw [hv]; rfl) hrise
  rw [Core.withAcc_frame] at hk
  generalize hu : (s.core n).landed true f = k at hk
  have hcore : (s.onCore n fun _ => k).core n = k := State.core_onCore ..
  have hrun' : k.inHandler = false := not_inHandler (by rw [hk]; exact hexec)
  rw [State.onCore_congr (h := fun _ => k) hu, pendingTraps_aov (by rw [hcore, hk]; exact hent) (by rw [hcore, hk, hown])
    (by rw [hcore]; exact hrun'), State.onCore_onCore] at hland
  refine (leaves_of_onCore hland).does fun t ht hothers => ?_
  rw [ht]
  refine ⟨rfl, ?_, hothers, trapWord_cause .., trapWord_pc ..⟩
  rw [hk]
  rfl

theorem does_landSel {sel : BitVec 6} {sh : Bool} (hd : f.dest = .asel sel sh) {w : Word} (hv : f.val = .reg w) :
    Does (.resultLand n) s [.cores] fun t =>
      (t.core n).flight = (s.core n).flight.tail ∧ (t.core n).bankOf (!sh) = (s.core n).bankOf (!sh) ∧
      ((t.core n).bankOf sh).x = ((s.core n).bankOf sh).x ∧
      (∀ i : Fin 16, ((t.core n).bankOf sh).p[i] = if sel.toNat = i.val then w else ((s.core n).bankOf sh).p[i]) ∧
      (∀ i : Fin 8, ((t.core n).bankOf sh).m[i] = (if sel.toNat = 0x10 + i.val then w else ((s.core n).bankOf sh).m[i]) ∧
        ((t.core n).bankOf sh).b[i] = (if sel.toNat = 0x18 + i.val then w else ((s.core n).bankOf sh).b[i]) ∧
        ((t.core n).bankOf sh).l[i] = if sel.toNat = 0x20 + i.val then w.truncate 18 else ((s.core n).bankOf sh).l[i]) ∧
      ∀ m, m ≠ n → t.core m = s.core m := by
  have hk : (s.core n).landed (s.scAovTrap n) f = { s.core n with flight := (s.core n).flight.tail }.putSel sel sh w := by
    unfold Core.landed Core.land
    simp only [hd, hv]
  obtain ⟨hfl, haov, hxf⟩ := Core.putSel_frame { s.core n with flight := (s.core n).flight.tail } sel sh w
  obtain ⟨hother, hx', hp, hmbl⟩ := Core.bankOf_putSel { s.core n with flight := (s.core n).flight.tail } sel sh w
  refine (leaves_resultLand hrun hf (by simp [hd]) hk (haov.trans ha) (hxf.trans hx)).does fun t ht hothers => ?_
  rw [ht]
  exact ⟨hfl, hother, hx', hp, hmbl, hothers⟩

theorem leaves_landTransfer (x : Fin 4) {sh : Bool} (hd : f.dest = .asel (BitVec.ofNat 6 (0x2B + 4 * x.val)) sh) {w : Word}
    (hv : f.val = .reg w) : Leaves (.resultLand n) s n fun c => { c with
      flight := (s.core n).flight.tail
      xf := c.xf.set x.val (let y := { c.xf[x] with irq := w.getLsbD 1, dir := w.getLsbD 2, mhi := BitVec.ofNat 8 (bits w 15 8) }
        if w.getLsbD 0 then { y with busy := true, done := false, err := 0 } else y) x.isLt } := by
  have hk : (s.core n).landed (s.scAovTrap n) f =
      { s.core n with flight := (s.core n).flight.tail }.putSel (BitVec.ofNat 6 (0x2B + 4 * x.val)) sh w := by
    unfold Core.landed Core.land
    simp only [hd, hv]
  have hland := leaves_resultLand hrun hf (by simp [hd]) (hk.trans (Core.putSel_transfer ..)) ha hx
  exact leaves_congr rfl hland

/-- A store of `bs` lands at `at_`. -/
theorem does_landStore {at_ : Nat} {bs : List Byte} (hone : ∀ t : State, landOne n f t = t.write at_ bs) (hinv : MemInv s)
    {P : List Host.Cell → Prop} (hP : P (memPutList s.mem at_ bs)) :
    Does (.resultLand n) s [.cores, .mem] fun t =>
      (P t.mem ∧ ∀ b, b < at_ ∨ at_ + bs.length ≤ b → memByte t.mem b = memByte s.mem b) ∧
      t.core n = { s.core n with flight := (s.core n).flight.tail } ∧ ∀ m, m ≠ n → t.core m = s.core m := by
  refine Touch.does ?_ (exec_resultLand_store hrun hf hone ha hx) ⟨⟨hP, fun b hb => ?_⟩, State.core_onCore .., fun m hm =>
    State.core_onCore_ne _ _ hm⟩
  · exact (State.write_touch ..).after (Touch.onCore (Touch.refl _ s) rfl) rfl
  · exact (memByte_memPutList at_ b bs hinv).trans (if_neg (by omega))

end

end Sys2Proof.Machine
end

section
/-! PROOFS. Transfers and the load port of a core, O51. -/

namespace Sys2Proof.Machine

open Sys2Proof

set_option Elab.async false

theorem pendingTraps_waiting {s : State} {n : Fin 16} (ha : (s.core n).aovTrap = none) (he : (s.core n).exec = .waiting) :
    pendingTraps n s = s := by
  unfold pendingTraps
  simp [ha, he]

/-! Bytes placed in module memory (R10, R431). -/

theorem isModule_of_lt {a : Nat} (h : a < 2 ^ 40) : isModule (2 ^ 63 + a) = true := by
  unfold isModule
  rw [beq_iff_eq]
  omega

theorem modAddr_of_lt {a : Nat} (h : a < 2 ^ 40) : modAddr (2 ^ 63 + a) = a := by
  unfold modAddr
  omega

theorem writeAt_module {a : Nat} (h : a < 2 ^ 40) (bs : List Byte) (s : State) :
    s.writeAt (BitVec.ofNat 64 (2 ^ 63 + a)) bs = (s.write a bs).unpoison a bs.length := by
  have hbit : (BitVec.ofNat 64 (2 ^ 63 + a)).getLsbD 63 = true := by
    rw [BitVec.getLsbD_ofNat, Nat.testBit_eq_decide_div_mod_eq]
    simp only [Bool.and_eq_true, decide_eq_true_eq]
    omega
  have hlow : (BitVec.ofNat 64 (2 ^ 63 + a)).toNat % 2 ^ 40 = a := by
    rw [BitVec.toNat_ofNat]
    omega
  rw [State.writeAt, if_pos hbit, hlow]

theorem place_touch_module {a : Nat} (h : a < 2 ^ 40) (bs : List Byte) (s : State) :
    Touch [.memc, .mem, .cnt] s (s.place (2 ^ 63 + a) bs) := by
  unfold State.place
  rw [writeAt_module h]
  have hw : Touch [.memc, .mem, .cnt] s ((s.write a bs).unpoison a bs.length) :=
    (State.unpoison_touch ..).after ((State.write_touch a bs s).after (Touch.refl _ s) rfl) rfl
  exact Touch.ite ((State.bumpBy_touch ..).after hw rfl) hw

theorem place_mem {a : Nat} (h : a < 2 ^ 40) (bs : List Byte) (s : State) :
    (s.place (2 ^ 63 + a) bs).mem = memPutList s.mem a bs ∧ (s.place (2 ^ 63 + a) bs).cores = s.cores := by
  unfold State.place
  rw [writeAt_module h]
  extract_lets s1
  constructor <;> split <;> rfl

/-! Transfers. -/

/-- Core `c` as transfer `k` ends with status `e` (R309). -/
def Core.xfEnded (k : Fin 4) (e : BitVec 4) (c : Core) : Core := { c with
  xf := vmod c.xf k fun x => { x with busy := false, done := true, err := e }
  irqPend := if c.xf[k].irq then c.irqPend ||| BitVec.ofNat 8 (2 ^ (1 + k.val)) else c.irqPend
  xfTrap := c.xfTrap || e == 7 }

/-- What the statement asks of a core whose transfer `k` has ended. -/
theorem xfEnded_ends (k : Fin 4) (e : BitVec 4) (c : Core) :
    (c.xfEnded k e).xf[k] = { c.xf[k] with busy := false, done := true, err := e } ∧
    (∀ j : Fin 4, j ≠ k → (c.xfEnded k e).xf[j] = c.xf[j]) ∧
    (c.xfEnded k e).irqPend = if c.xf[k].irq then c.irqPend ||| BitVec.ofNat 8 (2 ^ (1 + k.val)) else c.irqPend :=
  ⟨vmod_get_self .., fun _ hj => vmod_get_ne _ _ hj, rfl⟩

/-- Place of a transfer's far end. -/
def Xf.far (x : Xf) : Nat := (if x.dir then x.src else x.dst).toNat + x.mhi.toNat * 2 ^ 32

/-- Place of its end in DX or DY. -/
def Xf.local (n : Fin 16) (x : Xf) : Nat :=
  (if (if x.dir then x.dst else x.src).msb then dyBase n else dxBase n) + bits (if x.dir then x.dst else x.src) 16 0

/-- The bytes that a transfer of status 0 moves. -/
def xfMoved (n : Fin 16) (x : Xf) (s : State) : State :=
  if x.dir then s.write (x.local n) (s.fetch x.far x.len.toNat) else s.place (2 ^ 63 + x.far) (s.read (x.local n) x.len.toNat)

/-- Transfer `k` of core `n` has ended in `t` with status `e`. -/
def XfEnds (s : State) (n : Fin 16) (k : Fin 4) (e : BitVec 4) (t : State) : Prop :=
  (t.core n).xf[k] = { (s.core n).xf[k] with busy := false, done := true, err := e } ∧
  (∀ j : Fin 4, j ≠ k → (t.core n).xf[j] = (s.core n).xf[j]) ∧ (∀ m, m ≠ n → t.core m = s.core m) ∧
  (t.core n).irqPend = if (s.core n).xf[k].irq then (s.core n).irqPend ||| BitVec.ofNat 8 (2 ^ (1 + k.val)) else (s.core n).irqPend

theorem xfEnds_of {s t : State} {n : Fin 16} {k : Fin 4} {e : BitVec 4} (hxf : (t.core n).xf = ((s.core n).xfEnded k e).xf)
    (hirq : (t.core n).irqPend = ((s.core n).xfEnded k e).irqPend) (hothers : ∀ m, m ≠ n → t.core m = s.core m) :
    XfEnds s n k e t := by
  obtain ⟨hself, hrest, hpend⟩ := xfEnded_ends k e (s.core n)
  unfold XfEnds
  rw [hxf, hirq]
  exact ⟨hself, hrest, hothers, hpend⟩

section
variable {s : State} {n : Fin 16} {k : Fin 4} (hbusy : (s.core n).xf[k].busy = true) (hrun : islandRuns (.sc n) s = true)
include hbusy hrun

theorem exec_xfDone_eq {st e : BitVec 4} {s2 : State}
    (he : (if st ≠ 0 then st else if xfFarOk s (s.core n).xf[k].far (s.core n).xf[k].len.toNat (!(s.core n).xf[k].dir) then 0 else 7) = e)
    (hs : (if e = 7 then (if e ≠ 0 then s else xfMoved n (s.core n).xf[k] s).bump (0x10 + n.val) 6
      else if e ≠ 0 then s else xfMoved n (s.core n).xf[k] s) = s2) (hcore : s2.core n = s.core n) :
    exec (.xfDone n k st) s = .next (pendingTraps n (s2.onCore n (·.xfEnded k e))) := by
  have hgo : (!(s.core n).xf[k].busy || !islandRuns (.sc n) s) = false := by rw [hbusy, hrun]; rfl
  rw [exec_xfDone]
  unfold execXfDone
  extract_lets x loc far la len st' s1 s2' s3
  have hst : st' = e := he
  have h2 : s2' = s2 := by
    rw [← hs, ← he]
    rfl
  have h3 : s3 = s2.onCore n (·.xfEnded k e) := by
    rw [← h2, ← hst]
    refine State.onCore_congr ?_
    have hcore' : s2'.core n = s.core n := h2 ▸ hcore
    rw [Core.xfEnded, hcore']
  rw [← h3]
  exact congrArg Host.Outcome.next (if_neg (by rw [Bool.not_eq_true]; exact hgo))

/-- A transfer of another status than MEM_ERROR leaves nothing to trap for. -/
theorem does_xfDone_quiet (ha : (s.core n).aovTrap = none) (hx : (s.core n).xfTrap = false) {st e : BitVec 4} (h7 : e ≠ 7)
    {ps : List Part} {s2 : State}
    (he : (if st ≠ 0 then st else if xfFarOk s (s.core n).xf[k].far (s.core n).xf[k].len.toNat (!(s.core n).xf[k].dir) then 0 else 7) = e)
    (hs : (if e ≠ 0 then s else xfMoved n (s.core n).xf[k] s) = s2) (ht : Touch ps s s2)
    (hcores : s2.cores = s.cores) (hps : subParts [.cores] ps = true := by rfl) {P : State → Prop}
    (hP : ∀ t, XfEnds s n k e t → t.mem = s2.mem → P t) : Does (.xfDone n k st) s ps P := by
  have hc (m : Fin 16) : s2.core m = s.core m := by rw [State.core, State.core, hcores]
  have hcore : (s2.onCore n (·.xfEnded k e)).core n = (s.core n).xfEnded k e := (State.core_onCore ..).trans (congrArg _ (hc n))
  have hexec := exec_xfDone_eq hbusy hrun he ((if_neg h7).trans hs) (hc n)
  have h7' : (e == 7) = false := beq_false_of_ne h7
  rw [pendingTraps_none (by rw [hcore]; exact ha) (by rw [hcore, Core.xfEnded, hx, h7']; rfl)] at hexec
  exact Touch.does (Touch.onCore ht hps) hexec (hP _ (xfEnds_of (congrArg Core.xf hcore) (congrArg Core.irqPend hcore)
    fun m hm => (State.core_onCore_ne _ _ hm).trans (hc m)) rfl)

/-- A transfer that fails with MEM_ERROR counts and leaves a trap pending (R309). -/
theorem exec_xfDone_fail {st : BitVec 4}
    (h : st = 7 ∨ (st = 0 ∧ xfFarOk s (s.core n).xf[k].far (s.core n).xf[k].len.toNat (!(s.core n).xf[k].dir) = false)) :
    exec (.xfDone n k st) s = .next (pendingTraps n ((s.bump (0x10 + n.val) 6).onCore n (·.xfEnded k 7))) := by
  refine exec_xfDone_eq hbusy hrun (e := 7) ?_ rfl rfl
  rcases h with rfl | ⟨rfl, hfar⟩
  · rfl
  · rw [if_neg (by simp), hfar]
    rfl

theorem does_xfDone_waiting (ha : (s.core n).aovTrap = none) (he : (s.core n).exec = .waiting) {st : BitVec 4}
    (h : st = 7 ∨ (st = 0 ∧ xfFarOk s (s.core n).xf[k].far (s.core n).xf[k].len.toNat (!(s.core n).xf[k].dir) = false)) :
    Does (.xfDone n k st) s [.cores, .cnt] fun t => XfEnds s n k 7 t ∧ (t.core n).xfTrap = true ∧
      Counts s t (0x10 + n.val) 6 1 := by
  have hcore : ((s.bump (0x10 + n.val) 6).onCore n (·.xfEnded k 7)).core n = (s.core n).xfEnded k 7 := State.core_onCore ..
  have hexec := exec_xfDone_fail hbusy hrun h
  rw [pendingTraps_waiting (by rw [hcore]; exact ha) (by rw [hcore]; exact he)] at hexec
  exact Touch.does (Touch.onCore ((State.bumpBy_touch ..).after (Touch.refl _ s) rfl) rfl) hexec
    ⟨xfEnds_of (congrArg Core.xf hcore) (congrArg Core.irqPend hcore) fun m hm => State.core_onCore_ne _ _ hm,
      (congrArg Core.xfTrap hcore).trans (Bool.or_true _), counts_congr rfl rfl (counts_bumpBy (by decide) _ 1 s)⟩

theorem does_xfDone_trap (ha : (s.core n).aovTrap = none) (he : (s.core n).exec = .task ∨ (s.core n).exec = .init)
    (hent : (s.core n).image.trapEntry ≠ 0xFFFF) {st : BitVec 4}
    (h : st = 7 ∨ (st = 0 ∧ xfFarOk s (s.core n).xf[k].far (s.core n).xf[k].len.toNat (!(s.core n).xf[k].dir) = false)) :
    Does (.xfDone n k st) s [.cores, .cnt] fun t => XfEnds s n k 7 t ∧ (t.core n).exec = .handler ∧
      (t.core n).retPc = (s.core n).pc ∧ bits (t.core n).trap 3 0 = 5 ∧ (t.core n).xfTrap = false ∧
      Counts s t (0x10 + n.val) 6 1 := by
  have hcore : ((s.bump (0x10 + n.val) 6).onCore n (·.xfEnded k 7)).core n = (s.core n).xfEnded k 7 := State.core_onCore ..
  have hexec := exec_xfDone_fail hbusy hrun h
  rw [pendingTraps_xf (by rw [hcore]; exact hent) (by rw [hcore]; exact ha) (by rw [hcore]; exact Bool.or_true _)
    (by rw [hcore]; exact he), State.onCore_onCore] at hexec
  have hcore' (g : Core → Core) : ((s.bumpBy (0x10 + n.val) 6 1).onCore n g).core n = g (s.core n) := State.core_onCore ..
  refine Touch.does (Touch.onCore ((State.bumpBy_touch ..).after (Touch.refl _ s) rfl) rfl) hexec
    ⟨xfEnds_of ?_ ?_ fun m hm => State.core_onCore_ne _ _ hm, ?_, ?_, ?_, ?_, counts_congr rfl rfl (counts_bumpBy (by decide) _ 1 s)⟩
    <;> rw [hcore']
  · rfl
  · rfl
  · rfl
  · rfl
  · exact trapWord_cause ..
  · rfl

end

/-! The load port (R311): requests to target 9 of the crossbar. -/

section
variable {s : State} {m : Fin 13} {n : Fin 16} {a : BitVec 20} {len : Nat}

theorem coreBase_lt (n : Fin 16) (a : BitVec 20) : coreBase n + a.toNat < 2 ^ 40 := by
  have := n.isLt
  have := a.isLt
  unfold coreBase
  omega

theorem loadPort_addr (n : Fin 16) (a : BitVec 20) : (BitVec.ofNat 40 (coreBase n + a.toNat)).toNat = coreBase n + a.toNat :=
  (BitVec.toNat_ofNat ..).trans (Nat.mod_eq_of_lt (coreBase_lt n a))

theorem rankFailed_loadPort (s : State) (n : Fin 16) (a : BitVec 20) : s.rankFailed (coreBase n + a.toNat) = false := by
  have : ¬ coreBase n + a.toNat < 0x0180000000 := by unfold coreBase; omega
  simp [State.rankFailed, this]

variable (hr : reaches m 9 = true) (ht : targetOf (coreBase n + a.toNat) = some 9)
include hr ht

theorem exec_loadPort_served {w : Option (List Byte)}
    (hb : burstOk { id := 0, cls := .bulk, addr := BitVec.ofNat 40 (coreBase n + a.toNat), len, write := w } 9 = true)
    {t : State} {st : Byte} {data : List Byte}
    (hs : serveReq m { id := 0, cls := .bulk, addr := BitVec.ofNat 40 (coreBase n + a.toNat), len, write := w } 9 s = (t, st, data)) :
    exec (.loadPortAccess m n a w len) s = .next (respond m 0 st data t) := by
  rw [exec_loadPortAccess]
  unfold execLoadPortAccess
  extract_lets x r
  have hgo : (!reaches m 9 || targetOf x != some 9) = false := by rw [hr, show targetOf x = some 9 from ht]; rfl
  have hb' : burstOk r 9 = true := hb
  have hs' : serveReq m r 9 s = (t, st, data) := hs
  rw [hgo, hb', hs']
  rfl

theorem does_loadPortWrite {bs : List Byte}
    (hb : burstOk { id := 0, cls := .bulk, addr := BitVec.ofNat 40 (coreBase n + a.toNat), len, write := some bs } 9 = true)
    (hw : s.writable (2 ^ 63 + (coreBase n + a.toNat)) bs.length = bs.length) :
    Does (.loadPortAccess m n a (some bs) len) s [.memc, .mem] fun t => t.memc.lastResp = some (m, 0, 0x00, []) ∧
      t.mem = memPutList s.mem (coreBase n + a.toNat) bs := by
  have hs : serveReq m { id := 0, cls := .bulk, addr := BitVec.ofNat 40 (coreBase n + a.toNat), len, write := some bs } 9 s =
      ((s.write (coreBase n + a.toNat) bs).unpoison (coreBase n + a.toNat) bs.length, stOk, []) := by
    unfold serveReq
    simp only [loadPort_addr, rankFailed_loadPort, hw, writeAt_module (coreBase_lt n a), beq_self_eq_true]
    rfl
  refine Touch.does ?_ (exec_loadPort_served hr ht hb hs) ⟨rfl, rfl⟩
  exact (respond_touch ..).after ((State.unpoison_touch ..).after ((State.write_touch ..).after (Touch.refl _ s) rfl) rfl) rfl

theorem does_loadPortRead
    (hb : burstOk { id := 0, cls := .bulk, addr := BitVec.ofNat 40 (coreBase n + a.toNat), len, write := none } 9 = true)
    (hread : s.readable (2 ^ 63 + (coreBase n + a.toNat)) len = len)
    (hp : s.poisonEnd (coreBase n + a.toNat) (coreBase n + a.toNat + len) = coreBase n + a.toNat + len) :
    Does (.loadPortAccess m n a none len) s [.memc] fun t =>
      t.memc.lastResp = some (m, 0, 0x00, s.fetch (coreBase n + a.toNat) len) := by
  have hs : serveReq m { id := 0, cls := .bulk, addr := BitVec.ofNat 40 (coreBase n + a.toNat), len, write := none } 9 s =
      (s, stOk, s.fetch (coreBase n + a.toNat) len) := by
    unfold serveReq
    simp only [loadPort_addr, rankFailed_loadPort, hread, hp]
    simp
  exact Touch.does ((respond_touch ..).after (Touch.refl _ s) rfl) (exec_loadPort_served hr ht hb hs) rfl

theorem does_loadPortDenied {bs : List Byte}
    (hb : burstOk { id := 0, cls := .bulk, addr := BitVec.ofNat 40 (coreBase n + a.toNat), len, write := some bs } 9 = true)
    (hw : s.writable (2 ^ 63 + (coreBase n + a.toNat)) bs.length ≠ bs.length) :
    Does (.loadPortAccess m n a (some bs) len) s [.memc] fun t => t.memc.lastResp = some (m, 0, 0x07, []) := by
  have hs : serveReq m { id := 0, cls := .bulk, addr := BitVec.ofNat 40 (coreBase n + a.toNat), len, write := some bs } 9 s =
      (s, stMemError, []) := by
    unfold serveReq
    simp only [loadPort_addr, rankFailed_loadPort, beq_false_of_ne hw]
    rfl
  exact Touch.does ((respond_touch ..).after (Touch.refl _ s) rfl) (exec_loadPort_served hr ht hb hs) rfl

end

theorem does_loadPortNowhere {s : State} {m : Fin 13} {n : Fin 16} {a : BitVec 20} {w : Option (List Byte)} {len : Nat}
    (h : reaches m 9 = false ∨ targetOf (coreBase n + a.toNat) ≠ some 9) :
    Does (.loadPortAccess m n a w len) s [.memc] fun t => t.memc.lastResp = some (m, 0, 0x07, []) ∧
      t.memc.errCount = satInc s.memc.errCount := by
  have hbad : (!reaches m 9 || targetOf (coreBase n + a.toNat) != some 9) = true := by
    rcases h with h | h
    · rw [h]; rfl
    · simp [h]
  have hexec : exec (.loadPortAccess m n a w len) s = .next (respond m 0 stMemError [] s.xbarError) := by
    rw [exec_loadPortAccess, execLoadPortAccess, if_pos hbad]
  exact Touch.does ((respond_touch ..).after ((State.xbarError_touch ..).after (Touch.refl _ s) rfl) rfl) hexec ⟨rfl, rfl⟩

end Sys2Proof.Machine
end

section
/-! PROOFS. O51: what lands in a core. -/

namespace Sys2Proof.Machine

open Sys2Proof

set_option Elab.async false

/-! A 32-bit part of an accumulator lane, as MVAR's three forms put it. -/

theorem getLsbD_mask80 {k : Nat} (hk : k ≤ 80) (i : Nat) : (BitVec.ofNat 80 (2 ^ k - 1)).getLsbD i = decide (i < k) := by
  rw [BitVec.getLsbD_ofNat, Nat.testBit_two_pow_sub_one]
  by_cases h : i < k <;> simp [h]
  omega

/-- A field of `len` bits at `lo`, put into an accumulator lane. -/
def putField (lo len : Nat) (u : Word) (o : Acc) : Acc :=
  (o &&& ~~~(BitVec.ofNat 80 (2 ^ len - 1) <<< lo)) ||| (u.zeroExtend 80 <<< lo)

theorem getLsbD_putField {lo len : Nat} {u : Word} (hlen : len ≤ 80) (hu : ∀ i, u.getLsbD i = true → i < len) (o : Acc) {i : Nat}
    (hi : i < 80) : (putField lo len u o).getLsbD i = if lo ≤ i ∧ i < lo + len then u.getLsbD (i - lo) else o.getLsbD i := by
  unfold putField
  rw [BitVec.getLsbD_or, BitVec.getLsbD_and, BitVec.getLsbD_not, BitVec.getLsbD_shiftLeft, BitVec.getLsbD_shiftLeft,
    getLsbD_mask80 hlen, BitVec.getLsbD_setWidth]
  by_cases hlo : lo ≤ i
  · by_cases hl : i < lo + len
    · have h1 : i - lo < len := by omega
      have h2 : i - lo < 80 := by omega
      have h3 : ¬ i < lo := by omega
      simp [hi, hlo, hl, h1, h2, h3]
    · have h1 : ¬ i - lo < len := by omega
      have h2 : u.getLsbD (i - lo) = false := by
        by_contra h
        exact h1 (hu _ (by simpa using h))
      simp [hi, hl, h1, h2]
  · have h1 : i < lo := by omega
    simp [hi, hlo, h1]

/-- Fields apart from the one put keep their bits. -/
theorem bits_putField_ne {lo len hi' lo' : Nat} {u : Word} (hlen : len ≤ 80) (hu : ∀ i, u.getLsbD i = true → i < len) (o : Acc)
    (hle : lo' ≤ hi') (h80 : hi' < 80) (hapart : hi' < lo ∨ lo + len ≤ lo') : bits (putField lo len u o) hi' lo' = bits o hi' lo' := by
  refine Nat.eq_of_testBit_eq fun i => ?_
  simp only [bits, Nat.testBit_mod_two_pow, Nat.testBit_div_two_pow, BitVec.testBit_toNat] 
  by_cases hi : i < hi' + 1 - lo'
  · rw [getLsbD_putField hlen hu o (by omega), if_neg (by omega)]
  · simp [hi]

theorem bits_putField {lo len : Nat} {u : Word} (hlen : lo + len ≤ 80) (h0 : 0 < len) (hu : ∀ i, u.getLsbD i = true → i < len) (o : Acc) :
    bits (putField lo len u o) (lo + len - 1) lo = u.toNat := by
  refine Nat.eq_of_testBit_eq fun i => ?_
  simp only [bits, Nat.testBit_mod_two_pow, Nat.testBit_div_two_pow, BitVec.testBit_toNat]
  by_cases hi : i < len
  · rw [getLsbD_putField (by omega) hu o (by omega), if_pos (by omega), decide_eq_true (by omega), Bool.true_and]
    congr 1
    omega
  · have : u.getLsbD i = false := by
      by_contra h
      exact hi (hu _ (by simpa using h))
    rw [this, decide_eq_false (by omega), Bool.false_and]

/-- A lane with its part `part` taken from `w`. -/
def landPart (part : Fin 3) (o : Acc) (w : Word) : Acc :=
  if part = 0 then (o &&& ~~~(0xFFFFFFFF : Acc)) ||| w.zeroExtend 80
  else if part = 1 then (o &&& ~~~((0xFFFFFFFF : Acc) <<< 32)) ||| (w.zeroExtend 80 <<< 32)
  else (o &&& ~~~((0xFFFF : Acc) <<< 64)) ||| ((w &&& 0xFFFF).zeroExtend 80 <<< 64)

theorem bits_landPart (part : Fin 3) (o : Acc) (w : Word) :
    bits (landPart part o w) 31 0 = (if part = 0 then w.toNat else bits o 31 0) ∧
    bits (landPart part o w) 63 32 = (if part = 1 then w.toNat else bits o 63 32) ∧
    bits (landPart part o w) 79 64 = (if part = 2 then bits w 15 0 else bits o 79 64) := by
  have hword (i : Nat) (h : w.getLsbD i = true) : i < 32 := BitVec.lt_of_getLsbD h
  have hlow (i : Nat) (h : (w &&& 0xFFFF).getLsbD i = true) : i < 16 := by
    rw [BitVec.getLsbD_and, show (0xFFFF : Word) = BitVec.ofNat 32 (2 ^ 16 - 1) from rfl, BitVec.getLsbD_ofNat,
      Nat.testBit_two_pow_sub_one] at h
    simp only [Bool.and_eq_true, decide_eq_true_eq] at h
    exact h.2.2
  fin_cases part
  · have hv : (o &&& ~~~(0xFFFFFFFF : Acc)) ||| w.zeroExtend 80 = putField 0 32 w o := by simp [putField]
    exact ⟨(congrArg (bits · 31 0) hv).trans (bits_putField (lo := 0) (len := 32) (by decide) (by decide) hword o),
      (congrArg (bits · 63 32) hv).trans (bits_putField_ne (by decide) hword o (by decide) (by decide) (by decide)),
      (congrArg (bits · 79 64) hv).trans (bits_putField_ne (by decide) hword o (by decide) (by decide) (by decide))⟩
  · have hv : (o &&& ~~~((0xFFFFFFFF : Acc) <<< 32)) ||| (w.zeroExtend 80 <<< 32) = putField 32 32 w o := rfl
    exact ⟨(congrArg (bits · 31 0) hv).trans (bits_putField_ne (by decide) hword o (by decide) (by decide) (by decide)),
      (congrArg (bits · 63 32) hv).trans (bits_putField (lo := 32) (len := 32) (by decide) (by decide) hword o),
      (congrArg (bits · 79 64) hv).trans (bits_putField_ne (by decide) hword o (by decide) (by decide) (by decide))⟩
  · have hv : (o &&& ~~~((0xFFFF : Acc) <<< 64)) ||| ((w &&& 0xFFFF).zeroExtend 80 <<< 64) = putField 64 16 (w &&& 0xFFFF) o := rfl
    have hand : (w &&& 0xFFFF).toNat = bits w 15 0 := by
      rw [BitVec.toNat_and, bits]
      exact (Nat.and_two_pow_sub_one_eq_mod w.toNat 16).trans (by simp)
    exact ⟨(congrArg (bits · 31 0) hv).trans (bits_putField_ne (by decide) hlow o (by decide) (by decide) (by decide)),
      (congrArg (bits · 63 32) hv).trans (bits_putField_ne (by decide) hlow o (by decide) (by decide) (by decide)),
      ((congrArg (bits · 79 64) hv).trans (bits_putField (lo := 64) (len := 16) (by decide) (by decide) hlow o)).trans hand⟩

/-- Settles O51: a landing is told by its destination, and the traps that it leaves pending are none, or taken. -/
theorem coreLandings : Obligations.CoreLandings := by
  intro s n
  refine ⟨?_, fun m a len bs hr ht => ⟨does_loadPortWrite hr ht, does_loadPortRead hr ht, does_loadPortDenied hr ht⟩,
    fun m a w len h => does_loadPortNowhere h⟩
  intro c others
  refine ⟨fun hrun f hf ha hx => ?_, fun hnone => ?_, fun k hbusy hrun ha hx => ?_, fun k hidle st => ?_⟩
  · intro r
    refine ⟨fun x sh hd v hv => does_landLow hrun hf ha hx hd hv, fun x hd v hv => leaves_landHigh hrun hf ha hx hd hv,
      fun x sh hd => ⟨fun v hv => ?_, fun sub => ?_, fun v hv i htrap haov hov hexec hown hent =>
        does_landTrap hrun hf hd hv i htrap haov hov hexec hown hent⟩, fun x sh hd part v hv => ?_, fun x sh hd as p hv hq => ?_,
      fun sel sh hd w hv => does_landSel hrun hf ha hx hd hv, fun x sh hd w hv => leaves_landTransfer hrun hf ha hx x hd hv,
      fun hd => leaves_landAov hrun hf ha hx hd, fun dy a hd w hv hinv => ?_, fun dy a hd v hv hinv => ?_⟩
    · have hland : landAcc (c.accOf sh x) f.val = (v, 0) := by rw [hv]; rfl
      obtain ⟨t, he, hq, hfr, hacc, haov, hfl, hne, hothers⟩ := does_landAcc hrun hf ha hx hd hland (.inr rfl)
      exact ⟨t, he, hq, hfr, hacc, by rw [haov]; exact BitVec.or_zero, hfl, hne, hothers⟩
    · intro hq v hv
      have hland {op : Acc → Acc → Acc} {e : Acc → Acc → Int}
          (hv : landAcc (c.accOf sh x) f.val = (zipLanes op (c.accOf sh x) v, ovLanes e (c.accOf sh x) v)) :=
        does_landLanes hrun hf ha hx hd hv hq
      cases sub with
      | false => exact hland (op := (· + ·)) (e := addExact) (by rw [hv]; rfl)
      | true => exact hland (op := (· - ·)) (e := subExact) (by rw [hv]; rfl)
    · have hland : landAcc (c.accOf sh x) f.val = (zipLanes (fun (o : Acc) (w : Word) => landPart part o w) (c.accOf sh x) v, 0) := by
        rw [hv]; rfl
      obtain ⟨t, he, hp, hfr, hacc, haov, hfl, hne, hothers⟩ := does_landAcc hrun hf ha hx hd hland (.inr rfl)
      refine ⟨t, he, hp, hfr, by rw [haov]; exact BitVec.or_zero, hfl, hne, hothers, fun i => ?_⟩
      rw [hacc, zipLanes_apply]
      exact bits_landPart ..
    · exact does_landLanes hrun hf ha hx hd (op := (· + ·)) (e := addExact) (by rw [hv]; rfl) hq
    · have hone (t : State) : landOne n f t = t.write ((if dy then dyBase n else dxBase n) + a.toNat) (leBytes 4 w.toNat) := by
        unfold landOne
        simp only [hd, hv]
      have hback := memGetList_memPutList_self hinv ((if dy then dyBase n else dxBase n) + a.toNat) (leBytes 4 w.toNat)
      refine does_landStore hrun hf ha hx hone hinv (P := fun m =>
        ofLe (memGetList m ((if dy then dyBase n else dxBase n) + a.toNat) 4) = w.toNat) ?_
      rw [length_leBytes] at hback
      rw [hback, ofLe_leBytes_word]
    · have hone (t : State) : landOne n f t =
          t.write ((if dy then dyBase n else dxBase n) + a.toNat) (v.toList.flatMap fun w => leBytes 4 w.toNat) := by
        unfold landOne
        simp only [hd, hv]
      have hlen : (v.toList.flatMap fun w => leBytes 4 w.toNat).length = 32 := by rw [length_flatMap_leBytes, Vector.length_toList]
      have hstore := does_landStore hrun hf ha hx hone hinv (P := fun m => ∀ i : Fin 8,
        ofLe (memGetList m ((if dy then dyBase n else dxBase n) + a.toNat + 4 * i.val) 4) = v[i].toNat) fun i => by
          rw [memGetList_memPutList hinv _ _ _ _ (by rw [hlen]; omega),
            drop_take_flatMap (fun w : Word => leBytes 4 w.toNat) (fun w => length_leBytes ..) _ i.val (by simp), ofLe_leBytes_word]
          simp
      rw [hlen] at hstore
      exact hstore
  · have hgo : (!islandRuns (.sc n) s || (s.core n).flight.isEmpty) = true := by
      rcases hnone with h | h
      · rw [show (s.core n).flight = [] from h]; simp
      · rw [h]; rfl
    rw [exec_resultLand, execResultLand, if_pos hgo]
  · intro x loc far la ends
    have h07 : (0 : BitVec 4) ≠ 7 := by decide
    refine ⟨fun hdir hfar => ?_, fun hdir hfar h40 => ?_, fun st h0 h7 => ?_, fun st hst => ⟨fun he => ?_, fun he hent => ?_⟩⟩
    · have hok : xfFarOk s (s.core n).xf[k].far (s.core n).xf[k].len.toNat (!(s.core n).xf[k].dir) = true := by
        rw [show (s.core n).xf[k].dir = true from hdir]
        exact hfar
      have hmoved : xfMoved n (s.core n).xf[k] s = s.write la (s.fetch far x.len.toNat) := if_pos hdir
      exact does_xfDone_quiet hbusy hrun ha hx h07 (by rw [if_neg (by simp), if_pos hok]) (by rw [if_neg (by simp), hmoved])
        ((State.write_touch ..).after (Touch.refl [.cores, .mem] s) rfl) rfl rfl fun t hends hmem => ⟨hends, hmem⟩
    · have hok : xfFarOk s (s.core n).xf[k].far (s.core n).xf[k].len.toNat (!(s.core n).xf[k].dir) = true := by
        rw [show (s.core n).xf[k].dir = false from hdir]
        exact hfar
      have hmoved : xfMoved n (s.core n).xf[k] s = s.place (2 ^ 63 + far) (s.read la x.len.toNat) :=
        if_neg (by rw [show (s.core n).xf[k].dir = false from hdir]; simp)
      obtain ⟨hplaced, hcores⟩ := place_mem h40 (s.read la x.len.toNat) s
      exact does_xfDone_quiet hbusy hrun ha hx h07 (by rw [if_neg (by simp), if_pos hok]) (by rw [if_neg (by simp), hmoved])
        ((place_touch_module h40 _ s).after (Touch.refl [.cores, .memc, .mem, .cnt] s) rfl) hcores rfl
        fun t hends hmem => ⟨hends, hmem.trans hplaced⟩
    · exact does_xfDone_quiet hbusy hrun ha hx h7 (if_pos h0) (if_pos h0) (Touch.refl [.cores] s) rfl rfl fun t hends _ => hends
    · exact does_xfDone_waiting hbusy hrun ha he hst
    · exact does_xfDone_trap hbusy hrun ha he hent hst
  · have hgo : (!(s.core n).xf[k].busy || !islandRuns (.sc n) s) = true := by
      rcases hidle with h | h
      · rw [show (s.core n).xf[k].busy = false from h]; rfl
      · rw [h, Bool.not_false, Bool.or_true]
    rw [exec_xfDone]
    unfold execXfDone
    extract_lets x loc far la len st' s1 s2 s3
    exact congrArg Host.Outcome.next (if_pos hgo)

end Sys2Proof.Machine
end

section
/-! PROOFS. Control operations of a core, O56: the gates, the branches and the loops. -/

namespace Sys2Proof.Machine

open Sys2Proof

set_option Elab.async false

/-! What a control operation comes to (R335, R337, R339). -/

section
variable {n : Fin 16} {w : BitVec 32} {ok leaves : Core → Bool} {act : Core → State → State} {s : State}

/-- The bundle at the program counter is the last one of a loop's body. -/
def Core.closesBody (c : Core) : Bool := !c.inHandler && match c.loops with
  | [] => false
  | l :: _ => l.last == c.pc

theorem Core.closesBody_eq_false_iff (c : Core) : c.closesBody = false ↔ c.inside := by
  unfold Core.closesBody Core.inside
  cases c.inHandler <;> cases c.loops <;> simp

theorem controlOp_idle (h : s.issuing n = false) : controlOp n w ok leaves act s = s := by simp [controlOp, h]

theorem controlOp_illegal (hi : s.issuing n = true)
    (h : ok (s.core n) = false ∨ (s.core n).stageOk (aluStg w) = false ∨ ¬ (s.core n).inside) :
    controlOp n w ok leaves act s = trapHere n 3 s := by
  unfold controlOp
  extract_lets c last
  have hlast : last = (s.core n).closesBody := rfl
  have hbad : (last || !(ok c && c.stageOk (aluStg w))) = true := by
    rcases h with h | h | h
    · rw [show ok c = false from h]; simp
    · rw [show c.stageOk (aluStg w) = false from h]; simp
    · rw [← Core.closesBody_eq_false_iff, Bool.not_eq_false] at h
      rw [hlast, h, Bool.true_or]
  rw [if_neg (by simp [hi]), if_pos hbad]

theorem controlOp_legal (hi : s.issuing n = true) (hin : (s.core n).inside) (hok : ok (s.core n) = true)
    (hl : (s.core n).stageOk (aluStg w) = true) : controlOp n w ok leaves act s =
      if ((s.core n).runsOff && !leaves (s.core n)) = true then trapHere n 4 s
      else if (!(s.core n).stageOn (aluStg w)) = true then closePlain n s else act (s.core n) s := by
  unfold controlOp
  extract_lets c last
  have hlast : last = (s.core n).closesBody := rfl
  have hgood : (last || !(ok c && c.stageOk (aluStg w))) = false := by
    rw [hlast, show ok c = true from hok, show c.stageOk (aluStg w) = true from hl, (Core.closesBody_eq_false_iff _).2 hin]
    rfl
  rw [if_neg (by simp [hi]), if_neg (by rw [Bool.not_eq_true]; exact hgood)]

theorem controlOp_runsOff (hi : s.issuing n = true) (hin : (s.core n).inside) (hok : ok (s.core n) = true)
    (hl : (s.core n).stageOk (aluStg w) = true) (hpc : (s.core n).pc = 0xFFF) (hstay : leaves (s.core n) = false) :
    controlOp n w ok leaves act s = trapHere n 4 s := by
  rw [controlOp_legal hi hin hok hl, if_pos (by rw [(Core.runsOff_iff _).2 ⟨hpc, hin⟩, hstay]; rfl)]

theorem controlOp_off (h : s.AtBundle n) (hin : (s.core n).inside) (hok : ok (s.core n) = true)
    (hl : (s.core n).stageOk (aluStg w) = true) (ho : (s.core n).stageOn (aluStg w) = false) :
    controlOp n w ok leaves act s = s.onCore n Core.goesOn := by
  rw [controlOp_legal h.runs hin hok hl, if_neg (by simp [h.quiet.followed.not_runsOff]), if_pos (by simp [ho]),
    closePlain_quiet h.quiet]

theorem controlOp_runs (hi : s.issuing n = true) (hin : (s.core n).inside) (hok : ok (s.core n) = true)
    (hl : (s.core n).stageOk (aluStg w) = true) (ho : (s.core n).stageOn (aluStg w) = true)
    (hleaves : (s.core n).runsOff = false ∨ leaves (s.core n) = true) : controlOp n w ok leaves act s = act (s.core n) s := by
  rw [controlOp_legal hi hin hok hl, if_neg (by rcases hleaves with h | h <;> simp [h]), if_neg (by simp [ho])]

end

/-! A bundle that closes elsewhere than at the next one. -/

theorem closeBundle_calm {n : Fin 16} {t : BitVec 12} {s : State} {g : Core → Core} (hdue : (g (s.core n)).NoDue)
    (hcalm : (g (s.core n)).Calm) :
    closeBundle n t (s.onCore n g) = s.onCore n fun c => { g c with pc := t, cycle := (g c).cycle + 1 } := by
  have hcore (h : Core → Core) : (s.onCore n h).core n = h (s.core n) := State.core_onCore ..
  rw [closeBundle, State.onCore_onCore, landDue_none (by rw [hcore]; exact hdue), bundleEdge_calm (by rw [hcore]; exact ⟨hcalm.1, hcalm.2, hcalm.3⟩)]

/-- A branch to `t` taken: the loops whose body does not contain `t` end (R339). -/
def Core.jumped (t : BitVec 12) (c : Core) : Core := { c with
  pc := t, cycle := c.cycle + 1
  loops := if c.inHandler then c.loops else c.loops.dropWhile fun l => decide (t < l.first ∨ l.last < t) }

theorem loops_branchTo (t : BitVec 12) (c : Core) :
    (c.branchTo t).loops = c.loops.dropWhile fun l => decide (t < l.first ∨ l.last < t) := by
  refine congrArg (fun p => c.loops.dropWhile p) (funext fun l => ?_)
  rw [← Bool.decide_and, ← decide_not]
  exact decide_eq_decide.2 (by rw [not_and_or, BitVec.not_le, BitVec.not_le])

theorem jump_calm {n : Fin 16} {t : BitVec 12} {s : State} (hdue : (s.core n).NoDue) (hcalm : (s.core n).Calm) :
    jump n t s = s.onCore n (·.jumped t) := by
  have hg (c : Core) : (if c.inHandler then c else c.branchTo t) =
      { c with loops := if c.inHandler then c.loops else (c.branchTo t).loops } := by
    cases c.inHandler <;> rfl
  have hset : s.onCore n (fun c => if c.inHandler then c else c.branchTo t) =
      s.onCore n fun c => { c with loops := if c.inHandler then c.loops else (c.branchTo t).loops } := State.onCore_congr (hg _)
  rw [jump, hset, closeBundle_calm (g := fun c => { c with loops := if c.inHandler then c.loops else (c.branchTo t).loops })
    hdue ⟨hcalm.1, hcalm.2, hcalm.3⟩]
  exact State.onCore_congr (by rw [loops_branchTo]; rfl)

section
variable {i : Instr} {s : State} {n : Fin 16} {w : BitVec 32}

theorem leaves_branch {cond : Word → Bool} (h : s.Ready n (aluStg w)) (hin : (s.core n).inside)
    (hi : exec i s = branch n w cond s) : Leaves i s n
      (if cond ((s.core n).getX (aluXs2 w))[0] = true then (·.jumped (aluTarget w)) else Core.goesOn) := by
  have hq := h.toAtBundle.quiet
  rw [branch, controlOp_runs h.runs hin rfl h.legal h.on (.inl hq.followed.not_runsOff)] at hi
  simp only [h.on, Bool.true_and] at hi
  refine leaves_of_onCore (hi.trans (congrArg Host.Outcome.next ?_))
  split
  · exact jump_calm hq.noDue hq.calm
  · exact closePlain_quiet hq

/-- The gates of a control operation, whatever it does. -/
theorem control_gated {ok leaves : Core → Bool} {act : Core → State → State} (hi : exec i s = .next (controlOp n w ok leaves act s)) :
    (s.issuing n = false → exec i s = .next s) ∧
    (s.issuing n = true → (s.core n).inHandler = false → (s.core n).image.trapEntry ≠ 0xFFFF →
      ok (s.core n) = false ∨ (s.core n).stageOk (aluStg w) = false ∨ ¬ (s.core n).inside →
      Does i s [.cores] fun t => Trapped s t n 3) :=
  ⟨fun h => hi.trans (congrArg Host.Outcome.next (controlOp_idle h)),
    fun h hh ht hbad => does_trapHere (hi.trans (congrArg Host.Outcome.next (controlOp_illegal h hbad))) hh ht⟩

theorem control_runsOff {ok leaves : Core → Bool} {act : Core → State → State} (hi : exec i s = .next (controlOp n w ok leaves act s))
    (h : s.issuing n = true) (hh : (s.core n).inHandler = false) (ht : (s.core n).image.trapEntry ≠ 0xFFFF)
    (hin : (s.core n).inside) (hok : ok (s.core n) = true) (hl : (s.core n).stageOk (aluStg w) = true)
    (hpc : (s.core n).pc = 0xFFF) (hstay : leaves (s.core n) = false) : Does i s [.cores] fun t => Trapped s t n 4 :=
  does_trapHere (hi.trans (congrArg Host.Outcome.next (controlOp_runsOff h hin hok hl hpc hstay))) hh ht

theorem control_off {ok leaves : Core → Bool} {act : Core → State → State} (hi : exec i s = .next (controlOp n w ok leaves act s))
    (h : s.AtBundle n) (hin : (s.core n).inside) (hok : ok (s.core n) = true) (hl : (s.core n).stageOk (aluStg w) = true)
    (ho : (s.core n).stageOn (aluStg w) = false) : Leaves i s n Core.goesOn :=
  leaves_of_onCore (hi.trans (congrArg Host.Outcome.next (controlOp_off h hin hok hl ho)))

/-- The form that R337 and R339 ask of a loop instruction. -/
theorem loopOk_iff (c : Core) : loopOk w c = true ↔ c.inHandler = false ∧ bits w 2 0 = 0 ∧ c.pc < aluTarget w ∧ c.loops.length < 3 ∧
    ∀ l, c.loops.head? = some l → l.stages = 1 ∧ aluTarget w < l.last := by
  unfold loopOk
  cases c.loops <;> simp [and_assoc]

theorem aluRot_eq (w : BitVec 32) : aluRot w = decide (bits w 5 5 = 1) := by
  rw [aluRot, bits_self]
  cases w.getLsbD 5 <;> rfl

/-- Core `c` as a loop of `count` passes starts. -/
def Core.startsLoop (w : BitVec 32) (count : Nat) (c : Core) : Core := { c with
  rb := if bits w 5 5 = 1 then 0 else c.rb, pc := c.pc + 1, cycle := c.cycle + 1
  loops := { first := c.pc + 1, last := aluTarget w, count, stages := bits w 4 3 + 1, rot := bits w 5 5 = 1, pass := 0 } :: c.loops }

/-- Core `c` past a loop that has no pass. -/
def Core.skipsLoop (w : BitVec 32) (c : Core) : Core := { c with
  rb := if bits w 5 5 = 1 then 0 else c.rb, pc := aluTarget w + 1, cycle := c.cycle + 1 }

theorem startLoop_calm {count : Nat} (hdue : (s.core n).NoDue) (hcalm : (s.core n).Calm) :
    (count ≠ 0 → startLoop n w count s = s.onCore n (·.startsLoop w count)) ∧
    (count = 0 → aluTarget w ≠ 0xFFF → startLoop n w count s = s.onCore n (·.skipsLoop w)) := by
  unfold startLoop
  refine ⟨fun hc => ?_, fun hc ht => ?_⟩
  · rw [if_neg hc, State.onCore_onCore, closeBundle_calm]
    · exact State.onCore_congr (by simp only [aluRot_eq, decide_eq_true_eq]; rfl)
    · exact hdue
    · exact ⟨hcalm.1, hcalm.2, hcalm.3⟩
  · rw [if_pos hc, if_neg ht, closeBundle_calm]
    · exact State.onCore_congr (by simp only [aluRot_eq, decide_eq_true_eq]; rfl)
    · exact hdue
    · exact ⟨hcalm.1, hcalm.2, hcalm.3⟩

theorem leaves_startLoop {count : Nat} {f : Core → Nat} (h : s.Ready n (aluStg w)) (hin : (s.core n).inside)
    (hform : loopOk w (s.core n) = true) (hf : f (s.core n) = count)
    (hi : exec i s = .next (controlOp n w (loopOk w) (fun _ => false) (fun c s => startLoop n w (f c) s) s)) :
    (count ≠ 0 → Leaves i s n (·.startsLoop w count)) ∧
    (count = 0 → aluTarget w ≠ 0xFFF → Leaves i s n (·.skipsLoop w)) := by
  have hq := h.toAtBundle.quiet
  obtain ⟨hstart, hskip⟩ := startLoop_calm (w := w) (count := count) hq.noDue hq.calm
  rw [controlOp_runs h.runs hin hform h.legal h.on (.inl hq.followed.not_runsOff), hf] at hi
  exact ⟨fun hc => leaves_of_onCore (hi.trans (congrArg Host.Outcome.next (hstart hc))),
    fun hc ht => leaves_of_onCore (hi.trans (congrArg Host.Outcome.next (hskip hc ht)))⟩

theorem xfAllDone_iff (c : Core) (w : BitVec 32) : xfAllDone c (BitVec.ofNat 4 (bits w 3 0)) = true ↔
    ∀ k : Fin 4, w.getLsbD k.val = true → c.xf[k].done = true := by
  have hbit (k : Fin 4) : (BitVec.ofNat 4 (bits w 3 0)).getLsbD k.val = w.getLsbD k.val := by
    rw [BitVec.getLsbD_ofNat, bits, Nat.testBit_mod_two_pow, Nat.pow_zero, Nat.div_one, BitVec.testBit_toNat, decide_eq_true k.isLt,
      Bool.true_and, Bool.true_and]
  unfold xfAllDone
  simp only [List.all_eq_true, List.mem_finRange, forall_const, hbit]
  exact forall_congr' fun k => by cases w.getLsbD k.val <;> simp

/-- Core `c` paused for the transfers of `m`. -/
def Core.pausedFor (m : BitVec 4) (c : Core) : Core := { c with waitXf := some m }

/-- WAITXF goes on, and pauses where a selected channel does not show DONE. -/
theorem leaves_waitxf (h : s.Ready n (aluStg w)) (hin : (s.core n).inside) (hform : bits w 5 4 = 0) :
    Leaves (.waitxf n w) s n fun c =>
      if ∀ k : Fin 4, w.getLsbD k.val = true → c.xf[k].done = true then c.goesOn
      else { c with waitXf := some (BitVec.ofNat 4 (bits w 3 0)) }.goesOn := by
  have hq := h.toAtBundle.quiet
  have hexec := exec_waitxf n w s
  rw [execWaitxf, controlOp_runs (ok := fun _ => bits w 5 4 == 0) h.runs hin (beq_of_eq hform) h.legal h.on (.inl hq.followed.not_runsOff)] at hexec
  by_cases hall : xfAllDone (s.core n) (BitVec.ofNat 4 (bits w 3 0)) = true
  · have hsame : s.onCore n (fun k => if xfAllDone (s.core n) (BitVec.ofNat 4 (bits w 3 0)) then k
        else { k with waitXf := some (BitVec.ofNat 4 (bits w 3 0)) }) = s := State.onCore_eq_self (if_pos hall)
    simp only [hsame, closePlain_quiet hq] at hexec
    exact leaves_congr (if_pos ((xfAllDone_iff ..).1 hall)).symm (leaves_of_onCore hexec)
  · have hpause : s.onCore n (fun k => if xfAllDone (s.core n) (BitVec.ofNat 4 (bits w 3 0)) then k
        else { k with waitXf := some (BitVec.ofNat 4 (bits w 3 0)) }) =
        s.onCore n (·.pausedFor (BitVec.ofNat 4 (bits w 3 0))) := State.onCore_congr (if_neg hall)
    have hsteady : Core.Steady (·.pausedFor (BitVec.ofNat 4 (bits w 3 0))) := fun _ _ => rfl
    simp only [hpause, closePlain_steady hq hsteady rfl] at hexec
    have hneg : ¬ ∀ k : Fin 4, w.getLsbD k.val = true → (s.core n).xf[k].done = true := fun hc => hall ((xfAllDone_iff ..).2 hc)
    exact leaves_congr (g := fun c => (c.pausedFor (BitVec.ofNat 4 (bits w 3 0))).goesOn) (if_neg hneg).symm (leaves_of_onCore hexec)

end

end Sys2Proof.Machine
end

section
/-! PROOFS. Control operations of a core, O56: the end of a task or of a handler, and the next release. -/

namespace Sys2Proof.Machine

open Sys2Proof

set_option Elab.async false

/-! A visit to the island's own tick, and back. -/

/-- What a visit leaves undone leaves the state. -/
theorem atTick_idle {m : DWord} {g : State → State} {s : State}
    (h : g (s.onTime fun x => { x with tick := m }) = s.onTime fun x => { x with tick := m }) : atTick m g s = s := by
  unfold atTick
  by_cases hm : s.now = m
  · have hs : (s.onTime fun x => { x with tick := m }) = s := by rw [← hm]; rfl
    rw [if_pos hm, ← hs]
    exact h
  · rw [if_neg hm, h]
    exact if_pos rfl

/-- What a visit does, in the state as the island's tick shows it. -/
theorem atTick_eq {m : DWord} {g : State → State} {s t : State} (h : g (s.onTime fun x => { x with tick := m }) = t)
    (ht : t.time = { s.time with tick := m }) : atTick m g s = t.onTime fun x => { x with tick := s.now } := by
  have hnow : t.now = m := congrArg TimeSt.tick ht
  unfold atTick
  by_cases hm : s.now = m
  · have hs : (s.onTime fun x => { x with tick := m }) = s := by rw [← hm]; rfl
    rw [hs] at h
    rw [if_pos hm, h, hm, ← hnow]
    rfl
  · rw [if_neg hm, h]
    exact if_pos hnow

/-- The frame of what happened in a visit that touches no clock. -/
theorem Touch.visited {ps : List Part} {m : DWord} {s t : State} (h : Touch ps (s.onTime fun x => { x with tick := m }) t)
    (hps : ps.contains .time = false := by rfl) : Touch ps s (t.onTime fun x => { x with tick := s.now }) := by
  have htime : t.time = { s.time with tick := m } := h.time_eq hps
  refine ⟨h.queue, fun p hp => ?_, fun p => ?_⟩
  · cases p
    case time => exact congrArg (fun x : TimeSt => { x with tick := s.now }) htime
    all_goals
      have hf := h.frame _ hp
      exact hf
  · have hl := h.later p
    cases p <;> exact hl

/-! The next release (R302, R303, R306). -/

section
variable {n : Fin 16} {s : State}

theorem scBlock_congr {u : State} (h : u.life.funcs = s.life.funcs) : u.scBlock n = s.scBlock n := by
  unfold State.scBlock State.scLog2 State.scByte State.func
  rw [h]

theorem scBlock_pos (s : State) (n : Fin 16) : 0 < s.scBlock n := by unfold State.scBlock; positivity

theorem forAll_write_mem {α : Type} (l : List α) (f : α → Nat) (g : α → List Byte) (s : State) :
    (forAll l (fun e s => s.write (f e) (g e)) s).cores = s.cores := by
  induction l generalizing s with
  | nil => rfl
  | cons a l ih => exact (ih _).trans rfl

theorem copyParams_core (n : Fin 16) (s : State) :
    (∃ p, (copyParams n s).core n = { s.core n with dirty := [], pseq := p }) ∧ ∀ m, m ≠ n → (copyParams n s).core m = s.core m := by
  unfold copyParams
  extract_lets c base
  by_cases hd : c.dirty.isEmpty = true
  · rw [if_pos hd]
    have hd' : (s.core n).dirty = [] := List.isEmpty_iff.1 hd
    exact ⟨⟨(s.core n).pseq, by rw [← hd']⟩, fun _ _ => rfl⟩
  · rw [if_neg hd]
    have hcores (m : Fin 16) : (forAll c.dirty (fun e s => s.write (base + 4 * e.1) (leBytes 4 e.2.toNat)) s).core m = s.core m := by
      rw [State.core, forAll_write_mem, State.core]
    refine ⟨⟨(s.core n).pseq + 1, ?_⟩, fun m hm => ?_⟩
    · rw [State.core_onCore, hcores]
    · rw [State.core_onCore_ne _ _ hm, hcores]

theorem landAll_none (h : (s.core n).flight = []) : landAll n s = s := by
  rw [landAll, h]
  exact State.onCore_eq_self (by rw [← h])

/-- No task is released while none may be. -/
theorem releaseAt_none {off : Nat} (h : s.nextBlock n = none) : releaseAt n off s = s := by rw [releaseAt, h]

theorem nextBlock_none (h : s.now.toNat / s.scBlock n ≤ (s.core n).firstBlock.toNat ∨ (s.core n).stopping = true ∨
    (s.life? (.sc n)).busy = false) : s.nextBlock n = none := by
  unfold State.nextBlock
  extract_lets c done
  refine if_neg fun hc => ?_
  simp only [Bool.and_eq_true, decide_eq_true_eq, Bool.not_eq_true'] at hc
  obtain ⟨⟨⟨⟨⟨-, hbusy⟩, hstop⟩, -⟩, -⟩, hlt⟩ := hc
  rcases h with h | h | h
  · exact absurd hlt (not_lt.2 h)
  · rw [show c.stopping = true from h] at hstop
    exact absurd hstop (by simp)
  · rw [h] at hbusy
    exact absurd hbusy (by simp)

theorem nextBlock_some (hrun : islandRuns (.sc n) s = true) (hbusy : (s.life? (.sc n)).busy = true)
    (hstop : (s.core n).stopping = false) (hexec : (s.core n).exec = .waiting)
    (hpaused : (s.edge (.sc n) .lovage).paused = none) (hlt : (s.core n).firstBlock.toNat < s.now.toNat / s.scBlock n) :
    s.nextBlock n = some (s.now.toNat / s.scBlock n - 1) := by
  unfold State.nextBlock
  extract_lets c done
  exact if_pos (by simp [hrun, hbusy, c, done, hstop, hexec, hpaused, hlt])

/-- A task is released into a core with nothing in flight, no trap pending and no interrupt to take. -/
theorem releaseTask_calm {b off : Nat} (hfl : (s.core n).flight = []) (ha : (s.core n).aovTrap = none)
    (hx : (s.core n).xfTrap = false)
    (hirq : (s.core n).irqEn &&& (s.core n).irqPend &&& 0x3E = 0 ∨ (s.core n).image.irqEntry = 0xFFFF) :
    Touch [.cores, .mem, .cnt] s (releaseTask n b off s) ∧ ((releaseTask n b off s).core n).exec = .task ∧
    ((releaseTask n b off s).core n).pc = (s.core n).image.taskEntry.truncate 12 ∧
    ((releaseTask n b off s).core n).taskn = BitVec.ofNat 64 b ∧ ((releaseTask n b off s).core n).dirty = [] ∧
    ∀ m, m ≠ n → (releaseTask n b off s).core m = s.core m := by
  obtain ⟨⟨p, hcopied⟩, hothers⟩ := copyParams_core n s
  have hcopied' : (((copyParams n s).bump (0x10 + n.val) 0).bumpBy (0x10 + n.val) 2 (b - (s.core n).firstBlock.toNat)).core n =
      { s.core n with dirty := [], pseq := p } := hcopied
  have htouch : Touch [.cores, .mem, .cnt] s
      (((copyParams n s).bump (0x10 + n.val) 0).bumpBy (0x10 + n.val) 2 (b - (s.core n).firstBlock.toNat)) :=
    (State.bumpBy_touch ..).after ((State.bumpBy_touch ..).after ((copyParams_touch n s).after (Touch.refl _ s) rfl) rfl) rfl
  unfold releaseTask
  rw [landAll_none hfl]
  extract_lets skipped s1 s2
  have hs2 : s2.core n = { { s.core n with dirty := [], pseq := p } with
      taskn := BitVec.ofNat 64 b, blen := BitVec.ofNat 7 (s.scBlock n)
      ibase := BitVec.ofNat 17 (0x18000 + 0x2000 * (b % 4)), obase := BitVec.ofNat 17 (0x1C000 + 0x2000 * (b % 2))
      firstBlock := BitVec.ofNat 64 (b + 1), late := false, outBlock := none, orphan := false
      released := s.now, relOff := off
      exec := .task, pc := (s.core n).image.taskEntry.truncate 12, loops := [], waitXf := none } := by
    dsimp only [s2]
    rw [State.core_onCore, hcopied']
  have hcalm : (s2.core n).Calm := by
    rw [hs2]
    exact ⟨ha, hx, .inr hirq⟩
  rw [bundleEdge_calm hcalm, hs2]
  exact ⟨htouch.onCore rfl, rfl, rfl, rfl, rfl, fun m hm => (State.core_onCore_ne _ _ hm).trans (hothers m hm)⟩

end

end Sys2Proof.Machine
end

section
/-! PROOFS. Control operations of a core, O56: END, RTI and RTIJ. -/

namespace Sys2Proof.Machine

open Sys2Proof

set_option Elab.async false

section
variable {n : Fin 16} {s : State}

/-! The handlers left (R308, R316). -/

/-- What END and RTI count: a trap handler left. -/
def Handled (s t : State) (n : Fin 16) : Prop :=
  if (s.core n).trapHandler then Counts s t (0x10 + n.val) 4 1 else t.cnt = s.cnt

theorem countHandled_main (h : (s.core n).inHandler = false) : countHandled n s = s := by simp [countHandled, h]

theorem countHandled_cores (n : Fin 16) (s : State) : (countHandled n s).cores = s.cores := by
  unfold countHandled
  split <;> rfl

theorem countHandled_core (n m : Fin 16) (s : State) : (countHandled n s).core m = s.core m := by
  rw [State.core, countHandled_cores, State.core]

theorem handled_of (h : (s.core n).inHandler = true) {t : State} (ht : t.cnt = (countHandled n s).cnt) : Handled s t n := by
  unfold Handled
  rw [countHandled, h, Bool.true_and] at ht
  split
  next htrap =>
    rw [if_pos htrap] at ht
    exact counts_congr rfl ht (counts_bumpBy (by decide) _ 1 s)
  next htrap =>
    rw [if_neg htrap] at ht
    exact ht

/-- Core `c` back from its handler at `t` (R336). -/
def Core.back (t : BitVec 12) (c : Core) : Core := { c with exec := c.retExec, pc := t, trapHandler := false, cycle := c.cycle + 1 }

theorem leaveHandler_calm {t : BitVec 12} (hdue : (s.core n).NoDue) (ha : (s.core n).aovTrap = none) (hx : (s.core n).xfTrap = false)
    (hirq : (s.core n).irqEn &&& (s.core n).irqPend &&& 0x3E = 0 ∨ (s.core n).image.irqEntry = 0xFFFF) :
    leaveHandler n t s = (countHandled n s).onCore n (·.back t) := by
  have hcore (g : Core → Core) : ((countHandled n s).onCore n g).core n = g (s.core n) :=
    (State.core_onCore ..).trans (congrArg g (countHandled_core ..))
  unfold leaveHandler
  extract_lets s1 s2
  have hs2 : s2 = s1.onCore n fun c => { c with cycle := c.cycle + 1 } := landDue_none (by rw [hcore]; exact hdue)
  rw [hs2, State.onCore_onCore, bundleEdge_calm (by rw [hcore]; exact ⟨ha, hx, .inr hirq⟩)]
  rfl

/-! The output of a task (R302, R306). -/

/-- Core `c` with the time of the task that ends, `wall` (R304, R317). -/
def Core.measured (wall : Word) (c : Core) : Core := { c with
  taskLast := wall, taskMax := if c.taskMax.toNat < wall.toNat then wall else c.taskMax, aovEnd := c.aov }

/-- The time of the task that ends. -/
def endWall (n : Fin 16) (s : State) : Word := BitVec.ofNat 32
  (min 0xFFFFFF ((s.now - (s.core n).released).toNat * 1200000000 / s.fsHz + s.endOff n - (s.core n).relOff))

theorem taskMax_measured (wall : Word) (c : Core) :
    (c.measured wall).taskMax.toNat = max c.taskMax.toNat (c.measured wall).taskLast.toNat := by
  simp only [Core.measured]
  split <;> omega

/-- The output of a task that missed its deadline before, or began before a counter load, has no place. -/
theorem endOutput_lost (h : (s.core n).orphan = true ∨ (s.core n).orphan = false ∧ (s.core n).late = true) :
    endOutput n s = s.freshen.onCore n fun c => { c.measured (endWall n s) with late := false } := by
  unfold endOutput
  extract_lets c b due wall s1
  have hs1 : s1.onCore n (fun c => { c with late := false }) =
      s.freshen.onCore n fun c => { c.measured (endWall n s) with late := false } := State.onCore_onCore ..
  rcases h with h | ⟨h, hl⟩
  · rw [if_pos h, hs1]
  · rw [if_neg (by rw [show c.orphan = false from h]; simp), if_pos (by simp [c, hl]), if_pos hl, hs1]

/-- One that is late only now counts an overrun. -/
theorem endOutput_overrun (ho : (s.core n).orphan = false) (hl : (s.core n).late = false)
    (hdue : ((s.core n).taskn.toNat + 2) * s.scBlock n ≤ s.now.toNat) :
    endOutput n s = (s.freshen.bump (0x10 + n.val) 1).onCore n fun c => { c.measured (endWall n s) with late := false } := by
  unfold endOutput
  extract_lets c b due wall s1
  have hs1 : (s1.bump (0x10 + n.val) 1).onCore n (fun c => { c with late := false }) =
      (s.freshen.bump (0x10 + n.val) 1).onCore n fun c => { c.measured (endWall n s) with late := false } := by
    have hbump : s1.bump (0x10 + n.val) 1 = (s.freshen.bump (0x10 + n.val) 1).onCore n (·.measured (endWall n s)) := rfl
    rw [hbump, State.onCore_onCore]
  rw [if_neg (by rw [show c.orphan = false from ho]; simp), if_pos (by simp [due, b, c, hdue]),
    if_neg (by rw [show c.late = false from hl]; simp), hs1]

theorem State.onEdge_onCore (p : Producer) (k : Consumer) (e : Edge → Edge) (n : Fin 16) (g : Core → Core) (s : State) :
    (s.onCore n g).onEdge p k e = (s.onEdge p k e).onCore n g := rfl

/-- One on time goes to Lovage. -/
theorem endOutput_placed (ho : (s.core n).orphan = false) (hl : (s.core n).late = false)
    (hdue : s.now.toNat < ((s.core n).taskn.toNat + 2) * s.scBlock n) :
    endOutput n s = ((s.freshen.onCore n (·.measured (endWall n s))).onEdge (.sc n) .lovage (Edge.place
      { tick := BitVec.ofNat 64 (((s.core n).taskn.toNat + 2) * s.scBlock n), data := s.outWords n (s.core n).taskn.toNat })).onCore n
        fun c => { c with outBlock := some c.taskn } := by
  have hd : ((s.core n).late || decide (((s.core n).taskn.toNat + 2) * s.scBlock n ≤ s.now.toNat)) = false := by
    rw [hl, Bool.false_or, decide_eq_false (not_le.2 hdue)]
  unfold endOutput
  dsimp only
  rw [ho, if_neg (by simp), hd, if_neg (by simp)]
  rfl

theorem endOutput_onTime (ho : (s.core n).orphan = false) (hl : (s.core n).late = false)
    (hdue : s.now.toNat < ((s.core n).taskn.toNat + 2) * s.scBlock n) :
    endOutput n s = (s.freshen.onEdge (.sc n) .lovage (Edge.place
      { tick := BitVec.ofNat 64 (((s.core n).taskn.toNat + 2) * s.scBlock n), data := s.outWords n (s.core n).taskn.toNat })).onCore n
        fun c => { c.measured (endWall n s) with outBlock := some (c.measured (endWall n s)).taskn } := by
  rw [endOutput_placed ho hl hdue, State.onEdge_onCore, State.onCore_onCore]

/-- Whatever becomes of the output, the core keeps what decides the next release. -/
theorem endOutput_core (n : Fin 16) (s : State) : ∃ wall late out, (endOutput n s).core n =
    { (s.core n).measured wall with late := late, outBlock := out } ∧ ∀ m, m ≠ n → (endOutput n s).core m = s.core m := by
  have hset (u : State) (g : Core → Core) (hcores : u.cores = s.cores) : (u.onCore n g).core n = g (s.core n) ∧
      ∀ m, m ≠ n → (u.onCore n g).core m = s.core m := by
    have hc (m : Fin 16) : u.core m = s.core m := by rw [State.core, State.core, hcores]
    exact ⟨by rw [State.core_onCore, hc], fun m hm => (State.core_onCore_ne _ _ hm).trans (hc m)⟩
  by_cases h : (s.core n).orphan = true ∨ (s.core n).orphan = false ∧ (s.core n).late = true
  · rw [endOutput_lost h]
    exact ⟨_, _, _, hset _ _ rfl⟩
  · obtain ⟨ho, hl⟩ : (s.core n).orphan = false ∧ (s.core n).late = false := by
      cases h1 : (s.core n).orphan <;> cases h2 : (s.core n).late <;> simp_all
    by_cases hdue : ((s.core n).taskn.toNat + 2) * s.scBlock n ≤ s.now.toNat
    · rw [endOutput_overrun ho hl hdue]
      exact ⟨_, _, _, hset _ _ rfl⟩
    · rw [endOutput_onTime ho hl (not_le.1 hdue)]
      exact ⟨_, _, _, hset _ _ rfl⟩

end

section
variable {n : Fin 16} {s : State}

/-! END (R302, R305, R306, R308, R336). -/

/-- Core `c` after END. -/
def Core.ended (c : Core) : Core := { c with
  exec := .waiting, retExec := .waiting, trapHandler := false, loops := [], waitXf := none, cycle := c.cycle + 1 }

/-- The machine as END leaves it, but for the output. -/
def afterEnd (n : Fin 16) (s : State) : State := (countHandled n s).onCore n Core.ended

theorem afterEnd_core (n : Fin 16) (s : State) : (afterEnd n s).core n = (s.core n).ended :=
  (State.core_onCore ..).trans (congrArg Core.ended (countHandled_core ..))

theorem afterEnd_core_ne {m : Fin 16} (h : m ≠ n) : (afterEnd n s).core m = s.core m :=
  (State.core_onCore_ne _ _ h).trans (countHandled_core ..)

theorem afterEnd_touch (n : Fin 16) (s : State) : Touch [.cores, .cnt] s (afterEnd n s) :=
  Touch.onCore ((countHandled_touch n s).after (Touch.refl _ s) rfl) rfl

/-- What ends: INIT or the task, or the one that a handler has interrupted. -/
def Core.endKind (c : Core) : Exec := if c.inHandler then c.retExec else c.exec

/-- The machine as END leaves it. -/
def endState (n : Fin 16) (s : State) : State :=
  if (s.core n).endKind = .task then endOutput n (afterEnd n s) else afterEnd n s

theorem exec_end_eq {w : BitVec 32} (h : s.Ready n (aluStg w)) (hin : (s.core n).inside) (hfl : (s.core n).flight = []) :
    ∃ off, exec (.endTask n w) s = .next (atTick (s.copy (.sc n)) (releaseAt n off) (endState n s)) := by
  refine ⟨(afterEnd n s).endOff n, ?_⟩
  rw [exec_endTask, execEnd, controlOp_runs h.runs hin rfl h.legal h.on (.inr rfl)]
  have hland : landAll n ((countHandled n s).onCore n fun c => { c with cycle := c.cycle + 1 }) =
      (countHandled n s).onCore n fun c => { c with cycle := c.cycle + 1 } :=
    landAll_none (by rw [State.core_onCore, countHandled_core]; exact hfl)
  have hcopy : (afterEnd n s).copy (.sc n) = s.copy (.sc n) := by
    unfold State.copy
    rw [(afterEnd_touch n s).time_eq]
  simp only [hland, State.onCore_onCore]
  change Host.Outcome.next (atTick ((afterEnd n s).copy (.sc n)) _ _) = _
  rw [hcopy]
  refine congrArg (fun t => Host.Outcome.next (atTick _ _ t)) ?_
  unfold endState
  by_cases hkind : (s.core n).endKind = .task
  · rw [if_pos hkind, show (if (s.core n).inHandler then (s.core n).retExec else (s.core n).exec) = .task from hkind]
    rfl
  · rw [if_neg hkind]
    exact if_neg fun hc => hkind (eq_of_beq hc)

theorem endState_touch (n : Fin 16) (s : State) : Touch [.cores, .cnt, .edges, .free] s (endState n s) := by
  have h : Touch [.cores, .cnt, .edges, .free] s (afterEnd n s) := (afterEnd_touch n s).after (Touch.refl _ s) rfl
  exact Touch.ite ((endOutput_touch n _).after h rfl) h

theorem endState_core (n : Fin 16) (s : State) : ∃ a b c d e, (endState n s).core n =
    { (s.core n).ended with taskLast := a, taskMax := b, aovEnd := c, late := d, outBlock := e } := by
  unfold endState
  split
  · obtain ⟨wall, late, out, h, -⟩ := endOutput_core n (afterEnd n s)
    rw [h, afterEnd_core]
    exact ⟨_, _, _, _, _, rfl⟩
  · rw [afterEnd_core]
    exact ⟨_, _, _, _, _, rfl⟩

theorem endState_core_ne {m : Fin 16} (hm : m ≠ n) : (endState n s).core m = s.core m := by
  unfold endState
  split
  · obtain ⟨-, -, -, -, h⟩ := endOutput_core n (afterEnd n s)
    exact (h m hm).trans (afterEnd_core_ne hm)
  · exact afterEnd_core_ne hm

/-- No later task may be released at the island's tick. -/
def Alone (s : State) (n : Fin 16) : Prop :=
  (s.copy (.sc n)).toNat / s.scBlock n ≤ (s.core n).firstBlock.toNat ∨ (s.core n).stopping = true ∨ (s.life? (.sc n)).busy = false

/-- END with no task to release after it. -/
theorem exec_end_alone {w : BitVec 32} (h : s.Ready n (aluStg w)) (hin : (s.core n).inside) (hfl : (s.core n).flight = [])
    (halone : Alone s n) : exec (.endTask n w) s = .next (endState n s) := by
  obtain ⟨off, hexec⟩ := exec_end_eq h hin hfl
  obtain ⟨a, b, c, d, e, hcore⟩ := endState_core n s
  rw [hexec, atTick_idle]
  refine releaseAt_none (nextBlock_none ?_)
  have hblock : ((endState n s).onTime fun x => { x with tick := s.copy (.sc n) }).scBlock n = s.scBlock n :=
    scBlock_congr ((endState_touch n s).funcs_eq)
  have hlife : ((endState n s).onTime fun x => { x with tick := s.copy (.sc n) }).life? (.sc n) = s.life? (.sc n) :=
    (endState_touch n s).life?_eq (.sc n)
  have hc : ((endState n s).onTime fun x => { x with tick := s.copy (.sc n) }).core n = (endState n s).core n := rfl
  rw [hblock, hlife, hc, hcore]
  exact halone

/-- The state in which the next task is released, told by what it shares with the one where END was issued. -/
theorem releaseAt_busy {u : State} {a b : Word} {c : Byte} {d : Bool} {e : Option DWord} {off : Nat} (h : s.AtBundle n)
    (hfl : (s.core n).flight = []) (hmore : ¬ Alone s n)
    (hcore : u.core n = { (s.core n).ended with taskLast := a, taskMax := b, aovEnd := c, late := d, outBlock := e })
    (hfuncs : u.life.funcs = s.life.funcs) (hchip : u.chip = s.chip) (hlife : u.life? (.sc n) = s.life? (.sc n))
    (hnow : u.now = s.copy (.sc n)) (hpaused : (u.edge (.sc n) .lovage).paused = none)
    (hirq : (s.core n).irqEn &&& (s.core n).irqPend &&& 0x3E = 0 ∨ (s.core n).image.irqEntry = 0xFFFF) :
    Touch [.cores, .mem, .cnt] u (releaseAt n off u) ∧ ((releaseAt n off u).core n).exec = .task ∧
    ((releaseAt n off u).core n).pc = (s.core n).image.taskEntry.truncate 12 ∧
    ((releaseAt n off u).core n).taskn = BitVec.ofNat 64 ((s.copy (.sc n)).toNat / s.scBlock n - 1) ∧
    ((releaseAt n off u).core n).dirty = [] ∧ ∀ m, m ≠ n → (releaseAt n off u).core m = u.core m := by
  simp only [Alone, not_or, not_le, Bool.not_eq_true, Bool.not_eq_false] at hmore
  obtain ⟨hlt, hstop, hbusy⟩ := hmore
  have hblock : u.scBlock n = s.scBlock n := scBlock_congr hfuncs
  have hrun : islandRuns (.sc n) u = true := by
    have hiss := h.runs
    rw [State.issuing, Bool.and_eq_true] at hiss
    unfold islandRuns at hiss ⊢
    rw [hchip]
    exact hiss.1
  have hnext : u.nextBlock n = some ((s.copy (.sc n)).toNat / s.scBlock n - 1) := by
    rw [nextBlock_some hrun (by rw [hlife]; exact hbusy) (by rw [hcore]; exact hstop) (by rw [hcore]; rfl) hpaused
      (by rw [hcore, hnow, hblock]; exact hlt), hnow, hblock]
  have hrel := releaseTask_calm (n := n) (s := u) (off := off) (b := (s.copy (.sc n)).toNat / s.scBlock n - 1)
    (by rw [hcore]; exact hfl) (by rw [hcore]; exact h.noTrap.1) (by rw [hcore]; exact h.noTrap.2) (by rw [hcore]; exact hirq)
  rw [hcore] at hrel
  rw [releaseAt, hnext]
  exact hrel

/-- END with the next task released at once. -/
theorem exec_end_release {w : BitVec 32} (h : s.Ready n (aluStg w)) (hin : (s.core n).inside) (hfl : (s.core n).flight = [])
    (hmore : ¬ Alone s n) (hpaused : ((endState n s).edge (.sc n) .lovage).paused = none)
    (hirq : (s.core n).irqEn &&& (s.core n).irqPend &&& 0x3E = 0 ∨ (s.core n).image.irqEntry = 0xFFFF) :
    Does (.endTask n w) s [.cores, .mem, .edges, .cnt, .free] fun t => (∀ m, m ≠ n → t.core m = (endState n s).core m) ∧
      (t.core n).exec = .task ∧ (t.core n).pc = (s.core n).image.taskEntry.truncate 12 ∧
      (t.core n).taskn = BitVec.ofNat 64 ((s.copy (.sc n)).toNat / s.scBlock n - 1) ∧ (t.core n).dirty = [] := by
  obtain ⟨off, hexec⟩ := exec_end_eq h hin hfl
  obtain ⟨a, b, c, d, e, hcore⟩ := endState_core n s
  have htouch := endState_touch n s
  obtain ⟨hrel, hexec', hpc, htaskn, hdirty, hothers⟩ := releaseAt_busy
    (u := (endState n s).onTime fun x => { x with tick := s.copy (.sc n) }) (off := off) h.toAtBundle hfl hmore hcore
    htouch.funcs_eq htouch.chip_eq (htouch.life?_eq (.sc n)) rfl hpaused hirq
  rw [atTick_eq rfl hrel.time_eq] at hexec
  exact Touch.does (hrel.visited.after (htouch.after (Touch.refl _ s) rfl) rfl) hexec ⟨hothers, hexec', hpc, htaskn, hdirty⟩

end

end Sys2Proof.Machine
end

section
/-! PROOFS. O56: the control operations of a core. -/

namespace Sys2Proof.Machine

open Sys2Proof

set_option Elab.async false

section
variable {n : Fin 16} {s : State}

theorem edge_onEdge (p : Producer) (k : Consumer) (g : Edge → Edge) (s : State) : (s.onEdge p k g).edge p k = g (s.edge p k) := by
  simp [State.edge, State.onEdge]

theorem place_onTime {v : Vec} {e : Edge} (hf : e.fifo = none) (hs : e.seen = none) :
    Edge.place v e = { e with fifo := some v, sent := some v.tick } := by
  unfold Edge.place
  simp [hf, hs]

theorem place_paused {v : Vec} {e : Edge} (hf : e.fifo = none) (hp : e.paused = none) : (Edge.place v e).paused = none := by
  unfold Edge.place
  extract_lets e' old
  have hf' : e'.fifo = none := hf
  rw [hf']
  split <;> exact hp

/-- A task that ends outside a handler, or in one that it entered from the task. -/
theorem endState_task (h : (s.core n).endKind = .task) : endState n s = endOutput n (afterEnd n s) := if_pos h

theorem afterEnd_fields (n : Fin 16) (s : State) : ((afterEnd n s).core n).orphan = (s.core n).orphan ∧
    ((afterEnd n s).core n).late = (s.core n).late ∧ ((afterEnd n s).core n).taskn = (s.core n).taskn ∧
    (afterEnd n s).scBlock n = s.scBlock n ∧ (afterEnd n s).now = s.now := by
  rw [afterEnd_core]
  exact ⟨rfl, rfl, rfl, scBlock_congr (afterEnd_touch n s).funcs_eq, congrArg TimeSt.tick (afterEnd_touch n s).time_eq⟩

theorem afterEnd_onCore (g : Core → Core) : (afterEnd n s).onCore n g = (countHandled n s).onCore n fun c => g c.ended :=
  State.onCore_onCore ..

/-- The output is lost, without an overrun of its own. -/
theorem endState_lost (hk : (s.core n).endKind = .task) (h : (s.core n).orphan = true ∨ (s.core n).orphan = false ∧ (s.core n).late = true) :
    Touch [.cores, .cnt, .free] s (endState n s) ∧ (endState n s).cnt = (countHandled n s).cnt ∧
    ((endState n s).core n).exec = .waiting ∧ ((endState n s).core n).outBlock = (s.core n).outBlock ∧
    ((endState n s).core n).late = false ∧ ∀ m, m ≠ n → (endState n s).core m = s.core m := by
  obtain ⟨ho, hl, -⟩ := afterEnd_fields n s
  have hcore : ((afterEnd n s).freshen).core n = (s.core n).ended := afterEnd_core n s
  have htouch : Touch [.cores, .cnt, .free] s (afterEnd n s).freshen :=
    (State.freshen_touch _).after ((afterEnd_touch n s).after (Touch.refl _ s) rfl) rfl
  rw [endState_task hk, endOutput_lost (by rw [ho, hl]; exact h), State.core_onCore, hcore]
  exact ⟨htouch.onCore rfl, rfl, rfl, rfl, rfl, fun m hm => (State.core_onCore_ne _ _ hm).trans (afterEnd_core_ne hm)⟩

theorem counts_onCore {t : State} {f i k : Nat} {g : Core → Core} (h : Counts s t f i k) : Counts s (t.onCore n g) f i k :=
  counts_congr rfl rfl h

theorem edge_onCore (p : Producer) (k : Consumer) (g : Core → Core) (t : State) : (t.onCore n g).edge p k = t.edge p k := rfl

/-- The output is lost, and the overrun counted. -/
theorem endState_overrun (hh : (s.core n).inHandler = false) (hk : (s.core n).endKind = .task) (ho : (s.core n).orphan = false)
    (hl : (s.core n).late = false) (hdue : ((s.core n).taskn.toNat + 2) * s.scBlock n ≤ s.now.toNat) :
    Touch [.cores, .cnt, .free] s (endState n s) ∧ Counts s (endState n s) (0x10 + n.val) 1 1 ∧
    ((endState n s).core n).exec = .waiting ∧ ((endState n s).core n).outBlock = (s.core n).outBlock ∧
    ((endState n s).core n).late = false ∧ ∀ m, m ≠ n → (endState n s).core m = s.core m := by
  obtain ⟨ho', hl', ht', hb', hn'⟩ := afterEnd_fields n s
  have hcore : ((afterEnd n s).freshen.bump (0x10 + n.val) 1).core n = (s.core n).ended := afterEnd_core n s
  have htouch : Touch [.cores, .cnt, .free] s ((afterEnd n s).freshen.bump (0x10 + n.val) 1) :=
    (State.bumpBy_touch ..).after ((State.freshen_touch _).after ((afterEnd_touch n s).after (Touch.refl _ s) rfl) rfl) rfl
  have hcnt : (afterEnd n s).freshen.cnt = s.cnt := by
    rw [afterEnd, countHandled_main hh]
    rfl
  have hcounts : Counts s ((afterEnd n s).freshen.bump (0x10 + n.val) 1) (0x10 + n.val) 1 1 :=
    counts_congr (t := (afterEnd n s).freshen.bumpBy (0x10 + n.val) 1 1) hcnt.symm rfl (counts_bumpBy (by decide) (0x10 + n.val) 1 (afterEnd n s).freshen)
  rw [endState_task hk, endOutput_overrun (by rw [ho', ho]) (by rw [hl', hl]) (by rw [ht', hb', hn']; exact hdue)]
  generalize endWall n (afterEnd n s) = wall
  rw [State.core_onCore, hcore]
  exact ⟨htouch.onCore rfl, counts_onCore hcounts, rfl, rfl, rfl,
    fun m hm => (State.core_onCore_ne _ _ hm).trans (afterEnd_core_ne hm)⟩

theorem cnt_handedOver (p : Producer) (k : Consumer) (e : Edge → Edge) (g : Core → Core) (t : State) :
    ((t.freshen.onEdge p k e).onCore n g).cnt = t.cnt := rfl

/-- The vector that a task on time hands to Lovage. -/
def endVec (n : Fin 16) (s : State) : Vec :=
  { tick := BitVec.ofNat 64 (((s.core n).taskn.toNat + 2) * s.scBlock n), data := s.outWords n (s.core n).taskn.toNat }

/-- The output goes to Lovage on time. -/
theorem endState_onTime (hk : (s.core n).endKind = .task) (ho : (s.core n).orphan = false)
    (hl : (s.core n).late = false) (hdue : s.now.toNat < ((s.core n).taskn.toNat + 2) * s.scBlock n) :
    Touch [.cores, .cnt, .edges, .free] s (endState n s) ∧ (endState n s).cnt = (countHandled n s).cnt ∧
    ((endState n s).core n).exec = .waiting ∧ ((endState n s).core n).outBlock = some (s.core n).taskn ∧
    ((endState n s).core n).late = false ∧ ((endState n s).core n).aovEnd = (s.core n).aov ∧
    ((endState n s).core n).taskMax.toNat = max (s.core n).taskMax.toNat ((endState n s).core n).taskLast.toNat ∧
    (∀ m, m ≠ n → (endState n s).core m = s.core m) ∧
    (endState n s).edge (.sc n) .lovage = Edge.place (endVec n s) (s.edge (.sc n) .lovage) := by
  obtain ⟨ho', hl', ht', hb', hn'⟩ := afterEnd_fields n s
  have hvec : ({
      tick := BitVec.ofNat 64 ((((afterEnd n s).core n).taskn.toNat + 2) * (afterEnd n s).scBlock n),
      data := (afterEnd n s).outWords n ((afterEnd n s).core n).taskn.toNat } : Vec) = endVec n s := by
    have hmem : (afterEnd n s).outWords n (s.core n).taskn.toNat = s.outWords n (s.core n).taskn.toNat := by
      unfold State.outWords State.read
      rw [hb', (afterEnd_touch n s).mem_eq]
    rw [ht', hb', hmem]
    rfl
  have hcore : ((afterEnd n s).freshen.onEdge (.sc n) .lovage (Edge.place (endVec n s))).core n = (s.core n).ended := afterEnd_core n s
  have hedges : (afterEnd n s).freshen.edge (.sc n) .lovage = s.edge (.sc n) .lovage := by
    unfold State.edge
    rw [← (afterEnd_touch n s).edges_eq]
    rfl
  have htouch := endState_touch n s
  rw [endState_task hk, endOutput_onTime (by rw [ho', ho]) (by rw [hl', hl]) (by rw [ht', hb', hn']; exact hdue), hvec] at htouch ⊢
  generalize endWall n (afterEnd n s) = wall at htouch ⊢
  rw [State.core_onCore, hcore]
  refine ⟨htouch, (cnt_handedOver ..).trans rfl, rfl, rfl, hl, rfl, taskMax_measured _ _, fun m hm => (State.core_onCore_ne _ _ hm).trans (afterEnd_core_ne hm), ?_⟩
  rw [edge_onCore, edge_onEdge, hedges]

/-- Whatever becomes of the output, nothing waits at the core for Lovage's full queue. -/
theorem endState_paused (hh : (s.core n).inHandler = false) (hk : (s.core n).endKind = .task)
    (hf : (s.edge (.sc n) .lovage).fifo = none) (hp : (s.edge (.sc n) .lovage).paused = none) :
    ((endState n s).edge (.sc n) .lovage).paused = none := by
  have hkept (h : Touch [.cores, .cnt, .free] s (endState n s)) : ((endState n s).edge (.sc n) .lovage).paused = none := by
    unfold State.edge
    rw [h.edges_eq]
    exact hp
  by_cases h : (s.core n).orphan = true ∨ (s.core n).orphan = false ∧ (s.core n).late = true
  · exact hkept (endState_lost hk h).1
  · obtain ⟨ho, hl⟩ : (s.core n).orphan = false ∧ (s.core n).late = false := by
      cases h1 : (s.core n).orphan <;> cases h2 : (s.core n).late <;> simp_all
    by_cases hdue : ((s.core n).taskn.toNat + 2) * s.scBlock n ≤ s.now.toNat
    · exact hkept (endState_overrun hh hk ho hl hdue).1
    · obtain ⟨-, -, -, -, -, -, -, -, hedge⟩ := endState_onTime hk ho hl (not_le.1 hdue)
      rw [hedge]
      exact place_paused hf hp

/-- The vector of a task on time, word by word. -/
theorem endVec_spec (hdue : ((s.core n).taskn.toNat + 2) * s.scBlock n < 2 ^ 63) :
    (endVec n s).tick.toNat = ((s.core n).taskn.toNat + 2) * s.scBlock n ∧ (endVec n s).data.length = 32 * s.scBlock n ∧
    ∀ i ∈ List.range (32 * s.scBlock n), (endVec n s).data[i]? =
      some (BitVec.ofNat 32 (ofLe (s.read (dyBase n + 0x1C000 + 0x2000 * ((s.core n).taskn.toNat % 2) + 4 * i) 4))) := by
  refine ⟨?_, by simp [endVec, State.outWords], fun i hi => ?_⟩
  · rw [endVec, BitVec.toNat_ofNat]
    exact Nat.mod_eq_of_lt (by omega)
  · have hlt : i < 32 * s.scBlock n := List.mem_range.1 hi
    simp [endVec, State.outWords, outAddr, hlt]

theorem endKind_task (h : (s.core n).exec = .task) : (s.core n).inHandler = false ∧ (s.core n).endKind = .task := by
  have hh := not_inHandler (c := s.core n) (.inl h)
  exact ⟨hh, by rw [Core.endKind, hh]; exact h⟩

end

section
variable {n : Fin 16} {s : State} {w : BitVec 32} (h : s.Ready n (aluStg w)) (hin : (s.core n).inside)
include h hin

theorem leaves_endInit (hfl : (s.core n).flight = []) (he : (s.core n).exec = .init) (halone : Alone s n) :
    Leaves (.endTask n w) s n Core.ended := by
  have hh := not_inHandler (c := s.core n) (.inr he)
  have hk : (s.core n).endKind ≠ .task := by rw [Core.endKind, hh]; simp [he]
  have hexec := exec_end_alone h hin hfl halone
  rw [endState, if_neg hk, afterEnd, countHandled_main hh] at hexec
  exact leaves_of_onCore hexec

theorem does_endHandlerInit (hh : (s.core n).inHandler = true) (hfl : (s.core n).flight = []) (hr : (s.core n).retExec = .init)
    (halone : Alone s n) : Does (.endTask n w) s [.cores, .cnt] fun t =>
      (∀ m, m ≠ n → t.core m = s.core m) ∧ t.core n = (s.core n).ended ∧ Handled s t n := by
  have hk : (s.core n).endKind ≠ .task := by rw [Core.endKind, hh]; simp [hr]
  have hexec := exec_end_alone h hin hfl halone
  rw [endState, if_neg hk] at hexec
  exact (afterEnd_touch n s).does hexec ⟨fun m hm => afterEnd_core_ne hm, afterEnd_core n s, handled_of hh rfl⟩

omit hin in
/-- What RTI and RTIJ leave. -/
theorem does_back {i : Instr} {t : BitVec 12} {ls : List Loop} (hh : (s.core n).inHandler = true)
    (hirq : (s.core n).irqEn &&& (s.core n).irqPend &&& 0x3E = 0 ∨ (s.core n).image.irqEntry = 0xFFFF)
    (hi : exec i s = .next (leaveHandler n t (s.onCore n fun c => { c with loops := ls }))) :
    Does i s [.cores, .cnt] fun u => (∀ m, m ≠ n → u.core m = s.core m) ∧
      u.core n = { s.core n with exec := (s.core n).retExec, pc := t, loops := ls, trapHandler := false, cycle := (s.core n).cycle + 1 } ∧
      Handled s u n := by
  have hcore (g : Core → Core) : (s.onCore n g).core n = g (s.core n) := State.core_onCore ..
  have hq := h.toAtBundle.quiet
  rw [leaveHandler_calm (by rw [hcore]; exact hq.noDue) (by rw [hcore]; exact hq.calm.1) (by rw [hcore]; exact hq.calm.2)
    (by rw [hcore]; exact hirq)] at hi
  have htouch : Touch [.cores, .cnt] s ((countHandled n (s.onCore n fun c => { c with loops := ls })).onCore n (·.back t)) :=
    ((countHandled_touch ..).after ((Touch.refl _ s).onCore rfl) rfl).onCore rfl
  refine htouch.does hi ⟨fun m hm => ?_, ?_, ?_⟩
  · rw [State.core_onCore_ne _ _ hm, countHandled_core, State.core_onCore_ne _ _ hm]
  · rw [State.core_onCore, countHandled_core, hcore]
    rfl
  · have hhandled : Handled (s.onCore n fun c => { c with loops := ls }) ((countHandled n (s.onCore n fun c => { c with loops := ls })).onCore n (·.back t)) n :=
      handled_of (by rw [hcore]; exact hh) rfl
    rw [Handled, hcore] at hhandled
    exact hhandled

end

/-- The control operations, each with the form that it asks of its bundle. -/
theorem control_illegal (s : State) (n : Fin 16) (w : BitVec 32) :
    ∀ e ∈ [(Instr.br n w, true), (.bz n w, true), (.bnz n w, true), (.bneg n w, true), (.loopi n w, loopOk w (s.core n)),
        (.loopr n w, loopOk w (s.core n)), (.waitxf n w, bits w 5 4 == 0), (.endTask n w, true), (.rti n w, (s.core n).inHandler),
        (.rtij n w, (s.core n).inHandler), (.trapOp n w, true)],
      (s.issuing n = false → exec e.1 s = .next s) ∧
      (s.issuing n = true → (s.core n).inHandler = false → (s.core n).image.trapEntry ≠ 0xFFFF →
        e.2 = false ∨ (s.core n).stageOk (aluStg w) = false ∨ ¬ (s.core n).inside → Does e.1 s [.cores] fun t => Trapped s t n 3) := by
  simp only [List.forall_mem_cons]
  exact ⟨control_gated (exec_br n w s), control_gated (exec_bz n w s), control_gated (exec_bnz n w s), control_gated (exec_bneg n w s),
    control_gated (exec_loopi n w s), control_gated (exec_loopr n w s), control_gated (exec_waitxf n w s), control_gated (exec_endTask n w s),
    control_gated (exec_rti n w s), control_gated (exec_rtij n w s), control_gated (exec_trapOp n w s), List.forall_mem_nil _⟩

/-- A part that is the same after all leaves the frame. -/
theorem Touch.without {ps qs : List Part} {s t : State} (h : Touch ps s t) (p₀ : Part) (hsame : p₀.same s t)
    (hq : subParts (ps.erase p₀) qs = true := by rfl) : Touch qs s t := by
  refine ⟨h.queue, fun p hp => ?_, h.later⟩
  by_cases he : p = p₀
  · exact he ▸ hsame
  · exact h.frame p fun hm => subParts_not_mem hq hp ((List.mem_erase_of_ne he).2 hm)

theorem leaves_branch_iff {i : Instr} {s : State} {n : Fin 16} {w : BitVec 32} {cond : Word → Bool} (h : s.Ready n (aluStg w))
    (hin : (s.core n).inside) (hi : exec i s = branch n w cond s) {P : Prop} [Decidable P]
    (hP : cond ((s.core n).getX (aluXs2 w))[0] = true ↔ P) :
    Leaves i s n (if P then (·.jumped (aluTarget w)) else Core.goesOn) := by
  have hl := leaves_branch h hin hi
  rwa [if_congr hP rfl rfl] at hl

/-- Settles O56: the gates of a control operation, then what each one does in a bundle that closes without another event. -/
theorem controlSlot : Obligations.ControlSlot := by
  intro s n w c stg target x2 jump loops others fn handled ended alone due e onTime quiet lost
  have hgates := control_illegal s n w
  simp only [List.forall_mem_cons] at hgates
  obtain ⟨hbr, hbz, hbnz, hbneg, hloopi, hloopr, hwaitxf, hend, hrti, hrtij, htrapOp, -⟩ := hgates
  refine ⟨fun h hin => ⟨?_, ?_, ?_, ?_, fun hh hform hlt hlen hloop => ?_, fun hform => leaves_waitxf h hin hform,
    fun hfl => ⟨fun he ha => leaves_endInit h hin hfl he ha, fun he => ⟨fun hon ha => ?_, fun ho hl hdue ha => ?_, fun ho hl ha => ?_,
      fun ho ha => ?_, fun ha hp hf hirq => ?_⟩⟩,
    fun hh => ⟨fun hfl hr ha => does_endHandlerInit h hin hh hfl hr ha, fun hfl hr hon ha => ?_, fun hirq => ⟨?_, ?_⟩⟩⟩,
    fun hi hh ht hl hin => ?_, fun h hin hl ho => ?_, ?_⟩
  · exact leaves_branch h hin (exec_br n w s)
  · exact leaves_branch_iff h hin (exec_bz n w s) beq_iff_eq
  · have hl := leaves_branch_iff h hin (exec_bnz n w s) bne_iff_ne
    rwa [ite_not] at hl
  · refine leaves_branch_iff h hin (exec_bneg n w s) ?_
    rw [BitVec.msb_eq_toInt, decide_eq_true_eq]
    rfl
  · have hok : loopOk w c = true := (loopOk_iff c).2 ⟨hh, hform, hlt, hlen, hloop⟩
    exact ⟨leaves_startLoop (f := fun _ => aluCount w) h hin hok rfl (exec_loopi n w s),
      leaves_startLoop (f := fun c => bits (c.getX (aluXs2 w))[0] 15 0) h hin hok rfl (exec_loopr n w s)⟩
  · obtain ⟨hh, hk⟩ := endKind_task he
    obtain ⟨ho, hl, hnow, hdue, hf, hs⟩ := hon
    obtain ⟨htouch, hcnt, hex, hout, hlate, haov, hmax, hothers, hedge⟩ := endState_onTime hk ho hl hnow
    obtain ⟨htick, hlen, hdata⟩ := endVec_spec hdue
    rw [countHandled_main hh] at hcnt
    refine (htouch.without .cnt hcnt).does (exec_end_alone h hin hfl ha) ⟨hothers, hex, hout, hlate, haov, hmax, endVec n s, ?_, ?_,
      htick, hlen, hdata⟩ <;> rw [hedge, place_onTime hf hs]
  · obtain ⟨hh, hk⟩ := endKind_task he
    obtain ⟨htouch, hcnt, hex, hout, hlate, hothers⟩ := endState_overrun hh hk ho hl hdue
    exact htouch.does (exec_end_alone h hin hfl ha) ⟨⟨hex, hout, hlate, hothers⟩, hcnt⟩
  · obtain ⟨hh, hk⟩ := endKind_task he
    obtain ⟨htouch, hcnt, hex, hout, hlate, hothers⟩ := endState_lost hk (.inr ⟨ho, hl⟩)
    rw [countHandled_main hh] at hcnt
    exact (htouch.without .cnt hcnt).does (exec_end_alone h hin hfl ha) ⟨hex, hout, hlate, hothers⟩
  · obtain ⟨hh, hk⟩ := endKind_task he
    obtain ⟨htouch, hcnt, hex, hout, hlate, hothers⟩ := endState_lost hk (.inl ho)
    rw [countHandled_main hh] at hcnt
    exact (htouch.without .cnt hcnt).does (exec_end_alone h hin hfl ha) ⟨hex, hout, hlate, hothers⟩
  · obtain ⟨hh, hk⟩ := endKind_task he
    obtain ⟨t, hexec, hp, hframe, hothers, hrest⟩ := exec_end_release h hin hfl ha (endState_paused hh hk hf hp) hirq
    exact ⟨t, hexec, hp, hframe, fun m hm => (hothers m hm).trans (endState_core_ne hm), hrest⟩
  · have hk : (s.core n).endKind = .task := by rw [Core.endKind, hh]; exact hr
    obtain ⟨ho, hl, hnow, hdue, hf, hs⟩ := hon
    obtain ⟨htouch, hcnt, hex, hout, hlate, haov, hmax, hothers, hedge⟩ := endState_onTime hk ho hl hnow
    exact (htouch.after (Touch.refl _ s) rfl).does (exec_end_alone h hin hfl ha) ⟨hothers, hex, hout, handled_of hh hcnt⟩
  · have hself : (s.onCore n fun k => { k with loops := c.loops }) = s := State.onCore_eq_self rfl
    refine does_back h hh hirq ?_
    rw [hself, exec_rti, execRti, controlOp_runs (ok := fun c => c.inHandler) h.runs hin hh h.legal h.on (.inr rfl)]
  · have hbranch : s.onCore n (fun k => k.branchTo (aluTarget w)) =
        s.onCore n fun k => { k with loops := c.loops.dropWhile fun l => decide (target < l.first ∨ l.last < target) } :=
      State.onCore_congr (by rw [← loops_branchTo]; rfl)
    refine does_back h hh hirq ?_
    rw [exec_rtij, execRtij, controlOp_runs (ok := fun c => c.inHandler) h.runs hin hh h.legal h.on (.inr rfl), hbranch]
    rfl
  · refine ⟨fun ho => ?_, hrti.2 hi hh ht (.inl hh), hrtij.2 hi hh ht (.inl hh), fun hbad => ?_, fun hbad => ?_, fun hpc => ⟨?_, ?_, ?_⟩⟩
    · have hexec : exec (.trapOp n w) s = .next (trapHere n 7 s) := by
        rw [exec_trapOp, execTrap, controlOp_runs hi hin rfl hl ho (.inr rfl)]
      exact does_trapHere hexec hh ht
    · have hform : loopOk w (s.core n) = false := by
        rw [← Bool.not_eq_true, loopOk_iff]
        rintro ⟨-, hz, hlt, hlen, hloop⟩
        rcases hbad with hb | hb | hb | ⟨l, hmem, hb⟩
        · rw [show (s.core n).loops.length = 3 from hb] at hlen
          exact absurd hlen (by decide)
        · exact hb hz
        · exact absurd hlt (BitVec.not_lt.2 hb)
        · have hhead : (s.core n).loops.head? = some l := by
            cases hls : (s.core n).loops with
            | nil => simp [c, hls] at hmem
            | cons k r => simpa [c, hls, eq_comm] using hmem
          obtain ⟨hone, hlast⟩ := hloop l hhead
          exact hb.elim (fun h => h hone) fun h => absurd hlast (BitVec.not_lt.2 h)
      exact ⟨hloopi.2 hi hh ht (.inl hform), hloopr.2 hi hh ht (.inl hform)⟩
    · exact hwaitxf.2 hi hh ht (.inl (by rw [beq_eq_false_iff_ne]; exact hbad))
    · intro hno
      refine control_runsOff (exec_bz n w s) hi hh ht hin rfl hl hpc ?_
      rw [Bool.and_eq_false_iff]
      exact hno.imp_right fun hx => beq_false_of_ne hx
    · exact fun hform => control_runsOff (exec_waitxf n w s) hi hh ht hin (by rw [hform]; rfl) hl hpc rfl
    · intro ho hfl ha hx hirq
      have htaken : ((s.core n).stageOn (aluStg w) && true) = true := by rw [Bool.and_true]; exact ho
      have hexec := exec_br n w s
      rw [execBr, branch, controlOp_runs hi hin rfl hl ho (.inr htaken), if_pos htaken, jump_calm] at hexec
      · exact leaves_of_onCore hexec
      · intro f hf
        rw [show (s.core n).flight = [] from hfl] at hf
        exact absurd hf (List.not_mem_nil)
      · exact ⟨ha, hx, .inr hirq⟩
  · have hoff {i : Instr} {leaves : Core → Bool} {act : Core → State → State}
        (hi : exec i s = .next (controlOp n w (fun _ => true) leaves act s)) : Leaves i s n Core.goesOn :=
      control_off hi h hin rfl hl ho
    simp only [List.forall_mem_cons]
    exact ⟨hoff (exec_br n w s), hoff (exec_bz n w s), hoff (exec_bnz n w s), hoff (exec_bneg n w s), hoff (exec_endTask n w s),
      hoff (exec_trapOp n w s), List.forall_mem_nil _⟩
  · have hall {i : Instr} {form : Bool} (hg : (s.issuing n = false → exec i s = .next s) ∧
        (s.issuing n = true → (s.core n).inHandler = false → (s.core n).image.trapEntry ≠ 0xFFFF →
          form = false ∨ (s.core n).stageOk (aluStg w) = false ∨ ¬ (s.core n).inside → Does i s [.cores] fun t => Trapped s t n 3)) :
        (s.issuing n = false → exec i s = .next s) ∧
        (s.issuing n = true → c.inHandler = false → c.image.trapEntry ≠ 0xFFFF → c.stageOk stg = false ∨ ¬ c.inside →
          Does i s [.cores] fun t => Trapped s t n 3) := ⟨hg.1, fun hi hh ht hbad => hg.2 hi hh ht (.inr hbad)⟩
    simp only [List.forall_mem_cons]
    exact ⟨hall hbr, hall hbz, hall hbnz, hall hbneg, hall hloopi, hall hloopr, hall hwaitxf, hall hend, hall hrti, hall hrtij,
      hall htrapOp, List.forall_mem_nil _⟩

end Sys2Proof.Machine
end

section
/-! PROOFS. The machine right after reset, O57. -/

namespace Sys2Proof.Machine

open Sys2Proof

set_option Elab.async false

theorem life?_reset (f : Func) : State.reset.life? f = .off := by
  unfold State.life? State.func
  exact congrArg FuncRec.state (Vector.getElem_replicate f.idx.isLt)

theorem count_reset (f i : Nat) : State.reset.count f i = 0 := rfl

theorem regRead_reset_closed {off : Nat} (h : 0x02000 ≤ off) : State.reset.regRead off = 0 := by
  have hclosed : State.reset.blockOpen (off / 0x1000) = false := blockOpen_early (by decide) (by omega)
  unfold State.regRead
  simp [hclosed]

/-- Settles O57: the register values are read off the one state after reset, with its blocks open. -/
theorem resetState : Obligations.ResetState := by
  obtain ⟨hmem, hlog, hcnt⟩ := Tests.witness_Invariants
  exact ⟨rfl, hmem, hlog, hcnt, rfl, rfl, rfl, life?_reset, count_reset, ⟨_, rfl, rfl, rfl, rfl, rfl⟩, fun off => regRead_reset_closed,
    by decide +kernel, by decide +kernel, by decide +kernel⟩

end Sys2Proof.Machine
end

section
/-! PROOFS. Keys, revocations and the debug lock, O25 and O26. -/

namespace Sys2Proof.Machine

open Sys2Proof

set_option Elab.async false

theorem toNat_and_0x30 (w : Word) : (w &&& 0x30).toNat = 16 * bits w 5 4 := by
  have h : w &&& (0x30 : Word) = (((w >>> 4) &&& (3 : Word)) <<< 4 : Word) := by
    ext i hi
    interval_cases i <;> simp
  have h3 : ((w >>> 4) &&& (3 : Word)).toNat = w.toNat / 16 % 4 := by
    rw [BitVec.toNat_and, BitVec.toNat_ushiftRight, Nat.shiftRight_eq_div_pow]
    exact Nat.and_two_pow_sub_one_eq_mod _ 2
  rw [h, BitVec.toNat_shiftLeft, h3, Nat.shiftLeft_eq, bits]
  omega

/-- The bits of SVC_KEY_SEL that name a kind of key. -/
theorem keyKind_eq {w x : Word} (h : w &&& 0x30 = x) : 16 * bits w 5 4 = x.toNat := by rw [← toNat_and_0x30, h]

section
variable {s : State} {v : Word} (hst : 3 ≤ s.chip.stage.toNat)
include hst

/-- SVC_KEY_CMD writes a key into the slot at hand while PROVISIONED is 0 (R137). -/
theorem exec_svcKeyWrite_open (hc : keyCmd v 1 = true) (hp : s.svc.provisioned = false) {x : SvcSt}
    (hx : (if bits s.svc.keySel 5 4 = 0 then { s.svc with noardKeys := vmod s.svc.noardKeys s.keySlot fun _ => some (keyBytes s 8) }
      else if bits s.svc.keySel 5 4 = 1 then { s.svc with imageKeys := vmod s.svc.imageKeys s.keySlot fun _ => some (keyBytes s 16) }
      else if bits s.svc.keySel 5 4 = 2 then { s.svc with debugKey := some (keyBytes s 8) } else s.svc) = x) :
    exec (.svcKeyWrite v) s = .next (s.onSvc fun _ => x) := by
  have hgo : (!keyCmd v 1 || s.svc.provisioned) = false := by rw [hc, hp]; rfl
  subst hx
  rw [exec_svcKeyWrite, execSvcKeyWrite, writeIn_open (blockOpen_of_stage hst 15), hgo]
  rfl

theorem exec_svcKeyRevoke_open (hc : keyCmd v 2 = true) {x : SvcSt}
    (hx : (if bits s.svc.keySel 5 4 = 0 then
        { s.svc with noardRevoked := s.svc.noardRevoked ||| BitVec.ofNat 4 (2 ^ s.keySlot.val) }
      else if bits s.svc.keySel 5 4 = 1 then
        { s.svc with imageRevoked := s.svc.imageRevoked ||| BitVec.ofNat 4 (2 ^ s.keySlot.val) } else s.svc) = x) :
    exec (.svcKeyRevoke v) s = .next (s.onSvc fun _ => x) := by
  have hgo : (!keyCmd v 2) = false := by rw [hc]; rfl
  subst hx
  rw [exec_svcKeyRevoke, execSvcKeyRevoke, writeIn_open (blockOpen_of_stage hst 15)]
  dsimp only
  rw [hgo]
  rfl

end

/-- Settles O25: SVC_KEY_SEL tells the kind of key and the slot. -/
theorem keyCommands : Obligations.KeyCommands := by
  intro s v hst
  have hopen : s.blockOpen 15 = true := blockOpen_of_stage hst 15
  refine ⟨fun hc hp hk => ?_, fun hc hp hk => ?_, fun hc hp hk => ?_, fun hp => ?_, fun hc hk => ?_, fun hc hk => ?_, ?_, fun hv => ?_⟩
  · have hkind : bits s.svc.keySel 5 4 = 0 := by simpa using keyKind_eq hk
    exact AnsTouch.does (execSvcKeyWrite_touch v s) (exec_svcKeyWrite_open hst hc hp (if_pos hkind))
      ⟨vmod_get_self .., rfl, fun k hne => vmod_get_ne _ _ hne⟩
  · have hkind : bits s.svc.keySel 5 4 = 1 := by simpa using keyKind_eq hk
    exact AnsTouch.does (execSvcKeyWrite_touch v s) (exec_svcKeyWrite_open hst hc hp
      (x := { s.svc with imageKeys := vmod s.svc.imageKeys s.keySlot fun _ => some (keyBytes s 16) }) (by rw [hkind]; rfl))
      ⟨vmod_get_self .., rfl, fun k hne => vmod_get_ne _ _ hne⟩
  · have hkind : bits s.svc.keySel 5 4 = 2 := by
      have h32 : 16 * bits s.svc.keySel 5 4 = 32 := keyKind_eq hk
      omega
    exact exec_svcKeyWrite_open hst hc hp (by rw [hkind]; rfl)
  · have hgo : (!keyCmd v 1 || s.svc.provisioned) = true := by rw [hp, Bool.or_true]
    rw [exec_svcKeyWrite, execSvcKeyWrite, writeIn_open hopen, if_pos hgo]
  · have hkind : bits s.svc.keySel 5 4 = 1 := by simpa using keyKind_eq hk
    exact exec_svcKeyRevoke_open hst hc (by rw [hkind]; rfl)
  · have hkind : bits s.svc.keySel 5 4 = 0 := by simpa using keyKind_eq hk
    exact exec_svcKeyRevoke_open hst hc (if_pos hkind)
  · rw [exec_svcLock, execSvcLock, writeIn_open hopen, if_pos rfl]
    rfl
  · rw [exec_svcLock, execSvcLock, writeIn_open hopen, if_neg hv]

/-- Settles O26: an answer is right or wrong, and the third wrong one in a row locks. -/
theorem debugLock : Obligations.DebugLock := by
  intro s hoff
  refine ⟨?_, fun k hk n hn ans hlock => ?_, fun hlock ans => ?_, rfl⟩
  · have hexec : exec .jtagNonceRead s = .next (s.freshen.onSvc fun x => { x with nonce := some (s.freeVal 128) }) := by
      rw [exec_jtagNonceRead, execJtagNonceRead, if_neg hoff]
    exact AnsTouch.does (execJtagNonceRead_touch s) hexec ⟨⟨_, rfl⟩, rfl⟩
  · have hgo : ¬ ((decide (s.chip.supply = .off) || s.svc.jtagLocked) = true) := by simp [hoff, hlock]
    refine ⟨fun hright => ?_, fun hwrong => ?_⟩
    · have hexec : exec (.jtagChallengeAnswer ans) s =
          .next (s.onSvc fun x => { x with jtagOpen := true, wrong := 0, nonce := none }) := by
        rw [exec_jtagChallengeAnswer]
        unfold execJtagChallengeAnswer
        simp only [hk, hn, hright, beq_self_eq_true, if_true]
        rw [if_neg hgo]
      exact hexec
    · have hexec : exec (.jtagChallengeAnswer ans) s = .next (s.onSvc fun x =>
          { x with wrong := if x.wrong < 2 then x.wrong + 1 else 0, jtagLocked := 2 ≤ x.wrong, nonce := none }) := by
        rw [exec_jtagChallengeAnswer]
        unfold execJtagChallengeAnswer
        simp only [hk, hn, beq_false_of_ne hwrong, Bool.false_eq_true, if_false]
        rw [if_neg hgo]
      refine AnsTouch.does (execJtagChallengeAnswer_touch ans s) hexec ⟨rfl, rfl, fun h2 => ⟨if_pos h2, ?_⟩, fun h2 => ⟨?_, ?_⟩⟩
      · exact decide_eq_false (by simpa using h2)
      · exact if_neg (by rw [h2]; decide)
      · exact decide_eq_true (by rw [h2])
  · rw [exec_jtagChallengeAnswer]
    unfold execJtagChallengeAnswer
    extract_lets right
    rw [if_pos (by rw [hlock, Bool.or_true])]

end Sys2Proof.Machine
end

section
/-! PROOFS. Module resets, O11. -/

namespace Sys2Proof.Machine

open Sys2Proof

set_option Elab.async false

/-- A powered machine whose waiting clock step belongs to no job in progress. -/
def orphanStep : State := { State.reset with
  chip := { State.reset.chip with supply := .full }, time := { State.reset.time with accept := some 5 } }

/-- The watchdog's restart withdraws the waiting requests of the jobs that it ends, and of no others. -/
theorem accept_orphanStep : (match exec .svcWatchdogRestart orphanStep with
    | .next t => t.time.accept
    | _ => none) = some 5 := by decide +kernel

/-- Refutes O11: in a state whose waiting clock step belongs to no job in progress the watchdog's restart leaves it waiting. -/
theorem not_resets : ¬ Obligations.Resets := by
  intro h
  obtain ⟨-, -, -, -, -, -, -, -, hrestart⟩ := h orphanStep
  obtain ⟨t, hexec, -, -, -, -, -, -, haccept, -⟩ := hrestart (by decide)
  have hkept := accept_orphanStep
  rw [hexec] at hkept
  exact absurd (hkept.symm.trans haccept) (by decide)

end Sys2Proof.Machine
end

section
/-! PROOFS. Taking a descriptor and fetching doorbells and descriptors, O13 and O18. -/

namespace Sys2Proof.Machine

open Sys2Proof

set_option Elab.async false

/-! One ring of the host registers. -/

theorem State.ring_touchPage (q p : Fin 32) (s : State) : (s.touchPage q).ring p = s.ring p := by
  unfold State.touchPage
  cases s.pageOf q <;> rfl

theorem dropTaken_length {q : Fin 32} {l : List (Fin 32 × Word × Desc)} {e : Fin 32 × Word × Desc}
    (h : l.find? (fun e => e.1 == q) = some e) : (dropTaken q l).length + 1 = l.length := by
  induction l with
  | nil => simp at h
  | cons a r ih =>
    unfold dropTaken
    by_cases ha : a.1 = q
    · rw [if_pos ha]; rfl
    · rw [if_neg ha, List.length_cons, List.length_cons, ih (by simpa [List.find?_cons, ha] using h)]

section
variable {s : State} {q : Fin 32} {d : Desc}

theorem noteServed_ring (q : Fin 32) (d : Desc) (s : State) : (∀ p, p ≠ q → (noteServed q d s).ring p = s.ring p) ∧
    ∃ l, (noteServed q d s).ring q = { s.ring q with fenceAt := l } := by
  unfold noteServed
  extract_lets s1
  by_cases hd : opcodeOf d = 1
  · have hs1 : s1 = s.onRing q fun r => { r with fenceAt := s.host.rings.toList.map (·.sqCi) } := if_pos hd
    rw [hs1]
    exact ⟨fun p hp => (State.ring_onRing_ne _ s hp), _, (State.ring_onRing q _ s)⟩
  · have hs1 : s1 = s := if_neg hd
    rw [hs1]
    exact ⟨fun p _ => rfl, (s.ring q).fenceAt, rfl⟩

/-- Serving a descriptor works on the host registers alone. -/
theorem noteServed_host (q : Fin 32) (d : Desc) (s : State) : noteServed q d s = { s with host := (noteServed q d s).host } := by
  unfold noteServed
  extract_lets s1
  have hs1 : s1 = { s with host := s1.host } := by
    dsimp only [s1]
    split <;> rfl
  rw [hs1]
  rfl

theorem noteServed_taken (q : Fin 32) (d : Desc) (s : State) : (noteServed q d s).host.taken = s.host.taken := by
  unfold noteServed
  extract_lets s1
  have hs1 : s1.host.taken = s.host.taken := by
    dsimp only [s1]
    split <;> rfl
  exact hs1

theorem touchPage_host (q : Fin 32) (s : State) : s.touchPage q = { s with host := (s.touchPage q).host } := by
  unfold State.touchPage
  cases s.pageOf q <;> rfl

theorem countTaken_host (q : Fin 32) (s : State) : countTaken q s = { s with host := (countTaken q s).host } :=
  touchPage_host ..

theorem countTaken_ring (q : Fin 32) (s : State) : (∀ p, p ≠ q → (countTaken q s).ring p = s.ring p) ∧
    (countTaken q s).ring q = { s.ring q with sqCi := (s.ring q).sqCi + 1, taken := (s.ring q).taken + 1
                                              fetched := (s.ring q).fetched.drop 1 } := by
  unfold countTaken
  exact ⟨fun p hp => (State.ring_touchPage ..).trans (State.ring_onRing_ne _ _ hp),
    (State.ring_touchPage ..).trans (State.ring_onRing ..)⟩

/-- What R98 asks of a descriptor that is taken now. -/
theorem mayTake_spec (h : s.mayTake q d = true) : (s.ring q).enable = true ∧ (s.ring q).taken < (s.ring q).budgetNow.toNat ∧
    s.takenNow < 32 ∧ s.unservedHere q = false ∧ (s.ring q).full = false := by
  unfold State.mayTake at h
  simp only [Bool.and_eq_true, Bool.not_eq_true', decide_eq_true_eq] at h
  obtain ⟨⟨⟨⟨⟨⟨⟨⟨⟨⟨-, -⟩, henable⟩, -⟩, -⟩, hfull⟩, hbudget⟩, hall⟩, -⟩, hserved⟩, -⟩ := h
  exact ⟨henable, hbudget, hall, hserved, hfull⟩

end

/-- Settles O13: a served descriptor was taken before, or is taken as it is served. -/
theorem taking : Obligations.Taking := by
  intro s t q d idx h
  unfold State.serving at h
  cases hf : s.firstTaken q with
  | some e =>
    obtain ⟨r, i, e⟩ := e
    rw [hf] at h
    simp only [Option.ite_none_right_eq_some, Option.some.injEq, Prod.mk.injEq] at h
    obtain ⟨⟨-, -, hord⟩, rfl, rfl⟩ := h
    refine ⟨rfl, rfl, rfl, rfl, rfl, fun _ => rfl, fun _ _ => rfl, nofun, fun _ _ => ⟨rfl, dropTaken_length hf⟩, fun ho => ?_⟩
    simpa [ho] using hord
  | none =>
    rw [hf] at h
    simp only [Option.ite_none_right_eq_some, Option.some.injEq, Prod.mk.injEq] at h
    obtain ⟨hgo, rfl, rfl⟩ := h
    simp only [Bool.and_eq_true] at hgo
    obtain ⟨⟨⟨hhere, hmay⟩, -⟩, hord⟩ := hgo
    obtain ⟨henable, hbudget, hall, hserved, hfull⟩ := mayTake_spec hmay
    have htouch : Touch [.rings, .pages, .taken] s (countTaken q (noteServed q d s)) :=
      (countTaken_touch ..).after ((noteServed_touch ..).after (Touch.refl _ s) rfl) rfl
    obtain ⟨hne, l, hq⟩ := noteServed_ring q d s
    obtain ⟨hne', hq'⟩ := countTaken_ring q (noteServed q d s)
    rw [hq] at hq'
    have hpend : (s.ring q).pendingCount ≠ 0 := by
      cases hl : (s.ring q).fetched <;> simp_all
    have hothers (p : Fin 32) (hp : p ≠ q) : (countTaken q (noteServed q d s)).ring p = s.ring p := (hne' p hp).trans (hne p hp)
    have heq : countTaken q (noteServed q d s) = { s with host := (countTaken q (noteServed q d s)).host } := by
      rw [countTaken_host, noteServed_host]
    refine ⟨(congrArg State.life heq).trans rfl, (congrArg State.mem heq).trans rfl, (congrArg State.svc heq).trans rfl, (congrArg State.chip heq).trans rfl, htouch.queue,
      fun p => ?_, hothers, fun _ => ⟨rfl, (congrArg Ring.sqCi hq').trans rfl, ?_, henable, hbudget, hpend, hall, hserved, hfull⟩, nofun, fun ho => ?_⟩
    · by_cases hp : p = q
      · subst hp
        exact (congrArg Ring.waiting hq').trans rfl
      · rw [hothers p hp]
    · exact ((countTaken_touch ..).after (Touch.refl [.rings, .pages] _) rfl).taken_eq.trans (noteServed_taken ..)
    · simpa [ho] using hord

/-! Doorbell pages (R91-R95, R102). -/

/-- A ring as its entry of a doorbell page leaves it. -/
def Ring.rung (q : Fin 32) (b : List Byte) (fresh : Bool) (r : Ring) : Ring :=
  if !(r.enable || r.draining) || !(r.seen || fresh) then r
  else
    let pi_ := BitVec.ofNat 32 (leAt b (8 * q.val) 4)
    let r1 := { r with sqPi := if r.err = 0 then pi_ else r.sqPi, cqCi := BitVec.ofNat 32 (leAt b (8 * q.val + 4) 4), seen := true }
    if r.enable && r.err == 0 && decide (2 ^ r.sqLog.toNat < (pi_ - r.sqCi).toNat) then { r1 with err := 1, fetched := [] } else r1

theorem Ring.rung_keeps (q : Fin 32) (b : List Byte) (fresh : Bool) (r : Ring) :
    (r.rung q b fresh).sqCi = r.sqCi ∧ (r.rung q b fresh).waiting = r.waiting := by
  unfold Ring.rung
  split
  · exact ⟨rfl, rfl⟩
  · extract_lets pi_ r1
    split <;> exact ⟨rfl, rfl⟩

/-- A ring at work that has seen a doorbell takes its new counts; one in error only the room (R95, R102). -/
theorem Ring.rung_seen (q : Fin 32) (b : List Byte) (fresh : Bool) {r : Ring} (he : r.enable = true) (hs : r.seen = true) :
    (r.rung q b fresh).cqCi = BitVec.ofNat 32 (leAt b (8 * q.val + 4) 4) ∧
    (r.err ≠ 0 → (r.rung q b fresh).sqPi = r.sqPi ∧ (r.rung q b fresh).err = r.err) ∧
    (r.err = 0 → (r.rung q b fresh).sqPi = BitVec.ofNat 32 (leAt b (8 * q.val) 4) ∧
      (2 ^ r.sqLog.toNat < ((r.rung q b fresh).sqPi - r.sqCi).toNat → (r.rung q b fresh).err = 1) ∧
      (((r.rung q b fresh).sqPi - r.sqCi).toNat ≤ 2 ^ r.sqLog.toNat → (r.rung q b fresh).err = 0)) := by
  unfold Ring.rung
  rw [if_neg (by simp [he, hs])]
  extract_lets pi_ r1
  by_cases herr : r.err = 0
  · have hpi : r1.sqPi = pi_ := if_pos herr
    by_cases hlt : 2 ^ r.sqLog.toNat < (pi_ - r.sqCi).toNat
    · rw [if_pos (by rw [he, herr, decide_eq_true hlt]; rfl)]
      exact ⟨rfl, fun h => absurd herr h, fun _ => ⟨hpi, fun _ => rfl, fun h => by
        rw [show _ = pi_ from hpi] at h
        exact absurd hlt (not_lt.2 h)⟩⟩
    · rw [if_neg (by rw [decide_eq_false hlt, Bool.and_false]; exact Bool.false_ne_true)]
      exact ⟨rfl, fun h => absurd herr h, fun _ => ⟨hpi, fun h => absurd (hpi ▸ h) hlt, fun _ => herr⟩⟩
  · rw [if_neg (by rw [beq_false_of_ne herr, Bool.and_false]; exact Bool.false_ne_true)]
    exact ⟨rfl, fun _ => ⟨if_neg herr, rfl⟩, fun h => absurd h herr⟩

theorem ringError_ring (q : Fin 32) (e : BitVec 4) (s : State) : (ringError q e s).ring q = { s.ring q with err := e, fetched := [] } ∧
    ∀ p, p ≠ q → (ringError q e s).ring p = s.ring p := by
  unfold ringError
  refine ⟨?_, fun p hp => ?_⟩
  · rw [State.ring_touchPage]
    exact State.ring_onRing q _ s
  · rw [State.ring_touchPage]
    exact State.ring_onRing_ne _ s hp

theorem ringDoorbell_ring (q : Fin 32) (b : List Byte) (fresh : Bool) (s : State) :
    (ringDoorbell q b fresh s).ring q = (s.ring q).rung q b fresh ∧
    ∀ p, p ≠ q → (ringDoorbell q b fresh s).ring p = s.ring p := by
  unfold ringDoorbell Ring.rung
  extract_lets r pi_ ci s1 r1
  have hs1 : s1.ring q = r1 := State.ring_onRing q _ s
  have hs1' (p : Fin 32) (hp : p ≠ q) : s1.ring p = s.ring p := State.ring_onRing_ne _ s hp
  split
  · exact ⟨rfl, fun _ _ => rfl⟩
  split
  · obtain ⟨hq, hne⟩ := ringError_ring q 1 s1
    exact ⟨hq.trans (by rw [hs1]), fun p hp => (hne p hp).trans (hs1' p hp)⟩
  · exact ⟨hs1, hs1'⟩

theorem onPage_ring (p : PageSet) (g : PageSt → PageSt) (q : Fin 32) (s : State) : (s.onPage p g).ring q = s.ring q := by
  cases p <;> rfl

theorem onPage_page (p : PageSet) (g : PageSt → PageSt) (s : State) : (s.onPage p g).page p = g (s.page p) := by
  cases p <;> rfl

/-- The rings of a page each take their entry; the others keep everything. -/
theorem doorbellDone_ring (p : PageSet) (b : List Byte) (q : Fin 32) (s : State) : (doorbellDone p b s).ring q =
    if s.pageOf q = p then (s.ring q).rung q b ((s.page p).fresh.getLsbD q.val) else s.ring q := by
  unfold doorbellDone
  extract_lets pg s1 s2
  have hack : (ackEvents p (BitVec.ofNat 32 (leAt b 0x100 4)) (BitVec.ofNat 64 (leAt b 0x108 8)) s2).ring q = s2.ring q :=
    onPage_ring ..
  have hs1 : s1.ring q = s.ring q := onPage_ring ..
  have hother (a b' : Fin 32) (u : State) (hab : a ≠ b') : (ringDoorbell a b (pg.fresh.getLsbD a.val) u).ring b' = u.ring b' :=
    (ringDoorbell_ring a b _ u).2 b' hab.symm
  have hself (a : Fin 32) (u v : State) (huv : u.ring a = v.ring a) : (ringDoorbell a b (pg.fresh.getLsbD a.val) u).ring a =
      (ringDoorbell a b (pg.fresh.getLsbD a.val) v).ring a := by
    rw [(ringDoorbell_ring ..).1, (ringDoorbell_ring ..).1, huv]
  rw [hack]
  split
  next hp =>
    have hmem : q ∈ allRings.filter fun q => s.pageOf q == p := List.mem_filter.2 ⟨List.mem_finRange q, beq_of_eq hp⟩
    exact (forAll_of_mem (F := fun q s => s.ring q) hother hself ((List.nodup_finRange 32).filter _) hmem s1).trans
      (((ringDoorbell_ring q b _ s1).1).trans (by rw [hs1]))
  next hp =>
    have hmem : q ∉ allRings.filter fun q => s.pageOf q == p := fun h => hp (eq_of_beq (List.mem_filter.1 h).2)
    exact (forAll_of_notMem (F := fun q s => s.ring q) hother hmem s1).trans hs1

/-- The doorbell read is over. -/
theorem doorbellDone_outstanding (p : PageSet) (b : List Byte) (s : State) : ((doorbellDone p b s).page p).outstanding = false := by
  have hraise (k : Nat) (g : PageSt) : (g.raise k).outstanding = g.outstanding := by
    unfold PageSt.raise
    split <;> rfl
  have htouch (q : Fin 32) (u : State) : ((u.touchPage q).page p).outstanding = (u.page p).outstanding := by
    unfold State.touchPage
    cases u.pageOf q <;> cases p <;> rfl
  have herror (q : Fin 32) (e : BitVec 4) (u : State) : ((ringError q e u).page p).outstanding = (u.page p).outstanding := by
    unfold ringError
    rw [htouch]
    cases p <;> exact hraise 0 _
  have hring (q : Fin 32) (fresh : Bool) (u : State) : ((ringDoorbell q b fresh u).page p).outstanding = (u.page p).outstanding := by
    unfold ringDoorbell
    extract_lets r pi_ ci s1
    split
    · rfl
    split
    · rw [herror]
      cases p <;> rfl
    · cases p <;> rfl
  unfold doorbellDone
  extract_lets pg s1 s2
  have hs1 : (s1.page p).outstanding = false := by rw [show s1.page p = _ from onPage_page ..]
  have hs2 : (s2.page p).outstanding = false :=
    (forAll_keeps (fun u : State => (u.page p).outstanding) (fun q _ u => hring q _ u) s1).trans hs1
  rw [ackEvents, onPage_page]
  split
  · exact hs2
  · split <;> exact hs2

/-- Settles O18: each page's fetch period, then the rings that a doorbell shows. -/
theorem fetching : Obligations.Fetching := by
  intro s
  refine ⟨fun hf hb hr hd hnow hasked => ?_, fun h => ?_, fun hh hw hr hasked => ?_, fun set h hout hmc b hb hlen => ?_, fun hout => ?_,
    fun set h hout => ?_, fun q d he herr hlen hr hbus => ?_, fun a hb => ?_⟩
  · have hgo : ¬ ((!s.host.fetch || !s.hostBus || s.chip.resetting || s.host.d3 || decide (s.now.toNat % (s.host.period.toNat + 1) ≠ 0)) = true) := by
      simp [hf, hb, hr, hd, hnow]
    rw [exec_doorbellFetch, execDoorbellFetch, if_neg hgo]
    refine ⟨fun hout => ?_, fun hout => ?_⟩
    · simp only [hout, hasked, issueDoorbell, State.onPage, State.onHost, Bool.not_false, Bool.and_self, if_true, Bool.false_eq_true, if_false]
    · simp only [hout, hasked, issueDoorbell, State.onPage, State.onHost, Bool.not_false, Bool.false_and, Bool.false_eq_true, if_false]
  · rw [exec_doorbellFetch, execDoorbellFetch]
    rcases h with h | h
    · rw [if_pos (by simp [h])]
    · have hidle : issueDoorbell .host s = s := by simp only [issueDoorbell, State.onPage, State.onHost, h, if_true]
      simp only [h, Bool.not_true, Bool.and_false, Bool.false_eq_true, if_false, hidle, ite_self]
  · rw [exec_tarragonDoorbellFetch, execTarragonDoorbellFetch, if_pos (by simp [hh, hw, hr])]
    refine ⟨fun hout => ?_, fun hout => ?_⟩
    · simp only [hout, hasked, issueDoorbell, State.onPage, State.onHost, Bool.false_eq_true, if_false]
    · simp only [hout, hasked, issueDoorbell, State.onPage, State.onHost, Bool.false_eq_true, if_false, if_true]
  · have hexec : exec (.doorbellReadComplete set h) s = .next (doorbellDone set b s) := by
      rw [exec_doorbellReadComplete]
      unfold execDoorbellReadComplete
      rw [hout, hb]
      cases set with
      | tarragon => exact congrArg Host.Outcome.next (if_pos (hmc rfl))
      | host =>
        cases h with
        | data l => exact congrArg Host.Outcome.next (if_pos (by rw [hb] at hlen; exact hlen))
        | failed =>
          rw [hb] at hlen
          exact absurd hlen (by simp)
    refine (doorbellDone_touch set b s).does hexec ⟨doorbellDone_outstanding .., fun q hq => ?_, fun q hq he hseen => ?_, fun q => ?_⟩
    · rw [doorbellDone_ring, if_neg hq]
    · rw [doorbellDone_ring, if_pos hq]
      exact Ring.rung_seen q b _ he hseen
    · rw [doorbellDone_ring]
      split
      · exact Ring.rung_keeps ..
      · exact ⟨rfl, rfl⟩
  · have hexec : exec (.doorbellReadComplete .host .failed) s =
        .next (hostReadFailed s.host.dbAddr (s.onPage .host fun g => { g with outstanding := false })) := by
      rw [exec_doorbellReadComplete]
      unfold execDoorbellReadComplete
      rw [show (s.page .host).outstanding = true from hout]
      rfl
    have htouch : Touch [.pages, .link] s (hostReadFailed s.host.dbAddr (s.onPage .host fun g => { g with outstanding := false })) :=
      (hostReadFailed_touch ..).after ((State.onPage_touch ..).after (Touch.refl _ s) rfl) rfl
    exact htouch.does hexec ⟨rfl, rfl, rfl⟩
  · rw [exec_doorbellReadComplete]
    unfold execDoorbellReadComplete
    rw [hout]
    rfl
  · have hgo : ¬ ((!(s.ring q).enable || decide ((s.ring q).err ≠ 0) || decide ((s.ring q).pendingCount ≤ (s.ring q).fetched.length) || s.chip.resetting ||
        s.busWait (s.ring q).sqBase.toNat) = true) := by
      simp [he, herr, hlen, hr, hbus]
    refine ⟨?_, ?_⟩
    · have hexec : exec (.descriptorReadComplete q (some d)) s = .next (s.onRing q fun r => { r with fetched := r.fetched ++ [d] }) := by
        rw [exec_descriptorReadComplete]
        exact congrArg Host.Outcome.next (if_neg hgo)
      exact ((State.onRing_touch ..).after (Touch.refl _ s) rfl).does hexec ⟨State.ring_onRing q _ s, fun p hp => State.ring_onRing_ne _ s hp⟩
    · obtain ⟨u, hu, hring⟩ : ∃ u : State, exec (.descriptorReadComplete q none) s = .next (ringError q 2 u) ∧ ∀ p, u.ring p = s.ring p := by
        rw [exec_descriptorReadComplete]
        unfold execDescriptorReadComplete
        extract_lets r a
        exact ⟨_, congrArg Host.Outcome.next (if_neg hgo), fun p => by split <;> rfl⟩
      obtain ⟨hq, hne⟩ := ringError_ring q 2 u
      refine AnsTouch.does (execDescriptorReadComplete_touch q none s) hu ⟨?_, ?_, fun p hp => (hne p hp).trans (hring p)⟩
      · rw [hq]
      · rw [hq]
        rfl
  · rw [exec_hostReadFail, execHostReadFail, if_pos hb]
    rfl

end Sys2Proof.Machine
end

section
/-! PROOFS. Serving a descriptor: what every descriptor has in common, and those that complete at once, O14. -/

namespace Sys2Proof.Machine

open Sys2Proof

set_option Elab.async false

section
variable {s s1 : State} {q : Fin 32} {d : Desc} {idx : Word}

/-- Serving a descriptor works on the host registers alone. -/
theorem serving_host (h : s.serving q d = some (idx, s1)) : s1 = { s with host := s1.host } := by
  unfold State.serving at h
  cases hf : s.firstTaken q with
  | some e =>
    rw [hf] at h
    simp only [Option.ite_none_right_eq_some, Option.some.injEq, Prod.mk.injEq] at h
    rw [← h.2.2]
    rfl
  | none =>
    rw [hf] at h
    simp only [Option.ite_none_right_eq_some, Option.some.injEq, Prod.mk.injEq] at h
    rw [← h.2.2, countTaken_host, noteServed_host]

/-- Serving a descriptor forms no record. -/
theorem serving_waiting (h : s.serving q d = some (idx, s1)) (p : Fin 32) : (s1.ring p).waiting = (s.ring p).waiting := by
  unfold State.serving at h
  cases hf : s.firstTaken q with
  | some e =>
    rw [hf] at h
    simp only [Option.ite_none_right_eq_some, Option.some.injEq, Prod.mk.injEq] at h
    rw [← h.2.2]
    rfl
  | none =>
    rw [hf] at h
    simp only [Option.ite_none_right_eq_some, Option.some.injEq, Prod.mk.injEq] at h
    rw [← h.2.2]
    obtain ⟨hne, l, hq⟩ := noteServed_ring q d s
    obtain ⟨hne', hq'⟩ := countTaken_ring q (noteServed q d s)
    by_cases hp : p = q
    · subst hp
      rw [hq', hq]
    · rw [hne' p hp, hne p hp]

theorem serving_hostMem (h : s.serving q d = some (idx, s1)) : s1.host.hostMem = s.host.hostMem :=
  (State.serving_touch h).hostMem_eq

section
variable {op : Nat} {form : Bool} {body : Word → State → State}
  (h : s.serving q d = some (idx, s1)) (hclear : s.svc.hostless = false ∨ s.tarrRing q = true ∨ clearOfStaging d = true)
include h

theorem serve_of_served (hop : opcodeOf d = op) : serve op q d form body s =
    if form && (!s.svc.hostless || s.tarrRing q || clearOfStaging d) then body idx s1 else finish q d idx stBadDesc 0 s1 := by
  unfold serve
  rw [if_neg (not_not.2 hop), h]

theorem serve_bad (hop : opcodeOf d = op) (hf : form = false) : serve op q d form body s = finish q d idx stBadDesc 0 s1 := by
  rw [serve_of_served h hop, hf]
  rfl

include hclear

theorem serve_good (hop : opcodeOf d = op) (hf : form = true) : serve op q d form body s = body idx s1 := by
  rw [serve_of_served h hop, if_pos]
  rw [hf, Bool.true_and]
  rcases hclear with h | h | h <;> simp [h]

theorem serveAt_good {a : Nat} (hop : opcodeOf d = op) (hf : form = true) (hbus : s.busWait a = false) :
    serveAt op q d form a body s = body idx s1 := by
  unfold serveAt
  rw [hf, hbus]
  exact serve_good h hclear hop rfl

end

/-! Records that end a descriptor. -/

theorem mkRec_endRec (d : Desc) (idx : Word) {status : Byte} {done : Nat} (h : status.toNat < 2 ∨ done = 0) (tick : DWord) :
    mkRec (tagOf d) (irqOf d) idx status done false tick = endRec d idx status done tick := by
  have hwhole : ¬(status.toNat ≥ 2 ∧ status ≠ stAborted ∧ status ≠ stLateApplied ∧ (done ≠ 0 ∨ false = true)) := by
    rintro ⟨hs, -, -, hd⟩
    rcases h with h | h
    · omega
    · simp [h] at hd
  unfold mkRec endRec
  dsimp only
  rw [if_neg hwhole, if_neg hwhole]

theorem ring_addRec (q p : Fin 32) (r : Rec) (s : State) :
    (s.addRec q r).ring p = if p = q then { s.ring q with waiting := insertRec r (s.ring q).waiting } else s.ring p := by
  split
  next h =>
    subst h
    exact State.ring_onRing _ _ s
  next h => exact State.ring_onRing_ne _ s h

theorem ends_addRec (hw : ∀ p, (s1.ring p).waiting = (s.ring p).waiting) (q : Fin 32) (r : Rec) : Ends s (s1.addRec q r) q r := by
  refine ⟨?_, fun p hp => ?_⟩
  · rw [ring_addRec, if_pos rfl, hw]
  · rw [ring_addRec, if_neg hp, hw]

theorem ends_finish (hw : ∀ p, (s1.ring p).waiting = (s.ring p).waiting) (hn : s1.now = s.now) (q : Fin 32) (d : Desc) (idx : Word)
    {status : Byte} {done : Nat} (h : status.toNat < 2 ∨ done = 0) :
    Ends s (finish q d idx status done s1) q (endRec d idx status done s.now) := by
  unfold finish
  rw [mkRec_endRec d idx h, hn]
  exact ends_addRec hw ..

/-! A result written at its address. -/

theorem ring_writeAt (a : DWord) (bs : List Byte) (p : Fin 32) (s : State) : (s.writeAt a bs).ring p = s.ring p := by
  unfold State.writeAt
  split <;> rfl

theorem mem_writeAt_congr {t : State} (hm : t.mem = s.mem) (hh : t.host.hostMem = s.host.hostMem) (a : DWord) (bs : List Byte) :
    (t.writeAt a bs).mem = (s.writeAt a bs).mem ∧ (t.writeAt a bs).host.hostMem = (s.writeAt a bs).host.hostMem := by
  unfold State.writeAt
  cases a.getLsbD 63
  · exact ⟨hm, congrArg (hostPutList · _ bs) hh⟩
  · exact ⟨congrArg (memPutList · _ bs) hm, hh⟩

theorem wrote_addRec {t : State} (hm : t.mem = s.mem) (hh : t.host.hostMem = s.host.hostMem) (q : Fin 32) (r : Rec) (a : Nat) (bs : List Byte) :
    Wrote s ((t.writeAt (BitVec.ofNat 64 a) bs).addRec q r) a bs :=
  mem_writeAt_congr hm hh ..

theorem finishResult_good {a done : Nat} {bs : List Byte} (hdst : s.dstOk a bs.length = true) :
    finishResult q d idx a bs done s = (s.writeAt (BitVec.ofNat 64 a) bs).addRec q (endRec d idx stOk done s.now) := by
  unfold finishResult
  rw [if_pos hdst]
  unfold finish
  rw [mkRec_endRec d idx (.inl (by decide))]
  congr 2
  exact (State.writeAt_touch ..).now_eq

theorem length_flatten_of_forall {α : Type} {l : List (List α)} {n : Nat} (h : ∀ x ∈ l, x.length = n) : l.flatten.length = n * l.length := by
  induction l with
  | nil => rfl
  | cons x l ih =>
    rw [List.flatten_cons, List.length_append, h x (by simp), ih fun y hy => h y (by simp [hy]), List.length_cons, Nat.mul_succ, Nat.add_comm]

/-- Records of one size for all of which there is room are written whole. -/
theorem finishRecords_good {a size : Nat} {recs : List (List Byte)} (hsize : 0 < size) (hlen : ∀ r ∈ recs, r.length = size)
    (hroom : s.writable a (size * recs.length) = size * recs.length) : finishRecords q d idx a size recs stOk s =
      (s.writeAt (BitVec.ofNat 64 a) recs.flatten).addRec q (endRec d idx stOk recs.length s.now) := by
  have hfit : unitsThatFit s a size recs.length = recs.length := by
    unfold unitsThatFit
    rw [hroom, max_eq_right hsize, Nat.mul_div_cancel_left _ hsize, Nat.min_self]
  unfold finishRecords
  dsimp only
  rw [hfit, if_pos rfl, hroom, ← length_flatten_of_forall hlen, List.take_length, mkRec_endRec d idx (.inl (by decide))]

end

/-! What the records hold has its size. -/

theorem length_routeRecord (s : State) (k : Nat) : (routeRecord s k).length = 16 := by
  unfold routeRecord
  extract_lets
  rw [List.length_append, List.length_append, length_leBytes, length_leBytes, length_leBytes]

theorem LogEntry.length_bytes (e : LogEntry) : e.bytes.length = 32 := by
  simp only [LogEntry.bytes, List.length_append, length_leBytes, List.length_cons, List.length_nil]

theorem length_queryRecord (s : State) (f : Func) : (queryRecord s f).length = 16 := by
  unfold queryRecord
  extract_lets r
  rw [List.length_append, length_leBytes]
  split <;> simp

/-! Counters cleared with a read. -/

theorem count_clearCnt (s : State) (k c : Nat × Nat) : (s.clearCnt c.1 c.2).count k.1 k.2 = 0 ∨
    (s.clearCnt c.1 c.2).count k.1 k.2 = s.count k.1 k.2 ∧ k ≠ c := by
  unfold State.count State.clearCnt
  by_cases hk : cntKey k.1 k.2 = cntKey c.1 c.2
  · exact .inl (congrArg (Option.getD · 0) ((Store.get?_del ..).trans (if_pos hk)))
  · exact .inr ⟨congrArg (Option.getD · 0) ((Store.get?_del ..).trans (if_neg hk)), fun e => hk (by rw [e])⟩

theorem count_forAll_clearCnt_zero {s : State} (l : List (Nat × Nat)) {k : Nat × Nat} (h : s.count k.1 k.2 = 0) :
    (forAll l (fun k s => s.clearCnt k.1 k.2) s).count k.1 k.2 = 0 := by
  induction l generalizing s with
  | nil => exact h
  | cons c l ih => exact ih ((count_clearCnt s k c).elim id fun e => e.1.trans h)

theorem count_forAll_clearCnt {l : List (Nat × Nat)} {k : Nat × Nat} (h : k ∈ l) (s : State) :
    (forAll l (fun k s => s.clearCnt k.1 k.2) s).count k.1 k.2 = 0 := by
  induction l generalizing s with
  | nil => cases h
  | cons c l ih =>
    rcases List.mem_cons.1 h with rfl | h
    · exact count_forAll_clearCnt_zero l ((count_clearCnt s k k).elim id fun e => absurd rfl e.2)
    · exact ih h _

/-- What a result's write and record leave. -/
theorem ends_wrote {s t : State} (hw : ∀ p, (t.ring p).waiting = (s.ring p).waiting) (hm : t.mem = s.mem)
    (hh : t.host.hostMem = s.host.hostMem) (q : Fin 32) (r : Rec) (a : Nat) (bs : List Byte) :
    Ends s ((t.writeAt (BitVec.ofNat 64 a) bs).addRec q r) q r ∧ Wrote s ((t.writeAt (BitVec.ofNat 64 a) bs).addRec q r) a bs :=
  ⟨ends_addRec (fun p => (congrArg Ring.waiting (ring_writeAt _ _ p t)).trans (hw p)) q r, wrote_addRec hm hh ..⟩

theorem statClear_cnt {f : Func} (hf : f ≠ .service) (s : State) : statClear f s = { s with cnt := (statClear f s).cnt } := by
  unfold statClear
  rw [if_neg hf]
  induction statKeys s f generalizing s with
  | nil => rfl
  | cons k l ih =>
    rw [forAll_cons, ih]
    rfl

theorem statClear_cases {f : Func} (clear : Bool) (hf : f ≠ .service) (s : State) : ∃ c, (if clear then statClear f s else s) = { s with cnt := c } ∧
    (clear = false → c = s.cnt) ∧ (clear = true → ∀ k ∈ statKeys s f, State.count { s with cnt := c } k.1 k.2 = 0) := by
  cases clear with
  | false => exact ⟨s.cnt, rfl, fun _ => rfl, nofun⟩
  | true =>
    refine ⟨_, statClear_cnt hf s, nofun, fun _ k hk => ?_⟩
    have h := count_forAll_clearCnt hk s
    unfold statClear
    rw [if_neg hf]
    exact h

/-! The descriptors that answer with a record, once served in the state `s` with the host registers `h`. -/

section
variable {s : State} {h : HostSt} {q : Fin 32} {d : Desc} {idx : Word} (hs : s.serving q d = some (idx, { s with host := h }))
  (hclear : s.svc.hostless = false ∨ s.tarrRing q = true ∨ clearOfStaging d = true)
include hs

theorem served_waiting (p : Fin 32) : (State.ring { s with host := h } p).waiting = (s.ring p).waiting := serving_waiting hs p

theorem served_hostMem : h.hostMem = s.host.hostMem := serving_hostMem hs

theorem nop_bad (hop : opcodeOf d = 0x00) (hf : (headerOk d false false && payloadOk d [] && noFunc d) = false) :
    Does (.nop q d) s [.rings, .pages, .taken, .reqs] fun t => Ends s t q (endRec d idx 0x05 0 s.now) := by
  refine (execNop_touch q d s).does (exec_nop ..) (?_ : Ends _ (serve ..) _ _)
  rw [serve_bad hs hop hf]
  exact ends_finish (served_waiting hs) rfl q d idx (.inr rfl)

include hclear

theorem nop_good (hop : opcodeOf d = 0x00) (hf : (headerOk d false false && payloadOk d [] && noFunc d) = true) :
    Does (.nop q d) s [.rings, .pages, .taken, .reqs] fun t => Ends s t q (endRec d idx 0x00 1 s.now) := by
  refine (execNop_touch q d s).does (exec_nop ..) (?_ : Ends _ (serve ..) _ _)
  rw [serve_good hs hclear hop hf]
  exact ends_finish (served_waiting hs) rfl q d idx (.inl (by decide))

theorem funcQuery_good {f : Func} (hop : opcodeOf d = 0x13)
    (hf : (headerOk d false false && payloadOk d [(16, 8)] && addrOk (fld d 16 8) 16 && funcOk d) = true)
    (hbus : s.busWait (fld d 16 8) = false) (hdst : s.dstOk (fld d 16 8) 16 = true) (hd : descFunc d = some f) :
    Does (.funcQuery q d) s [.rings, .pages, .taken, .hostMem, .reqs, .memc, .mem] fun t =>
      Ends s t q (endRec d idx 0x00 1 s.now) ∧ Wrote s t (fld d 16 8) (queryRecord s f) := by
  refine (execFuncQuery_touch q d s).does (exec_funcQuery ..) (?_ : Ends _ (serveAt ..) _ _ ∧ Wrote _ (serveAt ..) _ _)
  rw [serveAt_good hs hclear hop hf hbus, hd]
  dsimp only
  rw [finishResult_good (by rw [length_queryRecord]; exact hdst)]
  have hw := served_waiting hs
  exact ends_wrote hw rfl (served_hostMem hs) ..

theorem timeQuery_good (hop : opcodeOf d = 0x32)
    (hf : (headerOk d false false && noFunc d && payloadOk d [(16, 8)] && addrOk (fld d 16 8) 8) = true)
    (hbus : s.busWait (fld d 16 8) = false)
    (hdst : State.dstOk { s with host := h } (fld d 16 8) (timeRecord { s with host := h }).length = true) :
    Does (.timeQuery q d) s [.rings, .pages, .taken, .hostMem, .reqs, .memc, .mem] fun t =>
      Ends s t q (endRec d idx 0x00 1 s.now) ∧ Wrote s t (fld d 16 8) (timeRecord { s with host := h }) := by
  refine (execTimeQuery_touch q d s).does (exec_timeQuery ..) (?_ : Ends _ (serveAt ..) _ _ ∧ Wrote _ (serveAt ..) _ _)
  rw [serveAt_good hs hclear hop hf hbus, finishResult_good hdst]
  have hw := served_waiting hs
  exact ends_wrote hw rfl (served_hostMem hs) ..

theorem paramRead_good {l : List Nat} (hl : readEntries d = some l) (hop : opcodeOf d = 0x03)
    (hf : (headerOk d false false && noFunc d && payloadOk d [(16, 24), (40, 8)] && addrOk (fld d 40 8) 4) = true)
    (hchk : ∀ p ∈ l, readCheck { s with host := h } p = 0x00) (hne : l ≠ []) (hbus : s.busWait (fld d 40 8) = false)
    (hroom : State.writable { s with host := h } (fld d 40 8) (4 * l.length) = 4 * l.length) :
    Does (.paramRead q d) s [.rings, .pages, .taken, .hostMem, .reqs, .memc, .mem, .free] fun t =>
      Ends s t q (endRec d idx 0x00 l.length s.now) ∧
      Wrote s t (fld d 40 8) (l.flatMap fun p => leBytes 4 (paramValue { s with host := h } (pidFunc p) (p % 2 ^ 24)).toNat) := by
  refine (execParamRead_touch q d s).does (exec_paramRead ..) (?_ : Ends _ (serveAt ..) _ _ ∧ Wrote _ (serveAt ..) _ _)
  rw [serveAt_good hs hclear hop (by simp_all) hbus, hl]
  dsimp only [Option.getD_some]
  rw [List.find?_eq_none.2 fun p hp => by rw [hchk p hp]; decide]
  dsimp only
  rw [if_neg (by simpa using hne), finishRecords_good (by decide) (by simp) (by rw [List.length_map]; exact hroom), List.length_map, ← List.flatMap_def]
  have hends := ends_wrote (t := State.freshen { s with host := h }) (served_waiting hs) rfl (served_hostMem hs)
  exact hends q _ _ _

theorem routeRead_good {keys : List Nat} (hop : opcodeOf d = 0x41) (hf : routeReadForm d = true) (hbus : s.busWait (fld d 16 8) = false)
    (hlife : s.life? .lovage ≠ .off) (hkeys : (if fld d 28 1 = 0 then [xpKey (fld d 24 2) (fld d 26 2)] else (s.lov.xp.filter fun e => e.2.active &&
      (if fld d 28 1 = 1 then e.1 / 2048 == fld d 24 2 else e.1 % 2048 == fld d 24 2)).map (·.1)) = keys) (hm : keys.length ≤ fld d 32 4)
    (hroom : State.writable { s with host := h } (fld d 16 8) (16 * keys.length) = 16 * keys.length) :
    Does (.routeRead q d) s [.rings, .pages, .taken, .hostMem, .reqs, .memc, .mem, .free] fun t =>
      Ends s t q (endRec d idx 0x00 keys.length s.now) ∧ Wrote s t (fld d 16 8) (keys.flatMap (routeRecord { s with host := h })) := by
  refine (execRouteRead_touch q d s).does (exec_routeRead ..) (?_ : Ends _ (serveAt ..) _ _ ∧ Wrote _ (serveAt ..) _ _)
  have hoff : ¬(State.life? { s with host := h } .lovage == .off) = true := fun e => hlife (beq_iff_eq.1 e)
  rw [serveAt_good hs hclear hop hf hbus, if_neg hoff]
  dsimp only
  rw [hkeys, if_neg (not_lt.2 hm), List.take_of_length_le hm,
    finishRecords_good (by decide) (by simp [length_routeRecord]) (by rw [List.length_map]; exact hroom), List.length_map, ← List.flatMap_def]
  have hends := ends_wrote (t := State.freshen { s with host := h }) (served_waiting hs) rfl (served_hostMem hs)
  exact hends q _ _ _

theorem logRead_good {l : List LogEntry} (hl : l = (s.log.entries.reverse.filter fun e =>
      decide ((e.seq - BitVec.ofNat 32 (fld d 24 4)).toNat < 2 ^ 31)).take (fld d 28 4)) (hop : opcodeOf d = 0x31)
    (hf : (headerOk d false false && noFunc d && payloadOk d [(16, 8), (24, 4), (28, 4)] && addrOk (fld d 16 8) 8) = true)
    (hbus : s.busWait (fld d 16 8) = false)
    (hgap : ∀ e, s.log.entries.head? = some e → 2 ^ 31 ≤ (BitVec.ofNat 32 (fld d 24 4) - (e.seq + 1)).toNat) (hne : s.log.entries ≠ [])
    (hroom : State.writable { s with host := h } (fld d 16 8) (32 * l.length) = 32 * l.length) :
    Does (.logRead q d) s [.rings, .pages, .taken, .hostMem, .reqs, .memc, .mem] fun t =>
      Ends s t q (endRec d idx 0x00 l.length s.now) ∧ Wrote s t (fld d 16 8) (l.flatMap (·.bytes)) := by
  refine (execLogRead_touch q d s).does (exec_logRead ..) (?_ : Ends _ (serveAt ..) _ _ ∧ Wrote _ (serveAt ..) _ _)
  rw [serveAt_good hs hclear hop hf hbus]
  dsimp only
  cases hlog : s.log.entries with
  | nil => exact absurd hlog hne
  | cons e r =>
    have hg := hgap e (by rw [hlog]; rfl)
    dsimp only
    rw [if_neg (by omega), if_neg (by omega), ← hlog, ← hl, finishRecords_good (by decide) (by simp [LogEntry.length_bytes])
      (by rw [List.length_map]; exact hroom), List.length_map, ← List.flatMap_def]
    have hw := served_waiting hs
    exact ends_wrote hw rfl (served_hostMem hs) ..

theorem statsRead_good {f : Func} (hop : opcodeOf d = 0x30)
    (hf : (headerOk d true false && payloadOk d [(16, 8), (24, 4)] && addrOk (fld d 16 8) 8 && funcOk d) = true)
    (hbus : s.busWait (fld d 16 8) = false) (hd : descFunc d = some f) (habs : s.absent f = false) (hsvc : f ≠ .service)
    (hroom : State.writable { s with host := h } (fld d 16 8) (8 * min (fld d 24 4) (statKeys s f).length) = 8 * min (fld d 24 4) (statKeys s f).length) :
    Does (.statsRead q d) s [.rings, .pages, .taken, .hostMem, .reqs, .memc, .mem, .svc, .cnt] fun t =>
      Ends s t q (endRec d idx 0x00 (min (fld d 24 4) (statKeys s f).length) s.now) ∧
      Wrote s t (fld d 16 8) (((statKeys s f).take (fld d 24 4)).flatMap fun k => leBytes 8 (s.count k.1 k.2)) ∧
      (optOf d = false → t.cnt = s.cnt) ∧ (optOf d = true → ∀ k ∈ statKeys s f, t.count k.1 k.2 = 0) := by
  refine (execStatsRead_touch q d s).does (exec_statsRead q d s) ?_
  rw [serveAt_good hs hclear hop hf hbus]
  unfold onFunction
  rw [hd]
  dsimp only
  have hpresent : State.absent { s with host := h } f = false := habs
  rw [hpresent, if_neg Bool.false_ne_true]
  unfold statValues
  rw [if_neg hsvc, ← List.map_take, List.map_map, List.flatMap_def]
  obtain ⟨c, hu, hkeep, hzero⟩ := statClear_cases (optOf d) hsvc { s with host := h }
  rw [hu, finishRecords_good (by decide) (fun r hr => by obtain ⟨k, -, rfl⟩ := List.mem_map.1 hr; exact length_leBytes ..)
    (by rw [List.length_map, List.length_take]; exact hroom), List.length_map, List.length_take]
  obtain ⟨hends, hwrote⟩ := ends_wrote (t := { s with host := h, cnt := c }) (served_waiting hs) rfl (served_hostMem hs) q
    (endRec d idx stOk (min (fld d 24 4) (statKeys s f).length) s.now) (fld d 16 8)
    (((statKeys s f).take (fld d 24 4)).map fun k => leBytes 8 (s.count k.1 k.2)).flatten
  have hcnt (a bs r) : State.cnt (State.addRec q r (State.writeAt a bs { s with host := h, cnt := c })) = c :=
    (State.addRec_touch ..).cnt_eq.trans (State.writeAt_touch ..).cnt_eq
  refine ⟨hends, hwrote, fun ho => (hcnt ..).trans (hkeep ho), fun ho k hk => ?_⟩
  exact (congrArg (fun c : CntSt => (c.vals.get? (cntKey k.1 k.2)).getD 0) (hcnt ..)).trans (hzero ho k hk)

end

/-- Settles O14: serving changes the host registers alone, and the body writes its result and adds its record. -/
theorem descriptorsAtOnce : Obligations.DescriptorsAtOnce := by
  intro s s1 q d idx hs hclear
  have heq := serving_host hs
  generalize s1.host = h at heq
  subst heq
  refine ⟨fun hop hf => nop_good hs hclear hop hf, fun hop hf => nop_bad hs hop hf,
    fun hop hf hbus hdst f hd => funcQuery_good hs hclear hop hf hbus hdst hd,
    fun hop hf hbus hdst => timeQuery_good hs hclear hop hf hbus hdst,
    fun l hl hop hf hchk hne hbus hroom => paramRead_good hs hclear hl hop hf hchk hne hbus hroom,
    fun hop hf hbus hlife hkind hm hroom => ?_, fun keys hkeys hop hf hbus hlife hkind hm hroom => ?_,
    fun f hop hf hbus hd habs hsvc hroom => statsRead_good hs hclear hop hf hbus hd habs hsvc hroom,
    fun l hl hop hf hbus hgap hne hroom => logRead_good hs hclear hl hop hf hbus hgap hne hroom⟩
  · obtain ⟨t, ht, hp, hsame, hends, hwrote⟩ := routeRead_good hs hclear hop hf hbus hlife (if_pos hkind) hm hroom
    exact ⟨t, ht, hp, hsame, hends, by simpa using hwrote⟩
  · exact routeRead_good hs hclear hop hf hbus hlife ((if_neg hkind).trans hkeys.symm) hm hroom

end Sys2Proof.Machine
end

section
/-! PROOFS. Descriptors that wait, O15. -/

namespace Sys2Proof.Machine

open Sys2Proof

set_option Elab.async false

/-- A PARAM_WRITE that sets Lovage's parameter 1 to 100. -/
def lovageWrite : Desc := BitVec.ofNat 512 (0x02 + 0x06000001 * 2 ^ (8 * 16) + 100 * 2 ^ (8 * 20))

/-- Lovage at work, a served PARAM_WRITE of its ring, and a waiting write that names a FENCE of the ring as its job. -/
def writeOfFence : State := State.setLife .lovage .running { State.reset with
  chip := { State.reset.chip with supply := .full, stage := 6 }
  host := { State.reset.host with taken := [(0, 0, lovageWrite)] }
  life := { State.reset.life with
    jobs := [{ uid := 1, ring := 0, desc := 0, op := 0x01 }]
    nextUid := 2
    writes := [{ job := 1, pid := 0, value := 0, after := 100 }] } }

theorem after_writeOfFence : (match exec (.paramWrite 0 lovageWrite) writeOfFence with
    | .next t => t.life.writes.map (·.after)
    | _ => []) = [100, 100] := by decide +kernel

/-- Refutes O15: a write falls in behind those of its ring whatever the jobs are that these belong to, and the statement excludes the
writing jobs alone; behind a waiting write of a FENCE the new one waits for tick 100, not for the token its island has had. -/
theorem not_descriptorsThatWait : ¬ Obligations.DescriptorsThatWait := by
  intro h
  obtain ⟨⟨idx, s1⟩, hs⟩ := Option.isSome_iff_exists.1 (by decide +kernel : (writeOfFence.serving 0 lovageWrite).isSome = true)
  have hs1 := serving_host hs
  generalize s1.host = k at hs1
  subst hs1
  obtain ⟨-, hwrite, -⟩ := h _ _ 0 lovageWrite idx hs (.inl (by decide))
  have hcheck : writesCheck { writeOfFence with host := k } [(0x06000001, 100)] = writesCheck writeOfFence [(0x06000001, 100)] := rfl
  obtain ⟨t, hexec, -, -, -, hwrites⟩ := hwrite [(0x06000001, 100)] (by decide +kernel) (by decide +kernel) (by decide +kernel)
    (hcheck.trans (by decide +kernel)) (by simp) (by decide +kernel) (by decide +kernel)
  have hafter := after_writeOfFence
  rw [hexec] at hafter
  have hmap := congrArg (List.map fun w : Word × Word × DWord => w.2.2) hwrites
  rw [List.map_map] at hmap
  exact absurd (hafter.symm.trans hmap) (by decide +kernel)

end Sys2Proof.Machine
end

section
/-! PROOFS. Effects that wait for their boundary, O16. -/

namespace Sys2Proof.Machine

open Sys2Proof

set_option Elab.async false

/-- A crosspoint parameter's write that waits for a token of a later tick. -/
def laterWrite : PWrite := { job := 2, pid := 0x06000001, value := 0, after := 50 }

/-- TIMEKEEPER at work before the boundary of tick 1, where a phase step of more than a tick is due. -/
def phaseStepDue : State := State.setLife .timekeeper .running { State.reset with
  chip := { State.reset.chip with supply := .full, stage := 6 }
  time := { State.reset.time with tick := 1 }
  life := { State.reset.life with writes := [{ job := 1, pid := 0x05000012, value := 100000 }, laterWrite] } }

theorem writes_phaseStepDue : (match exec (.paramWriteEffect .timekeeper) phaseStepDue with
    | .next t => t.life.writes == [laterWrite]
    | _ => true) = false := by decide +kernel

/-- Refutes O16: a phase step that is due loads the counter, and the load makes the writes that still wait await the load's token (R199). -/
theorem not_waitingEffects : ¬ Obligations.WaitingEffects := by
  intro h
  obtain ⟨-, hwrite, -⟩ := h phaseStepDue
  obtain ⟨htoken, -⟩ := hwrite .timekeeper
  obtain ⟨t, hexec, -, heffect⟩ := htoken 1 (by decide +kernel)
  obtain ⟨hwrites, -⟩ := heffect (by unfold State.noneDue; decide +kernel)
  have hstay : (opened (islandOf .timekeeper) 1 phaseStepDue).life.writes.filter
    (fun w => !w.due (opened (islandOf .timekeeper) 1 phaseStepDue) .timekeeper) = [laterWrite] := by decide +kernel
  have hval := writes_phaseStepDue
  rw [hexec] at hval
  have hkeep : (if t.now = 1 then t.onTime fun x => { x with tick := phaseStepDue.now } else t).life.writes = t.life.writes := by
    split <;> rfl
  dsimp only at hval
  rw [hkeep, hwrites, hstay] at hval
  exact absurd hval (by decide)

end Sys2Proof.Machine
end

section
/-! PROOFS. Enabling, disabling and draining a ring, O17. -/

namespace Sys2Proof.Machine

open Sys2Proof

set_option Elab.async false

/-! ENABLE. -/

theorem raise_fresh (b : Nat) (p : PageSt) : (p.raise b).fresh = p.fresh := by
  unfold PageSt.raise
  split <;> rfl

theorem touchPage_fresh (q : Fin 32) (s : State) : (s.touchPage q).host.hostPage.fresh = s.host.hostPage.fresh := by
  unfold State.touchPage
  cases s.pageOf q <;> rfl

theorem ringError_fresh (q : Fin 32) (e : BitVec 4) (s : State) :
    (ringError q e s).host.hostPage.fresh = s.host.hostPage.fresh :=
  (touchPage_fresh ..).trans (raise_fresh ..)

/-- An enabled ring before its sizes and page addresses are looked at. -/
def Ring.started (r : Ring) : Ring := { r with enable := true, seen := false, fetched := [], err := 0 }

theorem getLsbD_and_not_twoPow (w : Word) (q : Fin 32) : (w &&& ~~~(BitVec.ofNat 32 (2 ^ q.val))).getLsbD q.val = false := by
  rw [BitVec.getLsbD_and, BitVec.getLsbD_not, BitVec.getLsbD_ofNat, Nat.testBit_two_pow_self, decide_eq_true q.isLt]
  exact Bool.and_false _

section
variable {s : State} {q : Fin 32} (ht : s.tarrRing q = false)
include ht

/-- What ENABLE leaves of a host's ring. -/
theorem enableRing_spec : (enableRing q s).host.hostPage.fresh.getLsbD q.val = false ∧ (∀ p, p ≠ q → (enableRing q s).ring p = s.ring p) ∧
    (enableRing q s).ring q = if (!(sizeOk (s.ring q).sqLog && sizeOk (s.ring q).cqLog)) = true then { (s.ring q).started with err := 3 }
      else if s.host.dbAddr = 0 ∨ s.host.stAddr = 0 then { (s.ring q).started with err := 4 }
      else { (s.ring q).started with sqCi := 0, cqPi := 0, sqPi := 0, cqCi := 0 } := by
  have hpage : s.pageOf q = .host := by
    unfold State.pageOf
    rw [ht]
    rfl
  unfold enableRing
  rw [hpage]
  extract_lets r old s1
  have hfresh : s1.host.hostPage.fresh.getLsbD q.val = false := getLsbD_and_not_twoPow ..
  have hq : s1.ring q = (s.ring q).started := (onPage_ring ..).trans (State.ring_onRing ..)
  have hne (p : Fin 32) (hp : p ≠ q) : s1.ring p = s.ring p := (onPage_ring ..).trans (State.ring_onRing_ne _ _ hp)
  have herr (e : BitVec 4) : (ringError q e s1).host.hostPage.fresh.getLsbD q.val = false ∧
      (∀ p, p ≠ q → (ringError q e s1).ring p = s.ring p) ∧ (ringError q e s1).ring q = { (s.ring q).started with err := e } := by
    obtain ⟨h, hother⟩ := ringError_ring q e s1
    refine ⟨by rw [ringError_fresh]; exact hfresh, fun p hp => (hother p hp).trans (hne p hp), h.trans ?_⟩
    rw [hq]
    rfl
  by_cases hsize : (!(sizeOk (s.ring q).sqLog && sizeOk (s.ring q).cqLog)) = true
  · rw [if_pos hsize, if_pos hsize]
    exact herr 3
  · rw [if_neg hsize, if_neg hsize]
    by_cases haddr : s.host.dbAddr = 0 ∨ s.host.stAddr = 0
    · rw [if_pos haddr, if_pos (by rw [ht]; simpa using haddr)]
      exact herr 4
    · rw [if_neg haddr, if_neg (by rw [ht]; simpa using haddr)]
      refine ⟨by rw [touchPage_fresh]; exact hfresh, fun p hp => ?_, ?_⟩
      · rw [State.ring_touchPage, State.ring_onRing_ne _ _ hp, hne p hp]
      · rw [State.ring_touchPage, State.ring_onRing, hq]

end

theorem state_of_empty {r : Ring} (he : r.enable = true) (herr : r.err = 0) (hp : r.cqPi = 0) (hc : r.cqCi = 0) : r.state = 1 := by
  have hfull : r.full = false := by
    unfold Ring.full
    rw [hp, hc]
    exact decide_eq_false (by simp)
  unfold Ring.state
  rw [if_neg (by simp [herr]), he, hfull]
  rfl

/-! Clearing ENABLE: the ring's descriptors in progress that can end do. -/

theorem jobs_addRec (q : Fin 32) (r : Rec) (s : State) : (s.addRec q r).life.jobs = s.life.jobs := rfl

theorem jobs_endJob (j : Job) (st : Byte) (n : Nat) (u : Bool) (s : State) :
    (s.endJob j st n u).life.jobs = s.life.jobs.filter fun k => k.uid != j.uid := by
  have hnote : (noteProgress j n (s.dropJob j.uid)).life.jobs = s.life.jobs.filter fun k => k.uid != j.uid := by
    unfold noteProgress
    extract_lets a
    split <;> rfl
  unfold State.endJob
  extract_lets s1
  split
  · exact hnote
  · exact hnote

theorem mem_jobs_forAll {l : List Job} {g : Job → State → State} (hg : ∀ j s, (g j s).life.jobs = s.life.jobs.filter fun k => k.uid != j.uid)
    (k : Job) (s : State) : k ∈ (forAll l g s).life.jobs ↔ k ∈ s.life.jobs ∧ ∀ j ∈ l, k.uid ≠ j.uid := by
  induction l generalizing s with
  | nil => simp [forAll_nil]
  | cons j l ih =>
    rw [forAll_cons, ih, hg]
    simp [List.mem_filter, and_assoc]

/-- What adding records leaves of a ring. -/
def Ring.bare (r : Ring) : Ring := { r with waiting := [] }

theorem bare_addRec (q p : Fin 32) (r : Rec) (s : State) : ((s.addRec q r).ring p).bare = (s.ring p).bare := by
  rw [ring_addRec]
  split
  next h => rw [h]; rfl
  next => rfl

theorem bare_endJob (j : Job) (st : Byte) (n : Nat) (u : Bool) (p : Fin 32) (s : State) :
    ((s.endJob j st n u).ring p).bare = (s.ring p).bare := by
  have hnote : ((noteProgress j n (s.dropJob j.uid)).ring p).bare = (s.ring p).bare := by
    unfold noteProgress
    extract_lets a
    split <;> rfl
  unfold State.endJob
  extract_lets s1
  split
  · exact hnote
  · exact (bare_addRec ..).trans hnote

theorem bare_endAction (a : Action) (st : Byte) (n : Nat) (p : Fin 32) (s : State) :
    ((s.endAction a st n).ring p).bare = (s.ring p).bare := by
  unfold State.endAction
  extract_lets s1
  split
  · rfl
  · exact bare_addRec ..

theorem Touch.ring_eq {ps : List Part} {s t : State} (h : Touch ps s t) (q : Fin 32) (hp : ps.contains .rings = false := by rfl) :
    t.ring q = s.ring q := by
  unfold State.ring
  rw [h.rings_eq hp]

theorem drainRing_spec (q : Fin 32) (s : State) :
    ((drainRing q s).ring q).bare = { s.ring q with enable := false, draining := true, fetched := [], waiting := [] } ∧
    ∀ k, k ∈ (drainRing q s).life.jobs ↔ k ∈ s.life.jobs ∧ ∀ j ∈ s.life.jobs, (j.ring == q && !j.silent && stopsAt j) = true → k.uid ≠ j.uid := by
  unfold drainRing
  extract_lets s1 mine s2 s3 s4
  have h1 : (s1.ring q) = { s.ring q with enable := false, draining := true, fetched := [] } := State.ring_onRing q _ s
  have h2 : s2.ring q = s1.ring q := rfl
  have h3 : (s3.ring q).bare = (s2.ring q).bare :=
    forAll_keeps (fun s => (s.ring q).bare) (fun j _ s => (bare_endJob ..).trans (congrArg Ring.bare ((cutJob_touch true j s).ring_eq q))) s2
  have h4 : (s4.ring q).bare = (s3.ring q).bare := forAll_keeps (fun s => (s.ring q).bare) (fun e _ s => bare_addRec ..) s3
  have h5 : ((s4.endActions (fun a => a.ring == q && !a.silent && !a.applied && decide (s.now.toNat + 2 ≤ a.nT.toNat)) stAborted 0).ring q).bare =
      (s4.ring q).bare := forAll_keeps (fun s => (s.ring q).bare) (fun a _ s => bare_endAction ..) s4
  refine ⟨?_, fun k => ?_⟩
  · rw [h5, h4, h3, h2, h1]
    rfl
  · have hjobs : (s4.endActions (fun a => a.ring == q && !a.silent && !a.applied && decide (s.now.toNat + 2 ≤ a.nT.toNat)) stAborted 0).life.jobs =
        s3.life.jobs := (State.endActions_touch ..).jobs_eq.trans (forAll_keeps (l := mine) (fun s => s.life.jobs) (fun e _ s => (finish_touch ..).jobs_eq) s3)
    rw [hjobs]
    dsimp only [s3]
    rw [mem_jobs_forAll fun j s => (jobs_endJob ..).trans (by rw [(cutJob_touch true j s).jobs_eq])]
    simp only [List.mem_filter, and_imp]
    rfl

/-- Settles O17: what ENABLE, its clearing and the end of the draining leave of the ring. -/
theorem ringSwitching : Obligations.RingSwitching := by
  intro s q v hstage ht
  have hopen := blockOpen_of_stage hstage 2
  refine ⟨fun hv he hd => ?_, fun hv h => ?_, fun hv he hd => ?_, fun hd hdr => ?_, fun h => ?_⟩
  · have hgo : ¬(!s.blockOpen 2 || !bit v 0 || (s.ring q).enable || (s.ring q).draining || s.tarrRing q) = true := by
      rw [hopen, show bit v 0 = true from hv, he, hd, ht]
      decide
    refine (execRingEnable_touch q v s).does (exec_ringEnable q v s) ?_
    rw [if_neg hgo]
    obtain ⟨hfresh, hother, hring⟩ := enableRing_spec (q := q) (s := s.onRing q fun r => { r with
      irqAll := bit v 1, sqLog := v.extractLsb' 4 5, cqLog := v.extractLsb' 12 5, prio := v.extractLsb' 20 3
      vec := v.extractLsb' 24 5 }) ht
    rw [State.ring_onRing, show ∀ g, (State.onRing q g s).host.dbAddr = s.host.dbAddr from fun _ => rfl,
      show ∀ g, (State.onRing q g s).host.stAddr = s.host.stAddr from fun _ => rfl] at hring
    refine ⟨fun p hp => (hother p hp).trans (State.ring_onRing_ne _ s hp), ?_⟩
    rw [hring]
    by_cases hsize : (!(sizeOk (v.extractLsb' 4 5) && sizeOk (v.extractLsb' 12 5))) = true
    · rw [if_pos hsize]
      refine ⟨rfl, rfl, rfl, rfl, rfl, rfl, rfl, rfl, hfresh, fun _ => ⟨rfl, rfl⟩, fun hs hc => ?_⟩
      rw [hs, hc] at hsize
      exact absurd hsize (by decide)
    · rw [if_neg hsize]
      have hsq : sizeOk (v.extractLsb' 4 5) = false → False := fun h => hsize (by rw [h]; rfl)
      by_cases haddr : s.host.dbAddr = 0 ∨ s.host.stAddr = 0
      · rw [if_pos haddr]
        exact ⟨rfl, rfl, rfl, rfl, rfl, rfl, rfl, rfl, hfresh, fun h => (hsq h).elim, fun _ _ => ⟨fun _ => rfl,
          fun hdb hst => absurd haddr (by rintro (h | h); exacts [hdb h, hst h])⟩⟩
      · rw [if_neg haddr]
        exact ⟨rfl, rfl, rfl, rfl, rfl, rfl, rfl, rfl, hfresh, fun h => (hsq h).elim, fun _ _ => ⟨fun h => absurd h haddr,
          fun _ _ => ⟨rfl, rfl, rfl, state_of_empty rfl rfl rfl rfl⟩⟩⟩
  · have hgo : (!s.blockOpen 2 || !bit v 0 || (s.ring q).enable || (s.ring q).draining || s.tarrRing q) = true := by
      rcases h with h | h <;> simp [h]
    rw [exec_ringEnable]
    unfold execRingEnable
    exact congrArg Host.Outcome.next (if_pos hgo)
  · have hgo : ¬(!s.blockOpen 2 || bit v 0 || !(s.ring q).enable || (s.ring q).draining || s.tarrRing q) = true := by
      rw [hopen, show bit v 0 = false from hv, he, hd, ht]
      decide
    refine (execRingDisable_touch q v s).does (exec_ringDisable q v s) ?_
    rw [if_neg hgo]
    obtain ⟨hring, hjobs⟩ := drainRing_spec q s
    rw [State.ring_touchPage, (State.touchPage_touch ..).jobs_eq]
    refine ⟨congrArg Ring.enable hring, congrArg Ring.draining hring, congrArg Ring.fetched hring, (congrArg Ring.sqCi hring).trans rfl, fun j hj hq hs => ?_,
      fun j hj hq hone => (hjobs j).2 ⟨hj, fun k hk hcut he => ?_⟩⟩
    · obtain ⟨hin, hcut⟩ := (hjobs j).1 hj
      by_contra hstop
      exact hcut j hin (by simpa [hq, hs] using hstop) rfl
    · rw [hone k hk he.symm] at hcut
      simp [hq] at hcut
  · refine (execRingDrainComplete_touch q s).does (exec_ringDrainComplete q s) ?_
    unfold endDrain
    rw [if_pos (by rw [hd, hdr]; rfl)]
    exact ⟨State.ring_onRing .., fun p hp => State.ring_onRing_ne _ s hp⟩
  · rw [exec_ringDrainComplete]
    unfold execRingDrainComplete endDrain
    rw [if_neg (by rcases h with h | h <;> simp [h])]

end Sys2Proof.Machine
end

section
/-! PROOFS. Completion records and status pages, O19. -/

namespace Sys2Proof.Machine

open Sys2Proof

set_option Elab.async false

theorem mem_touchPage (q : Fin 32) (s : State) : (s.touchPage q).mem = s.mem ∧ (s.touchPage q).host.hostMem = s.host.hostMem ∧
    (s.touchPage q).host.toSignal = s.host.toSignal := by
  unfold State.touchPage
  cases s.pageOf q <;> exact ⟨rfl, rfl, rfl⟩

theorem getLsbD_or_twoPow (w : Word) {n : Nat} (hn : n < 32) : (w ||| BitVec.ofNat 32 (2 ^ n)).getLsbD n = true := by
  rw [BitVec.getLsbD_or, BitVec.getLsbD_ofNat, Nat.testBit_two_pow_self, decide_eq_true hn]
  exact Bool.or_true _

/-- The state in which the oldest record `w` of ring `q` has been written at its place and the ring counts it. -/
def State.recorded (q : Fin 32) (w : Rec) (s : State) : State :=
  let r := s.ring q
  let n := 2 ^ r.cqLog.toNat
  let k := r.cqPi.toNat
  ((s.writeAt (r.cqBase + BitVec.ofNat 64 (16 * (k % n))) (w.bytes (k / n % 2 == 0))).onRing q fun r => { r with
    waiting := (s.ring q).waiting.tail, cqPi := r.cqPi + 1, cqCi := if s.tarrRing q then r.cqPi + 1 else r.cqCi }).touchPage q

section
variable {s : State} {q : Fin 32} {r : Rec}

theorem recorded_ring (q : Fin 32) (r : Rec) (s : State) : (s.recorded q r).ring q = { s.ring q with
      waiting := (s.ring q).waiting.tail, cqPi := (s.ring q).cqPi + 1, cqCi := if s.tarrRing q then (s.ring q).cqPi + 1 else (s.ring q).cqCi } ∧
    ∀ p, p ≠ q → (s.recorded q r).ring p = s.ring p := by
  unfold State.recorded
  extract_lets g n k
  refine ⟨?_, fun p hp => ?_⟩
  · rw [State.ring_touchPage, State.ring_onRing, ring_writeAt]
  · rw [State.ring_touchPage, State.ring_onRing_ne _ _ hp, ring_writeAt]

theorem recorded_mem (q : Fin 32) (r : Rec) (s : State) :
    let n := 2 ^ (s.ring q).cqLog.toNat
    let k := (s.ring q).cqPi.toNat
    let w := s.writeAt ((s.ring q).cqBase + BitVec.ofNat 64 (16 * (k % n))) (r.bytes (k / n % 2 == 0))
    (s.recorded q r).mem = w.mem ∧ (s.recorded q r).host.hostMem = w.host.hostMem := by
  unfold State.recorded
  intro n k w
  obtain ⟨hm, hh, -⟩ := mem_touchPage q (w.onRing q fun r => { r with
    waiting := (s.ring q).waiting.tail, cqPi := r.cqPi + 1, cqCi := if s.tarrRing q then r.cqPi + 1 else r.cqCi })
  exact ⟨hm, hh⟩

/-- What the write of the oldest record leaves. -/
theorem writeRecord_open (hr : (s.ring q).waiting.head? = some r) (hwork : (s.ring q).enable = true ∨ (s.ring q).draining = true)
    (hfull : (s.ring q).full = false) (hrings : s.ringsWork = true) (hbus : s.busWait (s.ring q).cqBase.toNat = false)
    (hopen : s.periodOpen (s.pageOf q) = true) (hold : r.tick ≠ s.now ∨ s.openBefore q r.idx = false) :
    writeRecord q s = if s.tarrRing q then (s.recorded q r).write (tarrDoorbell + 4 + 8 * q.val) (leBytes 4 ((s.ring q).cqPi.toNat + 1))
      else if r.irq || (s.ring q).irqAll then (s.recorded q r).onHost fun h => { h with toSignal := h.toSignal ||| BitVec.ofNat 32 (2 ^ (s.ring q).vec.toNat) }
      else s.recorded q r := by
  unfold writeRecord State.recorded
  obtain ⟨l, hl⟩ : ∃ l, (s.ring q).waiting = r :: l := List.head?_eq_some_iff.1 hr
  have hgo : ¬(!((s.ring q).enable || (s.ring q).draining) || (s.ring q).full || !s.ringsWork || s.busWait (s.ring q).cqBase.toNat ||
      !s.periodOpen (s.pageOf q) || r.tick == s.now && s.openBefore q r.idx) = true := by
    have hbusy : ((s.ring q).enable || (s.ring q).draining) = true := by rcases hwork with h | h <;> simp [h]
    have hlast : (r.tick == s.now && s.openBefore q r.idx) = false := by rcases hold with h | h <;> simp [h]
    rw [hbusy, hfull, hrings, hbus, hopen, hlast]
    decide
  dsimp only
  rw [hl]
  dsimp only
  rw [if_neg hgo]
  rfl

theorem completionRecordWrite_noop (h : (s.ring q).full = true ∨ s.periodOpen (s.pageOf q) = false) :
    exec (.completionRecordWrite q) s = .next s := by
  rw [exec_completionRecordWrite]
  unfold execCompletionRecordWrite writeRecord
  dsimp only
  cases hl : (s.ring q).waiting with
  | nil => rfl
  | cons w l =>
    dsimp only
    rw [if_pos (by rcases h with h | h <;> simp [h])]

/-! Status pages. -/

theorem forAll_congr_id {α : Type} {g : α → State → State} (l : List α) (hg : ∀ a ∈ l, g a s = s) : forAll l g s = s := by
  induction l with
  | nil => rfl
  | cons a l ih => rw [forAll_cons, hg a (by simp), ih fun b hb => hg b (by simp [hb])]

theorem writeLast_none {p : PageSet} (h : ∀ e ∈ s.host.progress, s.pageOf e.1 ≠ p) : writeLast p s = s := by
  have hgo (e) (he : e ∈ s.host.progress) : ¬(s.pageOf e.1 == p && !s.busWait e.2.1.toNat) = true := by simp [h e he]
  have hstay : (s.host.progress.filter fun e => !(s.pageOf e.1 == p && !s.busWait e.2.1.toNat)) = s.host.progress :=
    List.filter_eq_self.2 fun e he => by rw [Bool.eq_false_of_not_eq_true (hgo e he)]; rfl
  unfold writeLast
  extract_lets go
  rw [List.filter_eq_nil_iff.2 hgo, forAll_nil]
  unfold State.onHost
  dsimp only [go]
  rw [hstay]

/-- With no run in progress and no last count on its rings a page is written alone. -/
theorem writePage_alone {p : PageSet} (hj : ∀ j ∈ s.life.jobs, s.pageOf j.ring ≠ p) (he : ∀ e ∈ s.host.progress, s.pageOf e.1 ≠ p) :
    writePage p s = if !(s.page p).dirty || !(s.page p).due || !s.ringsWork then s
      else match p with
        | .host =>
          if s.host.stAddr = 0 || s.busWait s.host.stAddr.toNat then s
          else signal ((s.writeAt s.host.stAddr (s.pageBytes .host)).onPage .host fun g => { g with dirty := false, due := false })
        | .tarragon =>
          if !s.svc.hostless || s.busWait (2 ^ 63 + tarrStatus) then s
          else (s.write tarrStatus (s.pageBytes .tarragon)).onPage .tarragon fun g => { g with dirty := false, due := false } := by
  have hs1 : (if s.ringsWork && s.periodOpen p then
      forAll (s.life.jobs.filter fun j => s.pageOf j.ring == p) writeProgress (writeLast p s) else s) = s := by
    rw [List.filter_eq_nil_iff.2 fun j h => by simp [hj j h], writeLast_none he]
    split <;> rfl
  unfold writePage
  dsimp only
  rw [hs1]
  cases p <;> rfl

/-! Messages (R119, R123). -/

theorem writeAt_host (a : DWord) (bs : List Byte) (s : State) : (s.writeAt a bs).host = { s.host with hostMem := (s.writeAt a bs).host.hostMem } := by
  unfold State.writeAt
  split <;> rfl

theorem or_and_self_of_or (x y m : Word) : (x ||| (y ||| m)) &&& y = y := by
  ext i hi
  simp only [BitVec.getElem_and, BitVec.getElem_or]
  cases y[i] <;> simp

/-- The vectors of the messages that leave with a page. -/
def HostSt.toSend (h : HostSt) : Word := if h.hostPage.rose then h.toSignal ||| BitVec.ofNat 32 (2 ^ h.eventVec.toNat) else h.toSignal

theorem toSend_and (h : HostSt) (x : Word) : (x ||| h.toSend) &&& h.toSignal = h.toSignal := by
  unfold HostSt.toSend
  split
  · exact or_and_self_of_or ..
  · simpa using or_and_self_of_or x h.toSignal 0

theorem signal_off (h : s.host.msixEnable = false) : (signal s).host.msixSent = 0 ∧ (signal s).host.msixPend &&& s.host.toSignal = s.host.toSignal := by
  have hsent : (signal s).host.msixSent = 0 := if_neg (by simp [h])
  have hpend : (signal s).host.msixPend = (s.host.msixPend ||| s.host.toSend) &&& ~~~(signal s).host.msixSent := rfl
  refine ⟨hsent, ?_⟩
  rw [hpend, hsent, show ~~~(0 : Word) = BitVec.allOnes 32 from rfl, BitVec.and_allOnes]
  exact toSend_and ..

theorem signal_on (h : s.host.msixEnable = true) (hb : s.host.bme = true) : (signal s).host.msixSent &&& s.host.msixMask = 0 ∧
    s.host.toSignal &&& ~~~s.host.msixMask &&& ~~~(signal s).host.msixSent = 0 := by
  have hsent : (signal s).host.msixSent = (s.host.msixPend ||| s.host.toSend) &&& ~~~s.host.msixMask := if_pos (by simp [h, hb])
  have hin := toSend_and s.host s.host.msixPend
  rw [hsent]
  generalize s.host.msixPend ||| s.host.toSend = v at hin
  rw [← hin]
  constructor
  · ext i hi
    simp only [BitVec.getElem_and, BitVec.getElem_not]
    cases s.host.msixMask[i] <;> simp
  · ext i hi
    simp only [BitVec.getElem_and, BitVec.getElem_not]
    cases v[i] <;> cases s.host.msixMask[i] <;> simp

end

/-- Settles O19: the oldest record and the page are written where they stand, and the messages leave. -/
theorem completionRing : Obligations.CompletionRing := by
  intro s
  refine ⟨fun q r hr hwork hfull hrings hbus hopen hold => ⟨fun ht => ?_, fun ht => ?_⟩, fun q h => completionRecordWrite_noop h,
    fun hj he => ⟨fun hdirty hdue hrings hst hbus => ?_, fun h => ?_⟩, fun hj he hdirty hdue hrings hless hbus => ?_⟩
  · refine (execCompletionRecordWrite_touch q s).does (exec_completionRecordWrite q s) ?_
    rw [writeRecord_open hr hwork hfull hrings hbus hopen hold, if_neg (by rw [ht]; exact Bool.false_ne_true)]
    obtain ⟨hq, hne⟩ := recorded_ring q r s
    obtain ⟨hm, hh⟩ := recorded_mem q r s
    rw [ht] at hq
    by_cases hirq : (r.irq || (s.ring q).irqAll) = true
    · rw [if_pos hirq]
      exact ⟨hq, hne, ⟨hm, hh⟩, fun _ => getLsbD_or_twoPow _ (s.ring q).vec.isLt⟩
    · rw [if_neg hirq]
      exact ⟨hq, hne, ⟨hm, hh⟩, fun h => absurd h (by simpa using hirq)⟩
  · refine Touch.does (?_ : Touch _ s (writeRecord q s)) (exec_completionRecordWrite q s) ?_
    all_goals rw [writeRecord_open hr hwork hfull hrings hbus hopen hold, if_pos ht]
    · refine (State.write_touch ..).after ((State.touchPage_touch ..).after ((State.onRing_touch ..).after ((State.writeAt_touch ..).after (Touch.refl _ _) rfl) rfl) rfl) rfl
    · obtain ⟨hq, hne⟩ := recorded_ring q r s
      rw [ht] at hq
      exact ⟨congrArg Ring.waiting hq, congrArg Ring.cqPi hq, congrArg Ring.cqCi hq, hne⟩
  · refine Touch.does (?_ : Touch _ s (writePage .host s)) (exec_statusPageWrite .host s) ?_
    all_goals rw [writePage_alone hj he, if_neg (by simp [State.page, hdirty, hdue, hrings])]
    all_goals dsimp only
    all_goals rw [if_neg (by rw [decide_eq_false hst, hbus]; exact Bool.false_ne_true)]
    · exact (signal_touch ..).after ((State.onPage_touch ..).after ((State.writeAt_touch ..).after (Touch.refl _ _) rfl) rfl) rfl
    · have hhost := writeAt_host s.host.stAddr (s.pageBytes .host) s
      generalize s.writeAt s.host.stAddr (s.pageBytes .host) = w at hhost
      have hpage : w.host.hostPage = s.host.hostPage := (congrArg HostSt.hostPage hhost).trans rfl
      have hon : (w.onPage .host fun g => { g with dirty := false, due := false }).host.msixEnable = s.host.msixEnable := (congrArg HostSt.msixEnable hhost).trans rfl
      have hbme : (w.onPage .host fun g => { g with dirty := false, due := false }).host.bme = s.host.bme := (congrArg HostSt.bme hhost).trans rfl
      have hmask : (w.onPage .host fun g => { g with dirty := false, due := false }).host.msixMask = s.host.msixMask := (congrArg HostSt.msixMask hhost).trans rfl
      have hsig : (w.onPage .host fun g => { g with dirty := false, due := false }).host.toSignal = s.host.toSignal := (congrArg HostSt.toSignal hhost).trans rfl
      refine ⟨?_, rfl, rfl, (congrArg HostSt.rings hhost).trans rfl, rfl, fun h => ?_, fun h hb => ?_⟩
      · rw [← hpage]
        rfl
      · rw [← hsig]
        exact signal_off (hon.trans h)
      · rw [← hsig, ← hmask]
        exact signal_on (hon.trans h) (hbme.trans hb)
  · rw [exec_statusPageWrite]
    unfold execStatusPageWrite
    rw [writePage_alone hj he, if_pos (by rcases h with h | h <;> simp [State.page, h])]
  · refine Touch.does (?_ : Touch _ s (writePage .tarragon s)) (exec_statusPageWrite .tarragon s) ?_
    all_goals rw [writePage_alone hj he, if_neg (by simp [State.page, hdirty, hdue, hrings])]
    all_goals dsimp only
    all_goals rw [if_neg (by rw [hless, hbus]; decide)]
    · exact (State.onPage_touch ..).after ((State.write_touch ..).after (Touch.refl _ _) rfl) rfl
    · exact ⟨rfl, rfl, rfl⟩

end Sys2Proof.Machine
end

section
/-! PROOFS. FUNC_CONFIG as it is taken, O20. -/

namespace Sys2Proof.Machine

open Sys2Proof

set_option Elab.async false

/-! A descriptor of a function that there is. -/

theorem onFunction_present {s : State} {f : Func} {q : Fin 32} {d : Desc} {idx : Word} {body : Func → State → State}
    (hd : descFunc d = some f) (habs : s.absent f = false) : onFunction q d idx body s = body f s := by
  unfold onFunction
  rw [hd]
  dsimp only
  rw [if_neg (by rw [habs]; exact Bool.false_ne_true)]

/-- Whether a descriptor ends with the record `r` of ring `q`, seen from the state `s1` in which it has been served. -/
theorem ends_served {s s1 : State} {q : Fin 32} {d : Desc} {idx : Word} (hs : s.serving q d = some (idx, s1)) {status : Byte} {done : Nat}
    (h : status.toNat < 2 ∨ done = 0) : Ends s (finish q d idx status done s1) q (endRec d idx status done s.now) :=
  ends_finish (serving_waiting hs) (State.serving_touch hs).now_eq q d idx h

theorem finish_served_touch {s s1 : State} {q : Fin 32} {d : Desc} {idx : Word} (hs : s.serving q d = some (idx, s1)) (status : Byte) (done : Nat) :
    Touch [.rings, .pages, .taken, .reqs] s (finish q d idx status done s1) :=
  (finish_touch ..).after ((State.serving_touch hs).after (Touch.refl _ _) rfl) rfl

theorem mem_insertRec (r : Rec) (l : List Rec) : r ∈ insertRec r l := by
  induction l with
  | nil => simp [insertRec]
  | cons w l ih =>
    unfold insertRec
    split
    · exact List.mem_cons_self
    · exact List.mem_cons_of_mem _ ih

theorem mem_waiting_addRec (q : Fin 32) (r : Rec) (s : State) : r ∈ ((s.addRec q r).ring q).waiting := by
  rw [ring_addRec, if_pos rfl]
  exact mem_insertRec ..

/-- The end of a job that counts no progress: its record is formed on its ring. -/
theorem endJob_record {j : Job} {q : Fin 32} {d : Desc} {idx : Word} (hj : j.ring = q ∧ j.idx = idx ∧ j.desc = d ∧ j.silent = false)
    (hop : (j.op == 0x21 || j.op == 0x22) = false) {st : Byte} {n : Nat} (h : st.toNat < 2 ∨ n = 0) (s : State) :
    s.endJob j st n false = (s.dropJob j.uid).addRec q (endRec d idx st n s.now) := by
  obtain ⟨rfl, rfl, rfl, hs⟩ := hj
  unfold State.endJob noteProgress
  extract_lets a s1
  have hs1 : s1 = s.dropJob j.uid := if_neg (by rw [hop]; simp)
  rw [if_neg (by rw [hs]; exact Bool.false_ne_true), hs1, mkRec_endRec _ _ h]

theorem begins_addJob {q : Fin 32} {d : Desc} {idx : Word} {j : Job} (s : State) (h : j.ring = q ∧ j.idx = idx ∧ j.desc = d ∧
    j.uid = s.life.nextUid ∧ j.silent = false) : Begins s (addJob j s) q d idx :=
  ⟨⟨j, rfl, h⟩, rfl⟩

theorem begins_congr {s t u : State} {q : Fin 32} {d : Desc} {idx : Word} (h : Begins s t q d idx) (hj : u.life.jobs = t.life.jobs)
    (hr : u.host.rings = t.host.rings) : Begins s u q d idx := by
  obtain ⟨⟨j, hjobs, hrest⟩, hrings⟩ := h
  exact ⟨⟨j, hj.trans hjobs, hrest⟩, hr.trans hrings⟩

theorem wakeHv_on (s : State) : (wakeHv s).chip.waking = true ∨ (wakeHv s).chip.awake = true := by
  unfold wakeHv
  split
  next h => exact (Bool.or_eq_true_iff.1 h).symm
  next =>
    extract_lets s1
    split
    · exact .inl (congrArg Chip.waking ((State.raise_touch ..).chip_eq.trans (State.logEntry_touch ..).chip_eq))
    · exact .inl rfl

section
variable {s : State} {g : HostSt} {q : Fin 32} {d : Desc} {idx : Word} (hs : s.serving q d = some (idx, { s with host := g }))
  (hclear : s.svc.hostless = false ∨ s.tarrRing q = true ∨ clearOfStaging d = true)
  (hop : opcodeOf d = 0x11) (hf : configForm d = true) (hbus : s.busWait (fld d 16 8) = false) {f : Func} (hd : descFunc d = some f)
  (habs : s.absent f = false)
include hs hclear hop hf hbus hd habs

theorem funcConfig_served (h : HostRead) : exec (.funcConfig q d h) s = .next (
    if f == .pathA || f == .pathB then finish q d idx stBadDesc 0 { s with host := g }
    else if f == .service || f == .memctl || !(s.life? f == .off || s.life? f == .stopped) then
      finish q d idx stBadState 0 { s with host := g }
    else match readSource { s with host := g } (fld d 16 8) (fld d 24 4) h with
      | .error e => finish q d idx e 0 (noteRead (fld d 16 8) e { s with host := g })
      | .ok l => takeBlock f l q d idx { s with host := g }) := by
  rw [exec_funcConfig]
  unfold execFuncConfig
  have hpresent : State.absent { s with host := g } f = false := habs
  rw [serveAt_good hs hclear hop hf hbus, onFunction_present hd hpresent]
  rfl

/-- The block has been read: it is taken. -/
theorem funcConfig_read (hA : f ≠ .pathA) (hB : f ≠ .pathB) (hS : f ≠ .service) (hM : f ≠ .memctl)
    (hlife : s.life? f = .off ∨ s.life? f = .stopped) {h : HostRead} {b : List Byte}
    (hr : (readSource { s with host := g } (fld d 16 8) (fld d 24 4) h).toOption = some b) :
    exec (.funcConfig q d h) s = .next (takeBlock f b q d idx { s with host := g }) := by
  rw [funcConfig_served hs hclear hop hf hbus hd habs h, if_neg (by simp [hA, hB]), if_neg (by rcases hlife with h | h <;> simp [hS, hM, h])]
  cases hrd : readSource { s with host := g } (fld d 16 8) (fld d 24 4) h with
  | error e => rw [hrd] at hr; cases hr
  | ok l =>
    rw [hrd] at hr
    cases hr
    rfl

end

/-- A block that fits comes into force at once in STOPPED. -/
theorem judgeBlock_good {f : Func} {l : List Byte} {j : Job} {s : State} (hok : blockOk s f l = true) (hlife : s.life? f = .stopped) :
    judgeBlock f l j s = (acceptBlock f l s).endJob j stOk 1 false := by
  unfold judgeBlock
  rw [if_pos hok, if_neg (by rw [hlife]; decide)]

theorem acceptBlock_func (f : Func) (l : List Byte) (s : State) :
    (acceptBlock f l s).func f = { s.func f with config := some l, configGen := (s.func f).configGen + 1 } ∧
    ∀ k, k ≠ f → (acceptBlock f l s).func k = s.func k := by
  unfold acceptBlock
  refine ⟨((blockEffect_touch ..).func_eq f).trans (State.func_onFunc ..), fun k hk => ((blockEffect_touch ..).func_eq k).trans (State.func_onFunc_of_ne _ s hk)⟩

section
variable {s : State} {g : HostSt} {q : Fin 32} {d : Desc} {idx : Word} (hs : s.serving q d = some (idx, { s with host := g }))
include hs

theorem served_touch : Touch [.rings, .pages, .taken] s { s with host := g } := State.serving_touch hs

theorem takeBlock_stopped_good {f : Func} {b : List Byte} (hop : opcodeOf d = 0x11) (hlife : s.life? f = .stopped)
    (hok : blockOk { s with host := g } f b = true) : ∃ t, takeBlock f b q d idx { s with host := g } = t ∧
      Touch [.funcs, .jobs, .rings, .pages, .taken, .link, .reqs, .strm, .lov, .pwr] s t ∧
      (t.func f).config = some b ∧ (t.func f).configGen = (s.func f).configGen + 1 ∧ t.life? f = .stopped ∧
      (∀ k : Func, k ≠ f → t.func k = s.func k) ∧ endRec d idx 0x00 1 s.now ∈ (t.ring q).waiting := by
  let j : Job := newJob q d idx { s with host := g }
  let s1 := addJob { j with data := b, phase := 1 } { s with host := g }
  have hlife' : (State.life? { s with host := g } f == .stopped) = true := beq_iff_eq.2 hlife
  obtain ⟨hfunc, hother⟩ := acceptBlock_func f b s1
  have htouch := acceptBlock_touch f b s1
  have hnow : (acceptBlock f b s1).now = s.now := htouch.now_eq
  refine ⟨((acceptBlock f b s1).dropJob j.uid).addRec q (endRec d idx stOk 1 s.now), ?_, ?_, ?_⟩
  · unfold takeBlock
    rw [← hnow]
    exact (if_pos hlife').trans ((judgeBlock_good (s := s1) hok hlife).trans
      (endJob_record ⟨rfl, rfl, rfl, rfl⟩ (by simp [newJob, hop]) (.inl (by decide)) _))
  · exact (State.addRec_touch ..).after ((State.dropJob_touch ..).after (htouch.after ((addJob_touch ..).after ((served_touch hs).after
      (Touch.refl _ _) rfl) rfl) rfl) rfl) rfl
  · generalize acceptBlock f b s1 = u at hfunc hother
    exact ⟨(congrArg FuncRec.config hfunc).trans rfl, (congrArg FuncRec.configGen hfunc).trans rfl, (congrArg FuncRec.state hfunc).trans hlife,
      hother, mem_waiting_addRec ..⟩

theorem takeBlock_stopped_bad {f : Func} {b : List Byte} (hop : opcodeOf d = 0x11) (hlife : s.life? f = .stopped)
    (hok : blockOk { s with host := g } f b = false) :
    Touch [.jobs, .rings, .pages, .taken, .reqs] s (takeBlock f b q d idx { s with host := g }) ∧
    endRec d idx 0x05 0 s.now ∈ ((takeBlock f b q d idx { s with host := g }).ring q).waiting := by
  unfold takeBlock
  extract_lets j s1
  have hok' : ¬blockOk s1 f b = true := fun h => Bool.false_ne_true (hok.symm.trans h)
  have hlife' : (State.life? { s with host := g } f == .stopped) = true := beq_iff_eq.2 hlife
  rw [if_pos hlife']
  unfold judgeBlock
  rw [if_neg hok', endJob_record ⟨rfl, rfl, rfl, rfl⟩ (by simp [j, newJob, hop]) (.inr rfl)]
  exact ⟨(State.addRec_touch ..).after ((State.dropJob_touch ..).after ((addJob_touch ..).after ((served_touch hs).after
    (Touch.refl _ _) rfl) rfl) rfl) rfl, mem_waiting_addRec ..⟩

omit hs in
theorem takeBlock_off {f : Func} (b : List Byte) (hlife : s.life? f = .off) : ∃ j : Job, Begins { s with host := g } (addJob j { s with host := g }) q d idx ∧
    takeBlock f b q d idx { s with host := g } = if f.hv then wakeHv (addJob j { s with host := g }) else addJob j { s with host := g } := by
  have hlife' : ¬(State.life? { s with host := g } f == .stopped) = true := by
    rw [show State.life? { s with host := g } f = .off from hlife]
    decide
  exact ⟨{ newJob q d idx { s with host := g } with data := b, phase := 1 }, begins_addJob _ ⟨rfl, rfl, rfl, rfl, rfl⟩, if_neg hlife'⟩

end

/-- Settles O20: the block is taken at once in STOPPED and waits for power in OFF; elsewhere, and for the paths, it is refused. -/
theorem functionConfig : Obligations.FunctionConfig := by
  intro s s1 q d idx hs hclear hop hf hbus f hd habs
  have heq := serving_host hs
  generalize s1.host = g at heq
  subst heq
  have hexec := funcConfig_served hs hclear hop hf hbus hd habs
  refine ⟨fun hpath h => ?_, fun hA hB hS hM => ⟨fun hoff hstop h => ?_, fun h b hr => ⟨fun hlife hok => ?_, fun hlife hok => ?_, fun hlife hhv => ?_,
    fun hlife hhv => ?_⟩, fun hmod hlife => ?_⟩⟩
  · refine (finish_served_touch hs stBadDesc 0).does ((hexec h).trans ?_) (ends_served hs (.inr rfl))
    rw [if_pos (by simpa using hpath)]
  · refine (finish_served_touch hs stBadState 0).does ((hexec h).trans ?_) (ends_served hs (.inr rfl))
    rw [if_neg (by simp [hA, hB]), if_pos (by simp [hoff, hstop])]
  · obtain ⟨t, htake, htouch, hP⟩ := takeBlock_stopped_good hs hop hlife hok
    exact htouch.does ((funcConfig_read hs hclear hop hf hbus hd habs hA hB hS hM (.inr hlife) hr).trans (congrArg Host.Outcome.next htake)) hP
  · obtain ⟨htouch, hP⟩ := takeBlock_stopped_bad hs hop hlife hok
    exact htouch.does (funcConfig_read hs hclear hop hf hbus hd habs hA hB hS hM (.inr hlife) hr) hP
  · obtain ⟨j, hbegins, htake⟩ := takeBlock_off (g := g) (q := q) (d := d) (idx := idx) b hlife
    rw [hhv] at htake
    refine Touch.does ((addJob_touch j _).after ((served_touch hs).after (Touch.refl _ _) rfl) rfl)
      ((funcConfig_read hs hclear hop hf hbus hd habs hA hB hS hM (.inl hlife) hr).trans (congrArg Host.Outcome.next htake)) ⟨hbegins, hlife⟩
  · obtain ⟨j, hbegins, htake⟩ := takeBlock_off (g := g) (q := q) (d := d) (idx := idx) b hlife
    rw [hhv] at htake
    have hwake := wakeHv_touch (addJob j { s with host := g })
    refine Touch.does (hwake.after ((addJob_touch j _).after ((served_touch hs).after (Touch.refl _ _) rfl) rfl) rfl)
      ((funcConfig_read hs hclear hop hf hbus hd habs hA hB hS hM (.inl hlife) hr).trans (congrArg Host.Outcome.next htake))
      ⟨begins_congr hbegins hwake.jobs_eq hwake.rings_eq, (hwake.life?_eq f).trans hlife, wakeHv_on _⟩
  · have hread : readSource { s with host := g } (fld d 16 8) (fld d 24 4) .failed = .error stHostError := if_neg (by simp [hmod])
    refine Touch.does (t := finish q d idx stHostError 0 (noteRead (fld d 16 8) stHostError { s with host := g }))
      ((finish_touch ..).after ((noteRead_touch ..).after ((served_touch hs).after (Touch.refl _ _) rfl) rfl) rfl) ((hexec .failed).trans ?_) ⟨?_, ?_⟩
    · rw [if_neg (by simp [hA, hB]), if_neg (by simp [hS, hM, hlife]), hread]
    · exact ends_finish (fun p => serving_waiting hs p) rfl q d idx (.inr rfl)
    · exact congrArg satInc ((congrArg HostSt.hostErrCount (served_touch hs).link_eq).trans rfl)

end Sys2Proof.Machine
end

section
/-! PROOFS. FUNC_START and FUNC_STOP as they are taken, O21. -/

namespace Sys2Proof.Machine

open Sys2Proof

set_option Elab.async false

theorem lastTok_congr {s t : State} (h : t.time = s.time) (i : Island) : t.lastTok i = s.lastTok i := by
  unfold State.lastTok State.begun State.copy
  rw [h]

theorem noteStart_ok_touch (f : Func) (s : State) : Touch [.cores] s (noteStart f stOk s) := by
  cases f with
  | sc n => exact Touch.ite (Touch.refl _ _) (Touch.onCore (Touch.refl _ _) rfl)
  | lovage => exact Touch.refl _ _
  | _ => exact Touch.refl _ _

theorem askStart_func (f : Func) (s : State) :
    (askStart f s).func f = { s.func f with startReq := true, startAfter := s.lastTok (islandOf f) } ∧ ∀ k, k ≠ f → (askStart f s).func k = s.func k :=
  ⟨State.func_onFunc .., fun _ hk => State.func_onFunc_of_ne _ s hk⟩

theorem askStop_func (f : Func) (off : Bool) (s : State) :
    (askStop f off s).func f = { s.func f with stopReq := true, offReq := (s.func f).offReq || off, stopAfter := s.lastTok (islandOf f) } ∧
    ∀ k, k ≠ f → (askStop f off s).func k = s.func k :=
  ⟨State.func_onFunc .., fun _ hk => State.func_onFunc_of_ne _ s hk⟩

theorem defer_begins (q : Fin 32) (d : Desc) (idx : Word) (s : State) : Begins s (defer q d idx s) q d idx :=
  begins_addJob s ⟨rfl, rfl, rfl, rfl, rfl⟩

section
variable {s : State} {g : HostSt} {q : Fin 32} {d : Desc} {idx : Word} (hs : s.serving q d = some (idx, { s with host := g }))
  (hclear : s.svc.hostless = false ∨ s.tarrRing q = true ∨ clearOfStaging d = true) (hpay : payloadOk d [] = true)
  {f : Func} (hd : descFunc d = some f) (habs : s.absent f = false)
include hs

theorem defer_served_touch : Touch [.jobs, .rings, .pages, .taken] s (defer q d idx { s with host := g }) :=
  (defer_touch ..).after ((served_touch hs).after (Touch.refl _ _) rfl) rfl

include hclear hpay hd habs

theorem funcStart_served (hop : opcodeOf d = 0x12) (hf : (headerOk d false false && funcOk d) = true) : exec (.funcStart q d) s = .next (
    match s.life? f with
    | .off => finish q d idx stBadState 0 { s with host := g }
    | .stopping => finish q d idx stBadState 0 { s with host := g }
    | .running => finish q d idx stOk 1 { s with host := g }
    | .starting => defer q d idx { s with host := g }
    | _ =>
      if (s.func f).startReq then defer q d idx { s with host := g }
      else
        let st := startCheck f { s with host := g }
        let s1 := noteStart f st { s with host := g }
        if st ≠ stOk then finish q d idx st 0 s1
        else
          let s2 := askStart f (defer q d idx s1)
          if f.hv then wakeHv s2 else s2) := by
  rw [exec_funcStart]
  unfold execFuncStart
  have hpresent : State.absent { s with host := g } f = false := habs
  rw [serve_good hs hclear hop (by rw [Bool.and_right_comm, hf, hpay]; rfl), onFunction_present hd hpresent]
  rfl

theorem funcStop_served (hop : opcodeOf d = 0x10) (hf : (headerOk d true false && funcOk d) = true) : exec (.funcStop q d) s = .next (
    if f == .service || f == .memctl || s.sageHeld f then finish q d idx stBadState 0 { s with host := g }
    else match s.life? f with
      | .off => if optOf d then finish q d idx stOk 1 { s with host := g }
        else if f.hv then wakeHv (askStop f (optOf d) (defer q d idx { s with host := g })) else askStop f (optOf d) (defer q d idx { s with host := g })
      | .stopped => if optOf d then askStop f (optOf d) (defer q d idx { s with host := g }) else finish q d idx stOk 1 { s with host := g }
      | .stopping => (defer q d idx { s with host := g }).onFunc f fun r => { r with offReq := r.offReq || optOf d }
      | _ => askStop f (optOf d) (defer q d idx { s with host := g })) := by
  rw [exec_funcStop]
  unfold execFuncStop
  have hpresent : State.absent { s with host := g } f = false := habs
  rw [serve_good hs hclear hop (by rw [Bool.and_right_comm, hf, hpay]; rfl), onFunction_present hd hpresent]
  rfl

/-- A start in STOPPED or FAULTED whose checks pass is asked for. -/
theorem funcStart_asked (hop : opcodeOf d = 0x12) (hf : (headerOk d false false && funcOk d) = true)
    (hlife : s.life? f = .stopped ∨ s.life? f = .faulted) (hreq : (s.func f).startReq = false) (hok : startCheck f { s with host := g } = 0x00) :
    Does (.funcStart q d) s [.chip, .funcs, .jobs, .rings, .pages, .taken, .cores, .log] fun t =>
      t.func f = { s.func f with startReq := true, startAfter := s.lastTok (islandOf f) } ∧
      (∀ k : Func, k ≠ f → t.func k = s.func k) ∧ (f.hv = false → t.chip = s.chip) ∧
      (f.hv = true → t.chip.awake = true ∨ t.chip.waking = true) ∧
      ∃ j : Job, t.life.jobs = s.life.jobs ++ [j] ∧ j.desc = d ∧ j.ring = q := by
  have hnote := noteStart_ok_touch f { s with host := g }
  have htouch : Touch [.funcs, .jobs, .rings, .pages, .taken, .cores] s (askStart f (defer q d idx (noteStart f stOk { s with host := g }))) :=
    (askStart_touch ..).after ((defer_touch ..).after (hnote.after ((served_touch hs).after (Touch.refl _ _) rfl) rfl) rfl) rfl
  have hexec := funcStart_served hs hclear hpay hd habs hop hf
  generalize hv : noteStart f stOk { s with host := g } = v at hnote htouch
  obtain ⟨hfunc, hother⟩ := askStart_func f (defer q d idx v)
  have hfuncV (k : Func) : (defer q d idx v).func k = s.func k := hnote.func_eq k
  have hjobsV : (askStart f (defer q d idx v)).life.jobs = s.life.jobs ++ [newJob q d idx v] := congrArg (· ++ [newJob q d idx v]) hnote.jobs_eq
  have htok : (defer q d idx v).lastTok (islandOf f) = s.lastTok (islandOf f) := lastTok_congr hnote.time_eq _
  rw [hfuncV, htok] at hfunc
  have hother' (k : Func) (hk : k ≠ f) := (hother k hk).trans (hfuncV k)
  have hwake := wakeHv_touch (askStart f (defer q d idx v))
  have hon := wakeHv_on (askStart f (defer q d idx v))
  have hgo : exec (.funcStart q d) s = .next (if f.hv then wakeHv (askStart f (defer q d idx v)) else askStart f (defer q d idx v)) := by
    rw [hexec]
    rcases hlife with h | h
    all_goals
      rw [h, hreq, hok]
      exact congrArg (fun v => Host.Outcome.next (if f.hv then wakeHv (askStart f (defer q d idx v)) else askStart f (defer q d idx v))) hv
  clear hexec hv
  generalize askStart f (defer q d idx v) = u at *
  cases hhv : f.hv with
  | false =>
    rw [hhv] at hgo
    exact (htouch.after (Touch.refl _ _) rfl).does hgo ⟨hfunc, hother', fun _ => htouch.chip_eq, nofun, _, hjobsV, rfl, rfl⟩
  | true =>
    rw [hhv] at hgo
    exact (hwake.after (htouch.after (Touch.refl _ _) rfl) rfl).does hgo ⟨(hwake.func_eq f).trans hfunc, fun k hk => (hwake.func_eq k).trans (hother' k hk),
      nofun, fun _ => hon.symm, _, hwake.jobs_eq.trans hjobsV, rfl, rfl⟩

omit hclear hpay hd habs in
/-- A stop that is asked for waits for its boundary. -/
theorem funcStop_asked : let t := askStop f (optOf d) (defer q d idx { s with host := g })
    Touch [.funcs, .jobs, .rings, .pages, .taken] s t ∧
    t.func f = { s.func f with stopReq := true, offReq := (s.func f).offReq || optOf d, stopAfter := s.lastTok (islandOf f) } ∧
    (∀ k : Func, k ≠ f → t.func k = s.func k) ∧ Begins { s with host := g } t q d idx := by
  obtain ⟨hfunc, hother⟩ := askStop_func f (optOf d) (defer q d idx { s with host := g })
  exact ⟨(askStop_touch ..).after ((defer_served_touch hs).after (Touch.refl _ _) rfl) rfl, hfunc, hother,
    begins_congr (defer_begins ..) (askStop_touch ..).jobs_eq (askStop_touch ..).rings_eq⟩

end

/-- Settles O21: state by state, a start or a stop completes, joins what is asked for, or is asked for. -/
theorem functionStartStop : Obligations.FunctionStartStop := by
  intro s s1 q d idx hs hclear hpay f hd habs
  have heq := serving_host hs
  generalize s1.host = g at heq
  subst heq
  refine ⟨fun hop hf => ?_, fun hop hf => ?_⟩
  · have hexec := funcStart_served hs hclear hpay hd habs hop hf
    refine ⟨fun h => ?_, fun h => ?_, fun h => ?_, fun hlife hreq hok => funcStart_asked hs hclear hpay hd habs hop hf hlife hreq hok, fun hlife hreq => ?_⟩
    · exact (finish_served_touch hs stOk 1).does (hexec.trans (by rw [h])) (ends_served hs (.inl (by decide)))
    · exact (finish_served_touch hs stBadState 0).does (hexec.trans (by rcases h with h | h <;> rw [h])) (ends_served hs (.inr rfl))
    · exact (defer_served_touch hs).does (hexec.trans (by rw [h])) (defer_begins ..)
    · exact (defer_served_touch hs).does (hexec.trans (by rcases hlife with h | h <;> rw [h, hreq] <;> rfl)) (defer_begins ..)
  · have hexec := funcStop_served hs hclear hpay hd habs hop hf
    refine ⟨fun h => ?_, fun hS hM hsage => ?_⟩
    · refine (finish_served_touch hs stBadState 0).does (hexec.trans ?_) (ends_served hs (.inr rfl))
      rw [if_pos (by rcases h with h | h | h <;> simp [h])]
    · rw [if_neg (by simp [hS, hM, hsage])] at hexec
      obtain ⟨htouch, hfunc, hother, hbegins⟩ := funcStop_asked (f := f) hs
      refine ⟨fun h => ?_, fun h => ?_, fun h => ?_, fun h => ?_⟩
      · exact htouch.does (hexec.trans (by rcases h with h | h | h <;> rw [h])) ⟨hfunc, hother, hbegins⟩
      · refine Touch.does ((State.onFunc_touch ..).after ((defer_served_touch hs).after (Touch.refl _ _) rfl) rfl) (hexec.trans (by rw [h]))
          ⟨State.func_onFunc .., fun k hk => State.func_onFunc_of_ne _ _ hk, begins_congr (defer_begins ..) rfl rfl⟩
      · refine (finish_served_touch hs stOk 1).does (hexec.trans ?_) (ends_served hs (.inl (by decide)))
        rcases h with ⟨h, ho⟩ | ⟨h, ho⟩ <;> rw [h, ho] <;> rfl
      · rcases h with ⟨h, ho⟩ | ⟨h, ho⟩
        · exact (htouch.after (Touch.refl _ _) rfl).does (hexec.trans (by rw [h, ho]; rfl))
            ⟨congrArg FuncRec.stopReq hfunc, (congrArg FuncRec.stopAfter hfunc).trans rfl, hbegins⟩
        · rw [h, if_neg (by rw [ho]; exact Bool.false_ne_true)] at hexec
          cases hhv : f.hv with
          | false =>
            rw [hhv] at hexec
            exact (htouch.after (Touch.refl _ _) rfl).does hexec
              ⟨congrArg FuncRec.stopReq hfunc, (congrArg FuncRec.stopAfter hfunc).trans rfl, hbegins⟩
          | true =>
            rw [hhv] at hexec
            have hwake := wakeHv_touch (askStop f (optOf d) (defer q d idx { s with host := g }))
            exact (hwake.after (htouch.after (Touch.refl _ _) rfl) rfl).does hexec
              ⟨(congrArg FuncRec.stopReq ((hwake.func_eq f).trans hfunc)).trans rfl,
                (congrArg FuncRec.stopAfter ((hwake.func_eq f).trans hfunc)).trans rfl, begins_congr hbegins hwake.jobs_eq hwake.rings_eq⟩

end Sys2Proof.Machine
end

section
/-! PROOFS. The housekeeping protocols, O24. -/

namespace Sys2Proof.Machine

open Sys2Proof

set_option Elab.async false

/-- A powered machine with a link, one IPv4 group in its table, and 33 sources that the group is restricted to. -/
def sourcedGroup : State := State.onPort .a (fun r => { r with
    link := true, groups := [0xE8000001]
    sources := (List.range 33).map fun i => (0xE8000001, BitVec.ofNat 128 (0x0A000001 + i)) })
  (State.setLife .service .running { State.reset with chip := { State.reset.chip with supply := .full, stage := 6 } })

/-- A report of 33 records is cut into two messages. -/
theorem reports_sourcedGroup : (match exec (.igmpQuery .a 0xE8000001) sourcedGroup with
    | .next t => ((t.port .a).queues[sourcedGroup.txqService .a]).length
    | _ => 0) = 2 := by decide +kernel

theorem queue_sourcedGroup : (sourcedGroup.port .a).queues[sourcedGroup.txqService .a] = [] := by decide +kernel

/-- Refutes O24: a query for a group with more than 32 sources is answered with a second message, for which one place in the queue is asked. -/
theorem not_housekeeping : ¬ Obligations.Housekeeping := by
  intro h
  have hroom : Room sourcedGroup .a (sourcedGroup.txqService .a) 1600 := by
    unfold Room
    decide +kernel
  obtain ⟨-, -, -, -, -, hquery, -⟩ := h sourcedGroup .a (by decide +kernel) (by decide +kernel) hroom
  obtain ⟨t, hexec, -, -, f, hqueued, -⟩ := hquery 0xE8000001 (by decide) (by decide +kernel) (by decide +kernel)
  have hlen := reports_sourcedGroup
  rw [hexec] at hlen
  dsimp only at hlen
  rw [hqueued, queue_sourcedGroup] at hlen
  exact absurd hlen (by simp)

end Sys2Proof.Machine
end

section
/-! PROOFS. A stream packet received, O34. -/

namespace Sys2Proof.Machine

open Sys2Proof

set_option Elab.async false

/-- STREAM_RX and path A at work with one AES67 stream of one 24-bit channel at tick 1000, whose counter of lost packets is past 48 bits. -/
def lostPastEnd : State :=
  let s : State := { State.reset with
    chip := { State.reset.chip with supply := .full, stage := 6 }
    time := { State.reset.time with tick := 1000 }
    cnt := { State.reset.cnt with vals := Store.put [] (cntKey 3 1) (2 ^ 48) } }
  ((s.setLife .pathA .running).setLife .streamRx .running).onFunc .streamRx fun r => { r with
    config := some ([1, 1] ++ List.replicate 14 0 ++ [0, 1, 0, 0, 2] ++ List.replicate 59 0) }

/-- A packet of one tick for tick 1000. -/
def tickPacket : StreamPacket := { seq := 0, src := 0, stamp := 1000, tv := true, rate := 5, payload := [5, 5], arrival := 0 }

theorem lost_lostPastEnd : (match exec (.streamPacketReceive .a 0 tickPacket) lostPastEnd with
    | .next t => t.count 3 1
    | _ => 0) = 2 ^ 48 := by decide +kernel

/-- Refutes O34: a stored packet without a gap leaves the counter of lost packets as it is, where the statement has it within 48 bits. -/
theorem not_streamReception : ¬ Obligations.StreamReception := by
  intro h
  obtain ⟨hjudge, -⟩ := h lostPastEnd .a 0 tickPacket
  obtain ⟨-, hstamp⟩ := hjudge (by decide +kernel) (by decide +kernel) (by decide +kernel) (by decide +kernel) (by decide +kernel) (by decide +kernel)
  obtain ⟨-, -, -, hstore⟩ := hstamp 1000 (by decide +kernel) (by decide +kernel)
  obtain ⟨t, hexec, -, -, -, hlost, -⟩ := hstore (by decide +kernel) (by decide +kernel) ⟨0, by decide +kernel⟩
  have hkept := lost_lostPastEnd
  rw [hexec] at hkept
  exact absurd (hkept.symm.trans hlost) (by decide +kernel)

end Sys2Proof.Machine
end

section
/-! PROOFS. Bulk descriptors as they are taken, O38. -/

namespace Sys2Proof.Machine

open Sys2Proof

set_option Elab.async false

/-- A COPY of 80 bytes from host memory into the staging window. -/
def stagingCopy : Desc :=
  BitVec.ofNat 512 (0x20 + 0x4000 * 2 ^ (8 * 16) + (2 ^ 63 + 0x017E000000) * 2 ^ (8 * 24) + 80 * 2 ^ (8 * 32))

/-- A powered machine under hostless control, with the copy served on a ring of the host's. -/
def hostlessCopy : State := { State.reset with
  chip := { State.reset.chip with supply := .full, stage := 6 }
  svc := { State.reset.svc with hostless := true }
  host := { State.reset.host with taken := [(0, 0, stagingCopy)] } }

theorem jobs_hostlessCopy : (match exec (.copy 0 stagingCopy) hostlessCopy with
    | .next t => t.life.jobs.length
    | _ => 1) = 0 := by decide +kernel

/-- Refutes O38: under hostless control a host's copy in good form that reaches into the staging window is refused. -/
theorem not_bulkDescriptors : ¬ Obligations.BulkDescriptors := by
  intro h
  obtain ⟨⟨idx, s1⟩, hs⟩ := Option.isSome_iff_exists.1 (by decide +kernel : (hostlessCopy.serving 0 stagingCopy).isSome = true)
  obtain ⟨hcopy, -⟩ := h hostlessCopy s1 0 stagingCopy idx hs
  obtain ⟨hgood, -⟩ := hcopy (by decide +kernel)
  obtain ⟨t, hexec, -, -, ⟨j, hjobs, -⟩, -⟩ := hgood (by decide +kernel)
  have hnone := jobs_hostlessCopy
  rw [hexec] at hnone
  dsimp only at hnone
  rw [hjobs] at hnone
  simp at hnone

end Sys2Proof.Machine
end

section
/-! PROOFS. Progress of bulk work and tests, O39. -/

namespace Sys2Proof.Machine

open Sys2Proof

set_option Elab.async false

/-- A CAPTURE with a progress address whose bytes from 24 on are an address of the module that nothing answers. -/
def unmappedCapture : Desc := BitVec.ofNat 512 (0x21 + (2 ^ 63 + 0x2000000000) * 2 ^ (8 * 24) + 8 * 2 ^ (8 * 40))

def captureJob : Job := { uid := 1, ring := 0, desc := unmappedCapture, op := 0x21 }
def gatheredTest : TestRun := { job := 1, polarity := true, repeats := 1, results := [(1, 0)] }

/-- A polarity test whose impulses have gathered, which names a CAPTURE as its job. -/
def testOfCapture : State := State.onPch 0 (fun p => { p with test := some gatheredTest })
  { State.reset with life := { State.reset.life with jobs := [captureJob] } }

/-- The end of a CAPTURE leaves its last count to be written. -/
theorem progress_testOfCapture : (match exec (.polarityResult 0) testOfCapture with
    | .next t => t.host.progress.length
    | _ => 0) = 1 := by decide +kernel

/-- Refutes O39: a test whose job is a CAPTURE ends it with its last count, beside the parts that the statement lists. -/
theorem not_bulkProgress : ¬ Obligations.BulkProgress := by
  intro h
  obtain ⟨-, -, -, -, -, htests, -⟩ := h testOfCapture
  obtain ⟨-, -, hresult, -⟩ := htests 0 (gatheredTest, captureJob) (by decide +kernel)
  obtain ⟨t, hexec, -, hsame, -⟩ := hresult (by decide) (by decide) (by decide) (by decide +kernel) (by decide) (by decide) (by decide +kernel)
  have hlink : t.host.link = testOfCapture.host.link := hsame .link (by decide)
  have hprogress := progress_testOfCapture
  rw [hexec] at hprogress
  have hnone : t.host.progress = [] := (congrArg HostSt.progress hlink).trans (by decide +kernel)
  dsimp only at hprogress
  rw [hnone] at hprogress
  cases hprogress

end Sys2Proof.Machine
end

section
/-! PROOFS. Visits to a boundary: what the opening of an island's boundary leaves of the module's tick, and how an event at a
boundary is told by what it does there (R14, log 52). -/

namespace Sys2Proof.Machine

open Sys2Proof

set_option Elab.async false

/-- The module's tick and the islands that a mismatch stops. -/
def State.standing (s : State) : DWord × BitVec 32 := (s.now, s.time.halted)

theorem Touch.standing {ps : List Part} {s t : State} (h : Touch ps s t) (hp : ps.contains .time = false := by rfl) :
    t.standing = s.standing := congrArg (fun t : TimeSt => (t.tick, t.halted)) (h.time_eq hp)

theorem standing_stopPtp (p : Port) (s : State) : (stopPtp p s).standing = s.standing := by cases p <;> rfl

theorem standing_withdrawStep (s : State) : (withdrawStep s).standing = s.standing := by
  unfold withdrawStep
  by_cases h : s.time.stepId = 0
  · rw [if_pos h]
  · rw [if_neg h]
    rfl

theorem standing_setRef (r : Fin 6) (s : State) : (setRef r s).standing = s.standing := (State.raise_touch 5 _).standing

theorem standing_enterHoldover (s : State) : (enterHoldover s).standing = s.standing := by
  unfold enterHoldover
  by_cases h : s.time.lock = 5 ∨ s.time.lock = 0
  · rw [if_pos h]
  · rw [if_neg h]
    have hheld : (withdrawStep (if s.time.lock = 4 then s else holdFreq s)).standing = s.standing := by
      rw [standing_withdrawStep]
      by_cases h4 : s.time.lock = 4
      · rw [if_pos h4]
      · rw [if_neg h4]
        rfl
    refine Eq.trans ?_ hheld
    dsimp only
    by_cases h0 : s.time.ref = 0
    · rw [if_pos h0]
      rfl
    · rw [if_neg h0]
      exact standing_setRef 0 _

theorem standing_dropRequests (f : Func) (s : State) : (dropRequests f s).standing = s.standing := (dropRequests_touch f s).standing

theorem standing_faultFunc (f : Func) (cause : Byte) (data : DWord) (s : State) :
    (faultFunc f cause data s).standing = s.standing := by
  have hleave : (dropRequests f (enterFaulted f cause data (leaveWork f s))).standing = s.standing :=
    (standing_dropRequests f _).trans
      ((enterFaulted_touch f cause data _).standing.trans (leaveWork_touch f s).standing)
  unfold faultFunc
  dsimp only
  split
  · rfl
  · cases f with
    | pch c => exact (faultPch_touch c cause data s).standing
    | sc n =>
      exact (standing_dropRequests _ _).trans ((enterFaulted_touch _ cause data _).standing.trans (landAll_touch n s).standing)
    | sage =>
      have h1 : (enterFaulted .sage cause data (leaveWork .sage s)).standing = s.standing :=
        (enterFaulted_touch _ cause data _).standing.trans (leaveWork_touch _ s).standing
      dsimp only
      by_cases hc : cause = 5
      · rw [if_pos hc]
        exact h1
      · rw [if_neg hc, forAll_keeps State.standing fun c _ s => (pchStop_touch c 9 s).standing]
        exact h1
    | timekeeper =>
      exact (enterFaulted_touch _ cause data _).standing.trans
        ((standing_stopPtp .a _).trans ((standing_stopPtp .b _).trans (standing_enterHoldover s)))
    | capture =>
      exact (standing_dropRequests _ _).trans ((enterFaulted_touch _ cause data _).standing.trans (abortRuns_touch s).standing)
    | pathA | pathB | streamRx | streamTx | lovage | decim | pdm | tdm0 | tdm1 | service | memctl => exact hleave

theorem standing_enterOff (f : Func) (s : State) : (enterOff f s).standing = s.standing := by
  have h : ∀ u : State, (offPtp f u).standing = u.standing := by
    intro u
    cases f with
    | pathA => exact standing_stopPtp .a u
    | pathB => exact standing_stopPtp .b u
    | streamRx | streamTx | timekeeper | lovage | decim | pdm | tdm0 | tdm1 | service | memctl | capture | sc _ | pch _ | sage => rfl
  exact (clearIsland_touch f _).standing.trans (h _)

theorem standing_enterStopped (f : Func) (s : State) : (enterStopped f s).standing = s.standing := by
  unfold enterStopped
  extract_lets s1 s2 s3
  have h1 : s1.standing = s.standing := by
    unfold s1
    cases f with
    | capture => exact (stopRuns_touch s).standing
    | sc n => rfl
    | pch c => exact (saveCoil_touch c _).standing
    | pathA | pathB | streamRx | streamTx | timekeeper | lovage | decim | pdm | tdm0 | tdm1 | service | memctl | sage =>
      exact (leaveWork_touch _ s).standing
  have h2 : s2.standing = s.standing := (standing_dropRequests f _).trans h1
  have h3 : s3.standing = s.standing := by
    unfold s3
    split
    · exact (standing_enterOff f s2).trans h2
    · exact h2
  exact (State.endStops_touch f stOk s3).standing.trans h3

theorem standing_pchStopped (c : Fin 4) (s : State) : (pchStopped c s).standing = s.standing := by
  unfold pchStopped
  dsimp only
  split
  · rfl
  · split
    · exact standing_enterStopped _ s
    · exact (enterFaulted_touch _ _ _ _).standing.trans (saveCoil_touch c _).standing

theorem standing_lifeTick (f : Func) (s : State) : (lifeTick f s).standing = s.standing := by
  unfold lifeTick
  extract_lets s1 s2
  have h1 : s1.standing = s.standing := by
    unfold s1
    split
    · exact (enterRunning_touch f s).standing
    · rfl
  have h2 : s2.standing = s.standing := by
    unfold s2
    split
    · exact (standing_enterStopped f s1).trans h1
    · exact h1
  cases f with
  | pch c => exact (standing_pchStopped c s2).trans h2
  | pathA | pathB | streamRx | streamTx | timekeeper | lovage | decim | pdm | tdm0 | tdm1 | service | memctl | capture | sc _ | sage =>
    exact h2

theorem standing_startExpire (f : Func) (s : State) : (startExpire f s).standing = s.standing := by
  unfold startExpire
  split
  · exact standing_faultFunc f 8 0 s
  · rfl

theorem standing_trapHere (n : Fin 16) (cause : BitVec 4) (s : State) : (trapHere n cause s).standing = s.standing := by
  unfold trapHere takeTrap
  dsimp only
  have h := (coreTrap_touch n cause (s.core n).pc (s.core n).pc s).standing
  split
  · exact (standing_faultFunc _ _ _ _).trans h
  · exact h

theorem standing_taskTimeout (n : Fin 16) (s : State) : (taskTimeout n s).standing = s.standing := by
  unfold taskTimeout
  dsimp only
  split
  · exact standing_trapHere n 6 s
  · rfl

theorem standing_pchReports (c : Fin 4) (s : State) : (pchReports c s).standing = s.standing := by
  unfold pchReports
  extract_lets one s1 s2
  have h1 : s1.standing = s.standing := forAll_keeps State.standing
    (fun k _ u => (State.logEntry_touch _ _ _ _ _).standing.trans ((State.raise_touch 9 _).standing.trans (State.bumpProt_touch c _ u).standing)) s
  have h2 : s2.standing = s.standing := (State.onPch_touch c _ s1).standing.trans h1
  cases (s2.pch c).toFault with
  | none => exact h2
  | some k =>
    have hup : (if s2.givesUp c then (s2.onPch c fun p => { p with prot := 3 }).bumpProt c 4 else s2).standing = s2.standing := by
      by_cases hg : s2.givesUp c = true
      · rw [if_pos hg]
        exact (State.bumpProt_touch c 4 _).standing.trans (State.onPch_touch c _ s2).standing
      · rw [if_neg hg]
    exact (State.onPch_touch c _ _).standing.trans ((standing_faultFunc (.pch c) k 0 _).trans (hup.trans h2))

theorem standing_fastStopEnd (n : Nat) (c : Fin 4) (s : State) : (fastStopEnd n c s).standing = s.standing := by
  unfold fastStopEnd
  split
  · rfl
  · split
    · split
      · exact (openSwitches_touch c s).standing
      · rfl
    · split
      · exact (standing_faultFunc _ _ _ _).trans rfl
      · rfl

theorem standing_pchSwitchesOpen (c : Fin 4) (s : State) : (pchSwitchesOpen c s).standing = s.standing := by
  unfold pchSwitchesOpen
  split
  · exact (standing_pchStopped c _).trans (openSwitches_touch c s).standing
  · rfl

theorem standing_pchBoundary (c : Fin 4) (s : State) : (pchBoundary c s).standing = s.standing := by
  unfold pchBoundary
  extract_lets s1 s2 s3 s4
  have h1 : s1.standing = s.standing := (pchStopNext_touch c _).standing.trans (standing_pchReports c s)
  have h2 : s2.standing = s.standing := (rampDown_touch c _).standing.trans
    ((closeLowSides_touch 0 c _).standing.trans ((standing_pchSwitchesOpen c s1).trans h1))
  have h3 : s3.standing = s.standing := (beginSwitching_touch _ c _).standing.trans ((pchEnterRunning_touch c s2).standing.trans h2)
  have h4 : s4.standing = s.standing := (retryClear_touch c _).standing.trans ((retryClose_touch _ c s3).standing.trans h3)
  exact (chiveSettle_touch c _).standing.trans ((standing_fastStopEnd _ c s4).trans h4)

theorem standing_lifeWork (i : Island) (s : State) : (lifeWork i s).standing = s.standing := by
  unfold lifeWork
  extract_lets s1
  have h1 : s1.standing = s.standing := by
    unfold s1
    cases i with
    | isolink => exact (saveDue_touch _).standing.trans (forAll_keeps State.standing (fun c _ u => standing_pchBoundary c u) s)
    | decim => exact (dsyncDue_touch s).standing
    | sc n => exact (standing_taskTimeout n _).trans (taskDeadline_touch n s).standing
    | _ => rfl
  exact (forAll_keeps State.standing (fun f _ u => (standing_startExpire f _).trans (standing_lifeTick f u)) s1).trans h1

/-- What an island does on its own at a boundary leaves the module's tick, and the islands that stand. -/
theorem standing_openBoundary (i : Island) (n : DWord) (s : State) : (openBoundary i n s).standing = s.standing := by
  unfold openBoundary
  split
  · rfl
  · have hopen : ∀ u : State, (lifeWork i (fadeTick i u)).standing = u.standing := fun u =>
      (standing_lifeWork i _).trans (fadeTick_touch i u).standing
    unfold atTick
    dsimp only
    have hb : (setBegun i true s).standing = s.standing := rfl
    split
    · exact (hopen _).trans hb
    · rename_i hn
      have h := hopen ((setBegun i true s).onTime fun x => { x with tick := n })
      have hnow : (lifeWork i (fadeTick i ((setBegun i true s).onTime fun x => { x with tick := n }))).now = n := congrArg Prod.fst h
      have hhalt := congrArg Prod.snd h
      rw [if_pos hnow]
      exact Prod.ext rfl hhalt

/-- Showing a state the tick it has changes nothing. -/
theorem onTime_now (s : State) : (s.onTime fun x => { x with tick := s.now }) = s := rfl

theorem now_openBoundary (i : Island) (n : DWord) (s : State) : (openBoundary i n s).now = s.now :=
  congrArg Prod.fst (standing_openBoundary i n s)

/-- The state that an event at a boundary finds has the tick of the boundary. -/
theorem now_opened (i : Island) (n : DWord) (s : State) : (opened i n s).now = n := rfl

theorem halted_opened (i j : Island) (n : DWord) (s : State) : (opened i n s).halted j = s.halted j :=
  congrArg (fun b : BitVec 32 => b.getLsbD (islandIdx j)) (congrArg Prod.snd (standing_openBoundary i n s))

theorem opened_now_eq {i : Island} {n : DWord} {s : State} (h : s.now = n) : opened i n s = openBoundary i n s := by
  have hw : (openBoundary i n s).now = n := (now_openBoundary i n s).trans h
  exact (congrArg (fun m : DWord => (openBoundary i n s).onTime fun x => { x with tick := m }) hw.symm).trans (onTime_now _)

theorem pending_opened (i : Island) (n : DWord) (s : State) : (opened i n s).pending = s.pending := (openBoundary_touch i n s).queue

/-- An event at a boundary does what its work does in the state as the boundary opens it. -/
theorem doesAt_boundaryDo {c : Instr} {s : State} {i : Island} {g : State → State} {P : State → State → Prop}
    (hexec : exec c s = .next (boundaryDo i g s)) (hqueue : ∀ b, (g b).pending = b.pending) (hP : ∀ b, P b (g b)) :
    DoesAt c s i P := by
  refine ⟨fun n hn => ⟨g (opened i n s), ?_, (hqueue _).trans (pending_opened i n s), hP _⟩, fun hnone => ?_⟩
  · have hgo : boundaryDo i g s = atTick n g (openBoundary i n s) := by
      unfold boundaryDo
      rw [hn]
    rw [hexec, hgo]
    unfold atTick
    rw [now_openBoundary]
    by_cases h : s.now = n
    · rw [if_pos h, ← opened_now_eq h, h]
      by_cases ht : (g (opened i n s)).now = n
      · rw [if_pos ht]
        exact congrArg Host.Outcome.next ((onTime_now _).symm.trans
          (congrArg (fun m : DWord => (g (opened i n s)).onTime fun x => { x with tick := m }) ht))
      · rw [if_neg ht]
    · rw [if_neg h]
      rfl
  · rw [hexec]
    unfold boundaryDo
    rw [hnone]

end Sys2Proof.Machine
end

section
/-! PROOFS. Shorts, overloads and the retry of a power channel (R391-R396). -/

namespace Sys2Proof.Machine

open Sys2Proof

set_option Elab.async false

/-- The response in hand is the first: no protection has begun one before (R396). -/
def Pch.calm (p : Pch) : Prop := p.prot = 0 ∧ p.stopCause = 0 ∧ p.toFault = none

/-- The bridge as a short or overload of kind `k` opens it. -/
def brokenOpen (c : Fin 4) (k : BitVec 4) (s : State) : State :=
  openSwitches c ((setKind c k s).onPch c fun p => { p with notices := p.notices ++ [k] })

/-- What a short or overload of kind `k` leaves of a channel, whatever follows (R392, R393). -/
structure Broken (c : Fin 4) (k : BitVec 4) (s t : State) : Prop where
  phase : (t.pch c).phase = 0
  vOut : (t.pch c).vOut = 0
  kind : (s.pch c).calm → (s.pch c).phase ≠ 6 → (s.pch c).phase ≠ 7 → (t.pch c).kind = k
  notices : (t.pch c).notices = (s.pch c).notices ++ [k]
  func : t.func (.pch c) = { s.func (.pch c) with fade := Fade.zero }
  others : ∀ f : Func, f ≠ .pch c → t.func f = s.func f
  channels : ∀ j, j ≠ c → t.pch j = s.pch j

/-- What a change of the channel's record alone must keep for the bridge to stay told as open. -/
structure KeepsOpen (g : Pch → Pch) : Prop where
  phase : ∀ p, p.phase = 0 → (g p).phase = 0
  vOut : ∀ p, (g p).vOut = p.vOut
  kind : ∀ p, (g p).kind = p.kind
  notices : ∀ p, (g p).notices = p.notices

section
variable {c : Fin 4} {k : BitVec 4} {s t : State}

/-- The record of the channel as `setKind` leaves it. -/
def Pch.kinded (k : BitVec 4) (p : Pch) : Pch :=
  if p.stopCause = 0 ∧ p.phase ≠ 6 ∧ p.phase ≠ 7 ∧ p.prot = 0 ∧ p.toFault = none then { p with kind := k } else p

theorem Pch.kinded_eq (k : BitVec 4) (p : Pch) : p.kinded k = { p with kind := (p.kinded k).kind } := by
  unfold Pch.kinded
  split <;> rfl

theorem Pch.kinded_calm {p : Pch} (h : p.calm) (h6 : p.phase ≠ 6) (h7 : p.phase ≠ 7) : (p.kinded k).kind = k := by
  obtain ⟨hprot, hcause, hfault⟩ := h
  unfold Pch.kinded
  rw [if_pos ⟨hcause, h6, h7, hprot, hfault⟩]

theorem brokenOpen_pch : (brokenOpen c k s).pch c = { s.pch c with
    kind := ((s.pch c).kinded k).kind, notices := (s.pch c).notices ++ [k], phase := 0, cm := Fade.zero, vOut := 0, clip := false } := by
  have hkind : (setKind c k s).pch c = (s.pch c).kinded k := State.pch_onPch c _ s
  rw [brokenOpen, openSwitches_pch, State.pch_onPch, hkind, Pch.kinded_eq]

theorem brokenOpen_broken : Broken c k s (brokenOpen c k s) where
  phase := by rw [brokenOpen_pch]
  vOut := by rw [brokenOpen_pch]
  kind h h6 h7 := by
    rw [brokenOpen_pch]
    exact Pch.kinded_calm h h6 h7
  notices := by rw [brokenOpen_pch]
  func := openSwitches_func c _
  others f hf := openSwitches_func_ne hf _
  channels j hj := by
    rw [brokenOpen, openSwitches_pch_ne hj, State.pch_onPch_ne _ _ hj]
    exact State.pch_onPch_ne _ s hj

/-- What changes the record no further than `KeepsOpen` allows leaves the channel as the short has left it. -/
theorem Broken.onPch {g : Pch → Pch} (h : Broken c k s t) (hg : KeepsOpen g) : Broken c k s (t.onPch c g) where
  phase := by rw [State.pch_onPch]; exact hg.phase _ h.phase
  vOut := by rw [State.pch_onPch, hg.vOut]; exact h.vOut
  kind h1 h6 h7 := by rw [State.pch_onPch, hg.kind]; exact h.kind h1 h6 h7
  notices := by rw [State.pch_onPch, hg.notices]; exact h.notices
  func := h.func
  others := h.others
  channels j hj := by rw [State.pch_onPch_ne _ _ hj]; exact h.channels j hj

/-- Nothing of it depends on the counters. -/
theorem Broken.bump (f i : Nat) (h : Broken c k s t) : Broken c k s (t.bump f i) := ⟨h.phase, h.vOut, h.kind, h.notices, h.func, h.others, h.channels⟩

theorem brokenOpen_touch (c : Fin 4) (k : BitVec 4) (s : State) : Touch [.funcs, .pwr] s (brokenOpen c k s) :=
  (openSwitches_touch c _).after ((State.onPch_touch c _ _).after ((setKind_touch c k s).after (Touch.refl _ s) rfl) rfl) rfl

theorem brokenOpen_life? (f : Func) : (brokenOpen c k s).life? f = s.life? f := openSwitches_life? c f _

/-! `shortOpen` per state of the channel, no test running. -/

theorem shortOpen_running (htest : (s.pch c).test = none) (h6 : (s.pch c).phase ≠ 6) (h7 : (s.pch c).phase ≠ 7)
    (hlife : s.life? (.pch c) = .running) : shortOpen c k s = retryWait c (brokenOpen c k s) := by
  unfold shortOpen endTest
  dsimp only
  rw [htest, hlife, if_neg h6, if_neg h7]
  rfl

theorem shortOpen_starting (htest : (s.pch c).test = none) (h6 : (s.pch c).phase ≠ 6) (h7 : (s.pch c).phase ≠ 7)
    (hlife : s.life? (.pch c) = .starting) :
    shortOpen c k s = (brokenOpen c k s).onPch c fun p => { p with toFault := some 7 } := by
  unfold shortOpen endTest
  dsimp only
  rw [htest, hlife, if_neg h6, if_neg h7]
  rfl

theorem shortOpen_stopping (htest : (s.pch c).test = none) (h6 : (s.pch c).phase ≠ 6) (h7 : (s.pch c).phase ≠ 7)
    (hlife : s.life? (.pch c) = .stopping) :
    shortOpen c k s = (brokenOpen c k s).onPch c fun q => { q with
      mark := if (s.pch c).phase = 4 then s.now + BitVec.ofNat 64 (stopLeft c s) else q.mark } := by
  unfold shortOpen endTest
  dsimp only
  rw [htest, hlife, if_neg h6, if_neg h7]
  rfl

/-- The bridge, its fall counted, where a fast stop was in hand. -/
theorem shortOpen_fastStop (htest : (s.pch c).test = none) (h6 : (s.pch c).phase = 6) :
    shortOpen c k s =
      (if (s.life? (.pch c)).busy then ((brokenOpen c k s).bump (pchFn c) 2).onPch c fun p => { p with toFault := some 4 }
      else (brokenOpen c k s).bump (pchFn c) 2) := by
  unfold shortOpen endTest
  dsimp only
  rw [htest, if_pos h6]
  rfl

theorem shortOpen_overvoltage (htest : (s.pch c).test = none) (h7 : (s.pch c).phase = 7) :
    shortOpen c k s = (brokenOpen c k s).onPch c fun p => { p with toFault := some 6 } := by
  unfold shortOpen endTest
  dsimp only
  rw [htest, h7]
  rfl

/-! The retry wait (R393, R394). -/

theorem retryWait_pch (c : Fin 4) (s : State) : (retryWait c s).pch c = { s.pch c with
    phase := 0, prot := 1, retry := min 255 ((s.pch c).retry + 1), mark := s.now
    toFault := if s.sageParam c 14 < (s.pch c).retry + 1 then some 7 else (s.pch c).toFault } := State.pch_onPch c _ s

theorem retryWait_pch_ne {c j : Fin 4} (h : j ≠ c) (s : State) : (retryWait c s).pch j = s.pch j := State.pch_onPch_ne _ s h

theorem retryWait_broken (h : Broken c k s t) : Broken c k s (retryWait c t) :=
  h.onPch { phase := fun _ _ => rfl, vOut := fun _ => rfl, kind := fun _ => rfl, notices := fun _ => rfl }

theorem toFault_broken (v : Byte) (h : Broken c k s t) : Broken c k s (t.onPch c fun p => { p with toFault := some v }) :=
  h.onPch { phase := fun _ hp => hp, vOut := fun _ => rfl, kind := fun _ => rfl, notices := fun _ => rfl }

theorem mark_broken (g : DWord → DWord) (h : Broken c k s t) : Broken c k s (t.onPch c fun q => { q with mark := g q.mark }) :=
  h.onPch { phase := fun _ hp => hp, vOut := fun _ => rfl, kind := fun _ => rfl, notices := fun _ => rfl }

theorem count_bump_congr {f i : Nat} (h : t.cnt = s.cnt) (hi : i < 4096) : Counts s (t.bump f i) f i 1 :=
  counts_congr h.symm rfl (counts_bumpBy hi f 1 t)

end

/-! Commands of the current limit (R391, R392). -/

theorem exec_shortDetect_open {c : Fin 4} {s : State} (h0 : (s.pch c).phase ≠ 0) (h2 : (s.pch c).prot ≠ 2) (pattern : ShortPattern) :
    exec (.shortDetect c pattern) s = .next (shortOpen c (shortKind pattern) s) := by
  rw [exec_shortDetect, execShortDetect, if_neg fun h => h.elim h0 h2]

theorem exec_overload_open {c : Fin 4} {s : State} (h : (s.pch c).switches = true) :
    exec (.overload c) s = .next (shortOpen c 6 s) := by
  rw [exec_overload, execOverload, if_pos h]

theorem shortKind_ne (pattern : ShortPattern) : shortKind pattern ≠ 6 := by cases pattern <;> decide

/-- The commands of a short and of an overload open the bridge of a channel that is not probed. -/
theorem exec_short {c : Fin 4} {s : State} (h0 : (s.pch c).phase ≠ 0) (h2 : (s.pch c).prot ≠ 2) {pattern : ShortPattern}
    {e : Instr × BitVec 4} (he : e ∈ [(Instr.shortDetect c pattern, shortKind pattern), (Instr.overload c, 6)])
    (hsw : e.2 = 6 → (s.pch c).switches = true) : exec e.1 s = .next (shortOpen c e.2 s) := by
  simp only [List.mem_cons, List.not_mem_nil, or_false] at he
  obtain rfl | rfl := he
  · exact exec_shortDetect_open h0 h2 pattern
  · exact exec_overload_open (hsw rfl)

theorem retryClear_eq (c : Fin 4) (b : State) : ((b.pch c).phase = 3 → (b.pch c).prot = 0 → b.pastMark c (b.sageParam c 16 * b.fsHz) = true →
      retryClear c b = b.onPch c fun p => { p with retry := 0 }) ∧
    ((b.pch c).phase ≠ 3 ∨ (b.pch c).prot ≠ 0 ∨ b.pastMark c (b.sageParam c 16 * b.fsHz) = false → retryClear c b = b) := by
  unfold retryClear
  refine ⟨fun h3 h0 hm => by simp [h3, h0, hm], fun h => ?_⟩
  exact if_neg fun hall => by simp at hall; exact h.elim (· hall.1.1) fun h => h.elim (· hall.1.2) fun h => by simp [h] at hall

/-- What the clauses on shorts and overloads say of a channel left open to wait for its retry. -/
theorem retryWait_brokenOpen (c : Fin 4) (k : BitVec 4) (s : State) :
    let t := retryWait c (brokenOpen c k s)
    (t.pch c).prot = 1 ∧ (t.pch c).retry = min 255 ((s.pch c).retry + 1) ∧ (t.pch c).mark = s.now ∧
      (t.pch c).toFault = if s.sageParam c 14 < (s.pch c).retry + 1 then some 7 else (s.pch c).toFault := by
  have ht := brokenOpen_touch c k s
  have hparam : (brokenOpen c k s).sageParam c 14 = s.sageParam c 14 := by
    rw [State.sageParam, State.sageParam, State.param, State.param, ht.params_eq]
  dsimp only
  rw [retryWait_pch, brokenOpen_pch]
  dsimp only
  rw [hparam, ht.now_eq]
  exact ⟨rfl, rfl, rfl, rfl⟩

section
variable {c : Fin 4} {s : State} {i : Instr} {k : BitVec 4} (hexec : exec i s = .next (shortOpen c k s)) (htest : (s.pch c).test = none)
include hexec htest

theorem short_running (h6 : (s.pch c).phase ≠ 6) (h7 : (s.pch c).phase ≠ 7) (hl : s.life? (.pch c) = .running) :
    Does i s [.funcs, .pwr] fun t => Broken c k s t ∧ (t.pch c).prot = 1 ∧ (t.pch c).retry = min 255 ((s.pch c).retry + 1) ∧
      (t.pch c).mark = s.now ∧ (t.pch c).toFault = if s.sageParam c 14 < (s.pch c).retry + 1 then some 7 else (s.pch c).toFault := by
  rw [shortOpen_running htest h6 h7 hl] at hexec
  exact ((retryWait_touch c _).after (brokenOpen_touch c k s) rfl).does hexec
    ⟨retryWait_broken brokenOpen_broken, retryWait_brokenOpen c k s⟩

theorem short_starting (h6 : (s.pch c).phase ≠ 6) (h7 : (s.pch c).phase ≠ 7) (hl : s.life? (.pch c) = .starting) :
    Does i s [.funcs, .pwr] fun t => Broken c k s t ∧ (t.pch c).toFault = some 7 := by
  rw [shortOpen_starting htest h6 h7 hl] at hexec
  exact ((State.onPch_touch c _ _).after (brokenOpen_touch c k s) rfl).does hexec
    ⟨toFault_broken 7 brokenOpen_broken, by rw [State.pch_onPch]⟩

theorem short_stopping (h6 : (s.pch c).phase ≠ 6) (h7 : (s.pch c).phase ≠ 7) (hl : s.life? (.pch c) = .stopping) :
    Does i s [.funcs, .pwr] fun t => Broken c k s t ∧ t.life? (.pch c) = .stopping ∧ (t.pch c).toFault = (s.pch c).toFault := by
  have hbroken : Broken c k s (shortOpen c k s) := by
    rw [shortOpen_stopping htest h6 h7 hl]
    exact mark_broken (fun m => if (s.pch c).phase = 4 then s.now + BitVec.ofNat 64 (stopLeft c s) else m) brokenOpen_broken
  have htouch : Touch [.funcs, .pwr] s (shortOpen c k s) := by
    rw [shortOpen_stopping htest h6 h7 hl]
    exact (State.onPch_touch c _ _).after (brokenOpen_touch c k s) rfl
  have hlife : (shortOpen c k s).life? (.pch c) = .stopping := by
    rw [shortOpen_stopping htest h6 h7 hl]
    exact (brokenOpen_life? (c := c) (k := k) (s := s) _).trans hl
  have hfault : ((shortOpen c k s).pch c).toFault = (s.pch c).toFault := by
    rw [shortOpen_stopping htest h6 h7 hl, State.pch_onPch, brokenOpen_pch]
  exact htouch.does hexec ⟨hbroken, hlife, hfault⟩

theorem short_fastStop (h6 : (s.pch c).phase = 6) : Does i s [.funcs, .pwr, .cnt] fun t => Broken c k s t ∧
    Counts s t (pchFn c) 2 1 ∧ ((s.life? (.pch c)).busy = true → (t.pch c).toFault = some 4) := by
  have ht := brokenOpen_touch c k s
  rw [shortOpen_fastStop htest h6] at hexec
  have hcount : Counts s ((brokenOpen c k s).bump (pchFn c) 2) (pchFn c) 2 1 := count_bump_congr ht.cnt_eq (by decide)
  have ht' : Touch [.funcs, .pwr, .cnt] s ((brokenOpen c k s).bump (pchFn c) 2) :=
    (State.bump_touch _ _ _).after (ht.after (Touch.refl _ s) rfl) rfl
  by_cases hbusy : (s.life? (.pch c)).busy = true
  · rw [if_pos hbusy] at hexec
    exact ((State.onPch_touch c _ _).after ht' rfl).does hexec
      ⟨toFault_broken 4 (brokenOpen_broken.bump _ _), hcount, fun _ => by rw [State.pch_onPch]⟩
  · rw [if_neg hbusy] at hexec
    exact ht'.does hexec ⟨brokenOpen_broken.bump _ _, hcount, fun h => absurd h hbusy⟩

theorem short_overvoltage (h7 : (s.pch c).phase = 7) :
    Does i s [.funcs, .pwr] fun t => Broken c k s t ∧ (t.pch c).toFault = some 6 := by
  rw [shortOpen_overvoltage htest h7] at hexec
  exact ((State.onPch_touch c _ _).after (brokenOpen_touch c k s) rfl).does hexec
    ⟨toFault_broken 6 brokenOpen_broken, by rw [State.pch_onPch]⟩

end

theorem retryWaitExpiry_ends {c : Fin 4} {s : State} (h1 : (s.pch c).prot = 1) (hf : (s.pch c).toFault = none)
    (hr : s.running (.pch c) = true) (hm : s.pastMark c (s.sageParam c 15 * s.fsHz / 1000) = true) :
    exec (.retryWaitExpiry c) s = .next (s.onPch c fun p => { p with phase := 1, prot := 2, mark := s.now }) := by
  rw [exec_retryWaitExpiry, execRetryWaitExpiry, retryClose]
  simp [h1, hf, hr, hm]

theorem retryWaitExpiry_waits {c : Fin 4} {s : State} (hm : s.pastMark c (s.sageParam c 15 * s.fsHz / 1000) = false) :
    exec (.retryWaitExpiry c) s = .next s := by
  rw [exec_retryWaitExpiry, execRetryWaitExpiry, retryClose]
  simp [hm]

theorem retryWaitExpiry_idle {c : Fin 4} {s : State}
    (h : (s.pch c).prot ≠ 1 ∨ (s.pch c).toFault.isSome = true ∨ s.running (.pch c) = false) :
    exec (.retryWaitExpiry c) s = .next s := by
  rw [exec_retryWaitExpiry, execRetryWaitExpiry, retryClose]
  obtain h | h | h := h
  · exact congrArg Host.Outcome.next (if_neg fun hall => h (by simp at hall; exact hall.1.1.1))
  · have hn : (s.pch c).toFault.isNone = false := by
      rw [← Option.not_isSome, h]
      rfl
    simp [hn]
  · simp [h]

theorem probe_failed {c : Fin 4} {s : State} (h2 : (s.pch c).prot = 2) : Does (.probe c false) s [.pwr, .cnt] fun t =>
    (t.pch c).prot = 1 ∧ (t.pch c).phase = 0 ∧ (t.pch c).retry = min 255 ((s.pch c).retry + 1) ∧ (t.pch c).mark = s.now ∧
      Counts s t (pchFn c) 7 1 ∧ ∀ j, j ≠ c → t.pch j = s.pch j := by
  have he : exec (.probe c false) s = .next ((retryWait c s).bumpProt c 3) := by
    rw [exec_probe, execProbe, if_neg (not_not_intro h2)]
    rfl
  have hw : Touch [.pwr, .cnt] s (retryWait c s) := (retryWait_touch c s).after (Touch.refl _ s) rfl
  refine ((State.bumpProt_touch c 3 _).after hw rfl).does he ?_
  have hp : ((retryWait c s).bumpProt c 3).pch c = (retryWait c s).pch c := rfl
  rw [hp, retryWait_pch]
  exact ⟨rfl, rfl, rfl, rfl, count_bump_congr (retryWait_touch c s).cnt_eq (by decide), fun j hj => retryWait_pch_ne hj s⟩

/-- Settles O41: each command is told by `shortOpen`, `retryWait` and the branches of its own guard. -/
theorem shortsAndRetry : Obligations.ShortsAndRetry := by
  unfold Obligations.ShortsAndRetry
  intro s c
  refine ⟨fun h => ?_, fun h => ⟨?_, ?_⟩, fun h pattern => ?_, fun h0 h2 htest => ?_, fun h1 hf hr => ⟨fun hm => ?_, fun hm => ?_⟩, fun h => ?_,
    fun h2 => ⟨fun hm => ?_, fun hm => ?_, ?_⟩, fun h b => ?_, ?_⟩
  · have he : exec (.currentLimit c) s = .next (s.bumpProt c 0) := by rw [exec_currentLimit, execCurrentLimit, if_pos h]
    exact (State.bumpProt_touch c 0 s).does he (counts_bumpBy (by decide) _ 1 s)
  · rw [exec_currentLimit, execCurrentLimit, if_neg (by simp [h])]
  · rw [exec_overload, execOverload, if_neg (by simp [h])]
  · rw [exec_shortDetect, execShortDetect, if_pos h]
  · intro p first opened waits pattern e he hsw
    have hexec := exec_short h0 h2 he hsw
    have hopened : ∀ {t : State}, Broken c e.2 s t → opened e.2 t := fun h =>
      ⟨h.phase, h.vOut, h.kind, h.notices, h.func, h.others, h.channels⟩
    refine ⟨fun h6 h7 => ⟨fun hl => ?_, fun hl => ?_, fun hl => ?_⟩, fun h6 => ?_, fun h7 => ?_⟩
    · exact (short_running hexec htest h6 h7 hl).imp fun t ht => ht.imp_right (.imp_right (.imp_right (.imp_left hopened)))
    · exact (short_starting hexec htest h6 h7 hl).imp fun t ht => ht.imp_right (.imp_right (.imp_right (.imp_left hopened)))
    · exact (short_stopping hexec htest h6 h7 hl).imp fun t ht => ht.imp_right (.imp_right (.imp_right (.imp_left hopened)))
    · exact (short_fastStop hexec htest h6).imp fun t ht => ht.imp_right (.imp_right (.imp_right (.imp_left hopened)))
    · exact (short_overvoltage hexec htest h7).imp fun t ht => ht.imp_right (.imp_right (.imp_right (.imp_left hopened)))
  · exact retryWaitExpiry_ends h1 hf hr hm
  · exact retryWaitExpiry_waits hm
  · exact retryWaitExpiry_idle h
  · rw [exec_probe, execProbe, if_neg (not_not_intro h2)]
    simp [hm]
  · rw [exec_probe, execProbe, if_neg (not_not_intro h2)]
    simp [hm]
  · exact probe_failed h2
  · rw [exec_probe, execProbe, if_pos h]
  · exact doesAt_boundaryDo (exec_retryClear c s) (fun b => (retryClear_touch c b).queue) (retryClear_eq c)

end Sys2Proof.Machine
end

section
/-! PROOFS. Where a function stands after the ends of its sequences (R76-R80), and the phases of a power channel and of its
Chive term (R377-R379, R384). -/

namespace Sys2Proof.Machine

open Sys2Proof

set_option Elab.async false

/-! The records of the functions after RUNNING, STOPPED and OFF. -/

section
variable {f k : Func} {s : State}

theorem func_setLife (f : Func) (st : Life) (s : State) :
    (s.setLife f st).func f = { s.func f with state := st, lastChange := s.now } := State.func_onFunc ..

theorem func_setLife_ne (h : k ≠ f) (st : Life) (s : State) : (s.setLife f st).func k = s.func k := State.func_onFunc_of_ne _ _ h

/-- The work that a function's entry into RUNNING starts, before its starts are recorded. -/
def runWork (f : Func) (s1 : State) : State :=
  let rise := fun (s : State) => s.onFunc f fun r => { r with fade := r.fade.go true (s.fadeTime f) }
  match f with
  | .pathA => pathRunning .a s1
  | .pathB => pathRunning .b s1
  | .streamRx => joinReported s1
  | .lovage => rise s1
  | .streamTx => rise s1
  | .tdm0 => if s1.tdmSlave 0 then s1 else s1.onTdm 0 fun t => { t with state := 1, clocks := !s1.tdmWait 0 }
  | .tdm1 => if s1.tdmSlave 1 then s1 else s1.onTdm 1 fun t => { t with state := 1, clocks := !s1.tdmWait 1 }
  | .pdm =>
    let s2 := ((s1.onLoc fun l => { l with warming := 0 }).bump 9 0)
    if s2.life? .decim == Life.starting || s2.life? .decim == Life.running then
      chiveWarm (forAll (allDec.filter fun (c : Fin 40) => decide (c.val < 32) && s2.loc.clkRun.getLsbD (c.val / 8)) resetDec s2)
    else chiveWarm s2
  | .sc n =>
    let v := (s1.core n).image.secVersion
    (rise s1).onSvc fun x => { x with secMin := vmod x.secMin 2 fun m => if m.toNat < v.toNat then v else m }
  | .pch c => rise ((pchRuns c s1).bump (pchFn c) 0)
  | .sage => s1.onPwr fun w => { w with
      savedAt := s1.now, ch := w.ch.map fun (p : Pch) => { p with sageAt := none, winAt := s1.now, zAt := s1.now } }
  | _ => s1

theorem enterRunning_eq (f : Func) (s : State) : enterRunning f s = (runWork f (s.setLife f .running)).endStarts f stOk := by
  cases f <;> rfl

theorem forAll_touch {α : Type} {ps : List Part} {l : List α} {g : α → State → State} (hg : ∀ a s, Touch ps s (g a s)) (s : State) :
    Touch ps s (forAll l g s) := by
  induction l generalizing s with
  | nil => exact Touch.refl ps s
  | cons a l ih => exact (ih (g a s)).after (hg a s) (subParts_refl ps)

/-- The work leaves the records of the functions, but for the gain that rises. -/
theorem runWork_func (f : Func) (s : State) :
    (∀ k, k ≠ f → (runWork f s).func k = s.func k) ∧ ∃ fade, (runWork f s).func f = { s.func f with fade } := by
  have hsame {t : State} (h : ∀ k, t.func k = s.func k) :
      (∀ k, k ≠ f → t.func k = s.func k) ∧ ∃ fade, t.func f = { s.func f with fade } :=
    ⟨fun k _ => h k, (s.func f).fade, h f⟩
  have hrise {t : State} (h : ∀ k, t.func k = s.func k) (g : FuncRec → FuncRec) (hg : ∀ r, ∃ fade, g r = { r with fade }) :
      (∀ k, k ≠ f → (t.onFunc f g).func k = s.func k) ∧ ∃ fade, (t.onFunc f g).func f = { s.func f with fade } := by
    refine ⟨fun k hk => (State.func_onFunc_of_ne _ _ hk).trans (h k), ?_⟩
    obtain ⟨fade, hf⟩ := hg (t.func f)
    exact ⟨fade, by rw [State.func_onFunc, hf, h f]⟩
  cases f with
  | pathA => exact hsame (pathRunning_touch .a s).func_eq
  | pathB => exact hsame (pathRunning_touch .b s).func_eq
  | streamRx => exact hsame (joinReported_touch s).func_eq
  | lovage => exact hrise (fun _ => rfl) _ fun _ => ⟨_, rfl⟩
  | streamTx => exact hrise (fun _ => rfl) _ fun _ => ⟨_, rfl⟩
  | tdm0 | tdm1 =>
    refine hsame fun k => ?_
    unfold runWork
    dsimp only
    split <;> rfl
  | pdm =>
    refine hsame fun k => ?_
    unfold runWork
    dsimp only
    split
    · exact (chiveWarm_touch _).func_eq k |>.trans ((forAll_touch (fun c u => resetDec_touch c u) _).func_eq k)
    · exact (chiveWarm_touch _).func_eq k
  | sc n => exact hrise (fun _ => rfl) _ fun _ => ⟨_, rfl⟩
  | pch c =>
    exact hrise (t := (pchRuns c s).bump (pchFn c) 0) ((pchRuns_touch c s).func_eq) _ fun _ => ⟨_, rfl⟩
  | timekeeper | decim | service | memctl | capture | sage => exact hsame fun _ => rfl

theorem enterRunning_func_ne (h : k ≠ f) (s : State) : (enterRunning f s).func k = s.func k := by
  rw [enterRunning_eq, (State.endStarts_touch ..).func_eq, (runWork_func f _).1 k h, func_setLife_ne h]

theorem enterRunning_life? (f : Func) (s : State) : (enterRunning f s).life? f = .running := by
  obtain ⟨fade, hf⟩ := (runWork_func f (s.setLife f .running)).2
  have hfunc : (enterRunning f s).func f = { (s.setLife f .running).func f with fade } := by
    rw [enterRunning_eq, (State.endStarts_touch ..).func_eq, hf]
  rw [State.life?, hfunc, func_setLife]

/-- The work that ends as a function stops. -/
def stopWork (f : Func) (s : State) : State :=
  match f with
  | .capture => stopRuns s
  | .sc n => s.onCore n fun c => { c with stopping := true }
  | .pch c => saveCoil c (s.onPch c fun p => { p with prot := 0, retry := 0, stopCause := 0 })
  | _ => leaveWork f s

/-- A function as STOPPED is recorded, before an OFF that was asked for. -/
def stoppedAt (f : Func) (s : State) : State :=
  dropRequests f (((stopWork f s).setLife f .stopped).onFunc f fun r => { r with stopReq := false })

theorem enterStopped_eq (f : Func) (s : State) : enterStopped f s =
    (if ((stoppedAt f s).func f).offReq then enterOff f (stoppedAt f s) else stoppedAt f s).endStops f stOk := by cases f <;> rfl

theorem stopWork_touch (f : Func) (s : State) :
    Touch [.jobs, .rings, .link, .reqs, .cores, .portA, .portB, .path, .strm, .lov, .loc, .pwr, .cnt] s (stopWork f s) := by
  unfold stopWork
  split
  · exact (stopRuns_touch s).after (Touch.refl _ s) rfl
  · exact (Touch.refl _ s).onCore rfl
  · exact (saveCoil_touch ..).after ((State.onPch_touch ..).after (Touch.refl _ s) rfl) rfl
  · exact (leaveWork_touch ..).after (Touch.refl _ s) rfl

theorem stopWork_func_eq (f k : Func) (s : State) : (stopWork f s).func k = s.func k := (stopWork_touch f s).func_eq k

theorem stopWork_now (f : Func) (s : State) : (stopWork f s).now = s.now := (stopWork_touch f s).now_eq

theorem stoppedAt_func (f : Func) (s : State) :
    (stoppedAt f s).func f = { s.func f with state := .stopped, lastChange := s.now, stopReq := false } := by
  rw [stoppedAt, (dropRequests_touch ..).func_eq, State.func_onFunc, func_setLife, stopWork_func_eq, stopWork_now]

theorem stoppedAt_func_ne (h : k ≠ f) (s : State) : (stoppedAt f s).func k = s.func k := by
  rw [stoppedAt, (dropRequests_touch ..).func_eq, State.func_onFunc_of_ne _ _ h, func_setLife_ne h, stopWork_func_eq]

theorem offPtp_func (f k : Func) (s : State) : (offPtp f s).func k = s.func k := (offPtp_touch f s).func_eq k

theorem enterOff_func (f : Func) (s : State) : (enterOff f s).func f =
    { s.func f with state := .off, lastChange := s.now, config := none, offReq := false } := by
  rw [enterOff, State.func_onFunc, (clearIsland_touch ..).func_eq, offPtp_func, (State.dropParams_touch ..).func_eq, func_setLife]

theorem enterOff_func_ne (h : k ≠ f) (s : State) : (enterOff f s).func k = s.func k := by
  rw [enterOff, State.func_onFunc_of_ne _ _ h, (clearIsland_touch ..).func_eq, offPtp_func, (State.dropParams_touch ..).func_eq,
    func_setLife_ne h]

theorem enterStopped_func_ne (h : k ≠ f) (s : State) : (enterStopped f s).func k = s.func k := by
  rw [enterStopped_eq, (State.endStops_touch ..).func_eq]
  split
  · rw [enterOff_func_ne h, stoppedAt_func_ne h]
  · rw [stoppedAt_func_ne h]

theorem enterStopped_stays (h : (s.func f).offReq = false) : (enterStopped f s).func f =
    { s.func f with state := .stopped, lastChange := s.now, stopReq := false } := by
  rw [enterStopped_eq, (State.endStops_touch ..).func_eq, stoppedAt_func]
  rw [if_neg (by rw [h]; decide), stoppedAt_func]

theorem enterStopped_off (h : (s.func f).offReq = true) : ((enterStopped f s).func f).state = .off ∧ ((enterStopped f s).func f).config = none := by
  rw [enterStopped_eq, (State.endStops_touch ..).func_eq, stoppedAt_func]
  rw [if_pos h, enterOff_func]
  exact ⟨rfl, rfl⟩

end

end Sys2Proof.Machine
end

section
/-! PROOFS. The phases of a power channel and of its Chive term (R377-R379, R384). -/

namespace Sys2Proof.Machine

open Sys2Proof

set_option Elab.async false

section
variable {c j : Fin 4} {s : State}

theorem pch_onPch (g : Pch → Pch) (s : State) : (s.onPch c g).pch c = g (s.pch c) := State.pch_onPch c g s

/-! PCH_SWITCHING_BEGIN and PCH_LOW_SIDE_CLOSED. -/

theorem beginSwitching_starts (hl : s.life? (.pch c) = .starting) (h1 : (s.pch c).phase = 1) {n : Nat} (hn : n ≤ s.since (.pch c)) :
    beginSwitching n c s = s.onPch c fun p => { p with
      phase := 2, cm := { cmUp (s.cmRampMs c) s.fsHz with pos := 1000 * s.since (.pch c) - s.fsHz } } := by
  unfold beginSwitching
  rw [if_pos (by simp [hl, h1, hn])]

theorem beginSwitching_waits {n : Nat} (h : s.life? (.pch c) ≠ .starting ∨ (s.pch c).phase ≠ 1 ∨ s.since (.pch c) < n) :
    beginSwitching n c s = s := by
  unfold beginSwitching
  refine if_neg fun hall => ?_
  simp only [Bool.and_eq_true, beq_iff_eq, decide_eq_true_eq] at hall
  obtain ⟨⟨hl, h1⟩, hn⟩ := hall
  exact h.elim (· hl) fun h => h.elim (· h1) fun h => absurd hn (Nat.not_le.2 h)

theorem closeLowSides_closes {n : Nat} (h5 : (s.pch c).phase = 5) (hp : (s.pch c).cm.pos ≤ n) :
    closeLowSides n c s = s.onPch c fun p => { p with phase := 1, cm := Fade.zero } := by
  unfold closeLowSides
  rw [if_pos (by simp [h5, hp])]

theorem closeLowSides_waits {n : Nat} (h : (s.pch c).phase ≠ 5 ∨ n < (s.pch c).cm.pos) : closeLowSides n c s = s := by
  unfold closeLowSides
  refine if_neg fun hall => ?_
  simp only [Bool.and_eq_true, beq_iff_eq, decide_eq_true_eq] at hall
  exact h.elim (· hall.1) fun h => absurd hall.2 (Nat.not_le.2 h)

/-! PCH_ENTER_RUNNING. -/

theorem enterRunning_pch_eq (c : Fin 4) (s : State) : enterRunning (.pch c) s =
    (((pchRuns c (s.setLife (.pch c) .running)).bump (pchFn c) 0).onFunc (.pch c) fun r => { r with
      fade := r.fade.go true (((pchRuns c (s.setLife (.pch c) .running)).bump (pchFn c) 0).fadeTime (.pch c)) }).endStarts (.pch c) stOk := rfl

theorem pchRuns_pch (c : Fin 4) (s : State) : ((pchRuns c s).pch c).phase = 3 := by rw [pchRuns, pch_onPch]

theorem pchRuns_pch_ne (h : j ≠ c) (s : State) : (pchRuns c s).pch j = s.pch j := State.pch_onPch_ne _ s h

theorem fade_go_up (f : Fade) (t : Nat) : (f.go true t).up = true := by
  unfold Fade.go
  dsimp only
  repeat' split
  all_goals rfl

theorem enterRunning_pch_phase (c : Fin 4) (s : State) : ((enterRunning (.pch c) s).pch c).phase = 3 := by
  rw [enterRunning_pch_eq, (State.endStarts_touch ..).pch_eq]
  exact pchRuns_pch c _

theorem enterRunning_pch_ne (h : j ≠ c) (s : State) : (enterRunning (.pch c) s).pch j = s.pch j := by
  rw [enterRunning_pch_eq, (State.endStarts_touch ..).pch_eq]
  exact pchRuns_pch_ne h _

theorem enterRunning_pch_fade (c : Fin 4) (s : State) : ((enterRunning (.pch c) s).func (.pch c)).fade.up = true := by
  rw [enterRunning_pch_eq, (State.endStarts_touch ..).func_eq, State.func_onFunc]
  exact fade_go_up _ _

theorem enterRunning_pch_counts (c : Fin 4) (s : State) : Counts s (enterRunning (.pch c) s) (pchFn c) 0 1 := by
  rw [enterRunning_pch_eq]
  exact counts_congr ((pchRuns_touch c (s.setLife (.pch c) .running)).cnt_eq).symm
    (State.endStarts_touch ..).cnt_eq (counts_bumpBy (by decide) (pchFn c) 1 (pchRuns c (s.setLife (.pch c) .running)))

theorem pchEnterRunning_waits (h : rampDone c s = false) : pchEnterRunning c s = s := by
  unfold pchEnterRunning
  dsimp only
  rw [if_pos (by rw [h]; rfl)]

theorem pchEnterRunning_start (h : rampDone c s = true) (hl : s.life? (.pch c) = .starting) :
    pchEnterRunning c s = enterRunning (.pch c) s := by
  unfold pchEnterRunning
  dsimp only
  rw [if_neg (by rw [h]; decide), if_pos (by rw [hl]; rfl)]

theorem pchEnterRunning_restart (h : rampDone c s = true) (hl : s.life? (.pch c) = .running) :
    pchEnterRunning c s = (pchRuns c s).onFunc (.pch c) fun r => { r with fade := Fade.zero.go true (s.fadeTime (.pch c)) } := by
  unfold pchEnterRunning
  dsimp only
  rw [if_neg (by rw [h]; decide), if_neg (by rw [hl]; decide)]

theorem pchEnterRunning_spec (c : Fin 4) (b : State) :
    ((b.pch c).phase = 2 → b.life? (.pch c) = .starting → b.msTicks (1 + b.cmRampMs c) ≤ b.since (.pch c) →
      Only [.funcs, .jobs, .acts, .rings, .pages, .link, .reqs, .svc, .portA, .portB, .path, .loc, .pwr, .log, .cnt] b (pchEnterRunning c b) ∧
      (pchEnterRunning c b).life? (.pch c) = .running ∧ ((pchEnterRunning c b).pch c).phase = 3 ∧
      ((pchEnterRunning c b).func (.pch c)).fade.up = true ∧ Counts b (pchEnterRunning c b) (pchFn c) 0 1 ∧
      (∀ f : Func, f ≠ .pch c → (pchEnterRunning c b).func f = b.func f) ∧ ∀ k, k ≠ c → (pchEnterRunning c b).pch k = b.pch k) ∧
    ((b.pch c).phase = 2 → b.life? (.pch c) = .running → (b.pch c).cm.atFull = true → Only [.funcs, .pwr] b (pchEnterRunning c b) ∧
      ((pchEnterRunning c b).pch c).phase = 3 ∧ (pchEnterRunning c b).life? (.pch c) = .running ∧
      ((pchEnterRunning c b).func (.pch c)).fade.pos = 0 ∧ ((pchEnterRunning c b).func (.pch c)).fade.up = true ∧
      ∀ k, k ≠ c → (pchEnterRunning c b).pch k = b.pch k) ∧
    (rampDone c b = false → pchEnterRunning c b = b) := by
  refine ⟨fun h2 hl hn => ?_, fun h2 hl hfull => ?_, pchEnterRunning_waits⟩
  · have hdone : rampDone c b = true := by simp [rampDone, h2, hl, hn]
    rw [pchEnterRunning_start hdone hl]
    exact ⟨(enterRunning_touch (.pch c) b).frame, enterRunning_life? _ b, enterRunning_pch_phase c b, enterRunning_pch_fade c b,
      enterRunning_pch_counts c b, fun f hf => enterRunning_func_ne hf b, fun k hk => enterRunning_pch_ne hk b⟩
  · have hdone : rampDone c b = true := by simp [rampDone, h2, hl, hfull]
    have hfunc : ((pchRuns c b).onFunc (.pch c) fun r => { r with fade := Fade.zero.go true (b.fadeTime (.pch c)) }).func (.pch c) =
        { b.func (.pch c) with fade := Fade.zero.go true (b.fadeTime (.pch c)) } := by
      rw [State.func_onFunc, (pchRuns_touch c b).func_eq]
    rw [pchEnterRunning_restart hdone hl]
    refine ⟨((State.onFunc_touch ..).after ((pchRuns_touch c b).after (Touch.refl [.funcs, .pwr] b) rfl) rfl).frame,
      pchRuns_pch c b, ?_, ?_, ?_, fun k hk => pchRuns_pch_ne hk b⟩
    · rw [State.life?, hfunc]
      exact hl
    · rw [hfunc]
      rfl
    · rw [hfunc]
      exact fade_go_up _ _

/-! PCH_CM_RAMP_DOWN. -/

theorem rampDown_spec (c : Fin 4) (b : State) :
    ((b.pch c).phase = 4 → (b.func (.pch c)).fade.silent = true → Only [.pwr] b (rampDown c b) ∧
      (rampDown c b).pch c = { b.pch c with phase := 5, cm := ((rampDown c b).pch c).cm, mark := ((rampDown c b).pch c).mark } ∧
      ((rampDown c b).pch c).cm.up = false ∧ ∀ k, k ≠ c → (rampDown c b).pch k = b.pch k) ∧
    ((b.pch c).phase ≠ 4 ∨ (b.func (.pch c)).fade.silent = false → rampDown c b = b) := by
  have htouch := (rampDown_touch c b).frame
  unfold rampDown at htouch ⊢
  dsimp only at htouch ⊢
  refine ⟨fun h4 hs => ?_, fun h => if_neg fun hall => ?_⟩
  · rw [if_pos (by simp [h4, hs])] at htouch ⊢
    refine ⟨htouch, ?_, ?_, fun k hk => State.pch_onPch_ne _ b hk⟩
    · rw [pch_onPch]
    · rw [pch_onPch]
  · simp only [Bool.and_eq_true, beq_iff_eq] at hall
    exact h.elim (· hall.1) fun h => by simp [h] at hall

/-! PCH_SWITCHES_OPEN. -/

theorem stoppedAt_pch (c : Fin 4) (s : State) : (stoppedAt (.pch c) s).pch c = { s.pch c with
    prot := 0, retry := 0, stopCause := 0, saved := some ((s.pch c).tc, (s.pch c).tm) } := by
  rw [stoppedAt, (dropRequests_touch ..).pch_eq, State.pch_onFunc]
  exact (pch_onPch _ _).trans (by rw [pch_onPch])

theorem stoppedAt_pch_ne (h : j ≠ c) (s : State) : (stoppedAt (.pch c) s).pch j = s.pch j := by
  rw [stoppedAt, (dropRequests_touch ..).pch_eq, State.pch_onFunc]
  exact (State.pch_onPch_ne _ _ h).trans (State.pch_onPch_ne _ _ h)

theorem enterOff_pch (c : Fin 4) (s : State) : ((enterOff (.pch c) s).pch c).phase = (s.pch c).phase ∧
    ((enterOff (.pch c) s).pch c).saved = (s.pch c).saved := by
  rw [enterOff, State.pch_onFunc, clearIsland, pch_onPch]
  exact ⟨rfl, rfl⟩

theorem enterOff_pch_ne (h : j ≠ c) (s : State) : (enterOff (.pch c) s).pch j = s.pch j := by
  rw [enterOff, State.pch_onFunc, clearIsland, State.pch_onPch_ne _ _ h]
  rfl

/-- A channel as its stop ends: its phase, its coil's stored state, and the other channels. -/
theorem enterStopped_pch (c : Fin 4) (s : State) : ((enterStopped (.pch c) s).pch c).phase = (s.pch c).phase ∧
    ((enterStopped (.pch c) s).pch c).saved = some ((s.pch c).tc, (s.pch c).tm) ∧
    ∀ j, j ≠ c → (enterStopped (.pch c) s).pch j = s.pch j := by
  have hat := stoppedAt_pch c s
  have hend : ∀ j, (enterStopped (.pch c) s).pch j =
      (if ((stoppedAt (.pch c) s).func (.pch c)).offReq then enterOff (.pch c) (stoppedAt (.pch c) s) else stoppedAt (.pch c) s).pch j := by
    intro j
    rw [enterStopped_eq, (State.endStops_touch ..).pch_eq]
  by_cases ho : ((stoppedAt (.pch c) s).func (.pch c)).offReq = true
  · obtain ⟨hphase, hsaved⟩ := enterOff_pch c (stoppedAt (.pch c) s)
    refine ⟨?_, ?_, fun j hj => ?_⟩
    · rw [hend, if_pos ho, hphase, hat]
    · rw [hend, if_pos ho, hsaved, hat]
    · rw [hend, if_pos ho, enterOff_pch_ne hj, stoppedAt_pch_ne hj]
  · refine ⟨?_, ?_, fun j hj => ?_⟩
    · rw [hend, if_neg ho, hat]
    · rw [hend, if_neg ho, hat]
    · rw [hend, if_neg ho, stoppedAt_pch_ne hj]

/-- What a channel whose fault ends its stop is, as it is reported. -/
def faultEnd (c : Fin 4) (s : State) : State :=
  enterFaulted (.pch c) (s.pch c).stopCause 0 (saveCoil c (s.onPch c fun p => { p with
    stopCause := 0, prot := if p.prot = 3 then 3 else 0 }))

theorem faultEnd_pch (c : Fin 4) (s : State) : ((faultEnd c s).pch c).phase = (s.pch c).phase ∧
    ((faultEnd c s).pch c).saved = some ((s.pch c).tc, (s.pch c).tm) ∧ ∀ j, j ≠ c → (faultEnd c s).pch j = s.pch j := by
  have hcoil : (saveCoil c (s.onPch c fun p => { p with stopCause := 0, prot := if p.prot = 3 then 3 else 0 })).pch c = { s.pch c with
      stopCause := 0, prot := if (s.pch c).prot = 3 then 3 else 0, saved := some ((s.pch c).tc, (s.pch c).tm) } := by
    rw [saveCoil, pch_onPch, pch_onPch]
  refine ⟨?_, ?_, fun j hj => ?_⟩
  · rw [faultEnd, (enterFaulted_touch ..).pch_eq, hcoil]
  · rw [faultEnd, (enterFaulted_touch ..).pch_eq, hcoil]
  · rw [faultEnd, (enterFaulted_touch ..).pch_eq, saveCoil, State.pch_onPch_ne _ _ hj, State.pch_onPch_ne _ _ hj]

/-- The switches open as a stop ends: the channel stops, or is FAULTED with the cause of the stop. -/
theorem pchStopped_open (hl : s.life? (.pch c) = .stopping) (hm : s.pastMark c 0 = true) :
    pchStopped c (openSwitches c s) =
      if (s.pch c).stopCause = 0 then enterStopped (.pch c) (openSwitches c s) else faultEnd c (openSwitches c s) := by
  have hp := openSwitches_pch c s
  have hmark : (openSwitches c s).pastMark c 0 = true := by
    rw [State.pastMark, hp] at *
    exact hm
  unfold pchStopped
  dsimp only
  rw [openSwitches_life?, hl, hmark, hp, if_neg (by simp), faultEnd, hp]

theorem pchSwitchesOpen_spec (c : Fin 4) (b : State) :
    (b.life? (.pch c) = .stopping → (b.pch c).phase = 1 → b.pastMark c 0 = true →
      ((pchSwitchesOpen c b).pch c).phase = 0 ∧ ((pchSwitchesOpen c b).pch c).saved = some ((b.pch c).tc, (b.pch c).tm) ∧
      ((b.pch c).stopCause = 0 → (b.func (.pch c)).offReq = false → (pchSwitchesOpen c b).life? (.pch c) = .stopped) ∧
      ((b.pch c).stopCause = 0 → (b.func (.pch c)).offReq = true → (pchSwitchesOpen c b).life? (.pch c) = .off) ∧
      ((b.pch c).stopCause ≠ 0 → (pchSwitchesOpen c b).life? (.pch c) = .faulted ∧
        ((pchSwitchesOpen c b).func (.pch c)).cause = (b.pch c).stopCause) ∧
      (∀ f : Func, f ≠ .pch c → (pchSwitchesOpen c b).func f = b.func f) ∧ ∀ k, k ≠ c → (pchSwitchesOpen c b).pch k = b.pch k) ∧
    (b.life? (.pch c) ≠ .stopping ∨ (b.pch c).phase ≠ 1 ∨ b.pastMark c 0 = false → pchSwitchesOpen c b = b) := by
  refine ⟨fun hl h1 hm => ?_, fun h => if_neg fun hall => ?_⟩
  · have heq : pchSwitchesOpen c b = pchStopped c (openSwitches c b) := by
      unfold pchSwitchesOpen
      rw [if_pos (by simp [hl, h1, hm])]
    have hp := openSwitches_pch c b
    have hoff : ((openSwitches c b).func (.pch c)).offReq = (b.func (.pch c)).offReq := by rw [openSwitches_func]
    rw [heq, pchStopped_open hl hm]
    by_cases h0 : (b.pch c).stopCause = 0
    · rw [if_pos h0]
      obtain ⟨hphase, hsaved, hne⟩ := enterStopped_pch c (openSwitches c b)
      refine ⟨by rw [hphase, hp], by rw [hsaved, hp], fun _ ho => ?_, fun _ ho => ?_, fun h => absurd h0 h, fun f hf => ?_, fun k hk => ?_⟩
      · rw [State.life?, enterStopped_stays (hoff.trans ho)]
      · exact (enterStopped_off (hoff.trans ho)).1
      · rw [enterStopped_func_ne hf, openSwitches_func_ne hf]
      · rw [hne k hk, openSwitches_pch_ne hk]
    · rw [if_neg h0]
      obtain ⟨hphase, hsaved, hne⟩ := faultEnd_pch c (openSwitches c b)
      refine ⟨by rw [hphase, hp], by rw [hsaved, hp], fun h => absurd h h0, fun h => absurd h h0, fun _ => ?_, fun f hf => ?_, fun k hk => ?_⟩
      · rw [State.life?, faultEnd, enterFaulted_func, hp]
        exact ⟨rfl, rfl⟩
      · rw [faultEnd, enterFaulted_func_ne hf]
        exact ((saveCoil_touch c _).func_eq f).trans (openSwitches_func_ne hf b)
      · rw [hne k hk, openSwitches_pch_ne hk]
  · simp only [Bool.and_eq_true, beq_iff_eq] at hall
    obtain ⟨⟨hl, h1⟩, hm⟩ := hall
    exact h.elim (· hl) fun h => h.elim (· h1) fun h => by simp [h] at hm

/-! FAST_STOP_END. -/

theorem fastStopEnd_waits {n : Nat} (h : (s.pch c).phase ≠ 6 ∨ (s.pastMark c n = false ∧ s.chip.supply ≠ .off)) :
    fastStopEnd n c s = s := by
  unfold fastStopEnd
  by_cases h6 : (s.pch c).phase = 6
  · obtain ⟨hm, hs⟩ := h.resolve_left (not_not_intro h6)
    rw [if_neg (by simp [h6]), if_neg hs, if_neg (by rw [hm]; decide)]
  · rw [if_pos (bne_iff_ne.2 h6)]

theorem fastStopEnd_ends {n : Nat} (h6 : (s.pch c).phase = 6) (hs : s.chip.supply ≠ .off) (hm : s.pastMark c n = true) :
    fastStopEnd n c s = faultFunc (.pch c) 4 0 ((openSwitches c s).bump (pchFn c) 2) := by
  unfold fastStopEnd
  rw [if_neg (by simp [h6]), if_neg hs, if_pos hm]

theorem faultPch_calm_touch (h : (s.pch c).test = none) (cause : Byte) (data : DWord) :
    Touch [.funcs, .jobs, .acts, .rings, .pages, .link, .reqs, .pwr, .log] s (faultPch c cause data s) := by
  have hend : endTest c stBadState s = s := by
    unfold endTest
    rw [h]
  unfold faultPch
  rw [hend]
  refine Touch.ite ((openSwitches_touch ..).after ?_ rfl) ((fastStop_touch ..).after ?_ rfl) <;>
    exact (State.onPch_touch ..).after ((enterFaulted_touch ..).after (Touch.refl _ s) rfl) rfl

theorem faultPch_pch_ne (h : j ≠ c) (cause : Byte) (data : DWord) (s : State) : (faultPch c cause data s).pch j = s.pch j := by
  unfold faultPch
  extract_lets s1 s2
  have h2 : s2.pch j = s.pch j := by
    rw [State.pch_onPch_ne _ _ h]
    exact ((enterFaulted_touch ..).pch_eq j).trans (endTest_pch_ne h ..)
  split
  · rw [openSwitches_pch_ne h, h2]
  · rw [fastStop_pch_ne h, h2]

theorem faultPch_func_ne {f : Func} (h : f ≠ .pch c) (cause : Byte) (data : DWord) (s : State) :
    (faultPch c cause data s).func f = s.func f := by
  unfold faultPch
  extract_lets s1 s2
  have h2 : s2.func f = s.func f := (State.func_onPch ..).trans ((enterFaulted_func_ne h ..).trans ((endTest_touch ..).func_eq f))
  split
  · rw [openSwitches_func_ne h, h2]
  · rw [fastStop_func_ne h, h2]

theorem fastStopEnd_does (h6 : (s.pch c).phase = 6) (hm : s.pastMark c (2 * s.fsHz / 1000) = true) (hb : (s.life? (.pch c)).busy = true)
    (htest : (s.pch c).test = none) (hs : s.chip.supply ≠ .off) :
    Does (.fastStopEnd c) s [.funcs, .jobs, .acts, .rings, .pages, .link, .reqs, .portA, .portB, .path, .time, .strm, .lov, .cores,
        .loc, .pwr, .memc, .log, .cnt] fun t => (t.pch c).phase = 0 ∧
      t.life? (.pch c) = .faulted ∧ (t.func (.pch c)).cause = 0x04 ∧ Counts s t (pchFn c) 2 1 ∧
      (∀ f : Func, f ≠ .pch c → t.func f = s.func f) ∧ ∀ k, k ≠ c → t.pch k = s.pch k := by
  have hexec := exec_fastStopEnd c s
  rw [execFastStopEnd, fastStopEnd_ends h6 hs hm] at hexec
  have hopen := openSwitches_pch c s
  have hbump : Touch [.funcs, .pwr, .cnt] s ((openSwitches c s).bump (pchFn c) 2) :=
    (State.bump_touch ..).after ((openSwitches_touch c s).after (Touch.refl _ s) rfl) rfl
  have hlife : ((openSwitches c s).bump (pchFn c) 2).life? (.pch c) = s.life? (.pch c) := openSwitches_life? c _ s
  have hpch : ∀ k, ((openSwitches c s).bump (pchFn c) 2).pch k = (openSwitches c s).pch k := fun k => rfl
  have hcount : Counts s ((openSwitches c s).bump (pchFn c) 2) (pchFn c) 2 1 := count_bump_congr (openSwitches_touch c s).cnt_eq (by decide)
  have hfunc : ∀ f : Func, f ≠ .pch c → ((openSwitches c s).bump (pchFn c) 2).func f = s.func f := fun f hf => openSwitches_func_ne hf s
  generalize (openSwitches c s).bump (pchFn c) 2 = u at hexec hbump hlife hpch hcount hfunc
  have hfaults : u.faults (.pch c) 4 = true := by rw [State.faults, hlife, hb]; rfl
  have hu : (u.pch c).phase = 0 := by rw [hpch, hopen]
  have hut : (u.pch c).test = none := by rw [hpch, hopen]; exact htest
  have hphase := faultPch_phase (data := 0) hfaults (by decide) hu
  have hstand := stand_eq_iff.1 (faultFunc_self hfaults 0)
  rw [faultFunc_pch hfaults] at hexec hphase hstand
  have htouch := faultPch_calm_touch hut 4 0
  refine (htouch.after (hbump.after (Touch.refl _ s) rfl) rfl).does hexec ⟨hphase, hstand.1, hstand.2,
    counts_congr rfl htouch.cnt_eq hcount, fun f hf => ?_, fun k hk => ?_⟩
  · rw [faultPch_func_ne hf, hfunc f hf]
  · rw [faultPch_pch_ne hk, hpch, openSwitches_pch_ne hk]

/-! The Chive term. -/

theorem chiveSettle_spec (c : Fin 4) (b : State) :
    ((b.pch c).chiveWait = 1 → Only [.pwr] b (chiveSettle c b) ∧
      ((chiveSettle c b).pch c).chiveSrc = BitVec.ofNat 8 (b.param (.pch c) 4 0xFF) ∧
      ((chiveSettle c b).pch c).chiveGain = BitVec.ofNat 4 (b.param (.pch c) 5 0) ∧
      ((chiveSettle c b).pch c).chiveWait = 0 ∧ ((chiveSettle c b).pch c).phase = (b.pch c).phase ∧
      ∀ k, k ≠ c → (chiveSettle c b).pch k = b.pch k) ∧
    ((b.pch c).chiveWait ≠ 1 → chiveSettle c b = b) := by
  refine ⟨fun h => ?_, fun h => if_neg h⟩
  have heq : chiveSettle c b = chiveApply c b := if_pos h
  rw [heq]
  have hp : (chiveApply c b).pch c = { b.pch c with
      chiveSrc := BitVec.ofNat 8 (b.param (.pch c) 4 0xFF), chiveGain := BitVec.ofNat 4 (b.param (.pch c) 5 0), chiveWait := 0, cut := false
      chive := if b.streamRuns (b.param (.pch c) 4 0xFF) then (b.pch c).chive.go true 64 else Fade.zero } := pch_onPch _ b
  rw [hp]
  exact ⟨(chiveApply_touch c b).frame, rfl, rfl, rfl, rfl, fun k hk => State.pch_onPch_ne _ b hk⟩

theorem chiveCut_cuts (hsrc : (s.pch c).chiveSrc.toNat < 40) (hcut : (s.pch c).cut = false) (hphase : (s.pch c).phase = 3 ∨ (s.pch c).phase = 4) :
    Does (.chiveCut c) s [.pwr, .cnt] fun t => t.pwr = (s.onPch c fun p => { p with chive := Fade.zero, cut := true }).pwr ∧
      Counts s t (pchFn c) 3 1 := by
  have hexec := exec_chiveCut c s
  unfold execChiveCut at hexec
  dsimp only at hexec
  rw [if_pos (by simpa [hsrc, hcut] using hphase)] at hexec
  exact ((State.bump_touch ..).after ((State.onPch_touch ..).after (Touch.refl _ s) rfl) rfl).does hexec
    ⟨rfl, count_bump_congr rfl (by decide)⟩

theorem chiveCut_none (h : 40 ≤ (s.pch c).chiveSrc.toNat ∨ (s.pch c).cut = true ∨ ((s.pch c).phase ≠ 3 ∧ (s.pch c).phase ≠ 4)) :
    exec (.chiveCut c) s = .next s := by
  rw [exec_chiveCut, execChiveCut]
  refine congrArg Host.Outcome.next (if_neg fun hall => ?_)
  simp only [Bool.and_eq_true, Bool.or_eq_true, beq_iff_eq, decide_eq_true_eq, Bool.not_eq_true'] at hall
  obtain ⟨⟨hsrc, hcut⟩, hphase⟩ := hall
  obtain h | h | h := h
  · omega
  · simp [hcut] at h
  · exact hphase.elim h.1 h.2

theorem chiveRestore_spec (c : Fin 4) (b : State) :
    ((b.pch c).cut = true → b.streamRuns (b.pch c).chiveSrc.toNat = true → chiveRestore c b = b.onPch c fun p => { p with
      cut := false, chive := if p.chiveWait = 0 then p.chive.go true 64 else p.chive }) ∧
    ((b.pch c).cut = false ∨ b.streamRuns (b.pch c).chiveSrc.toNat = false → chiveRestore c b = b) := by
  unfold chiveRestore
  refine ⟨fun hc hr => if_pos (by simp [hc, hr]), fun h => if_neg fun hall => ?_⟩
  simp only [Bool.and_eq_true] at hall
  exact h.elim (fun h => by simp [h] at hall) fun h => by simp [h] at hall

end

/-- Settles O40: each phase by its own equation; what comes at a boundary is told by the work of that boundary. -/
theorem powerStages : Obligations.PowerStages := by
  unfold Obligations.PowerStages
  intro s c
  refine ⟨fun hl h1 hn => ?_, fun h => ?_, doesAt_boundaryDo (exec_pchEnterRunning c s) (fun b => (pchEnterRunning_touch c b).queue) (pchEnterRunning_spec c),
    doesAt_boundaryDo (exec_pchCmRampDown c s) (fun b => (rampDown_touch c b).queue) (rampDown_spec c), fun h5 hp => ?_, fun h => ?_,
    doesAt_boundaryDo (exec_pchSwitchesOpen c s) (fun b => (pchSwitchesOpen_touch c b).queue) (pchSwitchesOpen_spec c),
    fun h6 hm hb ht hs _ => fastStopEnd_does h6 hm hb ht hs, fun h => ?_,
    doesAt_boundaryDo (exec_chiveSettingApply c s) (fun b => (chiveSettle_touch c b).queue) (chiveSettle_spec c), chiveCut_cuts, chiveCut_none,
    doesAt_boundaryDo (exec_chiveRestore c s) (fun b => (chiveRestore_touch c b).queue) (chiveRestore_spec c)⟩
  · rw [exec_pchSwitchingBegin, execPchSwitchingBegin, beginSwitching_starts hl h1 hn]
  · rw [exec_pchSwitchingBegin, execPchSwitchingBegin, beginSwitching_waits h]
  · rw [exec_pchLowSideClosed, execPchLowSideClosed, closeLowSides_closes h5 (Nat.le_of_lt_succ hp)]
  · rw [exec_pchLowSideClosed, execPchLowSideClosed, closeLowSides_waits (h.imp_right fun h => h)]
  · rw [exec_fastStopEnd, execFastStopEnd, fastStopEnd_waits h]

end Sys2Proof.Machine
end

section
/-! PROOFS. Events raised for the host (R104), and the interlock land with the end of a switch (R184, R185, R189). -/

namespace Sys2Proof.Machine

open Sys2Proof

set_option Elab.async false

/-- Event bit `b` of the host's page. -/
def State.eventSet (s : State) (b : Nat) : Bool := s.host.hostPage.event.getLsbD b

theorem PageSt.raise_event {b : Nat} (hb : b < 64) (p : PageSt) (j : Nat) :
    (p.raise b).event.getLsbD j = (p.event.getLsbD j || decide (j = b)) := by
  unfold PageSt.raise
  split
  next h =>
    by_cases hj : j = b
    · subst hj
      simp [h]
    · simp [hj]
  next h =>
    have hbit : (BitVec.ofNat 64 (2 ^ b)).getLsbD j = decide (j = b) := by
      rw [BitVec.getLsbD_ofNat, Nat.testBit_two_pow]
      by_cases hj : j = b
      · simp [hj, hb]
      · simp [hj, Ne.symm hj]
    rw [BitVec.getLsbD_or, hbit]

theorem eventSet_raise {b : Nat} (hb : b < 64) (s : State) (j : Nat) : (s.raise b).eventSet j = (s.eventSet j || decide (j = b)) :=
  PageSt.raise_event hb s.host.hostPage j

theorem eventSet_raise_self {b : Nat} (hb : b < 64) (s : State) : (s.raise b).eventSet b = true := by
  rw [eventSet_raise hb]
  simp

theorem eventSet_putEntry (code func cause : Byte) (data : DWord) (s : State) {j : Nat} (h : s.eventSet j = true) :
    (s.putEntry code func cause data).eventSet j = true := by
  refine (eventSet_raise (by decide) _ j).trans ?_
  rw [Bool.or_eq_true]
  exact Or.inl h

theorem eventSet_logEntry (code func cause : Byte) (data : DWord) (s : State) {j : Nat} (h : s.eventSet j = true) :
    (s.logEntry code func cause data).eventSet j = true := by
  unfold State.logEntry
  extract_lets recent young s1
  split
  · exact h
  split
  · exact h
  · refine eventSet_putEntry (s := s1) code func cause data ?_
    unfold s1
    split
    · exact h
    · exact eventSet_putEntry (s := s) _ _ _ _ h

theorem Touch.eventSet_eq {ps : List Part} {s t : State} (h : Touch ps s t) (j : Nat) (hp : ps.contains .pages = false := by rfl) :
    t.eventSet j = s.eventSet j := congrArg (fun p : PageSt => p.event.getLsbD j) (h.same (p := .pages) hp).1

/-! The role of a path. -/

theorem otherPort_ne_self (p : Port) : otherPort p ≠ p := by cases p <;> decide

theorem role_setRole (p : Port) (r : Role) (s : State) : (setRole p r s).role p = r := by cases p <;> rfl

theorem role_setRole_ne {p q : Port} (h : q ≠ p) (r : Role) (s : State) : (setRole p r s).role q = s.role q := by
  cases p <;> cases q <;> first | rfl | exact absurd rfl h

theorem role_enterStep_ne {p q : Port} (h : q ≠ p) (s : State) : (enterStep p s).role q = s.role q := by
  have hd : (enterStep p s).role q = (setRole p .inStep s).role q := by cases q <;> rfl
  rw [hd, role_setRole_ne h]

theorem role_of_path {s t : State} (h : t.path = s.path) (p : Port) : t.role p = s.role p := by
  cases p
  · exact congrArg PathSt.roleA h
  · exact congrArg PathSt.roleB h

/-! A switch of ILK (R190, R192). -/

/-- What a change of a role leaves of a path's state. -/
def PathSt.bare (x : PathSt) : Port × Option Unsync × DWord := (x.active, x.unsync, x.lastTick)

theorem bare_setRole (p : Port) (r : Role) (s : State) : (setRole p r s).path.bare = s.path.bare := by cases p <;> rfl

theorem bare_enterStep (p : Port) (s : State) : (enterStep p s).path.bare = s.path.bare := bare_setRole p .inStep s

theorem logEntry_path (code func cause : Byte) (data : DWord) (s : State) : (s.logEntry code func cause data).path = s.path :=
  (State.logEntry_touch ..).path_eq

/-- The switch makes its target the path that ILK selects, at once, and raises event bit 2. -/
theorem doSwitch_spec (tgt : Port) (cause : Trigger) (sync : Bool) (s : State) :
    (doSwitch tgt cause sync s).path.bare = (tgt, s.path.unsync, s.now) ∧ (doSwitch tgt cause sync s).role tgt = .active ∧
      (doSwitch tgt cause sync s).eventSet 2 = true := by
  unfold doSwitch
  extract_lets old keep count s1 s2 s3
  have hne : tgt ≠ old := (otherPort_ne_self tgt).symm
  have hend : ∀ u : State, u = ((s3.bumpPath tgt 12).raise 2).logEntry 0x04 0 0 (s3.path.lastSwitch.zeroExtend 64) → u.path = s3.path := by
    intro u hu
    rw [hu, logEntry_path]
    rfl
  have hbare : s3.path.bare = (tgt, s.path.unsync, s.now) := by
    have h2 : s2.path.bare = (tgt, s.path.unsync, s.now) := bare_setRole tgt .active s1
    unfold s3
    split
    · exact (bare_enterStep old s2).trans h2
    · exact (bare_setRole old _ s2).trans h2
  have hrole : s3.role tgt = .active := by
    have h2 : s2.role tgt = .active := role_setRole tgt .active s1
    unfold s3
    split
    · exact (role_enterStep_ne hne s2).trans h2
    · exact (role_setRole_ne hne _ s2).trans h2
  refine ⟨?_, (role_of_path (hend _ rfl) tgt).trans hrole, eventSet_logEntry _ _ _ _ _ (eventSet_raise_self (by decide) _)⟩
  rw [hend _ rfl, hbare]

theorem endRequests_path (status : Byte) (p : Port → Bool → Bool) (s : State) :
    (endRequests status p s).path = { s.path with request := (endRequests status p s).path.request } := by
  have h : (endRequests status p s).path = { s.path with request := s.path.request.filter fun r => !p r.2.1 r.2.2 } := by
    unfold endRequests
    refine (forAll_keeps State.path (fun r _ u => ?_) _).trans rfl
    split
    · exact (State.endJob_touch ..).path_eq
    · rfl
  rw [h]

/-- The requests that a switch answers leave the switch as it is. -/
theorem endRequest_keeps (status : Byte) (s : State) : (endRequest status s).path.bare = s.path.bare ∧
    (∀ p, (endRequest status s).role p = s.role p) ∧ ∀ j, (endRequest status s).eventSet j = s.eventSet j := by
  have h := endRequests_path status (fun _ _ => true) s
  refine ⟨(congrArg PathSt.bare h).trans rfl, fun p => ?_, fun j => (endRequests_touch ..).eventSet_eq j⟩
  cases p
  · exact (congrArg PathSt.roleA h).trans rfl
  · exact (congrArg PathSt.roleB h).trans rfl

/-- The unsynchronised switch changes ILK. -/
theorem unsyncChange_spec {u : Unsync} {s : State} (h : s.path.unsync = some u) (hc : u.changed = false) :
    (unsyncChange s).path.bare = (u.target, some { u with changed := true }, s.now) ∧ (unsyncChange s).role u.target = .active ∧
      (unsyncChange s).eventSet 2 = true := by
  unfold unsyncChange
  simp only [h, hc, Bool.false_eq_true, if_false]
  obtain ⟨hbare, hrole, hev⟩ := doSwitch_spec u.target u.cause false
    ((s.onPath fun x => { x with unsync := some { u with changed := true } }).onLov fun l => { l with netFade := Fade.zero.go true u.f })
  obtain ⟨kbare, krole, kev⟩ := endRequest_keeps stOk (doSwitch u.target u.cause false
    ((s.onPath fun x => { x with unsync := some { u with changed := true } }).onLov fun l => { l with netFade := Fade.zero.go true u.f }))
  exact ⟨kbare.trans hbare, (krole _).trans hrole, (kev 2).trans hev⟩

theorem unsyncChange_changed {u : Unsync} {s : State} (h : s.path.unsync = some u) (hc : u.changed = true) : unsyncChange s = s := by
  unfold unsyncChange
  simp only [h, hc, if_true]

theorem unsyncAge_some {u : Unsync} {s : State} (h : s.path.unsync = some u) :
    s.unsyncAge = some ((s.now - u.start).toNat, u.f) := by
  rw [State.unsyncAge, h]
  rfl

theorem exec_unsyncIlkChange_some {u : Unsync} {s : State} (h : s.path.unsync = some u) :
    exec .unsyncIlkChange s = .next (if u.f ≤ (s.now - u.start).toNat then unsyncChange s else s) := by
  rw [exec_unsyncIlkChange, execUnsyncIlkChange, unsyncAge_some h]

theorem exec_unsyncEnd_some {u : Unsync} {s : State} (h : s.path.unsync = some u) :
    exec .unsyncEnd s = .next (if 2 * u.f ≤ (s.now - u.start).toNat then unsyncClear (unsyncChange s) else s) := by
  rw [exec_unsyncEnd, execUnsyncEnd, unsyncAge_some h]

/-- Settles O30: by what the unsynchronised switch does and by the branches of the commands. -/
theorem ilkCommands : Obligations.IlkCommands := by
  unfold Obligations.IlkCommands
  intro s
  refine ⟨fun u h hc hf => ⟨?_, fun h2 => ?_⟩, fun u h hc h2 => ?_, fun u h hf => ⟨?_, ?_⟩, fun h high => ?_, fun h => ?_, fun h high => ⟨?_, ?_⟩⟩
  · have hexec := exec_unsyncIlkChange_some h
    rw [if_pos hf] at hexec
    obtain ⟨hbare, hrole, hev⟩ := unsyncChange_spec h hc
    exact (unsyncChange_touch s).does hexec ⟨congrArg Prod.fst hbare, congrArg (·.2.1) hbare, congrArg (·.2.2) hbare, hev, hrole⟩
  · have hexec := exec_unsyncEnd_some h
    rw [if_pos h2] at hexec
    obtain ⟨hbare, -, -⟩ := unsyncChange_spec h hc
    exact ((unsyncClear_touch _).after (unsyncChange_touch s) rfl).does hexec ⟨congrArg Prod.fst hbare, rfl⟩
  · have hexec := exec_unsyncEnd_some h
    rw [if_pos h2, unsyncChange_changed h hc] at hexec
    exact (unsyncClear_touch s).does hexec rfl
  · rw [exec_unsyncIlkChange_some h, if_neg (Nat.not_le.2 hf)]
  · rw [exec_unsyncEnd_some h, if_neg (by omega)]
  · rw [exec_ilkNChange, execIlkNChange, if_pos h]
    rfl
  · rw [exec_ilkSample, execIlkSample, if_pos h]
    rfl
  · rw [exec_ilkNChange, execIlkNChange, if_neg (by simp [h])]
  · rw [exec_ilkSample, execIlkSample, if_neg (by simp [h])]

end Sys2Proof.Machine
end

section
/-! PROOFS. The frames of a TDM port (R354, R356, R357). -/

namespace Sys2Proof.Machine

open Sys2Proof

set_option Elab.async false

theorem tdm_onTdm (x : Fin 2) (g : Tdm → Tdm) (s : State) : (s.onTdm x g).tdm x = g (s.tdm x) := vmod_get_self ..

theorem tdm_onTdm_ne {x y : Fin 2} (h : y ≠ x) (g : Tdm → Tdm) (s : State) : (s.onTdm x g).tdm y = s.tdm y := by
  exact vmod_get_ne _ g h

theorem tdm_bump (f i : Nat) (s : State) (x : Fin 2) : (s.bump f i).tdm x = s.tdm x := rfl

section
variable {x y : Fin 2} {s : State}

/-- The port falls silent in state `st`: its fade goes down. -/
theorem tdmFall_tdm (x : Fin 2) (st : BitVec 3) (s : State) : ∃ fade, fade.up = false ∧
    (tdmFall x st s).tdm x = { s.tdm x with state := st, good := 0, rx := none, fade } := by
  refine ⟨if (s.tdm x).fade.up then (s.tdm x).fade.go false (s.fadeTime (tdmFunc x)) else (s.tdm x).fade, ?_, tdm_onTdm ..⟩
  split
  · exact fade_go_down ..
  next h => exact Bool.not_eq_true _ ▸ h

theorem tdmFall_tdm_ne (h : y ≠ x) (st : BitVec 3) (s : State) : (tdmFall x st s).tdm y = s.tdm y := tdm_onTdm_ne h _ s

theorem tdmRise_tdm (x : Fin 2) (s : State) : ((tdmRise x s).tdm x).state = 4 ∧ ((tdmRise x s).tdm x).fade.up = true := by
  rw [tdmRise, tdm_onTdm]
  exact ⟨rfl, fade_go_up ..⟩

/-- Each frame-start of a slave port is judged. -/
def judged (x : Fin 2) (bck edges : Nat) (ppm : Int) (s : State) : State :=
  if edges = 0 then s else s.onTdm x (Tdm.judge (32 * s.tdmSlots x) bck ppm)

theorem judged_tdm (x : Fin 2) (bck edges : Nat) (ppm : Int) (s : State) : (judged x bck edges ppm s).tdm x =
    if edges = 0 then s.tdm x else (s.tdm x).judge (32 * s.tdmSlots x) bck ppm := by
  unfold judged
  split
  · rfl
  · exact tdm_onTdm ..

theorem judged_tdm_ne (h : y ≠ x) (bck edges : Nat) (ppm : Int) (s : State) : (judged x bck edges ppm s).tdm y = s.tdm y := by
  unfold judged
  split
  · rfl
  · exact tdm_onTdm_ne h ..

theorem judged_touch (x : Fin 2) (bck edges : Nat) (ppm : Int) (s : State) : Touch [.loc] s (judged x bck edges ppm s) := by
  unfold judged
  exact Touch.ite (Touch.refl _ s) (State.onTdm_touch ..)

theorem Tdm.judge_keeps (want bck : Nat) (ppm : Int) (t : Tdm) : (t.judge want bck ppm).state = t.state ∧
    (t.judge want bck ppm).good = t.good ∧ (t.judge want bck ppm).good? = t.good? := ⟨rfl, rfl, rfl⟩

/-- The state and the run of good frames are not what a frame is judged by. -/
theorem judged_keeps (x : Fin 2) (bck edges : Nat) (ppm : Int) (s : State) :
    ((judged x bck edges ppm s).tdm x).state = (s.tdm x).state ∧ ((judged x bck edges ppm s).tdm x).good = (s.tdm x).good ∧
    ((judged x bck edges ppm s).tdm x).good? = (s.tdm x).good? := by
  rw [judged_tdm]
  split
  · exact ⟨rfl, rfl, rfl⟩
  · exact Tdm.judge_keeps ..

/-- A judged frame's count and what it does to the port, before the runs of wrong frames are looked at. -/
def framed (x : Fin 2) (bck edges want stable : Nat) (slots : List Word) (s1 : State) : State :=
  if edges ≠ 1 then tdmFall x 3 (s1.bump (tdmFunc x).id.toNat 3)
  else if bck ≠ want then tdmFall x 3 (s1.bump (tdmFunc x).id.toNat 2)
  else if !(s1.tdm x).good? && decide (stable ≤ (s1.tdm x).good + 1) then
    tdmRise x ((s1.bump (tdmFunc x).id.toNat 0).onTdm x fun t => { t with good := t.good + 1, rx := some slots })
  else (s1.bump (tdmFunc x).id.toNat 0).onTdm x fun t => { t with good := t.good + 1, rx := some slots }

theorem framed_touch (x : Fin 2) (bck edges want stable : Nat) (slots : List Word) (s : State) :
    Touch [.loc, .cnt] s (framed x bck edges want stable slots s) := by
  unfold framed
  have hb : ∀ i, Touch [.loc, .cnt] s (s.bump (tdmFunc x).id.toNat i) := fun i => (State.bump_touch ..).after (Touch.refl _ s) rfl
  exact Touch.ite ((tdmFall_touch ..).after (hb 3) rfl) (Touch.ite ((tdmFall_touch ..).after (hb 2) rfl)
    (Touch.ite ((tdmRise_touch ..).after ((State.onTdm_touch ..).after (hb 0) rfl) rfl) ((State.onTdm_touch ..).after (hb 0) rfl)))

end

section
variable {x : Fin 2} {s : State} {bck edges : Nat} {ppm : Int} {slots : List Word}

theorem slaveFrame_eq (h6 : (s.tdm x).state ≠ 6) (h2 : (s.tdm x).state = 2 → edges ≠ 0) : slaveFrame x bck edges ppm slots s =
    if 64 ≤ ((judged x bck edges ppm s).tdm x).badRate ∨ 64 ≤ ((judged x bck edges ppm s).tdm x).badBck then
      tdmFall x 6 ((framed x bck edges (32 * s.tdmSlots x) (s.tdmStable x) slots (judged x bck edges ppm s)).bump
        (tdmFunc x).id.toNat 4)
    else framed x bck edges (32 * s.tdmSlots x) (s.tdmStable x) slots (judged x bck edges ppm s) := by
  have hst := (judged_keeps x bck edges ppm s).1
  unfold slaveFrame
  extract_lets want fn s1 t s2 s3
  have hs1 : s1 = judged x bck edges ppm s := rfl
  have hs3 : s3 = framed x bck edges (32 * s.tdmSlots x) (s.tdmStable x) slots (judged x bck edges ppm s) := rfl
  rw [if_neg fun h => h.elim (fun e => h6 (hst ▸ e)) fun e => h2 (hst ▸ e.1) e.2, hs3]
  rfl

theorem exec_tdmFrame_slave (hb : (s.life? (tdmFunc x)).busy = true) (hs : s.tdmSlave x = true) :
    exec (.tdmFrame x bck edges ppm slots) s = .next (slaveFrame x bck edges ppm slots s) := by
  rw [exec_tdmFrame, execTdmFrame, if_neg (by rw [hb]; decide), if_pos hs]

/-- A frame of a slave port in a run short of 64 wrong ones. -/
theorem tdmFrame_framed (hb : (s.life? (tdmFunc x)).busy = true) (hs : s.tdmSlave x = true) (h6 : (s.tdm x).state ≠ 6)
    (h2 : (s.tdm x).state = 2 → edges ≠ 0) (hr : ((judged x bck edges ppm s).tdm x).badRate < 64)
    (hk : ((judged x bck edges ppm s).tdm x).badBck < 64) {P : State → Prop}
    (hP : P (framed x bck edges (32 * s.tdmSlots x) (s.tdmStable x) slots (judged x bck edges ppm s))) :
    Does (.tdmFrame x bck edges ppm slots) s [.loc, .cnt] P := by
  have hexec := exec_tdmFrame_slave (bck := bck) (edges := edges) (ppm := ppm) (slots := slots) hb hs
  rw [slaveFrame_eq h6 h2, if_neg (by omega)] at hexec
  exact ((framed_touch ..).after ((judged_touch ..).after (Touch.refl [.loc, .cnt] s) rfl) rfl).does hexec hP

theorem counts_bump_judged (i : Nat) (hi : i < 4096) : Counts s ((judged x bck edges ppm s).bump (tdmFunc x).id.toNat i) (tdmFunc x).id.toNat i 1 :=
  count_bump_congr (judged_touch ..).cnt_eq hi

/-- A frame with a fault of counter `i` mutes the port. -/
theorem fallen_spec (i : Nat) (hi : i < 4096) :
    let t := tdmFall x 3 ((judged x bck edges ppm s).bump (tdmFunc x).id.toNat i)
    t.tdm x = { (judged x bck edges ppm s).tdm x with state := 3, good := 0, rx := none, fade := (t.tdm x).fade } ∧
      (t.tdm x).fade.up = false ∧ Counts s t (tdmFunc x).id.toNat i 1 ∧ ∀ y, y ≠ x → t.tdm y = s.tdm y := by
  intro t
  obtain ⟨fade, hup, hfall⟩ := tdmFall_tdm x 3 ((judged x bck edges ppm s).bump (tdmFunc x).id.toNat i)
  have ht : t.tdm x = { (judged x bck edges ppm s).tdm x with state := 3, good := 0, rx := none, fade } := hfall
  refine ⟨by rw [ht], by rw [ht]; exact hup, counts_congr rfl rfl (counts_bump_judged i hi), fun y hy => ?_⟩
  exact (tdmFall_tdm_ne hy 3 _).trans (judged_tdm_ne hy ..)

/-- A good frame, the port's clock stable before it. -/
theorem framed_good (hbck : bck = 32 * s.tdmSlots x) (hedges : edges = 1) {stable : Nat}
    (hst : (s.tdm x).good? = true ∨ (s.tdm x).good + 1 < stable) :
    let t := framed x bck edges (32 * s.tdmSlots x) stable slots (judged x bck edges ppm s)
    t.tdm x = { (judged x bck edges ppm s).tdm x with good := (s.tdm x).good + 1, rx := some slots } ∧
      Counts s t (tdmFunc x).id.toNat 0 1 ∧ ∀ y, y ≠ x → t.tdm y = s.tdm y := by
  obtain ⟨-, hgood, hgood?⟩ := judged_keeps x bck edges ppm s
  have hno : ¬(!((judged x bck edges ppm s).tdm x).good? && decide (stable ≤ ((judged x bck edges ppm s).tdm x).good + 1)) = true := by
    rw [hgood, hgood?]
    obtain h | h := hst
    · simp [h]
    · simp only [Bool.and_eq_true, decide_eq_true_eq]
      omega
  have heq : framed x bck edges (32 * s.tdmSlots x) stable slots (judged x bck edges ppm s) =
      ((judged x bck edges ppm s).bump (tdmFunc x).id.toNat 0).onTdm x fun t => { t with good := t.good + 1, rx := some slots } := by
    unfold framed
    rw [if_neg (not_not_intro hedges), if_neg (not_not_intro hbck), if_neg hno]
  rw [heq]
  refine ⟨?_, counts_congr rfl rfl (counts_bump_judged 0 (by decide)), fun y hy => ?_⟩
  · rw [tdm_onTdm, tdm_bump, hgood]
  · exact (tdm_onTdm_ne hy _ _).trans (judged_tdm_ne hy ..)

/-- The good frame that makes a port's clock stable. -/
theorem framed_stable (hbck : bck = 32 * s.tdmSlots x) (hedges : edges = 1) {stable : Nat}
    (hg : (s.tdm x).good? = false) (hst : stable ≤ (s.tdm x).good + 1) :
    let t := framed x bck edges (32 * s.tdmSlots x) stable slots (judged x bck edges ppm s)
    (t.tdm x).state = 4 ∧ (t.tdm x).fade.up = true ∧ Counts s t (tdmFunc x).id.toNat 0 1 := by
  obtain ⟨-, hgood, hgood?⟩ := judged_keeps x bck edges ppm s
  have heq : framed x bck edges (32 * s.tdmSlots x) stable slots (judged x bck edges ppm s) =
      tdmRise x (((judged x bck edges ppm s).bump (tdmFunc x).id.toNat 0).onTdm x fun t => { t with good := t.good + 1, rx := some slots }) := by
    unfold framed
    rw [if_neg (not_not_intro hedges), if_neg (not_not_intro hbck), if_pos (by rw [hgood, hgood?]; simp [hg, hst])]
  rw [heq]
  obtain ⟨h4, hup⟩ := tdmRise_tdm x (((judged x bck edges ppm s).bump (tdmFunc x).id.toNat 0).onTdm x fun t => { t with
    good := t.good + 1, rx := some slots })
  exact ⟨h4, hup, counts_congr rfl rfl (counts_bump_judged 0 (by decide))⟩

/-- A frame of a wrong number of bit clocks, or of frame starts. -/
theorem framed_fallen {want stable : Nat} {s1 : State} (h : edges = 1 → bck ≠ want) : framed x bck edges want stable slots s1 =
    tdmFall x 3 (s1.bump (tdmFunc x).id.toNat (if edges = 1 then 2 else 3)) := by
  unfold framed
  by_cases he : edges = 1
  · rw [if_neg (not_not_intro he), if_pos (h he), if_pos he]
  · rw [if_pos he, if_neg he]

/-- The counter of a run that unlocks the port. -/
theorem framed_count_four (want stable : Nat) (s1 : State) :
    (framed x bck edges want stable slots s1).count (tdmFunc x).id.toNat 4 = s1.count (tdmFunc x).id.toNat 4 := by
  have hc : ∀ i, i < 4 → (s1.bump (tdmFunc x).id.toNat i).count (tdmFunc x).id.toNat 4 = s1.count (tdmFunc x).id.toNat 4 := by
    intro i hi
    exact (counts_bumpBy (by omega) (tdmFunc x).id.toNat 1 s1 (tdmFunc x).id.toNat 4 (by decide)).trans (if_neg fun h => by omega)
  unfold framed
  split
  · exact hc 3 (by decide)
  split
  · exact hc 2 (by decide)
  split
  · exact hc 0 (by decide)
  · exact hc 0 (by decide)

theorem tdmFrame_unlocks (hb : (s.life? (tdmFunc x)).busy = true) (hs : s.tdmSlave x = true) (h6 : (s.tdm x).state ≠ 6) (he : edges ≠ 0)
    (hbad : 64 ≤ ((judged x bck edges ppm s).tdm x).badRate ∨ 64 ≤ ((judged x bck edges ppm s).tdm x).badBck) :
    Does (.tdmFrame x bck edges ppm slots) s [.loc, .cnt] fun t => (t.tdm x).state = 6 ∧ (t.tdm x).good = 0 ∧ (t.tdm x).rx = none ∧
      t.count (tdmFunc x).id.toNat 4 = min (2 ^ 48 - 1) (s.count (tdmFunc x).id.toNat 4 + 1) := by
  have hexec := exec_tdmFrame_slave (bck := bck) (edges := edges) (ppm := ppm) (slots := slots) hb hs
  rw [slaveFrame_eq h6 fun _ => he, if_pos hbad] at hexec
  have hframe := framed_touch x bck edges (32 * s.tdmSlots x) (s.tdmStable x) slots (judged x bck edges ppm s)
  have hfour := framed_count_four (x := x) (bck := bck) (edges := edges) (slots := slots) (32 * s.tdmSlots x)
    (s.tdmStable x) (judged x bck edges ppm s)
  generalize framed x bck edges (32 * s.tdmSlots x) (s.tdmStable x) slots (judged x bck edges ppm s) = u
    at hexec hframe hfour
  obtain ⟨fade, -, hfall⟩ := tdmFall_tdm x 6 (u.bump (tdmFunc x).id.toNat 4)
  refine ((tdmFall_touch ..).after ((State.bump_touch ..).after (hframe.after ((judged_touch ..).after (Touch.refl [.loc, .cnt] s) rfl) rfl) rfl) rfl).does
    hexec ⟨by rw [hfall], by rw [hfall], by rw [hfall], ?_⟩
  have hcount := counts_bumpBy (i := 4) (by decide) (tdmFunc x).id.toNat 1 u (tdmFunc x).id.toNat 4 (by decide)
  rw [if_pos ⟨rfl, rfl⟩, hfour] at hcount
  have hs0 : (judged x bck edges ppm s).count (tdmFunc x).id.toNat 4 = s.count (tdmFunc x).id.toNat 4 := by
    rw [State.count, State.count, (judged_touch ..).cnt_eq]
  rw [hs0] at hcount
  exact hcount

theorem tdmFrame_master (hb : (s.life? (tdmFunc x)).busy = true) (hs : s.tdmSlave x = false) (hc : (s.tdm x).clocks = true) :
    Does (.tdmFrame x bck edges ppm slots) s [.loc, .cnt] fun t =>
      t.tdm x = { s.tdm x with rx := some slots, frameBck := BitVec.ofNat 16 (32 * s.tdmSlots x) } ∧
      Counts s t (tdmFunc x).id.toNat 0 1 ∧ ∀ y, y ≠ x → t.tdm y = s.tdm y := by
  have hexec := exec_tdmFrame x bck edges ppm slots s
  unfold execTdmFrame at hexec
  rw [if_neg (by rw [hb]; decide), if_neg (by rw [hs]; decide), if_pos hc] at hexec
  refine ((State.onTdm_touch ..).after ((State.bump_touch ..).after (Touch.refl [.loc, .cnt] s) rfl) rfl).does hexec
    ⟨(tdm_onTdm ..).trans rfl, count_bump_congr rfl (by decide), fun y hy => (tdm_onTdm_ne hy ..).trans rfl⟩

theorem tdmLoss_does (hb : (s.life? (tdmFunc x)).busy = true) (hs : s.tdmSlave x = true) (h2 : (s.tdm x).state ≠ 2) (h6 : (s.tdm x).state ≠ 6) :
    Does (.tdmLoss x) s [.loc, .cnt] fun t => (t.tdm x).state = 2 ∧ (t.tdm x).good = 0 ∧ (t.tdm x).rx = none ∧
      Counts s t (tdmFunc x).id.toNat 1 1 ∧ ∀ y, y ≠ x → t.tdm y = s.tdm y := by
  have hexec := exec_tdmLoss x s
  unfold execTdmLoss at hexec
  dsimp only at hexec
  rw [if_neg (by simpa [hb, hs] using ⟨h2, h6⟩)] at hexec
  obtain ⟨fade, -, hfall⟩ := tdmFall_tdm x 2 (s.bump (tdmFunc x).id.toNat 1)
  exact ((tdmFall_touch ..).after ((State.bump_touch ..).after (Touch.refl [.loc, .cnt] s) rfl) rfl).does hexec
    ⟨by rw [hfall], by rw [hfall], by rw [hfall], count_bump_congr rfl (by decide), fun y hy => (tdmFall_tdm_ne hy ..).trans rfl⟩

end

theorem tdmLoss_none {x : Fin 2} {s : State}
    (h : (s.life? (tdmFunc x)).busy = false ∨ s.tdmSlave x = false ∨ (s.tdm x).state = 2 ∨ (s.tdm x).state = 6) :
    exec (.tdmLoss x) s = .next s := by
  rw [exec_tdmLoss, execTdmLoss]
  refine congrArg Host.Outcome.next (if_pos ?_)
  simp only [Bool.or_eq_true, Bool.not_eq_true', decide_eq_true_eq]
  tauto

/-- Settles O37: a slave's frame by what it is judged, then by what it does to the port. -/
theorem tdmEvents : Obligations.TdmEvents := by
  unfold Obligations.TdmEvents
  intro s x slots
  refine ⟨fun hb => ⟨fun bck edges ppm hs hc => tdmFrame_master hb hs hc, fun hs h6 bck edges ppm => ?_, fun hs h2 h6 => tdmLoss_does hb hs h2 h6⟩,
    fun hb bck edges ppm => ?_, tdmLoss_none⟩
  · extract_lets j
    have hj : (judged x bck edges ppm s).tdm x = j := judged_tdm ..
    rw [← hj]
    refine ⟨fun hr hk => ⟨fun h1 h2 h3 => ?_, fun h1 h2 h3 h4 => ?_, fun h1 h2 h3 h4 => ?_, fun h1 h2 => ?_, fun h1 h2 h3 => ?_, fun h1 => ?_⟩,
      fun hbad he => tdmFrame_unlocks hb hs h6 he hbad⟩
    · refine tdmFrame_framed hb hs h6 (by omega) hr hk ?_
      obtain ⟨hx, hc, hne⟩ := framed_good (ppm := ppm) (slots := slots) (stable := s.tdmStable x) h1 h2 (Or.inl h3)
      exact ⟨hc, hx, hne⟩
    · exact tdmFrame_framed hb hs h6 (by omega) hr hk (framed_stable h1 h2 h3 h4)
    · refine tdmFrame_framed hb hs h6 (by omega) hr hk ?_
      obtain ⟨hx, hc, -⟩ := framed_good (ppm := ppm) (slots := slots) h1 h2 (Or.inr h4)
      exact ⟨hx, hc⟩
    · refine tdmFrame_framed hb hs h6 (by omega) hr hk ?_
      rw [framed_fallen fun _ => h1, if_pos h2]
      exact fallen_spec 2 (by decide)
    · refine tdmFrame_framed hb hs h6 (fun h => absurd h h3) hr hk ?_
      rw [framed_fallen fun h => absurd h h1, if_neg h1]
      obtain ⟨hx, -, hc, -⟩ := fallen_spec (s := s) (x := x) (bck := bck) (edges := edges) (ppm := ppm) 3 (by decide)
      exact ⟨hx, hc⟩
    · have he : edges ≠ 1 := by omega
      refine tdmFrame_framed hb hs h6 (by omega) hr hk ?_
      rw [framed_fallen fun h => absurd h he, if_neg he]
      obtain ⟨hx, -, hc, -⟩ := fallen_spec (s := s) (x := x) (bck := bck) (edges := edges) (ppm := ppm) 3 (by decide)
      exact ⟨hx, hc⟩
  · rw [exec_tdmFrame, execTdmFrame, if_pos (by rw [hb]; rfl)]

end Sys2Proof.Machine
end

section
/-! PROOFS. The slow protection and the temperatures of the power channels (R390, R391, R397, R406, R415). -/

namespace Sys2Proof.Machine

open Sys2Proof

set_option Elab.async false

/-- A channel's record once a protection of kind `k` asks for its stop. -/
def Pch.asked (k : BitVec 4) (p : Pch) : Pch := { p with stopNext := if p.stopNext.isSome then p.stopNext else some k }

theorem satInt_sixteen (temp : Int) : satInt 16 temp = max (-32768) (min 32767 temp) := by
  unfold satInt
  have h15 : (2 : Int) ^ (16 - 1) = 32768 := by decide
  rw [h15]
  split
  · omega
  · split <;> omega

section
variable {c j : Fin 4} {s : State}

theorem onPch_onPch (c : Fin 4) (f g : Pch → Pch) (s : State) : ((s.onPch c f).onPch c g).pwr = (s.onPch c fun p => g (f p)).pwr := by
  have h : vmod (vmod s.pwr.ch c f) c g = vmod s.pwr.ch c fun p => g (f p) := by
    simp [vmod]
  exact congrArg (fun v : Vector Pch 4 => { s.pwr with ch := v }) h

theorem askProtect_pch (c : Fin 4) (k : BitVec 4) (s : State) : (askProtect c k s).pch c = (s.pch c).asked k := pch_onPch ..

theorem askProtect_pch_ne (h : j ≠ c) (k : BitVec 4) (s : State) : (askProtect c k s).pch j = s.pch j := State.pch_onPch_ne _ s h

theorem askProtect_pwr (c : Fin 4) (k : BitVec 4) (s t : State) (h : t.pwr = s.pwr) :
    (askProtect c k t).pwr = (s.onPch c (Pch.asked k)).pwr := by
  have he : (askProtect c k t).pwr = { t.pwr with ch := vmod t.pwr.ch c (Pch.asked k) } := rfl
  rw [he, h]
  rfl

/-! Direct current and loads. -/

theorem dcFault_does (h : s.watched c = true) : Does (.dcFault c) s [.pages, .pwr, .cnt] fun t =>
    t.pwr = (s.onPch c (Pch.asked 8)).pwr ∧ Counts s t (pchFn c) 9 1 ∧ t.host.hostPage.event.getLsbD 9 = true := by
  have hexec := exec_dcFault c s
  rw [execDcFault, if_pos h] at hexec
  have ht : Touch [.pages, .pwr, .cnt] s ((s.bumpProt c 5).raise 9) :=
    (State.raise_touch 9 _).after ((State.bumpProt_touch c 5 s).after (Touch.refl _ s) rfl) rfl
  refine ((askProtect_touch ..).after ht rfl).does hexec ⟨askProtect_pwr c 8 s _ rfl, ?_, ?_⟩
  · exact counts_congr rfl rfl (counts_bumpBy (i := 9) (by decide) (pchFn c) 1 s)
  · exact ((askProtect_touch ..).eventSet_eq 9).trans (eventSet_raise_self (by decide) _)

theorem unwatched_idle (h : s.watched c = false) : exec (.dcFault c) s = .next s ∧ exec (.openLoad c) s = .next s := by
  constructor
  · rw [exec_dcFault, execDcFault, if_neg (by rw [h]; decide)]
  · rw [exec_openLoad, execOpenLoad, if_neg (by rw [h]; simp)]

/-- A flagged load: counted in counter `i`, with event bit 9, and the channel perhaps asked to stop. -/
theorem flagged_spec (c : Fin 4) (f : Pch → Pch) (i : Nat) (hi : 4 + i < 4096) {s s1 : State} (h1 : s1.pwr = (s.onPch c f).pwr)
    (ht : Touch [.pwr] s s1) :
    let t := impAction c ((s1.bumpProt c i).raise 9)
    Touch [.pages, .pwr, .cnt] s t ∧
      t.pwr = (s.onPch c fun p => if s.sageParam c 13 = 1 then (f p).asked 0xB else f p).pwr ∧
      Counts s t (pchFn c) (4 + i) 1 ∧ t.host.hostPage.event.getLsbD 9 = true := by
  intro t
  have hb : Touch [.pages, .pwr, .cnt] s ((s1.bumpProt c i).raise 9) :=
    (State.raise_touch 9 _).after ((State.bumpProt_touch c i s1).after (ht.after (Touch.refl _ s) rfl) rfl) rfl
  refine ⟨(impAction_touch c _).after hb rfl, ?_, ?_, ?_⟩
  · have hparam : ((s1.bumpProt c i).raise 9).sageParam c 13 = s.sageParam c 13 := by
      rw [State.sageParam, State.sageParam, State.param, State.param, hb.params_eq]
    unfold t impAction
    rw [hparam]
    by_cases h : s.sageParam c 13 = 1
    · rw [if_pos h]
      simp only [if_pos h]
      exact (askProtect_pwr c 0xB (s.onPch c f) ((s1.bumpProt c i).raise 9) h1).trans (onPch_onPch c f (Pch.asked 0xB) s)
    · rw [if_neg h]
      simp only [if_neg h]
      exact h1
  · exact counts_congr rfl (impAction_touch c _).cnt_eq (count_bump_congr (s := s) (t := s1) ht.cnt_eq hi)
  · exact ((impAction_touch c _).eventSet_eq 9).trans (eventSet_raise_self (by decide) _)

theorem openLoad_does (hw : s.watched c = true) (hen : s.sageParam c 10 = 1) (ho : (s.pch c).openLoad = false) :
    Does (.openLoad c) s [.pages, .pwr, .cnt] fun t =>
      t.pwr = (s.onPch c fun p => if s.sageParam c 13 = 1 then Pch.asked 0xB { p with openLoad := true } else { p with openLoad := true }).pwr ∧
      Counts s t (pchFn c) 10 1 ∧ t.host.hostPage.event.getLsbD 9 = true := by
  have hexec := exec_openLoad c s
  unfold execOpenLoad at hexec
  rw [if_pos (by simp [hw, hen, ho])] at hexec
  obtain ⟨ht, hP⟩ := flagged_spec c (fun p => { p with openLoad := true }) 6 (by decide) (s := s) rfl (State.onPch_touch ..)
  exact ht.does hexec hP

theorem openLoad_none (h : s.sageParam c 10 ≠ 1 ∨ (s.pch c).openLoad = true) : exec (.openLoad c) s = .next s := by
  rw [exec_openLoad, execOpenLoad]
  refine congrArg Host.Outcome.next (if_neg fun hall => ?_)
  simp only [Bool.and_eq_true, Bool.not_eq_true', decide_eq_true_eq] at hall
  obtain ⟨⟨-, hen⟩, ho⟩ := hall
  exact h.elim (· hen) fun h => by simp [h] at ho

/-! Impedance windows. -/

section
variable {z : Word} (hr : s.running .sage = true) (hb : s.senseBad c = false)
  (hz : ((s.fsHz / 2 : Nat) : Int) ≤ (s.now - (s.pch c).zAt).toInt)

/-- Z is below the low bound, or above the high one. -/
def State.zLow (s : State) (c : Fin 4) (z : Word) : Bool := decide (s.sageParam c 11 ≠ 0 ∧ z.toNat < s.sageParam c 11)
def State.zHigh (s : State) (c : Fin 4) (z : Word) : Bool := decide (s.sageParam c 12 ≠ 0 ∧ s.sageParam c 12 < z.toNat)

theorem exec_impedanceWindow_eq (c : Fin 4) (z : Word) (s : State) : exec (.impedanceWindow c z) s = .next (
    if !(s.running .sage) || s.senseBad c || decide ((s.now - (s.pch c).zAt).toInt < ((s.fsHz / 2 : Nat) : Int)) then s
    else if z = 0xFFFFFFFF then s.onPch c fun p => { p with z, zAt := s.now }
    else if s.zLow c z || s.zHigh c z then
      if decide ((s.pch c).zOut + 1 < 4) || (s.pch c).zLow || (s.pch c).zHigh then
        (s.onPch c fun p => { p with z, zAt := s.now }).onPch c fun p => { p with zOut := p.zOut + 1, zIn := 0 }
      else impAction c ((((((s.onPch c fun p => { p with z, zAt := s.now }).onPch c fun p => { p with zOut := p.zOut + 1, zIn := 0 }).onPch c
        fun p => { p with zLow := s.zLow c z, zHigh := s.zHigh c z })).bumpProt c 7).raise 9)
    else (s.onPch c fun p => { p with z, zAt := s.now }).onPch c fun p => { p with
        zOut := 0, zIn := p.zIn + 1, zLow := p.zLow && decide (p.zIn < 3), zHigh := p.zHigh && decide (p.zIn < 3) }) := by
  have hp : ((s.onPch c fun p => { p with z, zAt := s.now }).onPch c fun p => { p with zOut := p.zOut + 1, zIn := 0 }).pch c =
      { s.pch c with z, zAt := s.now, zOut := (s.pch c).zOut + 1, zIn := 0 } := by rw [pch_onPch, pch_onPch]
  rw [exec_impedanceWindow, execImpedanceWindow]
  dsimp only
  rw [hp]
  rfl

theorem onPch_twice (c : Fin 4) (f g : Pch → Pch) (s : State) : (s.onPch c f).onPch c g = s.onPch c fun p => g (f p) := by
  have h : ((s.onPch c f).onPch c g) = { s with pwr := ((s.onPch c f).onPch c g).pwr } := rfl
  rw [h, onPch_onPch]
  rfl

include hr hb hz in
theorem impedance_open : ¬(!(s.running .sage) || s.senseBad c || decide ((s.now - (s.pch c).zAt).toInt < ((s.fsHz / 2 : Nat) : Int))) = true := by
  simp only [hr, hb, Bool.not_true, Bool.or_false, Bool.false_or, decide_eq_true_eq]
  exact Int.not_lt.2 hz

include hr hb hz in
theorem impedance_none (h : z = 0xFFFFFFFF) :
    exec (.impedanceWindow c z) s = .next (s.onPch c fun p => { p with z := z, zAt := s.now }) := by
  rw [exec_impedanceWindow_eq, if_neg (impedance_open hr hb hz), if_pos h]

include hr hb hz in
theorem impedance_outside (h : z ≠ 0xFFFFFFFF) (hout : s.zLow c z = true ∨ s.zHigh c z = true)
    (hfew : (s.pch c).zOut < 3 ∨ (s.pch c).zLow = true ∨ (s.pch c).zHigh = true) :
    exec (.impedanceWindow c z) s = .next (s.onPch c fun p => { p with z := z, zAt := s.now, zOut := p.zOut + 1, zIn := 0 }) := by
  have hcond : (decide ((s.pch c).zOut + 1 < 4) || (s.pch c).zLow || (s.pch c).zHigh) = true := by
    simp only [Bool.or_eq_true, decide_eq_true_eq, or_assoc]
    exact hfew.imp_left fun h => by omega
  rw [exec_impedanceWindow_eq, if_neg (impedance_open hr hb hz), if_neg h, if_pos (by simpa using hout), if_pos hcond, onPch_twice]

include hr hb hz in
theorem impedance_flags (h : z ≠ 0xFFFFFFFF) (hout : s.zLow c z = true ∨ s.zHigh c z = true) (h3 : 3 ≤ (s.pch c).zOut)
    (hl : (s.pch c).zLow = false) (hh : (s.pch c).zHigh = false) :
    Does (.impedanceWindow c z) s [.pages, .pwr, .cnt] fun t =>
      t.pwr = (s.onPch c fun p => if s.sageParam c 13 = 1 then
          Pch.asked 0xB { p with z := z, zAt := s.now, zOut := p.zOut + 1, zIn := 0, zLow := s.zLow c z, zHigh := s.zHigh c z }
        else { p with z := z, zAt := s.now, zOut := p.zOut + 1, zIn := 0, zLow := s.zLow c z, zHigh := s.zHigh c z }).pwr ∧
      Counts s t (pchFn c) 11 1 ∧ t.host.hostPage.event.getLsbD 9 = true := by
  have hexec := exec_impedanceWindow_eq c z s
  rw [if_neg (impedance_open hr hb hz), if_neg h, if_pos (by simpa using hout), if_neg (by simp [hl, hh]; omega), onPch_twice, onPch_twice] at hexec
  obtain ⟨ht, hP⟩ := flagged_spec c (fun p => { p with
    z := z, zAt := s.now, zOut := p.zOut + 1, zIn := 0, zLow := s.zLow c z, zHigh := s.zHigh c z }) 7 (by decide) (s := s) rfl (State.onPch_touch ..)
  exact ht.does hexec hP

include hr hb hz in
theorem impedance_inside (h : z ≠ 0xFFFFFFFF) (hl : s.zLow c z = false) (hh : s.zHigh c z = false) :
    exec (.impedanceWindow c z) s = .next (s.onPch c fun p => { p with
      z := z, zAt := s.now, zOut := 0, zIn := p.zIn + 1, zLow := p.zLow && decide (p.zIn < 3), zHigh := p.zHigh && decide (p.zIn < 3) }) := by
  rw [exec_impedanceWindow_eq, if_neg (impedance_open hr hb hz), if_neg h, if_neg (by simp [hl, hh]), onPch_twice]

end

theorem impedance_idle (h : s.running .sage = false ∨ s.senseBad c = true ∨ (s.now - (s.pch c).zAt).toInt < ((s.fsHz / 2 : Nat) : Int))
    (z : Word) : exec (.impedanceWindow c z) s = .next s := by
  rw [exec_impedanceWindow_eq]
  refine congrArg Host.Outcome.next (if_pos ?_)
  simp only [Bool.or_eq_true, Bool.not_eq_true', decide_eq_true_eq, or_assoc]
  exact h

end

/-! Temperatures. -/

section
variable {c : Fin 4} {s : State} {temp : Int}

theorem variant_not_l (h : s.chip.variant = .p) : ¬(s.chip.variant == .l) = true := by rw [h]; decide

/-- The record of a channel with its die at `temp`, before the stop of a hot die. -/
def Pch.atDie (temp : Int) (p : Pch) : Pch :=
  { p with die := BitVec.ofInt 16 (max (-32768) (min 32767 temp)), dieWarn := p.dieWarn || decide (16 * 140 ≤ temp) }

/-- What a die's temperature does to its channel. -/
def Pch.atDieStop (temp : Int) (busy : Bool) (p : Pch) : Pch :=
  if 16 * 150 ≤ temp ∧ busy = true ∧ p.dieStop = false then Pch.asked 9 { p.atDie temp with dieStop := true }
  else if temp < 16 * 130 then { p.atDie temp with dieStop := false } else p.atDie temp

/-- A warning from 140 degC. -/
def dieWarned (c : Fin 4) (temp : Int) (s : State) : State :=
  if decide (16 * 140 ≤ temp) && !(s.pch c).dieWarn then (s.onPch c (Pch.atDie temp)).raise 13 else s.onPch c (Pch.atDie temp)

theorem dieWarned_touch (c : Fin 4) (temp : Int) (s : State) : Touch [.pages, .pwr] s (dieWarned c temp s) := by
  have h : Touch [.pages, .pwr] s (s.onPch c (Pch.atDie temp)) := (State.onPch_touch ..).after (Touch.refl _ s) rfl
  exact Touch.ite ((State.raise_touch ..).after h rfl) h

theorem dieWarned_pwr (c : Fin 4) (temp : Int) (s : State) : (dieWarned c temp s).pwr = (s.onPch c (Pch.atDie temp)).pwr := by
  unfold dieWarned
  split <;> rfl

theorem dieWarned_event (h : 16 * 140 ≤ temp) (hw : (s.pch c).dieWarn = false) : (dieWarned c temp s).eventSet 13 = true := by
  unfold dieWarned
  rw [if_pos (by simpa [hw] using h)]
  exact eventSet_raise_self (by decide) _

theorem exec_dieTempEvent_eq (hv : s.chip.variant = .p) : exec (.dieTempEvent c temp) s = .next (
    if decide (16 * 150 ≤ temp) && (s.life? (.pch c)).busy && !(s.pch c).dieStop then
      askProtect c 9 ((dieWarned c temp s).onPch c fun p => { p with dieStop := true })
    else if temp < 16 * 130 then (dieWarned c temp s).onPch c fun p => { p with dieStop := false } else dieWarned c temp s) := by
  rw [exec_dieTempEvent, execDieTempEvent, if_neg (variant_not_l hv), satInt_sixteen]
  rfl

theorem onPch_congr_pwr {s t : State} (h : t.pwr = s.pwr) (c : Fin 4) (g : Pch → Pch) : (t.onPch c g).pwr = (s.onPch c g).pwr := by
  rw [State.onPch_pwr, State.onPch_pwr, h]

theorem onPch_congr_fun {f g : Pch → Pch} (c : Fin 4) (s : State) (h : f (s.pch c) = g (s.pch c)) : (s.onPch c f).pwr = (s.onPch c g).pwr := by
  have hv : vmod s.pwr.ch c f = vmod s.pwr.ch c g := by
    unfold vmod
    exact congrArg (fun p => s.pwr.ch.set c p) h
  rw [State.onPch_pwr, State.onPch_pwr, hv]

theorem dieTempEvent_does (hv : s.chip.variant = .p) : Does (.dieTempEvent c temp) s [.pages, .pwr] fun t =>
    (16 * 140 ≤ temp → (s.pch c).dieWarn = false → t.host.hostPage.event.getLsbD 13 = true) ∧
    t.pwr = (s.onPch c (Pch.atDieStop temp (s.life? (.pch c)).busy)).pwr := by
  have hexec := exec_dieTempEvent_eq (c := c) (temp := temp) hv
  have htouch := dieWarned_touch c temp s
  have hpwr := dieWarned_pwr c temp s
  have hevent := fun h h' => dieWarned_event (c := c) (s := s) (temp := temp) h h'
  generalize dieWarned c temp s = u at hexec htouch hpwr hevent
  by_cases hstop : 16 * 150 ≤ temp ∧ (s.life? (.pch c)).busy = true ∧ (s.pch c).dieStop = false
  · obtain ⟨h150, hbusy, hds⟩ := hstop
    rw [if_pos (by simpa [hbusy, hds] using h150)] at hexec
    refine ((askProtect_touch ..).after ((State.onPch_touch ..).after htouch rfl) rfl).does hexec ⟨fun h h' => ?_, ?_⟩
    · exact (((askProtect_touch ..).after (State.onPch_touch ..) rfl).eventSet_eq 13).trans (hevent h h')
    · have h1 : (u.onPch c fun p => { p with dieStop := true }).pwr = (s.onPch c fun p => { p.atDie temp with dieStop := true }).pwr :=
        (onPch_congr_pwr hpwr c _).trans (onPch_onPch ..)
      refine (askProtect_pwr c 9 _ _ h1).trans ((onPch_onPch ..).trans (onPch_congr_fun c s ?_))
      rw [Pch.atDieStop, if_pos ⟨h150, hbusy, hds⟩]
  · have hno : ¬(decide (16 * 150 ≤ temp) && (s.life? (.pch c)).busy && !(s.pch c).dieStop) = true := by
      simpa only [Bool.and_eq_true, Bool.not_eq_true', decide_eq_true_eq, and_assoc] using hstop
    rw [if_neg hno] at hexec
    by_cases hcold : temp < 16 * 130
    · rw [if_pos hcold] at hexec
      refine ((State.onPch_touch ..).after htouch rfl).does hexec ⟨fun h h' => ((State.onPch_touch ..).eventSet_eq 13).trans (hevent h h'), ?_⟩
      refine (onPch_congr_pwr hpwr c _).trans ((onPch_onPch ..).trans (onPch_congr_fun c s ?_))
      rw [Pch.atDieStop, if_neg hstop, if_pos hcold]
    · rw [if_neg hcold] at hexec
      refine htouch.does hexec ⟨hevent, hpwr.trans (onPch_congr_fun c s ?_)⟩
      rw [Pch.atDieStop, if_neg hstop, if_neg hcold]

end

end Sys2Proof.Machine
end

section
/-! PROOFS. The baseplate's temperature, the clearing of warnings and stops, and the slow protection as a whole (R391, R397). -/

namespace Sys2Proof.Machine

open Sys2Proof

set_option Elab.async false

section
variable {c : Fin 4} {s : State} {temp : Int}

/-- The baseplate's temperature as it is held. -/
def basedAt (temp : Int) (s : State) : State := s.onPwr fun w => { w with base := BitVec.ofInt 16 (max (-32768) (min 32767 temp)) }

/-- A warning from 90 degC, where none stands. -/
def baseWarned (temp : Int) (s : State) : State :=
  if s.pwr.baseWarn then basedAt temp s else ((basedAt temp s).onPwr fun w => { w with baseWarn := true }).raise 13

theorem exec_baseplateTempEvent_eq (hv : s.chip.variant = .p) : exec (.baseplateTempEvent temp) s = .next (
    if temp < 16 * 95 then
      (if decide (16 * 90 ≤ temp) && !s.pwr.baseWarn && s.running .sage then
        ((basedAt temp s).onPwr fun w => { w with baseWarn := true, baseStop := false }).raise 13
       else (basedAt temp s).onPwr fun w => { w with baseStop := false })
    else if !s.running .sage then basedAt temp s
    else if temp < 16 * 102 || s.pwr.baseStop then baseWarned temp s
    else forAll (allPch.filter s.switching) (askProtect · 0xA) ((baseWarned temp s).onPwr fun w => { w with baseStop := true })) := by
  rw [exec_baseplateTempEvent, execBaseplateTempEvent, if_neg (variant_not_l hv), satInt_sixteen]
  rfl

theorem baseplate_cold (hv : s.chip.variant = .p) (h : temp < 16 * 90) : exec (.baseplateTempEvent temp) s =
    .next { s with pwr := { s.pwr with base := BitVec.ofInt 16 (max (-32768) (min 32767 temp)), baseStop := false } } := by
  rw [exec_baseplateTempEvent_eq hv, if_pos (by omega), if_neg (by simp; omega)]
  rfl

theorem baseplate_unwatched (hv : s.chip.variant = .p) (h : 16 * 95 ≤ temp) (hr : s.running .sage = false) :
    exec (.baseplateTempEvent temp) s = .next { s with pwr := { s.pwr with base := BitVec.ofInt 16 (max (-32768) (min 32767 temp)) } } := by
  rw [exec_baseplateTempEvent_eq hv, if_neg (by omega), if_pos (by simp [hr])]
  rfl

theorem baseWarned_touch (temp : Int) (s : State) : Touch [.pages, .pwr] s (baseWarned temp s) := by
  have h : Touch [.pages, .pwr] s (basedAt temp s) := (Touch.refl _ s).onPwr rfl
  exact Touch.ite h ((State.raise_touch ..).after (h.onPwr rfl) rfl)

theorem baseWarned_pwr (temp : Int) (s : State) : (baseWarned temp s).pwr =
    { s.pwr with base := BitVec.ofInt 16 (max (-32768) (min 32767 temp)), baseWarn := true } := by
  unfold baseWarned
  split
  next h =>
    have hself : s.pwr = { s.pwr with baseWarn := true } := by rw [← h]
    unfold basedAt
    rw [State.onPwr_pwr, hself]
  next h => rfl

theorem baseWarned_event (h : s.pwr.baseWarn = false) : (baseWarned temp s).eventSet 13 = true := by
  unfold baseWarned
  rw [if_neg (by rw [h]; decide)]
  exact eventSet_raise_self (by decide) _

/-- Every channel of a list without repetition asks for its stop, and no other. -/
theorem forAll_askProtect (k : BitVec 4) {l : List (Fin 4)} (hl : l.Nodup) (s : State) (c : Fin 4) :
    (forAll l (askProtect · k) s).pch c = if c ∈ l then (s.pch c).asked k else s.pch c := by
  induction l generalizing s with
  | nil => rfl
  | cons a l ih =>
    obtain ⟨ha, hl'⟩ := List.nodup_cons.1 hl
    rw [forAll_cons, ih hl']
    by_cases hc : c = a
    · subst hc
      rw [if_neg ha, if_pos List.mem_cons_self, askProtect_pch]
    · rw [askProtect_pch_ne hc]
      simp [hc]

theorem forAll_askProtect_base (k : BitVec 4) (l : List (Fin 4)) (s : State) :
    (forAll l (askProtect · k) s).pwr.base = s.pwr.base ∧ (forAll l (askProtect · k) s).pwr.baseWarn = s.pwr.baseWarn ∧
      (forAll l (askProtect · k) s).pwr.baseStop = s.pwr.baseStop :=
  ⟨forAll_keeps (g := (askProtect · k)) (fun s : State => s.pwr.base) (fun _ _ _ => rfl) s,
    forAll_keeps (g := (askProtect · k)) (fun s : State => s.pwr.baseWarn) (fun _ _ _ => rfl) s,
    forAll_keeps (g := (askProtect · k)) (fun s : State => s.pwr.baseStop) (fun _ _ _ => rfl) s⟩

theorem baseplate_warns (hv : s.chip.variant = .p) (h90 : 16 * 90 ≤ temp) (hr : s.running .sage = true) :
    Does (.baseplateTempEvent temp) s [.pages, .pwr] fun t =>
      t.pwr.base = BitVec.ofInt 16 (max (-32768) (min 32767 temp)) ∧ t.pwr.baseWarn = true ∧
      (s.pwr.baseWarn = false → t.host.hostPage.event.getLsbD 13 = true) ∧
      (t.pwr.baseStop = true ↔ 16 * 102 ≤ temp ∨ (16 * 95 ≤ temp ∧ s.pwr.baseStop = true)) ∧
      (16 * 102 ≤ temp → s.pwr.baseStop = false → t.pch c = if s.switching c then (s.pch c).asked 0xA else s.pch c) ∧
      (temp < 16 * 102 ∨ s.pwr.baseStop = true → t.pch c = s.pch c) := by
  have hexec := exec_baseplateTempEvent_eq (temp := temp) hv
  have htouch := baseWarned_touch temp s
  have hpwr := baseWarned_pwr temp s
  have hevent := fun h => baseWarned_event (temp := temp) (s := s) h
  by_cases h95 : temp < 16 * 95
  · have hnot : ¬(16 * 102 ≤ temp ∨ (16 * 95 ≤ temp ∧ s.pwr.baseStop = true)) := by omega
    by_cases hw : s.pwr.baseWarn = true
    · rw [if_pos h95, if_neg (by simp [hw])] at hexec
      refine (((Touch.refl [.pages, .pwr] s).onPwr rfl).onPwr rfl).does hexec ⟨rfl, hw, fun h => by simp [h] at hw, ?_, fun h => by omega, fun _ => rfl⟩
      exact ⟨fun h => absurd h Bool.false_ne_true, fun h => absurd h hnot⟩
    · have hw' : s.pwr.baseWarn = false := by simpa using hw
      rw [if_pos h95, if_pos (by simpa [hw', hr] using h90)] at hexec
      refine ((State.raise_touch ..).after (((Touch.refl [.pages, .pwr] s).onPwr rfl).onPwr rfl) rfl).does hexec
        ⟨rfl, rfl, fun _ => eventSet_raise_self (by decide) _, ?_, fun h => by omega, fun _ => rfl⟩
      exact ⟨fun h => absurd h Bool.false_ne_true, fun h => absurd h hnot⟩
  · rw [if_neg h95, if_neg (by simp [hr])] at hexec
    by_cases h102 : temp < 16 * 102 ∨ s.pwr.baseStop = true
    · rw [if_pos (by simpa using h102)] at hexec
      have hstop : (baseWarned temp s).pwr.baseStop = s.pwr.baseStop := by rw [hpwr]
      refine htouch.does hexec ⟨by rw [hpwr], by rw [hpwr], hevent, ?_, fun h h' => ?_, fun _ => ?_⟩
      · rw [hstop]
        exact ⟨fun h => Or.inr ⟨by omega, h⟩, fun h => h.elim (fun h => h102.resolve_left (by omega)) And.right⟩
      · exact absurd h102 (by simp [h']; omega)
      · rw [State.pch, hpwr]
        rfl
    · rw [if_neg (by simpa using h102)] at hexec
      obtain ⟨hge, hnostop⟩ := not_or.1 h102
      have hu : Touch [.pages, .pwr] s ((baseWarned temp s).onPwr fun w => { w with baseStop := true }) := htouch.onPwr rfl
      obtain ⟨hbase, hwarn, hstop⟩ := forAll_askProtect_base 0xA (allPch.filter s.switching)
        ((baseWarned temp s).onPwr fun w => { w with baseStop := true })
      have hpch : ((baseWarned temp s).onPwr fun w => { w with baseStop := true }).pch c = s.pch c := by
        rw [State.pch, State.onPwr_pwr, hpwr]
        rfl
      have hall : Touch [.pages, .pwr] s (forAll (allPch.filter s.switching) (askProtect · 0xA)
          ((baseWarned temp s).onPwr fun w => { w with baseStop := true })) :=
        (forAll_touch (fun c u => askProtect_touch c 0xA u) _).after hu rfl
      refine hall.does hexec ⟨?_, ?_, fun h => ?_, ?_, fun _ _ => ?_, fun h => absurd h h102⟩
      · rw [hbase, State.onPwr_pwr, hpwr]
      · rw [hwarn, State.onPwr_pwr, hpwr]
      · exact ((forAll_touch (fun c u => askProtect_touch c 0xA u) _).eventSet_eq 13).trans (hevent h)
      · rw [hstop, State.onPwr_pwr]
        exact ⟨fun _ => Or.inl (by omega), fun _ => rfl⟩
      · have hl : (allPch.filter s.switching).Nodup := (List.nodup_finRange 4).filter _
        rw [forAll_askProtect 0xA hl, hpch]
        simp [allPch]

theorem temps_absent (h : s.chip.variant = .l) (temp : Int) :
    exec (.dieTempEvent c temp) s = .next s ∧ exec (.baseplateTempEvent temp) s = .next s := by
  constructor
  · rw [exec_dieTempEvent, execDieTempEvent, if_pos (by rw [h]; rfl)]
  · rw [exec_baseplateTempEvent, execBaseplateTempEvent, if_pos (by rw [h]; rfl)]

theorem logicWarning_does (h : s.pwr.logicWarn = false) : Does .logicDieTempWarning s [.pages, .pwr] fun t =>
    t.pwr = { s.pwr with logicWarn := true } ∧ t.host.hostPage.event.getLsbD 13 = true := by
  have hexec := exec_logicDieTempWarning s
  rw [execLogicDieTempWarning, if_neg (by rw [h]; decide)] at hexec
  exact ((State.raise_touch ..).after ((Touch.refl [.pages, .pwr] s).onPwr rfl) rfl).does hexec ⟨rfl, eventSet_raise_self (by decide) _⟩

end

/-- Settles O42: by the asked-for stop, the flags of the loads and windows, and the thresholds of the temperatures. -/
theorem slowProtection : Obligations.SlowProtection := by
  unfold Obligations.SlowProtection
  intro s c
  refine ⟨dcFault_does, unwatched_idle, fun temp hv => ?_, fun temp hv => ⟨baseplate_cold hv, fun h90 hr => ?_, baseplate_unwatched hv⟩,
    fun hv temp => temps_absent hv temp, openLoad_does, openLoad_none, exec_openLoadClear c s, fun hr hb hz z => ⟨impedance_none hr hb hz,
    impedance_outside hr hb hz, impedance_flags hr hb hz, impedance_inside hr hb hz⟩, impedance_idle, logicWarning_does, fun h => ?_, ?_, fun h => ?_,
    fun h => ?_, fun h => ?_, fun h => ?_, fun temp => ⟨fun h => ?_, fun h => ?_, fun h => ?_, fun h => ?_, ?_⟩⟩
  · exact dieTempEvent_does hv
  · exact baseplate_warns hv h90 hr
  · rw [exec_logicDieTempWarning, execLogicDieTempWarning, if_pos h]
  · rw [exec_tempWarningClear, execTempWarningClear]
    rfl
  · rw [exec_tempWarningClear, execTempWarningClear]
    exact congrArg Host.Outcome.next (if_pos h)
  · rw [exec_tempWarningClear, execTempWarningClear]
    exact congrArg Host.Outcome.next (if_neg (Int.not_le.2 h))
  · rw [exec_tempWarningClear, execTempWarningClear]
    exact congrArg Host.Outcome.next (if_pos h)
  · rw [exec_tempWarningClear, execTempWarningClear]
    exact congrArg Host.Outcome.next (if_neg (Int.not_le.2 h))
  · rw [exec_tempStopRecovery, execTempStopRecovery, satInt_sixteen]
    exact congrArg Host.Outcome.next (if_pos h)
  · rw [exec_tempStopRecovery, execTempStopRecovery]
    exact congrArg Host.Outcome.next (if_neg (Int.not_lt.2 h))
  · rw [exec_tempStopRecovery, execTempStopRecovery, satInt_sixteen]
    exact congrArg Host.Outcome.next (if_pos h)
  · rw [exec_tempStopRecovery, execTempStopRecovery]
    exact congrArg Host.Outcome.next (if_neg (Int.not_lt.2 h))
  · rw [exec_tempStopRecovery, execTempStopRecovery]

end Sys2Proof.Machine
end

section
/-! PROOFS. Sage: its updates, its windows and the state it stores (R399-R407, R415). -/

namespace Sys2Proof.Machine

open Sys2Proof

set_option Elab.async false

section
variable {c k : Fin 4} {s : State}

/-- A temperature of a parameter in tenths of a degree, in units of 2^-48 degC. -/
def deg48 (n : Nat) : Int := (n : Int) * 2 ^ 48 / 10

/-- A coil is muted at T_MAX plus the margin, and stays so down to T_MAX (R405). -/
def State.mutes (s : State) (c : Fin 4) (tc : Int) : Bool :=
  s.sageOn c && (if (s.pch c).coilMute then decide (tc ≥ deg48 (s.sageParam c 1))
    else decide (tc ≥ deg48 (s.sageParam c 1) + deg48 (s.sageParam c 3)))

/-- The channel's record after an update that finds temperatures and gains. -/
def Pch.updated (now : DWord) (tc tm : Int) (gCoil gStage pAvg : Nat) (mute bad : Bool) (p : Pch) : Pch :=
  { p with
    sageAt := some now, tc, tm, gCoil, gStage, pAvg, coilMute := mute, gFrom := p.gSage, gStep := 0, limiting := decide (min gCoil gStage < 2 ^ 32)
    senseLost := bad }

/-- The events of an update: a coil that is muted now, and a gain that falls below 1 now. -/
def updateEvents (c : Fin 4) (mute : Bool) (begins : Bool) (s s1 : State) : State :=
  let s2 := if mute && !(s.pch c).coilMute then (s1.bumpProt c 10).raise 8 else s1
  if begins then s2.raise 8 else s2

/-- An update of Sage finds temperatures, gains and a mean power, and changes the channel's record to them. -/
theorem sageStep_shape (c : Fin 4) (i2 pw : Nat) (s : State) : ∃ (tc tm : Int) (gCoil gStage pAvg : Nat),
    (s.sageOn c = false → tc = (s.pch c).tc ∧ tm = (s.pch c).tm) ∧
    sageStep c i2 pw s = updateEvents c (s.mutes c tc) (decide (min gCoil gStage < 2 ^ 32) && !(s.pch c).limiting) s
      (s.onPch c (Pch.updated s.now tc tm gCoil gStage pAvg (s.mutes c tc) (s.senseBad c))) := by
  refine ⟨_, _, _, _, _, fun h => ?_, rfl⟩
  simp [h]

theorem updateEvents_pwr (mute begins : Bool) (s1 : State) : (updateEvents c mute begins s s1).pwr = s1.pwr := by
  unfold updateEvents
  dsimp only
  cases begins <;> cases mute <;> cases (s.pch c).coilMute <;> rfl

/-- The events raise bit 8 for a coil muted now, which also counts, and for a gain below 1 now. -/
theorem updateEvents_muted (begins : Bool) {s1 : State} (h : (s.pch c).coilMute = false) (hcnt : s1.cnt = s.cnt) :
    (updateEvents c true begins s s1).eventSet 8 = true ∧
      (updateEvents c true begins s s1).count (pchFn c) 14 = min (2 ^ 48 - 1) (s.count (pchFn c) 14 + 1) := by
  have hraised : ((s1.bumpProt c 10).raise 8).eventSet 8 = true := eventSet_raise_self (by decide) _
  have hcount : (s1.bumpProt c 10).count (pchFn c) 14 = min (2 ^ 48 - 1) (s.count (pchFn c) 14 + 1) := by
    have h := counts_congr (s' := s) hcnt.symm rfl (counts_bumpBy (i := 14) (by decide) (pchFn c) 1 s1) (pchFn c) 14 (by decide)
    rw [if_pos ⟨rfl, rfl⟩] at h
    exact h
  unfold updateEvents
  dsimp only
  have hif : (true && !(s.pch c).coilMute) = true := by rw [h]; rfl
  rw [if_pos hif]
  cases begins
  · exact ⟨hraised, hcount⟩
  · exact ⟨eventSet_raise_self (by decide) _, hcount⟩

theorem updateEvents_begins (mute : Bool) (s1 : State) : (updateEvents c mute true s s1).eventSet 8 = true :=
  eventSet_raise_self (by decide) _

theorem sageUpdate_does (i2 pw : Nat) (halive : s.running .sage = true ∧ s.chip.linkUp = true) (hdue : s.updateDue c = true) :
    Does (.sageUpdate c i2 pw) s [.pages, .pwr, .cnt] fun t =>
     (t.pch c).gFrom = (s.pch c).gSage ∧ (t.pch c).gStep = 0 ∧ (t.pch c).sageAt = some s.now ∧ (t.pch c).senseLost = s.senseBad c ∧
     ((t.pch c).limiting = true ↔ (t.pch c).gSage < 2 ^ 32) ∧ (t.pch c).phase = (s.pch c).phase ∧
     (s.sageOn c = false → (t.pch c).tc = (s.pch c).tc ∧ (t.pch c).tm = (s.pch c).tm ∧ (t.pch c).coilMute = false) ∧
     (s.sageOn c = true → (s.pch c).coilMute = false →
       (deg48 (s.sageParam c 1) + deg48 (s.sageParam c 3) ≤ (t.pch c).tc →
         (t.pch c).coilMute = true ∧ t.host.hostPage.event.getLsbD 8 = true ∧
         t.count (pchFn c) 14 = min (2 ^ 48 - 1) (s.count (pchFn c) 14 + 1)) ∧
       ((t.pch c).tc < deg48 (s.sageParam c 1) + deg48 (s.sageParam c 3) → (t.pch c).coilMute = false)) ∧
     (s.sageOn c = true → (s.pch c).coilMute = true → ((t.pch c).coilMute = true ↔ deg48 (s.sageParam c 1) ≤ (t.pch c).tc)) ∧
     ((s.pch c).limiting = false → (t.pch c).limiting = true → t.host.hostPage.event.getLsbD 8 = true) ∧
     t.pwr = { s.pwr with ch := t.pwr.ch } ∧ ∀ k, k ≠ c → t.pch k = s.pch k := by
  have hexec := exec_sageUpdate c i2 pw s
  rw [execSageUpdate, if_pos (by simp [State.sageAlive, halive, hdue])] at hexec
  have htouch := sageStep_touch c i2 pw s
  obtain ⟨tc, tm, gCoil, gStage, pAvg, hoff, hshape⟩ := sageStep_shape c i2 pw s
  rw [hshape] at hexec htouch
  have hpwr := updateEvents_pwr (c := c) (s := s) (s.mutes c tc) (decide (min gCoil gStage < 2 ^ 32) && !(s.pch c).limiting)
    (s.onPch c (Pch.updated s.now tc tm gCoil gStage pAvg (s.mutes c tc) (s.senseBad c)))
  have hmuted := fun b h => updateEvents_muted (c := c) (s := s) b (s1 := s.onPch c (Pch.updated s.now tc tm gCoil gStage pAvg (s.mutes c tc) (s.senseBad c))) h rfl
  have hbegins := fun m => updateEvents_begins (c := c) (s := s) m (s.onPch c (Pch.updated s.now tc tm gCoil gStage pAvg (s.mutes c tc) (s.senseBad c)))
  have hp : ∀ j, (updateEvents c (s.mutes c tc) (decide (min gCoil gStage < 2 ^ 32) && !(s.pch c).limiting) s
      (s.onPch c (Pch.updated s.now tc tm gCoil gStage pAvg (s.mutes c tc) (s.senseBad c)))).pch j =
      (s.onPch c (Pch.updated s.now tc tm gCoil gStage pAvg (s.mutes c tc) (s.senseBad c))).pch j := by
    intro j
    rw [State.pch, hpwr]
    rfl
  refine htouch.does hexec ?_
  rw [hp c, pch_onPch, hpwr]
  refine ⟨rfl, rfl, rfl, rfl, decide_eq_true_iff, rfl, fun h => ?_, fun hon hm => ⟨fun h => ?_, fun h => ?_⟩, fun hon hm => ?_, fun hl hlim => ?_, rfl,
    fun k hk => (hp k).trans (State.pch_onPch_ne _ s hk)⟩
  · obtain ⟨htc, htm⟩ := hoff h
    refine ⟨htc, htm, ?_⟩
    show s.mutes c tc = false
    rw [State.mutes, h, Bool.false_and]
  · have hmute : s.mutes c tc = true := by
      rw [State.mutes, hon, hm]
      exact decide_eq_true h
    refine ⟨hmute, ?_⟩
    rw [hmute] at hmuted ⊢
    exact hmuted _ hm
  · show s.mutes c tc = false
    rw [State.mutes, hon, hm]
    exact decide_eq_false (Int.not_le.2 h)
  · show s.mutes c tc = true ↔ _
    rw [State.mutes, hon, hm]
    exact decide_eq_true_iff
  · have hlim' : decide (min gCoil gStage < 2 ^ 32) = true := hlim
    rw [hl, hlim']
    exact hbegins _

theorem sageUpdate_none (h : ¬(s.running .sage = true ∧ s.chip.linkUp = true) ∨ s.updateDue c = false) (i2 pw : Nat) :
    exec (.sageUpdate c i2 pw) s = .next s := by
  rw [exec_sageUpdate, execSageUpdate]
  refine congrArg Host.Outcome.next (if_neg fun hall => ?_)
  simp only [State.sageAlive, Bool.and_eq_true] at hall
  obtain ⟨hal, hd⟩ := hall
  exact h.elim (· hal) fun h => by simp [h] at hd

/-! Windows. -/

theorem sageWindow_idle (h : ¬(s.running .sage = true ∧ s.chip.linkUp = true) ∨ s.sageOn c = false ∨
    (s.now - (s.pch c).winAt).toInt < ((s.fsHz / 2 : Nat) : Int)) (r : Nat) (valid : Bool) :
    exec (.sageWindow c r valid) s = .next s := by
  rw [exec_sageWindow, execSageWindow]
  refine congrArg Host.Outcome.next (if_pos ?_)
  simp only [State.sageAlive, Bool.or_eq_true, Bool.not_eq_true', decide_eq_true_eq, or_assoc]
  refine h.imp_left fun h => ?_
  rw [Bool.and_eq_false_iff]
  by_cases hr : s.running .sage = true
  · exact Or.inr (by simpa [hr] using h)
  · exact Or.inl (by simpa using hr)

section
variable (halive : s.running .sage = true ∧ s.chip.linkUp = true) (hon : s.sageOn c = true)
  (hwin : ((s.fsHz / 2 : Nat) : Int) ≤ (s.now - (s.pch c).winAt).toInt)
include halive hon hwin

theorem window_open : ¬(!s.sageAlive || !s.sageOn c || decide ((s.now - (s.pch c).winAt).toInt < ((s.fsHz / 2 : Nat) : Int))) = true := by
  have hal : s.sageAlive = true := by rw [State.sageAlive, halive.1, halive.2]; rfl
  rw [hal, hon]
  simpa using hwin

theorem sageWindow_valid (r : Nat) (hb : s.senseBad c = false) : Does (.sageWindow c r true) s [.pwr, .cnt] fun t => Counts s t (pchFn c) 15 1 ∧
    (t.pch c).rEst = min r 65535 ∧ (t.pch c).rValid = true ∧ (t.pch c).rAge = 0 ∧ (t.pch c).winAt = s.now ∧
    ((s.pch c).reseed = false → (t.pch c).tm = (s.pch c).tm ∧
      (t.pch c).tc = (s.pch c).tc + (s.sageParam c 8 : Int) * (s.tMeas c r - (s.pch c).tc) / 256) ∧
    ((s.pch c).reseed = true → (t.pch c).tc = s.tMeas c r ∧ (t.pch c).tm = min (s.pch c).tm (s.tMeas c r) ∧
      (t.pch c).reseed = false) ∧ ∀ k, k ≠ c → t.pch k = s.pch k := by
  have hexec := exec_sageWindow c r true s
  unfold execSageWindow at hexec
  dsimp only at hexec
  rw [if_neg (window_open halive hon hwin), if_pos (by rw [hb]; rfl)] at hexec
  have hp : ((s.bumpProt c 11).onPch c fun p => fuse (s.sageParam c 8) (s.tMeas c r) { p with
      rEst := min r 65535, rValid := true, rAge := 0, winAt := s.now }).pch c =
      fuse (s.sageParam c 8) (s.tMeas c r) { s.pch c with rEst := min r 65535, rValid := true, rAge := 0, winAt := s.now } := pch_onPch ..
  refine ((State.onPch_touch ..).after ((State.bumpProt_touch ..).after (Touch.refl [.pwr, .cnt] s) rfl) rfl).does hexec ?_
  rw [hp]
  refine ⟨counts_congr rfl rfl (counts_bumpBy (i := 15) (by decide) (pchFn c) 1 s), ?_⟩
  cases hr : (s.pch c).reseed
  · rw [fuse, if_neg (by simp [hr])]
    exact ⟨rfl, rfl, rfl, rfl, fun _ => ⟨rfl, rfl⟩, fun h => absurd h (by decide), fun k hk => (State.pch_onPch_ne _ _ hk).trans rfl⟩
  · rw [fuse, if_pos (by simp [hr])]
    exact ⟨rfl, rfl, rfl, rfl, fun h => absurd h (by decide), fun _ => ⟨rfl, rfl, rfl⟩, fun k hk => (State.pch_onPch_ne _ _ hk).trans rfl⟩

theorem sageWindow_invalid (r : Nat) (valid : Bool) (h : valid = false ∨ s.senseBad c = true) :
    exec (.sageWindow c r valid) s = .next (s.onPch c fun p => { p with
      winAt := s.now, rAge := p.rAge + 1, rValid := p.rValid && decide (p.rAge < 3) }) := by
  rw [exec_sageWindow, execSageWindow, if_neg (window_open halive hon hwin), if_neg]
  obtain h | h := h <;> simp [h]

end

/-! The stored state. -/

theorem saveCoil_pch (c : Fin 4) (s : State) : (saveCoil c s).pch c = { s.pch c with saved := some ((s.pch c).tc, (s.pch c).tm) } := pch_onPch ..

/-- Every channel of a list stores its state. -/
theorem forAll_saveCoil (l : List (Fin 4)) (s : State) (k : Fin 4) : (forAll l saveCoil s).pch k =
    if k ∈ l then { s.pch k with saved := some ((s.pch k).tc, (s.pch k).tm) } else s.pch k := by
  induction l generalizing s with
  | nil => rfl
  | cons a l ih =>
    rw [forAll_cons, ih]
    by_cases hk : k = a
    · subst hk
      rw [saveCoil_pch]
      simp
    · have hne : (saveCoil a s).pch k = s.pch k := State.pch_onPch_ne _ s hk
      rw [hne]
      simp [hk]

theorem forAll_saveCoil_pwr (l : List (Fin 4)) (s : State) :
    (forAll l saveCoil s).pwr = { s.pwr with ch := (forAll l saveCoil s).pwr.ch } := by
  induction l generalizing s with
  | nil => rfl
  | cons a l ih => exact (ih (saveCoil a s)).trans rfl

theorem saveDue_spec (b : State) :
    (b.running .sage = true → ((10 * b.fsHz : Nat) : Int) ≤ (b.now - b.pwr.savedAt).toInt → Only [.pwr] b (saveDue b) ∧
      (saveDue b).pwr = { b.pwr with ch := (saveDue b).pwr.ch, savedAt := b.now } ∧
      ∀ k, (saveDue b).pch k = { b.pch k with saved := some ((b.pch k).tc, (b.pch k).tm) }) ∧
    (b.running .sage = false ∨ (b.now - b.pwr.savedAt).toInt < ((10 * b.fsHz : Nat) : Int) → saveDue b = b) := by
  refine ⟨fun hr hd => ?_, fun h => if_neg fun hall => ?_⟩
  · have heq : saveDue b = (forAll allPch saveCoil b).onPwr fun w => { w with savedAt := b.now } := by
      unfold saveDue
      rw [if_pos (by rw [hr]; simpa using hd)]
    refine ⟨(saveDue_touch b).frame, ?_, fun k => ?_⟩
    · rw [heq, State.onPwr_pwr, forAll_saveCoil_pwr]
    · rw [heq]
      exact (forAll_saveCoil allPch b k).trans (if_pos (List.mem_finRange k))
  · simp only [Bool.and_eq_true, decide_eq_true_eq] at hall
    exact h.elim (fun h => by simp [h] at hall) fun h => absurd hall.2 (Int.not_le.2 h)

end

/-- Settles O43: by the shape of an update, the two kinds of window, and what is stored at a boundary. -/
theorem sageCommands : Obligations.SageCommands := by
  unfold Obligations.SageCommands
  intro s c
  exact ⟨⟨fun i2 p halive hdue => sageUpdate_does i2 p halive hdue, sageUpdate_none, fun halive hon hwin r =>
      ⟨sageWindow_valid halive hon hwin r, sageWindow_invalid halive hon hwin r⟩, sageWindow_idle⟩,
    doesAt_boundaryDo (exec_sageStateSave s) (fun b => (saveDue_touch b).queue) saveDue_spec⟩

end Sys2Proof.Machine
end

section
/-! PROOFS. The atomic operations on the shared SRAM (R435). -/

namespace Sys2Proof.Machine

open Sys2Proof

set_option Elab.async false

/-- The bytes of an atomic operation's word. -/
def wordSize (a : AtomicArg) : Nat := if a.wide then 8 else 4

/-- What an atomic operation of master `m` leaves that stores `new` where the word was `old`. -/
structure Swaps (m : Fin 13) (a : AtomicArg) (old new : Nat) (s t : State) : Prop where
  memc : t.memc = { s.memc with lastResp := some (m, 0, 0x00, leBytes (wordSize a) old) }
  word : ofLe (t.read a.addr.toNat (wordSize a)) = new % 2 ^ (8 * wordSize a)
  others : ∀ b, b < a.addr.toNat ∨ a.addr.toNat + wordSize a ≤ b → memByte t.mem b = memByte s.mem b

section
variable {m : Fin 13} {a : AtomicArg} {s : State} {f : Nat → Nat}

theorem atomic_none (h : m.val < 4 ∨ 11 < m.val) (a : AtomicArg) (f : Nat → Nat) (s : State) : atomic m a f s = s := by
  unfold atomic
  dsimp only
  rw [if_pos]
  simp only [Bool.not_eq_true', Bool.and_eq_false_iff, decide_eq_false_iff_not]
  omega

theorem atomic_masters (h4 : 4 ≤ m.val) (h11 : m.val ≤ 11) : ¬(!(decide (4 ≤ m.val) && decide (m.val ≤ 11))) = true := by
  simp [h4, h11]

theorem atomic_elsewhere (h4 : 4 ≤ m.val) (h11 : m.val ≤ 11) (h : isSram a.addr.toNat = false) : atomic m a f s =
    { s with memc := { s.memc with errCount := satInc s.memc.errCount, lastResp := some (m, 0, 0x07, []) } } := by
  unfold atomic
  dsimp only
  rw [if_neg (atomic_masters h4 h11), if_pos (by rw [h]; rfl)]
  rfl

theorem atomic_bad (h4 : 4 ≤ m.val) (h11 : m.val ≤ 11) (h : isSram a.addr.toNat = true)
    (hbad : a.addr.toNat % wordSize a ≠ 0 ∨ s.poisonEnd a.addr.toNat (a.addr.toNat + wordSize a) ≠ a.addr.toNat + wordSize a) :
    atomic m a f s = { s with memc := { s.memc with lastResp := some (m, 0, 0x07, []) } } := by
  unfold atomic
  dsimp only
  rw [if_neg (atomic_masters h4 h11), if_neg (by rw [h]; decide)]
  exact (if_pos hbad).trans rfl

/-- An aligned word of the shared SRAM without poison takes the operation. -/
theorem atomic_swaps (hwf : Memory.wf s.mem = true) (h4 : 4 ≤ m.val) (h11 : m.val ≤ 11) (h : isSram a.addr.toNat = true)
    (hal : a.addr.toNat % wordSize a = 0) (hpoison : s.poisonEnd a.addr.toNat (a.addr.toNat + wordSize a) = a.addr.toNat + wordSize a) :
    Swaps m a (ofLe (s.read a.addr.toNat (wordSize a))) (f (ofLe (s.read a.addr.toNat (wordSize a)))) s (atomic m a f s) := by
  have heq : atomic m a f s = respond m 0 stOk (leBytes (wordSize a) (ofLe (s.read a.addr.toNat (wordSize a))))
      (s.write a.addr.toNat (leBytes (wordSize a) (f (ofLe (s.read a.addr.toNat (wordSize a)))))) := by
    unfold atomic
    dsimp only
    rw [if_neg (atomic_masters h4 h11), if_neg (by rw [h]; decide), if_neg fun hbad => hbad.elim (· hal) (· hpoison)]
    rfl
  have hmem : (atomic m a f s).mem = memPutList s.mem a.addr.toNat (leBytes (wordSize a) (f (ofLe (s.read a.addr.toNat (wordSize a))))) := by
    rw [heq]
    rfl
  refine ⟨by rw [heq]; rfl, ?_, fun b hb => ?_⟩
  · have hself := memGetList_memPutList_self hwf a.addr.toNat (leBytes (wordSize a) (f (ofLe (s.read a.addr.toNat (wordSize a)))))
    rw [length_leBytes] at hself
    rw [State.read, hmem, hself, ofLe_leBytes, pow_mul]
    norm_num
  · rw [hmem, memByte_memPutList _ _ _ hwf, length_leBytes, if_neg (by omega)]

theorem atomic_does {i : Instr} (hexec : exec i s = .next (atomic m a f s)) (hwf : Memory.wf s.mem = true) (h4 : 4 ≤ m.val) (h11 : m.val ≤ 11)
    (h : isSram a.addr.toNat = true) (hal : a.addr.toNat % wordSize a = 0)
    (hpoison : s.poisonEnd a.addr.toNat (a.addr.toNat + wordSize a) = a.addr.toNat + wordSize a) {new : Nat}
    (hnew : f (ofLe (s.read a.addr.toNat (wordSize a))) = new) :
    Does i s [.memc, .mem] fun t => Swaps m a (ofLe (s.read a.addr.toNat (wordSize a))) new s t :=
  (atomic_touch m a f s).does hexec (hnew ▸ atomic_swaps hwf h4 h11 h hal hpoison)

/-- Every atomic command is `atomic` with its own function. -/
theorem exec_atomic (m : Fin 13) (a : AtomicArg) (new : DWord) (s : State) {e : Instr × Nat}
    (he : e ∈ [(Instr.swap m a, 0), (Instr.fetchAdd m a, 0), (Instr.fetchAnd m a, 0), (Instr.fetchOr m a, 0), (Instr.cas m a new, 0)]) :
    ∃ f, exec e.1 s = .next (atomic m a f s) := by
  simp only [List.mem_cons, List.not_mem_nil, or_false] at he
  obtain rfl | rfl | rfl | rfl | rfl := he
  · exact ⟨_, exec_swap m a s⟩
  · exact ⟨_, exec_fetchAdd m a s⟩
  · exact ⟨_, exec_fetchAnd m a s⟩
  · exact ⟨_, exec_fetchOr m a s⟩
  · exact ⟨_, exec_cas m a new s⟩

end

/-- Settles O45: by the three outcomes of `atomic`. -/
theorem atomicCommands : Obligations.AtomicCommands := by
  unfold Obligations.AtomicCommands
  intro s m a new hwf
  refine ⟨fun h4 h11 => ⟨fun h hal hp => ?_, fun e he => ?_⟩, fun h e he => ?_⟩
  · have hto : ∀ {i : Instr} {n : Nat}, (Does i s [.memc, .mem] fun t => Swaps m a (ofLe (s.read a.addr.toNat (wordSize a))) n s t) →
        Does i s [.memc, .mem] fun t => t.memc = { s.memc with lastResp := some (m, 0, 0x00, leBytes (wordSize a) (ofLe (s.read a.addr.toNat (wordSize a)))) } ∧
          ofLe (t.read a.addr.toNat (wordSize a)) = n % 2 ^ (8 * wordSize a) ∧
          ∀ b, b < a.addr.toNat ∨ a.addr.toNat + wordSize a ≤ b → memByte t.mem b = memByte s.mem b :=
      fun h => h.imp fun t ht => ht.imp_right (.imp_right (.imp_right fun hs => ⟨hs.memc, hs.word, hs.others⟩))
    refine ⟨hto (atomic_does (exec_swap m a s) hwf h4 h11 h hal hp rfl), hto (atomic_does (exec_fetchAdd m a s) hwf h4 h11 h hal hp rfl),
      hto (atomic_does (exec_fetchAnd m a s) hwf h4 h11 h hal hp rfl), hto (atomic_does (exec_fetchOr m a s) hwf h4 h11 h hal hp rfl),
      hto (atomic_does (exec_cas m a new s) hwf h4 h11 h hal hp ?_)⟩
    have hbits : (if a.wide then 64 else 32) = 8 * wordSize a := by
      unfold wordSize
      split <;> rfl
    simp only [hbits]
    rfl
  · obtain ⟨f, hf⟩ := exec_atomic m a new s he
    exact ⟨fun h => hf.trans (congrArg Host.Outcome.next (atomic_elsewhere h4 h11 h)),
      fun h hbad => hf.trans (congrArg Host.Outcome.next (atomic_bad h4 h11 h hbad))⟩
  · obtain ⟨f, hf⟩ := exec_atomic m a new s he
    rw [hf, atomic_none h]

end Sys2Proof.Machine
end

section
/-! PROOFS. Refresh, scrub, migration and the parameter store, O46. -/

namespace Sys2Proof.Machine

open Sys2Proof

set_option Elab.async false

/-- A module whose counter of the parameter store's corrected words is past 48 bits. -/
def storePastEnd : State := { State.reset with cnt := { State.reset.cnt with vals := Store.put [] (cntKey 0x0E 1) (2 ^ 48) } }

theorem corrected_storePastEnd : (match exec (.psWordWrite 0 0 4 false) storePastEnd with
    | .next t => t.count 0x0E 1
    | _ => 0) = 2 ^ 48 := by decide +kernel

/-- Refutes O46: a word written without a correction leaves the counter of corrections as it is, where the statement has it within 48 bits. -/
theorem not_dramCommands : ¬ Obligations.DramCommands := by
  intro h
  obtain ⟨-, -, -, -, -, -, -, -, -, hword⟩ := h storePastEnd 0
  obtain ⟨-, hfails⟩ := hword 0 0 4 false
  obtain ⟨t, hexec, -, -, -, -, hcount⟩ := hfails (by decide)
  have hkept := corrected_storePastEnd
  rw [hexec] at hkept
  exact absurd (hkept.symm.trans hcount) (by decide +kernel)

end Sys2Proof.Machine
end

section
/-! PROOFS. A tick boundary and its tokens, O48. -/

namespace Sys2Proof.Machine

open Sys2Proof

set_option Elab.async false

/-- A parameter write of MEMCTL's, due, that names the phase step of TIMEKEEPER. -/
def strayStep : Action :=
  { func := .memctl, id := 1, time := 0, nT := 0, op := 1, pid := 0x05000012, value := 100000, capTag := 0, ring := 0, tag := 1, irq := false }

/-- MEMCTL at work before its token of tick 1, with the stray write due. -/
def strayStepDue : State := State.setLife .memctl .running { State.reset with
  chip := { State.reset.chip with supply := .full, stage := 6 }
  time := { State.reset.time with tick := 1 }
  life := { State.reset.life with acts := [strayStep] } }

theorem now_strayStepDue : (match exec (.tickToken .memctl 1 true []) strayStepDue with
    | .next t => t.now == strayStepDue.now
    | _ => true) = false := by decide +kernel

/-- Refutes O48: at MEMCTL's token a scheduled write whose parameter is not MEMCTL's loads the counter, so that the timing island's tick does not stay. -/
theorem not_tickEvents : ¬ Obligations.TickEvents := by
  intro h
  obtain ⟨-, -, htoken⟩ := h strayStepDue
  obtain ⟨htaken, -⟩ := htoken .memctl 1 true []
  obtain ⟨hgood, -⟩ := htaken 1 (by decide +kernel)
  obtain ⟨t, hexec, -, -, -, hstays, -⟩ := hgood (Or.inr ⟨rfl, by decide⟩)
  obtain ⟨-, hnow⟩ := hstays (by decide)
  have hval := now_strayStepDue
  rw [hexec] at hval
  dsimp only at hval
  rw [hnow, beq_self_eq_true] at hval
  exact absurd hval (by decide)

end Sys2Proof.Machine
end

section
/-! PROOFS. Vectors handed over, missed and faded (R15, R17-R19, R22, R74). -/

namespace Sys2Proof.Machine

open Sys2Proof

set_option Elab.async false

section
variable {p : Producer} {k : Consumer} {s t : State}

/-- Every edge but that of `p` and `k`. -/
def OtherEdges (p : Producer) (k : Consumer) (s t : State) : Prop := ∀ q j, edgeKey q j ≠ edgeKey p k → t.edge q j = s.edge q j

theorem Touch.edge_eq {ps : List Part} (h : Touch ps s t) (q : Producer) (j : Consumer) (hp : ps.contains .edges = false := by rfl) :
    t.edge q j = s.edge q j := by rw [State.edge, State.edge, h.edges_eq hp]

theorem onEdge_others (p : Producer) (k : Consumer) (g : Edge → Edge) (s : State) : OtherEdges p k s (s.onEdge p k g) := by
  intro q j h
  exact congrArg (fun o : Option Edge => o.getD {}) (Store.get?_put_of_ne _ _ h)

/-- The tick of a vector has passed at its consumer. -/
def Edge.passed (v : Vec) (e : Edge) : Prop := (e.seen.map fun u => v.tick == u || decide (2 ^ 63 ≤ (v.tick - u).toNat)) = some true

theorem sub_toNat_eq_zero (a b : DWord) : (a - b).toNat = 0 ↔ a = b :=
  ⟨fun h => by bv_omega, fun h => by rw [h]; simp⟩

/-- What the rule of late vectors looks at. -/
theorem place_old (v : Vec) (e : Edge) : (match e.seen with
    | some t => decide ((v.tick - t).toNat = 0 ∨ (v.tick - t).toNat ≥ 2 ^ 63)
    | none => false) = true ↔ e.passed v := by
  unfold Edge.passed
  cases e.seen with
  | none => simp
  | some u =>
    simp only [Option.map_some, Option.some.injEq, decide_eq_true_eq, Bool.or_eq_true, beq_iff_eq, sub_toNat_eq_zero, ge_iff_le]

theorem place_passed {v : Vec} {e : Edge} (h : e.passed v) : Edge.place v e = { e with sent := some v.tick, late := e.late + 1 } := by
  unfold Edge.place
  dsimp only
  exact if_pos ((place_old v e).2 h)

theorem place_empty {v : Vec} {e : Edge} (h : ¬ e.passed v) (hf : e.fifo = none) :
    Edge.place v e = { e with sent := some v.tick, fifo := some v } := by
  unfold Edge.place
  dsimp only
  refine (if_neg (mt (place_old v e).1 h)).trans ?_
  rw [hf]

theorem place_full {v : Vec} {e : Edge} (h : ¬ e.passed v) (hf : e.fifo ≠ none) (hp : e.paused = none) :
    Edge.place v e = { e with sent := some v.tick, paused := some v } := by
  unfold Edge.place
  dsimp only
  refine (if_neg (mt (place_old v e).1 h)).trans ?_
  obtain ⟨w, hw⟩ := Option.ne_none_iff_exists'.1 hf
  rw [hw, hp]

/-! VECTOR_HANDOFF. -/

theorem exec_vectorHandoff_eq (he : edgeExists p k = true) : exec (.vectorHandoff p k) s = .next (handOver p k s) := by
  rw [exec_vectorHandoff, execVectorHandoff, if_pos he]

theorem handOver_none (h : vectorOf s p k = none) : handOver p k s = s := by
  unfold handOver
  rw [h]

theorem handOver_refused {v : Vec} (hv : vectorOf s p k = some v)
    (h : (s.edge p k).sent = some v.tick ∨ (s.edge p k).paused.isSome = true ∨ (s.life? (consFunc k)).busy = false) : handOver p k s = s := by
  unfold handOver
  rw [hv]
  refine if_pos ?_
  simp only [Bool.or_eq_true, Bool.not_eq_true', decide_eq_true_eq, or_assoc]
  exact h

theorem handOver_places {v : Vec} (hv : vectorOf s p k = some v) (hs : (s.edge p k).sent ≠ some v.tick) (hp : (s.edge p k).paused = none)
    (hb : (s.life? (consFunc k)).busy = true) : handOver p k s = s.onEdge p k (Edge.place v) := by
  unfold handOver
  rw [hv]
  refine if_neg ?_
  simp [hs, hp, hb]

/-- A vector that is handed over changes its own edge alone. -/
theorem vectorHandoff_does {v : Vec} (he : edgeExists p k = true) (hv : vectorOf s p k = some v) (hs : (s.edge p k).sent ≠ some v.tick)
    (hp : (s.edge p k).paused = none) (hb : (s.life? (consFunc k)).busy = true) {e : Edge} (hplace : Edge.place v (s.edge p k) = e) :
    Does (.vectorHandoff p k) s [.edges] fun t => t.edge p k = e ∧ OtherEdges p k s t := by
  have hexec := exec_vectorHandoff_eq (s := s) he
  rw [handOver_places hv hs hp hb] at hexec
  exact (State.onEdge_touch p k _ s).does hexec ⟨(edge_onEdge ..).trans hplace, onEdge_others p k _ s⟩

/-! VECTOR_MISSED. -/

/-- The consumer needs a vector of a producer past its start, and has none of this tick (R17, R74). -/
def Owed (p : Producer) (k : Consumer) (b : State) : Prop :=
  b.consumes k = true ∧ owes b p = true ∧ (b.edge p k).fifo.map (·.tick) ≠ some b.now ∧
    b.life? (prodFunc b p) ≠ .off ∧ b.life? (prodFunc b p) ≠ .stopped ∧ b.life? (prodFunc b p) ≠ .starting

/-- A miss is noted where one is owed, and nowhere else. -/
theorem missedHere_eq (p : Producer) (k : Consumer) (s : State) :
    (Owed p k s → missedHere p k s = missAt p k s) ∧ (¬ Owed p k s → missedHere p k s = s) := by
  have hcond : ∀ here : Bool, (here = true ↔ (s.edge p k).fifo.map (·.tick) = some s.now) →
      ((s.consumes k && owes s p && !here && !(s.life? (prodFunc s p) == .off || s.life? (prodFunc s p) == .stopped ||
        s.life? (prodFunc s p) == .starting)) = true ↔ Owed p k s) := by
    intro here hh
    simp only [Bool.and_eq_true, Bool.not_eq_true', Bool.or_eq_false_iff, beq_eq_false_iff_ne, Owed, ← Bool.not_eq_true here, hh, and_assoc, ne_eq]
  unfold missedHere
  cases hf : (s.edge p k).fifo with
  | none =>
    have h := hcond false (by simp [hf])
    exact ⟨fun ho => if_pos (h.2 ho), fun hn => if_neg (mt h.1 hn)⟩
  | some v =>
    have h := hcond (v.tick == s.now) (by simp [hf])
    exact ⟨fun ho => if_pos (h.2 ho), fun hn => if_neg (mt h.1 hn)⟩

theorem missedHere_owed (h : Owed p k s) : missedHere p k s = missAt p k s := (missedHere_eq p k s).1 h

theorem missedHere_none (h : ¬ Owed p k s) : missedHere p k s = s := (missedHere_eq p k s).2 h

theorem missAt_seen (h : (s.edge p k).seen = some s.now) : missAt p k s = s := if_pos h

/-- The edge of a miss, as counted or not. -/
def missEdge (p : Producer) (k : Consumer) (counted : Bool) (s : State) : State := s.onEdge p k (Edge.miss s.now (s.fadeTime (consFunc k)) counted)

/-- What a counted miss leaves beside the edge. -/
def missNoted (p : Producer) (k : Consumer) (s1 : State) : State :=
  match p, k with
  | .path, _ => lateVector (errEvent s1.path.active (s1.bumpPath s1.path.active 9))
  | .lovage, .sc n => s1.bump (0x10 + n.val) 3
  | _, _ => s1

theorem missNoted_touch (p : Producer) (k : Consumer) (s : State) : Touch [.path, .cnt] s (missNoted p k s) := by
  unfold missNoted
  split
  · exact (lateVector_touch _).after ((errEvent_touch _ _).after ((State.bumpPath_touch ..).after (Touch.refl _ s) rfl) rfl) rfl
  · exact (State.bump_touch ..).after (Touch.refl _ s) rfl
  · exact Touch.refl _ s

theorem missAt_eq (h : (s.edge p k).seen ≠ some s.now) (h3 : s.life? (prodFunc s p) ≠ .starting) : missAt p k s =
    if !(s.life? (prodFunc s p)).busy then missEdge p k (s.life? (prodFunc s p)).busy s
    else if (s.edge p k).inMiss || decide ((s.edge p k).onTime < 2) then missNoted p k (missEdge p k (s.life? (prodFunc s p)).busy s)
    else ((missNoted p k (missEdge p k (s.life? (prodFunc s p)).busy s)).logEntry 0x02 (prodFunc s p).id 0 (missData p k)).raise 12 := by
  have hcounted : ((s.life? (prodFunc s p)).busy && s.life? (prodFunc s p) != .starting) = (s.life? (prodFunc s p)).busy := by
    rw [bne_iff_ne.2 h3, Bool.and_true]
  unfold missAt
  dsimp only
  rw [if_neg h, hcounted]
  rfl

theorem fade_tick_up (f : Fade) : f.tick.up = f.up := by
  unfold Fade.tick
  split <;> rfl

theorem miss_spec (now : DWord) (fade : Nat) (counted : Bool) {e : Edge} (h : e.seen ≠ some now) :
    (Edge.miss now fade counted e).inMiss = true ∧ (Edge.miss now fade counted e).seen = some now ∧ (Edge.miss now fade counted e).onTime = 0 ∧
      (Edge.miss now fade counted e).missed = e.missed + b2n counted ∧ (Edge.miss now fade counted e).fade.up = false ∧
      (Edge.miss now fade counted e).last = e.last := by
  unfold Edge.miss
  rw [if_neg h]
  refine ⟨rfl, rfl, rfl, rfl, ?_, rfl⟩
  dsimp only
  split
  next hdown =>
    rw [fade_tick_up]
    simp only [Bool.and_eq_true, Bool.not_eq_true'] at hdown
    exact hdown.2
  · exact fade_go_down ..

theorem missEdge_spec (counted : Bool) (h : (s.edge p k).seen ≠ some s.now) :
    let t := missEdge p k counted s
    OtherEdges p k s t ∧ (t.edge p k).inMiss = true ∧ (t.edge p k).seen = some s.now ∧ (t.edge p k).onTime = 0 ∧
      (t.edge p k).missed = (s.edge p k).missed + b2n counted ∧ (t.edge p k).fade.up = false ∧ (t.edge p k).last = (s.edge p k).last := by
  intro t
  have he : t.edge p k = Edge.miss s.now (s.fadeTime (consFunc k)) counted (s.edge p k) := edge_onEdge ..
  rw [he]
  exact ⟨onEdge_others p k _ s, miss_spec _ _ _ h⟩

/-- What the clauses on a missed vector say, carried to a state with the same edges. -/
theorem missed_spec (howed : Owed p k s) (h : (s.edge p k).seen ≠ some s.now) :
    Only [.pages, .path, .log, .cnt, .edges] s (missedHere p k s) ∧ OtherEdges p k s (missedHere p k s) ∧
    ((missedHere p k s).edge p k).inMiss = true ∧ ((missedHere p k s).edge p k).seen = some s.now ∧ ((missedHere p k s).edge p k).onTime = 0 ∧
    ((missedHere p k s).edge p k).missed = (s.edge p k).missed + b2n (s.life? (prodFunc s p)).busy ∧
    ((missedHere p k s).edge p k).fade.up = false ∧ ((missedHere p k s).edge p k).last = (s.edge p k).last ∧
    ((s.life? (prodFunc s p)).busy = true → (s.edge p k).inMiss = false → 2 ≤ (s.edge p k).onTime →
      (missedHere p k s).host.hostPage.event.getLsbD 12 = true) ∧
    ((s.life? (prodFunc s p)).busy = false → Only [.edges] s (missedHere p k s)) := by
  have htouch := missedHere_touch p k s
  obtain ⟨hothers, hspec⟩ := missEdge_spec (s.life? (prodFunc s p)).busy h
  have hedges : (missedHere p k s).edges = (missEdge p k (s.life? (prodFunc s p)).busy s).edges := by
    rw [missedHere_owed howed, missAt_eq h howed.2.2.2.2.2]
    split
    · rfl
    split
    · exact (missNoted_touch ..).edges_eq
    · exact ((State.raise_touch ..).edges_eq).trans ((State.logEntry_touch ..).edges_eq.trans (missNoted_touch ..).edges_eq)
  have hedge : ∀ q j, (missedHere p k s).edge q j = (missEdge p k (s.life? (prodFunc s p)).busy s).edge q j := by
    intro q j
    rw [State.edge, State.edge, hedges]
  obtain ⟨hin, hseen, hon, hmissed, hup, hlast⟩ := hspec
  rw [hedge p k]
  refine ⟨htouch.frame, fun q j hqj => (hedge q j).trans (hothers q j hqj), hin, hseen, hon, hmissed, hup, hlast, fun hb hi h2 => ?_, fun hb => ?_⟩
  · rw [missedHere_owed howed, missAt_eq h howed.2.2.2.2.2, if_neg (by simp [hb]), if_neg (by simp [hi]; omega)]
    exact eventSet_raise_self (by decide) _
  · rw [missedHere_owed howed, missAt_eq h howed.2.2.2.2.2, if_pos (by simp [hb])]
    exact (State.onEdge_touch ..).frame

theorem missedHere_touch_queue (b : State) : (missedHere p k b).pending = b.pending := (missedHere_touch p k b).queue

theorem vectorMissed_none (b : State) (h : ¬ Owed p k b ∨ (b.edge p k).seen = some b.now) : missedHere p k b = b := by
  by_cases ho : Owed p k b
  · rw [missedHere_owed ho, missAt_seen (h.resolve_left (not_not_intro ho))]
  · exact missedHere_none ho

/-! FADE_COMPLETE. -/

theorem fadeComplete_does (he : edgeExists p k = true) {f : Fade} (hf : (s.edge p k).fade.finish = f) :
    Does (.fadeComplete p k) s [.edges] fun t => t.edge p k = { s.edge p k with fade := f } ∧ OtherEdges p k s t := by
  have hexec := exec_fadeComplete p k s
  rw [execFadeComplete, if_pos he] at hexec
  refine (State.onEdge_touch ..).does hexec ⟨?_, onEdge_others p k _ s⟩
  rw [edge_onEdge, hf]

end

/-- Settles O47: a hand-over by `Edge.place`, a miss by `Edge.miss` and what it notes, a fade by its end. -/
theorem vectorEvents : Obligations.VectorEvents := by
  unfold Obligations.VectorEvents
  intro s p k
  refine ⟨fun he => ⟨fun v hv => ⟨fun h => ?_, fun hs hp hb => ⟨fun h => ?_, fun h hf => ?_, fun h hf => ?_⟩⟩, fun hv => ?_, ?_, fun hu hpos => ?_, fun hu hpos => ?_⟩,
    fun he => ⟨?_, ?_, ?_⟩⟩
  · rw [exec_vectorHandoff_eq he, handOver_refused hv h]
  · exact vectorHandoff_does he hv hs hp hb (place_passed h)
  · exact vectorHandoff_does he hv hs hp hb (place_empty h hf)
  · exact vectorHandoff_does he hv hs hp hb (place_full h hf hp)
  · rw [exec_vectorHandoff_eq he, handOver_none hv]
  · have hexec : exec (.vectorMissed p k) s = .next (boundaryDo (consIsland k) (missedHere p k) s) := by
      rw [exec_vectorMissed, execVectorMissed, if_pos he]
    exact doesAt_boundaryDo hexec missedHere_touch_queue fun b => ⟨fun howed h => missed_spec howed h, vectorMissed_none b⟩
  · exact fadeComplete_does he (by rw [Fade.finish, if_neg (by rw [hu]; decide), if_pos hpos])
  · exact fadeComplete_does he (by rw [Fade.finish, if_pos hu, if_pos hpos])
  · rw [exec_vectorHandoff, execVectorHandoff, if_neg (by rw [he]; decide)]
  · rw [exec_vectorMissed, execVectorMissed, if_neg (by rw [he]; decide)]
  · rw [exec_fadeComplete, execFadeComplete, if_neg (by rw [he]; decide)]

end Sys2Proof.Machine
end

section
/-! PROOFS. The crossbar: requests, grants and answers (R416-R418, R420, R431, R434). -/

namespace Sys2Proof.Machine

open Sys2Proof

set_option Elab.async false

/-! Lists. -/

/-- The first element that `p` selects is changed, where there is one. -/
theorem grantFirst_eq (t : Fin 10) (f : Txn → Txn) (l : List Txn) {x : Txn}
    (hx : (l.dropWhile fun y => !(y.target == t && !y.granted)).head? = some x) : grantFirst t f l =
    (l.takeWhile fun y => !(y.target == t && !y.granted)) ++ f x :: (l.dropWhile fun y => !(y.target == t && !y.granted)).tail := by
  induction l with
  | nil => simp at hx
  | cons a l ih =>
    rw [List.dropWhile_cons] at hx ⊢
    rw [List.takeWhile_cons, grantFirst]
    cases hp : (a.target == t && !a.granted)
    · rw [hp] at hx
      exact congrArg (a :: ·) (ih hx)
    · rw [hp] at hx
      obtain rfl : a = x := by simpa using hx
      rfl

theorem dropFirst_eq (id : BitVec 6) (l : List Txn) :
    dropFirst id l = (l.takeWhile fun y => y.id != id) ++ (l.dropWhile fun y => y.id != id).tail := by
  induction l with
  | nil => rfl
  | cons a l ih =>
    rw [List.dropWhile_cons, List.takeWhile_cons, dropFirst]
    by_cases ha : a.id = id
    · simp [ha]
    · simp [ha, ih]

/-! What becomes outstanding (R417). -/

/-- The requests of a master in their order: those outstanding, then those that wait. -/
def State.lane (s : State) (m : Fin 13) : List XbarReq := (s.txnsOf m).map (·.req) ++ s.memc.queued[m]

section
variable {m j : Fin 13} {s : State}

theorem intake_idle {k : Nat} (h : s.memc.queued[m] = []) : intake m k s = s := by
  cases k with
  | zero => rfl
  | succ k => rw [intake, h]

/-- One waiting request becomes outstanding. -/
def letIn (m : Fin 13) (r : XbarReq) (rest : List XbarReq) (t : Fin 10) (s : State) : State :=
  s.onMemc fun c =>
    let l := c.txns[m] ++ [{ id := r.id, req := r, target := t }]
    { c with queued := vmod c.queued m fun _ => rest, txns := vmod c.txns m fun _ => l, peak := vmod c.peak m fun p => max p l.length }

theorem txnsOf_letIn (m : Fin 13) (r : XbarReq) (rest : List XbarReq) (t : Fin 10) (s : State) :
    (letIn m r rest t s).txnsOf m = s.txnsOf m ++ [{ id := r.id, req := r, target := t }] := vmod_get_self ..

theorem queued_letIn (m : Fin 13) (r : XbarReq) (rest : List XbarReq) (t : Fin 10) (s : State) :
    (letIn m r rest t s).memc.queued[m] = rest := vmod_get_self ..

theorem letIn_others (h : j ≠ m) (r : XbarReq) (rest : List XbarReq) (t : Fin 10) (s : State) :
    (letIn m r rest t s).txnsOf j = s.txnsOf j ∧ (letIn m r rest t s).memc.queued[j] = s.memc.queued[j] :=
  ⟨vmod_get_ne _ _ h, vmod_get_ne _ _ h⟩

theorem lane_letIn {r : XbarReq} {rest : List XbarReq} (t : Fin 10) (h : s.memc.queued[m] = r :: rest) :
    (letIn m r rest t s).lane m = s.lane m := by
  rw [State.lane, State.lane, txnsOf_letIn, queued_letIn, h]
  simp

/-- What becoming outstanding leaves of the crossbar. -/
structure IntakeKeeps (m : Fin 13) (s t : State) : Prop where
  lane : t.lane m = s.lane m
  others : ∀ j, j ≠ m → t.txnsOf j = s.txnsOf j ∧ t.memc.queued[j] = s.memc.queued[j]
  memc : t.memc = { s.memc with queued := t.memc.queued, txns := t.memc.txns, peak := t.memc.peak }

theorem IntakeKeeps.refl (m : Fin 13) (s : State) : IntakeKeeps m s s := ⟨rfl, fun _ _ => ⟨rfl, rfl⟩, rfl⟩

theorem IntakeKeeps.trans {a b c : State} (h : IntakeKeeps m a b) (k : IntakeKeeps m b c) : IntakeKeeps m a c where
  lane := k.lane.trans h.lane
  others j hj := ⟨(k.others j hj).1.trans (h.others j hj).1, (k.others j hj).2.trans (h.others j hj).2⟩
  memc := by rw [k.memc, h.memc]

theorem intake_keeps (m : Fin 13) (k : Nat) (s : State) : IntakeKeeps m s (intake m k s) := by
  induction k generalizing s with
  | zero => exact .refl m s
  | succ k ih =>
    rw [intake]
    cases hq : s.memc.queued[m] with
    | nil => exact .refl m s
    | cons r rest =>
      dsimp only
      cases ht : reqTarget r with
      | none => exact .refl m s
      | some t =>
        dsimp only
        split
        · exact .refl m s
        · exact IntakeKeeps.trans ⟨lane_letIn t hq, fun j hj => letIn_others hj r rest t s, rfl⟩ (ih (letIn m r rest t s))

/-- The one waiting request that finds room. -/
theorem intake_one {k : Nat} {r : XbarReq} {t : Fin 10} (hq : s.memc.queued[m] = [r]) (ht : reqTarget r = some t)
    (hroom : (s.txnsOf m).length < 32) (hheld : s.held m r = false) : intake m (k + 1) s = letIn m r [] t s := by
  rw [intake, hq]
  dsimp only
  rw [ht]
  dsimp only
  rw [if_neg (by simp [hheld]; omega)]
  exact intake_idle (queued_letIn m r [] t s)

theorem intake_waits {k : Nat} {r : XbarReq} {rest : List XbarReq} (hq : s.memc.queued[m] = r :: rest)
    (h : 32 ≤ (s.txnsOf m).length ∨ s.held m r = true) : intake m (k + 1) s = s := by
  rw [intake, hq]
  dsimp only
  split
  · rfl
  · exact if_pos (by simpa using h)

end

/-! XBAR_REQUEST. -/

section
variable {m : Fin 13} {r : XbarReq} {s : State} {g : Fin 10}

/-- A request joins those that wait. -/
def enqueued (m : Fin 13) (r : XbarReq) (s : State) : State := s.onMemc fun c => { c with queued := vmod c.queued m fun l => l ++ [r] }

theorem queued_enqueued (m : Fin 13) (r : XbarReq) (s : State) : (enqueued m r s).memc.queued[m] = s.memc.queued[m] ++ [r] := vmod_get_self ..

theorem enqueued_others {j : Fin 13} (h : j ≠ m) : (enqueued m r s).memc.queued[j] = s.memc.queued[j] := vmod_get_ne _ _ h

theorem exec_request_open (hg : reqTarget r = some g) (hr : reaches m g = true) (hb : burstOk r g = true) :
    exec (.xbarRequest m r) s = .next (intake m 33 (enqueued m r s)) := by
  rw [exec_xbarRequest, execXbarRequest, request, hg]
  dsimp only
  rw [if_neg (by rw [hr]; decide), if_neg (by rw [hb]; decide)]
  rfl

theorem enqueued_touch (m : Fin 13) (r : XbarReq) (s : State) : Touch [.memc] s (enqueued m r s) := (Touch.refl _ s).onMemc rfl

theorem request_open_does (hg : reqTarget r = some g) (hr : reaches m g = true) (hb : burstOk r g = true) :
    Does (.xbarRequest m r) s [.memc] fun t => t.memc.lastResp = s.memc.lastResp ∧ t.memc.errCount = s.memc.errCount ∧
      (t.txnsOf m).map (·.req) ++ t.memc.queued[m] = (s.txnsOf m).map (·.req) ++ s.memc.queued[m] ++ [r] ∧
      ∀ k : Fin 13, k ≠ m → t.txnsOf k = s.txnsOf k ∧ t.memc.queued[k] = s.memc.queued[k] := by
  have hkeep := intake_keeps m 33 (enqueued m r s)
  refine ((intake_touch ..).after (enqueued_touch m r s) rfl).does (exec_request_open hg hr hb) ⟨?_, ?_, ?_, fun k hk => ?_⟩
  · exact (congrArg MemSt.lastResp hkeep.memc).trans rfl
  · exact (congrArg MemSt.errCount hkeep.memc).trans rfl
  · refine hkeep.lane.trans ?_
    rw [State.lane, queued_enqueued, List.append_assoc]
    rfl
  · obtain ⟨ht, hq⟩ := hkeep.others k hk
    exact ⟨ht, hq.trans (enqueued_others hk)⟩

theorem request_letIn_does (hg : reqTarget r = some g) (hr : reaches m g = true) (hb : burstOk r g = true)
    (hroom : (s.txnsOf m).length < 32) (hq : s.memc.queued[m] = []) (hheld : s.held m r = false) :
    Does (.xbarRequest m r) s [.memc] fun t => t.txnsOf m = s.txnsOf m ++ [{ id := r.id, req := r, target := g }] ∧
      t.memc.queued[m] = [] ∧ t.memc.peak[m] = max s.memc.peak[m] ((s.txnsOf m).length + 1) := by
  have hone : intake m 33 (enqueued m r s) = letIn m r [] g (enqueued m r s) :=
    intake_one (by rw [queued_enqueued, hq]; rfl) hg hroom hheld
  have hexec := exec_request_open (s := s) hg hr hb
  rw [hone] at hexec
  have htouch : Touch [.memc] s (letIn m r [] g (enqueued m r s)) := (enqueued_touch m r s).onMemc rfl
  refine htouch.does hexec
    ⟨txnsOf_letIn .., queued_letIn .., ?_⟩
  refine (vmod_get_self ..).trans ?_
  rw [List.length_append]
  rfl

theorem request_waits_does (hg : reqTarget r = some g) (hr : reaches m g = true) (hb : burstOk r g = true)
    (h : 32 ≤ (s.txnsOf m).length ∨ (s.memc.queued[m] = [] ∧ s.held m r = true)) :
    Does (.xbarRequest m r) s [.memc] fun t => t.txnsOf m = s.txnsOf m ∧ t.memc.queued[m] = s.memc.queued[m] ++ [r] ∧
      t.memc = { s.memc with queued := t.memc.queued } := by
  have hwait : intake m 33 (enqueued m r s) = enqueued m r s := by
    cases hq : s.memc.queued[m] with
    | nil => exact intake_waits (by rw [queued_enqueued, hq]; rfl) (h.imp_right And.right)
    | cons a l =>
      refine intake_waits (r := a) (rest := l ++ [r]) (by rw [queued_enqueued, hq]; rfl) (Or.inl (h.resolve_right fun hn => ?_))
      rw [hq] at hn
      exact absurd hn.1 (List.cons_ne_nil a l)
  have hexec := exec_request_open (s := s) hg hr hb
  rw [hwait] at hexec
  exact (enqueued_touch m r s).does hexec ⟨rfl, queued_enqueued .., rfl⟩

theorem request_nowhere (h : reqTarget r = none) : exec (.xbarRequest m r) s =
    .next { s with memc := { s.memc with errCount := satInc s.memc.errCount, lastResp := some (m, r.id, 0x07, []) } } := by
  rw [exec_xbarRequest, execXbarRequest, request, h]
  rfl

theorem request_unreached (hg : reqTarget r = some g) (h : reaches m g = false) : exec (.xbarRequest m r) s =
    .next { s with memc := { s.memc with errCount := satInc s.memc.errCount, lastResp := some (m, r.id, 0x07, []) } } := by
  rw [exec_xbarRequest, execXbarRequest, request, hg]
  dsimp only
  rw [if_pos (by rw [h]; rfl)]
  rfl

theorem request_noBurst (hg : reqTarget r = some g) (hr : reaches m g = true) (h : burstOk r g = false) :
    exec (.xbarRequest m r) s = .next s := by
  rw [exec_xbarRequest, execXbarRequest, request, hg]
  dsimp only
  rw [if_neg (by rw [hr]; decide), if_pos (by rw [h]; rfl)]

end

/-! The master that is granted (R418). -/

section
variable {g : Fin 10} {s : State}

/-- The best priority among the waiting masters of a list, plus one; 0 where none waits. -/
theorem foldl_top (g : Fin 10) (s : State) (l : List (Fin 13)) (b : Nat) :
    let top := l.foldl (fun b m => if s.waits g m then max b (s.xbarPrio m g + 1) else b) b
    b ≤ top ∧ ∀ k ∈ l, s.waits g k = true → s.xbarPrio k g + 1 ≤ top := by
  induction l generalizing b with
  | nil => exact ⟨le_refl b, by simp⟩
  | cons a l ih =>
    obtain ⟨hle, hall⟩ := ih (if s.waits g a then max b (s.xbarPrio a g + 1) else b)
    refine ⟨le_trans ?_ hle, fun k hk hw => ?_⟩
    · split
      · exact le_max_left ..
      · exact le_refl b
    · obtain rfl | hk := List.mem_cons.1 hk
      · refine le_trans ?_ hle
        rw [if_pos hw]
        exact le_max_right ..
      · exact hall k hk hw

theorem grantee_spec {m : Fin 13} (h : s.grantee g = some m) :
    s.waits g m = true ∧ ∀ k, s.waits g k = true → s.xbarPrio k g ≤ s.xbarPrio m g := by
  unfold State.grantee at h
  extract_lets top at h
  split at h
  · exact absurd h (by simp)
  · have hp := List.find?_some h
    simp only [Bool.and_eq_true, beq_iff_eq] at hp
    obtain ⟨hw, htop⟩ := hp
    refine ⟨hw, fun k hk => ?_⟩
    have hle := (foldl_top g s (List.finRange 13) 0).2 k (List.mem_finRange k) hk
    have htop' : s.xbarPrio m g + 1 = (List.finRange 13).foldl (fun b m => if s.waits g m then max b (s.xbarPrio m g + 1) else b) 0 := htop
    omega

end

end Sys2Proof.Machine
end

section
/-! PROOFS. Bursts served and answered (R416-R418, R420, R425-R431, R434). -/

namespace Sys2Proof.Machine

open Sys2Proof

set_option Elab.async false

/-! What serving a burst leaves of the transactions. -/

section
variable {m : Fin 13} {s : State} {r : XbarReq} {g : Fin 10}

theorem txns_noteError (kind master rank addr : Nat) (s : State) : (noteError kind master rank addr s).memc.txns = s.memc.txns := rfl

theorem txns_retireRank (q : Fin 4) (addr : Nat) (s : State) : (retireRank q addr s).memc.txns = s.memc.txns := by
  unfold retireRank
  dsimp only
  split
  · split
    · rfl
    · split <;> rfl
  · split
    · rfl
    · split
      · exact (congrArg MemSt.txns ((State.raise_touch ..).memc_eq.trans (logDram_touch ..).memc_eq)).trans rfl
      · rfl

theorem txns_corrected (q : Fin 4) (addr master : Nat) (s : State) : (corrected q addr master s).memc.txns = s.memc.txns := by
  unfold corrected
  dsimp only
  split
  · exact (txns_retireRank ..).trans ((congrArg MemSt.txns (logDram_touch ..).memc_eq).trans rfl)
  · rfl

theorem txns_uncorrectable (q : Fin 4) (addr master : Nat) (s : State) : (uncorrectable q addr master s).memc.txns = s.memc.txns :=
  (txns_retireRank ..).trans ((congrArg MemSt.txns (logDram_touch ..).memc_eq).trans rfl)

theorem txns_activate (q : Fin 4) (bank row m : Nat) (s : State) : (activate q bank row m s).memc.txns = s.memc.txns := by
  unfold activate
  extract_lets bk key n acts s1 s2
  have h2 : s2.memc.txns = s.memc.txns := by
    unfold s2
    split <;> rfl
  split
  · exact (congrArg MemSt.txns (logDram_touch ..).memc_eq).trans h2
  · exact h2

theorem txns_dramTouch (m : Fin 13) (r : XbarReq) (s : State) : (dramTouch m r s).memc.txns = s.memc.txns := by
  unfold dramTouch
  extract_lets a rank bank s0 s1 s2 s3
  have h0 : s0.memc.txns = s.memc.txns := congrArg MemSt.txns (ageOut_touch s).memc_eq
  have h1 : s1.memc.txns = s.memc.txns := by
    unfold s1
    split <;> exact h0
  have h2 : s2.memc.txns = s.memc.txns := by
    unfold s2
    split
    · exact h1
    · exact (txns_activate ..).trans h1
  have h3 : s3.memc.txns = s.memc.txns := by
    unfold s3
    split
    · exact (txns_corrected ..).trans h2
    · exact (txns_uncorrectable ..).trans h2
    · exact h2
  split
  · exact h3
  · exact h3

/-- The request as its target is touched, before its data. -/
def touched (m : Fin 13) (r : XbarReq) (g : Fin 10) (s : State) : State :=
  if g.val ≤ 1 then dramTouch m r s
  else if 2 ≤ g.val ∧ g.val ≤ 5 ∧ r.err = .uncorrectable ∧ r.write = none then noteError 2 m.val 0 r.addr.toNat (s.bump 0x0D 1)
  else s

theorem touched_txns (m : Fin 13) (r : XbarReq) (g : Fin 10) (s : State) : (touched m r g s).memc.txns = s.memc.txns := by
  unfold touched
  split
  · exact txns_dramTouch ..
  · split <;> rfl

theorem touched_touch (m : Fin 13) (r : XbarReq) (g : Fin 10) (s : State) : Touch [.pages, .memc, .log, .cnt, .free] s (touched m r g s) :=
  Touch.ite (dramTouch_touch m r s) (Touch.ite ((noteError_touch ..).after ((State.bump_touch ..).after (Touch.refl _ s) rfl) rfl) (Touch.refl _ s))

/-! The five outcomes of a burst. -/

theorem serveReq_read (hw : r.write = none) (hf : s.rankFailed r.addr.toNat = false) (he : r.err ≠ .uncorrectable)
    (hp : s.poisonEnd r.addr.toNat (r.addr.toNat + r.len) = r.addr.toNat + r.len)
    (hread : r.firmware = true ∨ s.readable (2 ^ 63 + r.addr.toNat) r.len = r.len) :
    serveReq m r g s = (touched m r g s, stOk, (touched m r g s).fetch r.addr.toNat r.len) := by
  have hok : (s.rankFailed r.addr.toNat || decide (r.err = .uncorrectable) || s.poisonEnd r.addr.toNat (r.addr.toNat + r.len) != r.addr.toNat + r.len
      || !(r.firmware || s.readable (2 ^ 63 + r.addr.toNat) r.len == r.len)) = false := by
    rw [hf, hp, decide_eq_false he, bne_self_eq_false]
    obtain h | h := hread
    · rw [h]
      rfl
    · rw [h, beq_self_eq_true, Bool.or_true]
      rfl
  unfold serveReq touched
  rw [hw]
  exact if_neg (ne_true_of_eq_false hok)

theorem serveReq_unread (hw : r.write = none) (h : s.rankFailed r.addr.toNat = true ∨ r.err = .uncorrectable ∨
    s.poisonEnd r.addr.toNat (r.addr.toNat + r.len) ≠ r.addr.toNat + r.len ∨
    (r.firmware = false ∧ s.readable (2 ^ 63 + r.addr.toNat) r.len ≠ r.len)) : serveReq m r g s = (touched m r g s, stMemError, []) := by
  have hbad : (s.rankFailed r.addr.toNat || decide (r.err = .uncorrectable) || s.poisonEnd r.addr.toNat (r.addr.toNat + r.len) != r.addr.toNat + r.len
      || !(r.firmware || s.readable (2 ^ 63 + r.addr.toNat) r.len == r.len)) = true := by
    simp only [Bool.or_eq_true, decide_eq_true_eq, bne_iff_ne, Bool.not_eq_true', Bool.or_eq_false_iff, beq_eq_false_iff_ne, or_assoc]
    exact h
  unfold serveReq touched
  rw [hw]
  exact if_pos hbad

theorem serveReq_written {bs : List Byte} (hw : r.write = some bs) (hf : s.rankFailed r.addr.toNat = false)
    (hwrite : r.firmware = true ∨ s.writable (2 ^ 63 + r.addr.toNat) bs.length = bs.length) :
    serveReq m r g s = (if g = 6 then ((touched m r g s).writeAt (BitVec.ofNat 64 (2 ^ 63 + r.addr.toNat)) bs).bumpBy 0x0E 0 (psWords r.addr.toNat bs.length)
      else (touched m r g s).writeAt (BitVec.ofNat 64 (2 ^ 63 + r.addr.toNat)) bs, stOk, []) := by
  have hok : (s.rankFailed r.addr.toNat || !(r.firmware || s.writable (2 ^ 63 + r.addr.toNat) bs.length == bs.length)) = false := by
    rw [hf]
    obtain h | h := hwrite
    · rw [h]
      rfl
    · rw [h, beq_self_eq_true, Bool.or_true]
      rfl
  unfold serveReq touched
  rw [hw]
  exact if_neg (ne_true_of_eq_false hok)

theorem serveReq_unwritten {bs : List Byte} (hw : r.write = some bs) (h : s.rankFailed r.addr.toNat = true ∨
    (r.firmware = false ∧ s.writable (2 ^ 63 + r.addr.toNat) bs.length ≠ bs.length)) :
    serveReq m r g s = (touched m r g s, stMemError, []) := by
  have hbad : (s.rankFailed r.addr.toNat || !(r.firmware || s.writable (2 ^ 63 + r.addr.toNat) bs.length == bs.length)) = true := by
    simp only [Bool.or_eq_true, Bool.not_eq_true', Bool.or_eq_false_iff, beq_eq_false_iff_ne]
    exact h
  unfold serveReq touched
  rw [hw]
  exact if_pos hbad

/-! The data read are those before the access: DRAM lies below the log's slots (R449). -/

theorem fetch_eq {a n : Nat} {t : State} (hmem : t.mem = s.mem) (hlog : t.log = s.log ∨ a + n ≤ logBase) : t.fetch a n = s.fetch a n := by
  unfold State.fetch
  refine List.map_congr_left fun i hi => ?_
  have hi' : i < n := List.mem_range.1 hi
  unfold State.byteAt
  obtain hlog | hlow := hlog
  · rw [hmem, hlog]
  · have hno : ¬(logBase ≤ a + i ∧ a + i < logBase + 262144) := by omega
    rw [if_neg hno, if_neg hno, hmem]

theorem sramPart (p : Nat) : 2 ≤ (if p = 0 then (2 : Fin 10) else if p = 1 then 3 else if p = 2 then 4 else 5).val := by
  split_ifs <;> decide
theorem targetOf_high {a : Nat} (h : ¬ a < 0x0180000000) {t : Fin 10} (ht : targetOf a = some t) : 2 ≤ t.val := by
  unfold targetOf at ht
  rw [if_neg h] at ht
  by_cases h1 : 0x1000000000 ≤ a ∧ a < 0x1001000000
  · rw [if_pos h1] at ht
    have key : ∀ p : Nat, some (if p = 0 then (2 : Fin 10) else if p = 1 then 3 else if p = 2 then 4 else 5) = some t → 2 ≤ t.val :=
      fun p hp => Option.some.inj hp ▸ sramPart p
    exact key ((a - 0x1000000000) / 0x400000) ht
  by_cases h2 : 0x1010000000 ≤ a ∧ a < 0x1010400000
  · rw [if_neg h1, if_pos h2] at ht
    exact Option.some.inj ht ▸ (by decide)
  by_cases h3 : 0x1100000000 ≤ a ∧ a < 0x1101000000
  · rw [if_neg h1, if_neg h2, if_pos h3] at ht
    have key : ∀ o : Nat, (if o < 0x10000 ∨ (0x40000 ≤ o ∧ o < 0x60000) ∨ (0x80000 ≤ o ∧ o < 0xA0000) then some (9 : Fin 10) else none) = some t → 2 ≤ t.val := by
      intro o ho
      split at ho
      · exact Option.some.inj ho ▸ (by decide)
      · exact absurd ho (by simp)
    exact key ((a - 0x1100000000) % 0x100000) ht
  · rw [if_neg h1, if_neg h2, if_neg h3] at ht
    exact absurd ht (by simp)

/-- A request with a target of index 2 or more is not for DRAM. -/
theorem reqTarget_of {t : Fin 10} (h : targetOf r.addr.toNat = some t) (h2 : 2 ≤ t.val) : reqTarget r = some t := by
  unfold reqTarget
  rw [h]
  refine if_neg fun hall => ?_
  rw [hall.1] at h2
  exact absurd h2 (by decide)

theorem dram_low (ht : reqTarget r = some g) (hg : g.val ≤ 1) : r.addr.toNat < 0x0180000000 := by
  cases hto : targetOf r.addr.toNat with
  | none =>
    unfold reqTarget at ht
    rw [hto] at ht
    exact absurd ht (by simp)
  | some t =>
    refine Decidable.byContradiction fun hlow => ?_
    have h2 := targetOf_high hlow hto
    rw [reqTarget_of hto h2] at ht
    obtain rfl := Option.some.inj ht
    exact absurd (Nat.le_trans h2 hg) (by decide)

theorem burst_page {n : Nat} (hw : r.write = none) (hn : r.len = n) (hb : burstOk r g = true) :
    1 ≤ n ∧ r.addr.toNat / 4096 = (r.addr.toNat + n - 1) / 4096 := by
  unfold burstOk at hb
  rw [hw, hn] at hb
  simp only [Bool.and_eq_true, decide_eq_true_eq, beq_iff_eq] at hb
  exact ⟨hb.1.1.1, hb.1.2⟩

theorem touched_fetch (hw : r.write = none) (he : r.err ≠ .uncorrectable) (ht : reqTarget r = some g) (hb : burstOk r g = true) :
    (touched m r g s).fetch r.addr.toNat r.len = s.fetch r.addr.toNat r.len := by
  by_cases hg : g.val ≤ 1
  · refine fetch_eq (touched_touch ..).mem_eq (Or.inr ?_)
    have hlow := dram_low ht hg
    obtain ⟨h1, hpage⟩ := burst_page hw rfl hb
    have : logBase = 0x1010030000 := rfl
    omega
  · unfold touched
    rw [if_neg hg, if_neg fun h => he h.2.2.1]

/-! BURST_GRANT. -/

/-- A burst of master `m`, granted and answered. -/
def answered (m : Fin 13) (g : Fin 10) (a : Byte × List Byte) (prio : Nat) (t : State) : State :=
  (t.onTxns m (grantFirst g fun x => { x with granted := true, answer := some a })).onMemc fun c =>
    { c with granted := c.granted.put (16 * g.val + prio) m.val }

theorem answered_touch {ps : List Part} {m : Fin 13} {g : Fin 10} {a : Byte × List Byte} {prio : Nat} {t : State} (h : Touch ps s t)
    (hp : subParts [.memc] ps = true) : Touch ps s (answered m g a prio t) :=
  Touch.onMemc ((State.onTxns_touch ..).after h hp) hp

theorem grant_eq {x : Txn} (hg : s.grantee g = some m) (hx : ((s.txnsOf m).dropWhile fun y => !(y.target == g && !y.granted)).head? = some x) :
    grant g s = if (x.abandoned && x.req.write.isSome) = true then answered m g (stOk, []) (s.xbarPrio m g) s
      else answered m g (serveReq m x.req g s).2 (s.xbarPrio m g) (serveReq m x.req g s).1 := by
  have hfind : (s.txnsOf m).find? (fun x => x.target == g && !x.granted) = some x := by
    rw [List.find?_eq_head?_dropWhile_not]
    exact hx
  unfold grant
  rw [hg]
  dsimp only
  rw [hfind]
  dsimp only
  split <;> rfl

/-- What is served, told by the transactions. -/
theorem answered_spec {x : Txn} {a : Byte × List Byte} {prio : Nat} {t : State} (htx : t.memc.txns = s.memc.txns)
    (hx : ((s.txnsOf m).dropWhile fun y => !(y.target == g && !y.granted)).head? = some x) :
    (answered m g a prio t).txnsOf m = ((s.txnsOf m).takeWhile fun y => !(y.target == g && !y.granted)) ++
        { x with granted := true, answer := some a } :: ((s.txnsOf m).dropWhile fun y => !(y.target == g && !y.granted)).tail ∧
      ∀ k : Fin 13, k ≠ m → (answered m g a prio t).txnsOf k = s.txnsOf k := by
  have hself : (answered m g a prio t).txnsOf m = grantFirst g (fun x => { x with granted := true, answer := some a }) (t.txnsOf m) := vmod_get_self ..
  have hof : ∀ k, t.txnsOf k = s.txnsOf k := fun k => by rw [State.txnsOf, State.txnsOf, htx]
  refine ⟨?_, fun k hk => ?_⟩
  · rw [hself, hof, grantFirst_eq _ _ _ hx]
  · exact (vmod_get_ne _ _ hk).trans (hof k)

/-- A burst that is served with answer `a` in state `u`. -/
theorem grant_does {ps : List Part} {x : Txn}
    (hx : ((s.txnsOf m).dropWhile fun y => !(y.target == g && !y.granted)).head? = some x) {a : Byte × List Byte} {u : State}
    (hgrant : grant g s = answered m g a (s.xbarPrio m g) u) (hu : Touch ps s u) (hp : subParts [.memc] ps = true) (htx : u.memc.txns = s.memc.txns)
    {Q : State → Prop} (hQ : Q (answered m g a (s.xbarPrio m g) u)) : Does (.burstGrant g) s ps fun t =>
      (t.txnsOf m = ((s.txnsOf m).takeWhile fun y => !(y.target == g && !y.granted)) ++
        { x with granted := true, answer := some a } :: ((s.txnsOf m).dropWhile fun y => !(y.target == g && !y.granted)).tail ∧
      ∀ k : Fin 13, k ≠ m → t.txnsOf k = s.txnsOf k) ∧ Q t := by
  have hexec := exec_burstGrant g s
  rw [execBurstGrant, hgrant] at hexec
  exact (answered_touch hu hp).does hexec ⟨answered_spec htx hx, hQ⟩

end

end Sys2Proof.Machine
end

section
/-! PROOFS. Grants and answers of the crossbar as commands, O44 (R416-R420). -/

namespace Sys2Proof.Machine

open Sys2Proof

set_option Elab.async false

section
variable {m : Fin 13} {s : State} {g : Fin 10} {x : Txn}

/-- The transactions of `m` ahead of the first that waits for target `g`, and those from it on. -/
def aheadOf (g : Fin 10) (l : List Txn) : List Txn := l.takeWhile fun y => !(y.target == g && !y.granted)
def fromWaiting (g : Fin 10) (l : List Txn) : List Txn := l.dropWhile fun y => !(y.target == g && !y.granted)

/-- The burst's transaction is granted with an answer; the other masters' transactions stay. -/
def Served (m : Fin 13) (g : Fin 10) (x : Txn) (s : State) (answer : Byte × List Byte) (t : State) : Prop :=
  t.txnsOf m = aheadOf g (s.txnsOf m) ++ { x with granted := true, answer := some answer } :: (fromWaiting g (s.txnsOf m)).tail ∧
    ∀ k : Fin 13, k ≠ m → t.txnsOf k = s.txnsOf k

section
variable (hg : s.grantee g = some m) (hx : (fromWaiting g (s.txnsOf m)).head? = some x)
include hg hx

theorem grant_served {a : Byte × List Byte} {u : State} (hserve : serveReq m x.req g s = (u, a)) (hw : x.abandoned = false ∨ x.req.write = none) :
    grant g s = answered m g a (s.xbarPrio m g) u := by
  rw [grant_eq hg hx, hserve]
  refine if_neg fun h => ?_
  simp only [Bool.and_eq_true] at h
  obtain ⟨ha, hs⟩ := h
  exact hw.elim (fun h => by simp [h] at ha) fun h => by simp [h] at hs

theorem touched_answers {st : Byte} {data : List Byte} (hserve : serveReq m x.req g s = (touched m x.req g s, st, data))
    (hw : x.abandoned = false ∨ x.req.write = none) :
    Does (.burstGrant g) s [.pages, .memc, .log, .cnt, .free] (Served m g x s (st, data)) := by
  have hd := grant_does (Q := fun _ => True) (s := s) hx (grant_served hg hx hserve hw) (touched_touch m x.req g s) rfl (touched_txns ..) trivial
  exact hd.imp fun t ht => ht.imp_right (.imp_right (.imp_right And.left))

theorem grant_read (hw : x.req.write = none) (ht : reqTarget x.req = some g) (hb : burstOk x.req g = true)
    (hf : s.rankFailed x.req.addr.toNat = false) (he : x.req.err ≠ .uncorrectable)
    (hp : s.poisonEnd x.req.addr.toNat (x.req.addr.toNat + x.req.len) = x.req.addr.toNat + x.req.len)
    (hread : x.req.firmware = true ∨ s.readable (2 ^ 63 + x.req.addr.toNat) x.req.len = x.req.len) :
    Does (.burstGrant g) s [.pages, .memc, .log, .cnt, .free] (Served m g x s (0x00, s.fetch x.req.addr.toNat x.req.len)) := by
  have hserve := serveReq_read (m := m) (g := g) hw hf he hp hread
  rw [touched_fetch hw he ht hb] at hserve
  exact touched_answers hg hx hserve (Or.inr hw)

theorem grant_abandoned {bs : List Byte} (hw : x.req.write = some bs) (ha : x.abandoned = true) :
    Does (.burstGrant g) s [.memc] (Served m g x s (0x00, [])) := by
  have hgrant : grant g s = answered m g (stOk, []) (s.xbarPrio m g) s := by
    rw [grant_eq hg hx, if_pos (by rw [ha, hw]; rfl)]
  have hd := grant_does (Q := fun _ => True) hx hgrant (Touch.refl [.memc] s) rfl rfl trivial
  exact hd.imp fun t ht => ht.imp_right (.imp_right (.imp_right And.left))

theorem grant_written {bs : List Byte} (hw : x.req.write = some bs) (ha : x.abandoned = false) (hf : s.rankFailed x.req.addr.toNat = false)
    (hwrite : x.req.firmware = true ∨ s.writable (2 ^ 63 + x.req.addr.toNat) bs.length = bs.length) :
    Does (.burstGrant g) s [.pages, .memc, .mem, .log, .cnt, .free] fun t =>
      Served m g x s (0x00, []) t ∧ t.mem = memPutList s.mem x.req.addr.toNat bs := by
  have hserve := serveReq_written (m := m) (g := g) hw hf hwrite
  have htouch : Touch [.pages, .memc, .mem, .log, .cnt, .free] s (touched m x.req g s) := (touched_touch m x.req g s).after (Touch.refl _ s) rfl
  rw [writeAt_module x.req.addr.isLt] at hserve
  have hput : Touch [.pages, .memc, .mem, .log, .cnt, .free] s
      (((touched m x.req g s).write x.req.addr.toNat bs).unpoison x.req.addr.toNat bs.length) :=
    (State.unpoison_touch ..).after ((State.write_touch ..).after htouch rfl) rfl
  have hmem : (touched m x.req g s).mem = s.mem := (touched_touch ..).mem_eq
  have htx : (touched m x.req g s).memc.txns = s.memc.txns := touched_txns ..
  refine grant_does (a := (0x00, [])) hx (grant_served hg hx hserve (Or.inl ha)) ?_ rfl ?_ ?_
  · exact Touch.ite ((State.bumpBy_touch ..).after hput rfl) hput
  · split
    · exact htx
    · exact htx
  · have hkeep : ∀ u : State, (answered m g (0x00, []) (s.xbarPrio m g) u).mem = u.mem := fun u => rfl
    rw [hkeep]
    split
    · exact congrArg (fun c => memPutList c x.req.addr.toNat bs) hmem
    · exact congrArg (fun c => memPutList c x.req.addr.toNat bs) hmem

end

/-! TRANSACTION_RESPONSE. -/

section
variable {id : BitVec 6}

theorem respondTxn_none (h : ((s.txnsOf m).dropWhile fun y => y.id != id) = []) : respondTxn m id s = s := by
  have hfind : (s.txnsOf m).find? (fun x => x.id == id) = none := by
    rw [List.find?_eq_head?_dropWhile_not]
    exact congrArg List.head? h
  unfold respondTxn
  rw [hfind]

theorem find_txn (h : ((s.txnsOf m).dropWhile fun y => y.id != id).head? = some x) : (s.txnsOf m).find? (fun x => x.id == id) = some x := by
  rw [List.find?_eq_head?_dropWhile_not]
  exact h

theorem respondTxn_waits (h : ((s.txnsOf m).dropWhile fun y => y.id != id).head? = some x) (ha : x.answer = none) :
    respondTxn m id s = s := by
  unfold respondTxn
  rw [find_txn h]
  dsimp only
  rw [ha]

/-- A transaction leaves the crossbar; its answer reaches its source, where nobody has abandoned it. -/
def left (m : Fin 13) (id : BitVec 6) (abandoned : Bool) (e : Byte × List Byte) (s : State) : State :=
  if abandoned then s.onTxns m (dropFirst id) else respond m id e.1 e.2 (s.onTxns m (dropFirst id))

theorem respondTxn_answers (h : ((s.txnsOf m).dropWhile fun y => y.id != id).head? = some x) {e : Byte × List Byte} (ha : x.answer = some e) :
    respondTxn m id s = intake m 33 (left m id x.abandoned e s) := by
  obtain ⟨st, data⟩ := e
  unfold respondTxn
  rw [find_txn h]
  dsimp only
  rw [ha]
  rfl

theorem left_spec (abandoned : Bool) (e : Byte × List Byte) : (left m id abandoned e s).txnsOf m = dropFirst id (s.txnsOf m) ∧
    (∀ k, k ≠ m → (left m id abandoned e s).txnsOf k = s.txnsOf k) ∧ (left m id abandoned e s).memc.queued = s.memc.queued ∧
    (left m id abandoned e s).memc.lastResp = (if abandoned then s.memc.lastResp else some (m, id, e.1, e.2)) := by
  unfold left
  cases abandoned
  · exact ⟨vmod_get_self .., fun k hk => vmod_get_ne _ _ hk, rfl, rfl⟩
  · exact ⟨vmod_get_self .., fun k hk => vmod_get_ne _ _ hk, rfl, rfl⟩

theorem left_touch (abandoned : Bool) (e : Byte × List Byte) : Touch [.memc] s (left m id abandoned e s) :=
  Touch.ite (State.onTxns_touch ..) ((respond_touch ..).after (State.onTxns_touch ..) rfl)

theorem response_does (h : ((s.txnsOf m).dropWhile fun y => y.id != id).head? = some x) {e : Byte × List Byte} (ha : x.answer = some e) :
    Does (.transactionResponse m id) s [.memc] fun t =>
      t.memc.lastResp = (if x.abandoned then s.memc.lastResp else some (m, id, e.1, e.2)) ∧
      (s.memc.queued[m] = [] → t.txnsOf m = ((s.txnsOf m).takeWhile fun y => y.id != id) ++ ((s.txnsOf m).dropWhile fun y => y.id != id).tail) ∧
      (t.txnsOf m).map (·.req) ++ t.memc.queued[m] =
        (((s.txnsOf m).takeWhile fun y => y.id != id) ++ ((s.txnsOf m).dropWhile fun y => y.id != id).tail).map (·.req) ++ s.memc.queued[m] ∧
      ∀ k : Fin 13, k ≠ m → t.txnsOf k = s.txnsOf k ∧ t.memc.queued[k] = s.memc.queued[k] := by
  have hexec := exec_transactionResponse m id s
  rw [execTransactionResponse, respondTxn_answers h ha] at hexec
  obtain ⟨htx, hother, hq, hresp⟩ := left_spec (m := m) (s := s) (id := id) x.abandoned e
  rw [dropFirst_eq] at htx
  have hkeep := intake_keeps m 33 (left m id x.abandoned e s)
  refine ((intake_touch ..).after (left_touch x.abandoned e) rfl).does hexec ⟨?_, fun hnone => ?_, ?_, fun k hk => ?_⟩
  · exact (congrArg MemSt.lastResp hkeep.memc).trans hresp
  · rw [intake_idle (by rw [hq]; exact hnone), htx]
  · refine hkeep.lane.trans ?_
    rw [State.lane, htx, hq]
  · obtain ⟨ht, hqk⟩ := hkeep.others k hk
    exact ⟨ht.trans (hother k hk), hqk.trans (by rw [hq])⟩

end

/-! MASTER_RESET_DRAIN. -/

theorem drain_waits (h : (s.txnsOf m).any (·.abandoned) = true) : exec (.masterResetDrain m) s = .next s := by
  rw [exec_masterResetDrain, execMasterResetDrain, if_pos h]

theorem drain_does (h : (s.txnsOf m).any (·.abandoned) = false) : Does (.masterResetDrain m) s [.memc] fun t =>
    t.memc.draining = s.memc.draining &&& ~~~(BitVec.ofNat 13 (2 ^ m.val)) ∧
    (t.txnsOf m).map (·.req) ++ t.memc.queued[m] = (s.txnsOf m).map (·.req) ++ s.memc.queued[m] ∧
    (s.memc.queued[m] = [] → t.memc = { s.memc with draining := t.memc.draining }) := by
  have hexec := exec_masterResetDrain m s
  rw [execMasterResetDrain, if_neg (by rw [h]; decide)] at hexec
  have hu : Touch [.memc] s (s.onMemc fun c => { c with draining := c.draining &&& ~~~(BitVec.ofNat 13 (2 ^ m.val)) }) := (Touch.refl _ s).onMemc rfl
  have hkeep := intake_keeps m 33 (s.onMemc fun c => { c with draining := c.draining &&& ~~~(BitVec.ofNat 13 (2 ^ m.val)) })
  refine ((intake_touch ..).after hu rfl).does hexec ⟨?_, hkeep.lane, fun hq => ?_⟩
  · exact (congrArg MemSt.draining hkeep.memc).trans rfl
  · have hidle : intake m 33 (s.onMemc fun c => { c with draining := c.draining &&& ~~~(BitVec.ofNat 13 (2 ^ m.val)) }) =
        s.onMemc fun c => { c with draining := c.draining &&& ~~~(BitVec.ofNat 13 (2 ^ m.val)) } := intake_idle hq
    rw [hidle]
    rfl

end

/-- Settles O44: requests by what becomes outstanding, grants by what a burst is served with, answers by what leaves. -/
theorem crossbarCommands : Obligations.CrossbarCommands := by
  unfold Obligations.CrossbarCommands
  intro s m
  refine ⟨fun r => ⟨request_nowhere, fun g hg => ⟨request_unreached hg, request_noBurst hg, fun hr hb => ⟨request_open_does hg hr hb,
    fun hroom hq hheld => request_letIn_does hg hr hb hroom hq hheld, request_waits_does hg hr hb⟩⟩⟩, fun g hg => ?_, fun g hg => grantee_spec hg,
    fun g hg => ?_, fun id => ⟨fun h => ?_, fun x hx => ⟨fun ha => ?_, fun e ha => response_does hx ha⟩⟩, drain_waits, drain_does⟩
  · rw [exec_burstGrant, execBurstGrant, grant, hg]
  · intro before from_ x hx ht hb
    refine ⟨fun hw => ⟨fun hf he hp hread => grant_read hg hx hw ht hb hf he hp hread, fun hbad => ?_⟩, fun bs hw => ⟨grant_abandoned hg hx hw,
      fun ha hf hwrite => grant_written hg hx hw ha hf hwrite, fun ha hbad => ?_⟩⟩
    · exact touched_answers hg hx (serveReq_unread hw hbad) (Or.inr hw)
    · exact touched_answers hg hx (serveReq_unwritten hw hbad) (Or.inl ha)
  · rw [exec_transactionResponse, execTransactionResponse, respondTxn_none h]
  · rw [exec_transactionResponse, execTransactionResponse, respondTxn_waits hx ha]

end Sys2Proof.Machine
end

section
/-! PROOFS. What interrupts a core, O50. -/

namespace Sys2Proof.Machine

open Sys2Proof

set_option Elab.async false

/-! The trap word stays while results land. -/

theorem Core.land_trap (aovTrap : Bool) (f : Flight) (c : Core) : (c.land aovTrap f).trap = c.trap := by
  have hbank (sh : Bool) (g : Bank → Bank) (c : Core) : (c.onBank sh g).trap = c.trap := by cases sh <;> rfl
  have hsel (i : BitVec 6) (sh : Bool) (v : Word) : (c.putSel i sh v).trap = c.trap := by
    unfold Core.putSel
    extract_lets k
    repeat' split
    all_goals first | exact hbank .. | rfl
  have hacc (sh : Bool) (r : Fin 16) (v : AccLanes) : (c.putA sh r v).trap = c.trap := by
    unfold Core.putA
    split
    · exact hbank ..
    · rfl
  unfold Core.land
  split
  · exact hbank ..
  · rfl
  · dsimp only
    split <;> exact hacc ..
  · exact hsel ..
  · rfl
  · rfl

section
variable {n : Fin 16} {s : State}

theorem landOne_trap (f : Flight) (s : State) : ((landOne n f s).core n).trap = (s.core n).trap := by
  unfold landOne
  split
  · rfl
  · rfl
  · rw [State.core_onCore, Core.land_trap]

theorem landOne_others (f : Flight) (s : State) {m : Fin 16} (hm : m ≠ n) : (landOne n f s).core m = s.core m := by
  unfold landOne
  split
  · rfl
  · rfl
  · exact State.core_onCore_ne _ _ hm

theorem landAll_trap (s : State) : ((landAll n s).core n).trap = (s.core n).trap := by
  unfold landAll
  rw [forAll_keeps (fun t => (t.core n).trap) (fun f _ t => landOne_trap f t)]
  rw [State.core_onCore]

theorem landAll_others (s : State) {m : Fin 16} (hm : m ≠ n) : (landAll n s).core m = s.core m := by
  unfold landAll
  rw [forAll_keeps (fun t => t.core m) (fun f _ t => landOne_others f t hm)]
  exact State.core_onCore_ne _ _ hm

/-! A trap that ends in FAULTED (R308). -/

/-- The core halted by a fault. -/
def Core.haltedBy (c : Core) : Core := { c with exec := .halted, waitXf := none, retExec := .waiting, trapHandler := false }

/-- The core as a fatal trap leaves it, before its function faults. -/
def Core.deadTrap (cause : BitVec 4) (now : DWord) (c : Core) : Core := { c with
  trap := BitVec.ofNat 32 (cause.toNat + 2 ^ 16 * c.pc.toNat), trapTick := now, waitXf := none
  flight := c.flight.filter fun f => f.issued != c.cycle
  exec := .halted, retExec := .waiting, trapHandler := false }

theorem trapHere_fatal {cause : BitVec 4} (h : (s.core n).inHandler = true ∨ (s.core n).image.trapEntry = 0xFFFF) :
    trapHere n cause s = faultFunc (.sc n) 0x03
      ((BitVec.ofNat 32 (cause.toNat + 2 ^ 16 * (s.core n).pc.toNat)).zeroExtend 64) (s.onCore n (·.deadTrap cause s.now)) := by
  have hfatal : ((s.core n).inHandler || (s.core n).image.trapEntry == 0xFFFF) = true := by
    rcases h with h | h <;> simp [h]
  have hword : cause.toNat + 16 * b2n (!true) + 2 ^ 16 * (s.core n).pc.toNat = cause.toNat + 2 ^ 16 * (s.core n).pc.toNat := by
    simp [b2n]
  simp only [trapHere, takeTrap, coreTrap, hfatal, if_true, State.onCore_onCore, hword, State.core_onCore]
  exact congrArg (faultFunc (.sc n) 0x03 _) (State.onCore_congr rfl)

theorem faultFunc_core (hbusy : (s.life? (.sc n)).busy = true) (cause : Byte) (data : DWord) :
    faultFunc (.sc n) cause data s = dropRequests (.sc n)
      (enterFaulted (.sc n) cause data ((landAll n s).onCore n (·.haltedBy))) := by
  unfold faultFunc
  simp only [hbusy, Bool.true_or, Bool.not_true, Bool.false_eq_true, if_false]
  rfl

theorem faultFunc_core_touch (hbusy : (s.life? (.sc n)).busy = true) (cause : Byte) (data : DWord) :
    Touch [.funcs, .jobs, .acts, .rings, .pages, .link, .reqs, .cores, .memc, .mem, .log] s (faultFunc (.sc n) cause data s) := by
  rw [faultFunc_core hbusy]
  exact (dropRequests_touch ..).after ((enterFaulted_touch ..).after
    (((landAll_touch ..).after (Touch.refl _ s) rfl).onCore rfl) rfl) rfl

theorem faultFunc_core_cores (hbusy : (s.life? (.sc n)).busy = true) (cause : Byte) (data : DWord) :
    ((faultFunc (.sc n) cause data s).core n).exec = .halted ∧
    ((faultFunc (.sc n) cause data s).core n).trap = (s.core n).trap ∧
    ∀ m, m ≠ n → (faultFunc (.sc n) cause data s).core m = s.core m := by
  have hcore (m : Fin 16) : (faultFunc (.sc n) cause data s).core m = ((landAll n s).onCore n (·.haltedBy)).core m := by
    rw [faultFunc_core hbusy]
    rw [State.core, (dropRequests_touch ..).cores_eq, (enterFaulted_touch ..).cores_eq, State.core]
  refine ⟨?_, ?_, fun m hm => ?_⟩
  · rw [hcore, State.core_onCore]
    rfl
  · rw [hcore, State.core_onCore]
    exact landAll_trap s
  · rw [hcore, State.core_onCore_ne _ _ hm, landAll_others s hm]

theorem faultFunc_core_func_ne (hbusy : (s.life? (.sc n)).busy = true) (cause : Byte) (data : DWord) {f : Func} (hf : f ≠ .sc n) :
    (faultFunc (.sc n) cause data s).func f = s.func f := by
  rw [faultFunc_core hbusy, (dropRequests_touch ..).func_eq, enterFaulted_func_ne hf]
  exact (landAll_touch ..).func_eq f

theorem does_trapHere_fatal {i : Instr} {cause : BitVec 4} (hi : exec i s = .next (trapHere n cause s))
    (hbusy : (s.life? (.sc n)).busy = true) (h : (s.core n).inHandler = true ∨ (s.core n).image.trapEntry = 0xFFFF) :
    Does i s [.funcs, .jobs, .acts, .rings, .pages, .link, .reqs, .cores, .memc, .mem, .log] fun t =>
      t.life? (.sc n) = .faulted ∧ (t.func (.sc n)).cause = 0x03 ∧ (t.core n).exec = .halted ∧
      (t.core n).trap = BitVec.ofNat 32 (cause.toNat + 2 ^ 16 * (s.core n).pc.toNat) ∧ (∀ f : Func, f ≠ .sc n → t.func f = s.func f) ∧
      ∀ m, m ≠ n → t.core m = s.core m := by
  rw [trapHere_fatal h] at hi
  have hbusy' : ((s.onCore n (·.deadTrap cause s.now)).life? (.sc n)).busy = true := hbusy
  obtain ⟨hexec, htrap, hothers⟩ := faultFunc_core_cores hbusy' 0x03
    ((BitVec.ofNat 32 (cause.toNat + 2 ^ 16 * (s.core n).pc.toNat)).zeroExtend 64)
  have hstand := faultFunc_self (f := .sc n) (cause := 0x03) (s := s.onCore n (·.deadTrap cause s.now))
    (by rw [State.faults, hbusy']; rfl) ((BitVec.ofNat 32 (cause.toNat + 2 ^ 16 * (s.core n).pc.toNat)).zeroExtend 64)
  obtain ⟨hlife, hcause⟩ := stand_eq_iff.1 hstand
  refine Touch.does ((faultFunc_core_touch hbusy' ..).after ((Touch.refl _ s).onCore rfl) rfl) hi
    ⟨hlife, hcause, hexec, ?_, fun f hf => (faultFunc_core_func_ne hbusy' _ _ hf).trans rfl, fun m hm => ?_⟩
  · rw [htrap, State.core_onCore]
    rfl
  · rw [hothers m hm, State.core_onCore_ne _ _ hm]


/-! Traps taken at a bundle. -/

theorem issuing_runs (hi : s.issuing n = true) : islandRuns (.sc n) s = true ∧ (s.core n).issuing = true :=
  (Bool.and_eq_true _ _).mp hi

theorem not_issuing (hi : s.issuing n = false) (hr : islandRuns (.sc n) s = true) : (s.core n).issuing = false := by
  rw [State.issuing, hr, Bool.true_and] at hi
  exact hi

theorem execTrapTaken_bundle {cause : BitVec 4} (hc : cause = 2 ∨ cause = 3 ∨ cause = 4 ∨ cause = 7) :
    exec (.trapTaken n cause) s = .next (if s.issuing n = true then trapHere n cause s else s) := by
  have hne : cause ≠ 1 ∧ cause ≠ 5 ∧ cause ≠ 6 := by rcases hc with rfl | rfl | rfl | rfl <;> decide
  rw [exec_trapTaken, execTrapTaken, State.issuing]
  rw [if_neg hne.1, if_neg hne.2.1, if_neg hne.2.2]
  simp only [hc]
  cases islandRuns (.sc n) s <;> cases (s.core n).issuing <;> rfl

theorem trapTaken_bundle {cause : BitVec 4} (hc : cause = 2 ∨ cause = 3 ∨ cause = 4 ∨ cause = 7) :
    (s.issuing n = true → (s.core n).inHandler = false → (s.core n).image.trapEntry ≠ 0xFFFF →
      Does (.trapTaken n cause) s [.cores] fun t => Trapped s t n cause) ∧
    (s.issuing n = true → (s.life? (.sc n)).busy = true → (s.core n).inHandler = true ∨ (s.core n).image.trapEntry = 0xFFFF →
      Does (.trapTaken n cause) s [.funcs, .jobs, .acts, .rings, .pages, .link, .reqs, .cores, .memc, .mem, .log] fun t =>
        t.life? (.sc n) = .faulted ∧ (t.func (.sc n)).cause = 0x03 ∧ (t.core n).exec = .halted ∧
        (t.core n).trap = BitVec.ofNat 32 (cause.toNat + 2 ^ 16 * (s.core n).pc.toNat) ∧ (∀ f : Func, f ≠ .sc n → t.func f = s.func f) ∧
        ∀ m, m ≠ n → t.core m = s.core m) ∧
    (s.issuing n = false → exec (.trapTaken n cause) s = .next s) := by
  have hexec := execTrapTaken_bundle (n := n) (s := s) hc
  refine ⟨fun hi hh ht => ?_, fun hi hb hf => ?_, fun hi => ?_⟩
  · exact does_trapHere (hexec.trans (congrArg _ (if_pos hi))) hh ht
  · exact does_trapHere_fatal (hexec.trans (congrArg _ (if_pos hi))) hb hf
  · exact hexec.trans (congrArg _ (if_neg (by rw [hi]; exact Bool.false_ne_true)))

theorem trapTaken_aov {e : BitVec 12 × Bool} (ha : (s.core n).aovTrap = some e) (hi : s.issuing n = true)
    (hh : (s.core n).inHandler = false) (he : e.2 = false) (ht : (s.core n).image.trapEntry ≠ 0xFFFF) :
    Does (.trapTaken n 1) s [.cores] fun t => (∀ m, m ≠ n → t.core m = s.core m) ∧ (t.core n).exec = .handler ∧
      (t.core n).retPc = (s.core n).pc ∧ (t.core n).retExec = (s.core n).exec ∧ (t.core n).aovTrap = none ∧
      (t.core n).trap = BitVec.ofNat 32 (1 + 16 + 2 ^ 16 * e.1.toNat) := by
  obtain ⟨hr, hiss⟩ := issuing_runs hi
  obtain ⟨pc, own⟩ := e
  obtain rfl : own = false := he
  have hexec : exec (.trapTaken n 1) s = .next (s.onCore n fun c => { c with aovTrap := none }.trapped 1 pc c.pc s.now) := by
    rw [exec_trapTaken, execTrapTaken, ← pendingTraps_aov ht ha hh]
    simp [hr, hiss, ha]
  exact (leaves_of_onCore hexec).does fun t hn ho => by
    rw [hn]
    exact ⟨ho, rfl, rfl, rfl, rfl, rfl⟩

theorem trapTaken_xf (hx : (s.core n).xfTrap = true) (ha : (s.core n).aovTrap = none)
    (he : (s.core n).exec = .task ∨ (s.core n).exec = .init) (hr : islandRuns (.sc n) s = true)
    (ht : (s.core n).image.trapEntry ≠ 0xFFFF) :
    Does (.trapTaken n 5) s [.cores] fun t => (∀ m, m ≠ n → t.core m = s.core m) ∧ (t.core n).exec = .handler ∧
      (t.core n).retPc = (s.core n).pc ∧ (t.core n).retExec = (s.core n).exec ∧ (t.core n).xfTrap = false ∧
      (t.core n).trap = BitVec.ofNat 32 (5 + 16 + 2 ^ 16 * (s.core n).pc.toNat) := by
  have hexec : exec (.trapTaken n 5) s = .next (s.onCore n fun c => { c with xfTrap := false }.trapped 5 c.pc c.pc s.now) := by
    rw [exec_trapTaken, execTrapTaken, ← pendingTraps_xf ht ha hx he]
    simp [hr, hx, ha]
  exact (leaves_of_onCore hexec).does fun t hn ho => by
    rw [hn]
    exact ⟨ho, rfl, rfl, rfl, rfl, rfl⟩

theorem trapTaken_none (ha : (s.core n).aovTrap = none) (hx : (s.core n).xfTrap = false) :
    exec (.trapTaken n 1) s = .next s ∧ exec (.trapTaken n 5) s = .next s := by
  constructor <;> rw [exec_trapTaken, execTrapTaken] <;> simp [ha, hx]

/-! Interrupts, pauses, loop ends and the doorbell (R307, R317, R336). -/

/-- The core in the handler of an interrupt, with nothing of the bundle in hand taking effect. -/
def Core.interrupted (c : Core) : Core := { c with
  exec := .handler, pc := c.image.irqEntry.truncate 12, retPc := c.pc, retExec := c.exec, trapHandler := false
  flight := c.flight.filter fun f => f.issued != c.cycle }

theorem interruptTaken_enters (hr : islandRuns (.sc n) s = true) (he : (s.core n).exec = .task ∨ (s.core n).exec = .init)
    (hp : (s.core n).irqEn &&& (s.core n).irqPend &&& 0x3E ≠ 0) (hi : (s.core n).image.irqEntry ≠ 0xFFFF) :
    Does (.interruptTaken n) s [.cores, .cnt] fun t => Counts s t (0x10 + n.val) 5 1 ∧ (∀ m, m ≠ n → t.core m = s.core m) ∧
      t.core n = (s.core n).interrupted := by
  have hexec : exec (.interruptTaken n) s = .next ((s.bump (0x10 + n.val) 5).onCore n Core.interrupted) := by
    have hgo : (((s.core n).exec == .task || (s.core n).exec == .init) && (s.core n).irqEn &&& (s.core n).irqPend &&& 0x3E != 0 &&
        (s.core n).image.irqEntry != 0xFFFF) = true := by
      simp only [Bool.and_eq_true, Bool.or_eq_true, beq_iff_eq, bne_iff_ne]
      exact ⟨⟨he, hp⟩, hi⟩
    rw [exec_interruptTaken, execInterruptTaken, if_pos hr, takeIrq, if_pos hgo]
    exact congrArg Host.Outcome.next (State.onCore_congr rfl)
  refine Touch.does (((State.bump_touch ..).after (Touch.refl _ s) rfl).onCore rfl) hexec ⟨?_, fun m hm => ?_, ?_⟩
  · exact counts_congr (s := s) (t := s.bump (0x10 + n.val) 5) rfl rfl (counts_bumpBy (by decide) _ 1 s)
  · exact State.core_onCore_ne _ _ hm
  · exact State.core_onCore ..

theorem interruptTaken_idle (h : (s.core n).irqEn &&& (s.core n).irqPend &&& 0x3E = 0 ∨ (s.core n).image.irqEntry = 0xFFFF ∨
    (s.core n).inHandler = true ∨ (s.core n).exec = .waiting ∨ (s.core n).exec = .halted) :
    exec (.interruptTaken n) s = .next s := by
  have hno : takeIrq n s = s := by
    rw [takeIrq]
    refine if_neg fun hgo => ?_
    simp only [Bool.and_eq_true, Bool.or_eq_true, beq_iff_eq, bne_iff_ne] at hgo
    obtain ⟨⟨he, hp⟩, hi⟩ := hgo
    rcases h with h | h | h | h | h
    · exact hp h
    · exact hi h
    · rw [not_inHandler he] at h
      exact Bool.false_ne_true h
    · rw [h] at he
      simp at he
    · rw [h] at he
      simp at he
  rw [exec_interruptTaken, execInterruptTaken, hno, ite_self]

theorem waitxfResume_done {m : BitVec 4} (hw : (s.core n).waitXf = some m) (hr : islandRuns (.sc n) s = true)
    (hd : ∀ k : Fin 4, m.getLsbD k.val = true → (s.core n).xf[k].done = true) :
    Leaves (.waitxfResume n) s n fun c => { c with waitXf := none } := by
  have hall : xfAllDone (s.core n) m = true := by
    unfold xfAllDone
    simp only [List.all_eq_true, List.mem_finRange, forall_const]
    intro k
    have := hd k
    cases h : m.getLsbD k.val <;> simp_all
  refine leaves_congr (g := fun c => match c.waitXf with
    | some m => if xfAllDone c m then { c with waitXf := none } else c
    | none => c) ?_ (leaves_of_onCore ?_)
  · rw [hw]
    exact if_pos hall
  · rw [exec_waitxfResume, execWaitxfResume, hr]
    rfl

/-- A pause with a selected channel that does not show DONE, or no pause at all, goes on. -/
theorem waitxfResume_idle (h : (s.core n).waitXf = none ∨ islandRuns (.sc n) s = false ∨
    ∃ m, (s.core n).waitXf = some m ∧ ∃ k : Fin 4, m.getLsbD k.val = true ∧ (s.core n).xf[k].done = false) :
    exec (.waitxfResume n) s = .next s := by
  rw [exec_waitxfResume, execWaitxfResume]
  refine congrArg Host.Outcome.next ?_
  by_cases hr : islandRuns (.sc n) s = true
  · rw [hr]
    refine State.onCore_eq_self ?_
    rcases h with h | h | ⟨m, hm, k, hk, hd⟩
    · rw [h]
    · rw [hr] at h
      exact absurd h.symm Bool.false_ne_true
    · have hall : ¬ xfAllDone (s.core n) m = true := by
        unfold xfAllDone
        intro hc
        have := List.all_eq_true.1 hc k (List.mem_finRange k)
        rw [hk, hd] at this
        exact Bool.false_ne_true this
      rw [hm]
      exact if_neg hall
  · exact if_pos (by simp [hr])

theorem loopExit_last {l : Loop} (hl : (s.core n).loops.head? = some l) (hlast : l.last = (s.core n).pc)
    (hpass : l.count + l.stages ≤ l.pass + 2) (hh : (s.core n).inHandler = false) (hb : s.AtBundle n) :
    Leaves (.loopExit n) s n fun c => { c with
      loops := c.loops.tail, rb := if l.rot then c.rb - 1 else c.rb, pc := c.pc + 1, cycle := c.cycle + 1 } := by
  obtain ⟨r, hr⟩ := List.head?_eq_some_iff.1 hl
  have hexit : atExit n s = true := by
    unfold atExit
    dsimp only
    rw [hr, hb.runs, hh]
    simp only [Bool.not_false, Bool.true_and, hlast, beq_self_eq_true, decide_eq_true_eq]
    omega
  refine leaves_congr (g := Core.goesOn) ?_ (leaves_of_onCore ?_)
  · unfold Core.goesOn
    extract_lets on
    dsimp only
    rw [hr]
    dsimp only
    rw [if_neg (by rw [hh]; simp [hlast]), if_neg (by omega)]
    rfl
  · rw [exec_loopExit, execLoopExit, if_pos hexit, closePlain_quiet hb.quiet]

theorem loopExit_idle (h : (s.core n).loops = [] ∨ (s.core n).inHandler = true ∨ islandRuns (.sc n) s = false ∨
    ∀ l, (s.core n).loops.head? = some l → l.last ≠ (s.core n).pc ∨ l.pass + 2 < l.count + l.stages) :
    exec (.loopExit n) s = .next s := by
  have hexit : ¬ atExit n s = true := by
    unfold atExit State.issuing
    intro hc
    simp only [Bool.and_eq_true, Bool.not_eq_true'] at hc
    obtain ⟨⟨⟨hruns, -⟩, hin⟩, hloop⟩ := hc
    cases hl : (s.core n).loops with
    | nil => simp [hl] at hloop
    | cons l r =>
      simp only [hl, Bool.and_eq_true, beq_iff_eq, decide_eq_true_eq] at hloop
      rcases h with h | h | h | h
      · simp [hl] at h
      · rw [hin] at h
        exact Bool.false_ne_true h
      · rw [hruns] at h
        exact Bool.false_ne_true h.symm
      · have := h l (by rw [hl]; rfl)
        rcases this with h | h
        · exact h hloop.1
        · omega
  rw [exec_loopExit, execLoopExit, if_neg hexit]

theorem scDoorbell_open (v : Word) (h : 3 ≤ s.chip.stage.toNat) : Leaves (.scDoorbell n v) s n fun c => { c with
    dbell := v.truncate 16, irqPend := c.irqPend ||| 0x20 } :=
  leaves_of_onCore (by rw [exec_scDoorbell, execScDoorbell, writeIn_open (blockOpen_of_stage h _)])

theorem scDoorbell_closed (v : Word) (h : s.chip.stage.toNat < 3) : exec (.scDoorbell n v) s = .next s := by
  rw [exec_scDoorbell, execScDoorbell, writeIn_closed (blockOpen_early h (by omega))]

end

/-- Settles O50: a trap enters its handler or, inside one or without one, faults the core's function after all in flight has
landed; interrupts, pauses, loop ends and the doorbell each by what the model's function does. -/
theorem coreInterrupts : Obligations.CoreInterrupts := by
  unfold Obligations.CoreInterrupts
  intro s n
  exact ⟨fun _ hc => trapTaken_bundle hc, fun _ ha hi hh he ht => trapTaken_aov ha hi hh he ht, trapTaken_xf, trapTaken_none,
    interruptTaken_enters, interruptTaken_idle,
    fun m hm hr => ⟨waitxfResume_done hm hr, fun k hk hd => waitxfResume_idle (.inr (.inr ⟨m, hm, k, hk, hd⟩))⟩,
    fun h => waitxfResume_idle (.inl h), fun l => loopExit_last,
    fun h => loopExit_idle (h.imp_right (Or.imp_right Or.inr)),
    fun hr => ⟨by rw [exec_interruptTaken, execInterruptTaken, if_neg (by simp [hr])], waitxfResume_idle (.inr (.inl hr)),
      loopExit_idle (.inr (.inr (.inl hr)))⟩,
    fun v => ⟨scDoorbell_open v, scDoorbell_closed v⟩⟩

end Sys2Proof.Machine
end

section
/-! PROOFS. Tasks of a core: release, deadline and time-out, O49. -/

namespace Sys2Proof.Machine

open Sys2Proof

set_option Elab.async false

/-! Words written in order at distinct places. -/

/-- Words at four-byte places from `base`, in the order of `l`. -/
def wordsPut (base : Nat) (l : List (Nat × Word)) (m : List Host.Cell) : List Host.Cell :=
  l.foldl (fun m e => memPutList m (base + 4 * e.1) (leBytes 4 e.2.toNat)) m

theorem forAll_writeWords (base : Nat) (l : List (Nat × Word)) (s : State) :
    (forAll l (fun e s => s.write (base + 4 * e.1) (leBytes 4 e.2.toNat)) s).mem = wordsPut base l s.mem := by
  induction l generalizing s with
  | nil => rfl
  | cons e l ih => exact ih _

theorem memGetList_congr {m m' : List Host.Cell} {a n : Nat} (h : ∀ i < n, memByte m (a + i) = memByte m' (a + i)) :
    memGetList m a n = memGetList m' a n :=
  List.ext_getElem (by simp) fun i hi _ => by
    rw [length_memGetList] at hi
    rw [getElem_memGetList, getElem_memGetList, h i hi]

theorem wordsPut_wf (base : Nat) {l : List (Nat × Word)} {m : List Host.Cell} (h : Memory.wf m = true) :
    Memory.wf (wordsPut base l m) = true := by
  induction l generalizing m with
  | nil => exact h
  | cons e l ih => exact ih (memPutList_wf _ _ h)

/-- A place that no word of `l` takes keeps its bytes. -/
theorem wordsPut_other (base : Nat) {l : List (Nat × Word)} {m : List Host.Cell} (h : Memory.wf m = true) {k : Nat}
    (hk : ∀ e ∈ l, e.1 ≠ k) : memGetList (wordsPut base l m) (base + 4 * k) 4 = memGetList m (base + 4 * k) 4 := by
  induction l generalizing m with
  | nil => rfl
  | cons e l ih =>
    have he := hk e (List.mem_cons_self ..)
    refine (ih (memPutList_wf _ _ h) fun x hx => hk x (List.mem_cons_of_mem _ hx)).trans (memGetList_congr fun i hi => ?_)
    rw [memByte_memPutList _ _ _ h, length_leBytes, if_neg (by omega)]

theorem wordsPut_read (base : Nat) {l : List (Nat × Word)} {m : List Host.Cell} (h : Memory.wf m = true)
    (hl : (l.map (·.1)).Nodup) : ∀ e ∈ l, ofLe (memGetList (wordsPut base l m) (base + 4 * e.1) 4) = e.2.toNat := by
  induction l generalizing m with
  | nil => nofun
  | cons x l ih =>
    rw [List.map_cons, List.nodup_cons] at hl
    intro e he
    rcases List.mem_cons.1 he with rfl | he
    · refine (congrArg ofLe (wordsPut_other base (memPutList_wf _ _ h) fun y hy hye => ?_)).trans ?_
      · exact hl.1 (List.mem_map.2 ⟨y, hy, hye⟩)
      · have hself := memGetList_memPutList_self h (base + 4 * e.1) (leBytes 4 e.2.toNat)
        rw [length_leBytes] at hself
        rw [hself, ofLe_leBytes_word]
    · exact ih (memPutList_wf _ _ h) hl.2 e he

section
variable {n : Fin 16} {s : State}

theorem copyParams_none (h : (s.core n).dirty = []) : copyParams n s = s := by
  unfold copyParams
  extract_lets c base
  exact if_pos (by rw [show c.dirty = [] from h]; rfl)

/-- The words written since the last release are copied, and the copy is counted, where there are any (R304). -/
theorem copyParams_copied : (copyParams n s).core n = { s.core n with
      dirty := [], pseq := if (s.core n).dirty = [] then (s.core n).pseq else (s.core n).pseq + 1 } ∧
    (copyParams n s).cnt = s.cnt ∧
    (copyParams n s).mem = wordsPut (dyBase n + (s.core n).image.paramBase.toNat) (s.core n).dirty s.mem := by
  by_cases hd : (s.core n).dirty = []
  · rw [copyParams_none hd, if_pos hd, hd]
    refine ⟨?_, rfl, rfl⟩
    rw [← hd]
  · have hne : (s.core n).dirty.isEmpty = false := by simpa using hd
    have hcore (m : Fin 16) (base : Nat) (l : List (Nat × Word)) :
        (forAll l (fun e s => s.write (base + 4 * e.1) (leBytes 4 e.2.toNat)) s).core m = s.core m := by
      rw [State.core, forAll_write_mem, State.core]
    refine ⟨?_, (copyParams_touch n s).cnt_eq, ?_⟩
    all_goals
      unfold copyParams
      extract_lets c base
      rw [if_neg (by rw [hne]; exact Bool.false_ne_true)]
    · rw [State.core_onCore, hcore, if_neg hd]
    · exact forAll_writeWords base _ s

theorem State.count_onCore (g : Core → Core) (t : State) (f i : Nat) : (t.onCore n g).count f i = t.count f i := rfl

/-- The core `c` with the task of block `k` released (R302, R303). -/
def Core.withTask (k B off : Nat) (now : DWord) (c : Core) : Core := { c with
  taskn := BitVec.ofNat 64 k, blen := BitVec.ofNat 7 B
  ibase := BitVec.ofNat 17 (0x18000 + 0x2000 * (k % 4)), obase := BitVec.ofNat 17 (0x1C000 + 0x2000 * (k % 2))
  firstBlock := BitVec.ofNat 64 (k + 1), late := false, outBlock := none, orphan := false
  released := now, relOff := off
  exec := .task, pc := c.image.taskEntry.truncate 12, loops := [], waitXf := none }

/-- A task released into a core with nothing in flight, no trap pending and no interrupt to take. -/
theorem releaseTask_eq {k off : Nat} (hfl : (s.core n).flight = []) (ha : (s.core n).aovTrap = none)
    (hx : (s.core n).xfTrap = false)
    (hirq : (s.core n).irqEn &&& (s.core n).irqPend &&& 0x3E = 0 ∨ (s.core n).image.irqEntry = 0xFFFF) :
    releaseTask n k off s = (((copyParams n s).bump (0x10 + n.val) 0).bumpBy (0x10 + n.val) 2 (k - (s.core n).firstBlock.toNat)).onCore n
      (·.withTask k (s.scBlock n) off s.now) := by
  obtain ⟨hcore, -, -⟩ := copyParams_copied (n := n) (s := s)
  unfold releaseTask
  rw [landAll_none hfl]
  extract_lets skipped s1 s2
  have hs1 : s1.core n = (copyParams n s).core n := rfl
  have hs2 : s2 = s1.onCore n (·.withTask k (s.scBlock n) off s.now) := rfl
  rw [hs2, bundleEdge_calm]
  rw [State.core_onCore, hs1, hcore]
  exact ⟨ha, hx, .inr hirq⟩

/-- What a release at a block's end does, and that none comes where none may. -/
def Released (n : Fin 16) (b t : State) : Prop :=
  let c := b.core n
  (∀ k, b.nextBlock n = some k → c.flight = [] → c.aovTrap = none → c.xfTrap = false →
     c.irqEn &&& c.irqPend &&& 0x3E = 0 ∨ c.image.irqEntry = 0xFFFF →
     Only [.cores, .mem, .cnt] b t ∧ (∀ m, m ≠ n → t.core m = b.core m) ∧
     t.count (0x10 + n.val) 0 = min (2 ^ 48 - 1) (b.count (0x10 + n.val) 0 + 1) ∧
     t.count (0x10 + n.val) 2 = min (2 ^ 48 - 1) (b.count (0x10 + n.val) 2 + (k - c.firstBlock.toNat)) ∧
     t.core n = { c with
       taskn := BitVec.ofNat 64 k, blen := BitVec.ofNat 7 (b.scBlock n), ibase := BitVec.ofNat 17 (0x18000 + 0x2000 * (k % 4))
       obase := BitVec.ofNat 17 (0x1C000 + 0x2000 * (k % 2)), firstBlock := BitVec.ofNat 64 (k + 1), late := false
       orphan := false, outBlock := none, released := b.now, relOff := 0, exec := .task, pc := c.image.taskEntry.truncate 12
       loops := [], waitXf := none, dirty := [], pseq := if c.dirty = [] then c.pseq else c.pseq + 1 } ∧
     (c.dirty = [] → t.mem = b.mem) ∧
     (MemInv b → (c.dirty.map (·.1)).Nodup → ∀ e ∈ c.dirty,
       ofLe (t.read (dyBase n + c.image.paramBase.toNat + 4 * e.1) 4) = e.2.toNat)) ∧
  (b.nextBlock n = none → t = b)

theorem releaseNext_released (b : State) : Released n b (releaseNext n b) := by
  refine ⟨fun k hk hfl ha hx hirq => ?_, fun h => releaseAt_none h⟩
  obtain ⟨hcore, hcnt, hmem⟩ := copyParams_copied (n := n) (s := b)
  have htouch : Touch [.cores, .mem, .cnt] b
      (((copyParams n b).bump (0x10 + n.val) 0).bumpBy (0x10 + n.val) 2 (k - (b.core n).firstBlock.toNat)) :=
    (State.bumpBy_touch ..).after ((State.bumpBy_touch ..).after ((copyParams_touch n b).after (Touch.refl _ b) rfl) rfl) rfl
  have heq : releaseNext n b = (((copyParams n b).bump (0x10 + n.val) 0).bumpBy (0x10 + n.val) 2
      (k - (b.core n).firstBlock.toNat)).onCore n (·.withTask k (b.scBlock n) 0 b.now) := by
    rw [releaseNext, releaseAt, hk]
    exact releaseTask_eq hfl ha hx hirq
  have hbump := counts_bumpBy (i := 0) (by decide) (0x10 + n.val) 1 (copyParams n b)
  have hskip := counts_bumpBy (i := 2) (by decide) (0x10 + n.val) (k - (b.core n).firstBlock.toNat)
    ((copyParams n b).bump (0x10 + n.val) 0)
  have hsame (j : Nat) : (copyParams n b).count (0x10 + n.val) j = b.count (0x10 + n.val) j := by
    rw [State.count, hcnt, State.count]
  rw [heq]
  refine ⟨(htouch.onCore rfl).frame, fun m hm => ?_, ?_, ?_, ?_, fun hd => ?_, fun hinv hnd => ?_⟩
  · exact (State.core_onCore_ne _ _ hm).trans ((copyParams_core n b).2 m hm)
  · rw [State.count_onCore, hskip (0x10 + n.val) 0 (by decide), if_neg (by simp), State.bump, hbump (0x10 + n.val) 0 (by decide), if_pos ⟨rfl, rfl⟩, hsame]
  · rw [State.count_onCore, hskip (0x10 + n.val) 2 (by decide), if_pos ⟨rfl, rfl⟩, State.bump, hbump (0x10 + n.val) 2 (by decide), if_neg (by simp), hsame]
  · refine (State.core_onCore ..).trans ?_
    rw [show (((copyParams n b).bump (0x10 + n.val) 0).bumpBy (0x10 + n.val) 2 (k - (b.core n).firstBlock.toNat)).core n =
      (copyParams n b).core n from rfl, hcore]
    rfl
  · refine Eq.trans ?_ (hmem.trans ?_)
    · rfl
    · rw [hd]
      rfl
  · have hread (a : Nat) : State.read ((((copyParams n b).bump (0x10 + n.val) 0).bumpBy (0x10 + n.val) 2
        (k - (b.core n).firstBlock.toNat)).onCore n (·.withTask k (b.scBlock n) 0 b.now)) a 4 =
        memGetList (wordsPut (dyBase n + (b.core n).image.paramBase.toNat) (b.core n).dirty b.mem) a 4 := by
      rw [← hmem]
      rfl
    intro e he
    rw [hread]
    exact wordsPut_read _ hinv hnd e he

/-! When a release comes (R302). -/

theorem nextBlock_facts {k : Nat} (h : s.nextBlock n = some k) : (s.core n).exec = .waiting ∧ (s.core n).stopping = false ∧
    (k + 1) * s.scBlock n ≤ s.now.toNat ∧ s.now.toNat < (k + 2) * s.scBlock n ∧ (s.core n).firstBlock.toNat ≤ k ∧
    islandRuns (.sc n) s = true ∧ (s.edge (.sc n) .lovage).paused = none := by
  unfold State.nextBlock at h
  extract_lets c done at h
  by_cases hc : (islandRuns (.sc n) s && (s.life? (.sc n)).busy && !c.stopping && c.exec == .waiting &&
      !(s.edge (.sc n) .lovage).paused.isSome && decide (c.firstBlock.toNat < done)) = true
  · rw [if_pos hc, Option.some.injEq] at h
    simp only [Bool.and_eq_true, Bool.not_eq_true', decide_eq_true_eq, beq_iff_eq, Option.isSome_eq_false_iff,
      Option.isNone_iff_eq_none] at hc
    obtain ⟨⟨⟨⟨⟨hrun, -⟩, hstop⟩, hexec⟩, hpaused⟩, hlt⟩ := hc
    have hpos := scBlock_pos s n
    have hk : k + 1 = s.now.toNat / s.scBlock n := by
      have : done = s.now.toNat / s.scBlock n := rfl
      omega
    have hge := (Nat.le_div_iff_mul_le hpos).1 hk.le
    have hlt' := (Nat.div_lt_iff_lt_mul hpos).1 (show s.now.toNat / s.scBlock n < k + 2 by omega)
    have hfirst : (s.core n).firstBlock.toNat < k + 1 := hk ▸ hlt
    exact ⟨hexec, hstop, hge, hlt', by omega, hrun, hpaused⟩
  · rw [if_neg hc] at h
    exact absurd h (by simp)

theorem actsDue_none {i : Island} (h : s.noneDue i) : actsDue i s = s := by
  have hnil : (s.life.acts.filter fun a => a.due s && decide (islandOf a.func = i)) = [] := by
    refine List.filter_eq_nil_iff.2 fun a ha hc => ?_
    simp only [Bool.and_eq_true, decide_eq_true_eq] at hc
    exact h a ha hc.1 hc.2
  rw [actsDue, hnil, forAll_nil]

theorem writesDue_none {f : Func} (h : ∀ w ∈ s.life.writes, w.due s f = false) : writesDue f s = s := by
  have hnil : s.life.writes.filter (·.due s f) = [] :=
    List.filter_eq_nil_iff.2 fun w hw => by rw [h w hw]; exact Bool.false_ne_true
  unfold writesDue
  extract_lets mine
  exact if_pos (by rw [show mine = [] from hnil]; rfl)

theorem taskRelease_atToken : AtToken (.taskRelease n) s (.sc n) (fun b t => b.noneDue (.sc n) →
    (∀ w ∈ b.life.writes, w.due b (.sc n) = false) → Released n b t) := by
  intro m hm
  have hexec : exec (.taskRelease n) s =
      .next (boundaryDo (.sc n) (fun s => releaseNext n (writesDue (.sc n) (actsDue (.sc n) s))) s) := by
    rw [exec_taskRelease, execTaskRelease, hm]
  refine (doesAt_boundaryDo (P := fun b t => b.noneDue (.sc n) → (∀ w ∈ b.life.writes, w.due b (.sc n) = false) → Released n b t)
    hexec (fun b => ?_) fun b hacts hwrites => ?_).1 m hm
  · exact (releaseNext_touch n _).queue.trans ((writesDue_touch _ _).queue.trans (actsDue_touch _ _).queue)
  · rw [actsDue_none hacts, writesDue_none hwrites]
    exact releaseNext_released b

theorem taskRelease_idle (hm : s.tokenTick (.sc n) = none) (hc : s.copy (.sc n) = s.now) :
    ∃ t, exec (.taskRelease n) s = .next t ∧ t.pending = s.pending ∧ Released n s t := by
  refine ⟨releaseNext n s, ?_, (releaseNext_touch n s).queue, releaseNext_released s⟩
  rw [exec_taskRelease, execTaskRelease, hm]
  exact congrArg Host.Outcome.next (by rw [hc]; exact if_pos rfl)

end

end Sys2Proof.Machine
end

section
/-! PROOFS. Tasks of a core: deadline and time-out at a boundary, O49. -/

namespace Sys2Proof.Machine

open Sys2Proof

set_option Elab.async false

section
variable {n : Fin 16} {s : State}

/-- The core that has missed its deadline. -/
def Core.markedLate (c : Core) : Core := { c with late := true }

theorem taskDeadline_misses (ht : (s.core n).inTask = true) (hl : (s.core n).late = false) (ho : (s.core n).orphan = false)
    (hd : ((s.core n).taskn.toNat + 2) * s.scBlock n ≤ s.now.toNat) :
    taskDeadline n s = (s.bump (0x10 + n.val) 1).onCore n Core.markedLate := by
  unfold taskDeadline
  exact if_pos (by rw [ht, hl, ho, decide_eq_true hd]; rfl)

theorem taskDeadline_none (h : (s.core n).inTask = false ∨ (s.core n).late = true ∨ (s.core n).orphan = true) :
    taskDeadline n s = s := by
  unfold taskDeadline
  rcases h with h | h | h <;> simp [h]

theorem taskDeadline_does (ht : (s.core n).inTask = true) (hl : (s.core n).late = false) (ho : (s.core n).orphan = false)
    (hd : ((s.core n).taskn.toNat + 2) * s.scBlock n ≤ s.now.toNat) :
    Touch [.cores, .cnt] s (taskDeadline n s) ∧ (taskDeadline n s).core n = (s.core n).markedLate ∧
    Counts s (taskDeadline n s) (0x10 + n.val) 1 1 ∧ ∀ m, m ≠ n → (taskDeadline n s).core m = s.core m := by
  rw [taskDeadline_misses ht hl ho hd]
  refine ⟨((State.bump_touch ..).after (Touch.refl _ s) rfl).onCore rfl, State.core_onCore .., ?_, fun m hm => ?_⟩
  · exact counts_congr (s := s) (t := s.bump (0x10 + n.val) 1) rfl rfl (counts_bumpBy (by decide) _ 1 s)
  · exact State.core_onCore_ne _ _ hm

theorem taskDeadline_at : DoesAt (.taskDeadlineMiss n) s (.sc n) (fun b t =>
    ((b.core n).inTask = true → (b.core n).late = false → (b.core n).orphan = false →
      ((b.core n).taskn.toNat + 2) * b.scBlock n ≤ b.now.toNat →
      Only [.cores, .cnt] b t ∧ t.core n = { b.core n with late := true } ∧ Counts b t (0x10 + n.val) 1 1 ∧
      ∀ m, m ≠ n → t.core m = b.core m) ∧
    ((b.core n).inTask = false ∨ (b.core n).late = true ∨ (b.core n).orphan = true → t = b)) := by
  refine doesAt_boundaryDo (exec_taskDeadlineMiss n s) (fun b => (taskDeadline_touch n b).queue) fun b => ⟨fun ht hl ho hd => ?_, taskDeadline_none⟩
  obtain ⟨htouch, hcore, hcount, hothers⟩ := taskDeadline_does ht hl ho hd
  exact ⟨htouch.frame, hcore, hcount, hothers⟩

/-- The core in the handler of a trap of its task. -/
theorem taskTimeout_none (h : (s.core n).inTask = false ∨ (s.core n).orphan = true ∨
    ((s.core n).trapTick = s.now ∧ bits (s.core n).trap 3 0 = 6)) : taskTimeout n s = s := by
  unfold taskTimeout
  extract_lets c taken
  refine if_neg fun hc => ?_
  simp only [Bool.and_eq_true, Bool.not_eq_true', c, taken] at hc
  obtain ⟨⟨⟨hin, htaken⟩, horphan⟩, -⟩ := hc
  rcases h with h | h | ⟨htick, hcause⟩
  · rw [hin] at h
    exact Bool.false_ne_true h.symm
  · rw [horphan] at h
    exact Bool.false_ne_true h
  · rw [htick, hcause] at htaken
    simp at htaken

theorem taskTimeout_early (h : ((s.core n).taskn.toNat + 4) * s.scBlock n ≠ s.now.toNat) : taskTimeout n s = s := by
  unfold taskTimeout
  extract_lets c taken
  refine if_neg fun hc => ?_
  simp only [Bool.and_eq_true, beq_iff_eq, c] at hc
  exact h hc.2

theorem taskTimeout_traps (ht : (s.core n).image.trapEntry ≠ 0xFFFF) (he : (s.core n).exec = .task)
    (hn : (s.core n).trapTick ≠ s.now ∨ bits (s.core n).trap 3 0 ≠ 6) (ho : (s.core n).orphan = false)
    (hd : ((s.core n).taskn.toNat + 4) * s.scBlock n = s.now.toNat) :
    Touch [.cores] s (taskTimeout n s) ∧ Trapped s (taskTimeout n s) n 6 := by
  have hin : (s.core n).inTask = true := by
    rw [Core.inTask, he]
    rfl
  have htaken : ((s.core n).trapTick == s.now && bits (s.core n).trap 3 0 == 6) = false := by
    rw [Bool.and_eq_false_iff]
    exact hn.imp beq_false_of_ne beq_false_of_ne
  have heq : taskTimeout n s = trapHere n 6 s := by
    unfold taskTimeout
    extract_lets c taken
    refine if_pos ?_
    rw [show taken = false from htaken, show c.inTask = true from hin, show c.orphan = false from ho]
    exact beq_iff_eq.2 hd
  rw [heq, trapHere_eq 6 (not_inHandler (.inl he)) ht]
  exact ⟨(Touch.refl _ s).onCore rfl, State.core_onCore .., fun m hm => State.core_onCore_ne _ _ hm⟩

theorem taskTimeout_at : DoesAt (.taskTimeout n) s (.sc n) (fun b t =>
    ((b.core n).inHandler = false → (b.core n).image.trapEntry ≠ 0xFFFF → (b.core n).exec = .task →
      (b.core n).trapTick ≠ b.now ∨ bits (b.core n).trap 3 0 ≠ 6 → (b.core n).orphan = false →
      ((b.core n).taskn.toNat + 4) * b.scBlock n = b.now.toNat → Only [.cores] b t ∧ Trapped b t n 6) ∧
    ((b.core n).inTask = false ∨ (b.core n).orphan = true ∨ ((b.core n).trapTick = b.now ∧ bits (b.core n).trap 3 0 = 6) → t = b)) := by
  refine doesAt_boundaryDo (exec_taskTimeout n s) (fun b => (taskTimeout_touch n b).queue) fun b => ⟨fun _ ht he hn ho hd => ?_, taskTimeout_none⟩
  obtain ⟨htouch, htrapped⟩ := taskTimeout_traps ht he hn ho hd
  exact ⟨htouch.frame, htrapped⟩

/-! A deadline missed as the boundary opens. -/

/-- A boundary not yet begun, as its event finds it. -/
theorem opened_fresh {i : Island} {m : DWord} (h : s.begun i = false) :
    opened i m s = lifeWork i (fadeTick i ((setBegun i true s).onTime fun x => { x with tick := m })) := by
  have hnow (t : State) : (lifeWork i (fadeTick i t)).now = t.now :=
    congrArg Prod.fst ((standing_lifeWork i _).trans (fadeTick_touch i t).standing)
  have hopen : openBoundary i m s = atTick m (fun s => lifeWork i (fadeTick i s)) (setBegun i true s) := by
    unfold openBoundary
    rw [h]
    exact if_neg Bool.false_ne_true
  unfold opened
  rw [hopen]
  unfold atTick
  by_cases hm : (setBegun i true s).now = m
  · have hset : ((setBegun i true s).onTime fun x => { x with tick := m }) = setBegun i true s := by
      rw [← hm]
      exact onTime_now _
    rw [if_pos hm, hset]
    have hlast : (lifeWork i (fadeTick i (setBegun i true s))).now = m := (hnow _).trans hm
    rw [← hlast]
    exact onTime_now _
  · have hlast := hnow ((setBegun i true s).onTime fun x => { x with tick := m })
    have hback : (lifeWork i (fadeTick i ((setBegun i true s).onTime fun x => { x with tick := m }))).now = m := hlast.trans rfl
    rw [if_neg hm, if_pos hback]
    exact (congrArg (fun k : DWord => (lifeWork i (fadeTick i ((setBegun i true s).onTime fun x => { x with tick := m }))).onTime
      fun x => { x with tick := k }) hback.symm).trans (onTime_now _)

theorem opened_begun {i : Island} {m : DWord} (h : s.begun i = true) : opened i m s = s.onTime fun x => { x with tick := m } := by
  unfold opened openBoundary
  rw [h]
  rfl

theorem funcsOn_sc (n : Fin 16) : funcsOn (.sc n) = [.sc n] := by
  revert n
  decide

theorem fadeTick_sc (n : Fin 16) (s : State) : fadeTick (.sc n) s = s.onFunc (.sc n) fun r => { r with fade := r.fade.tick } := by
  unfold fadeTick
  rw [funcsOn_sc]
  rfl

/-- A RUNNING core's function stays as it is at a boundary. -/
theorem lifeTick_sc_running (h : s.life? (.sc n) = .running) : startExpire (.sc n) (lifeTick (.sc n) s) = s := by
  have hstart : startDone (.sc n) s = false := by simp [startDone, h]
  have hstop : stopDone (.sc n) s = false := by simp [stopDone, h]
  have htick : lifeTick (.sc n) s = s := by
    unfold lifeTick
    rw [hstart]
    dsimp only
    rw [if_neg Bool.false_ne_true, hstop, if_neg Bool.false_ne_true]
  rw [htick, startExpire, h]
  exact if_neg (by simp)

theorem lifeWork_sc_running (h : (taskTimeout n (taskDeadline n s)).life? (.sc n) = .running) :
    lifeWork (.sc n) s = taskTimeout n (taskDeadline n s) := by
  have hwork : lifeWork (.sc n) s = forAll (funcsOn (.sc n)) (fun f s => startExpire f (lifeTick f s)) (taskTimeout n (taskDeadline n s)) := rfl
  rw [hwork, funcsOn_sc, forAll_cons, forAll_nil]
  exact lifeTick_sc_running h

/-- A deadline found missed as a boundary opens, and found marked by the event (R306). -/
theorem taskDeadline_opened {m : DWord} (ht : (s.core n).inTask = true) (hl : (s.core n).late = false) (ho : (s.core n).orphan = false)
    (hd : ((s.core n).taskn.toNat + 2) * s.scBlock n ≤ m.toNat) (hne : ((s.core n).taskn.toNat + 4) * s.scBlock n ≠ m.toNat)
    (hlife : s.life? (.sc n) = .running) :
    Touch [.funcs, .cores, .time, .cnt] s (taskDeadline n (opened (.sc n) m s)) ∧
    ((taskDeadline n (opened (.sc n) m s)).core n).late = true ∧ Counts s (taskDeadline n (opened (.sc n) m s)) (0x10 + n.val) 1 1 ∧
    ∀ k, k ≠ n → (taskDeadline n (opened (.sc n) m s)).core k = s.core k := by
  cases hb : s.begun (.sc n) with
  | true =>
    rw [opened_begun hb]
    obtain ⟨htouch, hcore, hcount, hothers⟩ := taskDeadline_does (s := s.onTime fun x => { x with tick := m }) ht hl ho hd
    refine ⟨htouch.after ((Touch.refl _ s).onTime rfl) rfl, ?_, hcount, hothers⟩
    rw [hcore]
    rfl
  | false =>
    let a := ((setBegun (.sc n) true s).onTime fun x => { x with tick := m }).onFunc (.sc n) fun r => { r with fade := r.fade.tick }
    have ha : Touch [.funcs, .time] s a :=
      (State.onFunc_touch ..).after (((setBegun_touch ..).after (Touch.refl _ s) rfl).onTime rfl) rfl
    have hfunc : a.func (.sc n) = { s.func (.sc n) with fade := (s.func (.sc n)).fade.tick } := State.func_onFunc ..
    have hblock : a.scBlock n = s.scBlock n := by
      unfold State.scBlock State.scLog2 State.scByte
      rw [hfunc]
    obtain ⟨htouch, hcore, hcount, hothers⟩ := taskDeadline_does (s := a) ht hl ho (by rw [hblock]; exact hd)
    have hearly : taskTimeout n (taskDeadline n a) = taskDeadline n a := by
      refine taskTimeout_early ?_
      rw [hcore, scBlock_congr (htouch.funcs_eq), hblock, htouch.now_eq]
      exact hne
    have hrun : (taskTimeout n (taskDeadline n a)).life? (.sc n) = .running := by
      rw [hearly, htouch.life?_eq, State.life?, hfunc]
      exact hlife
    have hopen : opened (.sc n) m s = taskDeadline n a := by
      rw [opened_fresh hb, fadeTick_sc, lifeWork_sc_running hrun, hearly]
    have hdone : taskDeadline n (taskDeadline n a) = taskDeadline n a :=
      taskDeadline_none (.inr (.inl (by rw [hcore]; rfl)))
    rw [hopen, hdone]
    refine ⟨htouch.after (ha.after (Touch.refl _ s) rfl) rfl, ?_, hcount, hothers⟩
    rw [hcore]
    rfl

theorem taskDeadline_missed {m : DWord} (hm : s.tokenTick (.sc n) = some m) (ht : (s.core n).inTask = true)
    (hl : (s.core n).late = false) (ho : (s.core n).orphan = false)
    (hd : (s.core n).taskn.toNat * s.scBlock n + 2 * s.scBlock n ≤ m.toNat)
    (hne : (s.core n).taskn.toNat * s.scBlock n + 4 * s.scBlock n ≠ m.toNat) (hlife : s.life? (.sc n) = .running) :
    Does (.taskDeadlineMiss n) s [.funcs, .cores, .time, .cnt] fun t =>
      (t.core n).late = true ∧ Counts s t (0x10 + n.val) 1 1 ∧ ∀ k, k ≠ n → t.core k = s.core k := by
  rw [← Nat.add_mul] at hd hne
  obtain ⟨htouch, hlate, hcount, hothers⟩ := taskDeadline_opened ht hl ho hd hne hlife
  obtain ⟨t, hexec, -, ht'⟩ := (doesAt_boundaryDo (P := fun b t => t = taskDeadline n b) (exec_taskDeadlineMiss n s)
    (fun b => (taskDeadline_touch n b).queue) fun _ => rfl).1 m hm
  rw [ht'] at hexec
  generalize taskDeadline n (opened (.sc n) m s) = u at htouch hlate hcount hothers hexec
  by_cases hnow : u.now = m
  · rw [if_pos hnow] at hexec
    exact (htouch.onTime rfl).does hexec ⟨hlate, hcount, hothers⟩
  · rw [if_neg hnow] at hexec
    exact htouch.does hexec ⟨hlate, hcount, hothers⟩

end

/-- Settles O49: a release is `releaseTask` at the block's end with the words copied in order; a deadline and a time-out are what
the boundary of the core's island does, once. -/
theorem taskEvents : Obligations.TaskEvents := by
  unfold Obligations.TaskEvents
  intro s n
  exact ⟨fun k => nextBlock_facts, taskRelease_atToken, taskRelease_idle, taskDeadline_at,
    fun m hm ht hl ho hd hne hlife => taskDeadline_missed hm ht hl ho hd hne hlife, taskTimeout_at⟩

end Sys2Proof.Machine
end

section
/-! PROOFS. Link, negotiation, LEDs and the timers of a port, O27. -/

namespace Sys2Proof.Machine

open Sys2Proof

set_option Elab.async false

section
variable {i : Instr} {s : State} {p : Port}

/-- A command that changes one port alone. -/
theorem does_onPort {g : PortSt → PortSt} (hexec : exec i s = .next (s.onPort p g)) {P : State → Prop}
    (hP : ∀ t : State, t.port p = g (s.port p) → t.port (otherPort p) = s.port (otherPort p) → P t) : Does i s [.portA, .portB] P :=
  ((State.onPort_touch p g s).after (Touch.refl [.portA, .portB] s) rfl).does hexec
    (hP _ (State.port_onPort ..) (State.port_onPort_ne _ _ (otherPort_ne_self p)))

/-! Frames joining a queue of one port. -/

/-- The port with other queues. -/
def PortSt.withQueues (qs : Vector (List Frame) 8) (r : PortSt) : PortSt := { r with queues := qs }

theorem enqueue_queues (q : Fin 8) (f : Frame) (qs : Vector (List Frame) 8) (s : State) :
    ((enqueue p q f s).port p).withQueues qs = (s.port p).withQueues qs := by
  unfold enqueue
  dsimp only
  by_cases hl : (s.port p).link = true
  · rw [if_neg (by simp [hl])]
    by_cases hfull : 16 ≤ (s.port p).queues[q].length ∨ 16384 < lenSum (s.port p).queues[q] + f.len
    · rw [if_pos hfull]
      rw [State.bumpPort, State.bump, State.port_bumpBy]
    · rw [if_neg hfull, State.port_onPort]
      rfl
  · rw [if_pos (by simp [hl]), State.bumpPort, State.bump, State.port_bumpBy]

theorem enqueue_other (q : Fin 8) (f : Frame) {k : Port} (hk : k ≠ p) (s : State) : (enqueue p q f s).port k = s.port k := by
  unfold enqueue
  dsimp only
  by_cases hl : (s.port p).link = true
  · rw [if_neg (by simp [hl])]
    by_cases hfull : 16 ≤ (s.port p).queues[q].length ∨ 16384 < lenSum (s.port p).queues[q] + f.len
    · rw [if_pos hfull]
      rw [State.bumpPort, State.bump, State.port_bumpBy]
    · rw [if_neg hfull, State.port_onPort_ne _ _ hk]
  · rw [if_pos (by simp [hl]), State.bumpPort, State.bump, State.port_bumpBy]

/-- A frame sent by one port alone: a tag is taken for it at most, and it joins a queue of the port (R154, R160). -/
theorem sendFrame_one (p : Port) (q : Fin 8) (f : Frame) (s : State) : ∃ (f' : Frame) (u : State),
    Touch [.path] s u ∧ sendFrame [p] q f s = enqueue p q f' u := by
  unfold sendFrame
  extract_lets r
  refine ⟨r.1, r.2, ?_, rfl⟩
  by_cases h : s.isRing = true
  · rw [show r = originTag { f with len := max 64 f.len } s from if_pos h]
    exact originTag_touch ..
  · rw [show r = ({ f with len := max 64 f.len }, s) from if_neg h]
    exact Touch.refl _ s

theorem gratuitousArp_ports (qs : Vector (List Frame) 8) (s : State) :
    ((gratuitousArp p s).port p).withQueues qs = (s.port p).withQueues qs ∧
    (gratuitousArp p s).port (otherPort p) = s.port (otherPort p) := by
  unfold gratuitousArp
  extract_lets a
  by_cases h : (s.svcAlive && a != 0) = true
  · obtain ⟨f, u, htouch, heq⟩ := sendFrame_one p (s.txqService p) (arpFrame s 0xFFFFFFFFFFFF 1 a s.svc.mac.toNat a) s
    rw [if_pos h, sendService, heq]
    refine ⟨(enqueue_queues _ f qs u).trans ?_, (enqueue_other _ f (otherPort_ne_self p) u).trans (htouch.port_eq _)⟩
    rw [htouch.port_eq]
  · rw [if_neg h]
    exact ⟨rfl, rfl⟩

theorem gratuitousArp_none (h : s.svcParam 0x10 = 0) : gratuitousArp p s = s := by
  unfold gratuitousArp
  extract_lets a
  exact if_neg (by rw [show a = 0 from h]; simp)

/-! Negotiation (R141-R143). -/

theorem advertised_pause (r : PortSt) : r.basePage.getLsbD 3 = r.macCtrl.getLsbD 4 ∧ r.basePage.getLsbD 4 = r.macCtrl.getLsbD 4 := by
  unfold PortSt.basePage bit
  cases h : r.macCtrl.getLsbD 4 <;> simp

theorem anegComplete_idle (hl : (s.port p).link = true) (partner lpPause multi seed) :
    exec (.anegComplete p partner lpPause multi seed) s = .next s := by
  rw [exec_anegComplete, execAnegComplete, if_pos (by simp [hl])]

theorem anegComplete_resolves (hup : s.portsUp = true) (hl : (s.port p).link = false) (partner : BitVec 3) (lpPause multi seed : Bool) :
    Does (.anegComplete p partner lpPause multi seed) s [.portA, .portB] fun t => t.port (otherPort p) = s.port (otherPort p) ∧
      (t.port p).resolved = highestMode ((s.port p).aneg.truncate 3 &&& ~~~(s.port p).withheld &&& partner) ∧
      (t.port p).lpPause = lpPause ∧ (t.port p).link = false ∧
      (t.port p).advertised.getLsbD 3 = (s.port p).macCtrl.getLsbD 4 ∧ (t.port p).advertised.getLsbD 4 = (s.port p).macCtrl.getLsbD 4 := by
  have hexec := exec_anegComplete p partner lpPause multi seed s
  unfold execAnegComplete at hexec
  dsimp only at hexec
  rw [if_neg (by simp [hup, hl])] at hexec
  refine does_onPort hexec fun t hp ho => ?_
  obtain ⟨h3, h4⟩ := advertised_pause (s.port p)
  rw [hp]
  exact ⟨ho, rfl, rfl, hl, h3, h4⟩

/-! Link up and down (R145). -/

theorem linkUp_does (hup : s.portsUp = true) (hl : (s.port p).link = false) (hr : (s.port p).resolved ≠ .none)
    (mdix s01 s23 : Bool) (pol : BitVec 4) : Does (.linkUp p mdix s01 s23 pol) s [.pages, .portA, .portB, .path, .cnt] fun t =>
      { t.port p with queues := (s.port p).queues } = { s.port p with
        link := true, mode := (s.port p).resolved, attempts := 0, mdix := mdix,
        swap01 := s01 && (s.port p).resolved != .m100, swap23 := s23 && (s.port p).resolved != .m100, pol := pol } ∧
      t.host.hostPage.event.getLsbD 7 = true ∧ t.port (otherPort p) = s.port (otherPort p) ∧
      (s.svcParam 0x10 = 0 → t.path = s.path ∧ t.cnt = s.cnt ∧ (t.port p).queues = (s.port p).queues) := by
  have hexec := exec_linkUp p mdix s01 s23 pol s
  unfold execLinkUp at hexec
  dsimp only at hexec
  rw [if_neg (by simp [hup, hl, hr])] at hexec
  generalize hu : (s.onPort p fun r => { r with
        link := true, mode := r.resolved, attempts := 0, mdix, swap01 := s01 && (s.port p).resolved != .m100
        swap23 := s23 && (s.port p).resolved != .m100, pol }).raise 7 = u at hexec
  have htouch : Touch [.pages, .portA, .portB] s u := by
    rw [← hu]
    exact (State.raise_touch ..).after ((State.onPort_touch ..).after (Touch.refl _ s) rfl) rfl
  have hport : u.port p = { s.port p with
        link := true, mode := (s.port p).resolved, attempts := 0, mdix := mdix,
        swap01 := s01 && (s.port p).resolved != .m100, swap23 := s23 && (s.port p).resolved != .m100, pol := pol } := by
    rw [← hu, State.port_raise, State.port_onPort]
  have hother : u.port (otherPort p) = s.port (otherPort p) := by
    rw [← hu, State.port_raise, State.port_onPort_ne _ _ (otherPort_ne_self p)]
  have hevent : u.eventSet 7 = true := by
    rw [← hu]
    exact eventSet_raise_self (by decide) _
  obtain ⟨hqueues, hleft⟩ := gratuitousArp_ports (p := p) (s.port p).queues u
  refine ((gratuitousArp_touch p u).after (htouch.after (Touch.refl _ s) rfl) rfl).does hexec ⟨?_, ?_, ?_, fun ha => ?_⟩
  · exact hqueues.trans (by rw [hport]; rfl)
  · exact ((gratuitousArp_touch p u).eventSet_eq 7).trans hevent
  · rw [hleft, hother]
  · have hnone : u.svcParam 0x10 = 0 := by
      rw [← ha]
      unfold State.svcParam State.param
      rw [htouch.params_eq]
    rw [gratuitousArp_none hnone]
    exact ⟨htouch.path_eq, htouch.cnt_eq, by rw [hport]⟩

/-- What the loss of a link leaves. -/
theorem linkLost_up (hl : (s.port p).link = true) : ((linkLost p s).port p).mode = .none ∧
    ((linkLost p s).port p).pause = (s.port p).pause ∧ (∀ q : Fin 8, ((linkLost p s).port p).queues[q] = []) ∧
    ((linkLost p s).port p).fwd = [] ∧ (linkLost p s).eventSet 7 = true ∧
    (linkLost p s).count (portFn p) 20 = min (2 ^ 48 - 1) (s.count (portFn p) 20 + 1) := by
  unfold linkLost
  extract_lets r n s1
  rw [if_neg (by simp [r, hl])]
  have hs1 : s1.port p = s.port p := (State.port_bumpBy ..).trans (State.port_bumpBy ..)
  have hcount : s1.count (portFn p) 20 = min (2 ^ 48 - 1) (s.count (portFn p) 20 + 1) := by
    have h1 := counts_bumpBy (i := 17) (by decide) (portFn p) n (s.bumpPort p 20) (portFn p) 20 (by decide)
    have h2 := counts_bumpBy (i := 20) (by decide) (portFn p) 1 s (portFn p) 20 (by decide)
    rw [if_neg (by simp)] at h1
    rw [if_pos ⟨rfl, rfl⟩] at h2
    exact h1.trans h2
  generalize s1 = u at hs1 hcount ⊢
  generalize hv : u.onPort p _ = v
  have hport (t : State) : (pathLinkLost p t).port p = t.port p := (pathLinkLost_touch p t).port_eq p
  have hvp := hv ▸ State.port_onPort p _ u
  have hvc : v.cnt = u.cnt := hv ▸ (State.onPort_touch p _ u).cnt_eq
  rw [hport, State.port_raise, hvp, hs1]
  refine ⟨rfl, rfl, fun q => ?_, rfl, ?_, ?_⟩
  · exact Vector.getElem_replicate ..
  · exact ((pathLinkLost_touch ..).eventSet_eq 7).trans (eventSet_raise_self (by decide) _)
  · rw [← hcount, State.count, (pathLinkLost_touch ..).cnt_eq, (State.raise_touch ..).cnt_eq, hvc, State.count]

theorem linkDown_does (hl : (s.port p).link = true) : Does (.linkDown p) s [.pages, .portA, .portB, .path, .cnt] fun t =>
    t.port (otherPort p) = s.port (otherPort p) ∧ (t.port p).link = false ∧ (t.port p).mode = .none ∧ (t.port p).pause = (s.port p).pause ∧
    (∀ q : Fin 8, (t.port p).queues[q] = []) ∧ (t.port p).fwd = [] ∧ t.host.hostPage.event.getLsbD 7 = true ∧
    (s.count (portFn p) 20 < 2 ^ 48 - 1 → t.count (portFn p) 20 = s.count (portFn p) 20 + 1) := by
  obtain ⟨hmode, hpause, hqueues, hfwd, hevent, hcount⟩ := linkLost_up hl
  refine (linkLost_touch p s).does (by rw [exec_linkDown, execLinkDown, if_pos hl])
    ⟨linkLost_other (otherPort_ne_self p) s, linkLost_link p s, hmode, hpause, hqueues, hfwd, hevent, fun h => ?_⟩
  rw [hcount]
  exact Nat.min_eq_right (by omega)

theorem linkAttemptFail_does (hup : s.portsUp = true) (hl : (s.port p).link = false) (hr : (s.port p).resolved ≠ .none)
    (hd : (s.port p).aneg.getLsbD 4 = true) : Does (.linkAttemptFail p) s [.portA, .portB, .cnt] fun t =>
      t.port (otherPort p) = s.port (otherPort p) ∧
      ((s.port p).attempts < 2 → t.port p = { s.port p with attempts := (s.port p).attempts + 1 } ∧ t.cnt = s.cnt) ∧
      (2 ≤ (s.port p).attempts → (t.port p).withheld = (s.port p).withheld ||| modeBit (s.port p).resolved ∧
        (t.port p).resolved = .none) := by
  have hexec := exec_linkAttemptFail p s
  unfold execLinkAttemptFail at hexec
  dsimp only at hexec
  rw [if_neg (by simp [hup, hl, hr, bit, hd])] at hexec
  by_cases ha : (s.port p).attempts < 2
  · rw [if_pos ha] at hexec
    refine ((State.onPort_touch p _ s).after (Touch.refl _ s) rfl).does hexec
      ⟨State.port_onPort_ne _ _ (otherPort_ne_self p), fun _ => ⟨State.port_onPort .., (State.onPort_touch ..).cnt_eq⟩, fun h => ?_⟩
    omega
  · rw [if_neg ha] at hexec
    refine ((State.onPort_touch p _ _).after ((State.bumpBy_touch ..).after (Touch.refl _ s) rfl) rfl).does hexec
      ⟨?_, fun h => absurd h ha, fun _ => ?_⟩
    · exact (State.port_onPort_ne _ _ (otherPort_ne_self p)).trans (State.port_bumpBy ..)
    · have hp : (s.bumpPort p 21).port p = s.port p := State.port_bumpBy ..
      rw [State.port_onPort, ← hp]
      exact ⟨rfl, rfl⟩

/-! NETx_ANEG (R142, R143). -/

theorem linkLost_negotiates (s : State) : ((linkLost p s).port p).aneg = (s.port p).aneg ∧ ((linkLost p s).port p).resolved = .none ∧
    ((s.port p).withheld = 0 → ((linkLost p s).port p).withheld = 0) := by
  by_cases hl : (s.port p).link = true
  · have hport (t : State) : (pathLinkLost p t).port p = t.port p := (pathLinkLost_touch p t).port_eq p
    unfold linkLost
    extract_lets r n s1
    have hs1 : s1.port p = s.port p := (State.port_bumpBy ..).trans (State.port_bumpBy ..)
    rw [if_neg (by simp [r, hl]), hport, State.port_raise, State.port_onPort, hs1]
    exact ⟨rfl, rfl, fun _ => rfl⟩
  · unfold linkLost
    extract_lets r n s1
    rw [if_pos (by simp [r, hl]), State.port_onPort]
    exact ⟨rfl, rfl, id⟩

theorem writeAneg_keeps {v : Word} (hr : v.getLsbD 16 = false) (hsame : ((s.port p).aneg ^^^ v) &&& 0x307 = 0) :
    writeAneg p v s = s.onPort p fun r => { r with aneg := v &&& 0x317, withheld := 0, attempts := 0 } := by
  unfold writeAneg
  extract_lets r again s1
  exact if_neg (by rw [show again = (bit v 16 || (r.aneg ^^^ v) &&& 0x307 != 0) from rfl, bit, hr, hsame]; decide)

theorem writeAneg_drops {v : Word} (h : v.getLsbD 16 = true ∨ ((s.port p).aneg ^^^ v) &&& 0x307 ≠ 0) :
    Touch [.pages, .portA, .portB, .path, .cnt] s (writeAneg p v s) ∧ ((writeAneg p v s).port p).aneg = v &&& 0x317 ∧
    ((writeAneg p v s).port p).link = false ∧ ((writeAneg p v s).port p).resolved = .none ∧
    ((writeAneg p v s).port p).withheld = 0 ∧ (writeAneg p v s).port (otherPort p) = s.port (otherPort p) := by
  have hport := State.port_onPort p (fun r => { r with aneg := v &&& 0x317, withheld := 0, attempts := 0 }) s
  have hother : (s.onPort p fun r => { r with aneg := v &&& 0x317, withheld := 0, attempts := 0 }).port (otherPort p) =
    s.port (otherPort p) := State.port_onPort_ne _ _ (otherPort_ne_self p)
  have htouch : Touch [.portA, .portB] s (s.onPort p fun r => { r with aneg := v &&& 0x317, withheld := 0, attempts := 0 }) :=
    State.onPort_touch ..
  unfold writeAneg
  extract_lets r again s1
  have hagain : again = true := by
    rcases h with h | h
    · exact Bool.or_eq_true_iff.2 (.inl h)
    · exact Bool.or_eq_true_iff.2 (.inr (bne_iff_ne.2 h))
  rw [if_pos hagain]
  change s1.port p = _ at hport
  change s1.port (otherPort p) = _ at hother
  change Touch _ s s1 at htouch
  generalize s1 = u at hport hother htouch ⊢
  obtain ⟨haneg, hres, hwith⟩ := linkLost_negotiates (p := p) u
  refine ⟨(linkLost_touch p u).after (htouch.after (Touch.refl _ s) rfl) rfl, ?_, linkLost_link p u, hres, hwith ?_, ?_⟩
  · rw [haneg, hport]
  · rw [hport]
  · rw [linkLost_other (otherPort_ne_self p), hother]

end

/-- Settles O27: each command is a change of one port, but for link up, which may announce the address on it, and link down, which
counts and tells the path. -/
theorem linkCommands : Obligations.LinkCommands := by
  unfold Obligations.LinkCommands
  intro s p hup
  have hblock {b : Nat} (h : 3 ≤ s.chip.stage.toNat) (eff : State → State) : writeIn b eff s = eff s :=
    writeIn_open (blockOpen_of_stage h b) eff
  refine ⟨fun partner lpPause multi seed hl => anegComplete_resolves hup hl partner lpPause multi seed, anegComplete_idle,
    fun mdix s01 s23 pol hl hr => linkUp_does hup hl hr mdix s01 s23 pol, linkDown_does, fun hl => ?_, linkAttemptFail_does hup,
    fun v hst hr => ⟨fun hsame => ?_, fun hne => ?_⟩, fun v hst hr => ?_, fun hp => ?_, fun hp => ?_, ?_, rfl, fun hd => ?_, ?_⟩
  · rw [exec_linkDown, execLinkDown, if_neg (by simp [hl])]
  · exact does_onPort (by rw [exec_anegWrite, execAnegWrite, hblock hst, writeAneg_keeps hr hsame]) fun t hp ho => ⟨hp, ho⟩
  · obtain ⟨htouch, haneg, hlink, hres, -, hother⟩ := writeAneg_drops (p := p) (s := s) (v := v) (.inr hne)
    exact htouch.does (by rw [exec_anegWrite, execAnegWrite, hblock hst]) ⟨haneg, hlink, hres, hother⟩
  · obtain ⟨htouch, haneg, hlink, -, hwith, hother⟩ := writeAneg_drops (p := p) (s := s) (v := v) (.inl hr)
    exact htouch.does (by rw [exec_anegRestart, execAnegRestart, bit, if_pos hr, hblock hst]) ⟨haneg, hlink, hwith, hother⟩
  · exact does_onPort (by rw [exec_pauseExpiry, execPauseExpiry, if_pos hp]) fun t hp ho => ⟨hp, ho⟩
  · rw [exec_pauseExpiry, execPauseExpiry, if_neg (by omega)]
  · exact does_onPort (exec_ringClosedTimeout p s) fun t hp ho => ⟨hp, ho⟩
  · exact does_onPort (by rw [exec_ledDarkPeriodEnd, execLedDarkPeriodEnd, if_pos hd]) fun t hp ho => ⟨hp, ho⟩
  · exact does_onPort (exec_ledBlinkToggle p s) fun t hp ho => ⟨hp, ho⟩

end Sys2Proof.Machine
end

section
/-! PROOFS. Frames received and pause frames, O28. -/

namespace Sys2Proof.Machine

open Sys2Proof

set_option Elab.async false

/-! Counters of a port, one by one. -/

theorem count_bumpBy_self {i : Nat} (hi : i < 4096) (f n : Nat) (s : State) :
    (s.bumpBy f i n).count f i = min (2 ^ 48 - 1) (s.count f i + n) := by
  rw [counts_bumpBy hi f n s f i hi, if_pos ⟨rfl, rfl⟩]

theorem count_bumpBy_ne {i j : Nat} (hi : i < 4096) (hj : j < 4096) (h : j ≠ i) (f n : Nat) (s : State) :
    (s.bumpBy f i n).count f j = s.count f j := by
  rw [counts_bumpBy hi f n s f j hj, if_neg fun e => h e.2]

section
variable {p : Port} {s : State}

theorem count_bumpPort_self {i : Nat} (hi : i < 4096) (p : Port) (s : State) :
    (s.bumpPort p i).count (portFn p) i = min (2 ^ 48 - 1) (s.count (portFn p) i + 1) := count_bumpBy_self hi _ 1 s

theorem count_bumpPort_ne {i j : Nat} (hi : i < 4096) (hj : j < 4096) (h : j ≠ i) (p : Port) (s : State) :
    (s.bumpPort p i).count (portFn p) j = s.count (portFn p) j := count_bumpBy_ne hi hj h _ 1 s

theorem count_onPort (p : Port) (g : PortSt → PortSt) (s : State) (f j : Nat) : (s.onPort p g).count f j = s.count f j := by
  cases p <;> rfl

theorem Touch.count_eq {ps : List Part} {s t : State} (h : Touch ps s t) (f j : Nat) (hp : ps.contains .cnt = false := by rfl) :
    t.count f j = s.count f j := by rw [State.count, State.count, h.cnt_eq hp]

/-! The lamp that a frame lets flash (R146). -/

/-- The port with its lamp dark. -/
def PortSt.darkened (r : PortSt) : PortSt := { r with ledDark := true }

theorem ledFlash_cases (p : Port) (s : State) : ledFlash p s = s ∨ ledFlash p s = s.onPort p PortSt.darkened := by
  unfold ledFlash
  extract_lets r lit
  split
  · exact .inr rfl
  · exact .inl rfl

theorem ledFlash_rxClass (p : Port) (f : Frame) (s : State) : (ledFlash p s).rxClass p f = s.rxClass p f := by
  rcases ledFlash_cases p s with h | h <;> rw [h]
  cases p <;> rfl

theorem ledFlash_port (p : Port) (s : State) : ((ledFlash p s).port p = s.port p ∨ (ledFlash p s).port p = (s.port p).darkened) ∧
    (ledFlash p s).port (otherPort p) = s.port (otherPort p) := by
  rcases ledFlash_cases p s with h | h <;> rw [h]
  · exact ⟨.inl rfl, rfl⟩
  · exact ⟨.inr (State.port_onPort ..), State.port_onPort_ne _ _ (otherPort_ne_self p)⟩

/-! What a frame's consumer does (R152, R158). -/

/-- The parts of a reception that no consumer changes. -/
structure RxKeeps (p : Port) (u t : State) : Prop where
  octets : t.count (portFn p) 0 = u.count (portFn p) 0
  frames : t.count (portFn p) 1 = u.count (portFn p) 1
  other : t.port (otherPort p) = u.port (otherPort p)
  queues : (t.port p).queues = (u.port p).queues

/-- The port whose last frame went to `k`. -/
def PortSt.gave (k : RxConsumer) (r : PortSt) : PortSt := { r with lastRx := k }

theorem RxKeeps.onPort {u t : State} (h : RxKeeps p u t) {g : PortSt → PortSt} (hg : ∀ r, (g r).queues = r.queues) :
    RxKeeps p u (t.onPort p g) :=
  ⟨(count_onPort ..).trans h.octets, (count_onPort ..).trans h.frames,
    (State.port_onPort_ne _ _ (otherPort_ne_self p)).trans h.other, by rw [State.port_onPort, hg, h.queues]⟩

theorem RxKeeps.bump {u t : State} (h : RxKeeps p u t) {i : Nat} (hi : i < 4096) (hi2 : 2 ≤ i) : RxKeeps p u (t.bumpPort p i) :=
  ⟨(count_bumpPort_ne hi (by omega) (by omega) p t).trans h.octets, (count_bumpPort_ne hi (by omega) (by omega) p t).trans h.frames,
    (State.port_bumpBy ..).trans h.other, (congrArg PortSt.queues (State.port_bumpBy ..)).trans h.queues⟩

theorem RxKeeps.refl (p : Port) (u : State) : RxKeeps p u u := ⟨rfl, rfl, rfl, rfl⟩

/-- A frame that finds no room, or no taker, is counted in counter `i`. -/
theorem refused_does {i : Nat} (hi : i < 4096) (hi2 : 2 ≤ i) (u : State) :
    RxKeeps p u ((u.bumpPort p i).onPort p (PortSt.gave .none)) ∧
    ((u.bumpPort p i).onPort p (PortSt.gave .none)).port p = (u.port p).gave .none ∧
    ((u.bumpPort p i).onPort p (PortSt.gave .none)).count (portFn p) i = min (2 ^ 48 - 1) (u.count (portFn p) i + 1) := by
  refine ⟨((RxKeeps.refl p u).bump hi hi2).onPort fun _ => rfl, ?_, (count_onPort ..).trans (count_bumpPort_self hi p u)⟩
  rw [State.port_onPort]
  exact congrArg (PortSt.gave .none) (State.port_bumpBy ..)

/-- What consumer class `c` makes of frame `f` in state `u`. -/
def consumed (p : Port) (f : Frame) (c : Nat) (u : State) : State :=
  if c = 1 then (if f.macOpcode = 1 then u else u.bumpPort p 10).onPort p (PortSt.gave .mac)
  else if c = 2 ∨ c = 3 then (u.bumpPort p 11).onPort p (PortSt.gave .none)
  else if c = 4 then takeTiming p f u
  else if c = 5 ∨ c = 8 then takeService p f u
  else if c = 6 ∨ c = 7 then takePath p f u
  else (u.bumpPort p 12).onPort p (PortSt.gave .none)

theorem consumed_keeps (p : Port) (f : Frame) (c : Nat) (u : State) : RxKeeps p u (consumed p f c u) := by
  have hnone (i : Nat) (hi : i < 4096) (hi2 : 2 ≤ i) := (refused_does (p := p) hi hi2 u).1
  unfold consumed
  split
  · split
    · exact (RxKeeps.refl p u).onPort fun _ => rfl
    · exact ((RxKeeps.refl p u).bump (by decide) (by decide)).onPort fun _ => rfl
  split
  · exact hnone 11 (by decide) (by decide)
  split
  · unfold takeTiming
    split
    · exact hnone 13 (by decide) (by decide)
    · exact (RxKeeps.refl p u).onPort fun _ => rfl
  split
  · unfold takeService
    extract_lets r
    split
    · exact hnone 13 (by decide) (by decide)
    · exact (RxKeeps.refl p u).onPort fun _ => rfl
  split
  · unfold takePath
    split
    · exact hnone 13 (by decide) (by decide)
    · exact (RxKeeps.refl p u).onPort fun _ => rfl
  · exact hnone 12 (by decide) (by decide)

theorem consumed_mac (f : Frame) (u : State) : ((consumed p f 1 u).port p).lastRx = .mac := by
  rw [consumed, if_pos rfl, State.port_onPort]
  rfl

theorem consumed_filtered (f : Frame) {c : Nat} (hc : c = 2 ∨ c = 3) (u : State) :
    ((consumed p f c u).port p).lastRx = .none ∧
    (consumed p f c u).count (portFn p) 11 = min (2 ^ 48 - 1) (u.count (portFn p) 11 + 1) := by
  obtain ⟨-, hport, hcount⟩ := refused_does (p := p) (i := 11) (by decide) (by decide) u
  rw [consumed, if_neg (by omega), if_pos hc, hport]
  exact ⟨rfl, hcount⟩

theorem consumed_timing {f : Frame} {u : State} (h : (u.port p).timeBuf = 0 ∨ (u.port p).timeBuf + f.len ≤ Config.timingBuffer) :
    ((consumed p f 4 u).port p).lastRx = .timing := by
  have hroom : ¬ ((u.port p).timeBuf ≠ 0 ∧ Config.timingBuffer < (u.port p).timeBuf + f.len) := by
    rintro ⟨h0, hlt⟩
    rcases h with h | h
    · exact h0 h
    · exact absurd hlt (not_lt.2 h)
  rw [consumed, if_neg (by decide), if_neg (by decide), if_pos rfl, takeTiming, if_neg hroom, State.port_onPort]

theorem consumed_service {f : Frame} {c : Nat} (hc : c = 5 ∨ c = 8) (u : State) : consumed p f c u = takeService p f u := by
  rw [consumed, if_neg (by omega), if_neg (by omega), if_neg (by omega), if_pos hc]

theorem takeService_room {f : Frame} {u : State} (hlen : (u.port p).svcBuf + f.len ≤ 65536)
    (h : svcHigh (u.port p).rxPcp f = true ∨ (u.port p).svcBuf ≤ 49152) : ((takeService p f u).port p).lastRx = .service := by
  unfold takeService
  extract_lets r
  have hroom : ¬ (65536 < r.svcBuf + f.len ∨ (!svcHigh r.rxPcp f) = true ∧ 49152 < r.svcBuf) := by
    rintro (hlt | ⟨hlow, hlt⟩)
    · exact absurd hlen (not_le.2 hlt)
    · rcases h with h | h
      · rw [show svcHigh r.rxPcp f = true from h] at hlow
        exact absurd hlow (by decide)
      · exact absurd h (not_le.2 hlt)
  rw [if_neg hroom, State.port_onPort]

theorem takeService_low {f : Frame} {u : State} (hlow : svcHigh (u.port p).rxPcp f = false) (hlt : 49152 < (u.port p).svcBuf) :
    ((takeService p f u).port p).lastRx = .none ∧ ((takeService p f u).port p).svcBuf = (u.port p).svcBuf ∧
    (takeService p f u).count (portFn p) 13 = min (2 ^ 48 - 1) (u.count (portFn p) 13 + 1) := by
  obtain ⟨-, hport, hcount⟩ := refused_does (p := p) (i := 13) (by decide) (by decide) u
  have heq : takeService p f u = (u.bumpPort p 13).onPort p (PortSt.gave .none) := by
    unfold takeService
    extract_lets r
    exact if_pos (.inr ⟨by rw [show svcHigh r.rxPcp f = false from hlow]; rfl, hlt⟩)
  rw [heq, hport]
  exact ⟨rfl, rfl, hcount⟩

theorem consumed_path {f : Frame} {c : Nat} {u : State} (hc : c = 6 ∨ c = 7)
    (h : (u.port p).pathBuf = 0 ∨ (u.port p).pathBuf + f.len ≤ Config.pathBuffer) :
    ((consumed p f c u).port p).lastRx = .path := by
  have hroom : ¬ ((u.port p).pathBuf ≠ 0 ∧ Config.pathBuffer < (u.port p).pathBuf + f.len) := by
    rintro ⟨h0, hlt⟩
    rcases h with h | h
    · exact h0 h
    · exact absurd hlt (not_lt.2 h)
  rw [consumed, if_neg (by omega), if_neg (by omega), if_neg (by omega), if_neg (by omega), if_pos hc, takePath, if_neg hroom,
    State.port_onPort]

theorem consumed_unknown (f : Frame) (u : State) : ((consumed p f 9 u).port p).lastRx = .none ∧
    (consumed p f 9 u).count (portFn p) 12 = min (2 ^ 48 - 1) (u.count (portFn p) 12 + 1) := by
  obtain ⟨-, hport, hcount⟩ := refused_does (p := p) (i := 12) (by decide) (by decide) u
  rw [consumed, if_neg (by decide), if_neg (by decide), if_neg (by decide), if_neg (by decide), if_neg (by decide), hport]
  exact ⟨rfl, hcount⟩

/-! A good frame (R150, R152). -/

/-- The counts of a good frame's octets and kind. -/
def countGood (p : Port) (f : Frame) (s : State) : State :=
  if isBroadcast f.dst then ((s.bumpBy (portFn p) 0 f.len).bumpPort p 1).bumpPort p 2
  else if isGroup f.dst then ((s.bumpBy (portFn p) 0 f.len).bumpPort p 1).bumpPort p 3
  else (s.bumpBy (portFn p) 0 f.len).bumpPort p 1

theorem countGood_touch (p : Port) (f : Frame) (s : State) : Touch [.cnt] s (countGood p f s) := by
  have h : Touch [.cnt] s ((s.bumpBy (portFn p) 0 f.len).bumpPort p 1) :=
    (State.bumpBy_touch ..).after ((State.bumpBy_touch ..).after (Touch.refl _ s) rfl) rfl
  unfold countGood
  split
  · exact (State.bumpBy_touch ..).after h rfl
  split
  · exact (State.bumpBy_touch ..).after h rfl
  · exact h

theorem countGood_octets (p : Port) (f : Frame) (s : State) :
    (countGood p f s).count (portFn p) 0 = min (2 ^ 48 - 1) (s.count (portFn p) 0 + f.len) ∧
    (countGood p f s).count (portFn p) 1 = min (2 ^ 48 - 1) (s.count (portFn p) 1 + 1) ∧
    ∀ j, 4 ≤ j → j < 4096 → (countGood p f s).count (portFn p) j = s.count (portFn p) j := by
  have h (j : Nat) (hj : j < 4096) (h2 : j ≠ 2) (h3 : j ≠ 3) : (countGood p f s).count (portFn p) j =
      ((s.bumpBy (portFn p) 0 f.len).bumpPort p 1).count (portFn p) j := by
    unfold countGood
    split
    · exact count_bumpPort_ne (by decide) hj h2 _ _
    split
    · exact count_bumpPort_ne (by decide) hj h3 _ _
    · rfl
  refine ⟨?_, ?_, fun j h4 hj => ?_⟩
  · rw [h 0 (by decide) (by decide) (by decide), count_bumpPort_ne (by decide) (by decide) (by decide), count_bumpBy_self (by decide)]
  · rw [h 1 (by decide) (by decide) (by decide), count_bumpPort_self (by decide), count_bumpBy_ne (by decide) (by decide) (by decide)]
  · rw [h j hj (by omega) (by omega), count_bumpPort_ne (by decide) hj (by omega), count_bumpBy_ne (by decide) hj (by omega)]

theorem deliver_eq (p : Port) (f : Frame) (s : State) :
    deliver p f s = consumed p f ((countGood p f s).rxClass p f) (countGood p f s) := rfl

theorem rxClass_countGood (p : Port) (f : Frame) (s : State) : (countGood p f s).rxClass p f = s.rxClass p f := by
  unfold countGood
  split
  · rfl
  split <;> rfl

end

end Sys2Proof.Machine
end

section
/-! PROOFS. Frames received and pause frames, O28: the order of R150, and the statement. -/

namespace Sys2Proof.Machine

open Sys2Proof

set_option Elab.async false

section
variable {p : Port} {s : State} {f : Frame}

theorem ledFlash_count (p : Port) (s : State) (j : Nat) : (ledFlash p s).count (portFn p) j = s.count (portFn p) j :=
  (ledFlash_touch p s).count_eq _ _

/-- The parts of a port that its lamp does not show. -/
theorem ledFlash_fields (p : Port) (s : State) : ((ledFlash p s).port p).queues = (s.port p).queues ∧
    ((ledFlash p s).port p).lastRx = (s.port p).lastRx ∧ ((ledFlash p s).port p).svcBuf = (s.port p).svcBuf ∧
    ((ledFlash p s).port p).timeBuf = (s.port p).timeBuf ∧ ((ledFlash p s).port p).pathBuf = (s.port p).pathBuf ∧
    ((ledFlash p s).port p).rxPcp = (s.port p).rxPcp := by
  rcases (ledFlash_port p s).1 with h | h <;> rw [h] <;> exact ⟨rfl, rfl, rfl, rfl, rfl, rfl⟩

theorem exec_frameReceive_now (hc : s.carries p = true) (hh : (s.port p).hold = none) :
    exec (.frameReceive p f) s = .next (receiveNow p f s) := by
  rw [exec_frameReceive, execFrameReceive, if_pos hc, receive, underHold, hh]

/-! The order in which a frame is judged (R150). -/

theorem rxOrder_good {lim : Nat} (hs : f.symErr = false) (hmin : 64 ≤ f.len) (hmax : f.len ≤ lim) (hf : f.fcs = .good) :
    rxOrder lim f = 6 := by
  unfold rxOrder
  rw [if_neg (by simp [hs]), if_neg (by omega), if_neg (by omega), hf]
  rfl

theorem rxOrder_short {lim : Nat} (hs : f.symErr = false) (h : f.len < 64) : rxOrder lim f = if f.fcs == .good then 2 else 3 := by
  unfold rxOrder
  rw [if_neg (by simp [hs]), if_pos h]

theorem rxOrder_long {lim : Nat} (hs : f.symErr = false) (hmin : 64 ≤ f.len) (h : lim < f.len) : rxOrder lim f = 4 := by
  unfold rxOrder
  rw [if_neg (by simp [hs]), if_neg (by omega), if_pos h]

theorem rxOrder_fcs {lim : Nat} (hs : f.symErr = false) (hmin : 64 ≤ f.len) (hmax : f.len ≤ lim) (hf : f.fcs ≠ .good) :
    rxOrder lim f = 5 := by
  unfold rxOrder
  rw [if_neg (by simp [hs]), if_neg (by omega), if_neg (by omega), if_neg (by simp [hf])]

theorem receiveNow_good (h : rxOrder (s.maxLen p) f = 6) (hmin : 64 ≤ f.len) : receiveNow p f s =
    if s.strips f = true then (strip p f true (countGood p f (ledFlash p s))).onPort p (PortSt.gave .none)
    else consumed p f (s.rxClass p f) (countGood p f (ledFlash p s)) := by
  have hclass : (countGood p f (ledFlash p s)).rxClass p f = s.rxClass p f := by rw [rxClass_countGood, ledFlash_rxClass]
  unfold receiveNow
  extract_lets o s0 gone
  have ho : o = 6 := h
  have hgone : gone = s.strips f := by simp [gone, hmin]
  rw [ho, if_neg (by decide), if_neg (by decide), if_neg (by decide), if_neg (by decide), if_neg (by decide), hgone, deliver_eq, hclass]
  rfl

theorem frameReceive_good (hc : s.carries p = true) (hh : (s.port p).hold = none) (hs : f.symErr = false) (hmin : 64 ≤ f.len)
    (hmax : f.len ≤ s.maxLen p) (hf : f.fcs = .good) (hstrip : s.strips f = false) :
    Does (.frameReceive p f) s [.portA, .portB, .cnt] fun t =>
      t.count (portFn p) 0 = min (2 ^ 48 - 1) (s.count (portFn p) 0 + f.len) ∧
      t.count (portFn p) 1 = min (2 ^ 48 - 1) (s.count (portFn p) 1 + 1) ∧
      t.port (otherPort p) = s.port (otherPort p) ∧ (t.port p).queues = (s.port p).queues ∧
      (s.rxClass p f = 1 → (t.port p).lastRx = .mac) ∧
      (s.rxClass p f = 2 ∨ s.rxClass p f = 3 → (t.port p).lastRx = .none ∧ t.count (portFn p) 11 = min (2 ^ 48 - 1) (s.count (portFn p) 11 + 1)) ∧
      (s.rxClass p f = 4 → (s.port p).timeBuf = 0 ∨ (s.port p).timeBuf + f.len ≤ Config.timingBuffer → (t.port p).lastRx = .timing) ∧
      (s.rxClass p f = 5 ∨ s.rxClass p f = 8 → (s.port p).svcBuf + f.len ≤ 65536 →
        svcHigh (s.port p).rxPcp f = true ∨ (s.port p).svcBuf ≤ 49152 → (t.port p).lastRx = .service) ∧
      (s.rxClass p f = 5 ∨ s.rxClass p f = 8 → svcHigh (s.port p).rxPcp f = false → 49152 < (s.port p).svcBuf →
        (t.port p).lastRx = .none ∧ (t.port p).svcBuf = (s.port p).svcBuf ∧ t.count (portFn p) 13 = min (2 ^ 48 - 1) (s.count (portFn p) 13 + 1)) ∧
      (s.rxClass p f = 6 ∨ s.rxClass p f = 7 → (s.port p).pathBuf = 0 ∨ (s.port p).pathBuf + f.len ≤ Config.pathBuffer → (t.port p).lastRx = .path) ∧
      (s.rxClass p f = 9 → (t.port p).lastRx = .none ∧ t.count (portFn p) 12 = min (2 ^ 48 - 1) (s.count (portFn p) 12 + 1)) := by
  have hnow := exec_frameReceive_now (f := f) hc hh
  rw [receiveNow_good (rxOrder_good hs hmin hmax hf) hmin, if_neg (by simp [hstrip])] at hnow
  have htouch : Touch [.portA, .portB, .cnt] s (countGood p f (ledFlash p s)) :=
    (countGood_touch ..).after ((ledFlash_touch ..).after (Touch.refl _ s) rfl) rfl
  have hport (k : Port) : (countGood p f (ledFlash p s)).port k = (ledFlash p s).port k := (countGood_touch ..).port_eq k
  obtain ⟨hoctets, hframes, hcounts⟩ := countGood_octets p f (ledFlash p s)
  obtain ⟨hqueues, -, hsvc, htime, hpath, hpcp⟩ := ledFlash_fields p s
  obtain ⟨-, hother⟩ := ledFlash_port p s
  simp only [ledFlash_count] at hoctets hframes hcounts
  rw [← hport] at hqueues hsvc htime hpath hpcp hother
  generalize countGood p f (ledFlash p s) = u at hnow htouch hoctets hframes hcounts hqueues hsvc htime hpath hpcp hother
  have hconsumed : Touch [.portA, .portB, .cnt] u (consumed p f (s.rxClass p f) u) := by
    unfold consumed
    have hgave (k : RxConsumer) {t : State} (h : Touch [.portA, .portB, .cnt] u t) :
        Touch [.portA, .portB, .cnt] u (t.onPort p (PortSt.gave k)) := (State.onPort_touch ..).after h rfl
    have hbump (i : Nat) : Touch [.portA, .portB, .cnt] u (u.bumpPort p i) := (State.bumpBy_touch ..).after (Touch.refl _ u) rfl
    split
    · split
      · exact hgave _ (Touch.refl _ u)
      · exact hgave _ (hbump 10)
    split
    · exact hgave _ (hbump 11)
    split
    · exact takeTiming_touch ..
    split
    · exact takeService_touch ..
    split
    · exact takePath_touch ..
    · exact hgave _ (hbump 12)
  have hkeeps := consumed_keeps p f (s.rxClass p f) u
  refine (hconsumed.after htouch rfl).does hnow ⟨hkeeps.octets.trans hoctets, hkeeps.frames.trans hframes, hkeeps.other.trans hother,
    hkeeps.queues.trans hqueues, fun h => ?_, fun h => ?_, fun h hroom => ?_, fun h hlen hroom => ?_, fun h hlow hfull => ?_,
    fun h hroom => ?_, fun h => ?_⟩
  · rw [h]
    exact consumed_mac f u
  · obtain ⟨hlast, hcount⟩ := consumed_filtered (p := p) f h u
    exact ⟨hlast, by rw [hcount, hcounts 11 (by decide) (by decide)]⟩
  · rw [h]
    exact consumed_timing (by rw [htime]; exact hroom)
  · rw [consumed_service h]
    exact takeService_room (by rw [hsvc]; exact hlen) (by rw [hpcp, hsvc]; exact hroom)
  · obtain ⟨hlast, hbuf, hcount⟩ := takeService_low (p := p) (f := f) (u := u) (by rw [hpcp]; exact hlow) (by rw [hsvc]; exact hfull)
    rw [consumed_service h]
    exact ⟨hlast, hbuf.trans hsvc, by rw [hcount, hcounts 13 (by decide) (by decide)]⟩
  · exact consumed_path h (by rw [hpath]; exact hroom)
  · rw [h]
    obtain ⟨hlast, hcount⟩ := consumed_unknown (p := p) f u
    exact ⟨hlast, by rw [hcount, hcounts 12 (by decide) (by decide)]⟩

/-! A frame that this node strips (R154). -/

theorem strip_does (p : Port) (f : Frame) (good : Bool) (u : State) : ((strip p f good u).port p).svcBuf = (u.port p).svcBuf ∧
    (strip p f good u).count (portFn p) 36 = min (2 ^ 48 - 1) (u.count (portFn p) 36 + 1) := by
  have h36 : (u.bumpPath p 6).count (portFn p) 36 = min (2 ^ 48 - 1) (u.count (portFn p) 36 + 1) := count_bumpBy_self (by decide) _ 1 u
  have hreturn (seq : BitVec 16) (v : State) : ((ringReturn p seq v).port p).svcBuf = (v.port p).svcBuf ∧
      (ringReturn p seq v).count (portFn p) 36 = v.count (portFn p) 36 := by
    unfold ringReturn
    extract_lets l g s1
    rw [State.port_onPort, count_onPort]
    dsimp only [s1]
    split
    · exact ⟨congrArg PortSt.svcBuf (State.port_bumpBy ..), count_bumpBy_ne (by decide) (by decide) (by decide) _ _ _⟩
    · exact ⟨rfl, rfl⟩
  unfold strip
  extract_lets s1 s2
  have hs2 : (s2.port p).svcBuf = (u.port p).svcBuf ∧ s2.count (portFn p) 36 = min (2 ^ 48 - 1) (u.count (portFn p) 36 + 1) := by
    dsimp only [s2]
    split
    · exact ⟨congrArg PortSt.svcBuf (State.port_bumpBy ..), h36⟩
    · rw [(State.logEntry_touch ..).port_eq, (State.logEntry_touch ..).count_eq, ← h36]
      exact ⟨congrArg PortSt.svcBuf ((State.port_bumpBy ..).trans (State.port_bumpBy ..)), count_bumpBy_ne (by decide) (by decide) (by decide) _ _ _⟩
  split
  · split
    · obtain ⟨hbuf, hcount⟩ := hreturn ‹RingTag›.seq s2
      exact ⟨hbuf.trans hs2.1, hcount.trans hs2.2⟩
    · exact hs2
  · exact hs2

theorem frameReceive_stripped (hc : s.carries p = true) (hh : (s.port p).hold = none) (hs : f.symErr = false) (hmin : 64 ≤ f.len)
    (hmax : f.len ≤ s.maxLen p) (hf : f.fcs = .good) (hstrip : s.strips f = true) :
    Does (.frameReceive p f) s [.pages, .portA, .portB, .cnt, .log] fun t =>
      (t.port p).lastRx = .none ∧ (t.port p).svcBuf = (s.port p).svcBuf ∧
      t.count (portFn p) 36 = min (2 ^ 48 - 1) (s.count (portFn p) 36 + 1) := by
  have hnow := exec_frameReceive_now (f := f) hc hh
  rw [receiveNow_good (rxOrder_good hs hmin hmax hf) hmin, if_pos hstrip] at hnow
  have htouch : Touch [.portA, .portB, .cnt] s (countGood p f (ledFlash p s)) :=
    (countGood_touch ..).after ((ledFlash_touch ..).after (Touch.refl _ s) rfl) rfl
  obtain ⟨hbuf, hcount⟩ := strip_does p f true (countGood p f (ledFlash p s))
  obtain ⟨-, -, hcounts⟩ := countGood_octets p f (ledFlash p s)
  obtain ⟨-, -, hsvc, -, -, -⟩ := ledFlash_fields p s
  have hport := (countGood_touch p f (ledFlash p s)).port_eq p
  refine ((State.onPort_touch ..).after ((strip_touch ..).after (htouch.after (Touch.refl _ s) rfl) rfl) rfl).does hnow ⟨?_, ?_, ?_⟩
  · rw [State.port_onPort]
    rfl
  · rw [State.port_onPort]
    exact hbuf.trans ((congrArg PortSt.svcBuf hport).trans hsvc)
  · rw [count_onPort, hcount, hcounts 36 (by decide) (by decide), ledFlash_count]

/-! Frames that are bad (R150). -/

theorem frameReceive_short (hc : s.carries p = true) (hh : (s.port p).hold = none) (hs : f.symErr = false) (h : f.len < 64) :
    Does (.frameReceive p f) s [.portA, .portB, .cnt] fun t =>
      (f.fcs = .good → t.count (portFn p) 4 = min (2 ^ 48 - 1) (s.count (portFn p) 4 + 1)) ∧
      (f.fcs ≠ .good → t.count (portFn p) 5 = min (2 ^ 48 - 1) (s.count (portFn p) 5 + 1)) ∧
      (t.port p).lastRx = (s.port p).lastRx ∧ (t.port p).svcBuf = (s.port p).svcBuf := by
  obtain ⟨-, hlast, hsvc, -, -, -⟩ := ledFlash_fields p s
  have hport (i : Nat) : ((ledFlash p s).bumpPort p i).port p = (ledFlash p s).port p := State.port_bumpBy ..
  have htouch (i : Nat) : Touch [.portA, .portB, .cnt] s ((ledFlash p s).bumpPort p i) :=
    (State.bumpBy_touch ..).after ((ledFlash_touch ..).after (Touch.refl _ s) rfl) rfl
  have hnow := exec_frameReceive_now (f := f) hc hh
  by_cases hf : f.fcs = .good
  · have ho : rxOrder (s.maxLen p) f = 2 := by rw [rxOrder_short hs h, if_pos (by simp [hf])]
    have heq : receiveNow p f s = (ledFlash p s).bumpPort p 4 := by
      unfold receiveNow
      extract_lets o s0 gone
      rw [show o = 2 from ho, if_neg (by decide), if_pos rfl]
    rw [heq] at hnow
    refine (htouch 4).does hnow ⟨fun _ => ?_, fun hb => absurd hf hb, by rw [hport, hlast], by rw [hport, hsvc]⟩
    rw [count_bumpPort_self (by decide), ledFlash_count]
  · have ho : rxOrder (s.maxLen p) f = 3 := by rw [rxOrder_short hs h, if_neg (by simp [hf])]
    have heq : receiveNow p f s = (ledFlash p s).bumpPort p 5 := by
      unfold receiveNow
      extract_lets o s0 gone
      rw [show o = 3 from ho, if_neg (by decide), if_neg (by decide), if_pos rfl]
    rw [heq] at hnow
    refine (htouch 5).does hnow ⟨fun hg => absurd hg hf, fun _ => ?_, by rw [hport, hlast], by rw [hport, hsvc]⟩
    rw [count_bumpPort_self (by decide), ledFlash_count]

/-- A bad frame counted in counter `i` alone of those that R150 orders. -/
structure RxBad (p : Port) (i : Nat) (s t : State) : Prop where
  touch : Touch [.portA, .portB, .path, .cnt] s t
  last : (t.port p).lastRx = (s.port p).lastRx
  buf : (t.port p).svcBuf = (s.port p).svcBuf
  frames : t.count (portFn p) 1 = s.count (portFn p) 1
  counted : t.count (portFn p) i = min (2 ^ 48 - 1) (s.count (portFn p) i + 1)

theorem rxBad_errEvent {i : Nat} (h2 : 2 ≤ i) (hi : i < 30) (s : State) : RxBad p i s (errEvent p ((ledFlash p s).bumpPort p i)) := by
  obtain ⟨-, hlast, hsvc, -, -, -⟩ := ledFlash_fields p s
  have hport : (errEvent p ((ledFlash p s).bumpPort p i)).port p = (ledFlash p s).port p :=
    ((errEvent_touch ..).port_eq p).trans (State.port_bumpBy ..)
  have hcount (j : Nat) (hj : j < 30) : (errEvent p ((ledFlash p s).bumpPort p i)).count (portFn p) j =
      ((ledFlash p s).bumpPort p i).count (portFn p) j :=
    count_bumpBy_ne (i := 40) (by decide) (by omega) (by omega) (portFn p) 1 _
  refine ⟨(errEvent_touch ..).after ((State.bumpBy_touch ..).after ((ledFlash_touch ..).after (Touch.refl _ s) rfl) rfl) rfl,
    by rw [hport, hlast], by rw [hport, hsvc], ?_, ?_⟩
  · rw [hcount 1 (by decide), count_bumpPort_ne (by omega) (by decide) (by omega), ledFlash_count]
  · rw [hcount i hi, count_bumpPort_self (by omega), ledFlash_count]

theorem RxBad.bumpPath {i k : Nat} {t : State} (h : RxBad p i s t) (hi : i < 30) (hk : k < 64) : RxBad p i s (t.bumpPath p k) := by
  have hport : (t.bumpPath p k).port p = t.port p := State.port_bumpBy ..
  have hcount (j : Nat) (hj : j < 30) : (t.bumpPath p k).count (portFn p) j = t.count (portFn p) j :=
    count_bumpBy_ne (i := 30 + k) (by omega) (by omega) (by omega) (portFn p) 1 t
  exact ⟨(State.bumpBy_touch ..).after h.touch rfl, by rw [hport, h.last], by rw [hport, h.buf], (hcount 1 (by decide)).trans h.frames,
    (hcount i hi).trans h.counted⟩

theorem receiveNow_bad (hstrip : s.strips f = false) :
    (f.symErr = true → RxBad p 8 s (receiveNow p f s)) ∧
    (f.symErr = false → 64 ≤ f.len → s.maxLen p < f.len → RxBad p 6 s (receiveNow p f s)) ∧
    (f.symErr = false → 64 ≤ f.len → f.len ≤ s.maxLen p → f.fcs ≠ .good → RxBad p 7 s (receiveNow p f s)) := by
  unfold receiveNow
  extract_lets o s0 gone sErr sLong sFcs sCut sGood sKind
  have hgone : gone = false := by simp [gone, hstrip]
  rw [hgone]
  refine ⟨fun hs => ?_, fun hs hmin hlong => ?_, fun hs hmin hmax hf => ?_⟩
  · have ho : o = 1 := by
      dsimp only [o, rxOrder]
      exact if_pos hs
    rw [ho]
    exact rxBad_errEvent (by decide) (by decide) s
  · rw [show o = 4 from rxOrder_long hs hmin hlong]
    exact rxBad_errEvent (by decide) (by decide) s
  · rw [show o = 5 from rxOrder_fcs hs hmin hmax hf]
    have herr : RxBad p 7 s sFcs := rxBad_errEvent (by decide) (by decide) s
    have hcut : RxBad p 7 s sCut := by
      dsimp only [sCut]
      split
      · exact herr.bumpPath (by decide) (by decide)
      · exact herr
    exact hcut

theorem frameReceive_bad (hc : s.carries p = true) (hh : (s.port p).hold = none)
    (hbad : f.symErr = true ∨ s.maxLen p < f.len ∨ (64 ≤ f.len ∧ f.fcs ≠ .good)) (hstrip : s.strips f = false) (hmin : 64 ≤ f.len) :
    Does (.frameReceive p f) s [.portA, .portB, .path, .cnt] fun t =>
      (t.port p).lastRx = (s.port p).lastRx ∧ (t.port p).svcBuf = (s.port p).svcBuf ∧ t.count (portFn p) 1 = s.count (portFn p) 1 ∧
      (f.symErr = true → t.count (portFn p) 8 = min (2 ^ 48 - 1) (s.count (portFn p) 8 + 1)) ∧
      (f.symErr = false → s.maxLen p < f.len → t.count (portFn p) 6 = min (2 ^ 48 - 1) (s.count (portFn p) 6 + 1)) ∧
      (f.symErr = false → f.len ≤ s.maxLen p → t.count (portFn p) 7 = min (2 ^ 48 - 1) (s.count (portFn p) 7 + 1)) := by
  have hnow := exec_frameReceive_now (f := f) hc hh
  obtain ⟨hsym, hlong, hfcs⟩ := receiveNow_bad (p := p) hstrip
  generalize receiveNow p f s = t at hnow hsym hlong hfcs
  cases hs : f.symErr with
  | true =>
    have h := hsym hs
    exact h.touch.does hnow ⟨h.last, h.buf, h.frames, fun _ => h.counted, by simp, by simp⟩
  | false =>
    by_cases hlen : s.maxLen p < f.len
    · have h := hlong hs hmin hlen
      exact h.touch.does hnow ⟨h.last, h.buf, h.frames, by simp, fun _ _ => h.counted, fun _ hle => absurd hlen (not_lt.2 hle)⟩
    · have hf : f.fcs ≠ .good := by
        rcases hbad with hb | hb | hb
        · rw [hs] at hb
          exact absurd hb Bool.false_ne_true
        · exact absurd hb hlen
        · exact hb.2
      have h := hfcs hs hmin (not_lt.1 hlen) hf
      exact h.touch.does hnow ⟨h.last, h.buf, h.frames, by simp, fun _ hlt => absurd hlt hlen, fun _ _ => h.counted⟩

/-! Pause frames (R158). -/

theorem pauseFrame_does (hc : s.carries p = true) (toModule : Bool) (time : BitVec 16) :
    Does (.pauseFrame p toModule time) s [.portA, .portB, .cnt] fun t =>
      (toModule = true → (s.port p).macCtrl.getLsbD 4 = true →
        t.port p = { s.port p with pause := time.toNat * quantum (s.port p).mode, pauseFresh := true }) ∧
      (toModule = false ∨ (s.port p).macCtrl.getLsbD 4 = false → t.port p = s.port p) ∧ t.port (otherPort p) = s.port (otherPort p) ∧
      t.count (portFn p) 9 = min (2 ^ 48 - 1) (s.count (portFn p) 9 + 1) ∧
      t.count (portFn p) 19 = min (2 ^ 48 - 1) (s.count (portFn p) 19 + time.toNat) := by
  let u := (s.bumpPort p 9).bumpBy (portFn p) 19 time.toNat
  have hexec : exec (.pauseFrame p toModule time) s = .next (if (toModule && (s.port p).macCtrl.getLsbD 4) = true then
      u.onPort p fun r => { r with pause := time.toNat * quantum r.mode, pauseFresh := true } else u) := by
    rw [exec_pauseFrame, execPauseFrame, hc]
    rfl
  have hu (k : Port) : u.port k = s.port k := (State.port_bumpBy ..).trans (State.port_bumpBy ..)
  have htouch : Touch [.portA, .portB, .cnt] s u :=
    (State.bumpBy_touch ..).after ((State.bumpBy_touch ..).after (Touch.refl _ s) rfl) rfl
  have h9 : u.count (portFn p) 9 = min (2 ^ 48 - 1) (s.count (portFn p) 9 + 1) := by
    rw [count_bumpBy_ne (by decide) (by decide) (by decide), count_bumpPort_self (by decide)]
  have h19 : u.count (portFn p) 19 = min (2 ^ 48 - 1) (s.count (portFn p) 19 + time.toNat) := by
    rw [count_bumpBy_self (by decide), count_bumpPort_ne (by decide) (by decide) (by decide)]
  generalize u = v at hexec hu htouch h9 h19
  cases hload : toModule && (s.port p).macCtrl.getLsbD 4 with
  | true =>
    obtain ⟨hto, hctl⟩ := (Bool.and_eq_true _ _).mp hload
    rw [hload, if_pos rfl] at hexec
    refine ((State.onPort_touch ..).after htouch rfl).does hexec ⟨fun _ _ => ?_, fun h => ?_, ?_, (count_onPort ..).trans h9,
      (count_onPort ..).trans h19⟩
    · rw [State.port_onPort, hu]
    · rcases h with h | h
      · exact absurd (hto.symm.trans h) (by decide)
      · exact absurd (hctl.symm.trans h) (by decide)
    · rw [State.port_onPort_ne _ _ (otherPort_ne_self p), hu]
  | false =>
    rw [hload, if_neg Bool.false_ne_true] at hexec
    refine htouch.does hexec ⟨fun hto hctl => ?_, fun _ => hu p, hu _, h9, h19⟩
    rw [hto, hctl] at hload
    exact absurd hload (by decide)

end

/-- Settles O28: a frame is judged in R150's order; a good one is counted and goes to the consumer of its class where that one has
room, a stripped one and a bad one to none; a pause frame loads the timer where pauses are honoured. -/
theorem reception : Obligations.Reception := by
  unfold Obligations.Reception
  intro s p hc hh
  exact ⟨fun f hs hmin hmax hf => ⟨frameReceive_good hc hh hs hmin hmax hf, frameReceive_stripped hc hh hs hmin hmax hf⟩,
    fun f hs hlt => frameReceive_short hc hh hs hlt, fun f hbad hstrip hmin => frameReceive_bad hc hh hbad hstrip hmin,
    fun toModule time => pauseFrame_does hc toModule time⟩

end Sys2Proof.Machine
end

section
/-! PROOFS. Frames sent and forwarded, O29. -/

namespace Sys2Proof.Machine

open Sys2Proof

set_option Elab.async false

section
variable {p : Port} {s : State}

/-! Counters of the port and of its path, and the ring's sequence numbers, leave what a frame changes. -/

theorem ringSent_port (p : Port) (f : Frame) (s : State) : (ringSent p f s).port p = s.port p := by
  unfold ringSent
  split
  · split
    · exact State.port_onPort_ne _ _ (otherPort_ne_self p).symm
    · rfl
  · rfl

theorem tagOf?_none (h : s.isRing = false) (f : Frame) : s.tagOf? f = none := by
  unfold State.tagOf?
  split
  · rw [h]
    rfl
  · rfl

theorem ringSent_none {f : Frame} (h : s.tagOf? f = none) : ringSent p f s = s := by rw [ringSent, h]

theorem ringSent_count (p : Port) (f : Frame) (s : State) (g j : Nat) : (ringSent p f s).count g j = s.count g j :=
  (ringSent_touch p f s).count_eq g j

theorem bumpPort_port (p k : Port) (i : Nat) (s : State) : (s.bumpPort p i).port k = s.port k := State.port_bumpBy ..

/-! A frame of the port's own (R155, R206). -/

/-- The port after the head of queue `q` has left as `f`. -/
def PortSt.sent (q : Fin 8) (x : SentFrame) (r : PortSt) : PortSt := { r with queues := vmod r.queues q (·.drop 1), lastTx := some x }

theorem ledFlash_sent (p : Port) (s : State) : ((ledFlash p s).port p).queues = (s.port p).queues ∧
    ((ledFlash p s).port p).lastTx = (s.port p).lastTx ∧ ((ledFlash p s).port p).fwd = (s.port p).fwd := by
  rcases (ledFlash_port p s).1 with h | h <;> rw [h] <;> exact ⟨rfl, rfl, rfl⟩

theorem ledFlash_tagOf? (p : Port) (s : State) (f : Frame) : (ledFlash p s).tagOf? f = s.tagOf? f := by
  rcases ledFlash_cases p s with h | h <;> rw [h]
  cases p <;> rfl

theorem stampFrame_other {f : Frame} (h1 : f.ptp ≠ .sync) (h2 : f.ptp ≠ .pdelayResp) : stampFrame s f = f := by
  unfold stampFrame
  extract_lets q corr
  rw [if_neg h1, if_neg h2]

theorem frameTransmit_idle (h : s.paused p = true) : exec (.frameTransmit p) s = .next s := by
  rw [exec_frameTransmit, execFrameTransmit]
  exact congrArg Host.Outcome.next (if_pos (by simp [h]))

theorem exec_frameTransmit_head (hc : s.carries p = true) {q : Fin 8} (hq : (s.port p).topQueue = some q) {f : Frame}
    (hf : (s.port p).queues[q].head? = some f) (hpause : s.paused p = false) (hfwd : s.fwdFirst p = false) :
    exec (.frameTransmit p) s = .next (sendHead p q f s) := by
  obtain ⟨l, hl⟩ := List.head?_eq_some_iff.1 hf
  rw [exec_frameTransmit, execFrameTransmit, if_neg (by simp [hc, hpause, hfwd]), hq]
  dsimp only
  rw [hl]

theorem frameTransmit_sends (hc : s.carries p = true) {q : Fin 8} (hq : (s.port p).topQueue = some q) {f : Frame}
    (hf : (s.port p).queues[q].head? = some f) (hpause : s.paused p = false) (hfwd : s.fwdFirst p = false) :
    Does (.frameTransmit p) s [.portA, .portB, .cnt, .free] fun t =>
      (t.port p).queues[q] = (s.port p).queues[q].tail ∧ (∀ r : Fin 8, r ≠ q → (t.port p).queues[r] = (s.port p).queues[r]) ∧
      (t.port p).lastTx = some { frame := stampFrame s f, forwarded := false, octets := f.len, inverted := false } ∧
      (f.ptp ≠ .sync → f.ptp ≠ .pdelayResp → stampFrame s f = f) ∧
      t.count (portFn p) 14 = min (2 ^ 48 - 1) (s.count (portFn p) 14 + f.len) ∧
      t.count (portFn p) 15 = min (2 ^ 48 - 1) (s.count (portFn p) 15 + 1) ∧
      t.count (portFn p) (22 + q.val) = min (2 ^ 48 - 1) (s.count (portFn p) (22 + q.val) + 1) ∧
      (s.isRing = false → t.port (otherPort p) = s.port (otherPort p)) := by
  have hexec := exec_frameTransmit_head hc hq hf hpause hfwd
  have hq8 := q.isLt
  let u := (((s.freshen.onPort p (PortSt.sent q { frame := stampFrame s f, forwarded := false, octets := f.len, inverted := false })).bumpBy
    (portFn p) 14 f.len).bumpPort p 15).bumpPort p (22 + q.val)
  have hsend : sendHead p q f s = ringSent p f (ledFlash p u) := rfl
  have hbase (g : PortSt → PortSt) (i : Nat) : (s.freshen.onPort p g).count (portFn p) i = s.count (portFn p) i :=
    (count_onPort ..).trans rfl
  have hport (k : Port) : u.port k = (s.freshen.onPort p
      (PortSt.sent q { frame := stampFrame s f, forwarded := false, octets := f.len, inverted := false })).port k :=
    (State.port_bumpBy ..).trans ((State.port_bumpBy ..).trans (State.port_bumpBy ..))
  have hsame (k : Port) : s.freshen.port k = s.port k := by cases k <;> rfl
  have hself : u.port p = (s.port p).sent q { frame := stampFrame s f, forwarded := false, octets := f.len, inverted := false } := by
    rw [hport, State.port_onPort, hsame]
  have hother : u.port (otherPort p) = s.port (otherPort p) := by
    rw [hport, State.port_onPort_ne _ _ (otherPort_ne_self p), hsame]
  have h14 : u.count (portFn p) 14 = min (2 ^ 48 - 1) (s.count (portFn p) 14 + f.len) := by
    rw [count_bumpPort_ne (by omega) (by omega) (by omega), count_bumpPort_ne (by omega) (by omega) (by omega),
      count_bumpBy_self (by omega), hbase]
  have h15 : u.count (portFn p) 15 = min (2 ^ 48 - 1) (s.count (portFn p) 15 + 1) := by
    rw [count_bumpPort_ne (by omega) (by omega) (by omega), count_bumpPort_self (by omega),
      count_bumpBy_ne (by omega) (by omega) (by omega), hbase]
  have h22 : u.count (portFn p) (22 + q.val) = min (2 ^ 48 - 1) (s.count (portFn p) (22 + q.val) + 1) := by
    rw [count_bumpPort_self (by omega), count_bumpPort_ne (by omega) (by omega) (by omega),
      count_bumpBy_ne (by omega) (by omega) (by omega), hbase]
  have htag : u.tagOf? f = s.tagOf? f := by
    dsimp only [u]
    cases p <;> rfl
  have hfree : Touch [.portA, .portB, .cnt, .free] s s.freshen := (State.freshen_touch s).after (Touch.refl _ s) rfl
  have htouch : Touch [.portA, .portB, .cnt, .free] s u :=
    (State.bumpBy_touch ..).after ((State.bumpBy_touch ..).after ((State.bumpBy_touch ..).after
      ((State.onPort_touch ..).after hfree rfl) rfl) rfl) rfl
  rw [hsend] at hexec
  generalize u = v at hexec hself hother h14 h15 h22 htag htouch
  obtain ⟨hqueues, hlast, -⟩ := ledFlash_sent p v
  have hcount (j : Nat) : (ringSent p f (ledFlash p v)).count (portFn p) j = v.count (portFn p) j :=
    (ringSent_count ..).trans (ledFlash_count ..)
  refine ((ringSent_touch ..).after ((ledFlash_touch ..).after htouch rfl) rfl).does hexec ⟨?_, fun r hr => ?_, ?_, stampFrame_other,
    (hcount _).trans h14, (hcount _).trans h15, (hcount _).trans h22, fun hring => ?_⟩
  · rw [ringSent_port, hqueues, hself]
    exact (vmod_get_self ..).trans List.drop_one
  · rw [ringSent_port, hqueues, hself]
    exact vmod_get_ne _ _ hr
  · rw [ringSent_port, hlast, hself]
    rfl
  · rw [ringSent_none (by rw [ledFlash_tagOf?, htag, tagOf?_none hring]), (ledFlash_port p v).2, hother]

/-! A frame to forward joins the other port's queue (R157, R159). -/

/-- The port with the settings a frame is received under. -/
def PortSt.holding (h : RxHold) (r : PortSt) : PortSt := { r with hold := some h }

theorem rxClass_holding (h : RxHold) (f : Frame) : (s.onPort p (PortSt.holding h)).rxClass p f = s.rxClass p f := by
  cases p <;> rfl

theorem forwards_holding (h : RxHold) (f : Frame) : (s.onPort p (PortSt.holding h)).forwards p f = s.forwards p f := by
  cases p <;> rfl

theorem maxLen_holding (h : RxHold) (k : Port) : (s.onPort p (PortSt.holding h)).maxLen k = s.maxLen k := by
  cases p <;> cases k <;> rfl

theorem portsUp_onPort (g : PortSt → PortSt) : (s.onPort p g).portsUp = s.portsUp := by cases p <;> rfl

theorem untagged_holding (h : RxHold) (f : Frame) : ((s.onPort p (PortSt.holding h)).isRing &&
    ((s.onPort p (PortSt.holding h)).tagOf? f).isNone) = (s.isRing && (s.tagOf? f).isNone) := by
  cases p <;> rfl

/-- The port with one more frame to forward. -/
def PortSt.toForward (w : FwdFrame) (r : PortSt) : PortSt := { r with fwd := r.fwd ++ [w] }

theorem commitFrame_joins {f : Frame} (hup : s.portsUp = true) (hfw : s.forwards p f = true)
    (htag : (s.isRing && (s.tagOf? f).isNone) = false) (hl : (s.port (otherPort p)).link = true)
    (hroom : ((s.port (otherPort p)).fwd.map (·.frame.len)).sum + f.len ≤ 32768) :
    commitFrame p f s = (s.onPort p (PortSt.holding (s.settings p f))).onPort (otherPort p) (PortSt.toForward {
      frame := f, ingress := p, inMax := s.maxLen p, outMax := s.maxLen (otherPort p), order := rxOrder (s.maxLen p) f
      timing := s.rxClass p f == 4 }) := by
  unfold commitFrame
  extract_lets e u untagged r g s1 pe
  have hu : u = s.onPort p (PortSt.holding (s.settings p f)) := rfl
  have htag' : untagged = false := by
    dsimp only [untagged]
    rw [hu, untagged_holding, htag]
  have hr : r = (f, u) := by
    dsimp only [r]
    rw [htag']
    rfl
  have hs1 : s1 = u := congrArg Prod.snd hr
  have hg : g = f := congrArg Prod.fst hr
  have hpe : pe = s.port (otherPort p) := by
    dsimp only [pe]
    rw [hs1, hu]
    exact State.port_onPort_ne _ _ (otherPort_ne_self p)
  have hstart : ¬ (!u.portsUp || !u.forwards p f) = true := by
    rw [hu, portsUp_onPort, forwards_holding, hup, hfw]
    decide
  rw [if_neg hstart, htag', if_neg (by simp), hpe, hg, if_neg (by simp [hl]), if_neg (by omega), hs1]
  dsimp only [e]
  rw [hu, maxLen_holding, maxLen_holding, rxClass_holding]
  rfl

theorem forwardCommit_joins {f : Frame} (hc : s.carries p = true) (hfw : s.forwards p f = true)
    (htag : (s.isRing && (s.tagOf? f).isNone) = false) (hl : (s.port (otherPort p)).link = true)
    (hroom : ((s.port (otherPort p)).fwd.map (·.frame.len)).sum + f.len ≤ 32768) :
    Does (.forwardCommit p f) s [.portA, .portB] fun t => t.port p = { s.port p with hold := some (s.settings p f) } ∧
      (t.port (otherPort p)).fwd = (s.port (otherPort p)).fwd ++ [{
        frame := f, ingress := p, inMax := s.maxLen p, outMax := s.maxLen (otherPort p), order := rxOrder (s.maxLen p) f
        timing := s.rxClass p f == 4 }] := by
  have hup : s.portsUp = true := ((Bool.and_eq_true _ _).mp hc).1
  refine ((State.onPort_touch ..).after ((State.onPort_touch ..).after (Touch.refl _ s) rfl) rfl).does
    (by rw [exec_forwardCommit, execForwardCommit, if_pos hc, commitFrame_joins hup hfw htag hl hroom]) ⟨?_, ?_⟩
  · rw [State.port_onPort_ne _ _ (otherPort_ne_self p).symm, State.port_onPort]
    rfl
  · rw [State.port_onPort, State.port_onPort_ne _ _ (otherPort_ne_self p)]
    rfl

theorem forwardCommit_stays {f : Frame} (hc : s.carries p = true) (hfw : s.forwards p f = false) :
    Does (.forwardCommit p f) s [.portA, .portB] fun t =>
      t.port p = { s.port p with hold := some (s.settings p f) } ∧ t.port (otherPort p) = s.port (otherPort p) := by
  have heq : commitFrame p f s = s.onPort p (PortSt.holding (s.settings p f)) := by
    unfold commitFrame
    extract_lets e u
    have hu : u = s.onPort p (PortSt.holding (s.settings p f)) := rfl
    exact if_pos (by rw [hu, forwards_holding, hfw]; simp)
  refine does_onPort (g := PortSt.holding (s.settings p f)) ?_ fun t hp ho => ⟨hp, ho⟩
  rw [exec_forwardCommit, execForwardCommit, if_pos hc, heq]

/-! A forwarded frame leaves (R157-R163). -/

/-- The port without the frame at the front of those to forward. -/
def PortSt.popped (r : PortSt) : PortSt := { r with fwd := r.fwd.drop 1 }

theorem exec_forwardEgressStart_head (hc : s.carries p = true) {w : FwdFrame} (hw : (s.port p).fwd.head? = some w) (residence : Nat) :
    exec (.forwardEgressStart p residence) s = .next (if (!s.mayStart p w residence) = true then s
      else if s.paused p = true then (s.onPort p PortSt.popped).bumpPort p 18
      else if s.fwdFirst p = true then startCopy p w residence (s.onPort p PortSt.popped) else s) := by
  obtain ⟨l, hl⟩ := List.head?_eq_some_iff.1 hw
  rw [exec_forwardEgressStart, execForwardEgressStart, hc, if_neg (by decide), hl]
  rfl

theorem modes_popped (k : Port) : ((s.onPort p PortSt.popped).port k).mode = (s.port k).mode := by
  cases p <;> cases k <;> rfl

theorem foundBad_popped (w : FwdFrame) (residence : Nat) :
    foundBad (s.onPort p PortSt.popped) p w residence = foundBad s p w residence := by
  unfold foundBad State.stores
  simp only [modes_popped]

theorem copyCut_popped (w : FwdFrame) (residence : Nat) :
    copyCut (s.onPort p PortSt.popped) p w residence = copyCut s p w residence := by
  unfold copyCut errorOctets
  simp only [modes_popped]

theorem correctPtp_count (w : FwdFrame) (residence : Nat) (k : Port) (j : Nat) (hj : j < 4096) (s : State) :
    (correctPtp w residence s).2.count (portFn k) j = s.count (portFn k) j := by
  have hne : portFn k ≠ 5 := by cases k <;> decide
  have hbump (i : Nat) (hi : i < 4096) : (s.bump 5 i).count (portFn k) j = s.count (portFn k) j :=
    (counts_bumpBy hi 5 1 s (portFn k) j hj).trans (if_neg fun h => hne h.1)
  unfold correctPtp
  extract_lets f p2p event v6 add c
  split
  · rfl
  split
  · exact hbump 15 (by decide)
  · exact hbump 14 (by decide)

theorem correctPtp_other {w : FwdFrame} (h : w.timing = false) (residence : Nat) (s : State) : correctPtp w residence s = (w.frame, s) := by
  unfold correctPtp
  extract_lets f p2p event
  exact if_pos (by rw [h]; rfl)

/-- What a copy that starts has done before its octets are counted. -/
def copyBase (p : Port) (w : FwdFrame) (residence : Nat) (s : State) : State :=
  ledFlash p ((correctPtp w residence s).2.bumpPath w.ingress 0)

theorem count_bumpPath_low {j k : Nat} (hj : j < 30) (hk : k < 64) (g i : Port) (s : State) :
    (s.bumpPath i k).count (portFn g) j = s.count (portFn g) j :=
  (counts_bumpBy (by omega) (portFn i) 1 s (portFn g) j (by omega)).trans (if_neg fun h => by omega)

theorem copyBase_facts (w : FwdFrame) (residence : Nat) : Touch [.portA, .portB, .cnt] s (copyBase p w residence s) ∧
    ((copyBase p w residence s).port p).fwd = (s.port p).fwd ∧
    ∀ j, j < 30 → (copyBase p w residence s).count (portFn p) j = s.count (portFn p) j := by
  refine ⟨(ledFlash_touch ..).after ((State.bumpBy_touch ..).after ((correctPtp_touch ..).after (Touch.refl _ s) rfl) rfl) rfl, ?_,
    fun j hj => ?_⟩
  · obtain ⟨-, -, hfwd⟩ := ledFlash_sent p ((correctPtp w residence s).2.bumpPath w.ingress 0)
    exact hfwd.trans (congrArg PortSt.fwd ((State.port_bumpBy ..).trans ((correctPtp_touch ..).port_eq p)))
  · exact (ledFlash_count ..).trans ((count_bumpPath_low hj (by decide) p _ _).trans (correctPtp_count w residence p j (by omega) s))

/-- The port whose last frame sent is `x`. -/
def PortSt.lastSent (x : SentFrame) (r : PortSt) : PortSt := { r with lastTx := some x }

theorem startCopy_eq {w : FwdFrame} {residence : Nat} (h : foundBad s p w residence = false) : startCopy p w residence s =
    match copyCut s p w residence with
    | some n => ((copyBase p w residence s).bumpPath w.ingress 2).onPort p (PortSt.lastSent {
        frame := (correctPtp w residence s).1, forwarded := true, octets := n, inverted := true })
    | none => (ringSent p (correctPtp w residence s).1 (((copyBase p w residence s).bumpBy (portFn p) 14
        (correctPtp w residence s).1.len).bumpPort p 15)).onPort p (PortSt.lastSent {
        frame := (correctPtp w residence s).1, forwarded := true, octets := (correctPtp w residence s).1.len, inverted := false }) := by
  unfold startCopy
  rw [if_neg (by simp [h])]
  rfl

theorem startCopy_whole {w : FwdFrame} {residence : Nat} (h : foundBad s p w residence = false) (hcut : copyCut s p w residence = none)
    (ht : w.timing = false) : Touch [.portA, .portB, .cnt] s (startCopy p w residence s) ∧
    ((startCopy p w residence s).port p).fwd = (s.port p).fwd ∧
    ((startCopy p w residence s).port p).lastTx = some { frame := w.frame, forwarded := true, octets := w.frame.len, inverted := false } ∧
    (startCopy p w residence s).count (portFn p) 15 = min (2 ^ 48 - 1) (s.count (portFn p) 15 + 1) := by
  refine ⟨startCopy_touch .., ?_⟩
  obtain ⟨-, hfwd, hcount⟩ := copyBase_facts (s := s) (p := p) w residence
  rw [startCopy_eq h, hcut, correctPtp_other ht]
  dsimp only
  rw [State.port_onPort, ringSent_port, bumpPort_port, State.port_bumpBy, count_onPort, ringSent_count, count_bumpPort_self (by decide),
    count_bumpBy_ne (by decide) (by decide) (by decide), hcount 15 (by decide)]
  exact ⟨hfwd, rfl, rfl⟩

theorem startCopy_cut {w : FwdFrame} {residence n : Nat} (h : foundBad s p w residence = false)
    (hcut : copyCut s p w residence = some n) : Touch [.portA, .portB, .cnt] s (startCopy p w residence s) ∧
    ((startCopy p w residence s).port p).fwd = (s.port p).fwd ∧
    ((startCopy p w residence s).port p).lastTx.map (fun x => (x.octets, x.inverted, x.forwarded)) = some (n, true, true) ∧
    (startCopy p w residence s).count (portFn p) 15 = s.count (portFn p) 15 := by
  refine ⟨startCopy_touch .., ?_⟩
  obtain ⟨-, hfwd, hcount⟩ := copyBase_facts (s := s) (p := p) w residence
  have hport : ((copyBase p w residence s).bumpPath w.ingress 2).port p = (copyBase p w residence s).port p := State.port_bumpBy ..
  rw [startCopy_eq h, hcut]
  dsimp only
  rw [State.port_onPort, hport, count_onPort, count_bumpPath_low (by decide) (by decide), hcount 15 (by decide)]
  exact ⟨hfwd, rfl, rfl⟩

theorem startCopy_bad {w : FwdFrame} {residence : Nat} (h : foundBad s p w residence = true) : startCopy p w residence s = s := by
  rw [startCopy, if_pos h]

theorem forwardEgressStart_does (hc : s.carries p = true) {w : FwdFrame} (hw : (s.port p).fwd.head? = some w) (residence : Nat) :
    (s.mayStart p w residence = false → exec (.forwardEgressStart p residence) s = .next s) ∧
    (s.mayStart p w residence = true → s.paused p = false → s.fwdFirst p = true → foundBad s p w residence = false →
      (copyCut s p w residence = none → w.timing = false → Does (.forwardEgressStart p residence) s [.portA, .portB, .cnt] fun t =>
        (t.port p).fwd = (s.port p).fwd.tail ∧
        (t.port p).lastTx = some { frame := w.frame, forwarded := true, octets := w.frame.len, inverted := false } ∧
        t.count (portFn p) 15 = min (2 ^ 48 - 1) (s.count (portFn p) 15 + 1)) ∧
      (∀ n, copyCut s p w residence = some n → Does (.forwardEgressStart p residence) s [.portA, .portB, .cnt] fun t =>
        (t.port p).fwd = (s.port p).fwd.tail ∧ (t.port p).lastTx.map (fun x => (x.octets, x.inverted, x.forwarded)) = some (n, true, true) ∧
        t.count (portFn p) 15 = s.count (portFn p) 15)) ∧
    (s.mayStart p w residence = true → s.paused p = false → s.fwdFirst p = true → foundBad s p w residence = true →
      Does (.forwardEgressStart p residence) s [.portA, .portB] fun t => t.port p = { s.port p with fwd := (s.port p).fwd.tail }) ∧
    (s.mayStart p w residence = true → s.paused p = true → Does (.forwardEgressStart p residence) s [.portA, .portB, .cnt] fun t =>
      t.port p = { s.port p with fwd := (s.port p).fwd.tail } ∧
      t.count (portFn p) 18 = min (2 ^ 48 - 1) (s.count (portFn p) 18 + 1)) := by
  have hexec := exec_forwardEgressStart_head hc hw residence
  have hpop : (s.onPort p PortSt.popped).port p = { s.port p with fwd := (s.port p).fwd.tail } := by
    rw [State.port_onPort, PortSt.popped, List.drop_one]
  have hpopFwd : ((s.onPort p PortSt.popped).port p).fwd = (s.port p).fwd.tail := by rw [hpop]
  have hpopTouch : Touch [.portA, .portB] s (s.onPort p PortSt.popped) := State.onPort_touch ..
  refine ⟨fun hm => ?_, fun hm hpause hfirst hbad => ⟨fun hcut htiming => ?_, fun n hcut => ?_⟩, fun hm hpause hfirst hbad => ?_,
    fun hm hpause => ?_⟩
  · rw [hexec, if_pos (by simp [hm])]
  · rw [if_neg (by simp [hm]), if_neg (by simp [hpause]), if_pos hfirst] at hexec
    obtain ⟨htouch, hfwd, hlast, hcount⟩ := startCopy_whole (s := s.onPort p PortSt.popped) (by rw [foundBad_popped, hbad])
      (by rw [copyCut_popped, hcut]) htiming
    exact (htouch.after (hpopTouch.after (Touch.refl _ s) rfl) rfl).does hexec
      ⟨hfwd.trans hpopFwd, hlast, hcount.trans (by rw [count_onPort])⟩
  · rw [if_neg (by simp [hm]), if_neg (by simp [hpause]), if_pos hfirst] at hexec
    obtain ⟨htouch, hfwd, hlast, hcount⟩ := startCopy_cut (s := s.onPort p PortSt.popped) (by rw [foundBad_popped, hbad])
      (by rw [copyCut_popped, hcut])
    exact (htouch.after (hpopTouch.after (Touch.refl _ s) rfl) rfl).does hexec
      ⟨hfwd.trans hpopFwd, hlast, hcount.trans (count_onPort ..)⟩
  · rw [if_neg (by simp [hm]), if_neg (by simp [hpause]), if_pos hfirst, startCopy_bad (by rw [foundBad_popped, hbad])] at hexec
    exact hpopTouch.does hexec hpop
  · rw [if_neg (by simp [hm]), if_pos hpause] at hexec
    refine ((State.bumpBy_touch ..).after (hpopTouch.after (Touch.refl _ s) rfl) rfl).does hexec ⟨?_, ?_⟩
    · exact (State.port_bumpBy ..).trans hpop
    · exact (count_bumpPort_self (by decide) p _).trans (by rw [count_onPort])

end

/-- Settles O29: the head of the highest queue leaves with its one-step fields written; a frame committed joins the other port's
forward queue, and leaves it whole, cut, unsent or discarded as `startCopy` says. -/
theorem sending : Obligations.Sending := by
  unfold Obligations.Sending
  intro s p hc
  exact ⟨fun q hq f hf hpause hfwd => frameTransmit_sends hc hq hf hpause hfwd, frameTransmit_idle,
    fun f hfw htag hl hroom => forwardCommit_joins hc hfw htag hl hroom, fun f hfw => forwardCommit_stays hc hfw,
    fun w hw residence => forwardEgressStart_does hc hw residence⟩

end Sys2Proof.Machine
end

section
/-! PROOFS. PTP messages sent, O31. -/

namespace Sys2Proof.Machine

open Sys2Proof

set_option Elab.async false

/-! The state of a port's PTP engine. -/

@[simp] theorem State.ptp_onPtp (p : Port) (g : PtpPort → PtpPort) (s : State) : (s.onPtp p g).ptp p = g (s.ptp p) := by
  cases p <;> rfl

theorem State.ptp_onPtp_ne {p k : Port} (h : k ≠ p) (g : PtpPort → PtpPort) (s : State) : (s.onPtp p g).ptp k = s.ptp k := by
  cases p <;> cases k <;> first | exact absurd rfl h | rfl

theorem State.ptp_onPort (p k : Port) (g : PortSt → PortSt) (s : State) : (s.onPort p g).ptp k = s.ptp k := by
  cases p <;> rfl

theorem State.port_onPtp (p k : Port) (g : PtpPort → PtpPort) (s : State) : (s.onPtp p g).port k = s.port k := by
  cases p <;> cases k <;> rfl

/-! The length of a message, and the frame that carries it (R201, R206, log 13). -/

@[simp] theorem length_beBytes (n v : Nat) : (beBytes n v).length = n := by simp [beBytes]

theorem length_ptpMessage (s : State) (p : Port) (ty : Nat) (seq : BitVec 16) (log : Nat) (body : List Byte) :
    (ptpMessage s p ty seq log body).length = 34 + body.length := by
  simp only [ptpMessage, List.length_append, List.length_cons, List.length_nil, length_beBytes, length_leBytes]

theorem length_stampBytes (q : Int) : (stampBytes q).length = 10 := by
  simp only [stampBytes, List.length_append, length_beBytes]

theorem length_announceBody (a : PtpAnnounce) : (announceBody a).length = 30 := by
  simp only [announceBody, List.length_append, List.length_cons, List.length_nil, length_beBytes, length_leBytes]

/-- A frame of kind `k` from the module, with at most 50 octets of headers before the message. -/
structure PtpFrameOf (s : State) (k : PtpKind) (n : Nat) (f : Frame) : Prop where
  kind : f.ptp = k
  src : f.src = s.svc.mac
  len : f.len ≤ 68 + n

theorem ptpFrame_of (s : State) (k : PtpKind) (peer event : Bool) (msg : List Byte) :
    PtpFrameOf s k msg.length (ptpFrame s k peer event msg) := by
  unfold ptpFrame
  extract_lets tr port ip f
  have hown (dst : BitVec 48) (etype : BitVec 16) (hdr : Nat) (i : Option IpInfo) (h : hdr ≤ 50) :
      (ownFrame s dst etype hdr i msg).src = s.svc.mac ∧ (ownFrame s dst etype hdr i msg).len ≤ 68 + msg.length := by
    refine ⟨rfl, ?_⟩
    change 18 + hdr + msg.length ≤ 68 + msg.length
    omega
  have hf : f.src = s.svc.mac ∧ f.len ≤ 68 + msg.length := by
    dsimp only [f]
    split
    · exact hown _ _ _ _ (by decide)
    split
    · exact hown _ _ _ _ (by split <;> decide)
    · exact hown _ _ _ _ (by decide)
  exact ⟨rfl, hf.1, hf.2⟩

section
variable {i : Instr} {s : State} {p : Port}

/-! A message joins its queue (R157). -/

/-- The port with one more frame in queue `q`. -/
def PortSt.queueing (q : Fin 8) (f : Frame) (r : PortSt) : PortSt := { r with queues := vmod r.queues q fun l => l ++ [f] }

theorem sendFrame_queues {q : Fin 8} {f : Frame} (hring : s.isRing = false) (hroom : Room s p q 256) (hlen : f.len ≤ 256) :
    sendFrame [p] q f s = s.onPort p (PortSt.queueing q { f with len := max 64 f.len }) := by
  obtain ⟨hlink, hcount, hsum⟩ := hroom
  have hmax : max 64 f.len ≤ 256 := max_le (by decide) hlen
  have henq : enqueue p q { f with len := max 64 f.len } s = s.onPort p (PortSt.queueing q { f with len := max 64 f.len }) := by
    unfold enqueue
    extract_lets r l
    have hfull : ¬ (16 ≤ l.length ∨ 16384 < lenSum l + max 64 f.len) := by
      rintro (h | h)
      · exact absurd hcount (not_lt.2 h)
      · exact absurd hsum (not_le.2 (lt_of_lt_of_le h (Nat.add_le_add_left hmax _)))
    rw [if_neg (by rw [show r.link = true from hlink]; decide), if_neg hfull]
    rfl
  unfold sendFrame
  rw [hring]
  exact henq

theorem queued_queueing {q : Fin 8} {f : Frame} {P : Frame → Prop} {u : State} (hu : u.port p = s.port p) (hP : P f) :
    Queued s (u.onPort p (PortSt.queueing q f)) p q P := by
  refine ⟨f, ?_, hP⟩
  rw [State.port_onPort, hu]
  exact vmod_get_self ..

/-- A command that sends a message, with or without a change of the engine. -/
theorem does_sendPtp {g : PtpPort → PtpPort} {event : Bool} {f : Frame} (hring : s.isRing = false)
    (hroom : Room s p (if event then s.txqEvent p else s.txqGeneral p) 256) (hlen : f.len ≤ 256)
    (hexec : exec i s = .next (sendPtp p event f (s.onPtp p g))) {P : Frame → Prop} (hP : P { f with len := max 64 f.len })
    {Q : State → Prop} (hQ : ∀ t : State, Queued s t p (if event then s.txqEvent p else s.txqGeneral p) P →
      t.port (otherPort p) = s.port (otherPort p) → t.ptp p = g (s.ptp p) → t.ptp (otherPort p) = s.ptp (otherPort p) → Q t) :
    Does i s [.portA, .portB, .time] Q := by
  have hqueue : (if event then (s.onPtp p g).txqEvent p else (s.onPtp p g).txqGeneral p) =
      if event then s.txqEvent p else s.txqGeneral p := by
    rw [State.txqEvent, State.txqGeneral, State.port_onPtp, State.txqEvent, State.txqGeneral]
  have hring' : (s.onPtp p g).isRing = false := by
    rw [← hring]
    cases p <;> rfl
  have hroom' : Room (s.onPtp p g) p (if event then s.txqEvent p else s.txqGeneral p) 256 := by
    obtain ⟨hlink, hcount, hsum⟩ := hroom
    rw [← State.port_onPtp p p g s] at hlink hcount hsum
    exact ⟨hlink, hcount, hsum⟩
  rw [sendPtp, hqueue, sendFrame_queues hring' hroom' hlen] at hexec
  refine ((State.onPort_touch ..).after ((State.onPtp_touch p g s).after (Touch.refl _ s) rfl) rfl).does hexec (hQ _ ?_ ?_ ?_ ?_)
  · exact queued_queueing (State.port_onPtp ..) hP
  · rw [State.port_onPort_ne _ _ (otherPort_ne_self p), State.port_onPtp]
  · rw [State.ptp_onPort, State.ptp_onPtp]
  · rw [State.ptp_onPort, State.ptp_onPtp_ne (otherPort_ne_self p)]

/-- A command that sends a message and changes nothing of the engine. -/
theorem does_sendPtp_only {event : Bool} {f : Frame} (hring : s.isRing = false)
    (hroom : Room s p (if event then s.txqEvent p else s.txqGeneral p) 256) (hlen : f.len ≤ 256)
    (hexec : exec i s = .next (sendPtp p event f s)) {P : Frame → Prop} (hP : P { f with len := max 64 f.len }) :
    Does i s [.portA, .portB] fun t => Queued s t p (if event then s.txqEvent p else s.txqGeneral p) P := by
  rw [sendPtp, sendFrame_queues hring hroom hlen] at hexec
  exact ((State.onPort_touch ..).after (Touch.refl _ s) rfl).does hexec (queued_queueing rfl hP)

/-! The messages (R201, R206). -/

variable (hring : s.isRing = false) (hevent : Room s p (s.txqEvent p) 256) (hgeneral : Room s p (s.txqGeneral p) 256)
include hring

include hevent in
theorem ptpSyncSend_does (hm : s.masters p = true) : Does (.ptpSyncSend p) s [.portA, .portB, .time] fun t =>
    Queued s t p (s.txqEvent p) (fun f => f.ptp = .sync ∧ f.src = s.svc.mac) ∧ t.port (otherPort p) = s.port (otherPort p) ∧
    t.ptp p = { s.ptp p with seqSync := (s.ptp p).seqSync + 1 } ∧ t.ptp (otherPort p) = s.ptp (otherPort p) := by
  have hexec := exec_ptpSyncSend p s
  rw [execPtpSyncSend, if_neg (by simp [hm])] at hexec
  have hf := ptpFrame_of s .sync false true (ptpMessage s p 0 (s.ptp p).seqSync (logInterval s 8) (leBytes 10 0))
  have hlen := hf.len
  rw [length_ptpMessage, length_leBytes] at hlen
  exact does_sendPtp (event := true) hring hevent (by omega) hexec
    (P := fun f => f.ptp = .sync ∧ f.src = s.svc.mac) ⟨hf.kind, hf.src⟩ fun t hq ho hp hk => ⟨hq, ho, hp, hk⟩

include hgeneral in
theorem ptpAnnounceSend_does (hm : s.masters p = true) : Does (.ptpAnnounceSend p) s [.portA, .portB, .time] fun t =>
    Queued s t p (s.txqGeneral p) (fun f => f.ptp = .announce ∧ f.src = s.svc.mac) ∧
    t.ptp p = { s.ptp p with seqAnn := (s.ptp p).seqAnn + 1 } := by
  have hexec := exec_ptpAnnounceSend p s
  rw [execPtpAnnounceSend, if_neg (by simp [hm])] at hexec
  have hf := ptpFrame_of s .announce false false (ptpMessage s p 11 (s.ptp p).seqAnn (logInterval s 9) (announceBody (s.announceData p)))
  have hlen := hf.len
  rw [length_ptpMessage, length_announceBody] at hlen
  exact does_sendPtp (event := false) hring hgeneral (by omega) hexec
    (P := fun f => f.ptp = .announce ∧ f.src = s.svc.mac) ⟨hf.kind, hf.src⟩ fun t hq _ hp _ => ⟨hq, hp⟩

include hgeneral in
theorem ptpDelayReq_does (hm : s.masters p = true) (hpeer : s.peerDelay = false) (seq : BitVec 16) (requester : BitVec 80) (t4 : Int) :
    Does (.ptpDelayReq p seq requester t4) s [.portA, .portB] fun t =>
      Queued s t p (s.txqGeneral p) (fun f => f.ptp = .delayResp ∧ f.src = s.svc.mac) := by
  have hexec := exec_ptpDelayReq p seq requester t4 s
  rw [execPtpDelayReq, if_neg (by simp [hm, hpeer])] at hexec
  have hf := ptpFrame_of s .delayResp false false (ptpMessage s p 9 seq (logInterval s 10)
    (stampBytes (s.rxTime p t4) ++ beBytes 10 requester.toNat))
  have hlen := hf.len
  rw [length_ptpMessage, List.length_append, length_stampBytes, length_beBytes] at hlen
  exact does_sendPtp_only (event := false) hring hgeneral (by omega) hexec
    (P := fun f => f.ptp = .delayResp ∧ f.src = s.svc.mac) ⟨hf.kind, hf.src⟩

include hevent in
theorem ptpDelayReqSend_does (h : (s.peerDelay = false ∧ s.slaves p = true) ∨ (s.peerDelay = true ∧ s.ptpLive p = true)) (t3 : Int) :
    Does (.ptpDelayReqSend p t3) s [.portA, .portB, .time] fun t =>
      Queued s t p (s.txqEvent p) (fun f => f.ptp = if s.peerDelay then .pdelayReq else .delayReq) ∧
      (t.ptp p).reqSent = some ((s.ptp p).seqReq, s.txTime p t3) ∧ (t.ptp p).seqReq = (s.ptp p).seqReq + 1 := by
  have hexec := exec_ptpDelayReqSend p t3 s
  have hgo : (if s.peerDelay then s.ptpLive p else s.slaves p) = true := by
    rcases h with ⟨hpeer, hs⟩ | ⟨hpeer, hl⟩
    · rw [hpeer]
      exact hs
    · rw [hpeer]
      exact hl
  unfold execPtpDelayReqSend at hexec
  extract_lets r peer msg at hexec
  rw [if_neg (by rw [show (if peer = true then s.ptpLive p else s.slaves p) = true from hgo]; decide)] at hexec
  have hf := ptpFrame_of s (if peer then .pdelayReq else .delayReq) peer true msg
  have hlen := hf.len
  have hmsg : msg.length ≤ 54 := by
    dsimp only [msg]
    rw [length_ptpMessage, length_leBytes]
    split <;> decide
  refine does_sendPtp (event := true) hring hevent (by omega) hexec (P := fun f => f.ptp = if s.peerDelay then .pdelayReq else .delayReq)
    hf.kind fun t hq _ hp _ => ⟨hq, ?_, ?_⟩
  · rw [hp]
  · rw [hp]

include hevent in
theorem ptpPdelayReq_does (hl : s.ptpLive p = true) (hpeer : s.peerDelay = true) (seq : BitVec 16) (requester : BitVec 80) (t2 : Int) :
    Does (.ptpPdelayReq p seq requester t2) s [.portA, .portB] fun t =>
      Queued s t p (s.txqEvent p) (fun f => f.ptp = .pdelayResp ∧ f.asked = s.rxTime p t2) := by
  have hexec := exec_ptpPdelayReq p seq requester t2 s
  rw [execPtpPdelayReq, if_neg (by simp [hl, hpeer])] at hexec
  have hf := ptpFrame_of s .pdelayResp true true (ptpMessage s p 3 seq 0x7F (leBytes 10 0 ++ beBytes 10 requester.toNat))
  have hlen := hf.len
  rw [length_ptpMessage, List.length_append, length_leBytes, length_beBytes] at hlen
  have hkind := hf.kind
  generalize ptpFrame s .pdelayResp true true (ptpMessage s p 3 seq 0x7F (leBytes 10 0 ++ beBytes 10 requester.toNat)) = f at hexec hkind hlen
  exact does_sendPtp_only (event := true) (f := { f with asked := s.rxTime p t2 }) hring hevent (le_trans hlen (by decide)) hexec
    (P := fun f => f.ptp = .pdelayResp ∧ f.asked = s.rxTime p t2) ⟨hkind, rfl⟩

end

/-- Settles O31: each message is one frame of its kind that joins its queue, with the engine's next sequence number. -/
theorem ptpSending : Obligations.PtpSending := by
  unfold Obligations.PtpSending
  intro s p hring hevent hgeneral
  refine ⟨fun hm => ⟨ptpSyncSend_does hring hevent hm, ptpAnnounceSend_does hring hgeneral hm,
      fun hpeer seq requester t4 => ptpDelayReq_does hring hgeneral hm hpeer seq requester t4⟩,
    fun h t3 => ptpDelayReqSend_does hring hevent h t3,
    fun hl hpeer seq requester t2 => ptpPdelayReq_does hring hevent hl hpeer seq requester t2, fun hm => ⟨?_, ?_, fun seq requester t4 => ?_⟩⟩
  · rw [exec_ptpSyncSend, execPtpSyncSend, if_pos (by simp [hm])]
  · rw [exec_ptpAnnounceSend, execPtpAnnounceSend, if_pos (by simp [hm])]
  · rw [exec_ptpDelayReq, execPtpDelayReq, if_pos (by simp [hm])]

end Sys2Proof.Machine
end

section
/-! PROOFS. PTP messages received, O32. -/

namespace Sys2Proof.Machine

open Sys2Proof

set_option Elab.async false

/-- The engines of both ports, and the references. -/
def State.heard (s : State) : PtpPort × PtpPort × Vector RefRec 6 := (s.time.ptpA, s.time.ptpB, s.time.refs)

theorem ptp_of_heard {s t : State} (h : t.heard = s.heard) (p : Port) : t.ptp p = s.ptp p := by
  cases p
  · exact congrArg Prod.fst h
  · exact congrArg (fun x : PtpPort × PtpPort × Vector RefRec 6 => x.2.1) h

theorem refRec_of_heard {s t : State} (h : t.heard = s.heard) (r : Fin 6) : t.refRec r = s.refRec r :=
  congrArg (fun x : PtpPort × PtpPort × Vector RefRec 6 => x.2.2[r]) h

theorem Touch.heard_eq {ps : List Part} {s t : State} (h : Touch ps s t) (hp : ps.contains .time = false := by rfl) :
    t.heard = s.heard := congrArg (fun t : TimeSt => (t.ptpA, t.ptpB, t.refs)) (h.time_eq hp)

theorem Touch.ptp_eq {ps : List Part} {s t : State} (h : Touch ps s t) (p : Port) (hp : ps.contains .time = false := by rfl) :
    t.ptp p = s.ptp p := ptp_of_heard (h.heard_eq hp) p

/-! A measurement of a port (R207, R219, R220). -/

theorem withdrawStep_heard (s : State) : (withdrawStep s).heard = s.heard := by
  unfold withdrawStep
  split <;> rfl

theorem formStep_heard (v : Int) (s : State) : (formStep v s).heard = s.heard := by
  unfold formStep
  exact (State.raise_touch 4 _).heard_eq

section
variable {s : State} {p : Port}

theorem ptpMeasure_heard (raw : Int) (s : State) :
    (ptpMeasure p raw s).heard = (s.onRef (ptpRef p) fun x => { x with phase := raw - s.time.phaseOfs }).heard := by
  unfold ptpMeasure
  extract_lets r m d out s1 s2 sign n s3
  have h1 : s1.heard = (s.onRef (ptpRef p) fun x => { x with phase := raw - s.time.phaseOfs }).heard := rfl
  have hbump (c : Prop) [Decidable c] : (if c then s1.bump 5 4 else s1).heard = s1.heard := by split <;> rfl
  split
  · exact (hbump _).trans h1
  split
  · have h2 : s2.heard = s1.heard := hbump _
    split
    · exact (withdrawStep_heard s2).trans (h2.trans h1)
    · exact h2.trans h1
  split
  · have h3 : s3.heard = s1.heard := rfl
    split
    · exact (formStep_heard d s3).trans (h3.trans h1)
    · exact h3.trans h1
  · exact h1

/-! Presence of the references (R216). -/

theorem checkPresent_ptp (r : Fin 6) (k : Port) (s : State) : (checkPresent r s).ptp k = s.ptp k := by
  unfold checkPresent
  extract_lets q o s1
  have h1 : s1.ptp k = s.ptp k := by cases k <;> rfl
  split
  · cases k <;> rfl
  · exact h1

theorem checkRefs_ptp (k : Port) (s : State) : (checkRefs s).ptp k = s.ptp k :=
  forAll_keeps (fun t => t.ptp k) (fun r _ t => checkPresent_ptp r k t) s

theorem checkPresent_refRec (r : Fin 6) (s : State) : (checkPresent r s).refRec r =
    if s.refPresent r then { s.refRec r with present := true }
    else { s.refRec r with present := false, qualified := r == 0, goodMs := 0, badMs := 0 } := by
  unfold checkPresent
  extract_lets q o s1
  have h1 : s1.refRec r = if q then { s.refRec r with present := true }
      else { s.refRec r with present := false, qualified := r == 0, goodMs := 0, badMs := 0 } := vmod_get_self ..
  split
  · exact h1
  · exact h1

theorem checkPresent_refRec_ne {r k : Fin 6} (h : k ≠ r) (s : State) : (checkPresent r s).refRec k = s.refRec k := by
  unfold checkPresent
  extract_lets q o s1
  have h1 : s1.refRec k = s.refRec k := vmod_get_ne _ _ h
  split
  · exact h1
  · exact h1

theorem refPresent_slave (hp : (s.ptp p).synced = false ∨ (s.ptp p).announced = false) : s.refPresent (ptpRef p) = false := by
  cases p with
  | a =>
    change (s.ptpRuns .a && (s.ptp .a).role == .slave && (s.ptp .a).announced && (s.ptp .a).synced) = false
    rcases hp with h | h <;> simp [h]
  | b =>
    change (s.ptpRuns .b && (s.ptp .b).role == .slave && (s.ptp .b).announced && (s.ptp .b).synced) = false
    rcases hp with h | h <;> simp [h]

/-- A port that hears no master, or no Sync, is no reference (R216). -/
theorem checkRefs_absent (hp : (s.ptp p).synced = false ∨ (s.ptp p).announced = false) :
    ((checkRefs s).refRec (ptpRef p)).present = false ∧ ((checkRefs s).refRec (ptpRef p)).qualified = false := by
  have hr0 : (ptpRef p == (0 : Fin 6)) = false := by cases p <;> decide
  have habsent (t : State) (ht : t.ptp p = s.ptp p) : ((checkPresent (ptpRef p) t).refRec (ptpRef p)).present = false ∧
      ((checkPresent (ptpRef p) t).refRec (ptpRef p)).qualified = false := by
    rw [checkPresent_refRec, if_neg (by rw [refPresent_slave (by rw [ht]; exact hp)]; decide)]
    exact ⟨rfl, hr0⟩
  have hall (l : List (Fin 6)) (hmem : ptpRef p ∈ l) (t : State) (ht : t.ptp p = s.ptp p) :
      ((forAll l checkPresent t).refRec (ptpRef p)).present = false ∧ ((forAll l checkPresent t).refRec (ptpRef p)).qualified = false := by
    induction l generalizing t with
    | nil => exact absurd hmem List.not_mem_nil
    | cons r l ih =>
      rw [forAll_cons]
      by_cases hl : ptpRef p ∈ l
      · exact ih hl _ ((checkPresent_ptp r p t).trans ht)
      · have hr : ptpRef p = r := (List.mem_cons.1 hmem).resolve_right hl
        subst hr
        rw [forAll_keeps (fun u => u.refRec (ptpRef p))
          (fun k hk u => checkPresent_refRec_ne (fun e : ptpRef p = k => hl (e.symm ▸ hk)) u)]
        exact habsent t ht
  exact hall _ (List.mem_finRange _) s rfl

/-! A Sync taken (R201, R209). -/

theorem checkRefs_phaseOfs (s : State) : (checkRefs s).time.phaseOfs = s.time.phaseOfs := by
  have hofs (r : Fin 6) (t : State) : (checkPresent r t).time.phaseOfs = t.time.phaseOfs := by
    unfold checkPresent
    extract_lets q o s1
    split <;> rfl
  exact forAll_keeps (fun t : State => t.time.phaseOfs) (fun r _ t => hofs r t) s

/-- The engine with a Sync sent at `t1`, corrections added, and received at `t2`. -/
def PtpPort.tookSync (t1 t2 : Int) (r : PtpPort) : PtpPort := { r with synced := true, pending := none, lastT1 := t1, lastT2 := t2 }

theorem useSync_does (t1 t2 corr : Int) (s : State) : (useSync p t1 t2 corr s).ptp p = (s.ptp p).tookSync (t1 + corr) t2 ∧
    ((useSync p t1 t2 corr s).refRec (ptpRef p)).phase = t2 - t1 - corr - (s.ptp p).meanDelay - s.time.phaseOfs := by
  have heq : useSync p t1 t2 corr s = ptpMeasure p (t2 - t1 - corr - (s.ptp p).meanDelay) (checkRefs (s.onPtp p (·.tookSync (t1 + corr) t2))) := rfl
  have hphase : (checkRefs (s.onPtp p (·.tookSync (t1 + corr) t2))).time.phaseOfs = s.time.phaseOfs :=
    (checkRefs_phaseOfs _).trans (by cases p <;> rfl)
  have hptp : (checkRefs (s.onPtp p (·.tookSync (t1 + corr) t2))).ptp p = (s.ptp p).tookSync (t1 + corr) t2 :=
    (checkRefs_ptp p _).trans (State.ptp_onPtp ..)
  rw [heq]
  generalize checkRefs (s.onPtp p (·.tookSync (t1 + corr) t2)) = u at hphase hptp ⊢
  generalize t2 - t1 - corr - (s.ptp p).meanDelay = m
  have hheard := ptpMeasure_heard (p := p) m u
  refine ⟨(ptp_of_heard hheard p).trans ?_, (congrArg RefRec.phase (refRec_of_heard hheard _)).trans ?_⟩
  · have href : (u.onRef (ptpRef p) fun x => { x with phase := m - u.time.phaseOfs }).ptp p = u.ptp p := by cases p <;> rfl
    rw [href, hptp]
  · rw [← hphase]
    exact congrArg RefRec.phase (vmod_get_self ..)

theorem ptpSync_does {m : PtpSync} (hs : s.slaves p = true) (hd : m.domain.toNat = s.ptpDomain p) :
    (m.twoStep = true → Does (.ptpSync p m) s [.time] fun t =>
      t.ptp p = { s.ptp p with pending := some (m.seq, s.rxTime p m.t2, m.corr) } ∧ t.ptp (otherPort p) = s.ptp (otherPort p)) ∧
    (m.twoStep = false → Does (.ptpSync p m) s [.pages, .time, .cnt] fun t => (t.ptp p).synced = true ∧ (t.ptp p).pending = none ∧
      (t.ptp p).lastT2 = s.rxTime p m.t2 ∧
      (t.refRec (ptpRef p)).phase = s.rxTime p m.t2 - m.t1 - m.corr - (s.ptp p).meanDelay - s.time.phaseOfs) := by
  have hexec := exec_ptpSync p m s
  rw [execPtpSync, if_neg (by simp [hs, hd])] at hexec
  refine ⟨fun h2 => ?_, fun h2 => ?_⟩
  · rw [if_pos h2] at hexec
    exact ((State.onPtp_touch ..).after (Touch.refl _ s) rfl).does hexec ⟨State.ptp_onPtp .., State.ptp_onPtp_ne (otherPort_ne_self p) _ s⟩
  · rw [if_neg (by simp [h2])] at hexec
    obtain ⟨hptp, hphase⟩ := useSync_does (p := p) m.t1 (s.rxTime p m.t2) m.corr s
    exact (useSync_touch ..).does hexec ⟨by rw [hptp]; rfl, by rw [hptp]; rfl, by rw [hptp]; rfl, hphase⟩

theorem ptpFollowUp_does {c : BitVec 16 × Int × Int} (hc : (s.ptp p).pending = some c) (seq : BitVec 16) (t1 corr : Int) :
    (s.slaves p = true → seq = c.1 → Does (.ptpFollowUp p seq t1 corr) s [.pages, .time, .cnt] fun t => (t.ptp p).pending = none ∧
      (t.refRec (ptpRef p)).phase = c.2.1 - t1 - (c.2.2 + corr) - (s.ptp p).meanDelay - s.time.phaseOfs) ∧
    (seq ≠ c.1 → exec (.ptpFollowUp p seq t1 corr) s = .next s) := by
  obtain ⟨q, t2, k⟩ := c
  have hexec := exec_ptpFollowUp p seq t1 corr s
  rw [execPtpFollowUp, hc] at hexec
  dsimp only at hexec
  refine ⟨fun hs hseq => ?_, fun hne => ?_⟩
  · obtain ⟨hptp, hphase⟩ := useSync_does (p := p) t1 t2 (k + corr) s
    rw [if_pos (by simp [hs, hseq])] at hexec
    exact (useSync_touch ..).does hexec ⟨by rw [hptp]; rfl, hphase⟩
  · have hq : (q == seq) = false := beq_false_of_ne fun e => hne e.symm
    rw [hexec, if_neg (by simp [hq])]

/-! Mean delays (R201). -/

theorem divOpen_two (x : Int) : x ≤ 2 * halfTime x + 1 ∧ 2 * halfTime x ≤ x + 1 := by
  unfold halfTime divOpen
  extract_lets q
  have hq : q = x / 2 := rfl
  split
  · omega
  split <;> omega

theorem ptpDelayResp_does {c : BitVec 16 × Int} (hc : (s.ptp p).reqSent = some c) {seq : BitVec 16} (t4 corr : Int)
    (hs : s.slaves p = true) (hpeer : s.peerDelay = false) (hseq : seq = c.1) : Does (.ptpDelayResp p seq t4 corr) s [.time] fun t =>
      (t.ptp p).reqSent = none ∧ (let x := ((s.ptp p).lastT2 - (s.ptp p).lastT1) + (t4 - corr - c.2)
        x ≤ 2 * (t.ptp p).meanDelay + 1 ∧ 2 * (t.ptp p).meanDelay ≤ x + 1) := by
  obtain ⟨q, t3⟩ := c
  have hexec := exec_ptpDelayResp p seq t4 corr s
  rw [execPtpDelayResp, hc] at hexec
  dsimp only at hexec
  rw [if_neg (by simp [hs, hpeer, hseq])] at hexec
  refine ((State.onPtp_touch ..).after (Touch.refl _ s) rfl).does hexec ?_
  rw [State.ptp_onPtp]
  exact ⟨rfl, divOpen_two _⟩

theorem ptpPdelayResp_first {c : BitVec 16 × Int} (hc : (s.ptp p).reqSent = some c) {m : PtpPdelayResp} (hl : s.ptpLive p = true)
    (hpeer : s.peerDelay = true) (hf : m.followUp = false) (hseq : m.seq = c.1) :
    (m.twoStep = false → Does (.ptpPdelayResp p m) s [.time] fun t =>
      (t.ptp p).reqSent = none ∧ (let x := s.rxTime p m.t4 - c.2 - m.turnaround
        x ≤ 2 * (t.ptp p).meanDelay + 1 ∧ 2 * (t.ptp p).meanDelay ≤ x + 1)) ∧
    (m.twoStep = true → Does (.ptpPdelayResp p m) s [.time] fun t => t.ptp p = { s.ptp p with
      reqSent := none, pdPending := some (m.seq, s.rxTime p m.t4 - c.2 - m.turnaround) }) := by
  obtain ⟨q, t1⟩ := c
  have hq : q = m.seq := hseq.symm
  have hexec := exec_ptpPdelayResp p m s
  rw [execPtpPdelayResp, if_neg (by simp [hl, hpeer]), if_neg (by simp [hf]), hc] at hexec
  dsimp only at hexec
  rw [hq, if_neg (by simp)] at hexec
  refine ⟨fun h2 => ?_, fun h2 => ?_⟩
  · rw [if_neg (by simp [h2])] at hexec
    refine ((State.onPtp_touch ..).after (Touch.refl _ s) rfl).does hexec ?_
    rw [State.ptp_onPtp]
    exact ⟨rfl, divOpen_two _⟩
  · rw [if_pos h2] at hexec
    exact ((State.onPtp_touch ..).after (Touch.refl _ s) rfl).does hexec (State.ptp_onPtp ..)

theorem ptpPdelayResp_followUp {c : BitVec 16 × Int} (hc : (s.ptp p).pdPending = some c) {m : PtpPdelayResp} (hl : s.ptpLive p = true)
    (hpeer : s.peerDelay = true) (hf : m.followUp = true) (hseq : m.seq = c.1) : Does (.ptpPdelayResp p m) s [.time] fun t =>
      (t.ptp p).pdPending = none ∧ (let x := c.2 - m.turnaround
        x ≤ 2 * (t.ptp p).meanDelay + 1 ∧ 2 * (t.ptp p).meanDelay ≤ x + 1) := by
  obtain ⟨q, d⟩ := c
  have hexec := exec_ptpPdelayResp p m s
  rw [execPtpPdelayResp, if_neg (by simp [hl, hpeer]), if_pos hf, hc] at hexec
  dsimp only at hexec
  rw [if_neg (by simp [hseq])] at hexec
  refine ((State.onPtp_touch ..).after (Touch.refl _ s) rfl).does hexec ?_
  rw [State.ptp_onPtp]
  exact ⟨rfl, divOpen_two _⟩

/-! Masters heard (R201, R216). -/

theorem runBmca_ptp (k : Port) (s : State) : ((runBmca k s).ptp p).best = (s.ptp p).best ∧
    ((runBmca k s).ptp p).announced = (s.ptp p).announced := by
  unfold runBmca
  split
  · exact ⟨rfl, rfl⟩
  · cases k <;> cases p <;> exact ⟨rfl, rfl⟩

theorem settlePtp_ptp (s : State) : ((settlePtp s).ptp p).best = (s.ptp p).best ∧
    ((settlePtp s).ptp p).announced = (s.ptp p).announced := by
  obtain ⟨hb1, ha1⟩ := runBmca_ptp (p := p) .a s
  obtain ⟨hb2, ha2⟩ := runBmca_ptp (p := p) .b (runBmca .a s)
  unfold settlePtp
  rw [checkRefs_ptp]
  exact ⟨hb2.trans hb1, ha2.trans ha1⟩

theorem ptpAnnounce_idle {m : PtpAnnounce} (h : m.domain.toNat ≠ s.ptpDomain p ∨ m.gm = s.clockId) :
    exec (.ptpAnnounce p m) s = .next s := by
  rw [exec_ptpAnnounce, execPtpAnnounce, if_pos]
  rcases h with h | h <;> simp [h]

theorem ptpAnnounce_does {m : PtpAnnounce} (hl : s.ptpLive p = true) (hd : m.domain.toNat = s.ptpDomain p) (hgm : m.gm ≠ s.clockId) :
    Does (.ptpAnnounce p m) s [.time, .cnt] fun t =>
      ((s.ptp p).best = none → (t.ptp p).best = some m ∧ (t.ptp p).announced = true) ∧
      (∀ b, (s.ptp p).best = some b → (b.gm = m.gm ∨ announceKey m < announceKey b → (t.ptp p).best = some m ∧ (t.ptp p).announced = true) ∧
        (b.gm ≠ m.gm → announceKey b ≤ announceKey m → (t.ptp p).best = some b)) := by
  have hexec := exec_ptpAnnounce p m s
  unfold execPtpAnnounce at hexec
  extract_lets better at hexec
  rw [if_neg (by simp [hl, hd, hgm])] at hexec
  have hkept : ((settlePtp (s.onPtp p fun t => { t with best := some m, announced := true })).ptp p).best = some m ∧
      ((settlePtp (s.onPtp p fun t => { t with best := some m, announced := true })).ptp p).announced = true := by
    obtain ⟨hb, ha⟩ := settlePtp_ptp (p := p) (s.onPtp p fun t => { t with best := some m, announced := true })
    rw [hb, ha, State.ptp_onPtp]
    exact ⟨rfl, rfl⟩
  have htouch : Touch [.time, .cnt] s (settlePtp (s.onPtp p fun t => { t with best := some m, announced := true })) :=
    (settlePtp_touch _).after ((State.onPtp_touch ..).after (Touch.refl _ s) rfl) rfl
  cases hbest : (s.ptp p).best with
  | none =>
    have hyes : better = true := by simp only [better, hbest]
    rw [if_pos hyes] at hexec
    exact htouch.does hexec ⟨fun _ => hkept, by simp⟩
  | some b =>
    have hiff : better = true ↔ b.gm = m.gm ∨ announceKey m < announceKey b := by
      simp only [better, hbest, Bool.or_eq_true, beq_iff_eq, decide_eq_true_eq]
    by_cases hbetter : b.gm = m.gm ∨ announceKey m < announceKey b
    · rw [if_pos (hiff.2 hbetter)] at hexec
      refine htouch.does hexec ⟨by simp, fun x hx => ⟨fun _ => hkept, fun hne hle => ?_⟩⟩
      rw [Option.some.injEq] at hx
      subst hx
      rcases hbetter with h | h
      · exact absurd h hne
      · exact absurd hle (not_le.2 h)
    · rw [if_neg (fun h => hbetter (hiff.1 h))] at hexec
      refine (settlePtp_touch s).does hexec ⟨by simp, fun x hx => ?_⟩
      rw [Option.some.injEq] at hx
      subst hx
      exact ⟨fun h => absurd h hbetter, fun _ _ => (settlePtp_ptp s).1.trans hbest⟩

theorem announceTimeout_does (hr : s.ptpRuns p = true) (ha : (s.ptp p).announced = true) :
    Does (.announceTimeout p) s [.time, .cnt] fun t =>
      (t.ptp p).best = none ∧ (t.ptp p).announced = false ∧ (t.refRec (ptpRef p)).present = false ∧
      t.count 5 (2 + pathIx p) = min (2 ^ 48 - 1) (s.count 5 (2 + pathIx p) + 1) := by
  have hexec := exec_announceTimeout p s
  rw [execAnnounceTimeout, if_neg (by simp [hr, ha])] at hexec
  let u := (s.onPtp p fun t => { t with best := none, announced := false, gm := 0 }).bump 5 (2 + pathIx p)
  have hix : 2 + pathIx p < 10 := by cases p <;> decide
  have hu : u.ptp p = { s.ptp p with best := none, announced := false, gm := 0 } := by cases p <;> rfl
  have hcount : u.count 5 (2 + pathIx p) = min (2 ^ 48 - 1) (s.count 5 (2 + pathIx p) + 1) := by
    refine (count_bumpBy_self (by omega) 5 1 _).trans ?_
    rw [(State.onPtp_touch p _ s).count_eq]
  have htouch : Touch [.time, .cnt] s u := (State.bump_touch ..).after ((State.onPtp_touch ..).after (Touch.refl _ s) rfl) rfl
  change exec (.announceTimeout p) s = .next (settlePtp u) at hexec
  generalize u = v at hexec hu hcount htouch
  obtain ⟨hb, hann⟩ := settlePtp_ptp (p := p) v
  have hcheck (r : Fin 6) (t : State) : (checkPresent r t).count 5 (2 + pathIx p) = t.count 5 (2 + pathIx p) := by
    unfold checkPresent
    extract_lets q o s1
    split
    · exact count_bumpBy_ne (by decide) (by omega) (by omega) 5 1 s1
    · rfl
  have hcounts : (settlePtp v).count 5 (2 + pathIx p) = v.count 5 (2 + pathIx p) := by
    unfold settlePtp checkRefs
    rw [forAll_keeps (fun t : State => t.count 5 (2 + pathIx p)) (fun r _ t => hcheck r t)]
    rw [(runBmca_touch .b _).count_eq, (runBmca_touch .a _).count_eq]
  refine ((settlePtp_touch v).after htouch rfl).does hexec ⟨hb.trans (by rw [hu]), hann.trans (by rw [hu]), ?_, hcounts.trans hcount⟩
  have hheard : ((runBmca .b (runBmca .a v)).ptp p).announced = false := by
    rw [(runBmca_ptp .b _).2, (runBmca_ptp .a _).2, hu]
  exact (checkRefs_absent (.inr hheard)).1

theorem syncReceiptTimeout_does (h : (s.ptp p).role = .slave) : Does (.syncReceiptTimeout p) s [.time, .cnt] fun t =>
    (t.ptp p).synced = false ∧ (t.refRec (ptpRef p)).present = false ∧ (t.refRec (ptpRef p)).qualified = false := by
  have hexec := exec_syncReceiptTimeout p s
  rw [execSyncReceiptTimeout, if_pos (by rw [h]; rfl)] at hexec
  have hptp : ((s.onPtp p fun t => { t with synced := false, pending := none }).ptp p).synced = false := by rw [State.ptp_onPtp]
  have habsent := checkRefs_absent (.inl hptp)
  refine ((checkRefs_touch _).after ((State.onPtp_touch ..).after (Touch.refl _ s) rfl) rfl).does hexec ⟨?_, habsent⟩
  rw [checkRefs_ptp, hptp]

end

/-- Settles O32: a Sync is measured by `useSync` at once or with its Follow_Up; the delay answers halve; Announce and its time-out set
the best master, and what is no longer heard is no reference. -/
theorem ptpReceiving : Obligations.PtpReceiving := by
  unfold Obligations.PtpReceiving
  intro s p
  refine ⟨fun m hs hd => ptpSync_does hs hd, fun m h => ?_, fun c hc seq t1 corr => ptpFollowUp_does hc seq t1 corr,
    fun c hc seq t4 corr hs hpeer hseq => ptpDelayResp_does hc t4 corr hs hpeer hseq,
    fun c hc m hl hpeer hf hseq => ptpPdelayResp_first hc hl hpeer hf hseq,
    fun c hc m hl hpeer hf hseq => ptpPdelayResp_followUp hc hl hpeer hf hseq,
    fun m hl hd hgm => ptpAnnounce_does hl hd hgm, fun m h => ptpAnnounce_idle h, announceTimeout_does, syncReceiptTimeout_does, fun h => ?_⟩
  · rw [exec_ptpSync, execPtpSync, if_pos]
    rcases h with h | h <;> simp [h]
  · rw [exec_syncReceiptTimeout, execSyncReceiptTimeout, if_neg (by simpa using h)]

end Sys2Proof.Machine
end

section
/-! PROOFS. Servo, lock and reference commands, O33. -/

namespace Sys2Proof.Machine

open Sys2Proof

set_option Elab.async false

/-- Among operations once over a list, the one for `r` decides what `W` shows, from what `V` shows. -/
theorem forAll_once {α β γ : Type} [DecidableEq α] {l : List α} (hnd : l.Nodup) {r : α} (hr : r ∈ l) {op : α → State → State}
    {V : State → β} {W : State → γ} {x : γ} {s : State} (hV : ∀ k t, k ≠ r → V (op k t) = V t)
    (hW : ∀ k t, k ≠ r → W (op k t) = W t) (hself : ∀ t, V t = V s → W (op r t) = x) : W (forAll l op s) = x := by
  have hrun (t : State) (ht : V t = V s) : W (forAll l op t) = x := by
    induction l generalizing t with
    | nil => exact absurd hr List.not_mem_nil
    | cons k l ih =>
      obtain ⟨hk, hnd'⟩ := List.nodup_cons.1 hnd
      rw [forAll_cons]
      by_cases h : k = r
      · subst h
        rw [forAll_keeps W (fun j hj u => hW j u fun e => hk (e ▸ hj))]
        exact hself t ht
      · exact ih hnd' ((List.mem_cons.1 hr).resolve_left fun e => h e.symm) (op k t) ((hV k t h).trans ht)
  exact hrun s rfl

section
variable {s : State}

/-! The servo, the lock and the slew (R207, R208, R218, R221). -/

theorem servoUpdate_does {m : Int} (hr : s.running .timekeeper = true) (hw : 3 ≤ s.time.ref.toNat) (h1 : 1 ≤ s.time.lock.toNat)
    (h3 : s.time.lock.toNat ≤ 3) (h8 : s.now.toNat % 8 = 0) : Does (.servoUpdate m) s [.time] fun t =>
      t.time.ofs = s.edgePhase m ∧ t.time.lock = s.time.lock ∧
      t.time = { s.time with ofs := s.edgePhase m, freq := t.time.freq, pred := t.time.pred } := by
  have hexec := exec_servoUpdate m s
  have h0 : s.time.lock ≠ 0 := fun e => by
    rw [e] at h1
    exact absurd h1 (by decide)
  rw [execServoUpdate, if_neg] at hexec
  · exact (servoTake_touch ..).does hexec ⟨rfl, rfl, rfl⟩
  · simp only [hr, Bool.not_true, Bool.false_or, Bool.or_eq_true, decide_eq_true_eq, not_or, not_lt, not_le, not_not]
    exact ⟨⟨⟨hw, h0⟩, by omega⟩, h8⟩

theorem servoUpdate_idle {m : Int} (h : s.running .timekeeper = false ∨ s.time.ref.toNat < 3 ∨ s.now.toNat % 8 ≠ 0) :
    exec (.servoUpdate m) s = .next s := by
  rw [exec_servoUpdate, execServoUpdate, if_pos]
  rcases h with h | h | h
  · simp [h]
  · simp [decide_eq_true h]
  · simp only [Bool.or_eq_true, decide_eq_true_eq]
    exact .inr h

theorem lockTimer_locks (hl : s.time.lock = 1) (ho : (s.time.ofs.natAbs : Int) ≤ s.lockBound) :
    exec .lockTimer s = .next { s with time := { s.time with lock := 2, lockedS := 0 } } := by
  rw [exec_lockTimer, execLockTimer, if_pos ⟨hl, ho⟩]
  rfl

theorem lockTimer_unlocks (hl : s.time.lock = 2) (ho : 4 * s.lockBound < (s.time.ofs.natAbs : Int)) :
    exec .lockTimer s = .next { s with time := { s.time with lock := 1, lockedS := 0 } } := by
  rw [exec_lockTimer, execLockTimer, if_neg (by rw [hl]; exact fun h => absurd h.1 (by decide)), if_pos ⟨hl, ho⟩]
  rfl

theorem lockTimer_idle (h1 : s.time.lock ≠ 1) (h2 : s.time.lock ≠ 2) : exec .lockTimer s = .next s := by
  rw [exec_lockTimer, execLockTimer, if_neg (fun h => h1 h.1), if_neg (fun h => h2 h.1)]

theorem slewComplete_acquires (h3 : s.time.lock = 3) (h0 : s.time.slew = 0) :
    exec .slewComplete s = .next { s with time := { s.time with lock := 1, slewAcc := 0 } } := by
  rw [exec_slewComplete, execSlewComplete, if_pos ⟨h3, h0⟩]
  rfl

theorem slewComplete_idle (h : s.time.lock ≠ 3 ∨ s.time.slew ≠ 0) : exec .slewComplete s = .next s := by
  rw [exec_slewComplete, execSlewComplete, if_neg]
  rintro ⟨h3, h0⟩
  rcases h with h | h
  · exact h h3
  · exact h h0

theorem oscModelSave_saves (h : s.chip.supply ≠ .off) :
    exec .oscModelSave s = .next { s with time := { s.time with modelSaved := s.time.model } } := by
  rw [exec_oscModelSave, execOscModelSave, if_neg h]
  rfl

/-! Presence and judgement of the references (R216). -/

/-- A reference found present or absent. -/
def RefRec.found (here atZero : Bool) (r : RefRec) : RefRec :=
  if here then { r with present := true } else { r with present := false, qualified := atZero, goodMs := 0, badMs := 0 }

theorem refPresent_onRef {r k : Fin 6} (h : r ≠ k) (g : RefRec → RefRec) (s : State) : (s.onRef k g).refPresent r = s.refPresent r := by
  by_cases h3 : r = 3
  · subst h3
    exact congrArg RefRec.present (vmod_get_ne _ _ h)
  · have hsame (t : State) (ht : t = s.onRef k g) (hr : (t.refRec 3).present = (s.refRec 3).present) : t.refPresent r = s.refPresent r := by
      subst ht
      unfold State.refPresent
      rw [hr]
      rfl
    unfold State.refPresent
    simp only [h3, if_false]
    rfl

theorem refPresent_checkPresent {r k : Fin 6} (h : r ≠ k) (s : State) : (checkPresent k s).refPresent r = s.refPresent r := by
  unfold checkPresent
  extract_lets q o s1
  have h1 : s1.refPresent r = s.refPresent r := refPresent_onRef h ..
  split
  · exact h1
  · exact h1

theorem checkRefs_refRec (r : Fin 6) (s : State) : (checkRefs s).refRec r = (s.refRec r).found (s.refPresent r) (r == 0) := by
  refine forAll_once (List.nodup_finRange 6) (List.mem_finRange r) (V := fun t => (t.refPresent r, t.refRec r)) (W := (·.refRec r))
    (fun k t hk => ?_) (fun k t hk => checkPresent_refRec_ne hk.symm t) fun t ht => ?_
  · exact Prod.ext (refPresent_checkPresent hk.symm t) (checkPresent_refRec_ne hk.symm t)
  · obtain ⟨hp, hrec⟩ := Prod.mk.inj ht
    rw [checkPresent_refRec, hp, hrec]
    rfl

/-- A record without its phase. -/
def RefRec.unphased (r : RefRec) : RefRec := { r with phase := 0 }

theorem judgeRef_other {r k : Fin 6} (h : k ≠ r) (freqs phases : List Int) (s : State) :
    (judgeRef freqs phases k s).refRec r = s.refRec r := by
  unfold judgeRef
  extract_lets o tol n s1 s2
  have h1 : s1.refRec r = s.refRec r := vmod_get_ne _ _ h.symm
  have h2 : s2.refRec r = s1.refRec r := by
    dsimp only [s2]
    split <;> rfl
  split
  · rfl
  split
  · exact (congrArg (fun t : TimeSt => t.refs[r]) (State.raise_touch 6 _).time_eq).trans (h2.trans h1)
  · exact h2.trans h1

/-- The judgement of a reference that is present. -/
def State.judged (s : State) (freqs : List Int) (r : Fin 6) : RefRec :=
  (s.refRec r).judge ((freqs[r.val - 1]?).getD (s.refRec r).freq) (s.timeParam (if r.val ≤ 2 then 9 else 10)) (s.timeParam 8) (s.timeParam 11)

theorem judgeRef_self {r : Fin 6} (h0 : r ≠ 0) (hp : (s.refRec r).present = true) (freqs phases : List Int) :
    ((judgeRef freqs phases r s).refRec r).unphased = (s.judged freqs r).unphased := by
  unfold judgeRef
  extract_lets o tol n s1 s2
  have h1 : (s1.refRec r).unphased = (s.judged freqs r).unphased :=
    (congrArg RefRec.unphased (show s1.refRec r = _ from vmod_get_self ..)).trans rfl
  have h2 : s2.refRec r = s1.refRec r := by
    dsimp only [s2]
    split <;> rfl
  rw [if_neg (by rw [show o.present = true from hp]; simp [h0])]
  split
  · exact (congrArg (fun t : TimeSt => t.refs[r].unphased) (State.raise_touch 6 _).time_eq).trans ((congrArg RefRec.unphased h2).trans h1)
  · exact (congrArg RefRec.unphased h2).trans h1

theorem judgeRef_absent {r : Fin 6} (h : r = 0 ∨ (s.refRec r).present = false) (freqs phases : List Int) : judgeRef freqs phases r s = s := by
  unfold judgeRef
  extract_lets o
  refine if_pos ?_
  rcases h with h | h
  · simp [h]
  · rw [show o.present = false from h]
    simp

/-- The time record without its references. -/
def TimeSt.unreferred (t : TimeSt) : TimeSt := { t with refs := Vector.replicate 6 {} }

theorem checkPresent_unreferred (r : Fin 6) (s : State) : (checkPresent r s).time.unreferred = s.time.unreferred := by
  unfold checkPresent
  extract_lets q o s1
  split <;> rfl

theorem judgeRef_unreferred (freqs phases : List Int) (r : Fin 6) (s : State) :
    (judgeRef freqs phases r s).time.unreferred = s.time.unreferred := by
  unfold judgeRef
  extract_lets o tol n s1 s2
  have h2 : s2.time.unreferred = s.time.unreferred := by
    dsimp only [s2]
    split <;> rfl
  split
  · rfl
  split
  · exact (congrArg TimeSt.unreferred (State.raise_touch 6 _).time_eq).trans h2
  · exact h2

/-- The references after a 100 ms update. -/
def refsUpdated (freqs phases : List Int) (s : State) : State := forAll (List.finRange 6) (judgeRef freqs phases) (checkRefs s)

theorem refsUpdated_touch (freqs phases : List Int) (s : State) : Touch [.pages, .time, .cnt] s (refsUpdated freqs phases s) :=
  Touch.forAll (fun r t => (judgeRef_touch freqs phases r t).after (Touch.refl _ t) rfl) ((checkRefs_touch s).after (Touch.refl _ s) rfl)

theorem refsUpdated_time (freqs phases : List Int) (s : State) :
    (refsUpdated freqs phases s).time = { s.time with refs := (refsUpdated freqs phases s).time.refs } := by
  have h : (refsUpdated freqs phases s).time.unreferred = s.time.unreferred :=
    (forAll_keeps (fun t : State => t.time.unreferred) (fun r _ t => judgeRef_unreferred freqs phases r t) _).trans
      (forAll_keeps (fun t : State => t.time.unreferred) (fun r _ t => checkPresent_unreferred r t) s)
  generalize (refsUpdated freqs phases s).time = u at h ⊢
  exact congrArg (fun t : TimeSt => { t with refs := u.refs }) h

/-- A reference that is not judged is as the check of its presence left it. -/
theorem refsUpdated_unjudged (freqs phases : List Int) {r : Fin 6} (h : r = 0 ∨ s.refPresent r = false) :
    (refsUpdated freqs phases s).refRec r = (s.refRec r).found (s.refPresent r) (r == 0) := by
  refine forAll_once (List.nodup_finRange 6) (List.mem_finRange r) (V := (·.refRec r)) (W := (·.refRec r))
    (fun k t hk => judgeRef_other hk freqs phases t) (fun k t hk => judgeRef_other hk freqs phases t) fun t ht => ?_
  rw [judgeRef_absent, ht, checkRefs_refRec]
  refine h.imp_right fun hp => ?_
  rw [ht, checkRefs_refRec, hp]
  rfl

theorem refsUpdated_judged (freqs phases : List Int) {r : Fin 6} (h0 : r ≠ 0) (hp : s.refPresent r = true) :
    ((refsUpdated freqs phases s).refRec r).unphased = ({ s.refRec r with present := true }.judge
      ((freqs[r.val - 1]?).getD (s.refRec r).freq) (s.timeParam (if r.val ≤ 2 then 9 else 10)) (s.timeParam 8) (s.timeParam 11)).unphased := by
  refine forAll_once (List.nodup_finRange 6) (List.mem_finRange r) (V := fun t => (t.refRec r, t.life.params)) (W := fun t => (t.refRec r).unphased)
    (fun k t hk => Prod.ext (judgeRef_other hk freqs phases t) (judgeRef_touch freqs phases k t).params_eq)
    (fun k t hk => congrArg RefRec.unphased (judgeRef_other hk freqs phases t)) fun t ht => ?_
  obtain ⟨hrec, hparams⟩ := Prod.mk.inj ht
  have hparam (i : Nat) : t.timeParam i = s.timeParam i := by
    unfold State.timeParam State.param
    rw [hparams, (checkRefs_touch s).params_eq]
  have hrec' : t.refRec r = { s.refRec r with present := true } := by
    rw [hrec, checkRefs_refRec, hp]
    rfl
  rw [judgeRef_self h0 (by rw [hrec']), State.judged, hrec', hparam, hparam, hparam]

theorem RefRec.judge_inside {f : Int} {tol : Nat} (h : f.natAbs ≤ 1000 * tol) (qual frac : Nat) (r : RefRec) :
    (r.judge f tol qual frac).goodMs = r.goodMs + 100 ∧ (r.judge f tol qual frac).badMs = 0 ∧
    (r.qualified = false → ((r.judge f tol qual frac).qualified = true ↔ qual ≤ r.goodMs + 100)) := by
  have hin := decide_eq_true h
  simp only [RefRec.judge, hin, if_true]
  exact ⟨trivial, trivial, fun hq => by simp [hq]⟩

theorem RefRec.judge_outside {f : Int} {tol : Nat} (h : 1000 * tol < f.natAbs) (qual frac : Nat) (r : RefRec) :
    (r.judge f tol qual frac).goodMs = 0 ∧ (r.judge f tol qual frac).badMs = r.badMs + 100 ∧
    (r.qualified = true → ((r.judge f tol qual frac).qualified = false ↔ qual ≤ r.badMs + 100)) := by
  have hin := decide_eq_false (not_le.2 h)
  simp only [RefRec.judge, hin, Bool.false_eq_true, if_false]
  exact ⟨trivial, trivial, fun hq => by simp [hq]⟩

theorem refQualUpdate_does (freqs phases : List Int) (h : s.chip.supply ≠ .off) :
    Does (.refQualUpdate freqs phases) s [.pages, .time, .cnt] fun t =>
    t.refRec 0 = { s.refRec 0 with present := true } ∧ t.time = { s.time with refs := t.time.refs } ∧
    ∀ r : Fin 6, r ≠ 0 →
      (s.refPresent r = false → (t.refRec r).present = false ∧ (t.refRec r).qualified = false) ∧
      (s.refPresent r = true → (t.refRec r).present = true ∧ (t.refRec r).freq = (freqs[r.val - 1]?).getD (s.refRec r).freq ∧
        (let tol := s.timeParam (if r.val ≤ 2 then 9 else 10)
         ((t.refRec r).freq.natAbs ≤ 1000 * tol → (t.refRec r).goodMs = (s.refRec r).goodMs + 100 ∧ (t.refRec r).badMs = 0 ∧
           ((s.refRec r).qualified = false → ((t.refRec r).qualified = true ↔ s.timeParam 8 ≤ (s.refRec r).goodMs + 100))) ∧
         (1000 * tol < (t.refRec r).freq.natAbs → (t.refRec r).goodMs = 0 ∧ (t.refRec r).badMs = (s.refRec r).badMs + 100 ∧
           ((s.refRec r).qualified = true → ((t.refRec r).qualified = false ↔ s.timeParam 8 ≤ (s.refRec r).badMs + 100))))) := by
  have hexec : exec (.refQualUpdate freqs phases) s = .next (refsUpdated freqs phases s) := by
    rw [exec_refQualUpdate, execRefQualUpdate, if_neg h]
    rfl
  refine (refsUpdated_touch freqs phases s).does hexec ⟨refsUpdated_unjudged freqs phases (.inl rfl), refsUpdated_time .., fun r h0 =>
    ⟨fun hp => ?_, fun hp => ?_⟩⟩
  · rw [refsUpdated_unjudged freqs phases (.inr hp), hp]
    exact ⟨rfl, beq_false_of_ne h0⟩
  · have hj := refsUpdated_judged freqs phases h0 hp
    generalize (refsUpdated freqs phases s).refRec r = t at hj ⊢
    generalize hf : (freqs[r.val - 1]?).getD (s.refRec r).freq = f at hj ⊢
    have hpresent : t.present = true := congrArg RefRec.present hj
    have hfreq : t.freq = f := congrArg RefRec.freq hj
    have hgood := congrArg RefRec.goodMs hj
    have hbad := congrArg RefRec.badMs hj
    have hqual := congrArg RefRec.qualified hj
    refine ⟨hpresent, hfreq, fun hle => ?_, fun hlt => ?_⟩
    · rw [hfreq] at hle
      obtain ⟨h1, h2, h3⟩ := RefRec.judge_inside hle (s.timeParam 8) (s.timeParam 11) { s.refRec r with present := true }
      refine ⟨hgood.trans h1, hbad.trans h2, fun hq => ?_⟩
      rw [← h3 hq]
      exact Eq.congr_left hqual
    · rw [hfreq] at hlt
      obtain ⟨h1, h2, h3⟩ := RefRec.judge_outside hlt (s.timeParam 8) (s.timeParam 11) { s.refRec r with present := true }
      refine ⟨hgood.trans h1, hbad.trans h2, fun hq => ?_⟩
      rw [← h3 hq]
      exact Eq.congr_left hqual

end

end Sys2Proof.Machine
end

section
/-! PROOFS. Word clock input, and the statement of O33. -/

namespace Sys2Proof.Machine

open Sys2Proof

set_option Elab.async false

section
variable {s : State}

/-- The state with WCIN's phase measured. -/
def wcinMeasured (phase : Int) (s : State) : State := s.onRef 3 fun r => { r with phase := s.edgePhase phase }

/-- The state with one more glitch noted (R225). -/
def wcinGlitch (s : State) : State := (s.bump 5 16).onTime fun t => { t with
  glitches := s.now :: t.glitches.filter fun e => decide ((s.now - e).toNat < s.fsHz) }

theorem checkPresent_glitches (r : Fin 6) (s : State) : (checkPresent r s).time.glitches = s.time.glitches := by
  unfold checkPresent
  extract_lets q o s1
  split <;> rfl

theorem dropWcin_refs (s : State) : ((dropWcin s).refRec 3).present = false ∧ ((dropWcin s).refRec 3).qualified = false ∧
    (∀ r : Fin 6, r ≠ 3 → (dropWcin s).refRec r = s.refRec r) ∧ (dropWcin s).time.glitches = s.time.glitches := by
  have hself : ((s.onRef 3 fun r => { r with present := false }).refRec 3).present = false := congrArg RefRec.present (vmod_get_self ..)
  have hother (r : Fin 6) (h : r ≠ 3) : (s.onRef 3 fun r => { r with present := false }).refRec r = s.refRec r := vmod_get_ne _ _ h
  have hglitch : (s.onRef 3 fun r => { r with present := false }).time.glitches = s.time.glitches := rfl
  unfold dropWcin
  generalize s.onRef 3 (fun r => { r with present := false }) = u at hself hother hglitch ⊢
  have hp : u.refPresent 3 = false := hself
  refine ⟨?_, ?_, fun r h => (checkPresent_refRec_ne h u).trans (hother r h), (checkPresent_glitches 3 u).trans hglitch⟩
  · rw [checkPresent_refRec, hp]
    rfl
  · rw [checkPresent_refRec, hp]
    rfl

theorem dropWcin_count {j : Nat} (hj : j < 4096) (h : j ≠ 10) (s : State) : (dropWcin s).count 5 j = s.count 5 j := by
  unfold dropWcin checkPresent
  extract_lets q o s1
  split
  · exact count_bumpBy_ne (by decide) hj h 5 1 s1
  · rfl

theorem exec_wcinEdge_wide {sinceLast high : Nat} {phase : Int} (hs : s.chip.supply ≠ .off) (h1 : 1000 ≤ sinceLast) (h2 : 1000 ≤ high) :
    exec (.wcinEdge sinceLast high phase) s = .next (
      if (!(s.refRec 3).present && decide (4000000000 ≤ sinceLast * s.fsHz)) = true then wcinMeasured phase s
      else if sinceLast * s.fsHz < 990000000 ∨ 1010000000 < sinceLast * s.fsHz then
        (if 4 ≤ (wcinGlitch s).time.glitches.length then dropWcin (wcinGlitch s) else wcinGlitch s)
      else checkPresent 3 ((wcinMeasured phase s).onRef 3 fun r => { r with present := true })) := by
  rw [exec_wcinEdge, execWcinEdge, if_neg (by simp [hs]; omega)]
  rfl

theorem wcinEdge_accepted {sinceLast high : Nat} {phase : Int} (hs : s.chip.supply ≠ .off) (h1 : 1000 ≤ sinceLast) (h2 : 1000 ≤ high)
    (hlo : 990000000 ≤ sinceLast * s.fsHz) (hhi : sinceLast * s.fsHz ≤ 1010000000) :
    Does (.wcinEdge sinceLast high phase) s [.time, .cnt] fun t => (t.refRec 3).present = true ∧ (t.refRec 3).phase = s.edgePhase phase ∧
      t.time.glitches = s.time.glitches ∧ ∀ r : Fin 6, r ≠ 3 → t.refRec r = s.refRec r := by
  have hexec := exec_wcinEdge_wide (phase := phase) hs h1 h2
  rw [if_neg (by simp only [Bool.and_eq_true, decide_eq_true_eq]; omega), if_neg (by omega)] at hexec
  have htouch : Touch [.time, .cnt] s ((wcinMeasured phase s).onRef 3 fun r => { r with present := true }) :=
    (State.onRef_touch ..).after ((State.onRef_touch ..).after (Touch.refl _ s) rfl) rfl
  have hself : ((wcinMeasured phase s).onRef 3 fun r => { r with present := true }).refRec 3 =
      { s.refRec 3 with phase := s.edgePhase phase, present := true } :=
    (vmod_get_self ..).trans (congrArg (fun r : RefRec => { r with present := true }) (vmod_get_self ..))
  have hother (r : Fin 6) (h : r ≠ 3) : ((wcinMeasured phase s).onRef 3 fun r => { r with present := true }).refRec r = s.refRec r :=
    (vmod_get_ne _ _ h).trans (vmod_get_ne _ _ h)
  have hglitch : ((wcinMeasured phase s).onRef 3 fun r => { r with present := true }).time.glitches = s.time.glitches := rfl
  generalize (wcinMeasured phase s).onRef 3 (fun r => { r with present := true }) = u at hexec htouch hself hother hglitch
  have hp : u.refPresent 3 = true := congrArg RefRec.present hself
  have hrec : (checkPresent 3 u).refRec 3 = { u.refRec 3 with present := true } := by
    rw [checkPresent_refRec, hp]
    rfl
  refine ((checkPresent_touch ..).after htouch rfl).does hexec ⟨?_, ?_, (checkPresent_glitches 3 u).trans hglitch,
    fun r h => (checkPresent_refRec_ne h u).trans (hother r h)⟩
  · rw [hrec]
  · rw [hrec, hself]

theorem wcinEdge_first {sinceLast high : Nat} {phase : Int} (hs : s.chip.supply ≠ .off) (h1 : 1000 ≤ sinceLast) (h2 : 1000 ≤ high)
    (hp : (s.refRec 3).present = false) (hlate : 4000000000 ≤ sinceLast * s.fsHz) :
    Does (.wcinEdge sinceLast high phase) s [.time] fun t => (t.refRec 3).present = false ∧ (t.refRec 3).phase = s.edgePhase phase := by
  have hexec := exec_wcinEdge_wide (phase := phase) hs h1 h2
  rw [if_pos (by rw [hp, decide_eq_true hlate]; rfl)] at hexec
  have hself : (wcinMeasured phase s).refRec 3 = { s.refRec 3 with phase := s.edgePhase phase } := vmod_get_self ..
  exact ((State.onRef_touch ..).after (Touch.refl _ s) rfl).does hexec ⟨(congrArg RefRec.present hself).trans hp, congrArg RefRec.phase hself⟩

theorem wcinEdge_glitch {sinceLast high : Nat} {phase : Int} (hs : s.chip.supply ≠ .off) (h1 : 1000 ≤ sinceLast) (h2 : 1000 ≤ high)
    (hp : (s.refRec 3).present = true) (hbad : sinceLast * s.fsHz < 990000000 ∨ 1010000000 < sinceLast * s.fsHz) :
    Does (.wcinEdge sinceLast high phase) s [.time, .cnt] fun t => t.count 5 16 = min (2 ^ 48 - 1) (s.count 5 16 + 1) ∧
      t.time.glitches = s.now :: s.time.glitches.filter (fun e => decide ((s.now - e).toNat < s.fsHz)) ∧
      (t.time.glitches.length < 4 → t.refRec 3 = s.refRec 3) ∧ (4 ≤ t.time.glitches.length → (t.refRec 3).present = false) := by
  have hexec := exec_wcinEdge_wide (phase := phase) hs h1 h2
  rw [if_neg (by simp [hp]), if_pos hbad] at hexec
  have htouch : Touch [.time, .cnt] s (wcinGlitch s) := ((State.bump_touch ..).after (Touch.refl _ s) rfl).onTime rfl
  have hcount : (wcinGlitch s).count 5 16 = min (2 ^ 48 - 1) (s.count 5 16 + 1) := count_bumpBy_self (by decide) 5 1 s
  have hrec : (wcinGlitch s).refRec 3 = s.refRec 3 := rfl
  have hglitch : (wcinGlitch s).time.glitches = s.now :: s.time.glitches.filter (fun e => decide ((s.now - e).toNat < s.fsHz)) := rfl
  generalize wcinGlitch s = u at hexec htouch hcount hrec hglitch
  obtain ⟨hpresent, -, -, hkept⟩ := dropWcin_refs u
  by_cases h4 : 4 ≤ u.time.glitches.length
  · rw [if_pos h4] at hexec
    refine ((dropWcin_touch u).after htouch rfl).does hexec ⟨(dropWcin_count (by decide) (by decide) u).trans hcount, hkept.trans hglitch,
      fun hlt => ?_, fun _ => hpresent⟩
    rw [hkept] at hlt
    exact absurd h4 (not_le.2 hlt)
  · rw [if_neg h4] at hexec
    exact htouch.does hexec ⟨hcount, hglitch, fun _ => hrec, fun h => absurd h h4⟩

theorem wcinEdge_narrow {sinceLast high : Nat} {phase : Int} (h : sinceLast < 1000 ∨ high < 1000) :
    exec (.wcinEdge sinceLast high phase) s = .next s := by
  rw [exec_wcinEdge, execWcinEdge]
  refine congrArg Host.Outcome.next (if_pos ?_)
  rcases h with h | h <;> simp [h]

end

/-- Settles O33: the servo, the lock and the slew are updates of TIMEKEEPER's state; each reference is judged once, from its own record
alone; and WCIN's edges set or end its presence. -/
theorem clockCommands : Obligations.ClockCommands := by
  unfold Obligations.ClockCommands
  intro s
  refine ⟨fun m hr hw h1 h3 h8 => servoUpdate_does hr hw h1 h3 h8, fun m h => servoUpdate_idle h, lockTimer_locks, lockTimer_unlocks,
    lockTimer_idle, slewComplete_acquires, slewComplete_idle, oscModelSave_saves,
    fun freqs phases h => refQualUpdate_does freqs phases h,
    fun sinceLast high phase hs h1 h2 => ⟨wcinEdge_accepted hs h1 h2, wcinEdge_first hs h1 h2, wcinEdge_glitch hs h1 h2⟩,
    fun sinceLast high phase h => wcinEdge_narrow h, ?_⟩
  obtain ⟨hpresent, hqual, hother, -⟩ := dropWcin_refs s
  exact (dropWcin_touch s).does (exec_wcinLoss s) ⟨hpresent, hqual, hother⟩

end Sys2Proof.Machine
end

section
/-! PROOFS. Stream launch, crosspoint ramps and generators, O35. -/

namespace Sys2Proof.Machine

open Sys2Proof

set_option Elab.async false

section
variable {s : State} {p : Port} {k : Nat}

/-! The record of a transmit stream. -/

theorem tx_onTx (k : Nat) (g : TxRec → TxRec) (s : State) : (s.onTx k g).tx k = g (s.tx k) := by
  unfold State.tx State.onTx
  exact congrArg (fun o : Option TxRec => o.getD {}) (Store.get?_put_self ..)

theorem tx_onTx_ne {j : Nat} (h : j ≠ k) (g : TxRec → TxRec) (s : State) : (s.onTx k g).tx j = s.tx j := by
  unfold State.tx State.onTx
  exact congrArg (fun o : Option TxRec => o.getD {}) (Store.get?_put_of_ne _ _ h)

theorem Touch.tx_eq {ps : List Part} {s t : State} (h : Touch ps s t) (k : Nat) (hp : ps.contains .strm = false := by rfl) :
    t.tx k = s.tx k := by rw [State.tx, State.tx, h.strm_eq hp]

/-- The record after `n` blocks, with its next launch at `st`. -/
def TxRec.advanced (n : Nat) (st : DWord) (en : Bool) (x : TxRec) : TxRec := { x with
  seq := if x.en then x.seq + BitVec.ofNat 16 n else x.seq, next := some st, en := en }

/-- The record of a stream that sends, or does not. -/
def TxRec.withLive (live : Bool) (x : TxRec) : TxRec := { x with live }

/-! A frame that fits its queue, or does not (R155). -/

theorem sendFrame_fits {q : Fin 8} {f : Frame} (hring : s.isRing = false) (hfits : s.fits p q (max 64 f.len) = true) :
    sendFrame [p] q f s = s.onPort p (PortSt.queueing q { f with len := max 64 f.len }) := by
  obtain ⟨hlink, hroom⟩ := (Bool.and_eq_true _ _).mp hfits
  obtain ⟨hcount, hsum⟩ := of_decide_eq_true hroom
  have henq : enqueue p q { f with len := max 64 f.len } s = s.onPort p (PortSt.queueing q { f with len := max 64 f.len }) := by
    unfold enqueue
    extract_lets r l
    have hfull : ¬ (16 ≤ l.length ∨ 16384 < lenSum l + max 64 f.len) := by
      rintro (h | h)
      · exact absurd hcount (not_lt.2 h)
      · exact absurd hsum (not_le.2 h)
    rw [if_neg (by rw [show r.link = true from hlink]; decide), if_neg hfull]
    rfl
  unfold sendFrame
  rw [hring]
  exact henq

theorem sendFrame_refused {q : Fin 8} {f : Frame} (hring : s.isRing = false) (hfits : s.fits p q (max 64 f.len) = false) :
    sendFrame [p] q f s = s.bumpPort p 17 ∨ sendFrame [p] q f s = s.bumpPort p 16 := by
  have henq : enqueue p q { f with len := max 64 f.len } s = s.bumpPort p 17 ∨
      enqueue p q { f with len := max 64 f.len } s = s.bumpPort p 16 := by
    unfold enqueue
    extract_lets r l
    by_cases hlink : r.link = true
    · rw [if_neg (by simp [hlink])]
      have hfull : 16 ≤ l.length ∨ 16384 < lenSum l + max 64 f.len := by
        by_contra h
        rw [not_or, not_le, not_lt] at h
        have : s.fits p q (max 64 f.len) = true := (Bool.and_eq_true _ _).mpr ⟨hlink, decide_eq_true h⟩
        rw [this] at hfits
        exact Bool.false_ne_true hfits.symm
      exact .inr (if_pos hfull)
    · exact .inl (if_pos (by simp [hlink]))
  unfold sendFrame
  rw [hring]
  exact henq

/-! A packet on its one port (R246). -/

section
variable {seq : BitVec 16} {stamp : DWord} (hring : s.isRing = false) (hports : s.txPorts k = [p])
  (hlen : (txFrame s k p seq stamp).len ≤ s.maxLen p)
include hring hports hlen

theorem launchOn_one : launchOn k seq stamp s =
    (sendFrame [p] (s.txQueue k) (txFrame s k p seq stamp)
      (s.bumpTx k (if s.fits p (s.txQueue k) (max 64 (txFrame s k p seq stamp).len) then pathIx p else 2))).onTx k
      (TxRec.withLive (s.fits p (s.txQueue k) (max 64 (txFrame s k p seq stamp).len))) := by
  have hlong : decide (s.maxLen p < (txFrame s k p seq stamp).len) = false := decide_eq_false (not_lt.2 hlen)
  unfold launchOn
  simp only [hring, hports, hlong, Bool.false_eq_true, if_false, Nat.add_zero, List.all_cons, List.all_nil, Bool.and_true, Bool.not_false,
    Bool.true_and, List.filter_cons, List.filter_nil, forAll_cons, forAll_nil, if_true]
  by_cases h : s.fits p (s.txQueue k) (max 64 (txFrame s k p seq stamp).len) = true
  · rw [if_pos h, if_pos h]
    rfl
  · rw [if_neg h, if_neg h]
    rfl

theorem launchOn_fits (hk : k < 64) (hfits : s.fits p (s.txQueue k) (max 64 (txFrame s k p seq stamp).len) = true) :
    Touch [.portA, .portB, .strm, .cnt] s (launchOn k seq stamp s) ∧
    Queued s (launchOn k seq stamp s) p (s.txQueue k) (fun g => g = { txFrame s k p seq stamp with len := max 64 (txFrame s k p seq stamp).len }) ∧
    (launchOn k seq stamp s).port (otherPort p) = s.port (otherPort p) ∧
    Counts s (launchOn k seq stamp s) 4 (4 * k + pathIx p) 1 ∧ (launchOn k seq stamp s).tx k = (s.tx k).withLive true := by
  have hix : pathIx p ≤ 1 := by cases p <;> decide
  have hfits' : (s.bumpTx k (pathIx p)).fits p (s.txQueue k) (max 64 (txFrame s k p seq stamp).len) = true := by
    rw [← hfits]
    cases p <;> rfl
  rw [launchOn_one hring hports hlen, hfits, if_pos rfl, sendFrame_fits (s := s.bumpTx k (pathIx p)) hring hfits']
  generalize txFrame s k p seq stamp = f
  have hu : Counts s (s.bumpTx k (pathIx p)) 4 (4 * k + pathIx p) 1 := counts_bumpBy (by omega) 4 1 s
  have hport (j : Port) : (s.bumpTx k (pathIx p)).port j = s.port j := State.port_bumpBy ..
  have htouch : Touch [.portA, .portB, .strm, .cnt] s (s.bumpTx k (pathIx p)) := (State.bumpBy_touch ..).after (Touch.refl _ s) rfl
  have htx : (s.bumpTx k (pathIx p)).tx k = s.tx k := rfl
  generalize s.bumpTx k (pathIx p) = u at hu hport htouch htx ⊢
  have honTx (g : TxRec → TxRec) (v : State) (j : Port) : (v.onTx k g).port j = v.port j := by cases j <;> rfl
  refine ⟨(State.onTx_touch ..).after ((State.onPort_touch ..).after htouch rfl) rfl, ?_, ?_, ?_, ?_⟩
  · refine ⟨_, ?_, rfl⟩
    rw [honTx, State.port_onPort, hport]
    exact vmod_get_self ..
  · rw [honTx, State.port_onPort_ne _ _ (otherPort_ne_self p), hport]
  · exact counts_congr rfl ((State.onTx_touch ..).cnt_eq.trans (State.onPort_touch ..).cnt_eq) hu
  · rw [tx_onTx, (State.onPort_touch ..).tx_eq, htx]

theorem launchOn_refused (hk : k < 64) (hfits : s.fits p (s.txQueue k) (max 64 (txFrame s k p seq stamp).len) = false) :
    Touch [.portA, .portB, .strm, .cnt] s (launchOn k seq stamp s) ∧ (launchOn k seq stamp s).port p = s.port p ∧
    (launchOn k seq stamp s).count 4 (4 * k + 2) = min (2 ^ 48 - 1) (s.count 4 (4 * k + 2) + 1) ∧
    (launchOn k seq stamp s).tx k = (s.tx k).withLive false := by
  have hfits' : (s.bumpTx k 2).fits p (s.txQueue k) (max 64 (txFrame s k p seq stamp).len) = false := by
    rw [← hfits]
    cases p <;> rfl
  have hsent := sendFrame_refused (s := s.bumpTx k 2) (f := txFrame s k p seq stamp) hring hfits'
  rw [launchOn_one hring hports hlen, hfits, if_neg Bool.false_ne_true]
  generalize sendFrame [p] (s.txQueue k) (txFrame s k p seq stamp) (s.bumpTx k 2) = v at hsent ⊢
  have hcount : (s.bumpTx k 2).count 4 (4 * k + 2) = min (2 ^ 48 - 1) (s.count 4 (4 * k + 2) + 1) := count_bumpBy_self (by omega) 4 1 s
  have hne : portFn p ≠ 4 := by cases p <;> decide
  have hbump (i : Nat) (hi : i < 4096) : Touch [.portA, .portB, .strm, .cnt] s ((s.bumpTx k 2).bumpPort p i) ∧
      ((s.bumpTx k 2).bumpPort p i).port p = s.port p ∧ ((s.bumpTx k 2).bumpPort p i).count 4 (4 * k + 2) = (s.bumpTx k 2).count 4 (4 * k + 2) ∧
      ((s.bumpTx k 2).bumpPort p i).tx k = s.tx k :=
    ⟨(State.bumpBy_touch ..).after ((State.bumpBy_touch ..).after (Touch.refl _ s) rfl) rfl, (State.port_bumpBy ..).trans (State.port_bumpBy ..),
      (counts_bumpBy hi (portFn p) 1 (s.bumpTx k 2) 4 (4 * k + 2) (by omega)).trans (if_neg fun e => hne e.1.symm), rfl⟩
  have hv : Touch [.portA, .portB, .strm, .cnt] s v ∧ v.port p = s.port p ∧ v.count 4 (4 * k + 2) = (s.bumpTx k 2).count 4 (4 * k + 2) ∧
      v.tx k = s.tx k := by
    rcases hsent with rfl | rfl
    · exact hbump 17 (by decide)
    · exact hbump 16 (by decide)
  obtain ⟨htouch, hport, hvcount, htx⟩ := hv
  refine ⟨(State.onTx_touch ..).after htouch rfl, ?_, ?_, ?_⟩
  · exact ((State.onTx_touch k _ v).port_eq p).trans hport
  · rw [(State.onTx_touch ..).count_eq, hvcount, hcount]
  · rw [tx_onTx, htx]

end

end

end Sys2Proof.Machine
end

section
/-! PROOFS. The launch of a stream's packet, ramps and generators: the statement of O35. -/

namespace Sys2Proof.Machine

open Sys2Proof

set_option Elab.async false

/-- What a launch leaves, before STREAM_TX may start to run. -/
def launched (k : Nat) (st : DWord) (pt : Nat) (s : State) : State :=
  (if (s.tx k).en && (s.now - st).toNat % pt == 0 then
      launchOn k ((s.tx k).seq + BitVec.ofNat 16 ((s.now - st).toNat / pt - 1)) (s.now - BitVec.ofNat 64 pt) s
    else s.onTx k (TxRec.withLive false)).onTx k
    (TxRec.advanced ((s.now - st).toNat / pt) (st + BitVec.ofNat 64 ((s.now - st).toNat / pt * pt)) (s.txEn k))

section
variable {s : State} {k : Fin 64} {st : DWord} {pt : Nat}

theorem launched_touch (k : Nat) (st : DWord) (pt : Nat) (s : State) :
    Touch [.portA, .portB, .path, .strm, .cnt] s (launched k st pt s) :=
  (State.onTx_touch ..).after (Touch.ite (launchOn_touch ..)
    ((State.onTx_touch ..).after (Touch.refl _ s) rfl)) rfl

theorem exec_streamPacketLaunch_due (hpt : max 1 (s.txFld k.val 4 1) = pt) (hnext : (s.tx k.val).next = some st)
    (hbusy : (s.life? .streamTx).busy = true) (hk : k.val < s.txCount) (hd : (s.now - st).toNat < 2 ^ 63)
    (hn : 0 < (s.now - st).toNat / pt) : exec (.streamPacketLaunch k) s = .next (
      if s.life? .streamTx == .starting then enterRunning .streamTx (launched k.val st pt s) else launched k.val st pt s) := by
  have hlife : (launched k.val st pt s).life? .streamTx = s.life? .streamTx := (launched_touch ..).life?_eq _
  rw [← hlife, exec_streamPacketLaunch]
  unfold execStreamPacketLaunch
  rw [hpt, hnext]
  dsimp only
  rw [if_neg]
  · rfl
  · simp only [hbusy, Bool.not_true, Bool.false_or, Bool.or_eq_true, decide_eq_true_eq]
    omega

theorem streamPacketLaunch_idle (h : (s.tx k.val).next = none ∨ (s.life? .streamTx).busy = false) :
    exec (.streamPacketLaunch k) s = .next s := by
  rw [exec_streamPacketLaunch]
  unfold execStreamPacketLaunch
  extract_lets pt'
  cases hnext : (s.tx k.val).next with
  | none => rfl
  | some st =>
    rw [hnext] at h
    have hb := h.resolve_left (by simp)
    exact congrArg Host.Outcome.next (if_pos (by simp [hb]))

theorem launched_sends (he : (s.tx k.val).en = true) (hdue : (s.now - st).toNat % pt = 0) : launched k.val st pt s =
    (launchOn k.val ((s.tx k.val).seq + BitVec.ofNat 16 ((s.now - st).toNat / pt - 1)) (s.now - BitVec.ofNat 64 pt) s).onTx k.val
      (TxRec.advanced ((s.now - st).toNat / pt) (st + BitVec.ofNat 64 ((s.now - st).toNat / pt * pt)) (s.txEn k.val)) := by
  unfold launched
  rw [if_pos (by rw [he, hdue]; rfl)]

section
variable (hpt : max 1 (s.txFld k.val 4 1) = pt) (hnext : (s.tx k.val).next = some st) (hk : k.val < s.txCount)
  (hd : (s.now - st).toNat < 2 ^ 63) (hn : 0 < (s.now - st).toNat / pt)
include hpt hnext hk hd hn

theorem exec_launch_running (hrun : s.life? .streamTx = .running) : exec (.streamPacketLaunch k) s = .next (launched k.val st pt s) := by
  rw [exec_streamPacketLaunch_due hpt hnext (by rw [hrun]; rfl) hk hd hn, hrun]
  rfl

/-- A stream that is disabled, or whose block does not end at this boundary. -/
theorem launch_silent (hrun : s.life? .streamTx = .running) (h : (s.tx k.val).en = false ∨ (s.now - st).toNat % pt ≠ 0) :
    Does (.streamPacketLaunch k) s [.strm] fun t =>
      t.tx k.val = ((s.tx k.val).withLive false).advanced ((s.now - st).toNat / pt)
        (st + BitVec.ofNat 64 ((s.now - st).toNat / pt * pt)) (s.txEn k.val) ∧ ∀ j : Fin 64, j ≠ k → t.tx j.val = s.tx j.val := by
  have hexec := exec_launch_running hpt hnext hk hd hn hrun
  have hsilent : ((s.tx k.val).en && (s.now - st).toNat % pt == 0) = false := by
    rcases h with h | h
    · rw [h]
      rfl
    · rw [beq_false_of_ne h, Bool.and_false]
  unfold launched at hexec
  rw [if_neg (by rw [hsilent]; exact Bool.false_ne_true)] at hexec
  refine ((State.onTx_touch ..).after ((State.onTx_touch ..).after (Touch.refl _ s) rfl) rfl).does hexec ⟨?_, fun j hj => ?_⟩
  · rw [tx_onTx, tx_onTx]
  · have hne : j.val ≠ k.val := fun e => hj (Fin.ext e)
    rw [tx_onTx_ne hne, tx_onTx_ne hne]

theorem launch_starts (hst : s.life? .streamTx = .starting) :
    Does (.streamPacketLaunch k) s [.funcs, .jobs, .acts, .rings, .pages, .link, .reqs, .svc, .portA, .portB, .path, .strm, .loc, .pwr,
      .log, .cnt] fun t => t.life? .streamTx = .running := by
  have hexec := exec_streamPacketLaunch_due hpt hnext (by rw [hst]; rfl) hk hd hn
  rw [if_pos (by rw [hst]; rfl)] at hexec
  exact ((enterRunning_touch ..).after ((launched_touch ..).after (Touch.refl _ s) rfl) rfl).does hexec (enterRunning_life? ..)

section
variable {p : Port} (hrun : s.life? .streamTx = .running) (he : (s.tx k.val).en = true) (hdue : (s.now - st).toNat % pt = 0)
  (hring : s.isRing = false) (hports : s.txPorts k.val = [p])
  (hlen : (txFrame s k.val p ((s.tx k.val).seq + BitVec.ofNat 16 ((s.now - st).toNat / pt - 1)) (s.now - BitVec.ofNat 64 pt)).len ≤ s.maxLen p)
include hrun he hdue hring hports hlen

theorem launch_sends (hfits : s.fits p (s.txQueue k.val) (max 64 (txFrame s k.val p
      ((s.tx k.val).seq + BitVec.ofNat 16 ((s.now - st).toNat / pt - 1)) (s.now - BitVec.ofNat 64 pt)).len) = true) :
    Does (.streamPacketLaunch k) s [.portA, .portB, .strm, .cnt] fun t =>
      Queued s t p (s.txQueue k.val) (fun g => g = { txFrame s k.val p
          ((s.tx k.val).seq + BitVec.ofNat 16 ((s.now - st).toNat / pt - 1)) (s.now - BitVec.ofNat 64 pt) with
        len := max 64 (txFrame s k.val p ((s.tx k.val).seq + BitVec.ofNat 16 ((s.now - st).toNat / pt - 1)) (s.now - BitVec.ofNat 64 pt)).len }) ∧
      t.port (otherPort p) = s.port (otherPort p) ∧ Counts s t 4 (4 * k.val + pathIx p) 1 ∧
      t.tx k.val = ((s.tx k.val).withLive true).advanced ((s.now - st).toNat / pt)
        (st + BitVec.ofNat 64 ((s.now - st).toNat / pt * pt)) (s.txEn k.val) := by
  have hexec := exec_launch_running hpt hnext hk hd hn hrun
  rw [launched_sends he hdue] at hexec
  obtain ⟨htouch, hqueued, hother, hcount, htx⟩ := launchOn_fits hring hports hlen k.isLt hfits
  generalize launchOn k.val _ _ s = u at hexec htouch hqueued hother hcount htx
  have hport (g : TxRec → TxRec) (j : Port) : (u.onTx k.val g).port j = u.port j := (State.onTx_touch ..).port_eq j
  obtain ⟨f, hf, hfr⟩ := hqueued
  refine ((State.onTx_touch ..).after htouch rfl).does hexec ⟨⟨f, ?_, hfr⟩, ?_, ?_, ?_⟩
  · rw [hport, hf]
  · rw [hport, hother]
  · exact counts_congr rfl (State.onTx_touch ..).cnt_eq hcount
  · rw [tx_onTx, htx]

theorem launch_refused (hfits : s.fits p (s.txQueue k.val) (max 64 (txFrame s k.val p
      ((s.tx k.val).seq + BitVec.ofNat 16 ((s.now - st).toNat / pt - 1)) (s.now - BitVec.ofNat 64 pt)).len) = false) :
    Does (.streamPacketLaunch k) s [.portA, .portB, .strm, .cnt] fun t => (t.port p).queues = (s.port p).queues ∧
      t.count 4 (4 * k.val + 2) = min (2 ^ 48 - 1) (s.count 4 (4 * k.val + 2) + 1) ∧
      t.tx k.val = ((s.tx k.val).withLive false).advanced ((s.now - st).toNat / pt)
        (st + BitVec.ofNat 64 ((s.now - st).toNat / pt * pt)) (s.txEn k.val) := by
  have hexec := exec_launch_running hpt hnext hk hd hn hrun
  rw [launched_sends he hdue] at hexec
  obtain ⟨htouch, hport, hcount, htx⟩ := launchOn_refused hring hports hlen k.isLt hfits
  generalize launchOn k.val _ _ s = u at hexec htouch hport hcount htx
  refine ((State.onTx_touch ..).after htouch rfl).does hexec ⟨?_, ?_, ?_⟩
  · rw [(State.onTx_touch ..).port_eq, hport]
  · rw [(State.onTx_touch ..).count_eq, hcount]
  · rw [tx_onTx, htx]

end

end

/-! Crosspoint ramps and generators (R261, R267, R278). -/

theorem crosspointRampEnd_does {src snk : BitVec 11} {r : Ramp} (hr : (s.xp (xpKey src.toNat snk.toNat)).ramp = some r) (hdone : r.len ≤ r.k) :
    Does (.crosspointRampEnd src snk) s [.lov] fun t =>
      t.xp (xpKey src.toNat snk.toNat) = { s.xp (xpKey src.toNat snk.toNat) with gain := (s.xp (xpKey src.toNat snk.toNat)).target, ramp := none } ∧
      ((t.xp (xpKey src.toNat snk.toNat)).active = false ↔ (s.xp (xpKey src.toNat snk.toNat)).target = 0) ∧
      (∀ a b : BitVec 11, xpKey a.toNat b.toNat ≠ xpKey src.toNat snk.toNat → t.xp (xpKey a.toNat b.toNat) = s.xp (xpKey a.toNat b.toNat)) ∧
      t.lov = { s.lov with xp := t.lov.xp } := by
  have hexec := exec_crosspointRampEnd src snk s
  unfold execCrosspointRampEnd at hexec
  extract_lets key done at hexec
  have hyes : done = true := by
    change (match (s.xp (xpKey src.toNat snk.toNat)).ramp with | some r => r.done | none => false) = true
    rw [hr]
    exact decide_eq_true hdone
  rw [if_pos hyes] at hexec
  have hself : (s.onLov fun l => { l with xp := l.xp.put key (s.xp key).endRamp }).xp key = (s.xp key).endRamp :=
    congrArg (fun o : Option Xp => o.getD {}) (Store.get?_put_self ..)
  refine ((Touch.refl _ s).onLov rfl).does hexec ⟨hself, ?_, fun a b hne => ?_, rfl⟩
  · rw [hself]
    simp [Xp.active, Xp.endRamp, key]
  · exact congrArg (fun o : Option Xp => o.getD {}) (Store.get?_put_of_ne _ _ hne)

theorem crosspointRampEnd_idle {src snk : BitVec 11} (h : ∀ r, (s.xp (xpKey src.toNat snk.toNat)).ramp = some r → r.k < r.len) :
    exec (.crosspointRampEnd src snk) s = .next s := by
  rw [exec_crosspointRampEnd]
  unfold execCrosspointRampEnd
  extract_lets key done
  refine congrArg Host.Outcome.next (if_neg ?_)
  change ¬ (match (s.xp (xpKey src.toNat snk.toNat)).ramp with | some r => r.done | none => false) = true
  cases hr : (s.xp (xpKey src.toNat snk.toNat)).ramp with
  | none => exact Bool.false_ne_true
  | some r =>
    have := h r hr
    change ¬ decide (r.len ≤ r.k) = true
    rw [decide_eq_true_eq]
    omega

theorem gen_onGen (g : Fin 16) (f : Gen → Gen) (s : State) : (s.onGen g f).gen g = f (s.gen g) := vmod_get_self ..

theorem gen_onGen_ne {g h : Fin 16} (hne : h ≠ g) (f : Gen → Gen) (s : State) : (s.onGen g f).gen h = s.gen h := vmod_get_ne _ _ hne

theorem generatorSettingApply_does {g : Fin 16} (hw : (s.gen g).wait = 1) : Does (.generatorSettingApply g) s [.lov] fun t =>
    (t.gen g).mode = BitVec.ofNat 3 (s.genMode g) ∧ (t.gen g).freq = BitVec.ofNat 32 (s.param .lovage (genPid g 2) 100000) ∧
    (t.gen g).period = BitVec.ofNat 32 (s.param .lovage (genPid g 4) 48000) ∧
    (t.gen g).seed = BitVec.ofNat 32 (s.param .lovage (genPid g 5) 1) ∧ (t.gen g).wait = 0 ∧ (t.gen g).fade.up = true ∧
    (t.gen g).level = (s.gen g).level ∧ (∀ h : Fin 16, h ≠ g → t.gen h = s.gen h) ∧ t.lov = { s.lov with gens := t.lov.gens } := by
  have hexec := exec_generatorSettingApply g s
  rw [execGeneratorSettingApply, if_pos (by rw [Gen.due, hw]; rfl), genRise, genApply] at hexec
  refine ((State.onGen_touch ..).after ((State.onGen_touch ..).after (Touch.refl _ s) rfl) rfl).does hexec ?_
  rw [gen_onGen, gen_onGen]
  refine ⟨?_, ?_, ?_, ?_, ?_, fade_go_up _ _, ?_, fun h hne => (gen_onGen_ne hne _ _).trans (gen_onGen_ne hne _ s), rfl⟩
  all_goals
    cases (s.gen g).rst <;> rfl

end

/-- Settles O35: a launch is one step of the stream's record, with the packet on its port where it fits; a ramp's end and a generator's
setting each change their own entry. -/
theorem streamAndRouterEvents : Obligations.StreamAndRouterEvents := by
  unfold Obligations.StreamAndRouterEvents
  intro s
  refine ⟨fun k st hnext hk hd hn => ⟨fun p hrun he hdue hring hports hlen => ⟨fun hfits => ?_, fun hfits => ?_⟩, fun hrun h => ?_, fun hst => ?_⟩,
    fun k h => streamPacketLaunch_idle h, fun src snk => ⟨fun r hr => ⟨crosspointRampEnd_does hr, fun hlt => ?_⟩, fun hr => ?_⟩,
    fun g => ⟨generatorSettingApply_does, fun hw => ?_⟩⟩
  · exact launch_sends rfl hnext hk hd hn hrun he hdue hring hports hlen hfits
  · exact launch_refused rfl hnext hk hd hn hrun he hdue hring hports hlen hfits
  · exact launch_silent rfl hnext hk hd hn hrun h
  · exact launch_starts rfl hnext hk hd hn hst
  · exact crosspointRampEnd_idle fun x hx => by
      rw [hr, Option.some.injEq] at hx
      exact hx ▸ hlt
  · exact crosspointRampEnd_idle fun x hx => by
      rw [hr] at hx
      exact absurd hx (by simp)
  · rw [exec_generatorSettingApply, execGeneratorSettingApply, if_neg (by simp [Gen.due, hw])]

end Sys2Proof.Machine
end

section
/-! PROOFS. PDM clocks, decimator channels and DSYNC, O36. -/

namespace Sys2Proof.Machine

open Sys2Proof

set_option Elab.async false

section
variable {c d : Fin 40} {s : State}

/-! One channel. -/

theorem dec_onDec (c : Fin 40) (g : Dec → Dec) (s : State) : (s.onDec c g).dec c = g (s.dec c) := vmod_get_self ..

theorem dec_onDec_ne (h : d ≠ c) (g : Dec → Dec) (s : State) : (s.onDec c g).dec d = s.dec d := vmod_get_ne _ _ h

theorem Touch.dec_eq {ps : List Part} {s t : State} (h : Touch ps s t) (c : Fin 40) (hp : ps.contains .loc = false := by rfl) :
    t.dec c = s.dec c := by rw [State.dec, State.dec, h.loc_eq hp]

/-- The settling time of a channel's chain, in output samples, plus one. -/
def State.settling (s : State) (c : Nat) : Nat :=
  match s.chain c with
  | some h => h.settle (ratioOf (s.ratioHigh c)) + 1
  | none => 0

/-- The record of a channel after a reset at tick `now` (R343, R349). -/
def Dec.reset (settle : Nat) (entry : List Byte) (now : DWord) (d : Dec) : Dec := { d with
  settle, entry, clearAt := some now, stuck := false, run := 0, peak := 0, hold := 0, q := 0, env := 0 }

/-- Channel `c` after a reset at this boundary. -/
def State.decReset (s : State) (c : Fin 40) : Dec := (s.dec c).reset (s.settling c.val) (s.decEntry c.val) s.now

theorem resetDec_runs (h : s.decRuns c = true) : resetDec c s = s.onDec c fun _ => s.decReset c := by
  unfold resetDec
  extract_lets n
  rw [if_neg (by simp [h])]
  have hdec : s.dec c = s.loc.decs[c] := rfl
  unfold State.onDec vmod
  rfl

theorem resetDec_idle (h : s.decRuns c = false) : resetDec c s = s := by
  unfold resetDec
  extract_lets n
  exact if_pos (by simp [h])

theorem resetDec_dec (c : Fin 40) (s : State) : (resetDec c s).dec c = if s.decRuns c then s.decReset c else s.dec c := by
  cases h : s.decRuns c with
  | true =>
    rw [resetDec_runs h, dec_onDec]
    rfl
  | false =>
    rw [resetDec_idle h]
    rfl

theorem resetDec_dec_ne (h : d ≠ c) (s : State) : (resetDec c s).dec d = s.dec d := by
  cases hr : s.decRuns c with
  | true => rw [resetDec_runs hr, dec_onDec_ne h]
  | false => rw [resetDec_idle hr]

theorem resetDec_decRuns (c d : Fin 40) (s : State) : (resetDec c s).decRuns d = s.decRuns d := by
  cases hr : s.decRuns c with
  | true =>
    rw [resetDec_runs hr]
    rfl
  | false => rw [resetDec_idle hr]

theorem resetDec_decReset (h : d ≠ c) (s : State) : (resetDec c s).decReset d = s.decReset d := by
  cases hr : s.decRuns c with
  | true =>
    have hd : (s.onDec c fun _ => s.decReset c).dec d = s.dec d := dec_onDec_ne h _ s
    rw [resetDec_runs hr]
    exact congrArg (Dec.reset (s.settling d.val) (s.decEntry d.val) s.now) hd
  | false => rw [resetDec_idle hr]

/-- Channels reset together. -/
theorem resetDecs_dec {l : List (Fin 40)} (hnd : l.Nodup) (hc : c ∈ l) (s : State) :
    (forAll l resetDec s).dec c = if s.decRuns c then s.decReset c else s.dec c := by
  refine forAll_once hnd hc (V := fun t => (t.decRuns c, t.decReset c, t.dec c)) (W := (·.dec c)) (fun k t hk => ?_)
    (fun k t hk => resetDec_dec_ne hk.symm t) fun t ht => ?_
  · rw [resetDec_decRuns, resetDec_decReset hk.symm, resetDec_dec_ne hk.symm]
  · have hruns := congrArg Prod.fst ht
    have hreset := congrArg (fun x : Bool × Dec × Dec => x.2.1) ht
    have hdec := congrArg (fun x : Bool × Dec × Dec => x.2.2) ht
    dsimp only at hruns hreset hdec
    rw [resetDec_dec, hruns, hreset, hdec]

theorem resetDecs_dec_ne {l : List (Fin 40)} (hc : c ∉ l) (s : State) : (forAll l resetDec s).dec c = s.dec c :=
  forAll_keeps (fun t => t.dec c) (fun k hk t => resetDec_dec_ne (fun e : c = k => hc (e.symm ▸ hk)) t) s

/-! A channel with bits of one level, and its recovery (R351). -/

/-- The record of a channel found stuck, which fades within `f` ticks. -/
def Dec.stick (f : Nat) (d : Dec) : Dec := { d with stuck := true, fade := d.fade.go false f }

theorem decStuck_does (hr : s.decRuns c = true) (hs : (s.dec c).stuck = false)
    (hrun : 4096 ≤ (s.dec c).run + (if s.ratioHigh c.val then 128 else 64)) :
    Does (.decStuck c) s [.loc, .cnt] fun t => t.dec c = { s.dec c with stuck := true, fade := (s.dec c).fade.go false (s.fadeTime .decim) } ∧
      Counts s t 8 2 1 ∧ (∀ d : Fin 40, d ≠ c → t.dec d = s.dec d) := by
  have hsticks : sticks c (ratioOf (s.ratioHigh c.val)) s = true := by
    unfold sticks
    rw [hr, hs]
    exact decide_eq_true hrun
  have hexec := exec_decStuck c s
  rw [execDecStuck, if_pos hsticks] at hexec
  refine (becomeStuck_touch c s).does hexec ⟨dec_onDec c (Dec.stick (s.fadeTime .decim)) s, ?_, fun d hd => dec_onDec_ne hd _ s⟩
  exact counts_congr (State.onDec_touch c (Dec.stick (s.fadeTime .decim)) s).cnt_eq.symm rfl
    (counts_bumpBy (by decide) 8 1 (s.onDec c (Dec.stick (s.fadeTime .decim))))

theorem decStuck_idle (h : s.decRuns c = false ∨ (s.dec c).stuck = true ∨ (s.dec c).run + (if s.ratioHigh c.val then 128 else 64) < 4096) :
    exec (.decStuck c) s = .next s := by
  rw [exec_decStuck, execDecStuck, if_neg]
  unfold sticks
  intro hc
  simp only [Bool.and_eq_true, Bool.not_eq_true', decide_eq_true_eq] at hc
  obtain ⟨⟨hr, hs⟩, hrun⟩ := hc
  rcases h with h | h | h
  · rw [hr] at h
    exact Bool.false_ne_true h.symm
  · rw [hs] at h
    exact Bool.false_ne_true h
  · exact absurd hrun (not_le.2 h)

theorem decStuckRecover_at : DoesAt (.decStuckRecover c) s .decim fun b t =>
    (b.decRuns c = true → (b.dec c).stuck = true → Only [.loc] b t ∧
      (t.dec c).stuck = false ∧ (t.dec c).run = 0 ∧ (t.dec c).clearAt = some b.now ∧ (t.dec c).peak = 0 ∧ (t.dec c).q = 0 ∧
      (∀ h, b.chain c.val = some h → (t.dec c).settle = h.settle (ratioOf (b.ratioHigh c.val)) + 1) ∧
      ∀ d : Fin 40, d ≠ c → t.dec d = b.dec d) ∧
    (b.decRuns c = false ∨ (b.dec c).stuck = false → t = b) := by
  refine doesAt_boundaryDo (exec_decStuckRecover c s) (fun b => (unstick_touch c b).queue) fun b => ⟨fun hr hs => ?_, fun h => ?_⟩
  · have heq : unstick c b = resetDec c b := if_pos (by rw [hr, hs]; rfl)
    have hdec : (resetDec c b).dec c = b.decReset c := by rw [resetDec_dec, if_pos hr]
    rw [heq, hdec]
    refine ⟨(resetDec_touch c b).frame, rfl, rfl, rfl, rfl, rfl, fun h hh => ?_, fun d hd => resetDec_dec_ne hd b⟩
    change b.settling c.val = _
    rw [State.settling, hh]
  · unfold unstick
    rcases h with h | h <;> simp [h]

/-! The end of settling (R350). -/

theorem decSettleEnd_does (hr : s.decRuns c = true) (h1 : (s.dec c).settle = 1) (hn : (s.dec c).clearAt = none) :
    Does (.decSettleEnd c) s [.loc] fun t => (t.dec c).settle = 0 ∧ ((s.dec c).isControl = true → (t.dec c).fade = Fade.one) ∧
      ((s.dec c).isControl = false → (t.dec c).fade.pos = 0 ∧ (t.dec c).fade.up = true) ∧ ∀ d : Fin 40, d ≠ c → t.dec d = s.dec d := by
  have hexec := exec_decSettleEnd c s
  rw [execDecSettleEnd, if_pos (by rw [hr, h1, hn]; rfl)] at hexec
  have hdec : (endSettle c s).dec c = { s.dec c with
      settle := 0, fade := if (s.dec c).isControl then Fade.one else Fade.zero.go true (s.fadeTime .decim) } := dec_onDec ..
  refine (endSettle_touch c s).does hexec ⟨by rw [hdec], fun hctl => by rw [hdec, hctl]; rfl, fun hctl => ?_, fun d hd => dec_onDec_ne hd _ s⟩
  rw [hdec, hctl]
  exact ⟨rfl, rfl⟩

theorem decSettleEnd_idle (h : s.decRuns c = false ∨ (s.dec c).settle ≠ 1 ∨ (s.dec c).clearAt.isSome = true) :
    exec (.decSettleEnd c) s = .next s := by
  rw [exec_decSettleEnd, execDecSettleEnd, if_neg]
  intro hc
  simp only [Bool.and_eq_true, decide_eq_true_eq, Option.isNone_iff_eq_none] at hc
  obtain ⟨⟨hr, h1⟩, hn⟩ := hc
  rcases h with h | h | h
  · rw [hr] at h
    exact Bool.false_ne_true h.symm
  · exact h h1
  · rw [hn] at h
    exact absurd h (by decide)

/-! DSYNC (R343, R344). -/

theorem dsyncEdge_short {low high : Nat} (h : low < 200 ∨ high < 200) : exec (.dsyncEdge low high) s = .next s := by
  rw [exec_dsyncEdge, execDsyncEdge, if_pos]
  rcases h with h | h <;> simp [h]

theorem dsyncEdge_taken {low high : Nat} (hlow : 200 ≤ low) (hhigh : 200 ≤ high) (hrun : s.life? .decim = .running)
    (hen : s.dsyncEn = true) (hheld : s.dsyncHeld = false) : exec (.dsyncEdge low high) s =
      .next { s with loc := { s.loc with
        dsync := true, dsyncWait := true, dsyncFrom := if s.loc.dsyncWait then s.loc.dsyncFrom else s.now } } := by
  rw [exec_dsyncEdge, execDsyncEdge, if_neg (by simp; omega)]
  exact congrArg Host.Outcome.next (if_neg (by rw [hrun, hen, hheld]; decide))

theorem dsyncEdge_counted {low high : Nat} (hlow : 200 ≤ low) (hhigh : 200 ≤ high)
    (h : s.life? .decim ≠ .running ∨ s.dsyncEn = false ∨ s.dsyncHeld = true) : Does (.dsyncEdge low high) s [.loc, .cnt] fun t =>
      t.loc = { s.loc with dsync := true } ∧ Counts s t 8 1 1 := by
  have hexec := exec_dsyncEdge low high s
  unfold execDsyncEdge at hexec
  rw [if_neg (by simp; omega)] at hexec
  extract_lets s1 at hexec
  have hbump : (s.life? .decim != Life.running || !s.dsyncEn || s.dsyncHeld) = true := by
    rcases h with h | h | h
    · rw [bne_iff_ne.2 h]
      rfl
    · rw [h]
      simp
    · rw [h]
      simp
  rw [if_pos hbump] at hexec
  refine ((State.bump_touch ..).after ((Touch.refl _ s).onLoc rfl) rfl).does hexec ⟨rfl, ?_⟩
  exact counts_congr (s := s1) (t := s1.bump 8 1) rfl rfl (counts_bumpBy (by decide) 8 1 s1)

/-- The state as a reset by DSYNC begins. -/
def dsyncTaken (b : State) : State := b.onLoc fun l => { l with dsyncWait := false }

theorem resetDecs_loc {l : List (Fin 40)} (s : State) :
    (forAll l resetDec s).loc = { s.loc with decs := (forAll l resetDec s).loc.decs } := by
  have hview (k : Fin 40) (t : State) : { (resetDec k t).loc with decs := s.loc.decs } = { t.loc with decs := s.loc.decs } := by
    cases hr : t.decRuns k with
    | true =>
      rw [resetDec_runs hr]
      rfl
    | false => rw [resetDec_idle hr]
  have h : { (forAll l resetDec s).loc with decs := s.loc.decs } = { s.loc with decs := s.loc.decs } :=
    forAll_keeps (fun t : State => { t.loc with decs := s.loc.decs }) (fun k _ t => hview k t) s
  generalize (forAll l resetDec s).loc = u at h ⊢
  exact congrArg (fun x : LocalSt => { x with decs := u.decs }) h

theorem syncDec_does (b : State) :
    (∀ c : Fin 40, (syncDec b).dec c = if b.decRuns c then b.decReset c else b.dec c) ∧
    (b.loc.syncSeen ≠ some b.now → Counts b (syncDec b) 8 0 1) ∧ (syncDec b).loc.syncTick = b.now ∧
    (syncDec b).loc.dsyncWait = b.loc.dsyncWait ∧ (syncDec b).loc.tdm = b.loc.tdm := by
  have hloc := resetDecs_loc (l := allDec) b
  have hdecs (c : Fin 40) := resetDecs_dec (l := allDec) (c := c) (List.nodup_finRange 40) (List.mem_finRange c) b
  have hcnt : (forAll allDec resetDec b).cnt = b.cnt := (forAll_touch (fun c t => resetDec_touch c t) b).cnt_eq
  unfold syncDec
  generalize forAll allDec resetDec b = s1 at hloc hdecs hcnt ⊢
  extract_lets u s2
  have h2 : s2.loc = s1.loc := by
    dsimp only [s2]
    split <;> rfl
  refine ⟨fun c => ?_, fun hseen => ?_, rfl, ?_, ?_⟩
  · refine Eq.trans ?_ (hdecs c)
    rw [State.dec, State.dec, ← h2]
    rfl
  · have heq : s2.cnt = (s1.bump 8 0).cnt := congrArg State.cnt (if_neg hseen)
    exact counts_congr (s := s1) (t := s1.bump 8 0) hcnt.symm heq (counts_bumpBy (by decide) 8 1 s1)
  · have hwait : s2.loc.dsyncWait = s1.loc.dsyncWait := by rw [h2]
    exact Eq.trans hwait (by rw [hloc])
  · have htdm : s2.loc.tdm = s1.loc.tdm := by rw [h2]
    exact Eq.trans htdm (by rw [hloc])

theorem dsyncReset_at : DoesAt .dsyncReset s .decim (fun b t =>
    (b.loc.dsyncWait = true → (b.life? .decim).busy = true → Only [.loc, .cnt] b t ∧
      (∀ c : Fin 40, (b.decRuns c = true → (t.dec c).clearAt = some b.now ∧ (t.dec c).stuck = false ∧ (t.dec c).peak = 0) ∧
        (b.decRuns c = false → t.dec c = b.dec c)) ∧ (b.loc.syncSeen ≠ some b.now → Counts b t 8 0 1) ∧
      t.loc.syncTick = b.now ∧ t.loc.dsyncWait = false ∧ t.loc.tdm = b.loc.tdm) ∧
    (b.loc.dsyncWait = true → (b.life? .decim).busy = false → t = { b with loc := { b.loc with dsyncWait := false } }) ∧
    (b.loc.dsyncWait = false → t = b)) := by
  refine doesAt_boundaryDo (exec_dsyncReset s) (fun b => (dsyncReset_touch b).queue) fun b => ⟨fun hw hb => ?_, fun hw hb => ?_, fun hw => ?_⟩
  · have htouch := (dsyncReset_touch b).frame
    have heq : dsyncReset b = (syncDec (dsyncTaken b)).onLoc fun l => { l with dsyncAt := some b.now } := by
      unfold dsyncReset
      rw [if_neg (by simp [hw]), if_pos hb]
      rfl
    obtain ⟨hdecs, hcount, htick, hwait, htdm⟩ := syncDec_does (dsyncTaken b)
    rw [heq] at htouch ⊢
    generalize syncDec (dsyncTaken b) = u at htouch hdecs hcount htick hwait htdm ⊢
    refine ⟨htouch, fun c => ⟨fun hr => ?_, fun hr => ?_⟩, fun hseen => ?_, htick, hwait, htdm⟩
    · have hdec : u.dec c = (dsyncTaken b).decReset c := (hdecs c).trans (if_pos hr)
      change (u.dec c).clearAt = _ ∧ (u.dec c).stuck = _ ∧ (u.dec c).peak = _
      rw [hdec]
      exact ⟨rfl, rfl, rfl⟩
    · exact (hdecs c).trans (if_neg (by rw [show (dsyncTaken b).decRuns c = false from hr]; decide))
    · exact counts_congr (s := dsyncTaken b) (t := u) rfl rfl (hcount hseen)
  · unfold dsyncReset
    rw [if_neg (by simp [hw]), if_neg (by rw [hb]; decide)]
    rfl
  · unfold dsyncReset
    exact if_pos (by simp [hw])

end

end Sys2Proof.Machine
end

section
/-! PROOFS. The PDM clocks, and the statement of O36. -/

namespace Sys2Proof.Machine

open Sys2Proof

set_option Elab.async false

section
variable {s b : State}

/-- The state as PDM begins to run, its clocks warm (R342). -/
def pdmWarm (b : State) : State := ((b.setLife .pdm .running).onLoc fun l => { l with warming := 0 }).bump 9 0

/-- The channels of the clocks that run. -/
def clockedDecs (b : State) : List (Fin 40) := allDec.filter fun (c : Fin 40) => decide (c.val < 32) && b.loc.clkRun.getLsbD (c.val / 8)

theorem enterRunning_pdm (b : State) : enterRunning .pdm b = ((if b.life? .decim == Life.starting || b.life? .decim == Life.running then
      chiveWarm (forAll (clockedDecs b) resetDec (pdmWarm b)) else chiveWarm (pdmWarm b))).endStarts .pdm stOk := by
  have hlife : (pdmWarm b).life? .decim = b.life? .decim := State.life?_setLife_of_ne _ _ (by decide)
  have hwork : runWork .pdm (b.setLife .pdm .running) = if (pdmWarm b).life? .decim == Life.starting || (pdmWarm b).life? .decim == Life.running then
      chiveWarm (forAll (clockedDecs b) resetDec (pdmWarm b)) else chiveWarm (pdmWarm b) := rfl
  rw [enterRunning_eq, hwork, hlife]

theorem pdmWarm_func (b : State) (f : Func) (h : f ≠ .pdm) : (pdmWarm b).func f = b.func f := func_setLife_ne h ..

theorem pdmWarm_config (b : State) (f : Func) : ((pdmWarm b).func f).config = (b.func f).config := by
  by_cases h : f = .pdm
  · subst h
    have hf : (pdmWarm b).func .pdm = { b.func .pdm with state := .running, lastChange := b.now } := func_setLife ..
    rw [hf]
  · rw [pdmWarm_func b f h]

theorem pdmWarm_decRuns {c : Fin 40} (hd : b.life? .decim = .running) (hc : c.val < 32) (hclk : b.loc.clkRun.getLsbD (c.val / 8) = true)
    (hchain : (b.chain c.val).isSome = true) : (pdmWarm b).decRuns c = true := by
  have hpdm : (pdmWarm b).life? .pdm = .running := by
    have hf : (pdmWarm b).func .pdm = { b.func .pdm with state := .running, lastChange := b.now } := func_setLife ..
    rw [State.life?, hf]
  have hdecim : (pdmWarm b).life? .decim = .running := (State.life?_setLife_of_ne _ _ (by decide)).trans hd
  have hratio (i : Nat) : (pdmWarm b).ratioHigh i = b.ratioHigh i := by
    unfold State.ratioHigh State.pdmRatio128 State.pdmCfg
    rw [pdmWarm_config]
  have hentry (i : Nat) : (pdmWarm b).decEntry i = b.decEntry i := by
    unfold State.decEntry State.decCfg
    rw [pdmWarm_config]
  have hch : ((pdmWarm b).chain c.val).isSome = true := by
    unfold State.chain at hchain ⊢
    rw [hentry, hratio, hchain]
  have hclk' : (pdmWarm b).loc.clkRun.getLsbD (c.val / 8) = true := hclk
  have hwarm : (pdmWarm b).loc.warming.getLsbD (c.val / 8) = false := BitVec.getLsbD_zero
  unfold State.decRuns
  rw [hch, if_pos hc, hdecim, hpdm, hclk', hwarm]
  rfl

/-- PDM's loc part, its counts and its channels as it starts to run. -/
theorem enterRunning_pdm_loc (b : State) : (enterRunning .pdm b).loc.warming = 0 ∧ (enterRunning .pdm b).loc.clkRun = b.loc.clkRun ∧
    Counts b (enterRunning .pdm b) 9 0 1 ∧
    (b.life? .decim = .running → ∀ c : Fin 40, c.val < 32 → b.loc.clkRun.getLsbD (c.val / 8) = true → (b.chain c.val).isSome = true →
      ((enterRunning .pdm b).dec c).clearAt = some b.now) := by
  rw [enterRunning_pdm]
  have hloc := resetDecs_loc (l := clockedDecs b) (pdmWarm b)
  have hdecs {c : Fin 40} (hc : c ∈ clockedDecs b) : (forAll (clockedDecs b) resetDec (pdmWarm b)).dec c =
      if (pdmWarm b).decRuns c then (pdmWarm b).decReset c else (pdmWarm b).dec c :=
    resetDecs_dec (List.Nodup.filter _ (List.nodup_finRange 40)) hc _
  have hcnt : (forAll (clockedDecs b) resetDec (pdmWarm b)).cnt = (pdmWarm b).cnt := (forAll_touch (fun c t => resetDec_touch c t) _).cnt_eq
  have hcounts : Counts b (pdmWarm b) 9 0 1 := counts_congr rfl rfl (counts_bumpBy (by decide) 9 1 b)
  have hwarm : (pdmWarm b).loc.warming = 0 ∧ (pdmWarm b).loc.clkRun = b.loc.clkRun := ⟨rfl, rfl⟩
  have hnow : (pdmWarm b).now = b.now := rfl
  have hruns := @pdmWarm_decRuns b
  generalize pdmWarm b = w at hloc hdecs hcnt hcounts hwarm hnow hruns ⊢
  obtain ⟨hw, hclk⟩ := hwarm
  by_cases h : (b.life? .decim == Life.starting || b.life? .decim == Life.running) = true
  · rw [if_pos h]
    generalize forAll (clockedDecs b) resetDec w = u at hloc hdecs hcnt ⊢
    have hsame : ((chiveWarm u).endStarts .pdm stOk).loc = u.loc := (State.endStarts_touch ..).loc_eq.trans (chiveWarm_touch u).loc_eq
    refine ⟨by rw [hsame, hloc, hw], by rw [hsame, hloc, hclk], ?_, fun hd c hc hk hch => ?_⟩
    · exact counts_congr rfl (((State.endStarts_touch ..).cnt_eq.trans (chiveWarm_touch u).cnt_eq).trans hcnt) hcounts
    · have hmem : c ∈ clockedDecs b := by
        refine List.mem_filter.2 ⟨List.mem_finRange c, ?_⟩
        rw [decide_eq_true hc, hk]
        rfl
      have hdec := hdecs hmem
      rw [if_pos (hruns hd hc hk hch)] at hdec
      rw [State.dec, hsame, ← State.dec, hdec, ← hnow]
      rfl
  · rw [if_neg h]
    have hsame : ((chiveWarm w).endStarts .pdm stOk).loc = w.loc := (State.endStarts_touch ..).loc_eq.trans (chiveWarm_touch w).loc_eq
    refine ⟨by rw [hsame, hw], by rw [hsame, hclk], ?_, fun hd => ?_⟩
    · exact counts_congr rfl ((State.endStarts_touch ..).cnt_eq.trans (chiveWarm_touch w).cnt_eq) hcounts
    · rw [hd] at h
      exact absurd rfl h

theorem pdmWarmupEnd_at : DoesAt .pdmWarmupEnd s .decim (fun b t =>
    (b.life? .pdm = .starting → max 1 b.warmTicks ≤ b.since .pdm →
      Only [.funcs, .jobs, .acts, .rings, .pages, .link, .reqs, .svc, .portA, .portB, .path, .loc, .pwr, .log, .cnt] b t ∧
      t.life? .pdm = .running ∧ t.loc.warming = 0 ∧ t.loc.clkRun = b.loc.clkRun ∧ Counts b t 9 0 1 ∧
      (b.life? .decim = .running → ∀ c : Fin 40, c.val < 32 → b.loc.clkRun.getLsbD (c.val / 8) = true → (b.chain c.val).isSome = true →
        (t.dec c).clearAt = some b.now) ∧ ∀ f : Func, f ≠ .pdm → t.life? f = b.life? f) ∧
    (b.life? .pdm ≠ .starting ∨ b.since .pdm < max 1 b.warmTicks → t = b)) := by
  refine doesAt_boundaryDo (exec_pdmWarmupEnd s) (fun b => ?_) fun b => ⟨fun hst hdue => ?_, fun h => ?_⟩
  · exact (Touch.ite (enterRunning_touch ..) (Touch.refl _ b)).queue
  · have hdone : startDone .pdm b = true := by
      unfold startDone
      rw [hst, decide_eq_true hdue]
      rfl
    rw [if_pos hdone]
    obtain ⟨hwarm, hclk, hcounts, hdecs⟩ := enterRunning_pdm_loc b
    refine ⟨(enterRunning_touch .pdm b).frame, enterRunning_life? .pdm b, hwarm, hclk, hcounts, hdecs, fun f hf => ?_⟩
    rw [State.life?, State.life?, enterRunning_func_ne hf]
  · refine if_neg fun hdone => ?_
    unfold startDone at hdone
    simp only [Bool.and_eq_true, beq_iff_eq, decide_eq_true_eq] at hdone
    rcases h with h | h
    · exact h hdone.1
    · exact absurd hdone.2 (not_le.2 h)

theorem stoppedAt_pdm_loc (b : State) : (stoppedAt .pdm b).loc = { b.loc with clkRun := 0, warming := 0 } :=
  (dropRequests_touch ..).loc_eq

theorem enterStopped_pdm_loc (b : State) : (enterStopped .pdm b).loc = { b.loc with clkRun := 0, warming := 0 } := by
  have hoff (t : State) : (enterOff .pdm t).loc = t.loc := rfl
  rw [enterStopped_eq, (State.endStops_touch ..).loc_eq]
  split
  · rw [hoff, stoppedAt_pdm_loc]
  · exact stoppedAt_pdm_loc b

theorem pdmClockStop_at : DoesAt .pdmClockStop s .decim (fun b t =>
    (b.life? .pdm = .stopping → (b.func .pdm).fade.silent = true → t.loc.clkRun = 0 ∧
      t.loc.decs = b.loc.decs ∧ (∀ f : Func, f ≠ .pdm → t.life? f = b.life? f) ∧
      ((b.func .pdm).offReq = false → t.life? .pdm = .stopped) ∧ ((b.func .pdm).offReq = true → t.life? .pdm = .off)) ∧
    (b.life? .pdm ≠ .stopping ∨ (b.func .pdm).fade.silent = false → t = b)) := by
  refine doesAt_boundaryDo (exec_pdmClockStop s) (fun b => ?_) fun b => ⟨fun hst hsilent => ?_, fun h => ?_⟩
  · exact (Touch.ite (enterStopped_touch ..) (Touch.refl _ b)).queue
  · have hdone : stopDone .pdm b = true := by
      unfold stopDone
      rw [hst, hsilent]
      rfl
    rw [if_pos hdone]
    have hloc := enterStopped_pdm_loc b
    refine ⟨by rw [hloc], by rw [hloc], fun f hf => ?_, fun ho => ?_, fun ho => (enterStopped_off ho).1⟩
    · rw [State.life?, State.life?, enterStopped_func_ne hf]
    · rw [State.life?, enterStopped_stays ho]
  · refine if_neg fun hdone => ?_
    unfold stopDone at hdone
    simp only [Bool.and_eq_true, beq_iff_eq] at hdone
    rcases h with h | h
    · exact h hdone.1
    · rw [hdone.2] at h
      exact Bool.false_ne_true h.symm

end

/-- Settles O36: PDM's clocks start and stop at DECIM's boundary; a channel's reset changes its own record alone; DSYNC resets every channel
that runs. -/
theorem decimatorEvents : Obligations.DecimatorEvents := by
  unfold Obligations.DecimatorEvents
  intro s
  exact ⟨pdmWarmupEnd_at, pdmClockStop_at, fun c => ⟨decStuck_does, decStuck_idle⟩, fun c => decStuckRecover_at,
    fun c => ⟨decSettleEnd_does, decSettleEnd_idle⟩, fun low high h => dsyncEdge_short h,
    fun low high hlow hhigh => ⟨dsyncEdge_taken hlow hhigh, dsyncEdge_counted hlow hhigh⟩, dsyncReset_at⟩

end Sys2Proof.Machine
end

section

/-! PROOFS. Life-cycle jobs that end, and events at the boundary of an island whose clock runs (R14, R75). -/

namespace Sys2Proof.Machine
open Sys2Proof

set_option Elab.async false

/-- A loop touches what its body touches for each of the list's members. -/
theorem forAll_touch_mem {α : Type} {ps : List Part} {l : List α} {g : α → State → State}
    (hg : ∀ a ∈ l, ∀ s, Touch ps s (g a s)) (s : State) : Touch ps s (forAll l g s) := by
  induction l generalizing s with
  | nil => exact Touch.refl ps s
  | cons a l ih =>
    exact (ih (fun b hb => hg b (List.mem_cons_of_mem a hb)) (g a s)).after (hg a List.mem_cons_self s) (subParts_refl ps)

/-- The end of a job that reports no progress leaves the host's link. -/
theorem endJob_quiet {j : Job} {status : Byte} {done : Nat} {unc : Bool} (h1 : (j.op == 0x21) = false)
    (h2 : (j.op == 0x22) = false) (s : State) : Touch [.jobs, .rings, .reqs] s (s.endJob j status done unc) := by
  have hq : noteProgress j done (s.dropJob j.uid) = s.dropJob j.uid := by
    rw [noteProgress, h1, h2]
    rfl
  unfold State.endJob
  rw [hq]
  have hdrop : Touch [.jobs, .rings, .reqs] s (s.dropJob j.uid) := (State.dropJob_touch j.uid s).after (Touch.refl _ s) rfl
  exact Touch.ite hdrop ((State.addRec_touch _ _ _).after hdrop rfl)

theorem endJobs_quiet {op : Byte} {f : Func} {status : Byte} {done : Nat} (h1 : (op == 0x21) = false) (h2 : (op == 0x22) = false)
    (s : State) : Touch [.jobs, .rings, .reqs] s (s.endJobs (Job.is op f) status done) := by
  unfold State.endJobs
  refine forAll_touch_mem (fun j hj s => ?_) s
  obtain ⟨-, his⟩ := List.mem_filter.1 hj
  rw [Job.is, Bool.and_eq_true, beq_iff_eq] at his
  rw [← his.1] at h1 h2
  exact endJob_quiet h1 h2 s

/-- What ends with a start or a stop: jobs, actions and records. -/
abbrev endParts : List Part := [.jobs, .acts, .rings, .reqs]

theorem endStarts_quiet (f : Func) (status : Byte) (s : State) : Touch endParts s (s.endStarts f status) := by
  unfold State.endStarts
  extract_lets done s1
  exact (forAll_touch (fun a s => (State.endAction_touch a _ _ s).after (Touch.refl endParts s) rfl) s1).after
    ((endJobs_quiet rfl rfl s).after (Touch.refl endParts s) rfl) rfl

theorem endStops_quiet (f : Func) (status : Byte) (s : State) : Touch endParts s (s.endStops f status) := by
  unfold State.endStops
  extract_lets done s1
  exact (forAll_touch (fun a s => (State.endAction_touch a _ _ s).after (Touch.refl endParts s) rfl) s1).after
    ((endJobs_quiet rfl rfl s).after (Touch.refl endParts s) rfl) rfl

/-- What an event at a boundary does may be shown with the island's clock as it stands in the state before. -/
theorem doesAt_boundaryDo_halted {c : Instr} {s : State} {i : Island} {g : State → State} {P : State → State → Prop}
    (hexec : exec c s = .next (boundaryDo i g s)) (hqueue : ∀ b, (g b).pending = b.pending)
    (hP : ∀ b, b.halted i = s.halted i → P b (g b)) : DoesAt c s i P := by
  obtain ⟨hat, hnone⟩ := doesAt_boundaryDo (P := fun b t => t = g b) hexec hqueue fun _ => rfl
  refine ⟨fun n hn => ?_, hnone⟩
  obtain ⟨t, ht, hq, rfl⟩ := hat n hn
  exact ⟨_, ht, hq, hP _ (halted_opened i i n s)⟩

end Sys2Proof.Machine
end

section

/-! PROOFS. The effect of a start (R75, R76). -/

namespace Sys2Proof.Machine
open Sys2Proof

set_option Elab.async false

/-- The gain with which a function's start sequence begins. -/
def startFade : Func → Fade
  | .streamTx => Fade.zero
  | .lovage => Fade.zero
  | .sc _ => Fade.zero
  | .pch _ => Fade.zero
  | _ => Fade.one

/-- The work that a function's start begins, while FS holds the frequency asked for. -/
def startWork (f : Func) (u : State) : State :=
  match f with
  | .pathA => resetPathRx .a u
  | .pathB => resetPathRx .b u
  | .streamRx => resetRx u
  | .streamTx => startTx u
  | .timekeeper => u.onTime fun t => { t with restarted := t.lock != 0 }
  | .lovage => forAll (List.finRange 16) genFlush u
  | .decim => syncDec u
  | .pdm =>
    u.onLoc fun l => { l with
      clkRun := BitVec.ofNat 4 u.pdmClkEn, warming := BitVec.ofNat 4 u.pdmClkEn, ratio128 := BitVec.ofNat 4 u.pdmRatio128 }
  | .tdm0 => u.onTdm 0 fun _ => { state := if u.tdmSlave 0 then 2 else 0 }
  | .tdm1 => u.onTdm 1 fun _ => { state := if u.tdmSlave 1 then 2 else 0 }
  | .sc n => startCore n u
  | .pch c => startPch c u
  | _ => u

def FuncRec.withFade (x : Fade) (r : FuncRec) : FuncRec := { r with fade := x }

def FuncRec.unasked (r : FuncRec) : FuncRec := { r with startReq := false }

def FuncRec.changed (n : DWord) (r : FuncRec) : FuncRec := { r with effect := n, lastChange := n }

theorem beginStart_eq {f : Func} {s : State} (h : f = .timekeeper → s.time.ctrl.truncate 2 = s.time.fs) :
    beginStart f s = startWork f (s.onFunc f (FuncRec.withFade (startFade f))) := by
  cases f with
  | timekeeper => exact if_pos (h rfl)
  | pathA | pathB | streamRx | streamTx | lovage | decim | pdm | tdm0 | tdm1 | sc n | pch c | service | memctl | capture | sage => rfl

abbrev startParts : List Part := [.time, .strm, .lov, .loc, .cores, .pwr, .mem, .cnt, .free]

theorem startWork_touch (f : Func) (u : State) : Touch startParts u (startWork f u) := by
  have widen {ps : List Part} {t : State} (k : Touch ps u t) (hps : subParts ps startParts = true) : Touch startParts u t :=
    k.after (Touch.refl _ u) hps
  cases f with
  | pathA => exact widen (resetPathRx_touch .a u) rfl
  | pathB => exact widen (resetPathRx_touch .b u) rfl
  | streamRx => exact widen (resetRx_touch u) rfl
  | streamTx => exact widen (startTx_touch u) rfl
  | timekeeper =>
    unfold startWork
    exact (Touch.refl startParts u).onTime rfl
  | lovage => exact widen (forAll_touch genFlush_touch u) rfl
  | decim => exact widen (syncDec_touch u) rfl
  | pdm =>
    unfold startWork
    exact (Touch.refl startParts u).onLoc rfl
  | tdm0 => exact widen (State.onTdm_touch 0 _ u) rfl
  | tdm1 => exact widen (State.onTdm_touch 1 _ u) rfl
  | sc n => exact widen (startCore_touch n u) rfl
  | pch c => exact widen (startPch_touch c u) rfl
  | service | memctl | capture | sage => exact Touch.refl _ u

/-- The work of every start but TIMEKEEPER's leaves time. -/
theorem startWork_time {f : Func} (h : f ≠ .timekeeper) (u : State) : (startWork f u).time = u.time := by
  cases f with
  | pathA => exact (resetPathRx_touch .a u).time_eq
  | pathB => exact (resetPathRx_touch .b u).time_eq
  | streamRx => exact (resetRx_touch u).time_eq
  | streamTx => exact (startTx_touch u).time_eq
  | timekeeper => exact absurd rfl h
  | lovage => exact (forAll_touch genFlush_touch u).time_eq
  | decim => exact (syncDec_touch u).time_eq
  | pdm => rfl
  | tdm0 => exact (State.onTdm_touch 0 _ u).time_eq
  | tdm1 => exact (State.onTdm_touch 1 _ u).time_eq
  | sc n => exact (startCore_touch n u).time_eq
  | pch c => exact (startPch_touch c u).time_eq
  | service | memctl | capture | sage => rfl

theorem startWork_now (f : Func) (u : State) : (startWork f u).now = u.now := by
  by_cases h : f = .timekeeper
  · subst h
    rfl
  · exact congrArg TimeSt.tick (startWork_time h u)

/-- A function as it enters STARTING. -/
def startPut (f : Func) (s : State) : State :=
  (startWork f ((s.setLife f .starting).onFunc f (FuncRec.withFade (startFade f)))).onFunc f (FuncRec.changed s.now)

theorem startPut_touch (f : Func) (s : State) : Touch (.funcs :: startParts) s (startPut f s) := by
  have hlife : Touch (.funcs :: startParts) s (s.setLife f .starting) := (State.setLife_touch f .starting s).after (Touch.refl _ s) rfl
  have hfade := (State.onFunc_touch f (FuncRec.withFade (startFade f)) _).after hlife rfl
  exact (State.onFunc_touch f _ _).after ((startWork_touch f _).after hfade rfl) rfl

theorem startPut_func (f : Func) (s : State) : (startPut f s).func f =
    FuncRec.changed s.now (FuncRec.withFade (startFade f) { s.func f with state := .starting, lastChange := s.now }) := by
  rw [startPut, State.func_onFunc, (startWork_touch f _).func_eq, State.func_onFunc, func_setLife]

theorem startPut_func_ne {f k : Func} (h : k ≠ f) (s : State) : (startPut f s).func k = s.func k := by
  rw [startPut, State.func_onFunc_of_ne _ _ h, (startWork_touch f _).func_eq, State.func_onFunc_of_ne _ _ h, func_setLife_ne h]

theorem startPut_time {f : Func} (h : f ≠ .timekeeper) (s : State) : (startPut f s).time = s.time :=
  startWork_time h _

/-- A start of which nothing is left to check. -/
structure CanStart (f : Func) (s : State) : Prop where
  asked : (s.func f).startReq = true
  first : stopFirst f s = false
  stands : s.life? f = .stopped ∨ s.life? f = .faulted
  notReset : s.chip.resetting = false
  powered : f.hv = true → s.chip.linkUp = true ∧ 0 ≤ s.chip.vbus.toInt

/-- The state in which a start that is taken resumes its island. -/
def startTaken (f : Func) (s : State) : State := resumeIsland (islandOf f) (s.onFunc f FuncRec.unasked)

section
variable {f : Func} {s : State}

theorem startTaken_touch (f : Func) (s : State) : Touch [.funcs, .time] s (startTaken f s) :=
  (resumeIsland_touch _ _).after ((State.onFunc_touch f _ s).after (Touch.refl _ s) rfl) rfl

theorem startTaken_func (f : Func) (s : State) : (startTaken f s).func f = FuncRec.unasked (s.func f) := by
  rw [startTaken, (resumeIsland_touch _ _).func_eq, State.func_onFunc]

theorem startTaken_func_ne {k : Func} (h : k ≠ f) (s : State) : (startTaken f s).func k = s.func k := by
  rw [startTaken, (resumeIsland_touch _ _).func_eq, State.func_onFunc_of_ne _ _ h]

theorem startTaken_life? (f k : Func) (s : State) : (startTaken f s).life? k = s.life? k := by
  by_cases hk : k = f
  · subst hk
    rw [State.life?, startTaken_func]
    rfl
  · exact congrArg FuncRec.state (startTaken_func_ne hk s)

theorem startTaken_running (k : Func) : (startTaken f s).running k = s.running k :=
  congrArg (· == Life.running) (startTaken_life? f k s)

theorem startTaken_switching : (startTaken f s).anySwitching = s.anySwitching := by
  have h : (startTaken f s).pwr = s.pwr := (startTaken_touch f s).pwr_eq
  unfold State.anySwitching State.switching State.pch
  simp only [h, startTaken_life?]

theorem startTaken_live (h : s.halted (islandOf f) = false) : startTaken f s = s.onFunc f FuncRec.unasked :=
  if_neg (Bool.eq_false_iff.1 h)

/-- What a start that may be taken does, behind its checks. -/
theorem startEffect_open (h : CanStart f s) (hsw : f.hv = true → f ≠ .sage → s.anySwitching = true) :
    startEffect f s =
      if (f.hv && f != .sage && !s.running .sage) = true then autoStartRefused f stBadState ((startTaken f s).endStarts f stBadState)
      else (beginStart f ((startTaken f s).setLife f .starting)).onFunc f
        (FuncRec.changed (beginStart f ((startTaken f s).setLife f .starting)).now) := by
  obtain ⟨hasked, hfirst, hstands, hreset, hpower⟩ := h
  have hst : (s.life? f == .stopped || s.life? f == .faulted) = true := by
    rcases hstands with h | h <;> rw [h] <;> rfl
  have hpow : (f.hv && (!s.chip.linkUp || s.chip.vbus.slt 0)) = false := by
    cases hv : f.hv with
    | false => rfl
    | true =>
      obtain ⟨hlink, hvbus⟩ := hpower hv
      have hslt : s.chip.vbus.slt 0 = false := decide_eq_false (Int.not_lt.2 hvbus)
      rw [hlink, hslt]
      rfl
  unfold startEffect
  extract_lets st s0
  have hs0 : s0 = startTaken f s := rfl
  rw [if_neg (show ¬(!(s.func f).startReq || stopFirst f s || !(st == .stopped || st == .faulted)) = true by
      rw [hasked, hfirst, show (st == .stopped || st == .faulted) = true from hst]; exact Bool.false_ne_true),
    if_neg (by rw [hreset]; exact Bool.false_ne_true), if_neg (by rw [hpow]; exact Bool.false_ne_true)]
  rw [hs0]
  have hrun := startTaken_running (f := f) (s := s) .sage
  cases f with
  | pch c =>
    have hany : (startTaken (.pch c) s).anySwitching = true := startTaken_switching.trans (hsw rfl (fun h => Func.noConfusion h))
    dsimp only
    rw [if_pos hany]
    dsimp only
    rw [hrun]
    rfl
  | pathA | pathB | streamRx | streamTx | timekeeper | lovage | decim | pdm | tdm0 | tdm1 | sc n | service | memctl | capture | sage => 
    rfl

theorem startEffect_starts (h : CanStart f s) (hsage : f.hv = true → f ≠ .sage → s.running .sage = true ∧ s.anySwitching = true)
    (hfs : f = .timekeeper → (startTaken f s).time.ctrl.truncate 2 = (startTaken f s).time.fs) :
    startEffect f s = startPut f (startTaken f s) := by
  have hbegin := beginStart_eq (f := f) (s := (startTaken f s).setLife f .starting) hfs
  have hrefuse : ¬(f.hv && f != .sage && !s.running .sage) = true := by
    simp only [Bool.and_eq_true, bne_iff_ne, ne_eq, Bool.not_eq_true', not_and, Bool.not_eq_false, and_imp]
    exact fun hv hne => (hsage hv hne).1
  rw [startEffect_open h fun hv hne => (hsage hv hne).2, if_neg hrefuse, hbegin, startPut, startWork_now]
  rfl

end
end Sys2Proof.Machine
end

section

/-! PROOFS. START_EFFECT and the end of a start sequence (R75, R77). -/

namespace Sys2Proof.Machine
open Sys2Proof

set_option Elab.async false

section
variable {f : Func} {s : State}

theorem Touch.only {ps qs : List Part} {s t : State} (h : Touch ps s t) (hsub : subParts ps qs = true) : Only qs s t :=
  (h.after (Touch.refl qs s) hsub).frame

theorem startTaken_time (h : s.halted (islandOf f) = false) : (startTaken f s).time = s.time := by
  rw [startTaken_live h]
  rfl

theorem mergeBits_clears (i : Nat) (old : Word) : (mergeBits (BitVec.ofNat 32 (2 ^ i)) old 0).getLsbD i = false := by
  by_cases h : i < 32
  · have hbit : (BitVec.ofNat 32 (2 ^ i)).getLsbD i = true := by
      rw [BitVec.getLsbD_ofNat, Nat.testBit_two_pow_self, Bool.and_true, decide_eq_true h]
    rw [mergeBits, BitVec.getLsbD_or, BitVec.getLsbD_and, BitVec.getLsbD_and, BitVec.getLsbD_not, hbit]
    simp
  · exact BitVec.getLsbD_of_ge _ _ (Nat.le_of_not_lt h)

theorem halted_resumeIsland (i : Island) (s : State) : (resumeIsland i s).halted i = false := by
  unfold resumeIsland
  by_cases h : s.halted i = true
  · rw [if_pos h]
    exact mergeBits_clears (islandIdx i) s.time.halted
  · rw [if_neg h]
    exact Bool.eq_false_iff.2 h

theorem copy_resumeIsland {i : Island} (h : s.halted i = true) : (resumeIsland i s).copy i = s.now := by
  rw [resumeIsland, if_pos h]
  exact congrArg (fun c => Option.getD c 0) (Store.get?_put_self s.time.copies (islandIdx i) s.now)

/-! An island whose clock runs takes the start at a boundary. -/

theorem startTaken_now (h : s.halted (islandOf f) = false) : (startTaken f s).now = s.now :=
  congrArg TimeSt.tick (startTaken_time h)

/-- The start put in force at a boundary. -/
theorem startEffect_puts (hlive : s.halted (islandOf f) = false) (h : CanStart f s)
    (hsage : f.hv = true → f ≠ .sage → s.running .sage = true ∧ s.anySwitching = true)
    (hfs : f = .timekeeper → s.time.ctrl.truncate 2 = s.time.fs) :
    Touch (.funcs :: startParts) s (startEffect f s) ∧ (startEffect f s).life? f = .starting ∧
      ((startEffect f s).func f).startReq = false ∧ ((startEffect f s).func f).effect = s.now ∧
      ∀ k, k ≠ f → (startEffect f s).func k = s.func k := by
  rw [startEffect_starts h hsage (by rw [startTaken_time hlive]; exact hfs)]
  have hfunc := startPut_func f (startTaken f s)
  rw [startTaken_func, startTaken_now hlive] at hfunc
  refine ⟨(startPut_touch f _).after ((startTaken_touch f s).after (Touch.refl _ s) rfl) rfl, ?_, ?_, ?_, fun k hk => ?_⟩
  · exact (congrArg FuncRec.state hfunc).trans rfl
  · exact (congrArg FuncRec.startReq hfunc).trans rfl
  · exact (congrArg FuncRec.effect hfunc).trans rfl
  · exact (startPut_func_ne hk _).trans (startTaken_func_ne hk s)

/-- A channel's start without Sage completes with BAD_STATE. -/
theorem startEffect_withoutSage (hlive : s.halted (islandOf f) = false) (h : CanStart f s) (hv : f.hv = true) (hne : f ≠ .sage)
    (hsage : s.running .sage = false) (hsw : s.anySwitching = true) (hauto : s.svc.autostart = []) :
    Touch (.funcs :: endParts) s (startEffect f s) ∧ (startEffect f s).life? f = s.life? f ∧
      ((startEffect f s).func f).startReq = false := by
  have hcond : (f.hv && f != .sage && !s.running .sage) = true := by
    rw [hv, hsage, bne_iff_ne.2 hne]
    rfl
  have hends := endStarts_quiet f stBadState (startTaken f s)
  have hnone : ((startTaken f s).endStarts f stBadState).svc.autostart = [] := by
    have hrest := hends.frame .svc (by decide)
    exact (congrArg SvcSt.autostart hrest).trans ((congrArg State.svc (startTaken_live hlive) ▸ hauto :))
  have heq : startEffect f s = (startTaken f s).endStarts f stBadState := by
    rw [startEffect_open h fun _ _ => hsw, if_pos hcond, autoStartRefused, hnone]
  rw [heq]
  have htaken : Touch (.funcs :: endParts) s (startTaken f s) := by
    rw [startTaken_live hlive]
    exact (State.onFunc_touch f _ s).after (Touch.refl _ s) rfl
  refine ⟨hends.after htaken rfl, ?_, ?_⟩
  · rw [State.life?, hends.func_eq, startTaken_func]
    rfl
  · rw [hends.func_eq, startTaken_func]
    rfl

theorem startDue_due (h : (s.func f).startReq = true) :
    startDue f s = if s.dueSince (s.func f).startAfter = true then startEffect f s else s := by
  unfold startDue
  extract_lets r
  rw [show r.startReq = true from h, Bool.true_and]
  rfl

theorem startEffect_atBoundary (hlive : s.halted (islandOf f) = false) :
    DoesAt (.startEffect f) s (islandOf f) fun b t => b.noneDue (islandOf f) →
    (b.func f).startReq = true → stopFirst f b = false → b.life? f = .stopped ∨ b.life? f = .faulted → b.chip.resetting = false →
    (f.hv = true → b.chip.linkUp = true ∧ 0 ≤ b.chip.vbus.toInt) →
    (b.dueSince (b.func f).startAfter = true → (f.hv = true → f ≠ .sage → b.running .sage = true ∧ b.anySwitching = true) →
      (f = .timekeeper → b.time.ctrl.truncate 2 = b.time.fs) →
      Only [.funcs, .writes, .jobs, .acts, .rings, .pages, .link, .reqs, .svc, .path, .time, .strm, .lov, .loc, .cores, .pwr, .mem, .log, .cnt, .edges, .free] b t ∧
      t.life? f = .starting ∧ (t.func f).startReq = false ∧ (t.func f).effect = b.now ∧ (∀ k : Func, k ≠ f → t.func k = b.func k)) ∧
    (b.dueSince (b.func f).startAfter = true → f.hv = true → f ≠ .sage → b.running .sage = false → b.anySwitching = true →
      b.svc.autostart = [] → Only [.funcs, .jobs, .acts, .rings, .reqs] b t ∧ t.life? f = b.life? f ∧ (t.func f).startReq = false) ∧
    (b.dueSince (b.func f).startAfter = false → t = b) := by
  have hexec : exec (.startEffect f) s = .next (boundaryDo (islandOf f) (fun s => startDue f (actsDue (islandOf f) s)) s) := by
    rw [exec_startEffect, execStartEffect, if_neg (Bool.eq_false_iff.1 hlive)]
  refine doesAt_boundaryDo_halted hexec (fun b => ?_) fun b hb hnone hreq hfirst hstands hreset hpower => ?_
  · exact (startDue_touch f _).queue.trans (actsDue_touch _ b).queue
  have hlive' : b.halted (islandOf f) = false := hb.trans hlive
  have hcan : CanStart f b := ⟨hreq, hfirst, hstands, hreset, hpower⟩
  rw [actsDue_none hnone, startDue_due hreq]
  refine ⟨fun hdue hsage hfs => ?_, fun hdue hv hne hsage hsw hauto => ?_, fun hdue => ?_⟩
  · rw [if_pos hdue]
    obtain ⟨ht, hrest⟩ := startEffect_puts hlive' hcan hsage hfs
    exact ⟨ht.only rfl, hrest⟩
  · rw [if_pos hdue]
    obtain ⟨ht, hrest⟩ := startEffect_withoutSage hlive' hcan hv hne hsage hsw hauto
    exact ⟨ht.only rfl, hrest⟩
  · exact if_neg (Bool.eq_false_iff.1 hdue)

/-- An island that stands resumes with the start, at the timing island's count. -/
theorem startEffect_resumes (hhalt : s.halted (islandOf f) = true) (h : CanStart f s) (hv : f.hv = false) (hne : f ≠ .timekeeper) :
    Does (.startEffect f) s [.funcs, .writes, .jobs, .acts, .rings, .pages,
      .link, .reqs, .svc, .path, .time, .strm, .lov, .loc, .cores, .pwr, .mem, .log, .cnt, .edges, .free] fun t =>
      t.life? f = .starting ∧ t.halted (islandOf f) = false ∧ t.copy (islandOf f) = s.now := by
  have hexec : exec (.startEffect f) s = .next (startPut f (startTaken f s)) := by
    rw [exec_startEffect, execStartEffect, if_pos hhalt,
      startEffect_starts h (fun hv' => absurd (hv'.symm.trans hv) (by decide)) fun hf => absurd hf hne]
  have ht : Touch (.funcs :: startParts) s (startPut f (startTaken f s)) :=
    (startPut_touch f _).after ((startTaken_touch f s).after (Touch.refl _ s) rfl) rfl
  have htime := startPut_time hne (startTaken f s)
  refine Touch.does (ht.after (Touch.refl _ s) rfl) hexec ⟨?_, ?_, ?_⟩
  · exact (congrArg FuncRec.state (startPut_func f _)).trans rfl
  · exact (congrArg (fun x : TimeSt => x.halted.getLsbD (islandIdx (islandOf f))) htime).trans (halted_resumeIsland _ _)
  · exact (congrArg (fun x : TimeSt => (x.copies.get? (islandIdx (islandOf f))).getD 0) htime).trans
      (copy_resumeIsland (s := s.onFunc f FuncRec.unasked) hhalt)

theorem startSequenceComplete_doesAt : DoesAt (.startSequenceComplete f) s (islandOf f) (fun b t =>
    (startDone f b = true → Only [.funcs, .jobs, .acts, .rings, .pages, .link, .reqs, .svc, .portA, .portB, .path, .loc, .pwr, .log, .cnt] b t ∧
      t.life? f = .running ∧ ∀ k : Func, k ≠ f → t.func k = b.func k) ∧
    (startDone f b = false → t = b)) := by
  refine doesAt_boundaryDo (g := fun s => if startDone f s then enterRunning f s else s)
    (by rw [exec_startSequenceComplete, execStartSequenceComplete]) (fun b => ?_) fun b => ⟨fun hdone => ?_, fun hdone => ?_⟩
  · exact (Touch.ite (enterRunning_touch f b) (Touch.refl _ b)).queue
  · rw [if_pos hdone]
    exact ⟨(enterRunning_touch f b).only rfl, enterRunning_life? f b, fun k hk => enterRunning_func_ne hk b⟩
  · rw [if_neg (Bool.eq_false_iff.1 hdone)]

end
end Sys2Proof.Machine
end

section

/-! PROOFS. The effect of a stop (R75, R78). -/

namespace Sys2Proof.Machine
open Sys2Proof

set_option Elab.async false

def FuncRec.stopTaken (n : DWord) (r : FuncRec) : FuncRec := { r with stopReq := false, effect := n }

def FuncRec.stopDropped (r : FuncRec) : FuncRec := { r with stopReq := false }

/-- A function's stop ends what waits for its start. -/
def stopTaken (f : Func) (s : State) : State := (s.endStarts f stAborted).onFunc f (FuncRec.stopTaken s.now)

/-- A function that is no power channel in STOPPING, before its fade. -/
def stopBegun (f : Func) (s : State) : State :=
  match f with
  | .timekeeper => (stopPtp .a (stopPtp .b (enterHoldover s))).setLife f .stopping
  | .streamRx => (leaveReported s).setLife f .stopping
  | .pdm => chivePdmStop (s.setLife .pdm .stopping)
  | _ => s.setLife f .stopping

abbrev stopParts : List Part := [.funcs, .time, .pwr, .pages, .portA, .portB, .path, .cnt]

theorem stopBegun_touch (f : Func) (s : State) : Touch stopParts s (stopBegun f s) := by
  have hset : ∀ u, Touch stopParts u (u.setLife f .stopping) := fun u =>
    (State.setLife_touch f .stopping u).after (Touch.refl _ u) rfl
  cases f with
  | timekeeper =>
    have h1 : Touch stopParts s (enterHoldover s) := (enterHoldover_touch s).after (Touch.refl _ s) rfl
    exact (hset _).after ((stopPtp_touch .a _).after ((stopPtp_touch .b _).after h1 rfl) rfl) rfl
  | streamRx => exact (hset _).after ((leaveReported_touch s).after (Touch.refl _ s) rfl) rfl
  | pdm => exact (chivePdmStop_touch _).after (hset s) rfl
  | pathA | pathB | streamTx | lovage | decim | tdm0 | tdm1 | sc n | pch c | service | memctl | capture | sage => exact hset s

/-- Only the function's own record moves, to STOPPING. -/
theorem stopBegun_func (f : Func) (s : State) :
    (∃ n, (stopBegun f s).func f = { s.func f with state := .stopping, lastChange := n }) ∧
      ∀ k, k ≠ f → (stopBegun f s).func k = s.func k := by
  have hset : ∀ u : State, (∀ k, u.func k = s.func k) →
      (∃ n, (u.setLife f .stopping).func f = { s.func f with state := .stopping, lastChange := n }) ∧
        ∀ k, k ≠ f → (u.setLife f .stopping).func k = s.func k := fun u hu =>
    ⟨⟨u.now, by rw [func_setLife, hu]⟩, fun k hk => (func_setLife_ne hk _ u).trans (hu k)⟩
  cases f with
  | timekeeper =>
    exact hset _ fun k => ((stopPtp_touch .a _).func_eq k).trans (((stopPtp_touch .b _).func_eq k).trans ((enterHoldover_touch s).func_eq k))
  | streamRx => exact hset _ (leaveReported_touch s).func_eq
  | pdm =>
    obtain ⟨⟨n, hn⟩, hne⟩ := hset s fun _ => rfl
    exact ⟨⟨n, ((chivePdmStop_touch _).func_eq _).trans hn⟩, fun k hk => ((chivePdmStop_touch _).func_eq k).trans (hne k hk)⟩
  | pathA | pathB | streamTx | lovage | decim | tdm0 | tdm1 | sc n | pch c | service | memctl | capture | sage => exact hset s fun _ => rfl

section
variable {f : Func} {s : State}

theorem stopTaken_touch (f : Func) (s : State) : Touch (.funcs :: endParts) s (stopTaken f s) :=
  (State.onFunc_touch f _ _).after ((endStarts_quiet f stAborted s).after (Touch.refl _ s) rfl) rfl

theorem stopTaken_func (f : Func) (s : State) : (stopTaken f s).func f = FuncRec.stopTaken s.now (s.func f) := by
  rw [stopTaken, State.func_onFunc, (endStarts_quiet f stAborted s).func_eq]

theorem stopTaken_func_ne {k : Func} (h : k ≠ f) (s : State) : (stopTaken f s).func k = s.func k := by
  rw [stopTaken, State.func_onFunc_of_ne _ _ h, (endStarts_quiet f stAborted s).func_eq]

/-- The branch of a stop that a function at work takes. -/
theorem stopEffect_running (hreq : (s.func f).stopReq = true) (hheld : s.sageHeld f = false) (hrun : s.life? f = .running) :
    stopEffect f s = match f with
      | .pch c => pchStop c 0 (stopTaken f s)
      | .sage => stopBegun .sage (stopTaken f s)
      | _ => fadeOut f (stopBegun f (stopTaken f s)) := by
  unfold stopEffect
  extract_lets st s1
  have hst : st = .running := hrun
  rw [if_neg (by rw [hreq]; exact Bool.false_ne_true), if_neg (by rw [hheld]; exact Bool.false_ne_true), hst,
    if_neg (by decide), if_neg (by decide), if_neg (by decide)]
  cases f <;> rfl

/-- A function at work that is no power channel goes to STOPPING, and fades out but for SAGE. -/
theorem stopEffect_fades (hreq : (s.func f).stopReq = true) (hheld : s.sageHeld f = false) (hrun : s.life? f = .running)
    (hpch : ∀ c, f ≠ .pch c) :
    Touch (.funcs :: (endParts ++ stopParts)) s (stopEffect f s) ∧ (stopEffect f s).life? f = .stopping ∧
      ((stopEffect f s).func f).stopReq = false ∧ ((stopEffect f s).func f).effect = s.now ∧
      (f ≠ .sage → ((stopEffect f s).func f).fade.up = false) ∧ ∀ k, k ≠ f → (stopEffect f s).func k = s.func k := by
  obtain ⟨⟨n, hn⟩, hne⟩ := stopBegun_func f (stopTaken f s)
  rw [stopTaken_func] at hn
  have htouch : Touch (.funcs :: (endParts ++ stopParts)) s (stopBegun f (stopTaken f s)) :=
    (stopBegun_touch f _).after ((stopTaken_touch f s).after (Touch.refl _ s) rfl) rfl
  have hne' : ∀ k, k ≠ f → (stopBegun f (stopTaken f s)).func k = s.func k := fun k hk =>
    (hne k hk).trans (stopTaken_func_ne hk s)
  by_cases hsage : f = .sage
  · subst hsage
    rw [stopEffect_running hreq hheld hrun]
    refine ⟨htouch, ?_, ?_, ?_, fun h => absurd rfl h, hne'⟩
    · exact (congrArg FuncRec.state hn).trans rfl
    · exact (congrArg FuncRec.stopReq hn).trans rfl
    · exact (congrArg FuncRec.effect hn).trans rfl
  · have heq : stopEffect f s = fadeOut f (stopBegun f (stopTaken f s)) := by
      rw [stopEffect_running hreq hheld hrun]
      cases f with
      | sage => exact absurd rfl hsage
      | pch c => exact absurd rfl (hpch c)
      | pathA | pathB | streamRx | streamTx | timekeeper | lovage | decim | pdm | tdm0 | tdm1 | sc n | service | memctl | capture => rfl
    rw [heq]
    generalize stopBegun f (stopTaken f s) = u at *
    have hfunc : (fadeOut f u).func f = { u.func f with fade := (u.func f).fade.go false (u.fadeTime f) } := State.func_onFunc ..
    rw [hn] at hfunc
    refine ⟨(fadeOut_touch f u).after htouch rfl, ?_, ?_, ?_, fun _ => ?_, fun k hk => ?_⟩
    · exact (congrArg FuncRec.state hfunc).trans rfl
    · exact (congrArg FuncRec.stopReq hfunc).trans rfl
    · exact (congrArg FuncRec.effect hfunc).trans rfl
    · rw [hfunc]
      exact fade_go_down _ _
    · exact (State.func_onFunc_of_ne _ _ hk).trans (hne' k hk)

/-- The stop of a function in STOPPED or FAULTED. -/
theorem stopEffect_rests (hreq : (s.func f).stopReq = true) (hheld : s.sageHeld f = false)
    (hrest : s.life? f = .stopped ∨ s.life? f = .faulted) :
    stopEffect f s = (if (s.func f).offReq = true
      then enterOff f ((if s.life? f == .faulted then s.setLife f .stopped else s).onFunc f FuncRec.stopDropped)
      else (if s.life? f == .faulted then s.setLife f .stopped else s).onFunc f FuncRec.stopDropped).endStops f stOk := by
  have hcond : ¬(s.life? f == .off) = true ∧ (s.life? f == .stopped || s.life? f == .faulted) = true := by
    rcases hrest with h | h <;> rw [h] <;> exact ⟨by decide, rfl⟩
  have hoff : ∀ t : State, (t = s.setLife f .stopped ∨ t = s) → ((t.onFunc f FuncRec.stopDropped).func f).offReq = (s.func f).offReq := by
    rintro t (rfl | rfl)
    · rw [State.func_onFunc, func_setLife]
      rfl
    · rw [State.func_onFunc]
      rfl
  unfold stopEffect
  extract_lets st s1 s2 s3
  rw [if_neg (by rw [hreq]; exact Bool.false_ne_true), if_neg (by rw [hheld]; exact Bool.false_ne_true), if_neg hcond.1, if_pos hcond.2]
  have hs2 : ((s2.func f).offReq = true) = ((s.func f).offReq = true) := by
    refine congrArg (· = true) (hoff s1 ?_)
    by_cases h : (st == .faulted) = true
    · exact Or.inl (if_pos h)
    · exact Or.inr (if_neg h)
  exact congrArg (fun t => State.endStops f stOk t) (if_congr (iff_of_eq hs2) rfl rfl)

/-- The record that a stop leaves of a function in STOPPED or FAULTED, before an OFF that was asked for. -/
theorem rested_life? (hrest : s.life? f = .stopped ∨ s.life? f = .faulted) :
    ((if s.life? f == .faulted then s.setLife f .stopped else s).onFunc f FuncRec.stopDropped).life? f = .stopped := by
  rw [State.life?, State.func_onFunc]
  rcases hrest with h | h
  · rw [if_neg (by rw [h]; decide)]
    exact h
  · rw [if_pos (by rw [h]; rfl), func_setLife]
    rfl

theorem stopEffect_stopped (hreq : (s.func f).stopReq = true) (hheld : s.sageHeld f = false)
    (hrest : s.life? f = .stopped ∨ s.life? f = .faulted) (hoff : (s.func f).offReq = false) :
    Touch (.funcs :: endParts) s (stopEffect f s) ∧ (stopEffect f s).life? f = .stopped := by
  rw [stopEffect_rests hreq hheld hrest, if_neg (Bool.eq_false_iff.1 hoff)]
  have hfirst : Touch (.funcs :: endParts) s (if s.life? f == .faulted then s.setLife f .stopped else s) :=
    Touch.ite ((State.setLife_touch f .stopped s).after (Touch.refl _ s) rfl) (Touch.refl _ s)
  have hends := endStops_quiet f stOk ((if s.life? f == .faulted then s.setLife f .stopped else s).onFunc f FuncRec.stopDropped)
  exact ⟨hends.after ((State.onFunc_touch f _ _).after hfirst rfl) rfl,
    (congrArg FuncRec.state (hends.func_eq f)).trans (rested_life? hrest)⟩

theorem stopEffect_off (hreq : (s.func f).stopReq = true) (hheld : s.sageHeld f = false)
    (hrest : s.life? f = .stopped ∨ s.life? f = .faulted) (hoff : (s.func f).offReq = true) :
    (stopEffect f s).life? f = .off := by
  rw [stopEffect_rests hreq hheld hrest, if_pos hoff, State.life?, (State.endStops_touch ..).func_eq, enterOff_func]

/-- The stop of a function in OFF powers it, where its side is powered. -/
theorem stopEffect_powers (hreq : (s.func f).stopReq = true) (hheld : s.sageHeld f = false) (hst : s.life? f = .off)
    (hoff : (s.func f).offReq = false) (hv : f.hv = false) : (stopEffect f s).life? f = .stopped := by
  have heq : stopEffect f s = (((s.setLife f .stopped).onFunc f FuncRec.stopDropped).endStops f stOk) := by
    unfold stopEffect
    extract_lets st
    have hst' : (st == .off) = true := by rw [show st = .off from hst]; rfl
    rw [if_neg (by rw [hreq]; exact Bool.false_ne_true), if_neg (by rw [hheld]; exact Bool.false_ne_true), if_pos hst',
      if_neg (Bool.eq_false_iff.1 hoff), if_neg (by rw [hv]; exact Bool.false_ne_true)]
    rfl
  rw [heq, State.life?, (State.endStops_touch ..).func_eq, State.func_onFunc, func_setLife]
  rfl

end
end Sys2Proof.Machine
end

section

/-! PROOFS. STOP_EFFECT and the end of a stop (R75, R78, R79). -/

namespace Sys2Proof.Machine
open Sys2Proof

set_option Elab.async false

section
variable {f : Func} {s : State}

/-- The stop of a channel leads to STOPPING, whatever its phase. -/
theorem pchStop_func_self (c : Fin 4) (cause : Byte) (s : State) : ∃ n fade,
    (pchStop c cause s).func (.pch c) = { s.func (.pch c) with state := .stopping, lastChange := n, fade } := by
  unfold pchStop
  extract_lets fade s0 s1 p s2
  have h2 : s2.func (.pch c) = { s.func (.pch c) with state := .stopping, lastChange := s0.now } := by
    rw [State.func_onPch, func_setLife, (endTest_touch ..).func_eq]
  repeat' split
  case isTrue => exact ⟨_, _, (State.func_onPch ..).trans h2⟩
  case isTrue =>
    refine ⟨s0.now, (s.func (.pch c)).fade.go false fade, ?_⟩
    rw [State.func_onFunc, State.func_onPch, h2]
  case isTrue => exact ⟨_, _, (State.func_onPch ..).trans h2⟩
  case isTrue => exact ⟨_, _, (State.func_onPch ..).trans h2⟩
  case isFalse => exact ⟨_, _, h2⟩

theorem stopEffect_pch {c : Fin 4} (hreq : (s.func (.pch c)).stopReq = true) (hrun : s.life? (.pch c) = .running) :
    (stopEffect (.pch c) s).life? (.pch c) = .stopping ∧ ((stopEffect (.pch c) s).func (.pch c)).stopReq = false ∧
      ∀ k, k ≠ .pch c → (stopEffect (.pch c) s).func k = s.func k := by
  rw [stopEffect_running hreq rfl hrun]
  dsimp only
  obtain ⟨n, fade, hfunc⟩ := pchStop_func_self c 0 (stopTaken (.pch c) s)
  rw [stopTaken_func] at hfunc
  refine ⟨?_, ?_, fun k hk => (pchStop_func_ne hk 0 _).trans (stopTaken_func_ne hk s)⟩
  · exact (congrArg FuncRec.state hfunc).trans rfl
  · exact (congrArg FuncRec.stopReq hfunc).trans rfl

theorem stopDue_due (h : (s.func f).stopReq = true) :
    stopDue f s = if s.dueSince (s.func f).stopAfter = true then stopEffect f s else s := by
  unfold stopDue
  extract_lets r
  rw [show r.stopReq = true from h, Bool.true_and]
  rfl

theorem stopEffect_atBoundary (hlive : s.halted (islandOf f) = false) :
    DoesAt (.stopEffect f) s (islandOf f) fun b t => b.noneDue (islandOf f) → (b.func f).stopReq = true →
    (b.dueSince (b.func f).stopAfter = true → b.sageHeld f = false →
      (b.life? f = .running → (∀ c, f ≠ .pch c) → Only [.funcs, .jobs, .acts, .rings, .link, .reqs, .time, .strm, .loc, .pwr, .log, .pages, .portA, .portB, .path, .cnt, .free] b t ∧
        t.life? f = .stopping ∧ (t.func f).stopReq = false ∧ (t.func f).effect = b.now ∧ (f ≠ .sage → (t.func f).fade.up = false) ∧
        ∀ k : Func, k ≠ f → t.func k = b.func k) ∧
      (∀ c, f = .pch c → b.life? f = .running → 2 ≤ (b.pch c).phase.toNat → (b.pch c).phase.toNat ≤ 5 →
        t.life? f = .stopping ∧ (t.func f).stopReq = false ∧ ∀ k : Func, k ≠ f → t.func k = b.func k) ∧
      (b.life? f = .off → (b.func f).offReq = false → f.hv = false → t.life? f = .stopped) ∧
      (b.life? f = .stopped ∨ b.life? f = .faulted → (b.func f).offReq = false → t.life? f = .stopped) ∧
      (b.life? f = .stopped ∨ b.life? f = .faulted → (b.func f).offReq = true → t.life? f = .off)) ∧
    (b.dueSince (b.func f).stopAfter = false → t = b) := by
  have hexec : exec (.stopEffect f) s = .next (boundaryDo (islandOf f) (fun s => stopDue f (actsDue (islandOf f) s)) s) := by
    rw [exec_stopEffect, execStopEffect, if_neg (Bool.eq_false_iff.1 hlive)]
  refine doesAt_boundaryDo hexec (fun b => ?_) fun b hnone hreq => ?_
  · exact (stopDue_touch f _).queue.trans (actsDue_touch _ b).queue
  rw [actsDue_none hnone, stopDue_due hreq]
  refine ⟨fun hdue hheld => ?_, fun hdue => if_neg (Bool.eq_false_iff.1 hdue)⟩
  rw [if_pos hdue]
  refine ⟨fun hrun hpch => ?_, fun c hf hrun _ _ => ?_, stopEffect_powers hreq hheld, fun hrest hoff => ?_, stopEffect_off hreq hheld⟩
  · obtain ⟨ht, hrest⟩ := stopEffect_fades hreq hheld hrun hpch
    exact ⟨ht.only rfl, hrest⟩
  · subst hf
    exact stopEffect_pch hreq hrun
  · exact (stopEffect_stopped hreq hheld hrest hoff).2

/-- A stop out of FAULTED leaves the island as it stands. -/
theorem stopEffect_halted (hhalt : s.halted (islandOf f) = true) (hreq : (s.func f).stopReq = true) (hst : s.life? f = .faulted)
    (hoff : (s.func f).offReq = false) (hheld : s.sageHeld f = false) :
    Does (.stopEffect f) s [.funcs, .jobs, .acts, .rings, .reqs] fun t =>
      t.life? f = .stopped ∧ t.halted (islandOf f) = true := by
  have hexec : exec (.stopEffect f) s = .next (stopEffect f s) := by
    rw [exec_stopEffect, execStopEffect, if_pos hhalt]
  obtain ⟨ht, hlife⟩ := stopEffect_stopped hreq hheld (Or.inr hst) hoff
  exact Touch.does ht hexec ⟨hlife,
    (congrArg (fun x : TimeSt => x.halted.getLsbD (islandIdx (islandOf f))) ht.time_eq).trans hhalt⟩

/-! The parameters as a function reaches STOPPED or OFF. -/

theorem Store.get?_filter_none {α : Type} {p : Nat × α → Bool} {k : Nat} (h : ∀ v, p (k, v) = false) (m : Store α) :
    Store.get? (m.filter p) k = none := by
  induction m with
  | nil => rfl
  | cons e r ih =>
    obtain ⟨j, v⟩ := e
    by_cases hp : p (j, v) = true
    · rw [List.filter_cons_of_pos hp]
      have hj : ¬ j = k := fun hj => absurd ((hj ▸ hp).symm.trans (h v)) (by decide)
      exact (if_neg hj).trans ih
    · rw [List.filter_cons_of_neg hp]
      exact ih

/-- A parameter that OFF keeps is one of a core's own words. -/
theorem dropParams_keeps {p : Nat} (hp : p / 2 ^ 24 = f.id.toNat) (s : State) :
    (s.dropParams f).life.params.get? p = none ∨ ∃ n, f = .sc n ∧ 0x100000 ≤ p % 2 ^ 24 := by
  have hself : (p / 2 ^ 24 != f.id.toNat) = false := by rw [hp, bne_self_eq_false]
  by_cases hword : ∃ n, f = .sc n ∧ 0x100000 ≤ p % 2 ^ 24
  · exact Or.inr hword
  · refine Or.inl ?_
    unfold State.dropParams
    extract_lets word
    have hw : word p = false := by
      unfold word
      cases f with
      | sc n => exact decide_eq_false fun hle => hword ⟨n, rfl, hle⟩
      | pathA | pathB | streamRx | streamTx | timekeeper | lovage | capture | decim | pdm | tdm0 | tdm1 | service | memctl | pch c
        | sage => rfl
    exact Store.get?_filter_none (fun v => by rw [hself, Bool.false_or]; exact hw) s.life.params

theorem stoppedAt_params (f : Func) (s : State) : (stoppedAt f s).life.params = s.life.params :=
  (dropRequests_touch ..).params_eq.trans ((State.onFunc_touch ..).params_eq.trans ((State.setLife_touch ..).params_eq.trans
    (stopWork_touch f s).params_eq))

theorem enterOff_params (f : Func) (s : State) : (enterOff f s).life.params = ((s.setLife f .off).dropParams f).life.params :=
  (State.onFunc_touch ..).params_eq.trans ((clearIsland_touch ..).params_eq.trans (offPtp_touch ..).params_eq)

theorem enterStopped_params_stay (h : (s.func f).offReq = false) : (enterStopped f s).life.params = s.life.params := by
  rw [enterStopped_eq, stoppedAt_func, if_neg (Bool.eq_false_iff.1 h), (State.endStops_touch ..).params_eq, stoppedAt_params]

theorem enterStopped_params_off (h : (s.func f).offReq = true) {p : Nat} (hp : p / 2 ^ 24 = f.id.toNat) :
    (enterStopped f s).life.params.get? p = none ∨ ∃ n, f = .sc n ∧ 0x100000 ≤ p % 2 ^ 24 := by
  rw [enterStopped_eq, stoppedAt_func, if_pos h, (State.endStops_touch ..).params_eq, enterOff_params]
  exact dropParams_keeps hp _

theorem stopFadeComplete_doesAt : DoesAt (.stopFadeComplete f) s (islandOf f) (fun b t =>
    (stopDone f b = true → Only [.funcs, .params, .jobs, .acts, .rings, .link, .reqs, .portA, .portB, .path, .time, .strm, .lov, .cores,
        .loc, .pwr, .memc, .mem, .cnt] b t ∧ (∀ k : Func, k ≠ f → t.func k = b.func k) ∧
      ((b.func f).offReq = false → t.life? f = .stopped ∧ t.life.params = b.life.params ∧ (t.func f).config = (b.func f).config) ∧
      ((b.func f).offReq = true → t.life? f = .off ∧ (t.func f).config = none ∧
        ∀ p, p / 2 ^ 24 = f.id.toNat → (t.life.params.get? p = none ∨ ∃ n, f = .sc n ∧ 0x100000 ≤ p % 2 ^ 24))) ∧
    (stopDone f b = false → t = b)) := by
  refine doesAt_boundaryDo (g := fun s => if stopDone f s then enterStopped f s else s)
    (by rw [exec_stopFadeComplete, execStopFadeComplete]) (fun b => ?_) fun b => ⟨fun hdone => ?_, fun hdone => ?_⟩
  · exact (Touch.ite (enterStopped_touch f b) (Touch.refl _ b)).queue
  · rw [if_pos hdone]
    refine ⟨(enterStopped_touch f b).only rfl, fun k hk => enterStopped_func_ne hk b, fun hoff => ?_, fun hoff => ?_⟩
    · have hfunc := enterStopped_stays hoff
      exact ⟨(congrArg FuncRec.state hfunc).trans rfl, enterStopped_params_stay hoff, (congrArg FuncRec.config hfunc).trans rfl⟩
    · obtain ⟨hstate, hconfig⟩ := enterStopped_off hoff
      exact ⟨hstate, hconfig, fun p hp => enterStopped_params_off hoff hp⟩
  · rw [if_neg (Bool.eq_false_iff.1 hdone)]

end
end Sys2Proof.Machine
end

section

/-! PROOFS. The fault of a function (R77, R80), and what a function's life cycle is. -/

namespace Sys2Proof.Machine
open Sys2Proof

set_option Elab.async false

/-- What a fault records: where the function stands, the cause, the tick, the count and the event. -/
structure FaultMark (f : Func) (cause : Byte) (s t : State) : Prop where
  state : t.life? f = .faulted
  cause : (t.func f).cause = cause
  time : (t.func f).lastChange = s.now
  count : (t.func f).faultCount = if (s.func f).faultCount = 0xFFFF then (s.func f).faultCount else (s.func f).faultCount + 1
  event : t.eventSet 1 = true

section
variable {f k : Func} {s t u : State} {cause : Byte}

theorem eventSet_enterFaulted (f : Func) (cause : Byte) (data : DWord) (s : State) : (enterFaulted f cause data s).eventSet 1 = true := by
  unfold enterFaulted
  extract_lets s1 s2
  exact eventSet_logEntry _ _ _ _ _ (eventSet_raise_self (by decide) s2)

theorem enterFaulted_mark (hfunc : t.func f = s.func f) (hnow : t.now = s.now) (cause : Byte) (data : DWord) :
    FaultMark f cause s (enterFaulted f cause data t) := by
  have h := enterFaulted_func f cause data t
  rw [hfunc, hnow] at h
  exact ⟨(congrArg FuncRec.state h).trans rfl, (congrArg FuncRec.cause h).trans rfl, (congrArg FuncRec.lastChange h).trans rfl,
    (congrArg FuncRec.faultCount h).trans rfl, eventSet_enterFaulted f cause data t⟩

/-- The mark of a fault stays while nothing but the gain of the function moves. -/
theorem FaultMark.keep (h : FaultMark f cause s t) {fade : Fade} (hfunc : u.func f = { t.func f with fade })
    (hevent : u.eventSet 1 = t.eventSet 1) : FaultMark f cause s u := by
  obtain ⟨hstate, hcause, htime, hcount, hset⟩ := h
  exact ⟨(congrArg FuncRec.state hfunc).trans hstate, (congrArg FuncRec.cause hfunc).trans hcause,
    (congrArg FuncRec.lastChange hfunc).trans htime, (congrArg FuncRec.faultCount hfunc).trans hcount, hevent.trans hset⟩

theorem FaultMark.same (h : FaultMark f cause s t) (hfunc : u.func f = t.func f) (hevent : u.eventSet 1 = t.eventSet 1) :
    FaultMark f cause s u :=
  h.keep (fade := (t.func f).fade) hfunc hevent

theorem FaultMark.after {ps : List Part} (h : FaultMark f cause s t) (k : Touch ps t u) (hf : ps.contains .funcs = false := by rfl)
    (hp : ps.contains .pages = false := by rfl) : FaultMark f cause s u :=
  h.same (k.func_eq f hf) (k.eventSet_eq 1 hp)

/-! The work that a fault ends. -/

/-- What a fault ends before it is recorded. -/
def faultLeave (f : Func) (s : State) : State :=
  match f with
  | .sc n => (landAll n s).onCore n fun c => { c with exec := .halted, waitXf := none, retExec := .waiting, trapHandler := false }
  | .timekeeper => stopPtp .a (stopPtp .b (enterHoldover s))
  | .capture => abortRuns s
  | _ => leaveWork f s

abbrev leaveParts : List Part := [.cores, .mem, .pages, .time, .cnt, .jobs, .rings, .link, .reqs, .portA, .portB, .path, .strm, .lov, .loc, .pwr]

theorem faultLeave_touch (f : Func) (s : State) : Touch leaveParts s (faultLeave f s) := by
  have hleave : Touch leaveParts s (leaveWork f s) := (leaveWork_touch f s).after (Touch.refl _ s) rfl
  cases f with
  | sc n => exact Touch.onCore ((landAll_touch n s).after (Touch.refl _ s) rfl) rfl
  | timekeeper =>
    have h1 : Touch leaveParts s (enterHoldover s) := (enterHoldover_touch s).after (Touch.refl _ s) rfl
    exact (stopPtp_touch .a _).after ((stopPtp_touch .b _).after h1 rfl) rfl
  | capture => exact (abortRuns_touch s).after (Touch.refl _ s) rfl
  | pathA | pathB | streamRx | streamTx | lovage | decim | pdm | tdm0 | tdm1 | pch c | service | memctl | sage => exact hleave

theorem enterHoldover_now (s : State) : (enterHoldover s).now = s.now := by
  have hstep (u : State) : (withdrawStep u).now = u.now := by
    unfold withdrawStep
    split <;> rfl
  have href (u : State) : (if s.time.ref = 0 then u else setRef 0 u).now = u.now := by
    split <;> rfl
  unfold enterHoldover
  extract_lets held s1 s2
  have h1 : s1.now = s.now := by
    refine (hstep _).trans ?_
    split <;> rfl
  split
  · rfl
  · exact (href s1).trans h1

theorem faultLeave_now (f : Func) (s : State) : (faultLeave f s).now = s.now := by
  have hleave : (leaveWork f s).now = s.now := (leaveWork_touch f s).now_eq
  cases f with
  | sc n => exact (landAll_touch n s).now_eq
  | timekeeper => exact enterHoldover_now s
  | capture => exact (abortRuns_touch s).now_eq
  | pathA | pathB | streamRx | streamTx | lovage | decim | pdm | tdm0 | tdm1 | pch c | service | memctl | sage => exact hleave

/-- What follows once a fault is recorded: requests are dropped, and the channels at work under SAGE stop. -/
def faultAfter (f : Func) (cause : Byte) (s u : State) : State :=
  match f with
  | .sage => if cause = 5 then u else forAll (allPch.filter fun c => (s.life? (.pch c)).busy) (fun c s => pchStop c 9 s) u
  | .timekeeper => u
  | _ => dropRequests f u

theorem faultFunc_eq (h : s.faults f cause = true) (hpch : ∀ c, f ≠ .pch c) (data : DWord) :
    faultFunc f cause data s = faultAfter f cause s (enterFaulted f cause data (faultLeave f s)) := by
  rw [State.faults] at h
  unfold faultFunc
  dsimp only
  rw [if_neg (by rw [h]; decide)]
  cases f with
  | pch c => exact absurd rfl (hpch c)
  | pathA | pathB | streamRx | streamTx | timekeeper | lovage | capture | decim | pdm | tdm0 | tdm1 | sc n | service | memctl | sage => rfl

/-- Behind a fault the stops of channels reach the channels alone. -/
theorem faultAfter_func (hk : f = .sage → ∀ c, k ≠ .pch c) (cause : Byte) (s u : State) : (faultAfter f cause s u).func k = u.func k := by
  have hdrop : (dropRequests f u).func k = u.func k := (dropRequests_touch f u).func_eq k
  cases f with
  | sage =>
    unfold faultAfter
    dsimp only
    split
    · rfl
    · exact forAll_keeps (State.func · k) (fun c _ t => pchStop_func_ne (hk rfl c) 9 t) u
  | timekeeper => rfl
  | pathA | pathB | streamRx | streamTx | lovage | capture | decim | pdm | tdm0 | tdm1 | sc n | service | memctl | pch c => exact hdrop

theorem faultAfter_eventSet (f : Func) (cause : Byte) (s u : State) : (faultAfter f cause s u).eventSet 1 = u.eventSet 1 := by
  have hdrop : (dropRequests f u).eventSet 1 = u.eventSet 1 := (dropRequests_touch f u).eventSet_eq 1
  cases f with
  | sage =>
    unfold faultAfter
    dsimp only
    split
    · rfl
    · exact forAll_keeps (State.eventSet · 1) (fun c _ t => (pchStop_touch c 9 t).eventSet_eq 1) u
  | timekeeper => rfl
  | pathA | pathB | streamRx | streamTx | lovage | capture | decim | pdm | tdm0 | tdm1 | sc n | service | memctl | pch c => exact hdrop

/-! The fault of a channel opens its bridge or begins a fast stop. -/

theorem fastStop_func (c : Fin 4) (s : State) : ∃ fade, (fastStop c s).func (.pch c) = { s.func (.pch c) with fade } :=
  fastStop_cases (fun t => ∃ fade, t.func (.pch c) = { s.func (.pch c) with fade })
    (fun _ => ⟨_, by rw [State.func_onPch, openSwitches_func]⟩)
    (fun _ _ => ⟨_, by rw [State.func_onFunc, State.func_onPch]⟩)
    (fun _ => ⟨_, rfl⟩)

theorem faultPch_mark (c : Fin 4) (cause : Byte) (data : DWord) (s : State) :
    FaultMark (.pch c) cause s (faultPch c cause data s) := by
  have hend := endTest_touch c stBadState s
  have hmark := enterFaulted_mark (s := s) (hend.func_eq (.pch c)) hend.now_eq cause data
  unfold faultPch
  extract_lets s1 s2
  have h2 : FaultMark (.pch c) cause s s2 := hmark.after (State.onPch_touch c _ s1)
  split
  · exact h2.keep (openSwitches_func c s2) ((openSwitches_touch c s2).eventSet_eq 1)
  · obtain ⟨fade, hfade⟩ := fastStop_func c s2
    exact h2.keep hfade ((fastStop_touch c s2).eventSet_eq 1)

theorem faultFunc_mark (h : s.faults f cause = true) (data : DWord) : FaultMark f cause s (faultFunc f cause data s) := by
  by_cases hpch : ∃ c, f = .pch c
  · obtain ⟨c, rfl⟩ := hpch
    rw [faultFunc_pch h]
    exact faultPch_mark c cause data s
  · rw [faultFunc_eq h (not_exists.1 hpch)]
    have hmark := enterFaulted_mark (s := s) ((faultLeave_touch f s).func_eq f) (faultLeave_now f s) cause data
    exact hmark.same (faultAfter_func (fun hf c hc => Func.noConfusion (hf.symm.trans hc)) cause s _)
      (faultAfter_eventSet f cause s _)

/-- No other function changes with a fault, but the channels that a fault of SAGE stops. -/
theorem faultFunc_func_ne (hk : k ≠ f) (hsage : f = .sage → ∀ c, k ≠ .pch c) (cause : Byte) (data : DWord) (s : State) :
    (faultFunc f cause data s).func k = s.func k := by
  cases h : s.faults f cause with
  | false => rw [faultFunc_idle h]
  | true =>
    by_cases hpch : ∃ c, f = .pch c
    · obtain ⟨c, rfl⟩ := hpch
      rw [faultFunc_pch h, faultPch_func_ne hk]
    · rw [faultFunc_eq h (not_exists.1 hpch), faultAfter_func hsage, enterFaulted_func_ne hk, (faultLeave_touch f s).func_eq]

end
end Sys2Proof.Machine
end

section

/-! PROOFS. START_TIMEOUT and FUNCTION_FAULT, and the life cycle of a function. -/

namespace Sys2Proof.Machine
open Sys2Proof

set_option Elab.async false

section
variable {f : Func} {s : State}

theorem faults_of_busy (h : (s.life? f).busy = true) (cause : Byte) : s.faults f cause = true := by
  rw [State.faults, h]
  rfl

theorem faults_idle (h : s.life? f = .off ∨ s.life? f = .faulted) (cause : Byte) : s.faults f cause = false := by
  rcases h with h | h <;> rw [State.faults, h] <;> rfl

theorem faults_of_causes {cause : Byte}
    (h : (s.life? f).busy = true ∨ (s.life? f = .stopped ∧ (cause = 1 ∨ (f.hv = true ∧ cause = 5)))) : s.faults f cause = true := by
  rcases h with h | ⟨h, hc⟩
  · exact faults_of_busy h cause
  · rw [State.faults, h]
    rcases hc with rfl | ⟨hv, rfl⟩
    · rfl
    · rw [hv]
      rfl

theorem startTimeout_doesAt : DoesAt (.startTimeout f) s (islandOf f) (fun b t =>
    (b.life? f = .starting → b.fsHz + startAllowance f b ≤ b.since f → t.life? f = .faulted ∧ (t.func f).cause = 0x08 ∧
      (f ≠ .sage → ∀ k : Func, k ≠ f → t.func k = b.func k)) ∧
    (b.life? f ≠ .starting ∨ b.since f < b.fsHz + startAllowance f b → t = b)) := by
  refine doesAt_boundaryDo (by rw [exec_startTimeout, execStartTimeout]) (fun b => (startExpire_touch f b).queue) fun b =>
    ⟨fun hst hlate => ?_, fun hwait => ?_⟩
  · have heq : startExpire f b = faultFunc f 8 0 b := by
      rw [startExpire, if_pos]
      rw [hst, decide_eq_true hlate]
      rfl
    have hmark := faultFunc_mark (f := f) (cause := 8) (faults_of_busy (by rw [hst]; rfl) 8) 0
    rw [heq]
    exact ⟨hmark.state, hmark.cause, fun hne k hk => faultFunc_func_ne hk (fun hf => absurd hf hne) 8 0 b⟩
  · rw [startExpire, if_neg]
    rw [Bool.and_eq_true, beq_iff_eq, decide_eq_true_eq]
    rintro ⟨hst, hlate⟩
    exact hwait.elim (fun h => h hst) fun h => absurd hlate (Nat.not_le_of_lt h)

theorem functionFault_exec {cause : Byte} (hfits : causeFits f cause = true) :
    exec (.functionFault f cause) s = .next (faultFunc f cause (causeData f cause s) s.freshen) := by
  rw [exec_functionFault, execFunctionFault, if_pos hfits]

theorem functionFault_does {cause : Byte} (hfits : causeFits f cause = true)
    (h : (s.life? f).busy = true ∨ (s.life? f = .stopped ∧ (cause = 1 ∨ (f.hv = true ∧ cause = 5)))) :
    Does (.functionFault f cause) s [.funcs, .jobs, .acts, .rings, .pages, .reqs, .link, .hostMem, .portA, .portB, .path, .time, .strm, .lov,
      .cores, .loc, .pwr, .memc, .mem, .log, .cnt, .free] fun t =>
      t.life? f = .faulted ∧ (t.func f).cause = cause ∧ (t.func f).lastChange = s.now ∧
      ((s.func f).faultCount ≠ 0xFFFF → (t.func f).faultCount = (s.func f).faultCount + 1) ∧
      t.host.hostPage.event.getLsbD 1 = true ∧ (f ≠ .sage → ∀ k : Func, k ≠ f → t.func k = s.func k) ∧
      (f = .sage → ∀ k : Func, k ≠ .sage → (∀ c, k ≠ .pch c) → t.func k = s.func k) := by
  have hfaults : s.freshen.faults f cause = true := faults_of_causes (s := s.freshen) h
  obtain ⟨hstate, hcause, htime, hcount, hevent⟩ := faultFunc_mark hfaults (causeData f cause s)
  refine Touch.does ((faultFunc_touch f cause _ _).after ((State.freshen_touch s).after (Touch.refl _ s) rfl) rfl)
    (functionFault_exec hfits) ⟨hstate, hcause, htime, fun hne => hcount.trans (if_neg hne), hevent, fun hne k hk => ?_, fun hf k hk hc => ?_⟩
  · exact faultFunc_func_ne hk (fun hf => absurd hf hne) cause _ s.freshen
  · exact faultFunc_func_ne (hf ▸ hk) (fun _ => hc) cause _ s.freshen

theorem functionFault_idle {cause : Byte} (hfits : causeFits f cause = true) (h : s.life? f = .off ∨ s.life? f = .faulted) :
    Does (.functionFault f cause) s [.free] fun _ => True := by
  have hidle : s.freshen.faults f cause = false := faults_idle (s := s.freshen) h cause
  exact Touch.does (State.freshen_touch s) ((functionFault_exec hfits).trans (by rw [faultFunc_idle hidle])) trivial

end

/-- Settles O22: each event of the life cycle runs at the boundary that its island's token opens, moves the function's own
record as its stage says, and leaves the other records. -/
theorem lifeCycle : Obligations.LifeCycle := by
  unfold Obligations.LifeCycle
  intro s f
  exact ⟨startEffect_atBoundary,
    fun hhalt hreq hfirst hstands hreset hv hne =>
      startEffect_resumes hhalt ⟨hreq, hfirst, hstands, hreset, fun h => absurd (h.symm.trans hv) (by decide)⟩ hv hne,
    startSequenceComplete_doesAt, stopEffect_atBoundary, stopEffect_halted, stopFadeComplete_doesAt, startTimeout_doesAt,
    fun _ => functionFault_does, fun _ => functionFault_idle⟩

end Sys2Proof.Machine
end
